-- ==== Sys2Proof/Word.lean ====
section
/-! DEFINITION. The word types of the node (R4): a register is one 32-bit word, memory and frames are bytes. -/

namespace Sys2Proof

/-- A register, or one argument word of a command (R4). -/
abbrev Word := BitVec 32

/-- One byte of a frame or of memory. -/
abbrev Byte := BitVec 8

end Sys2Proof
end

