-- ==== Sys2Proof/Syntax.lean ====
section
/-! DEFINITION. The commands of the block, one constructor per row of spec/opcode_table.json, and the data they carry:
frames, submission entries and the facts of an event that come from outside the node. Times are raw time in ns. -/

namespace Sys2Proof

/-- The tag of a VLAN frame: priority code point, drop eligible bit and VLAN ID. -/
structure Tci where
  pcp : Nat
  dei : Nat
  vid : Nat
  deriving DecidableEq, Repr

/-- An Ethernet frame from the destination address to the last byte before the FCS (R147). `body` is everything after
the EtherType: for a spine frame the 32-byte spine header, the payload and the pad. -/
structure Frame where
  dst : Nat
  src : Nat
  tag : Option Tci
  etype : Nat
  body : List Byte
  deriving DecidableEq, Repr

/-- What the FCS of a received frame is: correct, wrong, or the one's complement of the correct one (R170, R172). -/
inductive Fcs where
  | good
  | bad
  | stomped
  deriving DecidableEq, Repr

/-- How a frame arrived on the link: unprotected, or protected by MACsec with a key number, a packet number and the
verdict of the integrity check (R178 to R181). -/
inductive Sec where
  | plain
  | secTag (keyNum pn : Nat) (icvOk : Bool)
  deriving DecidableEq, Repr

/-- A frame received on a fabric port, with its ingress stamp in raw time (R80). The frame stands as it is after MACsec
is removed. `room` is the number of cells that the frame finds free in its pool, or in its stream's reservation, when its
first cell is written (R57 to R61), and `egress` the raw egress stamps of the copies sent on, by fabric port (R80): what
other frames occupy at that moment, and when each port is free, are matters of timing and come with the frame. -/
structure Rx where
  port : Nat
  frame : Frame
  fcs : Fcs
  sec : Sec
  stamp : Nat
  room : Nat
  egress : List (Nat × Nat)
  /-- The fragments after the first in which the frame arrived on a link with active preemption (R176). -/
  frags : Nat := 0
  deriving DecidableEq, Repr

/-- A submission entry (R636): opcode, flags byte, reserved byte, sequence and argument words 0 to 13. -/
structure SqEntry where
  opcode : Nat
  flags : Nat
  rsv : Nat
  seq : Nat
  args : List Word
  deriving DecidableEq, Repr

/-- A command that SC0 starts: the context and ring it came from, its entry, the bytes it reads from host memory at
the addresses its arguments name, and the raw time at which it starts. -/
structure Cmd where
  ctx : Nat
  ring : Nat
  entry : SqEntry
  data : List Byte
  time : Nat
  deriving DecidableEq, Repr


/-- A CAN frame on a vehicle bus (R528, R532): the identifier as `ID` places it, the format flags and the data bytes. -/
structure CanFrame where
  id : Nat
  ide : Bool
  rtr : Bool
  dlc : Nat
  fdf : Bool
  brs : Bool
  esi : Bool
  data : List Byte
  deriving DecidableEq, Repr

/-- A memory error met on the way: in on-chip SRAM at a location in the format of `TOP_ECC_LAST` (R72, R73, R92), or in DRAM at
an address (R727); whether it could be corrected. -/
structure EccFact where
  dram : Bool
  place : Nat
  uncorrectable : Bool
  deriving DecidableEq, Repr

/-- What the boot ROM finds of the octal SPI flash at reset release (R730): SFDP is valid, 8D-8D-8D is reached, the JEDEC identity,
the size in MiB, the clock in MHz, and for each slot the flash address at which a read of its header or directory ends in a
bus error. -/
structure FlashFacts where
  sfdp : Bool
  octal : Bool
  jedec : Nat
  size : Nat
  mhz : Nat
  busA : Option Nat
  busB : Option Nat
  deriving DecidableEq, Repr

/-- What the sections PORTS, KEYS and ENGINES of an image give in records whose layout the manual does not give: whether all
of these records are understood and in range; `SPN_IFTYPE` of ports 0 to 11; the MACsec key numbers of the spine ports;
EtherType, VID and wake code; the MDIO dividers; the filter rules as (rule, eight words); the PHY scripts of listen entry and
exit, and the loopback writes that set and clear a port's PHY loop, as (port, master, PHY address, register, data); and the
engines that the image gives code. -/
structure ImageFacts where
  sound : Bool
  iftypes : List Nat
  keyNums : List Nat
  etype : Nat
  vid : Nat
  wake : Nat
  mdioDivs : List Nat
  rules : List (Nat × List Word)
  scriptEnter : List (Nat × Nat × Nat × Nat × Nat)
  scriptExit : List (Nat × Nat × Nat × Nat × Nat)
  loopSet : List (Nat × Nat × Nat × Nat × Nat)
  loopClear : List (Nat × Nat × Nat × Nat × Nat)
  engines : Nat
  /-- The line keys of lines A and B (R179), and the code of each engine, as (engine, bytes) (R65). -/
  keyA : Nat := 0
  keyB : Nat := 0
  code : List (Nat × List Byte) := []
  deriving DecidableEq, Repr

/-- A command: one row of the table of operations and events. -/
inductive Instr where
  /-- REGISTER_WRITE (R666). A write to a register that has no row of its own, checked for form, world and ownership, power domain and occupancy, then applied. -/
  | registerWrite (ctx addr : Nat) (v : Word)
  /-- W1C_WRITE (R10). A write-1-to-clear write clears the set bits written, unless a hardware event sets the same bit in the same cycle. -/
  | w1cWrite (ctx addr : Nat) (v hw : Word)
  /-- RC_REGISTER_READ (R10). A read of a read-clear field returns its value and clears it, a setting event in the same cycle leaving it set. -/
  | rcRegisterRead (ctx addr : Nat) (hw : Word)
  /-- COUNTER_LOW_WORD_READ (R5). A read of the low word of a 64-bit counter latches the high word for the next high-word read from the same host context. -/
  | counterLowWordRead (ctx addr : Nat)
  /-- TOP_PLACE_READ (R40). A read of TOP_PLACE latches TOP_EPOCH for the next TOP_EPOCH read from the same host context. -/
  | topPlaceRead (ctx : Nat)
  /-- TMB_NOW_NS_READ (R307). A read of TMB_NOW_NS latches the seconds, fraction and last-wrap registers of the same instant. -/
  | tmbNowNsRead (ctx time : Nat)
  /-- REG_ACCESS_BAD (R666). A BAR0 TLP that is not one aligned 4-byte access is aborted or dropped, counted and reported. -/
  | regAccessBad (ctx addr len : Nat) (write : Bool)
  /-- VIOLATION_LOG_READ (R652). A read of WLD_VIOL_W3 removes the oldest violation-log entry. -/
  | violationLogRead (ctx : Nat)
  /-- SPI_STATUS_TRANSACTION (R627). An SPI status transaction returns the status byte and clears bits [3:1]. -/
  | spiStatusTransaction (port : Nat)
  /-- SPI_INVALID_TRANSACTION (R627). An SPI transaction with an unknown first byte or unaligned address is ignored and sets FORMAT. -/
  | spiInvalidTransaction (port : Nat)
  /-- SQ_TAIL_DOORBELL (R632). A write of HST_SQ_TAIL makes new commands of a submission ring visible to the node. -/
  | sqTailDoorbell (ctx ring : Nat) (v : Word)
  /-- CQ_HEAD_DOORBELL (R632). A write of HST_CQ_HEAD frees completion-ring entries read by software. -/
  | cqHeadDoorbell (ctx ring : Nat) (v : Word)
  /-- EVQ_HEAD_DOORBELL (R632). A write of HST_EVQ_HEAD frees event-ring entries read by software. -/
  | evqHeadDoorbell (ctx : Nat) (v : Word)
  /-- RING_SIZE_WRITE (R631). A write of a ring size register enables the ring, or is dropped for a bad size or an enabled ring. -/
  | ringSizeWrite (ctx addr : Nat) (v : Word)
  /-- FTX_TAIL_DOORBELL (R643). A write of HST_FTX_TAIL hands filled transmit descriptors of a PCIe frame ring to the node. -/
  | ftxTailDoorbell (ctx : Nat) (v : Word)
  /-- FRX_TAIL_DOORBELL (R643). A write of HST_FRX_TAIL posts receive buffers of a PCIe frame ring to the node. -/
  | frxTailDoorbell (ctx : Nat) (v : Word)
  /-- HOST_FRAME_TRANSMIT (R644). A frame from an FTX descriptor enters the host port as open traffic, or is discarded and counted. -/
  | hostFrameTransmit (ctx len frameTag flags : Nat) (frame : Frame) (time : Nat)
  /-- COMMAND_FETCH (R633). The node fetches the next submission entry once the completion ring has room, checks sequence, journal, token and share, and journals it. -/
  | commandFetch (ctx ring : Nat) (entry : SqEntry) (time : Nat)
  /-- UNDEFINED_OPCODE (R15). A command whose opcode is not defined completes with REJECT_ARGS and is journalled. -/
  | undefinedOpcode (c : Cmd)
  /-- HOST_FRAME_COMMANDS (R630). A command frame from a host-frame context is taken and its commands queued, further ones completing BUSY. -/
  | hostFrameCommands (r : Rx)
  /-- COMPLETION_FRAME_SEND (R630). The node sends a completion frame 100 µs after the first completion held, or at 46 held. -/
  | completionFrameSend (ctx time : Nat)
  /-- HOST_FRAME_LINK_TIMEOUT (R630). A host-frame context's car link down for 1 s triggers a context reset. -/
  | hostFrameLinkTimeout (ctx time : Nat)
  /-- CQ_IRQ_TIMER_EXPIRY (R635). The coalescing timer of a completion ring expires and fires its interrupt vector. -/
  | cqIrqTimerExpiry (ctx ring time : Nat)
  /-- HST_CTX_RESET_WRITE (R645). A write of HST_CTX_CTRL.RESET starts a context reset. -/
  | hstCtxResetWrite (ctx target : Nat) (v : Word)
  /-- CONTEXT_RESET (R645). A context reset completes: rings, TSQ, CAN locks, semaphores and slots are cleared and the event raised. -/
  | contextReset (ctx time : Nat)
  /-- PCIE_FUNCTION_LEVEL_RESET (R626). A function-level reset of PFn is a context reset of HCn. -/
  | pcieFunctionLevelReset (fn : Nat)
  /-- PCIE_LINK_DOWN (R626). Loss of the PCIe link resets HC0 to HC3. -/
  | pcieLinkDown (time : Nat)
  /-- PCIE_PERST (R773). PCIE_PERST_N low holds the endpoint in reset, acting on HC0 to HC3 as a link loss. -/
  | pciePerst (time : Nat)
  /-- HOST_DMA_ERROR (R626). A ring or descriptor DMA read ends in an error or no completion within 50 ms, stopping the ring. -/
  | hostDmaError (ctx ring cause time : Nat)
  /-- NODE_STATUS (R659). Command 0x0101 returns placement, epoch, inauguration, token and engine-fault state. -/
  | nodeStatus (c : Cmd)
  /-- NODE_NOP (R659). Command 0x0102 echoes its argument words and is not journalled. -/
  | nodeNop (c : Cmd)
  /-- CTX_RESET (R659). Command 0x0103 resets another host context. -/
  | ctxReset (c : Cmd)
  /-- CTX_INFO (R659). Command 0x0104 returns a context's configuration, status and journal share. -/
  | ctxInfo (c : Cmd)
  /-- JRN_STATUS (R659). Command 0x0B01 returns the oldest, newest and acknowledged sequences of a share. -/
  | jrnStatus (c : Cmd)
  /-- JRN_READ (R659). Command 0x0B02 returns journal entries, in the result or to host memory. -/
  | jrnRead (c : Cmd)
  /-- JRN_ACK (R659). Command 0x0B03 records the last sequence reconciled by the host. -/
  | jrnAck (c : Cmd)
  /-- JRN_CLEAR (R659). Command 0x0B04 clears a journal share except its own entry. -/
  | jrnClear (c : Cmd)
  /-- EVENT_ROUTE (R672). The router takes the next queued event, counts it, logs it, latches a first fatal and writes it to subscribing event rings. -/
  | eventRoute (time : Nat)
  /-- FAULT_LOG_WORD0_READ (R674). A read of word 0 of a fault-log record latches its other words for the reading context. -/
  | faultLogWord0Read (ctx index : Nat)
  /-- EVT_CLEAR_LOG (R675). Writing EVT_CLEAR.LOG clears the fault log, HEAD and EVT_LOG_TOTAL. -/
  | evtClearLog (ctx : Nat)
  /-- EVT_CLEAR_FATAL (R675). Writing EVT_CLEAR.FATAL empties the first-fatal latch. -/
  | evtClearFatal (ctx : Nat)
  /-- ENGINE_FAULT (R67). An engine's watchdog expires, its SRAM fails, it traps or asserts; it is held in reset with engine-specific outcomes. -/
  | engineFault (engine cause time : Nat)
  /-- ENGINE_FAULT_CLEAR (R69). Writing 1 to a TOP_ENG_FAULT bit clears the record without restarting the engine. -/
  | engineFaultClear (ctx : Nat) (v : Word)
  /-- SRAM_SCRUB (R74). The scrubber reads on-chip SRAM words and corrects or reports the errors it finds. -/
  | sramScrub (ecc : EccFact) (time : Nat)
  /-- RESET_RELEASE (R117). After reset release the boot ROM brings up flash and DRAM, checks both slot headers and chooses a slot. -/
  | resetRelease (strap : Nat) (flash : FlashFacts) (time : Nat)
  /-- BIST_RUN_COMPLETE (R693). The boot ROM finishes March C- on the requested memories and reports the result. -/
  | bistRunComplete (fail first time : Nat)
  /-- DRAM_TRAINING_DONE (R725). LPDDR4X training ends at a rate reached, disabling failed channels. -/
  | dramTrainingDone (sizes : List Nat) (rate failed : Nat) (eyes : List Word) (time : Nat)
  /-- IMAGE_CHECK_POINT (R788). The boot ROM reaches a check point of the load and applies the checks due there. -/
  | imageCheckPoint (facts : ImageFacts) (ecc : List EccFact) (bus : Option Nat) (time : Nat)
  /-- IMAGE_BOOTED (R122). The image's sections are applied, engines start and the node enters LINK. -/
  | imageBooted (time : Nat)
  /-- BOOT_ATTEMPT_CLEAR (R120). After 60 s of running without reset, the boot-attempt count returns to zero. -/
  | bootAttemptClear (time : Nat)
  /-- IMG_STATUS (R133). Command 0x0D01 returns IMG_STATE and IMG_TINT_STAT. -/
  | imgStatus (c : Cmd)
  /-- IMG_SLOT_ERASE (R123). Command 0x0D02 erases a slot image and its status block. -/
  | imgSlotErase (c : Cmd)
  /-- IMG_SLOT_WRITE (R123). Command 0x0D03 programs bytes into a slot from the staging buffer or host memory. -/
  | imgSlotWrite (c : Cmd)
  /-- IMG_SLOT_VERIFY (R133). Command 0x0D04 verifies a slot and reports the first failing reason. -/
  | imgSlotVerify (c : Cmd)
  /-- IMG_SLOT_MARK_BAD (R135). Command 0x0D05 marks a slot bad with reason 0x21. -/
  | imgSlotMarkBad (c : Cmd)
  /-- IMG_TINT_STAGE (R125). Command 0x0D06 checks a tint and stages it, replacing an unannounced staged tint. -/
  | imgTintStage (c : Cmd)
  /-- IMG_TINT_COMMIT (R127). Command 0x0D07 asks the master for a mode switch carrying the staged tint's tag. -/
  | imgTintCommit (c : Cmd)
  /-- IMG_TINT_DISCARD (R126). Command 0x0D08 discards the staged tint unless it is announced. -/
  | imgTintDiscard (c : Cmd)
  /-- IMG_ROLLBACK_ADVANCE (R113). Command 0x0D09 blows OTP thermometer bits up to the given count. -/
  | imgRollbackAdvance (c : Cmd)
  /-- IMG_RESTART (R135). Command 0x0D0A records a one-shot slot preference and starts a warm reset 1 ms after completing. -/
  | imgRestart (c : Cmd)
  /-- IMG_KEY_REVOKE (R114). Command 0x0D0B blows the revoke bit of a key index. -/
  | imgKeyRevoke (c : Cmd)
  /-- LINK_UP (R145). A port's PCS has held lock without fault for 10 ms and the link is declared up. -/
  | linkUp (port rate time : Nat)
  /-- LINK_DOWN (R145). A port's PCS has lost lock or signalled fault for 10 µs and the link is declared down. -/
  | linkDown (port : Nat) (cut : List (Nat × Frame)) (time : Nat)
  /-- MACSEC_MISMATCH (R181). A MACsec port has passed no frame 10 ms after link-up, or meets a mismatch, and carries nothing. -/
  | macsecMismatch (port cause time : Nat)
  /-- PREEMPT_VERIFY_ATTEMPT (R175). The 10 ms preemption verify interval expires and another verify attempt is made. -/
  | preemptVerifyAttempt (port time : Nat)
  /-- ADMIN_DOWN_WRITE (R190). A write of SPN_CTRL.ADMIN_DOWN holds a port's link down or releases it. -/
  | adminDownWrite (ctx port : Nat) (v : Word)
  /-- WAKE_SEND_WRITE (R186). Writing SPN_CTRL.WAKE_SEND switches FA or RA to 1000BASE-X to send 100 wake frames. -/
  | wakeSendWrite (ctx port : Nat) (v : Word)
  /-- WAKE_SEND_AUTO (R186). 100 ms after entering LINK, the node sets WAKE_SEND on FA and RA whose link is still down. -/
  | wakeSendAuto (time : Nat)
  /-- WAKE_FRAME_SEND (R186). At each 1 ms interval the port sends the next wake frame, returning to its type after 100. -/
  | wakeFrameSend (port time : Nat)
  /-- FILTER_RULE_WRITE (R164). A write to a filter rule word changes the rule, word 0x00 making it effective and a HITS write clearing it. -/
  | filterRuleWrite (ctx rule wordIndex : Nat) (v : Word)
  /-- MDIO_GO_WRITE (R195). A write of SPN_MDIO_CMD with GO starts an MDIO frame unless the master is busy. -/
  | mdioGoWrite (ctx master : Nat) (v : Word)
  /-- MDIO_FRAME_DONE (R195). An MDIO frame completes, setting DONE and the read data. -/
  | mdioFrameDone (master data time : Nat)
  /-- OPEN_FRAME_RECEIVED (R160). An open frame passes receive checks and is forwarded by the first matching filter rule or discarded. -/
  | openFrameReceived (r : Rx)
  /-- MAC_CONTROL_FRAME_RECEIVED (R183). A frame with EtherType 0x8808 is discarded and counted. -/
  | macControlFrameReceived (r : Rx)
  /-- SLOT_FRAME_RECEIVED (R394). A SLOT frame is checked, acceptance-windowed, clash-checked, forwarded in its slots and tracked for duplicates. -/
  | slotFrameReceived (r : Rx)
  /-- STATUS_FRAME_RECEIVED (R397). A status frame is kept once per source and cycle, giving its mode, acknowledgement and pending data. -/
  | statusFrameReceived (r : Rx)
  /-- REF_RECEIVED (R209). A REF is accepted or discarded, forwarded with correction, and drives cycle, time servo, mode, switch and master adoption. -/
  | refReceived (r : Rx)
  /-- CYCLE_BOUNDARY (R199). At t_n the node begins a cycle: switches mode, commits epochs, applies tints and ends the bleed window as announced. -/
  | cycleBoundary (time : Nat)
  /-- REF_LOST (R323). No REF accepted by t_(n+1): the cycle is counted, the node holds over and reports the loss. -/
  | refLost (time : Nat)
  /-- BACKUP_TAKEOVER_CLAIM (R323). At t_(n+3+k) a backup with index k and no REF starts claiming with HOLD. -/
  | backupTakeoverClaim (time : Nat)
  /-- ORPHANED (R287). After 24 cycles without REF the node enters LISTEN and presents safe values. -/
  | orphaned (time : Nat)
  /-- TAKE_INSTANT (R221). 2,000 ns before a slot the node takes the latest completed buffer of an originated stream. -/
  | takeInstant (stream time : Nat)
  /-- ORIGINATED_SLOT_SEND (R213). At its slot start the node sends an originated scheduled frame, status frames included, and hands the cross-feed copy. -/
  | originatedSlotSend (stream time : Nat)
  /-- FORWARD_GATE_OPEN (R214). At a forwarded slot start the TC6 gate opens and a waiting frame starts. -/
  | forwardGateOpen (stream port time : Nat)
  /-- SLOT_OVERRUN (R216). A frame still on the wire when the next guard ends is stomped and reported. -/
  | slotOverrun (stream port time : Nat)
  /-- CLOSING_GUARD_START (R203). At the closing guard every port closes TC6 to TC0 gates and asserts hold. -/
  | closingGuardStart (time : Nat)
  /-- POLL_SEND (R226). At the polled window the master polls nodes that signalled PENDING. -/
  | pollSend (time : Nat)
  /-- POLL_RECEIVED (R227). A polled node sends its waiting messages within budget and one REPLY. -/
  | pollReceived (r : Rx)
  /-- REPLY_RECEIVED (R227). The master receives a REPLY to a poll. -/
  | replyReceived (r : Rx)
  /-- POLL_MISSED (R229). At the end of the polled window a poll without REPLY is counted and reported. -/
  | pollMissed (time : Nat)
  /-- MASTER_MESSAGE_SEND (R363). After its last POLL the master sends its own messages, verdicts included. -/
  | masterMessageSend (time : Nat)
  /-- MODE_REQUEST_SEND (R235). A non-master sends a pending switch request as a MODE frame in the polled window. -/
  | modeRequestSend (time : Nat)
  /-- MODE_REQUEST_RECEIVED (R236). The master accepts a switch request for announcement, or answers busy, not master, undefined or too early. -/
  | modeRequestReceived (r : Rx)
  /-- MODE_ANSWER_RECEIVED (R235). A requester receives the master's answer and completes its command. -/
  | modeAnswerReceived (r : Rx)
  /-- MASTER_ANSWER_TIMEOUT (R297). A command needing the master completes with TIMEOUT after 8 cycles without answer. -/
  | masterAnswerTimeout (ctx ring seq time : Nat)
  /-- CYC_STATUS (R247). Command 0x0301 returns the cycle state, pending switch and cycle number. -/
  | cycStatus (c : Cmd)
  /-- CYC_MODE_SWITCH (R247). Command 0x0302 requests a switch to a mode at or after a given cycle. -/
  | cycModeSwitch (c : Cmd)
  /-- CYC_MODE_ABORT (R247). Command 0x0303 aborts a pending switch before t_(C-1). -/
  | cycModeAbort (c : Cmd)
  /-- CYC_MODE_INFO (R247). Command 0x0304 returns a mode's descriptor registers. -/
  | cycModeInfo (c : Cmd)
  /-- LINK_WAIT_EXPIRY (R258). INA_LINK_WAIT expires in LINK and the node enters LISTEN alone. -/
  | linkWaitExpiry (time : Nat)
  /-- LISTEN_WAIT_EXPIRY (R262). The listening time W expires; a candidate enters CLAIM, others restart W. -/
  | listenWaitExpiry (time : Nat)
  /-- CLAIM_SEND (R263). Every 100 µs a claimant sends CLAIM on its member links. -/
  | claimSend (time : Nat)
  /-- CLAIM_RECEIVED (R264). A CLAIM is held, forwarded if good enough, and makes a worse claimant return to LISTEN. -/
  | claimReceived (r : Rx)
  /-- MASTER_ELECTED (R265). The claim settle time elapses with no better claim and the claimant becomes cycle master. -/
  | masterElected (time : Nat)
  /-- TOPO_ROUND_START (R271). At t_p + 4 µs the master sends TOPO probes on every member link. -/
  | topoRoundStart (time : Nat)
  /-- TOPO_PROBE_RECEIVED (R270). A node appends its record and passes the probe on, or replies inward at the end or at 36 records. -/
  | topoProbeReceived (r : Rx)
  /-- TOPO_REPLY_RECEIVED (R271). A reply is relayed inward or collected by the master toward a complete round. -/
  | topoReplyReceived (r : Rx)
  /-- TOPO_NOTICE_RECEIVED (R272). A notice is relayed inward or makes the master run a new round. -/
  | topoNoticeReceived (r : Rx)
  /-- TOPO_ROUND_TIMEOUT (R271). A round incomplete at t_(p+1) is repeated. -/
  | topoRoundTimeout (time : Nat)
  /-- NUMBERING_ASSIGNED (R273). The master assigns positions, numbers, orientation and backups from a complete round and checks the bounds. -/
  | numberingAssigned (time : Nat)
  /-- TOPO_RESULT_RECEIVED (R276). A node takes its entry from TOPO_RESULT and passes to NUMBERED. -/
  | topoResultReceived (r : Rx)
  /-- OPERATION_REQUEST_RECEIVED (R292). The master takes a lead, re-inauguration, reset or snapshot request and answers it. -/
  | operationRequestReceived (r : Rx)
  /-- OPERATION_ANSWER_RECEIVED (R291). The requester takes the master's operation answer and completes its command. -/
  | operationAnswerReceived (r : Rx)
  /-- TRAIN_RESET_INSTANT (R293). At t_op every node that accepted the announcement performs the train reset. -/
  | trainResetInstant (time : Nat)
  /-- SNAPSHOT_TAKEN (R294). At the snapshot instant the node latches its snapshot record. -/
  | snapshotTaken (time : Nat)
  /-- SNAPSHOT_RECORD_SEND (R294). In the polled window the node sends its snapshot record to the requester until polled. -/
  | snapshotRecordSend (time : Nat)
  /-- TRAIN_SET_LEAD (R297). Command 0x0120 binds the leading end to an end vehicle. -/
  | trainSetLead (c : Cmd)
  /-- TRAIN_STATUS (R297). Command 0x0121 returns inauguration state, commit and node counts. -/
  | trainStatus (c : Cmd)
  /-- TRAIN_REINAUGURATE (R297). Command 0x0122 starts a new TOPO round. -/
  | trainReinaugurate (c : Cmd)
  /-- TRAIN_RESET (R297). Command 0x0123 requests a train reset at an offset and cycle. -/
  | trainReset (c : Cmd)
  /-- TRAIN_SNAPSHOT (R297). Command 0x0124 requests a consistent train snapshot. -/
  | trainSnapshot (c : Cmd)
  /-- TTDP_HELLO_SEND (R295). In interop mode a TTDP HELLO is sent at the slow or fast period. -/
  | ttdpHelloSend (time : Nat)
  /-- TTDP_HELLO_RECEIVED (R295). A TTDP HELLO is taken on a spine port. -/
  | ttdpHelloReceived (port identity time : Nat)
  /-- TTDP_HELLO_TIMEOUT (R295). No HELLO within the timeout on a port. -/
  | ttdpHelloTimeout (port time : Nat)
  /-- TTDP_TOPOLOGY_SEND (R295). A TTDP TOPOLOGY frame is sent every 100 ms and on change. -/
  | ttdpTopologySend (time : Nat)
  /-- TTDP_TOPOLOGY_RECEIVED (R296). A TTDP TOPOLOGY frame updates the ETBN number and topology counter. -/
  | ttdpTopologyReceived (port etbn count counter time : Nat)
  /-- PDELAY_REQUEST_SEND (R312). A port starts a PDELAY exchange on schedule or at a node-state change on the Jalder link. -/
  | pdelayRequestSend (port time : Nat)
  /-- PDELAY_REQUEST_RECEIVED (R311). A responder stamps a request and sends the response. -/
  | pdelayRequestReceived (r : Rx) (turnaround : Nat)
  /-- PDELAY_RESPONSE_RECEIVED (R313). A response yields a delay measurement that updates the link delay in use and may form a member link. -/
  | pdelayResponseReceived (r : Rx)
  /-- PDELAY_RESPONSE_TIMEOUT (R311). No matching response within 100 µs; the exchange is discarded. -/
  | pdelayResponseTimeout (port time : Nat)
  /-- TIME_WRAP (R309). T_ns crosses a multiple of 2^32 and the last-wrap registers update. -/
  | timeWrap (time : Nat)
  /-- SLEW_COMPLETE (R320). A TIME_ADJUST shift reaches its amount and the rate returns. -/
  | slewComplete (time : Nat)
  /-- TIME_STATUS (R340). Command 0x0901 returns time state, estimate and current time. -/
  | timeStatus (c : Cmd)
  /-- TIME_SET (R340). Command 0x0902 steps train time in LINK, LISTEN or CLAIM. -/
  | timeSet (c : Cmd)
  /-- TIME_ADJUST (R320). Command 0x0903 starts a master slew by a signed amount. -/
  | timeAdjust (c : Cmd)
  /-- TIME_TOUT_SET (R340). Command 0x0904 programs and arms a timed output. -/
  | timeToutSet (c : Cmd)
  /-- TIME_TOUT_STOP (R340). Command 0x0905 disarms a timed output. -/
  | timeToutStop (c : Cmd)
  /-- TOUT_ARM_WRITE (R330). Writing ARM arms a timed output with its current values unless it is too late. -/
  | toutArmWrite (ctx output : Nat) (v : Word)
  /-- TOUT_MODE_OFF_WRITE (R330). Writing MODE = 0 disarms the output after any pulse in progress. -/
  | toutModeOffWrite (ctx output : Nat) (v : Word)
  /-- TOUT_PULSE (R329). A timed output drives its pulse at a programmed train time. -/
  | toutPulse (output time : Nat)
  /-- TOUT_BIND_WRITE (R461). A write of PDT_TOUT_BIND ties an output to a dataset's instants, or is dropped for world. -/
  | toutBindWrite (ctx output : Nat) (v : Word)
  /-- TCAP_EDGE (R332). A capture input edge is stamped and queued. -/
  | tcapEdge (input : Nat) (rising : Bool) (time : Nat)
  /-- TCAP_ENTRY_READ (R332). A read of TMB_TCAP_SEC_HI removes the oldest capture entry. -/
  | tcapEntryRead (ctx input : Nat)
  /-- TSQ_ENTRY_READ (R327). A read of TMB_TSQ_W2 removes the oldest TSQ entry. -/
  | tsqEntryRead (ctx queue : Nat)
  /-- GPTP_SYNC_SEND (R333). A car port with a time service sends Sync and Follow_Up every 125 ms. -/
  | gptpSyncSend (port time : Nat)
  /-- GPTP_ANNOUNCE_SEND (R334). A car port with a time service sends Announce every 1 s. -/
  | gptpAnnounceSend (port time : Nat)
  /-- GPTP_PDELAY_SEND (R333). A car port runs peer delay every 1 s. -/
  | gptpPdelaySend (port time : Nat)
  /-- PTP_MESSAGE_RECEIVED (R336). A received Sync, Follow_Up or Announce on a car port is discarded and counted. -/
  | ptpMessageReceived (port msgType time : Nat)
  /-- AUDIO_PLL_LOCK (R337). The audio PLL locks or re-phases to train time and sets LOCK. -/
  | audioPllLock (phase : Int) (time : Nat)
  /-- AON_RC_CALIBRATE (R710). Every 100 ms the AON RC oscillator is calibrated against REFCLK. -/
  | aonRcCalibrate (hz time : Nat)
  /-- PLACEMENT_DECISION (R358). The train placer decides a declaration within 200 µs, admitting or rejecting it. -/
  | placementDecision (time : Nat)
  /-- VERDICT_RECEIVED (R365). A node writes the verdict's entry to STB and its local placer stages and reserves. -/
  | verdictReceived (r : Rx)
  /-- PLACER_SWITCH_REQUEST (R367). After its last verdict the placer requests the switch to the staged mode. -/
  | placerSwitchRequest (time : Nat)
  /-- CENSUS_SEND (R379). After each commit a node sends its census in the polled window. -/
  | censusSend (time : Nat)
  /-- REQUEST_RETRY (R372). A request without verdict after 8 cycles is resent or times out. -/
  | requestRetry (time : Nat)
  /-- REPLACEMENT_COMPUTED (R370). The full re-placement is computed and its move steps begin. -/
  | replacementComputed (time : Nat)
  /-- MSG_RECEIVED (R381). A MSG fragment is assembled and a complete message delivered, queued or discarded. -/
  | msgReceived (r : Rx)
  /-- STORED_MESSAGE_EXPIRY (R383). A stored message's expiry passes and it is dropped. -/
  | storedMessageExpiry (time : Nat)
  /-- STREAM_DECLARE (R384). Command 0x0201 declares a stream for placement. -/
  | streamDeclare (c : Cmd)
  /-- STREAM_REMOVE (R384). Command 0x0202 removes a stream. -/
  | streamRemove (c : Cmd)
  /-- STREAM_QUERY (R384). Command 0x0203 returns a stream table entry. -/
  | streamQuery (c : Cmd)
  /-- STREAM_REPLACE_ALL (R370). Command 0x0204 starts a full re-placement at the master. -/
  | streamReplaceAll (c : Cmd)
  /-- STREAM_MSG_SEND (R384). Command 0x0205 queues or stores a message. -/
  | streamMsgSend (c : Cmd)
  /-- STREAM_MSG_RECV (R384). Command 0x0206 posts a receive that completes on message arrival. -/
  | streamMsgRecv (c : Cmd)
  /-- PLC_STATUS (R384). Command 0x0207 returns placer state, admission sequence and digest. -/
  | plcStatus (c : Cmd)
  /-- LEASE_RENEW_SEND (R407). At each lease unit the holder sends a renew frame and renewal pulse. -/
  | leaseRenewSend (time : Nat)
  /-- JALDER_RENEW_RECEIVED (R411). A renew frame is acknowledged by a standby or compared by a holder. -/
  | jalderRenewReceived (r : Rx)
  /-- JALDER_ACK_RECEIVED (R407). A holder records an acknowledgement and the standby's flags. -/
  | jalderAckReceived (r : Rx)
  /-- HEARTBEAT_PULSE_RECEIVED (R403). A heartbeat pulse is accepted as renewal or acknowledgement, or rejected. -/
  | heartbeatPulseReceived (rise high : Nat)
  /-- TOKEN_DEMOTED (R408). A holder without acknowledgements for two units demotes itself. -/
  | tokenDemoted (time : Nat)
  /-- LEASE_TAKEOVER (R409). A standby without renewals for four units becomes holder. -/
  | leaseTakeover (time : Nat)
  /-- FENCE_RELEASE_TAKEOVER (R410). A fenced node released at a commit becomes holder after four silent units. -/
  | fenceReleaseTakeover (time : Nat)
  /-- SOLO_WAIT_EXPIRY (R412). A paired node in INIT without contact takes the token after the solo wait. -/
  | soloWaitExpiry (time : Nat)
  /-- PARTNER_LOST (R413). The partner has been silent for two units. -/
  | partnerLost (time : Nat)
  /-- PAIR_PATH_LOST (R404). One lease path is silent for two units while the other works. -/
  | pairPathLost (path time : Nat)
  /-- JALDER_HANDOVER_RECEIVED (R414). A standby acknowledges a handover cycle H. -/
  | jalderHandoverReceived (r : Rx)
  /-- JALDER_HANDOVER_ACK_RECEIVED (R414). The holder learns the standby accepted H. -/
  | jalderHandoverAckReceived (r : Rx)
  /-- HANDOVER_EXECUTE (R414). At t_H the holder stops token actions and becomes STANDBY. -/
  | handoverExecute (time : Nat)
  /-- HANDOVER_TAKE (R414). At t_(H+1) the standby becomes holder. -/
  | handoverTake (time : Nat)
  /-- HANDOVER_TIMEOUT (R414). No acknowledgement by t_(H-1); the holder keeps the token. -/
  | handoverTimeout (time : Nat)
  /-- MUTE_HANDOVER (R415). A holder in MUTE for 8 cycles hands the token over. -/
  | muteHandover (time : Nat)
  /-- STATE_COPY_SEND (R423). In the replication phase the holder sends the due lines and a copy end. -/
  | stateCopySend (time : Nat)
  /-- JALDER_COPY_RECEIVED (R425). A standby buffers the line records of a copy. -/
  | jalderCopyReceived (r : Rx)
  /-- JALDER_COPY_END_RECEIVED (R425). A standby applies a complete, checked copy or discards it. -/
  | jalderCopyEndReceived (r : Rx)
  /-- RESYNC_REQUEST_SEND (R428). A new standby sends resync requests until a full pass runs. -/
  | resyncRequestSend (time : Nat)
  /-- JALDER_RESYNC_RECEIVED (R428). The holder starts a full pass. -/
  | jalderResyncReceived (r : Rx)
  /-- PAIR_STATUS (R433). Command 0x0A01 returns token, partner and copy state. -/
  | pairStatus (c : Cmd)
  /-- PAIR_HANDOVER (R414). Command 0x0A02 moves the token at an agreed cycle. -/
  | pairHandover (c : Cmd)
  /-- PAIR_RESYNC (R433). Command 0x0A03 starts a full pass. -/
  | pairResync (c : Cmd)
  /-- PAIR_TRK_RESET (R433). Command 0x0A04 empties one or all duplicate trackers. -/
  | pairTrkReset (c : Cmd)
  /-- SAMPLE_INSTANT (R445). At a dataset's sample instant inputs are sampled. -/
  | sampleInstant (stream time : Nat)
  /-- DISCRETE_BUFFER_COMPLETE (R448). 1 µs after the sample instant a discrete-sourced buffer is completed. -/
  | discreteBufferComplete (stream time : Nat)
  /-- DECISION_POINT (R452). At a consumed dataset's decision point its value and status word are fixed. -/
  | decisionPoint (stream time : Nat)
  /-- OUTPUT_INSTANT (R452). At the output instant the value is presented to the host view and outputs. -/
  | outputInstant (stream time : Nat)
  /-- CAR_DELIVERY_SEND (R458). In its car slot a consumed dataset is sent to car equipment. -/
  | carDeliverySend (stream port time : Nat)
  /-- CAR_INPUT_FRAME_RECEIVED (R450). A car input frame completes a car-sourced buffer or is discarded. -/
  | carInputFrameReceived (r : Rx)
  /-- PDT_DS_DONE_WRITE (R449). A write of PDT_DS_DONE records a buffer completion with its check. -/
  | pdtDsDoneWrite (ctx d : Nat) (v : Word)
  /-- PDT_BUF_STATUS_READ (R457). A read of offset 0 of PDT_BUF pins the instance view for the context. -/
  | pdtBufStatusRead (ctx d : Nat)
  /-- PD_STATUS (R474). Command 0x0401 returns process data status and counts. -/
  | pdStatus (c : Cmd)
  /-- PD_INFO (R474). Command 0x0402 returns a dataset's descriptor. -/
  | pdInfo (c : Cmd)
  /-- PD_WRITE (R474). Command 0x0403 copies host data into a produced dataset's buffer. -/
  | pdWrite (c : Cmd)
  /-- PD_READ (R474). Command 0x0404 copies a consumed dataset to host memory. -/
  | pdRead (c : Cmd)
  /-- DIO_SET (R474). Command 0x0405 drives a host-owned line. -/
  | dioSet (c : Cmd)
  /-- DIO_STATUS (R474). Command 0x0406 returns line levels and stuck and storm bits. -/
  | dioStatus (c : Cmd)
  /-- DIO_OUT_SET_WRITE (R468). A write of DIO_OUT_SET drives host-owned lines active. -/
  | dioOutSetWrite (ctx : Nat) (v : Word)
  /-- DIO_OUT_CLR_WRITE (R468). A write of DIO_OUT_CLR drives host-owned lines inactive. -/
  | dioOutClrWrite (ctx : Nat) (v : Word)
  /-- LINE_EDGE (R463). A debounced change of a line's level is stamped, counted and queued. -/
  | lineEdge (line : Nat) (level : Bool) (time : Nat)
  /-- LINE_STUCK (R465). A line active for its stuck time is marked stuck. -/
  | lineStuck (line time : Nat)
  /-- WAKE_STUCK (R471). A wake input active for its stuck time is ignored for waking. -/
  | wakeStuck (input time : Nat)
  /-- STORM_ENDED (R466). At a sub-window boundary the edge count falls to N / 2 and the storm ends. -/
  | stormEnded (line time : Nat)
  /-- DL_READBACK_FAIL (R470). An output's readback differs for three samples. -/
  | dlReadbackFail (line time : Nat)
  /-- EDGE_ENTRY_READ (R464). A read of DIO_EDGE_W1 removes the oldest edge entry. -/
  | edgeEntryRead (ctx : Nat)
  /-- PA_MESSAGE_RECEIVED (R500). A PA message is taken by nodes whose position and zones it names. -/
  | paMessageReceived (r : Rx)
  /-- PA_START_SAMPLE (R506). At its start sample a request begins playing under arbitration. -/
  | paStartSample (requester tag time : Nat)
  /-- ANNOUNCEMENT_ENDED (R506). A request ends at its last or stop sample, or is displaced. -/
  | announcementEnded (requester tag time : Nat)
  /-- AUDIO_INSTANCE_DECISION (R488). At t_n + P - 50 µs a receiver plays an audio instance or ramps to silence. -/
  | audioInstanceDecision (stream time : Nat)
  /-- GRAPH_OVERLOAD (R495). An engine misses a block's render deadline and its outputs ramp. -/
  | graphOverload (engine time : Nat)
  /-- PARAM_APPLY (R496). At the block boundary a pending element parameter takes effect. -/
  | paramApply (time : Nat)
  /-- TDM_CLOCK_FAULT (R483). A slave FSYNC outside ±2 BCLK makes the port slip a frame. -/
  | tdmClockFault (port time : Nat)
  /-- AAF_PDU_RECEIVED (R491). An AAF PDU's samples are placed by presentation time or discarded. -/
  | aafPduReceived (r : Rx)
  /-- AAF_PDU_SEND (R490). In its car slot an output AAF stream sends its PDUs. -/
  | aafPduSend (index time : Nat)
  /-- LIBRARY_VERIFY (R510). The background check of an unverified library entry completes. -/
  | libraryVerify (entry time : Nat)
  /-- CALL_MESSAGE_RECEIVED (R515). The cab node takes a call request, connect, hold or end message. -/
  | callMessageReceived (r : Rx)
  /-- CALL_REQUEST_REPEAT (R515). A station node repeats a refused request every 1 s. -/
  | callRequestRepeat (station time : Nat)
  /-- CALL_ESCALATED (R515). A call ringing for the escalation time rings at the opposite end. -/
  | callEscalated (pair station counter time : Nat)
  /-- RECORDING_BLOCK_WRITE (R518). Every 250 ms a call recording block is written to the next free slot. -/
  | recordingBlockWrite (station time : Nat)
  /-- AUD_STATUS (R521). Command 0x0501 returns audio service status. -/
  | audStatus (c : Cmd)
  /-- PA_PLAY (R521). Command 0x0502 requests a library announcement. -/
  | paPlay (c : Cmd)
  /-- PA_LIVE (R521). Command 0x0503 requests a live announcement. -/
  | paLive (c : Cmd)
  /-- PA_CHIME (R521). Command 0x0504 requests a chime. -/
  | paChime (c : Cmd)
  /-- PA_STOP (R521). Command 0x0505 stops a request at a stop sample. -/
  | paStop (c : Cmd)
  /-- AUD_PARAM_SET (R496). Command 0x0506 sets an element parameter at a block boundary. -/
  | audParamSet (c : Cmd)
  /-- AUD_LIB_WRITE (R521). Command 0x0507 writes library entry content. -/
  | audLibWrite (c : Cmd)
  /-- AUD_LIB_INFO (R521). Command 0x0508 returns a library entry's index and validity. -/
  | audLibInfo (c : Cmd)
  /-- CALL_STATUS (R521). Command 0x0601 returns a call slot's registers. -/
  | callStatus (c : Cmd)
  /-- CALL_ANSWER (R515). Command 0x0602 connects a ringing or held call. -/
  | callAnswer (c : Cmd)
  /-- CALL_HOLD (R515). Command 0x0603 puts a connected call on hold. -/
  | callHold (c : Cmd)
  /-- CALL_END (R515). Command 0x0604 ends a call. -/
  | callEnd (c : Cmd)
  /-- CALL_CAB_SET (R512). Command 0x0605 names the active cab vehicle. -/
  | callCabSet (c : Cmd)
  /-- CALL_REC_PROTECT (R521). Command 0x0606 protects or releases a call's recording blocks. -/
  | callRecProtect (c : Cmd)
  /-- CALL_REC_FIND (R521). Command 0x0607 finds a call's recording. -/
  | callRecFind (c : Cmd)
  /-- CAN_FRAME_RECEIVED (R537). A valid CAN frame is filtered to a FIFO, object, the bridge, or discarded. -/
  | canFrameReceived (ctl : Nat) (f : CanFrame) (sof time : Nat)
  /-- CAN_FRAME_SENT (R547). A CAN frame completes transmission; a completion is queued and the next head offered. -/
  | canFrameSent (ctl idx : Nat) (obj : Bool) (sof time : Nat)
  /-- CAN_ARBITRATION_LOST (R536). A head entry loses arbitration and waits for the next bus idle. -/
  | canArbitrationLost (ctl idx : Nat) (obj : Bool) (time : Nat)
  /-- CAN_TX_ERROR (R551). A transmit attempt ends in an error, updating clash counts and error state. -/
  | canTxError (ctl idx : Nat) (obj clash counted : Bool) (time : Nat)
  /-- BUS_RECOVERED (R555). After 128 recessive sequences the controller leaves bus-off. -/
  | busRecovered (ctl time : Nat)
  /-- DOMINANT_TIMEOUT (R556). CAN_RX dominant for 1 ms holds CAN_TX recessive. -/
  | dominantTimeout (ctl time : Nat)
  /-- DOMINANT_RELEASED (R556). 11 recessive bits after a dominant timeout restore the error state. -/
  | dominantReleased (ctl time : Nat)
  /-- TIMED_ENTRY_RELEASE (R557). PS3 releases a timed CAN entry at its train time. -/
  | timedEntryRelease (ctl queue time : Nat)
  /-- CAN_TXQ_PUSH (R535). A write of word 0x50 of CAN_TXQ_WIN pushes an entry into a transmit queue. -/
  | canTxqPush (ctx ctl queue : Nat) (v : Word)
  /-- CAN_TX_CANCEL_WRITE (R549). A write of CAN_TX_CANCEL records a cancel for a queued entry. -/
  | canTxCancelWrite (ctx ctl : Nat) (v : Word) (onBus : Bool)
  /-- CAN_OBJ_CANCEL_WRITE (R549). A write of CAN_OBJ_CANCEL records a cancel for a send object. -/
  | canObjCancelWrite (ctx ctl w : Nat) (v : Word) (onBus : Option Nat)
  /-- CAN_OBJ_TXREQ_WRITE (R540). A write of CAN_OBJ_TXREQ requests sending of send objects. -/
  | canObjTxreqWrite (ctx ctl w : Nat) (v : Word)
  /-- CAN_OBJECT_WRITE (R539). A write to a message object, dropped while its TXREQ is set. -/
  | canObjectWrite (ctx ctl obj wordIndex : Nat) (v : Word)
  /-- CAN_ENTRY_LOCK_READ (R543). A read of word 0x00 of an entry locks it for the reading context. -/
  | canEntryLockRead (ctx ctl kind idx time : Nat)
  /-- CAN_ENTRY_RELEASE_READ (R544). A read of the last word releases the entry, removing a FIFO head or clearing NEW. -/
  | canEntryReleaseRead (ctx ctl kind idx : Nat)
  /-- LOCK_TIMEOUT (R545). A CAN entry lock held 1 ms is released by the controller. -/
  | lockTimeout (ctl kind idx time : Nat)
  /-- CAN_CTRL_LOOP_WRITE (R559). A write of CAN_CTRL.LOOP changes the loop mode at the next bus idle. -/
  | canCtrlLoopWrite (ctx ctl : Nat) (v : Word) (busy : Bool)
  /-- CAN_CTRL_HALT_WRITE (R563). A write of CAN_CTRL.HALT stops or resumes offering entries. -/
  | canCtrlHaltWrite (ctx ctl : Nat) (v : Word) (busy : Bool)
  /-- CAN_CTRL_RECOVER_WRITE (R555). A write of CAN_CTRL.RECOVER starts bus-off recovery. -/
  | canCtrlRecoverWrite (ctx ctl : Nat) (v : Word) (busy : Bool)
  /-- CAN_STATUS (R561). Command 0x0701 returns controller status and errors. -/
  | canStatus (c : Cmd)
  /-- CAN_SEND (R561). Command 0x0702 pushes an entry into a queue. -/
  | canSend (c : Cmd)
  /-- CAN_CANCEL (R561). Command 0x0703 cancels a queued entry and reports the outcome. -/
  | canCancel (c : Cmd) (onBus : Bool)
  /-- CAN_RECOVER (R561). Command 0x0704 starts bus-off recovery. -/
  | canRecover (c : Cmd)
  /-- CAN_FLUSH (R561). Command 0x0705 flushes a queue. -/
  | canFlush (c : Cmd) (onBus : Bool)
  /-- CAN_LOOP (R561). Command 0x0706 sets a controller's loop mode. -/
  | canLoop (c : Cmd) (busy : Bool)
  /-- TUN_FRAME_CLOSE (R571). PS2 closes a TUN frame at 1,460 bytes, 20 µs or gate close and sends it. -/
  | tunFrameClose (stream ctl time : Nat)
  /-- TUN_RECEIVED (R572). A TUN frame is tracked and its records replayed in order. -/
  | tunReceived (r : Rx)
  /-- REORDER_HOLD_EXPIRY (R572). A reorder hold passes; missing frames or requests count as lost. -/
  | reorderHoldExpiry (time : Nat)
  /-- BAR2_READ_TLP (R587). A read TLP through the bridge aperture is sent as RWIN or served from prefetch. -/
  | bar2ReadTlp (fn off len time : Nat)
  /-- BAR2_WRITE_TLP (R585). A posted write through the aperture is sent and completed locally. -/
  | bar2WriteTlp (fn off : Nat) (bytes : List Byte) (time : Nat)
  /-- RWIN_RECEIVED (R583). An owning node takes a remote window request, tracks it and queues it. -/
  | rwinReceived (r : Rx) (addressed : Nat)
  /-- REMOTE_ACCESS_PERFORMED (R577). The owning node completes a remote access and sends its response. -/
  | remoteAccessPerformed (time : Nat)
  /-- RWIN_RSP_RECEIVED (R588). A response completes a read, reports a write failure or a summary. -/
  | rwinRspReceived (r : Rx) (addressed : Bool)
  /-- READ_TIMEOUT (R587). A remote read times out and completes with Completer Abort. -/
  | readTimeout (tag time : Nat)
  /-- PREFETCH_BLOCK_EXPIRY (R590). A prefetch block expires after T_c and is discarded. -/
  | prefetchBlockExpiry (bar time : Nat)
  /-- SEM_LEASE_EXPIRED (R593). A held semaphore is freed 10 ms after the last renewal. -/
  | semLeaseExpired (sem time : Nat)
  /-- WINDOW_LOCK_LEASE_EXPIRY (R592). The owner releases a window lock 10 ms after its last renewal. -/
  | windowLockLeaseExpiry (window time : Nat)
  /-- SUMMARY_POLL (R594). Every BRG_POLL cycles a summary request is sent to each target. -/
  | summaryPoll (time : Nat)
  /-- POSTED_LOG_READ (R586). A read of BRG_PWE_W4 removes the oldest log entry. -/
  | postedLogRead (ctx : Nat)
  /-- BRIDGE_STATUS (R597). Command 0x0801 returns bridge status. -/
  | bridgeStatus (c : Cmd)
  /-- BRIDGE_MAP (R597). Command 0x0802 binds an aperture slot to a target window. -/
  | bridgeMap (c : Cmd)
  /-- BRIDGE_UNMAP (R597). Command 0x0803 unbinds a slot once its reads complete. -/
  | bridgeUnmap (c : Cmd)
  /-- BRIDGE_READ (R597). Command 0x0804 reads a remote window. -/
  | bridgeRead (c : Cmd)
  /-- BRIDGE_WRITE (R597). Command 0x0805 writes a remote window. -/
  | bridgeWrite (c : Cmd)
  /-- BRIDGE_LOCK (R592). Command 0x0806 requests a semaphore lock on a window. -/
  | bridgeLock (c : Cmd)
  /-- BRIDGE_UNLOCK (R593). Command 0x0807 releases a semaphore. -/
  | bridgeUnlock (c : Cmd)
  /-- CHK_GO_WRITE (R612). Writing GO starts a DMA job or enables a snoop in a check context. -/
  | chkGoWrite (ctx c : Nat) (v : Word)
  /-- CHK_STOP_WRITE (R613). Writing STOP ends a snoop at the end of the block in progress. -/
  | chkStopWrite (ctx c : Nat) (v : Word)
  /-- CHK_RUN_WRITE (R605). A write of CHK_CTX_RUN sets a context's running value. -/
  | chkRunWrite (ctx c : Nat) (v : Word)
  /-- CHECK_JOB_DONE (R608). A check job or snooped block completes with a result or error. -/
  | checkJobDone (c : Nat) (ecc : Option EccFact) (time : Nat)
  /-- TEST_STATUS (R698). Command 0x0C01 returns test status. -/
  | testStatus (c : Cmd)
  /-- TEST_LOOP (R682). Command 0x0C02 sets or clears a loopback. -/
  | testLoop (c : Cmd)
  /-- TEST_PRBS (R691). Command 0x0C03 starts or stops a PRBS generator or checker. -/
  | testPrbs (c : Cmd)
  /-- TEST_BIST (R692). Command 0x0C04 requests BIST and a warm reset. -/
  | testBist (c : Cmd)
  /-- TEST_INJECT (R694). Command 0x0C05 arms a fault injection. -/
  | testInject (c : Cmd)
  /-- LOOPBACK_ACTIVE (R681). A requested loop takes effect at the end of the frames in progress. -/
  | loopbackActive (target time : Nat)
  /-- LOOP_DURATION_EXPIRY (R684). A loop's duration passes and the loop ends. -/
  | loopDurationExpiry (target time : Nat)
  /-- ECHO_ENTER_RETRY (R686). Every 10 ms the requester resends enter, failing after three. -/
  | echoEnterRetry (port time : Nat)
  /-- ECHO_ENTER_RECEIVED (R687). A node accepts or refuses an echo request. -/
  | echoEnterReceived (r : Rx)
  /-- ECHO_REPLY_RECEIVED (R686). The requester takes an accept or refuse and completes TEST_LOOP. -/
  | echoReplyReceived (r : Rx)
  /-- ECHO_EXIT_RECEIVED (R687). An exit frame ends an echo loop. -/
  | echoExitReceived (r : Rx)
  /-- PRBS_LOCK_LOSS (R690). A PRBS checker loses lock. -/
  | prbsLockLoss (lane bits errs time : Nat)
  /-- INJECT_ARM_WRITE (R694). Writing ARM arms a fault injection. -/
  | injectArmWrite (ctx : Nat) (v : Word)
  /-- INJECT_DISARM_WRITE (R695). Writing DISARM disarms an injection. -/
  | injectDisarmWrite (ctx : Nat) (v : Word)
  /-- EXTEST (R696). JTAG instruction EXTEST. -/
  | extest
  /-- IDCODE (R696). JTAG instruction IDCODE returns 0x1642_0B47. -/
  | idcode
  /-- SAMPLE_PRELOAD (R696). JTAG instruction SAMPLE/PRELOAD. -/
  | samplePreload
  /-- CLAMP (R696). JTAG instruction CLAMP. -/
  | clamp
  /-- HIGHZ (R696). JTAG instruction HIGHZ. -/
  | highz
  /-- EXTEST_PULSE (R696). JTAG instruction EXTEST_PULSE. -/
  | extestPulse
  /-- EXTEST_TRAIN (R696). JTAG instruction EXTEST_TRAIN. -/
  | extestTrain
  /-- BYPASS (R696). JTAG instruction BYPASS, also taken for unknown codes. -/
  | bypass (code : Nat)
  /-- POWER_ON_RESET (R712). POR_N or the VDD_AON monitor resets the whole node. -/
  | powerOnReset
  /-- PIN_RESET (R712). RST_N low for at least 1 µs resets the node. -/
  | pinReset
  /-- SUPPLY_MONITOR_TRIP (R707). A supply below its trip point for the filter time causes a reset. -/
  | supplyMonitorTrip (monitor : Nat)
  /-- REFCLK_LOST (R707). REFCLK without an edge for 10 µs causes a pin reset. -/
  | refclkLost
  /-- PLL_UNLOCK (R709). A PLL loses lock and the node acts as the PLL table gives. -/
  | pllUnlock (pll time : Nat)
  /-- WARM_RESET (R715). A warm reset begins after its request or delay. -/
  | warmReset (time : Nat)
  /-- PCR_WARM_WRITE (R731). Writing PCR_RESET_CTRL.WARM requests a warm reset. -/
  | pcrWarmWrite (ctx : Nat) (v : Word) (time : Nat)
  /-- PCR_SLEEP_WRITE (R718). Writing SLEEP starts sleep entry, or is refused with no wake source. -/
  | pcrSleepWrite (ctx : Nat) (v : Word) (time : Nat)
  /-- SLEEP_ENTRY_COMPLETE (R719). Sleep entry ends with domains off and SLEEP_N low. -/
  | sleepEntryComplete (time : Nat)
  /-- WAKE_EVENT (R723). A wake source wakes the node, which powers up and releases reset. -/
  | wakeEvent (sources seconds : Nat)
  /-- DRAM_SCRUB (R728). The patrol scrubber reads DRAM and corrects or reports errors. -/
  | dramScrub (addr : Nat) (uncorrectable : Bool) (time : Nat)
  /-- MEM_LOOP_GO_WRITE (R729). Writing MEM_LOOP.GO runs the DRAM loopback in the waiting state. -/
  | memLoopGoWrite (ctx : Nat) (v : Word)
  /-- REGISTER_READ (R666). A register read checked for form, world and ownership, power domain and occupancy, a refused read returning zero with a violation-log entry and an off-domain read counted in TOP_OFF_ACCESS. -/
  | registerRead (ctx addr : Nat) (late : Bool)
  /-- PREEMPT_VERIFY_FRAME_RECEIVED (R175). A verify or respond mPacket of the IEEE 802.3br procedure arrives, answering the far end's verify or completing this port's verification and making preemption active. -/
  | preemptVerifyFrameReceived (port : Nat) (respond : Bool) (time : Nat)
  /-- CAN_RX_ERROR (R554). A bus error detected while the controller receives raises its receive error counter and can take it into error passive. -/
  | canRxError (ctl rise time : Nat)
  /-- BUS_INTEGRATION_COMPLETE (R564). A controller in STATE 1, integrating, sees 11 consecutive recessive bits and becomes error active. -/
  | busIntegrationComplete (ctl time : Nat)
  /-- PLL_RELOCK (R709). A host, CAN or lane PLL that lost lock locks again, releasing the CAN controllers held in STATE 0 or letting the port's link come back. -/
  | pllRelock (pll time : Nat)
  /-- PRBS_CHECKER_LOCK (R690). A PRBS checker sees 64 consecutive error-free bits, locks, and begins counting bits and errors. -/
  | prbsCheckerLock (lane bits errs time : Nat)
  /-- MEM_LOOP_DONE (R729). The DRAM controller loopback that MEM_LOOP.GO started ends, setting DONE and PASS. -/
  | memLoopDone (passed : Bool)
  /-- FLASH_OPERATION_DONE (R730). A flash program or erase that a slot command started finishes or exceeds twice its SFDP time, completing the command OK or with TIMEOUT and FLASH_ERROR cause 3. -/
  | flashOperationDone (timedOut : Bool) (time : Nat)
  /-- IMAGE_VERIFY_DONE (R133). The verification of a slot by IMG_SLOT_VERIFY, or of a tint by IMG_TINT_STAGE, completes after the whole image has been read and checked. -/
  | imageVerifyDone (facts : ImageFacts) (bus : Option Nat) (time : Nat)
  /-- PCIE_LINK_UP (R625). The PCIe link trains to L0, setting HST_PCIE_STAT width and rate and the transport-up bit of HC0 to HC3. -/
  | pcieLinkUp (width rate fns time : Nat)
  /-- CAR_PEER_DELAY_RECEIVED (R333). An 802.1AS or 1588 peer-delay message from car equipment arrives on a consist port with a time service, and is answered or updates the port's peer delay valid status. -/
  | carPeerDelayReceived (port msgType seq clock portNum egress time : Nat)
  deriving DecidableEq, Repr

end Sys2Proof
end

