-- ==== Sys2Proof/Config.lean ====
section
/-! DEFINITION. The free values: values that the spec leaves open. Each is an opaque constant, so no proof sees what it
is, and every statement holds whatever it is (DESIGN CHOICE, log entries 2, 26, 27 and 31). -/

namespace Sys2Proof.Config

/-- A free word: the value the `i`-th free choice of a run takes. -/
opaque freeWord : Nat → BitVec 32

/-- A free byte string: byte `j` of the `i`-th free choice. -/
opaque freeByte : Nat → Nat → BitVec 8

/-- The pair identity and the vehicle tag that the numbering gives for a node identity at a node to which no record of a
TOPO round came. -/
opaque pairIdOf : Nat → BitVec 32
opaque vehTagOf : Nat → BitVec 32

/-- Whether the front ports of a node that the TOPO records name only over a Jalder link face the leading end. -/
opaque mountedFront : Nat → Bool

/-- The car port, counted from 0, on which another node's branch link of a line leaves it. -/
opaque branchPort : Nat → Bool → BitVec 3

/-- The start of the slot in which a node sends a stream that its image places, by node identity, stream and fabric port, as the
next node knows it. -/
opaque fixedStart : Nat → Nat → Nat → BitVec 32

/-- The car ports that a destination's dataset of a stream names (bit c = car port c), and the wire time of its delivery frame on
one of them in tenths of ns, by node identity and stream: no record or census tells the placer (R459; DESIGN CHOICE, log entry
118). -/
opaque carPorts : Nat → Nat → BitVec 8
opaque carWire : Nat → Nat → Nat → BitVec 24

/-- Whether a line of the replication map beyond the journal is written at a free choice, and its bytes. -/
opaque lineWritten : Nat → Nat → Bool
opaque lineByte : Nat → Nat → Nat → BitVec 8

/-- The first journal entry of a pair-shared context's share at the partner. -/
opaque partnerShare : Nat → BitVec 13

/-- Whether a JTAG instruction code beyond the table of R696 is one of the private debug codes of R98, which the manual does not
give. -/
opaque debugCode : Nat → Bool

/-- The SAK and the salt that the key derivation of IEEE 802.1X-2020 gives for a line key, a label and a context, and byte `j`
of what the cipher GCM-AES-XPN-256 makes of a text under a SAK, an initial vector and associated data: the ciphertext, then
the 16 bytes of the ICV. The spec names these standards and does not give their computation. -/
opaque sakOf : Nat → List (BitVec 8) → BitVec 256
opaque saltOf : Nat → List (BitVec 8) → BitVec 96
opaque gcmByte : BitVec 256 → BitVec 96 → List (BitVec 8) → List (BitVec 8) → Nat → BitVec 8

end Sys2Proof.Config
end

