-- ==== Sys2Proof/Machine/Bits.lean ====
section
/-! DEFINITION. Bit fields, byte orders (R8), check values and the sparse store: the helpers every block uses. -/

namespace Sys2Proof.Machine

/-- Bits `[lo + w - 1 : lo]` of a number. -/
def bitsOf (n lo w : Nat) : Nat := n / 2 ^ lo % 2 ^ w

/-- A number with bits `[lo + w - 1 : lo]` replaced by the low `w` bits of `v`. -/
def withBits (n lo w v : Nat) : Nat := n - bitsOf n lo w * 2 ^ lo + v % 2 ^ w * 2 ^ lo

/-- 1 for true, 0 for false: a flag as a field value. -/
def b2n (b : Bool) : Nat := if b then 1 else 0

/-- A number as a register word. -/
def word (v : Nat) : Word := BitVec.ofNat 32 v

/-- A signed number as a register word (two's complement). -/
def sword (v : Int) : Word := BitVec.ofInt 32 v

/-- Byte `i` of a byte string, zero beyond its end. -/
def byteAt (bs : List Byte) (i : Nat) : Nat := (bs.getD i 0#8).toNat

/-- `len` bytes from `off`, the missing ones zero. -/
def slice (bs : List Byte) (off len : Nat) : List Byte :=
  (List.range len).map fun i => bs.getD (off + i) 0#8

/-- A byte string read most significant byte first (R8, the wire). -/
def beNat (bs : List Byte) : Nat := bs.foldl (fun a b => a * 256 + b.toNat) 0

/-- The field of `len` bytes at `off`, most significant byte first (R8, the wire). -/
def beAt (bs : List Byte) (off len : Nat) : Nat := beNat (slice bs off len)

/-- The field of `len` bytes at `off`, least significant byte first (R8, memory). -/
def leAt (bs : List Byte) (off len : Nat) : Nat := beNat (slice bs off len).reverse

/-- A number as `len` bytes, least significant first. -/
def encLE : Nat → Nat → List Byte
  | 0, _ => []
  | len + 1, v => BitVec.ofNat 8 v :: encLE len (v / 256)

/-- A number as `len` bytes, most significant first. -/
def encBE (len v : Nat) : List Byte := (encLE len v).reverse

/-- `k` zero bytes. -/
def zeros (k : Nat) : List Byte := List.replicate k 0#8

/-- The 32-bit words of a byte string, little-endian (R4). -/
def wordsLE (bs : List Byte) (k : Nat) : List Word :=
  (List.range k).map fun i => word (leAt bs (4 * i) 4)

/-- One bit of a reflected check of up to 64 bits. -/
def crcBitR (poly c : Nat) : Nat := if c % 2 = 1 then Nat.xor (c / 2) poly else c / 2

/-- One byte of a reflected check. -/
def crcByteR (poly c b : Nat) : Nat := (List.range 8).foldl (fun a _ => crcBitR poly a) (Nat.xor c b)

/-- CRC-32C with the parameters of R103. -/
def crc32c (bs : List Byte) : Nat :=
  Nat.xor (bs.foldl (fun c b => crcByteR 0x82F63B78 c b.toNat) 0xFFFFFFFF) 0xFFFFFFFF

/-! ### A sparse store: sorted pairs, no pair equal to what an unlisted key reads as -/

/-- The value at a key; an unlisted key reads as `d` gives. -/
def Sparse.get {β : Type} (d : Nat → β) : List (Nat × β) → Nat → β
  | [], a => d a
  | (k, v) :: m, a => if k = a then v else Sparse.get d m a

/-- A pair inserted at its place in a sorted list. -/
def Sparse.insert {β : Type} (a : Nat) (v : β) : List (Nat × β) → List (Nat × β)
  | [] => [(a, v)]
  | (k, w) :: m => if a < k then (a, v) :: (k, w) :: m else (k, w) :: Sparse.insert a v m

/-- A write keeps the canonical form: the value an unlisted key reads as removes the pair. -/
def Sparse.put {β : Type} [DecidableEq β] (d : Nat → β) (m : List (Nat × β)) (a : Nat) (v : β) : List (Nat × β) :=
  let m' := m.filter fun p => p.1 ≠ a
  if v = d a then m' else Sparse.insert a v m'

/-- The canonical form: keys strictly rising, and no pair equal to what the key reads as unlisted. -/
def Sparse.wf {β : Type} [DecidableEq β] (d : Nat → β) (m : List (Nat × β)) : Bool :=
  (m.map (·.1)).Pairwise (· < ·) && m.all fun p => decide (p.2 ≠ d p.1)

/-- `len` consecutive values. -/
def Sparse.range {β : Type} (d : Nat → β) (m : List (Nat × β)) (a len : Nat) : List β :=
  (List.range len).map fun i => Sparse.get d m (a + i)

/-- Consecutive writes. -/
def Sparse.putAll {β : Type} [DecidableEq β] (d : Nat → β) : List (Nat × β) → Nat → List β → List (Nat × β)
  | m, _, [] => m
  | m, a, v :: vs => Sparse.putAll d (Sparse.put d m a v) (a + 1) vs

end Sys2Proof.Machine
end

