-- ==== Sys2Proof/Machine/State.lean ====
section
/-! DEFINITION. The state of the node as plain data, the faults and refusals, and the state right after reset. Every
register of the spec's register tables lives in `Node.regs`, keyed by its address in the 64 MiB register space of R665;
a register the list does not hold reads as its reset value. The queues, tables and timers that the registers only show
in part are lists and structures beside it. -/

namespace Sys2Proof.Machine

/-- The stops of the machine. -/
inductive Fault where
  /-- An access to a memory address that the spec says does not exist; no command of this model raises it. Safe: the
  machine stops where the spec gives no address. -/
  | noSuchAddress
  deriving DecidableEq, Repr

/-- The refusals of the machine. -/
inductive Refusal where
  /-- Raised by an arm of `exec` whose command has no meaning yet, with the command's mnemonic. Safe: the machine stops. -/
  | notModelled (mnemonic : String)
  deriving DecidableEq, Repr

/-- A bit field of a register: its lowest bit and its width. -/
structure Field where
  lo : Nat
  width : Nat
  deriving DecidableEq, Repr

/-- The access codes of the register tables (the code table of *Registers and fields*). -/
inductive Access where
  | rw
  | ro
  | w1c
  | w1s
  | wo
  | rc
  | rws
  | ros
  deriving DecidableEq, Repr

/-- One row of a register table: the address of the first element, the dimensions of the array as (count, stride)
pairs from the outermost in, the words of one element, the access code and the bits a plain write changes. -/
structure RegRow where
  addr : Nat
  dims : List (Nat × Nat)
  words : Nat
  access : Access
  wmask : Word
  deriving DecidableEq, Repr

/-- A value held for the next read of an address from one host context (R5, R40, R307, R674). -/
structure Latch where
  ctx : Nat
  addr : Nat
  value : Word
  deriving DecidableEq, Repr

/-- The OTP (R70, R113, R114, R42): what fuses hold and no reset changes. -/
structure Otp where
  /-- The 48-bit node identity. -/
  identity : Nat
  /-- The anti-rollback count, a thermometer of 64 bits (R113). -/
  arc : Nat
  /-- Whether key 0 and key 1 are fused, and the SHA-256 hashes of their public keys. -/
  fused0 : Bool
  fused1 : Bool
  hash0 : Nat
  hash1 : Nat
  /-- Whether key 0 and key 1 are revoked (R114). -/
  revoked0 : Bool
  revoked1 : Bool
  deriving DecidableEq, Repr

/-! ### Events (R670 to R677, R785) -/

/-- An event on its way to the router (R670): code, node number and epoch field, stamp and two detail words. -/
structure Event where
  code : Nat
  node : Nat
  stamp : Word
  d0 : Word
  d1 : Word
  deriving DecidableEq, Repr

/-- A rate-limit interval in progress (R785): the code and key it limits, the unit in force at the raise, its end (none once an entry to or exit from RUN has ended it), and
the occurrences since the raise. -/
structure Limit where
  code : Nat
  key : Nat
  inRun : Bool
  fin : Option Int
  count : Nat
  deriving DecidableEq, Repr

structure EvState where
  /-- The events the router has not yet handled, oldest first; at most 256 (R676). -/
  queue : List Event
  /-- The rate-limit intervals in progress (R785). -/
  limits : List Limit
  /-- Whether OPEN_POOL_EXHAUSTED may be raised again (R60). -/
  openArmed : Bool
  deriving DecidableEq, Repr

/-! ### Hosts (chapter 15) -/

/-- A command that has been fetched and not yet completed (R633): where it came from, its journal entry, and the rings
on which a resubmission of its sequence waits (R641). -/
structure Flight where
  ctx : Nat
  ring : Nat
  seq : Nat
  opcode : Nat
  /-- The index of its journal entry, none for a command that is not journalled. -/
  jrn : Option Nat
  fence : Bool
  /-- A context reset has passed: the outcome is journalled and no completion posted (R645). -/
  silent : Bool
  /-- Rings of the same context on which a DUPLICATE waits, with whether it carries MISMATCH and its opcode (R641). -/
  dups : List (Nat × Bool × Nat)
  deriving DecidableEq, Repr

/-- A command that waits for a later happening (R633): what it waits for and the numbers that identify it. -/
structure Wait where
  ctx : Nat
  ring : Nat
  seq : Nat
  opcode : Nat
  /-- What it waits for; the tag is the model's own name of the happening. -/
  kind : Nat
  key : Nat
  aux : List Word
  /-- The raw time at which the wait began, and the cycle number then. -/
  since : Nat
  cycle : Nat
  deriving DecidableEq, Repr

/-- Bytes the node writes to host memory by DMA for a PCIe context. -/
structure HostWrite where
  ctx : Nat
  addr : Nat
  bytes : List Byte
  deriving DecidableEq, Repr

/-- An entry of the violation log (R652). -/
structure Viol where
  w0 : Word
  w1 : Word
  w2 : Word
  w3 : Word
  deriving DecidableEq, Repr

/-- The unsignalled completions of one completion ring (R635): context, ring, count and the raw time of the first. -/
structure Coalesce where
  ctx : Nat
  ring : Nat
  count : Nat
  since : Nat
  deriving DecidableEq, Repr

/-- The status bits of one SPI target port (R627). -/
structure SpiStat where
  retry : Bool
  refused : Bool
  format : Bool
  deriving DecidableEq, Repr

/-- A completion or event entry held for a host-frame context (R630): context, whether it is an event, the 32 bytes
and the raw time at which it was held. -/
structure HeldEntry where
  ctx : Nat
  event : Bool
  bytes : List Byte
  since : Nat
  deriving DecidableEq, Repr

/-- Where a journal share stands (R654): the next entry to write and the entries held, both within the share. -/
structure JrnShare where
  next : Nat
  count : Nat
  deriving DecidableEq, Repr

/-- What a HOST_CTX record gives beside `HST_CTX_CFG` (R621): MAC address, tag word and EtherType. -/
structure HostCfg where
  ctx : Nat
  mac : Nat
  tag : Nat
  etype : Nat
  deriving DecidableEq, Repr

structure HostState where
  /-- The addresses of the HOST_CTX records (R621). -/
  cfgs : List HostCfg
  /-- MODEL's own output: the data word the last register or SPI read returned. -/
  readData : Word
  /-- MODEL's own output: whether the last TLP completed with Completer Abort (R666). -/
  readAbort : Bool
  /-- MODEL's own output: host-memory writes in the order in which the node makes them. -/
  dma : List HostWrite
  /-- MODEL's own output: MSI-X messages fired, as (context, vector) (R635). -/
  msix : List (Nat × Nat)
  /-- The MSI-X tables of PF0 to PF3 in BAR4, as (context, dword offset, value) where a dword differs from its reset value, and
  the pending vectors as (context, vector) (R669). -/
  msixTable : List (Nat × Nat × Word)
  msixPend : List (Nat × Nat)
  /-- Commands fetched and not yet completed. -/
  flight : List Flight
  /-- Commands that wait for a later happening. -/
  waits : List Wait
  /-- Completion and event rings in a pass whose PHASE is 0, as (context, ring) with ring 4 the event ring (R634). -/
  phase0 : List (Nat × Nat)
  /-- Unsignalled completions (R635). -/
  coalesce : List Coalesce
  /-- Commands accepted from host frames and not yet fetched (R630), as (context, ring, entry). -/
  frameCmds : List (Nat × Nat × SqEntry)
  /-- Entries held for host-frame contexts (R630). -/
  held : List HeldEntry
  /-- The two SPI ports (R627). -/
  spi0 : SpiStat
  spi1 : SpiStat
  /-- The violation log, oldest first; at most 32 (R652). -/
  viol : List Viol
  /-- Refusals lost in the current overflow of the violation log (R652). -/
  violLost : Nat
  /-- Events lost in the current overflow of a context's event ring (R642), as (context, count). -/
  evqLost : List (Nat × Nat)
  /-- Rings stopped under R626, as (context, ring) with 4 the event ring, 5 FTX and 6 FRX. -/
  stopped : List (Nat × Nat)
  /-- Context resets in progress, as (context, cause of R664). -/
  resets : List (Nat × Nat)
  /-- The journal layout of the last image, as entries per context 0 to 7, kept with the journal (R657). -/
  layout : List Nat
  /-- The journal shares of contexts 0 to 7, kept with the journal (R654). -/
  shares : List JrnShare
  deriving DecidableEq, Repr

/-! ### Frames on the spine (R147 to R156) -/

/-- The spine header (R151). The correction field is held as the 64-bit number on the wire. -/
structure SpineHdr where
  ver : Nat
  kind : Nat
  lineB : Bool
  pending : Bool
  ageValid : Bool
  tunnel : Bool
  lastFrag : Bool
  flagRes : Nat
  epoch : Nat
  src : Nat
  tc : Nat
  sid : Nat
  ci : Nat
  seq : Nat
  age : Nat
  corr : Nat
  cycle : Nat
  plen : Nat
  res : Nat
  check : Nat
  deriving DecidableEq, Repr

/-! ### Links (chapters 02 and 04) -/

/-- What one fabric port with a link (0 to 12) holds beside its registers. -/
structure Port where
  /-- A PDELAY exchange has completed since the link came up (R260). -/
  pdDone : Bool
  /-- Exchanges completed since the link came up (R312). -/
  pdCount : Nat
  /-- The exchanges in progress as (exchange number, raw t1), oldest first (R311), and the next exchange number. -/
  exch : List (Nat × Nat)
  exchNext : Nat
  /-- The last 8 accepted measurements and those set aside, in 2^-16 ns, oldest first (R313). -/
  pdLast : List Int
  pdAside : List Int
  /-- Consecutive exchanges missed (R313). -/
  pdMisses : Nat
  /-- The raw time at which the port last started an exchange of R312 since the link came up. -/
  pdAt : Option Nat
  /-- The far end's node identity and node state, as its PDELAY frames give them (R310). -/
  farId : Nat
  farState : Nat
  /-- The far end's fabric port (R310). -/
  farPort : Nat
  /-- A MAC control frame, or a foreign PTP message, has been reported since the link came up (R183, R336). -/
  pauseSeen : Bool
  ptpSeen : Bool
  /-- The raw times of the last periodic messages of the port's time service, by message type (R333). -/
  ptpAt : List (Nat × Nat)
  /-- The highest packet number accepted on the link, none before the first (R180). -/
  secPn : Option Nat
  /-- A protected link carries nothing until its next link-up (R181). -/
  secBlocked : Bool
  /-- Wake frames still to send, and the raw time of the next one (R186). -/
  wakeLeft : Nat
  wakeAt : Nat
  /-- The raw times of the wake frames that the port's listen island has accepted in the last 10 ms (R185). -/
  wakeHeard : List Nat
  /-- The raw times until which the wire is taken: by a frame that nothing interrupts, and by a preemptable frame (R168, R174). -/
  busy : Nat
  preEnd : Nat
  /-- The deficit round robin of TC0 to TC3: the class whose turn it is and the deficits in octets (R166). -/
  turn : Nat
  deficit : List Nat
  /-- The raw time at which the link last came up or went down. -/
  linkAt : Nat
  /-- The link has gone down and come up again since it was withdrawn under R28. -/
  crossFresh : Bool
  deriving DecidableEq, Repr

/-- A frame the node hands to a port, with the raw time at which it is handed over. -/
structure Sent where
  port : Nat
  frame : Frame
  time : Nat
  /-- The port ended the frame with the complement of its FCS (R170). -/
  stomped : Bool
  /-- The value that an injection XORs into the FCS of the frame (R694). -/
  fcsXor : Nat
  /-- The bytes after the addresses as a protected port sends them, empty on another port (R178). -/
  sec : List Byte
  deriving DecidableEq, Repr

/-- A frame in an egress queue (R166): its port and class, the fabric port it entered on, the raw time from which it may
start, and the TSQ with the tag that takes its egress stamp (R326). -/
structure Queued where
  port : Nat
  cls : Nat
  ingress : Nat
  ready : Nat
  frame : Frame
  stamp : Option (Nat × Nat)
  deriving DecidableEq, Repr

/-- A forwarded frame that waits at an egress port for its TC6 gate (R214): its stream, the port, the ingress port, the
ingress stamp and the frame. -/
structure Transit where
  stream : Nat
  egress : Nat
  ingress : Nat
  stamp : Nat
  frame : Frame
  deriving DecidableEq, Repr

/-- A queued MDIO write of a PHY script (R187): master, PHY address, register address, data. -/
structure MdioWrite where
  master : Nat
  phyad : Nat
  regad : Nat
  data : Nat
  deriving DecidableEq, Repr

structure NetState where
  /-- Fabric ports 0 to 12. -/
  ports : List Port
  /-- MODEL's own output: the frames handed to the ports, oldest first. -/
  sent : List Sent
  /-- The egress queues of the ports, in order of arrival (R166, R167). With `transit` they are what the frame buffer holds
  (R56, R70). -/
  queue : List Queued
  /-- Frames that wait for a gate (R214). -/
  transit : List Transit
  /-- PHY script writes not yet sent, in order (R187). -/
  script : List MdioWrite
  /-- The MDIO masters on which a software frame is in progress (R144). -/
  mdioSoft : List Nat
  /-- The scripts that the image gives for listen entry and listen exit (R187). -/
  scriptEnter : List MdioWrite
  scriptExit : List MdioWrite
  /-- The writes that set and clear a port's loop in its PHY, by port (R683). -/
  phyLoop : List (Nat × MdioWrite)
  phyUnloop : List (Nat × MdioWrite)
  /-- WAKE_SEND has been set by the node itself since it entered LINK (R186). -/
  wakeAutoDone : Bool
  deriving DecidableEq, Repr

/-! ### The cycle (chapter 05) -/

/-- A SLOT_LIST entry (R233). -/
structure SlotEntry where
  start : Nat
  stream : Nat
  k : Nat
  phase : Nat
  orig : Bool
  egress : Nat
  deriving DecidableEq, Repr

/-- A POLL_TABLE entry (R234). -/
structure PollEntry where
  identity : Nat
  budget : Nat
  deriving DecidableEq, Repr

/-- A schedule mode (R230 to R234). -/
structure Mode where
  num : Nat
  sguard : Nat
  sched : Nat
  poll : Nat
  guard : Nat
  placer : Bool
  slots : List SlotEntry
  polls : List PollEntry
  deriving DecidableEq, Repr

/-- A mode switch as the node holds it (R237 to R243). `cyc` is the 64-bit cycle C. -/
structure Switch where
  target : Nat
  cyc : Nat
  tint : Nat
  /-- 1 announced, 2 confirmed, 3 aborted. -/
  state : Nat
  reason : Nat
  acked : Bool
  refused : Bool
  /-- The identity of the master that announced it. -/
  announcer : Nat
  deriving DecidableEq, Repr

/-- A switch request (R235): target, earliest cycle (0 for the earliest), tint tag, requester node and tag. -/
structure ModeReq where
  target : Nat
  earliest : Nat
  tint : Nat
  node : Nat
  tag : Nat
  deriving DecidableEq, Repr

/-- The status frame of a node as the receiver keeps it (R219, R397): node, cycle (low 32 bits), mode, acknowledge and
refuse flags, acknowledged mode, cycle and tint, token holder flag, waiting bytes, and whether a SLOT frame of the node
carried PENDING in that cycle. -/
structure StatusRec where
  node : Nat
  cycle : Nat
  mode : Nat
  ack : Bool
  refuse : Bool
  ackMode : Nat
  ackCycle : Nat
  ackTint : Nat
  holder : Bool
  waiting : Nat
  deriving DecidableEq, Repr

/-- A poll of the current polled window (R226): node, index, budget, answered. -/
structure PollRec where
  node : Nat
  index : Nat
  budget : Nat
  replied : Bool
  deriving DecidableEq, Repr

/-- A stream this node originates: its three buffers and the header fields of its next instance (R221, R222). -/
structure TxStream where
  stream : Nat
  /-- The buffer being written. -/
  write : List Byte
  /-- The latest complete copy. -/
  latest : List Byte
  /-- The buffer being sent. -/
  send : List Byte
  /-- A buffer has been completed since the previous take, at this raw time. -/
  fresh : Bool
  doneAt : Nat
  /-- The complete buffer and its application check that the take of the CORE cycle of the last completion still finds (R221). -/
  prior : Option (List Byte × Word)
  seq : Nat
  age : Nat
  /-- The stream's frames carry AGE_VALID (R223). -/
  aged : Bool
  /-- The application check of the buffer completed last (R449). -/
  check : Word
  /-- The polled data queue held a message at the last take instant (R220). -/
  pend : Bool
  deriving DecidableEq, Repr

structure CycState where
  /-- The modes defined at this node (R230). -/
  modes : List Mode
  /-- The cycle in progress, as the last CYCLE_BOUNDARY began it. -/
  cur : Nat
  /-- The mode that the last REF accepted named, and the raw time at which it was accepted. -/
  refMode : Nat
  refAt : Option Nat
  /-- Consecutive cycles without a REF (R210). -/
  missed : Nat
  /-- MUTE under R230: the current mode is one that the node does not hold. -/
  noMode : Bool
  /-- The node has just entered RUN and takes the mode that the next REF names (R230, R279). -/
  entering : Bool
  /-- The number of the last REF accepted, none before the first. -/
  lastRef : Option Nat
  /-- The lines on which a REF of the cycle in progress arrived. -/
  seenA : Bool
  seenB : Bool
  /-- The port on which the accepted REF arrived (R156, R270). -/
  refPort : Nat
  /-- The delay in ns from the cycle master that its last REF of each line had at its ingress here, and the port of that ingress,
  from which the crossings on this node's ports follow (R208). -/
  pathA : Option (Nat × Nat)
  pathB : Option (Nat × Nat)
  /-- Consecutive REFs whose mode, or whose number and code, matched while in MUTE (R211, R244). -/
  modeRun : Nat
  numRun : Nat
  /-- A run of mismatching REFs is in progress (R244), and the mode to adopt at the next boundary. -/
  mismatch : Bool
  adopt : Option Nat
  /-- The REF's cycle code differs from the node's own until a new image is loaded (R211). -/
  codeBad : Bool
  /-- The pending switch as this node holds it. -/
  switch : Option Switch
  /-- Master: the accepted request not yet announced (R237). -/
  request : Option ModeReq
  /-- Master: the nodes of the switch set and those that have acknowledged (R238, R240). -/
  set : List Nat
  acks : List Nat
  /-- Master: an abort reason to announce with the next REF, 0 for none (R240). -/
  abort : Nat
  /-- Requests of this node that wait to be sent as MODE frames (R235), and the next request tag. -/
  toSend : List ModeReq
  nextTag : Nat
  /-- The status frames held, one per source (R397). -/
  status : List StatusRec
  /-- Nodes whose SLOT frames of a cycle carried PENDING, as (node, cycle) (R225). -/
  pendingNodes : List (Nat × Nat)
  /-- Master: the polls of this cycle (R226). -/
  polls : List PollRec
  /-- The cycle and index of the last poll acted on (R227). -/
  pollSeen : Option (Nat × Nat)
  /-- The streams this node originates. -/
  tx : List TxStream
  deriving DecidableEq, Repr

/-! ### Inauguration (chapter 06) -/

/-- One node of a numbering (R276, R299). -/
structure NumEntry where
  identity : Nat
  num : Nat
  pos : Nat
  orient : Bool
  branch : Bool
  roleB : Bool
  paired : Bool
  backup : Nat
  tag : Nat
  deriving DecidableEq, Repr

/-- A TOPO record (R269). -/
structure TopoRec where
  identity : Nat
  upstream : Nat
  vehTag : Nat
  pairId : Nat
  delay : Nat
  epoch : Nat
  rank : Nat
  flags : Nat
  ingress : Nat
  fanout : Nat
  code : Nat
  jlk : Nat
  deriving DecidableEq, Repr

/-- A TOPO record with the path field of the reply that carried it (R268). -/
structure TopoHeld where
  topo : TopoRec
  path : Nat
  deriving DecidableEq, Repr

/-- An announced train-wide operation (R292): 3 train reset, 4 snapshot; cycle, offset, requester identity and tag. -/
structure TrainOp where
  op : Nat
  cyc : Nat
  offset : Nat
  requester : Nat
  tag : Nat
  deriving DecidableEq, Repr

/-- What the master announces for a commit (R277). -/
structure Commit where
  epoch : Nat
  cyc : Nat
  initial : Bool
  lead : Nat
  partner : Nat
  entries : List NumEntry
  deriving DecidableEq, Repr

structure InaState where
  /-- The raw time at which the node entered its state, and at which the listening time W last started (R261). -/
  entered : Nat
  waitFrom : Nat
  /-- The CLAIMs received in the last 1 ms, as the 56-bit value and the raw time of receipt (R264). -/
  claimsHeard : List (Nat × Nat)
  /-- Claims sent in this CLAIM state, and the raw time at which claiming started (R263, R265). -/
  claims : Nat
  claimFrom : Nat
  /-- The node claims as a backup continuing from holdover (R286). -/
  hold : Bool
  /-- The identity of the last CLAIM heard without `HOLD`, with the raw time of receipt, until the next commit taken or
  missed (DEDUCED, log entry 24). -/
  heard : Option (Nat × Nat)
  /-- The commit that the master's REF announces: epoch and cycle. -/
  refCommit : Option (Nat × Nat)
  /-- Master: requests that wait for a commit to be announced, and for a round to start, as (requester, tag). -/
  leadBy : List (Nat × Nat)
  roundBy : List (Nat × Nat)
  /-- The current master's partner node, 0 for none (R266). -/
  masterPartner : Nat
  /-- Master: nothing has been committed since a cold-start election (R279). -/
  coldStart : Bool
  /-- Master: the cause of its election (1 cold start, 2 takeover) and its first REF's cycle. -/
  electCause : Nat
  firstRef : Nat
  /-- Master: REF carries HOLDOVER until the first commit (R324). -/
  holdRef : Bool
  /-- Master: TOPO round number, in progress, rounds incomplete in a row, records collected, raw and train time of the
  last notice (R271). -/
  round : Nat
  roundOn : Bool
  roundCyc : Nat
  incomplete : Nat
  collected : List TopoHeld
  lastNotice : Int
  /-- Master: a round is wanted, the train time of its trigger, the ports on which the probes of the round went, and whether
  the records are complete and wait to be numbered (R271, R272). -/
  wanted : Bool
  trigger : Int
  probed : List Nat
  ready : Bool
  /-- The ingress port remembered for a round and path, as (round, path, port) (R270). -/
  probes : List (Nat × Nat × Nat)
  /-- The bound leading-end identity requested and not yet committed (R290): none, or the identity with 0 the default. -/
  leadReq : Option Nat
  /-- The current numbering and the previous one (R280, R299). -/
  table : List NumEntry
  prev : List NumEntry
  /-- The cycle at which the bleed window ends. -/
  bleedEnd : Nat
  /-- The TOPO_RESULT parts held for the announced commit: epoch, cycle, lead, partner, entries and parts seen. -/
  result : Option Commit
  parts : List Nat
  /-- Master: the announced commit (R277). -/
  announced : Option Commit
  /-- Whether the node was in RUN when the commit was announced (R279). -/
  joiner : Bool
  /-- The operation announced and pending (R292), and whether it has been accepted by this node. -/
  op : Option TrainOp
  /-- The answers the master repeats until the announced cycle (R291), as (requester, tag, result, cycle). -/
  answers : List (Nat × Nat × Nat × Nat)
  /-- The next request tag of this node. -/
  nextTag : Nat
  /-- The snapshot record to be sent, with its requester identity, until polled (R294). -/
  snapshot : Option (Nat × List Byte)
  /-- The tag of the last snapshot that this node requested (R294). -/
  snapTag : Option Nat
  /-- Pair identities in conflict by the last numbering (R19). -/
  conflicts : List Nat
  /-- TTDP: the identities of the HELLO senders by port and the raw time of the last HELLO (R295), as (port, identity, raw). -/
  hello : List (Nat × Nat × Nat)
  deriving DecidableEq, Repr

/-! ### Train time (chapter 07) -/

/-- Offset and rate before a step, kept for 2 basic cycles (R308): the raw time of the step and the values. -/
structure OldTime where
  step : Nat
  offset : Int
  rate : Int
  deriving DecidableEq, Repr

/-- A TIME_ADJUST shift in progress (R320): the rate before it, the added rate, the amount in 2^-16 ns and the raw time
at which it started. -/
structure Slew where
  base : Int
  add : Int
  amount : Int
  start : Nat
  deriving DecidableEq, Repr

/-- A TSQ entry (R327). -/
structure TsqEntry where
  tag : Nat
  port : Nat
  gap : Bool
  lost : Nat
  stamp : Word
  deriving DecidableEq, Repr

/-- A timestamp queue (R328): entries, oldest first, the overflow flag and the stamps lost. -/
structure Tsq where
  entries : List TsqEntry
  ovf : Bool
  lost : Nat
  deriving DecidableEq, Repr

/-- A timed output (R329, R330): the values in force since it was armed, the pin level and the end of a pulse. -/
structure Tout where
  armed : Bool
  mode : Nat
  start : Int
  period : Nat
  width : Nat
  /-- The index of the next pulse. -/
  next : Nat
  active : Bool
  deriving DecidableEq, Repr

/-- An entry of a capture queue (R332): seconds, nanoseconds and level. -/
structure Capture where
  sec : Nat
  ns : Nat
  level : Bool
  deriving DecidableEq, Repr

/-- A capture input: its queue (at most 16) and whether an overflow is in progress. -/
structure Tcap where
  entries : List Capture
  lost : Nat
  full : Bool
  deriving DecidableEq, Repr

structure TimeState where
  /-- Raw time R in ns (the raw counter and its interpolated phase). -/
  raw : Nat
  /-- Offset in 2^-16 ns and rate in 2^-32 (R304). -/
  offset : Int
  rate : Int
  /-- The frequency term f of the servo (R316). -/
  freq : Int
  old : Option OldTime
  slew : Option Slew
  /-- REFs counted in ACQUIRE, and the first REF's raw stamp and master time (R317). -/
  refs : Nat
  ref1 : Option (Nat × Int)
  /-- The state held before HOLDOVER (R317). -/
  held : Nat
  tsqs : List Tsq
  touts : List Tout
  tcaps : List Tcap
  /-- MODEL's own output: the pulses driven on the timed outputs, as (output, start in ns of train time, width). -/
  pulses : List (Nat × Int × Nat)
  /-- The audio PLL has re-phased or is locking: the raw time at which it started (R338). -/
  audioMute : Bool
  /-- Car ports: the sequence numbers of Sync and Announce, and the UTC offset of the time record (R333, R339). -/
  ptpSeq : Nat
  utc : Nat
  deriving DecidableEq, Repr


/-! ### Placement (chapter 08) -/

/-- A slot that the placer has given (R364): stream, node identity, copy index, whether the node originates the frame, the
fabric port, the start in ns, the latest end and the wire time in tenths of ns (R355), and whether a move drops it in the
mode after the next (R369). -/
structure Placed where
  stream : Nat
  node : Nat
  copy : Nat
  orig : Bool
  port : Nat
  start : Nat
  late : Nat
  wire : Nat
  old : Bool
  /-- The period exponent and the phase of the slot. -/
  k : Nat
  phase : Nat
  deriving DecidableEq, Repr

/-- The ledger of a node (R349): free cells of the scheduled pool, mix inputs that SE0 to SE7 offer, audio streams carried and
originated entries. The inputs in use follow from the stream table (R377). -/
structure Ledger where
  identity : Nat
  pool : Nat
  mix : List Nat
  audio : Nat
  orig : Nat
  deriving DecidableEq, Repr

/-- A request (R362): type 1 declare, 2 remove, 3 resend. At its own node: the cycle in which it was last sent and the
attempts made (R372). -/
structure PlcReq where
  type : Nat
  stream : Nat
  tag : Nat
  requester : Nat
  entry : List Word
  first : Nat
  cycle : Nat
  attempts : Nat
  deriving DecidableEq, Repr

/-- A message of the polled data queue (R227, R380): its stream, sequence and bytes, and the identities it is for (none:
every node, or the cycle master for the request and census streams). -/
structure OutMsg where
  stream : Nat
  seq : Nat
  dests : List Nat
  bytes : List Byte
  /-- The raw time at which the message expires once it is stored (R382, R384). -/
  expiry : Nat
  deriving DecidableEq, Repr

/-- A message being received (R380): source identity, stream, sequence and the fragments held, in order. -/
structure InPart where
  src : Nat
  stream : Nat
  seq : Nat
  frags : List (List Byte)
  deriving DecidableEq, Repr

/-- A message that waits for a receive (R381), with its source identity. -/
structure InMsg where
  stream : Nat
  src : Nat
  bytes : List Byte
  deriving DecidableEq, Repr

/-- A message in the partition store (R382, R383): its stream, the destination node or pair that is absent, its bytes and
the raw time at which it expires. -/
structure StoredMsg where
  stream : Nat
  pair : Bool
  dest : Nat
  bytes : List Byte
  expiry : Nat
  deriving DecidableEq, Repr

/-- A planned move of a full re-placement (R370): the stream, its new phase and its new slots. -/
structure Move where
  stream : Nat
  phase : Nat
  slots : List Placed
  deriving DecidableEq, Repr

structure PlcState where
  /-- The records of the last complete TOPO round (R348). -/
  records : List TopoHeld
  /-- Master: the ledger of every node (R349). -/
  ledgers : List Ledger
  /-- The slots given to every stream, status streams included (R346). -/
  placed : List Placed
  /-- The SLOT_LIST entries of the base mode that other nodes' censuses gave (R379). -/
  fixed : List Placed
  /-- The status placement of the numbering to come (R361). -/
  nextStatus : List Placed
  /-- Master: the requests that wait for a decision, in order of arrival (R359), and verdicts not yet sent (R363). -/
  queue : List PlcReq
  verdicts : List (List Byte)
  /-- Requests of this node without a verdict (R372), and the next request tag. -/
  mine : List PlcReq
  nextTag : Nat
  /-- The polled data queue. -/
  out : List OutMsg
  /-- The next message sequence of each stream this node sends. -/
  seqs : List (Nat × Nat)
  /-- Messages being received, and the last 16 sequences delivered of each system stream from each source (R397), as
  (source, stream, sequence), newest first. -/
  parts : List InPart
  done : List (Nat × Nat × Nat)
  /-- Messages that wait for a receive (R381), oldest first. -/
  inbox : List InMsg
  /-- The partition store (R382), oldest first. -/
  store : List StoredMsg
  /-- The steps of a full re-placement not yet staged (R370). -/
  moves : List (List Move)
  /-- The streams placed for the first time in the mode being staged, and the cycle in which that mode's last verdict was
  sent (R367). -/
  staging : List Nat
  verdictCyc : Nat
  /-- The streams staged in a mode whose switch is announced. -/
  announcedStreams : List Nat
  /-- Growth intervals (R374), as (start, length, lines). -/
  growth : List (Nat × Nat × Nat)
  /-- The epoch whose status placement of this node is held (R361). -/
  statusEpoch : Option Nat
  /-- The default message expiry in s (R379). -/
  expiry : Nat
  /-- The census of this node is to be sent (R379). -/
  censusDue : Bool
  /-- The cells of the scheduled pool and those held by fixed streams, and the mix inputs that each of SE0 to SE7 offers
  (R377, R379). -/
  poolCells : Nat
  fixedCells : Nat
  mixCap : List Nat
  /-- The rejections of this node's own requests not yet acted on, as (tag, reason) (R498, R514). -/
  rejected : List (Nat × Nat)
  /-- The identities that joined at the last commit (R279). -/
  joiners : List Nat
  deriving DecidableEq, Repr

/-! ### Pairs (chapter 09) -/

structure ParState where
  /-- The raw time of entry to INIT (R412), and the highest generation seen. -/
  initAt : Nat
  genSeen : Nat
  /-- Holder: the raw time of the last acknowledgement counted, or of the contact from which the lease counts (DEDUCED, log entry 30).
  Standby: that of the last renewal seen (R408, R409). -/
  lease : Option Nat
  /-- The raw times of the last renewal or acknowledgement on the Jalder link, of the last Jalder control frame and of the
  last accepted heartbeat pulse (R404, R412, R413). -/
  jlkAt : Option Nat
  ctrlAt : Option Nat
  hbAt : Option Nat
  /-- Standby: the raw time of the last acknowledgement sent; holder: that of the last renewal sent (R407). -/
  ackSent : Option Nat
  renewAt : Option Nat
  /-- A loss of the path has been raised and the path has not recovered (R404). -/
  lostJlk : Bool
  lostHb : Bool
  /-- PARTNER_LOST has been raised and contact has not returned (R413). -/
  lost : Bool
  /-- A commit has passed whose numbering does not list the partner (R410). -/
  alone : Bool
  /-- The raw time of the rising edge of the last renewal pulse driven or seen (R403). -/
  pulseAt : Option Nat
  /-- MODEL's own output: pulses driven on `PAIR_HB_OUT`, as (rising edge in raw ns, high time in ns). -/
  pulses : List (Nat × Nat)
  /-- Holder: the cycle of the handover pending, whether its acknowledgement has arrived, and the cause it will be raised
  with. -/
  handover : Option Nat
  handAcked : Bool
  handCause : Nat
  /-- Standby: the handover cycle it has acknowledged (R414). -/
  handTake : Option Nat
  /-- Consecutive cycles in MUTE (R415). -/
  muteRun : Nat
  /-- Holder: the journal lines as the standby last reported them applied, and the snapshot of the current cycle with the
  lines due (R422), as (line, 64 bytes). -/
  base : List (Nat × List Byte)
  snap : List (Nat × List Byte)
  snapCyc : Nat
  /-- Holder: the lines sent in the last copy, not yet reported applied. -/
  sent : List (Nat × List Byte)
  sentCyc : Nat
  /-- Holder: the last copy sent was complete (R424). -/
  sentWhole : Bool
  /-- Holder: the next line of a full pass, none outside one (R429). -/
  pass : Option Nat
  /-- Standby: the records of the copy being received, the cycles of the last two copies applied, and its full pass: 0
  none, 1 wanted, 2 running (R425, R426, R428). -/
  buffer : List (Nat × List Byte)
  applied : Option Nat
  appliedBefore : Option Nat
  resync : Nat
  /-- Standby: the replicated lines beyond the journal (R421), as (line, 64 bytes). -/
  lines : List (Nat × List Byte)
  /-- Runs of stale instances per tracker (R395), as (stream, instances, last sequence). -/
  stale : List (Nat × Nat × Nat)
  /-- The copy index of the copy kept for the highest sequence, per tracker (R396). -/
  kept : List (Nat × Nat)
  deriving DecidableEq, Repr

/-! ### Process data and discrete lines (chapter 10) -/

/-- A fresh copy of an instance: the cycle of the instance, the age it carries, the dataset header and the data. -/
structure DsCopy where
  cyc : Nat
  age : Nat
  header : List Byte
  data : List Byte
  deriving DecidableEq, Repr

/-- What a consumed dataset presents (R457): status word, the dataset header and the data. -/
structure DsView where
  status : Nat
  header : List Byte
  data : List Byte
  deriving DecidableEq, Repr

/-- A dataset of the DATASETS section (R472) and what the node holds of it. -/
structure Dataset where
  stream : Nat
  consumed : Bool
  safePolicy : Bool
  source : Nat
  ports : Nat
  len : Nat
  limit : Nat
  sigma : Nat
  omega : Nat
  margin : Nat
  dst : Nat
  tci : Nat
  layout : Nat
  safeValue : List Byte
  /-- Line maps, as (line, bit). -/
  maps : List (Nat × Nat)
  /-- Under R446 a verdict's deadline differs. -/
  mismatch : Bool
  /-- Produced: the lines sampled at the last sample instant, as (line, active). -/
  sampled : List (Nat × Bool)
  /-- Consumed: the fresh copy of the instance to be decided, the last fresh copy since the dataset became active, the
  age reported, misses and safe instances in a run. -/
  fresh : Option DsCopy
  last : Option DsCopy
  age : Nat
  misses : Nat
  safeRun : Bool
  lineA : Bool
  lineB : Bool
  /-- The instance of the current period has been decided, and what was fixed is to be presented at the output instant. -/
  decided : Option DsView
  late : Bool
  /-- The cycles of the instances last sampled, completed by the node, decided and presented (R445, R448, R451, R452). -/
  sampledCyc : Option Nat
  doneCyc : Option Nat
  decidedCyc : Option Nat
  outCyc : Option Nat
  /-- What the host view, mapped outputs and bindings present, and the view before it. -/
  shown : DsView
  /-- Views pinned by contexts (R457), as (context, view, output instants since). -/
  pins : List (Nat × DsView × Nat)
  deriving DecidableEq, Repr

/-- An entry of the edge queue (R464). -/
structure EdgeEntry where
  line : Nat
  level : Bool
  gap : Bool
  lost : Nat
  stamp : Word
  deriving DecidableEq, Repr

/-- What a line holds beside its registers: when it became active (R465), edges per sub-window, newest last (R466), edges
in the storm, and the failed readback already reported (R470). -/
structure Line where
  activeAt : Nat
  counts : List Nat
  subAt : Nat
  stormEdges : Nat
  readbackBad : Bool
  /-- The raw time at which the level to drive last changed (R470). -/
  drivenAt : Nat
  deriving DecidableEq, Repr

structure PdState where
  /-- Datasets, produced and consumed, in the order of their descriptors. -/
  sets : List Dataset
  /-- The raw time from which the instants have run (R447). -/
  since : Nat
  /-- The context of the edge queue (R464), none when not assigned. -/
  edgeCtx : Option Nat
  edges : List EdgeEntry
  edgeLost : Nat
  edgeOvf : Bool
  /-- Lines 0 to 35. -/
  lines : List Line
  /-- The output lines driven since the reset (R468). -/
  touched : List Nat
  /-- MODEL's own output: the pins whose driver is on, as (line, driven active). -/
  driven : List (Nat × Bool)
  deriving DecidableEq, Repr

/-! ### Audio and on-node services (chapter 11) -/

/-- The AUD_GLOBAL record (R520). -/
structure AudGlobal where
  rate16 : Bool
  pcm24 : Bool
  svcFirst : Nat
  svcCount : Nat
  poolFirst : Nat
  poolCount : Nat
  prios : List Nat
  duckMask : Nat
  duckDepth : Nat
  fade : Nat
  escalation : Nat
  deriving DecidableEq, Repr

/-- An ELEMENT record (R493): graph, element, type and the 32-byte parameter field as `AUD_PARAM_SET` has changed it. -/
structure Element where
  graph : Nat
  elem : Nat
  type : Nat
  params : List Byte
  deriving DecidableEq, Repr

/-- A CONNECT record (R492). -/
structure Connect where
  graph : Nat
  fromElem : Nat
  fromOut : Nat
  toElem : Nat
  toIn : Nat
  deriving DecidableEq, Repr

/-- A library entry (R509, R510): its LIB_ENTRY record, the place of its content in DRAM region 1, and the ranges written as
(first, end) offsets. -/
structure LibEntry where
  id : Nat
  format : Nat
  rate : Nat
  samples : Nat
  len : Nat
  crc : Nat
  gain : Nat
  offset : Nat
  valid : Bool
  unverified : Bool
  written : List (Nat × Nat)
  deriving DecidableEq, Repr

/-- A STATION record (R511) and what the node holds of the station: the counter of its last call and the level of its
source. -/
structure Station where
  index : Nat
  cab : Bool
  flags : Nat
  line : Nat
  stream : Nat
  bit : Nat
  mic : Nat
  speaker : Nat
  answer : Nat
  counter : Nat
  level : Bool
  deriving DecidableEq, Repr

/-- An AAF_STREAM record (R489 to R491), the sequence of its next PDU and, for an input, the last PDU accepted as (sample
number of its first sample, its samples). -/
structure AafStream where
  index : Nat
  output : Bool
  port : Nat
  channels : Nat
  format : Nat
  unique : Nat
  dst : Nat
  tci : Nat
  talker : Nat
  seq : Nat
  placed : Option (Nat × List Byte)
  /-- Outputs: the cycle in which its PDUs were last sent (R490). -/
  sentCyc : Option Nat
  deriving DecidableEq, Repr

/-- A CHIME record. -/
structure Chime where
  index : Nat
  f1 : Nat
  f2 : Nat
  level : Nat
  on : Nat
  off : Nat
  repeats : Nat
  deriving DecidableEq, Repr

/-- What a request does in one zone (R503, R504): 0 plays at its gain, 1 ducked, 2 muted, and the sample of the last change,
at which a ramp begins. -/
structure ZonePlay where
  zone : Nat
  level : Nat
  since : Nat
  deriving DecidableEq, Repr

/-- A request at a node that takes part (R499, R500). -/
structure PaReq where
  requester : Nat
  tag : Nat
  type : Nat
  cls : Nat
  prio : Nat
  duckable : Bool
  repeats : Nat
  zones : Nat
  start : Nat
  source : Nat
  gain : Nat
  check : Nat
  gap : Nat
  started : Bool
  /-- The stop sample, once a stop message has named it (R506). -/
  stop : Option Nat
  /-- Samples skipped at a late join (R502). -/
  skipped : Nat
  plays : List ZonePlay
  deriving DecidableEq, Repr

/-- An audio stream as its receiver holds it (R488): the cycle and the payload of the last instance accepted, the cycle
decided last, and whether that one was missed. -/
structure AudioIn where
  stream : Nat
  got : Option (Nat × List Byte)
  decided : Option Nat
  silent : Bool
  /-- The edge at which the first sample of the instance last played is emitted (R487). -/
  playAt : Option Nat
  deriving DecidableEq, Repr

/-- A parameter that waits for its block boundary (R496). -/
structure ParamSet where
  graph : Nat
  elem : Nat
  offset : Nat
  width : Nat
  value : Nat
  sample : Nat
  deriving DecidableEq, Repr

/-- A call (R511, R515): its handle (station pair identity, station index, counter), its state by the codes of R526, its
streams and stamps. -/
structure Call where
  pair : Nat
  station : Nat
  counter : Nat
  state : Nat
  esc : Bool
  reqStamp : Word
  ansStamp : Word
  up : Nat
  down : Nat
  cabTag : Nat
  cabStn : Nat
  /-- The call slot at a cab node; none while queued. -/
  slot : Option Nat
  /-- The raw time at which it began to ring, or at the station node at which it was requested. -/
  since : Nat
  deriving DecidableEq, Repr

/-- A recording in progress (R517): the call's handle, the sample at which the next block begins, its block index, and the
sample at which the call ended. -/
structure Recording where
  pair : Nat
  station : Nat
  counter : Nat
  next : Nat
  block : Nat
  fin : Option Nat
  deriving DecidableEq, Repr

/-- A recording slot that holds a block (R517, R518). -/
structure RecSlot where
  slot : Nat
  pair : Nat
  station : Nat
  counter : Nat
  block : Nat
  prot : Bool
  deriving DecidableEq, Repr

/-- A declaration that the services have made (R498, R514): its request tag and stream, and what it is for: 0 the service
stream, 1 an uplink, 2 a downlink, with the handle of the call. -/
structure AudDecl where
  tag : Nat
  stream : Nat
  use : Nat
  pair : Nat
  station : Nat
  counter : Nat
  deriving DecidableEq, Repr

structure AudState where
  global : AudGlobal
  elements : List Element
  connects : List Connect
  lib : List LibEntry
  stations : List Station
  aafs : List AafStream
  chimes : List Chime
  /-- The requests that this node takes part in (R500). -/
  reqs : List PaReq
  /-- The tags of the requests that this node has issued and not stopped, and the next tag. -/
  issued : List Nat
  nextTag : Nat
  inputs : List AudioIn
  params : List ParamSet
  /-- The calls that this node holds as cab node, oldest first. -/
  calls : List Call
  /-- The open calls of this node's stations. -/
  mine : List Call
  /-- The vehicle tag of `CALL_CAB_SET`, 0 for position 1 (R512), and the active cab at the last commit. -/
  cabSet : Nat
  cabWas : Nat
  recordings : List Recording
  slots : List RecSlot
  /-- The service stream has been asked for (R498), and the declarations without a verdict. -/
  svcAsked : Bool
  decls : List AudDecl
  /-- Service messages that wait for the service stream. -/
  outbox : List (List Byte)
  deriving DecidableEq, Repr

/-! ### Vehicle buses (chapter 12) -/

/-- An entry of a transmit queue, or the progress of a send object (R534, R547, R549, R551): words 0x00 to 0x4C, attempts
made, consecutive clash errors, a cancel recorded while the frame is on the bus, and the release of a timed entry; whether a
timed entry reached the head of its queue before its limit, so that it is not late (R557), and the raw time from which the
entry can be offered to the bus. -/
structure TxEntry where
  words : List Word
  attempts : Nat
  clash : Nat
  cancel : Bool
  released : Bool
  inTime : Bool
  since : Option Nat
  deriving DecidableEq, Repr

/-- A lock (R543): 0 FIFO head, 1 object, 2 completion; the FIFO or object, the context and the raw time of its read. -/
structure CanLock where
  kind : Nat
  idx : Nat
  ctx : Nat
  since : Nat
  deriving DecidableEq, Repr

/-- A completion (R547). -/
structure CanComp where
  w0 : Word
  stamp : Word
  attempts : Nat
  gap : Bool
  lost : Nat
  deriving DecidableEq, Repr

structure CanState where
  /-- Queues Q0 to Q3 and their push windows (R534, R535). -/
  queues : List (List TxEntry)
  window : List (List Word)
  /-- RX0 and RX1 as the 21 words of each entry, and their shadows (R537, R544). -/
  fifos : List (List (List Word))
  shadows : List (Option (List Word))
  /-- The progress of send objects with `TXREQ` = 1, and the shadows of receive objects (R540, R544). -/
  objTx : List (Nat × TxEntry)
  objShadow : List (Nat × List Word)
  locks : List CanLock
  comps : List CanComp
  compOvf : Bool
  compLost : Nat
  /-- Owner bytes of Q0 to Q3, of RX0 and RX1 and of the completion queue (R560). -/
  owners : List Nat
  rxOwners : List Nat
  compOwner : Nat
  /-- The loop mode in effect, once it differs from `CAN_CTRL.LOOP` until the next bus idle (R559). -/
  loop : Nat
  /-- Integrating, in bus-off, counting recessive sequences, and held by a dominant timeout (R554 to R556). -/
  integ : Bool
  off : Bool
  recovering : Bool
  dom : Bool
  /-- Error passive has been raised and not been left (R554). -/
  passive : Bool
  /-- A frame was on the bus when `CAN_CTRL.HALT` was written: it completes (R563). -/
  lastOne : Bool
  deriving DecidableEq, Repr

/-! ### Bridging and remote windows (chapter 13) -/

/-- A tunnel or route of this node with the CAN records that wait to be sent (R567, R571): stream, source controller, kind (1
tunnel, 2 route) and the raw time of the first record of the frame being filled. -/
structure TunOut where
  stream : Nat
  ctl : Nat
  kind : Nat
  records : List (List Byte)
  since : Nat
  deriving DecidableEq, Repr

/-- A TUN frame held for missing sequences (R572). -/
structure TunHeld where
  seq : Nat
  records : List (List Byte)
  since : Nat
  deriving DecidableEq, Repr

/-- A tunnel or route stream received: the next sequence to replay and the frames held (R572). -/
structure TunIn where
  stream : Nat
  next : Option Nat
  held : List TunHeld
  deriving DecidableEq, Repr

/-- A target: a node identity, or a pair identity. -/
structure BrgTgt where
  pair : Bool
  id : Nat
  deriving DecidableEq, Repr

/-- A session toward a target (R582): its number, the next request sequence and when it was last used. -/
structure BrgSession where
  tgt : BrgTgt
  session : Nat
  seq : Nat
  used : Nat
  deriving DecidableEq, Repr

/-- A write request sent, kept for loss notices (R585). -/
structure BrgSent where
  tgt : BrgTgt
  session : Nat
  seq : Nat
  write : Bool
  wtag : Nat
  ctx : Nat
  slot : Nat
  window : Nat
  off : Nat
  deriving DecidableEq, Repr

/-- A read or lock request outstanding (R587, R593): 0 a read through BAR2, 1 a command's read, 2 a lock. `bar` is the BAR2
offset, 0xFFFFFFFF for a command; `block` asks for the 256-byte block of a prefetch (R590). -/
structure BrgRead where
  tag : Nat
  kind : Nat
  ctx : Nat
  slot : Nat
  bar : Nat
  size : Nat
  block : Bool
  tgt : BrgTgt
  window : Nat
  off : Nat
  since : Nat
  deriving DecidableEq, Repr

/-- A prefetch block (R590, R591): the BAR2 offset and the window offset of its first byte, its data, the raw times of its
response and of its last use, the words not yet read and the read side effect that its response carried. -/
structure PfBlock where
  bar : Nat
  tgt : BrgTgt
  window : Nat
  off : Nat
  data : List Byte
  since : Nat
  used : Nat
  unread : List Nat
  side : Bool
  deriving DecidableEq, Repr

/-- An entry of the posted-write error log (R586), W0 without `GAP` and `VALID`. -/
structure Pwe where
  w0 : Nat
  w1 : Nat
  w2 : Nat
  w3 : Nat
  w4 : Word
  gap : Bool
  lost : Nat
  deriving DecidableEq, Repr

/-- A request at the owning node (R577, R583): requester identity, the node number it came from, its sequence, whether it
was addressed to the pair, its payload and the raw time of its arrival. -/
structure OwnReq where
  requester : Nat
  src : Nat
  seq : Nat
  pair : Bool
  payload : List Byte
  since : Nat
  deriving DecidableEq, Repr

/-- What the owning node keeps of a requesting node (R583). -/
structure OwnSession where
  requester : Nat
  session : Nat
  high : Nat
  map : Nat
  next : Nat
  held : List OwnReq
  used : Nat
  deriving DecidableEq, Repr

/-- A target polled for its summary (R594, R595): summaries missed in a row, whether the last is answered, and the sideband
bits and the fault count last received. -/
structure BrgPolled where
  tgt : BrgTgt
  misses : Nat
  answered : Bool
  bits : Nat
  faults : Option Nat
  deriving DecidableEq, Repr

structure BrgState where
  tunOut : List TunOut
  /-- The next TUN sequence of each stream (R570). -/
  seqs : List (Nat × Nat)
  tunIn : List TunIn
  sessions : List BrgSession
  nextSession : Nat
  /-- The last 256 requests sent (R585). -/
  sent : List BrgSent
  reads : List BrgRead
  /-- Read TLPs that wait for one of the 32 (R587), as (context, offset, length). -/
  waiting : List (Nat × Nat × Nat)
  /-- The outcome of the last 1,024 read tags (R589), as (tag, timed out), and the next tag. -/
  outcomes : List (Nat × Bool)
  nextTag : Nat
  blocks : List PfBlock
  /-- The raw time of the last renewing request of each semaphore held or requested (R593). -/
  semSent : List (Nat × Nat)
  log : List Pwe
  logOvf : Bool
  logLost : Nat
  own : List OwnSession
  /-- Accepted requests in the order in which they are performed; at most 256 (R577). -/
  queue : List OwnReq
  /-- The raw time of the last renewal of each window's lock (R592). -/
  winLease : List (Nat × Nat)
  polled : List BrgPolled
  /-- The cycle of the last summary poll (R594). -/
  pollCyc : Option Nat
  /-- MODEL's own output: completions of read TLPs to BAR2, as (context, BAR2 offset, Completer Abort, data). -/
  cpls : List (Nat × Nat × Bool × List Byte)
  deriving DecidableEq, Repr

/-! ### The check engine -/

/-- A block of data that passes a snooping context (R611, R613): its feed, its stream and sequence for a spine stream, and
the data. -/
structure ChkBlock where
  feed : Nat
  stream : Nat
  seq : Nat
  data : List Byte
  deriving DecidableEq, Repr

/-- A DMA job in progress (R605, R612): the host context on whose behalf it runs, the running value at its start and the
4 KiB chunks that a read has shown complete. -/
structure ChkJob where
  req : Nat
  start : Nat
  chunks : Nat
  deriving DecidableEq, Repr

/-- A context of the check engine: its job, the snooped blocks that wait to complete, and whether a `STOP` waits for the
block in progress (R613). -/
structure ChkCtx where
  job : Option ChkJob
  blocks : List ChkBlock
  stop : Bool
  deriving DecidableEq, Repr

structure ChkState where
  /-- Contexts 0 to 27, those of software (R604). -/
  ctxs : List ChkCtx
  deriving DecidableEq, Repr

/-! ### Node memory -/

structure MemState where
  /-- The DRAM staging buffer (R134), by offset; an unlisted byte reads as zero. -/
  stage : List (Nat × Byte)
  /-- The octal SPI flash (R115), by flash address; an unlisted byte reads as 0xFF, erased. -/
  flash : List (Nat × Byte)
  /-- The regions of DRAM (R378), by DRAM address; an unlisted byte reads as zero. -/
  dram : List (Nat × Byte)
  /-- Entries of the stream table (2), the trackers (3), the filter rules (4) and the CAN routing table (5) that an uncorrectable
  error has hit and that count as absent until they are rewritten, as (memory, entry) (R73). -/
  absent : List (Nat × Nat)
  /-- The words of protected memory that an injection has altered (R694), as (memory, word, two bits or more): the memories of
  `TOP_ECC_LAST`, and 0 for DRAM with the number of its 64-byte unit. -/
  spoilt : List (Nat × Nat × Bool)
  deriving DecidableEq, Repr

/-! ### Test and loopback -/

/-- A loop of a target (R679 to R688): its depth as `TEST_LOOP` names it, 6 for the loop at LB1 that a neighbour asked for; in
effect or still to come; the raw time from which its duration counts; the duration in ms, 0 for one that holds; the ECHO
session and the enter frames sent. -/
structure TstLoop where
  target : Nat
  depth : Nat
  active : Bool
  since : Nat
  ms : Nat
  session : Nat
  tries : Nat
  force : Bool
  deriving DecidableEq, Repr

/-- The JTAG port (R696): the instruction register, the value captured for TDO, and whether the instruction takes the balls
from the node's logic (R697). -/
structure Jtag where
  ir : Nat
  dr : Nat
  taken : Bool
  deriving DecidableEq, Repr

structure TstState where
  loops : List TstLoop
  /-- Errors that PRBS checkers counted since the last PRBS_ERROR of each lane (R690). -/
  prbsErrs : List Nat
  jtag : Jtag
  deriving DecidableEq, Repr

/-! ### Boot, reset and sleep (chapters 03 and 18) -/

/-- A tint staged (R125, R126): its tag, its sequence and its sections, as (type, records), each record as (tag, value). -/
structure Tint where
  tag : Nat
  seq : Nat
  sections : List (Nat × List (Nat × List Byte))
  deriving DecidableEq, Repr

/-- A slot command at work (R123, R133, R730): the command's context and sequence; 0 erase, 1 write, 2 verify of a slot, 3
staging of a tint; the slot, the offset and the bytes. -/
structure FlashJob where
  ctx : Nat
  seq : Nat
  kind : Nat
  slot : Nat
  off : Nat
  data : List Byte
  deriving DecidableEq, Repr

/-- What a reset keeps of DRAM regions 1 and 2 (R717): their sizes in MiB, the library entries with their validity, and the
recording slots. -/
structure KeptDram where
  lib : Nat
  rec_ : Nat
  entries : List LibEntry
  slots : List RecSlot
  deriving DecidableEq, Repr

structure BootState where
  /-- 0 in reset, until RESET_RELEASE; 1 a slot has been chosen and loads; 2 it has passed every check; 3 an image runs or
  the node waits for one. -/
  phase : Nat
  /-- The slot being loaded, and its next check point (R788): the sections in directory order, then the signature, then the
  checks after it, then the content. -/
  slot : Nat
  point : Nat
  /-- The raw time of the reset release. -/
  released : Nat
  /-- The slots tried since the reset, the first that failed with its reason, and the reasons found for slots A and B. -/
  tried : List Nat
  failed : Option (Nat × Nat)
  reasons : List Nat
  /-- The one-shot preference (R117): 0 none, 1 slot A, 2 slot B; and whether it chose the slot. -/
  pref : Nat
  usedPref : Bool
  /-- The boot-attempt counts of slots A and B (R120). -/
  attempts : List Nat
  /-- The memories whose BIST is still to run (R692), and a BIST failure that only a pin or power-on reset ends (R693). -/
  bist : Nat
  bistBad : Bool
  /-- What the image being loaded gives beside its laid-out records. -/
  facts : Option ImageFacts
  /-- A warm reset to come: its raw time and cause (R715). -/
  warm : Option (Nat × Nat)
  /-- 0 awake, 1 entering sleep, 2 asleep (R719), and the wakes held during entry (R723). -/
  sleep : Nat
  wakes : Nat
  kept : Option KeptDram
  /-- Slot commands at work, oldest first. -/
  jobs : List FlashJob
  /-- The tint staged; the tag and the MODES and STREAMS bits of the last tint committed (R139). -/
  tint : Option Tint
  lastTag : Nat
  lastBits : Nat
  /-- The raw time of the last calibration of the AON oscillator (R710). -/
  calAt : Nat
  /-- The cycle of the last tint commit (R136). -/
  tintCyc : Nat
  /-- The line keys of lines A and B that the KEYS section gives (R179). -/
  keyA : Nat
  keyB : Nat
  /-- The code that the image has loaded into the engine SRAMs, by engine (R65, R70). -/
  code : List (Nat × List Byte)
  /-- The engines that have failed since the last warm, pin or power-on reset (R67, R69). -/
  engDown : List Nat
  /-- The streams that the image or a tint declares, and the lane settings of its LANE_ELEC records (R771), as their bytes. -/
  streams : List Nat
  lanes : List (List Byte)
  /-- The shares of contexts 0 and 4 in the image's layout, while the waiting state uses its own (R654). -/
  away : List JrnShare
  deriving DecidableEq, Repr
/-! ### The node -/

structure Node where
  /-- The registers that do not hold their reset value, by address, in canonical form (R665). At reset only the
  fused node identity (R42) differs from the values of the register tables. -/
  regs : List (Nat × Word)
  /-- Values latched for the next read (R5, R40, R307, R674). -/
  latches : List Latch
  /-- The event router and the rate limits. -/
  ev : EvState
  /-- Host contexts, rings and the violation log. -/
  host : HostState
  /-- Ports, buffers and frames. -/
  net : NetState
  /-- The train cycle. -/
  cyc : CycState
  /-- Inauguration. -/
  ina : InaState
  /-- Train time. -/
  tm : TimeState
  /-- Placement. -/
  plc : PlcState
  /-- The pair and its token. -/
  par : ParState
  /-- Process data and discrete lines. -/
  pd : PdState
  /-- Audio and on-node services. -/
  aud : AudState
  /-- CAN0 to CAN3. -/
  can : List CanState
  /-- The bridge. -/
  brg : BrgState
  /-- The check engine. -/
  chk : ChkState
  /-- Tests and loops. -/
  tst : TstState
  /-- Node memory. -/
  mem : MemState
  /-- Boot, reset and sleep. -/
  boot : BootState
  /-- MODEL's own field: the number of free values taken so far (DESIGN CHOICE, log entry 2). -/
  fresh : Nat
  deriving DecidableEq, Repr

/-- The whole state: the commands that wait (first in, first out), the OTP fuses and the node. -/
structure State where
  pending : List Instr
  otp : Otp
  node : Node
  deriving DecidableEq, Repr

/-- A port at reset. -/
def Port.reset : Port :=
  { pdDone := false, pdCount := 0, exch := [], exchNext := 0, pdLast := [], pdAside := [], pdMisses := 0, pdAt := none,
    farId := 0, farState := 0, farPort := 0, pauseSeen := false, ptpSeen := false, ptpAt := [], secPn := none, secBlocked := false, wakeLeft := 0, wakeAt := 0, wakeHeard := [],
    busy := 0, preEnd := 0, turn := 0, deficit := [0, 0, 0, 0], linkAt := 0, crossFresh := false }

/-- An empty timestamp queue. -/
def Tsq.reset : Tsq := { entries := [], ovf := false, lost := 0 }

/-- A timed output at reset. -/
def Tout.reset : Tout := { armed := false, mode := 0, start := 0, period := 0, width := 0, next := 0, active := false }

/-- A capture input at reset. -/
def Tcap.reset : Tcap := { entries := [], lost := 0, full := false }

/-- The AUD_GLOBAL record of a node without one: the defaults of R520. -/
def AudGlobal.reset : AudGlobal :=
  { rate16 := false, pcm24 := false, svcFirst := 0, svcCount := 0, poolFirst := 0, poolCount := 0,
    prios := [14, 12, 8, 6, 2], duckMask := 0, duckDepth := 65356, fade := 50, escalation := 30 }

/-- A CAN controller at reset: held in reset until the image enables it (R528). -/
def CanState.reset : CanState :=
  { queues := List.replicate 4 [], window := List.replicate 4 (List.replicate 20 0#32), fifos := [[], []],
    shadows := [none, none], objTx := [], objShadow := [], locks := [], comps := [], compOvf := false, compLost := 0,
    owners := [0, 0, 0, 0], rxOwners := [0, 0], compOwner := 0, loop := 0, integ := false, off := false, recovering := false,
    dom := false, passive := false, lastOne := false }

/-- A line at reset. -/
def Line.reset : Line := { activeAt := 0, counts := List.replicate 16 0, subAt := 0, stormEdges := 0,
                           readbackBad := false, drivenAt := 0 }

/-- The `ev` block at reset. -/
def EvState.reset : EvState :=
  { queue := [], limits := [], openArmed := true }

/-- The `host` block at reset. -/
def HostState.reset : HostState :=
  { cfgs := [], readData := 0#32, readAbort := false, dma := [], msix := [], msixTable := [], msixPend := [], flight := [], waits := [], phase0 := [],
    coalesce := [], frameCmds := [], held := [], spi0 := ⟨false, false, false⟩, spi1 := ⟨false, false, false⟩, viol := [],
    violLost := 0, evqLost := [], stopped := [], resets := [], layout := [], shares := List.replicate 8 ⟨0, 0⟩ }

/-- The `net` block at reset. -/
def NetState.reset : NetState :=
  { ports := List.replicate 13 Port.reset, sent := [], queue := [], transit := [],
    script := [], mdioSoft := [], scriptEnter := [], scriptExit := [], phyLoop := [], phyUnloop := [], wakeAutoDone := false }

/-- The `cyc` block at reset. -/
def CycState.reset : CycState :=
  { modes := [], cur := 0, refMode := 0, refAt := none, missed := 0, noMode := false, entering := false, lastRef := none, seenA := false, seenB := false, refPort := 0, pathA := none, pathB := none, modeRun := 0, numRun := 0,
    mismatch := false, adopt := none, codeBad := false, switch := none, request := none, set := [], acks := [], abort := 0,
    toSend := [], nextTag := 0, status := [], pendingNodes := [], polls := [], pollSeen := none, tx := [] }

/-- The `ina` block at reset. -/
def InaState.reset : InaState :=
  { entered := 0, waitFrom := 0, claimsHeard := [], claims := 0, claimFrom := 0, hold := false, heard := none, refCommit := none, leadBy := [], roundBy := [], masterPartner := 0,
    coldStart := false, electCause := 0, firstRef := 0, holdRef := false, round := 0, roundOn := false, roundCyc := 0,
    incomplete := 0, collected := [], lastNotice := 0, wanted := false, trigger := 0, probed := [], ready := false, probes := [], leadReq := none, table := [], prev := [],
    bleedEnd := 0, result := none, parts := [], announced := none, joiner := false, op := none, answers := [],
    nextTag := 0, snapshot := none, snapTag := none, conflicts := [], hello := [] }

/-- The `tm` block at reset. -/
def TimeState.reset : TimeState :=
  { raw := 0, offset := 0, rate := 0, freq := 0, old := none, slew := none, refs := 0, ref1 := none, held := 0,
    tsqs := List.replicate 2 Tsq.reset, touts := List.replicate 8 Tout.reset, tcaps := List.replicate 4 Tcap.reset,
    pulses := [], audioMute := false, ptpSeq := 0, utc := 0 }

/-- The `plc` block at reset. -/
def PlcState.reset : PlcState :=
  { records := [], ledgers := [], placed := [], fixed := [], nextStatus := [], queue := [], verdicts := [], mine := [], nextTag := 0,
    out := [], seqs := [], parts := [], done := [], inbox := [], store := [], moves := [], staging := [], verdictCyc := 0,
    announcedStreams := [], growth := [], statusEpoch := none, expiry := 0, censusDue := false, rejected := [], poolCells := 0, fixedCells := 0,
    mixCap := List.replicate 8 0, joiners := [] }

/-- The `par` block at reset. -/
def ParState.reset : ParState :=
  { initAt := 0, genSeen := 0, lease := none, jlkAt := none, ctrlAt := none, hbAt := none, ackSent := none, renewAt := none,
    lostJlk := false, lostHb := false, lost := false, alone := false, pulseAt := none, pulses := [], handover := none,
    handAcked := false, handCause := 0, handTake := none, muteRun := 0, base := [], snap := [], snapCyc := 0, sent := [],
    sentCyc := 0, sentWhole := false, pass := none, buffer := [], applied := none, appliedBefore := none, resync := 0, lines := [],
    stale := [], kept := [] }

/-- The `pd` block at reset. -/
def PdState.reset : PdState :=
  { sets := [], since := 0, edgeCtx := none, edges := [], edgeLost := 0, edgeOvf := false,
    lines := List.replicate 36 Line.reset, touched := [], driven := [] }

/-- The `aud` block at reset. -/
def AudState.reset : AudState :=
  { global := AudGlobal.reset,
    elements := [], connects := [], lib := [], stations := [], aafs := [], chimes := [], reqs := [], issued := [], nextTag := 0,
    inputs := [], params := [], calls := [], mine := [], cabSet := 0, cabWas := 0, recordings := [], slots := [],
    svcAsked := false, decls := [], outbox := [] }

/-- The `brg` block at reset. -/
def BrgState.reset : BrgState :=
  { tunOut := [], seqs := [], tunIn := [], sessions := [], nextSession := 0, sent := [], reads := [], waiting := [],
    outcomes := [], nextTag := 0, blocks := [], semSent := [], log := [], logOvf := false, logLost := 0, own := [],
    queue := [], winLease := [], polled := [], pollCyc := none, cpls := [] }

/-- The `chk` block at reset. -/
def ChkState.reset : ChkState :=
  { ctxs := List.replicate 28 ⟨none, [], false⟩ }

/-- The `tst` block at reset. -/
def TstState.reset : TstState :=
  { loops := [], prbsErrs := List.replicate 13 0, jtag := ⟨1, 0, false⟩ }

/-- The `mem` block at reset. -/
def MemState.reset : MemState :=
  { stage := [], flash := [], dram := [], absent := [], spoilt := [] }

/-- The `boot` block at reset. -/
def BootState.reset : BootState :=
  { phase := 0, slot := 0, point := 0, released := 0, tried := [], failed := none, reasons := [0, 0], pref := 0, usedPref := false,
    attempts := [0, 0], bist := 0x60, bistBad := false, facts := none, warm := none, sleep := 0, wakes := 0, kept := none, jobs := [],
    tint := none, lastTag := 0, lastBits := 0, calAt := 0, tintCyc := 0, keyA := 0, keyB := 0, code := [], engDown := [], streams := [], lanes := [], away := [] }

/-- The fuses of the node (DESIGN CHOICE, log entry 3): no key fused, no count blown, the identity of the spec's own example. -/
def Otp.reset : Otp :=
  { identity := 0x3C0A915E07D2, arc := 0, fused0 := false, fused1 := false, hash0 := 0, hash1 := 0,
    revoked0 := false, revoked1 := false }

/-- The node right after reset: every register at its reset value, every queue empty. -/
def Node.reset : Node :=
  { regs := [(0x10, 0x915E07D2#32), (0x14, 0x3C0A#32)],
    latches := [],
    ev := EvState.reset,
    host := HostState.reset,
    net := NetState.reset,
    cyc := CycState.reset,
    ina := InaState.reset,
    tm := TimeState.reset,
    plc := PlcState.reset,
    par := ParState.reset,
    pd := PdState.reset,
    aud := AudState.reset,
    can := List.replicate 4 CanState.reset,
    brg := BrgState.reset,
    chk := ChkState.reset,
    tst := TstState.reset,
    mem := MemState.reset,
    boot := BootState.reset,
    fresh := 0 }

/-- The machine right after reset, with no command waiting. -/
def State.reset : State := { pending := [], otp := Otp.reset, node := Node.reset }

end Sys2Proof.Machine
end

