-- ==== Sys2Proof/Machine/RegMap.lean ====
section
/-! DEFINITION. The register map of R665 to R667: the address of every register of the register tables, the bit
fields their field tables name, the access code of every register and the reset values that are not zero. Addresses
are absolute in the 64 MiB register space. Generated from the register tables of the spec by the author's script. -/

namespace Sys2Proof.Machine

/-- The base of the registers of a spine port (`p` = 0 to 3) or a car port (`p` = 4 to 11), R189. The number is the
fabric port. -/
def portBase (p : Nat) : Nat :=
  if p < 4 then 0x00800000 + p * 0x10000 else 0x00900000 + (p - 4) * 0x10000

namespace Reg

/-- `TOP_PART` (R42, RO): Part number -/
abbrev TOP_PART : Nat := 0x00000000
/-- `TOP_STEP` (R42, RO): Stepping -/
abbrev TOP_STEP : Nat := 0x00000004
/-- `TOP_NODE_ID_LO` (R42, RO): Node identity bits [31:0] -/
abbrev TOP_NODE_ID_LO : Nat := 0x00000010
/-- `TOP_NODE_ID_HI` (R42, RO): [15:0] node identity bits [47:32]; [31:16] reserved -/
abbrev TOP_NODE_ID_HI : Nat := 0x00000014
/-- `TOP_PAIR_ID` (R42, RO): Pair identity; loaded with the image -/
abbrev TOP_PAIR_ID : Nat := 0x00000018
/-- `TOP_VEH_TAG` (R42, RO): Vehicle tag; loaded with the image -/
abbrev TOP_VEH_TAG : Nat := 0x0000001C
/-- `TOP_EVN0` (R42, RO): European vehicle number, digits 1 to 4 -/
abbrev TOP_EVN0 : Nat := 0x00000020
/-- `TOP_EVN1` (R42, RO): European vehicle number, digits 5 to 8 -/
abbrev TOP_EVN1 : Nat := 0x00000024
/-- `TOP_EVN2` (R42, RO): European vehicle number, digits 9 to 12 -/
abbrev TOP_EVN2 : Nat := 0x00000028
/-- `TOP_PLACE` (R42, RO): Node number, position and orientation -/
abbrev TOP_PLACE : Nat := 0x00000030
/-- `TOP_EPOCH` (R42, RO): Epoch of the numbering in `TOP_PLACE` -/
abbrev TOP_EPOCH : Nat := 0x00000034
/-- `TOP_ENG_RUN` (R89, RO): [15:0] one bit per engine: 1 = running -/
abbrev TOP_ENG_RUN : Nat := 0x00000100
/-- `TOP_ENG_FAULT` (R89, W1C): [15:0] one bit per engine: 1 = failed -/
abbrev TOP_ENG_FAULT : Nat := 0x00000104
/-- `TOP_PD_STATE` (R89, RO): [11:0] one bit per power domain: 1 = on -/
abbrev TOP_PD_STATE : Nat := 0x00000108
/-- `TOP_WDOG_CFG` (R89, RW/S): Engine watchdog -/
abbrev TOP_WDOG_CFG : Nat := 0x0000010C
/-- `TOP_BUF_CFG` (R89, RO): Pool sizes -/
abbrev TOP_BUF_CFG : Nat := 0x00000110
/-- `TOP_BUF_OPEN_FREE` (R89, RO): Free cells in the open pool -/
abbrev TOP_BUF_OPEN_FREE : Nat := 0x00000114
/-- `TOP_BUF_OPEN_MIN` (R89, RC): Lowest free-cell count of the open pool since last read -/
abbrev TOP_BUF_OPEN_MIN : Nat := 0x00000118
/-- `TOP_BUF_SCHED_USED` (R89, RO): Cells reserved by the local placer in the scheduled pool -/
abbrev TOP_BUF_SCHED_USED : Nat := 0x0000011C
/-- `TOP_BUF_CTRL_DROP` (R89, RC): TC7 frames discarded for want of control-pool cells -/
abbrev TOP_BUF_CTRL_DROP : Nat := 0x00000120
/-- `TOP_ECC_CORR_LO` (R89, RO): Corrected SRAM errors, bits [31:0] -/
abbrev TOP_ECC_CORR_LO : Nat := 0x00000128
/-- `TOP_ECC_CORR_HI` (R89, RO): Corrected SRAM errors, bits [63:32] -/
abbrev TOP_ECC_CORR_HI : Nat := 0x0000012C
/-- `TOP_ECC_UNCORR` (R89, RO): Uncorrectable SRAM errors; saturating -/
abbrev TOP_ECC_UNCORR : Nat := 0x00000130
/-- `TOP_ECC_LAST` (R89, RO): Location of the last uncorrectable error -/
abbrev TOP_ECC_LAST : Nat := 0x00000134
/-- `TOP_OFF_ACCESS` (R89, RC): Accesses to blocks in powered-off domains -/
abbrev TOP_OFF_ACCESS : Nat := 0x00000138
/-- `IMG_STATE` (R136, RO): Load state and running slot -/
abbrev IMG_STATE : Nat := 0x00300000
/-- `IMG_RUN_VER` (R136, RO): Image version of the running image -/
abbrev IMG_RUN_VER : Nat := 0x00300004
/-- `IMG_RUN_ARC` (R136, RO): Anti-rollback count of the running image -/
abbrev IMG_RUN_ARC : Nat := 0x00300008
/-- `IMG_OTP_ARC` (R136, RO): [6:0] anti-rollback count in OTP, 0 to 64 -/
abbrev IMG_OTP_ARC : Nat := 0x0030000C
/-- `IMG_SLOT_STAT` (R136, RO): Slot n status -/
abbrev IMG_SLOT_STAT (n : Nat) : Nat := 0x00300010 + n * 0x10
/-- `IMG_SLOT_VER` (R136, RO): Slot n image version from its header -/
abbrev IMG_SLOT_VER (n : Nat) : Nat := 0x00300014 + n * 0x10
/-- `IMG_SLOT_LEN` (R136, RO): Slot n total length from its header -/
abbrev IMG_SLOT_LEN (n : Nat) : Nat := 0x00300018 + n * 0x10
/-- `IMG_KEY_STAT` (R136, RO): [0] key 0 fused; [1] key 1 fused; [2] key 0 revoked; [3] key 1 revoked; [4] key index of the running image -/
abbrev IMG_KEY_STAT : Nat := 0x00300030
/-- `IMG_BOOT_TIME` (R136, RO): Time from reset release to LINK in µs -/
abbrev IMG_BOOT_TIME : Nat := 0x00300034
/-- `IMG_TINT_STAT` (R136, RO): Tint state -/
abbrev IMG_TINT_STAT : Nat := 0x00300040
/-- `IMG_TINT_TAG` (R136, RO): Tag of the tint staged or announced; with none, of the last tint committed since the last reset other than a context reset; 0 when there is none, R139 -/
abbrev IMG_TINT_TAG : Nat := 0x00300044
/-- `IMG_TINT_SEQ` (R136, RO): Tint sequence of the last committed tint -/
abbrev IMG_TINT_SEQ : Nat := 0x00300048
/-- `IMG_TINT_CYCLE` (R136, RO): Low 32 bits of the cycle number of the announced or last commit -/
abbrev IMG_TINT_CYCLE : Nat := 0x0030004C
/-- `IMG_STAGE_BASE` (R136, RW/S): Staging buffer offset that `IMG_STAGE_WIN` shows; [15:0] read as zero -/
abbrev IMG_STAGE_BASE : Nat := 0x00300050
/-- `IMG_STAGE_WIN` (R136, RW/S): 64 KiB of the 32 MiB DRAM staging buffer from `IMG_STAGE_BASE` -/
abbrev IMG_STAGE_WIN : Nat := 0x00310000
/-- `SPN_CTRL` (R189, RW/S): Port control -/
abbrev SPN_CTRL (p : Nat) : Nat := portBase p + 0x0
/-- `SPN_STAT` (R189, RO): Port status -/
abbrev SPN_STAT (p : Nat) : Nat := portBase p + 0x4
/-- `SPN_IFTYPE` (R189, RO): Interface type and kind; loaded with the image -/
abbrev SPN_IFTYPE (p : Nat) : Nat := portBase p + 0x8
/-- `SPN_MACSEC_KEYNUM` (R189, RO/S): Key number in use -/
abbrev SPN_MACSEC_KEYNUM (p : Nat) : Nat := portBase p + 0xC
/-- `SPN_MACSEC_TXPN_LO` (R189, RO/S): Next transmit packet number, bits [31:0] -/
abbrev SPN_MACSEC_TXPN_LO (p : Nat) : Nat := portBase p + 0x10
/-- `SPN_MACSEC_TXPN_HI` (R189, RO/S): Next transmit packet number, bits [63:32] -/
abbrev SPN_MACSEC_TXPN_HI (p : Nat) : Nat := portBase p + 0x14
/-- `SPN_PREEMPT_STAT` (R189, RO): [2:0] verify state: 0 disabled, 1 initial, 2 verifying, 3 succeeded, 4 failed; [5:4] attempts; [31:6] reserved -/
abbrev SPN_PREEMPT_STAT (p : Nat) : Nat := portBase p + 0x18
/-- `SPN_RX_FRM_LO` (R189, RO): Frames received without error, bits [31:0] -/
abbrev SPN_RX_FRM_LO (p : Nat) : Nat := portBase p + 0x100
/-- `SPN_RX_FRM_HI` (R189, RO): Bits [63:32] -/
abbrev SPN_RX_FRM_HI (p : Nat) : Nat := portBase p + 0x104
/-- `SPN_RX_OCT_LO` (R189, RO): Octets of those frames, bits [31:0] -/
abbrev SPN_RX_OCT_LO (p : Nat) : Nat := portBase p + 0x108
/-- `SPN_RX_OCT_HI` (R189, RO): Bits [63:32] -/
abbrev SPN_RX_OCT_HI (p : Nat) : Nat := portBase p + 0x10C
/-- `SPN_TX_FRM_LO` (R189, RO): Frames sent, stomped frames excluded, bits [31:0] -/
abbrev SPN_TX_FRM_LO (p : Nat) : Nat := portBase p + 0x110
/-- `SPN_TX_FRM_HI` (R189, RO): Bits [63:32] -/
abbrev SPN_TX_FRM_HI (p : Nat) : Nat := portBase p + 0x114
/-- `SPN_TX_OCT_LO` (R189, RO): Octets of those frames, bits [31:0] -/
abbrev SPN_TX_OCT_LO (p : Nat) : Nat := portBase p + 0x118
/-- `SPN_TX_OCT_HI` (R189, RO): Bits [63:32] -/
abbrev SPN_TX_OCT_HI (p : Nat) : Nat := portBase p + 0x11C
/-- `SPN_RX_FCS_ERR` (R189, RC): FCS and reassembly errors -/
abbrev SPN_RX_FCS_ERR (p : Nat) : Nat := portBase p + 0x120
/-- `SPN_RX_LEN_ERR` (R189, RC): Length errors -/
abbrev SPN_RX_LEN_ERR (p : Nat) : Nat := portBase p + 0x124
/-- `SPN_RX_HDR_ERR` (R189, RC): Spine header errors -/
abbrev SPN_RX_HDR_ERR (p : Nat) : Nat := portBase p + 0x128
/-- `SPN_RX_EPOCH_DROP` (R189, RC): Frames of an epoch not accepted -/
abbrev SPN_RX_EPOCH_DROP (p : Nat) : Nat := portBase p + 0x12C
/-- `SPN_RX_CHECK_ERR` (R189, RC): Spine check mismatches -/
abbrev SPN_RX_CHECK_ERR (p : Nat) : Nat := portBase p + 0x130
/-- `SPN_RX_STOMP` (R189, RC): Stomped frames received -/
abbrev SPN_RX_STOMP (p : Nat) : Nat := portBase p + 0x134
/-- `SPN_TX_STOMP` (R189, RC): Frames stomped on sending -/
abbrev SPN_TX_STOMP (p : Nat) : Nat := portBase p + 0x138
/-- `SPN_EXP_DROP` (R189, RC): Express frames without a reservation cell -/
abbrev SPN_EXP_DROP (p : Nat) : Nat := portBase p + 0x13C
/-- `SPN_PAUSE_DROP` (R189, RC): MAC control frames discarded -/
abbrev SPN_PAUSE_DROP (p : Nat) : Nat := portBase p + 0x140
/-- `SPN_MACSEC_FAIL` (R189, RC): MACsec integrity and replay failures -/
abbrev SPN_MACSEC_FAIL (p : Nat) : Nat := portBase p + 0x144
/-- `SPN_SPINE_DROP` (R189, RC): Spine frames on a consist or host-frame car port -/
abbrev SPN_SPINE_DROP (p : Nat) : Nat := portBase p + 0x148
/-- `SPN_RX_FRAG` (R189, RC): mPacket fragments received -/
abbrev SPN_RX_FRAG (p : Nat) : Nat := portBase p + 0x14C
/-- `SPN_TX_FRAG` (R189, RC): mPacket fragments sent -/
abbrev SPN_TX_FRAG (p : Nat) : Nat := portBase p + 0x150
/-- `SPN_CLS_DROP` (R189, RC): Store-and-forward drops in class c, c = 0 to 7 -/
abbrev SPN_CLS_DROP (p : Nat) (c : Nat) : Nat := portBase p + 0x180 + c * 0x4
/-- `SPN_ETYPE` (R193, RO): [15:0] spine EtherType -/
abbrev SPN_ETYPE : Nat := 0x00840000
/-- `SPN_SPINE_VID` (R193, RO): [11:0] VID of spine frames, 1 to 4,094 -/
abbrev SPN_SPINE_VID : Nat := 0x00840004
/-- `SPN_WAKE_CODE` (R193, RO): Wake code -/
abbrev SPN_WAKE_CODE : Nat := 0x00840008
/-- `SPN_OPEN_WRR` (R193, RO): Open-class weights: TC3 [31:24], TC2 [23:16], TC1 [15:8], TC0 [7:0] -/
abbrev SPN_OPEN_WRR : Nat := 0x0084000C
/-- `SPN_FLT_USED` (R193, RO): [13:0] number of valid filter rules -/
abbrev SPN_FLT_USED : Nat := 0x00840010
/-- `SPN_MDIO_CFG` (R193, RW/S): MDIO m clock -/
abbrev SPN_MDIO_CFG (m : Nat) : Nat := 0x00840020 + m * 0x10
/-- `SPN_MDIO_CMD` (R193, RW/S): MDIO m frame to send -/
abbrev SPN_MDIO_CMD (m : Nat) : Nat := 0x00840024 + m * 0x10
/-- `SPN_MDIO_DATA` (R193, RW/S): [15:0] data written or read -/
abbrev SPN_MDIO_DATA (m : Nat) : Nat := 0x00840028 + m * 0x10
/-- `SPN_MDIO_STAT` (R193, RO): [0] `BUSY`; [1] `DONE`, cleared by the next `GO`; [2] `SCRIPT`, a PHY script holds the master -/
abbrev SPN_MDIO_STAT (m : Nat) : Nat := 0x0084002C + m * 0x10
/-- `SPN_FLT` (R193, RW/S): Filter rule r, r = 0 to 8,191, 32 bytes as R163 gives -/
abbrev SPN_FLT (r : Nat) : Nat := 0x00880000 + r * 0x20
/-- `CYC_CFG` (R249, RO): Cycle code and mode lead; loaded with the image -/
abbrev CYC_CFG : Nat := 0x00C00000
/-- `CYC_STATE` (R249, RO): Current mode, role and REF reception -/
abbrev CYC_STATE : Nat := 0x00C00004
/-- `CYC_MODE_NEXT` (R249, RO): Pending switch as this node holds it -/
abbrev CYC_MODE_NEXT : Nat := 0x00C00008
/-- `CYC_SWITCH_CYC` (R249, RO): Low 32 bits of C of the pending or last switch -/
abbrev CYC_SWITCH_CYC : Nat := 0x00C0000C
/-- `CYC_NUM_LO` (R249, RO): Current cycle number, bits [31:0] -/
abbrev CYC_NUM_LO : Nat := 0x00C00010
/-- `CYC_NUM_HI` (R249, RO): Current cycle number, bits [63:32] -/
abbrev CYC_NUM_HI : Nat := 0x00C00014
/-- `CYC_TC_NS` (R249, RO): T_c in ns -/
abbrev CYC_TC_NS : Nat := 0x00C00018
/-- `CYC_TXLIST` (R249, RO): Current mode: [14:0] slot entries; [25:16] originated entries -/
abbrev CYC_TXLIST : Nat := 0x00C00020
/-- `CYC_SWITCH_SET` (R249, RO): Master only: [11:0] nodes in the switch set; [27:16] nodes acknowledged -/
abbrev CYC_SWITCH_SET : Nat := 0x00C00024
/-- `CYC_REF_MISS` (R249, RC): Cycles without an accepted REF -/
abbrev CYC_REF_MISS : Nat := 0x00C00040
/-- `CYC_REF_LINE_MISS` (R249, RC): [15:0] cycles without a REF on line A; [31:16] on line B -/
abbrev CYC_REF_LINE_MISS : Nat := 0x00C00044
/-- `CYC_NOT_READY` (R249, RC): Originated slots sent with repeated data -/
abbrev CYC_NOT_READY : Nat := 0x00C00048
/-- `CYC_OVERRUN` (R249, RC): Frames stomped for slot overrun -/
abbrev CYC_OVERRUN : Nat := 0x00C0004C
/-- `CYC_OUT_WIN` (R249, RC): Frames discarded outside the acceptance window -/
abbrev CYC_OUT_WIN : Nat := 0x00C00050
/-- `CYC_POLL_MISS` (R249, RC): Master only: polls without REPLY -/
abbrev CYC_POLL_MISS : Nat := 0x00C00054
/-- `CYC_POLLED` (R249, RC): Polls answered by this node -/
abbrev CYC_POLLED : Nat := 0x00C00058
/-- `CYC_LAST_OOW` (R249, RO): Last out-of-window frame: [13:0] stream ID; [27:16] source node number -/
abbrev CYC_LAST_OOW : Nat := 0x00C00060
/-- `CYC_LAST_OOW_DT` (R249, RO): Its signed difference in ns -/
abbrev CYC_LAST_OOW_DT : Nat := 0x00C00064
/-- `CYC_MD_STAT` (R249, RO): Mode m status -/
abbrev CYC_MD_STAT (m : Nat) : Nat := 0x00C00100 + m * 0x20
/-- `CYC_MD_SCHED` (R249, RO): Mode m: S in ns -/
abbrev CYC_MD_SCHED (m : Nat) : Nat := 0x00C00104 + m * 0x20
/-- `CYC_MD_POLL` (R249, RO): Mode m: P in ns -/
abbrev CYC_MD_POLL (m : Nat) : Nat := 0x00C00108 + m * 0x20
/-- `CYC_MD_GUARD` (R249, RO): Mode m: G in ns -/
abbrev CYC_MD_GUARD (m : Nat) : Nat := 0x00C0010C + m * 0x20
/-- `CYC_MD_SGUARD` (R249, RO): Mode m: slot guard in ns -/
abbrev CYC_MD_SGUARD (m : Nat) : Nat := 0x00C00110 + m * 0x20
/-- `CYC_MD_SLOTS` (R249, RO): Mode m: [14:0] slot entries; [25:16] originated entries -/
abbrev CYC_MD_SLOTS (m : Nat) : Nat := 0x00C00114 + m * 0x20
/-- `INA_STATE` (R298, RO): State and flags -/
abbrev INA_STATE : Nat := 0x01000000
/-- `INA_CFG` (R298, RO): Rank and mode; loaded with the image -/
abbrev INA_CFG : Nat := 0x01000004
/-- `INA_MAX_RTT` (R298, RO): [10:0] maximum round trip in µs, 20 to 2,000 -/
abbrev INA_MAX_RTT : Nat := 0x01000008
/-- `INA_LINK_WAIT` (R298, RO): [15:0] ms, 0 = never alone, 100 to 60,000 -/
abbrev INA_LINK_WAIT : Nat := 0x0100000C
/-- `INA_MASTER_ID_LO` (R298, RO): Current master identity, bits [31:0] -/
abbrev INA_MASTER_ID_LO : Nat := 0x01000010
/-- `INA_MASTER_ID_HI` (R298, RO): [15:0] identity bits [47:32]; [23:16] rank -/
abbrev INA_MASTER_ID_HI : Nat := 0x01000014
/-- `INA_BEST_CLAIM_LO` (R298, RO): Best claim held, identity bits [31:0] -/
abbrev INA_BEST_CLAIM_LO : Nat := 0x01000018
/-- `INA_BEST_CLAIM_HI` (R298, RO): [15:0] identity bits [47:32]; [23:16] rank -/
abbrev INA_BEST_CLAIM_HI : Nat := 0x0100001C
/-- `INA_COMMIT` (R298, RO): Pending commit -/
abbrev INA_COMMIT : Nat := 0x01000020
/-- `INA_COMMIT_CYC` (R298, RO): Low 32 bits of the pending or last commit cycle -/
abbrev INA_COMMIT_CYC : Nat := 0x01000024
/-- `INA_PREV_EPOCH` (R298, RO): [15:0] previous epoch -/
abbrev INA_PREV_EPOCH : Nat := 0x01000028
/-- `INA_NODES` (R298, RO): [11:0] nodes numbered; [21:12] vehicles -/
abbrev INA_NODES : Nat := 0x0100002C
/-- `INA_LEAD_ID_LO` (R298, RO): Node bound to the leading end, bits [31:0]; 0 = default -/
abbrev INA_LEAD_ID_LO : Nat := 0x01000030
/-- `INA_LEAD_ID_HI` (R298, RO): [15:0] bits [47:32] -/
abbrev INA_LEAD_ID_HI : Nat := 0x01000034
/-- `INA_TTDP` (R298, RO): [5:0] ETBN number; [31:16] topology counter -/
abbrev INA_TTDP : Nat := 0x01000038
/-- `INA_COMMITS` (R298, RC): Commits taken -/
abbrev INA_COMMITS : Nat := 0x01000040
/-- `INA_CLAIMS` (R298, RC): CLAIM frames sent -/
abbrev INA_CLAIMS : Nat := 0x01000044
/-- `INA_ROUNDS` (R298, RC): Master only: TOPO rounds started -/
abbrev INA_ROUNDS : Nat := 0x01000048
/-- `INA_FOREIGN_DROP` (R298, RC): REFs discarded under R266 -/
abbrev INA_FOREIGN_DROP : Nat := 0x0100004C
/-- `INA_LAST_DUR` (R298, RO): Master only: µs from the trigger of the last round to its commit -/
abbrev INA_LAST_DUR : Nat := 0x01000050
/-- `INA_SNAP_OWN` (R298, RO): This node's last snapshot record, R294 -/
abbrev INA_SNAP_OWN : Nat := 0x01000080
/-- `INA_MAP` (R298, RO): Entry i, i = 0 to 3,999, of the current numbering -/
abbrev INA_MAP (i : Nat) : Nat := 0x01010000 + i * 0x10
/-- `INA_SNAP_WIN` (R298, RO): Collected snapshot records, R294 -/
abbrev INA_SNAP_WIN : Nat := 0x01020000
/-- `TMB_STATE` (R341, RO): Time state and flags -/
abbrev TMB_STATE : Nat := 0x00400000
/-- `TMB_EST` (R341, RO): Last offset estimate, signed ns -/
abbrev TMB_EST : Nat := 0x00400004
/-- `TMB_EST_MAX` (R341, RC): Largest \ -/
abbrev TMB_EST_MAX : Nat := 0x00400008
/-- `TMB_NOW_NS` (R341, RO): Nanoseconds; a read latches, R307 -/
abbrev TMB_NOW_NS : Nat := 0x00400010
/-- `TMB_NOW_SEC_LO` (R341, RO): Seconds [31:0] -/
abbrev TMB_NOW_SEC_LO : Nat := 0x00400014
/-- `TMB_NOW_SEC_HI` (R341, RO): [15:0] seconds [47:32] -/
abbrev TMB_NOW_SEC_HI : Nat := 0x00400018
/-- `TMB_NOW_FRAC` (R341, RO): [15:0] fraction of a ns, 2^−16 ns -/
abbrev TMB_NOW_FRAC : Nat := 0x0040001C
/-- `TMB_EPOCH_NS` (R341, RO): Last wrap, R309: nanoseconds -/
abbrev TMB_EPOCH_NS : Nat := 0x00400020
/-- `TMB_EPOCH_SEC_LO` (R341, RO): Last wrap: seconds [31:0] -/
abbrev TMB_EPOCH_SEC_LO : Nat := 0x00400024
/-- `TMB_EPOCH_SEC_HI` (R341, RO): [15:0] last wrap: seconds [47:32] -/
abbrev TMB_EPOCH_SEC_HI : Nat := 0x00400028
/-- `TMB_RAW_LO` (R341, RO): Raw time, ns [31:0] -/
abbrev TMB_RAW_LO : Nat := 0x00400030
/-- `TMB_RAW_HI` (R341, RO): Raw time, ns [63:32] -/
abbrev TMB_RAW_HI : Nat := 0x00400034
/-- `TMB_OFFSET0` (R341, RO/S): Offset [31:0] -/
abbrev TMB_OFFSET0 : Nat := 0x00400040
/-- `TMB_OFFSET1` (R341, RO/S): Offset [63:32] -/
abbrev TMB_OFFSET1 : Nat := 0x00400044
/-- `TMB_OFFSET2` (R341, RO/S): Offset [95:64] -/
abbrev TMB_OFFSET2 : Nat := 0x00400048
/-- `TMB_RATE_LO` (R341, RO/S): Rate [31:0] -/
abbrev TMB_RATE_LO : Nat := 0x0040004C
/-- `TMB_RATE_HI` (R341, RO/S): [7:0] rate [39:32] -/
abbrev TMB_RATE_HI : Nat := 0x00400050
/-- `TMB_SYNC_LOSS_CNT` (R341, RC): Entries to LOST -/
abbrev TMB_SYNC_LOSS_CNT : Nat := 0x00400060
/-- `TMB_STEP_CNT` (R341, RC): Steps -/
abbrev TMB_STEP_CNT : Nat := 0x00400064
/-- `TMB_LAST_STEP` (R341, RO): Last step, signed ns -/
abbrev TMB_LAST_STEP : Nat := 0x00400068
/-- `TMB_PD_DELAY` (R341, RO): Link delay in use, ns × 2^16 -/
abbrev TMB_PD_DELAY (f : Nat) : Nat := 0x00400100 + f * 0x10
/-- `TMB_PD_ASYM` (R341, RO): Asymmetry from the image, signed ns × 2^16 -/
abbrev TMB_PD_ASYM (f : Nat) : Nat := 0x00400104 + f * 0x10
/-- `TMB_PD_DONE` (R341, RC): Exchanges completed -/
abbrev TMB_PD_DONE (f : Nat) : Nat := 0x00400108 + f * 0x10
/-- `TMB_PD_MISS` (R341, RC): Exchanges discarded -/
abbrev TMB_PD_MISS (f : Nat) : Nat := 0x0040010C + f * 0x10
/-- `TMB_TSQ_CFG` (R341, RO): [2:0] host context; [7] assigned -/
abbrev TMB_TSQ_CFG (q : Nat) : Nat := 0x00400200 + q * 0x20
/-- `TMB_TSQ_STAT` (R341, RO): TSQ state -/
abbrev TMB_TSQ_STAT (q : Nat) : Nat := 0x00400204 + q * 0x20
/-- `TMB_TSQ_W0` (R341, RO): Oldest entry, word 0 -/
abbrev TMB_TSQ_W0 (q : Nat) : Nat := 0x00400208 + q * 0x20
/-- `TMB_TSQ_W1` (R341, RO): Oldest entry, stamp -/
abbrev TMB_TSQ_W1 (q : Nat) : Nat := 0x0040020C + q * 0x20
/-- `TMB_TSQ_W2` (R341, RO): Oldest entry, word 2; a read removes it -/
abbrev TMB_TSQ_W2 (q : Nat) : Nat := 0x00400210 + q * 0x20
/-- `TMB_TOUT_CTRL` (R341, RW): Output control -/
abbrev TMB_TOUT_CTRL (i : Nat) : Nat := 0x00400400 + i * 0x20
/-- `TMB_TOUT_START_NS` (R341, RW): Start, nanoseconds -/
abbrev TMB_TOUT_START_NS (i : Nat) : Nat := 0x00400404 + i * 0x20
/-- `TMB_TOUT_START_SEC_LO` (R341, RW): Start, seconds [31:0] -/
abbrev TMB_TOUT_START_SEC_LO (i : Nat) : Nat := 0x00400408 + i * 0x20
/-- `TMB_TOUT_START_SEC_HI` (R341, RW): [15:0] start, seconds [47:32] -/
abbrev TMB_TOUT_START_SEC_HI (i : Nat) : Nat := 0x0040040C + i * 0x20
/-- `TMB_TOUT_PERIOD` (R341, RW): Period, ns -/
abbrev TMB_TOUT_PERIOD (i : Nat) : Nat := 0x00400410 + i * 0x20
/-- `TMB_TOUT_WIDTH` (R341, RW): Width, ns -/
abbrev TMB_TOUT_WIDTH (i : Nat) : Nat := 0x00400414 + i * 0x20
/-- `TMB_TOUT_STAT` (R341, RO): [0] `ARMED`; [1] `LATE`, cleared by the next arming; [31:16] `SKIP` -/
abbrev TMB_TOUT_STAT (i : Nat) : Nat := 0x00400418 + i * 0x20
/-- `TMB_TCAP_CTRL` (R341, RW): [1:0] `EDGE`; [31:2] reserved -/
abbrev TMB_TCAP_CTRL (c : Nat) : Nat := 0x00400600 + c * 0x20
/-- `TMB_TCAP_STAT` (R341, RO): [4:0] entries; [8] `LEVEL` of the presented edge; [31:16] `LOST` -/
abbrev TMB_TCAP_STAT (c : Nat) : Nat := 0x00400604 + c * 0x20
/-- `TMB_TCAP_NS` (R341, RO): Oldest stamp, nanoseconds -/
abbrev TMB_TCAP_NS (c : Nat) : Nat := 0x00400608 + c * 0x20
/-- `TMB_TCAP_SEC_LO` (R341, RO): Seconds [31:0] -/
abbrev TMB_TCAP_SEC_LO (c : Nat) : Nat := 0x0040060C + c * 0x20
/-- `TMB_TCAP_SEC_HI` (R341, RO): [15:0] seconds [47:32]; a read removes the entry -/
abbrev TMB_TCAP_SEC_HI (c : Nat) : Nat := 0x00400610 + c * 0x20
/-- `TMB_CARTIME_CFG` (R341, RO): [1:0] service; [14:8] 1588 domain -/
abbrev TMB_CARTIME_CFG (n : Nat) : Nat := 0x00400800 + n * 0x10
/-- `TMB_CARTIME_STAT` (R341, RO): [0] sending; [1] peer delay valid -/
abbrev TMB_CARTIME_STAT (n : Nat) : Nat := 0x00400804 + n * 0x10
/-- `TMB_CARTIME_FOREIGN` (R341, RC): Foreign PTP messages discarded -/
abbrev TMB_CARTIME_FOREIGN (n : Nat) : Nat := 0x00400808 + n * 0x10
/-- `TMB_AUD_STAT` (R341, RO): [0] `LOCK`; [1] 48 kHz; [31:16] phase error, signed ns -/
abbrev TMB_AUD_STAT : Nat := 0x00400900
/-- `PLC_STATE` (R386, RO): Placer state -/
abbrev PLC_STATE : Nat := 0x01400000
/-- `PLC_ADM_SEQ` (R386, RO): Highest admission sequence held -/
abbrev PLC_ADM_SEQ : Nat := 0x01400004
/-- `PLC_DIGEST` (R386, RO): Digest of the stream table, R366 -/
abbrev PLC_DIGEST : Nat := 0x01400008
/-- `PLC_STREAMS` (R386, RO): [13:0] valid entries; [29:16] active entries -/
abbrev PLC_STREAMS : Nat := 0x0140000C
/-- `PLC_LAST_REJ` (R386, RO): [13:0] stream ID; [19:16] reason -/
abbrev PLC_LAST_REJ : Nat := 0x01400010
/-- `PLC_ADMIT_US` (R386, RO): Master only: decision time of the last admission, µs -/
abbrev PLC_ADMIT_US : Nat := 0x01400014
/-- `PLC_REPLACE_MS` (R386, RO): Master only: computation time of the last full re-placement, ms -/
abbrev PLC_REPLACE_MS : Nat := 0x01400018
/-- `PLC_ADM_CNT` (R386, RC): Admissions -/
abbrev PLC_ADM_CNT : Nat := 0x01400020
/-- `PLC_REJ_CNT` (R386, RC): Rejections -/
abbrev PLC_REJ_CNT : Nat := 0x01400024
/-- `PLC_POOL_FREE` (R386, RO): Free cells of the scheduled pool -/
abbrev PLC_POOL_FREE : Nat := 0x01400028
/-- `PLC_MIX_FREE0` (R386, RO): Free mix inputs, one byte per engine: SE0 [7:0] to SE3 [31:24] -/
abbrev PLC_MIX_FREE0 : Nat := 0x0140002C
/-- `PLC_MIX_FREE1` (R386, RO): Free mix inputs: SE4 [7:0] to SE7 [31:24] -/
abbrev PLC_MIX_FREE1 : Nat := 0x01400030
/-- `PLC_TRANSIT_AUD` (R386, RO): [8:0] audio streams carried -/
abbrev PLC_TRANSIT_AUD : Nat := 0x01400034
/-- `PLC_PART_USED` (R386, RO): Partition store in use, KiB -/
abbrev PLC_PART_USED : Nat := 0x01400040
/-- `PLC_PART_MSGS` (R386, RO): Messages held in the partition store -/
abbrev PLC_PART_MSGS : Nat := 0x01400044
/-- `PLC_MSG_DROP` (R386, RC): Messages discarded under R381 -/
abbrev PLC_MSG_DROP : Nat := 0x01400048
/-- `PLC_DRAM_BASE_LO` (R386, RO): Region r base, bits [31:0] -/
abbrev PLC_DRAM_BASE_LO (r : Nat) : Nat := 0x01400100 + r * 0x10
/-- `PLC_DRAM_BASE_HI` (R386, RO): Region r base, bits [63:32] -/
abbrev PLC_DRAM_BASE_HI (r : Nat) : Nat := 0x01400104 + r * 0x10
/-- `PLC_DRAM_SIZE` (R386, RO): Region r size, MiB -/
abbrev PLC_DRAM_SIZE (r : Nat) : Nat := 0x01400108 + r * 0x10
/-- `PAR_CFG` (R434, RO): Pair record; loaded with the image -/
abbrev PAR_CFG : Nat := 0x01800000
/-- `PAR_TOKEN` (R434, RO): Token state -/
abbrev PAR_TOKEN : Nat := 0x01800004
/-- `PAR_TOKEN_GEN` (R434, RO): Token generation held or last seen -/
abbrev PAR_TOKEN_GEN : Nat := 0x01800008
/-- `PAR_LEASE` (R434, RO): Low 32 bits of the unit of the last renewal sent (holder) or seen (standby) -/
abbrev PAR_LEASE : Nat := 0x0180000C
/-- `PAR_PARTNER` (R434, RO): Partner state from its last renew or acknowledge frame -/
abbrev PAR_PARTNER : Nat := 0x01800010
/-- `PAR_REPL_STAT` (R434, RO): State copy status -/
abbrev PAR_REPL_STAT : Nat := 0x01800014
/-- `PAR_REPL_LINES` (R434, RO): [14:0] lines in the last complete copy; [30:16] lines due -/
abbrev PAR_REPL_LINES : Nat := 0x01800018
/-- `PAR_REPL_BUDGET` (R434, RO): B_rep of the current mode, bytes -/
abbrev PAR_REPL_BUDGET : Nat := 0x0180001C
/-- `PAR_REPL_CYC` (R434, RO): Low 32 bits of the snapshot cycle last applied (standby) or reported applied (holder) -/
abbrev PAR_REPL_CYC : Nat := 0x01800020
/-- `PAR_CARMODE` (R434, RO): [2c+1:2c] mode of car port c, R430 -/
abbrev PAR_CARMODE : Nat := 0x01800024
/-- `PAR_DUP_LO` (R434, RO): Duplicates discarded, bits [31:0] -/
abbrev PAR_DUP_LO : Nat := 0x01800040
/-- `PAR_DUP_HI` (R434, RO): Bits [63:32] -/
abbrev PAR_DUP_HI : Nat := 0x01800044
/-- `PAR_STALE` (R434, RC): Stale copies discarded -/
abbrev PAR_STALE : Nat := 0x01800048
/-- `PAR_DIVERGE` (R434, RC): Divergent copies, R396 -/
abbrev PAR_DIVERGE : Nat := 0x0180004C
/-- `PAR_CLASH` (R434, RC): Frames discarded under R392 -/
abbrev PAR_CLASH : Nat := 0x01800050
/-- `PAR_REPL_OVR` (R434, RC): Incomplete copies -/
abbrev PAR_REPL_OVR : Nat := 0x01800054
/-- `PAR_REPL_CHK` (R434, RC): Copies discarded for a CRC or count mismatch -/
abbrev PAR_REPL_CHK : Nat := 0x01800058
/-- `PAR_TAKEOVERS` (R434, RC): Takeovers under R409 -/
abbrev PAR_TAKEOVERS : Nat := 0x0180005C
/-- `PAR_HB_BAD` (R434, RC): Heartbeat pulses rejected -/
abbrev PAR_HB_BAD : Nat := 0x01800060
/-- `PAR_LAST_DIV` (R434, RO): Last divergence: [13:0] stream ID; [17:16] kept copy index; [19:18] later copy index -/
abbrev PAR_LAST_DIV : Nat := 0x01800064
/-- `PAR_LAST_DIV_SEQ` (R434, RO): [15:0] its sequence -/
abbrev PAR_LAST_DIV_SEQ : Nat := 0x01800068
/-- `PAR_TRK` (R434, RO): Tracker s, s = 0 to 16,383, 16 bytes -/
abbrev PAR_TRK (s : Nat) : Nat := 0x01810000 + s * 0x10
/-- `JLK_STAT` (R440, RO): [0] `LINK`; [1] `PD_DONE`: a PDELAY exchange completed; [2] `CONTACT`: control frame within 2 units; [3] `HB_CONTACT`: pulse within 2 units; [31:4] reserved -/
abbrev JLK_STAT : Nat := 0x00A00000
/-- `JLK_TX_FRM_LO` (R440, RO): Frames sent, bits [31:0] -/
abbrev JLK_TX_FRM_LO : Nat := 0x00A00100
/-- `JLK_TX_FRM_HI` (R440, RO): Bits [63:32] -/
abbrev JLK_TX_FRM_HI : Nat := 0x00A00104
/-- `JLK_RX_FRM_LO` (R440, RO): Frames received without error, bits [31:0] -/
abbrev JLK_RX_FRM_LO : Nat := 0x00A00108
/-- `JLK_RX_FRM_HI` (R440, RO): Bits [63:32] -/
abbrev JLK_RX_FRM_HI : Nat := 0x00A0010C
/-- `JLK_RX_FCS_ERR` (R440, RC): FCS and reassembly errors -/
abbrev JLK_RX_FCS_ERR : Nat := 0x00A00120
/-- `JLK_RX_LEN_ERR` (R440, RC): Length errors -/
abbrev JLK_RX_LEN_ERR : Nat := 0x00A00124
/-- `JLK_CTRL_ERR` (R440, RC): Control frames discarded, R401 -/
abbrev JLK_CTRL_ERR : Nat := 0x00A00128
/-- `JLK_XFEED_DROP` (R440, RC): Copies not handed over, R402 -/
abbrev JLK_XFEED_DROP : Nat := 0x00A0012C
/-- `PDT_CFG` (R475, RO): [9:0] datasets held; [31:16] car EtherType -/
abbrev PDT_CFG : Nat := 0x01C00000
/-- `PDT_STAT` (R475, RO): [9:0] produced; [25:16] consumed; [31] instants running, R447 -/
abbrev PDT_STAT : Nat := 0x01C00004
/-- `PDT_MISS_CNT` (R475, RC): Missed instances, all datasets -/
abbrev PDT_MISS_CNT : Nat := 0x01C00008
/-- `PDT_SAFE_CNT` (R475, RC): Instances presented with the safe value -/
abbrev PDT_SAFE_CNT : Nat := 0x01C0000C
/-- `PDT_LATE_CNT` (R475, RC): Late copies, R451 -/
abbrev PDT_LATE_CNT : Nat := 0x01C00010
/-- `PDT_CAR_DROP` (R475, RC): Car input frames and copies discarded, R444, R450 -/
abbrev PDT_CAR_DROP : Nat := 0x01C00014
/-- `PDT_TOUT_BIND` (R475, RW): Output i: [8:0] descriptor d; [9] 0 sample, 1 output instant; [31] enabled -/
abbrev PDT_TOUT_BIND (i : Nat) : Nat := 0x01C00020 + i * 0x4
/-- `PDT_DS_CFG` (R475, RO): [13:0] stream ID; [14] 1 consumed; [15] 1 SAFE policy; [17:16] source; [31:24] car ports -/
abbrev PDT_DS_CFG (d : Nat) : Nat := 0x01C01000 + d * 0x20
/-- `PDT_DS_SIZE` (R475, RO): [10:0] data length; [12:11] σ bits [33:32]; [14:13] ω bits [33:32]; [15] reserved; [31:16] `AGE_LIMIT` -/
abbrev PDT_DS_SIZE (d : Nat) : Nat := 0x01C01004 + d * 0x20
/-- `PDT_DS_SAMPLE` (R475, RO): σ in ns, bits [31:0] -/
abbrev PDT_DS_SAMPLE (d : Nat) : Nat := 0x01C01008 + d * 0x20
/-- `PDT_DS_OUTPUT` (R475, RO): ω in ns, bits [31:0] -/
abbrev PDT_DS_OUTPUT (d : Nat) : Nat := 0x01C0100C + d * 0x20
/-- `PDT_DS_STAT` (R475, RO): Status word of the instance last presented, R453 -/
abbrev PDT_DS_STAT (d : Nat) : Nat := 0x01C01010 + d * 0x20
/-- `PDT_DS_SEQ` (R475, RO): [15:0] last sequence accepted or sent; [25:16] phase -/
abbrev PDT_DS_SEQ (d : Nat) : Nat := 0x01C01014 + d * 0x20
/-- `PDT_DS_DONE` (R475, WO): Produced, host source: write records the completion; value = application check -/
abbrev PDT_DS_DONE (d : Nat) : Nat := 0x01C01018 + d * 0x20
/-- `PDT_DS_MISS` (R475, RC): Missed instances of this dataset -/
abbrev PDT_DS_MISS (d : Nat) : Nat := 0x01C0101C + d * 0x20
/-- `PDT_BUF` (R475, RW): Buffer window, R449 and R457 -/
abbrev PDT_BUF (d : Nat) : Nat := 0x01D00000 + d * 0x800
/-- `DIO_IN` (R476, RO): Filtered levels -/
abbrev DIO_IN : Nat := 0x01E00000
/-- `DIO_RAW` (R476, RO): Raw pin levels at the last sample -/
abbrev DIO_RAW : Nat := 0x01E00004
/-- `DIO_OUT` (R476, RO): Levels to drive, 1 = active -/
abbrev DIO_OUT : Nat := 0x01E00008
/-- `DIO_RB` (R476, RO): Output readback -/
abbrev DIO_RB : Nat := 0x01E0000C
/-- `DIO_OUT_SET` (R476, WO): 1 = drive the host-owned line active -/
abbrev DIO_OUT_SET : Nat := 0x01E00010
/-- `DIO_OUT_CLR` (R476, WO): 1 = drive the host-owned line inactive -/
abbrev DIO_OUT_CLR : Nat := 0x01E00014
/-- `DIO_STUCK` (R476, RO): 1 = line stuck -/
abbrev DIO_STUCK : Nat := 0x01E00018
/-- `DIO_STORM` (R476, RO): 1 = line in a storm -/
abbrev DIO_STORM : Nat := 0x01E0001C
/-- `DIO_WAKE` (R476, RO): [3:0] filtered levels; [7:4] stuck; [11:8] storm -/
abbrev DIO_WAKE : Nat := 0x01E00020
/-- `DIO_EDGE_STAT` (R476, RO): [8:0] entries, 0 to 256; [9] `OVF`; [31:16] edges lost in the current overflow -/
abbrev DIO_EDGE_STAT : Nat := 0x01E00030
/-- `DIO_EDGE_W0` (R476, RO): Oldest entry: [5:0] line; [6] level, 1 active; [7] `GAP`; [8] `VALID`; [31:16] lost count with `GAP` -/
abbrev DIO_EDGE_W0 : Nat := 0x01E00034
/-- `DIO_EDGE_W1` (R476, RO): Oldest entry: stamp; a read removes it -/
abbrev DIO_EDGE_W1 : Nat := 0x01E00038
/-- `DIO_LN_CFG` (R476, RW): Line i settings; field access as R477 gives -/
abbrev DIO_LN_CFG (i : Nat) : Nat := 0x01E01000 + i * 0x10
/-- `DIO_LN_STUCK_T` (R476, RW): [9:0] stuck time in s, 0 = off -/
abbrev DIO_LN_STUCK_T (i : Nat) : Nat := 0x01E01004 + i * 0x10
/-- `DIO_LN_STORM` (R476, RW): [15:0] N; [31:16] window in ms -/
abbrev DIO_LN_STORM (i : Nat) : Nat := 0x01E01008 + i * 0x10
/-- `DIO_LN_EDGES` (R476, RC): Edges accepted, saturating -/
abbrev DIO_LN_EDGES (i : Nat) : Nat := 0x01E0100C + i * 0x10
/-- `AUD_CFG` (R522, RO): [0] rate: 0 48 kHz, 1 16 kHz; [7:4] TDM ports declared; [15:8] graphs; [31:16] zones held -/
abbrev AUD_CFG : Nat := 0x02000000
/-- `AUD_STAT` (R522, RO): Service status -/
abbrev AUD_STAT : Nat := 0x02000004
/-- `AUD_SAMPLE_LO` (R522, RO): Sample number, bits [31:0] -/
abbrev AUD_SAMPLE_LO : Nat := 0x02000008
/-- `AUD_SAMPLE_HI` (R522, RO): Bits [63:32] -/
abbrev AUD_SAMPLE_HI : Nat := 0x0200000C
/-- `AUD_PA_ACTIVE` (R522, RO): [6:0] requests active at this node -/
abbrev AUD_PA_ACTIVE : Nat := 0x02000010
/-- `AUD_CALLS` (R522, RO): [4:0] calls ringing, connected or held here as cab node; [14:8] queued; [20:16] open calls of local stations -/
abbrev AUD_CALLS : Nat := 0x02000014
/-- `AUD_CAB_TAG` (R522, RO): Vehicle tag of the active cab; 0 = none -/
abbrev AUD_CAB_TAG : Nat := 0x02000018
/-- `AUD_GAP_CNT` (R522, RC): Missed and late audio instances, R488 -/
abbrev AUD_GAP_CNT : Nat := 0x02000020
/-- `AUD_LATE_JOIN` (R522, RC): Late joins, R502 -/
abbrev AUD_LATE_JOIN : Nat := 0x02000024
/-- `AUD_AAF_DROP` (R522, RC): AAF PDUs discarded -/
abbrev AUD_AAF_DROP : Nat := 0x02000028
/-- `AUD_LIB_ENTRIES` (R522, RO): [15:0] valid entries; [31:16] entries in the index -/
abbrev AUD_LIB_ENTRIES : Nat := 0x02000030
/-- `AUD_LIB_USED` (R522, RO): Library content written, MiB -/
abbrev AUD_LIB_USED : Nat := 0x02000034
/-- `AUD_REC_SLOTS` (R522, RO): [15:0] slots; [31:16] protected slots -/
abbrev AUD_REC_SLOTS : Nat := 0x02000038
/-- `AUD_REC_NEXT` (R522, RO): [15:0] next slot to write -/
abbrev AUD_REC_NEXT : Nat := 0x0200003C
/-- `AUD_REC_BASE` (R522, RW): [15:0] slot shown in `AUD_REC_WIN` -/
abbrev AUD_REC_BASE : Nat := 0x02000040
/-- `AUD_SE_LOAD` (R522, RO): [10:0] units in use; [26:16] mix inputs in use -/
abbrev AUD_SE_LOAD (e : Nat) : Nat := 0x02000100 + e * 0x10
/-- `AUD_SE_MISS` (R522, RC): Blocks not rendered in time, R495 -/
abbrev AUD_SE_MISS (e : Nat) : Nat := 0x02000104 + e * 0x10
/-- `AUD_TDM_CFG` (R522, RO): TDM port settings -/
abbrev AUD_TDM_CFG (p : Nat) : Nat := 0x02000200 + p * 0x20
/-- `AUD_TDM_STAT` (R522, RO): [0] running; [1] slave clock in range; [2] pins driven -/
abbrev AUD_TDM_STAT (p : Nat) : Nat := 0x02000204 + p * 0x20
/-- `AUD_TDM_SLIP` (R522, RC): Frames dropped or repeated, R483 -/
abbrev AUD_TDM_SLIP (p : Nat) : Nat := 0x02000208 + p * 0x20
/-- `AUD_ZN_STAT` (R522, RO): Zone status -/
abbrev AUD_ZN_STAT (z : Nat) : Nat := 0x02000400 + z * 0x10
/-- `AUD_ZN_GAIN` (R522, RW): [15:0] zone gain, signed 0.1 dB, −960 to +240; applied at the next block -/
abbrev AUD_ZN_GAIN (z : Nat) : Nat := 0x02000404 + z * 0x10
/-- `AUD_ZN_REQ` (R522, RO): First-ranked request: [15:0] tag; [27:16] requester node number -/
abbrev AUD_ZN_REQ (z : Nat) : Nat := 0x02000408 + z * 0x10
/-- `AUD_ZN_LEVEL` (R522, RO): Zone output: [15:0] peak, [31:16] RMS, signed 0.1 dBFS -/
abbrev AUD_ZN_LEVEL (z : Nat) : Nat := 0x0200040C + z * 0x10
/-- `AUD_CALL_STAT` (R522, RO): Call slot status -/
abbrev AUD_CALL_STAT (c : Nat) : Nat := 0x02000800 + c * 0x20
/-- `AUD_CALL_PAIR` (R522, RO): Station pair identity -/
abbrev AUD_CALL_PAIR (c : Nat) : Nat := 0x02000804 + c * 0x20
/-- `AUD_CALL_T_REQ` (R522, RO): Stamp of the request -/
abbrev AUD_CALL_T_REQ (c : Nat) : Nat := 0x02000808 + c * 0x20
/-- `AUD_CALL_T_ANS` (R522, RO): Stamp of the last connect; 0 before -/
abbrev AUD_CALL_T_ANS (c : Nat) : Nat := 0x0200080C + c * 0x20
/-- `AUD_CALL_STREAMS` (R522, RO): [13:0] uplink stream ID; [29:16] downlink stream ID -/
abbrev AUD_CALL_STREAMS (c : Nat) : Nat := 0x02000810 + c * 0x20
/-- `AUD_MTR_PEAK` (R522, RC): [15:0] peak since last read, signed 0.1 dBFS -/
abbrev AUD_MTR_PEAK (m : Nat) : Nat := 0x02001000 + m * 0x8
/-- `AUD_MTR_RMS` (R522, RO): [15:0] RMS over the window, signed 0.1 dBFS -/
abbrev AUD_MTR_RMS (m : Nat) : Nat := 0x02001004 + m * 0x8
/-- `AUD_REC_WIN` (R522, RO): Slot `AUD_REC_BASE` of the recording region -/
abbrev AUD_REC_WIN : Nat := 0x02010000
/-- `CAN_CFG` (R562, RO): [0] enabled; [1] compatibility mode; [2] FD; [3] auto recovery; [5:4] default target -/
abbrev CAN_CFG (n : Nat) : Nat := 0x02800000 + n * 0x40000
/-- `CAN_CTRL` (R562, RW): Controller control -/
abbrev CAN_CTRL (n : Nat) : Nat := 0x02800004 + n * 0x40000
/-- `CAN_STAT` (R562, RO): Controller status -/
abbrev CAN_STAT (n : Nat) : Nat := 0x02800008 + n * 0x40000
/-- `CAN_NBT` (R562, RO): Nominal bit timing -/
abbrev CAN_NBT (n : Nat) : Nat := 0x0280000C + n * 0x40000
/-- `CAN_DBT` (R562, RO): Data bit timing -/
abbrev CAN_DBT (n : Nat) : Nat := 0x02800010 + n * 0x40000
/-- `CAN_ERR` (R562, RO): [8:0] transmit error counter; [24:16] receive error counter -/
abbrev CAN_ERR (n : Nat) : Nat := 0x02800014 + n * 0x40000
/-- `CAN_CLASH_HOLD` (R562, RW): [0] `HOLD`, R553; loaded from the record -/
abbrev CAN_CLASH_HOLD (n : Nat) : Nat := 0x02800018 + n * 0x40000
/-- `CAN_TT_LATE` (R562, RW): Late limit in µs, R557 -/
abbrev CAN_TT_LATE (n : Nat) : Nat := 0x0280001C + n * 0x40000
/-- `CAN_LAST_CLASH` (R562, RO): [28:0] `ID`; [29] `IDE` of the last clash -/
abbrev CAN_LAST_CLASH (n : Nat) : Nat := 0x02800020 + n * 0x40000
/-- `CAN_TX_CANCEL` (R562, WO): [15:0] tag; [17:16] queue; a write records the cancel -/
abbrev CAN_TX_CANCEL (n : Nat) : Nat := 0x02800024 + n * 0x40000
/-- `CAN_RX_FRM_LO` (R562, RO): Frames received, bits [31:0] -/
abbrev CAN_RX_FRM_LO (n : Nat) : Nat := 0x02800040 + n * 0x40000
/-- `CAN_RX_FRM_HI` (R562, RO): Bits [63:32] -/
abbrev CAN_RX_FRM_HI (n : Nat) : Nat := 0x02800044 + n * 0x40000
/-- `CAN_TX_FRM_LO` (R562, RO): Frames sent, bits [31:0] -/
abbrev CAN_TX_FRM_LO (n : Nat) : Nat := 0x02800048 + n * 0x40000
/-- `CAN_TX_FRM_HI` (R562, RO): Bits [63:32] -/
abbrev CAN_TX_FRM_HI (n : Nat) : Nat := 0x0280004C + n * 0x40000
/-- `CAN_ARB_LOST` (R562, RC): Arbitrations lost -/
abbrev CAN_ARB_LOST (n : Nat) : Nat := 0x02800050 + n * 0x40000
/-- `CAN_ERR_FRM` (R562, RC): Error frames sent -/
abbrev CAN_ERR_FRM (n : Nat) : Nat := 0x02800054 + n * 0x40000
/-- `CAN_BUSOFF_CNT` (R562, RC): Entries to bus-off -/
abbrev CAN_BUSOFF_CNT (n : Nat) : Nat := 0x02800058 + n * 0x40000
/-- `CAN_RX_OVR` (R562, RC): Received frames lost, R544 -/
abbrev CAN_RX_OVR (n : Nat) : Nat := 0x0280005C + n * 0x40000
/-- `CAN_LOCK_TO_CNT` (R562, RC): Lock timeouts -/
abbrev CAN_LOCK_TO_CNT (n : Nat) : Nat := 0x02800060 + n * 0x40000
/-- `CAN_CANCEL_CNT` (R562, RC): Entries cancelled -/
abbrev CAN_CANCEL_CNT (n : Nat) : Nat := 0x02800064 + n * 0x40000
/-- `CAN_LATE_CNT` (R562, RC): Timed entries late -/
abbrev CAN_LATE_CNT (n : Nat) : Nat := 0x02800068 + n * 0x40000
/-- `CAN_PUSH_DROP` (R562, RC): Pushes and object writes dropped -/
abbrev CAN_PUSH_DROP (n : Nat) : Nat := 0x0280006C + n * 0x40000
/-- `CAN_NOMATCH` (R562, RC): Frames discarded for want of a filter or object -/
abbrev CAN_NOMATCH (n : Nat) : Nat := 0x02800070 + n * 0x40000
/-- `CAN_TXQ_STAT` (R562, RO): [6:0] entries; [7] head held for release; [31:16] head tag -/
abbrev CAN_TXQ_STAT (n : Nat) (q : Nat) : Nat := 0x02800100 + n * 0x40000 + q * 0x10
/-- `CAN_RXF_STAT` (R562, RO): [6:0] entries; [7] shadow occupied; [8] head locked -/
abbrev CAN_RXF_STAT (n : Nat) (f : Nat) : Nat := 0x02800140 + n * 0x40000 + f * 0x10
/-- `CAN_TXC_STAT` (R562, RO): [6:0] entries; [7] `OVF`; [31:16] completions lost in the current overflow -/
abbrev CAN_TXC_STAT (n : Nat) : Nat := 0x02800160 + n * 0x40000
/-- `CAN_OBJ_TXREQ` (R562, W1S): Set `TXREQ`; reads `TXREQ` -/
abbrev CAN_OBJ_TXREQ (n : Nat) (w : Nat) : Nat := 0x02800200 + n * 0x40000 + w * 0x4
/-- `CAN_OBJ_CANCEL` (R562, W1S): Record a cancel for the object; reads 0 -/
abbrev CAN_OBJ_CANCEL (n : Nat) (w : Nat) : Nat := 0x02800210 + n * 0x40000 + w * 0x4
/-- `CAN_OBJ_NEW` (R562, RO): `NEW` of each object -/
abbrev CAN_OBJ_NEW (n : Nat) (w : Nat) : Nat := 0x02800220 + n * 0x40000 + w * 0x4
/-- `CAN_FLT_ID` (R562, RW): Filter i: identifier as `ID`; [29] `IDE` -/
abbrev CAN_FLT_ID (n : Nat) (i : Nat) : Nat := 0x02800800 + n * 0x40000 + i * 0x10
/-- `CAN_FLT_MASK` (R562, RW): Filter i: mask -/
abbrev CAN_FLT_MASK (n : Nat) (i : Nat) : Nat := 0x02800804 + n * 0x40000 + i * 0x10
/-- `CAN_FLT_CFG` (R562, RW): Filter i: [0] `VALID`; [2:1] target -/
abbrev CAN_FLT_CFG (n : Nat) (i : Nat) : Nat := 0x02800808 + n * 0x40000 + i * 0x10
/-- `CAN_TXQ_WIN` (R562, WO): Push window, R535 -/
abbrev CAN_TXQ_WIN (n : Nat) (q : Nat) : Nat := 0x02810000 + n * 0x40000 + q * 0x100
/-- `CAN_RXF_WIN` (R562, RO): Head entry of RX f -/
abbrev CAN_RXF_WIN (n : Nat) (f : Nat) : Nat := 0x02811000 + n * 0x40000 + f * 0x100
/-- `CAN_TXC_WIN` (R562, RO): Oldest completion, W0 to W2, R547 -/
abbrev CAN_TXC_WIN (n : Nat) : Nat := 0x02812000 + n * 0x40000
/-- `CAN_OBJ` (R562, RW): Object o, 84 bytes as R532 gives -/
abbrev CAN_OBJ (n : Nat) (o : Nat) : Nat := 0x02820000 + n * 0x40000 + o * 0x80
/-- `BRG_CFG` (, RO): [4:0] windows; [12:8] tunnel records; [28:16] valid routing entries -/
abbrev BRG_CFG : Nat := 0x02C00000
/-- `BRG_STAT` (, RO): [0] PS2 running; [6:1] reads outstanding; [12:8] valid prefetch blocks; [22:16] targets polled -/
abbrev BRG_STAT : Nat := 0x02C00004
/-- `BRG_RD_TIMEOUT` (, RW): [16:0] read timeout in µs; values outside 100 to 100,000 are clamped -/
abbrev BRG_RD_TIMEOUT : Nat := 0x02C00008
/-- `BRG_POLL` (, RW): [7:0] summary period in basic cycles; 0 = off -/
abbrev BRG_POLL : Nat := 0x02C0000C
/-- `BRG_HOLD` (, RO): [9:0] reorder hold in µs -/
abbrev BRG_HOLD : Nat := 0x02C00010
/-- `BRG_SB_OUT` (, RW): Sideband bits published -/
abbrev BRG_SB_OUT : Nat := 0x02C00014
/-- `BRG_RD_CNT` (, RC): Reads completed -/
abbrev BRG_RD_CNT : Nat := 0x02C00040
/-- `BRG_WR_CNT` (, RC): Writes sent -/
abbrev BRG_WR_CNT : Nat := 0x02C00044
/-- `BRG_RD_TO` (, RC): Reads timed out -/
abbrev BRG_RD_TO : Nat := 0x02C00048
/-- `BRG_LATE_RSP` (, RC): Late responses -/
abbrev BRG_LATE_RSP : Nat := 0x02C0004C
/-- `BRG_SIZE_ERR` (, RC): Unsupported accesses -/
abbrev BRG_SIZE_ERR : Nat := 0x02C00050
/-- `BRG_PF_HIT` (, RC): Reads served from prefetch -/
abbrev BRG_PF_HIT : Nat := 0x02C00054
/-- `BRG_PF_LOST` (, RC): Blocks discarded under R591 -/
abbrev BRG_PF_LOST : Nat := 0x02C00058
/-- `BRG_RT_NOMATCH` (, RC): Bridge frames with no route or tunnel -/
abbrev BRG_RT_NOMATCH : Nat := 0x02C0005C
/-- `BRG_TUN_DROP` (, RC): Records discarded, R568, R571, R573 -/
abbrev BRG_TUN_DROP : Nat := 0x02C00060
/-- `BRG_FAR_REFUSED` (, RC): Requests refused as owning node -/
abbrev BRG_FAR_REFUSED : Nat := 0x02C00064
/-- `BRG_FAR_LOST` (, RC): Requests lost as owning node -/
abbrev BRG_FAR_LOST : Nat := 0x02C00068
/-- `BRG_WTAG` (, RO): [15:0] last write tag of context c -/
abbrev BRG_WTAG (c : Nat) : Nat := 0x02C00080 + c * 0x4
/-- `BRG_PWE_STAT` (, RO): [6:0] entries, 0 to 64; [7] `OVF`; [31:16] `LOST` -/
abbrev BRG_PWE_STAT : Nat := 0x02C00100
/-- `BRG_PWE_W0` (, RO): Oldest log entry, R586 -/
abbrev BRG_PWE_W0 : Nat := 0x02C00104
/-- `BRG_PWE_W1` (, RO): Oldest log entry, R586 -/
abbrev BRG_PWE_W1 : Nat := 0x02C00108
/-- `BRG_PWE_W2` (, RO): Oldest log entry, R586 -/
abbrev BRG_PWE_W2 : Nat := 0x02C0010C
/-- `BRG_PWE_W3` (, RO): Oldest log entry, R586 -/
abbrev BRG_PWE_W3 : Nat := 0x02C00110
/-- `BRG_PWE_W4` (, RO): Oldest log entry, R586 -/
abbrev BRG_PWE_W4 : Nat := 0x02C00114
/-- `BRG_AP_CTRL` (, RO): Slot binding -/
abbrev BRG_AP_CTRL (s : Nat) : Nat := 0x02C01000 + s * 0x20
/-- `BRG_AP_ID_LO` (, RO): Target identity [31:0], or pair identity -/
abbrev BRG_AP_ID_LO (s : Nat) : Nat := 0x02C01004 + s * 0x20
/-- `BRG_AP_ID_HI` (, RO): [15:0] identity [47:32] -/
abbrev BRG_AP_ID_HI (s : Nat) : Nat := 0x02C01008 + s * 0x20
/-- `BRG_AP_STAT` (, RO): Slot status -/
abbrev BRG_AP_STAT (s : Nat) : Nat := 0x02C0100C + s * 0x20
/-- `BRG_AP_SB` (, RO): Target's sideband bits at the last summary -/
abbrev BRG_AP_SB (s : Nat) : Nat := 0x02C01010 + s * 0x20
/-- `BRG_SEM_CFG` (, RO): [5:0] slot; [9:8] `STATE`: 0 FREE, 1 REQUESTED, 2 HELD; [14:12] context -/
abbrev BRG_SEM_CFG (m : Nat) : Nat := 0x02C02000 + m * 0x10
/-- `BRG_SEM_LEASE` (, RO): µs until the requester-side lease ends -/
abbrev BRG_SEM_LEASE (m : Nat) : Nat := 0x02C02004 + m * 0x10
/-- `BRG_WIN_CFG` (, RO): [0] valid; [1] read-only; [2] read side effect; [3] prefetchable; [4] secure; [5] DRAM; [10:8] region -/
abbrev BRG_WIN_CFG (w : Nat) : Nat := 0x02C03000 + w * 0x20
/-- `BRG_WIN_BASE_LO` (, RO): Base offset [31:0] -/
abbrev BRG_WIN_BASE_LO (w : Nat) : Nat := 0x02C03004 + w * 0x20
/-- `BRG_WIN_BASE_HI` (, RO): Base offset [63:32] -/
abbrev BRG_WIN_BASE_HI (w : Nat) : Nat := 0x02C03008 + w * 0x20
/-- `BRG_WIN_SIZE` (, RO): Size in KiB -/
abbrev BRG_WIN_SIZE (w : Nat) : Nat := 0x02C0300C + w * 0x20
/-- `BRG_WIN_LOCK_LO` (, RO): Lock holder identity [31:0] -/
abbrev BRG_WIN_LOCK_LO (w : Nat) : Nat := 0x02C03010 + w * 0x20
/-- `BRG_WIN_LOCK_HI` (, RO): [15:0] identity [47:32]; [18:16] context; [29:24] semaphore; [31] locked -/
abbrev BRG_WIN_LOCK_HI (w : Nat) : Nat := 0x02C03014 + w * 0x20
/-- `BRG_WIN_LEASE` (, RO): µs until the owner-side lease ends -/
abbrev BRG_WIN_LEASE (w : Nat) : Nat := 0x02C03018 + w * 0x20
/-- `BRG_TUN_CFG` (, RO): [13:0] stream ID; [15:14] controller; [17:16] queue; [31] valid -/
abbrev BRG_TUN_CFG (t : Nat) : Nat := 0x02C04000 + t * 0x10
/-- `BRG_TUN_SEQ` (, RO): [15:0] last sequence sent or replayed -/
abbrev BRG_TUN_SEQ (t : Nat) : Nat := 0x02C04004 + t * 0x10
/-- `BRG_TUN_REC` (, RC): Records sent or replayed -/
abbrev BRG_TUN_REC (t : Nat) : Nat := 0x02C04008 + t * 0x10
/-- `BRG_TUN_LOST` (, RC): TUN frames lost, R572 -/
abbrev BRG_TUN_LOST (t : Nat) : Nat := 0x02C0400C + t * 0x10
/-- `BRG_RT_W0` (, RW): Routing entry r, word 0 -/
abbrev BRG_RT_W0 (r : Nat) : Nat := 0x02C10000 + r * 0x8
/-- `BRG_RT_W1` (, RW): Routing entry r, word 1 -/
abbrev BRG_RT_W1 (r : Nat) : Nat := 0x02C10004 + r * 0x8
/-- `CHK_BUSY` (R616, RO): Bit c = `BUSY` of context c -/
abbrev CHK_BUSY : Nat := 0x03000000
/-- `CHK_SNOOP_USE` (R616, RO): [2:0] contexts snooping spine streams, 0 to 4 -/
abbrev CHK_SNOOP_USE : Nat := 0x03000004
/-- `CHK_MISMATCH_CNT` (R616, RC): Mismatches from every source -/
abbrev CHK_MISMATCH_CNT : Nat := 0x03000010
/-- `CHK_SPINE_LAST` (R616, RO): Last port spine-check mismatch: [13:0] stream ID; [19:16] fabric port -/
abbrev CHK_SPINE_LAST : Nat := 0x03000014
/-- `CHK_CTX_CFG` (R616, RW): Configuration -/
abbrev CHK_CTX_CFG (c : Nat) : Nat := 0x03001000 + c * 0x40
/-- `CHK_CTX_CTRL` (R616, W1S): [0] `GO`; [1] `STOP`; reads 0 -/
abbrev CHK_CTX_CTRL (c : Nat) : Nat := 0x03001004 + c * 0x40
/-- `CHK_CTX_STAT` (R616, RO): Status -/
abbrev CHK_CTX_STAT (c : Nat) : Nat := 0x03001008 + c * 0x40
/-- `CHK_CTX_RUN` (R616, RW): Running value, R605 -/
abbrev CHK_CTX_RUN (c : Nat) : Nat := 0x0300100C + c * 0x40
/-- `CHK_CTX_RESULT` (R616, RO): Result of the last block, right-aligned -/
abbrev CHK_CTX_RESULT (c : Nat) : Nat := 0x03001010 + c * 0x40
/-- `CHK_CTX_EXPECT` (R616, RO): Check value found in the last checked block -/
abbrev CHK_CTX_EXPECT (c : Nat) : Nat := 0x03001014 + c * 0x40
/-- `CHK_CTX_FOLD0` (R616, RW): [15:0] stream ID; [31:16] sequence -/
abbrev CHK_CTX_FOLD0 (c : Nat) : Nat := 0x03001018 + c * 0x40
/-- `CHK_CTX_FOLD1` (R616, RW): Address; for algorithm 4, [15:0] epoch -/
abbrev CHK_CTX_FOLD1 (c : Nat) : Nat := 0x0300101C + c * 0x40
/-- `CHK_CTX_SRC_LO` (R616, RW): DMA source, bits [31:0] -/
abbrev CHK_CTX_SRC_LO (c : Nat) : Nat := 0x03001020 + c * 0x40
/-- `CHK_CTX_SRC_HI` (R616, RW): DMA source, bits [63:32] -/
abbrev CHK_CTX_SRC_HI (c : Nat) : Nat := 0x03001024 + c * 0x40
/-- `CHK_CTX_DST_LO` (R616, RW): DMA destination, bits [31:0] -/
abbrev CHK_CTX_DST_LO (c : Nat) : Nat := 0x03001028 + c * 0x40
/-- `CHK_CTX_DST_HI` (R616, RW): DMA destination, bits [63:32] -/
abbrev CHK_CTX_DST_HI (c : Nat) : Nat := 0x0300102C + c * 0x40
/-- `CHK_CTX_LEN` (R616, RW): [27:0] DMA length in bytes -/
abbrev CHK_CTX_LEN (c : Nat) : Nat := 0x03001030 + c * 0x40
/-- `CHK_CTX_SNOOP` (R616, RW): [13:0] `STREAM`; [24:14] `OFF`, 0 to 1,467; [31:25] reserved -/
abbrev CHK_CTX_SNOOP (c : Nat) : Nat := 0x03001034 + c * 0x40
/-- `CHK_CTX_SNOOP_LEN` (R616, RW): [10:0] `LEN`, 0 = to the end of the payload -/
abbrev CHK_CTX_SNOOP_LEN (c : Nat) : Nat := 0x03001038 + c * 0x40
/-- `CHK_CTX_MISS` (R616, RC): Mismatches in this context -/
abbrev CHK_CTX_MISS (c : Nat) : Nat := 0x0300103C + c * 0x40
/-- `HST_CTX_CFG` (R660, RO): Context c record, R661 -/
abbrev HST_CTX_CFG (c : Nat) : Nat := 0x03400000 + c * 0x400
/-- `HST_CTX_STAT` (R660, RO): [0] present; [1] `RESET` running; [2] transport up: PCIe, the link is up and the function enabled; SPI, 1 whenever the context is present; host frames, the car port's link is up; [3] stopped under R626; [6:4] TSQ: [4] TSQ0, [5] TSQ1 -/
abbrev HST_CTX_STAT (c : Nat) : Nat := 0x03400004 + c * 0x400
/-- `HST_CTX_CTRL` (R660, W1S): [0] `RESET`, R645 -/
abbrev HST_CTX_CTRL (c : Nat) : Nat := 0x03400008 + c * 0x400
/-- `HST_IRQ_STAT` (R660, W1C): [3:0] CQ r; [4] event ring; [5] `VIOL`; [6] FTX; [7] FRX; [8] `EVQ_OVF` -/
abbrev HST_IRQ_STAT (c : Nat) : Nat := 0x0340000C + c * 0x400
/-- `HST_IRQ_EN` (R660, RW): As `HST_IRQ_STAT`; SPI pin enable -/
abbrev HST_IRQ_EN (c : Nat) : Nat := 0x03400010 + c * 0x400
/-- `HST_CMD_CNT` (R660, RC): Commands completed -/
abbrev HST_CMD_CNT (c : Nat) : Nat := 0x03400014 + c * 0x400
/-- `HST_REJ_CNT` (R660, RC): Completions with status 0x02 to 0x06 -/
abbrev HST_REJ_CNT (c : Nat) : Nat := 0x03400018 + c * 0x400
/-- `HST_EVQ_BASE_LO` (R660, RW): Event ring base, bits [31:0]; PCIe only -/
abbrev HST_EVQ_BASE_LO (c : Nat) : Nat := 0x03400020 + c * 0x400
/-- `HST_EVQ_BASE_HI` (R660, RW): Bits [63:32] -/
abbrev HST_EVQ_BASE_HI (c : Nat) : Nat := 0x03400024 + c * 0x400
/-- `HST_EVQ_SIZE` (R660, RW): [10:0] entries; 0 = disabled -/
abbrev HST_EVQ_SIZE (c : Nat) : Nat := 0x03400028 + c * 0x400
/-- `HST_EVQ_HEAD` (R660, RW): Doorbell, R632 -/
abbrev HST_EVQ_HEAD (c : Nat) : Nat := 0x0340002C + c * 0x400
/-- `HST_EVQ_TAIL` (R660, RO): Next entry the node writes -/
abbrev HST_EVQ_TAIL (c : Nat) : Nat := 0x03400030 + c * 0x400
/-- `HST_EVQ_LOST` (R660, RC): Events not written, R642 -/
abbrev HST_EVQ_LOST (c : Nat) : Nat := 0x03400034 + c * 0x400
/-- `HST_SQ_BASE_LO` (R660, RW): SQ base, bits [31:0]; PCIe only -/
abbrev HST_SQ_BASE_LO (c : Nat) (r : Nat) : Nat := 0x03400100 + c * 0x400 + r * 0x40
/-- `HST_SQ_BASE_HI` (R660, RW): Bits [63:32] -/
abbrev HST_SQ_BASE_HI (c : Nat) (r : Nat) : Nat := 0x03400104 + c * 0x400 + r * 0x40
/-- `HST_SQ_SIZE` (R660, RW): [10:0] entries; 0 = disabled -/
abbrev HST_SQ_SIZE (c : Nat) (r : Nat) : Nat := 0x03400108 + c * 0x400 + r * 0x40
/-- `HST_SQ_TAIL` (R660, RW): Doorbell -/
abbrev HST_SQ_TAIL (c : Nat) (r : Nat) : Nat := 0x0340010C + c * 0x400 + r * 0x40
/-- `HST_SQ_HEAD` (R660, RO): Next entry the node fetches -/
abbrev HST_SQ_HEAD (c : Nat) (r : Nat) : Nat := 0x03400110 + c * 0x400 + r * 0x40
/-- `HST_CQ_BASE_LO` (R660, RW): CQ base, bits [31:0]; PCIe only -/
abbrev HST_CQ_BASE_LO (c : Nat) (r : Nat) : Nat := 0x03400114 + c * 0x400 + r * 0x40
/-- `HST_CQ_BASE_HI` (R660, RW): Bits [63:32] -/
abbrev HST_CQ_BASE_HI (c : Nat) (r : Nat) : Nat := 0x03400118 + c * 0x400 + r * 0x40
/-- `HST_CQ_SIZE` (R660, RW): [10:0] entries, at least 16; 0 = disabled -/
abbrev HST_CQ_SIZE (c : Nat) (r : Nat) : Nat := 0x0340011C + c * 0x400 + r * 0x40
/-- `HST_CQ_HEAD` (R660, RW): Doorbell -/
abbrev HST_CQ_HEAD (c : Nat) (r : Nat) : Nat := 0x03400120 + c * 0x400 + r * 0x40
/-- `HST_CQ_TAIL` (R660, RO): Next entry the node writes -/
abbrev HST_CQ_TAIL (c : Nat) (r : Nat) : Nat := 0x03400124 + c * 0x400 + r * 0x40
/-- `HST_CQ_IRQ` (R660, RW): [7:0] `COUNT`; [23:8] `TIMER` in µs -/
abbrev HST_CQ_IRQ (c : Nat) (r : Nat) : Nat := 0x03400128 + c * 0x400 + r * 0x40
/-- `HST_FTX_BASE_LO` (R660, RW): FTX base, bits [31:0] -/
abbrev HST_FTX_BASE_LO (c : Nat) : Nat := 0x03400300 + c * 0x400
/-- `HST_FTX_BASE_HI` (R660, RW): Bits [63:32] -/
abbrev HST_FTX_BASE_HI (c : Nat) : Nat := 0x03400304 + c * 0x400
/-- `HST_FTX_SIZE` (R660, RW): [10:0] entries; 0 = disabled -/
abbrev HST_FTX_SIZE (c : Nat) : Nat := 0x03400308 + c * 0x400
/-- `HST_FTX_TAIL` (R660, RW): Doorbell -/
abbrev HST_FTX_TAIL (c : Nat) : Nat := 0x0340030C + c * 0x400
/-- `HST_FTX_HEAD` (R660, RO): Next descriptor the node reads -/
abbrev HST_FTX_HEAD (c : Nat) : Nat := 0x03400310 + c * 0x400
/-- `HST_FRX_BASE_LO` (R660, RW): FRX base, bits [31:0] -/
abbrev HST_FRX_BASE_LO (c : Nat) : Nat := 0x03400314 + c * 0x400
/-- `HST_FRX_BASE_HI` (R660, RW): Bits [63:32] -/
abbrev HST_FRX_BASE_HI (c : Nat) : Nat := 0x03400318 + c * 0x400
/-- `HST_FRX_SIZE` (R660, RW): [10:0] entries; 0 = disabled -/
abbrev HST_FRX_SIZE (c : Nat) : Nat := 0x0340031C + c * 0x400
/-- `HST_FRX_TAIL` (R660, RW): Doorbell -/
abbrev HST_FRX_TAIL (c : Nat) : Nat := 0x03400320 + c * 0x400
/-- `HST_FRX_HEAD` (R660, RO): Next descriptor the node fills -/
abbrev HST_FRX_HEAD (c : Nat) : Nat := 0x03400324 + c * 0x400
/-- `HST_FTX_DROP` (R660, RC): Frames discarded, R644 -/
abbrev HST_FTX_DROP (c : Nat) : Nat := 0x03400328 + c * 0x400
/-- `HST_FRX_DROP` (R660, RC): Frames without a buffer -/
abbrev HST_FRX_DROP (c : Nat) : Nat := 0x0340032C + c * 0x400
/-- `HST_PCIE_STAT` (R660, RO): [0] link up; [3:1] width: 1, 2 or 4; [5:4] rate: 1 2.5, 2 5, 3 8 GT/s; width and rate read 0 while the link is down or not yet trained -/
abbrev HST_PCIE_STAT : Nat := 0x03403000
/-- `HST_SPI_RING` (R660, RW): Ring memory of SPI0 and SPI1 -/
abbrev HST_SPI_RING : Nat := 0x03500000
/-- `WLD_CFG` (R662, RO/S): [8:0] regions; [18:16] notify context; [19] notify valid -/
abbrev WLD_CFG : Nat := 0x00100000
/-- `WLD_INST` (R662, RO/S): w = 0 to 3; bit b = instance 32w + b secure -/
abbrev WLD_INST (w : Nat) : Nat := 0x00100010 + w * 0x4
/-- `WLD_VIOL_STAT` (R662, RO/S): [5:0] entries, 0 to 32; [6] `OVF`; [31:16] `LOST` -/
abbrev WLD_VIOL_STAT : Nat := 0x00100020
/-- `WLD_VIOL_W0` (R662, RO/S): Oldest entry, word 0, R652 -/
abbrev WLD_VIOL_W0 : Nat := 0x00100024
/-- `WLD_VIOL_W1` (R662, RO/S): Word 1 -/
abbrev WLD_VIOL_W1 : Nat := 0x00100028
/-- `WLD_VIOL_W2` (R662, RO/S): Word 2 -/
abbrev WLD_VIOL_W2 : Nat := 0x0010002C
/-- `WLD_VIOL_W3` (R662, RO/S): Word 3; a read removes the entry -/
abbrev WLD_VIOL_W3 : Nat := 0x00100030
/-- `WLD_REFUSED` (R662, RO/S): Refused accesses since reset, saturating -/
abbrev WLD_REFUSED : Nat := 0x00100040
/-- `WLD_RGN_BASE_LO` (R662, RO/S): Region base, bits [31:0] -/
abbrev WLD_RGN_BASE_LO (g : Nat) : Nat := 0x00101000 + g * 0x10
/-- `WLD_RGN_BASE_HI` (R662, RO/S): Bits [63:32] -/
abbrev WLD_RGN_BASE_HI (g : Nat) : Nat := 0x00101004 + g * 0x10
/-- `WLD_RGN_SIZE` (R662, RO/S): Size in KiB -/
abbrev WLD_RGN_SIZE (g : Nat) : Nat := 0x00101008 + g * 0x10
/-- `WLD_RGN_CFG` (R662, RO/S): [7:0] space; [8] secure; [31] valid -/
abbrev WLD_RGN_CFG (g : Nat) : Nat := 0x0010100C + g * 0x10
/-- `JRN_CFG` (R663, RO): [13:0] entries in all shares; [16] journal kept at the last image load -/
abbrev JRN_CFG : Nat := 0x03800000
/-- `JRN_CORRUPT` (R663, RC): Entries found corrupt -/
abbrev JRN_CORRUPT : Nat := 0x03800004
/-- `JRN_CTX_BASE` (R663, RO): [12:0] first entry of the share -/
abbrev JRN_CTX_BASE (c : Nat) : Nat := 0x03800100 + c * 0x20
/-- `JRN_CTX_SIZE` (R663, RO): [13:0] entries -/
abbrev JRN_CTX_SIZE (c : Nat) : Nat := 0x03800104 + c * 0x20
/-- `JRN_CTX_OLDEST` (R663, RO): Sequence of the oldest entry; 0 when empty -/
abbrev JRN_CTX_OLDEST (c : Nat) : Nat := 0x03800108 + c * 0x20
/-- `JRN_CTX_NEWEST` (R663, RO): Sequence of the newest entry; 0 when empty -/
abbrev JRN_CTX_NEWEST (c : Nat) : Nat := 0x0380010C + c * 0x20
/-- `JRN_CTX_ACK` (R663, RW): Last sequence reconciled by the host, R655 -/
abbrev JRN_CTX_ACK (c : Nat) : Nat := 0x03800110 + c * 0x20
/-- `JRN_CTX_WRAP` (R663, RC): Unacknowledged entries overwritten -/
abbrev JRN_CTX_WRAP (c : Nat) : Nat := 0x03800114 + c * 0x20
/-- `JRN_ENTRY` (R663, RO): Entry i, R653 -/
abbrev JRN_ENTRY (i : Nat) : Nat := 0x03810000 + i * 0x40
/-- `EVT_CFG` (R677, RW/S): [1:0] `LOG_SEV`: lowest severity logged; [31:2] reserved -/
abbrev EVT_CFG : Nat := 0x00180000
/-- `EVT_STAT` (R677, RO): [9:0] `HEAD`: next record index; [10] `WRAPPED`: a record has been overwritten since the last clear; [11] `FATAL`: the latch holds a record -/
abbrev EVT_STAT : Nat := 0x00180004
/-- `EVT_LOG_TOTAL` (R677, RO): Records written, R675; wraps -/
abbrev EVT_LOG_TOTAL : Nat := 0x00180008
/-- `EVT_LOG_WRAP` (R677, RC): Records overwritten -/
abbrev EVT_LOG_WRAP : Nat := 0x0018000C
/-- `EVT_DROP` (R677, RC): Events discarded, R676 -/
abbrev EVT_DROP : Nat := 0x00180010
/-- `EVT_BAD_ACCESS` (R677, RC): BAR0 accesses refused for form, R666 -/
abbrev EVT_BAD_ACCESS : Nat := 0x00180014
/-- `EVT_CLEAR` (R677, RW/S): [0] `LOG`, [1] `FATAL`: writing 1 clears; reads zero -/
abbrev EVT_CLEAR : Nat := 0x00180018
/-- `EVT_CNT_SEV` (R677, RC): Events raised with severity s, s = 0 to 3 -/
abbrev EVT_CNT_SEV (s : Nat) : Nat := 0x00180020 + s * 0x4
/-- `EVT_FATAL_W0` (R677, RO): First fatal record since the last clear -/
abbrev EVT_FATAL_W0 : Nat := 0x00180040
/-- `EVT_FATAL_W1` (R677, RO): First fatal record since the last clear -/
abbrev EVT_FATAL_W1 : Nat := 0x00180044
/-- `EVT_FATAL_W2` (R677, RO): First fatal record since the last clear -/
abbrev EVT_FATAL_W2 : Nat := 0x00180048
/-- `EVT_FATAL_W3` (R677, RO): First fatal record since the last clear -/
abbrev EVT_FATAL_W3 : Nat := 0x0018004C
/-- `EVT_SUB_BLK` (R677, RW): Bit b = 1: receive events of block b, b = 1 to 18 -/
abbrev EVT_SUB_BLK (c : Nat) : Nat := 0x00180100 + c * 0x10
/-- `EVT_SUB_SEV` (R677, RW): [1:0] lowest severity received -/
abbrev EVT_SUB_SEV (c : Nat) : Nat := 0x00180104 + c * 0x10
/-- `EVT_LOG` (R677, RO): Record i, R670 and R674 -/
abbrev EVT_LOG (i : Nat) : Nat := 0x00190000 + i * 0x10
/-- `TST_CFG` (R699, RW/S): [0] `ECHO_ALLOW`; [31:1] reserved -/
abbrev TST_CFG : Nat := 0x03C00000
/-- `TST_STAT` (R699, RO): [16:0] targets looped; [29:17] lanes running PRBS; [30] BIST results valid; [31] injection armed -/
abbrev TST_STAT : Nat := 0x03C00004
/-- `TST_BIST_REQ` (R699, RW/S): Mask for the next BIST, R692 -/
abbrev TST_BIST_REQ : Nat := 0x03C00010
/-- `TST_BIST_DONE` (R699, RO): Memories tested at the last BIST -/
abbrev TST_BIST_DONE : Nat := 0x03C00014
/-- `TST_BIST_FAIL` (R699, RO): Memories failed -/
abbrev TST_BIST_FAIL : Nat := 0x03C00018
/-- `TST_BIST_FIRST` (R699, RO): First failing word, `TOP_ECC_LAST` format -/
abbrev TST_BIST_FIRST : Nat := 0x03C0001C
/-- `TST_INJ_CTRL` (R699, RW/S): Injection control -/
abbrev TST_INJ_CTRL : Nat := 0x03C00020
/-- `TST_INJ_TARGET` (R699, RW/S): Target, R694 -/
abbrev TST_INJ_TARGET : Nat := 0x03C00024
/-- `TST_INJ_MASK` (R699, RW/S): Mask, R694 -/
abbrev TST_INJ_MASK : Nat := 0x03C00028
/-- `TST_INJ_LEFT` (R699, RO): [7:0] applications left -/
abbrev TST_INJ_LEFT : Nat := 0x03C0002C
/-- `TST_LB_CFG` (R699, RO): [3:0] depth, as `TEST_LOOP` word 1, 0 = none; [4] `FORCE`; [15:8] reserved; [31:16] ECHO session -/
abbrev TST_LB_CFG (t : Nat) : Nat := 0x03C00100 + t * 0x10
/-- `TST_LB_LEFT` (R699, RO): ms until the loop ends; 0 = held -/
abbrev TST_LB_LEFT (t : Nat) : Nat := 0x03C00104 + t * 0x10
/-- `TST_ECHO_RET` (R699, RC): Frames returned in ECHO mode -/
abbrev TST_ECHO_RET (t : Nat) : Nat := 0x03C00108 + t * 0x10
/-- `TST_PRBS_STAT` (R699, RO): [1:0] pattern; [2] invert; [3] generating; [4] checking; [5] `LOCK`; [31:16] `LOL` -/
abbrev TST_PRBS_STAT (l : Nat) : Nat := 0x03C00400 + l * 0x20
/-- `TST_PRBS_ERR_LO` (R699, RO): Errors, bits [31:0] -/
abbrev TST_PRBS_ERR_LO (l : Nat) : Nat := 0x03C00408 + l * 0x20
/-- `TST_PRBS_ERR_HI` (R699, RO): Bits [63:32] -/
abbrev TST_PRBS_ERR_HI (l : Nat) : Nat := 0x03C0040C + l * 0x20
/-- `TST_PRBS_BITS_LO` (R699, RO): Locked bits compared, bits [31:0] -/
abbrev TST_PRBS_BITS_LO (l : Nat) : Nat := 0x03C00410 + l * 0x20
/-- `TST_PRBS_BITS_HI` (R699, RO): Bits [63:32] -/
abbrev TST_PRBS_BITS_HI (l : Nat) : Nat := 0x03C00414 + l * 0x20
/-- `PCR_RESET_CAUSE` (R731, RO/S): Last reset, R712 -/
abbrev PCR_RESET_CAUSE : Nat := 0x00200000
/-- `PCR_RESET_CTRL` (R731, RW/S): [0] `WARM`, W1S: warm reset, cause 3; reads 0 -/
abbrev PCR_RESET_CTRL : Nat := 0x00200004
/-- `PCR_STRAP` (R731, RO/S): [1:0] BOOT_MODE, R711 -/
abbrev PCR_STRAP : Nat := 0x00200008
/-- `PCR_WARM_CNT` (R731, RO/S): Warm and train resets since power-on -/
abbrev PCR_WARM_CNT : Nat := 0x0020000C
/-- `PCR_PLL_STAT` (R731, RO/S): [18:0] one bit per PLL, R709: 1 = locked -/
abbrev PCR_PLL_STAT : Nat := 0x00200010
/-- `PCR_PLL_UNLOCKS` (R731, RO/S): Losses of lock since power-on -/
abbrev PCR_PLL_UNLOCKS : Nat := 0x00200014
/-- `PCR_AON_CAL` (R731, RO/S): RC frequency at the last calibration, Hz -/
abbrev PCR_AON_CAL : Nat := 0x00200018
/-- `PCR_SUPPLY_STAT` (R731, RO/S): [0] VDD_AON low; [1] VDD_CORE low; [2] VDD_SRAM low; [3] REFCLK absent; current state -/
abbrev PCR_SUPPLY_STAT : Nat := 0x0020001C
/-- `PCR_SLEEP_CTRL` (R731, RW/S): Sleep control -/
abbrev PCR_SLEEP_CTRL : Nat := 0x00200020
/-- `PCR_WAKE_EN` (R731, RW/S): [8:0] wake sources, R721 -/
abbrev PCR_WAKE_EN : Nat := 0x00200024
/-- `PCR_WAKE_CAUSE` (R731, RO/S): [8:0] sources that woke the node at the last wake -/
abbrev PCR_WAKE_CAUSE : Nat := 0x00200028
/-- `PCR_SLEEP_SEC` (R731, RO/S): Seconds asleep at the last wake, timed by AON -/
abbrev PCR_SLEEP_SEC : Nat := 0x0020002C
/-- `MEM_STAT` (R734, RO): DRAM state -/
abbrev MEM_STAT : Nat := 0x03A00000
/-- `MEM_SIZE` (R734, RO): [15:0] installed MiB; [31:16] MiB available after inline ECC -/
abbrev MEM_SIZE : Nat := 0x03A00004
/-- `MEM_ECC_CORR_LO` (R734, RO): Corrected errors, bits [31:0] -/
abbrev MEM_ECC_CORR_LO : Nat := 0x03A00008
/-- `MEM_ECC_CORR_HI` (R734, RO): Bits [63:32] -/
abbrev MEM_ECC_CORR_HI : Nat := 0x03A0000C
/-- `MEM_ECC_UNCORR` (R734, RO): Uncorrectable errors -/
abbrev MEM_ECC_UNCORR : Nat := 0x03A00010
/-- `MEM_ECC_LAST` (R734, RO): [26:0] address / 64 of the last uncorrectable error -/
abbrev MEM_ECC_LAST : Nat := 0x03A00014
/-- `MEM_SCRUB` (R734, RW): [0] `EN`; [31:16] completed passes, saturating -/
abbrev MEM_SCRUB : Nat := 0x03A00018
/-- `MEM_LOOP` (R734, RW): [0] `GO`, W1S; [1] `DONE`; [2] `PASS`; R729 -/
abbrev MEM_LOOP : Nat := 0x03A0001C
/-- `MEM_TRAIN` (R734, RO): Lane l: [7:0] read eye in ps ÷ 4; [15:8] write eye in ps ÷ 4; [23:16] read delay tap -/
abbrev MEM_TRAIN (l : Nat) : Nat := 0x03A00020 + l * 0x4
/-- `MEM_FLASH_ID` (R734, RO): [23:0] JEDEC manufacturer and device ID -/
abbrev MEM_FLASH_ID : Nat := 0x03A00080
/-- `MEM_FLASH_SIZE` (R734, RO): Flash size in MiB, from SFDP -/
abbrev MEM_FLASH_SIZE : Nat := 0x03A00084
/-- `MEM_FLASH_STAT` (R734, RO): [0] 8D-8D-8D in use; [15:8] clock in MHz; [16] busy -/
abbrev MEM_FLASH_STAT : Nat := 0x03A00088
/-- `MEM_FLASH_ERR` (R734, RO): FLASH_ERROR occurrences since reset -/
abbrev MEM_FLASH_ERR : Nat := 0x03A0008C
/-- `STB_ENTRY` (R385, RO): Entry s in the layout of R350 -/
abbrev STB_ENTRY (s : Nat) : Nat := 0x01200000 + s * 0x20

end Reg

namespace Fld

/-- `TOP_PLACE.NODE_NUM` (R43): Node number, 1 to 4,000; 0 = not yet numbered -/
abbrev TOP_PLACE_NODE_NUM : Field := ⟨0, 12⟩
/-- `TOP_PLACE.POS` (R43): Position of the vehicle, 1 to 1,000; 0 = not yet numbered -/
abbrev TOP_PLACE_POS : Field := ⟨12, 10⟩
/-- `TOP_PLACE.ORIENT` (R43): 1 = front ports face the leading end -/
abbrev TOP_PLACE_ORIENT : Field := ⟨22, 1⟩
/-- `TOP_PLACE.BRANCH` (R43): 1 = the node is a branch node -/
abbrev TOP_PLACE_BRANCH : Field := ⟨23, 1⟩
/-- `TOP_PLACE.ROLE_B` (R43): 1 = pair role B; 0 = pair role A or single node -/
abbrev TOP_PLACE_ROLE_B : Field := ⟨24, 1⟩
/-- `TOP_PLACE.PAIRED` (R43): 1 = the image declares a partner node -/
abbrev TOP_PLACE_PAIRED : Field := ⟨25, 1⟩
/-- `TOP_BUF_CFG.SCHED` (R90): Scheduled pool size in cells, 4,096 to 32,768 -/
abbrev TOP_BUF_CFG_SCHED : Field := ⟨0, 16⟩
/-- `TOP_BUF_CFG.OPEN` (R90): Open pool size in cells; valid once an image is loaded -/
abbrev TOP_BUF_CFG_OPEN : Field := ⟨16, 16⟩
/-- `TOP_WDOG_CFG.PERIOD` (R91): Watchdog period in ms, 1 to 255; 0 is treated as 1 -/
abbrev TOP_WDOG_CFG_PERIOD : Field := ⟨0, 8⟩
/-- `TOP_ECC_LAST.WORD` (R92): Index of the 64-bit word within the memory -/
abbrev TOP_ECC_LAST_WORD : Field := ⟨0, 24⟩
/-- `TOP_ECC_LAST.MEM` (R92): Memory: 0x01 frame buffer, 0x02 stream table, 0x03 duplicate trackers, 0x04 filter rules, 0x05 CAN routing table, 0x06 journal, 0x07 fault log, 0x10 + engine number for an engine SRAM -/
abbrev TOP_ECC_LAST_MEM : Field := ⟨24, 8⟩
/-- `IMG_STATE.STATE` (R137): 0 loading, 1 waiting for an image, 2 running -/
abbrev IMG_STATE_STATE : Field := ⟨0, 2⟩
/-- `IMG_STATE.SLOT` (R137): Slot of the running image: 0 A, 1 B -/
abbrev IMG_STATE_SLOT : Field := ⟨4, 1⟩
/-- `IMG_STATE.FALLBACK` (R137): 1 = the first chosen slot failed -/
abbrev IMG_STATE_FALLBACK : Field := ⟨5, 1⟩
/-- `IMG_STATE.PREF` (R137): 1 = a one-shot preference chose the slot -/
abbrev IMG_STATE_PREF : Field := ⟨6, 1⟩
/-- `IMG_STATE.DEBUG` (R137): Copy of the header flag of the running image -/
abbrev IMG_STATE_DEBUG : Field := ⟨7, 1⟩
/-- `IMG_SLOT_STAT.VALID` (R138): 1 = fully verified at the last boot or `IMG_SLOT_VERIFY` -/
abbrev IMG_SLOT_STAT_VALID : Field := ⟨0, 1⟩
/-- `IMG_SLOT_STAT.BAD` (R138): 1 = marked bad in the status block -/
abbrev IMG_SLOT_STAT_BAD : Field := ⟨1, 1⟩
/-- `IMG_SLOT_STAT.ATTEMPTS` (R138): Boot-attempt count, 0 to 3 -/
abbrev IMG_SLOT_STAT_ATTEMPTS : Field := ⟨2, 2⟩
/-- `IMG_SLOT_STAT.REASON` (R138): Reason code of the last failure or marking -/
abbrev IMG_SLOT_STAT_REASON : Field := ⟨8, 8⟩
/-- `IMG_TINT_STAT.STATE` (R139): 0 none, 1 staged, 2 announced, 3 committed -/
abbrev IMG_TINT_STAT_STATE : Field := ⟨0, 2⟩
/-- `IMG_TINT_STAT.MODES` (R139): 1 = the staged or committed tint carries MODES -/
abbrev IMG_TINT_STAT_MODES : Field := ⟨2, 1⟩
/-- `IMG_TINT_STAT.STREAMS` (R139): 1 = it carries STREAMS -/
abbrev IMG_TINT_STAT_STREAMS : Field := ⟨3, 1⟩
/-- `IMG_TINT_STAT.TARGET` (R139): Target mode of the announced commit -/
abbrev IMG_TINT_STAT_TARGET : Field := ⟨8, 3⟩
/-- `SPN_CTRL.ADMIN_DOWN` (R190): 1 = hold the link down; the port sends nothing -/
abbrev SPN_CTRL_ADMIN_DOWN : Field := ⟨0, 1⟩
/-- `SPN_CTRL.WAKE_SEND` (R190): FA and RA only: send wake frames, R186; reads 1 while sending; reserved on other ports -/
abbrev SPN_CTRL_WAKE_SEND : Field := ⟨1, 1⟩
/-- `SPN_STAT.LINK` (R191): 1 = link up, R145 -/
abbrev SPN_STAT_LINK : Field := ⟨0, 1⟩
/-- `SPN_STAT.RATE` (R191): 0 down, 1 1 Gbit/s, 2 2.5 Gbit/s, 3 5 Gbit/s, 4 10 Gbit/s, 5 100 Mbit/s, 6 10 Mbit/s -/
abbrev SPN_STAT_RATE : Field := ⟨1, 3⟩
/-- `SPN_STAT.LISTEN` (R191): 1 = lane in 1000BASE-X listen or wake sending -/
abbrev SPN_STAT_LISTEN : Field := ⟨4, 1⟩
/-- `SPN_STAT.MACSEC` (R191): 1 = MACsec agreed and passing, R181 -/
abbrev SPN_STAT_MACSEC : Field := ⟨5, 1⟩
/-- `SPN_STAT.CROSSED` (R191): 1 = link withdrawn under R28 -/
abbrev SPN_STAT_CROSSED : Field := ⟨6, 1⟩
/-- `SPN_STAT.PREEMPT` (R191): 1 = preemption verified and active -/
abbrev SPN_STAT_PREEMPT : Field := ⟨7, 1⟩
/-- `SPN_STAT.HELD` (R191): 1 = held down by `ADMIN_DOWN`, R24 or R86 -/
abbrev SPN_STAT_HELD : Field := ⟨8, 1⟩
/-- `SPN_IFTYPE.TYPE` (R192): 0 unused, 1 10GBASE-R, 2 5GBASE-R, 3 2.5GBASE-R, 4 2500BASE-X, 5 1000BASE-X, 6 SGMII -/
abbrev SPN_IFTYPE_TYPE : Field := ⟨0, 4⟩
/-- `SPN_IFTYPE.KIND` (R192): Car ports: 0 consist, 1 branch, 2 host-frame; spine ports: 0 -/
abbrev SPN_IFTYPE_KIND : Field := ⟨4, 2⟩
/-- `SPN_IFTYPE.LINE` (R192): Spine and branch ports: 0 line A, 1 line B -/
abbrev SPN_IFTYPE_LINE : Field := ⟨6, 1⟩
/-- `SPN_IFTYPE.MACSEC` (R192): 1 = MACsec enabled in KEYS -/
abbrev SPN_IFTYPE_MACSEC : Field := ⟨7, 1⟩
/-- `SPN_IFTYPE.PREEMPT` (R192): 1 = preemption enabled in PORTS -/
abbrev SPN_IFTYPE_PREEMPT : Field := ⟨8, 1⟩
/-- `SPN_IFTYPE.PHY` (R192): 1 = an external PHY is managed over MDIO -/
abbrev SPN_IFTYPE_PHY : Field := ⟨9, 1⟩
/-- `SPN_IFTYPE.MDIO` (R192): MDIO master: 0 MDIO0, 1 MDIO1 -/
abbrev SPN_IFTYPE_MDIO : Field := ⟨10, 1⟩
/-- `SPN_IFTYPE.PHYAD` (R192): PHY or port address -/
abbrev SPN_IFTYPE_PHYAD : Field := ⟨11, 5⟩
/-- `SPN_MDIO_CMD.GO` (R195): Start the frame -/
abbrev SPN_MDIO_CMD_GO : Field := ⟨0, 1⟩
/-- `SPN_MDIO_CMD.OP` (R195): 0 Clause 22 write, 1 Clause 22 read, 2 Clause 45 address, 3 Clause 45 write, 4 Clause 45 read, 5 Clause 45 post-read increment -/
abbrev SPN_MDIO_CMD_OP : Field := ⟨1, 3⟩
/-- `SPN_MDIO_CMD.PHYAD` (R195): PHY address (Clause 22) or port address (Clause 45) -/
abbrev SPN_MDIO_CMD_PHYAD : Field := ⟨8, 5⟩
/-- `SPN_MDIO_CMD.REGAD` (R195): Register address (Clause 22) or device address (Clause 45) -/
abbrev SPN_MDIO_CMD_REGAD : Field := ⟨16, 5⟩
/-- `CYC_CFG.CODE` (R250): Cycle code j, R198 -/
abbrev CYC_CFG_CODE : Field := ⟨0, 3⟩
/-- `CYC_CFG.LEAD` (R250): Mode lead K, 3 to 15, from the PAIR section -/
abbrev CYC_CFG_LEAD : Field := ⟨4, 4⟩
/-- `CYC_STATE.CUR` (R251): Current mode -/
abbrev CYC_STATE_CUR : Field := ⟨0, 3⟩
/-- `CYC_STATE.MASTER` (R251): 1 = this node is the cycle master -/
abbrev CYC_STATE_MASTER : Field := ⟨3, 1⟩
/-- `CYC_STATE.REF_A` (R251): 1 = REF of the last completed cycle arrived on line A -/
abbrev CYC_STATE_REF_A : Field := ⟨4, 1⟩
/-- `CYC_STATE.REF_B` (R251): 1 = REF of the last completed cycle arrived on line B -/
abbrev CYC_STATE_REF_B : Field := ⟨5, 1⟩
/-- `CYC_STATE.HOLDOVER` (R251): 1 = no REF accepted in the last completed cycle -/
abbrev CYC_STATE_HOLDOVER : Field := ⟨6, 1⟩
/-- `CYC_STATE.MUTE_MODE` (R251): 1 = in MUTE under R230 or R244 -/
abbrev CYC_STATE_MUTE_MODE : Field := ⟨7, 1⟩
/-- `CYC_STATE.MUTE_CYC` (R251): 1 = in MUTE under R211 -/
abbrev CYC_STATE_MUTE_CYC : Field := ⟨8, 1⟩
/-- `CYC_MODE_NEXT.MODE` (R252): Target mode of the pending or last switch -/
abbrev CYC_MODE_NEXT_MODE : Field := ⟨0, 3⟩
/-- `CYC_MODE_NEXT.STATE` (R252): 0 none, 1 announced, 2 confirmed, 3 aborted, as last accepted -/
abbrev CYC_MODE_NEXT_STATE : Field := ⟨3, 2⟩
/-- `CYC_MODE_NEXT.TINT` (R252): 1 = the switch carries a tint tag -/
abbrev CYC_MODE_NEXT_TINT : Field := ⟨5, 1⟩
/-- `CYC_MODE_NEXT.ACKED` (R252): 1 = this node acknowledged it -/
abbrev CYC_MODE_NEXT_ACKED : Field := ⟨6, 1⟩
/-- `CYC_MODE_NEXT.REFUSED` (R252): 1 = this node refused it -/
abbrev CYC_MODE_NEXT_REFUSED : Field := ⟨7, 1⟩
/-- `CYC_MODE_NEXT.REASON` (R252): Abort reason, R242 -/
abbrev CYC_MODE_NEXT_REASON : Field := ⟨8, 8⟩
/-- `CYC_MD_STAT.VALID` (R253): 1 = the mode is defined at this node -/
abbrev CYC_MD_STAT_VALID : Field := ⟨0, 1⟩
/-- `CYC_MD_STAT.PLACER` (R253): 1 = built by the placer; 0 = from the image or a tint -/
abbrev CYC_MD_STAT_PLACER : Field := ⟨1, 1⟩
/-- `CYC_MD_STAT.USABLE` (R253): Master only: 1 = no slot overlaps a reference crossing of the current train -/
abbrev CYC_MD_STAT_USABLE : Field := ⟨2, 1⟩
/-- `INA_STATE.STATE` (R300): State, R256 -/
abbrev INA_STATE_STATE : Field := ⟨0, 3⟩
/-- `INA_STATE.MASTER` (R300): 1 = cycle master -/
abbrev INA_STATE_MASTER : Field := ⟨3, 1⟩
/-- `INA_STATE.BLEED` (R300): 1 = in the bleed window -/
abbrev INA_STATE_BLEED : Field := ⟨4, 1⟩
/-- `INA_STATE.JOINER` (R300): 1 = joiner whose streams are not yet placed -/
abbrev INA_STATE_JOINER : Field := ⟨5, 1⟩
/-- `INA_STATE.INTEROP` (R300): 1 = IEC 61375-2-5 mode -/
abbrev INA_STATE_INTEROP : Field := ⟨6, 1⟩
/-- `INA_STATE.SYNCED` (R300): 1 = synchronised to the current master -/
abbrev INA_STATE_SYNCED : Field := ⟨7, 1⟩
/-- `INA_STATE.BACKUP` (R300): Backup index; 0xFF none -/
abbrev INA_STATE_BACKUP : Field := ⟨8, 8⟩
/-- `INA_CFG.RANK` (R301): Cold-start rank; 0 = not capable -/
abbrev INA_CFG_RANK : Field := ⟨0, 8⟩
/-- `INA_CFG.INTEROP` (R301): 1 = IEC 61375-2-5 mode -/
abbrev INA_CFG_INTEROP : Field := ⟨8, 1⟩
/-- `INA_CFG.START` (R301): Mode named in REF from an initial commit -/
abbrev INA_CFG_START : Field := ⟨9, 3⟩
/-- `INA_COMMIT.EPOCH` (R302): Epoch of the pending commit -/
abbrev INA_COMMIT_EPOCH : Field := ⟨0, 16⟩
/-- `INA_COMMIT.PEND` (R302): 1 = a commit is announced and held -/
abbrev INA_COMMIT_PEND : Field := ⟨16, 1⟩
/-- `INA_COMMIT.INITIAL` (R302): 1 = the commit is initial -/
abbrev INA_COMMIT_INITIAL : Field := ⟨17, 1⟩
/-- `TMB_STATE.STATE` (R342): 0 FREE, 1 ACQUIRE, 2 SYNCED, 3 LOST, 4 HOLDOVER, 5 MASTER -/
abbrev TMB_STATE_STATE : Field := ⟨0, 3⟩
/-- `TMB_STATE.MUTE_SYNC` (R342): 1 = in MUTE under R317 -/
abbrev TMB_STATE_MUTE_SYNC : Field := ⟨3, 1⟩
/-- `TMB_STATE.SLEW` (R342): 1 = `TIME_ADJUST` running -/
abbrev TMB_STATE_SLEW : Field := ⟨4, 1⟩
/-- `TMB_STATE.RUN` (R342): Consecutive good or bad REFs in the current run, 0 to 7 -/
abbrev TMB_STATE_RUN : Field := ⟨5, 3⟩
/-- `TMB_STATE.HOLD_CYC` (R342): Consecutive missed cycles, saturating at 255 -/
abbrev TMB_STATE_HOLD_CYC : Field := ⟨8, 8⟩
/-- `TMB_TSQ_STAT.COUNT` (R343): Entries held, 0 to 32 -/
abbrev TMB_TSQ_STAT_COUNT : Field := ⟨0, 6⟩
/-- `TMB_TSQ_STAT.STATE` (R343): 0 EMPTY, 1 QUEUING, 2 OVERFLOW -/
abbrev TMB_TSQ_STAT_STATE : Field := ⟨6, 2⟩
/-- `TMB_TSQ_STAT.OVF` (R343): 1 = stamps are being lost -/
abbrev TMB_TSQ_STAT_OVF : Field := ⟨8, 1⟩
/-- `TMB_TSQ_STAT.LOST` (R343): Stamps lost in the current overflow, saturating -/
abbrev TMB_TSQ_STAT_LOST : Field := ⟨16, 16⟩
/-- `TMB_TOUT_CTRL.MODE` (R344): 0 off, 1 one-shot, 2 periodic, 3 instant -/
abbrev TMB_TOUT_CTRL_MODE : Field := ⟨0, 2⟩
/-- `TMB_TOUT_CTRL.POL` (R344): 0 active high, 1 active low -/
abbrev TMB_TOUT_CTRL_POL : Field := ⟨2, 1⟩
/-- `TMB_TOUT_CTRL.ARM` (R344): Arm with the current values; reads 1 while armed -/
abbrev TMB_TOUT_CTRL_ARM : Field := ⟨3, 1⟩
/-- `PLC_STATE.MASTER` (R387): 1 = this node runs the train placer -/
abbrev PLC_STATE_MASTER : Field := ⟨0, 1⟩
/-- `PLC_STATE.BUSY` (R387): 1 = an admission or re-placement is being computed -/
abbrev PLC_STATE_BUSY : Field := ⟨1, 1⟩
/-- `PLC_STATE.STAGED` (R387): 1 = a placer mode is staged -/
abbrev PLC_STATE_STAGED : Field := ⟨2, 1⟩
/-- `PLC_STATE.STAGED_MODE` (R387): Mode being staged, 4 to 7 -/
abbrev PLC_STATE_STAGED_MODE : Field := ⟨3, 3⟩
/-- `PLC_STATE.BASE` (R387): Base mode, 0 to 3 -/
abbrev PLC_STATE_BASE : Field := ⟨6, 3⟩
/-- `PLC_STATE.REPLACING` (R387): 1 = full re-placement steps in progress -/
abbrev PLC_STATE_REPLACING : Field := ⟨9, 1⟩
/-- `PLC_STATE.GAP` (R387): 1 = waiting for a resend, R361 or R366 -/
abbrev PLC_STATE_GAP : Field := ⟨10, 1⟩
/-- `PAR_CFG.ROLE_B` (R435): 1 = pair role B -/
abbrev PAR_CFG_ROLE_B : Field := ⟨0, 1⟩
/-- `PAR_CFG.PAIRED` (R435): 1 = the image declares a partner node -/
abbrev PAR_CFG_PAIRED : Field := ⟨1, 1⟩
/-- `PAR_CFG.HB` (R435): 1 = heartbeat lines fitted -/
abbrev PAR_CFG_HB : Field := ⟨2, 1⟩
/-- `PAR_CFG.SOLO_WAIT` (R435): Solo wait in s -/
abbrev PAR_CFG_SOLO_WAIT : Field := ⟨16, 10⟩
/-- `PAR_TOKEN.STATE` (R436): 0 INIT, 1 HOLDER, 2 STANDBY, 3 SOLO -/
abbrev PAR_TOKEN_STATE : Field := ⟨0, 2⟩
/-- `PAR_TOKEN.FENCED` (R436): 1 = no takeover under R409, R410 -/
abbrev PAR_TOKEN_FENCED : Field := ⟨2, 1⟩
/-- `PAR_TOKEN.UNFIT` (R436): 1 = an engine fault, R416 -/
abbrev PAR_TOKEN_UNFIT : Field := ⟨3, 1⟩
/-- `PAR_TOKEN.HANDOVER` (R436): 1 = a handover is pending -/
abbrev PAR_TOKEN_HANDOVER : Field := ⟨4, 1⟩
/-- `PAR_TOKEN.CONTACT` (R436): 1 = partner heard within the last 2 units -/
abbrev PAR_TOKEN_CONTACT : Field := ⟨5, 1⟩
/-- `PAR_TOKEN.MISS` (R436): Consecutive units without acknowledgement (holder) or renewal (standby), saturating at 255 -/
abbrev PAR_TOKEN_MISS : Field := ⟨8, 8⟩
/-- `PAR_PARTNER.VALID` (R437): 1 = a frame from the partner has been received -/
abbrev PAR_PARTNER_VALID : Field := ⟨0, 1⟩
/-- `PAR_PARTNER.HOLDER` (R437): 1 = the last frame was a renew frame -/
abbrev PAR_PARTNER_HOLDER : Field := ⟨1, 1⟩
/-- `PAR_PARTNER.CURRENT` (R437): Acknowledge flag CURRENT -/
abbrev PAR_PARTNER_CURRENT : Field := ⟨2, 1⟩
/-- `PAR_PARTNER.UNFIT` (R437): Acknowledge flag UNFIT -/
abbrev PAR_PARTNER_UNFIT : Field := ⟨3, 1⟩
/-- `PAR_PARTNER.RUN` (R437): RUN flag of the last frame -/
abbrev PAR_PARTNER_RUN : Field := ⟨4, 1⟩
/-- `PAR_PARTNER.MUTE` (R437): MUTE flag of the last frame -/
abbrev PAR_PARTNER_MUTE : Field := ⟨5, 1⟩
/-- `PAR_PARTNER.RESYNC` (R437): Acknowledge flag RESYNC -/
abbrev PAR_PARTNER_RESYNC : Field := ⟨6, 1⟩
/-- `PAR_REPL_STAT.CURRENT` (R438): Standby: 1 = current; holder: the partner's last CURRENT flag -/
abbrev PAR_REPL_STAT_CURRENT : Field := ⟨0, 1⟩
/-- `PAR_REPL_STAT.RESYNC` (R438): 1 = full pass in progress -/
abbrev PAR_REPL_STAT_RESYNC : Field := ⟨1, 1⟩
/-- `PAR_REPL_STAT.STOPPED` (R438): 1 = no copy runs: engine fault or Jalder link down -/
abbrev PAR_REPL_STAT_STOPPED : Field := ⟨2, 1⟩
/-- `PAR_REPL_STAT.LAST_OK` (R438): 1 = the last copy was complete and applied -/
abbrev PAR_REPL_STAT_LAST_OK : Field := ⟨3, 1⟩
/-- `PAR_REPL_STAT.PASS_LEFT` (R438): Lines of the full pass still to send -/
abbrev PAR_REPL_STAT_PASS_LEFT : Field := ⟨16, 15⟩
/-- `DIO_LN_CFG.DIR` (R477): 0 input, 1 output; 0 for lines 32 to 35 -/
abbrev DIO_LN_CFG_DIR : Field := ⟨0, 1⟩
/-- `DIO_LN_CFG.POL` (R477): Active level: 0 high, 1 low -/
abbrev DIO_LN_CFG_POL : Field := ⟨1, 1⟩
/-- `DIO_LN_CFG.EVT` (R477): 1 = queue edges, R463 -/
abbrev DIO_LN_CFG_EVT : Field := ⟨2, 1⟩
/-- `DIO_LN_CFG.TOKEN` (R477): 1 = token-governed output, R469 -/
abbrev DIO_LN_CFG_TOKEN : Field := ⟨3, 1⟩
/-- `DIO_LN_CFG.OWNER` (R477): Outputs: 0 host, 1 dataset -/
abbrev DIO_LN_CFG_OWNER : Field := ⟨4, 1⟩
/-- `DIO_LN_CFG.DEBOUNCE` (R477): Debounce in µs -/
abbrev DIO_LN_CFG_DEBOUNCE : Field := ⟨16, 16⟩
/-- `AUD_STAT.RUNNING` (R523): 1 = SC1 runs the services -/
abbrev AUD_STAT_RUNNING : Field := ⟨0, 1⟩
/-- `AUD_STAT.CAB` (R523): 1 = this node is a cab node -/
abbrev AUD_STAT_CAB : Field := ⟨1, 1⟩
/-- `AUD_STAT.SVC_STREAM` (R523): 1 = the service stream is active -/
abbrev AUD_STAT_SVC_STREAM : Field := ⟨2, 1⟩
/-- `AUD_STAT.LOCK` (R523): Copy of `TMB_AUD_STAT.LOCK` -/
abbrev AUD_STAT_LOCK : Field := ⟨3, 1⟩
/-- `AUD_STAT.REC_FULL` (R523): 1 = recording stopped under R518 -/
abbrev AUD_STAT_REC_FULL : Field := ⟨4, 1⟩
/-- `AUD_STAT.SVC_ID` (R523): Service stream ID -/
abbrev AUD_STAT_SVC_ID : Field := ⟨16, 16⟩
/-- `AUD_TDM_CFG.MASTER` (R524): 1 = master port -/
abbrev AUD_TDM_CFG_MASTER : Field := ⟨0, 1⟩
/-- `AUD_TDM_CFG.SLOTS16` (R524): 1 = 16 slots; 0 = 8 -/
abbrev AUD_TDM_CFG_SLOTS16 : Field := ⟨1, 1⟩
/-- `AUD_TDM_CFG.BITS32` (R524): 1 = 32-bit slots; 0 = 16 -/
abbrev AUD_TDM_CFG_BITS32 : Field := ⟨2, 1⟩
/-- `AUD_TDM_CFG.DELAY` (R524): 1 = one-BCLK data delay -/
abbrev AUD_TDM_CFG_DELAY : Field := ⟨3, 1⟩
/-- `AUD_TDM_CFG.TOKEN` (R524): 1 = driven by the holder only, R484 -/
abbrev AUD_TDM_CFG_TOKEN : Field := ⟨4, 1⟩
/-- `AUD_TDM_CFG.MCLK` (R524): 1 = this port's record enables `AUD_MCLK` -/
abbrev AUD_TDM_CFG_MCLK : Field := ⟨5, 1⟩
/-- `AUD_ZN_STAT.ACTIVE` (R525): Requests active in the zone, 0 to 4 -/
abbrev AUD_ZN_STAT_ACTIVE : Field := ⟨0, 3⟩
/-- `AUD_ZN_STAT.PRIO` (R525): Priority of the first-ranked request -/
abbrev AUD_ZN_STAT_PRIO : Field := ⟨3, 4⟩
/-- `AUD_ZN_STAT.CLASS` (R525): Its class -/
abbrev AUD_ZN_STAT_CLASS : Field := ⟨7, 3⟩
/-- `AUD_ZN_STAT.DUCKING` (R525): 1 = a lower request plays ducked -/
abbrev AUD_ZN_STAT_DUCKING : Field := ⟨10, 1⟩
/-- `AUD_ZN_STAT.HELD` (R525): 1 = the node holds this zone -/
abbrev AUD_ZN_STAT_HELD : Field := ⟨11, 1⟩
/-- `AUD_CALL_STAT.STATE` (R526): 0 free, 1 queued, 2 ringing, 3 connected, 4 held -/
abbrev AUD_CALL_STAT_STATE : Field := ⟨0, 3⟩
/-- `AUD_CALL_STAT.ESC` (R526): 1 = escalated -/
abbrev AUD_CALL_STAT_ESC : Field := ⟨3, 1⟩
/-- `AUD_CALL_STAT.REC` (R526): 1 = recorded at this node -/
abbrev AUD_CALL_STAT_REC : Field := ⟨4, 1⟩
/-- `AUD_CALL_STAT.STATION` (R526): Station index -/
abbrev AUD_CALL_STAT_STATION : Field := ⟨8, 8⟩
/-- `AUD_CALL_STAT.COUNTER` (R526): Call counter -/
abbrev AUD_CALL_STAT_COUNTER : Field := ⟨16, 8⟩
/-- `AUD_CALL_STAT.CAB_STN` (R526): Cab station index of the connect -/
abbrev AUD_CALL_STAT_CAB_STN : Field := ⟨24, 8⟩
/-- `CAN_CTRL.LOOP` (R563): Loop mode, R559 -/
abbrev CAN_CTRL_LOOP : Field := ⟨0, 2⟩
/-- `CAN_CTRL.HALT` (R563): 1 = offer no new entry; the frame on the bus completes -/
abbrev CAN_CTRL_HALT : Field := ⟨2, 1⟩
/-- `CAN_CTRL.RECOVER` (R563): Start bus-off recovery, R555; reads 1 until bus-off ends -/
abbrev CAN_CTRL_RECOVER : Field := ⟨3, 1⟩
/-- `CAN_STAT.STATE` (R564): 0 off, 1 integrating, 2 error active, 3 error passive, 4 bus-off, 5 dominant timeout, 6 halted -/
abbrev CAN_STAT_STATE : Field := ⟨0, 3⟩
/-- `CAN_STAT.TDC` (R564): 1 = delay compensation in use -/
abbrev CAN_STAT_TDC : Field := ⟨3, 1⟩
/-- `CAN_STAT.TDCV` (R564): Measured loop delay, units of 12.5 ns -/
abbrev CAN_STAT_TDCV : Field := ⟨4, 7⟩
/-- `CAN_STAT.BUSY` (R564): 1 = a frame is in transmission -/
abbrev CAN_STAT_BUSY : Field := ⟨11, 1⟩
/-- `CAN_NBT.BRP` (R565): BRP − 1 -/
abbrev CAN_NBT_BRP : Field := ⟨0, 5⟩
/-- `CAN_NBT.TSEG1` (R565): TSEG1 − 1 -/
abbrev CAN_NBT_TSEG1 : Field := ⟨5, 8⟩
/-- `CAN_NBT.TSEG2` (R565): TSEG2 − 1 -/
abbrev CAN_NBT_TSEG2 : Field := ⟨13, 7⟩
/-- `CAN_NBT.SJW` (R565): SJW − 1; in `CAN_DBT`, [23:20] only -/
abbrev CAN_NBT_SJW : Field := ⟨20, 7⟩
/-- `CAN_DBT.BRP` (R565): BRP − 1 -/
abbrev CAN_DBT_BRP : Field := ⟨0, 5⟩
/-- `CAN_DBT.TSEG1` (R565): TSEG1 − 1 -/
abbrev CAN_DBT_TSEG1 : Field := ⟨5, 8⟩
/-- `CAN_DBT.TSEG2` (R565): TSEG2 − 1 -/
abbrev CAN_DBT_TSEG2 : Field := ⟨13, 7⟩
/-- `CAN_DBT.SJW` (R565): SJW − 1; in `CAN_DBT`, [23:20] only -/
abbrev CAN_DBT_SJW : Field := ⟨20, 7⟩
/-- `BRG_AP_CTRL.VALID` (R599): 1 = the slot is bound -/
abbrev BRG_AP_CTRL_VALID : Field := ⟨0, 1⟩
/-- `BRG_AP_CTRL.PAIR` (R599): 1 = the target is a pair identity -/
abbrev BRG_AP_CTRL_PAIR : Field := ⟨1, 1⟩
/-- `BRG_AP_CTRL.PREFETCH` (R599): 1 = prefetch requested, R590 -/
abbrev BRG_AP_CTRL_PREFETCH : Field := ⟨2, 1⟩
/-- `BRG_AP_CTRL.CTX` (R599): Owning host context -/
abbrev BRG_AP_CTRL_CTX : Field := ⟨4, 3⟩
/-- `BRG_AP_CTRL.WINDOW` (R599): Window at the target -/
abbrev BRG_AP_CTRL_WINDOW : Field := ⟨8, 4⟩
/-- `BRG_AP_CTRL.OFFSET` (R599): Window offset in units of 4 MiB -/
abbrev BRG_AP_CTRL_OFFSET : Field := ⟨16, 10⟩
/-- `BRG_AP_STAT.ATTR` (R600): Window attributes from the last response, as RWIN_RSP byte 4 -/
abbrev BRG_AP_STAT_ATTR : Field := ⟨0, 4⟩
/-- `BRG_AP_STAT.KNOWN` (R600): 1 = a response has been received since binding -/
abbrev BRG_AP_STAT_KNOWN : Field := ⟨4, 1⟩
/-- `BRG_AP_STAT.ABSENT` (R600): 1 = target absent, R595 -/
abbrev BRG_AP_STAT_ABSENT : Field := ⟨5, 1⟩
/-- `BRG_AP_STAT.FAULTS` (R600): 1 = the target's fault count changed at the last summary -/
abbrev BRG_AP_STAT_FAULTS : Field := ⟨6, 1⟩
/-- `CHK_CTX_CFG.ALG` (R617): Algorithm, R602; 5 to 7 end the next `GO` with `ERR` = 4 -/
abbrev CHK_CTX_CFG_ALG : Field := ⟨0, 3⟩
/-- `CHK_CTX_CFG.OP` (R617): Operation, R608 -/
abbrev CHK_CTX_CFG_OP : Field := ⟨4, 2⟩
/-- `CHK_CTX_CFG.FOLD_SID` (R617): 1 = fold the stream ID -/
abbrev CHK_CTX_CFG_FOLD_SID : Field := ⟨8, 1⟩
/-- `CHK_CTX_CFG.FOLD_SEQ` (R617): 1 = fold the sequence -/
abbrev CHK_CTX_CFG_FOLD_SEQ : Field := ⟨9, 1⟩
/-- `CHK_CTX_CFG.FOLD_ADDR` (R617): 1 = fold the address -/
abbrev CHK_CTX_CFG_FOLD_ADDR : Field := ⟨10, 1⟩
/-- `CHK_CTX_CFG.ORDER` (R617): 0 most significant byte first, 1 least significant first -/
abbrev CHK_CTX_CFG_ORDER : Field := ⟨12, 1⟩
/-- `CHK_CTX_CFG.FEED` (R617): Feed, R611; 5 to 7 end the next `GO` with `ERR` = 4 -/
abbrev CHK_CTX_CFG_FEED : Field := ⟨13, 3⟩
/-- `CHK_CTX_CFG.CHAIN` (R617): 1 = start from `CHK_CTX_RUN`, R605 -/
abbrev CHK_CTX_CFG_CHAIN : Field := ⟨16, 1⟩
/-- `CHK_CTX_STAT.BUSY` (R618): 1 = a job runs, or a snoop is enabled -/
abbrev CHK_CTX_STAT_BUSY : Field := ⟨0, 1⟩
/-- `CHK_CTX_STAT.DONE` (R618): 1 = the last job ended -/
abbrev CHK_CTX_STAT_DONE : Field := ⟨1, 1⟩
/-- `CHK_CTX_STAT.RESULT` (R618): 0 none, 1 pass, 2 mismatch; for a snoop, the last block -/
abbrev CHK_CTX_STAT_RESULT : Field := ⟨2, 2⟩
/-- `CHK_CTX_STAT.ERR` (R618): 0 none, 1 world refused, 2 address out of range, 3 reserved, 4 invalid configuration, 5 uncorrectable memory error, 6 length below W for a check, 7 no snoop unit free -/
abbrev CHK_CTX_STAT_ERR : Field := ⟨4, 4⟩
/-- `CHK_CTX_STAT.WRDROP` (R618): 1 = a write was dropped, R606 -/
abbrev CHK_CTX_STAT_WRDROP : Field := ⟨8, 1⟩
/-- `CHK_CTX_STAT.BLOCKS` (R618): Snoop: blocks processed since `GO`, saturating -/
abbrev CHK_CTX_STAT_BLOCKS : Field := ⟨16, 16⟩
/-- `HST_CTX_CFG.TRANSPORT` (R661): 0 PCIe, 1 SPI, 2 host frames -/
abbrev HST_CTX_CFG_TRANSPORT : Field := ⟨0, 2⟩
/-- `HST_CTX_CFG.SECURE` (R661): 1 = secure context -/
abbrev HST_CTX_CFG_SECURE : Field := ⟨2, 1⟩
/-- `HST_CTX_CFG.SHARED` (R661): 1 = pair-shared -/
abbrev HST_CTX_CFG_SHARED : Field := ⟨3, 1⟩
/-- `HST_CTX_CFG.FRAMES` (R661): 1 = frame rings -/
abbrev HST_CTX_CFG_FRAMES : Field := ⟨4, 1⟩
/-- `HST_CTX_CFG.GROUP` (R661): 1 = receives group frames -/
abbrev HST_CTX_CFG_GROUP : Field := ⟨5, 1⟩
/-- `HST_CTX_CFG.RINGS` (R661): Ring pairs, 1 to 4 -/
abbrev HST_CTX_CFG_RINGS : Field := ⟨6, 3⟩
/-- `HST_CTX_CFG.PORT` (R661): Car port of a host-frame context -/
abbrev HST_CTX_CFG_PORT : Field := ⟨9, 3⟩
/-- `HST_CTX_CFG.SHARE` (R661): Journal share in entries -/
abbrev HST_CTX_CFG_SHARE : Field := ⟨16, 14⟩
/-- `TST_INJ_CTRL.KIND` (R700): Kind, R694 -/
abbrev TST_INJ_CTRL_KIND : Field := ⟨0, 3⟩
/-- `TST_INJ_CTRL.ARM` (R700): Arm; reads 1 while armed -/
abbrev TST_INJ_CTRL_ARM : Field := ⟨3, 1⟩
/-- `TST_INJ_CTRL.DISARM` (R700): Disarm; reads 0 -/
abbrev TST_INJ_CTRL_DISARM : Field := ⟨4, 1⟩
/-- `TST_INJ_CTRL.COUNT` (R700): Applications, 1 to 255 -/
abbrev TST_INJ_CTRL_COUNT : Field := ⟨8, 8⟩
/-- `PCR_RESET_CAUSE.KIND` (R732): Kind, R712 -/
abbrev PCR_RESET_CAUSE_KIND : Field := ⟨0, 3⟩
/-- `PCR_RESET_CAUSE.CAUSE` (R732): Cause, R712; for wake, the bit number of the lowest wake source that woke the node, 0 to 8 -/
abbrev PCR_RESET_CAUSE_CAUSE : Field := ⟨8, 8⟩
/-- `PCR_SLEEP_CTRL.SLEEP` (R733): Enter sleep, R718; reads 1 during entry -/
abbrev PCR_SLEEP_CTRL_SLEEP : Field := ⟨0, 1⟩
/-- `PCR_SLEEP_CTRL.REFUSED` (R733): 1 = the last `SLEEP` write was dropped; cleared by the next write of `SLEEP` -/
abbrev PCR_SLEEP_CTRL_REFUSED : Field := ⟨1, 1⟩
/-- `MEM_STAT.STATE` (R735): 0 off, 1 training, 2 ready, 3 failed -/
abbrev MEM_STAT_STATE : Field := ⟨0, 2⟩
/-- `MEM_STAT.RATE` (R735): 0 4,266, 1 3,200, 2 2,133 MT/s -/
abbrev MEM_STAT_RATE : Field := ⟨2, 2⟩
/-- `MEM_STAT.CHAN` (R735): One bit per channel: 1 = in use -/
abbrev MEM_STAT_CHAN : Field := ⟨4, 2⟩
/-- `MEM_STAT.KEPT` (R735): 1 = regions 1 and 2 kept, R717 -/
abbrev MEM_STAT_KEPT : Field := ⟨6, 1⟩

end Fld

/-- Rows of the register tables, part 0. -/
def regRows0 : List RegRow := [
  ⟨0x00000000, [], 1, .ro, 0x00000000#32⟩, -- TOP_PART
  ⟨0x00000004, [], 1, .ro, 0x00000000#32⟩, -- TOP_STEP
  ⟨0x00000010, [], 1, .ro, 0x00000000#32⟩, -- TOP_NODE_ID_LO
  ⟨0x00000014, [], 1, .ro, 0x00000000#32⟩, -- TOP_NODE_ID_HI
  ⟨0x00000018, [], 1, .ro, 0x00000000#32⟩, -- TOP_PAIR_ID
  ⟨0x0000001C, [], 1, .ro, 0x00000000#32⟩, -- TOP_VEH_TAG
  ⟨0x00000020, [], 1, .ro, 0x00000000#32⟩, -- TOP_EVN0
  ⟨0x00000024, [], 1, .ro, 0x00000000#32⟩, -- TOP_EVN1
  ⟨0x00000028, [], 1, .ro, 0x00000000#32⟩, -- TOP_EVN2
  ⟨0x00000030, [], 1, .ro, 0x00000000#32⟩, -- TOP_PLACE
  ⟨0x00000034, [], 1, .ro, 0x00000000#32⟩, -- TOP_EPOCH
  ⟨0x00000100, [], 1, .ro, 0x00000000#32⟩, -- TOP_ENG_RUN
  ⟨0x00000104, [], 1, .w1c, 0x0000FFFF#32⟩, -- TOP_ENG_FAULT
  ⟨0x00000108, [], 1, .ro, 0x00000000#32⟩, -- TOP_PD_STATE
  ⟨0x0000010C, [], 1, .rws, 0x000000FF#32⟩, -- TOP_WDOG_CFG
  ⟨0x00000110, [], 1, .ro, 0x00000000#32⟩, -- TOP_BUF_CFG
  ⟨0x00000114, [], 1, .ro, 0x00000000#32⟩, -- TOP_BUF_OPEN_FREE
  ⟨0x00000118, [], 1, .rc, 0x00000000#32⟩, -- TOP_BUF_OPEN_MIN
  ⟨0x0000011C, [], 1, .ro, 0x00000000#32⟩, -- TOP_BUF_SCHED_USED
  ⟨0x00000120, [], 1, .rc, 0x00000000#32⟩, -- TOP_BUF_CTRL_DROP
  ⟨0x00000128, [], 1, .ro, 0x00000000#32⟩, -- TOP_ECC_CORR_LO
  ⟨0x0000012C, [], 1, .ro, 0x00000000#32⟩, -- TOP_ECC_CORR_HI
  ⟨0x00000130, [], 1, .ro, 0x00000000#32⟩, -- TOP_ECC_UNCORR
  ⟨0x00000134, [], 1, .ro, 0x00000000#32⟩, -- TOP_ECC_LAST
  ⟨0x00000138, [], 1, .rc, 0x00000000#32⟩, -- TOP_OFF_ACCESS
  ⟨0x00300000, [], 1, .ro, 0x00000000#32⟩, -- IMG_STATE
  ⟨0x00300004, [], 1, .ro, 0x00000000#32⟩, -- IMG_RUN_VER
  ⟨0x00300008, [], 1, .ro, 0x00000000#32⟩, -- IMG_RUN_ARC
  ⟨0x0030000C, [], 1, .ro, 0x00000000#32⟩, -- IMG_OTP_ARC
  ⟨0x00300010, [(2, 0x10)], 1, .ro, 0x00000000#32⟩, -- IMG_SLOT_STAT
  ⟨0x00300014, [(2, 0x10)], 1, .ro, 0x00000000#32⟩, -- IMG_SLOT_VER
  ⟨0x00300018, [(2, 0x10)], 1, .ro, 0x00000000#32⟩, -- IMG_SLOT_LEN
  ⟨0x00300030, [], 1, .ro, 0x00000000#32⟩, -- IMG_KEY_STAT
  ⟨0x00300034, [], 1, .ro, 0x00000000#32⟩, -- IMG_BOOT_TIME
  ⟨0x00300040, [], 1, .ro, 0x00000000#32⟩, -- IMG_TINT_STAT
  ⟨0x00300044, [], 1, .ro, 0x00000000#32⟩, -- IMG_TINT_TAG
  ⟨0x00300048, [], 1, .ro, 0x00000000#32⟩, -- IMG_TINT_SEQ
  ⟨0x0030004C, [], 1, .ro, 0x00000000#32⟩, -- IMG_TINT_CYCLE
  ⟨0x00300050, [], 1, .rws, 0xFFFF0000#32⟩, -- IMG_STAGE_BASE
  ⟨0x00310000, [], 16384, .rws, 0xFFFFFFFF#32⟩ -- IMG_STAGE_WIN
  ]

/-- Rows of the register tables, part 1. -/
def regRows1 : List RegRow := [
  ⟨0x00800000, [(4, 0x10000)], 1, .rws, 0x00000001#32⟩, -- SPN_CTRL
  ⟨0x00900000, [(8, 0x10000)], 1, .rws, 0x00000001#32⟩, -- SPN_CTRL
  ⟨0x00800004, [(4, 0x10000)], 1, .ro, 0x00000000#32⟩, -- SPN_STAT
  ⟨0x00900004, [(8, 0x10000)], 1, .ro, 0x00000000#32⟩, -- SPN_STAT
  ⟨0x00800008, [(4, 0x10000)], 1, .ro, 0x00000000#32⟩, -- SPN_IFTYPE
  ⟨0x00900008, [(8, 0x10000)], 1, .ro, 0x00000000#32⟩, -- SPN_IFTYPE
  ⟨0x0080000C, [(4, 0x10000)], 1, .ros, 0x00000000#32⟩, -- SPN_MACSEC_KEYNUM
  ⟨0x0090000C, [(8, 0x10000)], 1, .ros, 0x00000000#32⟩, -- SPN_MACSEC_KEYNUM
  ⟨0x00800010, [(4, 0x10000)], 1, .ros, 0x00000000#32⟩, -- SPN_MACSEC_TXPN_LO
  ⟨0x00900010, [(8, 0x10000)], 1, .ros, 0x00000000#32⟩, -- SPN_MACSEC_TXPN_LO
  ⟨0x00800014, [(4, 0x10000)], 1, .ros, 0x00000000#32⟩, -- SPN_MACSEC_TXPN_HI
  ⟨0x00900014, [(8, 0x10000)], 1, .ros, 0x00000000#32⟩, -- SPN_MACSEC_TXPN_HI
  ⟨0x00800018, [(4, 0x10000)], 1, .ro, 0x00000000#32⟩, -- SPN_PREEMPT_STAT
  ⟨0x00900018, [(8, 0x10000)], 1, .ro, 0x00000000#32⟩, -- SPN_PREEMPT_STAT
  ⟨0x00800100, [(4, 0x10000)], 1, .ro, 0x00000000#32⟩, -- SPN_RX_FRM_LO
  ⟨0x00900100, [(8, 0x10000)], 1, .ro, 0x00000000#32⟩, -- SPN_RX_FRM_LO
  ⟨0x00800104, [(4, 0x10000)], 1, .ro, 0x00000000#32⟩, -- SPN_RX_FRM_HI
  ⟨0x00900104, [(8, 0x10000)], 1, .ro, 0x00000000#32⟩, -- SPN_RX_FRM_HI
  ⟨0x00800108, [(4, 0x10000)], 1, .ro, 0x00000000#32⟩, -- SPN_RX_OCT_LO
  ⟨0x00900108, [(8, 0x10000)], 1, .ro, 0x00000000#32⟩, -- SPN_RX_OCT_LO
  ⟨0x0080010C, [(4, 0x10000)], 1, .ro, 0x00000000#32⟩, -- SPN_RX_OCT_HI
  ⟨0x0090010C, [(8, 0x10000)], 1, .ro, 0x00000000#32⟩, -- SPN_RX_OCT_HI
  ⟨0x00800110, [(4, 0x10000)], 1, .ro, 0x00000000#32⟩, -- SPN_TX_FRM_LO
  ⟨0x00900110, [(8, 0x10000)], 1, .ro, 0x00000000#32⟩, -- SPN_TX_FRM_LO
  ⟨0x00800114, [(4, 0x10000)], 1, .ro, 0x00000000#32⟩, -- SPN_TX_FRM_HI
  ⟨0x00900114, [(8, 0x10000)], 1, .ro, 0x00000000#32⟩, -- SPN_TX_FRM_HI
  ⟨0x00800118, [(4, 0x10000)], 1, .ro, 0x00000000#32⟩, -- SPN_TX_OCT_LO
  ⟨0x00900118, [(8, 0x10000)], 1, .ro, 0x00000000#32⟩, -- SPN_TX_OCT_LO
  ⟨0x0080011C, [(4, 0x10000)], 1, .ro, 0x00000000#32⟩, -- SPN_TX_OCT_HI
  ⟨0x0090011C, [(8, 0x10000)], 1, .ro, 0x00000000#32⟩, -- SPN_TX_OCT_HI
  ⟨0x00800120, [(4, 0x10000)], 1, .rc, 0x00000000#32⟩, -- SPN_RX_FCS_ERR
  ⟨0x00900120, [(8, 0x10000)], 1, .rc, 0x00000000#32⟩, -- SPN_RX_FCS_ERR
  ⟨0x00800124, [(4, 0x10000)], 1, .rc, 0x00000000#32⟩, -- SPN_RX_LEN_ERR
  ⟨0x00900124, [(8, 0x10000)], 1, .rc, 0x00000000#32⟩, -- SPN_RX_LEN_ERR
  ⟨0x00800128, [(4, 0x10000)], 1, .rc, 0x00000000#32⟩, -- SPN_RX_HDR_ERR
  ⟨0x00900128, [(8, 0x10000)], 1, .rc, 0x00000000#32⟩, -- SPN_RX_HDR_ERR
  ⟨0x0080012C, [(4, 0x10000)], 1, .rc, 0x00000000#32⟩, -- SPN_RX_EPOCH_DROP
  ⟨0x0090012C, [(8, 0x10000)], 1, .rc, 0x00000000#32⟩, -- SPN_RX_EPOCH_DROP
  ⟨0x00800130, [(4, 0x10000)], 1, .rc, 0x00000000#32⟩, -- SPN_RX_CHECK_ERR
  ⟨0x00900130, [(8, 0x10000)], 1, .rc, 0x00000000#32⟩ -- SPN_RX_CHECK_ERR
  ]

/-- Rows of the register tables, part 2. -/
def regRows2 : List RegRow := [
  ⟨0x00800134, [(4, 0x10000)], 1, .rc, 0x00000000#32⟩, -- SPN_RX_STOMP
  ⟨0x00900134, [(8, 0x10000)], 1, .rc, 0x00000000#32⟩, -- SPN_RX_STOMP
  ⟨0x00800138, [(4, 0x10000)], 1, .rc, 0x00000000#32⟩, -- SPN_TX_STOMP
  ⟨0x00900138, [(8, 0x10000)], 1, .rc, 0x00000000#32⟩, -- SPN_TX_STOMP
  ⟨0x0080013C, [(4, 0x10000)], 1, .rc, 0x00000000#32⟩, -- SPN_EXP_DROP
  ⟨0x0090013C, [(8, 0x10000)], 1, .rc, 0x00000000#32⟩, -- SPN_EXP_DROP
  ⟨0x00800140, [(4, 0x10000)], 1, .rc, 0x00000000#32⟩, -- SPN_PAUSE_DROP
  ⟨0x00900140, [(8, 0x10000)], 1, .rc, 0x00000000#32⟩, -- SPN_PAUSE_DROP
  ⟨0x00800144, [(4, 0x10000)], 1, .rc, 0x00000000#32⟩, -- SPN_MACSEC_FAIL
  ⟨0x00900144, [(8, 0x10000)], 1, .rc, 0x00000000#32⟩, -- SPN_MACSEC_FAIL
  ⟨0x00800148, [(4, 0x10000)], 1, .rc, 0x00000000#32⟩, -- SPN_SPINE_DROP
  ⟨0x00900148, [(8, 0x10000)], 1, .rc, 0x00000000#32⟩, -- SPN_SPINE_DROP
  ⟨0x0080014C, [(4, 0x10000)], 1, .rc, 0x00000000#32⟩, -- SPN_RX_FRAG
  ⟨0x0090014C, [(8, 0x10000)], 1, .rc, 0x00000000#32⟩, -- SPN_RX_FRAG
  ⟨0x00800150, [(4, 0x10000)], 1, .rc, 0x00000000#32⟩, -- SPN_TX_FRAG
  ⟨0x00900150, [(8, 0x10000)], 1, .rc, 0x00000000#32⟩, -- SPN_TX_FRAG
  ⟨0x00800180, [(4, 0x10000), (8, 0x4)], 1, .rc, 0x00000000#32⟩, -- SPN_CLS_DROP
  ⟨0x00900180, [(8, 0x10000), (8, 0x4)], 1, .rc, 0x00000000#32⟩, -- SPN_CLS_DROP
  ⟨0x00840000, [], 1, .ro, 0x00000000#32⟩, -- SPN_ETYPE
  ⟨0x00840004, [], 1, .ro, 0x00000000#32⟩, -- SPN_SPINE_VID
  ⟨0x00840008, [], 1, .ro, 0x00000000#32⟩, -- SPN_WAKE_CODE
  ⟨0x0084000C, [], 1, .ro, 0x00000000#32⟩, -- SPN_OPEN_WRR
  ⟨0x00840010, [], 1, .ro, 0x00000000#32⟩, -- SPN_FLT_USED
  ⟨0x00840020, [(2, 0x10)], 1, .rws, 0x000000FF#32⟩, -- SPN_MDIO_CFG
  ⟨0x00840024, [(2, 0x10)], 1, .rws, 0x001F1F0E#32⟩, -- SPN_MDIO_CMD
  ⟨0x00840028, [(2, 0x10)], 1, .rws, 0x0000FFFF#32⟩, -- SPN_MDIO_DATA
  ⟨0x0084002C, [(2, 0x10)], 1, .ro, 0x00000000#32⟩, -- SPN_MDIO_STAT
  ⟨0x00880000, [(8192, 0x20)], 8, .rws, 0xFFFFFFFF#32⟩, -- SPN_FLT
  ⟨0x00C00000, [], 1, .ro, 0x00000000#32⟩, -- CYC_CFG
  ⟨0x00C00004, [], 1, .ro, 0x00000000#32⟩, -- CYC_STATE
  ⟨0x00C00008, [], 1, .ro, 0x00000000#32⟩, -- CYC_MODE_NEXT
  ⟨0x00C0000C, [], 1, .ro, 0x00000000#32⟩, -- CYC_SWITCH_CYC
  ⟨0x00C00010, [], 1, .ro, 0x00000000#32⟩, -- CYC_NUM_LO
  ⟨0x00C00014, [], 1, .ro, 0x00000000#32⟩, -- CYC_NUM_HI
  ⟨0x00C00018, [], 1, .ro, 0x00000000#32⟩, -- CYC_TC_NS
  ⟨0x00C00020, [], 1, .ro, 0x00000000#32⟩, -- CYC_TXLIST
  ⟨0x00C00024, [], 1, .ro, 0x00000000#32⟩, -- CYC_SWITCH_SET
  ⟨0x00C00040, [], 1, .rc, 0x00000000#32⟩, -- CYC_REF_MISS
  ⟨0x00C00044, [], 1, .rc, 0x00000000#32⟩, -- CYC_REF_LINE_MISS
  ⟨0x00C00048, [], 1, .rc, 0x00000000#32⟩ -- CYC_NOT_READY
  ]

/-- Rows of the register tables, part 3. -/
def regRows3 : List RegRow := [
  ⟨0x00C0004C, [], 1, .rc, 0x00000000#32⟩, -- CYC_OVERRUN
  ⟨0x00C00050, [], 1, .rc, 0x00000000#32⟩, -- CYC_OUT_WIN
  ⟨0x00C00054, [], 1, .rc, 0x00000000#32⟩, -- CYC_POLL_MISS
  ⟨0x00C00058, [], 1, .rc, 0x00000000#32⟩, -- CYC_POLLED
  ⟨0x00C00060, [], 1, .ro, 0x00000000#32⟩, -- CYC_LAST_OOW
  ⟨0x00C00064, [], 1, .ro, 0x00000000#32⟩, -- CYC_LAST_OOW_DT
  ⟨0x00C00100, [(8, 0x20)], 1, .ro, 0x00000000#32⟩, -- CYC_MD_STAT
  ⟨0x00C00104, [(8, 0x20)], 1, .ro, 0x00000000#32⟩, -- CYC_MD_SCHED
  ⟨0x00C00108, [(8, 0x20)], 1, .ro, 0x00000000#32⟩, -- CYC_MD_POLL
  ⟨0x00C0010C, [(8, 0x20)], 1, .ro, 0x00000000#32⟩, -- CYC_MD_GUARD
  ⟨0x00C00110, [(8, 0x20)], 1, .ro, 0x00000000#32⟩, -- CYC_MD_SGUARD
  ⟨0x00C00114, [(8, 0x20)], 1, .ro, 0x00000000#32⟩, -- CYC_MD_SLOTS
  ⟨0x01000000, [], 1, .ro, 0x00000000#32⟩, -- INA_STATE
  ⟨0x01000004, [], 1, .ro, 0x00000000#32⟩, -- INA_CFG
  ⟨0x01000008, [], 1, .ro, 0x00000000#32⟩, -- INA_MAX_RTT
  ⟨0x0100000C, [], 1, .ro, 0x00000000#32⟩, -- INA_LINK_WAIT
  ⟨0x01000010, [], 1, .ro, 0x00000000#32⟩, -- INA_MASTER_ID_LO
  ⟨0x01000014, [], 1, .ro, 0x00000000#32⟩, -- INA_MASTER_ID_HI
  ⟨0x01000018, [], 1, .ro, 0x00000000#32⟩, -- INA_BEST_CLAIM_LO
  ⟨0x0100001C, [], 1, .ro, 0x00000000#32⟩, -- INA_BEST_CLAIM_HI
  ⟨0x01000020, [], 1, .ro, 0x00000000#32⟩, -- INA_COMMIT
  ⟨0x01000024, [], 1, .ro, 0x00000000#32⟩, -- INA_COMMIT_CYC
  ⟨0x01000028, [], 1, .ro, 0x00000000#32⟩, -- INA_PREV_EPOCH
  ⟨0x0100002C, [], 1, .ro, 0x00000000#32⟩, -- INA_NODES
  ⟨0x01000030, [], 1, .ro, 0x00000000#32⟩, -- INA_LEAD_ID_LO
  ⟨0x01000034, [], 1, .ro, 0x00000000#32⟩, -- INA_LEAD_ID_HI
  ⟨0x01000038, [], 1, .ro, 0x00000000#32⟩, -- INA_TTDP
  ⟨0x01000040, [], 1, .rc, 0x00000000#32⟩, -- INA_COMMITS
  ⟨0x01000044, [], 1, .rc, 0x00000000#32⟩, -- INA_CLAIMS
  ⟨0x01000048, [], 1, .rc, 0x00000000#32⟩, -- INA_ROUNDS
  ⟨0x0100004C, [], 1, .rc, 0x00000000#32⟩, -- INA_FOREIGN_DROP
  ⟨0x01000050, [], 1, .ro, 0x00000000#32⟩, -- INA_LAST_DUR
  ⟨0x01000080, [], 32, .ro, 0x00000000#32⟩, -- INA_SNAP_OWN
  ⟨0x01010000, [(4000, 0x10)], 4, .ro, 0x00000000#32⟩, -- INA_MAP
  ⟨0x01020000, [], 131072, .ro, 0x00000000#32⟩, -- INA_SNAP_WIN
  ⟨0x00400000, [], 1, .ro, 0x00000000#32⟩, -- TMB_STATE
  ⟨0x00400004, [], 1, .ro, 0x00000000#32⟩, -- TMB_EST
  ⟨0x00400008, [], 1, .rc, 0x00000000#32⟩, -- TMB_EST_MAX
  ⟨0x00400010, [], 1, .ro, 0x00000000#32⟩, -- TMB_NOW_NS
  ⟨0x00400014, [], 1, .ro, 0x00000000#32⟩ -- TMB_NOW_SEC_LO
  ]

/-- Rows of the register tables, part 4. -/
def regRows4 : List RegRow := [
  ⟨0x00400018, [], 1, .ro, 0x00000000#32⟩, -- TMB_NOW_SEC_HI
  ⟨0x0040001C, [], 1, .ro, 0x00000000#32⟩, -- TMB_NOW_FRAC
  ⟨0x00400020, [], 1, .ro, 0x00000000#32⟩, -- TMB_EPOCH_NS
  ⟨0x00400024, [], 1, .ro, 0x00000000#32⟩, -- TMB_EPOCH_SEC_LO
  ⟨0x00400028, [], 1, .ro, 0x00000000#32⟩, -- TMB_EPOCH_SEC_HI
  ⟨0x00400030, [], 1, .ro, 0x00000000#32⟩, -- TMB_RAW_LO
  ⟨0x00400034, [], 1, .ro, 0x00000000#32⟩, -- TMB_RAW_HI
  ⟨0x00400040, [], 1, .ros, 0x00000000#32⟩, -- TMB_OFFSET0
  ⟨0x00400044, [], 1, .ros, 0x00000000#32⟩, -- TMB_OFFSET1
  ⟨0x00400048, [], 1, .ros, 0x00000000#32⟩, -- TMB_OFFSET2
  ⟨0x0040004C, [], 1, .ros, 0x00000000#32⟩, -- TMB_RATE_LO
  ⟨0x00400050, [], 1, .ros, 0x00000000#32⟩, -- TMB_RATE_HI
  ⟨0x00400060, [], 1, .rc, 0x00000000#32⟩, -- TMB_SYNC_LOSS_CNT
  ⟨0x00400064, [], 1, .rc, 0x00000000#32⟩, -- TMB_STEP_CNT
  ⟨0x00400068, [], 1, .ro, 0x00000000#32⟩, -- TMB_LAST_STEP
  ⟨0x00400100, [(13, 0x10)], 1, .ro, 0x00000000#32⟩, -- TMB_PD_DELAY
  ⟨0x00400104, [(13, 0x10)], 1, .ro, 0x00000000#32⟩, -- TMB_PD_ASYM
  ⟨0x00400108, [(13, 0x10)], 1, .rc, 0x00000000#32⟩, -- TMB_PD_DONE
  ⟨0x0040010C, [(13, 0x10)], 1, .rc, 0x00000000#32⟩, -- TMB_PD_MISS
  ⟨0x00400200, [(2, 0x20)], 1, .ro, 0x00000000#32⟩, -- TMB_TSQ_CFG
  ⟨0x00400204, [(2, 0x20)], 1, .ro, 0x00000000#32⟩, -- TMB_TSQ_STAT
  ⟨0x00400208, [(2, 0x20)], 1, .ro, 0x00000000#32⟩, -- TMB_TSQ_W0
  ⟨0x0040020C, [(2, 0x20)], 1, .ro, 0x00000000#32⟩, -- TMB_TSQ_W1
  ⟨0x00400210, [(2, 0x20)], 1, .ro, 0x00000000#32⟩, -- TMB_TSQ_W2
  ⟨0x00400400, [(8, 0x20)], 1, .rw, 0x00000007#32⟩, -- TMB_TOUT_CTRL
  ⟨0x00400404, [(8, 0x20)], 1, .rw, 0xFFFFFFFF#32⟩, -- TMB_TOUT_START_NS
  ⟨0x00400408, [(8, 0x20)], 1, .rw, 0xFFFFFFFF#32⟩, -- TMB_TOUT_START_SEC_LO
  ⟨0x0040040C, [(8, 0x20)], 1, .rw, 0x0000FFFF#32⟩, -- TMB_TOUT_START_SEC_HI
  ⟨0x00400410, [(8, 0x20)], 1, .rw, 0xFFFFFFFF#32⟩, -- TMB_TOUT_PERIOD
  ⟨0x00400414, [(8, 0x20)], 1, .rw, 0xFFFFFFFF#32⟩, -- TMB_TOUT_WIDTH
  ⟨0x00400418, [(8, 0x20)], 1, .ro, 0x00000000#32⟩, -- TMB_TOUT_STAT
  ⟨0x00400600, [(4, 0x20)], 1, .rw, 0x00000003#32⟩, -- TMB_TCAP_CTRL
  ⟨0x00400604, [(4, 0x20)], 1, .ro, 0x00000000#32⟩, -- TMB_TCAP_STAT
  ⟨0x00400608, [(4, 0x20)], 1, .ro, 0x00000000#32⟩, -- TMB_TCAP_NS
  ⟨0x0040060C, [(4, 0x20)], 1, .ro, 0x00000000#32⟩, -- TMB_TCAP_SEC_LO
  ⟨0x00400610, [(4, 0x20)], 1, .ro, 0x00000000#32⟩, -- TMB_TCAP_SEC_HI
  ⟨0x00400800, [(8, 0x10)], 1, .ro, 0x00000000#32⟩, -- TMB_CARTIME_CFG
  ⟨0x00400804, [(8, 0x10)], 1, .ro, 0x00000000#32⟩, -- TMB_CARTIME_STAT
  ⟨0x00400808, [(8, 0x10)], 1, .rc, 0x00000000#32⟩, -- TMB_CARTIME_FOREIGN
  ⟨0x00400900, [], 1, .ro, 0x00000000#32⟩ -- TMB_AUD_STAT
  ]

/-- Rows of the register tables, part 5. -/
def regRows5 : List RegRow := [
  ⟨0x01400000, [], 1, .ro, 0x00000000#32⟩, -- PLC_STATE
  ⟨0x01400004, [], 1, .ro, 0x00000000#32⟩, -- PLC_ADM_SEQ
  ⟨0x01400008, [], 1, .ro, 0x00000000#32⟩, -- PLC_DIGEST
  ⟨0x0140000C, [], 1, .ro, 0x00000000#32⟩, -- PLC_STREAMS
  ⟨0x01400010, [], 1, .ro, 0x00000000#32⟩, -- PLC_LAST_REJ
  ⟨0x01400014, [], 1, .ro, 0x00000000#32⟩, -- PLC_ADMIT_US
  ⟨0x01400018, [], 1, .ro, 0x00000000#32⟩, -- PLC_REPLACE_MS
  ⟨0x01400020, [], 1, .rc, 0x00000000#32⟩, -- PLC_ADM_CNT
  ⟨0x01400024, [], 1, .rc, 0x00000000#32⟩, -- PLC_REJ_CNT
  ⟨0x01400028, [], 1, .ro, 0x00000000#32⟩, -- PLC_POOL_FREE
  ⟨0x0140002C, [], 1, .ro, 0x00000000#32⟩, -- PLC_MIX_FREE0
  ⟨0x01400030, [], 1, .ro, 0x00000000#32⟩, -- PLC_MIX_FREE1
  ⟨0x01400034, [], 1, .ro, 0x00000000#32⟩, -- PLC_TRANSIT_AUD
  ⟨0x01400040, [], 1, .ro, 0x00000000#32⟩, -- PLC_PART_USED
  ⟨0x01400044, [], 1, .ro, 0x00000000#32⟩, -- PLC_PART_MSGS
  ⟨0x01400048, [], 1, .rc, 0x00000000#32⟩, -- PLC_MSG_DROP
  ⟨0x01400100, [(5, 0x10)], 1, .ro, 0x00000000#32⟩, -- PLC_DRAM_BASE_LO
  ⟨0x01400104, [(5, 0x10)], 1, .ro, 0x00000000#32⟩, -- PLC_DRAM_BASE_HI
  ⟨0x01400108, [(5, 0x10)], 1, .ro, 0x00000000#32⟩, -- PLC_DRAM_SIZE
  ⟨0x01800000, [], 1, .ro, 0x00000000#32⟩, -- PAR_CFG
  ⟨0x01800004, [], 1, .ro, 0x00000000#32⟩, -- PAR_TOKEN
  ⟨0x01800008, [], 1, .ro, 0x00000000#32⟩, -- PAR_TOKEN_GEN
  ⟨0x0180000C, [], 1, .ro, 0x00000000#32⟩, -- PAR_LEASE
  ⟨0x01800010, [], 1, .ro, 0x00000000#32⟩, -- PAR_PARTNER
  ⟨0x01800014, [], 1, .ro, 0x00000000#32⟩, -- PAR_REPL_STAT
  ⟨0x01800018, [], 1, .ro, 0x00000000#32⟩, -- PAR_REPL_LINES
  ⟨0x0180001C, [], 1, .ro, 0x00000000#32⟩, -- PAR_REPL_BUDGET
  ⟨0x01800020, [], 1, .ro, 0x00000000#32⟩, -- PAR_REPL_CYC
  ⟨0x01800024, [], 1, .ro, 0x00000000#32⟩, -- PAR_CARMODE
  ⟨0x01800040, [], 1, .ro, 0x00000000#32⟩, -- PAR_DUP_LO
  ⟨0x01800044, [], 1, .ro, 0x00000000#32⟩, -- PAR_DUP_HI
  ⟨0x01800048, [], 1, .rc, 0x00000000#32⟩, -- PAR_STALE
  ⟨0x0180004C, [], 1, .rc, 0x00000000#32⟩, -- PAR_DIVERGE
  ⟨0x01800050, [], 1, .rc, 0x00000000#32⟩, -- PAR_CLASH
  ⟨0x01800054, [], 1, .rc, 0x00000000#32⟩, -- PAR_REPL_OVR
  ⟨0x01800058, [], 1, .rc, 0x00000000#32⟩, -- PAR_REPL_CHK
  ⟨0x0180005C, [], 1, .rc, 0x00000000#32⟩, -- PAR_TAKEOVERS
  ⟨0x01800060, [], 1, .rc, 0x00000000#32⟩, -- PAR_HB_BAD
  ⟨0x01800064, [], 1, .ro, 0x00000000#32⟩, -- PAR_LAST_DIV
  ⟨0x01800068, [], 1, .ro, 0x00000000#32⟩ -- PAR_LAST_DIV_SEQ
  ]

/-- Rows of the register tables, part 6. -/
def regRows6 : List RegRow := [
  ⟨0x01810000, [(16384, 0x10)], 4, .ro, 0x00000000#32⟩, -- PAR_TRK
  ⟨0x00A00000, [], 1, .ro, 0x00000000#32⟩, -- JLK_STAT
  ⟨0x00A00100, [], 1, .ro, 0x00000000#32⟩, -- JLK_TX_FRM_LO
  ⟨0x00A00104, [], 1, .ro, 0x00000000#32⟩, -- JLK_TX_FRM_HI
  ⟨0x00A00108, [], 1, .ro, 0x00000000#32⟩, -- JLK_RX_FRM_LO
  ⟨0x00A0010C, [], 1, .ro, 0x00000000#32⟩, -- JLK_RX_FRM_HI
  ⟨0x00A00120, [], 1, .rc, 0x00000000#32⟩, -- JLK_RX_FCS_ERR
  ⟨0x00A00124, [], 1, .rc, 0x00000000#32⟩, -- JLK_RX_LEN_ERR
  ⟨0x00A00128, [], 1, .rc, 0x00000000#32⟩, -- JLK_CTRL_ERR
  ⟨0x00A0012C, [], 1, .rc, 0x00000000#32⟩, -- JLK_XFEED_DROP
  ⟨0x01C00000, [], 1, .ro, 0x00000000#32⟩, -- PDT_CFG
  ⟨0x01C00004, [], 1, .ro, 0x00000000#32⟩, -- PDT_STAT
  ⟨0x01C00008, [], 1, .rc, 0x00000000#32⟩, -- PDT_MISS_CNT
  ⟨0x01C0000C, [], 1, .rc, 0x00000000#32⟩, -- PDT_SAFE_CNT
  ⟨0x01C00010, [], 1, .rc, 0x00000000#32⟩, -- PDT_LATE_CNT
  ⟨0x01C00014, [], 1, .rc, 0x00000000#32⟩, -- PDT_CAR_DROP
  ⟨0x01C00020, [(8, 0x4)], 1, .rw, 0x800003FF#32⟩, -- PDT_TOUT_BIND
  ⟨0x01C01000, [(512, 0x20)], 1, .ro, 0x00000000#32⟩, -- PDT_DS_CFG
  ⟨0x01C01004, [(512, 0x20)], 1, .ro, 0x00000000#32⟩, -- PDT_DS_SIZE
  ⟨0x01C01008, [(512, 0x20)], 1, .ro, 0x00000000#32⟩, -- PDT_DS_SAMPLE
  ⟨0x01C0100C, [(512, 0x20)], 1, .ro, 0x00000000#32⟩, -- PDT_DS_OUTPUT
  ⟨0x01C01010, [(512, 0x20)], 1, .ro, 0x00000000#32⟩, -- PDT_DS_STAT
  ⟨0x01C01014, [(512, 0x20)], 1, .ro, 0x00000000#32⟩, -- PDT_DS_SEQ
  ⟨0x01C01018, [(512, 0x20)], 1, .wo, 0xFFFFFFFF#32⟩, -- PDT_DS_DONE
  ⟨0x01C0101C, [(512, 0x20)], 1, .rc, 0x00000000#32⟩, -- PDT_DS_MISS
  ⟨0x01D00000, [(512, 0x800)], 512, .rw, 0xFFFFFFFF#32⟩, -- PDT_BUF
  ⟨0x01E00000, [], 1, .ro, 0x00000000#32⟩, -- DIO_IN
  ⟨0x01E00004, [], 1, .ro, 0x00000000#32⟩, -- DIO_RAW
  ⟨0x01E00008, [], 1, .ro, 0x00000000#32⟩, -- DIO_OUT
  ⟨0x01E0000C, [], 1, .ro, 0x00000000#32⟩, -- DIO_RB
  ⟨0x01E00010, [], 1, .wo, 0xFFFFFFFF#32⟩, -- DIO_OUT_SET
  ⟨0x01E00014, [], 1, .wo, 0xFFFFFFFF#32⟩, -- DIO_OUT_CLR
  ⟨0x01E00018, [], 1, .ro, 0x00000000#32⟩, -- DIO_STUCK
  ⟨0x01E0001C, [], 1, .ro, 0x00000000#32⟩, -- DIO_STORM
  ⟨0x01E00020, [], 1, .ro, 0x00000000#32⟩, -- DIO_WAKE
  ⟨0x01E00030, [], 1, .ro, 0x00000000#32⟩, -- DIO_EDGE_STAT
  ⟨0x01E00034, [], 1, .ro, 0x00000000#32⟩, -- DIO_EDGE_W0
  ⟨0x01E00038, [], 1, .ro, 0x00000000#32⟩, -- DIO_EDGE_W1
  ⟨0x01E01000, [(36, 0x10)], 1, .rw, 0xFFFF0004#32⟩, -- DIO_LN_CFG
  ⟨0x01E01004, [(36, 0x10)], 1, .rw, 0x000003FF#32⟩ -- DIO_LN_STUCK_T
  ]

/-- Rows of the register tables, part 7. -/
def regRows7 : List RegRow := [
  ⟨0x01E01008, [(36, 0x10)], 1, .rw, 0xFFFFFFFF#32⟩, -- DIO_LN_STORM
  ⟨0x01E0100C, [(36, 0x10)], 1, .rc, 0x00000000#32⟩, -- DIO_LN_EDGES
  ⟨0x02000000, [], 1, .ro, 0x00000000#32⟩, -- AUD_CFG
  ⟨0x02000004, [], 1, .ro, 0x00000000#32⟩, -- AUD_STAT
  ⟨0x02000008, [], 1, .ro, 0x00000000#32⟩, -- AUD_SAMPLE_LO
  ⟨0x0200000C, [], 1, .ro, 0x00000000#32⟩, -- AUD_SAMPLE_HI
  ⟨0x02000010, [], 1, .ro, 0x00000000#32⟩, -- AUD_PA_ACTIVE
  ⟨0x02000014, [], 1, .ro, 0x00000000#32⟩, -- AUD_CALLS
  ⟨0x02000018, [], 1, .ro, 0x00000000#32⟩, -- AUD_CAB_TAG
  ⟨0x02000020, [], 1, .rc, 0x00000000#32⟩, -- AUD_GAP_CNT
  ⟨0x02000024, [], 1, .rc, 0x00000000#32⟩, -- AUD_LATE_JOIN
  ⟨0x02000028, [], 1, .rc, 0x00000000#32⟩, -- AUD_AAF_DROP
  ⟨0x02000030, [], 1, .ro, 0x00000000#32⟩, -- AUD_LIB_ENTRIES
  ⟨0x02000034, [], 1, .ro, 0x00000000#32⟩, -- AUD_LIB_USED
  ⟨0x02000038, [], 1, .ro, 0x00000000#32⟩, -- AUD_REC_SLOTS
  ⟨0x0200003C, [], 1, .ro, 0x00000000#32⟩, -- AUD_REC_NEXT
  ⟨0x02000040, [], 1, .rw, 0x0000FFFF#32⟩, -- AUD_REC_BASE
  ⟨0x02000100, [(8, 0x10)], 1, .ro, 0x00000000#32⟩, -- AUD_SE_LOAD
  ⟨0x02000104, [(8, 0x10)], 1, .rc, 0x00000000#32⟩, -- AUD_SE_MISS
  ⟨0x02000200, [(4, 0x20)], 1, .ro, 0x00000000#32⟩, -- AUD_TDM_CFG
  ⟨0x02000204, [(4, 0x20)], 1, .ro, 0x00000000#32⟩, -- AUD_TDM_STAT
  ⟨0x02000208, [(4, 0x20)], 1, .rc, 0x00000000#32⟩, -- AUD_TDM_SLIP
  ⟨0x02000400, [(16, 0x10)], 1, .ro, 0x00000000#32⟩, -- AUD_ZN_STAT
  ⟨0x02000404, [(16, 0x10)], 1, .rw, 0x0000FFFF#32⟩, -- AUD_ZN_GAIN
  ⟨0x02000408, [(16, 0x10)], 1, .ro, 0x00000000#32⟩, -- AUD_ZN_REQ
  ⟨0x0200040C, [(16, 0x10)], 1, .ro, 0x00000000#32⟩, -- AUD_ZN_LEVEL
  ⟨0x02000800, [(16, 0x20)], 1, .ro, 0x00000000#32⟩, -- AUD_CALL_STAT
  ⟨0x02000804, [(16, 0x20)], 1, .ro, 0x00000000#32⟩, -- AUD_CALL_PAIR
  ⟨0x02000808, [(16, 0x20)], 1, .ro, 0x00000000#32⟩, -- AUD_CALL_T_REQ
  ⟨0x0200080C, [(16, 0x20)], 1, .ro, 0x00000000#32⟩, -- AUD_CALL_T_ANS
  ⟨0x02000810, [(16, 0x20)], 1, .ro, 0x00000000#32⟩, -- AUD_CALL_STREAMS
  ⟨0x02001000, [(64, 0x8)], 1, .rc, 0x00000000#32⟩, -- AUD_MTR_PEAK
  ⟨0x02001004, [(64, 0x8)], 1, .ro, 0x00000000#32⟩, -- AUD_MTR_RMS
  ⟨0x02010000, [], 12288, .ro, 0x00000000#32⟩, -- AUD_REC_WIN
  ⟨0x02800000, [(4, 0x40000)], 1, .ro, 0x00000000#32⟩, -- CAN_CFG
  ⟨0x02800004, [(4, 0x40000)], 1, .rw, 0x00000007#32⟩, -- CAN_CTRL
  ⟨0x02800008, [(4, 0x40000)], 1, .ro, 0x00000000#32⟩, -- CAN_STAT
  ⟨0x0280000C, [(4, 0x40000)], 1, .ro, 0x00000000#32⟩, -- CAN_NBT
  ⟨0x02800010, [(4, 0x40000)], 1, .ro, 0x00000000#32⟩, -- CAN_DBT
  ⟨0x02800014, [(4, 0x40000)], 1, .ro, 0x00000000#32⟩ -- CAN_ERR
  ]

/-- Rows of the register tables, part 8. -/
def regRows8 : List RegRow := [
  ⟨0x02800018, [(4, 0x40000)], 1, .rw, 0x00000001#32⟩, -- CAN_CLASH_HOLD
  ⟨0x0280001C, [(4, 0x40000)], 1, .rw, 0xFFFFFFFF#32⟩, -- CAN_TT_LATE
  ⟨0x02800020, [(4, 0x40000)], 1, .ro, 0x00000000#32⟩, -- CAN_LAST_CLASH
  ⟨0x02800024, [(4, 0x40000)], 1, .wo, 0xFFFFFFFF#32⟩, -- CAN_TX_CANCEL
  ⟨0x02800040, [(4, 0x40000)], 1, .ro, 0x00000000#32⟩, -- CAN_RX_FRM_LO
  ⟨0x02800044, [(4, 0x40000)], 1, .ro, 0x00000000#32⟩, -- CAN_RX_FRM_HI
  ⟨0x02800048, [(4, 0x40000)], 1, .ro, 0x00000000#32⟩, -- CAN_TX_FRM_LO
  ⟨0x0280004C, [(4, 0x40000)], 1, .ro, 0x00000000#32⟩, -- CAN_TX_FRM_HI
  ⟨0x02800050, [(4, 0x40000)], 1, .rc, 0x00000000#32⟩, -- CAN_ARB_LOST
  ⟨0x02800054, [(4, 0x40000)], 1, .rc, 0x00000000#32⟩, -- CAN_ERR_FRM
  ⟨0x02800058, [(4, 0x40000)], 1, .rc, 0x00000000#32⟩, -- CAN_BUSOFF_CNT
  ⟨0x0280005C, [(4, 0x40000)], 1, .rc, 0x00000000#32⟩, -- CAN_RX_OVR
  ⟨0x02800060, [(4, 0x40000)], 1, .rc, 0x00000000#32⟩, -- CAN_LOCK_TO_CNT
  ⟨0x02800064, [(4, 0x40000)], 1, .rc, 0x00000000#32⟩, -- CAN_CANCEL_CNT
  ⟨0x02800068, [(4, 0x40000)], 1, .rc, 0x00000000#32⟩, -- CAN_LATE_CNT
  ⟨0x0280006C, [(4, 0x40000)], 1, .rc, 0x00000000#32⟩, -- CAN_PUSH_DROP
  ⟨0x02800070, [(4, 0x40000)], 1, .rc, 0x00000000#32⟩, -- CAN_NOMATCH
  ⟨0x02800100, [(4, 0x40000), (4, 0x10)], 1, .ro, 0x00000000#32⟩, -- CAN_TXQ_STAT
  ⟨0x02800140, [(4, 0x40000), (2, 0x10)], 1, .ro, 0x00000000#32⟩, -- CAN_RXF_STAT
  ⟨0x02800160, [(4, 0x40000)], 1, .ro, 0x00000000#32⟩, -- CAN_TXC_STAT
  ⟨0x02800200, [(4, 0x40000), (4, 0x4)], 1, .w1s, 0x00000000#32⟩, -- CAN_OBJ_TXREQ
  ⟨0x02800210, [(4, 0x40000), (4, 0x4)], 1, .w1s, 0x00000000#32⟩, -- CAN_OBJ_CANCEL
  ⟨0x02800220, [(4, 0x40000), (4, 0x4)], 1, .ro, 0x00000000#32⟩, -- CAN_OBJ_NEW
  ⟨0x02800800, [(4, 0x40000), (64, 0x10)], 1, .rw, 0x3FFFFFFF#32⟩, -- CAN_FLT_ID
  ⟨0x02800804, [(4, 0x40000), (64, 0x10)], 1, .rw, 0x3FFFFFFF#32⟩, -- CAN_FLT_MASK
  ⟨0x02800808, [(4, 0x40000), (64, 0x10)], 1, .rw, 0x00000007#32⟩, -- CAN_FLT_CFG
  ⟨0x02810000, [(4, 0x40000), (4, 0x100)], 21, .wo, 0xFFFFFFFF#32⟩, -- CAN_TXQ_WIN
  ⟨0x02811000, [(4, 0x40000), (2, 0x100)], 21, .ro, 0x00000000#32⟩, -- CAN_RXF_WIN
  ⟨0x02812000, [(4, 0x40000)], 3, .ro, 0x00000000#32⟩, -- CAN_TXC_WIN
  ⟨0x02820000, [(4, 0x40000), (128, 0x80)], 21, .rw, 0xFFFFFFFF#32⟩, -- CAN_OBJ
  ⟨0x02C00000, [], 1, .ro, 0x00000000#32⟩, -- BRG_CFG
  ⟨0x02C00004, [], 1, .ro, 0x00000000#32⟩, -- BRG_STAT
  ⟨0x02C00008, [], 1, .rw, 0x0001FFFF#32⟩, -- BRG_RD_TIMEOUT
  ⟨0x02C0000C, [], 1, .rw, 0x000000FF#32⟩, -- BRG_POLL
  ⟨0x02C00010, [], 1, .ro, 0x00000000#32⟩, -- BRG_HOLD
  ⟨0x02C00014, [], 1, .rw, 0xFFFFFFFF#32⟩, -- BRG_SB_OUT
  ⟨0x02C00040, [], 1, .rc, 0x00000000#32⟩, -- BRG_RD_CNT
  ⟨0x02C00044, [], 1, .rc, 0x00000000#32⟩, -- BRG_WR_CNT
  ⟨0x02C00048, [], 1, .rc, 0x00000000#32⟩, -- BRG_RD_TO
  ⟨0x02C0004C, [], 1, .rc, 0x00000000#32⟩ -- BRG_LATE_RSP
  ]

/-- Rows of the register tables, part 9. -/
def regRows9 : List RegRow := [
  ⟨0x02C00050, [], 1, .rc, 0x00000000#32⟩, -- BRG_SIZE_ERR
  ⟨0x02C00054, [], 1, .rc, 0x00000000#32⟩, -- BRG_PF_HIT
  ⟨0x02C00058, [], 1, .rc, 0x00000000#32⟩, -- BRG_PF_LOST
  ⟨0x02C0005C, [], 1, .rc, 0x00000000#32⟩, -- BRG_RT_NOMATCH
  ⟨0x02C00060, [], 1, .rc, 0x00000000#32⟩, -- BRG_TUN_DROP
  ⟨0x02C00064, [], 1, .rc, 0x00000000#32⟩, -- BRG_FAR_REFUSED
  ⟨0x02C00068, [], 1, .rc, 0x00000000#32⟩, -- BRG_FAR_LOST
  ⟨0x02C00080, [(8, 0x4)], 1, .ro, 0x00000000#32⟩, -- BRG_WTAG
  ⟨0x02C00100, [], 1, .ro, 0x00000000#32⟩, -- BRG_PWE_STAT
  ⟨0x02C00104, [], 1, .ro, 0x00000000#32⟩, -- BRG_PWE_W0
  ⟨0x02C00108, [], 1, .ro, 0x00000000#32⟩, -- BRG_PWE_W1
  ⟨0x02C0010C, [], 1, .ro, 0x00000000#32⟩, -- BRG_PWE_W2
  ⟨0x02C00110, [], 1, .ro, 0x00000000#32⟩, -- BRG_PWE_W3
  ⟨0x02C00114, [], 1, .ro, 0x00000000#32⟩, -- BRG_PWE_W4
  ⟨0x02C01000, [(64, 0x20)], 1, .ro, 0x00000000#32⟩, -- BRG_AP_CTRL
  ⟨0x02C01004, [(64, 0x20)], 1, .ro, 0x00000000#32⟩, -- BRG_AP_ID_LO
  ⟨0x02C01008, [(64, 0x20)], 1, .ro, 0x00000000#32⟩, -- BRG_AP_ID_HI
  ⟨0x02C0100C, [(64, 0x20)], 1, .ro, 0x00000000#32⟩, -- BRG_AP_STAT
  ⟨0x02C01010, [(64, 0x20)], 1, .ro, 0x00000000#32⟩, -- BRG_AP_SB
  ⟨0x02C02000, [(64, 0x10)], 1, .ro, 0x00000000#32⟩, -- BRG_SEM_CFG
  ⟨0x02C02004, [(64, 0x10)], 1, .ro, 0x00000000#32⟩, -- BRG_SEM_LEASE
  ⟨0x02C03000, [(16, 0x20)], 1, .ro, 0x00000000#32⟩, -- BRG_WIN_CFG
  ⟨0x02C03004, [(16, 0x20)], 1, .ro, 0x00000000#32⟩, -- BRG_WIN_BASE_LO
  ⟨0x02C03008, [(16, 0x20)], 1, .ro, 0x00000000#32⟩, -- BRG_WIN_BASE_HI
  ⟨0x02C0300C, [(16, 0x20)], 1, .ro, 0x00000000#32⟩, -- BRG_WIN_SIZE
  ⟨0x02C03010, [(16, 0x20)], 1, .ro, 0x00000000#32⟩, -- BRG_WIN_LOCK_LO
  ⟨0x02C03014, [(16, 0x20)], 1, .ro, 0x00000000#32⟩, -- BRG_WIN_LOCK_HI
  ⟨0x02C03018, [(16, 0x20)], 1, .ro, 0x00000000#32⟩, -- BRG_WIN_LEASE
  ⟨0x02C04000, [(20, 0x10)], 1, .ro, 0x00000000#32⟩, -- BRG_TUN_CFG
  ⟨0x02C04004, [(20, 0x10)], 1, .ro, 0x00000000#32⟩, -- BRG_TUN_SEQ
  ⟨0x02C04008, [(20, 0x10)], 1, .rc, 0x00000000#32⟩, -- BRG_TUN_REC
  ⟨0x02C0400C, [(20, 0x10)], 1, .rc, 0x00000000#32⟩, -- BRG_TUN_LOST
  ⟨0x02C10000, [(4096, 0x8)], 1, .rw, 0xFFFFFFFF#32⟩, -- BRG_RT_W0
  ⟨0x02C10004, [(4096, 0x8)], 1, .rw, 0xFFFFFFFF#32⟩, -- BRG_RT_W1
  ⟨0x03000000, [], 1, .ro, 0x00000000#32⟩, -- CHK_BUSY
  ⟨0x03000004, [], 1, .ro, 0x00000000#32⟩, -- CHK_SNOOP_USE
  ⟨0x03000010, [], 1, .rc, 0x00000000#32⟩, -- CHK_MISMATCH_CNT
  ⟨0x03000014, [], 1, .ro, 0x00000000#32⟩, -- CHK_SPINE_LAST
  ⟨0x03001000, [(28, 0x40)], 1, .rw, 0x0001F737#32⟩, -- CHK_CTX_CFG, contexts 0 to 27
  ⟨0x03001700, [(4, 0x40)], 1, .ros, 0x00000000#32⟩ -- CHK_CTX_CFG, contexts 28 to 31
  ]

/-- Rows of the register tables, part 10. -/
def regRows10 : List RegRow := [
  ⟨0x03001004, [(28, 0x40)], 1, .w1s, 0x00000000#32⟩, -- CHK_CTX_CTRL, contexts 0 to 27
  ⟨0x03001704, [(4, 0x40)], 1, .ros, 0x00000000#32⟩, -- CHK_CTX_CTRL, contexts 28 to 31
  ⟨0x03001008, [(28, 0x40)], 1, .ro, 0x00000000#32⟩, -- CHK_CTX_STAT, contexts 0 to 27
  ⟨0x03001708, [(4, 0x40)], 1, .ros, 0x00000000#32⟩, -- CHK_CTX_STAT, contexts 28 to 31
  ⟨0x0300100C, [(28, 0x40)], 1, .rw, 0xFFFFFFFF#32⟩, -- CHK_CTX_RUN, contexts 0 to 27
  ⟨0x0300170C, [(4, 0x40)], 1, .ros, 0x00000000#32⟩, -- CHK_CTX_RUN, contexts 28 to 31
  ⟨0x03001010, [(28, 0x40)], 1, .ro, 0x00000000#32⟩, -- CHK_CTX_RESULT, contexts 0 to 27
  ⟨0x03001710, [(4, 0x40)], 1, .ros, 0x00000000#32⟩, -- CHK_CTX_RESULT, contexts 28 to 31
  ⟨0x03001014, [(28, 0x40)], 1, .ro, 0x00000000#32⟩, -- CHK_CTX_EXPECT, contexts 0 to 27
  ⟨0x03001714, [(4, 0x40)], 1, .ros, 0x00000000#32⟩, -- CHK_CTX_EXPECT, contexts 28 to 31
  ⟨0x03001018, [(28, 0x40)], 1, .rw, 0xFFFFFFFF#32⟩, -- CHK_CTX_FOLD0, contexts 0 to 27
  ⟨0x03001718, [(4, 0x40)], 1, .ros, 0x00000000#32⟩, -- CHK_CTX_FOLD0, contexts 28 to 31
  ⟨0x0300101C, [(28, 0x40)], 1, .rw, 0xFFFFFFFF#32⟩, -- CHK_CTX_FOLD1, contexts 0 to 27
  ⟨0x0300171C, [(4, 0x40)], 1, .ros, 0x00000000#32⟩, -- CHK_CTX_FOLD1, contexts 28 to 31
  ⟨0x03001020, [(28, 0x40)], 1, .rw, 0xFFFFFFFF#32⟩, -- CHK_CTX_SRC_LO, contexts 0 to 27
  ⟨0x03001720, [(4, 0x40)], 1, .ros, 0x00000000#32⟩, -- CHK_CTX_SRC_LO, contexts 28 to 31
  ⟨0x03001024, [(28, 0x40)], 1, .rw, 0xFFFFFFFF#32⟩, -- CHK_CTX_SRC_HI, contexts 0 to 27
  ⟨0x03001724, [(4, 0x40)], 1, .ros, 0x00000000#32⟩, -- CHK_CTX_SRC_HI, contexts 28 to 31
  ⟨0x03001028, [(28, 0x40)], 1, .rw, 0xFFFFFFFF#32⟩, -- CHK_CTX_DST_LO, contexts 0 to 27
  ⟨0x03001728, [(4, 0x40)], 1, .ros, 0x00000000#32⟩, -- CHK_CTX_DST_LO, contexts 28 to 31
  ⟨0x0300102C, [(28, 0x40)], 1, .rw, 0xFFFFFFFF#32⟩, -- CHK_CTX_DST_HI, contexts 0 to 27
  ⟨0x0300172C, [(4, 0x40)], 1, .ros, 0x00000000#32⟩, -- CHK_CTX_DST_HI, contexts 28 to 31
  ⟨0x03001030, [(28, 0x40)], 1, .rw, 0x0FFFFFFF#32⟩, -- CHK_CTX_LEN, contexts 0 to 27
  ⟨0x03001730, [(4, 0x40)], 1, .ros, 0x00000000#32⟩, -- CHK_CTX_LEN, contexts 28 to 31
  ⟨0x03001034, [(28, 0x40)], 1, .rw, 0x01FFFFFF#32⟩, -- CHK_CTX_SNOOP, contexts 0 to 27
  ⟨0x03001734, [(4, 0x40)], 1, .ros, 0x00000000#32⟩, -- CHK_CTX_SNOOP, contexts 28 to 31
  ⟨0x03001038, [(28, 0x40)], 1, .rw, 0x000007FF#32⟩, -- CHK_CTX_SNOOP_LEN, contexts 0 to 27
  ⟨0x03001738, [(4, 0x40)], 1, .ros, 0x00000000#32⟩, -- CHK_CTX_SNOOP_LEN, contexts 28 to 31
  ⟨0x0300103C, [(28, 0x40)], 1, .rc, 0x00000000#32⟩, -- CHK_CTX_MISS, contexts 0 to 27
  ⟨0x0300173C, [(4, 0x40)], 1, .ros, 0x00000000#32⟩, -- CHK_CTX_MISS, contexts 28 to 31
  ⟨0x03400000, [(8, 0x400)], 1, .ro, 0x00000000#32⟩, -- HST_CTX_CFG
  ⟨0x03400004, [(8, 0x400)], 1, .ro, 0x00000000#32⟩, -- HST_CTX_STAT
  ⟨0x03400008, [(8, 0x400)], 1, .w1s, 0x00000000#32⟩, -- HST_CTX_CTRL
  ⟨0x0340000C, [(8, 0x400)], 1, .w1c, 0x000001FF#32⟩, -- HST_IRQ_STAT
  ⟨0x03400010, [(8, 0x400)], 1, .rw, 0x000001FF#32⟩, -- HST_IRQ_EN
  ⟨0x03400014, [(8, 0x400)], 1, .rc, 0x00000000#32⟩, -- HST_CMD_CNT
  ⟨0x03400018, [(8, 0x400)], 1, .rc, 0x00000000#32⟩, -- HST_REJ_CNT
  ⟨0x03400020, [(8, 0x400)], 1, .rw, 0xFFFFFFFF#32⟩, -- HST_EVQ_BASE_LO
  ⟨0x03400024, [(8, 0x400)], 1, .rw, 0xFFFFFFFF#32⟩, -- HST_EVQ_BASE_HI
  ⟨0x03400028, [(8, 0x400)], 1, .rw, 0x000007FF#32⟩ -- HST_EVQ_SIZE
  ]

/-- Rows of the register tables, part 11. -/
def regRows11 : List RegRow := [
  ⟨0x0340002C, [(8, 0x400)], 1, .rw, 0xFFFFFFFF#32⟩, -- HST_EVQ_HEAD
  ⟨0x03400030, [(8, 0x400)], 1, .ro, 0x00000000#32⟩, -- HST_EVQ_TAIL
  ⟨0x03400034, [(8, 0x400)], 1, .rc, 0x00000000#32⟩, -- HST_EVQ_LOST
  ⟨0x03400100, [(8, 0x400), (4, 0x40)], 1, .rw, 0xFFFFFFFF#32⟩, -- HST_SQ_BASE_LO
  ⟨0x03400104, [(8, 0x400), (4, 0x40)], 1, .rw, 0xFFFFFFFF#32⟩, -- HST_SQ_BASE_HI
  ⟨0x03400108, [(8, 0x400), (4, 0x40)], 1, .rw, 0x000007FF#32⟩, -- HST_SQ_SIZE
  ⟨0x0340010C, [(8, 0x400), (4, 0x40)], 1, .rw, 0xFFFFFFFF#32⟩, -- HST_SQ_TAIL
  ⟨0x03400110, [(8, 0x400), (4, 0x40)], 1, .ro, 0x00000000#32⟩, -- HST_SQ_HEAD
  ⟨0x03400114, [(8, 0x400), (4, 0x40)], 1, .rw, 0xFFFFFFFF#32⟩, -- HST_CQ_BASE_LO
  ⟨0x03400118, [(8, 0x400), (4, 0x40)], 1, .rw, 0xFFFFFFFF#32⟩, -- HST_CQ_BASE_HI
  ⟨0x0340011C, [(8, 0x400), (4, 0x40)], 1, .rw, 0x000007FF#32⟩, -- HST_CQ_SIZE
  ⟨0x03400120, [(8, 0x400), (4, 0x40)], 1, .rw, 0xFFFFFFFF#32⟩, -- HST_CQ_HEAD
  ⟨0x03400124, [(8, 0x400), (4, 0x40)], 1, .ro, 0x00000000#32⟩, -- HST_CQ_TAIL
  ⟨0x03400128, [(8, 0x400), (4, 0x40)], 1, .rw, 0x00FFFFFF#32⟩, -- HST_CQ_IRQ
  ⟨0x03400300, [(8, 0x400)], 1, .rw, 0xFFFFFFFF#32⟩, -- HST_FTX_BASE_LO
  ⟨0x03400304, [(8, 0x400)], 1, .rw, 0xFFFFFFFF#32⟩, -- HST_FTX_BASE_HI
  ⟨0x03400308, [(8, 0x400)], 1, .rw, 0x000007FF#32⟩, -- HST_FTX_SIZE
  ⟨0x0340030C, [(8, 0x400)], 1, .rw, 0xFFFFFFFF#32⟩, -- HST_FTX_TAIL
  ⟨0x03400310, [(8, 0x400)], 1, .ro, 0x00000000#32⟩, -- HST_FTX_HEAD
  ⟨0x03400314, [(8, 0x400)], 1, .rw, 0xFFFFFFFF#32⟩, -- HST_FRX_BASE_LO
  ⟨0x03400318, [(8, 0x400)], 1, .rw, 0xFFFFFFFF#32⟩, -- HST_FRX_BASE_HI
  ⟨0x0340031C, [(8, 0x400)], 1, .rw, 0x000007FF#32⟩, -- HST_FRX_SIZE
  ⟨0x03400320, [(8, 0x400)], 1, .rw, 0xFFFFFFFF#32⟩, -- HST_FRX_TAIL
  ⟨0x03400324, [(8, 0x400)], 1, .ro, 0x00000000#32⟩, -- HST_FRX_HEAD
  ⟨0x03400328, [(8, 0x400)], 1, .rc, 0x00000000#32⟩, -- HST_FTX_DROP
  ⟨0x0340032C, [(8, 0x400)], 1, .rc, 0x00000000#32⟩, -- HST_FRX_DROP
  ⟨0x03403000, [], 1, .ro, 0x00000000#32⟩, -- HST_PCIE_STAT
  ⟨0x03500000, [], 32768, .rw, 0xFFFFFFFF#32⟩, -- HST_SPI_RING
  ⟨0x00100000, [], 1, .ros, 0x00000000#32⟩, -- WLD_CFG
  ⟨0x00100010, [(4, 0x4)], 1, .ros, 0x00000000#32⟩, -- WLD_INST
  ⟨0x00100020, [], 1, .ros, 0x00000000#32⟩, -- WLD_VIOL_STAT
  ⟨0x00100024, [], 1, .ros, 0x00000000#32⟩, -- WLD_VIOL_W0
  ⟨0x00100028, [], 1, .ros, 0x00000000#32⟩, -- WLD_VIOL_W1
  ⟨0x0010002C, [], 1, .ros, 0x00000000#32⟩, -- WLD_VIOL_W2
  ⟨0x00100030, [], 1, .ros, 0x00000000#32⟩, -- WLD_VIOL_W3
  ⟨0x00100040, [], 1, .ros, 0x00000000#32⟩, -- WLD_REFUSED
  ⟨0x00101000, [(256, 0x10)], 1, .ros, 0x00000000#32⟩, -- WLD_RGN_BASE_LO
  ⟨0x00101004, [(256, 0x10)], 1, .ros, 0x00000000#32⟩, -- WLD_RGN_BASE_HI
  ⟨0x00101008, [(256, 0x10)], 1, .ros, 0x00000000#32⟩, -- WLD_RGN_SIZE
  ⟨0x0010100C, [(256, 0x10)], 1, .ros, 0x00000000#32⟩ -- WLD_RGN_CFG
  ]

/-- Rows of the register tables, part 12. -/
def regRows12 : List RegRow := [
  ⟨0x03800000, [], 1, .ro, 0x00000000#32⟩, -- JRN_CFG
  ⟨0x03800004, [], 1, .rc, 0x00000000#32⟩, -- JRN_CORRUPT
  ⟨0x03800100, [(8, 0x20)], 1, .ro, 0x00000000#32⟩, -- JRN_CTX_BASE
  ⟨0x03800104, [(8, 0x20)], 1, .ro, 0x00000000#32⟩, -- JRN_CTX_SIZE
  ⟨0x03800108, [(8, 0x20)], 1, .ro, 0x00000000#32⟩, -- JRN_CTX_OLDEST
  ⟨0x0380010C, [(8, 0x20)], 1, .ro, 0x00000000#32⟩, -- JRN_CTX_NEWEST
  ⟨0x03800110, [(8, 0x20)], 1, .rw, 0xFFFFFFFF#32⟩, -- JRN_CTX_ACK
  ⟨0x03800114, [(8, 0x20)], 1, .rc, 0x00000000#32⟩, -- JRN_CTX_WRAP
  ⟨0x03810000, [(8192, 0x40)], 16, .ro, 0x00000000#32⟩, -- JRN_ENTRY
  ⟨0x00180000, [], 1, .rws, 0x00000003#32⟩, -- EVT_CFG
  ⟨0x00180004, [], 1, .ro, 0x00000000#32⟩, -- EVT_STAT
  ⟨0x00180008, [], 1, .ro, 0x00000000#32⟩, -- EVT_LOG_TOTAL
  ⟨0x0018000C, [], 1, .rc, 0x00000000#32⟩, -- EVT_LOG_WRAP
  ⟨0x00180010, [], 1, .rc, 0x00000000#32⟩, -- EVT_DROP
  ⟨0x00180014, [], 1, .rc, 0x00000000#32⟩, -- EVT_BAD_ACCESS
  ⟨0x00180018, [], 1, .rws, 0x00000000#32⟩, -- EVT_CLEAR
  ⟨0x00180020, [(4, 0x4)], 1, .rc, 0x00000000#32⟩, -- EVT_CNT_SEV
  ⟨0x00180040, [], 1, .ro, 0x00000000#32⟩, -- EVT_FATAL_W0
  ⟨0x00180044, [], 1, .ro, 0x00000000#32⟩, -- EVT_FATAL_W1
  ⟨0x00180048, [], 1, .ro, 0x00000000#32⟩, -- EVT_FATAL_W2
  ⟨0x0018004C, [], 1, .ro, 0x00000000#32⟩, -- EVT_FATAL_W3
  ⟨0x00180100, [(8, 0x10)], 1, .rw, 0x0007FFFE#32⟩, -- EVT_SUB_BLK
  ⟨0x00180104, [(8, 0x10)], 1, .rw, 0x00000003#32⟩, -- EVT_SUB_SEV
  ⟨0x00190000, [(1024, 0x10)], 4, .ro, 0x00000000#32⟩, -- EVT_LOG
  ⟨0x03C00000, [], 1, .rws, 0x00000001#32⟩, -- TST_CFG
  ⟨0x03C00004, [], 1, .ro, 0x00000000#32⟩, -- TST_STAT
  ⟨0x03C00010, [], 1, .rws, 0x00FFFF1F#32⟩, -- TST_BIST_REQ
  ⟨0x03C00014, [], 1, .ro, 0x00000000#32⟩, -- TST_BIST_DONE
  ⟨0x03C00018, [], 1, .ro, 0x00000000#32⟩, -- TST_BIST_FAIL
  ⟨0x03C0001C, [], 1, .ro, 0x00000000#32⟩, -- TST_BIST_FIRST
  ⟨0x03C00020, [], 1, .rws, 0x0000FF07#32⟩, -- TST_INJ_CTRL
  ⟨0x03C00024, [], 1, .rws, 0xFFFFFFFF#32⟩, -- TST_INJ_TARGET
  ⟨0x03C00028, [], 1, .rws, 0xFFFFFFFF#32⟩, -- TST_INJ_MASK
  ⟨0x03C0002C, [], 1, .ro, 0x00000000#32⟩, -- TST_INJ_LEFT
  ⟨0x03C00100, [(17, 0x10)], 1, .ro, 0x00000000#32⟩, -- TST_LB_CFG
  ⟨0x03C00104, [(17, 0x10)], 1, .ro, 0x00000000#32⟩, -- TST_LB_LEFT
  ⟨0x03C00108, [(17, 0x10)], 1, .rc, 0x00000000#32⟩, -- TST_ECHO_RET
  ⟨0x03C00400, [(13, 0x20)], 1, .ro, 0x00000000#32⟩, -- TST_PRBS_STAT
  ⟨0x03C00408, [(13, 0x20)], 1, .ro, 0x00000000#32⟩, -- TST_PRBS_ERR_LO
  ⟨0x03C0040C, [(13, 0x20)], 1, .ro, 0x00000000#32⟩ -- TST_PRBS_ERR_HI
  ]

/-- Rows of the register tables, part 13. -/
def regRows13 : List RegRow := [
  ⟨0x03C00410, [(13, 0x20)], 1, .ro, 0x00000000#32⟩, -- TST_PRBS_BITS_LO
  ⟨0x03C00414, [(13, 0x20)], 1, .ro, 0x00000000#32⟩, -- TST_PRBS_BITS_HI
  ⟨0x00200000, [], 1, .ros, 0x00000000#32⟩, -- PCR_RESET_CAUSE
  ⟨0x00200004, [], 1, .rws, 0x00000000#32⟩, -- PCR_RESET_CTRL
  ⟨0x00200008, [], 1, .ros, 0x00000000#32⟩, -- PCR_STRAP
  ⟨0x0020000C, [], 1, .ros, 0x00000000#32⟩, -- PCR_WARM_CNT
  ⟨0x00200010, [], 1, .ros, 0x00000000#32⟩, -- PCR_PLL_STAT
  ⟨0x00200014, [], 1, .ros, 0x00000000#32⟩, -- PCR_PLL_UNLOCKS
  ⟨0x00200018, [], 1, .ros, 0x00000000#32⟩, -- PCR_AON_CAL
  ⟨0x0020001C, [], 1, .ros, 0x00000000#32⟩, -- PCR_SUPPLY_STAT
  ⟨0x00200020, [], 1, .rws, 0x00000000#32⟩, -- PCR_SLEEP_CTRL
  ⟨0x00200024, [], 1, .rws, 0x000001FF#32⟩, -- PCR_WAKE_EN
  ⟨0x00200028, [], 1, .ros, 0x00000000#32⟩, -- PCR_WAKE_CAUSE
  ⟨0x0020002C, [], 1, .ros, 0x00000000#32⟩, -- PCR_SLEEP_SEC
  ⟨0x03A00000, [], 1, .ro, 0x00000000#32⟩, -- MEM_STAT
  ⟨0x03A00004, [], 1, .ro, 0x00000000#32⟩, -- MEM_SIZE
  ⟨0x03A00008, [], 1, .ro, 0x00000000#32⟩, -- MEM_ECC_CORR_LO
  ⟨0x03A0000C, [], 1, .ro, 0x00000000#32⟩, -- MEM_ECC_CORR_HI
  ⟨0x03A00010, [], 1, .ro, 0x00000000#32⟩, -- MEM_ECC_UNCORR
  ⟨0x03A00014, [], 1, .ro, 0x00000000#32⟩, -- MEM_ECC_LAST
  ⟨0x03A00018, [], 1, .rw, 0x00000001#32⟩, -- MEM_SCRUB
  ⟨0x03A0001C, [], 1, .rw, 0x00000000#32⟩, -- MEM_LOOP
  ⟨0x03A00020, [(8, 0x4)], 1, .ro, 0x00000000#32⟩, -- MEM_TRAIN
  ⟨0x03A00080, [], 1, .ro, 0x00000000#32⟩, -- MEM_FLASH_ID
  ⟨0x03A00084, [], 1, .ro, 0x00000000#32⟩, -- MEM_FLASH_SIZE
  ⟨0x03A00088, [], 1, .ro, 0x00000000#32⟩, -- MEM_FLASH_STAT
  ⟨0x03A0008C, [], 1, .ro, 0x00000000#32⟩, -- MEM_FLASH_ERR
  ⟨0x01200000, [(16384, 0x20)], 8, .ro, 0x00000000#32⟩ -- STB_ENTRY
  ]

/-- Every row of the register tables of the spec (R665, R667): address, array dimensions as (count, stride), words per
entry, access code, and the bits a plain write changes. -/
def regTable : List RegRow :=
  regRows0 ++ regRows1 ++ regRows2 ++ regRows3 ++ regRows4 ++ regRows5 ++ regRows6 ++ regRows7 ++ regRows8 ++ regRows9 ++ regRows10 ++ regRows11 ++ regRows12 ++ regRows13

/-- The registers whose table gives a reset value other than zero. -/
def resetRows : List (Nat × List (Nat × Nat) × Word) := [
  (0x00000000, [], 0x00006420#32), -- TOP_PART
  (0x00000004, [], 0x000000B0#32), -- TOP_STEP
  (0x00000100, [], 0x00000001#32), -- TOP_ENG_RUN
  (0x00000108, [], 0x0000060F#32), -- TOP_PD_STATE
  (0x0000010C, [], 0x0000000A#32), -- TOP_WDOG_CFG
  (0x00000110, [], 0x00004000#32), -- TOP_BUF_CFG
  (0x00000114, [], 0x00007E00#32), -- TOP_BUF_OPEN_FREE
  (0x00000118, [], 0x00007E00#32), -- TOP_BUF_OPEN_MIN
  (0x00840000, [], 0x000088B5#32), -- SPN_ETYPE
  (0x00840004, [], 0x00000BB9#32), -- SPN_SPINE_VID
  (0x00840008, [], 0x57A10C3E#32), -- SPN_WAKE_CODE
  (0x0084000C, [], 0x08040201#32), -- SPN_OPEN_WRR
  (0x00840020, [(2, 0x10)], 0x00000031#32), -- SPN_MDIO_CFG
  (0x00C00000, [], 0x00000043#32), -- CYC_CFG
  (0x00C00018, [], 0x000F4240#32), -- CYC_TC_NS
  (0x01000000, [], 0x0000FF00#32), -- INA_STATE
  (0x01000008, [], 0x000000C8#32), -- INA_MAX_RTT
  (0x0100000C, [], 0x000003E8#32), -- INA_LINK_WAIT
  (0x01C00000, [], 0x88B60000#32), -- PDT_CFG
  (0x01E01004, [(36, 0x10)], 0x0000001E#32), -- DIO_LN_STUCK_T
  (0x01E01008, [(36, 0x10)], 0x00640040#32), -- DIO_LN_STORM
  (0x02800018, [(4, 0x40000)], 0x00000001#32), -- CAN_CLASH_HOLD
  (0x0280001C, [(4, 0x40000)], 0x000003E8#32), -- CAN_TT_LATE
  (0x02C00008, [], 0x000007D0#32), -- BRG_RD_TIMEOUT
  (0x02C0000C, [], 0x00000004#32), -- BRG_POLL
  (0x02C00010, [], 0x00000064#32), -- BRG_HOLD
  (0x00180000, [], 0x00000001#32), -- EVT_CFG
  (0x00200000, [], 0x00000101#32), -- PCR_RESET_CAUSE
  (0x00200018, [], 0x000F4240#32), -- PCR_AON_CAL
  (0x03A00018, [], 0x00000001#32) -- MEM_SCRUB
  ]

end Sys2Proof.Machine
end

