-- ==== Sys2Proof/Machine/Ops.lean ====
section
/-! DEFINITION. The named operations over the node: registers, time, events, host contexts. Every block reads and writes
registers through these, so that reserved bits, saturation and reset values are decided once. -/

namespace Sys2Proof.Machine

/-! ### Registers -/

/-- Whether byte offset `off` lies in an array of the given dimensions, each element `w` words long. -/
def inArray : List (Nat × Nat) → Nat → Nat → Bool
  | [], w, off => decide (off < 4 * w)
  | (c, s) :: ds, w, off => decide (off / s < c) && inArray ds w (off % s)

/-- Whether a row of the register tables holds an address. -/
def RegRow.holds (r : RegRow) (a : Nat) : Bool := decide (r.addr ≤ a) && inArray r.dims r.words (a - r.addr)

/-- The row that holds an address, none for an offset that no register occupies (R666 step 4). -/
def regRow (a : Nat) : Option RegRow := regTable.find? fun r => r.holds a

/-- The value of a register right after reset. -/
def regReset (a : Nat) : Word :=
  match resetRows.find? fun r => decide (r.1 ≤ a) && inArray r.2.1 1 (a - r.1) with
  | some r => r.2.2
  | none => 0#32

/-- The word a register holds. -/
def Node.reg (n : Node) (a : Nat) : Word := Sparse.get regReset n.regs a

/-- A register given a word by the hardware. -/
def Node.setReg (n : Node) (a : Nat) (v : Word) : Node := { n with regs := Sparse.put regReset n.regs a v }

/-- A field of a word. -/
def Field.get (f : Field) (w : Word) : Nat := bitsOf w.toNat f.lo f.width

/-- A word with a field replaced. -/
def Field.put (f : Field) (w : Word) (v : Nat) : Word := word (withBits w.toNat f.lo f.width v)

/-- A field of a register. -/
def Node.fld (n : Node) (a : Nat) (f : Field) : Nat := f.get (n.reg a)

/-- A register with one field given a value. -/
def Node.setFld (n : Node) (a : Nat) (f : Field) (v : Nat) : Node := n.setReg a (f.put (n.reg a) v)

/-- Bits `[lo + w - 1 : lo]` of a register. -/
def Node.bits (n : Node) (a lo w : Nat) : Nat := bitsOf (n.reg a).toNat lo w

/-- A register with bits `[lo + w - 1 : lo]` given a value. -/
def Node.setBits (n : Node) (a lo w v : Nat) : Node := n.setReg a (word (withBits (n.reg a).toNat lo w v))

/-- One bit of a register. -/
def Node.bit (n : Node) (a i : Nat) : Bool := (n.reg a).toNat.testBit i

/-- One bit of a register set or cleared. -/
def Node.setBit (n : Node) (a i : Nat) (b : Bool) : Node := n.setBits a i 1 (b2n b)

/-- A 32-bit counter that saturates. -/
def Node.addSat (n : Node) (a k : Nat) : Node := n.setReg a (word (min ((n.reg a).toNat + k) 0xFFFFFFFF))

/-- A 32-bit counter counts one. -/
def Node.inc (n : Node) (a : Nat) : Node := n.addSat a 1

/-- The value of a 64-bit counter whose low word lies at `lo`. -/
def Node.reg64 (n : Node) (lo : Nat) : Nat := (n.reg (lo + 4)).toNat * 2 ^ 32 + (n.reg lo).toNat

/-- A pair of registers given a 64-bit value. -/
def Node.setReg64 (n : Node) (lo v : Nat) : Node := (n.setReg lo (word v)).setReg (lo + 4) (word (v / 2 ^ 32))

/-- A 64-bit counter counts `k`. -/
def Node.add64 (n : Node) (lo k : Nat) : Node := n.setReg64 lo (n.reg64 lo + k)

/-- Consecutive registers given words. -/
def Node.setRegs (n : Node) (a : Nat) : List Word → Node
  | [] => n
  | v :: vs => (n.setReg a v).setRegs (a + 4) vs

/-- Every register from `lo` below `hi` takes its reset value. -/
def Node.clearRegs (n : Node) (lo hi : Nat) : Node :=
  { n with regs := n.regs.filter fun p => !(decide (lo ≤ p.1) && decide (p.1 < hi)) }

/-- `k` consecutive registers. -/
def Node.getRegs (n : Node) (a k : Nat) : List Word := (List.range k).map fun i => n.reg (a + 4 * i)

/-! ### Time (R304, R308) -/

/-- Raw time moves on to the time of an event; it never runs back. -/
def Node.at (n : Node) (t : Nat) : Node := { n with tm := { n.tm with raw := max n.tm.raw t } }

/-- Train time at a raw time with a given offset and rate, in 2^-16 ns (R304). -/
def fineTime (offset rate : Int) (raw : Nat) : Int := offset + raw * 65536 + raw * 65536 * rate / 2 ^ 32

/-- Train time now in 2^-16 ns (R304). -/
def Node.fine (n : Node) : Int := fineTime n.tm.offset n.tm.rate n.tm.raw

/-- T_ns, the nanosecond count since the TAI epoch (R199). -/
def Node.trainNs (n : Node) : Int := n.fine / 65536

/-- T_c in ns. -/
def Node.tc (n : Node) : Nat := (n.reg Reg.CYC_TC_NS).toNat

/-- Train time at a raw stamp: for a stamp taken before a step, with the values from before it, kept for 2 basic cycles (R308). -/
def Node.fineAt (n : Node) (raw : Nat) : Int :=
  match n.tm.old with
  | some o => if raw < o.step ∧ n.tm.raw ≤ o.step + 2 * n.tc then fineTime o.offset o.rate raw else fineTime n.tm.offset n.tm.rate raw
  | none => fineTime n.tm.offset n.tm.rate raw

/-- The stamp of a raw time: T_ns mod 2^32, converted when the node writes it, as R308 has it; R80 converts a stamp when software
reads it (DEDUCED, log entry 130). -/
def Node.stampAt (n : Node) (raw : Nat) : Word := sword (n.fineAt raw / 65536)

/-- The stamp of this instant. -/
def Node.stamp (n : Node) : Word := sword n.trainNs

/-- Seconds and nanoseconds of a T_ns value (R306: 48-bit seconds). -/
def secOf (ns : Int) : Nat := (ns / 1000000000 % 2 ^ 48).toNat
def nsOf (ns : Int) : Nat := (ns % 1000000000).toNat

/-- The audio sample rate f_s in Hz (R479). -/
def Node.fs (n : Node) : Nat := if n.aud.global.rate16 then 16000 else 48000

/-- The number of the cycle that train time lies in (R199). -/
def Node.cycleNow (n : Node) : Nat := (n.trainNs / n.tc).toNat

/-- The 64-bit number nearest to a reference whose low 32 bits are given. -/
def extend32 (ref low : Nat) : Nat :=
  let base := ref - ref % 2 ^ 32 + low % 2 ^ 32
  if base + 2 ^ 31 < ref then base + 2 ^ 32 else if ref + 2 ^ 31 < base ∧ 2 ^ 32 ≤ base then base - 2 ^ 32 else base

/-! ### Free values -/

/-- The next free word: a value that the spec leaves open and nothing constrains (DESIGN CHOICE, log entry 2). -/
def Node.free (n : Node) : Node × Word := ({ n with fresh := n.fresh + 1 }, Config.freeWord n.fresh)

/-- The next free byte string of a length. -/
def Node.freeBytes (n : Node) (len : Nat) : Node × List Byte :=
  ({ n with fresh := n.fresh + 1 }, (List.range len).map (Config.freeByte n.fresh))

/-! ### Node state (R256) -/

/-- The codes of `INA_STATE.STATE` (R256). -/
def stOff : Nat := 0
def stLink : Nat := 1
def stListen : Nat := 2
def stClaim : Nat := 3
def stIntegrate : Nat := 4
def stNumbered : Nat := 5
def stRun : Nat := 6
def stMute : Nat := 7

/-- The node's state (R256). -/
def Node.st (n : Node) : Nat := n.fld Reg.INA_STATE Fld.INA_STATE_STATE

/-- The node is in RUN. -/
def Node.inRun (n : Node) : Bool := n.st == stRun

/-- The node identity (R38). -/
def Node.identity (n : Node) : Nat := (n.reg Reg.TOP_NODE_ID_HI).toNat * 2 ^ 32 + (n.reg Reg.TOP_NODE_ID_LO).toNat

/-- The node number, 0 before numbering. -/
def Node.num (n : Node) : Nat := n.fld Reg.TOP_PLACE Fld.TOP_PLACE_NODE_NUM

/-- The epoch of the current numbering. -/
def Node.epoch (n : Node) : Nat := (n.reg Reg.TOP_EPOCH).toNat % 65536

/-- The node is cycle master (R257). -/
def Node.master (n : Node) : Bool := n.fld Reg.INA_STATE Fld.INA_STATE_MASTER == 1

/-- The image declares a partner node, and the pair role. -/
def Node.paired (n : Node) : Bool := n.fld Reg.PAR_CFG Fld.PAR_CFG_PAIRED == 1
def Node.roleB (n : Node) : Bool := n.fld Reg.PAR_CFG Fld.PAR_CFG_ROLE_B == 1

/-! ### Events (R670 to R676, R785) -/

/-- An event is raised: it joins the router's queue, or is dropped and counted when 256 wait (R676). The record holds
the node number, epoch bits [3:0] and the stamp of the raise (R670, R671). -/
def Node.raise (n : Node) (code d0 d1 : Nat) : Node :=
  if n.ev.queue.length < 256 then
    { n with ev := { n.ev with queue := n.ev.queue ++
      [{ code := code, node := n.num + (n.epoch % 16) * 4096, stamp := n.stamp, d0 := word d0, d1 := word d1 }] } }
  else n.inc Reg.EVT_DROP

/-- A signed number as a detail word. -/
def detail (v : Int) : Nat := (sword v).toNat

/-- One occurrence of a rate-limited event (R785). `out` is the interval outside RUN in ns. The answer is the number of
occurrences since the last raise when the event is to be raised now. -/
def Node.occurIn (n : Node) (code key out : Nat) : Node × Option Nat :=
  let run := n.inRun
  let now : Int := if run then n.trainNs else n.tm.raw
  let fin := now + ((if run then 1024 * n.tc else out : Nat) : Int)
  let others := n.ev.limits.filter fun l => !(l.code == code && l.key == key)
  match n.ev.limits.find? fun l => l.code == code && l.key == key with
  | some l =>
    let live := match l.fin with
      | some f => l.inRun == run && decide (now < f)
      | none => false
    if live then
      ({ n with ev := { n.ev with limits := others ++ [{ l with count := l.count + 1 }] } }, none)
    else
      ({ n with ev := { n.ev with limits := others ++ [⟨code, key, run, some fin, 0⟩] } }, some (l.count + 1))
  | none => ({ n with ev := { n.ev with limits := others ++ [⟨code, key, run, some fin, 0⟩] } }, some 1)

/-- One occurrence where the interval outside RUN is 1,024 times a unit. -/
def Node.occur (n : Node) (code key outNs : Nat) : Node × Option Nat := n.occurIn code key (1024 * outNs)

/-- A rate-limited event whose second detail word is the number of occurrences since the last raise. -/
def Node.raiseCounted (n : Node) (code key outNs d0 : Nat) : Node :=
  match n.occur code key outNs with
  | (m, some k) => m.raise code d0 k
  | (m, none) => m

/-- A rate-limited event with a second detail word of its own. -/
def Node.raiseLimited (n : Node) (code key outNs d0 d1 : Nat) : Node :=
  match n.occur code key outNs with
  | (m, some _) => m.raise code d0 d1
  | (m, none) => m

/-- R188: events of severity note or warning of a port, once per 1,024 basic cycles per fabric port, 1 ms outside RUN. -/
def Node.raisePort (n : Node) (code port : Nat) : Node := n.raiseCounted code port 1000000 port

/-- R188 for an event whose second detail word has a meaning of its own. -/
def Node.raisePort2 (n : Node) (code port d0 d1 : Nat) : Node := n.raiseLimited code port 1000000 d0 d1

/-- Every rate-limit interval in progress ends, its count kept (R785). -/
def Node.endLimits (n : Node) : Node :=
  { n with ev := { n.ev with limits := n.ev.limits.map fun l => { l with fin := none } } }

/-! ### Fault injection (R694, R695) -/

/-- An injection of a kind is armed and names a target. -/
def Node.injMatch (n : Node) (kind target : Nat) : Bool :=
  n.fld Reg.TST_INJ_CTRL Fld.TST_INJ_CTRL_ARM == 1 && n.fld Reg.TST_INJ_CTRL Fld.TST_INJ_CTRL_KIND == kind &&
  (n.reg Reg.TST_INJ_TARGET).toNat == target

/-- The injection disarms (R695). -/
def Node.injOff (n : Node) : Node :=
  ((n.setFld Reg.TST_INJ_CTRL Fld.TST_INJ_CTRL_ARM 0).setReg Reg.TST_INJ_LEFT 0#32).setBit Reg.TST_STAT 31 false

/-- One application of the injection is used up (R695). -/
def Node.injUse (n : Node) : Node :=
  let left := (n.reg Reg.TST_INJ_LEFT).toNat
  if left ≤ 1 then n.injOff else n.setReg Reg.TST_INJ_LEFT (word (left - 1))

/-- Words of a protected memory are written: what an injection had altered there is gone, and an injection of `one` or of `two`
bits that names one of them is applied (R694). Two equal bits alter nothing. -/
def Node.injWords (n : Node) (mem first words one two unit hi : Nat) : Node :=
  let t := (n.reg Reg.TST_INJ_TARGET).toNat
  let m := { n with mem := { n.mem with spoilt := n.mem.spoilt.filter fun (x : Nat × Nat × Bool) =>
    !(x.1 == mem && decide (first ≤ x.2.1) && decide (x.2.1 < first + words)) } }
  if !(decide (first ≤ unit) && decide (unit < first + words)) then m
  else if n.injMatch one t then
    let k := m.injUse
    { k with mem := { k.mem with spoilt := m.mem.spoilt ++ [(mem, unit, false)] } }
  else if n.injMatch two t then
    let same := bitsOf (n.reg Reg.TST_INJ_MASK).toNat 0 hi == bitsOf (n.reg Reg.TST_INJ_MASK).toNat (if hi = 6 then 8 else 16) hi
    let k := m.injUse
    { k with mem := { k.mem with spoilt := if same then m.mem.spoilt else m.mem.spoilt ++ [(mem, unit, true)] } }
  else m

/-- Words of a protected on-chip memory are written: an injection of kind 1 or 2 that names one of them is applied (R694). `words`
words from `first` of memory `mem`, as `TOP_ECC_LAST` numbers them. -/
def Node.injSram (n : Node) (mem first words : Nat) : Node :=
  let t := (n.reg Reg.TST_INJ_TARGET).toNat
  n.injWords mem first words 1 2 (if t / 2 ^ 24 = mem then t % 2 ^ 24 else first + words) 6

/-- 64-byte units of DRAM are written: an injection of kind 3 or 4 that names one is applied (R694). -/
def Node.injDram (n : Node) (addr len : Nat) : Node :=
  n.injWords 0 (addr / 64) ((addr + len + 63) / 64 - addr / 64) 3 4 ((n.reg Reg.TST_INJ_TARGET).toNat % 2 ^ 27) 9

/-- What an injection has made of a word (R694): whether it now holds an uncorrectable error. -/
def Node.spoiltAt (n : Node) (mem unit : Nat) : Option Bool :=
  (n.mem.spoilt.find? fun (x : Nat × Nat × Bool) => x.1 == mem && x.2.1 == unit).map fun x => x.2.2

/-! ### Safe values and outputs (R418, R456, R468, R469) -/

/-- Element `i` of a list replaced by what `f` makes of it. -/
def modifyAt {α : Type} (l : List α) (i : Nat) (f : α → α) : List α :=
  l.mapIdx fun j x => if j = i then f x else x

/-- Bit b of a dataset's data: bit 0 is the most significant bit of byte 0 (R472). -/
def dataBit (data : List Byte) (b : Nat) : Bool := (byteAt data (b / 8)).testBit (7 - b % 8)

/-- Data with bit b given a value. -/
def setDataBit (data : List Byte) (b : Nat) (v : Bool) : List Byte :=
  modifyAt data (b / 8) fun x => BitVec.ofNat 8 (withBits x.toNat (7 - b % 8) 1 (b2n v))

/-- The node holds the token: HOLDER, or SOLO on a single node (R405). -/
def Node.holder (n : Node) : Bool := n.fld Reg.PAR_TOKEN Fld.PAR_TOKEN_STATE % 2 == 1

/-- The drivers of the output lines: on once first driven, and for a token-governed line of a pair only at the holder
(R418, R468, R469), and the pins of a TDM port with `TOKEN` likewise (R484). -/
def Node.syncDrivers (n : Node) : Node :=
  let on (l : Nat) : Bool := n.fld (Reg.DIO_LN_CFG l) Fld.DIO_LN_CFG_DIR == 1 &&
    (n.fld (Reg.DIO_LN_CFG l) Fld.DIO_LN_CFG_TOKEN == 0 || n.holder)
  let m := { n with pd := { n.pd with driven := (n.pd.touched.filter on).map fun l => (l, n.bit Reg.DIO_OUT l) } }
  [0, 1, 2, 3].foldl (fun m p =>
    if m.fld (Reg.AUD_TDM_CFG p) Fld.AUD_TDM_CFG_TOKEN == 1 then m.setBit (Reg.AUD_TDM_STAT p) 2 m.holder else m) m

/-- An output line is given a level to drive; at a new level its readback is taken to match (DEDUCED, log entry 33). -/
def Node.drive (n : Node) (l : Nat) (active : Bool) : Node :=
  let m := (n.setBit Reg.DIO_OUT l active).setBit Reg.DIO_RB l active
  { m with pd := { m.pd with
    touched := if m.pd.touched.contains l then m.pd.touched else m.pd.touched ++ [l],
    lines := modifyAt m.pd.lines l fun x =>
      if n.bit Reg.DIO_OUT l = active ∧ n.pd.touched.contains l then x
      else { x with readbackBad := x.readbackBad && n.bit Reg.DIO_OUT l == active, drivenAt := m.tm.raw } } }

/-- The mapped outputs of a consumed dataset take its presented bits (R468). -/
def Node.latchMaps (n : Node) (d : Dataset) : Node :=
  (d.maps.foldl (fun m x => m.drive x.1 (dataBit d.shown.data x.2)) n).syncDrivers

/-- The safe value of a dataset: its record, or all zero (R452). -/
def Dataset.safeData (d : Dataset) : List Byte := if d.safeValue.isEmpty then zeros d.len else d.safeValue

/-- Every consumed dataset presents its safe value at once (R456). -/
def Node.safeAll (n : Node) : Node :=
  n.pd.sets.zipIdx.foldl (fun m x =>
    let (d, i) := x
    if d.consumed then
      let status := d.shown.status % 65536 + 2 ^ 17 + b2n d.last.isNone * 2 ^ 18
      let d' := { d with shown := { d.shown with status := status, data := d.safeData }, safeRun := true, decided := none }
      let k := { m with pd := { m.pd with sets := modifyAt m.pd.sets i fun _ => d' } }
      ((k.setReg (Reg.PDT_DS_STAT i) (word status)).latchMaps d').raise 0x4902 d.stream 3
    else m) n

/-- The instants of R445 run in RUN and MUTE. -/
def Node.instants (n : Node) : Bool := n.st == stRun || n.st == stMute

/-- The state shown changes (R256); an entry to RUN or exit from RUN ends every rate-limit interval (R785), and leaving
RUN or MUTE for LISTEN, LINK or OFF presents the safe values (R456). -/
def Node.showSt (n : Node) (st : Nat) : Node :=
  let n' := if (n.st == stRun) != (st == stRun) then n.endLimits else n
  let n' := if n'.instants && decide (st ≤ stListen) then n'.safeAll else n'
  let m := n'.setFld Reg.INA_STATE Fld.INA_STATE_STATE st
  let m := m.setBit Reg.PDT_STAT 31 (st == stRun || st == stMute)
  let m := if n.instants then m else { m with pd := { m.pd with since := m.tm.raw } }
  { m with ina := { m.ina with entered := m.tm.raw } }

/-! ### Host contexts (R620, R661) -/

/-- The HOSTS section holds a record for the context (R621). -/
def Node.ctxPresent (n : Node) (c : Nat) : Bool := decide (c < 8) && n.bit (Reg.HST_CTX_STAT c) 0

/-- The context is secure. -/
def Node.ctxSecure (n : Node) (c : Nat) : Bool := n.fld (Reg.HST_CTX_CFG c) Fld.HST_CTX_CFG_SECURE == 1

/-- A context reset is running (R645). -/
def Node.ctxResetting (n : Node) (c : Nat) : Bool := n.bit (Reg.HST_CTX_STAT c) 1

/-- An instance of the world map is secure (R646): `WLD_INST` holds fixed and mapped instances. -/
def Node.instSecure (n : Node) (i : Nat) : Bool := decide (i < 128) && n.bit (Reg.WLD_INST (i / 32)) (i % 32)

/-- A value latched for the next read of an address by a context (R5). -/
def Node.latch (n : Node) (ctx addr : Nat) (v : Word) : Node :=
  { n with latches := n.latches.filter (fun l => !(l.ctx == ctx && l.addr == addr)) ++ [⟨ctx, addr, v⟩] }

/-- The value latched for an address, if any. -/
def Node.latched (n : Node) (ctx addr : Nat) : Option Word :=
  (n.latches.find? fun l => l.ctx == ctx && l.addr == addr).map (·.value)

/-- A latch is used up. -/
def Node.unlatch (n : Node) (ctx addr : Nat) : Node :=
  { n with latches := n.latches.filter fun l => !(l.ctx == ctx && l.addr == addr) }

/-! ### A warm reset to come (R715) -/

/-- A warm reset begins after a delay; of two requests the earlier one is carried out (R714). -/
def Node.warmIn (n : Node) (ns cause : Nat) : Node :=
  let t := n.tm.raw + ns
  let later := match n.boot.warm with
    | some w => decide (w.1 ≤ t)
    | none => false
  if later then n else { n with boot := { n.boot with warm := some (t, cause) } }

/-! ### The state -/

/-- The machine with the node changed; the waiting commands and the OTP stay. -/
def State.on (s : State) (f : Node → Node) : State := { s with node := f s.node }

end Sys2Proof.Machine
end

