-- ==== Sys2Proof/Machine/CheckOps.lean ====
section
/-! DEFINITION. The check engine's algorithms (R602, R603), its contexts' state, the blocks that pass a snooping context
(R611, R613) and a mismatch (R610, R614). Ports, the state copy, the library and image loading use them. -/

namespace Sys2Proof.Machine

/-! ### Algorithms (R602) -/

/-- The width of an algorithm's check value in bytes. -/
def crcBytes (alg : Nat) : Nat := if alg = 2 then 2 else if alg = 3 then 1 else 4

/-- The seed and the final XOR value of an algorithm. -/
def crcSeed (alg : Nat) : Nat := if alg = 2 then 0xFFFF else if alg = 3 then 0 else 0xFFFFFFFF
def crcFinal (alg : Nat) : Nat := if alg = 2 ∨ alg = 3 then 0 else 0xFFFFFFFF

/-- One bit of a check of width `w` bits that is not reflected. -/
def crcBitL (w poly c : Nat) : Nat :=
  if c.testBit (w - 1) then Nat.xor (c * 2 % 2 ^ w) poly else c * 2 % 2 ^ w

/-- One byte of a check that is not reflected. -/
def crcByteL (w poly c b : Nat) : Nat := (List.range 8).foldl (fun a _ => crcBitL w poly a) (Nat.xor c (b * 2 ^ (w - 8)))

/-- The running value after one byte: algorithms 0 and 4 CRC-32C, 1 CRC-32, 2 CRC-16/CCITT, 3 CRC-8. -/
def crcStep (alg run b : Nat) : Nat :=
  if alg = 1 then crcByteR 0xEDB88320 run b
  else if alg = 2 then crcByteL 16 0x1021 run b
  else if alg = 3 then crcByteL 8 0x07 run b
  else crcByteR 0x82F63B78 run b

/-- The running value after bytes. -/
def crcFeed (alg run : Nat) (bs : List Byte) : Nat := bs.foldl (fun c b => crcStep alg c b.toNat) run

/-- The result of a running value (R602). -/
def crcResult (alg run : Nat) : Nat := Nat.xor run (crcFinal alg)

/-! ### Mismatches (R610, R614, R619) -/

/-- A check value that does not match: counted, and reported at most once per 1,024 basic cycles per fabric port for a
port's spine check (source 5) and per context for every other source. -/
def Node.checkMismatch (n : Node) (source stream port ctx : Nat) : Node :=
  let m := n.inc Reg.CHK_MISMATCH_CNT
  let m := if source = 5 then m.setReg Reg.CHK_SPINE_LAST (word (stream % 2 ^ 14 + port % 16 * 2 ^ 16))
    else m.inc (Reg.CHK_CTX_MISS ctx)
  match m.occurIn 0x6901 (if source = 5 then port else 16 + ctx) 1000000 with
  | (k, some c) => k.raise 0x6901 (stream % 2 ^ 14 + port % 16 * 2 ^ 16 + ctx % 32 * 2 ^ 20 + source % 16 * 2 ^ 28) c
  | (k, none) => k

/-! ### Contexts (R604, R608) -/

/-- A field of a context's configuration and of its status. -/
def Node.chkCfg (n : Node) (c : Nat) (f : Field) : Nat := n.fld (Reg.CHK_CTX_CFG c) f
def Node.chkStat (n : Node) (c : Nat) (f : Field) : Nat := n.fld (Reg.CHK_CTX_STAT c) f

/-- The context is busy. -/
def Node.chkBusy (n : Node) (c : Nat) : Bool := n.chkStat c Fld.CHK_CTX_STAT_BUSY == 1

/-- What a context holds of its job and blocks. -/
def Node.chkCtx (n : Node) (c : Nat) : ChkCtx := n.chk.ctxs.getD c ⟨none, [], false⟩
def Node.putChk (n : Node) (c : Nat) (x : ChkCtx) : Node :=
  { n with chk := { n.chk with ctxs := modifyAt n.chk.ctxs c fun _ => x } }

/-- The software contexts that snoop a feed. -/
def Node.snoopers (n : Node) (feed : Nat) : List Nat :=
  (List.range 28).filter fun c => n.chkBusy c && n.chkCfg c Fld.CHK_CTX_CFG_FEED == feed && !(n.chkCtx c).stop

/-- The registers that show which contexts are busy and how many snoop spine streams. -/
def Node.syncChk (n : Node) : Node :=
  let busy := (List.range 28).foldl (fun a c => a + b2n (n.chkBusy c) * 2 ^ c) 0
  let use := ((List.range 28).filter fun c => n.chkBusy c && n.chkCfg c Fld.CHK_CTX_CFG_FEED == 4).length
  (n.setReg Reg.CHK_BUSY (word busy)).setReg Reg.CHK_SNOOP_USE (word use)

/-- A block passes a feed: it joins the blocks of every context that snoops it (R611). A stream's copy reaches the contexts
that name the stream, from byte `OFF` for `LEN` bytes (R613). -/
def Node.chkPass (n : Node) (feed stream seq : Nat) (data : List Byte) : Node :=
  (n.snoopers feed).foldl (fun m c =>
    let w := (n.reg (Reg.CHK_CTX_SNOOP c)).toNat
    let len := bitsOf (n.reg (Reg.CHK_CTX_SNOOP_LEN c)).toNat 0 11
    if feed ≠ 4 then m.putChk c { m.chkCtx c with blocks := (m.chkCtx c).blocks ++ [ChkBlock.mk feed 0 0 data] }
    else if w % 2 ^ 14 ≠ stream then m
    else
      let part := data.drop (bitsOf w 14 11)
      let part := if len = 0 then part else part.take len
      m.putChk c { m.chkCtx c with blocks := (m.chkCtx c).blocks ++ [ChkBlock.mk 4 stream seq part] }) n

/-- A block of a context of the node's own, 28 to 31 (R604): what its registers show of it. `cfg` is its configuration,
`run` its running value at the end and `found` the value that a check found. -/
def Node.chkOwn (n : Node) (c : Nat) (cfg run : Nat) (found : Option Nat) : Node :=
  let alg := cfg % 8
  let result := crcResult alg run
  let st := match found with
    | some v => if v = result then 4 else 8
    | none => 0
  let m := ((n.setReg (Reg.CHK_CTX_CFG c) (word cfg)).setReg (Reg.CHK_CTX_RUN c) (word run)).setReg (Reg.CHK_CTX_RESULT c)
    (word result)
  let m := match found with
    | some v => m.setReg (Reg.CHK_CTX_EXPECT c) (word v)
    | none => m
  m.setReg (Reg.CHK_CTX_STAT c) (word (2 + st))

/-- The context of library checks (R510, R614). -/
def Node.chkLibrary (n : Node) (addr len : Nat) (data : List Byte) (crc : Nat) : Node :=
  let run := crcFeed 0 0xFFFFFFFF data
  let m := ((n.setReg (Reg.CHK_CTX_SRC_LO 28) (word addr)).setReg (Reg.CHK_CTX_SRC_HI 28) (word (addr / 2 ^ 32))).setReg
    (Reg.CHK_CTX_LEN 28) (word len)
  let m := m.chkOwn 28 0x20 run (some crc)
  if crcResult 0 run = crc then m else m.checkMismatch 0 0 0 28

/-- The check of a state copy sent (source 2) by the holder: context 30 computes it (R400, R604). -/
def Node.chkCopySent (n : Node) (body : List Byte) : Node :=
  (n.chkOwn 30 0x4000 (crcFeed 0 0xFFFFFFFF body) none).chkPass 2 0 0 body

/-- The check of a state copy received: context 29 verifies it (R425, R604, R614). -/
def Node.chkCopyReceived (n : Node) (body : List Byte) (crc : Nat) : Node :=
  let run := crcFeed 0 0xFFFFFFFF body
  let m := (n.chkOwn 29 0x6020 run (some crc)).chkPass 3 0 0 body
  if crcResult 0 run = crc then m else m.checkMismatch 3 0 0 29

/-- The check of a section while an image is loaded or verified: context 31 verifies it (R103, R604, R614). -/
def Node.chkImage (n : Node) (body : List Byte) (crc : Nat) : Node :=
  let run := crcFeed 0 0xFFFFFFFF body
  let m := (n.chkOwn 31 0x3020 run (some crc)).chkPass 1 0 0 body
  if crcResult 0 run = crc then m else m.checkMismatch 1 0 0 31

end Sys2Proof.Machine
end

