-- ==== Sys2Proof/Machine/Operands.lean ====
section
/-! DEFINITION. The operand forms of the commands: the spine header and its check (R147 to R156), and the lines and ports a
frame travels on. -/

namespace Sys2Proof.Machine

/-! ### The spine header (R151) -/

/-- The header that the first 32 bytes after the EtherType hold. -/
def decodeHdr (b : List Byte) : SpineHdr :=
  { ver := byteAt b 0 / 16, kind := byteAt b 0 % 16,
    lineB := (byteAt b 1).testBit 7, pending := (byteAt b 1).testBit 6, ageValid := (byteAt b 1).testBit 5,
    tunnel := (byteAt b 1).testBit 4, lastFrag := (byteAt b 1).testBit 3, flagRes := byteAt b 1 % 8,
    epoch := beAt b 2 2, src := beAt b 4 2 / 16, tc := beAt b 4 2 % 16, sid := beAt b 6 2 / 4, ci := beAt b 6 2 % 4,
    seq := beAt b 8 2, age := beAt b 10 2, corr := beAt b 12 8, cycle := beAt b 20 4, plen := beAt b 24 2,
    res := beAt b 26 2, check := beAt b 28 4 }

/-- The 32 bytes of a header. -/
def encodeHdr (h : SpineHdr) : List Byte :=
  [BitVec.ofNat 8 (h.ver * 16 + h.kind),
   BitVec.ofNat 8 (b2n h.lineB * 128 + b2n h.pending * 64 + b2n h.ageValid * 32 + b2n h.tunnel * 16 +
     b2n h.lastFrag * 8 + h.flagRes)] ++
  encBE 2 h.epoch ++ encBE 2 (h.src * 16 + h.tc) ++ encBE 2 (h.sid * 4 + h.ci) ++ encBE 2 h.seq ++ encBE 2 h.age ++
  encBE 8 h.corr ++ encBE 4 h.cycle ++ encBE 2 h.plen ++ encBE 2 h.res ++ encBE 4 h.check

/-- The spine check over stream ID (copy index zero), sequence, epoch and payload (R154). -/
def spineCheck (h : SpineHdr) (payload : List Byte) : Nat :=
  crc32c (encBE 2 (h.sid * 4) ++ encBE 2 h.seq ++ encBE 2 h.epoch ++ payload)

/-- The payload of a spine frame, pad excluded. -/
def payloadOf (b : List Byte) : List Byte := (b.drop 32).take (beAt b 24 2)

/-- The traffic class of a kind (R156). -/
def kindClass : Nat → Option Nat
  | 0x0 => some 7 | 0x1 => some 6 | 0x2 => some 5 | 0x3 => some 5 | 0x4 => some 7 | 0x5 => some 7 | 0x6 => some 7
  | 0x7 => some 4 | 0x8 => some 4 | 0x9 => some 4 | 0xA => some 7 | 0xB => some 5 | 0xC => some 3 | 0xD => some 5
  | _ => none

/-- The kinds that check 6 applies to (R281): SLOT, POLL, REPLY, TUN, RWIN, RWIN_RSP, MSG, MODE. -/
def epochChecked (kind : Nat) : Bool := kind ∈ [0x1, 0x2, 0x3, 0x7, 0x8, 0x9, 0xB, 0xD]

/-- A header with everything zero but the version, the kind and its class, and `LAST_FRAG` (R151). -/
def hdrOf (kind : Nat) : SpineHdr :=
  { ver := 1, kind := kind, lineB := false, pending := false, ageValid := false, tunnel := false, lastFrag := true,
    flagRes := 0, epoch := 0, src := 0, tc := (kindClass kind).getD 0, sid := 0, ci := 0, seq := 0, age := 0, corr := 0,
    cycle := 0, plen := 0, res := 0, check := 0 }

/-- Group addresses of R148. -/
def addrLine (lineB : Bool) : Nat := if lineB then 0x030DCE00000B else 0x030DCE00000A
def addrJalder : Nat := 0x030DCE00000C
def addrLocal : Nat := 0x030DCE00000E
def addrWake : Nat := 0x030DCE00000F

/-- A spine frame from a header and a payload (R147): the header gets its payload length and check, and the pad of R147
is added while 54 + n is below 64. -/
def Node.spineFrame (n : Node) (dst : Nat) (h : SpineHdr) (payload : List Byte) : Frame :=
  let h' := { h with plen := payload.length, check := spineCheck h payload }
  { dst := dst, src := n.identity, tag := some ⟨h.tc, 0, (n.reg Reg.SPN_SPINE_VID).toNat⟩,
    etype := (n.reg Reg.SPN_ETYPE).toNat,
    body := encodeHdr h' ++ payload ++ zeros (10 - payload.length) }

/-- Bytes from the destination address to the FCS. -/
def frameLen (f : Frame) : Nat := 12 + (if f.tag.isSome then 4 else 0) + 2 + f.body.length + 4

/-- Cells of a frame (R56). -/
def frameCells (f : Frame) : Nat := (frameLen f + 255) / 256

/-- The frame carries the spine EtherType (R150). -/
def Node.isSpine (n : Node) (f : Frame) : Bool := f.etype == (n.reg Reg.SPN_ETYPE).toNat

/-! ### Ports and lines -/

/-- State of a port. -/
def Node.port (n : Node) (p : Nat) : Port := n.net.ports.getD p Port.reset

/-- A port's state changed. -/
def Node.onPort (n : Node) (p : Nat) (f : Port → Port) : Node :=
  { n with net := { n.net with ports := modifyAt n.net.ports p f } }

/-- The port is a spine port. -/
def isSpinePort (p : Nat) : Bool := decide (p < 4)

/-- The kind of a car port (R142): 0 consist, 1 branch, 2 host-frame. -/
def Node.carKind (n : Node) (p : Nat) : Nat := n.fld (Reg.SPN_IFTYPE p) Fld.SPN_IFTYPE_KIND

/-- The port carries the spine protocol: a spine port or a branch port. -/
def Node.isLinePort (n : Node) (p : Nat) : Bool := isSpinePort p || (decide (p < 12) && n.carKind p == 1)

/-- The line of a spine or branch port: true for line B (R192). -/
def Node.portB (n : Node) (p : Nat) : Bool :=
  if p < 4 then p % 2 == 1 else n.fld (Reg.SPN_IFTYPE p) Fld.SPN_IFTYPE_LINE == 1

/-- The port is a front port (R48): FA and FB. -/
def isFront (p : Nat) : Bool := decide (p < 2)

/-- The port's link is up. -/
def Node.linkUp (n : Node) (p : Nat) : Bool :=
  if p < 12 then n.fld (Reg.SPN_STAT p) Fld.SPN_STAT_LINK == 1 else p == 12 && n.bit Reg.JLK_STAT 0

/-- The link is withdrawn under R28. -/
def Node.crossed (n : Node) (p : Nat) : Bool := decide (p < 12) && n.fld (Reg.SPN_STAT p) Fld.SPN_STAT_CROSSED == 1

/-- The port is set to a loop, and runs as the far end of an ECHO loop (R680, R687). -/
def Node.looped (n : Node) (p : Nat) : Bool := n.bit Reg.TST_STAT p
def Node.echoing (n : Node) (p : Nat) : Bool := n.tst.loops.any fun l => l.target == p && l.depth == 6

/-- The port protects its frames (R178). -/
def Node.secOn (n : Node) (p : Nat) : Bool := isSpinePort p && n.fld (Reg.SPN_IFTYPE p) Fld.SPN_IFTYPE_MACSEC == 1

/-- A member link (R260). -/
def Node.member (n : Node) (p : Nat) : Bool :=
  n.isLinePort p && n.linkUp p && !n.crossed p &&
  (!n.secOn p || n.fld (Reg.SPN_STAT p) Fld.SPN_STAT_MACSEC == 1) && (n.port p).pdDone

/-- The Jalder link is a member link for R258: up, with a completed exchange. -/
def Node.jalderMember (n : Node) : Bool := n.paired && n.linkUp 12 && (n.port 12).pdDone

/-- The far end of the link is listed in the current numbering, or in the previous one within the bleed window: the link
is joined (R281). -/
def Node.joined (n : Node) (p : Nat) : Bool :=
  n.member p &&
  ((n.ina.table.any fun e => e.identity == (n.port p).farId) ||
   (n.fld Reg.INA_STATE Fld.INA_STATE_BLEED == 1 && n.ina.prev.any fun e => e.identity == (n.port p).farId))

/-- The spine and branch ports whose link is up and not withdrawn, on a line. -/
def Node.linePorts (n : Node) (lineB : Bool) : List Nat :=
  (List.range 12).filter fun p => n.isLinePort p && n.linkUp p && !n.crossed p && n.portB p == lineB

/-- The node sits on a line: both for a single node, its own for a pair node (R23, R24). -/
def Node.onLine (n : Node) (lineB : Bool) : Bool := !n.paired || n.roleB == lineB

end Sys2Proof.Machine
end

