-- ==== Sys2Proof/Machine/Windows.lean ====
section
/-! DEFINITION. What an egress port may send at an instant: stream table entries (R350), the slot list in force (R233, R279,
R360), wire times (R212), the crossings of the current master's REF (R208), and the windows and intervals in which a class of
frames may start (R166, R168, R177, R201 to R204, R789, R790). Times of the cycle are in ns. -/

namespace Sys2Proof.Machine

/-! ### Stream table entries (R350) -/

/-- The fields of a stream table entry. -/
structure Strm where
  src : Nat
  valid : Bool
  pair : Bool
  cls : Nat
  lines : Nat
  prio : Nat
  fixed : Bool
  secure : Bool
  growth : Bool
  state : Nat
  dkind : Nat
  darg0 : Nat
  darg1 : Nat
  k : Nat
  phase : Nat
  size : Nat
  deadline : Nat
  admSeq : Nat
  dcount : Nat
  reason : Nat
  deriving DecidableEq, Repr

/-- The fields that eight words hold. -/
def strmOf (w : List Word) : Strm :=
  let v (i : Nat) : Nat := (w.getD i 0#32).toNat
  let b (i lo k : Nat) : Nat := bitsOf (v i) lo k
  { src := v 0 + b 1 0 16 * 2 ^ 32, valid := b 1 16 1 == 1, pair := b 1 17 1 == 1, cls := b 1 18 2, lines := b 1 20 2,
    prio := b 1 22 4, fixed := b 1 26 1 == 1, secure := b 1 27 1 == 1, growth := b 1 28 1 == 1, state := b 1 29 3,
    dkind := b 2 0 8, darg0 := b 2 16 16, darg1 := v 3, k := b 4 0 4, phase := b 4 4 10, size := b 4 16 11,
    deadline := v 5 + b 7 16 2 * 2 ^ 32, admSeq := v 6, dcount := b 7 0 12, reason := b 7 12 4 }

/-- The eight words of an entry. -/
def Strm.words (e : Strm) : List Word :=
  [word e.src,
   word (e.src / 2 ^ 32 % 2 ^ 16 + b2n e.valid * 2 ^ 16 + b2n e.pair * 2 ^ 17 + e.cls % 4 * 2 ^ 18 + e.lines % 4 * 2 ^ 20 +
     e.prio % 16 * 2 ^ 22 + b2n e.fixed * 2 ^ 26 + b2n e.secure * 2 ^ 27 + b2n e.growth * 2 ^ 28 + e.state % 8 * 2 ^ 29),
   word (e.dkind % 256 + e.darg0 % 65536 * 65536), word e.darg1,
   word (e.k % 16 + e.phase % 1024 * 16 + e.size % 2048 * 65536), word e.deadline, word e.admSeq,
   word (e.dcount % 4096 + e.reason % 16 * 4096 + e.deadline / 2 ^ 32 % 4 * 65536)]

/-- A stream's entry in STB (R385). -/
def Node.strm (n : Node) (s : Nat) : Strm := strmOf (n.getRegs (Reg.STB_ENTRY s) 8)

/-- The entry as the node matches frames with it: absent while an uncorrectable error has hit it (R73). -/
def Node.strmLive (n : Node) (s : Nat) : Strm :=
  let e := n.strm s
  { e with valid := e.valid && !n.mem.absent.contains (2, s) }

/-! ### Wire times (R212) -/

/-- Bit time of a link in tenths of a nanosecond per byte, by `SPN_STAT.RATE`. -/
def byteTenths : Nat → Nat
  | 1 => 80
  | 2 => 32
  | 3 => 16
  | 4 => 8
  | 5 => 800
  | 6 => 8000
  | _ => 8

/-- The wire time of a frame on a port, with preamble and inter-frame gap, rounded up to 1 ns; MACsec adds 32 bytes. -/
def Node.wireNs (n : Node) (p : Nat) (f : Frame) : Nat :=
  let rate := if p < 12 then n.fld (Reg.SPN_STAT p) Fld.SPN_STAT_RATE else 4
  ((frameLen f + (if n.secOn p then 32 else 0) + 20) * byteTenths rate + 9) / 10

/-- The next multiple of 32 ns, of a time in tenths of ns, in ns. -/
def ceil32 (tenths : Nat) : Nat := (tenths + 319) / 320 * 32

/-- Bytes of a scheduled frame from its payload size (R147). -/
def slotFrame (size : Nat) : Nat := max 64 (54 + size)

/-! ### Slot lists (R233, R279, R360) -/

/-- A slot entry at its place by start. -/
def insertSlot (x : SlotEntry) : List SlotEntry → List SlotEntry
  | [] => [x]
  | y :: ys => if x.start < y.start then x :: y :: ys else y :: insertSlot x ys

/-- A mask of ports joined with one more port. -/
def withPort (mask p : Nat) : Nat := if mask.testBit p then mask else mask + 2 ^ p

/-- Slots given to a node as entries of its slot list, ports with one start in one entry (R233). -/
def slotEntries (ps : List Placed) : List SlotEntry :=
  (ps.foldl (fun (acc : List SlotEntry) p =>
    let same (x : SlotEntry) : Bool := x.start == p.start && x.stream == p.stream && x.orig == p.orig && x.k == p.k &&
      x.phase == p.phase
    if acc.any same then acc.map fun x => if same x then { x with egress := withPort x.egress p.port } else x
    else acc ++ [⟨p.start, p.stream, p.k, p.phase, p.orig, 2 ^ p.port⟩]) []).foldr insertSlot []

/-- The slots of a node for the status streams as its verdict gives them: its own starts, and one burst per egress port,
opening at the first status frame that it forwards there. -/
def statusSlots (placed : List Placed) (id : Nat) : List Placed :=
  let mine := placed.filter fun p => p.stream == 0 && p.node == id
  let own := mine.filter (·.orig)
  let fwd := mine.filter fun p => !p.orig
  own ++ ((fwd.map (·.port)).eraseDups).filterMap fun q =>
    let here := fwd.filter fun p => p.port == q
    (here.head?).map fun p =>
      { p with copy := 0, start := here.foldl (fun a x => min a x.start) p.start,
               late := here.foldl (fun a x => max a x.late) p.late }

/-- The mode in force, none when the node does not hold it (R789). -/
def Node.curMode (n : Node) : Option Mode :=
  n.cyc.modes.find? fun m => m.num == n.fld Reg.CYC_STATE Fld.CYC_STATE_CUR

/-- The slot list of this node in a mode: the mode's entries, which count as empty at a joiner in every mode until the first
switch to a mode that the placer has staged (R279), and the status slots of the current numbering (R360). -/
def Node.slotsIn (n : Node) (m : Mode) : List SlotEntry :=
  let own := if n.fld Reg.INA_STATE Fld.INA_STATE_JOINER = 1 then [] else m.slots
  (slotEntries (statusSlots n.plc.placed n.identity)).foldr insertSlot own

/-- The slot list in force. -/
def Node.slotList (n : Node) : List SlotEntry := (n.curMode.map n.slotsIn).getD []

/-- A slot entry has an instance in a cycle (R200). -/
def SlotEntry.inCycle (x : SlotEntry) (cyc : Nat) : Bool := cyc % 2 ^ x.k == x.phase % 2 ^ x.k

/-- The offset of a raw time in the cycle in progress, in ns. -/
def Node.offsetAt (n : Node) (raw : Nat) : Int := n.fineAt raw / 65536 - (n.cycleNow * n.tc : Nat)

/-- An offset of the cycle is now, within the 32 ns of the slot grid. -/
def Node.atOffset (n : Node) (t : Int) : Bool :=
  let off := n.offsetAt n.tm.raw
  decide (t ≤ off) && decide (off < t + 32)

/-- The raw time, from now on, at which train time reaches `t` ns. -/
def Node.rawOf (n : Node) (t : Int) : Nat :=
  let per : Int := 65536 * (2 ^ 32 + n.tm.rate)
  (n.tm.raw + ((t * 65536 - n.fine) * 2 ^ 32 + per - 1) / per).toNat

/-! ### Crossings and slots on a port -/

/-- The forwarding is cut-through: the egress rate is at most the ingress rate (R169). -/
def Node.cutThrough (n : Node) (ingress egress : Nat) : Bool :=
  decide ((if ingress = 12 then byteTenths 4 else byteTenths (n.fld (Reg.SPN_STAT ingress) Fld.SPN_STAT_RATE)) ≤
    byteTenths (n.fld (Reg.SPN_STAT egress) Fld.SPN_STAT_RATE))

/-- The wire time of a frame of `len` bytes on a port, in tenths of ns. -/
def Node.wireTenths (n : Node) (p len : Nat) : Nat :=
  (len + (if n.secOn p then 32 else 0) + 20) * byteTenths (if p < 12 then n.fld (Reg.SPN_STAT p) Fld.SPN_STAT_RATE else 4)

/-- The crossing of the current master's REF on a port, as offsets from the cycle start (R208). The master sends REF at the
cycle start; another node sends it on one residence after the delay with which it receives it (DEDUCED, log entry 111). -/
def Node.crossing (n : Node) (p : Nat) : Option (Int × Int) :=
  let start : Option Nat :=
    if n.master then (if n.isLinePort p || p == 12 then some 0 else none)
    else if !n.isLinePort p then none
    else ((if n.portB p then n.cyc.pathB else n.cyc.pathA).filter fun x => x.2 != p).map fun x =>
      x.1 + 180 + (if n.secOn x.2 then 40 else 0) + (if n.cutThrough x.2 p then 0 else (n.wireTenths x.2 118 + 9) / 10)
  let fin (t : Nat) : Nat := (t + (n.wireTenths p 118 + 9) / 10 + 256 + 31) / 32 * 32
  start.map fun (t : Nat) => (((t : Int) - 256) / 32 * 32, (fin t : Int))

/-- The number of a car port, 0 to 7, of a fabric port. -/
def carPort (p : Nat) : Nat := p - 4

/-- The car-side mode of a car port (R430); a single node treats every port as mode 0. -/
def Node.carMode (n : Node) (p : Nat) : Nat := if n.paired then n.bits Reg.PAR_CARMODE (2 * carPort p) 2 else 0

/-- Bytes of the car delivery frame of a stream's payload size on a car port: addresses, tag, EtherType, status word, payload, the
duplicate trailer under mode 1, and the FCS (R431, R458). -/
def Node.carFrame (n : Node) (p size : Nat) : Nat := max 64 (26 + size + if n.carMode p = 1 then 16 else 0)

/-- The TC6 slots on a port in cycle `c`, as offsets: a slot guard before each start, and its end (R212). -/
def Node.slotMarks (n : Node) (m : Mode) (p c : Nat) : List (Int × Int) :=
  let fin (s start : Nat) : Nat :=
    let size := if s = 0 then 16 else (n.strm s).size
    start + ceil32 (n.wireTenths p (if n.isLinePort p || p == 12 then slotFrame size else n.carFrame p size))
  let own := ((n.slotsIn m).filter fun x => x.stream != 0 && x.egress.testBit p && x.inCycle c).map fun x =>
    (x.start, fin x.stream x.start)
  let status := (n.plc.placed.filter fun (q : Placed) => q.stream == 0 && q.node == n.identity && q.port == p).map
    fun (q : Placed) => (q.start, fin 0 q.start)
  (own ++ status).map fun x => ((x.1 : Int) - (m.sguard : Int), (x.2 : Int))

/-- The gate of a slot on a port closes at the start of the next slot or crossing on the port, or at the closing guard
(R203, R214). -/
def Node.gateClose (n : Node) (p start : Nat) : Nat :=
  let slots := (n.slotList.filter fun x => x.egress.testBit p && x.inCycle n.cycleNow && decide (start < x.start)).map (·.start)
  let cross := ((n.crossing p).toList.filter fun c => decide ((start : Int) < c.1)).map fun c => c.1.toNat
  let guard := match n.curMode with
    | some m => n.tc - m.guard
    | none => n.tc
  (slots ++ cross).foldl min guard

/-! ### When a frame may be on the wire (R166, R168, R177, R201, R203, R204, R789) -/

/-- The interval of the cycle in which the gate of a class below TC6 is open (R166, R201, R203). -/
def Mode.window (m : Mode) (tc cls : Nat) : Int × Int :=
  let polled : Int := 4000 + m.sched
  let fin : Int := tc - m.guard
  if cls = 5 then (polled, polled + m.poll) else if cls = 4 then (polled, fin) else (polled + m.poll, fin)

/-- What an interval leaves of another. -/
def cutSpan (c s : Int × Int) : List (Int × Int) :=
  if c.2 ≤ s.1 ∨ s.2 ≤ c.1 then [s]
  else (if s.1 < c.1 then [(s.1, c.1)] else []) ++ (if c.2 < s.2 then [(c.2, s.2)] else [])

/-- What several intervals leave of an interval, in order. -/
def cutSpans (cs : List (Int × Int)) (s : Int × Int) : List (Int × Int) := cs.foldl (fun a c => a.flatMap (cutSpan c)) [s]

/-- Intervals that touch are one. -/
def joinSpans : List (Int × Int) → List (Int × Int)
  | [] => []
  | s :: ss => match joinSpans ss with
    | [] => [s]
    | t :: ts => if t.1 ≤ s.2 then (s.1, max s.2 t.2) :: ts else s :: t :: ts

/-- Preemption is active on a port (R174, R175); on the Jalder link it always is (R398). -/
def Node.preempts (n : Node) (p : Nat) : Bool := if p < 12 then n.fld (Reg.SPN_STAT p) Fld.SPN_STAT_PREEMPT == 1 else p == 12

/-- Hold is asserted 160 byte times before an interval in which a port's lower gates close, where preemption is active
(R177, R208). -/
def Node.holdNs (n : Node) (p : Nat) : Int :=
  if n.preempts p then (160 * byteTenths (if p < 12 then n.fld (Reg.SPN_STAT p) Fld.SPN_STAT_RATE else 4) / 10 : Nat) else 0

/-- The intervals of cycle `c` in which a frame of a class other than TC6 may be on the wire of a port, in ns of train time.
A node that does not hold its mode leaves TC7 the reference window and the lower classes nothing (R789). -/
def Node.spansIn (n : Node) (p cls c : Nat) : List (Int × Int) :=
  let t0 : Int := (c * n.tc : Nat)
  let cross := (n.crossing p).toList
  let rel : List (Int × Int) := match n.curMode with
    | none => if cls = 7 then cutSpans cross (0, 4000) else []
    | some m =>
      if cls = 7 then cutSpans (n.slotMarks m p c ++ cross) (0, n.tc)
      else cutSpans (cross.map fun x => (x.1 - n.holdNs p, x.2)) (m.window n.tc cls)
  rel.map fun s => (t0 + s.1, t0 + s.2)

/-- Those intervals from cycle `c` on, over enough cycles for a frame of `wire` ns. -/
def Node.spans (n : Node) (p cls wire c : Nat) : List (Int × Int) :=
  joinSpans ((List.range (2 + wire / n.tc)).flatMap fun i => n.spansIn p cls (c + i))

/-- The ports are gated by windows: in RUN, and in MUTE (R166, R789). -/
def Node.gated (n : Node) : Bool := n.st == stRun || n.st == stMute

/-- The gate of a class is open on a port at train time `t` in ns. -/
def Node.gateAt (n : Node) (p cls : Nat) (t : Int) : Bool :=
  !n.gated || n.tc == 0 || (n.spansIn p cls (t / n.tc).toNat).any fun s => decide (s.1 ≤ t) && decide (t < s.2)

/-- The first train time from `t` on at which a frame of `wire` ns may start on a port; none where the intervals looked at
have no room. Where preemption is active a preemptable frame may start whenever its gate is open (R168). -/
def Node.fits (n : Node) (p cls wire : Nat) (t : Int) : Option Int :=
  if !n.gated || n.tc == 0 then some t
  else
    let need : Int := if cls < 6 ∧ n.preempts p then 1 else wire
    ((n.spans p cls wire (t / n.tc).toNat).find? fun s => decide (max t s.1 + need ≤ s.2)).map fun s => max t s.1

/-- The frame can never start on the port in RUN (R790): it exceeds every interval in which it could start. -/
def Node.neverStarts (n : Node) (p cls : Nat) (f : Frame) : Bool :=
  n.st == stRun && cls != 6 && !n.preempts p &&
  (let wire := n.wireNs p f
   let now := n.cycleNow
   let tight (c : Nat) : Bool := (n.spans p cls wire c).all fun s => decide (s.2 - s.1 < (wire : Int))
   tight now && (cls != 7 || (List.range (2 ^ (n.slotList.foldl (fun a x => max a x.k) 0))).all fun i => tight (now + i)))

/-- Where a preemptable frame that starts at train time `t` ends, and the times it is preempted: its gate's intervals, one
after another (R168). -/
def runOut : List (Int × Int) → Int → Int → Nat → Int × Nat
  | [], t, left, k => (t + left, k)
  | s :: ss, t, left, k =>
    let from_ := max t s.1
    if s.2 ≤ from_ then runOut ss t left k
    else if left ≤ s.2 - from_ then (from_ + left, k)
    else runOut ss s.2 (left - (s.2 - from_)) (k + 1)

end Sys2Proof.Machine
end

