-- ==== Sys2Proof/Machine/Egress.lean ====
section
/-! DEFINITION. Sending (R52 to R63, R147, R166 to R170, R174 to R179, R204, R790): the pools, the egress queues and how they
are served, protection, and the frames that the node originates and forwards. -/

namespace Sys2Proof.Machine

/-! ### Pools (R56 to R61) -/

/-- The fabric port of frames that the node's own blocks and engines send (R52, R53). -/
def localPort : Nat := 14

/-- The pool of a class: 0 control, 1 scheduled, 2 open (R57). -/
def poolOf (cls : Nat) : Nat := if cls = 7 then 0 else if 4 ≤ cls then 1 else 2

/-- The cells of a pool (R57). -/
def Node.poolCells (n : Node) (pool : Nat) : Nat :=
  if pool = 0 then 512 else n.fld Reg.TOP_BUF_CFG (if pool = 1 then Fld.TOP_BUF_CFG_SCHED else Fld.TOP_BUF_CFG_OPEN)

/-- The cells that waiting frames of a pool hold: one stored copy of a frame for all its ports (R54). -/
def Node.poolUsed (n : Node) (pool : Nat) : Nat :=
  (((n.net.queue.filter fun q => poolOf q.cls == pool).map fun q => (q.ingress, q.ready, q.frame)).eraseDups.map
    fun x => frameCells x.2.2).foldl (· + ·) 0

/-- A store-and-forward drop counted at a port for a class (R59); ports without the counter count nothing. -/
def Node.clsDrop (n : Node) (p c : Nat) : Node := if p < 12 then n.inc (Reg.SPN_CLS_DROP p c) else n

/-- CONTROL_POOL_DROP of a frame from a fabric port (R61). -/
def Node.ctrlFull (n : Node) (p : Nat) : Node := (n.inc Reg.TOP_BUF_CTRL_DROP).raise 0x0906 p 0

/-- OPEN_POOL_EXHAUSTED of a frame from a fabric port, once until an eighth of the pool is free again (R60). -/
def Node.openFull (n : Node) (p cls : Nat) : Node :=
  if n.ev.openArmed then
    let m := n.raise 0x0903 p cls
    { m with ev := { m.ev with openArmed := false } }
  else n

/-- A frame that finds no room in its pool is discarded, counted at its port and class, and reported (R59 to R61). -/
def Node.poolDrop (n : Node) (p cls : Nat) : Node :=
  if cls = 7 then n.ctrlFull p
  else
    let m := n.clsDrop p cls
    if cls < 4 then m.openFull p cls else m

/-- The free cells of the open pool arm OPEN_POOL_EXHAUSTED above one eighth (R60). -/
def Node.armOpen (n : Node) (free : Nat) : Node :=
  { n with ev := { n.ev with openArmed := n.ev.openArmed || decide (n.poolCells 2 < free * 8) } }

/-! ### Protection (R178, R179) -/

/-- What both ends of a link derive its SAK and salt from: the label and the context (R179). -/
def Node.kdfInput (n : Node) (p : Nat) : List Byte :=
  let far := (n.port p).farId
  "Waidin SAK".toUTF8.toList.map (fun (b : UInt8) => BitVec.ofNat 8 b.toNat) ++
  encBE 6 (min n.identity far) ++ encBE 6 (max n.identity far) ++ encBE 4 (n.reg (Reg.SPN_MACSEC_KEYNUM p)).toNat

/-- The line key of a port's line, and the SAK and salt derived from it (R179); the derivation is that of IEEE 802.1X-2020, an
uninterpreted function here (DESIGN CHOICE, log entry 11). -/
def Node.lineKey (n : Node) (p : Nat) : Nat := if n.portB p then n.boot.keyB else n.boot.keyA
def Node.sak (n : Node) (p : Nat) : BitVec 256 := Config.sakOf (n.lineKey p) (n.kdfInput p)
def Node.salt (n : Node) (p : Nat) : BitVec 96 := Config.saltOf (n.lineKey p) (n.kdfInput p)

/-- The SSCI of this node on a link: 1 for the lower identity, else 2 (R179). -/
def Node.ssci (n : Node) (p : Nat) : Nat := if n.identity < (n.port p).farId then 1 else 2

/-- The SCI of a port: the node identity and port identifier 1 to 4 (R178). -/
def Node.sci (n : Node) (p : Nat) : Nat := n.identity * 2 ^ 16 + p + 1

/-- A frame's bytes after its addresses as a protected port sends them: the 16-byte SecTAG with the SCI and the packet number,
the ciphertext with confidentiality offset 0, and the 16-byte ICV (R178). Empty on a port without protection. -/
def Node.protect (n : Node) (p : Nat) (f : Frame) : List Byte :=
  if !n.secOn p then []
  else
    let plain := (match f.tag with
      | some t => encBE 2 0x8100 ++ encBE 2 (t.pcp * 8192 + t.dei * 4096 + t.vid)
      | none => []) ++ encBE 2 f.etype ++ f.body
    let pn := n.reg64 (Reg.SPN_MACSEC_TXPN_LO p)
    let tag := encBE 2 0x88E5 ++ encBE 1 0x2C ++ encBE 1 (if plain.length < 48 then plain.length else 0) ++
      encBE 4 (pn % 2 ^ 32) ++ encBE 8 (n.sci p)
    let iv := n.salt p ^^^ BitVec.ofNat 96 (n.ssci p * 2 ^ 64 + pn)
    tag ++ (List.range (plain.length + 16)).map (Config.gcmByte (n.sak p) iv (encBE 6 f.dst ++ encBE 6 f.src ++ tag) plain)

/-! ### A frame on the wire -/

/-- A frame starts on a port at a raw time: it is handed over, and takes a packet number on a protected link (R178). -/
def Node.hand (n : Node) (p : Nat) (f : Frame) (t : Nat) (stomped : Bool) (mask : Nat) : Node :=
  let m := { n with net := { n.net with sent := n.net.sent ++ [Sent.mk p f t stomped mask (n.protect p f)] } }
  if n.secOn p then m.add64 (Reg.SPN_MACSEC_TXPN_LO p) 1 else m

/-- A frame handed to a port at a raw time and counted (R189, R440). An injection of kind 6 for the port alters its FCS
(R694). -/
def Node.putOutAt (n : Node) (p : Nat) (f : Frame) (t : Nat) : Node :=
  let hit := n.injMatch 6 p
  let mask := if hit then (n.reg Reg.TST_INJ_MASK).toNat else 0
  let m := (if hit then n.injUse else n).hand p f t false mask
  if p < 12 then (m.add64 (Reg.SPN_TX_FRM_LO p) 1).add64 (Reg.SPN_TX_OCT_LO p) (frameLen f)
  else if p = 12 then m.add64 Reg.JLK_TX_FRM_LO 1 else m

/-- A frame handed to a port now. -/
def Node.putOut (n : Node) (p : Nat) (f : Frame) : Node := n.putOutAt p f n.tm.raw

/-- A frame preempted on a port: its next fragment is counted (R176). -/
def Node.fragments (n : Node) (p k : Nat) : Node := if p < 12 ∧ 0 < k then n.addSat (Reg.SPN_TX_FRAG p) k else n

/-- A frame of a class starts on a port at a raw time and takes the wire. On a port with active preemption a preemptable frame
runs in the intervals of its gate, and an express frame that starts meanwhile preempts it (R168, R174, R177). -/
def Node.starts (n : Node) (p cls : Nat) (f : Frame) (t : Nat) : Node :=
  let m := n.putOutAt p f t
  let w := n.wireNs p f
  let o := n.port p
  if n.preempts p && decide (cls < 6) then
    let at0 := n.fineAt t / 65536
    let r := if n.gated then runOut (n.spans p cls (16 * n.tc) (at0 / n.tc).toNat) at0 w 0 else (at0 + w, 0)
    (m.onPort p fun q => { q with preEnd := t + (r.1 - at0).toNat }).fragments p r.2
  else if n.preempts p && decide (t < o.preEnd) then
    (m.onPort p fun q => { q with busy := max q.busy (t + w), preEnd := q.preEnd + w }).fragments p 1
  else m.onPort p fun q => { q with busy := max q.busy (t + w) }

/-- The frame may leave on a port at all: its link is up and the node does not enter sleep (R719); a withdrawn link carries PDELAY alone (R28), a link whose protection
does not match nothing (R181), and frames of the kinds that check 6 covers leave on joined links and the Jalder link only
(R281). -/
def Node.mayLeave (n : Node) (p : Nat) (f : Frame) : Bool :=
  let kind := if n.isSpine f && f.tag.isSome then some (decodeHdr f.body).kind else none
  n.linkUp p && n.boot.sleep == 0 && !(n.port p).secBlocked && (!n.crossed p || kind == some 0xA) &&
  (p == 12 || !(kind.any epochChecked) || n.joined p)

/-- The class of a frame that the node itself builds or passes on: that of its spine header, and TC7 for any other. -/
def Node.classOf (n : Node) (f : Frame) : Nat := if n.isSpine f && f.tag.isSome then (decodeHdr f.body).tc else 7

/-- REF starts in its crossing and TC6 frames in their slots, on a wire that R203, R204 and R208 keep clear. -/
def Node.express (n : Node) (cls : Nat) (f : Frame) : Bool :=
  cls == 6 || (cls == 7 && n.isSpine f && f.tag.isSome && (decodeHdr f.body).kind == 0)

/-! ### Egress queues (R166 to R168, R790) -/

/-- The raw time at which a waiting frame may start on its port, as things stand (R166, R168, R204). -/
def Node.startWait (n : Node) (q : Queued) : Option Nat :=
  let o := n.port q.port
  let r := max q.ready (if n.preempts q.port && q.cls == 7 then o.busy else max o.busy o.preEnd)
  (n.fits q.port q.cls (n.wireNs q.port q.frame) (n.fineAt r / 65536)).map fun t => max r (n.rawOf t)

/-- The raw time at which a frame of a class handed over now will start on a port, behind those of its class and above that
wait (R166, R204). -/
def Node.leaveIn (n : Node) (p cls : Nat) (f : Frame) : Nat :=
  let waiting := n.net.queue.filter fun q => q.port == p && decide (cls ≤ q.cls)
  let t := waiting.foldl (fun a q => (n.startWait { q with ready := max a q.ready }).getD a + n.wireNs p q.frame) n.tm.raw
  (n.startWait ⟨p, cls, localPort, t, f, none⟩).getD t

/-- The raw time at which a TC7 frame handed over now will start on a port. -/
def Node.leaveAt (n : Node) (p : Nat) (f : Frame) : Nat := n.leaveIn p 7 f

/-- The frames at the heads of a port's queues, the highest class first; within a class the first to arrive (R166, R167). -/
def Node.heads (n : Node) (p : Nat) : List Queued :=
  [7, 5, 4, 3, 2, 1, 0].filterMap fun c => n.net.queue.find? fun q => q.port == p && q.cls == c

/-- The weight of a class of TC0 to TC3 in octets (R166): `SPN_OPEN_WRR` in units of a longest frame (DESIGN CHOICE, log entry
112). -/
def Node.quantum (n : Node) (c : Nat) : Nat := 1522 * n.bits Reg.SPN_OPEN_WRR (8 * c) 8

/-- Deficit round robin from the class whose turn it is: that class while its deficit covers its head's octets, else the next
class with a frame, which gets its weight (R166). The answer is the class and the deficits. -/
def drr (quantum : Nat → Nat) (len : Nat → Option Nat) : Nat → Nat → List Nat → Option (Nat × List Nat)
  | 0, _, _ => none
  | k + 1, turn, ds =>
    let d := ds.getD turn 0
    let pass (ds : List Nat) : Option (Nat × List Nat) :=
      let next := (turn + 3) % 4
      drr quantum len k next (modifyAt ds next fun x => if (len next).isSome then x + quantum next else 0)
    match len turn with
    | some l => if l ≤ d then some (turn, modifyAt ds turn fun _ => d - l) else pass ds
    | none => pass (modifyAt ds turn fun _ => 0)

/-- The frame that a port starts next and when: the earliest, and at one instant the highest class; TC3 to TC0 share their
gate by deficit round robin (R166). -/
def Node.nextStart (n : Node) (p : Nat) : Option (Nat × Queued × Nat × List Nat) :=
  let o := n.port p
  let due := (n.heads p).filterMap fun q => (n.startWait q).map fun t => (t, q)
  let first := due.foldl (fun (a : Option (Nat × Queued)) x =>
    match a with
    | some y => if x.1 < y.1 then some x else some y
    | none => some x) none
  first.map fun x =>
    let len (c : Nat) : Option Nat := (due.find? fun y => y.1 == x.1 && y.2.cls == c).map fun y => frameLen y.2.frame
    if 4 ≤ x.2.cls then (x.1, x.2, o.turn, o.deficit)
    else match drr n.quantum len 9 o.turn o.deficit with
      | some (c, ds) => (x.1, ((due.find? fun y => y.1 == x.1 && y.2.cls == c).map fun y => y.2).getD x.2, c, ds)
      | none => (x.1, x.2, o.turn, o.deficit)

/-- A waiting frame leaves its queue. -/
def Node.unqueue (n : Node) (q : Queued) : Node := { n with net := { n.net with queue := n.net.queue.erase q } }

/-! ### Timestamp queues (R326 to R328) -/

/-- The registers that show a TSQ (R327, R343). -/
def Node.syncTsq (n : Node) (q : Nat) : Node :=
  let t := n.tm.tsqs.getD q Tsq.reset
  let st := if t.ovf then 2 else if t.entries.isEmpty then 0 else 1
  let stat := t.entries.length + st * 64 + b2n t.ovf * 256 + min t.lost 65535 * 65536
  let w := match t.entries with
    | [] => [0#32, 0#32, 0#32]
    | e :: _ => [word (e.tag % 65536 + e.port % 16 * 65536 + b2n e.gap * 2 ^ 30 + 2 ^ 31), e.stamp, word (min e.lost 65535)]
  n.setRegs (Reg.TMB_TSQ_STAT q) (word stat :: w)

/-- A stamp arrives at a TSQ (R328). -/
def Node.tsqPush (n : Node) (q tag port : Nat) (stamp : Word) : Node :=
  let t := n.tm.tsqs.getD q Tsq.reset
  let put (m : Node) (t' : Tsq) : Node := { m with tm := { m.tm with tsqs := modifyAt m.tm.tsqs q fun _ => t' } }
  let m :=
    if 32 ≤ t.entries.length then put n { t with ovf := true, lost := t.lost + 1 }
    else if t.ovf then
      (put n { entries := t.entries ++ [⟨tag, port, true, t.lost, stamp⟩], ovf := false, lost := 0 }).raise 0x3110 q t.lost
    else put n { t with entries := t.entries ++ [⟨tag, port, false, 0, stamp⟩] }
  m.syncTsq q

/-- The egress stamp of a frame that starts on its port goes to the TSQ that waits for it (R326). -/
def Node.stamped (n : Node) (q : Queued) (t : Nat) : Node :=
  match q.stamp with
  | some x => n.tsqPush x.1 x.2 q.port (n.stampAt t)
  | none => n

/-! ### Serving the queues -/

/-- The queues of a port are served up to now, the frames that can start no more discarded as they reach the head (R790). -/
def Node.serve (p : Nat) : Nat → Node → Node
  | 0, n => n
  | k + 1, n =>
    match (n.heads p).find? fun q => !n.mayLeave p q.frame || n.neverStarts p q.cls q.frame with
    | some q => Node.serve p k (if n.mayLeave p q.frame then (n.unqueue q).clsDrop p q.cls else n.unqueue q)
    | none =>
      match n.nextStart p with
      | some (t, q, turn, ds) =>
        if t ≤ n.tm.raw then
          let m := (n.unqueue q).onPort p fun o => { o with turn := turn, deficit := ds }
          Node.serve p k ((m.starts p q.cls q.frame t).stamped q t)
        else n
      | none => n

/-- Every port is served up to now. -/
def Node.serveAll (n : Node) : Node :=
  if n.net.queue.isEmpty then n
  else (List.range 13).foldl (fun m p => Node.serve p (m.net.queue.length + 1) m) n

/-! ### Sending -/

/-- A frame that entered on a fabric port leaves on a port in its class: at once on an idle wire with its gate open, else it
waits in the port's queue (R166, R168). One that can never start is discarded (R790); a frame of the node's own is admitted
as R59 gives. -/
def Node.sendFrom (n : Node) (ingress p cls : Nat) (f : Frame) : Node :=
  if !n.mayLeave p f then n
  else if n.express cls f then n.starts p cls f n.tm.raw
  else
    let q : Queued := ⟨p, cls, ingress, n.tm.raw, f, none⟩
    let quiet := !(n.net.queue.any fun x => x.port == p)
    if quiet && n.neverStarts p cls f then n.clsDrop p cls
    else if quiet && n.startWait q == some n.tm.raw then n.starts p cls f n.tm.raw
    else if ingress == localPort && decide (n.poolCells (poolOf cls) < n.poolUsed (poolOf cls) + frameCells f) then
      n.poolDrop localPort cls
    else { n with net := { n.net with queue := n.net.queue ++ [q] } }

/-- A frame of the node's own leaves on a port (R53). -/
def Node.sendGated (n : Node) (p cls : Nat) (f : Frame) : Node := n.sendFrom localPort p cls f

/-- A spine frame of the node's own leaves on a port in its class. -/
def Node.send (n : Node) (p : Nat) (f : Frame) : Node := n.sendGated p (n.classOf f) f

/-- A received spine frame leaves on a port in its class. -/
def Node.pass (n : Node) (r : Rx) (p : Nat) (f : Frame) : Node := n.sendFrom r.port p (n.classOf f) f

/-- A frame stomped on a port (R170, R171): counted in `SPN_TX_STOMP` of the egress port. -/
def Node.sendStomped (n : Node) (p : Nat) (f : Frame) : Node :=
  if n.mayLeave p f then
    let m := n.hand p f n.tm.raw true 0
    if p < 12 then m.inc (Reg.SPN_TX_STOMP p) else m
  else n

/-- A frame sent on each of several ports. -/
def Node.sendAll (n : Node) (ps : List Nat) (f : Frame) : Node := ps.foldl (fun m p => m.send p f) n

/-- The copy index of a frame that this node originates and sends directly (R152). -/
def Node.copyIndex (n : Node) : Nat := if n.paired && n.roleB then 2 else 0

/-- A spine frame that this node originates, sent on the lines it sits on and, in a pair, handed over the Jalder link for
the other line (R25); a copy that cannot be handed over is counted (R402). The copy index holds the pair role and the crossing (R152); `keep` selects the ports. -/
def Node.originateBy (n : Node) (h : SpineHdr) (payload : Bool → List Byte) (keep : Nat → Bool) : Node :=
  [false, true].foldl (fun m lineB =>
    let h0 := { h with lineB := lineB, ci := n.copyIndex }
    if n.onLine lineB then
      m.sendAll ((n.linePorts lineB).filter keep) (n.spineFrame (addrLine lineB) h0 (payload lineB))
    else if m.linkUp 12 then m.send 12 (n.spineFrame (addrLine lineB) { h0 with ci := h0.ci + 1 } (payload lineB))
    else if h.kind ∈ [0x0, 0x4, 0x5, 0x6] then m
    else m.inc Reg.JLK_XFEED_DROP) n

/-- A frame of one payload on both lines. -/
def Node.originate (n : Node) (h : SpineHdr) (payload : List Byte) (keep : Nat → Bool) : Node :=
  n.originateBy h (fun _ => payload) keep

/-- A frame sent to every node: every spine and branch port, and the partner. -/
def Node.broadcast (n : Node) (h : SpineHdr) (payload : List Byte) : Node := n.originate h payload fun _ => true

/-- A received frame sent on along its line, except on the port it came from (R156, REF rule). The forwarder keeps the source
address of the node that originated the frame (DEDUCED, log entry 113). -/
def Node.forwardLine (n : Node) (r : Rx) (lineB : Bool) : Node :=
  ((n.linePorts lineB).filter fun p => p != r.port).foldl (fun m p => m.pass r p r.frame) n

/-- The header of a frame this node originates now: its number, epoch and cycle number (R151). -/
def Node.hdr (n : Node) (kind : Nat) : SpineHdr :=
  { hdrOf kind with epoch := n.epoch, src := n.num, cycle := n.cyc.cur % 2 ^ 32 }

/-- The line a received frame travels: that of its port, or what `LINE_B` says on the Jalder link (R157). -/
def Node.rxLine (n : Node) (r : Rx) (h : SpineHdr) : Bool := if r.port = 12 then h.lineB else n.portB r.port

end Sys2Proof.Machine
end

