-- ==== Sys2Proof/Machine/InaOps.lean ====
section
/-! DEFINITION. Shared operations of the node states (R256 to R258), mastership (R257), MUTE, the time state (R317), and
TOPO frames (R268), which several chapters use. -/

namespace Sys2Proof.Machine

/-! ### Time state (R317, R342) -/

/-- The codes of `TMB_STATE.STATE`. -/
def tsFree : Nat := 0
def tsAcquire : Nat := 1
def tsSynced : Nat := 2
def tsLost : Nat := 3
def tsHoldover : Nat := 4
def tsMaster : Nat := 5

/-- The time state. -/
def Node.ts (n : Node) : Nat := n.fld Reg.TMB_STATE Fld.TMB_STATE_STATE

/-- The time state changes; `INA_STATE.SYNCED` is 1 in SYNCED and MASTER and in HOLDOVER entered from either (R317). -/
def Node.setTs (n : Node) (st : Nat) : Node :=
  let m := if st = tsHoldover ∧ n.ts ≠ tsHoldover then { n with tm := { n.tm with held := n.ts } } else n
  let m := m.setFld Reg.TMB_STATE Fld.TMB_STATE_STATE st
  let synced := st == tsSynced || st == tsMaster ||
    (st == tsHoldover && (m.tm.held == tsSynced || m.tm.held == tsMaster))
  m.setFld Reg.INA_STATE Fld.INA_STATE_SYNCED (b2n synced)

/-- The rate limit of R304: ±200 ppm in units of 2^-32. -/
def maxRate : Int := 858993

/-- A value limited to ±200 ppm (R304, R316). -/
def clampRate (r : Int) : Int := max (-maxRate) (min maxRate r)

/-- The rate changes and train time stays continuous (R305). -/
def Node.setRate (n : Node) (r : Int) : Node :=
  let r' := clampRate r
  let before := n.fine
  let bare := fineTime 0 r' n.tm.raw
  { n with tm := { n.tm with rate := r', offset := before - bare } }

/-- The wrap registers of R309 from the train time now. -/
def Node.syncEpoch (n : Node) : Node :=
  let w := n.trainNs / 2 ^ 32 * 2 ^ 32
  n.setRegs Reg.TMB_EPOCH_NS [word (nsOf w), word (secOf w), word (secOf w / 2 ^ 32)]

/-- After a step a periodic output continues with the first edge of its series at or after the new train time; the edges
that the step skips are counted (R331). -/
def Node.toutAfterStep (n : Node) (i : Nat) : Node :=
  let t := n.tm.touts.getD i Tout.reset
  if t.armed ∧ t.mode = 2 ∧ 0 < t.period then
    let unit : Int := t.period * 65536
    let k := ((n.fine - t.start * 65536 + unit - 1) / unit).toNat
    let m := { n with tm := { n.tm with touts := modifyAt n.tm.touts i fun o => { o with next := k } } }
    m.setBits (Reg.TMB_TOUT_STAT i) 16 16 (min (m.bits (Reg.TMB_TOUT_STAT i) 16 16 + (k - t.next)) 0xFFFF)
  else n

/-- After a step of more than 10 µs the audio PLL re-phases, with the TDM outputs muted, and reports the phase error at the
start, which the spec does not compute: a free value (R338). -/
def Node.audioAfterStep (n : Node) (ns : Int) : Node :=
  if ns.natAbs ≤ 10000 then n
  else
    let (m, e) := n.free
    let m := (m.setBit Reg.TMB_AUD_STAT 0 false).setBits Reg.TMB_AUD_STAT 16 16 e.toNat
    { m with tm := { m.tm with audioMute := true } }.raise 0x3109 e.toNat 0

/-- A step of train time by `d` in 2^-16 ns (R317, R318): counted, its size held, and TIME_STEPPED raised with its cause
(R345). The offset and rate from before it are kept for stamps (R308), the wrap registers follow (R309), and so do the
timed outputs (R331) and the audio clock (R338). -/
def Node.stepTime (n : Node) (d : Int) (cause : Nat) : Node :=
  let m := { n with tm := { n.tm with
    old := some ⟨n.tm.raw, n.tm.offset, n.tm.rate⟩, offset := n.tm.offset + d } }
  let ns := d / 65536
  let m := ((m.syncEpoch.inc Reg.TMB_STEP_CNT).setReg Reg.TMB_LAST_STEP (sword ns)).raise 0x3003 (detail ns) cause
  ((List.range 8).foldl Node.toutAfterStep m).audioAfterStep ns

/-! ### PDELAY requests (R310 to R312) -/

/-- A raw interval in ns scaled by (1 + rate), in 2^-16 ns (R311, R314). -/
def Node.scaled (n : Node) (ns : Int) : Int := ns * 65536 + ns * 65536 * n.tm.rate / 2 ^ 32

/-- The payload of a PDELAY frame (R310). -/
def Node.pdPayload (n : Node) (type p exch requester responder : Nat) (turn : Int) : List Byte :=
  encBE 1 type ++ encBE 1 (p + n.st * 16) ++ encBE 2 exch ++ encBE 6 requester ++ encBE 6 responder ++
  encBE 8 (BitVec.ofInt 64 turn).toNat

/-- A PDELAY frame on a port (R310). -/
def Node.pdFrame (n : Node) (p : Nat) (payload : List Byte) : Frame :=
  let lineB := if p = 12 then n.roleB else n.portB p
  n.spineFrame addrLocal { n.hdr 0xA with lineB := lineB, ci := n.copyIndex } payload

/-- A port starts an exchange (R311). -/
def Node.pdStart (n : Node) (p : Nat) : Node :=
  if n.linkUp p && (n.isLinePort p || p == 12) && decide (stLink ≤ n.st) then
    let k := (n.port p).exchNext
    let f := n.pdFrame p (n.pdPayload 1 p k n.identity 0 0)
    let m := n.onPort p fun q => { q with exch := q.exch ++ [(k, n.leaveAt p f)], exchNext := (k + 1) % 65536 }
    m.send p f
  else n

/-- The node passes to a state (R256), of which its partner hears at once in a PDELAY request (R310). -/
def Node.setSt (n : Node) (st : Nat) : Node :=
  let m := n.showSt st
  if n.st = st then m else m.pdStart 12

/-! ### TOPO frames (R268) -/

/-- The identity of the current master. -/
def Node.masterId (n : Node) : Nat :=
  n.bits Reg.INA_MASTER_ID_HI 0 16 * 2 ^ 32 + (n.reg Reg.INA_MASTER_ID_LO).toNat

/-- The claim value of the current master (rank and identity). -/
def Node.masterValue (n : Node) : Nat := n.bits Reg.INA_MASTER_ID_HI 16 8 * 2 ^ 48 + n.masterId

/-- The current master is set (R258). -/
def Node.setMaster (n : Node) (value : Nat) : Node :=
  (n.setReg Reg.INA_MASTER_ID_LO (word value)).setReg Reg.INA_MASTER_ID_HI (word (value / 2 ^ 32))

/-- The 16-byte header of a TOPO payload. -/
def Node.topoHead (n : Node) (type flags round count segment path : Nat) : List Byte :=
  encBE 1 type ++ encBE 1 flags ++ encBE 2 round ++ encBE 2 count ++ encBE 2 segment ++ encBE 6 n.masterId ++
  encBE 1 path ++ encBE 1 0

/-- The line of a port as seen by a frame sent on it; frames over the Jalder link are marked with the other line. -/
def Node.lineOut (n : Node) (p : Nat) : Bool := if p = 12 then !n.roleB else n.portB p

/-- A spine frame sent on one port, with that port's line. The copy index of a frame that this node originates holds its pair
role and the crossing of the Jalder link (R152). -/
def Node.sendOn (n : Node) (p : Nat) (h : SpineHdr) (payload : List Byte) : Node :=
  n.send p (n.spineFrame (addrLine (n.lineOut p)) { h with lineB := n.lineOut p } payload)

/-- A frame that this node originates on one port. -/
def Node.startOn (n : Node) (p : Nat) (h : SpineHdr) (payload : List Byte) : Node :=
  n.sendOn p { h with ci := n.copyIndex + b2n (p == 12) } payload

/-- A received frame sent on out of one port with that port's line, from the node that originated it (log entry 113). -/
def Node.relayOn (n : Node) (r : Rx) (p : Nat) (h : SpineHdr) (payload : List Byte) : Node :=
  n.pass r p { n.spineFrame (addrLine (n.lineOut p)) { h with lineB := n.lineOut p } payload with src := r.frame.src }

/-- A TOPO frame sent inward: out of the port on which the REF of the current cycle came (R270). -/
def Node.topoInward (n : Node) (p type flags round count segment path : Nat) (body : List Byte) : Node :=
  n.startOn p (n.hdr 0x5) (n.topoHead type flags round count segment path ++ body)

/-- The master wants a TOPO round (R271, R272, R290). -/
def Node.wantRound (n : Node) : Node := { n with ina := { n.ina with wanted := true, trigger := n.trainNs } }

/-- A notice reaches the master (R272): the round waits until three cycles after the last notice (R271). -/
def Node.noteNotice (n : Node) : Node := { n.wantRound with ina := { n.wantRound.ina with lastNotice := n.trainNs } }

/-- A notice to the master (R272): cause 1 link formed, 2 link ended, 3 foreign master, 4 partner change. The master
itself notes the instant (R271). -/
def Node.notice (n : Node) (cause port : Nat) : Node :=
  if n.master then n.noteNotice
  else if n.st < stIntegrate then n
  else n.topoInward n.cyc.refPort 3 0 0 0 0 (b2n (n.lineOut n.cyc.refPort) * 2)
    (encBE 6 n.identity ++ encBE 1 cause ++ encBE 1 port)

/-! ### Mastership and MUTE (R257) -/

/-- A cycle master gives up mastership (R257): no REF for any later cycle, `MASTER` cleared, MASTER_DEMOTED with both
detail words zero, and the time state passes to HOLDOVER with f the rate applied as master (R317). -/
def Node.giveUp (n : Node) : Node :=
  if n.master then
    let m := (n.setFld Reg.INA_STATE Fld.INA_STATE_MASTER 0).setFld Reg.CYC_STATE Fld.CYC_STATE_MASTER 0
    let m := m.setFld Reg.PLC_STATE Fld.PLC_STATE_MASTER 0
    let m := { m with tm := { m.tm with freq := m.tm.rate, slew := none } }
    ((m.setFld Reg.TMB_STATE Fld.TMB_STATE_SLEW 0).setTs tsHoldover).raise 0x2901 0 0
  else n

/-- The node claims no more as a backup (R262, R265). -/
def Node.dropClaim (n : Node) : Node := { n with ina := { n.ina with hold := false } }

/-- The node loses its mode and enters MUTE (R256, R257); a node in MUTE never claims (R262). -/
def Node.enterMute (n : Node) : Node :=
  if n.st = stRun then (n.giveUp.setSt stMute).dropClaim else n.giveUp.dropClaim

/-- A cause of MUTE holds: the mode (R230, R244), the cycle (R211), train time (R317), an engine (R68) or a pair identity
conflict (R19). -/
def Node.muteCause (n : Node) : Bool :=
  n.fld Reg.CYC_STATE Fld.CYC_STATE_MUTE_MODE == 1 || n.fld Reg.CYC_STATE Fld.CYC_STATE_MUTE_CYC == 1 ||
  n.fld Reg.TMB_STATE Fld.TMB_STATE_MUTE_SYNC == 1 ||
  ([10, 11, 14, 15].any fun e => !n.bit Reg.TOP_ENG_RUN e) ||
  n.ina.conflicts.contains (n.reg Reg.TOP_PAIR_ID).toNat ||
  (n.fld Reg.PLC_STATE Fld.PLC_STATE_GAP == 1 && n.plc.statusEpoch != some n.epoch)

/-- A node in MUTE whose causes have all cleared returns to RUN (R258). -/
def Node.leaveMute (n : Node) : Node := if n.st = stMute && !n.muteCause then n.setSt stRun else n

/-- The node enters LISTEN and starts its listening time (R261); the claim it made and the numbering parts it held are
dropped. -/
def Node.toListen (n : Node) : Node :=
  let m := n.setSt stListen
  { m with ina := { m.ina with waitFrom := m.tm.raw, claims := 0, hold := false, result := none, parts := [] } }

/-- A link has become a member link: the master hears of it (R272), and a node in LINK goes on to LISTEN (R258). -/
def Node.memberFormed (n : Node) (p : Nat) : Node :=
  if n.st = stLink then n.toListen else n.notice 1 p

/-- An attribute of a numbering: the entry of an identity. -/
def Node.entryOf (n : Node) (id : Nat) : Option NumEntry := n.ina.table.find? fun e => e.identity == id

/-- The identity that a node number names in the epoch of a frame: the current table, or within the bleed window the
previous one (R280). -/
def Node.nodeIn (n : Node) (epoch num : Nat) : Option NumEntry :=
  if epoch = n.epoch then n.ina.table.find? fun e => e.num == num
  else n.ina.prev.find? fun e => e.num == num

/-- The identity of the partner node, 0 for none: the node of the numbering that shares the pair identity cannot be seen
in a numbering, so the PDELAY exchanges on the Jalder link give it (R310). -/
def Node.partnerId (n : Node) : Nat := if n.paired then (n.port 12).farId else 0

/-- Every member link and the Jalder link are down (R258). -/
def Node.allDown (n : Node) : Bool := !n.linkUp 12 && !((List.range 12).any n.member)

/-- The node returns to LINK when its last member link and its Jalder link are down; a master gives up and a claimant stops
(R256 to R258). -/
def Node.checkAllDown (n : Node) : Node :=
  if stListen ≤ n.st ∧ n.allDown then
    let m := n.giveUp.setSt stLink
    { m.dropClaim with net := { m.net with wakeAutoDone := false } }
  else n

end Sys2Proof.Machine
end

