-- ==== Sys2Proof/Machine/Receive.lean ====
section
/-! DEFINITION. Reception: the checks of R158 in their order, what a failed one counts and reports, the control pool, and the
shared front of every spine frame's reception. -/

namespace Sys2Proof.Machine

/-! ### Receive checks (R158) -/

/-- The first check of R158 that a frame fails. -/
inductive RxFail where
  | length
  | fcs
  | stomped
  | macsec
  | macsecPlain
  | macsecKey
  | blocked
  | spineOnCar
  | header
  | epoch
  | check
  deriving DecidableEq, Repr

/-- Bytes of a received frame as received, MACsec included (R149, R178). -/
def rxWireLen (r : Rx) : Nat := (frameLen r.frame) + (match r.sec with | .plain => 0 | .secTag _ _ _ => 32)

/-- Check 1 (R149). -/
def Node.lenBad (n : Node) (r : Rx) : Bool :=
  decide (rxWireLen r < 64) || decide (rxWireLen r > if n.secOn r.port then 1554 else 1522)

/-- Check 3 (R178 to R181): a protected link accepts only protected frames with the key number in use, with a good
integrity check and a packet number above every one accepted before (replay window 0). -/
def Node.secFail (n : Node) (r : Rx) : Option RxFail :=
  if n.secOn r.port then
    match r.sec with
    | .plain => some .macsecPlain
    | .secTag k pn ok =>
      if k ≠ (n.reg (Reg.SPN_MACSEC_KEYNUM r.port)).toNat then some .macsecKey
      else if !ok || (match (n.port r.port).secPn with | some q => decide (pn ≤ q) | none => false)
          || decide (rxWireLen r < 96) then some .macsec
      else if (n.port r.port).secBlocked then some .blocked
      else none
  else match r.sec with
    | .plain => none
    | .secTag _ _ _ => some .blocked

/-- Check 5 (R155, R157). Reserved bits are ignored. -/
def Node.hdrBad (n : Node) (r : Rx) (h : SpineHdr) : Bool :=
  h.ver != 1 || decide (h.kind > 0xD) || decide (h.tc > 7) || kindClass h.kind != some h.tc || r.frame.tag.isNone ||
  r.frame.dst == addrJalder ||
  (r.port != 12 && h.kind != 0xA && h.lineB != n.portB r.port)

/-- Check 6 (R280, R281, R296). -/
def Node.epochBad (n : Node) (h : SpineHdr) : Bool :=
  epochChecked h.kind && h.epoch != n.epoch &&
  !(n.fld Reg.INA_STATE Fld.INA_STATE_BLEED == 1 && h.epoch == (n.reg Reg.INA_PREV_EPOCH).toNat % 65536)

/-- The first check of R158 that fails. A Jalder control frame on port 12 goes to the Jalder control logic without
checks 4 to 7 (R155). -/
def Node.rxFail (n : Node) (r : Rx) : Option RxFail :=
  let h := decodeHdr r.frame.body
  if n.lenBad r then some .length
  else match r.fcs with
    | .stomped => some .stomped
    | .bad => some .fcs
    | .good =>
      match n.secFail r with
      | some e => some e
      | none =>
        if r.port = 12 ∧ r.frame.dst = addrJalder then none
        else if (n.isSpine r.frame || r.frame.dst == addrWake) && decide (4 ≤ r.port) && decide (r.port < 12) &&
            n.carKind r.port != 1 then some .spineOnCar
        else if r.frame.dst = addrJalder then some .header
        else if n.isSpine r.frame then
          if n.hdrBad r h then some .header
          else if n.epochBad h then some .epoch
          else if h.check ≠ spineCheck h (payloadOf r.frame.body) then some .check
          else none
        else none

/-- MACSEC_MISMATCH (R181): the port carries nothing until its next link-up, and a member link ends (R272). -/
def Node.secMismatch (n : Node) (p cause : Nat) : Node :=
  if (n.port p).secBlocked then n
  else
    let was := n.member p
    let m := ((n.setFld (Reg.SPN_STAT p) Fld.SPN_STAT_MACSEC 0).onPort p fun q => { q with secBlocked := true }).raise 0x1A03 p cause
    if was then (m.notice 2 p).checkAllDown else m

/-- The fragments in which a frame arrived are counted (R176). -/
def Node.rxFrags (n : Node) (r : Rx) : Node :=
  if r.port < 12 ∧ 0 < r.frags then n.addSat (Reg.SPN_RX_FRAG r.port) r.frags else n

/-- A frame that fails a check is counted under that check alone and reported as its rule gives (R158, R161, R180,
R181, R197). -/
def Node.rxCount (n : Node) (r : Rx) (e : RxFail) : Node :=
  let p := r.port
  match e with
  | .length => if p = 12 then n.inc Reg.JLK_RX_LEN_ERR else n.inc (Reg.SPN_RX_LEN_ERR p)
  | .fcs => if p = 12 then n.inc Reg.JLK_RX_FCS_ERR else n.inc (Reg.SPN_RX_FCS_ERR p)
  | .stomped => if p = 12 then n.inc Reg.JLK_RX_FCS_ERR else n.inc (Reg.SPN_RX_STOMP p)
  | .macsec => (n.inc (Reg.SPN_MACSEC_FAIL p)).raisePort 0x1904 p
  | .macsecPlain => (n.inc (Reg.SPN_MACSEC_FAIL p)).secMismatch p 1
  | .macsecKey => ((n.inc (Reg.SPN_MACSEC_FAIL p)).raisePort 0x1904 p).secMismatch p 2
  | .blocked => n
  | .spineOnCar => (n.inc (Reg.SPN_SPINE_DROP p)).raisePort 0x190A p
  | .header => if p = 12 then n else (n.inc (Reg.SPN_RX_HDR_ERR p)).raisePort 0x1907 p
  | .epoch => if p = 12 then n else n.inc (Reg.SPN_RX_EPOCH_DROP p)
  | .check =>
    let m := if p = 12 then n else n.inc (Reg.SPN_RX_CHECK_ERR p)
    m.checkMismatch 5 (decodeHdr r.frame.body).sid p 0

/-- A frame received without error: counted, and on a protected link its packet number is taken and the link passes
(R180, R181, R189). -/
def Node.rxGood (n : Node) (r : Rx) : Node :=
  let p := r.port
  let m := if p = 12 then n.add64 Reg.JLK_RX_FRM_LO 1
    else ((n.add64 (Reg.SPN_RX_FRM_LO p) 1).add64 (Reg.SPN_RX_OCT_LO p) (frameLen r.frame)).rxFrags r
  match r.sec with
  | .plain => m
  | .secTag _ pn _ => (m.onPort p fun q => { q with secPn := some pn }).setFld (Reg.SPN_STAT p) Fld.SPN_STAT_MACSEC 1

/-- The reason of FRAME_STOMPED for a check that fails at the end of the frame (R172). -/
def stompReason : RxFail → Nat
  | .length => 7
  | .fcs => 1
  | .macsec => 2
  | .macsecPlain => 2
  | .macsecKey => 2
  | .check => 3
  | _ => 0

/-! ### The control pool (R57, R61) -/

/-- A TC7 frame is taken when the control pool has room for the whole of it (R59); otherwise it is discarded, counted and
reported (R61). -/
def ctrlAdmit (r : Rx) : Bool := decide (frameCells r.frame ≤ r.room)

/-- CONTROL_POOL_DROP (R61). -/
def Node.ctrlDrop (n : Node) (r : Rx) : Node := n.ctrlFull r.port

/-- A store-and-forward frame below TC6 that finds no room is discarded, counted and reported (R59, R60). -/
def Node.noRoom (n : Node) (r : Rx) (cls : Nat) : Node :=
  (if cls < 4 then n.armOpen r.room else n).poolDrop r.port cls

/-- A port at the far end of an ECHO loop returns every frame it receives and counts it (R687). -/
def Node.echoBack (n : Node) (r : Rx) : Node :=
  if n.echoing r.port then (n.putOut r.port r.frame).inc (Reg.TST_ECHO_RET r.port) else n

/-- The shared front of every spine frame's reception: time moves to the ingress stamp, the checks of R158 run, and a
frame of the expected kind that passes them goes to its handler. A withdrawn link carries PDELAY alone (R28), and a port in a
loop ECHO frames alone (R680). -/
def Node.receive (n : Node) (r : Rx) (kind : Nat) (act : Node → SpineHdr → List Byte → Node) : Node :=
  let m := (n.at r.stamp).echoBack r
  match m.rxFail r with
  | some e => m.rxCount r e
  | none =>
    let h := decodeHdr r.frame.body
    let g := m.rxGood r
    if g.isSpine r.frame && h.kind == kind && !(g.crossed r.port && kind != 0xA) && !(g.looped r.port && kind != 0xC) then
      if h.tc = 7 then
        if ctrlAdmit r then act g h (payloadOf r.frame.body) else g.ctrlDrop r
      else if !ctrlAdmit r then g.noRoom r h.tc
      else if epochChecked kind && r.port != 12 && !g.joined r.port then g
      else act g h (payloadOf r.frame.body)
    else g

end Sys2Proof.Machine
end

