-- ==== Sys2Proof/Machine/HostRing.lean ====
section
/-! DEFINITION. The host interface's shared operations: interrupts, refused accesses, completion and event rings, the
journal, and the checks that every command passes (R631 to R659, R787). -/

namespace Sys2Proof.Machine

/-- The engine has failed (R67). -/
def Node.engFailed (n : Node) (e : Nat) : Bool := n.bit Reg.TOP_ENG_FAULT e || !n.bit Reg.TOP_ENG_RUN e

/-! ### Interrupts (R628, R635, R669) -/

/-- A dword of a function's MSI-X table (R669): the address, the data and the vector control of each vector; a vector is masked
after reset, as PCI Express gives (PRESUMED, log entry 120). -/
def Node.msixDword (n : Node) (fn off : Nat) : Word :=
  ((n.host.msixTable.find? fun x => x.1 == fn && x.2.1 == off).map fun x => x.2.2).getD (if off % 16 = 12 then 1#32 else 0#32)

/-- A dword of a function's MSI-X table written. -/
def Node.setMsix (n : Node) (fn off : Nat) (v : Word) : Node :=
  { n with host := { n.host with
      msixTable := n.host.msixTable.filter (fun x => !(x.1 == fn && x.2.1 == off)) ++ [(fn, off, v)] } }

/-- A vector is masked: bit 0 of its vector control. -/
def Node.msixMasked (n : Node) (fn vec : Nat) : Bool := (n.msixDword fn (16 * vec + 12)).toNat.testBit 0

/-- A vector's message leaves: its data is written to its address (R635, R669). -/
def Node.msixSend (n : Node) (fn vec : Nat) : Node :=
  { n with host := { n.host with
      msix := n.host.msix ++ [(fn, vec)]
      dma := n.host.dma ++ [HostWrite.mk fn
        ((n.msixDword fn (16 * vec)).toNat + (n.msixDword fn (16 * vec + 4)).toNat * 2 ^ 32)
        (encLE 4 (n.msixDword fn (16 * vec + 8)).toNat)] } }

/-- A vector fires, or becomes pending while it is masked (R669). -/
def Node.msixFire (n : Node) (fn vec : Nat) : Node :=
  if !n.msixMasked fn vec then n.msixSend fn vec
  else if n.host.msixPend.contains (fn, vec) then n
  else { n with host := { n.host with msixPend := n.host.msixPend ++ [(fn, vec)] } }

/-- A vector that is no longer masked sends the message that waited (R669). -/
def Node.msixUnmask (n : Node) (fn vec : Nat) : Node :=
  if n.host.msixPend.contains (fn, vec) && !n.msixMasked fn vec then
    { n with host := { n.host with msixPend := n.host.msixPend.erase (fn, vec) } }.msixSend fn vec
  else n

/-- A dword of BAR4 written: the table takes it, with the reserved bits of the vector control zero; the pending bits are
read-only, and every other offset ignores writes (R669). -/
def Node.bar4Write (n : Node) (fn off : Nat) (v : Word) : Node :=
  if 512 ≤ off ∨ off % 4 ≠ 0 then n
  else (n.setMsix fn off (if off % 16 = 12 then v &&& 1#32 else if off % 16 = 0 then v &&& 0xFFFFFFFC#32 else v)).msixUnmask fn (off / 16)

/-- A dword of BAR4 read (R669). -/
def Node.bar4Read (n : Node) (fn off : Nat) : Word :=
  if off % 4 ≠ 0 then 0#32
  else if off < 512 then n.msixDword fn off
  else if off = 0x2000 then
    word (((n.host.msixPend.filter fun x => x.1 == fn).map fun x => 2 ^ x.2).foldl (· + ·) 0)
  else 0#32

/-- A function's MSI-X table and pending bits are reset with the function. -/
def Node.msixReset (n : Node) (fn : Nat) : Node :=
  { n with host := { n.host with
      msixTable := n.host.msixTable.filter (fun x => x.1 != fn)
      msixPend := n.host.msixPend.filter fun x => x.1 != fn } }

/-- A bit of `HST_IRQ_STAT` is set and, for a PCIe context, MSI-X vector `vec` fires. -/
def Node.irq (n : Node) (c bit vec : Nat) : Node :=
  let m := n.setBit (Reg.HST_IRQ_STAT c) bit true
  if c < 4 then m.msixFire c vec else m

/-- `SPIn_INT_N` is asserted (R628). -/
def Node.spiInt (n : Node) (port : Nat) : Bool :=
  Nat.land (n.reg (Reg.HST_IRQ_STAT (4 + port))).toNat (n.reg (Reg.HST_IRQ_EN (4 + port))).toNat != 0

/-! ### Refused accesses (R650 to R652) -/

/-- The registers that show the violation log. -/
def Node.syncViol (n : Node) : Node :=
  let e := n.host.viol.headD ⟨0#32, 0#32, 0#32, 0#32⟩
  let st := n.host.viol.length + (if n.host.violLost = 0 then 0 else 64) + min n.host.violLost 65535 * 65536
  n.setRegs Reg.WLD_VIOL_STAT [word st, e.w0, e.w1, e.w2, e.w3]

/-- A refused access (R650): counted, logged, reported at most once per 1,024 basic cycles for each requester and, for a
world refusal, notified (R651). `kind` and `cause` are the fields of log word W0. -/
def Node.refuse (n : Node) (req : Nat) (write : Bool) (kind cause addr what : Nat) : Node :=
  let lost := n.host.violLost
  let w0 := req % 256 + b2n write * 256 + kind * 512 + cause * 4096 + b2n (lost != 0) * 2 ^ 30 + 2 ^ 31
  let m := n.inc Reg.WLD_REFUSED
  let k : Node :=
    if m.host.viol.length < 32 then
      let e : Viol := ⟨word w0, word addr, word (min lost 65535 + what % 65536 * 65536), m.stamp⟩
      let m' := { m with host := { m.host with viol := m.host.viol ++ [e], violLost := 0 } }
      if lost = 0 then m' else m'.raise 0x7902 0 lost
    else { m with host := { m.host with violLost := m.host.violLost + 1 } }
  let k := k.syncViol
  let code := if cause = 1 then 0x7A01 else 0x7903
  let k := k.raiseCounted code req k.tc w0
  if cause = 1 ∧ k.bit Reg.WLD_CFG 19 then k.irq (k.bits Reg.WLD_CFG 16 3) 5 5 else k

/-! ### Rings (R631 to R635) -/

/-- Whether the ring pair's submission ring is enabled, and whether its completion ring is. -/
def Node.sqOn (n : Node) (c r : Nat) : Bool := n.reg (Reg.HST_SQ_SIZE c r) != 0#32
def Node.cqOn (n : Node) (c r : Nat) : Bool := n.reg (Reg.HST_CQ_SIZE c r) != 0#32

/-- Free entries of a ring of which the node is the writer: it holds at most size - 1 (R632). -/
def ringFree (size head tail : Nat) : Nat := if size = 0 then 0 else size - 1 - (tail + size - head) % size

/-- Free entries of a completion ring. -/
def Node.cqFree (n : Node) (c r : Nat) : Nat :=
  ringFree (n.reg (Reg.HST_CQ_SIZE c r)).toNat (n.reg (Reg.HST_CQ_HEAD c r)).toNat (n.reg (Reg.HST_CQ_TAIL c r)).toNat

/-- The PHASE of the pass in progress of a ring (ring 4 is the event ring), R634. -/
def Node.phase (n : Node) (c r : Nat) : Bool := !(n.host.phase0.contains (c, r))

/-- PHASE is inverted at a wrap. -/
def Node.flipPhase (n : Node) (c r : Nat) : Node :=
  { n with host := { n.host with
      phase0 := if n.host.phase0.contains (c, r) then n.host.phase0.filter (· != (c, r)) else n.host.phase0 ++ [(c, r)] } }

/-- 32 bytes written at an index of a ring: into host memory for a PCIe context, into ring memory for an SPI one. `off` is
the place of the ring in the ring memory (R660). -/
def Node.ringWrite (n : Node) (c : Nat) (base off idx : Nat) (bytes : List Byte) : Node :=
  if c < 4 then { n with host := { n.host with dma := n.host.dma ++ [HostWrite.mk c (base + idx * 32) bytes] } }
  else if c < 6 then
    n.setRegs (Reg.HST_SPI_RING + (c - 4) * 0x10000 + off + idx * 32) (wordsLE bytes (bytes.length / 4))
  else n

/-- A CQ entry that holds its flags byte last (R634): bytes 0 to 30, then the flags with PHASE in bit 0. -/
def withFlags (bytes : List Byte) (flags : Nat) (phase : Bool) : List Byte :=
  bytes ++ [BitVec.ofNat 8 (flags + b2n phase)]

/-- The entry `k` places after the tail of a completion ring is written, with the PHASE of its pass; for a host-frame
context the entry is held for a completion frame (R630, R634). -/
def Node.cqPut (n : Node) (c r k : Nat) (bytes : List Byte) (flags : Nat) : Node :=
  if 6 ≤ c then
    { n with host := { n.host with held := n.host.held ++ [HeldEntry.mk c false (withFlags bytes flags true) n.tm.raw] } }
  else
    let size := (n.reg (Reg.HST_CQ_SIZE c r)).toNat
    let pos := (n.reg (Reg.HST_CQ_TAIL c r)).toNat + k
    n.ringWrite c (n.reg64 (Reg.HST_CQ_BASE_LO c r)) (r * 0x2000 + 0x1000) (if pos < size then pos else pos - size)
      (withFlags bytes flags (n.phase c r == decide (pos < size)))

/-- The tail of a completion ring moves on by `k` entries; PHASE is inverted at the wrap (R634). -/
def Node.cqAdvance (n : Node) (c r k : Nat) : Node :=
  if 6 ≤ c then n
  else
    let size := (n.reg (Reg.HST_CQ_SIZE c r)).toNat
    let pos := (n.reg (Reg.HST_CQ_TAIL c r)).toNat + k
    if pos < size then n.setReg (Reg.HST_CQ_TAIL c r) (word pos)
    else (n.setReg (Reg.HST_CQ_TAIL c r) (word (pos - size))).flipPhase c r

/-- The CQ signal of a ring, coalesced as `HST_CQ_IRQ` gives (R635): `k` new entries. -/
def Node.cqSignal (n : Node) (c r k : Nat) : Node :=
  let count := n.bits (Reg.HST_CQ_IRQ c r) 0 8
  let old := (n.host.coalesce.find? fun e => e.ctx == c && e.ring == r).getD ⟨c, r, 0, n.tm.raw⟩
  let others := n.host.coalesce.filter fun e => !(e.ctx == c && e.ring == r)
  if old.count + k ≥ count then { n with host := { n.host with coalesce := others } }.irq c r r
  else { n with host := { n.host with coalesce := others ++ [{ old with count := old.count + k }] } }

/-- A completion of a submission (R634, R637): the main entry with result words 0 to 3, and up to three extension
entries with 7 further words each. The entries lie one after another; the extensions are written first. With SC0 failed nothing
is posted (R68). -/
def Node.post (n : Node) (c r seq opcode status prior flags : Nat) (res : List Word) : Node :=
  if n.engFailed 0 ∨ (c < 6 ∧ !n.cqOn c r) then n
  else
    let ext := min ((res.length - 4 + 6) / 7) 3
    let w (i : Nat) : List Byte := encLE 4 (res.getD i 0#32).toNat
    let main := encLE 4 seq ++ encLE 2 opcode ++ encLE 1 status ++ encLE 1 prior ++ w 0 ++ w 1 ++ w 2 ++ w 3 ++
      encLE 4 n.stamp.toNat ++ encLE 1 ext ++ zeros 2
    let exts := (List.range ext).map fun x =>
      ((List.range 7).flatMap fun i => w (4 + 7 * x + i)) ++ zeros 3
    let putExts (k : Node) : Node :=
      (exts.zipIdx).foldl (fun q b => q.cqPut c r (b.2 + 1) b.1 (2 + r * 16)) k
    let putMain (k : Node) : Node := k.cqPut c r 0 main (flags * 4 + r * 16)
    let m := if 6 ≤ c then putExts (putMain n) else putMain (putExts n)
    let m := m.cqAdvance c r (1 + ext)
    let m := if c < 6 then m.cqSignal c r (1 + ext) else m
    let m := m.inc (Reg.HST_CMD_CNT c)
    if 2 ≤ status ∧ status ≤ 6 then m.inc (Reg.HST_REJ_CNT c) else m

/-! ### The journal (R653 to R657) -/

/-- A precedes B in sequence order (R639). -/
def seqPrecedes (a b : Nat) : Bool :=
  let d := (b + 2 ^ 32 - a % 2 ^ 32) % 2 ^ 32
  decide (1 ≤ d) && decide (d < 2 ^ 31)

/-- The index of entry `k` of a context's share, in acceptance order from the oldest held. -/
def Node.jrnIndex (n : Node) (c k : Nat) : Nat :=
  let sh := n.host.shares.getD c ⟨0, 0⟩
  let size := (n.reg (Reg.JRN_CTX_SIZE c)).toNat
  (n.reg (Reg.JRN_CTX_BASE c)).toNat + (sh.next + size - sh.count + k) % max size 1

/-- The fields of a journal entry. -/
def Node.jrnWord (n : Node) (i w : Nat) : Word := n.reg (Reg.JRN_ENTRY i + 4 * w)
def Node.jrnSeq (n : Node) (i : Nat) : Nat := (n.jrnWord i 0).toNat
def Node.jrnOutcome (n : Node) (i : Nat) : Nat := (n.jrnWord i 1).toNat / 2 ^ 24
def Node.jrnValid (n : Node) (i : Nat) : Bool := (n.jrnWord i 3).toNat.testBit 16
def Node.jrnCorrupt (n : Node) (i : Nat) : Bool := (n.jrnWord i 3).toNat.testBit 17

/-- The entry check of a journal entry (R653): CRC-32C over bytes 0x00 to 0x3B. -/
def Node.jrnCheck (n : Node) (i : Nat) : Word :=
  word (crc32c ((List.range 15).flatMap fun w => encLE 4 (n.jrnWord i w).toNat))

/-- A journal entry given its words 0 to 14 and a fresh entry check. -/
def Node.jrnSeal (n : Node) (i : Nat) : Node := (n.setReg (Reg.JRN_ENTRY i + 60) (n.jrnCheck i)).injSram 6 (i * 8) 8

/-- The argument digest (R653). -/
def argDigest (e : SqEntry) : Nat :=
  crc32c ((List.range 14).flatMap fun i => encLE 4 (e.args.getD i 0#32).toNat)

/-- `JRN_CTX_OLDEST` and `JRN_CTX_NEWEST` of a context. -/
def Node.syncJrn (n : Node) (c : Nat) : Node :=
  let sh := n.host.shares.getD c ⟨0, 0⟩
  if sh.count = 0 then (n.setReg (Reg.JRN_CTX_OLDEST c) 0#32).setReg (Reg.JRN_CTX_NEWEST c) 0#32
  else (n.setReg (Reg.JRN_CTX_OLDEST c) (n.jrnWord (n.jrnIndex c 0) 0)).setReg (Reg.JRN_CTX_NEWEST c)
    (n.jrnWord (n.jrnIndex c (sh.count - 1)) 0)

/-- The journal entry of a context that holds a sequence and may yield DUPLICATE (R641, R657). -/
def Node.jrnFind (n : Node) (c seq : Nat) : Option Nat :=
  ((List.range (n.host.shares.getD c ⟨0, 0⟩).count).map (n.jrnIndex c)).find? fun i =>
    n.jrnValid i && !n.jrnCorrupt i && n.jrnSeq i == seq

/-- The waiting state of R121. -/
def Node.waiting (n : Node) : Bool := n.fld Reg.IMG_STATE Fld.IMG_STATE_STATE == 1

/-- A command is journalled at acceptance with outcome 0xFE (R655): the next entry of the share is taken, and overwriting
one that the host has not reconciled is a wrap. -/
def Node.jrnAccept (n : Node) (c r : Nat) (e : SqEntry) : Node × Nat :=
  let sh := n.host.shares.getD c ⟨0, 0⟩
  let size := (n.reg (Reg.JRN_CTX_SIZE c)).toNat
  let i := (n.reg (Reg.JRN_CTX_BASE c)).toNat + sh.next
  let ack := (n.reg (Reg.JRN_CTX_ACK c)).toNat
  let old := n.jrnSeq i
  let m := if n.jrnValid i && (ack == 0 || seqPrecedes ack old) then
      (n.inc (Reg.JRN_CTX_WRAP c)).raise 0x7101 c old else n
  let info := c + b2n (n.ctxSecure c) * 8 + r * 16 + (e.flags % 2) * 128
  let ns := m.trainNs
  let m := m.setRegs (Reg.JRN_ENTRY i)
    [word e.seq, word (e.opcode % 65536 + info * 65536 + 0xFE * 2 ^ 24), word (argDigest e),
     word (m.epoch + 65536 + b2n m.waiting * 2 ^ 18), word (secOf ns), word (secOf ns / 2 ^ 32), word (nsOf ns),
     0#32, 0#32, 0#32, 0#32, 0#32, 0#32, 0#32, 0#32]
  let m := m.jrnSeal i
  let m := { m with host := { m.host with shares := modifyAt m.host.shares c fun s =>
    { next := (s.next + 1) % max size 1, count := min (s.count + 1) size } } }
  (m.syncJrn c, i)

/-- The outcome, the completion time and result words 0 to 3 of a journalled command (R655). -/
def Node.jrnClose (n : Node) (i status : Nat) (res : List Word) : Node :=
  let ns := n.trainNs
  let m := n.setBits (Reg.JRN_ENTRY i + 4) 24 8 status
  let m := m.setRegs (Reg.JRN_ENTRY i + 28)
    [word (secOf ns), word (secOf ns / 2 ^ 32), word (nsOf ns), res.getD 0 0#32, res.getD 1 0#32, res.getD 2 0#32,
     res.getD 3 0#32]
  m.jrnSeal i

/-- The commands that are not journalled (R656). -/
def unjournalled (opcode : Nat) : Bool := opcode == 0x0102 || opcode == 0x0B01 || opcode == 0x0B02

/-! ### Completion -/

/-- The bytes that a command names as its source (R134): 0 the staging buffer, 1 host memory, which only PCIe contexts
have; any other value is no source. -/
def Node.sourceBytes (n : Node) (c : Cmd) (src addr len : Nat) : Option (List Byte) :=
  if src = 0 then some (Sparse.range (fun _ => 0#8) n.mem.stage addr len)
  else if src = 1 ∧ c.ctx < 4 then some (slice c.data 0 len)
  else none

/-- The command in flight that a submission belongs to. -/
def Node.flightOf (n : Node) (c seq : Nat) : Option Flight := n.host.flight.find? fun f => f.ctx == c && f.seq == seq

/-- A command completes (R637, R641, R645, R655): its outcome is journalled, its completion is posted unless its context
has been reset, the resubmissions that wait for it complete with DUPLICATE, and it is in flight no more. -/
def Node.finish (n : Node) (c r seq opcode status : Nat) (res : List Word) : Node :=
  let f := (n.flightOf c seq).getD ⟨c, r, seq, opcode, none, false, false, []⟩
  let m := { n with host := { n.host with
    flight := n.host.flight.filter (fun g => !(g.ctx == c && g.seq == seq)),
    waits := n.host.waits.filter fun w => !(w.ctx == c && w.seq == seq) } }
  let m := match f.jrn with
    | some i => m.jrnClose i status res
    | none => m
  let m := if f.silent then m else m.post c r seq opcode status 0 (if f.jrn.isSome then 1 else 0) res
  f.dups.foldl (fun k d => k.post c d.1 seq d.2.2 1 status (b2n d.2.1 * 2) (res.take 4)) m

/-- A waiting command completes. -/
def Node.finishWait (n : Node) (w : Wait) (status : Nat) (res : List Word) : Node :=
  n.finish w.ctx w.ring w.seq w.opcode status res

/-- Every waiting command that `sel` picks completes with one status. -/
def Node.finishWaits (n : Node) (sel : Wait → Bool) (status : Nat) (res : List Word) : Node :=
  (n.host.waits.filter sel).foldl (fun m w => m.finishWait w status res) n

/-! ### Command checks (R787) -/

/-- The world a command needs (R648): none, the secure world, or that of an instance; with the instance logged. -/
inductive Need where
  | either
  | secure (inst : Nat)
  | inst (inst : Nat)
  deriving DecidableEq, Repr

/-- What a command's own checks and effect answer: a completion, or a wait for a later happening. -/
inductive Answer where
  | done (n : Node) (status : Nat) (res : List Word)
  | wait (n : Node) (kind key : Nat) (aux : List Word)

/-- Completion statuses (R638). -/
def sOk : Nat := 0
def sWorld : Nat := 2
def sArgs : Nat := 3
def sState : Nat := 4
def sResource : Nat := 5
def sNotPlaceable : Nat := 6
def sTimeout : Nat := 7
def sFar : Nat := 8
def sCancelled : Nat := 9
def sNotHolder : Nat := 0xA
def sBusy : Nat := 0xB

/-- Argument word `i` of a command. -/
def argW (c : Cmd) (i : Nat) : Word := c.entry.args.getD i 0#32

/-- Argument word `i` as a number. -/
def arg (c : Cmd) (i : Nat) : Nat := (argW c i).toNat

/-- A status as an answer without results. -/
def Answer.fail (n : Node) (status : Nat) : Answer := .done n status []

/-- A fetched command has been started and waits for a later happening. -/
def Node.started (n : Node) (f : Flight) : Bool := n.host.waits.any fun w => w.ctx == f.ctx && w.seq == f.seq

/-- The commands of one ring start in fetch order, and one with `FENCE` = 1 only when every earlier command of its ring has
completed (R633): whether a fetched command is still held. -/
def Node.fenceHeld (n : Node) (c : Cmd) : Bool :=
  match n.host.flight.findIdx? fun f => f.ctx == c.ctx && f.seq == c.entry.seq with
  | some i =>
    let fence := (n.host.flight.drop i).head?.any fun f => f.fence
    (n.host.flight.take i).any fun f => f.ctx == c.ctx && f.ring == c.ring && (fence || !n.started f)
  | none => false

/-- In the waiting state (R121) every command but those of the image is turned away at check 9: after its world and its
arguments, before its effect. -/
def Node.waitAnswer (n : Node) (c : Cmd) (a : Answer) : Answer :=
  if !n.waiting || c.entry.opcode / 256 == 0x0D then a
  else match a with
    | .done k st res => if st = sArgs ∨ st = sWorld then .done k st res else .done n sState []
    | .wait _ _ _ _ => .done n sState []

/-- A command is carried out (R787): while a fence holds it, nothing happens; then reserved fields (check 6), the world
(check 7, logged as a refusal of kind 2), and the command's own checks 8 and 9 and effect in `act`. Argument words from
`nargs` on are reserved. -/
def Node.command (n : Node) (c : Cmd) (need : Need) (nargs : Nat) (act : Node → Answer) : Node :=
  let m := n.at c.time
  if m.fenceHeld c then m
  else
    let fin (k : Node) (st : Nat) (res : List Word) : Node := k.finish c.ctx c.ring c.entry.seq c.entry.opcode st res
    if c.entry.flags ≥ 2 ∨ c.entry.rsv ≠ 0 ∨ (c.entry.args.drop nargs).any (· != 0#32) then fin m sArgs []
    else
      let refused := match need with
        | .either => none
        | .secure i => if m.ctxSecure c.ctx then none else some i
        | .inst i => if m.ctxSecure c.ctx || !m.instSecure i then none else some i
      match refused with
      | some i => fin (m.refuse c.ctx false 2 1 c.entry.opcode i) sWorld []
      | none =>
        match m.waitAnswer c (act m) with
        | .done k st res => fin k st res
        | .wait k kind key aux =>
          { k with host := { k.host with waits := k.host.waits ++
            [Wait.mk c.ctx c.ring c.entry.seq c.entry.opcode kind key aux k.tm.raw k.cyc.cur] } }

/-- SC0 starts the command that the opcode of its entry names (R14): the row of a command acts on an entry with its own opcode,
and an entry with another is not its business. -/
def State.runs (s : State) (c : Cmd) (opcode : Nat) (f : Node → Node) : State :=
  if c.entry.opcode = opcode then s.on f else s

/-! ### Event rings (R642) -/

/-- The 32 bytes of an event-ring entry before its flags byte: the fault record and zeros (R642, R670). -/
def eventBytes (e : Event) : List Byte :=
  encLE 2 e.code ++ encLE 2 e.node ++ encLE 4 e.stamp.toNat ++ encLE 4 e.d0.toNat ++ encLE 4 e.d1.toNat ++ zeros 15

/-- Events lost by a context in the current overflow. -/
def Node.evqLost (n : Node) (c : Nat) : Nat := ((n.host.evqLost.find? fun p => p.1 == c).map (·.2)).getD 0

/-- An event is written to a context's event ring, or is lost: then it is counted, and the first loss sets `EVQ_OVF`. The
event that finds room again is followed by EVENT_RING_OVERFLOW with the number lost (R642). -/
def Node.evqPut (n : Node) (c : Nat) (e : Event) : Node :=
  if 6 ≤ c then
    { n with host := { n.host with held := n.host.held ++ [HeldEntry.mk c true (withFlags (eventBytes e) 0 true) n.tm.raw] } }
  else
    let size := (n.reg (Reg.HST_EVQ_SIZE c)).toNat
    let tail := (n.reg (Reg.HST_EVQ_TAIL c)).toNat
    if size = 0 then n
    else if ringFree size (n.reg (Reg.HST_EVQ_HEAD c)).toNat tail = 0 then
      let m := n.inc (Reg.HST_EVQ_LOST c)
      let m := if n.evqLost c = 0 then m.irq c 8 4 else m
      { m with host := { m.host with
        evqLost := m.host.evqLost.filter (fun p => p.1 != c) ++ [(c, n.evqLost c + 1)] } }
    else
      let m := n.ringWrite c (n.reg64 (Reg.HST_EVQ_BASE_LO c)) 0x8000 tail (withFlags (eventBytes e) 0 (n.phase c 4))
      let m := if tail + 1 < size then m.setReg (Reg.HST_EVQ_TAIL c) (word (tail + 1))
        else (m.setReg (Reg.HST_EVQ_TAIL c) 0#32).flipPhase c 4
      let m := m.irq c 4 4
      let lost := n.evqLost c
      if lost = 0 then m
      else { m with host := { m.host with evqLost := m.host.evqLost.filter fun p => p.1 != c } }.raise 0x7106 c lost

/-! ### Frames to hosts (R643, R644) -/

/-- A frame delivered to a PCIe context's receive ring: buffer descriptor `HST_FRX_HEAD` is filled, or the frame is
counted in `HST_FRX_DROP` when no buffer is free. The node writes the frame and the descriptor's second half. The buffer
address lies in host memory; the model writes the frame at the descriptor's own place in its output (DESIGN CHOICE, log entry 12). -/
def Node.frxDeliver (n : Node) (c ingress : Nat) (bytes : List Byte) (stamp : Nat) : Node :=
  let size := (n.reg (Reg.HST_FRX_SIZE c)).toNat
  let head := (n.reg (Reg.HST_FRX_HEAD c)).toNat
  if size = 0 ∨ head = (n.reg (Reg.HST_FRX_TAIL c)).toNat ∨ n.host.stopped.contains (c, 6) then n.inc (Reg.HST_FRX_DROP c)
  else
    let m := { n with host := { n.host with dma := n.host.dma ++
      [HostWrite.mk c (n.reg64 (Reg.HST_FRX_BASE_LO c) + head * 16 + 8)
        (encLE 2 bytes.length ++ encLE 2 (ingress % 16) ++ encLE 4 (n.stampAt stamp).toNat ++ bytes)] } }
    (m.setReg (Reg.HST_FRX_HEAD c) (word (if head + 1 < size then head + 1 else 0))).irq c 7 7

/-! ### Timestamp queues (R325 to R328) -/

/-- The TSQ assigned to a context. -/
def Node.tsqOf (n : Node) (c : Nat) : Option Nat :=
  (List.range 2).find? fun q => n.bit (Reg.TMB_TSQ_CFG q) 7 && n.bits (Reg.TMB_TSQ_CFG q) 0 3 == c

end Sys2Proof.Machine
end

