-- ==== Sys2Proof/Machine/Access.lean ====
section
/-! DEFINITION. The checks of a register access (R666, R784): form, world and ownership, power domain, occupancy. Every
command that reads or writes a register passes them here. -/

namespace Sys2Proof.Machine

/-- The end of the register space (R665). -/
def regSpace : Nat := 0x04000000

/-- The instance of R646 that an address belongs to, none where R784 gives no instance. -/
def instOf (a : Nat) : Option Nat :=
  if a < 0x00100000 then some 95
  else if a < 0x00180000 then some 90
  else if a < 0x00200000 then some 91
  else if a < 0x00300000 then some 92
  else if a < 0x00400000 then some 89
  else if a < 0x00800000 then
    let o := a - 0x00400000
    if 0x400 ≤ o ∧ o < 0x500 then some (16 + (o - 0x400) / 0x20)
    else if 0x600 ≤ o ∧ o < 0x680 then some (24 + (o - 0x600) / 0x20)
    else some 15
  else if a < 0x00840000 then some ((a - 0x00800000) / 0x10000)
  else if a < 0x00900000 then none
  else if a < 0x00980000 then some (4 + (a - 0x00900000) / 0x10000)
  else if a < 0x00A00000 then none
  else if a < 0x00C00000 then some 12
  else if a < 0x01000000 then some 13
  else if a < 0x01200000 then some 14
  else if a < 0x01800000 then some 28
  else if a < 0x01C00000 then some 12
  else if a < 0x01E00000 then some 29
  else if a < 0x02000000 then some 30
  else if a < 0x02800000 then some 31
  else if a < 0x02900000 then some (32 + (a - 0x02800000) / 0x40000)
  else if a < 0x02C00000 then none
  else if a < 0x03000000 then some 36
  else if a < 0x03400000 then
    if 0x03001000 ≤ a ∧ a < 0x03001700 then some (37 + (a - 0x03001000) / 0x40) else none
  else if a < 0x03800000 then
    if a < 0x03402000 then some (81 + (a - 0x03400000) / 0x400)
    else if 0x03500000 ≤ a ∧ a < 0x03520000 then some (85 + (a - 0x03500000) / 0x10000)
    else none
  else if a < 0x03A00000 then none
  else if a < 0x03C00000 then some 93
  else some 94

/-- The context that an address belongs to (R623, R663): its HST and JRN registers and its SPI ring memory. -/
def ctxOf (a : Nat) : Option Nat :=
  if 0x03400000 ≤ a ∧ a < 0x03402000 then some ((a - 0x03400000) / 0x400)
  else if 0x03500000 ≤ a ∧ a < 0x03520000 then some (4 + (a - 0x03500000) / 0x10000)
  else if 0x03800100 ≤ a ∧ a < 0x03800200 then some ((a - 0x03800100) / 0x20)
  else none

/-- The power domain that an address belongs to (R83, R784), none for an offset that no instance holds. -/
def domainOf (a : Nat) : Option Nat :=
  if 0x00200000 ≤ a ∧ a < 0x00300000 then some 0
  else if 0x00400000 ≤ a ∧ a < 0x00800000 then some 1
  else if 0x00800000 ≤ a ∧ a < 0x00820000 then some 5
  else if 0x00820000 ≤ a ∧ a < 0x00840000 then some 6
  else if 0x00900000 ≤ a ∧ a < 0x00A00000 then (instOf a).map fun _ => 7
  else if 0x00A00000 ≤ a ∧ a < 0x00C00000 then some 8
  else if 0x02000000 ≤ a ∧ a < 0x02800000 then some 4
  else if 0x02800000 ≤ a ∧ a < 0x02C00000 then (instOf a).map fun _ => 11
  else if 0x03400000 ≤ a ∧ a < 0x03800000 then
    if (instOf a).isSome || decide (a / 4 = 0x03403000 / 4) then some 9 else none
  else if 0x03A00000 ≤ a ∧ a < 0x03C00000 then some 10
  else if 0x03000000 ≤ a ∧ a < 0x03400000 then if (instOf a).isSome || (regRow a).isSome then some 2 else none
  else if a < regSpace then some 2
  else none

/-- An access outside the form of R666 step 1 by an SPI context sets `FORMAT`. -/
def Node.spiFlag (n : Node) (ctx : Nat) (f : SpiStat → SpiStat) : Node :=
  if ctx = 4 then { n with host := { n.host with spi0 := f n.host.spi0 } }
  else if ctx = 5 then { n with host := { n.host with spi1 := f n.host.spi1 } }
  else n

/-- The data word that a read returns; a refused or dropped access returns zero. -/
def Node.answer (n : Node) (v : Word) : Node :=
  { n with host := { n.host with readData := v, readAbort := false } }

/-- A PCIe TLP to BAR0 that is not one aligned 4-byte access (R666 step 1). -/
def Node.badAccess (n : Node) (addr len : Nat) : Node := (n.inc Reg.EVT_BAD_ACCESS).raise 0x0907 addr len

/-- The context that a register belongs to for an access: beside `ctxOf`, the share that holds a journal entry (R663),
and for a write a context's event subscription (R673). -/
def Node.ownerOf (n : Node) (a : Nat) (write : Bool) : Option Nat :=
  match ctxOf a with
  | some c => some c
  | none =>
    if 0x03810000 ≤ a ∧ a < 0x03890000 then
      let i := (a - 0x03810000) / 0x40
      (List.range 8).find? fun c =>
        decide ((n.reg (Reg.JRN_CTX_BASE c)).toNat ≤ i) &&
        decide (i < (n.reg (Reg.JRN_CTX_BASE c)).toNat + (n.reg (Reg.JRN_CTX_SIZE c)).toNat)
    else if write ∧ 0x00180100 ≤ a ∧ a < 0x00180180 then some ((a - 0x00180100) / 0x10)
    else none

/-- Whether a refusal of R648 or R623 applies to an access of a world: cause 1 world, 2 ownership, with the instance logged. -/
def Node.refusal (n : Node) (secure : Bool) (ctx addr : Nat) (write : Bool) : Option (Nat × Nat) :=
  if secure then none
  else
    let inst := instOf addr
    let secureReg := match regRow addr with
      | some r => r.access == .rws || r.access == .ros
      | none => false
    if secureReg || (match inst with | some i => n.instSecure i | none => false) then some (1, inst.getD 127)
    else match n.ownerOf addr write with
      | some c => if c = ctx then none else if n.ctxSecure c then some (1, 81 + c) else some (2, 81 + c)
      | none => none

/-- The first journal entry of HC0 and of HC4 in the waiting state (R654). -/
def waitFirst (ctx : Nat) : Nat := if ctx = 0 then 7680 else 7936

/-- In the waiting state (R121) a context may read TOP, EVT and IMG and use its own HST and JRN registers; the controller
loopback and training readback, which run in that state alone, are open to it as well (R729). -/
def Node.waitingOk (n : Node) (ctx addr : Nat) (write : Bool) : Bool :=
  !n.waiting ||
  (!write && (decide (addr < 0x00100000) || (decide (0x00180000 ≤ addr) && decide (addr < 0x00200000)) ||
    (decide (0x00300000 ≤ addr) && decide (addr < 0x00400000)))) ||
  ctxOf addr == some ctx || addr == Reg.MEM_LOOP ||
  (!write && decide (Reg.MEM_TRAIN 0 ≤ addr) && decide (addr < Reg.MEM_TRAIN 8)) ||
  ((ctx == 0 || ctx == 4) && decide (Reg.JRN_ENTRY (waitFirst ctx) ≤ addr) && decide (addr < Reg.JRN_ENTRY (waitFirst ctx + 256)))

/-- Steps 2 to 4 of R666 for an access of a world: world and ownership, power domain, occupancy; the first that fails applies,
otherwise `act` reads or writes. -/
def Node.checked (n : Node) (secure : Bool) (ctx addr : Nat) (write : Bool) (act : Node → Node) : Node :=
  match n.refusal secure ctx addr write with
  | some (cause, inst) => (n.refuse ctx write 0 cause addr inst).spiFlag ctx fun s => { s with refused := true }
  | none =>
    if (match domainOf addr with
        | some d => !n.bit Reg.TOP_PD_STATE d
        | none => false) then
      (n.inc Reg.TOP_OFF_ACCESS).raise 0x0905 addr ctx
    else match regRow addr with
      | some _ => act n
      | none => n

/-- A register access of a host context (R666): its form, then the checks of its world. Host frames carry none (R620), and
while HOST is off the node takes none. -/
def Node.access (n : Node) (ctx addr : Nat) (write : Bool) (act : Node → Node) : Node :=
  let m := n.answer 0#32
  if 6 ≤ ctx ∨ !m.bit Reg.TOP_PD_STATE 9 then m
  else if addr % 4 ≠ 0 ∨ regSpace ≤ addr then
    if ctx < 4 then (if addr < regSpace then m.badAccess addr 4 else m)
    else m.spiFlag ctx fun s => { s with format := true }
  else if !m.waitingOk ctx addr write then m
  else m.checked (m.ctxSecure ctx) ctx addr write act

/-- The plain effect of a write: the writable bits of the register change (R6). A W1C register loses the bits written as
one (R10); what the hardware sets in the same cycle is given by `hw` and stays set. -/
def Node.plainWrite (n : Node) (addr : Nat) (v hw : Word) : Node :=
  match regRow addr with
  | some r =>
    let old := n.reg addr
    match r.access with
    | .rw => n.setReg addr ((old &&& ~~~r.wmask) ||| (v &&& r.wmask))
    | .rws => n.setReg addr ((old &&& ~~~r.wmask) ||| (v &&& r.wmask))
    | .wo => n.setReg addr ((old &&& ~~~r.wmask) ||| (v &&& r.wmask))
    | .w1c => n.setReg addr ((old &&& ~~~(v &&& r.wmask)) ||| hw)
    | .w1s => n.setReg addr (old ||| (v &&& r.wmask))
    | _ => n
  | none => n

end Sys2Proof.Machine
end

