-- ==== Sys2Proof/Machine/Links.lean ====
section
/-! DEFINITION. Spine links and frames (chapter 04): link up and down, preemption, wake frames, MDIO, filter rules, open
traffic and MAC control frames. -/

namespace Sys2Proof.Machine

/-! ### Link state (R145, R146) -/

/-- The context of a host-frame car port follows its link (R660: `HST_CTX_STAT[2]`). -/
def Node.hostLink (n : Node) (p : Nat) (up : Bool) : Node :=
  [6, 7].foldl (fun m c =>
    if m.ctxPresent c && m.fld (Reg.HST_CTX_CFG c) Fld.HST_CTX_CFG_PORT + 4 == p then
      m.setBit (Reg.HST_CTX_STAT c) 2 up else m) n

/-- What a port forgets when its link comes up or goes down: its exchanges, its far end and what it has reported. -/
def Port.renew (q : Port) (raw : Nat) : Port :=
  { q with pdDone := false, pdCount := 0, exch := [], pdLast := [], pdAside := [], pdMisses := 0, pdAt := none, farId := 0,
           farState := 0, farPort := 0, pauseSeen := false, ptpSeen := false, secPn := none, secBlocked := false, busy := 0,
           preEnd := 0, linkAt := raw }

/-- The port may have a link: a spine or car port that the image uses and nothing holds, or the Jalder link of a pair. -/
def Node.portUsable (n : Node) (p : Nat) : Bool :=
  n.bit Reg.PCR_PLL_STAT (6 + p) &&
  if p < 12 then n.fld (Reg.SPN_IFTYPE p) Fld.SPN_IFTYPE_TYPE != 0 && n.fld (Reg.SPN_STAT p) Fld.SPN_STAT_HELD == 0
  else p == 12 && n.paired

/-- Preemption at a link-up (R174, R175): verification starts with its first attempt at 1 Gbit/s or more. -/
def Node.preemptStart (n : Node) (p rate : Nat) : Node :=
  if n.fld (Reg.SPN_IFTYPE p) Fld.SPN_IFTYPE_PREEMPT = 1 ∧ 1 ≤ rate ∧ rate ≤ 4 then
    n.setReg (Reg.SPN_PREEMPT_STAT p) (word (2 + 16))
  else n.setReg (Reg.SPN_PREEMPT_STAT p) 0#32

/-- The line rates of an interface type (R141), as `SPN_STAT.RATE` and `SPN_IFTYPE.TYPE` code them. -/
def rateOk (type rate : Nat) : Bool :=
  match type with
  | 1 => rate == 4
  | 2 => rate == 3
  | 3 => rate == 2
  | 4 => rate == 2
  | 5 => rate == 1
  | 6 => rate == 1 || rate == 5 || rate == 6
  | _ => false

/-- A link comes up at a rate of its type (R141, R145); a port in a loop or a PRBS test is withdrawn (R680, R689), and a lane
that sends wake frames has left its type (R186). -/
def Node.linkComesUp (n : Node) (p rate : Nat) : Node :=
  if !n.portUsable p || n.linkUp p || n.looped p || n.bit Reg.TST_STAT (17 + p) || (n.port p).wakeLeft != 0 ||
      !(p == 12 || rateOk (n.fld (Reg.SPN_IFTYPE p) Fld.SPN_IFTYPE_TYPE) rate) then n
  else
    let m := n.onPort p fun q => { q.renew n.tm.raw with crossFresh := true }
    if p = 12 then
      ((m.setBit Reg.JLK_STAT 0 true).setFld Reg.PAR_REPL_STAT Fld.PAR_REPL_STAT_STOPPED
        (m.fld Reg.PAR_TOKEN Fld.PAR_TOKEN_UNFIT)).raisePort2 0x1801 12 12 rate
    else
      let m := ((m.setFld (Reg.SPN_STAT p) Fld.SPN_STAT_LINK 1).setFld (Reg.SPN_STAT p) Fld.SPN_STAT_RATE rate).setFld
        (Reg.SPN_STAT p) Fld.SPN_STAT_MACSEC 0
      ((m.preemptStart p rate).hostLink p true).raisePort2 0x1801 p p rate

/-- The frame that a port is sending, if any. -/
def Node.sending (n : Node) (p : Nat) : Option Sent :=
  (n.net.sent.reverse.find? fun x => x.port == p && !x.stomped).filter fun x =>
    decide (n.tm.raw < x.time + n.wireNs p x.frame)

/-- The frame being sent on a port when its link goes down is lost and counted nowhere (R146). -/
def Node.cutSending (n : Node) (p : Nat) : Node :=
  match n.sending p with
  | some x =>
    let m := { n with net := { n.net with sent := (n.net.sent.reverse.erase x).reverse } }
    if p < 12 then
      (m.setReg64 (Reg.SPN_TX_FRM_LO p) (m.reg64 (Reg.SPN_TX_FRM_LO p) - 1)).setReg64 (Reg.SPN_TX_OCT_LO p)
        (m.reg64 (Reg.SPN_TX_OCT_LO p) - frameLen x.frame)
    else m.setReg64 Reg.JLK_TX_FRM_LO (m.reg64 Reg.JLK_TX_FRM_LO - 1)
  | none => n

/-- A frame stomped first by this node (R171, R172). -/
def Node.stompFirst (n : Node) (p : Nat) (f : Frame) (reason : Nat) : Node :=
  (n.sendStomped p f).raisePort2 0x1906 p p reason

/-- The link of a port is gone (R145, R146): what waits for the port is discarded, LINK_DOWN and the notice go out. -/
def Node.linkLost (n : Node) (p : Nat) : Node :=
  let wasMember := n.member p
  let m := n.onPort p fun q => q.renew n.tm.raw
  let m := { m with net := { m.net with transit := m.net.transit.filter (fun t => t.egress != p),
                                        queue := m.net.queue.filter fun q => q.port != p } }
  if p = 12 then
    let m := ((m.setBit Reg.JLK_STAT 0 false).setBit Reg.JLK_STAT 1 false).setFld Reg.PAR_REPL_STAT
      Fld.PAR_REPL_STAT_STOPPED 1
    let m := m.raisePort 0x1902 12
    (if n.jalderMember then m.notice 4 12 else m).checkAllDown
  else
    let m := [Fld.SPN_STAT_LINK, Fld.SPN_STAT_RATE, Fld.SPN_STAT_MACSEC, Fld.SPN_STAT_PREEMPT].foldl
      (fun k f => k.setFld (Reg.SPN_STAT p) f 0) m
    let m := m.setReg (Reg.SPN_PREEMPT_STAT p) (word (m.fld (Reg.SPN_IFTYPE p) Fld.SPN_IFTYPE_PREEMPT))
    let m := (m.hostLink p false).raisePort 0x1902 p
    let m := if wasMember then m.notice 2 p else m
    m.checkAllDown

/-- A link goes down (R145, R146): the copies in transmission of a frame being received on it, in `cut`, are stomped; a
frame being sent on it is lost, and what waits for the port is discarded. Where a write, a wake series, a PLL or a loop has taken
the link down, LINK_DOWN follows with what was being received (DESIGN CHOICE, log entry 114). -/
def Node.linkGoesDown (n : Node) (p : Nat) (cut : List (Nat × Frame)) : Node :=
  let n := cut.foldl (fun k c => k.stompFirst c.1 c.2 5) n
  if !n.linkUp p then n else ((Node.serve p (n.net.queue.length + 1) n).cutSending p).linkLost p

/-- LINK_UP: a port has shown block lock for 10 ms (R145). -/
def execLinkUp (port rate time : Nat) (s : State) : Host.Outcome State Fault Refusal :=
  .next (s.on fun n => (n.at time).linkComesUp port rate)

/-- LINK_DOWN: a port has lost lock for 10 µs (R145, R146). -/
def execLinkDown (port : Nat) (cut : List (Nat × Frame)) (time : Nat) (s : State) : Host.Outcome State Fault Refusal :=
  .next (s.on fun n => (n.at time).linkGoesDown port cut)

/-- MACSEC_MISMATCH: the protection or the key numbers of the two ends differ, or no frame has passed within 10 ms of the
link-up (R181). Only a port with MACsec enabled raises it; cause 3 is due 10 ms after the link-up on a link that has passed no
frame. -/
def execMacsecMismatch (port cause time : Nat) (s : State) : Host.Outcome State Fault Refusal :=
  .next (s.on fun n =>
    let m := n.at time
    let silent := m.fld (Reg.SPN_STAT port) Fld.SPN_STAT_MACSEC == 0 && decide ((m.port port).linkAt + 10000000 ≤ m.tm.raw)
    if m.secOn port && m.linkUp port && (cause != 3 || silent) then m.secMismatch port cause else m)

/-! ### Preemption (R175) -/

/-- PREEMPT_VERIFY_ATTEMPT: the 10 ms interval has passed without a response; after 3 attempts the port runs without
preemption until its next link-up (R175). -/
def execPreemptVerifyAttempt (port time : Nat) (s : State) : Host.Outcome State Fault Refusal :=
  .next (s.on fun n =>
    let m := n.at time
    let a := Reg.SPN_PREEMPT_STAT port
    if m.bits a 0 3 ≠ 2 then m
    else if m.bits a 4 2 < 3 then m.setBits a 4 2 (m.bits a 4 2 + 1)
    else (m.setBits a 0 3 4).raisePort2 0x1909 port port 0)

/-- PREEMPT_VERIFY_FRAME_RECEIVED: a response ends the verification with success (R175). A verify request is answered by
the MAC and changes nothing that a register shows. -/
def execPreemptVerifyFrameReceived (port : Nat) (respond : Bool) (time : Nat) (s : State) :
    Host.Outcome State Fault Refusal :=
  .next (s.on fun n =>
    let m := n.at time
    if respond && m.bits (Reg.SPN_PREEMPT_STAT port) 0 3 == 2 then
      (m.setBits (Reg.SPN_PREEMPT_STAT port) 0 3 3).setFld (Reg.SPN_STAT port) Fld.SPN_STAT_PREEMPT 1
    else m)

/-! ### Port control (R190) and wake frames (R184 to R186) -/

/-- A lane starts to send 100 wake frames (R186): it leaves its configured type, so its link goes down. A port in a loop or a PRBS
test sends none (R680). -/
def Node.startWake (n : Node) (p : Nat) : Node :=
  if (p = 0 ∨ p = 2) ∧ n.portUsable p ∧ (n.port p).wakeLeft = 0 ∧ !n.looped p ∧ !n.bit Reg.TST_STAT (17 + p) then
    let m := n.linkGoesDown p []
    ((m.onPort p fun q => { q with wakeLeft := 100, wakeAt := m.tm.raw }).setFld (Reg.SPN_CTRL p) Fld.SPN_CTRL_WAKE_SEND 1).setFld
      (Reg.SPN_STAT p) Fld.SPN_STAT_LISTEN 1
  else n

/-- A lane sends no more wake frames and returns to its configured type (R186). -/
def Node.stopWake (n : Node) (p : Nat) : Node :=
  if (n.port p).wakeLeft = 0 then n
  else ((n.onPort p fun q => { q with wakeLeft := 0 }).setFld (Reg.SPN_CTRL p) Fld.SPN_CTRL_WAKE_SEND 0).setFld
    (Reg.SPN_STAT p) Fld.SPN_STAT_LISTEN 0

/-- The effect of a write of `SPN_CTRL` (R190): `ADMIN_DOWN` holds the link down, `WAKE_SEND` starts wake frames. -/
def Node.portCtrl (n : Node) (p : Nat) (v : Word) : Node :=
  let down := v.toNat % 2
  let m := n.setFld (Reg.SPN_CTRL p) Fld.SPN_CTRL_ADMIN_DOWN down
  let m := if m.fld (Reg.SPN_IFTYPE p) Fld.SPN_IFTYPE_TYPE = 0 then m
    else (if down = 1 then (m.linkGoesDown p []).stopWake p else m).setFld (Reg.SPN_STAT p) Fld.SPN_STAT_HELD down
  if v.toNat.testBit 1 then m.startWake p else m

/-- ADMIN_DOWN_WRITE: a write of `SPN_CTRL` that sets or clears `ADMIN_DOWN` (R190). -/
def execAdminDownWrite (ctx port : Nat) (v : Word) (s : State) : Host.Outcome State Fault Refusal :=
  .next (s.on fun n => n.access ctx (Reg.SPN_CTRL port) true fun m => m.portCtrl port v)

/-- WAKE_SEND_WRITE: a write of `SPN_CTRL` that sets `WAKE_SEND` of FA or RA (R186). -/
def execWakeSendWrite (ctx port : Nat) (v : Word) (s : State) : Host.Outcome State Fault Refusal :=
  .next (s.on fun n => n.access ctx (Reg.SPN_CTRL port) true fun m => m.portCtrl port v)

/-- WAKE_SEND_AUTO: 100 ms after it entered LINK, the node wakes along each of FA and RA whose link is still down, once
per entry to LINK (R186). -/
def execWakeSendAuto (time : Nat) (s : State) : Host.Outcome State Fault Refusal :=
  .next (s.on fun n =>
    let m := n.at time
    if m.st = stLink ∧ !m.net.wakeAutoDone ∧ m.ina.entered + 100000000 ≤ m.tm.raw then
      let k := [0, 2].foldl (fun k p => if k.linkUp p then k else k.startWake p) m
      { k with net := { k.net with wakeAutoDone := true } }
    else m)

/-- A wake frame (R184). -/
def Node.wakeFrame (n : Node) : Frame :=
  { dst := addrWake, src := n.identity, tag := none, etype := (n.reg Reg.SPN_ETYPE).toNat,
    body := encBE 4 (n.reg Reg.SPN_WAKE_CODE).toNat ++ zeros 42 }

/-- WAKE_FRAME_SEND: the next of the 100 wake frames leaves, 1 ms after the one before; after the last the port returns to its
configured type (R186). A wake frame is as R184 lays it out, without MACsec (DEDUCED, log entry 115). -/
def execWakeFrameSend (port time : Nat) (s : State) : Host.Outcome State Fault Refusal :=
  .next (s.on fun n =>
    let m := n.at time
    let left := (m.port port).wakeLeft
    if left = 0 ∨ m.tm.raw < (m.port port).wakeAt then m
    else
      let f := m.wakeFrame
      let k := { m with net := { m.net with sent := m.net.sent ++ [Sent.mk port f m.tm.raw false 0 []] } }
      let k := (k.add64 (Reg.SPN_TX_FRM_LO port) 1).add64 (Reg.SPN_TX_OCT_LO port) (frameLen f)
      if left = 1 then k.stopWake port
      else k.onPort port fun q => { q with wakeLeft := left - 1, wakeAt := q.wakeAt + 1000000 })

/-! ### MDIO (R144, R193 to R195) -/

/-- The bits of a software-visible word of a filter rule (R163). -/
def ruleMask : Nat → Nat
  | 0 => 0x3F
  | 1 => 0x7FFF7FFF
  | 2 => 0x0FFF0FFF
  | 3 => 0x77
  | 4 => 0xFFFFFFFF
  | 5 => 0xFFFFFFFF
  | 6 => 0x1FFFF
  | _ => 0

/-- A write of `SPN_MDIO_CMD` (R195). -/
def Node.mdioWrite (n : Node) (mst : Nat) (v : Word) : Node :=
  let go := v.toNat % 2
  if go = 1 ∧ n.bit (Reg.SPN_MDIO_STAT mst) 0 then n
  else
    let m := n.setReg (Reg.SPN_MDIO_CMD mst) (v &&& word 0x1F1F0E)
    if go = 0 then m
    else
      let m := (m.setBit (Reg.SPN_MDIO_STAT mst) 0 true).setBit (Reg.SPN_MDIO_STAT mst) 1 false
      { m with net := { m.net with mdioSoft := m.net.mdioSoft ++ [mst] } }

/-- MDIO_GO_WRITE: a write of `SPN_MDIO_CMD` (R195). -/
def execMdioGoWrite (ctx master : Nat) (v : Word) (s : State) : Host.Outcome State Fault Refusal :=
  .next (s.on fun n => n.access ctx (Reg.SPN_MDIO_CMD master) true fun m => m.mdioWrite master v)

/-- PHY scripts are handed to their masters (R144, R187), which show `BUSY` until their scripts end: software's `GO` meanwhile is
dropped and does not wait (DESIGN CHOICE, log entry 128). -/
def Node.startScript (n : Node) (ws : List MdioWrite) : Node :=
  ws.foldl (fun m w => (m.setBit (Reg.SPN_MDIO_STAT w.master) 0 true).setBit (Reg.SPN_MDIO_STAT w.master) 2 true)
    { n with net := { n.net with script := n.net.script ++ ws } }

/-- The frame in progress on a master ends: the software frame first, then the writes of a script in order (R144). -/
def Node.mdioDone (n : Node) (mst data : Nat) : Node :=
  let more (k : Node) : Node :=
    if k.net.script.any (fun w => w.master == mst) then k
    else (k.setBit (Reg.SPN_MDIO_STAT mst) 0 false).setBit (Reg.SPN_MDIO_STAT mst) 2 false
  if n.net.mdioSoft.contains mst then
    let m := { n with net := { n.net with mdioSoft := n.net.mdioSoft.filter (· != mst) } }
    let op := m.fld (Reg.SPN_MDIO_CMD mst) Fld.SPN_MDIO_CMD_OP
    let m := if op = 1 ∨ op = 4 ∨ op = 5 then m.setReg (Reg.SPN_MDIO_DATA mst) (word (data % 65536)) else m
    more (m.setBit (Reg.SPN_MDIO_STAT mst) 1 true)
  else
    match n.net.script.find? fun w => w.master == mst with
    | some w => more { n with net := { n.net with script := n.net.script.erase w } }
    | none => n

/-- MDIO_FRAME_DONE: the MDIO frame in progress on a master ends, with the data word of a read (R195). -/
def execMdioFrameDone (master data time : Nat) (s : State) : Host.Outcome State Fault Refusal :=
  .next (s.on fun n => (n.at time).mdioDone master data)

/-! ### Filter rules and open traffic (R160 to R165) -/

/-- Word `w` of filter rule `r`. -/
def Node.rule (n : Node) (r w : Nat) : Nat := (n.reg (Reg.SPN_FLT r + 4 * w)).toNat

/-- A write of one word of a filter rule (R163, R164): reserved bits are ignored, and a write of `HITS` clears it.
`SPN_FLT_USED` counts the valid rules. -/
def Node.ruleWrite (n : Node) (r w : Nat) (v : Word) : Node :=
  let was := n.rule r 0 % 2
  let m := n.setReg (Reg.SPN_FLT r + 4 * w) (v &&& word (ruleMask w))
  let m := m.injSram 4 (r * 4 + w / 2) 1
  m.setReg Reg.SPN_FLT_USED (word ((m.reg Reg.SPN_FLT_USED).toNat + m.rule r 0 % 2 - was))

/-- FILTER_RULE_WRITE: a write of one word of `SPN_FLT` (R164). -/
def execFilterRuleWrite (ctx rule wordIndex : Nat) (v : Word) (s : State) : Host.Outcome State Fault Refusal :=
  .next (s.on fun n => n.access ctx (Reg.SPN_FLT rule + 4 * (wordIndex % 8)) true fun m =>
    m.ruleWrite rule (wordIndex % 8) v)

/-- A rule matches an open frame from a fabric port (R162). -/
def Node.ruleMatches (n : Node) (r port : Nat) (f : Frame) : Bool :=
  let vid := match f.tag with | some t => t.vid | none => 0
  let pcp := match f.tag with | some t => t.pcp | none => 0
  let w2 := n.rule r 2
  let w3 := n.rule r 3
  let w4 := n.rule r 4
  let agree (a b mask : Nat) : Bool := Nat.land a mask == Nat.land b mask
  (n.rule r 0).testBit 0 && (n.rule r 1).testBit port &&
  agree vid (w2 % 4096) (w2 / 65536 % 4096) && agree pcp (w3 % 8) (w3 / 16 % 8) &&
  agree f.etype (w4 % 65536) (w4 / 65536) &&
  (!(n.rule r 6).testBit 16 || f.dst == n.rule r 6 % 65536 * 2 ^ 32 + n.rule r 5)

/-- The valid rules in ascending order, found from the words that the register store holds, but for one that an error has hit
(R73). -/
def Node.validRules (n : Node) : List Nat :=
  n.regs.filterMap fun p =>
    if Reg.SPN_FLT 0 ≤ p.1 ∧ p.1 < Reg.SPN_FLT 0 + 8192 * 32 ∧ (p.1 - Reg.SPN_FLT 0) % 32 = 0 ∧ p.2.toNat % 2 = 1 ∧
        !n.mem.absent.contains (4, (p.1 - Reg.SPN_FLT 0) / 32) then
      some ((p.1 - Reg.SPN_FLT 0) / 32) else none

/-- The PCP map of R165. -/
def pcpClass (f : Frame) : Nat := (match f.tag with | some t => t.pcp | none => 0) / 2

/-- A frame as bytes in host memory, from the destination address, FCS excluded (R643). -/
def frameBytes (f : Frame) : List Byte :=
  encBE 6 f.dst ++ encBE 6 f.src ++
  (match f.tag with
   | some t => encBE 2 0x8100 ++ encBE 2 (t.pcp * 8192 + t.dei * 4096 + t.vid)
   | none => []) ++ encBE 2 f.etype ++ f.body

/-- An open frame reaches the host port (R644): the context with its destination address, or every context that takes
group frames. -/
def Node.toHosts (n : Node) (ingress : Nat) (f : Frame) (stamp : Nat) : Node :=
  [0, 1, 2, 3].foldl (fun m c =>
    let has := m.ctxPresent c && m.fld (Reg.HST_CTX_CFG c) Fld.HST_CTX_CFG_FRAMES == 1
    let mine := (m.host.cfgs.find? fun g => g.ctx == c).any fun g => g.mac == f.dst
    let group := (f.dst / 2 ^ 40) % 2 == 1 && m.fld (Reg.HST_CTX_CFG c) Fld.HST_CTX_CFG_GROUP == 1
    if has && (mine || group) then m.frxDeliver c ingress (frameBytes f) stamp else m) n

/-- An open frame in the open pool (R59, R60): refused when the pool has no room for the whole of it. -/
def Node.openAdmit (n : Node) (p cls room cells : Nat) : Node × Bool :=
  let m := n.armOpen room
  let low := (m.reg Reg.TOP_BUF_OPEN_MIN).toNat
  if room < cells then
    let k := m.setReg Reg.TOP_BUF_OPEN_FREE (word room)
    ((k.setReg Reg.TOP_BUF_OPEN_MIN (word (min low room))).poolDrop p cls, false)
  else ((m.setReg Reg.TOP_BUF_OPEN_FREE (word room)).setReg Reg.TOP_BUF_OPEN_MIN (word (min low (room - cells))), true)

/-- An open frame is forwarded as the first matching rule gives (R160 to R165), a copy to the local port where the rule mirrors
it (R163). The node forwards open traffic from LISTEN on (R256). -/
def Node.openForward (n : Node) (ingress : Nat) (f : Frame) (room stamp : Nat) : Node :=
  match n.validRules.find? fun r => n.ruleMatches r ingress f with
  | none => n.clsDrop ingress (pcpClass f)
  | some r =>
    let m := n.setReg (Reg.SPN_FLT r + 28) (word (min (n.rule r 7 + 1) 0xFFFFFFFF))
    let w0 := n.rule r 0
    if w0.testBit 1 then m
    else
      let cls := if w0.testBit 3 then bitsOf w0 4 2 else pcpClass f
      let (m, ok) := m.openAdmit ingress cls room (frameCells f)
      if !ok then m
      else if n.st < stListen then m
      else
        let outs := (List.range 15).filter fun p =>
          ((n.rule r 1).testBit (16 + p) || (p == localPort && w0.testBit 2)) && p != ingress
        outs.foldl (fun k p =>
          if p = 13 then k.toHosts ingress f stamp
          else if p = localPort ∨ k.looped p then k.putOut p f
          else k.sendFrom ingress p cls f) m

/-- A MAC control frame (R183): discarded and counted, and the first after a link-up reported. The second detail word of 0x1808, for
which R196 gives a dash, is 0 (DESIGN CHOICE, log entry 129). -/
def Node.macControl (n : Node) (p : Nat) : Node :=
  if 12 ≤ p then n
  else
    let g := n.inc (Reg.SPN_PAUSE_DROP p)
    if (g.port p).pauseSeen then g
    else (g.onPort p fun q => { q with pauseSeen := true }).raisePort2 0x1808 p p 0

/-- A received frame that no block of the node takes: a MAC control frame is discarded (R183), open traffic is forwarded by its
rule (R160). A withdrawn link and one at the far end of an ECHO loop carry none (R28, R687). -/
def Node.openIn (n : Node) (r : Rx) : Node :=
  if n.isSpine r.frame || n.crossed r.port || n.echoing r.port then n
  else if r.frame.etype = 0x8808 then n.macControl r.port
  else n.openForward r.port r.frame r.room r.stamp

/-- A listen island hears a wake frame of the node's code in sleep and on the way into it (R185): those of the last 10 ms count. It ignores every other
frame. -/
def Node.wakeHear (n : Node) (r : Rx) : Node :=
  if (r.port = 0 ∨ r.port = 2) ∧ r.fcs = .good ∧ r.frame.dst = addrWake ∧ n.isSpine r.frame ∧ r.frame.tag = none ∧
      beAt r.frame.body 0 4 = (n.reg Reg.SPN_WAKE_CODE).toNat then
    n.onPort r.port fun q => { q with wakeHeard := q.wakeHeard.filter (fun t => decide (r.stamp < t + 10000000)) ++ [r.stamp] }
  else n

/-- OPEN_FRAME_RECEIVED: an open frame passes the receive checks and the filters (R160). A spine or wake frame on a
consist or host-frame port fails check 4 (R161). In sleep the listen islands alone receive (R185). -/
def execOpenFrameReceived (r : Rx) (s : State) : Host.Outcome State Fault Refusal :=
  .next (s.on fun n =>
    if n.boot.sleep = 2 then n.wakeHear r
    else
      let n := if n.boot.sleep = 1 then n.wakeHear r else n
      let m := (n.at r.stamp).echoBack r
      match m.rxFail r with
      | some e => m.rxCount r e
      | none => (m.rxGood r).openIn r)

/-- MAC_CONTROL_FRAME_RECEIVED: a frame with EtherType 0x8808 is discarded and counted, and the first after a link-up is
reported (R183). -/
def execMacControlFrameReceived (r : Rx) (s : State) : Host.Outcome State Fault Refusal :=
  .next (s.on fun n =>
    let m := (n.at r.stamp).echoBack r
    match m.rxFail r with
    | some e => m.rxCount r e
    | none => if r.frame.etype = 0x8808 then (m.rxGood r).macControl r.port else m.rxGood r)

end Sys2Proof.Machine
end

