-- ==== Sys2Proof/Machine/Timebase.lean ====
section
/-! DEFINITION. Train time (chapter 07): link delay, the servo and the time states, wraps, slews, timed outputs, captures,
timestamp queue reads and the audio clock. -/

namespace Sys2Proof.Machine

/-! ### Link delay (R310 to R313, R28) -/

/-- An exchange of R312 is due: at link-up every 20 µs until 8 have completed, then every 64 basic cycles, and every 64 ms in
states without a cycle. -/
def Node.pdDue (n : Node) (p : Nat) : Bool :=
  match (n.port p).pdAt with
  | none => true
  | some t =>
    if (n.port p).pdCount < 8 then decide (t + 20000 ≤ n.tm.raw)
    else if n.st < stIntegrate then decide (t + 64000000 ≤ n.tm.raw)
    else decide (n.fineAt t / 65536 / n.tc + 64 ≤ n.cycleNow)

/-- PDELAY_REQUEST_SEND: a port starts an exchange when one is due (R312). -/
def execPdelayRequestSend (port time : Nat) (s : State) : Host.Outcome State Fault Refusal :=
  .next (s.on fun n =>
    let m := n.at time
    if m.pdDue port then (m.onPort port fun q => { q with pdAt := some m.tm.raw }).pdStart port else m)

/-- The line that a PDELAY frame carries is compared with that of its port (R28): a difference withdraws the link, and a
match returns a withdrawn link that has gone down and come up since. -/
def Node.pdLine (n : Node) (p : Nat) (lineB : Bool) : Node :=
  if 12 ≤ p then n
  else if lineB != n.portB p then
    if n.crossed p then n.onPort p fun q => { q with crossFresh := false }
    else
      let was := n.member p
      let m := ((n.setFld (Reg.SPN_STAT p) Fld.SPN_STAT_CROSSED 1).onPort p fun q => { q with crossFresh := false }).raise
        0x1A20 p 0
      let m := if was then m.notice 2 p else m
      m.checkAllDown
  else if n.crossed p && (n.port p).crossFresh then n.setFld (Reg.SPN_STAT p) Fld.SPN_STAT_CROSSED 0
  else n

/-- What a PDELAY frame says of its sender (R310): its identity, and the node state in byte 1. -/
def Node.pdFar (n : Node) (p id : Nat) (payload : List Byte) : Node :=
  let m := n.onPort p fun q =>
    { q with farId := id, farState := byteAt payload 1 / 16 % 8, farPort := byteAt payload 1 % 16 }
  if p = 12 ∧ m.st = stLink ∧ m.jalderMember ∧ stListen ≤ (m.port 12).farState then m.toListen else m

/-- PDELAY_REQUEST_RECEIVED: the responder stamps the request and answers `turnaround` ns of raw time later (R311). -/
def execPdelayRequestReceived (r : Rx) (turnaround : Nat) (s : State) : Host.Outcome State Fault Refusal :=
  .next (s.on fun n => n.receive r 0xA fun g h pl =>
    if byteAt pl 0 ≠ 1 then g
    else
      let m := (g.pdLine r.port h.lineB).pdFar r.port (beAt pl 4 6) pl
      if stLink ≤ m.st then
        let m := m.at (r.stamp + turnaround)
        let answer (turn : Int) : Frame :=
          m.pdFrame r.port (m.pdPayload 2 r.port (beAt pl 2 2) (beAt pl 4 6) m.identity (m.scaled turn))
        m.send r.port (answer ((m.leaveAt r.port (answer 0) : Int) - r.stamp))
      else m)

/-- The mean of measurements. -/
def mean (l : List Int) : Int := l.foldl (· + ·) 0 / (l.length : Int)

/-- A completed measurement `d` in 2^-16 ns (R313): accepted, or set aside when it differs from the link delay in use by
more than 20 ns; the third in a row restarts the filter. -/
def Node.pdMeasure (n : Node) (p : Nat) (d : Int) : Node :=
  let q := n.port p
  let use := mean q.pdLast
  if !q.pdLast.isEmpty && decide (20 * 65536 < (d - use).natAbs) then
    if q.pdAside.length < 2 then n.onPort p fun q => { q with pdAside := q.pdAside ++ [d] }
    else
      let m := n.onPort p fun q => { q with pdLast := [d], pdAside := [] }
      (m.setReg (Reg.TMB_PD_DELAY p) (sword d)).raise 0x3105 p (detail ((d - use) / 65536))
  else
    let l := (q.pdLast ++ [d]).reverse.take 8 |>.reverse
    (n.onPort p fun q => { q with pdLast := l, pdAside := [] }).setReg (Reg.TMB_PD_DELAY p) (sword (mean l))

/-- An exchange is discarded (R311): counted, and reported at the third consecutive one in steady state (R313). -/
def Node.pdMiss (n : Node) (p : Nat) : Node :=
  let k := (n.port p).pdMisses + 1
  let m := (n.inc (Reg.TMB_PD_MISS p)).onPort p fun q => { q with exch := q.exch.drop 1, pdMisses := k }
  if k = 3 ∧ 8 ≤ (m.port p).pdCount then m.raise 0x3104 p 3 else m

/-- PDELAY_RESPONSE_RECEIVED: a response that matches its exchange yields a measurement; the first since the link-up may
form a member link (R260, R311, R313). -/
def execPdelayResponseReceived (r : Rx) (s : State) : Host.Outcome State Fault Refusal :=
  .next (s.on fun n => n.receive r 0xA fun g h pl =>
    if byteAt pl 0 ≠ 2 ∨ (g.port r.port).exch.isEmpty then g
    else
      let p := r.port
      let m := g.pdLine p h.lineB
      match (m.port p).exch.find? fun x => x.1 == beAt pl 2 2 && beAt pl 4 6 == m.identity &&
          decide (r.stamp ≤ x.2 + 100000) with
      | none => m.pdMiss p
      | some x =>
        let was := m.member p
        let turn : Int := (BitVec.ofNat 64 (beAt pl 16 8)).toInt
        let d := (m.scaled ((r.stamp : Int) - x.2) - turn) / 2
        let k := (m.onPort p fun q => { q with exch := q.exch.filter (· != x), pdDone := true, pdCount := q.pdCount + 1,
                                               pdMisses := 0 }).inc (Reg.TMB_PD_DONE p)
        let k := (if p = 12 then k.setBit Reg.JLK_STAT 1 true else k).pdMeasure p d
        let k := k.pdFar p (beAt pl 10 6) pl
        if k.member p && !was then k.memberFormed p
        else if p = 12 ∧ k.jalderMember ∧ !g.jalderMember then k.notice 4 12 else k)

/-- PDELAY_RESPONSE_TIMEOUT: no response within 100 µs of t1 (R311). -/
def execPdelayResponseTimeout (port time : Nat) (s : State) : Host.Outcome State Fault Refusal :=
  .next (s.on fun n =>
    let m := n.at time
    if (m.port port).exch.head?.any fun x => decide (x.2 + 100000 ≤ m.tm.raw) then m.pdMiss port else m)

/-- The ingress link delay of a port in 2^-16 ns: the delay in use and the asymmetry (R313). -/
def Node.ingressDelay (n : Node) (p : Nat) : Int :=
  (n.reg (Reg.TMB_PD_DELAY p)).toInt + (n.reg (Reg.TMB_PD_ASYM p)).toInt

/-- A frame forwarded with its correction (R314): its residence from stamp to egress at this node's rate, and the ingress
link delay. -/
def Node.corrected (n : Node) (p stamp egress : Nat) (f : Frame) : Frame :=
  let h := decodeHdr f.body
  let c := (BitVec.ofNat 64 h.corr).toInt + n.scaled ((egress : Int) - stamp) + n.ingressDelay p
  { f with body := encodeHdr { h with corr := (BitVec.ofInt 64 c).toNat } ++ f.body.drop 32 }

/-! ### The servo and the time states (R315 to R318) -/

/-- 100 ns and 1 µs in 2^-16 ns. -/
def syncBound : Nat := 100 * 65536
def lostBound : Nat := 1000 * 65536

/-- The run of good or bad REFs in progress as `TMB_STATE.RUN` shows it. -/
def Node.setRun (n : Node) (k : Nat) : Node := n.setFld Reg.TMB_STATE Fld.TMB_STATE_RUN (min k 7)

/-- `MUTE_SYNC` set or cleared (R317). -/
def Node.setMuteSync (n : Node) (b : Bool) : Node := n.setFld Reg.TMB_STATE Fld.TMB_STATE_MUTE_SYNC (b2n b)

/-- The servo processes an estimate (R316). -/
def Node.servo (n : Node) (e : Int) : Node :=
  let f := clampRate (n.tm.freq + e * 65536 / (16 * n.tc))
  { n with tm := { n.tm with freq := f } }.setRate (f + e * 65536 / (2 * n.tc))

/-- The estimate is shown (R315). -/
def Node.showEst (n : Node) (e : Int) : Node :=
  let ns := e / 65536
  let m := n.setReg Reg.TMB_EST (sword ns)
  m.setReg Reg.TMB_EST_MAX (word (max (m.reg Reg.TMB_EST_MAX).toNat ns.natAbs))

/-- An estimate in SYNCED (R317). -/
def Node.refSynced (n : Node) (e : Int) : Node :=
  let m := n.servo e
  if e.natAbs ≤ syncBound then
    let run := if m.tm.refs = 0 then m.fld Reg.TMB_STATE Fld.TMB_STATE_RUN + 1 else 1
    { m with tm := { m.tm with refs := 0 } }.setRun run
  else
    let k := m.tm.refs + 1
    let m := { m with tm := { m.tm with refs := k } }.setRun k
    if k < 3 then m
    else
      let m := { m with tm := { m.tm with refs := 0 } }.setTs tsLost
      let m := (m.setMuteSync true).inc Reg.TMB_SYNC_LOSS_CNT
      (m.raise 0x3201 (detail (e / 65536)) m.cyc.cur).enterMute

/-- An estimate in LOST (R317): `step` says whether an offset above 1 µs is stepped. -/
def Node.refLost (n : Node) (e : Int) (step : Bool) : Node :=
  let bad := if n.tm.refs = 0 then n.fld Reg.TMB_STATE Fld.TMB_STATE_RUN + 1 else 1
  if lostBound < e.natAbs ∧ step then
    let m := n.stepTime e 3
    { m with tm := { m.tm with refs := 0 } }.setRun bad
  else
    let m := n.servo e
    if e.natAbs ≤ syncBound then
      let k := m.tm.refs + 1
      if k < 8 then { m with tm := { m.tm with refs := k } }.setRun k
      else (({ m with tm := { m.tm with refs := 0 } }.setTs tsSynced).setMuteSync false |>.setRun k).leaveMute
    else { m with tm := { m.tm with refs := 0 } }.setRun bad

/-- A REF in ACQUIRE (R317): the second gives the frequency, the third ends the acquisition or steps. `raw` is the ingress
stamp and `master` the master time there in 2^-16 ns. -/
def Node.refAcquire (n : Node) (e : Int) (raw : Nat) (master : Int) : Node :=
  if n.tm.refs ≤ 1 then
    let m := { n with tm := { n.tm with refs := 2 } }
    match n.tm.ref1 with
    | some (r1, m1) =>
      let dr : Int := ((raw : Int) - r1) * 65536
      if dr ≤ 0 then m
      else
        let f := clampRate ((master - m1 - dr) * 2 ^ 32 / dr)
        { m with tm := { m.tm with freq := f } }.setRate f
    | none => m
  else if e.natAbs ≤ syncBound then
    let m := ({ n with tm := { n.tm with refs := 0 } }.setTs tsSynced).setRun 0
    m.raise 0x3002 m.masterId (detail (e / 65536))
  else
    let m := n.stepTime e 2
    { m with tm := { m.tm with refs := 1, ref1 := some (raw, master) } }

/-- The time state takes the REF of a master (R317). `adopt` holds for a master adopted under R266 other than a takeover
master or the current master's partner. -/
def Node.timeRef (n : Node) (adopt : Bool) (e : Int) (raw : Nat) (master : Int) : Node :=
  let m := (n.showEst e).setFld Reg.TMB_STATE Fld.TMB_STATE_HOLD_CYC 0
  if adopt || m.ts == tsFree || m.ts == tsMaster then
    let m := ((m.stepTime e 1).setTs tsAcquire).setMuteSync false |>.setRun 0
    ({ m with tm := { m.tm with refs := 1, ref1 := some (raw, master), slew := none } }.setFld Reg.TMB_STATE
      Fld.TMB_STATE_SLEW 0).leaveMute
  else if m.ts = tsAcquire then m.refAcquire e raw master
  else if m.ts = tsHoldover then
    if m.tm.held = tsLost then (m.setTs tsLost).refLost e false else (m.setTs tsSynced).refSynced e
  else if m.ts = tsLost then m.refLost e true
  else m.refSynced e

/-- A cycle ends with no REF accepted (R317): SYNCED and LOST pass to HOLDOVER with the rate at f. -/
def Node.timeMissed (n : Node) : Node :=
  let m := n.setFld Reg.TMB_STATE Fld.TMB_STATE_HOLD_CYC (min (n.fld Reg.TMB_STATE Fld.TMB_STATE_HOLD_CYC + 1) 255)
  if m.ts = tsSynced ∨ m.ts = tsLost then (m.setTs tsHoldover).setRate m.tm.freq else m

/-- ORPHANED in HOLDOVER (R317). -/
def Node.timeOrphaned (n : Node) : Node :=
  if n.ts = tsHoldover then ((n.setTs tsFree).setRate n.tm.freq).setMuteSync false else n

/-- TIME_WRAP: train time reaches a multiple of 2^32 ns (R309). -/
def execTimeWrap (time : Nat) (s : State) : Host.Outcome State Fault Refusal :=
  .next (s.on fun n => (n.at time).syncEpoch)

/-- The slew ends: the rate returns to its value before the shift (R320). -/
def Node.slewDone (n : Node) : Node :=
  match n.tm.slew with
  | some sl => ({ n with tm := { n.tm with slew := none } }.setRate sl.base).setFld Reg.TMB_STATE Fld.TMB_STATE_SLEW 0
  | none => n

/-- The shift of TIME_ADJUST has reached its amount (R320). -/
def Node.slewReached (n : Node) : Bool :=
  n.tm.slew.any fun x => decide (x.amount.natAbs ≤ ((n.tm.raw - x.start : Int) * 65536 * x.add / 2 ^ 32).natAbs)

/-- SLEW_COMPLETE: the shift of TIME_ADJUST has reached its amount (R320). -/
def execSlewComplete (time : Nat) (s : State) : Host.Outcome State Fault Refusal :=
  .next (s.on fun n =>
    let m := n.at time
    if m.slewReached then m.slewDone else m)

/-! ### Commands (R340) -/

/-- TIME_STATUS (R340). -/
def execTimeStatus (c : Cmd) (s : State) : Host.Outcome State Fault Refusal :=
  .next (s.runs c 0x0901 fun n => n.command c .either 0 fun m =>
    let ns := m.trainNs
    .done m sOk [m.reg Reg.TMB_STATE, m.reg Reg.TMB_EST, word (nsOf ns), word (secOf ns), word (secOf ns / 2 ^ 32),
      word (m.fine % 65536).toNat])

/-- TIME_SET (R319, R340): a step of train time in LINK, LISTEN and CLAIM. -/
def execTimeSet (c : Cmd) (s : State) : Host.Outcome State Fault Refusal :=
  .next (s.runs c 0x0902 fun n => n.command c (.secure 15) 3 fun m =>
    if 999999999 < arg c 2 ∨ 65536 ≤ arg c 1 then .fail m sArgs
    else if m.st < stLink ∨ stClaim < m.st then .fail m sState
    else
      let target : Int := ((arg c 1 * 2 ^ 32 + arg c 0) * 1000000000 + arg c 2 : Nat)
      .done (m.stepTime (target * 65536 - m.fine) 4) sOk [])

/-- 10 ppm and 1 ppm in 2^-32 (R320). -/
def slewRate : Int := 42949
def slewMin : Int := 4295

/-- TIME_ADJUST (R320, R340). -/
def execTimeAdjust (c : Cmd) (s : State) : Host.Outcome State Fault Refusal :=
  .next (s.runs c 0x0903 fun n => n.command c (.secure 15) 1 fun m =>
    let a := (argW c 0).toInt
    if 10000000 < a.natAbs then .fail m sArgs
    else if !m.master then .fail m sState
    else if m.tm.slew.isSome then .fail m sBusy
    else
      let up := decide (0 ≤ a)
      let margin := if up then maxRate - m.tm.rate else m.tm.rate + maxRate
      if margin < slewMin then .fail m sState
      else if a = 0 then .done m sOk []
      else
        let add := if up then min slewRate margin else -(min slewRate margin)
        let k := { m with tm := { m.tm with slew := some ⟨m.tm.rate, add, a * 65536, m.tm.raw⟩ } }
        .done ((k.setRate (m.tm.rate + add)).setFld Reg.TMB_STATE Fld.TMB_STATE_SLEW 1) sOk [])

/-! ### Timed outputs (R329, R330) -/

/-- A timed output's state changed. -/
def Node.onTout (n : Node) (i : Nat) (f : Tout → Tout) : Node :=
  { n with tm := { n.tm with touts := modifyAt n.tm.touts i f } }

/-- The start that the registers of an output hold, in ns. -/
def Node.toutStart (n : Node) (i : Nat) : Int :=
  (((n.reg (Reg.TMB_TOUT_START_SEC_HI i)).toNat % 65536 * 2 ^ 32 + (n.reg (Reg.TMB_TOUT_START_SEC_LO i)).toNat) *
    1000000000 + (n.reg (Reg.TMB_TOUT_START_NS i)).toNat : Nat)

/-- An output is disarmed. -/
def Node.toutOff (n : Node) (i : Nat) : Node :=
  ((n.onTout i fun t => { t with armed := false }).setFld (Reg.TMB_TOUT_CTRL i) Fld.TMB_TOUT_CTRL_ARM 0).setBit
    (Reg.TMB_TOUT_STAT i) 0 false

/-- An output is armed with what its registers hold (R330); a start less than 2 µs ahead leaves it unarmed. The start time
bears on one-shot and periodic outputs. -/
def Node.toutArm (n : Node) (i : Nat) : Node × Bool :=
  let mode := n.fld (Reg.TMB_TOUT_CTRL i) Fld.TMB_TOUT_CTRL_MODE
  let ahead := n.toutStart i - n.trainNs
  if mode = 0 then (n.toutOff i, false)
  else if mode ≠ 3 ∧ ahead < 2000 then
    (((n.toutOff i).setBit (Reg.TMB_TOUT_STAT i) 1 true).raise 0x3106 i (detail ahead), false)
  else
    let m := n.onTout i fun _ =>
      { armed := true, mode := mode, start := n.toutStart i, period := (n.reg (Reg.TMB_TOUT_PERIOD i)).toNat,
        width := (n.reg (Reg.TMB_TOUT_WIDTH i)).toNat, next := 0, active := false }
    (((m.setFld (Reg.TMB_TOUT_CTRL i) Fld.TMB_TOUT_CTRL_ARM 1).setBit (Reg.TMB_TOUT_STAT i) 0 true).setBit
      (Reg.TMB_TOUT_STAT i) 1 false, true)

/-- A write of `TMB_TOUT_CTRL` (R330, R344). -/
def Node.toutCtrl (n : Node) (i : Nat) (v : Word) : Node :=
  let m := (n.setFld (Reg.TMB_TOUT_CTRL i) Fld.TMB_TOUT_CTRL_MODE (v.toNat % 4)).setFld (Reg.TMB_TOUT_CTRL i)
    Fld.TMB_TOUT_CTRL_POL (v.toNat / 4 % 2)
  if v.toNat % 4 = 0 then m.toutOff i
  else if v.toNat.testBit 3 then (m.toutArm i).1 else m

/-- TOUT_ARM_WRITE: a write of `TMB_TOUT_CTRL` with `ARM` = 1 (R330). -/
def execToutArmWrite (ctx output : Nat) (v : Word) (s : State) : Host.Outcome State Fault Refusal :=
  .next (s.on fun n => n.access ctx (Reg.TMB_TOUT_CTRL output) true fun m => m.toutCtrl output v)

/-- TOUT_MODE_OFF_WRITE: a write of `TMB_TOUT_CTRL` with `MODE` = 0 (R330). -/
def execToutModeOffWrite (ctx output : Nat) (v : Word) (s : State) : Host.Outcome State Fault Refusal :=
  .next (s.on fun n => n.access ctx (Reg.TMB_TOUT_CTRL output) true fun m => m.toutCtrl output v)

/-- A pulse of an armed output (R329). -/
def Node.toutPulse (n : Node) (i : Nat) : Node :=
  let t := n.tm.touts.getD i Tout.reset
  if !t.armed then n
  else
    let at' : Int := if t.mode = 3 then n.trainNs else t.start + t.next * t.period
    let m := { n with tm := { n.tm with pulses := n.tm.pulses ++ [(i, at', t.width)] } }
    if t.mode = 1 then m.toutOff i else m.onTout i fun t => { t with next := t.next + 1 }

/-- The next pulse of an armed output is due (R329). -/
def Node.toutDue (n : Node) (i : Nat) : Bool :=
  let t := n.tm.touts.getD i Tout.reset
  t.armed && t.mode != 3 && decide (t.start + t.next * t.period ≤ n.trainNs)

/-- TOUT_PULSE: an armed one-shot or periodic output drives its pin to the active level for its width (R329); in the
instant mode the dataset's instants drive it (R461). -/
def execToutPulse (output time : Nat) (s : State) : Host.Outcome State Fault Refusal :=
  .next (s.on fun n =>
    let m := n.at time
    if m.toutDue output then m.toutPulse output else m)

/-- TIME_TOUT_SET (R340): the command writes the registers of the output and arms it. -/
def execTimeToutSet (c : Cmd) (s : State) : Host.Outcome State Fault Refusal :=
  .next (s.runs c 0x0904 fun n =>
    let need := if arg c 0 < 8 then Need.inst (16 + arg c 0) else .either
    n.command c need 7 fun m =>
      let i := arg c 0
      let mode := arg c 1
      let width := arg c 6
      let badWidth := decide (width < 4) || (mode == 2 && (decide (arg c 5 < 16) || decide (arg c 5 < width + 4)))
      if 8 ≤ i ∨ mode = 0 ∨ 4 ≤ mode ∨ 999999999 < arg c 2 ∨ 65536 ≤ arg c 4 ∨ badWidth then .fail m sArgs
      else
        let k := m.setRegs (Reg.TMB_TOUT_START_NS i) [argW c 2, argW c 3, argW c 4, argW c 5, argW c 6]
        let k := k.setFld (Reg.TMB_TOUT_CTRL i) Fld.TMB_TOUT_CTRL_MODE mode
        match k.toutArm i with
        | (k, true) => .done k sOk []
        | (k, false) => .fail k sState)

/-- TIME_TOUT_STOP (R340). -/
def execTimeToutStop (c : Cmd) (s : State) : Host.Outcome State Fault Refusal :=
  .next (s.runs c 0x0905 fun n =>
    let need := if arg c 0 < 8 then Need.inst (16 + arg c 0) else .either
    n.command c need 1 fun m =>
      if 8 ≤ arg c 0 then .fail m sArgs
      else .done ((m.setFld (Reg.TMB_TOUT_CTRL (arg c 0)) Fld.TMB_TOUT_CTRL_MODE 0).toutOff (arg c 0)) sOk [])

/-! ### Captures (R332) -/

/-- The registers that show a capture queue. -/
def Node.syncTcap (n : Node) (i : Nat) : Node :=
  let t := n.tm.tcaps.getD i Tcap.reset
  let e := t.entries.headD ⟨0, 0, false⟩
  (n.setReg (Reg.TMB_TCAP_STAT i)
    (word (t.entries.length + b2n e.level * 256 + min t.lost 65535 * 65536))).setRegs (Reg.TMB_TCAP_NS i)
    [word e.ns, word e.sec, word (e.sec / 2 ^ 32)]

/-- A capture queue changed, and the registers with it. -/
def Node.onTcap (n : Node) (i : Nat) (f : Tcap → Tcap) : Node :=
  { n with tm := { n.tm with tcaps := modifyAt n.tm.tcaps i f } }.syncTcap i

/-- An edge on a capture input (R332). -/
def Node.capture (n : Node) (i : Nat) (rising : Bool) : Node :=
  let edge := n.bits (Reg.TMB_TCAP_CTRL i) 0 2
  if edge = 3 ∨ edge = (if rising then 1 else 2) then
    let t := n.tm.tcaps.getD i Tcap.reset
    if t.entries.length < 16 then
      n.onTcap i fun t => { t with entries := t.entries ++ [⟨secOf n.trainNs, nsOf n.trainNs, rising⟩], full := false }
    else
      let m := n.onTcap i fun t => { t with lost := t.lost + 1, full := true }
      if t.full then m else m.raise 0x3107 i 0
  else n

/-- TCAP_EDGE: an edge on a capture input (R332). -/
def execTcapEdge (input : Nat) (rising : Bool) (time : Nat) (s : State) : Host.Outcome State Fault Refusal :=
  .next (s.on fun n => (n.at time).capture input rising)

/-- The oldest capture is removed. -/
def Node.capturePop (n : Node) (i : Nat) : Node :=
  n.onTcap i fun t => { t with entries := t.entries.drop 1, full := false }

/-- TCAP_ENTRY_READ: a read of `TMB_TCAP_SEC_HI` returns the word and removes the entry (R332). -/
def execTcapEntryRead (ctx input : Nat) (s : State) : Host.Outcome State Fault Refusal :=
  .next (s.on fun n => n.access ctx (Reg.TMB_TCAP_SEC_HI input) false fun m =>
    (m.answer (m.reg (Reg.TMB_TCAP_SEC_HI input))).capturePop input)

/-! ### Timestamp queues (R325 to R328) -/

/-- A TSQ belongs to a context (R325). -/
def Node.tsqMine (n : Node) (ctx q : Nat) : Bool :=
  n.bit (Reg.TMB_TSQ_CFG q) 7 && n.bits (Reg.TMB_TSQ_CFG q) 0 3 == ctx

/-- The oldest entry of a TSQ is removed; an overflow ends only with the next stamp (R328). -/
def Node.tsqPop (n : Node) (q : Nat) : Node :=
  { n with tm := { n.tm with tsqs := modifyAt n.tm.tsqs q fun t => { t with entries := t.entries.drop 1 } } }.syncTsq q

/-- TSQ_ENTRY_READ: a read of `TMB_TSQ_W2` by the context that holds the queue returns the word and removes the entry; to
any other context it reads zero (R325, R327). -/
def execTsqEntryRead (ctx queue : Nat) (s : State) : Host.Outcome State Fault Refusal :=
  .next (s.on fun n => n.access ctx (Reg.TMB_TSQ_W2 queue) false fun m =>
    if m.tsqMine ctx queue then (m.answer (m.reg (Reg.TMB_TSQ_W2 queue))).tsqPop queue else m)

/-! ### The audio clock (R337, R338) -/

/-- AUDIO_PLL_LOCK: the audio PLL has locked, to a synchronised train time or again after a step; the phase error and the lock
are shown and the TDM outputs sound again (R337, R338). -/
def execAudioPllLock (phase : Int) (time : Nat) (s : State) : Host.Outcome State Fault Refusal :=
  .next (s.on fun n =>
    let m := n.at time
    if m.ts = tsSynced ∨ m.ts = tsMaster ∨ m.tm.audioMute then
      let k := (m.setBit Reg.TMB_AUD_STAT 0 true).setBits Reg.TMB_AUD_STAT 16 16 (sword phase).toNat
      { k with tm := { k.tm with audioMute := false } }
    else m)

/-- PTP_MESSAGE_RECEIVED: a Sync (0), Follow_Up (8) or Announce (11) on a car port is discarded, counted and reported once
per link-up (R336). -/
def execPtpMessageReceived (port msgType time : Nat) (s : State) : Host.Outcome State Fault Refusal :=
  .next (s.on fun n =>
    let m := n.at time
    if 4 ≤ port ∧ port < 12 ∧ (msgType = 0 ∨ msgType = 8 ∨ msgType = 11) then
      let k := m.inc (Reg.TMB_CARTIME_FOREIGN (port - 4))
      if (k.port port).ptpSeen then k
      else (k.onPort port fun q => { q with ptpSeen := true }).raise 0x3008 port msgType
    else m)

end Sys2Proof.Machine
end

