-- ==== Sys2Proof/Machine/Ref.lean ====
section
/-! DEFINITION. The reference frame (R205 to R211) and what a node does with it: master adoption (R266, R283, R323), time,
cycle and mode checks, switches (R239 to R244) and announcements (R277, R292). -/

namespace Sys2Proof.Machine

/-- The payload of a REF (R206). -/
structure RefInfo where
  cyc : Nat
  sec : Nat
  ns : Nat
  code : Nat
  mode : Nat
  next : Nat
  state : Nat
  reason : Nat
  swCyc : Nat
  tint : Nat
  master : Nat
  rank : Nat
  holdover : Bool
  commit : Bool
  reset : Bool
  snapshot : Bool
  epoch : Nat
  commitCyc : Nat
  opCyc : Nat
  opOff : Nat
  deriving DecidableEq, Repr

/-- The fields of a REF payload; reserved bits are ignored (R207). -/
def decodeRef (b : List Byte) : RefInfo :=
  { cyc := beAt b 0 8, sec := beAt b 8 6, ns := beAt b 14 4, code := byteAt b 18 % 8, mode := byteAt b 19 % 8,
    next := byteAt b 19 / 16 % 8, state := byteAt b 20, reason := byteAt b 21, swCyc := beAt b 24 4, tint := beAt b 28 4,
    master := beAt b 32 6, rank := byteAt b 38, holdover := (byteAt b 39).testBit 0, commit := (byteAt b 39).testBit 1,
    reset := (byteAt b 39).testBit 2, snapshot := (byteAt b 39).testBit 3, epoch := beAt b 40 2, commitCyc := beAt b 44 4,
    opCyc := beAt b 48 4, opOff := beAt b 52 4 }

/-- The 64 bytes of a REF payload (R206). -/
def encodeRef (f : RefInfo) : List Byte :=
  encBE 8 f.cyc ++ encBE 6 f.sec ++ encBE 4 f.ns ++ encBE 1 f.code ++ encBE 1 (f.mode + f.next * 16) ++ encBE 1 f.state ++
  encBE 1 f.reason ++ zeros 2 ++ encBE 4 f.swCyc ++ encBE 4 f.tint ++ encBE 6 f.master ++ encBE 1 f.rank ++
  encBE 1 (b2n f.holdover + b2n f.commit * 2 + b2n f.reset * 4 + b2n f.snapshot * 8) ++ encBE 2 f.epoch ++ zeros 2 ++
  encBE 4 f.commitCyc ++ encBE 4 f.opCyc ++ encBE 4 f.opOff ++ zeros 8

/-- The claim value of a REF's master: rank and identity. -/
def RefInfo.value (f : RefInfo) : Nat := f.rank * 2 ^ 48 + f.master

/-! ### Modes and switches -/

/-- The current mode (R251). -/
def Node.mode (n : Node) : Nat := n.fld Reg.CYC_STATE Fld.CYC_STATE_CUR

/-- The node holds a mode. -/
def Node.holds (n : Node) (m : Nat) : Bool := n.cyc.modes.any fun x => x.num == m

/-- The registers that show the switch a node holds (R252). What the node has answered is shown until the next announcement. -/
def Node.showSwitch (n : Node) (w : Switch) : Node :=
  let said := if w.state = 1 then 0 else n.bits Reg.CYC_MODE_NEXT 6 2
  let v := w.target % 8 + w.state % 4 * 8 + b2n (w.tint != 0) * 32 + said * 64 + w.reason % 256 * 256
  (n.setReg Reg.CYC_MODE_NEXT (word v)).setReg Reg.CYC_SWITCH_CYC (word w.cyc)

/-- The switch held is changed and shown. The streams staged in a placer mode go with the switch that announces it (R367). -/
def Node.putSwitch (n : Node) (w : Switch) : Node :=
  let m := { n with cyc := { n.cyc with switch := some w } }.showSwitch w
  if w.state = 1 ∧ 4 ≤ w.target ∧ w.target = m.fld Reg.PLC_STATE Fld.PLC_STATE_STAGED_MODE ∧ !m.plc.staging.isEmpty then
    let k := { m with plc := { m.plc with announcedStreams := m.plc.announcedStreams ++ m.plc.staging, staging := [] } }
    k.setFld Reg.PLC_STATE Fld.PLC_STATE_STAGED 0
  else m

/-- A tint is staged, announced or not (R126), and whether it carries MODES or STREAMS. -/
def Node.tintStaged (n : Node) : Bool := n.fld Reg.IMG_TINT_STAT Fld.IMG_TINT_STAT_STATE ∈ [1, 2]
def Node.tintModes (n : Node) : Bool :=
  n.fld Reg.IMG_TINT_STAT Fld.IMG_TINT_STAT_MODES == 1 || n.fld Reg.IMG_TINT_STAT Fld.IMG_TINT_STAT_STREAMS == 1

/-- The node refuses a switch (R239). -/
def Node.refusesSwitch (n : Node) (target tint : Nat) : Bool :=
  let tag := (n.reg Reg.IMG_TINT_TAG).toNat
  !n.holds target || (tint != 0 && n.tintStaged && tag != tint) ||
  (tint != 0 && n.tintStaged && tag == tint && n.tintModes && decide (4 ≤ target)) ||
  (decide (4 ≤ target) && n.fld Reg.PLC_STATE Fld.PLC_STATE_GAP == 1)

/-- A pending switch is discarded (R242), unless it has been aborted before: MODE_ABORTED, and TINT_ABORTED at a node that holds its tint staged (R129). -/
def Node.abortSwitch (n : Node) (reason : Nat) : Node :=
  match n.cyc.switch with
  | none => n
  | some w =>
    if w.state = 3 then { n with cyc := { n.cyc with switch := none } } else
    let m := (n.showSwitch { w with state := 3, reason := reason }).raise 0x2106 (w.target + reason * 256) w.cyc
    let m := { m with
      cyc := { m.cyc with switch := none }
      plc := { m.plc with staging := m.plc.announcedStreams ++ m.plc.staging, announcedStreams := [] } }
    let m := if m.plc.staging.isEmpty then m else m.setFld Reg.PLC_STATE Fld.PLC_STATE_STAGED 1
    if w.tint ≠ 0 ∧ m.tintStaged ∧ (m.reg Reg.IMG_TINT_TAG).toNat = w.tint then
      ((m.setFld Reg.IMG_TINT_STAT Fld.IMG_TINT_STAT_STATE 1).setReg Reg.IMG_TINT_CYCLE (word m.boot.tintCyc)).raise 0x1107
        w.tint w.target
    else m

/-- A switch is announced: the node holds it, acknowledged or refused, and a staged tint with its tag is announced too
(R126, R128, R139, R239). -/
def Node.announceSwitch (n : Node) (target cyc tint announcer : Nat) : Node :=
  let bad := n.refusesSwitch target tint
  let m := n.putSwitch ⟨target, cyc, tint, 1, 0, !bad, bad, announcer⟩
  if tint ≠ 0 ∧ m.tintStaged ∧ (m.reg Reg.IMG_TINT_TAG).toNat = tint then
    ((m.setFld Reg.IMG_TINT_STAT Fld.IMG_TINT_STAT_STATE 2).setFld Reg.IMG_TINT_STAT Fld.IMG_TINT_STAT_TARGET target).setReg
      Reg.IMG_TINT_CYCLE (word cyc)
  else m

/-- What a REF says of the switch (R239 to R243). A node that hears of it only once it is confirmed switches with the train
(R241), and has acknowledged nothing. -/
def Node.refSwitch (n : Node) (f : RefInfo) : Node :=
  let m := match n.cyc.switch with
    | some w => if w.announcer = f.master then n else n.abortSwitch 4
    | none => n
  let cyc := extend32 f.cyc f.swCyc
  match f.state with
  | 1 =>
    match m.cyc.switch with
    | some w =>
      if w.cyc = cyc ∧ w.target = f.next ∧ w.tint = f.tint then m else m.announceSwitch f.next cyc f.tint f.master
    | none => m.announceSwitch f.next cyc f.tint f.master
  | 2 =>
    match m.cyc.switch with
    | some w => if w.cyc = cyc then m.putSwitch { w with state := 2 } else m
    | none =>
      let k := m.announceSwitch f.next cyc f.tint f.master
      k.putSwitch ⟨f.next, cyc, f.tint, 2, 0, false, false, f.master⟩
  | 3 =>
    match m.cyc.switch with
    | some w => if w.cyc = cyc then m.abortSwitch f.reason else m
    | none => m.showSwitch ⟨f.next, cyc, f.tint, 3, f.reason, false, false, f.master⟩
  | _ => if m.cyc.switch.isNone then m.setFld Reg.CYC_MODE_NEXT Fld.CYC_MODE_NEXT_STATE 0 else m

/-- The node takes the mode that REF names as current (R230): without it, it stays in MUTE until REF names one that it
holds. -/
def Node.takeMode (n : Node) (mode : Nat) : Node :=
  let m := n.setFld Reg.CYC_STATE Fld.CYC_STATE_CUR mode
  let out := b2n !(m.holds mode)
  let m := { m.setFld Reg.CYC_STATE Fld.CYC_STATE_MUTE_MODE out with
    cyc := { m.cyc with noMode := out == 1, mismatch := false, modeRun := 0, adopt := none } }
  if out = 1 then m.enterMute else m.leaveMute

/-- The mode of a REF against the node's own (R230, R244). -/
def Node.refModeCheck (n : Node) (f : RefInfo) : Node :=
  let n := { n with cyc := { n.cyc with refMode := f.mode } }
  if n.st < stRun then n
  else if n.cyc.entering then
    ({ n with cyc := { n.cyc with entering := false } }.takeMode f.mode)
  else if n.cyc.noMode ∧ n.holds f.mode then n.takeMode f.mode
  else if f.mode = n.mode then
    let m := { n with cyc := { n.cyc with mismatch := false, adopt := none, modeRun := n.cyc.modeRun + 1 } }
    if m.fld Reg.CYC_STATE Fld.CYC_STATE_MUTE_MODE = 1 ∧ !m.cyc.noMode ∧ 8 ≤ m.cyc.modeRun then
      (m.setFld Reg.CYC_STATE Fld.CYC_STATE_MUTE_MODE 0).leaveMute
    else m
  else
    let m := if n.cyc.mismatch then n else n.raise 0x2207 n.mode f.mode
    let m := { m with cyc := { m.cyc with mismatch := true, modeRun := 0,
                                          adopt := if m.holds f.mode then some f.mode else none } }
    (m.setFld Reg.CYC_STATE Fld.CYC_STATE_MUTE_MODE 1).enterMute

/-- The cycle number and code of a REF against the node's own (R211). -/
def Node.refCycleCheck (n : Node) (f : RefInfo) (own : Nat) : Node :=
  let muted := n.fld Reg.CYC_STATE Fld.CYC_STATE_MUTE_CYC == 1
  let slip (m : Node) (d0 : Nat) : Node :=
    ((m.setFld Reg.CYC_STATE Fld.CYC_STATE_MUTE_CYC 1).raise 0x220A d0 f.cyc).enterMute
  if f.code ≠ n.fld Reg.CYC_CFG Fld.CYC_CFG_CODE then
    let m := { n with cyc := { n.cyc with codeBad := true, numRun := 0 } }
    if muted && n.cyc.codeBad then m else slip m 2
  else if f.cyc ≠ own then
    let m := { n with cyc := { n.cyc with numRun := 0 } }
    if muted then m else slip m 1
  else
    let m := { n with cyc := { n.cyc with numRun := n.cyc.numRun + 1 } }
    if muted && !m.cyc.codeBad && decide (8 ≤ m.cyc.numRun) then
      (m.setFld Reg.CYC_STATE Fld.CYC_STATE_MUTE_CYC 0).leaveMute
    else m

/-! ### Adoption (R266, R283, R284, R323) -/

/-- How a node takes a REF. -/
inductive RefTake where
  | ignore
  | own
  | adopt
  | better
  | partner
  | takeover
  | foreign
  deriving DecidableEq, Repr

/-- The admission of a REF (R209, R266, R323). -/
def Node.refTake (n : Node) (h : SpineHdr) (f : RefInfo) : RefTake :=
  if n.st < stListen ∨ f.master = n.identity then .ignore
  else if n.st = stListen ∨ n.st = stClaim then .adopt
  else if f.master = n.masterId then .own
  else if f.master = n.ina.masterPartner ∧ n.ina.masterPartner ≠ 0 then .partner
  else if n.ts = tsHoldover ∧ f.holdover ∧ h.epoch = n.epoch ∧ (n.entryOf f.master).any (fun e => decide (e.backup < 16)) then
    .takeover
  else if n.masterValue < f.value then .better
  else .foreign

/-- A commit that had been announced is discarded (R278). -/
def Node.dropCommit (n : Node) : Node :=
  ({ n with ina := { n.ina with result := none, parts := [], refCommit := none, announced := none } }).setReg
    Reg.INA_COMMIT 0#32

/-- A master hears a better one (R284): no REF for any later cycle, and MASTER_DEMOTED names the better master. -/
def Node.demoted (n : Node) (f : RefInfo) : Node :=
  if n.master then
    let m := (n.setFld Reg.INA_STATE Fld.INA_STATE_MASTER 0).setFld Reg.CYC_STATE Fld.CYC_STATE_MASTER 0
    (m.setFld Reg.PLC_STATE Fld.PLC_STATE_MASTER 0).raise 0x2901 f.master
      (f.value / 2 ^ 32)
  else n

/-- The master of a REF becomes the current master (R258, R265, R266, R283). -/
def Node.adoptMaster (n : Node) (take : RefTake) (f : RefInfo) : Node :=
  let m := (n.dropCommit.demoted f).setMaster f.value
  let cold := (m.ina.heard.any fun x => x.1 == f.master && decide (m.tm.raw ≤ x.2 + 2 * m.tc)) &&
    (n.st == stListen || n.st == stClaim)
  let m := { m with
    cyc := { m.cyc with lastRef := none }
    ina := { m.ina with coldStart := cold, hold := false, claims := 0, masterPartner := 0, roundOn := false,
                        electCause := 0, holdRef := false } }
  if take = .better then
    let m := m.raise 0x2809 f.master (f.value / 2 ^ 32)
    if m.st = stRun ∨ m.st = stNumbered then m.setSt stIntegrate else m
  else if n.st = stListen ∨ n.st = stClaim ∨ n.st = stNumbered then m.setSt stIntegrate
  else m

/-! ### Announcements -/

/-- A commit that the REF announces (R277, R279, R302). -/
def Node.refAnnounce (n : Node) (f : RefInfo) : Node :=
  if !f.commit then n
  else
    let cyc := extend32 f.cyc f.commitCyc
    let m := if n.ina.refCommit = some (f.epoch, cyc) then n
      else { n with ina := { n.ina with refCommit := some (f.epoch, cyc), joiner := n.st != stRun } }
    (m.setReg Reg.INA_COMMIT (word (f.epoch + 65536 + b2n m.ina.coldStart * 2 ^ 17))).setReg Reg.INA_COMMIT_CYC (word cyc)

/-- A train reset or snapshot that the REF announces (R292, R293). -/
def Node.takeOp (n : Node) (op cyc off requester tag : Nat) : Node :=
  match n.ina.op with
  | some o =>
    if o.cyc = cyc ∧ o.requester = 0 then { n with ina := { n.ina with op := some { o with requester := requester, tag := tag } } }
    else n
  | none =>
    let m := { n with ina := { n.ina with op := some ⟨op, cyc, off, requester, tag⟩ } }
    if op = 3 then m.raise 0x280A cyc off else m

def Node.refOp (n : Node) (f : RefInfo) : Node :=
  if f.reset then n.takeOp 3 (extend32 f.cyc f.opCyc) f.opOff 0 0
  else if f.snapshot then n.takeOp 4 (extend32 f.cyc f.opCyc) f.opOff 0 0
  else n

/-! ### The REF as a whole -/

/-- The residence of a frame without a stated egress stamp (R49): 180 ns, or 220 ns from a protected link, and the whole frame
where it is stored (R169). -/
def Node.egressOf (n : Node) (r : Rx) (p : Nat) : Nat :=
  ((r.egress.find? fun e => e.1 == p).map (·.2)).getD (r.stamp + 180 + (if n.secOn r.port then 40 else 0) +
    (if n.cutThrough r.port p then 0 else n.wireNs r.port r.frame))

/-- A REF or SLOT frame sent on leaves at its egress stamp (R80). -/
def Node.passAt (n : Node) (r : Rx) (p : Nat) (f : Frame) (t : Nat) : Node :=
  if n.express (n.classOf f) f then (if n.mayLeave p f then n.starts p (n.classOf f) f t else n) else n.pass r p f

/-- A received frame sent on along its line with its correction (R153, R156, R314). -/
def Node.forwardCorrected (n : Node) (r : Rx) (lineB : Bool) : Node :=
  ((n.linePorts lineB).filter fun p => p != r.port).foldl
    (fun m p => m.passAt r p (n.corrected r.port r.stamp (n.egressOf r p) r.frame) (n.egressOf r p)) n

/-- The number of the boundary nearest to an instant of train time (R211). -/
def nearestCycle (ns : Int) (tc : Nat) : Nat := ((ns + tc / 2) / tc).toNat

/-- The offset estimate of a REF in 2^-16 ns, and the master time at its ingress stamp (R315). -/
def Node.refEstimate (n : Node) (r : Rx) (h : SpineHdr) (f : RefInfo) : Int × Int :=
  let o : Int := ((f.sec * 1000000000 + f.ns : Nat) : Int) * 65536
  let mst := o + (BitVec.ofNat 64 h.corr).toInt + n.ingressDelay r.port
  (mst - n.fineAt r.stamp, mst)

/-- A line on which the REF of the cycle has arrived, and its delay from the master (R208). -/
def Node.sawLine (n : Node) (r : Rx) (h : SpineHdr) (lineB : Bool) : Node :=
  let path := some ((((BitVec.ofNat 64 h.corr).toInt + n.ingressDelay r.port) / 65536).toNat, r.port)
  if lineB then { n with cyc := { n.cyc with seenB := true, pathB := path } }
  else { n with cyc := { n.cyc with seenA := true, pathA := path } }

/-- A REF is accepted (R209): it drives time, cycle, mode, switch and announcements; a node that claims claims no more (R265,
R286). The REF by which a node adopts a master sets its time, so that only its code can differ (DEDUCED, log entry 116). -/
def Node.acceptRef (n : Node) (r : Rx) (h : SpineHdr) (f : RefInfo) (take : RefTake) : Node :=
  let own := nearestCycle (n.fineAt r.stamp / 65536) n.tc
  let (e, mst) := n.refEstimate r h f
  let m := if take = .own then n else n.adoptMaster take f
  let m := m.timeRef (take == .adopt || take == .better) e r.stamp mst
  let m := { m.dropClaim with cyc := { m.cyc with lastRef := some f.cyc, refPort := r.port, refAt := some m.tm.raw, missed := 0 } }
  let m := m.refCycleCheck f (if take = .adopt ∨ take = .better then f.cyc else own)
  (((m.refModeCheck f).refSwitch f).refAnnounce f).refOp f

/-- REF_RECEIVED: a REF passes the checks of R158 and is accepted, forwarded as a later copy, or discarded as foreign
(R209, R266). -/
def execRefReceived (r : Rx) (s : State) : Host.Outcome State Fault Refusal :=
  .next (s.on fun n => n.receive r 0x0 fun g h pl =>
    let f := decodeRef pl
    let lineB := g.rxLine r h
    match g.refTake h f with
    | .ignore => g
    | .foreign => (g.inc Reg.INA_FOREIGN_DROP).notice 3 r.port
    | take =>
      let m := (g.sawLine r h lineB).forwardCorrected r lineB
      if take = .own ∧ m.cyc.lastRef = some f.cyc then m else m.acceptRef r h f take)

/-- A cycle ends without an accepted REF: it is counted, and time holds over (R210, R317). -/
def Node.cycleMissed (n : Node) : Node :=
  let m := { n with cyc := { n.cyc with missed := n.cyc.missed + 1 } }
  ((m.inc Reg.CYC_REF_MISS).setFld Reg.CYC_STATE Fld.CYC_STATE_HOLDOVER 1).timeMissed

/-- REF_LOST is due (R323): at the first missed cycle, at the second, and at each takeover step of a backup that the
numbering holds. -/
def Node.refLostDue (n : Node) : Bool :=
  let k := n.cyc.missed
  k == 1 || k == 2 || (decide (3 ≤ k) && n.ina.table.any fun e => e.backup == k - 3)

/-- A REF has been accepted since the cycle that ends began (R210). -/
def Node.refHeard (n : Node) : Bool :=
  n.cyc.refAt.any fun t => decide (((n.cycleNow - 1) * n.tc : Nat) ≤ n.fineAt t / 65536)

/-- REF_LOST: a cycle has ended with no REF accepted (R210, R323). The first detail word is the number of the missed
cycle. -/
def execRefLost (time : Nat) (s : State) : Host.Outcome State Fault Refusal :=
  .next (s.on fun n =>
    let m := n.at time
    if m.st < stIntegrate ∨ m.master ∨ m.refHeard then m
    else
      let k := m.cycleMissed
      if k.refLostDue then k.raise 0x2108 (k.cycleNow - 1) k.cyc.missed else k)

/-- The node is a candidate (R262): rank not zero, not in MUTE, and in a pair the token holder. -/
def Node.candidate (n : Node) : Bool :=
  n.fld Reg.INA_CFG Fld.INA_CFG_RANK != 0 && n.st != stMute &&
  (!n.paired || n.holder)

/-- The node's own claim value. -/
def Node.claimValue (n : Node) : Nat := n.fld Reg.INA_CFG Fld.INA_CFG_RANK * 2 ^ 48 + n.identity

/-- The best claim held, from the last 1 ms (R264). -/
def Node.bestClaim (n : Node) : Option Nat :=
  ((n.ina.claimsHeard.filter fun x => decide (n.tm.raw ≤ x.2 + 1000000)).map (·.1)).max?

/-- A better claim than the node's own is held. -/
def Node.betterHeld (n : Node) : Bool := n.bestClaim.any fun v => decide (n.claimValue < v)

/-- BACKUP_TAKEOVER_CLAIM: at its takeover step a backup that has accepted no REF and holds no better claim claims with
`HOLD` (R286, R323). -/
def execBackupTakeoverClaim (time : Nat) (s : State) : Host.Outcome State Fault Refusal :=
  .next (s.on fun n =>
    let m := n.at time
    let k := m.fld Reg.INA_STATE Fld.INA_STATE_BACKUP
    if m.st = stRun ∧ !m.master ∧ k < 16 ∧ 3 + k ≤ m.cyc.missed ∧ m.candidate ∧ !m.betterHeld then
      { m with ina := { m.ina with hold := true, claims := 0, claimFrom := m.tm.raw } }
    else m)

/-- ORPHANED: 24 basic cycles without a REF (R287): the node enters LISTEN, keeps `TOP_PLACE`, and its time runs free. -/
def execOrphaned (time : Nat) (s : State) : Host.Outcome State Fault Refusal :=
  .next (s.on fun n =>
    let m := n.at time
    if (m.st = stRun ∨ m.st = stMute) ∧ 24 ≤ m.cyc.missed then
      (m.raise 0x2911 m.epoch m.cyc.missed).timeOrphaned.toListen
    else m)

end Sys2Proof.Machine
end

