-- ==== Sys2Proof/Machine/Inaug.lean ====
section
/-! DEFINITION. Listening, claims and election (R261 to R265), the TOPO round (R268 to R272), TOPO_RESULT (R276), the
operations across the train (R291, R292) and TTDP (R295, R296). -/

namespace Sys2Proof.Machine

/-! ### Listening and claims -/

/-- LINK_WAIT_EXPIRY: a node alone in LINK for `INA_LINK_WAIT` goes on to LISTEN (R258); 0 never does. -/
def execLinkWaitExpiry (time : Nat) (s : State) : Host.Outcome State Fault Refusal :=
  .next (s.on fun n =>
    let m := n.at time
    let wait := m.bits Reg.INA_LINK_WAIT 0 16
    if m.st = stLink ∧ wait ≠ 0 ∧ m.ina.entered + 1000000 * wait ≤ m.tm.raw then m.toListen else m)

/-- The listening time W = 3 T_c + h / 1,024 T_c has passed, with h from the CRC-32C of the identity (R261). -/
def Node.listened (n : Node) : Bool :=
  decide ((3072 + crc32c (encBE 6 n.identity) % 1024) * n.tc ≤ 1024 * (n.tm.raw - n.ina.waitFrom))

/-- LISTEN_WAIT_EXPIRY: the listening time W has passed (R261, R262). -/
def execListenWaitExpiry (time : Nat) (s : State) : Host.Outcome State Fault Refusal :=
  .next (s.on fun n =>
    let m := n.at time
    if m.st = stListen ∧ m.listened then
      if m.candidate ∧ !m.betterHeld then
        let k := m.setSt stClaim
        { k with ina := { k.ina with claims := 0, claimFrom := k.tm.raw, hold := false } }
      else { m with ina := { m.ina with waitFrom := m.tm.raw } }
    else m)

/-- The node claims: in CLAIM, or as a candidate backup continuing from holdover (R262, R286). -/
def Node.claiming (n : Node) : Bool := n.st == stClaim || (n.ina.hold && n.candidate)

/-- CLAIM_SEND: a claim on every member link and, in a pair, over the Jalder link (R263). -/
def execClaimSend (time : Nat) (s : State) : Host.Outcome State Fault Refusal :=
  .next (s.on fun n =>
    let m := n.at time
    if m.claiming then
      let k := m.inc Reg.INA_CLAIMS
      let k := { k with ina := { k.ina with claims := k.ina.claims + 1 } }
      k.originate (k.hdr 0x4)
        (encBE 1 (k.fld Reg.INA_CFG Fld.INA_CFG_RANK) ++ encBE 1 (b2n k.ina.hold) ++ encBE 6 k.identity ++
          encBE 1 (k.fld Reg.CYC_CFG Fld.CYC_CFG_CODE) ++ zeros 3 ++ encBE 4 k.ina.claims) k.member
    else m)

/-- A REF has been accepted in the last 2 basic cycles. -/
def Node.refRecent (n : Node) : Bool := n.cyc.refAt.any fun t => decide (n.tm.raw ≤ t + 2 * n.tc)

/-- A claim is held for 1 ms, and the registers show the best one held (R264). -/
def Node.holdClaim (n : Node) (v : Nat) : Node :=
  let m := { n with ina := { n.ina with
    claimsHeard := n.ina.claimsHeard.filter (fun (x : Nat × Nat) => decide (n.tm.raw ≤ x.2 + 1000000)) ++ [(v, n.tm.raw)] } }
  let b := m.bestClaim.getD v
  (m.setReg Reg.INA_BEST_CLAIM_LO (word b)).setReg Reg.INA_BEST_CLAIM_HI (word (b / 2 ^ 32))

/-- CLAIM_RECEIVED: the best claim is held and sent on, and a claimant that hears a better one stops (R264, R265). -/
def execClaimReceived (r : Rx) (s : State) : Host.Outcome State Fault Refusal :=
  .next (s.on fun n => n.receive r 0x4 fun g h pl =>
    let v := byteAt pl 0 * 2 ^ 48 + beAt pl 2 6
    if g.st < stListen ∨ beAt pl 2 6 = g.identity then g
    else
      let best := g.bestClaim.all fun w => decide (w ≤ v)
      let m := if (byteAt pl 1).testBit 0 then g else { g with ina := { g.ina with heard := some (beAt pl 2 6, g.tm.raw) } }
      let m := m.holdClaim v
      let m := if best ∧ !(g.claiming && decide (v < g.claimValue)) ∧ !g.refRecent then m.forwardLine r (g.rxLine r h) else m
      if g.claiming ∧ g.claimValue < v then
        if m.st = stClaim then m.toListen else m.dropClaim
      else m)

/-- The node becomes cycle master (R257, R265, R286, R324). -/
def Node.becomeMaster (n : Node) (cause : Nat) : Node :=
  let first := n.cycleNow + 1
  let m := (n.dropCommit.setMaster n.claimValue).setFld Reg.INA_STATE Fld.INA_STATE_MASTER 1
  let m := ((m.setFld Reg.CYC_STATE Fld.CYC_STATE_MASTER 1).setFld Reg.CYC_STATE Fld.CYC_STATE_HOLDOVER 0).setTs tsMaster
  let m := m.setFld Reg.PLC_STATE Fld.PLC_STATE_MASTER 1
  let m := if m.st = stClaim then m.setSt stIntegrate else m
  let m := { m with
    cyc := { m.cyc with lastRef := none, missed := 0 }
    ina := { m.ina with hold := false, masterPartner := m.partnerId, coldStart := cause == 1, electCause := cause,
                        firstRef := first, holdRef := cause == 2, roundOn := false, ready := false, incomplete := 0,
                        lastNotice := m.trainNs - 3 * (m.tc : Int) } }
  m.wantRound.raise 0x2806 cause first

/-- MASTER_ELECTED: the claim settle time has passed with no better claim (R265): cause 1 at a cold start, 2 at a takeover. -/
def execMasterElected (time : Nat) (s : State) : Host.Outcome State Fault Refusal :=
  .next (s.on fun n =>
    let m := n.at time
    if m.claiming ∧ 1 ≤ m.ina.claims ∧ !m.betterHeld ∧
        m.ina.claimFrom + 400000 + 2000 * m.bits Reg.INA_MAX_RTT 0 11 ≤ m.tm.raw then
      m.becomeMaster (if m.ina.hold then 2 else 1)
    else m)

/-! ### TOPO records (R269) -/

/-- A record from its 40 bytes. -/
def decodeRec (b : List Byte) : TopoRec :=
  { identity := beAt b 0 6, upstream := beAt b 6 6, vehTag := beAt b 12 4, pairId := beAt b 16 4, delay := beAt b 20 4,
    epoch := beAt b 24 2, rank := byteAt b 26, flags := byteAt b 27 % 128, ingress := byteAt b 28, fanout := byteAt b 29,
    code := byteAt b 30 % 8, jlk := beAt b 32 4 }

/-- The 40 bytes of a record. -/
def encodeRec (t : TopoRec) : List Byte :=
  encBE 6 t.identity ++ encBE 6 t.upstream ++ encBE 4 t.vehTag ++ encBE 4 t.pairId ++ encBE 4 t.delay ++ encBE 2 t.epoch ++
  encBE 1 t.rank ++ encBE 1 t.flags ++ encBE 1 t.ingress ++ encBE 1 t.fanout ++ encBE 1 t.code ++ zeros 1 ++
  encBE 4 t.jlk ++ zeros 4

/-- The records of a probe or reply. -/
def topoRecs (payload : List Byte) : List TopoRec :=
  (List.range (beAt payload 4 2)).map fun i => decodeRec (slice payload (16 + 40 * i) 40)

/-- Flags of a record (R269). -/
def TopoRec.front (t : TopoRec) : Bool := t.flags.testBit 0
def TopoRec.roleB (t : TopoRec) : Bool := t.flags.testBit 1
def TopoRec.paired (t : TopoRec) : Bool := t.flags.testBit 2
def TopoRec.branch (t : TopoRec) : Bool := t.flags.testBit 3
def TopoRec.sec (t : TopoRec) : Bool := t.flags.testBit 4
def TopoRec.port (t : TopoRec) : Nat := t.ingress % 16

/-- A link delay in ns as PDELAY measures it, without the asymmetry that software gives (R269). -/
def Node.delayNs (n : Node) (p : Nat) : Nat := ((n.reg (Reg.TMB_PD_DELAY p)).toInt / 65536).toNat

/-- The node's own record for a probe that came on a port (R269). A node is a branch node when its upstream link leaves
the far end on a car port, or continues from a branch node (R31). -/
def Node.ownRec (n : Node) (p upstream fanout : Nat) (before : List TopoRec) : TopoRec :=
  let branch := decide (4 ≤ (n.port p).farPort ∧ (n.port p).farPort < 12) ||
    (decide (p < 4) && (before.getLast?.any fun t => t.branch))
  { identity := n.identity, upstream := upstream, vehTag := (n.reg Reg.TOP_VEH_TAG).toNat,
    pairId := (n.reg Reg.TOP_PAIR_ID).toNat, delay := n.delayNs p, epoch := n.epoch,
    rank := n.fld Reg.INA_CFG Fld.INA_CFG_RANK,
    flags := b2n (isFront p) + b2n n.roleB * 2 + b2n n.paired * 4 + b2n branch * 8 + b2n (n.secOn p) * 16 +
      n.fld Reg.INA_STATE Fld.INA_STATE_SYNCED * 32 + b2n n.holder * 64,
    ingress := p + (if p < 12 then n.fld (Reg.SPN_IFTYPE p) Fld.SPN_IFTYPE_TYPE else 0) * 16, fanout := fanout,
    code := n.fld Reg.CYC_CFG Fld.CYC_CFG_CODE, jlk := if n.paired then n.delayNs 12 else 0 }

/-! ### The round -/

/-- The path field of a probe sent on a port: bit 0 from the first spine or branch egress, bit 1 the line of the link. -/
def Node.pathOut (n : Node) (p : Nat) (side : Option Nat) : Nat :=
  (side.getD (b2n (p ≠ 12 ∧ !isFront p))) + b2n (n.lineOut p) * 2

/-- The member links of a line. -/
def Node.memberPorts (n : Node) (lineB : Bool) : List Nat := (n.linePorts lineB).filter n.member

/-- A probe sent on a port. -/
def Node.probeOut (n : Node) (p round segment path : Nat) (recs : List TopoRec) : Node :=
  n.startOn p (n.hdr 0x5) (n.topoHead 1 0 round recs.length segment path ++ recs.flatMap encodeRec)

/-- A reply sent inward on a port. -/
def Node.replyOut (n : Node) (p round segment side : Nat) (fin : Bool) (recs : List TopoRec) : Node :=
  n.startOn p (n.hdr 0x5)
    (n.topoHead 2 (b2n fin) round recs.length segment (side + b2n (n.lineOut p) * 2) ++ recs.flatMap encodeRec)

/-- A round starts (R271): the probe leaves on every member link and over the Jalder link, holding no record. -/
def Node.startRound (n : Node) : Node :=
  let round := (n.ina.round + 1) % 65536
  let ports := n.memberPorts false ++ n.memberPorts true ++ (if n.jalderMember then [12] else [])
  let m := { n.inc Reg.INA_ROUNDS with
    ina := { n.ina with round := round, roundOn := true, ready := false, wanted := false, roundCyc := n.cycleNow,
                        collected := [], probed := ports } }
  ports.foldl (fun k p => k.probeOut p round 0 (k.pathOut p none) []) m

/-- Every record that a round holds names an upstream node; the records that name each node are as many as the ports it
passed the probe on (R271). The master counts its own ports. -/
def Node.roundComplete (n : Node) : Bool :=
  let recs := (n.ina.collected.map (·.topo)).eraseDups
  let named (id : Nat) : Nat := (recs.filter fun t => t.upstream == id).length
  let fan (id : Nat) : Nat := (recs.filter fun t => t.identity == id).foldl (fun a t => a + t.fanout) 0
  named n.identity == n.ina.probed.length && recs.all fun t => named t.identity == fan t.identity

/-- The answer to a train-wide request, sent as R156 gives for REF (R291). -/
def Node.answerOut (n : Node) (a : Nat × Nat × Nat × Nat) : Node :=
  match a with
  | (requester, tag, result, cyc) =>
    n.originateBy (n.hdr 0x5) (fun lineB => n.topoHead 5 0 0 0 0 (b2n lineB * 2) ++ encBE 6 requester ++ encBE 2 tag ++
      encBE 1 result ++ zeros 3 ++ encBE 4 cyc) fun _ => true

/-- The completion that a result of R291 gives the requester's command (R297). -/
def opStatus (result : Nat) : Nat :=
  if result = 0 then sOk else if result = 1 then sBusy else if result = 3 then sArgs else sFar

/-- The requester's own command completes (R297): train reset and snapshot return the cycle, and the requester takes the
announced operation from the answer alone (R293). -/
def Node.opAnswered (n : Node) (tag result cyc : Nat) : Node :=
  let n := match n.host.waits.find? fun w => w.kind == 1 && w.key == tag with
    | some w =>
      let op := (w.aux.getD 0 0#32).toNat
      if result = 0 ∧ (op = 3 ∨ op = 4) then
        n.takeOp op (extend32 n.cycleNow cyc) (w.aux.getD 3 0#32).toNat n.identity tag
      else n
    | none => n
  n.finishWaits (fun w => w.kind == 1 && w.key == tag) (opStatus result) (if result = 0 then [word cyc] else [])

/-- The master answers a request: at the node itself the command completes, and elsewhere an answer travels; an answer
with an announced cycle is repeated until then (R291). -/
def Node.answerOp (n : Node) (requester tag result cyc : Nat) : Node :=
  let m := if requester = n.identity then n.opAnswered tag result cyc else n
  let m := m.answerOut (requester, tag, result, cyc % 2 ^ 32)
  if result = 0 then { m with ina := { m.ina with answers := m.ina.answers ++ [(requester, tag, result, cyc)] } } else m

/-- TOPO_ROUND_START: at t_p + 4 µs the master starts the round it wants, with p at least 3 cycles after its first REF
and beginning at least 3 cycles after the last notice (R271), while it announces no commit (R277). -/
def execTopoRoundStart (time : Nat) (s : State) : Host.Outcome State Fault Refusal :=
  .next (s.on fun n =>
    let m := n.at time
    let p := m.cycleNow
    if m.master ∧ m.ina.wanted ∧ !m.ina.roundOn ∧ m.ina.announced.isNone ∧ m.ina.firstRef + 3 ≤ p ∧
        ((p * m.tc + 4000 : Nat) : Int) ≤ m.trainNs ∧
        m.ina.lastNotice + 3 * (m.tc : Int) ≤ (p * m.tc : Nat) then
      let k := m.startRound
      let asked := k.ina.roundBy
      let k := asked.foldl (fun q b => q.answerOp b.1 b.2 0 p) { k with ina := { k.ina with roundBy := [] } }
      if k.ina.probed.isEmpty then { k with ina := { k.ina with ready := true } } else k
    else m)

/-- A node that does not yet follow a master passes TOPO frames on along their line (R256). -/
def Node.topoPass (n : Node) (r : Rx) (h : SpineHdr) : Node := n.forwardLine r (n.rxLine r h)

/-- A probe that a node following the master takes (R270). `held`: a probe of this round and path has already passed. A path that
first crosses the Jalder link gets its side from the master's partner, which remembers its ingress for both sides. -/
def Node.takeProbe (n : Node) (r : Rx) (h : SpineHdr) (pl : List Byte) : Node :=
  let round := beAt pl 2 2
  let segment := beAt pl 6 2
  let key := byteAt pl 14 % 4
  let recs := topoRecs pl
  let old := n.ina.probes.filter fun q => q.1 == round
  let side : Option Nat := if recs.isEmpty ∧ r.port = 12 then none else some (key % 2)
  let keys := if side.isNone then [key / 2 * 2, key / 2 * 2 + 1] else [key]
  let fresh := keys.filter fun k => !old.any fun q => q.2.1 == k
  let held := fresh.isEmpty
  let inward (p : Nat) : Bool := p == r.port || old.any fun q => q.2.2 == p && q.2.1 / 2 == key / 2
  let cross := n.jalderMember && r.port != 12 && n.partnerId != n.masterId && !(recs.any fun t => t.identity == n.partnerId)
  let ports := if held then [] else
    ((n.memberPorts (n.rxLine r h)).filter fun p => !inward p) ++ (if cross then [12] else [])
  let m := { n with ina := { n.ina with probes := old ++ fresh.map fun k => (round, k, r.port) } }
  let own := n.ownRec r.port ((recs.getLast?.map (·.identity)).getD n.masterId) ports.length recs
  let full := decide (36 ≤ recs.length)
  let m := if full then m.replyOut r.port round segment (key % 2) false recs else m
  let next := (if full then [] else recs) ++ [own]
  let seg := if full then segment + 1 else segment
  if ports.isEmpty then m.replyOut r.port round seg (key % 2) true next
  else ports.foldl (fun k p => k.probeOut p round seg (k.pathOut p side) next) m

/-- TOPO_PROBE_RECEIVED (R270). A probe of another master than the node's own is not taken. -/
def execTopoProbeReceived (r : Rx) (s : State) : Host.Outcome State Fault Refusal :=
  .next (s.on fun n => n.receive r 0x5 fun g h pl =>
    if byteAt pl 0 ≠ 1 ∨ g.st < stListen ∨ beAt pl 8 6 = g.identity then g
    else if g.st < stIntegrate then g.topoPass r h
    else if beAt pl 8 6 ≠ g.masterId then g
    else g.takeProbe r h pl)

/-- TOPO_REPLY_RECEIVED: the master collects the records of its round, any other node passes the reply inward (R270,
R271). -/
def execTopoReplyReceived (r : Rx) (s : State) : Host.Outcome State Fault Refusal :=
  .next (s.on fun n => n.receive r 0x5 fun g h pl =>
    if byteAt pl 0 ≠ 2 ∨ g.st < stListen then g
    else if g.st < stIntegrate then g.topoPass r h
    else if beAt pl 8 6 = g.identity then
      if g.master ∧ g.ina.roundOn ∧ beAt pl 2 2 = g.ina.round then
        let m := { g with ina := { g.ina with
          collected := g.ina.collected ++ (topoRecs pl).map fun t => TopoHeld.mk t (byteAt pl 14 % 4) } }
        { m with ina := { m.ina with ready := m.roundComplete } }
      else g
    else
      let key := byteAt pl 14 % 2 + b2n (g.rxLine r h) * 2
      match g.ina.probes.find? fun q => q.1 == beAt pl 2 2 && q.2.1 == key with
      | some q =>
        let p := q.2.2
        g.relayOn r p h
          (pl.take 14 ++ encBE 1 (byteAt pl 14 % 2 + b2n (g.lineOut p) * 2) ++ pl.drop 15)
      | none => g)

/-- TOPO_NOTICE_RECEIVED: the master notes a notice, any other node passes it inward (R270, R272). -/
def execTopoNoticeReceived (r : Rx) (s : State) : Host.Outcome State Fault Refusal :=
  .next (s.on fun n => n.receive r 0x5 fun g h pl =>
    if byteAt pl 0 ≠ 3 ∨ g.st < stListen then g
    else if g.st < stIntegrate then g.topoPass r h
    else if g.master then g.noteNotice
    else if g.cyc.refPort = r.port then g
    else g.relayOn r g.cyc.refPort h (pl.take 14 ++ encBE 1 (b2n (g.lineOut g.cyc.refPort) * 2) ++ pl.drop 15))

/-- TOPO_ROUND_TIMEOUT: a round incomplete at t_(p+1) is repeated in the cycle that begins; after three the master reports it and
numbers the nodes it holds (R271). -/
def execTopoRoundTimeout (time : Nat) (s : State) : Host.Outcome State Fault Refusal :=
  .next (s.on fun n =>
    let m := n.at time
    if m.master ∧ m.ina.roundOn ∧ !m.ina.ready ∧ m.ina.roundCyc < m.cycleNow then
      if 2 ≤ m.ina.incomplete then
        let recs := (m.ina.collected.map (·.topo)).eraseDups
        let missing := (m.ina.probed.length + recs.foldl (fun a t => a + t.fanout) 0) - recs.length
        { m.raise 0x2A02 m.ina.round missing with ina := { m.ina with ready := true, incomplete := 3 } }
      else
        { m with ina := { m.ina with roundOn := false, wanted := true, incomplete := m.ina.incomplete + 1 } }
    else m)

/-! ### TOPO_RESULT (R276) -/

/-- A numbering entry from its 16 bytes. -/
def decodeEntry (b : List Byte) : NumEntry :=
  { identity := beAt b 0 6, num := beAt b 6 2 % 4096, pos := beAt b 8 2 % 1024, orient := (byteAt b 10).testBit 0,
    branch := (byteAt b 10).testBit 1, roleB := (byteAt b 10).testBit 2, paired := (byteAt b 10).testBit 3,
    backup := byteAt b 11, tag := 0 }

/-- The 16 bytes of a numbering entry. -/
def encodeEntry (e : NumEntry) : List Byte :=
  encBE 6 e.identity ++ encBE 2 e.num ++ encBE 2 e.pos ++
  encBE 1 (b2n e.orient + b2n e.branch * 2 + b2n e.roleB * 4 + b2n e.paired * 8) ++ encBE 1 e.backup ++ zeros 4

/-- The parts of a commit, at most 90 entries each (R276). -/
def Commit.parts (c : Commit) : Nat := max 1 ((c.entries.length + 89) / 90)

/-- Part `k` of a TOPO_RESULT. -/
def Commit.part (c : Commit) (k : Nat) : List Byte :=
  let es := (c.entries.drop (90 * k)).take 90
  encBE 2 c.epoch ++ zeros 2 ++ encBE 4 c.cyc ++ encBE 1 k ++ encBE 1 c.parts ++ encBE 2 es.length ++ encBE 6 c.lead ++
  encBE 6 c.partner ++ es.flatMap encodeEntry

/-- The master sends the TOPO_RESULT of a commit (R276). -/
def Node.sendResult (n : Node) (c : Commit) : Node :=
  (List.range c.parts).foldl (fun m k => m.broadcast (m.hdr 0x6) (c.part k)) n

/-- A part of the announced commit's numbering is held; with the entry of this node the node is numbered (R258, R276). -/
def Node.holdPart (n : Node) (pl : List Byte) (cyc : Nat) : Node :=
  let part := byteAt pl 8
  let es := (List.range (beAt pl 10 2)).map fun i => decodeEntry (slice pl (24 + 16 * i) 16)
  let old := (n.ina.result.filter fun c => c.epoch == beAt pl 0 2 && c.cyc == cyc).map (·.entries)
  let parts := if old.isSome then n.ina.parts else []
  if parts.contains part then n
  else
    let m := { n with ina := { n.ina with
      result := some ⟨beAt pl 0 2, cyc, n.ina.coldStart, beAt pl 12 6, beAt pl 18 6, old.getD [] ++ es⟩
      parts := parts ++ [part] } }
    if m.st = stIntegrate ∧ es.any (fun e => e.identity == m.identity) then m.setSt stNumbered else m

/-- TOPO_RESULT_RECEIVED (R256, R276): a result is sent on as REF is, and held when it is of the commit that the master's REF
announces. -/
def execTopoResultReceived (r : Rx) (s : State) : Host.Outcome State Fault Refusal :=
  .next (s.on fun n => n.receive r 0x6 fun g h pl =>
    if g.st < stListen then g
    else
      let m := g.topoPass r h
      match m.ina.refCommit with
      | some (e, cyc) =>
        if stIntegrate ≤ m.st ∧ !m.master ∧ e = beAt pl 0 2 ∧ cyc % 2 ^ 32 = beAt pl 4 4 then m.holdPart pl cyc else m
      | none => m)

/-! ### Operations across the train (R291, R292) -/

/-- The spine nodes of an end vehicle of the current numbering. -/
def Node.endIdentity (n : Node) (id : Nat) : Bool :=
  let last := n.ina.table.foldl (fun a e => max a e.pos) 0
  n.ina.table.any fun e => e.identity == id && !e.branch && (e.pos == 1 || e.pos == last)

/-- The single node or role-A node of a position. -/
def Node.boundAt (n : Node) (pos : Nat) : Nat :=
  match n.ina.table.find? fun e => e.pos == pos && !e.branch && !e.roleB with
  | some e => e.identity
  | none => ((n.ina.table.find? fun e => e.pos == pos && !e.branch).map (·.identity)).getD 0

/-- The master takes a request (R290 to R292): operation 1 set lead, 2 re-inaugurate, 3 train reset, 4 snapshot. -/
def Node.masterOp (n : Node) (requester tag op arg offset earliest : Nat) : Node :=
  match op with
  | 1 =>
    if arg = 0 ∨ n.endIdentity arg then
      { n.wantRound with ina := { n.wantRound.ina with leadReq := some arg, leadBy := n.ina.leadBy ++ [(requester, tag)] } }
    else n.answerOp requester tag 3 0
  | 2 =>
    if n.ina.announced.isSome then n.answerOp requester tag 1 0
    else { n.wantRound with ina := { n.wantRound.ina with roundBy := n.ina.roundBy ++ [(requester, tag)] } }
  | _ =>
    if op ≠ 3 ∧ op ≠ 4 then n.answerOp requester tag 3 0
    else if n.ina.op.isSome then n.answerOp requester tag 1 0
    else if n.tc ≤ offset then n.answerOp requester tag 3 0
    else
      let first := n.cycleNow + 1 + 3
      let cyc := if earliest = 0 then first else max first (extend32 n.cycleNow earliest)
      (n.takeOp op cyc offset requester tag).answerOp requester tag 0 cyc

/-- OPERATION_REQUEST_RECEIVED: the master takes the request, a node that has given up mastership answers that it is not
the master, and any other node passes it inward (R270, R291). -/
def execOperationRequestReceived (r : Rx) (s : State) : Host.Outcome State Fault Refusal :=
  .next (s.on fun n => n.receive r 0x5 fun g h pl =>
    if byteAt pl 0 ≠ 4 ∨ g.st < stListen then g
    else if g.st < stIntegrate then g.topoPass r h
    else
      let b := pl.drop 16
      if g.master then
        g.masterOp (beAt b 0 6) (beAt b 6 2) (byteAt b 8) (beAt b 10 6) (beAt b 16 4) (beAt b 20 4)
      else if g.masterId = g.identity then g.answerOut (beAt b 0 6, beAt b 6 2, 2, 0)
      else if g.cyc.refPort = r.port then g
      else g.relayOn r g.cyc.refPort h (pl.take 14 ++ encBE 1 (b2n (g.lineOut g.cyc.refPort) * 2) ++ pl.drop 15))

/-- OPERATION_ANSWER_RECEIVED: passed on as REF is; the requester's command completes, and an answer that announces a
pending operation names its requester (R291, R293). -/
def execOperationAnswerReceived (r : Rx) (s : State) : Host.Outcome State Fault Refusal :=
  .next (s.on fun n => n.receive r 0x5 fun g h pl =>
    if byteAt pl 0 ≠ 5 ∨ g.st < stListen then g
    else
      let m := g.topoPass r h
      let b := pl.drop 16
      let m := if beAt b 0 6 = m.identity then m.opAnswered (beAt b 6 2) (byteAt b 8) (beAt b 12 4) else m
      match m.ina.op with
      | some o =>
        if o.requester = 0 ∧ byteAt b 8 = 0 ∧ o.cyc % 2 ^ 32 = beAt b 12 4 then
          { m with ina := { m.ina with op := some { o with requester := beAt b 0 6, tag := beAt b 6 2 } } }
        else m
      | none => m)

/-- A train-wide request of this node: the master takes it itself, any other node sends it inward (R270, R291). The
command waits for the answer under the request's tag. -/
def Node.requestOp (n : Node) (op arg offset earliest : Nat) : Answer :=
  let tag := n.ina.nextTag
  let m := { n with ina := { n.ina with nextTag := (tag + 1) % 65536 } }
  let aux := [word op, word arg, word (arg / 2 ^ 32), word offset, word earliest]
  if m.master then .wait m 1 tag aux
  else
    let p := m.cyc.refPort
    .wait (m.topoInward p 4 0 0 0 0 (b2n (m.lineOut p) * 2)
      (encBE 6 m.identity ++ encBE 2 tag ++ encBE 1 op ++ zeros 1 ++ encBE 6 arg ++ encBE 4 offset ++ encBE 4 earliest))
      1 tag aux

/-- At the master a request of its own is taken at once: the command that has just begun to wait, behind the `before` that
waited already, is answered as any other. -/
def Node.serveOwn (n : Node) (before : Nat) : Node :=
  match n.host.waits[before]? with
  | some w =>
    let a (i : Nat) : Nat := (w.aux.getD i 0#32).toNat
    if n.master ∧ w.kind = 1 then n.masterOp n.identity w.key (a 0) (a 1 + a 2 * 2 ^ 32) (a 3) (a 4) else n
  | none => n

/-- TRAIN_SET_LEAD (R297): the end vehicle named, bound by its single or role-A node. -/
def execTrainSetLead (c : Cmd) (s : State) : Host.Outcome State Fault Refusal :=
  .next (s.runs c 0x0120 fun n => (n.command c .either 3 fun m =>
    let sel := arg c 0
    let id := arg c 1 + arg c 2 % 65536 * 2 ^ 32
    let last := m.ina.table.foldl (fun a e => max a e.pos) 0
    let front := m.fld Reg.TOP_PLACE Fld.TOP_PLACE_ORIENT == 1
    if 3 < sel then .fail m sArgs
    else if m.st ≠ stRun then .fail m sState
    else if sel = 3 ∧ !m.endIdentity id then .fail m sArgs
    else
      let pos3 := ((m.entryOf id).map (·.pos)).getD 0
      let bound := if sel = 0 then 0 else if sel = 3 then m.boundAt pos3
        else m.boundAt (if (sel == 1) == front then 1 else last)
      m.requestOp 1 bound 0 0).serveOwn n.host.waits.length)

/-- TRAIN_STATUS (R297). -/
def execTrainStatus (c : Cmd) (s : State) : Host.Outcome State Fault Refusal :=
  .next (s.runs c 0x0121 fun n => n.command c .either 0 fun m =>
    .done m sOk [m.reg Reg.INA_STATE, m.reg Reg.INA_COMMIT, m.reg Reg.INA_NODES])

/-- TRAIN_REINAUGURATE (R297). -/
def execTrainReinaugurate (c : Cmd) (s : State) : Host.Outcome State Fault Refusal :=
  .next (s.runs c 0x0122 fun n => (n.command c (.secure 14) 0 fun m =>
    if m.ina.refCommit.isSome ∨ m.ina.announced.isSome then .fail m sBusy else m.requestOp 2 0 0 0).serveOwn n.host.waits.length)

/-- TRAIN_RESET (R297). -/
def execTrainReset (c : Cmd) (s : State) : Host.Outcome State Fault Refusal :=
  .next (s.runs c 0x0123 fun n => (n.command c (.secure 14) 2 fun m =>
    if m.st ≠ stRun then .fail m sState
    else if m.ina.op.isSome then .fail m sBusy
    else m.requestOp 3 0 (arg c 0) (arg c 1)).serveOwn n.host.waits.length)

/-- TRAIN_SNAPSHOT (R297). -/
def execTrainSnapshot (c : Cmd) (s : State) : Host.Outcome State Fault Refusal :=
  .next (s.runs c 0x0124 fun n => (n.command c .either 2 fun m =>
    if m.ina.op.isSome then .fail m sBusy else m.requestOp 4 0 (arg c 0) (arg c 1)).serveOwn n.host.waits.length)

/-! ### Snapshots (R294) -/

/-- The fields of a snapshot record, as (bytes, value). -/
def Node.snapFields (n : Node) (tag : Nat) : List (Nat × Nat) :=
  let cnt (p : Nat) : List (Nat × Nat) := [(8, n.reg64 (Reg.SPN_RX_FRM_LO p)), (8, n.reg64 (Reg.SPN_TX_FRM_LO p))]
  let w (a : Nat) : Nat × Nat := (4, (n.reg a).toNat)
  [(6, n.identity), (2, n.num), (2, n.epoch), (2, tag), (4, nsOf n.trainNs), (8, n.cycleNow)] ++
  cnt 0 ++ cnt 1 ++ cnt 2 ++ cnt 3 ++
  [w Reg.CYC_NOT_READY, w Reg.CYC_OUT_WIN, w Reg.CYC_OVERRUN, w Reg.CYC_REF_MISS,
   (4, [0, 1, 2, 3].foldl (fun a p => a + (n.reg (Reg.SPN_RX_CHECK_ERR p)).toNat) 0), w Reg.EVT_LOG_TOTAL, w Reg.TMB_EST,
   (4, 0), (4, 0), (4, 0)]

/-- A snapshot record as the node's registers hold it, in memory order, and as a MSG carries it, in network order (R8). -/
def snapMemory (fs : List (Nat × Nat)) : List Byte := fs.flatMap fun x => encLE x.1 x.2
def snapWire (fs : List (Nat × Nat)) : List Byte := fs.flatMap fun x => encBE x.1 x.2

/-- The fields of a record as a MSG carries it. -/
def snapOf (b : List Byte) : List (Nat × Nat) :=
  ([6, 2, 2, 2, 4, 8, 8, 8, 8, 8, 8, 8, 8, 8, 4, 4, 4, 4, 4, 4, 4, 4, 4, 4].foldl
    (fun (a : List (Nat × Nat) × Nat) k => (a.1 ++ [(k, beAt b a.2 k)], a.2 + k)) ([], 0)).1

/-- A collected record is stored at its place in node-number order (R294). -/
def Node.storeSnap (n : Node) (bytes : List Byte) : Node :=
  let num := beAt bytes 6 2
  if 1 ≤ num ∧ num ≤ 4096 then n.setRegs (Reg.INA_SNAP_WIN + (num - 1) * 0x80) (wordsLE (snapMemory (snapOf bytes)) 32)
  else n

/-- The instant t_op of an announced operation has come (R293). -/
def Node.opDue (n : Node) (o : TrainOp) : Bool := decide (((o.cyc * n.tc + o.offset : Nat) : Int) ≤ n.trainNs)

/-- SNAPSHOT_TAKEN: at the snapshot instant the record is latched and reported, and waits to be sent (R294). -/
def execSnapshotTaken (time : Nat) (s : State) : Host.Outcome State Fault Refusal :=
  .next (s.on fun n =>
    let m := n.at time
    match m.ina.op with
    | some o =>
      if o.op = 4 ∧ m.opDue o then
        let fields := m.snapFields o.tag
        let bytes := snapWire fields
        let k := (m.setRegs Reg.INA_SNAP_OWN (wordsLE (snapMemory fields) 32)).raise 0x280B o.tag o.cyc
        let k := { k with ina := { k.ina with op := none } }
        if o.requester = k.identity then
          { k.storeSnap bytes with ina := { k.ina with snapTag := some o.tag } }
        else if o.requester = 0 then k
        else { k with ina := { k.ina with snapshot := some (o.requester, bytes) } }
      else m
    | none => m)

/-! ### IEC 61375-2-5 (R295, R296) -/

/-- The node runs in IEC 61375-2-5 mode. -/
def Node.interop (n : Node) : Bool := n.fld Reg.INA_CFG Fld.INA_CFG_INTEROP == 1

/-- A TTDP frame with the addresses and EtherTypes of the standard (PRESUMED, log entry 25); the encoding of the body is that of
IEC 61375-2-5, which the spec does not give: free bytes. -/
def Node.ttdpSend (n : Node) (dst etype len : Nat) (ps : List Nat) : Node :=
  let (m, body) := n.freeBytes len
  m.sendAll ps ⟨dst, m.identity, none, etype, body⟩

/-- TTDP_HELLO_SEND: a HELLO on every spine port (R295). -/
def execTtdpHelloSend (time : Nat) (s : State) : Host.Outcome State Fault Refusal :=
  .next (s.on fun n =>
    let m := n.at time
    if m.interop ∧ stLink ≤ m.st then m.ttdpSend 0x0180C200000E 0x88CC 88 [0, 1, 2, 3] else m)

/-- TTDP_HELLO_RECEIVED (R295). -/
def execTtdpHelloReceived (port identity time : Nat) (s : State) : Host.Outcome State Fault Refusal :=
  .next (s.on fun n =>
    let m := n.at time
    if m.interop ∧ port < 4 then
      { m with ina := { m.ina with hello := m.ina.hello.filter (fun q => q.1 != port) ++ [(port, identity, m.tm.raw)] } }
    else m)

/-- TTDP_HELLO_TIMEOUT: no HELLO within the timeout of the period in force (R295). -/
def execTtdpHelloTimeout (port time : Nat) (s : State) : Host.Outcome State Fault Refusal :=
  .next (s.on fun n =>
    let m := n.at time
    { m with ina := { m.ina with hello := m.ina.hello.filter fun q => q.1 != port } })

/-- TTDP_TOPOLOGY_SEND: every 100 ms and on each change (R295). -/
def execTtdpTopologySend (time : Nat) (s : State) : Host.Outcome State Fault Refusal :=
  .next (s.on fun n =>
    let m := n.at time
    if m.interop ∧ stLink ≤ m.st then m.ttdpSend 0x0180C2000010 0x894C 88 [0, 1, 2, 3] else m)

/-- TTDP_TOPOLOGY_RECEIVED: the ETBN number and topology counter (R296). A train of more than 63 ETBNs is not
supported (R295). -/
def execTtdpTopologyReceived (port etbn count counter time : Nat) (s : State) : Host.Outcome State Fault Refusal :=
  .next (s.on fun n =>
    let m := n.at time
    if m.interop ∧ port < 4 ∧ count ≤ 63 then
      let old := m.bits Reg.INA_TTDP 16 16
      let k := m.setReg Reg.INA_TTDP (word (etbn % 64 + counter % 65536 * 65536))
      if old = counter % 65536 then k else (k.raise 0x280F counter 0).notice 1 port
    else m)

end Sys2Proof.Machine
end

