-- ==== Sys2Proof/Machine/Numbering.lean ====
section
/-! DEFINITION. The master's numbering of a complete round (R273 to R275), the bounds of R50 and R267, and the commit of a
numbering at a node (R278 to R280). -/

namespace Sys2Proof.Machine

/-! ### Nodes and vehicles (R19, R20, R273) -/

/-- The far end of one of the node's spine links is a car port: the node is a branch node (R29). -/
def Node.onBranch (n : Node) : Bool :=
  [0, 1, 2, 3].any fun p => n.member p && decide (4 ≤ (n.port p).farPort) && decide ((n.port p).farPort < 12)

/-- The master's own record. -/
def Node.masterRec (n : Node) : TopoHeld :=
  ⟨{ n.ownRec 12 0 n.ina.probed.length [] with
     ingress := 15, flags := b2n n.roleB * 2 + b2n n.paired * 4 + b2n n.onBranch * 8 }, 0⟩

/-- The identities that a set of records holds. -/
def idsOf (h : List TopoHeld) : List Nat := (h.map (·.topo.identity)).eraseDups

/-- The first record of a node. -/
def recOf (h : List TopoHeld) (id : Nat) : Option TopoRec := (h.find? fun t => t.topo.identity == id).map (·.topo)

/-- The nodes from a node inward to the master, the node first. -/
def inward (h : List TopoHeld) : Nat → Nat → List Nat
  | 0, id => [id]
  | k + 1, id =>
    match recOf h id with
    | some t => if (recOf h t.upstream).isSome then id :: inward h k t.upstream else [id]
    | none => [id]

/-- The probe reached the node on a car port: it came up out of a branch. -/
def TopoRec.fromBranch (t : TopoRec) : Bool := decide (4 ≤ t.port) && decide (t.port < 12)

/-- The branch links that lie between a node and the master, counted where the probe came up out of the branch. -/
def upCount (h : List TopoHeld) (id : Nat) : Nat :=
  ((inward h h.length id).filter fun i => (recOf h i).any (·.fromBranch)).length

/-- A branch node: its record says so, or the master hangs in a branch itself and the node lies on the master's side of a branch
link that a probe came up (R33). -/
def isBranch (h : List TopoHeld) (id : Nat) : Bool :=
  (recOf h id).any (·.branch) || h.any fun t => decide (upCount h id < upCount h t.topo.identity)

/-- The spine nodes. -/
def spineIds (h : List TopoHeld) : List Nat := (idsOf h).filter fun i => !isBranch h i

/-- The pair identities in conflict (R19): on more than two spine nodes, or on two whose vehicle tags differ. -/
def conflictsOf (h : List TopoHeld) : List Nat :=
  let recs := (spineIds h).filterMap (recOf h)
  ((recs.map (·.pairId)).eraseDups).filter fun p =>
    let same := recs.filter fun t => t.pairId == p
    decide (2 < same.length) || (same.length == 2 && ((same.map (·.vehTag)).eraseDups).length == 2)

/-- The vehicle of a spine node, named by its first node: a pair without conflict is one vehicle, every other spine node
is one of its own (R20). -/
def vehicleOf (h : List TopoHeld) (id : Nat) : Nat :=
  match recOf h id with
  | some t =>
    if t.paired && !(conflictsOf h).contains t.pairId then
      ((spineIds h).find? fun i => (recOf h i).any fun u => u.paired && u.pairId == t.pairId).getD id
    else id
  | none => id

/-- The pair identity of a node: its own and its partner's, one that the records give, or what the numbering gives, which
no frame of the spec carries to every node (DESIGN CHOICE, log entry 26). -/
def Node.pairIdOf (n : Node) (id : Nat) : Nat :=
  if id = n.identity ∨ (n.paired ∧ id = n.partnerId) then (n.reg Reg.TOP_PAIR_ID).toNat
  else match recOf n.plc.records id with
    | some t => t.pairId
    | none => (Config.pairIdOf id).toNat

/-- The vehicle tag of a node, likewise. -/
def Node.tagOf (n : Node) (id : Nat) : Nat :=
  if id = n.identity ∨ (n.paired ∧ id = n.partnerId) then (n.reg Reg.TOP_VEH_TAG).toNat
  else match recOf n.plc.records id with
    | some t => t.vehTag
    | none => (Config.vehTagOf id).toNat

/-! ### The order along the lines (R273) -/

/-- The vehicles next to a vehicle over the records that `sel` picks. -/
def nextTo (h : List TopoHeld) (sel : TopoRec → Bool) (v : Nat) : List Nat :=
  (h.flatMap fun t =>
    if sel t.topo && !isBranch h t.topo.identity && !isBranch h t.topo.upstream then
      let a := vehicleOf h t.topo.upstream
      let b := vehicleOf h t.topo.identity
      if a = b then [] else if a = v then [b] else if b = v then [a] else []
    else []).eraseDups

/-- A record whose link is a spine link of a line. -/
def onLineA (t : TopoRec) : Bool := t.port == 0 || t.port == 2
def onLineB (t : TopoRec) : Bool := t.port == 1 || t.port == 3

/-- The vehicles from a vehicle on, each next to the one before and not yet seen. -/
def walk (adj : Nat → List Nat) : Nat → List Nat → Nat → List Nat
  | 0, _, _ => []
  | k + 1, seen, v =>
    match (adj v).find? fun w => !seen.contains w with
    | some w => w :: walk adj k (w :: seen) w
    | none => []

/-- The chain of a line that a vehicle lies on. -/
def chainOf (adj : Nat → List Nat) (fuel v : Nat) : List Nat :=
  let right := walk adj fuel [v] v
  (walk adj fuel (v :: right) v).reverse ++ v :: right

/-- The place of a vehicle in an order. -/
def placeOf (order : List Nat) (v : Nat) : Nat := order.findIdx fun w => w == v

/-- A chain of line A joined to an order through a line-B neighbour (R273): before the neighbour when the neighbour's
other line-B neighbour lies behind it, or when it is the first of several, or on the front side of a vehicle alone. -/
def joinChain (order : List Nat) (adjB : Nat → List Nat) (chain : List Nat) (u w : Nat) (frontSide : Bool) : List Nat :=
  let i := placeOf order u
  let placed := (adjB u).filter order.contains
  let behind := placed.any fun x => decide (i < placeOf order x)
  let ahead := placed.any fun x => decide (placeOf order x < i)
  let before := behind || (!ahead && (if order.length = 1 then frontSide else i == 0))
  let c := if before then (if chain.getLast? = some w then chain else chain.reverse)
    else (if chain.head? = some w then chain else chain.reverse)
  if before then order.take i ++ c ++ order.drop i else order.take (i + 1) ++ c ++ order.drop (i + 1)

/-- One chain more is joined, if any remains that touches the order. -/
def joinStep (h : List TopoHeld) (fuel : Nat) (order : List Nat) : List Nat :=
  let adjB := nextTo h (fun t => !onLineA t)
  match order.findSome? fun u => ((adjB u).find? fun w => !order.contains w).map fun w => (u, w) with
  | some (u, w) =>
    let front := h.any fun t => vehicleOf h t.topo.identity == w && t.path % 2 == 0
    let chain := (chainOf (nextTo h onLineA) fuel w).filter fun x => !order.contains x
    joinChain order adjB chain u w front
  | none => order

/-! ### Branch nodes (R33) -/

/-- The spine node that a branch node hangs from, and its depth: the first spine node inward, or, when the master hangs in the
same branch, the node at which a probe came up out of it. -/
def rootOf (h : List TopoHeld) (id : Nat) : Nat × Nat :=
  let chain := inward h h.length id
  match chain.findIdx? fun i => !isBranch h i with
  | some d => (chain.getD d id, d)
  | none =>
    match h.find? fun t => t.topo.fromBranch && !isBranch h t.topo.identity with
    | some t =>
      let up := inward h h.length t.topo.identity
      let d := chain.findIdx up.contains
      (t.topo.identity, d + placeOf up (chain.getD d id))
    | none => (id, 0)

/-- The vehicles in order along line A, from the end toward which the master's front ports face (R45). A master without a spine
member link of its own, or one in a branch, faces no end by its links: the egress side of its partner's path stands for its own,
and without one the order is taken as found (DESIGN CHOICE, log entry 110). -/
def vehicleOrder (h : List TopoHeld) (master partner : Nat) : List Nat :=
  let fuel := h.length
  let mv := vehicleOf h (rootOf h master).1
  let order := (List.range fuel).foldl (fun o _ => joinStep h fuel o) (chainOf (nextTo h onLineA) fuel mv)
  let side (from_ : Nat) : Option Bool := h.findSome? fun t =>
    if t.topo.upstream = from_ ∧ (onLineA t.topo ∨ onLineB t.topo) ∧ vehicleOf h t.topo.identity ≠ mv then
      some (decide (placeOf order (vehicleOf h t.topo.identity) < placeOf order mv) == (t.path % 2 == 0))
    else none
  match side master with
  | some good => if good then order else order.reverse
  | none => match side partner with
    | some good => if good then order else order.reverse
    | none => order

/-- The vehicles of line-B chains that stand out of order (R273). -/
def outOfOrder (h : List TopoHeld) (order : List Nat) : List Nat :=
  (order.flatMap fun v =>
    let chain := (chainOf (nextTo h onLineB) h.length v).map (placeOf order)
    let c := if chain.getLastD 0 < chain.headD 0 then chain.reverse else chain
    (c.foldl (fun (a : Nat × List Nat) i =>
      if i < a.1 then (a.1, a.2 ++ [order.getD i 0]) else (i, a.2)) (0, [])).2).eraseDups

/-- Insertion into a list by a key. -/
def insertBy (key : Nat → Nat) (x : Nat) : List Nat → List Nat
  | [] => [x]
  | y :: ys => if key x < key y then x :: y :: ys else y :: insertBy key x ys

/-- A list sorted by a key. -/
def sortBy (key : Nat → Nat) (l : List Nat) : List Nat := l.foldr (insertBy key) []

/-- The nodes of a vehicle in numbering order (R273): single node or role A, role B, then the branch nodes by depth and
identity. -/
def vehicleNodes (h : List TopoHeld) (v : Nat) : List Nat :=
  let spine := sortBy (fun i => b2n ((recOf h i).any (·.roleB))) ((spineIds h).filter fun i => vehicleOf h i == v)
  let branch := (idsOf h).filter fun i => isBranch h i && vehicleOf h (rootOf h i).1 == v
  spine ++ sortBy (fun i => (rootOf h i).2 * 2 ^ 48 + i) branch

/-! ### Orientation (R48) and backups -/

/-- What a record says of its node's orientation: the upstream vehicle lies on the ingress side. -/
def orientFrom (h : List TopoHeld) (order : List Nat) (t : TopoRec) : Option Bool :=
  if onLineA t ∨ onLineB t then
    let a := placeOf order (vehicleOf h t.upstream)
    let b := placeOf order (vehicleOf h t.identity)
    if a < b then some t.front else if b < a then some (!t.front) else none
  else none

/-- What a record says of the master's partner when it names it as upstream: the path's side is that of its egress. -/
def orientOut (h : List TopoHeld) (order : List Nat) (id : Nat) (t : TopoHeld) : Option Bool :=
  if t.topo.upstream = id ∧ (onLineA t.topo ∨ onLineB t.topo) then
    let a := placeOf order (vehicleOf h id)
    let b := placeOf order (vehicleOf h t.topo.identity)
    if b < a then some (t.path % 2 == 0) else if a < b then some (t.path % 2 == 1) else none
  else none

/-- The orientation of a spine node (R48); in a train of one vehicle it is 1. Records that name a node only over a Jalder link
do not say how it is mounted: its orientation is a free value (DESIGN CHOICE, log entry 110). -/
def orientOf (h : List TopoHeld) (order : List Nat) (master partner : Nat) (masterFront : Bool) (id : Nat) : Bool :=
  if order.length ≤ 1 then true
  else if id = master then masterFront
  else match h.findSome? fun t => if t.topo.identity = id then orientFrom h order t.topo else none with
    | some o => o
    | none => ((if id = partner then h.findSome? (orientOut h order id) else none)).getD (Config.mountedFront id)

/-- The cold-start-capable nodes by descending claim value (R273). -/
def capableIds (h : List TopoHeld) : List Nat :=
  let value (i : Nat) : Nat := ((recOf h i).map fun t => t.rank * 2 ^ 48 + t.identity).getD 0
  sortBy (fun i => 2 ^ 56 - value i) ((idsOf h).filter fun i => (recOf h i).any fun t => t.rank != 0)

/-! ### Propagation times (R49, R50) -/

/-- The links of a line that the records show: the two ends, the delay in ns, and whether the link runs MACsec. A branch link
that a probe came up may be of either line. -/
def linksOf (h : List TopoHeld) (lineB : Bool) : List (Nat × Nat × Nat × Bool) :=
  (h.filter fun t => (if lineB then onLineB t.topo else onLineA t.topo) || t.topo.fromBranch).map fun t =>
    (t.topo.upstream, t.topo.identity, t.topo.delay, t.topo.sec)

/-- The arrival time at a node and the earliest time at which it sends on, from (identity, arrival, sent on). -/
def reach (d : List (Nat × Nat × Nat)) (id : Nat) : Option (Nat × Nat) := (d.find? fun e => e.1 == id).map (·.2)

/-- A time by which REF reaches a node is taken when it is earlier than the one known. -/
def improve (d : List (Nat × Nat × Nat)) (id arr fwd : Nat) : List (Nat × Nat × Nat) :=
  match reach d id with
  | some (a, f) => (id, min a arr, min f fwd) :: d.filter fun e => e.1 != id
  | none => (id, arr, fwd) :: d

/-- REF crosses a link (R49). -/
def cross (d : List (Nat × Nat × Nat)) (a b delay : Nat) (sec : Bool) : List (Nat × Nat × Nat) :=
  match reach d a with
  | some (_, f) => improve d b (f + delay) (f + delay + 180 + (if sec then 40 else 0))
  | none => d

/-- Where REF enters a line (R205): at the master, or for the other line of a pair at its partner, over the Jalder link. -/
def entersAt (h : List TopoHeld) (master : Nat) (lineB : Bool) : List (Nat × Nat × Nat) :=
  match recOf h master with
  | some t =>
    if t.paired && t.roleB != lineB then
      ((h.find? fun u => u.topo.paired && u.topo.pairId == t.pairId && u.topo.identity != master).map fun u =>
        (u.topo.identity, t.jlk, t.jlk + 180)).toList
    else [(master, 0, 0)]
  | none => []

/-- The largest propagation time of a master's REF along one line, which REF never leaves (R49, R156). -/
def lineTime (h : List TopoHeld) (master : Nat) (lineB : Bool) : Nat :=
  let ls := linksOf h lineB
  let d := (List.range h.length).foldl (fun d _ =>
    ls.foldl (fun d l => cross (cross d l.1 l.2.1 l.2.2.1 l.2.2.2) l.2.1 l.1 l.2.2.1 l.2.2.2) d) (entersAt h master lineB)
  d.foldl (fun a e => max a e.2.1) 0

/-- The largest propagation time from a master to any node, over the copies of both lines. -/
def propagation (h : List TopoHeld) (master : Nat) : Nat := max (lineTime h master false) (lineTime h master true)

/-- D_max over every cold-start-capable node as master (R50). -/
def dMax (h : List TopoHeld) : Nat := (capableIds h).foldl (fun a m => max a (propagation h m)) 0

/-! ### The numbering (R273, R274) -/

/-- The entries of a numbering over an order of vehicles from the leading end. -/
def entriesOf (h : List TopoHeld) (order : List Nat) (master partner : Nat) (masterFront : Bool) : List NumEntry :=
  let caps := (capableIds h).take 16
  let nodes := order.zipIdx.flatMap fun v => (vehicleNodes h v.1).map fun i => (i, v.2 + 1, v.1)
  nodes.zipIdx.map fun x =>
    let ((id, pos, v), k) := x
    let first := (vehicleNodes h v).headD id
    let orient := orientOf h order master partner masterFront (if isBranch h id then first else id)
    let t := (recOf h id).getD ⟨id, 0, 0, 0, 0, 0, 0, 0, 0, 0, 0, 0⟩
    ⟨id, k + 1, pos, orient, isBranch h id, t.roleB, t.paired, if caps.contains id then placeOf caps id else 0xFF, t.vehTag⟩

/-- The new epoch (R274): one more than the master's, and again one more while a record carries it or it is 0. -/
def newEpoch (h : List TopoHeld) : Nat → Nat → Nat
  | 0, e => e
  | k + 1, e =>
    let x := (e + 1) % 65536
    if x = 0 ∨ h.any (fun t => t.topo.epoch == x) then newEpoch h k x else x

/-- Events raised for each of several detail words. -/
def Node.raiseEach (n : Node) (code : Nat) (ds : List Nat) : Node := ds.foldl (fun m d => m.raise code d 0) n

/-- The identity bound to the leading end (R47). -/
def Node.leadBound (n : Node) : Nat :=
  n.ina.leadReq.getD ((n.reg Reg.INA_LEAD_ID_HI).toNat % 65536 * 2 ^ 32 + (n.reg Reg.INA_LEAD_ID_LO).toNat)

/-- The master numbers the nodes whose records it holds (R273 to R275): it raises what it finds, and holds the commit to
announce unless R50 forbids it. -/
def Node.assign (n : Node) : Node :=
  let h := n.masterRec :: n.ina.collected.eraseDups
  let base := vehicleOrder h n.identity n.partnerId
  let bound := n.leadBound
  let bv := vehicleOf h bound
  let isEnd := (spineIds h).contains bound && (base.head? == some bv || base.getLast? == some bv)
  let turned := bound != 0 && isEnd && base.head? != some bv
  let order := if turned then base.reverse else base
  let lead := if isEnd then bound else 0
  let entries := entriesOf h order n.identity n.partnerId (!turned)
  let d := dMax h
  let conflicts := conflictsOf h
  let tags := (order.filterMap fun v => (recOf h v).map (·.vehTag))
  let m := n.raiseEach 0x2A04 conflicts
  let m := m.raiseEach 0x2805 ((tags.eraseDups).filter fun t => decide (2 ≤ tags.count t))
  let m := if 16 < (capableIds h).length then m.raise 0x2907 (capableIds h).length 0 else m
  let m := m.raiseEach 0x2908 ((outOfOrder h order).filterMap fun v => (recOf h v).map (·.vehTag))
  let m := if bound != 0 && !isEnd then m.raise 0x280D bound 0 else m
  let m := { m with
    ina := { m.ina with roundOn := false, ready := false, incomplete := 0, leadReq := none }
    plc := { m.plc with records := h } }
  if 10 * d > 4 * n.tc ∨ 1000 < order.length ∨ 4000 < entries.length then m.raise 0x2A03 d entries.length
  else
    let rtt := n.bits Reg.INA_MAX_RTT 0 11
    let m := if rtt * 1000 < 2 * d then m.raise 0x290E (2 * d) rtt else m
    { m with ina := { m.ina with
      conflicts := conflicts
      announced := some ⟨newEpoch h 65536 n.epoch, n.cycleNow + 4, n.ina.coldStart, lead, n.partnerId, entries⟩ } }

/-- The master may number: the round is complete, or has failed three times (R271). -/
def Node.mayAssign (n : Node) : Bool := n.master && n.ina.roundOn && n.ina.ready && n.ina.announced.isNone

/-! ### The commit at a node (R278 to R280) -/

/-- The `TOP_PLACE` value of an entry (R43). -/
def NumEntry.place (e : NumEntry) : Nat :=
  e.num + e.pos * 2 ^ 12 + b2n e.orient * 2 ^ 22 + b2n e.branch * 2 ^ 23 + b2n e.roleB * 2 ^ 24 + b2n e.paired * 2 ^ 25

/-- `INA_MAP` holds the numbering (R299). A node that is not the master learns no vehicle tag but its own: the tags of
other nodes are free values there (DESIGN CHOICE, log entry 26). -/
def Node.writeMap (n : Node) (entries : List NumEntry) : Node :=
  let m := (List.range (n.reg Reg.INA_NODES).toNat).foldl
    (fun k i => k.setRegs (Reg.INA_MAP i) [0#32, 0#32, 0#32, 0#32]) n
  entries.zipIdx.foldl (fun k x =>
    let e := x.1
    let tag := if e.identity = k.identity then k.reg Reg.TOP_VEH_TAG
      else if k.master then word e.tag else Config.vehTagOf e.identity
    k.setRegs (Reg.INA_MAP x.2)
      [word e.identity, word (e.identity / 2 ^ 32 + e.backup * 65536), word e.place, tag]) m

/-- The vehicles of a numbering. -/
def vehiclesIn (entries : List NumEntry) : Nat := ((entries.map (·.pos)).eraseDups).length

/-- The pair identity of this node is in conflict by a numbering (R19): its partner has another position, or more than two spine
nodes carry the identity, or two whose vehicle tags differ. -/
def Node.pairConflict (n : Node) (entries : List NumEntry) (own : NumEntry) : Bool :=
  let same := entries.filter fun e => !e.branch && n.pairIdOf e.identity == (n.reg Reg.TOP_PAIR_ID).toNat
  (n.paired && entries.any fun e => e.identity == n.partnerId && e.pos != own.pos) ||
  (!own.branch && (decide (2 < same.length) ||
    (same.length == 2 && ((same.map fun e => n.tagOf e.identity).eraseDups).length == 2)))

/-- The node takes a numbering with its own entry in it (R278 to R280). -/
def Node.takeNumbering (n : Node) (c : Commit) (own : NumEntry) : Node :=
  let old := n.epoch
  let entries := (sortBy id (c.entries.map (·.num))).filterMap fun k => c.entries.find? fun e => e.num == k
  let m := n.writeMap entries
  let m := m.setRegs Reg.TOP_PLACE [word own.place, word c.epoch]
  let m := m.setReg Reg.INA_PREV_EPOCH (word old)
  let m := m.setReg Reg.INA_NODES (word (entries.length + vehiclesIn entries * 2 ^ 12))
  let m := (m.setReg Reg.INA_LEAD_ID_LO (word c.lead)).setReg Reg.INA_LEAD_ID_HI (word (c.lead / 2 ^ 32))
  let m := ((m.setReg Reg.INA_COMMIT 0#32).setReg Reg.INA_COMMIT_CYC (word c.cyc)).inc Reg.INA_COMMITS
  let m := m.setFld Reg.INA_STATE Fld.INA_STATE_BACKUP own.backup
  let bleed := m.fld Reg.INA_CFG Fld.INA_CFG_INTEROP == 0
  let m := m.setFld Reg.INA_STATE Fld.INA_STATE_BLEED (b2n bleed)
  let joiner := !c.initial && (m.ina.joiner || !bleed)
  let m := m.setFld Reg.INA_STATE Fld.INA_STATE_JOINER (b2n joiner)
  let bad := m.pairConflict entries own || (m.master && m.ina.conflicts.contains (m.reg Reg.TOP_PAIR_ID).toNat)
  let m := if m.master then m.setReg Reg.INA_LAST_DUR (sword ((m.trainNs - m.ina.trigger) / 1000)) else m
  let m := { m with ina := { m.ina with
    prev := if bleed then m.ina.table else [], table := entries, bleedEnd := c.cyc + 4, result := none, parts := [],
    refCommit := none, announced := none, coldStart := false, heard := none, holdRef := false, masterPartner := c.partner,
    conflicts := if bad then [(m.reg Reg.TOP_PAIR_ID).toNat] else [], joiner := joiner } }
  let m := m.raise 0x2810 c.epoch own.place
  if bad then (if m.st = stMute then m else (m.giveUp).setSt stMute)
  else if m.st = stMute then m.leaveMute
  else if m.st = stRun then m
  else
    let mode := if !m.master then m.cyc.refMode else if c.initial then m.fld Reg.INA_CFG Fld.INA_CFG_START else m.mode
    let k := { m with cyc := { m.cyc with entering := !m.master } }.takeMode mode
    if k.muteCause then k.giveUp.setSt stMute else k.setSt stRun

/-- The numbering that the node holds for an epoch, with its own entry in it (R278). -/
def Node.heldCommit (n : Node) (epoch : Nat) : Option (Commit × NumEntry) :=
  (n.ina.result.filter fun c => c.epoch == epoch).bind fun c =>
    (c.entries.find? fun e => e.identity == n.identity).map fun own => (c, own)

/-- The commit of cycle C at a node (R278): with its entry it takes the numbering, without it keeps the old one, raises
COMMIT_MISSED and notifies. -/
def Node.commitNow (n : Node) (epoch : Nat) : Node :=
  match n.heldCommit epoch with
  | some (c, own) => n.takeNumbering c own
  | none =>
    let m := (n.raise 0x290C epoch 0).dropCommit
    { m with ina := { m.ina with heard := none } }.notice 1 n.cyc.refPort

/-- The bleed window ends (R280). -/
def Node.bleedOver (n : Node) : Node :=
  if n.fld Reg.INA_STATE Fld.INA_STATE_BLEED = 1 ∧ n.ina.bleedEnd ≤ n.cyc.cur then
    { n.setFld Reg.INA_STATE Fld.INA_STATE_BLEED 0 with ina := { n.ina with prev := [] } }
  else n

end Sys2Proof.Machine
end

