-- ==== Sys2Proof/Machine/Placer.lean ====
section
/-! DEFINITION. The train placer: stream table entries (R350), destinations (R351, R352), copies and paths (R354), starts,
latest starts and latest ends (R355), the meeting of slots (R356), admission (R357, R358) and the ledger (R349, R376,
R377). Times of slots are in ns, ends and wire times in tenths of ns. -/

namespace Sys2Proof.Machine

/-! ### The stream table (R366, R385) -/

/-- The valid entries, in ascending stream ID. -/
def Node.validStreams (n : Node) : List Nat :=
  (n.regs.filter fun p => decide (Reg.STB_ENTRY 0 ≤ p.1 ∧ p.1 < Reg.STB_ENTRY 16384) && p.1 % 32 == 4 &&
    p.2.toNat.testBit 16).map fun p => (p.1 - Reg.STB_ENTRY 0) / 32

/-- The digest over every valid entry (R366). -/
def Node.digest (n : Node) : Word :=
  word (crc32c (n.validStreams.flatMap fun s => (n.getRegs (Reg.STB_ENTRY s) 8).flatMap fun w => encLE 4 w.toNat))

/-- The counts and the digest that PLC shows. -/
def Node.syncStb (n : Node) : Node :=
  let vs := n.validStreams
  let active := vs.filter fun s => let t := (n.strm s).state; t == 2 || t == 3 || t == 4
  (n.setReg Reg.PLC_STREAMS (word (vs.length + active.length * 65536))).setReg Reg.PLC_DIGEST n.digest

/-- An entry written to STB. -/
def Node.putStrm (n : Node) (s : Nat) (e : Strm) : Node := ((n.setRegs (Reg.STB_ENTRY s) e.words).injSram 2 (s * 4) 4).syncStb

/-! ### Who is where -/

/-- The numbering that placement works on: the announced one at the master, else the current one. -/
def Node.plcTable (n : Node) : List NumEntry :=
  match n.ina.announced with
  | some c => c.entries
  | none => n.ina.table

/-- The source nodes of a stream: one node, or both nodes of a pair. -/
def Node.sourcesOf (n : Node) (tbl : List NumEntry) (e : Strm) : List NumEntry :=
  if e.pair then
    (tbl.filter fun x => x.paired && n.pairIdOf x.identity == e.src % 2 ^ 32 && !x.roleB) ++
    tbl.filter fun x => x.paired && n.pairIdOf x.identity == e.src % 2 ^ 32 && x.roleB
  else tbl.filter fun x => x.identity == e.src

/-- The destinations of a stream (R351, R352); the source is never one of them. -/
def Node.destsOf (n : Node) (tbl : List NumEntry) (e : Strm) : List NumEntry :=
  let srcs := (n.sourcesOf tbl e).map (·.identity)
  tbl.filter fun x => !srcs.contains x.identity &&
    match e.dkind with
    | 1 => x.identity == e.darg0 * 2 ^ 32 + e.darg1
    | 2 => x.paired && n.pairIdOf x.identity == e.darg1
    | 3 => decide (e.darg0 ≤ x.pos ∧ x.pos ≤ e.darg1 % 1024)
    | 4 => decide (e.darg1 % 1024 ≤ x.pos ∧ x.pos ≤ e.darg1 / 65536 % 1024)
    | 5 => true
    | 6 => n.tagOf x.identity == e.darg1
    | _ => false

/-! ### Segments and paths (R346, R354) -/

/-- Tenths of ns per byte at the rate of an interface type (R141). -/
def typeTenths (t : Nat) : Nat :=
  match t with
  | 1 => 8
  | 2 => 16
  | 3 => 32
  | 4 => 32
  | 5 => 80
  | 6 => 80
  | _ => 8

/-- A segment of a path: from node and fabric port to node, link delay in ns, MACsec, tenths of ns per byte, and the
segment before it in the path, by place. -/
structure Seg where
  src : Nat
  dst : Nat
  port : Nat
  delay : Nat
  sec : Bool
  tenths : Nat
  before : Option Nat
  deriving DecidableEq, Repr

/-- An entry of a numbering. -/
def entryIn (tbl : List NumEntry) (id : Nat) : Option NumEntry := tbl.find? fun e => e.identity == id

/-- The fabric port by which a node reaches a neighbour on a line: toward lower positions on the front side when the
front faces the leading end. A branch link leaves a parent on a car port that no record names (DESIGN CHOICE, log entry 27). -/
def Node.egressTo (n : Node) (tbl : List NumEntry) (u v : Nat) (lineB : Bool) : Nat :=
  let back := n.plc.records.find? fun t => t.topo.identity == u && t.topo.upstream == v && decide (t.topo.port < 4) &&
    (t.topo.port % 2 == 1) == lineB
  match entryIn tbl u, entryIn tbl v with
  | some a, some b =>
    if a.branch ∨ b.branch then
      match back with
      | some t => t.topo.port
      | none =>
        if a.branch then 2 + b2n lineB
        else if u = n.identity then
          ((List.range 12).find? fun p => decide (4 ≤ p) && n.carKind p == 1 && n.portB p == lineB).getD 4
        else 4 + (Config.branchPort u lineB).toNat
    else (if decide (b.pos < a.pos) == a.orient then 0 else 2) + b2n lineB
  | _, _ => b2n lineB

/-- The segments that leave a node on a line, over spine and branch links. -/
def Node.segsFrom (n : Node) (tbl : List NumEntry) (lineB : Bool) (u : Nat) : List Seg :=
  let recs := (n.plc.records.map (·.topo)).filter fun t => decide (t.port < 4) && (t.port % 2 == 1) == lineB
  (recs.flatMap fun t =>
    let typ := typeTenths (t.ingress / 16)
    if t.upstream = u then [⟨u, t.identity, n.egressTo tbl u t.identity lineB, t.delay, t.sec, typ, none⟩]
    else if t.identity = u then [⟨u, t.upstream, n.egressTo tbl u t.upstream lineB, t.delay, t.sec, typ, none⟩]
    else []).eraseDups

/-- The Jalder segment of a pair node. -/
def Node.jalderSeg (n : Node) (u v : Nat) : Seg :=
  ⟨u, v, 12, ((recOf n.plc.records u).map (·.jlk)).getD 0, false, 8, none⟩

/-- Insertion of a keyed segment. -/
def insertSeg (x : Nat × Nat × Seg) : List (Nat × Nat × Seg) → List (Nat × Nat × Seg)
  | [] => [x]
  | y :: ys => if x.1 < y.1 then x :: y :: ys else y :: insertSeg x ys

/-- The next level of a breadth-first path (R358): from a frontier of (node, direction, place of the entering segment), the
segments to nodes not yet reached, front direction before rear, spine before branch, then ascending identity. -/
def Node.nextLevel (n : Node) (tbl : List NumEntry) (lineB : Bool) (seen : List Nat) (first : Bool)
    (frontier : List (Nat × Nat × Option Nat)) : List (Nat × Nat × Seg) :=
  let cands := frontier.flatMap fun f =>
    ((n.segsFrom tbl lineB f.1).filter fun s => !seen.contains s.dst).map fun s =>
      let dir := if first then (if s.port < 2 then 0 else if s.port < 4 then 1 else 2) else f.2.1
      let branch := b2n ((entryIn tbl s.dst).any (·.branch))
      ((dir * 2 + branch) * 2 ^ 48 + s.dst, dir, { s with before := f.2.2 })
  cands.foldr insertSeg []

/-- The paths from a node along a line, breadth first; `base` is the place of the next segment. -/
def Node.pathsFrom (n : Node) (tbl : List NumEntry) (lineB : Bool) : Nat → List Nat → Bool →
    List (Nat × Nat × Option Nat) → List Seg → List Seg
  | 0, _, _, _, acc => acc
  | k + 1, seen, first, frontier, acc =>
    let level := n.nextLevel tbl lineB seen first frontier
    if level.isEmpty then acc
    else
      let (acc', front') := level.foldl (fun (a : List Seg × List (Nat × Nat × Option Nat)) x =>
        if a.1.any (fun s => s.dst == x.2.2.dst) then a
        else (a.1 ++ [x.2.2], a.2 ++ [(x.2.2.dst, x.2.1, some a.1.length)])) (acc, [])
      n.pathsFrom tbl lineB k (seen ++ front'.map (·.1)) false front' acc'

/-- A copy of a stream (R152, R354): its index, its line, its source and the segments it takes, in path order, each one on
the way to a destination. -/
structure Copy where
  index : Nat
  lineB : Bool
  src : Nat
  segs : List Seg
  deriving DecidableEq, Repr

/-- The places of the segments on the way to a segment. -/
def upTo (segs : List Seg) : Nat → Nat → List Nat
  | 0, _ => []
  | k + 1, j =>
    match segs[j]? with
    | some s => j :: (match s.before with | some i => upTo segs k i | none => [])
    | none => []

/-- The segments kept, with their places counted anew. -/
def keepSegs (segs : List Seg) (keep : List Nat) : List Seg :=
  let kept := (List.range segs.length).filter keep.contains
  kept.filterMap fun j => (segs[j]?).map fun s =>
    { s with before := s.before.map fun i => kept.findIdx fun x => x == i }

/-- One copy of a stream from a source node on a line. -/
def Node.copyOf (n : Node) (tbl : List NumEntry) (src : NumEntry) (lineB : Bool) (dests : List Nat) : Copy :=
  let own := !src.paired || src.roleB == lineB
  let partner := (tbl.find? fun x => x.paired && x.identity != src.identity && x.pos == src.pos && !x.branch).map (·.identity)
  let index := b2n (src.paired && src.roleB) * 2 + b2n (!own)
  let fuel := tbl.length + 1
  let all := if own then n.pathsFrom tbl lineB fuel [src.identity] true [(src.identity, 0, none)] []
    else match partner with
      | some p => n.pathsFrom tbl lineB fuel [src.identity, p] true [(p, 0, some 0)] [n.jalderSeg src.identity p]
      | none => []
  let keep := (all.zipIdx.filter fun x => dests.contains x.1.dst).flatMap fun x => upTo all fuel x.2
  ⟨index, lineB, src.identity, keepSegs all keep⟩

/-- The copies of a stream in copy order (R358): ascending copy index, line A before line B; a copy that reaches no
destination is not placed (R354). -/
def Node.copiesOf (n : Node) (tbl : List NumEntry) (e : Strm) : List Copy :=
  let dests := (n.destsOf tbl e).map (·.identity)
  let lines := (if e.lines.testBit 0 then [false] else []) ++ (if e.lines.testBit 1 then [true] else [])
  let all := (n.sourcesOf tbl e).flatMap fun s => lines.map fun l => n.copyOf tbl s l dests
  ((List.range 4).flatMap fun i => all.filter fun c => c.index == i).filter fun c => !c.segs.isEmpty

/-! ### Starts and ends (R355, R356) -/

/-- The wire time of a frame of a stream on a segment, in tenths of ns (R212). -/
def Seg.wire (s : Seg) (frame : Nat) : Nat := (frame + (if s.sec then 32 else 0) + 20) * s.tenths

/-- The residence between two segments in tenths of ns (R355). -/
def residence (inSeg outSeg : Seg) (frame : Nat) : Nat :=
  1800 + (if inSeg.sec then 400 else 0) + (if outSeg.tenths < inSeg.tenths then inSeg.wire frame else 0)

/-- A mode's limits for the placer: slot guard and scheduled window in ns. -/
structure Limits where
  guard : Nat
  sched : Nat
  deriving DecidableEq, Repr

/-- What stands on a segment: slots with period exponent and phase, and reference crossings as (from, to) in tenths. -/
structure Busy where
  node : Nat
  port : Nat
  k : Nat
  phase : Nat
  start : Nat
  late : Nat
  wire : Nat
  deriving DecidableEq, Repr

/-- Two slots meet (R356). -/
def meets (kx px ky py : Nat) : Bool := px % 2 ^ min kx ky == py % 2 ^ min kx ky

/-- A slot keeps clear of another (R356). -/
def clear (g start late wire : Nat) (x : Busy) : Bool :=
  (decide (x.late ≤ start * 10) && decide (x.start + ceil32 x.wire + g ≤ start)) ||
  (decide (late ≤ x.start * 10) && decide (start + ceil32 wire + g ≤ x.start))

/-- The lowest start at or above `e` that R356 allows, none when the window has none. `lateOf` gives the latest end of a
start. -/
def findStart (l : Limits) (busy : List Busy) (cross : List (Nat × Nat)) (wire : Nat) (lateOf : Nat → Nat) :
    Nat → Nat → Option Nat
  | 0, _ => none
  | k + 1, e =>
    if (4000 + l.sched) * 10 < lateOf e then none
    else if e < 4000 + l.guard then findStart l busy cross wire lateOf k (ceil32 ((4000 + l.guard) * 10))
    else match cross.find? fun c => decide ((e - l.guard) * 10 < c.2 ∧ c.1 < lateOf e) with
      | some c => findStart l busy cross wire lateOf k (max (e + 32) (ceil32 (c.2 + l.guard * 10)))
      | none =>
        match busy.find? fun x => !clear l.guard e (lateOf e) wire x with
        | some x =>
          findStart l busy cross wire lateOf k
            (max (e + 32) (max (ceil32 x.late) (ceil32 ((x.start + ceil32 x.wire + l.guard) * 10))))
        | none => some e

/-- A segment placed: its start in ns, latest start and latest end in tenths. -/
structure Slotted where
  seg : Seg
  start : Nat
  lateStart : Nat
  late : Nat
  deriving DecidableEq, Repr

/-- What the placer works with for one stream. -/
structure Job where
  limits : Limits
  frame : Nat
  k : Nat
  /-- Slots on every segment, and crossings as (node, port, from, to). -/
  busy : List Busy
  cross : List (Nat × Nat × Nat × Nat)
  deriving DecidableEq, Repr

/-- One segment of a copy placed after those before it, none when it finds no start. With `alone`, no other stream and no
crossing stands on it (reason 3 of R357). -/
def placeSeg (j : Job) (phase : Nat) (alone : Bool) (done : List Slotted) (s : Seg) : Option (List Slotted) :=
  let w := s.wire j.frame
  let up := s.before.bind fun i => done[i]?
  let reach := match up with
    | some u => u.start * 10 + u.seg.delay * 10 + residence u.seg s j.frame
    | none => (4000 + j.limits.guard) * 10
  let lateIn := match up with
    | some u => u.lateStart + u.seg.delay * 10 + residence u.seg s j.frame
    | none => 0
  let lateStart (st : Nat) : Nat := if s.before.isNone then st * 10 + 1600 else max (st * 10) lateIn
  let here := j.busy.filter fun b => b.node == s.src && b.port == s.port && meets b.k b.phase j.k phase
  let crossing := (j.cross.filter fun c => c.1 == s.src && c.2.1 == s.port).map fun c => (c.2.2.1, c.2.2.2)
  let fuel := 2 * (j.busy.length + j.cross.length) + 4
  let st := if alone then some (ceil32 reach)
    else findStart j.limits here crossing w (fun st => lateStart st + w) fuel (ceil32 reach)
  st.map fun st => done ++ [⟨s, st, lateStart st, lateStart st + w⟩]

/-- A copy placed. -/
def placeCopy (j : Job) (phase : Nat) (alone : Bool) (c : Copy) : Option (List Slotted) :=
  c.segs.foldl (fun acc s => acc.bind fun d => placeSeg j phase alone d s) (some [])

/-- The slots of a copy stand on their segments for the copies after it. -/
def Job.add (j : Job) (phase : Nat) (sl : List Slotted) : Job :=
  { j with busy := j.busy ++ sl.map fun s => ⟨s.seg.src, s.seg.port, j.k, phase, s.start, s.late, s.seg.wire j.frame⟩ }

/-- Every copy placed, in copy order. -/
def placeAll (j : Job) (phase : Nat) (alone : Bool) (cs : List Copy) : Option (List (Copy × List Slotted)) :=
  (cs.foldl (fun (acc : Option (Job × List (Copy × List Slotted))) c =>
    acc.bind fun a => (placeCopy a.1 phase alone c).map fun sl => (a.1.add phase sl, a.2 ++ [(c, sl)]))
    (some (j, []))).map (·.2)

/-- The index of what stands for the car slots of a placement beside its copies (R459). -/
def carIndex : Nat := 4

/-- The delivery in tenths of ns (R355): the latest over all copies and destinations. -/
def deliveryOf (placed : List (Copy × List Slotted)) (dests : List Nat) : Nat :=
  placed.foldl (fun a c => c.2.foldl (fun a s => if dests.contains s.seg.dst then max a (s.late + s.seg.delay * 10) else a) a) 0

/-! ### Crossings (R208) -/

/-- The reference crossings of one master on one line: REF leaves at the cycle start and crosses each segment. -/
def Node.crossingsOf (n : Node) (tbl : List NumEntry) (m : NumEntry) (lineB : Bool) : List (Nat × Nat × Nat × Nat) :=
  let c := n.copyOf tbl m lineB (tbl.map (·.identity))
  let frame := 118
  let starts := c.segs.foldl (fun (acc : List (Seg × Nat)) s =>
    let t := match s.before.bind fun i => acc[i]? with
      | some u => u.2 + u.1.delay * 10 + residence u.1 s frame
      | none => 0
    acc ++ [(s, t)]) []
  starts.map fun x =>
    (x.1.src, x.1.port, (x.2 - 2560) / 320 * 320, (x.2 + x.1.wire frame + 2560 + 319) / 320 * 320)

/-- The crossings of the current master and of each cold-start-capable node. -/
def Node.crossings (n : Node) : List (Nat × Nat × Nat × Nat) :=
  let tbl := n.plcTable
  ((tbl.filter fun e => e.identity == n.masterId || (recOf n.plc.records e.identity).any fun t => t.rank != 0).flatMap fun m =>
    n.crossingsOf tbl m false ++ n.crossingsOf tbl m true).eraseDups

/-! ### The ledger (R349, R376, R377) -/

/-- The mix inputs in use per zone at a node: one for each audio stream delivered to the zone there (R377). -/
def Node.zoneInputs (n : Node) (tbl : List NumEntry) (id : Nat) : List Nat :=
  let heard := (n.validStreams.map n.strm).filter fun (e : Strm) =>
    e.cls == 1 && e.dkind == 4 && e.state != 0 && e.state != 5 && (n.destsOf tbl e).any fun x => x.identity == id
  (List.range 16).map fun z => (heard.filter fun e => e.darg0.testBit z).length

/-- A zone mixer takes its inputs at the lowest engine with room for them (R377), none when no engine has it. -/
def takeZone : List Nat → Nat → Option (List Nat)
  | [], k => if k = 0 then some [] else none
  | m :: ms, k => if k ≤ m then some ((m - k) :: ms) else (takeZone ms k).map fun r => m :: r

/-- What the zones, in ascending number, leave of the engines' mix inputs (R377). -/
def mixLeft (cap zones : List Nat) : Option (List Nat) := zones.foldl (fun a z => a.bind fun m => takeZone m z) (some cap)

/-- The engines that run zone mixers, from a mask: 32 inputs each (R377). -/
def mixCapOf (mask : Nat) : List Nat := (List.range 8).map fun i => if mask.testBit i then 32 else 0

/-- A node's ledger: this node's own is what its local placer holds; another's is as full as a node that has sent no census
leaves it. -/
def Node.ledger (n : Node) (id : Nat) : Ledger :=
  if id = n.identity then
    ⟨id, (n.reg Reg.PLC_POOL_FREE).toNat, n.plc.mixCap, (n.reg Reg.PLC_TRANSIT_AUD).toNat, n.bits Reg.CYC_TXLIST 16 10⟩
  else (n.plc.ledgers.find? fun l => l.identity == id).getD ⟨id, 16384, mixCapOf 0xFF, 0, 0⟩

/-- A ledger changed. -/
def Node.putLedger (n : Node) (l : Ledger) : Node :=
  { n with plc := { n.plc with ledgers := n.plc.ledgers.filter (fun x => x.identity != l.identity) ++ [l] } }

/-- What an admission takes at a node: cells, audio streams and originated entries (R376, R377). -/
def chargeAt (e : Strm) (placed : List (Copy × List Slotted)) (dests : List Nat) (id : Nat) : Nat × Nat × Nat :=
  let placed := placed.filter fun x => x.1.index != carIndex
  let c := (slotFrame e.size + 255) / 256
  let origin := placed.any fun x => x.1.src == id
  let forwards := (placed.filter fun x => x.1.src != id && x.2.any fun s => s.seg.src == id).length
  let receives := if dests.contains id then (placed.filter fun x => x.2.any fun s => s.seg.dst == id).length else 0
  let entries := (placed.filter fun x => x.1.src == id).length
  (c * ((if origin then 3 else 0) + forwards + receives), if e.cls = 1 ∧ (0 < forwards ∨ 0 < receives) then 1 else 0, entries)

/-- The zone mixers of a node have room for one more audio stream (R377). -/
def Node.mixRoom (n : Node) (tbl : List NumEntry) (e : Strm) (dests : List Nat) (id : Nat) : Bool :=
  e.cls != 1 || e.dkind != 4 || !dests.contains id ||
  (mixLeft (n.ledger id).mix ((n.zoneInputs tbl id).zipIdx.map fun x => x.1 + b2n (e.darg0.testBit x.2))).isSome

/-- The nodes that a placement touches. -/
def touched (placed : List (Copy × List Slotted)) : List Nat :=
  ((placed.filter fun x => x.1.index != carIndex).flatMap fun x => x.1.src :: x.2.flatMap fun s => [s.seg.src, s.seg.dst]).eraseDups

/-- What a placement lacks at the nodes that it touches: the reason of R357, 8, 4 or 5. -/
def Node.lacks (n : Node) (tbl : List NumEntry) (e : Strm) (placed : List (Copy × List Slotted)) (dests : List Nat) :
    Option Nat :=
  let nodes := (touched placed).map fun i => (n.ledger i, chargeAt e placed dests i)
  if nodes.any fun x => decide (512 < x.1.orig + x.2.2.2) then some 8
  else if nodes.any fun x => decide (x.1.pool < x.2.1) then some 4
  else if nodes.any fun x => decide (256 < x.1.audio + x.2.2.1) || !n.mixRoom tbl e dests x.1.identity then some 5
  else none

/-- A ledger charged, or credited when a stream is removed. -/
def Ledger.charge (l : Ledger) (q : Nat × Nat × Nat) : Ledger :=
  { l with pool := l.pool - q.1, audio := l.audio + q.2.1, orig := l.orig + q.2.2 }
def Ledger.credit (l : Ledger) (q : Nat × Nat × Nat) : Ledger :=
  { l with pool := l.pool + q.1, audio := l.audio - q.2.1, orig := l.orig - q.2.2 }

/-! ### The placer's view of the train -/

/-- The windows of the base mode (R368). -/
def Node.baseMode (n : Node) : Option Mode :=
  n.cyc.modes.find? fun m => m.num == n.fld Reg.PLC_STATE Fld.PLC_STATE_BASE

/-- The limits of the base mode, those of the shortest mode of R202 when the node holds none. -/
def Node.limits (n : Node) : Limits :=
  match n.baseMode with
  | some m => ⟨m.sguard, m.sched⟩
  | none => ⟨128, 4096⟩

/-- What stands on the segments: the slots placed and the fixed slots of the base mode. -/
def Node.busy (n : Node) : List Busy :=
  (n.plc.placed ++ n.plc.fixed).map fun p =>
    ⟨p.node, p.port, p.k, p.phase, p.start, p.late, p.wire⟩

/-- The job of placing a stream. -/
def Node.jobFor (n : Node) (e : Strm) : Job :=
  { limits := n.limits, frame := slotFrame e.size, k := e.k, busy := n.busy, cross := n.crossings }

/-- The slots of a placement. -/
def slotsOf (stream : Nat) (e : Strm) (placed : List (Copy × List Slotted)) : List Placed :=
  placed.flatMap fun c => c.2.map fun s =>
    ⟨stream, s.seg.src, c.1.index, s.seg.before.isNone, s.seg.port, s.start, s.late, s.late - s.lateStart, false, e.k, e.phase⟩

/-- Some phase gives every segment of every copy a start by itself (reason 1 of R357). -/
def roomSomewhere (j : Job) (cs : List Copy) : Bool :=
  (List.range (2 ^ j.k)).any fun phase => cs.all fun c => c.segs.all fun s =>
    let w := s.wire j.frame
    let here := j.busy.filter fun b => b.node == s.src && b.port == s.port && meets b.k b.phase j.k phase
    let crossing := (j.cross.filter fun x => x.1 == s.src && x.2.1 == s.port).map fun x => (x.2.2.1, x.2.2.2)
    (findStart j.limits here crossing w (fun st => st * 10 + w) (2 * (j.busy.length + j.cross.length) + 4)
      (4000 + j.limits.guard)).isSome

/-- The car ports that a destination's dataset of a stream names, and the wire time of its delivery frame there in tenths of ns:
its own datasets for the node itself (R459; log entry 118). -/
def Node.carPortsAt (n : Node) (id s : Nat) : List Nat :=
  let mask := if id = n.identity then ((n.pd.sets.find? fun d => d.stream == s && d.consumed).map (·.ports)).getD 0
    else (Config.carPorts id s).toNat
  (List.range 8).filter mask.testBit
def Node.carWireAt (n : Node) (id s size c : Nat) : Nat :=
  if id = n.identity then n.wireTenths (4 + c) (n.carFrame (4 + c) size) else (Config.carWire id s c).toNat

/-- The car slots of a dataset's stream (R459): at each destination and each car port that its dataset names, 180 ns after the
latest delivery there. None when one meets another car slot of the port, or the window's end. -/
def Node.carSlots (n : Node) (s : Nat) (e : Strm) (j : Job) (phase : Nat) (placed : List (Copy × List Slotted)) (dests : List Nat) :
    Option (List Slotted) :=
  let want := if e.cls = 0 then dests.flatMap fun d => (n.carPortsAt d s).map fun c => (d, c) else []
  want.foldl (fun acc x => acc.bind fun sl =>
    let start := ceil32 (deliveryOf placed [x.1] + 1800)
    let wire := n.carWireAt x.1 s e.size x.2
    let late := start * 10 + wire
    let here := j.busy.filter fun b => b.node == x.1 && b.port == 4 + x.2 && meets b.k b.phase j.k phase
    if late ≤ (4000 + j.limits.sched) * 10 ∧ (here.all fun b => clear j.limits.guard start late wire b) = true then
      some (sl ++ [⟨⟨x.1, x.1, 4 + x.2, 0, false, 0, some 0⟩, start, start * 10, late⟩])
    else none) (some [])

/-- A placement with its car slots beside its copies. -/
def Node.withCar (n : Node) (s : Nat) (e : Strm) (j : Job) (phase : Nat) (dests : List Nat) (placed : List (Copy × List Slotted)) :
    Option (List (Copy × List Slotted)) :=
  (n.carSlots s e j phase placed dests).map fun sl => if sl.isEmpty then placed else placed ++ [(⟨carIndex, false, 0, []⟩, sl)]

/-- The stream placed alone, with its car slots (reason 3 of R357). -/
def Node.placeAlone (n : Node) (s : Nat) (e : Strm) (j : Job) (phase : Nat) (cs : List Copy) (dests : List Nat) :
    Option (List (Copy × List Slotted)) :=
  (placeAll j phase true cs).bind fun p => n.withCar s e { j with busy := [] } phase dests p

/-- The first phase that fits with delivery by the deadline (R358). -/
def Node.firstPhase (n : Node) (s : Nat) (e : Strm) (j : Job) (cs : List Copy) (dests : List Nat) :
    Option (Nat × List (Copy × List Slotted)) :=
  (List.range (2 ^ j.k)).findSome? fun phase =>
    match (placeAll j phase false cs).bind fun p => n.withCar s e j phase dests p with
    | some p => if deliveryOf p dests ≤ e.deadline * 10 then some (phase, p) else none
    | none => none

/-- The line and direction of a slot on a spine port: line B, and toward the leading end (R45). -/
def wayOf (tbl : List NumEntry) (node port : Nat) : Option (Bool × Bool) :=
  if port < 4 then (entryIn tbl node).map fun x => (port % 2 == 1, decide (port < 2) == x.orient) else none

/-- The transmissions of a cycle on a line in a direction: the copies of streams, and the status frames of the segment with the
most of them, which lies at the end of the line (R218, R357). -/
def Node.transmissions (n : Node) (tbl : List NumEntry) (way : Bool × Bool) (cyc : Nat) : Nat :=
  let on := (n.plc.placed ++ n.plc.fixed).filter fun (p : Placed) =>
    wayOf tbl p.node p.port == some way && cyc % 2 ^ p.k == p.phase % 2 ^ p.k
  let status := (on.filter fun p => p.stream == 0).map fun p => (p.node, p.port)
  let streams := ((on.filter fun p => decide (0 < p.stream ∧ p.stream < 16384)).map fun p => (p.stream, p.copy)).eraseDups
  streams.length + (status.eraseDups.map fun x => status.count x).foldl max 0

/-- For every phase, a line and direction would carry more than 4,096 transmissions in some cycle (R357). -/
def Node.tooMany (n : Node) (tbl : List NumEntry) (k : Nat) (cs : List Copy) : Bool :=
  let ways := ((cs.flatMap fun c => c.segs).filterMap fun s => wayOf tbl s.src s.port).eraseDups
  decide (4096 ≤ n.plc.placed.length + n.plc.fixed.length) &&
  (List.range (2 ^ k)).all fun phase => ways.any fun w => (List.range 1024).any fun c =>
    c % 2 ^ k == phase && decide (4096 ≤ n.transmissions tbl w c)

/-- A source's local port would exceed 2.5 Gbit/s (R55): what a node originates counts once for each transmission, its own
streams, those of its pair and its status stream together. -/
def Node.localFull (n : Node) (tbl : List NumEntry) (e : Strm) : Bool :=
  let bits (size k : Nat) : Nat := (slotFrame size + 20) * 8 * 1024 / 2 ^ k
  let running := (n.validStreams.map n.strm).filter fun (x : Strm) => x.cls != 2 && x.state != 0 && x.state != 5
  (n.sourcesOf tbl e).any fun src =>
    let load := (running.filter fun x => (n.sourcesOf tbl x).any fun y => y.identity == src.identity).foldl
      (fun a x => a + bits x.size x.k) (bits 16 0)
    decide (n.tc * 5 / 2 * 1024 < load + bits e.size e.k)

/-- An admission: the phase and the placement, or the reason of a rejection (R357, reason 6 aside). -/
def Node.admitBase (n : Node) (stream : Nat) (e : Strm) (again : Bool) : Except Nat (Nat × List (Copy × List Slotted)) :=
  let tbl := n.plcTable
  let old := n.strm stream
  let dests := (n.destsOf tbl e).map (·.identity)
  let cs := n.copiesOf tbl e
  let j := n.jobFor e
  if stream = 0 ∨ 16380 ≤ stream ∨ (old.valid ∧ !again) then .error 7
  else if dests.isEmpty then .error 9
  else if e.cls = 2 then .ok (0, [])
  else if cs.isEmpty then .error 9
  else if (match n.placeAlone stream e j 0 cs dests with | some p => decide (e.deadline * 10 < deliveryOf p dests) | none => true) then .error 3
  else match n.lacks tbl e ((n.placeAlone stream e j 0 cs dests).getD []) dests with
  | some r => .error r
  | none =>
    if n.tooMany tbl e.k cs ∨ n.localFull tbl e ∨ !roomSomewhere j cs then .error 1
    else match n.firstPhase stream e j cs dests with
      | some p => .ok p
      | none => .error 2

/-- The growth intervals stand free for joiners' streams alone (R374): everything outside them is busy for such a stream,
and they are busy for every other. `inside` picks which. -/
def Node.growthBusy (n : Node) (cs : List Copy) (inside : Bool) : List Busy :=
  let l := n.limits
  cs.flatMap fun c => c.segs.flatMap fun s =>
    let gs := n.plc.growth.filter fun g => g.2.2.testBit (b2n c.lineB)
    if inside then
      let edges := gs.foldl (fun (a : Nat × List (Nat × Nat)) g => (g.1 + g.2.1, a.2 ++ [(a.1, g.1)])) (4000, [])
      (edges.2 ++ [(edges.1, 4000 + l.sched)]).map fun g => ⟨s.src, s.port, 0, 0, g.1, g.2 * 10, (g.2 - g.1) * 10⟩
    else gs.map fun g => ⟨s.src, s.port, 0, 0, g.1, (g.1 + g.2.1) * 10, g.2.1 * 10⟩

/-- A declaration placed by R374: a joiner's stream inside the growth intervals when that succeeds, else in the remaining
time; the answer says whether it stands in them. -/
def Node.admitGrowth (n : Node) (stream : Nat) (e : Strm) (joiner again : Bool) :
    Except Nat (Nat × List (Copy × List Slotted) × Bool) :=
  let cs := n.copiesOf n.plcTable e
  let withBusy (inside : Bool) : Node :=
    { n with plc := { n.plc with fixed := n.plc.fixed ++ (n.growthBusy cs inside).map fun b =>
      ⟨16384, b.node, 0, false, b.port, b.start, b.late, b.wire, false, 0, 0⟩ } }
  if n.plc.growth.isEmpty then (n.admitBase stream e again).map fun p => (p.1, p.2, false)
  else
    let inside := if joiner then (withBusy true).admitBase stream e again else .error 2
    match inside with
    | .ok p => .ok (p.1, p.2, true)
    | .error _ => ((withBusy false).admitBase stream e again).map fun p => (p.1, p.2, false)

/-! ### Status streams (R360) -/

/-- The status stream of a node: 16 bytes, every cycle, on both lines, to every node of the line. -/
def statusStrm (id : Nat) : Strm :=
  { src := id, valid := true, pair := false, cls := 0, lines := 3, prio := 15, fixed := false, secure := false,
    growth := false, state := 1, dkind := 5, darg0 := 0, darg1 := 0, k := 0, phase := 0, size := 16,
    deadline := 2 ^ 34 - 1, admSeq := 0, dcount := 0, reason := 0 }

/-- The status streams of a numbering, placed one after another in node-number order before any other stream; none when
they do not fit (R202). The spec leaves the stagger open (DEDUCED, log entry 28). -/
def Node.placeStatus (n : Node) : Option (List Placed) :=
  let tbl := n.plcTable
  let j0 : Job := { limits := n.limits, frame := slotFrame 16, k := 0, busy := [], cross := n.crossings }
  (tbl.foldl (fun (acc : Option (Job × List Placed)) e =>
    acc.bind fun a =>
      let st := statusStrm e.identity
      (placeAll a.1 0 false (n.copiesOf tbl st)).map fun p =>
        let sl := slotsOf 0 st p
        ({ a.1 with busy := a.1.busy ++ sl.map fun x => ⟨x.node, x.port, 0, 0, x.start, x.late, x.wire⟩ }, a.2 ++ sl))
    (some (j0, []))).map (·.2)

end Sys2Proof.Machine
end

