-- ==== Sys2Proof/Machine/Track.lean ====
section
/-! DEFINITION. What a receiver keeps of the copies of an instance (R389 to R397): duplicate trackers, divergence, stale
runs, the messages of system streams and the stream table's registered sources. -/

namespace Sys2Proof.Machine

/-! ### Sources (R391, R392) -/

/-- The source that a stream's entry registers is the node of an identity. -/
def Node.sourceIs (n : Node) (e : Strm) (id : Nat) : Bool :=
  if e.pair then n.pairIdOf id == e.src % 2 ^ 32 else id == e.src

/-- This node is a source of a stream. -/
def Node.ownStream (n : Node) (e : Strm) : Bool :=
  if e.pair then n.paired && (n.reg Reg.TOP_PAIR_ID).toNat == e.src % 2 ^ 32 else e.src == n.identity

/-- The stream is delivered at this node. -/
def Node.isDest (n : Node) (e : Strm) : Bool := (n.destsOf n.ina.table e).any fun x => x.identity == n.identity

/-- The sequence of a stream's instance in a cycle (R389). -/
def seqOf (k cyc : Nat) : Nat := cyc / 2 ^ k % 65536

/-! ### Trackers (R393 to R396, R439) -/

/-- What a tracker holds. -/
structure Tracker where
  high : Nat
  age : Nat
  map : Nat
  check : Nat
  deriving DecidableEq, Repr

/-- The tracker of a stream, empty while an uncorrectable error has hit it (R73). -/
def Node.tracker (n : Node) (s : Nat) : Tracker :=
  let w (i : Nat) : Nat := (n.reg (Reg.PAR_TRK s + 4 * i)).toNat
  if n.mem.absent.contains (3, s) then ⟨0, 0, 0, 0⟩ else ⟨w 0 % 65536, w 0 / 65536, w 1 + w 2 * 2 ^ 32, w 3⟩

/-- A tracker written; what an error had hit is there again. -/
def Node.putTracker (n : Node) (s : Nat) (t : Tracker) : Node :=
  ({ n with mem := { n.mem with absent := n.mem.absent.filter fun (x : Nat × Nat) => x != (3, s) } }.setRegs (Reg.PAR_TRK s)
    [word (t.high % 65536 + t.age % 65536 * 65536), word t.map, word (t.map / 2 ^ 32), word t.check]).injSram 3 (s * 2) 2

/-- A tracker emptied. -/
def Node.emptyTracker (n : Node) (s : Nat) : Node :=
  let m := n.putTracker s ⟨0, 0, 0, 0⟩
  { m with par := { m.par with stale := m.par.stale.filter fun x => x.1 != s } }

/-- The outcome of a copy at a tracker. -/
inductive Fate where
  | accept
  | duplicate
  | stale
  deriving DecidableEq, Repr

/-- The difference of two sequences as a signed value. -/
def seqDelta (q h : Nat) : Int := (BitVec.ofNat 16 (q + 65536 - h % 65536)).toInt

/-- The row of the table of R394 that a sequence meets. -/
def Tracker.fate (t : Tracker) (q : Nat) : Fate :=
  if t.map % 2 = 0 then .accept
  else
    let d := seqDelta q t.high
    if 0 < d then .accept
    else if -64 < d ∧ t.map.testBit (-d).toNat then .duplicate
    else .stale

/-- A copy of a sequence is accepted: H, the map and the kept copy's age and check (R393, R394). -/
def Tracker.take (t : Tracker) (q age check : Nat) : Tracker :=
  if t.map % 2 = 0 then ⟨q, age, 1, check⟩
  else ⟨q, age, (t.map * 2 ^ (min (seqDelta q t.high).toNat 64) + 1) % 2 ^ 64, check⟩

/-- The run of stale instances of a tracker after one more stale copy of a sequence (R395). -/
def Node.staleRun (n : Node) (s q : Nat) : Nat :=
  match n.par.stale.find? fun x => x.1 == s with
  | some (_, k, last) => if last = q then k else if (last + 1) % 65536 = q then k + 1 else 1
  | none => 1

/-- A run of stale instances written. -/
def Node.putStale (n : Node) (s k q : Nat) : Node :=
  let rest := n.par.stale.filter fun x => x.1 != s
  { n with par := { n.par with stale := if k = 0 then rest else rest ++ [(s, k, q)] } }

/-- A copy is accepted by a tracker. -/
def Node.trackAccept (n : Node) (s q age check ci : Nat) : Node :=
  let m := (n.putTracker s ((n.tracker s).take q age check)).putStale s 0 0
  { m with par := { m.par with kept := m.par.kept.filter (fun x => x.1 != s) ++ [(s, ci)] } }

/-- A duplicate at Δ = 0 with the kept copy's age and another check diverges (R396). -/
def Node.diverge (n : Node) (s q age check ci : Nat) : Node :=
  let t := n.tracker s
  if q = t.high ∧ age = t.age ∧ check ≠ t.check then
    let kept := ((n.par.kept.find? fun x => x.1 == s).map (·.2)).getD 0
    let d := s + kept * 2 ^ 16 + ci * 2 ^ 18
    (((n.inc Reg.PAR_DIVERGE).setReg Reg.PAR_LAST_DIV (word d)).setReg Reg.PAR_LAST_DIV_SEQ (word q)).raiseLimited 0x4103 s
      n.tc d q
  else n

/-- A copy of an instance at the tracker of its stream (R394 to R396): whether it is accepted, and so delivered. -/
def Node.track (n : Node) (s q age check ci : Nat) : Node × Bool :=
  match (n.tracker s).fate q with
  | .accept => (n.trackAccept s q age check ci, true)
  | .duplicate => (((n.add64 Reg.PAR_DUP_LO 1).putStale s 0 0).diverge s q age check ci, false)
  | .stale =>
    let k := n.staleRun s q
    if 3 ≤ k then
      let old := (n.tracker s).high
      (((n.emptyTracker s).trackAccept s q age check ci).raiseLimited 0x410B s n.tc s old, true)
    else ((n.inc Reg.PAR_STALE).putStale s k q, false)

/-! ### Messages (R397) -/

/-- Messages of the stream are taken here: a stream of stream ID 1 to 16,379 only where it is delivered, since a node that only forwards
it keeps no tracker for it (R393); the system message streams, from 16,380, at every node (R397). -/
def Node.takesStream (n : Node) (s : Nat) : Bool :=
  decide (16380 ≤ s) || ((n.strmLive s).valid && n.isDest (n.strm s))

/-- A message sequence of a source has been delivered. -/
def Node.msgSeen (n : Node) (src s q : Nat) : Bool :=
  if 16380 ≤ s then n.plc.done.contains (src, s, q)
  else match (n.tracker s).fate q with
    | .accept => false
    | _ => true

/-- A fragment of a stream of stream ID 1 to 16,379 whose sequence the tracker does not accept (R394 to R397): at the first
fragment the copy of the message is counted, and the third stale message in a row empties the tracker, which then accepts it. A
duplicate fragment is compared with the kept one (log entry 143). -/
def Node.msgRefused (n : Node) (s q age check ci : Nat) : Node :=
  if 16380 ≤ s then n
  else match (n.tracker s).fate q with
    | .accept => n
    | .duplicate => (if age = 0 then (n.add64 Reg.PAR_DUP_LO 1).putStale s 0 0 else n).diverge s q age check ci
    | .stale =>
      if age ≠ 0 then n
      else
        let k := n.staleRun s q
        if 3 ≤ k then (n.emptyTracker s).raiseLimited 0x410B s n.tc s (n.tracker s).high
        else (n.inc Reg.PAR_STALE).putStale s k q

/-- A message is delivered: the tracker bit, or the sequence among the last 16 of its source, is set. -/
def Node.msgMark (n : Node) (src s q age check ci : Nat) : Node :=
  if 16380 ≤ s then
    let mine := n.plc.done.filter fun x => x.1 == src && x.2.1 == s
    let rest := n.plc.done.filter fun x => !(x.1 == src && x.2.1 == s)
    { n with plc := { n.plc with done := ((src, s, q) :: mine).take 16 ++ rest } }
  else (n.track s q age check ci).1

end Sys2Proof.Machine
end

