-- ==== Sys2Proof/Machine/Messages.lean ====
section
/-! DEFINITION. The polled window (R225 to R229), messages and their fragments (R380), delivery to receives (R381), the
partition store (R382, R383) and the requests for a mode switch (R235, R236). -/

namespace Sys2Proof.Machine

/-! ### Where a frame travels (R156, R281)

The nodes out of a port follow from positions and orientation. How the nodes of a vehicle's branches hang is in no register, so
every branch port may lead to one, and from a branch node every port leads everywhere (DEDUCED, log entry 69). -/

/-- A node may lie out of a port of this node. -/
def Node.leads (n : Node) (p : Nat) (e : NumEntry) : Bool :=
  match n.entryOf n.identity with
  | none => true
  | some o =>
    if o.branch then true
    else if p < 4 then e.pos != o.pos && (decide (p < 2) == o.orient) == decide (e.pos < o.pos)
    else e.branch && e.pos == o.pos

/-- A port leads to one of the nodes of a destination set; without a set, to every node. -/
def Node.leadsTo (n : Node) (dests : Option (List Nat)) (p : Nat) : Bool :=
  match dests with
  | none => true
  | some ids => n.ina.table.any fun e => ids.contains e.identity && n.leads p e

/-- A port leads toward the cycle master: the one on which the REF of the port's line last arrived. -/
def Node.toMaster (n : Node) (p : Nat) : Bool :=
  !n.master && ((if n.portB p then n.cyc.pathB else n.cyc.pathA).all fun x => x.2 == p)

/-- A frame of a checked kind of the node's own, sent over the joined links that `keep` picks. -/
def Node.tell (n : Node) (h : SpineHdr) (payload : List Byte) (keep : Nat → Bool) : Node :=
  n.originate h payload fun p => n.joined p && keep p

/-- A frame of a checked kind sent to every node over the joined links. -/
def Node.tellAll (n : Node) (h : SpineHdr) (payload : List Byte) : Node := n.tell h payload fun _ => true

/-- A received frame of a checked kind sent on along its line over the joined links that `keep` picks. -/
def Node.relay (n : Node) (r : Rx) (lineB : Bool) (keep : Nat → Bool) : Node :=
  ((n.linePorts lineB).filter fun p => p != r.port && n.joined p && keep p).foldl (fun m p => m.pass r p r.frame) n

/-- A received frame sent on as REF is, over the joined links. -/
def Node.forwardJoined (n : Node) (r : Rx) (lineB : Bool) : Node := n.relay r lineB fun _ => true

/-- The nodes to which the stream table sends a stream, none where it gives no destinations: system streams, and streams whose
entry is absent. -/
def Node.strmDests (n : Node) (s : Nat) : Option (List Nat) :=
  let e := n.strmLive s
  if 16380 ≤ s ∨ !e.valid then none else some ((n.destsOf n.ina.table e).map (·.identity))

/-- The ports on which the messages of a stream travel on (R156, R347, R381): requests and censuses toward the master, the
messages of a stream toward its destinations, and the other system messages to every node. -/
def Node.msgWay (n : Node) (s p : Nat) : Bool :=
  if s = 16380 ∨ s = 16382 then n.toMaster p else n.leadsTo (n.strmDests s) p

/-! ### Messages and fragments (R380) -/

/-- The fragments of a message, up to 1,468 bytes each; an empty message has one. -/
def fragments (bytes : List Byte) : List (List Byte) :=
  (List.range (max 1 ((bytes.length + 1467) / 1468))).map fun i => (bytes.drop (1468 * i)).take 1468

/-- The next message sequence of a stream. -/
def Node.nextMsgSeq (n : Node) (s : Nat) : Nat := ((n.plc.seqs.find? fun x => x.1 == s).map (·.2)).getD 0

/-- A message of a host joins the polled data queue, with the time at which it expires. `dests` are the identities it is for,
none for every node. -/
def Node.postUntil (n : Node) (s : Nat) (dests : List Nat) (bytes : List Byte) (expiry : Nat) : Node :=
  let q := n.nextMsgSeq s
  { n with plc := { n.plc with
    out := n.plc.out ++ [OutMsg.mk s q dests bytes expiry]
    seqs := n.plc.seqs.filter (fun x => x.1 != s) ++ [(s, (q + 1) % 65536)] } }

/-- A message joins the polled data queue, with the default expiry. -/
def Node.postMsg (n : Node) (s : Nat) (dests : List Nat) (bytes : List Byte) : Node :=
  n.postUntil s dests bytes (n.tm.raw + n.plc.expiry * 1000000000)

/-- The ports on which a message of this node leaves, among those of the lines that `lines` picks (R156, R227). A pair node
hands its copy for the other line to its partner (R25). -/
def Node.msgPorts (n : Node) (m : OutMsg) (lines : Bool → Bool) (p : Nat) : Bool :=
  lines (n.portB p) &&
  (if m.stream = 16380 ∨ m.stream = 16382 then n.toMaster p else n.leadsTo (if m.dests.isEmpty then none else some m.dests) p)

/-- A message leaves as MSG frames on the lines that `lines` picks. -/
def Node.sendMsgOn (lines : Bool → Bool) (n : Node) (m : OutMsg) : Node :=
  let fs := Sys2Proof.Machine.fragments m.bytes
  fs.zipIdx.foldl (fun k f => k.tell
    { k.hdr 0xB with sid := m.stream, seq := m.seq, age := f.2, lastFrag := f.2 + 1 == fs.length } f.1
    (k.msgPorts m lines)) n

/-- A message leaves on both lines. -/
def Node.sendMsg (n : Node) (m : OutMsg) : Node := n.sendMsgOn (fun _ => true) m

/-- The messages that this node may send: those of a pair source by the token holder alone (R390). -/
def Node.sendable (n : Node) : List OutMsg :=
  n.plc.out.filter fun m => decide (16380 ≤ m.stream) || !(n.strm m.stream).pair || n.holder

/-- The snapshot record as a message of its system stream (R294, R347). -/
def Node.snapMsg (n : Node) : Option OutMsg :=
  n.ina.snapshot.map fun x => ⟨16383, n.cyc.cur % 65536, [x.1], x.2, 0⟩

/-- The polled data that waits, in queue order; the snapshot record waits first (DESIGN CHOICE, log entry 117). -/
def Node.waitingMsgs (n : Node) : List OutMsg := n.snapMsg.toList ++ n.sendable

/-- Bytes of polled data that wait; the snapshot record waits as one message (R294). -/
def Node.waitingBytes (n : Node) : Nat := n.waitingMsgs.foldl (fun a m => a + m.bytes.length) 0

/-- The polled data queue holds a message. -/
def Node.hasPolled (n : Node) : Bool := !n.waitingMsgs.isEmpty

/-- The messages that fit the bytes and the time that are left, in queue order (R227). -/
def withinBudget (cost : OutMsg → Nat) : Nat → Nat → List OutMsg → List OutMsg
  | _, _, [] => []
  | bytes, time, m :: ms =>
    if m.bytes.length ≤ bytes ∧ cost m ≤ time then
      m :: withinBudget cost (bytes - m.bytes.length) (time - cost m) ms
    else []

/-- The messages that answer a poll: those within its budget and the window, or a first one of more than the budget, alone
(R227, R228). -/
def polledMsgs (cost : OutMsg → Nat) (budget time : Nat) (ms : List OutMsg) : List OutMsg :=
  match ms with
  | [] => []
  | m :: _ =>
    if budget < m.bytes.length then (if cost m ≤ time then [m] else []) else withinBudget cost budget time ms

/-- The part of the polled window that is still to come, in ns; none outside it (R201). -/
def Node.polledLeft (n : Node) : Option Nat :=
  match n.curMode with
  | some m =>
    let w := m.window n.tc 5
    let t := n.offsetAt n.tm.raw
    if w.1 ≤ t ∧ t < w.2 then some (w.2 - t).toNat else none
  | none => none

/-- The polled window is open. -/
def Node.inPolled (n : Node) : Bool := n.polledLeft.isSome

/-- The wire time of a message on the slowest of the node's joined links, in ns. -/
def Node.msgNs (n : Node) (m : OutMsg) : Nat :=
  (((List.range 12).filter n.joined).map fun p =>
    ((Sys2Proof.Machine.fragments m.bytes).map fun f => (n.wireTenths p (slotFrame f.length) + 9) / 10).foldl (· + ·) 0).foldl max 0

/-- Messages sent leave the queue. -/
def Node.sendMsgs (n : Node) (lines : Bool → Bool) (ms : List OutMsg) : Node :=
  let k := ms.foldl (Node.sendMsgOn lines) n
  { k with plc := { k.plc with out := k.plc.out.filter fun m => !ms.contains m } }

/-- SNAPSHOT_RECORD_SEND: in the polled window the record goes to the requester's node, in each cycle until this node is
polled (R294). -/
def execSnapshotRecordSend (time : Nat) (s : State) : Host.Outcome State Fault Refusal :=
  .next (s.on fun n =>
    let m := n.at time
    if m.inPolled then m.snapMsg.toList.foldl Node.sendMsg m else m)

/-! ### Polls (R225 to R229) -/

/-- The entry of a node identity in a poll table. -/
def Node.pollBudget (n : Node) (id : Nat) : Nat :=
  ((n.curMode.bind fun m => m.polls.find? fun p => p.identity == id).map (·.budget)).getD 1468

/-- The nodes to poll, in order (R225): by the mode's poll table, then by ascending node number. -/
def Node.pollOrder (n : Node) : List NumEntry :=
  let asked := n.ina.table.filter fun e => n.cyc.pendingNodes.contains (e.identity, n.cyc.cur - 1)
  let listed := (n.curMode.map fun m => m.polls.map (·.identity)).getD []
  let first := listed.filterMap fun id => asked.find? fun e => e.identity == id
  first ++ (sortBy id ((asked.filter fun e => !listed.contains e.identity).map (·.num))).filterMap fun k =>
    asked.find? fun e => e.num == k

/-- POLL_SEND: at the start of the polled window the master polls the nodes that signalled `PENDING` (R225, R226). -/
def execPollSend (time : Nat) (s : State) : Host.Outcome State Fault Refusal :=
  .next (s.on fun n =>
    let m := n.at time
    if m.master ∧ m.st = stRun ∧ m.inPolled then
      let order := m.pollOrder
      let k := order.zipIdx.foldl (fun k x =>
        k.tellAll (k.hdr 0x2) (encBE 2 x.1.num ++ encBE 2 (k.pollBudget x.1.identity) ++ encBE 2 x.2 ++ zeros 2)) m
      { k with cyc := { k.cyc with polls := order.zipIdx.map fun x =>
        ⟨x.1.num, x.2, k.pollBudget x.1.identity, false⟩ } }
    else m)

/-- A line on which a poll of this cycle reaches the node: that of the copy it acts on, and each on which the cycle's REF came;
a pair node answers for both lines, its partner sending the copies for the other (R25, R227; DEDUCED, log entry 69). -/
def Node.pollLine (n : Node) (first lineB : Bool) : Bool :=
  n.paired || lineB == first || (if lineB then n.cyc.seenB else n.cyc.seenA)

/-- A poll of this node is answered on the lines on which it came (R227, R228). -/
def Node.answerPoll (n : Node) (first : Bool) (budget index : Nat) : Node :=
  let ms := polledMsgs n.msgNs budget (n.polledLeft.getD 0) n.waitingMsgs
  let k := n.sendMsgs (n.pollLine first) ms
  let k := if ms.any (fun m => m.stream == 16383) then { k with ina := { k.ina with snapshot := none } } else k
  (k.inc Reg.CYC_POLLED).tell (k.hdr 0x3)
    (encBE 2 index ++ encBE 2 (min (ms.foldl (fun a m => a + m.bytes.length) 0) 0xFFFF) ++
      encBE 2 (min k.waitingBytes 0xFFFF) ++ zeros 2) fun p => k.pollLine first (k.portB p) && k.toMaster p

/-- POLL_RECEIVED: a poll travels on along its line; the node that it names acts on the first copy (R156, R227). -/
def execPollReceived (r : Rx) (s : State) : Host.Outcome State Fault Refusal :=
  .next (s.on fun n => n.receive r 0x2 fun g h pl =>
    let m := g.forwardJoined r (g.rxLine r h)
    let key := (h.cycle, beAt pl 4 2)
    if ((m.nodeIn h.epoch (beAt pl 0 2 % 4096)).any fun e => e.identity == m.identity) && m.cyc.pollSeen != some key then
      { m with cyc := { m.cyc with pollSeen := some key } }.answerPoll (m.rxLine r h) (beAt pl 2 2) (beAt pl 4 2)
    else m)

/-- REPLY_RECEIVED: a reply travels on toward the master, and there answers its poll (R156, R227). -/
def execReplyReceived (r : Rx) (s : State) : Host.Outcome State Fault Refusal :=
  .next (s.on fun n => n.receive r 0x3 fun g h pl =>
    let m := g.relay r (g.rxLine r h) g.toMaster
    if m.master then
      let mine (p : PollRec) : Bool := p.index == beAt pl 0 2 && (m.nodeIn h.epoch h.src).any fun e => e.num == p.node
      { m with cyc := { m.cyc with polls := m.cyc.polls.map fun p => if mine p then { p with replied := true } else p } }
    else m)

/-- POLL_MISSED: at the end of the polled window each poll without a reply is counted and reported (R229, R255). -/
def execPollMissed (time : Nat) (s : State) : Host.Outcome State Fault Refusal :=
  .next (s.on fun n =>
    let m := n.at time
    if m.inPolled then m
    else
    let k := (m.cyc.polls.filter fun p => !p.replied).foldl (fun k p =>
      (k.inc Reg.CYC_POLL_MISS).raiseCounted 0x2109 p.node k.tc p.node) m
    { k with cyc := { k.cyc with polls := [] } })

/-! ### Receiving messages -/

/-- A fragment joins its message (R380): the message when it is the last and the message is complete. -/
def Node.assemble (n : Node) (src : Nat) (h : SpineHdr) (payload : List Byte) : Node × Option (List Byte) :=
  let mine (p : InPart) : Bool := p.src == src && p.stream == h.sid
  let old := n.plc.parts.find? mine
  let rest := n.plc.parts.filter fun p => !mine p
  let put (ps : List InPart) : Node := { n with plc := { n.plc with parts := ps } }
  let take (frags : List (List Byte)) : Node × Option (List Byte) :=
    if h.lastFrag then (put rest, some (frags.flatMap id))
    else (put (rest ++ [InPart.mk src h.sid h.seq frags]), none)
  match old with
  | some p =>
    if p.seq = h.seq then
      if h.age = p.frags.length ∧ h.age < 12 then take (p.frags ++ [payload]) else (n, none)
    else if h.age = 0 then take [payload] else (put rest, none)
  | none => if h.age = 0 then take [payload] else (n, none)

/-- The shared reception of a MSG frame: it travels on toward the addressed nodes (R156), and a complete message of a stream that `sel` picks,
not delivered before, goes to `act` (R380, R397). -/
def Node.msgFrame (n : Node) (r : Rx) (sel : Nat → Bool) (act : Node → InMsg → Node) : Node :=
  n.receive r 0xB fun g h pl =>
    let m := g.relay r (g.rxLine r h) (g.msgWay h.sid)
    match m.nodeIn h.epoch h.src with
    | none => m
    | some src =>
      if !sel h.sid || src.identity == m.identity || !m.takesStream h.sid then m
      else
      let m := m.msgRefused h.sid h.seq h.age h.check h.ci
      if m.msgSeen src.identity h.sid h.seq then m
      else match m.assemble src.identity h pl with
        | (k, some bytes) => act ((k.msgMark src.identity h.sid h.seq h.age h.check h.ci).chkPass 4 h.sid h.seq pl) ⟨h.sid, src.identity, bytes⟩
        | (k, none) => k

/-! ### Receives (R381, R384) -/

/-- A stream belongs to the secure world. -/
def Node.strmSecure (n : Node) (s : Nat) : Bool := (n.strm s).secure

/-- Whether a waiting receive takes a message: its stream or any, and its context's world. -/
def Node.recvTakes (n : Node) (w : Wait) (m : InMsg) : Bool :=
  w.kind == 4 && (w.key == m.stream || w.key == 0) && (!n.strmSecure m.stream || n.ctxSecure w.ctx)

/-- A message handed to a receive: OK with its length and source, or REJECT_ARGS when the buffer is short. -/
def Node.handMsg (n : Node) (w : Wait) (m : InMsg) : Node × Bool :=
  let a (i : Nat) : Nat := (w.aux.getD i 0#32).toNat
  if a 2 < m.bytes.length then (n.finishWait w sArgs [], false)
  else
    let k := { n with host := { n.host with dma := n.host.dma ++ [HostWrite.mk w.ctx (a 0 + a 1 * 2 ^ 32) m.bytes] } }
    (k.finishWait w sOk [word m.bytes.length, word m.src, word (m.src / 2 ^ 32)], true)

/-- A message reaches this node's hosts: a receive of its stream, or the oldest of any stream, else it waits, up to 64 per
stream (R381). -/
def Node.deliverMsg (n : Node) (m : InMsg) : Node :=
  let cands := (n.host.waits.filter fun w => n.recvTakes w m && w.key != 0) ++
    n.host.waits.filter fun w => n.recvTakes w m && w.key == 0
  let (k, done) := cands.foldl (fun (a : Node × Bool) w => if a.2 then a else a.1.handMsg w m) (n, false)
  if done then k
  else if (k.plc.inbox.filter fun x => x.stream == m.stream).length < 64 then
    { k with plc := { k.plc with inbox := k.plc.inbox ++ [m] } }
  else k.inc Reg.PLC_MSG_DROP

/-- The world that a stream's command needs (R384). -/
def Node.strmNeed (n : Node) (s : Nat) : Need :=
  if s < 16384 ∧ (n.strm s).valid ∧ n.strmSecure s then .secure 28 else .either

/-- STREAM_MSG_RECV (R381, R384). -/
def execStreamMsgRecv (c : Cmd) (s : State) : Host.Outcome State Fault Refusal :=
  .next (s.runs c 0x0206 fun n => n.command c (n.strmNeed (arg c 0)) 4 fun m =>
    if 16380 ≤ arg c 0 then .fail m sArgs
    else
      let takes (x : InMsg) : Bool := (arg c 0 == x.stream || arg c 0 == 0) && (!m.strmSecure x.stream || m.ctxSecure c.ctx)
      match m.plc.inbox.find? takes with
      | some x =>
        if arg c 3 < x.bytes.length then .fail m sArgs
        else
          let k := { m with
            host := { m.host with dma := m.host.dma ++ [HostWrite.mk c.ctx (arg c 1 + arg c 2 * 2 ^ 32) x.bytes] }
            plc := { m.plc with inbox := m.plc.inbox.erase x } }
          .done k sOk [word x.bytes.length, word x.src, word (x.src / 2 ^ 32)]
      | none => .wait m 4 (arg c 0) [argW c 1, argW c 2, argW c 3])

/-! ### The partition store (R382, R383) -/

/-- The registers that show the partition store. -/
def Node.syncStore (n : Node) : Node :=
  let used := n.plc.store.foldl (fun a m => a + m.bytes.length) 0
  (n.setReg Reg.PLC_PART_USED (word ((used + 1023) / 1024))).setReg Reg.PLC_PART_MSGS (word n.plc.store.length)

/-- A message has room in the store, region 3 of DRAM (R378). -/
def Node.storeRoom (n : Node) (len : Nat) : Bool :=
  decide (n.plc.store.foldl (fun a m => a + m.bytes.length) len ≤ (n.reg (Reg.PLC_DRAM_SIZE 3)).toNat * 2 ^ 20)

/-- The destination of a stream of kind 1 or 2 that the current numbering lacks, as (pair, identity). -/
def Node.absentDest (n : Node) (e : Strm) : Option (Bool × Nat) :=
  let id := e.darg0 * 2 ^ 32 + e.darg1
  if e.dkind = 1 ∧ !(n.ina.table.any fun x => x.identity == id) then some (false, id)
  else if e.dkind = 2 ∧ !(n.ina.table.any fun x => x.paired && n.pairIdOf x.identity == e.darg1) then some (true, e.darg1)
  else none

/-- A message put in the store, unless it is full (R383). -/
def Node.storeMsg (n : Node) (s : Nat) (d : Bool × Nat) (bytes : List Byte) (expiry : Nat) : Node × Bool :=
  if n.storeRoom bytes.length then
    ({ n with plc := { n.plc with store := n.plc.store ++ [StoredMsg.mk s d.1 d.2 bytes expiry] } }.syncStore, true)
  else (n.raise 0x3906 s (n.reg Reg.PLC_PART_USED).toNat, false)

/-- STREAM_MSG_SEND: the message is queued for the next poll, or stored for an absent destination (R382 to R384). -/
def execStreamMsgSend (c : Cmd) (s : State) : Host.Outcome State Fault Refusal :=
  .next (s.runs c 0x0205 fun n => n.command c (n.strmNeed (arg c 0)) 6 fun m =>
    let sid := arg c 0
    let e := m.strm sid
    if sid = 0 ∨ 16380 ≤ sid ∨ !e.valid ∨ e.cls ≠ 2 ∨ !m.ownStream e ∨ 16384 < arg c 1 then .fail m sArgs
    else match m.sourceBytes c (arg c 2) (arg c 3 + arg c 4 * 2 ^ 32) (arg c 1) with
      | none => .fail m sArgs
      | some bytes =>
        let life := if arg c 5 = 0 then m.plc.expiry else arg c 5
        match m.absentDest e with
        | some d =>
          match m.storeMsg sid d bytes (m.tm.raw + life * 1000000000) with
          | (k, true) => .done k sOk []
          | (k, false) => .fail k sResource
        | none => .done (m.postUntil sid ((m.destsOf m.ina.table e).map (·.identity)) bytes (m.tm.raw + life * 1000000000)) sOk [])

/-- STORED_MESSAGE_EXPIRY: stored messages whose expiry has passed are dropped and reported, by stream (R383). -/
def execStoredMessageExpiry (time : Nat) (s : State) : Host.Outcome State Fault Refusal :=
  .next (s.on fun n =>
    let m := n.at time
    let gone := m.plc.store.filter fun x => decide (x.expiry ≤ m.tm.raw)
    let k := { m with plc := { m.plc with store := m.plc.store.filter fun x => !decide (x.expiry ≤ m.tm.raw) } }.syncStore
    ((gone.map (·.stream)).eraseDups).foldl
      (fun k sid => k.raise 0x3807 sid ((gone.filter fun x => x.stream == sid).length)) k)

/-- At a commit, messages for a destination that has left go to the store, and stored ones for a destination that is back
are queued before newer ones, oldest first (R382). -/
def Node.storeAtCommit (n : Node) : Node :=
  let leaves (m : OutMsg) : Option (Bool × Nat) := if 16380 ≤ m.stream then none else n.absentDest (n.strm m.stream)
  let gone := n.plc.out.filter fun m => (leaves m).isSome
  let back := n.plc.store.filter fun x => (n.absentDest (n.strm x.stream)).isNone
  let k := { n with plc := { n.plc with
    out := n.plc.out.filter fun m => (leaves m).isNone
    store := n.plc.store.filter fun x => (n.absentDest (n.strm x.stream)).isSome } }
  let newer := k.plc.out
  let k := back.foldl (fun k x =>
      k.postUntil x.stream ((k.destsOf k.ina.table (k.strm x.stream)).map (·.identity)) x.bytes x.expiry)
    { k with plc := { k.plc with out := [] } }
  let k := { k with plc := { k.plc with out := k.plc.out ++ newer } }
  (gone.foldl (fun k m => match leaves m with
    | some d => (k.storeMsg m.stream d m.bytes m.expiry).1
    | none => k) k).syncStore

/-! ### Mode requests (R235, R236) -/

/-- The payload of a MODE frame. -/
def modePayload (type : Nat) (q : ModeReq) (result cyc : Nat) : List Byte :=
  encBE 1 type ++ encBE 1 q.target ++ encBE 1 result ++ zeros 1 ++ encBE 4 cyc ++ encBE 4 q.tint ++ encBE 2 q.node ++
  encBE 2 q.tag

/-- The completion that a result of R235 gives the requester's command (R247). -/
def modeStatus (result : Nat) : Nat :=
  if result = 0 then sOk else if result = 1 then sBusy else if result = 2 then sFar else sArgs

/-- The requester's command completes. -/
def Node.modeAnswered (n : Node) (tag result cyc : Nat) : Node :=
  n.finishWaits (fun w => w.kind == 2 && w.key == tag) (modeStatus result) (if result = 0 then [word cyc] else [])

/-- The master answers a request: its own completes, any other is answered in a MODE frame. -/
def Node.answerMode (n : Node) (q : ModeReq) (result cyc : Nat) : Node :=
  if q.node = n.num then n.modeAnswered q.tag result cyc
  else n.tellAll (n.hdr 0xD) (modePayload 2 q result (cyc % 2 ^ 32))

/-- The answer to a request at a master, none when it is accepted for announcement (R236, R237). -/
def Node.modeResult (n : Node) (q : ModeReq) : Option Nat :=
  if n.cyc.request.isSome || n.cyc.switch.any (fun w => w.state != 3) then some 1
  else if !n.holds q.target then some 3
  else if q.earliest ≠ 0 ∧ 2 ^ 31 < (q.earliest + 2 ^ 32 - n.cyc.cur % 2 ^ 32) % 2 ^ 32 then some 4
  else none

/-- The master takes a request: accepted for the next REF it builds, or answered at once. -/
def Node.takeModeReq (n : Node) (q : ModeReq) : Node :=
  match n.modeResult q with
  | some result => n.answerMode q result 0
  | none => { n with cyc := { n.cyc with request := some q } }

/-- This node asks for a switch (R235): the command waits for the answer under the request's tag. -/
def Node.askSwitch (n : Node) (target earliest tint : Nat) : Answer :=
  let q : ModeReq := ⟨target, earliest, tint, n.num, n.cyc.nextTag⟩
  let m := { n with cyc := { n.cyc with nextTag := (n.cyc.nextTag + 1) % 65536 } }
  if m.master then
    match m.modeResult q with
    | some result => .fail m (modeStatus result)
    | none => .wait { m with cyc := { m.cyc with request := some q } } 2 q.tag []
  else .wait { m with cyc := { m.cyc with toSend := m.cyc.toSend ++ [q] } } 2 q.tag []

/-- MODE_REQUEST_SEND: in the polled window a node that is not the master passes its requests on toward the master, out of
the port on which the current cycle's REF came (R156, R235). -/
def execModeRequestSend (time : Nat) (s : State) : Host.Outcome State Fault Refusal :=
  .next (s.on fun n =>
    let m := n.at time
    if m.inPolled then
      let k := m.cyc.toSend.foldl (fun k q => k.startOn k.cyc.refPort (k.hdr 0xD) (modePayload 1 q 0 q.earliest)) m
      { k with cyc := { k.cyc with toSend := [] } }
    else m)

/-- MODE_REQUEST_RECEIVED: the master takes a request; any other node sends it toward the master, out of the port on which the
current cycle's REF came, and one that the request reaches from there answers that it is not the master (R156, R236). -/
def execModeRequestReceived (r : Rx) (s : State) : Host.Outcome State Fault Refusal :=
  .next (s.on fun n => n.receive r 0xD fun g h pl =>
    let who := (g.nodeIn h.epoch (beAt pl 12 2 % 4096)).map (·.num)
    let q : ModeReq := ⟨byteAt pl 1 % 8, beAt pl 4 4, beAt pl 8 4, who.getD 0, beAt pl 14 2⟩
    if byteAt pl 0 ≠ 1 then g
    else if g.master then g.takeModeReq q
    else if g.masterId = g.identity ∨ g.cyc.refPort = r.port then g.tellAll (g.hdr 0xD) (modePayload 2 q 2 0)
    else g.relayOn r g.cyc.refPort h pl)

/-- MODE_ANSWER_RECEIVED: an answer travels on as REF does, and completes the command of the requester that it names
(R156, R235). -/
def execModeAnswerReceived (r : Rx) (s : State) : Host.Outcome State Fault Refusal :=
  .next (s.on fun n => n.receive r 0xD fun g h pl =>
    if byteAt pl 0 ≠ 2 then g
    else
      let m := g.forwardJoined r (g.rxLine r h)
      if (m.nodeIn h.epoch (beAt pl 12 2 % 4096)).any fun e => e.identity == m.identity then
        m.modeAnswered (beAt pl 14 2) (byteAt pl 2) (beAt pl 4 4)
      else m)

/-- MASTER_ANSWER_TIMEOUT: a command that waits for the master completes with TIMEOUT after 8 basic cycles (R247, R297). -/
def execMasterAnswerTimeout (ctx ring seq time : Nat) (s : State) : Host.Outcome State Fault Refusal :=
  .next (s.on fun n =>
    let m := n.at time
    match m.host.waits.find? fun w => w.ctx == ctx && w.ring == ring && w.seq == seq with
    | some w =>
      if (w.kind = 1 ∨ w.kind = 2) ∧ w.cycle + 8 ≤ m.cyc.cur then m.finishWait w sTimeout [] else m
    | none => m)

/-! ### Commands (R247) -/

/-- CYC_STATUS (R247). -/
def execCycStatus (c : Cmd) (s : State) : Host.Outcome State Fault Refusal :=
  .next (s.runs c 0x0301 fun n => n.command c .either 0 fun m =>
    .done m sOk [m.reg Reg.CYC_STATE, m.reg Reg.CYC_MODE_NEXT, m.reg Reg.CYC_SWITCH_CYC, m.reg Reg.CYC_NUM_LO,
      m.reg Reg.CYC_NUM_HI])

/-- CYC_MODE_SWITCH (R247, R248). -/
def execCycModeSwitch (c : Cmd) (s : State) : Host.Outcome State Fault Refusal :=
  .next (s.runs c 0x0302 fun n => n.command c .either 2 fun m =>
    if 7 < arg c 0 then .fail m sArgs
    else if m.st ≠ stRun then .fail m sState
    else m.askSwitch (arg c 0) (arg c 1) 0)

/-- CYC_MODE_ABORT (R240, R247): the master aborts the pending switch that the cycle names; a node that is not the master
has none to abort. -/
def execCycModeAbort (c : Cmd) (s : State) : Host.Outcome State Fault Refusal :=
  .next (s.runs c 0x0303 fun n => n.command c .either 1 fun m =>
    match m.cyc.switch with
    | some w =>
      if m.master ∧ w.cyc % 2 ^ 32 = arg c 0 ∧ w.state ≠ 3 ∧ m.cyc.cur + 1 < w.cyc then
        .wait { m with cyc := { m.cyc with abort := 6 } } 5 w.cyc []
      else .fail m sState
    | none => .fail m sState)

/-- CYC_MODE_INFO (R247). -/
def execCycModeInfo (c : Cmd) (s : State) : Host.Outcome State Fault Refusal :=
  .next (s.runs c 0x0304 fun n => n.command c .either 1 fun m =>
    if 7 < arg c 0 ∨ !m.holds (arg c 0) then .fail m sArgs
    else .done m sOk (m.getRegs (Reg.CYC_MD_STAT (arg c 0)) 6))

end Sys2Proof.Machine
end

