-- ==== Sys2Proof/Machine/ProcessData.lean ====
section
/-! DEFINITION. Process data and discrete lines (chapter 10): producing and consuming datasets (R442 to R461), the discrete
lines and wake inputs (R462 to R471), and their commands and registers (R474 to R477). -/

namespace Sys2Proof.Machine

/-! ### Datasets (R442 to R447) -/

/-- The index of the dataset that a stream carries. -/
def Node.dsIndex (n : Node) (s : Nat) : Option Nat := n.pd.sets.findIdx? fun d => d.stream == s

/-- The dataset of an index, with its index. -/
def Node.dsAt (n : Node) (i : Nat) : Option Dataset := n.pd.sets[i]?

/-- A dataset changed. -/
def Node.onDs (n : Node) (i : Nat) (f : Dataset → Dataset) : Node :=
  { n with pd := { n.pd with sets := modifyAt n.pd.sets i f } }

/-- A step on the dataset that a stream carries; none held, nothing happens. -/
def Node.withDs (n : Node) (s : Nat) (act : Node → Nat → Dataset → Node) : Node :=
  match n.dsIndex s with
  | some i => match n.dsAt i with
    | some d => act n i d
    | none => n
  | none => n

/-- The cycle of the instance of a stream in progress: the last cycle at or before this one in its phase (R200). -/
def Node.instanceCyc (n : Node) (e : Strm) : Nat :=
  let c := n.cycleNow
  c - (c + 2 ^ e.k - e.phase % 2 ^ e.k) % 2 ^ e.k

/-- The sample and output instants of the instance of a cycle, in ns (R445). -/
def Node.sampleAt (n : Node) (e : Strm) (d : Dataset) (cyc : Nat) : Int :=
  (cyc * n.tc : Nat) - (2 ^ e.k * n.tc : Nat) + (d.sigma : Int)
def Node.outputAt (n : Node) (d : Dataset) (cyc : Nat) : Int := (cyc * n.tc : Nat) + (d.omega : Int)

/-- The cycle of the last instance whose instant at an offset from its cycle start has come, none before the instants have run
(R445, R447). -/
def Node.dueCyc (n : Node) (e : Strm) (off : Int) : Option Nat :=
  let c := (n.trainNs - off) / (n.tc : Int)
  let k := 2 ^ e.k
  let cyc := c.toNat - (c.toNat + k - e.phase % k) % k
  if 0 ≤ c ∧ n.fineAt n.pd.since / 65536 ≤ (cyc * n.tc : Nat) + off then some cyc else none

/-- The offset of the sample instant from the cycle start, and that of the decision point: the start of the dataset's car slot,
or ω - 1,000 ns for a dataset without one (R445, R451, R459; log entry 118). -/
def Node.sampleOff (n : Node) (e : Strm) (d : Dataset) : Int := (d.sigma : Int) - (2 ^ e.k * n.tc : Nat)
def Node.carStart (n : Node) (s p : Nat) : Option Nat :=
  (n.slotList.find? fun x => x.stream == s && !x.orig && x.egress.testBit p).map (·.start)
def Node.decideOff (n : Node) (d : Dataset) : Int :=
  let starts := ((List.range 8).filter d.ports.testBit).filterMap fun c => n.carStart d.stream (4 + c)
  match starts.min? with
  | some t => t
  | none => (d.omega : Int) - 1000

/-- The dataset header of an instance (R443). -/
def Node.dsHeader (n : Node) (e : Strm) (d : Dataset) (cyc : Nat) (check : Word) : List Byte :=
  encBE 2 d.stream ++ encBE 1 d.layout ++ zeros 1 ++ encBE 4 (sword (n.sampleAt e d cyc)).toNat ++ encBE 8 cyc ++
  encBE 4 (sword (n.outputAt d cyc)).toNat ++ encBE 2 d.len ++ zeros 2 ++ encBE 4 (n.reg Reg.TOP_PAIR_ID).toNat ++ zeros 4 ++
  encBE 4 check.toNat

/-- Timed outputs bound to a dataset's sample or output instants drive their pulse (R461). -/
def Node.boundPulses (n : Node) (i : Nat) (output : Bool) : Node :=
  (List.range 8).foldl (fun m o =>
    let b := m.reg (Reg.PDT_TOUT_BIND o)
    let t := m.tm.touts.getD o Tout.reset
    if b.toNat.testBit 31 && b.toNat % 512 == i && b.toNat.testBit 9 == output && t.mode == 3 then m.toutPulse o else m) n

/-! ### Producing (R448 to R450) -/

/-- The buffers of a stream that this node originates; before the first completion they hold zeros. -/
def Node.txOf (n : Node) (s : Nat) : TxStream :=
  (n.cyc.tx.find? fun t => t.stream == s).getD
    { stream := s, write := [], latest := [], send := [], fresh := false, doneAt := 0, prior := none, seq := 0, age := 0, aged := false, check := 0#32,
      pend := false }

/-- The buffers of a stream written. -/
def Node.putTx (n : Node) (t : TxStream) : Node :=
  { n with cyc := { n.cyc with tx := n.cyc.tx.filter (fun x => x.stream != t.stream) ++ [t] } }

/-- The CORE cycle of a raw time: 800 MHz (*Engines*, *Clock domains* of chapter 2). -/
def coreCycle (raw : Nat) : Nat := raw * 4 / 5

/-- A buffer of a produced dataset is completed (R221, R448): the application goes on in a fresh buffer that holds a copy
(R449). What stood complete before this CORE cycle stays for a take of the same cycle. -/
def Node.complete (n : Node) (s : Nat) (data : List Byte) (check : Word) : Node :=
  let t := n.txOf s
  let before := if !t.fresh then none else if coreCycle t.doneAt = coreCycle n.tm.raw then t.prior else some (t.latest, t.check)
  n.putTx { t with write := data, latest := data, fresh := true, doneAt := n.tm.raw, prior := before, check := check }

/-- The level of a line: the filtered level of its pin. -/
def Node.lineLevel (n : Node) (l : Nat) : Bool := if l < 32 then n.bit Reg.DIO_IN l else n.bit Reg.DIO_WAKE (l - 32)

/-- A line is active when its filtered level equals the level that `POL` gives (R462). -/
def Node.lineActive (n : Node) (l : Nat) : Bool := n.lineLevel l != (n.fld (Reg.DIO_LN_CFG l) Fld.DIO_LN_CFG_POL == 1)

/-- SAMPLE_INSTANT (R445, R448, R461, R462): the mapped inputs of a produced dataset are sampled. -/
def execSampleInstant (stream time : Nat) (s : State) : Host.Outcome State Fault Refusal :=
  .next (s.on fun n => (n.at time).withDs stream fun m i d =>
    if !m.instants then m
    else
      let due := m.dueCyc (m.strm stream) (m.sampleOff (m.strm stream) d)
      if due.isNone ∨ due = d.sampledCyc then m
      else
        let sampled := d.maps.map fun x => (x.1, m.lineActive x.1)
        (m.onDs i fun d => { d with
          sampled := if d.consumed then d.sampled else sampled, sampledCyc := due }).boundPulses i false)

/-- DISCRETE_BUFFER_COMPLETE (R448): 1 µs after the sample instant the node completes the buffer of a discrete-sourced dataset. -/
def execDiscreteBufferComplete (stream time : Nat) (s : State) : Host.Outcome State Fault Refusal :=
  .next (s.on fun n => (n.at time).withDs stream fun m i d =>
    let due := m.dueCyc (m.strm stream) (m.sampleOff (m.strm stream) d + 1000)
    if m.instants ∧ !d.consumed ∧ d.source = 2 ∧ due.isSome ∧ due ≠ d.doneCyc then
      (m.onDs i fun d => { d with doneCyc := due }).complete stream (slice (m.txOf stream).write 0 d.len) 0#32
    else m)

/-- What a take makes of a dataset's buffer (R443, R448): the sampled levels in their bits, and the dataset header. -/
def Node.dsPayload (n : Node) (e : Strm) (d : Dataset) (cyc : Nat) (t : TxStream) : List Byte :=
  let data := d.sampled.foldl (fun b x =>
    match d.maps.find? fun y => y.1 == x.1 with
    | some y => setDataBit b y.2 x.2
    | none => b) (slice t.latest 0 d.len)
  n.dsHeader e d cyc t.check ++ data

/-- The EtherType of car frames (R450). -/
def Node.carType (n : Node) : Nat := n.bits Reg.PDT_CFG 16 16

/-- CAR_INPUT_FRAME_RECEIVED (R450): a frame with the car EtherType on a consist port that a car-sourced dataset names
completes its buffer, or is discarded and counted. On any other port it is open traffic. -/
def execCarInputFrameReceived (r : Rx) (s : State) : Host.Outcome State Fault Refusal :=
  .next (s.on fun n =>
    let m := (n.at r.stamp).echoBack r
    match m.rxFail r with
    | some e => m.rxCount r e
    | none =>
      let g := m.rxGood r
      let named (d : Dataset) : Bool := !d.consumed && d.source == 1 && d.ports.testBit (carPort r.port)
      if 4 ≤ r.port ∧ r.port < 12 ∧ g.carKind r.port = 0 ∧ r.frame.etype = g.carType ∧ (g.pd.sets.any named) = true then
        let b := r.frame.body
        if r.room < frameCells r.frame then g.poolDrop r.port (pcpClass r.frame)
        else match g.pd.sets.find? fun d => d.stream == beAt b 4 2 && !d.consumed && d.source == 1 with
        | some d =>
          if d.ports.testBit (carPort r.port) ∧ beAt b 24 2 = d.len ∧ 40 + d.len ≤ b.length then
            g.complete d.stream (slice b 40 d.len) (word (beAt b 36 4))
          else g.inc Reg.PDT_CAR_DROP
        | none => g.inc Reg.PDT_CAR_DROP
      else g.openIn r)

/-- The completion of the buffer that the window of a host-sourced dataset shows (R449). -/
def Node.dsDone (n : Node) (i : Nat) (v : Word) : Node :=
  match n.dsAt i with
  | some d =>
    if !d.consumed ∧ d.source = 0 then n.complete d.stream (slice (n.txOf d.stream).write 0 d.len) v else n
  | none => n

/-- PDT_DS_DONE_WRITE: a write of `PDT_DS_DONE`, whose value becomes the application check (R449). -/
def execPdtDsDoneWrite (ctx d : Nat) (v : Word) (s : State) : Host.Outcome State Fault Refusal :=
  .next (s.on fun n => n.access ctx (Reg.PDT_DS_DONE d) true fun m => m.dsDone d v)

/-! ### Consuming (R451 to R457) -/

/-- The stream of a dataset is not active at this node (R454). -/
def Node.dsInactive (n : Node) (d : Dataset) : Bool :=
  d.mismatch || (n.strm d.stream).state ∈ [0, 1, 5] || !(n.strmLive d.stream).valid

/-- The dataset becomes active: no fresh copy has been received since (R452). -/
def Node.dsActivate (n : Node) (s : Nat) : Node := n.withDs s fun m i _ => m.onDs i fun d => { d with last := none, age := 0 }

/-- A copy of an instance that passed the checks of R158 and R392 reaches a consumed dataset (R444, R451, R453): `taken`
tells whether the duplicate tracker accepted it. -/
def Node.dsCopy (n : Node) (s cyc age : Nat) (payload : List Byte) (lineB taken : Bool) : Node :=
  n.withDs s fun m i d =>
    if !d.consumed then m
    else
      let m := if taken then m.setBits (Reg.PDT_DS_SEQ i) 0 16 (seqOf (m.strm s).k cyc) else m
      if beAt payload 20 2 ≠ d.len ∨ payload.length ≠ 36 + d.len then (if taken then m.inc Reg.PDT_CAR_DROP else m)
      else
        let due := if m.instants then m.dueCyc (m.strm s) (m.decideOff d) else none
        let gone := (d.decidedCyc.any fun c => decide (cyc ≤ c)) || (due.any fun c => decide (cyc ≤ c))
        if gone then
          let m := if taken then m.inc Reg.PDT_LATE_CNT else m
          if taken ∧ d.outCyc ≠ some cyc ∧ (due = some cyc ∨ d.decidedCyc = some cyc) then m.onDs i fun d => { d with late := true } else m
        else
          let copy : DsCopy := ⟨cyc, age, slice payload 0 36, slice payload 36 d.len⟩
          m.onDs i fun d => { d with
            lineA := d.lineA || !lineB, lineB := d.lineB || lineB, fresh := if taken then some copy else d.fresh }

/-- The node number that DEADLINE_MISS names: the producer, which is the role-A node of a pair source (R454). -/
def Node.producerNum (n : Node) (e : Strm) : Nat :=
  ((n.ina.table.find? fun x => n.sourceIs e x.identity && !x.roleB).map (·.num)).getD 0

/-- A rate-limited event raised whatever its interval, which starts anew. -/
def Node.raiseAnew (n : Node) (code key d0 d1 : Nat) : Node :=
  let m := { n with ev := { n.ev with limits := n.ev.limits.filter fun l => !(l.code == code && l.key == key) } }
  m.raiseLimited code key n.tc d0 d1

/-- A missed instance (R454). -/
def Node.dsMiss (n : Node) (i : Nat) (d : Dataset) (e : Strm) : Node :=
  let m := (n.inc (Reg.PDT_DS_MISS i)).inc Reg.PDT_MISS_CNT
  if m.dsInactive d then m
  else
    let d0 := d.stream + m.producerNum e * 65536
    if d.misses = 0 then m.raiseAnew 0x4A01 d.stream d0 1 else m.raiseLimited 0x4A01 d.stream m.tc d0 (d.misses + 1)

/-- What a decision fixes (R452): the cause of the safe value (0 for none), the header and the data. The header of an
instance without any copy is not stated: it is free (DESIGN CHOICE, log entry 32). -/
def Dataset.decideValue (d : Dataset) (fresh : Option DsCopy) (age : Nat) (blank : List Byte) : Nat × List Byte × List Byte :=
  let old := d.limit != 0 && decide (d.limit < age)
  match fresh with
  | some c => if old then (2, c.header, d.safeData) else (0, c.header, c.data)
  | none =>
    match d.last with
    | none => (4, blank, d.safeData)
    | some c =>
      if old then (2, c.header, d.safeData) else if d.safePolicy then (1, c.header, d.safeData) else (0, c.header, c.data)

/-- The decision point of the instance of a cycle (R451 to R455). -/
def Node.dsDecide (n : Node) (i : Nat) (d : Dataset) (cyc : Nat) : Node :=
  let e := n.strm d.stream
  let fresh := d.fresh.filter fun c => c.cyc == cyc
  let age := match fresh with
    | some c => c.age
    | none => min (d.age + 1) 0xFFFF
  let (n, blank) := n.freeBytes 36
  let (cause, header, data) := d.decideValue fresh age blank
  let safe := cause != 0
  let status := age + b2n fresh.isSome * 2 ^ 16 + b2n safe * 2 ^ 17 + b2n (cause == 4) * 2 ^ 18 +
    b2n (n.dsInactive d) * 2 ^ 19 + b2n d.lineA * 2 ^ 20 + b2n d.lineB * 2 ^ 21
  let m := if fresh.isSome then n else n.dsMiss i d e
  let m := if fresh.isSome ∧ 0 < d.misses then m.raise 0x4803 d.stream d.misses else m
  let m := if safe ∧ !d.safeRun then m.raise 0x4902 d.stream cause else m
  m.onDs i fun d => { d with
    fresh := none, lineA := false, lineB := false, age := age,
    last := match fresh with
      | some c => some c
      | none => d.last,
    misses := if fresh.isSome then 0 else d.misses + 1, safeRun := safe, decided := some ⟨status, header, data⟩,
    decidedCyc := some cyc }

/-- A decision point reached, once for each instance (R447, R451). -/
def Node.decisionPoint (n : Node) (s : Nat) : Node :=
  n.withDs s fun m i d =>
    match m.dueCyc (m.strm s) (m.decideOff d) with
    | some c => if m.instants ∧ d.consumed ∧ d.decidedCyc ≠ some c then m.dsDecide i d c else m
    | none => m

/-- OUTPUT_INSTANT (R445, R452, R457, R461, R468): the value decided is presented to the host view, the mapped outputs and
the bound timed outputs; a pin ends at the second output instant after it. -/
def execOutputInstant (stream time : Nat) (s : State) : Host.Outcome State Fault Refusal :=
  .next (s.on fun n => (n.at time).withDs stream fun m i d =>
    let due := m.dueCyc (m.strm stream) (d.omega : Int)
    if !m.instants || due.isNone || due == d.outCyc then m
    else
      let k : Node := match d.decided with
        | some v =>
          let v' : DsView := { v with status := v.status + b2n d.late * 2 ^ 22 }
          let pins := (d.pins.map fun p => (p.1, p.2.1, p.2.2 + 1)).filter fun p => decide (p.2.2 < 2)
          let d' : Dataset := { d with shown := v', decided := none, late := false, outCyc := due, pins := pins }
          let q := (m.onDs i fun _ => d').setReg (Reg.PDT_DS_STAT i) (word v'.status)
          let q := if v'.status.testBit 17 then q.inc Reg.PDT_SAFE_CNT else q
          q.latchMaps d'
        | none => m.onDs i fun d => { d with outCyc := due }
      k.boundPulses i true)

/-- The view that a context reads (R457): the pinned one, or the current one. -/
def Dataset.viewFor (d : Dataset) (ctx : Nat) : DsView := ((d.pins.find? fun p => p.1 == ctx).map (·.2.1)).getD d.shown

/-- The four bytes of a buffer window at an offset (R449, R457). -/
def Node.bufWord (n : Node) (ctx i off : Nat) : Word :=
  match n.dsAt i with
  | none => 0#32
  | some d =>
    if d.consumed then
      let v := d.viewFor ctx
      if off = 0 then word v.status
      else if off = 4 then word (beAt v.header 4 4)
      else if off = 8 then word (beAt v.header 32 4)
      else if off < 16 then 0#32
      else word (leAt v.data (off - 16) 4)
    else if off < 16 then 0#32
    else word (leAt (slice (n.txOf d.stream).write 0 d.len) (off - 16) 4)

/-- A write of the buffer window (R449): the bytes of a host-sourced produced dataset's data. -/
def Node.bufWrite (n : Node) (i off : Nat) (v : Word) : Node :=
  match n.dsAt i with
  | none => n
  | some d =>
    if d.consumed ∨ d.source ≠ 0 ∨ off < 16 then n
    else
      let t := n.txOf d.stream
      let old := slice t.write 0 d.len
      let b := encLE 4 v.toNat
      n.putTx { t with write := old.mapIdx fun j x => if off - 16 ≤ j ∧ j < off - 12 then b.getD (j - (off - 16)) 0#8 else x }

/-- A read of offset 0 of a consumed dataset's window pins the view for the context (R457). -/
def Node.bufStatus (n : Node) (ctx i : Nat) : Node :=
  match n.dsAt i with
  | none => n.answer 0#32
  | some d =>
    if d.consumed then
      (n.onDs i fun d => { d with pins := d.pins.filter (fun p => p.1 != ctx) ++ [(ctx, d.shown, 0)] }).answer
        (word d.shown.status)
    else n.answer 0#32

/-- PDT_BUF_STATUS_READ (R457). -/
def execPdtBufStatusRead (ctx d : Nat) (s : State) : Host.Outcome State Fault Refusal :=
  .next (s.on fun n => n.access ctx (Reg.PDT_BUF d) false fun m => m.bufStatus ctx d)

/-! ### Delivery to car equipment (R430, R431, R458 to R460) -/

/-- The duplicate trailer (R431). -/
def Node.trailer (n : Node) (e : Strm) (s seq age check : Nat) : List Byte :=
  let pid := if e.pair then e.src % 2 ^ 32 else (n.pairIdOf e.src)
  encBE 4 pid ++ encBE 2 (s * 4 + b2n (n.paired && n.roleB) * 2 + b2n n.holder) ++ encBE 2 seq ++ encBE 2 age ++
  encBE 4 check ++ encBE 2 0x5D7A

/-- The node may send on a consist port: under mode 2 only the holder does (R430). -/
def Node.carSends (n : Node) (p : Nat) : Bool := n.carMode p != 2 || n.holder

/-- CAR_DELIVERY_SEND (R451, R458 to R460): at the start of its car slot a consumed dataset is sent with what its decision point,
which is that start, fixes. -/
def execCarDeliverySend (stream port time : Nat) (s : State) : Host.Outcome State Fault Refusal :=
  .next (s.on fun n => ((n.at time).decisionPoint stream).withDs stream fun m _ d =>
    let on := m.bits (Reg.TMB_CARTIME_CFG (carPort port)) 0 2 != 0
    if !(m.instants && d.consumed && decide (4 ≤ port) && decide (port < 12) && d.ports.testBit (carPort port) && on &&
        m.carSends port && (m.carStart stream port).any fun t => m.atOffset t) then m
    else
      let e := m.strm stream
      let cyc := m.instanceCyc e
      let v := d.decided.getD d.shown
      let h := slice v.header 0 16 ++ encBE 4 (sword (m.outputAt d cyc)).toNat ++ slice v.header 20 16
      let body := encBE 4 v.status ++ h ++ v.data
      let tail := if m.carMode port = 1 then m.trailer e stream (seqOf e.k cyc) (v.status % 65536) (m.tracker stream).check else []
      let b := body ++ tail
      m.sendGated port 6 { dst := d.dst, src := m.identity, tag := some ⟨d.tci / 8192 % 8, 0, d.tci % 4096⟩, etype := m.carType,
                           body := b ++ zeros (42 - b.length) })

/-! ### Timed outputs bound to instants (R461) -/

/-- A write of `PDT_TOUT_BIND` from a world other than the output's is dropped and counted as a refused access. -/
def Node.bindWrite (n : Node) (ctx output : Nat) (v : Word) : Node :=
  if n.ctxSecure ctx = n.instSecure (16 + output) then n.plainWrite (Reg.PDT_TOUT_BIND output) v 0#32
  else (n.refuse ctx true 0 1 (Reg.PDT_TOUT_BIND output) (16 + output)).spiFlag ctx fun s => { s with refused := true }

/-- TOUT_BIND_WRITE (R461). -/
def execToutBindWrite (ctx output : Nat) (v : Word) (s : State) : Host.Outcome State Fault Refusal :=
  .next (s.on fun n => n.access ctx (Reg.PDT_TOUT_BIND output) true fun m => m.bindWrite ctx output v)

/-! ### Discrete lines and wake inputs (R462 to R471) -/

/-- A line's state. -/
def Node.line (n : Node) (l : Nat) : Line := n.pd.lines.getD l Line.reset

/-- A line's state changed. -/
def Node.onLineState (n : Node) (l : Nat) (f : Line → Line) : Node :=
  { n with pd := { n.pd with lines := modifyAt n.pd.lines l f } }

/-- The line is stuck, and in a storm. -/
def Node.lineStuck (n : Node) (l : Nat) : Bool := if l < 32 then n.bit Reg.DIO_STUCK l else n.bit Reg.DIO_WAKE (l - 28)
def Node.lineStorm (n : Node) (l : Nat) : Bool := if l < 32 then n.bit Reg.DIO_STORM l else n.bit Reg.DIO_WAKE (l - 24)
def Node.setStuck (n : Node) (l : Nat) (b : Bool) : Node :=
  if l < 32 then n.setBit Reg.DIO_STUCK l b else n.setBit Reg.DIO_WAKE (l - 28) b
def Node.setStorm (n : Node) (l : Nat) (b : Bool) : Node :=
  if l < 32 then n.setBit Reg.DIO_STORM l b else n.setBit Reg.DIO_WAKE (l - 24) b

/-- The registers that show the edge queue (R464, R476). -/
def Node.syncEdges (n : Node) : Node :=
  let stat := n.pd.edges.length + b2n n.pd.edgeOvf * 512 + min n.pd.edgeLost 65535 * 65536
  let w := match n.pd.edges with
    | [] => [0#32, 0#32]
    | e :: _ => [word (e.line + b2n e.level * 64 + b2n e.gap * 128 + 256 + min e.lost 65535 * 65536), e.stamp]
  n.setRegs Reg.DIO_EDGE_STAT (word stat :: w)

/-- An edge joins the edge queue, or is lost and counted; the entry that follows losses carries `GAP` (R464). -/
def Node.edgePush (n : Node) (l : Nat) (active : Bool) (stamp : Word) : Node :=
  let m : Node :=
    if 256 ≤ n.pd.edges.length then { n with pd := { n.pd with edgeOvf := true, edgeLost := n.pd.edgeLost + 1 } }
    else if n.pd.edgeOvf then
      { n with pd := { n.pd with
        edges := n.pd.edges ++ [EdgeEntry.mk l active true n.pd.edgeLost stamp], edgeOvf := false, edgeLost := 0 } }.raise
        0x4907 0 n.pd.edgeLost
    else { n with pd := { n.pd with edges := n.pd.edges ++ [EdgeEntry.mk l active false 0 stamp] } }
  m.syncEdges

/-- An edge is queued when `EVT` = 1 and the line is neither stuck nor in a storm (R463, R467). -/
def Node.edgeQueue (n : Node) (l : Nat) (stamp : Word) : Node :=
  if n.fld (Reg.DIO_LN_CFG l) Fld.DIO_LN_CFG_EVT = 1 ∧ !n.lineStuck l ∧ !n.lineStorm l then n.edgePush l (n.lineActive l) stamp
  else n

/-- The storm limit N, and the length of a sub-window in ns (R466). -/
def Node.stormN (n : Node) (l : Nat) : Nat := n.bits (Reg.DIO_LN_STORM l) 0 16
def Node.stormSub (n : Node) (l : Nat) : Nat := max (n.bits (Reg.DIO_LN_STORM l) 16 16 * 62500) 1

/-- The sub-window in progress. -/
def Node.subNow (n : Node) (l : Nat) : Nat := (n.trainNs / (n.stormSub l : Int)).toNat

/-- The counts of the last 16 sub-windows up to a given one. -/
def Line.upTo (x : Line) (sub : Nat) : Line :=
  { x with counts := (x.counts ++ List.replicate (min (sub - x.subAt) 16) 0).drop (min (sub - x.subAt) 16), subAt := max sub x.subAt }

/-- Edges in the last 16 sub-windows. -/
def Line.total (x : Line) : Nat := x.counts.foldl (· + ·) 0

/-- An edge counts toward a storm (R466). -/
def Node.stormCount (n : Node) (l : Nat) : Node :=
  let x := (n.line l).upTo (n.subNow l)
  let x := { x with counts := modifyAt x.counts 15 (· + 1) }
  if n.lineStorm l then n.onLineState l fun _ => { x with stormEdges := x.stormEdges + 1 }
  else if 0 < n.stormN l ∧ n.stormN l < x.total then
    ((n.onLineState l fun _ => { x with stormEdges := 0 }).setStorm l true).raise 0x4911 l x.total
  else n.onLineState l fun _ => x

/-- A stuck line is released (R465, R471). -/
def Node.stuckRelease (n : Node) (l : Nat) : Node :=
  if n.lineStuck l then
    let m := n.setStuck l false
    if l < 32 then m.raise 0x4812 l ((n.tm.raw - (n.line l).activeAt) / 1000000000) else m.raise 0x8002 (l - 32) 0
  else n

/-- The stamp of an edge accepted now: the first sample of the stable run, on the microsecond of train time (R463). -/
def Node.edgeStamp (n : Node) (l : Nat) : Word :=
  sword (n.trainNs / 1000 * 1000 - (n.fld (Reg.DIO_LN_CFG l) Fld.DIO_LN_CFG_DEBOUNCE * 1000 : Nat))

/-- The filtered level of an input takes a new value (R463 to R467). An output line, or a level that is the old one, makes
no edge. -/
def Node.lineEdge (n : Node) (l : Nat) (level : Bool) : Node :=
  if 36 ≤ l ∨ n.fld (Reg.DIO_LN_CFG l) Fld.DIO_LN_CFG_DIR = 1 ∨ n.lineLevel l = level then n
  else
    let m := if l < 32 then (n.setBit Reg.DIO_IN l level).setBit Reg.DIO_RAW l level else n.setBit Reg.DIO_WAKE (l - 32) level
    let m := m.inc (Reg.DIO_LN_EDGES l)
    let m := if m.lineActive l then m.onLineState l fun x => { x with activeAt := m.tm.raw } else m.stuckRelease l
    (m.edgeQueue l (m.edgeStamp l)).stormCount l

/-- A line that has been active for its stuck time is stuck (R465, R471). -/
def Node.lineSticks (n : Node) (l : Nat) : Node :=
  let t := n.bits (Reg.DIO_LN_STUCK_T l) 0 10
  if l < 36 ∧ 0 < t ∧ n.lineActive l ∧ !n.lineStuck l ∧ (n.line l).activeAt + t * 1000000000 ≤ n.tm.raw ∧
      n.fld (Reg.DIO_LN_CFG l) Fld.DIO_LN_CFG_DIR = 0 then
    let m := n.setStuck l true
    if l < 32 then m.raise 0x4910 l t else m.raise 0x8101 (l - 32) t
  else n

/-- LINE_STUCK (R465). -/
def execLineStuck (line time : Nat) (s : State) : Host.Outcome State Fault Refusal :=
  .next (s.on fun n => if line < 32 then (n.at time).lineSticks line else n.at time)

/-- WAKE_STUCK (R471). -/
def execWakeStuck (input time : Nat) (s : State) : Host.Outcome State Fault Refusal :=
  .next (s.on fun n => if input < 4 then (n.at time).lineSticks (32 + input) else n.at time)

/-- STORM_ENDED (R466): at a sub-window boundary the count of the last 16 sub-windows is N / 2 or less. -/
def execStormEnded (line time : Nat) (s : State) : Host.Outcome State Fault Refusal :=
  .next (s.on fun n =>
    let m := n.at time
    let x := (m.line line).upTo (m.subNow line - 1)
    if line < 36 ∧ m.lineStorm line ∧ x.total ≤ m.stormN line / 2 then
      let k := (m.onLineState line fun _ => { x.upTo (m.subNow line) with stormEdges := 0 }).setStorm line false
      (k.raise 0x4813 line x.stormEdges).edgeQueue line k.stamp
    else m)

/-- Host-owned output lines of a mask are driven (R468). -/
def Node.hostDrive (n : Node) (mask : Word) (active : Bool) : Node :=
  ((List.range 32).foldl (fun m l =>
    let c := Reg.DIO_LN_CFG l
    if mask.toNat.testBit l && m.fld c Fld.DIO_LN_CFG_DIR == 1 && m.fld c Fld.DIO_LN_CFG_OWNER == 0 then m.drive l active
    else m) n).syncDrivers

/-- DIO_OUT_SET_WRITE (R468). -/
def execDioOutSetWrite (ctx : Nat) (v : Word) (s : State) : Host.Outcome State Fault Refusal :=
  .next (s.on fun n => n.access ctx Reg.DIO_OUT_SET true fun m => m.hostDrive v true)

/-- DIO_OUT_CLR_WRITE (R468). -/
def execDioOutClrWrite (ctx : Nat) (v : Word) (s : State) : Host.Outcome State Fault Refusal :=
  .next (s.on fun n => n.access ctx Reg.DIO_OUT_CLR true fun m => m.hostDrive v false)

/-- DL_READBACK_FAIL (R470): the readback of a driven output differs from its level for 3 samples from 10 µs after its last
change; reported once until it has matched. -/
def execDlReadbackFail (line time : Nat) (s : State) : Host.Outcome State Fault Refusal :=
  .next (s.on fun n =>
    let m := n.at time
    match m.pd.driven.find? fun x => x.1 == line && decide ((m.line line).drivenAt + 12000 ≤ m.tm.raw) with
    | some x =>
      let k := m.setBit Reg.DIO_RB line !x.2
      if (k.line line).readbackBad then k
      else (k.onLineState line fun y => { y with readbackBad := true }).raise 0x4A05 line (b2n x.2)
    | none => m)

/-- The oldest entry leaves the edge queue when the context of the queue, or a secure one, reads its last word (R464,
R476); other contexts read zero and remove nothing. -/
def Node.edgeRead (n : Node) (ctx : Nat) : Node :=
  if n.pd.edgeCtx = some ctx ∨ n.ctxSecure ctx = true then
    let m := n.answer (n.reg Reg.DIO_EDGE_W1)
    { m with pd := { m.pd with edges := m.pd.edges.drop 1 } }.syncEdges
  else n.answer 0#32

/-- EDGE_ENTRY_READ (R464): a read of `DIO_EDGE_W1`. -/
def execEdgeEntryRead (ctx : Nat) (s : State) : Host.Outcome State Fault Refusal :=
  .next (s.on fun n => n.access ctx Reg.DIO_EDGE_W1 false fun m => m.edgeRead ctx)

/-! ### Commands (R474) -/

/-- The instances of the PDT and DIO blocks (R646). -/
def instPdt : Nat := 29
def instDio : Nat := 30

/-- PD_STATUS (R474). -/
def execPdStatus (c : Cmd) (s : State) : Host.Outcome State Fault Refusal :=
  .next (s.runs c 0x0401 fun n => n.command c (.inst instPdt) 0 fun m =>
    .done m sOk [m.reg Reg.PDT_STAT, m.reg Reg.PDT_MISS_CNT, m.reg Reg.PDT_SAFE_CNT])

/-- PD_INFO (R474). -/
def execPdInfo (c : Cmd) (s : State) : Host.Outcome State Fault Refusal :=
  .next (s.runs c 0x0402 fun n => n.command c (.inst instPdt) 1 fun m =>
    match m.dsIndex (arg c 0) with
    | some i => .done m sOk (m.getRegs (Reg.PDT_DS_CFG i) 8)
    | none => .fail m sArgs)

/-- PD_WRITE (R448, R474): the bytes of the context's host memory become the dataset's buffer, and it is complete. -/
def execPdWrite (c : Cmd) (s : State) : Host.Outcome State Fault Refusal :=
  .next (s.runs c 0x0403 fun n => n.command c (.inst instPdt) 5 fun m =>
    match m.pd.sets.find? fun d => d.stream == arg c 0 with
    | some d =>
      match m.sourceBytes c 1 (arg c 2) d.len with
      | some bytes =>
        if !d.consumed ∧ d.source = 0 ∧ arg c 1 = d.len then .done (m.complete d.stream bytes (argW c 4)) sOk []
        else .fail m sArgs
      | none => .fail m sArgs
    | none => .fail m sArgs)

/-- PD_READ (R474): the data presented is written to the context's host memory. -/
def execPdRead (c : Cmd) (s : State) : Host.Outcome State Fault Refusal :=
  .next (s.runs c 0x0404 fun n => n.command c (.inst instPdt) 4 fun m =>
    match m.pd.sets.find? fun d => d.stream == arg c 0 with
    | some d =>
      if d.consumed ∧ c.ctx < 4 ∧ arg c 3 = d.len then
        let k := { m with host := { m.host with dma := m.host.dma ++
          [HostWrite.mk c.ctx (arg c 1 + arg c 2 * 2 ^ 32) (slice d.shown.data 0 d.len)] } }
        .done k sOk [word d.shown.status, word (beAt d.shown.header 4 4)]
      else .fail m sArgs
    | none => .fail m sArgs)

/-- DIO_SET (R468, R474). -/
def execDioSet (c : Cmd) (s : State) : Host.Outcome State Fault Refusal :=
  .next (s.runs c 0x0405 fun n => n.command c (.inst instDio) 2 fun m =>
    let l := arg c 0
    if 32 ≤ l ∨ 2 ≤ arg c 1 ∨ m.fld (Reg.DIO_LN_CFG l) Fld.DIO_LN_CFG_DIR = 0 ∨
        m.fld (Reg.DIO_LN_CFG l) Fld.DIO_LN_CFG_OWNER = 1 then .fail m sArgs
    else .done (m.drive l (arg c 1 == 1)).syncDrivers sOk [])

/-- DIO_STATUS (R474). -/
def execDioStatus (c : Cmd) (s : State) : Host.Outcome State Fault Refusal :=
  .next (s.runs c 0x0406 fun n => n.command c (.inst instDio) 0 fun m =>
    .done m sOk [m.reg Reg.DIO_IN, m.reg Reg.DIO_OUT, m.reg Reg.DIO_STUCK, m.reg Reg.DIO_STORM])

end Sys2Proof.Machine
end

