-- ==== Sys2Proof/Machine/CarTime.lean ====
section
/-! DEFINITION. The time service toward car equipment (R333 to R336). The spec names the messages and the values they carry;
the places of the fields in a message are those of IEEE 802.1AS-2020 and IEEE 1588-2019 (PRESUMED, log entry 34). -/

namespace Sys2Proof.Machine

/-- The time service of a consist port: 0 off, 1 gPTP grandmaster, 2 gPTP relay, 3 IEEE 1588. Branch and host-frame ports
carry none (R333). -/
def Node.timeService (n : Node) (p : Nat) : Nat :=
  if 4 ≤ p ∧ p < 12 ∧ n.carKind p = 0 then n.bits (Reg.TMB_CARTIME_CFG (carPort p)) 0 2 else 0

/-- The clockIdentity of a node identity (R334). -/
def clockId (id : Nat) : Nat := id / 2 ^ 24 * 2 ^ 40 + 0xFFFE * 2 ^ 24 + id % 2 ^ 24

/-- The domain of a port: 0 for gPTP, that of the time record for IEEE 1588 (R333, R335). -/
def Node.ptpDomain (n : Node) (p : Nat) : Nat :=
  if n.timeService p = 3 then n.bits (Reg.TMB_CARTIME_CFG (carPort p)) 8 7 else 0

/-- A PTP message sent on a car port: the common header and the body. -/
def Node.ptpSend (n : Node) (p type flags seq interval : Nat) (body : List Byte) : Node :=
  let gptp := n.timeService p != 3
  let b := encBE 1 (type + b2n gptp * 16) ++ encBE 1 0x12 ++ encBE 2 (34 + body.length) ++ encBE 1 (n.ptpDomain p) ++ zeros 1 ++
    encBE 2 flags ++ zeros 8 ++ zeros 4 ++ encBE 8 (clockId n.identity) ++ encBE 2 (carPort p + 1) ++ encBE 2 seq ++ zeros 1 ++
    encBE 1 interval ++ body
  n.sendGated p 3 { dst := if gptp ∨ type ∈ [2, 3, 10] then 0x0180C200000E else 0x011B19000000, src := n.identity, tag := none,
                    etype := 0x88F7, body := b ++ zeros (46 - b.length) }

/-- A train time as the 10 bytes of a timestamp. -/
def ptpStamp (ns : Int) : List Byte := encBE 6 (secOf ns) ++ encBE 4 (nsOf ns)

/-- The next sequence number. -/
def Node.ptpNext (n : Node) : Node := { n with tm := { n.tm with ptpSeq := (n.tm.ptpSeq + 1) % 65536 } }

/-- The port may send Sync and Announce: a service runs, train time is synchronised (R336), and under car-side mode 2 the
node is holder (R430). -/
def Node.timeSends (n : Node) (p : Nat) : Bool :=
  n.timeService p != 0 && n.linkUp p && n.fld Reg.INA_STATE Fld.INA_STATE_SYNCED == 1 && n.carSends p

/-- A periodic message of a type is due on a port: its interval in ns has passed since the last one (R333). -/
def Node.ptpDue (n : Node) (p type interval : Nat) : Bool :=
  ((n.port p).ptpAt.find? fun x => x.1 == type).all fun x => decide (x.2 + interval ≤ n.tm.raw)

/-- A periodic message of a type has been sent on a port. -/
def Node.ptpDone (n : Node) (p type : Nat) : Node :=
  n.ptpNext.onPort p fun q => { q with ptpAt := q.ptpAt.filter (fun x => x.1 != type) ++ [(type, n.tm.raw)] }

/-- GPTP_SYNC_SEND (R333, R335, R336): a two-step Sync and its Follow_Up, whose preciseOriginTimestamp is the train time of
the Sync's egress stamp. The follow-up information of gPTP is not stated: it is free. -/
def execGptpSyncSend (port time : Nat) (s : State) : Host.Outcome State Fault Refusal :=
  .next (s.on fun n =>
    let m := n.at time
    if m.timeSends port && m.ptpDue port 0 125000000 then
      let q := m.tm.ptpSeq
      let k := m.ptpSend port 0 0x0208 q 0xFD (zeros 10)
      let (k, info) := k.freeBytes 22
      let tlv := if m.timeService port = 3 then [] else encBE 2 3 ++ encBE 2 28 ++ encBE 3 0x0080C2 ++ encBE 3 1 ++ info
      (k.ptpSend port 8 0x0008 q 0xFD (ptpStamp m.trainNs ++ tlv)).ptpDone port 0
    else m)

/-- GPTP_ANNOUNCE_SEND (R334): the grandmaster announces itself; a relay announces the cycle master, with the spine links
between the master's vehicle and its own. The variance and priority2 are not stated: they are free. -/
def execGptpAnnounceSend (port time : Nat) (s : State) : Host.Outcome State Fault Refusal :=
  .next (s.on fun n =>
    let m := n.at time
    if m.timeSends port && m.ptpDue port 11 1000000000 then
      let relay := m.timeService port == 2
      let posOf (id : Nat) : Nat := ((m.entryOf id).map (·.pos)).getD 0
      let a := posOf m.masterId
      let b := posOf m.identity
      let steps := if relay then (a - b) + (b - a) else 0
      let gm := if relay then m.masterId else m.identity
      let (k, open') := m.freeBytes 3
      let flags := 0x0008 + b2n (m.tm.utc != 0) * 4
      (k.ptpSend port 11 flags m.tm.ptpSeq 0
        (zeros 10 ++ encBE 2 m.tm.utc ++ zeros 1 ++ encBE 1 246 ++ encBE 1 248 ++ encBE 1 0xFE ++ open' ++
          encBE 8 (clockId gm) ++ encBE 2 steps ++ encBE 1 0xA0)).ptpDone port 11
    else m)

/-- GPTP_PDELAY_SEND (R333): the peer delay request of every second. -/
def execGptpPdelaySend (port time : Nat) (s : State) : Host.Outcome State Fault Refusal :=
  .next (s.on fun n =>
    let m := n.at time
    if m.timeService port != 0 && m.linkUp port && m.carSends port && m.ptpDue port 2 1000000000 then
      (m.ptpSend port 2 0 m.tm.ptpSeq 0 (zeros 20)).ptpDone port 2
    else m)

/-- CAR_PEER_DELAY_RECEIVED (R333, R335): a request (message type 2) is answered with a response and its follow-up, which
carry the train times of its ingress and of the response's egress; a response follow-up (type 10) makes the port's peer
delay valid. -/
def execCarPeerDelayReceived (port msgType seq clock portNum egress time : Nat) (s : State) :
    Host.Outcome State Fault Refusal :=
  .next (s.on fun n =>
    let m := n.at time
    if m.timeService port = 0 ∨ !m.linkUp port then m
    else if msgType = 2 then
      if m.carSends port then
        let id := encBE 8 clock ++ encBE 2 portNum
        let k := m.ptpSend port 3 0x0200 seq 0x7F (ptpStamp m.trainNs ++ id)
        k.ptpSend port 10 0 seq 0x7F (ptpStamp (m.fineAt egress / 65536) ++ id)
      else m
    else if msgType = 10 then m.setBit (Reg.TMB_CARTIME_STAT (carPort port)) 1 true
    else m)

end Sys2Proof.Machine
end

