-- ==== Sys2Proof/Machine/Placement.lean ====
section
/-! DEFINITION. Placement at work: slot lists and staged modes (R233, R365, R368), the local placer (R376, R377), requests,
verdicts and the census (R362 to R366, R379), the decisions of the train placer (R357 to R359, R367), the numbering's
placement (R352, R360, R361, R375), moves and full re-placement (R369 to R371), and the stream commands (R384). -/

namespace Sys2Proof.Machine

/-! ### Slot lists and modes -/

/-- The slots of this node among those placed. -/
def Node.myPlaced (n : Node) : List Placed := n.plc.placed.filter fun (p : Placed) => p.node == n.identity && p.stream != 0

/-- Slot entries and originated entries as a register shows them. -/
def slotCount (l : List SlotEntry) : Nat := l.length + (l.filter (·.orig)).length * 65536

/-- No slot of a mode overlaps a reference crossing of the current train (R242, R253): no slot of this node, no status slot, and
in a placer mode or the base mode no slot of another node. The master knows no other slots of an image mode. -/
def Node.usable (n : Node) (m : Mode) : Bool :=
  let known := m.placer || m.num == n.fld Reg.PLC_STATE Fld.PLC_STATE_BASE
  let own := m.slots.flatMap fun s => ((List.range 13).filter fun p => s.egress.testBit p).map fun p =>
    (n.identity, p, s.start, (s.start + ceil32 (n.wireTenths p (slotFrame (n.strm s.stream).size))) * 10)
  let others := ((n.plc.placed.filter fun (p : Placed) => p.stream == 0 || (m.placer && p.node != n.identity)) ++
    (if known then n.plc.fixed else [])).map fun p => (p.node, p.port, p.start, p.late)
  (own ++ others).all fun x => n.crossings.all fun c =>
    c.1 != x.1 || c.2.1 != x.2.1 || decide (c.2.2.2 ≤ (x.2.2.1 - m.sguard) * 10) || decide (x.2.2.2 ≤ c.2.2.1)

/-- The registers of a mode (R249, R253). -/
def Node.showMode (n : Node) (m : Mode) : Node :=
  n.setRegs (Reg.CYC_MD_STAT m.num)
    [word (1 + b2n m.placer * 2 + b2n (n.master && n.usable m) * 4), word m.sched, word m.poll, word m.guard, word m.sguard,
     word (slotCount m.slots)]

/-- A mode defined at this node. -/
def Node.putMode (n : Node) (m : Mode) : Node :=
  { n with cyc := { n.cyc with modes := n.cyc.modes.filter (fun (x : Mode) => x.num != m.num) ++ [m] } }.showMode m

/-- The transmit list of the current mode (R249). -/
def Node.syncTxlist (n : Node) : Node := n.setReg Reg.CYC_TXLIST (word (slotCount n.slotList))

/-- The mode that the placer stages into: the one that it stages into already, else the lowest of M4 to M7 that is neither
current nor announced (R368). -/
def Node.stagedNum (n : Node) : Nat :=
  let unused (m : Nat) : Bool := m != n.mode && !(n.cyc.switch.any fun w => w.target == m && w.state != 3)
  let kept := n.fld Reg.PLC_STATE Fld.PLC_STATE_STAGED_MODE
  if n.fld Reg.PLC_STATE Fld.PLC_STATE_STAGED = 1 ∧ 4 ≤ kept ∧ unused kept then kept else ([4, 5, 6, 7].find? unused).getD 4

/-- The placer mode is staged anew: the base mode's windows and fixed slots and this node's placed slots (R368). -/
def Node.restage (n : Node) : Node :=
  match n.baseMode with
  | none => n
  | some b =>
    let fixed := if n.fld Reg.INA_STATE Fld.INA_STATE_JOINER = 1 then [] else b.slots
    let num := n.stagedNum
    let m := n.putMode { b with num := num, placer := true, slots := (slotEntries n.myPlaced).foldr insertSlot fixed }
    (m.setFld Reg.PLC_STATE Fld.PLC_STATE_STAGED 1).setFld Reg.PLC_STATE Fld.PLC_STATE_STAGED_MODE num

/-- A stream is among those being staged. -/
def Node.stage (n : Node) (s : Nat) : Node :=
  { n with plc := { n.plc with staging := if n.plc.staging.contains s then n.plc.staging else n.plc.staging ++ [s] } }.restage

/-! ### The local placer (R376, R377) -/

/-- What the slots of a stream take at a node: cells, audio streams carried and originated entries. A copy is
received by a destination on each line that the node sits on and the copy travels. -/
def Node.loadAt (n : Node) (e : Strm) (ps : List Placed) (id : Nat) : Nat × Nat × Nat :=
  let c := (slotFrame e.size + 255) / 256
  let ps := ps.filter fun p => p.copy != carIndex && (p.node != n.identity || n.isLinePort p.port || p.port == 12)
  let me := entryIn n.ina.table id
  let orig := ((ps.filter fun p => p.node == id && p.orig).map (·.copy)).eraseDups.length
  let fwd := ((ps.filter fun p => p.node == id && !p.orig).map fun p => (p.copy, p.port % 2)).eraseDups.length
  let dest := (n.destsOf n.ina.table e).any fun x => x.identity == id
  let sits (line : Nat) : Bool := me.all fun x => !x.paired || b2n x.roleB == line
  let recv := if dest then (((ps.filter fun p => p.node != id && p.port != 12).map fun p => (p.copy, p.port % 2)).eraseDups.filter
    fun g => sits g.2).length else 0
  (c * ((if 0 < orig then 3 else 0) + fwd + recv), if e.cls = 1 ∧ (0 < fwd ∨ 0 < recv) then 1 else 0, orig)

/-- The mix inputs that this node's engines have free (R377). -/
def Node.mixFree (n : Node) : List Nat :=
  (mixLeft n.plc.mixCap (n.zoneInputs n.ina.table n.identity)).getD (List.replicate 8 0)

/-- The reservations of this node and the registers that show them. -/
def Node.reserve (n : Node) : Node :=
  let streams := (n.validStreams.filter fun s => (n.strm s).cls != 2).map fun s =>
    (n.strm s, n.plc.placed.filter fun (p : Placed) => p.stream == s)
  let loads := streams.map fun x => n.loadAt x.1 x.2 n.identity
  let cells := loads.foldl (fun a l => a + l.1) 0
  let mix := n.mixFree
  let pack (i : Nat) : Nat := (List.range 4).foldl (fun a j => a + mix.getD (i + j) 0 * 2 ^ (8 * j)) 0
  let m := n.setReg Reg.TOP_BUF_SCHED_USED (word (n.plc.fixedCells + cells))
  (((m.setReg Reg.PLC_POOL_FREE (word (n.plc.poolCells - n.plc.fixedCells - cells))).setReg Reg.PLC_MIX_FREE0
    (word (pack 0))).setReg Reg.PLC_MIX_FREE1 (word (pack 4))).setReg Reg.PLC_TRANSIT_AUD
    (word (loads.foldl (fun a l => a + l.2.1) 0))

/-- The ledgers of the nodes that a stream's slots touch, charged or credited (R349). -/
def Node.account (n : Node) (e : Strm) (ps : List Placed) (charge : Bool) : Node :=
  (((ps.map (·.node)) ++ (n.destsOf n.ina.table e).map (·.identity)).eraseDups.filter fun i => i != n.identity).foldl
    (fun m i =>
      let q := m.loadAt e ps i
      m.putLedger (if charge then (m.ledger i).charge q else (m.ledger i).credit q)) n

/-! ### Requests (R362, R372) -/

/-- The bytes of a request. -/
def requestBytes (q : PlcReq) : List Byte :=
  encBE 1 q.type ++ zeros 1 ++ encBE 2 q.stream ++ encBE 2 q.tag ++ encBE 6 q.requester ++ encBE 4 q.first ++
  (if q.type = 1 then q.entry.flatMap fun w => encBE 4 w.toNat else [])

/-- A request from its bytes. -/
def decodeRequest (b : List Byte) : PlcReq :=
  ⟨byteAt b 0, beAt b 2 2, beAt b 4 2, beAt b 6 6, (List.range 8).map fun i => word (beAt b (16 + 4 * i) 4), beAt b 12 4, 0, 0⟩

/-- A request goes to the master: into its own queue at the master, else as a message. -/
def Node.sendRequest (n : Node) (q : PlcReq) : Node :=
  if n.master then { n with plc := { n.plc with queue := n.plc.queue ++ [q] } }
  else n.postMsg 16380 [n.masterId] (requestBytes q)

/-- This node makes a request; the answer is its tag. -/
def Node.request (n : Node) (type stream first : Nat) (entry : List Word) : Node × Nat :=
  let q : PlcReq := ⟨type, stream, n.plc.nextTag, n.identity, entry, first, n.cyc.cur, 1⟩
  ({ n with plc := { n.plc with nextTag := (n.plc.nextTag + 1) % 65535, mine := n.plc.mine ++ [q] } }.sendRequest q, q.tag)

/-- The node waits for a resend from an admission sequence on (R361, R366). -/
def Node.askResend (n : Node) (first : Nat) : Node :=
  ((n.setFld Reg.PLC_STATE Fld.PLC_STATE_GAP 1).request 3 0 first []).1

/-- REQUEST_RETRY: a request without a verdict after 8 basic cycles is sent once more; after the second attempt its command
completes with TIMEOUT (R372). A request for a resend is repeated while the gap lasts. -/
def execRequestRetry (time : Nat) (s : State) : Host.Outcome State Fault Refusal :=
  .next (s.on fun n =>
    let m := n.at time
    let gap := m.fld Reg.PLC_STATE Fld.PLC_STATE_GAP == 1
    let due := m.plc.mine.filter fun q => decide (q.cycle + 8 ≤ m.cyc.cur)
    let rest := m.plc.mine.filter fun q => !decide (q.cycle + 8 ≤ m.cyc.cur)
    due.foldl (fun k q =>
      if (q.type = 3 ∧ gap) ∨ (q.type ≠ 3 ∧ q.attempts < 2) then
        let q' := { q with attempts := q.attempts + 1, cycle := k.cyc.cur }
        { k with plc := { k.plc with mine := k.plc.mine ++ [q'] } }.sendRequest q'
      else k.finishWaits (fun w => w.kind == 3 && w.key == q.tag) sTimeout [])
      { m with plc := { m.plc with mine := rest } })

/-! ### Verdicts (R364) -/

/-- A placement entry: node number, copy index, whether the node originates, egress ports and start. -/
structure VSlot where
  num : Nat
  copy : Nat
  orig : Bool
  egress : Nat
  start : Nat
  deriving DecidableEq, Repr

/-- A verdict. -/
structure Verdict where
  stream : Nat
  result : Nat
  reason : Nat
  admSeq : Nat
  epoch : Nat
  tag : Nat
  digest : Word
  entry : List Word
  slots : List VSlot
  deriving DecidableEq, Repr

/-- The bytes of a verdict. -/
def Verdict.bytes (v : Verdict) : List Byte :=
  encBE 2 v.stream ++ encBE 1 v.result ++ encBE 1 v.reason ++ encBE 4 v.admSeq ++ encBE 2 v.epoch ++ encBE 2 v.tag ++
  encBE 4 v.digest.toNat ++ (v.entry.flatMap fun w => encBE 4 w.toNat) ++
  v.slots.flatMap fun s => encBE 2 (s.num + s.copy % 4 * 4096 + b2n s.orig * 16384) ++ encBE 2 s.egress ++ encBE 4 s.start

/-- A verdict from its bytes. -/
def decodeVerdict (b : List Byte) : Verdict :=
  { stream := beAt b 0 2, result := byteAt b 2, reason := byteAt b 3, admSeq := beAt b 4 4, epoch := beAt b 8 2,
    tag := beAt b 10 2, digest := word (beAt b 12 4), entry := (List.range 8).map fun i => word (beAt b (16 + 4 * i) 4),
    slots := (List.range ((b.length - 48) / 8)).map fun i =>
      let o := 48 + 8 * i
      ⟨beAt b o 2 % 4096, beAt b o 2 / 4096 % 4, (beAt b o 2).testBit 14, beAt b (o + 2) 2 % 32768, beAt b (o + 4) 4⟩ }

/-- Slots as placement entries under a numbering; the ports of one node with one start share an entry. -/
def vslots (tbl : List NumEntry) (ps : List Placed) : List VSlot :=
  ps.foldl (fun (acc : List VSlot) p =>
    match entryIn tbl p.node with
    | none => acc
    | some e =>
      let same (x : VSlot) : Bool := x.num == e.num && x.copy == p.copy && x.orig == p.orig && x.start == p.start
      if acc.any same then acc.map fun x => if same x then { x with egress := withPort x.egress p.port } else x
      else acc ++ [⟨e.num, p.copy, p.orig, 2 ^ p.port, p.start⟩]) []

/-- Placement entries as slots. A verdict names no link rate: the latest end is that of a frame 160 ns late at its first hop
at 10 Gbit/s. -/
def placedOf (tbl : List NumEntry) (stream : Nat) (e : Strm) (vs : List VSlot) : List Placed :=
  vs.flatMap fun v =>
    match tbl.find? fun x => x.num == v.num with
    | none => []
    | some x => ((List.range 15).filter fun p => v.egress.testBit p).map fun p =>
        let wire := (slotFrame e.size + 20) * 8
        ⟨stream, x.identity, v.copy, v.orig, p, v.start, v.start * 10 + 1600 + wire, wire, false, e.k, e.phase⟩

/-- The epoch of the numbering that placement works on. -/
def Node.plcEpoch (n : Node) : Nat := match n.ina.announced with | some c => c.epoch | none => n.epoch

/-- A verdict of the master, to be sent in its own part of the polled window (R363). -/
def Node.issue (n : Node) (stream result reason tag : Nat) (e : Strm) (ps : List Placed) : Node :=
  let v : Verdict := ⟨stream, result, reason, e.admSeq, n.plcEpoch, tag, n.digest, e.words, vslots n.plcTable ps⟩
  { n with plc := { n.plc with verdicts := n.plc.verdicts ++ [v.bytes] } }

/-- The slots of a stream. -/
def Node.streamSlots (n : Node) (s : Nat) : List Placed := n.plc.placed.filter fun (p : Placed) => p.stream == s

/-- A stream given its entry and slots. -/
def Node.setStream (n : Node) (s : Nat) (e : Strm) (ps : List Placed) : Node :=
  { n.putStrm s e with plc := { (n.putStrm s e).plc with
    placed := n.plc.placed.filter (fun (p : Placed) => p.stream != s) ++ ps } }

/-- The removed stream's entry: not valid, every word zero. -/
def noStrm : Strm := strmOf (List.replicate 8 0#32)

/-- A dataset whose stream carries another deadline is inactive (R446). -/
def Node.checkDeadline (n : Node) (s : Nat) (e : Strm) : Node :=
  match n.pd.sets.findIdx? fun d => d.stream == s with
  | none => n
  | some i =>
    match n.pd.sets[i]? with
    | none => n
    | some d =>
      let bad := e.deadline + 1000 + d.margin != d.omega
      let m := { n with pd := { n.pd with sets := modifyAt n.pd.sets i fun d => { d with mismatch := bad } } }
      if bad then m.raise 0x4A06 s e.deadline else m

/-- The requester's command completes when its verdict arrives (R367, R384). -/
def Node.verdictDone (n : Node) (v : Verdict) : Node :=
  match n.plc.mine.find? fun q => q.tag == v.tag && q.stream == v.stream && q.type != 3 with
  | none => n
  | some q =>
    let m := { n with plc := { n.plc with mine := n.plc.mine.erase q } }
    let e := strmOf v.entry
    if v.result = 1 then
      let k := { m with plc := { m.plc with rejected := m.plc.rejected ++ [(v.tag, v.reason)] } }
      k.finishWaits (fun w => w.kind == 3 && w.key == v.tag) sNotPlaceable [word v.reason]
    else if q.type = 2 then m.finishWaits (fun w => w.kind == 3 && w.key == v.tag) sOk []
    else m.finishWaits (fun w => w.kind == 3 && w.key == v.tag) sOk [word e.phase, word e.admSeq]

/-- A gap is filled when the digests agree and the node holds its status placement (R361, R366). -/
def Node.settleGap (n : Node) (digest : Word) : Node :=
  if n.fld Reg.PLC_STATE Fld.PLC_STATE_GAP = 1 then
    if n.digest = digest ∧ n.plc.statusEpoch = some n.epoch then
      let m := n.setFld Reg.PLC_STATE Fld.PLC_STATE_GAP 0
      { m with plc := { m.plc with mine := m.plc.mine.filter fun q => q.type != 3 } }.leaveMute
    else n
  else if n.digest = digest then n
  else (n.raise 0x3A04 n.digest.toNat digest.toNat).askResend 0

/-- An admission sequence beyond the next one leaves a gap (R366). -/
def Node.seqGap (n : Node) (v : Verdict) : Node :=
  let held := (n.reg Reg.PLC_ADM_SEQ).toNat
  let m := if held < v.admSeq then n.setReg Reg.PLC_ADM_SEQ (word v.admSeq) else n
  if held + 1 < v.admSeq ∧ n.fld Reg.PLC_STATE Fld.PLC_STATE_GAP = 0 then (m.raise 0x3908 (held + 1) 0).askResend (held + 1)
  else m

/-- A status verdict (R361): the slots of one node, for the numbering in force or the one to come. A node that lacked its own
part leaves MUTE with it. -/
def Node.statusVerdict (n : Node) (v : Verdict) (tbl : List NumEntry) : Node :=
  let ps := placedOf tbl 0 (statusStrm 0) v.slots
  let named := (ps.map (·.node)).eraseDups
  let others (l : List Placed) : List Placed := l.filter fun p => p.stream != 0 || !named.contains p.node
  let mine := named.contains n.identity
  let m : Node :=
    if v.epoch = n.epoch then { n with plc := { n.plc with placed := others n.plc.placed ++ ps } }
    else { n with plc := { n.plc with nextStatus := others n.plc.nextStatus ++ ps } }
  if mine then ({ m with plc := { m.plc with statusEpoch := some v.epoch } }.syncTxlist).leaveMute else m

/-- A verdict puts its stream into the mode being staged: one of a scheduled stream that is not a rejection, nor sent again of a
stream that runs already. -/
def Verdict.stages (v : Verdict) : Bool :=
  let e := strmOf v.entry
  v.stream != 0 && v.result != 1 && e.cls != 2 && !(v.result == 0 && e.state == 2)

/-- The verdict of a stream at a node (R365, R366, R369). -/
def Node.streamVerdict (n : Node) (v : Verdict) (tbl : List NumEntry) : Node :=
  let e := strmOf v.entry
  let ps := placedOf tbl v.stream e v.slots
  let m := n.seqGap v
  let k : Node := match v.result with
    | 1 => m
    | 2 => m.setStream v.stream noStrm []
    | 4 => m.setStream v.stream e ((m.streamSlots v.stream).map (fun p => { p with old := true }) ++ ps)
    | _ => m.setStream v.stream e (if e.cls = 2 then [] else ps)
  let k := if v.stages then k.stage v.stream else k
  (if v.result = 1 ∨ v.result = 2 then k else k.checkDeadline v.stream e).reserve

/-- The numbering that names the nodes of a verdict (R280, R365): the one in force, the previous one within the bleed window,
or for a status verdict the one announced. -/
def Node.verdictTable (n : Node) (v : Verdict) : Option (List NumEntry) :=
  if v.epoch = n.epoch then some n.ina.table
  else if n.fld Reg.INA_STATE Fld.INA_STATE_BLEED = 1 ∧ v.epoch = (n.reg Reg.INA_PREV_EPOCH).toNat % 65536 then some n.ina.prev
  else if v.stream = 0 ∧ n.ina.refCommit.any (fun c => c.1 == v.epoch) then (n.ina.result.map (·.entries)).orElse fun _ => some []
  else none

/-- A verdict is taken. -/
def Node.takeVerdict (n : Node) (v : Verdict) : Node :=
  match n.verdictTable v with
  | none => n
  | some tbl =>
    let m := if v.stream = 0 then n.statusVerdict v tbl else n.streamVerdict v tbl
    (m.verdictDone v).settleGap v.digest

/-- VERDICT_RECEIVED: a MSG of stream 16,381; a complete verdict is written to STB and staged (R364 to R366). -/
def execVerdictReceived (r : Rx) (s : State) : Host.Outcome State Fault Refusal :=
  .next (s.on fun n => n.msgFrame r (fun s => s == 16381) fun k m =>
    if k.master then k else k.takeVerdict (decodeVerdict m.bytes))

/-! ### The census (R379) -/

/-- The bytes of a census (PRESUMED, log entry 29): four-byte pool cells and fixed cells, eight one-byte mix inputs, two-byte audio
streams and originated entries, then counted lists of the fixed streams and of the fixed slots of the base mode. -/
def Node.censusBytes (n : Node) : List Byte :=
  let l := n.ledger n.identity
  let fixed := n.validStreams.filter fun s => (n.strm s).fixed && n.ownStream (n.strm s)
  let slots := (n.baseMode.map (·.slots)).getD []
  encBE 4 n.plc.poolCells ++ encBE 4 n.plc.fixedCells ++ (n.mixFree.flatMap fun m => encBE 1 m) ++ encBE 2 l.audio ++
  encBE 2 l.orig ++ encBE 2 fixed.length ++ encBE 2 slots.length ++
  (fixed.flatMap fun s => encBE 2 s ++ (n.getRegs (Reg.STB_ENTRY s) 8).flatMap fun w => encBE 4 w.toNat) ++
  slots.flatMap fun x => encBE 2 x.stream ++ encBE 2 (n.num + b2n x.orig * 16384) ++ encBE 2 x.egress ++ encBE 4 x.start

/-- A census is taken: the fixed streams enter every node's stream table, and the master keeps the ledger, with the engines that
leave the free mix inputs named, and the fixed slots of its base mode. -/
def Node.takeCensus (n : Node) (src : Nat) (b : List Byte) : Node :=
  let count := beAt b 20 2
  let m := (List.range count).foldl (fun k i =>
    let o := 24 + 34 * i
    let e := strmOf ((List.range 8).map fun j => word (beAt b (o + 2 + 4 * j) 4))
    let s := beAt b o 2
    if 1 ≤ s ∧ s < 16380 ∧ !(k.strm s).valid then k.putStrm s e else k) n
  if !m.master then m
  else
    let slots := (List.range (beAt b 22 2)).flatMap fun i =>
      let o := 24 + 34 * count + 10 * i
      let s := beAt b o 2
      let e := m.strm s
      let wire := (slotFrame e.size + 20) * 8
      ((List.range 15).filter fun p => (beAt b (o + 4) 2).testBit p).map fun p =>
        Placed.mk s src 0 ((beAt b (o + 2) 2).testBit 14) p (beAt b (o + 6) 4) (beAt b (o + 6) 4 * 10 + 1600 + wire) wire false
          e.k e.phase
    let free := (List.range 8).map fun i => byteAt b (8 + i)
    let cap := ((List.range 256).map mixCapOf).find? fun c => mixLeft c (m.zoneInputs m.ina.table src) == some free
    let k := m.putLedger ⟨src, beAt b 0 4 - beAt b 4 4, cap.getD free, beAt b 16 2, beAt b 18 2⟩
    { k with plc := { k.plc with fixed := k.plc.fixed.filter (fun p => p.node != src) ++ slots } }

/-- CENSUS_SEND: in the polled window after a commit the node sends its census; the master takes its own at once (R379). -/
def execCensusSend (time : Nat) (s : State) : Host.Outcome State Fault Refusal :=
  .next (s.on fun n =>
    let m := n.at time
    if !m.plc.censusDue then m
    else
      let k := { m with plc := { m.plc with censusDue := false } }
      if k.master then k.takeCensus k.identity k.censusBytes else k.postMsg 16382 [k.masterId] k.censusBytes)

/-- A message of a stream that no other row takes: requests to the master (R362), censuses, snapshot records to their requester
(R294), and message streams to the hosts of their destinations (R381). -/
def Node.takeMsg (n : Node) (m : InMsg) : Node :=
  if m.stream = 16380 then
    if n.master then { n with plc := { n.plc with queue := n.plc.queue ++ [decodeRequest m.bytes] } } else n
  else if m.stream = 16382 then n.takeCensus m.src m.bytes
  else if m.stream = 16383 then (if n.ina.snapTag = some (beAt m.bytes 10 2) then n.storeSnap m.bytes else n)
  else if (n.strmLive m.stream).valid && n.isDest (n.strm m.stream) then n.deliverMsg m
  else n

/-- A stream is in the service range (R498): what it carries is PA_MESSAGE_RECEIVED or CALL_MESSAGE_RECEIVED. -/
def Node.svcRange (n : Node) (s : Nat) : Bool :=
  decide (n.aud.global.svcFirst ≤ s) && decide (s < n.aud.global.svcFirst + n.aud.global.svcCount)

/-- MSG_RECEIVED (R380): a MSG of a stream that is neither the verdict stream nor a service stream. -/
def execMsgReceived (r : Rx) (s : State) : Host.Outcome State Fault Refusal :=
  .next (s.on fun n => n.msgFrame r (fun s => s != 16381 && !n.svcRange s) Node.takeMsg)

/-- The status verdicts of the numbering that REF announces, and in its commit cycle those of the numbering in force: they go
out in every polled window from cycle p + 1 to the commit cycle (R361). A link that only the commit joins carries those of the
last window (DEDUCED, log entry 108). -/
def Node.issueStatus (n : Node) : Node :=
  let go (ps : List Placed) : Node :=
    n.plcTable.foldl (fun m e => m.issue 0 0 0 0xFFFF (statusStrm e.identity) (statusSlots ps e.identity)) n
  if n.bit Reg.INA_COMMIT 16 then go n.plc.nextStatus
  else if n.ina.bleedEnd = n.cyc.cur + 4 then go (n.plc.placed.filter fun (p : Placed) => p.stream == 0)
  else n

/-- MASTER_MESSAGE_SEND: after its last poll and up to the end of the polled window the master sends its own messages, verdicts
included; no poll asks for them (R363, R364). The streams of the verdicts sent join the mode being staged, as they do at every other node (R365, R367). -/
def execMasterMessageSend (time : Nat) (s : State) : Host.Outcome State Fault Refusal :=
  .next (s.on fun n =>
    let m := n.at time
    if m.master ∧ m.inPolled ∧ (m.pollOrder.isEmpty ∨ !m.cyc.polls.isEmpty) then
      let g := m.issueStatus
      let vs := g.plc.verdicts
      let k := vs.foldl (fun k b => k.postMsg 16381 [] b) { g with plc := { g.plc with verdicts := [] } }
      let k := ((m.plc.verdicts.map decodeVerdict).filter Verdict.stages).foldl (fun k v => k.stage v.stream) k
      let ms := withinBudget k.msgNs (2 ^ 32) (k.polledLeft.getD 0) k.sendable
      let k := if ms.any (fun x => x.stream == 16381) then { k with plc := { k.plc with verdictCyc := k.cyc.cur } } else k
      k.sendMsgs (fun _ => true) ms
    else m)

/-! ### Decisions of the train placer (R357 to R359, R367) -/

/-- A declaration or removal is refused by the master (R357). -/
def Node.reject (n : Node) (q : PlcReq) (reason : Nat) : Node :=
  let m := ((n.inc Reg.PLC_REJ_CNT).setReg Reg.PLC_LAST_REJ (word (q.stream + reason * 65536))).raise 0x3801 q.stream reason
  let e := strmOf q.entry
  let v : Verdict := ⟨q.stream, 1, reason, 0, m.plcEpoch, q.tag, m.digest, e.words, []⟩
  { m with plc := { m.plc with verdicts := m.plc.verdicts ++ [v.bytes] } }.verdictDone v

/-- A stream admitted: its entry, its slots, the ledgers and the verdict. `seq` is its admission sequence. A message stream
holds no slots and is active at once (R353, R568). -/
def Node.place (n : Node) (s result tag seq : Nat) (e : Strm) (p : Nat × List (Copy × List Slotted)) (growth : Bool) : Node :=
  let dests := n.destsOf n.plcTable e
  let e' := { e with valid := true, phase := p.1, state := if e.cls = 2 then 2 else 1, admSeq := seq, dcount := dests.length, reason := 0,
                     growth := growth }
  let ps := slotsOf s e' p.2
  let m := (n.setStream s e' ps).account e' ps true
  let m := m.reserve
  let m := m.issue s result 0 tag e' ps
  (m.checkDeadline s e').verdictDone ⟨s, result, 0, seq, m.plcEpoch, tag, m.digest, e'.words, []⟩

/-- The time of an admission, which the spec does not compute: a free value (R386). -/
def Node.admitTime (n : Node) : Node :=
  let (m, w) := n.free
  m.setReg Reg.PLC_ADMIT_US w

/-- A declaration is decided (R357, R358). -/
def Node.decideReq (n : Node) (q : PlcReq) : Node :=
  let e := strmOf q.entry
  let old := n.strm q.stream
  let again := old.valid && old.src == e.src && old.pair == e.pair && (old.state == 0 || old.state == 5)
  match n.admitGrowth q.stream e (n.plc.joiners.contains q.requester) again with
  | .error r => n.reject q r
  | .ok (phase, placed, growth) =>
    let seq := (n.reg Reg.PLC_ADM_SEQ).toNat + 1
    ((n.setReg Reg.PLC_ADM_SEQ (word seq)).inc Reg.PLC_ADM_CNT).admitTime.place q.stream 0 q.tag seq e (phase, placed) growth

/-- A removal is carried out; the verdict carries the stream's own admission sequence. -/
def Node.remove (n : Node) (q : PlcReq) : Node :=
  let e := n.strm q.stream
  if !e.valid then n.reject q 7
  else
    let m := (n.account e (n.streamSlots q.stream) false).setStream q.stream noStrm []
    let m := m.reserve
    let v : Verdict := ⟨q.stream, 2, 0, e.admSeq, m.plcEpoch, q.tag, m.digest, e.words, []⟩
    { m with plc := { m.plc with verdicts := m.plc.verdicts ++ [v.bytes] } }.verdictDone v

/-- Verdicts held are sent again from an admission sequence on; from 0, the status placement too (R362). -/
def Node.resend (n : Node) (first : Nat) : Node :=
  let streams := sortBy (fun s => (n.strm s).admSeq) (n.validStreams.filter fun s =>
    !(n.strm s).fixed && decide (first ≤ (n.strm s).admSeq))
  let m := streams.foldl (fun m s => m.issue s (if (m.strm s).state = 3 then 4 else 0) 0 0xFFFF (m.strm s)
    ((m.streamSlots s).filter fun p => !p.old)) n
  if first ≠ 0 then m
  else m.ina.table.foldl (fun m e => m.issue 0 0 0 0xFFFF (statusStrm e.identity) (statusSlots m.plc.placed e.identity)) m

/-- The request that is decided next (R359, R373): a joiner's before any other, in ascending node number, else in order of
arrival. -/
def Node.nextRequest (n : Node) : Option PlcReq :=
  let joins := n.plc.queue.filter fun q => n.plc.joiners.contains q.requester
  let nums := sortBy id (joins.map fun q => ((n.entryOf q.requester).map (·.num)).getD 4095)
  match nums.head? with
  | some k => joins.find? fun q => ((n.entryOf q.requester).map (·.num)).getD 4095 == k
  | none => n.plc.queue.head?

/-- PLACEMENT_DECISION: the master decides the next request (R357 to R359). -/
def execPlacementDecision (time : Nat) (s : State) : Host.Outcome State Fault Refusal :=
  .next (s.on fun n =>
    let m := n.at time
    match m.master, m.nextRequest with
    | true, some q =>
      let k := { m with plc := { m.plc with queue := m.plc.queue.erase q } }
      if q.type = 1 then k.decideReq q else if q.type = 2 then k.remove q else if q.type = 3 then k.resend q.first else k
    | _, _ => m)

/-- PLACER_SWITCH_REQUEST: no earlier than the cycle after the last verdict's polled window, the placer asks for the switch
to the staged mode (R367). -/
def execPlacerSwitchRequest (time : Nat) (s : State) : Host.Outcome State Fault Refusal :=
  .next (s.on fun n =>
    let m := n.at time
    if m.master ∧ m.fld Reg.PLC_STATE Fld.PLC_STATE_STAGED = 1 ∧ m.plc.verdicts.isEmpty ∧
        !(m.plc.out.any fun x => x.stream == 16381) ∧ m.plc.verdictCyc < m.cyc.cur ∧
        m.cyc.request.isNone ∧ !(m.cyc.switch.any fun w => w.state != 3) then
      let k := m.restage
      { k with cyc := { k.cyc with request := some ⟨k.fld Reg.PLC_STATE Fld.PLC_STATE_STAGED_MODE, 0, 0, 0, 0xFFFF⟩ } }
    else m)

/-! ### Placement of a numbering (R352, R360, R361, R375) -/

/-- A copy placed around the slots that the stream has: a segment with a slot keeps it, the others are placed after it. -/
def extendCopy (j : Job) (phase : Nat) (have_ : List Placed) (c : Copy) : Option (List Slotted) :=
  c.segs.foldl (fun acc s => acc.bind fun d =>
    match have_.find? fun p => p.node == s.src && p.port == s.port && p.copy == c.index with
    | some p =>
      let up := s.before.bind fun i => d[i]?
      let late := match up with
        | some u => max (p.start * 10) (u.lateStart + u.seg.delay * 10 + residence u.seg s j.frame)
        | none => p.start * 10 + 1600
      some (d ++ [⟨s, p.start, late, late + s.wire j.frame⟩])
    | none => placeSeg j phase false d s) (some [])

/-- Every copy of a stream extended. -/
def extendAll (j : Job) (phase : Nat) (have_ : List Placed) (cs : List Copy) : Option (List (Copy × List Slotted)) :=
  (cs.foldl (fun (acc : Option (Job × List (Copy × List Slotted))) c =>
    acc.bind fun a => (extendCopy a.1 phase have_ c).map fun sl => (a.1.add phase sl, a.2 ++ [(c, sl)]))
    (some (j, []))).map (·.2)

/-- A stream extended around its slots, or the reason of R357 for which it cannot be (R375). -/
def Node.extension (n : Node) (s : Nat) (j : Job) (e : Strm) (have_ : List Placed) (cs : List Copy) (dests : List Nat) :
    Except Nat (List (Copy × List Slotted)) :=
  let late (p : Option (List (Copy × List Slotted))) : Bool :=
    match p with
    | some p => decide (e.deadline * 10 < deliveryOf p dests)
    | none => true
  if late (n.placeAlone s e j e.phase cs dests) then .error 3
  else match (n.account e have_ false).lacks n.plcTable e ((n.placeAlone s e j e.phase cs dests).getD []) dests with
  | some r => .error r
  | none =>
    match (extendAll j e.phase have_ cs).bind fun p => n.withCar s e j e.phase dests p with
    | some p => if late (some p) then .error 2 else .ok p
    | none => if roomSomewhere j cs then .error 2 else .error 1

/-- A stream is suspended: 1 source absent, 2 no destination (R352). -/
def Node.suspend (n : Node) (s why : Nat) : Node :=
  let e := n.strm s
  if e.state = 5 then n
  else
    let e' := { e with state := 5, dcount := 0 }
    let m := ((n.account e (n.streamSlots s) false).setStream s e' []).raise 0x3809 s why
    m.reserve.issue s 3 0 0xFFFF e' []

/-- A stream resolved against the new numbering (R352, R375). -/
def Node.resolve (n : Node) (s : Nat) : Node :=
  let e := n.strm s
  let tbl := n.plcTable
  let dests := n.destsOf tbl e
  if (n.sourcesOf tbl e).isEmpty then n.suspend s 1
  else if dests.isEmpty then n.suspend s 2
  else
    let cs := n.copiesOf tbl e
    let have_ := (n.streamSlots s).filter fun p => !p.old
    if e.state = 5 ∨ have_.isEmpty then
      if cs.isEmpty then n.suspend s 2
      else match n.admitGrowth s e false true with
        | .ok (phase, placed, growth) => n.place s 0 0xFFFF e.admSeq e (phase, placed) growth
        | .error _ => n
    else
      let segs := cs.flatMap fun c => c.segs.map fun g => (g.src, g.port, c.index)
      let keys := (have_.filter fun p => p.copy != carIndex).map fun p => (p.node, p.port, p.copy)
      if segs.all keys.contains && keys.all segs.contains then n
      else
        let j := { n.jobFor e with busy := ({ n with plc := { n.plc with
          placed := n.plc.placed.filter fun (p : Placed) => p.stream != s } }).busy }
        let ids := dests.map (·.identity)
        match n.extension s j e have_ cs ids with
        | .ok p =>
          let e' := { e with dcount := dests.length, state := if e.state = 4 then 2 else e.state, reason := 0 }
          let ps := slotsOf s e' p
          let m := ((n.account e have_ false).setStream s e' ps).account e' ps true
          m.reserve.issue s 3 0 0xFFFF e' ps
        | .error why =>
          let e' := { e with state := 4, reason := why }
          ((n.setStream s e' (n.streamSlots s)).raise 0x3903 s why).issue s 3 why 0xFFFF e' have_

/-- The streams that the placer placed, in admission order. -/
def Node.placedStreams (n : Node) : List Nat :=
  sortBy (fun s => (n.strm s).admSeq) (n.validStreams.filter fun s =>
    let e := n.strm s
    !e.fixed && e.cls != 2 && decide (0 < s))

/-- The status streams of the numbering to come are placed (R360); the status slots in force stay until the commit. -/
def Node.placeNumbering (n : Node) : Node :=
  match n.placeStatus with
  | none =>
    let m := match n.ina.announced with
      | some c => n.raise 0x2A03 (dMax n.plc.records) c.entries.length
      | none => n
    { m with ina := { m.ina with announced := none } }
  | some ps => { n with plc := { n.plc with statusEpoch := some n.plcEpoch, nextStatus := ps } }

/-- At its commit the master resolves every stream anew against the numbering (R352, R375). -/
def Node.resolveAll (n : Node) : Node := if n.master then n.placedStreams.foldl Node.resolve n else n

/-- NUMBERING_ASSIGNED: the master numbers a complete round, checks the bounds, and places the status streams of the new
numbering (R273 to R275, R360). -/
def execNumberingAssigned (time : Nat) (s : State) : Host.Outcome State Fault Refusal :=
  .next (s.on fun n =>
    let m := n.at time
    if m.mayAssign then
      let k := m.assign
      if k.ina.announced.isSome then k.placeNumbering else k
    else m)

/-! ### Moves and full re-placement (R369 to R371) -/

/-- The streams in the order of a full re-placement: descending priority, then ascending admission sequence (R370). -/
def Node.replaceOrder (n : Node) : List Nat :=
  sortBy (fun s => (15 - (n.strm s).prio) * 2 ^ 32 + (n.strm s).admSeq)
    (n.placedStreams.filter fun s => (n.strm s).state != 5)

/-- Every stream placed afresh on the current base mode: the streams with their new phases and slots, and how many find no
place. -/
def Node.replacePlan (n : Node) : List Move × Nat :=
  let bare := { n with plc := { n.plc with placed := n.plc.placed.filter fun (p : Placed) => p.stream == 0 } }
  let r := n.replaceOrder.foldl (fun (a : Node × List Move × Nat) s =>
    let e := a.1.strm s
    let dests := (a.1.destsOf a.1.plcTable e).map (·.identity)
    match a.1.firstPhase s e (a.1.jobFor e) (a.1.copiesOf a.1.plcTable e) dests with
    | some p =>
      let ps := slotsOf s { e with phase := p.1 } p.2
      ({ a.1 with plc := { a.1.plc with placed := a.1.plc.placed ++ ps } }, a.2.1 ++ [⟨s, p.1, ps⟩], a.2.2)
    | none => (a.1, a.2.1, a.2.2 + 1)) (bare, [], 0)
  r.2

/-- New slots are free of a set of slots (R356). -/
def freeOf (g : Nat) (new : List Placed) (cur : List Placed) : Bool :=
  new.all fun x => cur.all fun y =>
    x.node != y.node || x.port != y.port || !meets x.k x.phase y.k y.phase ||
    clear g x.start x.late x.wire ⟨y.node, y.port, y.k, y.phase, y.start, y.late, y.wire⟩

/-- The steps of the moves: each moves the streams whose new slots are free of all current slots, and drops their old ones. -/
def moveSteps (g : Nat) : Nat → List Placed → List Move → List (List Move) × Nat
  | 0, _, rest => ([], rest.length)
  | k + 1, cur, rest =>
    let (step, _) := rest.foldl (fun (a : List Move × List Placed) m =>
      if freeOf g m.slots a.2 then (a.1 ++ [m], a.2 ++ m.slots) else a) ([], cur)
    if step.isEmpty then ([], rest.length)
    else
      let moved := step.map (·.stream)
      let cur' := cur.filter (fun p => !moved.contains p.stream) ++ step.flatMap (·.slots)
      let (more, left) := moveSteps g k cur' (rest.filter fun m => !moved.contains m.stream)
      (step :: more, left)

/-- The next step of a full re-placement is issued: each stream holds its old and its new slots (R369). -/
def Node.stageMoves (n : Node) : Node :=
  match n.plc.moves with
  | [] => n
  | step :: more =>
    step.foldl (fun m v =>
      let e := { m.strm v.stream with phase := v.phase, state := 3 }
      let k := m.setStream v.stream e ((m.streamSlots v.stream).map (fun p => { p with old := true }) ++ v.slots)
      k.issue v.stream 4 0 0xFFFF e v.slots) { n with plc := { n.plc with moves := more } }

/-- REPLACEMENT_COMPUTED: the full re-placement is computed and its first step staged (R370); a `STREAM_REPLACE_ALL` that
waits completes with the steps planned. The computation time is a free value. -/
def execReplacementComputed (time : Nat) (s : State) : Host.Outcome State Fault Refusal :=
  .next (s.on fun n =>
    let m := n.at time
    if m.master ∧ m.fld Reg.PLC_STATE Fld.PLC_STATE_BUSY = 1 then
      let m := if m.mode < 4 then m.setFld Reg.PLC_STATE Fld.PLC_STATE_BASE m.mode else m
      let (plan, lost) := m.replacePlan
      let todo := plan.filter fun v => (m.streamSlots v.stream).map (fun p => (p.node, p.port, p.start, p.phase)) !=
        v.slots.map fun p => (p.node, p.port, p.start, p.phase)
      let (steps, left) := moveSteps m.limits.guard todo.length m.plc.placed todo
      let k := { m.setFld Reg.PLC_STATE Fld.PLC_STATE_BUSY 0 with plc := { m.plc with moves := steps } }
      let (k, w) := k.free
      let k := (k.setReg Reg.PLC_REPLACE_MS w).setFld Reg.PLC_STATE Fld.PLC_STATE_REPLACING (b2n (!steps.isEmpty))
      let k := if left + lost = 0 then k else k.raise 0x3905 (left + lost) 0
      (k.finishWaits (fun w => w.kind == 6) sOk [word steps.length]).stageMoves
    else m)

/-- The switch to a placer mode has taken effect (R367, R369): streams staged with it become active, and moves go on. -/
def Node.placerSwitched (n : Node) (cyc : Nat) : Node :=
  let m := n.plc.announcedStreams.foldl (fun m s =>
    let e := m.strm s
    if e.valid ∧ e.state = 1 then
      let k := m.putStrm s { e with state := 2 }
      let k := if k.isDest e then k.emptyTracker s else k
      if k.ownStream e then k.raise 0x3802 s cyc else k
    else m) { n with plc := { n.plc with announcedStreams := [] } }
  let moving := m.validStreams.filter fun s => (m.strm s).state == 3
  let m := moving.foldl (fun m s =>
    if (m.streamSlots s).any (·.old) then
      { m with plc := { m.plc with placed := m.plc.placed.filter fun (p : Placed) => p.stream != s || !p.old } }.stage s
    else m.putStrm s { m.strm s with state := 2 }) m
  let m := m.setFld Reg.INA_STATE Fld.INA_STATE_JOINER 0
  let m := if m.master then m.stageMoves else m
  let busy := !m.plc.moves.isEmpty || m.validStreams.any fun s => (m.strm s).state == 3
  (m.setFld Reg.PLC_STATE Fld.PLC_STATE_REPLACING (b2n busy)).reserve

/-- The switch from a placer mode to an image mode (R371): the streams that only placer modes carry stop, the image mode
becomes the base mode, and the master admits them again in admission order. -/
def Node.imageSwitched (n : Node) (mode : Nat) : Node :=
  let streams := n.placedStreams
  let m := streams.foldl (fun m s => m.account (m.strm s) (m.streamSlots s) false) n
  let m := m.setFld Reg.PLC_STATE Fld.PLC_STATE_BASE mode
  let m := { m with plc := { m.plc with placed := m.plc.placed.filter (fun (p : Placed) => p.stream == 0), moves := [], staging := [],
                                        announcedStreams := [] } }
  let m := (m.setFld Reg.PLC_STATE Fld.PLC_STATE_STAGED 0).setFld Reg.PLC_STATE Fld.PLC_STATE_REPLACING 0
  let m := streams.foldl (fun m s => m.putStrm s { m.strm s with state := 0 }) m
  if !m.master then m.reserve
  else streams.foldl (fun m s =>
    let q : PlcReq := ⟨1, s, 0xFFFF, m.identity, (m.strm s).words, 0, 0, 0⟩
    m.decideReq q) m.reserve

/-! ### Commands (R384) -/

/-- The size of an instance of an audio stream: 16 + N × b for the rate and the format of AUD_GLOBAL (R485, R486). -/
def Node.audioSize (n : Node) (k : Nat) : Nat :=
  16 + 2 ^ k * n.tc * n.fs / 1000000000 * (if n.aud.global.pcm24 then 3 else 2)

/-- The checks of a declaration's fields and of its source (R350, R351), and of an audio declaration (R486). -/
def Node.badDeclare (n : Node) (s : Nat) (e : Strm) (w : List Word) : Bool :=
  let v (i : Nat) : Nat := (w.getD i 0#32).toNat
  decide (s = 0 ∨ 16380 ≤ s) || decide (2 < e.cls) || e.lines == 0 || decide (e.dkind = 0 ∨ 6 < e.dkind) ||
  decide (10 < e.k) || decide (e.size = 0 ∨ 1468 < e.size) || decide (e.deadline < 4000 ∨ 2 ^ e.k * n.tc < e.deadline) ||
  e.phase != 0 || e.state != 0 || e.admSeq != 0 || e.reason != 0 || v 2 / 256 % 256 != 0 || v 4 / 2 ^ 14 % 4 != 0 ||
  v 4 / 2 ^ 27 != 0 || v 7 / 2 ^ 18 != 0 || (e.pair && v 1 % 65536 != 0) || !n.ownStream e ||
  (e.cls == 1 && (e.size != n.audioSize e.k || decide (2 ^ e.k * n.tc < e.deadline + 50000)))

/-- Reason 6 of R357: an open context declares a secure stream, or a stream of a secure PDT or AUD block. -/
def Node.badWorld (n : Node) (ctx : Nat) (e : Strm) : Bool :=
  !n.ctxSecure ctx && (e.secure || (e.cls == 0 && n.instSecure 29) || (e.cls == 1 && n.instSecure 31))

/-- STREAM_DECLARE (R357, R362, R367, R384). -/
def execStreamDeclare (c : Cmd) (s : State) : Host.Outcome State Fault Refusal :=
  .next (s.runs c 0x0201 fun n => n.command c .either 9 fun m =>
    let w := (List.range 8).map fun i => argW c (1 + i)
    let e := strmOf w
    if m.badDeclare (arg c 0) e w then .fail m sArgs
    else if m.badWorld c.ctx e then
      .done (((m.inc Reg.PLC_REJ_CNT).setReg Reg.PLC_LAST_REJ (word (arg c 0 + 6 * 65536))).raise 0x3801 (arg c 0) 6) sWorld [6#32]
    else if m.st ≠ stRun then .fail m sState
    else
      let (k, tag) := m.request 1 (arg c 0) 0 w
      .wait k 3 tag [])

/-- STREAM_REMOVE (R384): only the source removes a stream. -/
def execStreamRemove (c : Cmd) (s : State) : Host.Outcome State Fault Refusal :=
  .next (s.runs c 0x0202 fun n => n.command c (n.strmNeed (arg c 0)) 1 fun m =>
    if arg c 0 = 0 ∨ 16380 ≤ arg c 0 ∨ !(m.strm (arg c 0)).valid ∨ !m.ownStream (m.strm (arg c 0)) then .fail m sArgs
    else
      let (k, tag) := m.request 2 (arg c 0) 0 []
      .wait k 3 tag [])

/-- STREAM_QUERY (R384): the entry, zero for a secure entry from an open context. -/
def execStreamQuery (c : Cmd) (s : State) : Host.Outcome State Fault Refusal :=
  .next (s.runs c 0x0203 fun n => n.command c .either 1 fun m =>
    if 16384 ≤ arg c 0 then .fail m sArgs
    else if m.strmSecure (arg c 0) ∧ !m.ctxSecure c.ctx then .done m sOk (List.replicate 8 0#32)
    else .done m sOk (m.getRegs (Reg.STB_ENTRY (arg c 0)) 8))

/-- STREAM_REPLACE_ALL (R370, R384). -/
def execStreamReplaceAll (c : Cmd) (s : State) : Host.Outcome State Fault Refusal :=
  .next (s.runs c 0x0204 fun n => n.command c (.secure 28) 0 fun m =>
    if !m.master then .fail m sState
    else if m.fld Reg.PLC_STATE Fld.PLC_STATE_BUSY = 1 ∨ m.fld Reg.PLC_STATE Fld.PLC_STATE_REPLACING = 1 then .fail m sBusy
    else .wait (m.setFld Reg.PLC_STATE Fld.PLC_STATE_BUSY 1) 6 0 [])

/-- PLC_STATUS (R384). -/
def execPlcStatus (c : Cmd) (s : State) : Host.Outcome State Fault Refusal :=
  .next (s.runs c 0x0207 fun n => n.command c .either 0 fun m =>
    .done m sOk [m.reg Reg.PLC_STATE, m.reg Reg.PLC_ADM_SEQ, m.reg Reg.PLC_DIGEST])

end Sys2Proof.Machine
end

