-- ==== Sys2Proof/Machine/Pair.lean ====
section
/-! DEFINITION. The pair (chapter 09): the lease over the Jalder link and the heartbeat lines, the token, handover, and the
state copy (R398 to R441). Every rule counts in lease units (R407); the raw times of what was last seen give the units. -/

namespace Sys2Proof.Machine

/-! ### Lease units (R407) -/

/-- The states with cycles: INTEGRATE, NUMBERED, RUN and MUTE. -/
def Node.cycled (n : Node) : Bool := decide (stIntegrate ≤ n.st)

/-- The length of a lease unit in ns. -/
def Node.unitLen (n : Node) : Nat := if n.cycled then max n.tc 1 else 1000000

/-- The unit that a raw time lies in. -/
def Node.unitAt (n : Node) (raw : Nat) : Nat := (n.fineAt raw / 65536 / (n.unitLen : Int)).toNat

/-- The unit in progress. -/
def Node.unit (n : Node) : Nat := n.unitAt n.tm.raw

/-- Nothing was seen in the last `k` whole units; a path that has never carried anything has seen nothing. -/
def Node.quiet (n : Node) (seen : Option Nat) (k : Nat) : Bool :=
  match seen with
  | some t => decide (n.unitAt t + k < n.unit)
  | none => true

/-- `ns` of train time have passed since a raw time. -/
def Node.passed (n : Node) (since : Option Nat) (ns : Nat) : Bool :=
  match since with
  | some t => decide ((n.fineAt t / 65536) + ns ≤ n.trainNs)
  | none => true

/-- The later of two instants. -/
def laterOf (a b : Option Nat) : Option Nat :=
  match a, b with
  | some x, some y => some (max x y)
  | some x, none => some x
  | none, y => y

/-- The last contact with the partner on any path (R412). -/
def Node.contactAt (n : Node) : Option Nat := laterOf n.par.ctrlAt n.par.hbAt

/-! ### Token state (R405, R436) -/

/-- The codes of `PAR_TOKEN.STATE`. -/
def tkInit : Nat := 0
def tkHolder : Nat := 1
def tkStandby : Nat := 2

/-- The token state. -/
def Node.token (n : Node) : Nat := n.fld Reg.PAR_TOKEN Fld.PAR_TOKEN_STATE

/-- The node is unfit after an engine fault (R416). -/
def Node.unfit (n : Node) : Bool := n.fld Reg.PAR_TOKEN Fld.PAR_TOKEN_UNFIT == 1

/-- `FENCED` (R410). -/
def Node.fenced (n : Node) : Bool := n.fld Reg.PAR_TOKEN Fld.PAR_TOKEN_FENCED == 1

/-- The generation held or last seen. -/
def Node.generation (n : Node) : Nat := (n.reg Reg.PAR_TOKEN_GEN).toNat

/-- The standby is current (R426); at a holder, the partner's last CURRENT flag (R438). -/
def Node.current (n : Node) : Bool := n.fld Reg.PAR_REPL_STAT Fld.PAR_REPL_STAT_CURRENT == 1

/-- The bits of `PAR_TOKEN` and `JLK_STAT` that follow the units: `MISS`, and contact within the last 2 units. -/
def Node.syncPair (n : Node) : Node :=
  let near (t : Option Nat) : Bool := t.isSome && !n.quiet t 2
  let miss := match n.par.lease with
    | some t => min (n.unit - n.unitAt t - 1) 255
    | none => 0
  let m := (n.setFld Reg.PAR_TOKEN Fld.PAR_TOKEN_MISS miss).setFld Reg.PAR_TOKEN Fld.PAR_TOKEN_CONTACT
    (b2n (near n.contactAt))
  let m := (m.setBit Reg.JLK_STAT 2 (near n.par.ctrlAt)).setBit Reg.JLK_STAT 3 (near n.par.hbAt)
  m.setFld Reg.PAR_TOKEN Fld.PAR_TOKEN_HANDOVER (b2n n.par.handover.isSome)

/-- Time moves on to an event of the pair. -/
def Node.atPair (n : Node) (t : Nat) : Node := (n.at t).syncPair

/-- A generation has been seen; a node that does not hold the token shows the last one seen. -/
def Node.sawGen (n : Node) (g : Nat) : Node :=
  let m := { n with par := { n.par with genSeen := max n.par.genSeen g } }
  if m.token = tkHolder then m else m.setReg Reg.PAR_TOKEN_GEN (word g)

/-- The node becomes holder (R409, R410, R412, R414): the generation is one more than the highest seen, and no journal line
has been reported applied yet. `heard` starts the count of R408 (DEDUCED, log entry 30). -/
def Node.takeToken (n : Node) (heard : Bool) : Node :=
  let g := max n.par.genSeen n.generation + 1
  let m := (n.setReg Reg.PAR_TOKEN_GEN (word g)).setFld Reg.PAR_TOKEN Fld.PAR_TOKEN_FENCED 0
  let m := { m with par := { m.par with
    genSeen := g, lease := if heard then some m.tm.raw else none, handover := none, handTake := none, muteRun := 0,
    alone := false, base := [], snap := [], sent := [], sentWhole := false, renewAt := none, pass := none, buffer := [],
    resync := 0 } }
  let m := { m with brg := { m.brg with seqs := [] } }
  let m := (m.setFld Reg.PAR_REPL_STAT Fld.PAR_REPL_STAT_RESYNC 0).setFld Reg.PAR_REPL_STAT Fld.PAR_REPL_STAT_CURRENT
    (m.fld Reg.PAR_PARTNER Fld.PAR_PARTNER_CURRENT)
  ((m.setFld Reg.PAR_TOKEN Fld.PAR_TOKEN_STATE tkHolder).setFld Reg.PAR_TOKEN Fld.PAR_TOKEN_HANDOVER 0).syncDrivers

/-- TOKEN_ACQUIRED (R412, R414), unless the node is unfit (R416). -/
def Node.acquire (n : Node) (cause : Nat) : Node :=
  if n.unfit then n
  else
    let m := n.takeToken (cause != 2)
    m.raise 0x4005 cause m.generation

/-- The holder stops every action of R405 and becomes STANDBY (R408, R411, R414 to R416): its drivers go off (R418). -/
def Node.demote (n : Node) (cause : Nat) (fence : Bool) : Node :=
  let m := (n.setFld Reg.PAR_TOKEN Fld.PAR_TOKEN_STATE tkStandby).setFld Reg.PAR_TOKEN Fld.PAR_TOKEN_FENCED (b2n fence)
  let m := { m with par := { m.par with
    lease := some m.tm.raw, handTake := none, alone := false, pass := none, sent := [], snap := [], buffer := [],
    applied := none, appliedBefore := none, handover := if m.par.handAcked then none else m.par.handover,
    handAcked := false } }
  let m := (m.setFld Reg.PAR_REPL_STAT Fld.PAR_REPL_STAT_CURRENT 0).setFld Reg.PAR_REPL_STAT Fld.PAR_REPL_STAT_RESYNC 0
  m.syncDrivers.raise 0x4104 cause m.generation

/-- An ENGINE_FAULT in a paired node (R68, R416). -/
def Node.pairFault (n : Node) : Node :=
  if !n.paired then n
  else
    let m := (n.setFld Reg.PAR_TOKEN Fld.PAR_TOKEN_UNFIT 1).setFld Reg.PAR_REPL_STAT Fld.PAR_REPL_STAT_STOPPED 1
    if n.token = tkHolder then m.demote 3 true else m

/-! ### Jalder control frames (R399 to R401) -/

/-- The header of a Jalder control frame. -/
structure CtrlHdr where
  type : Nat
  flags : Nat
  unit : Nat
  gen : Nat
  deriving DecidableEq, Repr

/-- A control frame sent to the partner: 16-byte header, body, and the pad to 64 bytes. -/
def Node.ctrlSend (n : Node) (type flags unit : Nat) (body : List Byte) : Node :=
  let gen := if n.token = tkHolder then n.generation else n.par.genSeen
  let b := encBE 1 type ++ encBE 1 flags ++ encBE 2 body.length ++ encBE 4 unit ++ encBE 4 gen ++ zeros 4 ++ body
  n.send 12 { dst := addrJalder, src := n.identity, tag := none, etype := (n.reg Reg.SPN_ETYPE).toNat,
              body := b ++ zeros (46 - b.length) }

/-- A body length that fits a type (R400). -/
def ctrlFits (type len : Nat) : Bool :=
  if type = 3 then decide (len % 68 = 0) && decide (68 ≤ len) && decide (len ≤ 1428)
  else if type = 4 then len == 16
  else decide (1 ≤ type) && decide (type ≤ 7) && len == 8

/-- What a frame or a pulse of the partner shows of its token: 1 holder, 2 standby (R441). -/
def ctrlState (type : Nat) : Nat := if type = 1 ∨ type = 3 ∨ type = 4 ∨ type = 5 then 1 else 2

/-- Contact with the partner (R412, R413): a role-A node in INIT takes the token at a contact that is no renewal, and a
contact after PARTNER_LOST is reported; the master hears that the partner has appeared (R272). The count of R408 starts at a lone holder's first contact (DEDUCED, log entry 30). -/
def Node.contact (n : Node) (shown : Nat) (renewal : Bool) : Node :=
  let m := { n with par := { n.par with lost := false } }
  let m := if m.token = tkHolder ∧ m.par.lease.isNone then { m with par := { m.par with lease := some m.tm.raw } } else m
  if m.token = tkInit then
    if renewal then
      let k := ((m.setFld Reg.PAR_TOKEN Fld.PAR_TOKEN_STATE tkStandby).raise 0x4007 m.par.genSeen shown).notice 4 12
      { k with par := { k.par with resync := 1 } }
    else if m.roleB then m
    else ((m.raise 0x4007 m.par.genSeen shown).notice 4 12).acquire 1
  else if n.par.lost then (m.raise 0x4007 m.par.genSeen shown).notice 4 12
  else m

/-- A Jalder control frame of a type (R401): dropped without room in the control pool (R61); discarded and counted when its type,
its length or its source is wrong;
otherwise `act` gets its header and body after the contact has been noted. -/
def Node.ctrl (n : Node) (r : Rx) (type : Nat) (act : Node → CtrlHdr → List Byte → Node) : Node :=
  let m := (n.at r.stamp).echoBack r
  match m.rxFail r with
  | some e => m.rxCount r e
  | none =>
    let g := m.rxGood r
    if r.port = 12 ∧ r.frame.dst = addrJalder ∧ !ctrlAdmit r then g.ctrlDrop r
    else if r.port = 12 ∧ r.frame.dst = addrJalder then
      let b := r.frame.body
      let h : CtrlHdr := ⟨byteAt b 0, byteAt b 1, beAt b 4 4, beAt b 8 4⟩
      let len := beAt b 2 2
      if !ctrlFits h.type len || r.frame.src != g.partnerId || g.partnerId == 0 || !g.isSpine r.frame then
        g.inc Reg.JLK_CTRL_ERR
      else if h.type ≠ type then g
      else
        let k := { g.sawGen h.gen with par := { (g.sawGen h.gen).par with ctrlAt := some g.tm.raw } }
        let k := k.setFld Reg.PAR_PARTNER Fld.PAR_PARTNER_VALID 1
        (act (k.contact (ctrlState h.type) (h.type == 1)) h (slice b 16 len)).syncPair
    else g

/-! ### Renewals and acknowledgements (R403, R407) -/

/-- A heartbeat pulse driven. -/
def Node.pulse (n : Node) (rise high : Nat) : Node :=
  { n with par := { n.par with pulses := n.par.pulses ++ [(rise, high)] } }

/-- The pair record fits heartbeat lines. -/
def Node.hbFitted (n : Node) : Bool := n.fld Reg.PAR_CFG Fld.PAR_CFG_HB == 1

/-- The full pass that an acknowledgement shows: wanted or running. -/
def Node.ackFlags (n : Node) : Nat :=
  b2n n.current + b2n n.unfit * 2 + b2n (n.st == stRun) * 4 + b2n (n.st == stMute) * 8 + b2n (n.par.resync != 0) * 16

/-- The acknowledgement frame for a unit. -/
def Node.sendAck (n : Node) (unit : Nat) : Node := n.ctrlSend 2 n.ackFlags unit (encBE 4 (n.par.applied.getD 0) ++ zeros 4)

/-- A standby sees a renewal of a unit (R407, R410): the fence goes, unless an engine fault holds it (R416), and the renewal is acknowledged on both paths, once
for each unit. The pulse follows 40 µs after `edge`. -/
def Node.seeRenewal (n : Node) (unit edge : Nat) (byPulse : Bool) : Node :=
  let m := if n.unfit then n else n.setFld Reg.PAR_TOKEN Fld.PAR_TOKEN_FENCED 0
  let m := (m.setReg Reg.PAR_LEASE (word unit))
  let m := { m with par := { m.par with lease := some m.tm.raw, alone := false } }
  let first := match m.par.ackSent with
    | some t => decide (m.unitAt t ≠ m.unit)
    | none => true
  let m := if first then { m.sendAck unit with par := { (m.sendAck unit).par with ackSent := some m.tm.raw } } else m
  if !m.hbFitted then m
  else if first then m.pulse (edge + 40000) 24000
  else if byPulse then
    { m with par := { m.par with
      pulses := m.par.pulses.filter (fun p => !(p.2 == 24000 && decide (edge < p.1))) ++ [(edge + 40000, 24000)] } }
  else m

/-- An acknowledgement counts for the unit in which it arrives (R407, R408). -/
def Node.countAck (n : Node) : Node := { n with par := { n.par with lease := some n.tm.raw } }

/-- The unit in progress has had no renewal yet. -/
def Node.renewDue (n : Node) : Bool := n.par.renewAt.all fun t => decide (n.unitAt t ≠ n.unit)

/-- LEASE_RENEW_SEND (R403, R407): at the start of a unit the holder sends a renew frame and a renewal pulse, once, and repeats
the handover frame that is not acknowledged (R414). -/
def execLeaseRenewSend (time : Nat) (s : State) : Host.Outcome State Fault Refusal :=
  .next (s.on fun n =>
    let m := n.atPair time
    if m.paired ∧ m.token = tkHolder ∧ m.renewDue then
      let m := { m with par := { m.par with renewAt := some m.tm.raw } }
      let flags := b2n (m.st == stRun) + b2n (m.st == stMute) * 2 + b2n m.par.handover.isSome * 4
      let k := (m.ctrlSend 1 flags m.unit (encBE 4 m.par.sentCyc ++ zeros 4)).setReg Reg.PAR_LEASE (word m.unit)
      let k := if m.hbFitted then
          { k.pulse (m.tm.raw + 10000) 8000 with par :=
            { (k.pulse (m.tm.raw + 10000) 8000).par with pulseAt := some (m.tm.raw + 10000) } }
        else k
      match m.par.handover with
      | some h => if m.par.handAcked then k else k.ctrlSend 5 0 m.unit (encBE 4 h ++ zeros 4)
      | none => k
    else m)

/-- JALDER_RENEW_RECEIVED (R407, R410 to R412): a standby acknowledges; a holder compares generations and gives way to a
higher one, or to an equal one of role A. The renewal it has just seen leaves it unfenced (R410). -/
def execJalderRenewReceived (r : Rx) (s : State) : Host.Outcome State Fault Refusal :=
  .next (s.on fun n => n.ctrl r 1 fun m h _ =>
    let p := (m.setFld Reg.PAR_PARTNER Fld.PAR_PARTNER_HOLDER 1).setFld Reg.PAR_PARTNER Fld.PAR_PARTNER_RUN (h.flags % 2)
    let p := p.setFld Reg.PAR_PARTNER Fld.PAR_PARTNER_MUTE (h.flags / 2)
    let p := { p with par := { p.par with jlkAt := some p.tm.raw, lostJlk := false } }
    if p.token = tkStandby then p.seeRenewal h.unit p.tm.raw false
    else if p.token = tkHolder ∧ (p.generation < h.gen ∨ (p.generation = h.gen ∧ p.roleB = true)) then
      let q := (p.raise 0x420A p.generation h.gen).demote 5 false
      q.setReg Reg.PAR_TOKEN_GEN (word h.gen)
    else p)

/-- JALDER_ACK_RECEIVED (R407, R425, R437): the holder counts the acknowledgement of the unit in progress and takes what it
shows; lines of the copy it reports applied are due no more. -/
def execJalderAckReceived (r : Rx) (s : State) : Host.Outcome State Fault Refusal :=
  .next (s.on fun n => n.ctrl r 2 fun m h b =>
    let bit (i : Nat) : Nat := h.flags / 2 ^ i % 2
    let p := (m.setFld Reg.PAR_PARTNER Fld.PAR_PARTNER_HOLDER 0).setFld Reg.PAR_PARTNER Fld.PAR_PARTNER_CURRENT (bit 0)
    let p := (p.setFld Reg.PAR_PARTNER Fld.PAR_PARTNER_UNFIT (bit 1)).setFld Reg.PAR_PARTNER Fld.PAR_PARTNER_RUN (bit 2)
    let p := (p.setFld Reg.PAR_PARTNER Fld.PAR_PARTNER_MUTE (bit 3)).setFld Reg.PAR_PARTNER Fld.PAR_PARTNER_RESYNC (bit 4)
    let p := { p with par := { p.par with jlkAt := some p.tm.raw, lostJlk := false } }
    if p.token = tkHolder then
      let p := if h.unit = p.unit % 2 ^ 32 then p.countAck else p
      let p := (p.setFld Reg.PAR_REPL_STAT Fld.PAR_REPL_STAT_CURRENT (bit 0)).setReg Reg.PAR_REPL_CYC (word (beAt b 0 4))
      if p.par.sentWhole && beAt b 0 4 == p.par.sentCyc % 2 ^ 32 then
        let kept := p.par.base.filter fun x => !(p.par.sent.any fun y => y.1 == x.1)
        ({ p with par := { p.par with base := kept ++ p.par.sent, sent := [] } }).setFld Reg.PAR_REPL_STAT
          Fld.PAR_REPL_STAT_LAST_OK 1
      else p.setFld Reg.PAR_REPL_STAT Fld.PAR_REPL_STAT_LAST_OK 0
    else p)

/-- HEARTBEAT_PULSE_RECEIVED (R403): a pulse within the limits is a renewal at a node that does not hold the token and an
acknowledgement at the holder; any other is counted and ignored. -/
def execHeartbeatPulseReceived (rise high : Nat) (s : State) : Host.Outcome State Fault Refusal :=
  .next (s.on fun n =>
    let m := n.atPair (rise + high)
    if !m.paired || !m.hbFitted then m
    else
      let bad := m.inc Reg.PAR_HB_BAD
      let good : Node := { m with par := { m.par with hbAt := some m.tm.raw, lostHb := false } }
      if m.token = tkHolder then
        match m.par.pulseAt with
        | some e =>
          if e + 30000 ≤ rise ∧ rise ≤ e + 50000 ∧ 16000 ≤ high ∧ high ≤ 32000 then
            let k := good.contact 2 false
            (if m.unitAt rise = m.unitAt e then k.countAck else k).syncPair
          else bad
        | none => bad
      else if 4000 ≤ high ∧ high ≤ 12000 then
        let k := good.contact 1 true
        let k := { k with par := { k.par with pulseAt := some rise } }
        (k.seeRenewal k.unit rise true).syncPair
      else bad)

/-! ### Losing and taking the token (R404, R408 to R413) -/

/-- TOKEN_DEMOTED (R408): no acknowledgement for either of the last two units, or for 3 ms outside cycles. A holder that
has had no contact since it became holder is not demoted (DEDUCED, log entry 30). -/
def execTokenDemoted (time : Nat) (s : State) : Host.Outcome State Fault Refusal :=
  .next (s.on fun n =>
    let m := n.atPair time
    if m.token = tkHolder ∧ m.par.lease.isSome ∧
        (if m.cycled then m.quiet m.par.lease 2 else m.passed m.par.lease 3000000) = true then m.demote 1 true
    else m)

/-- The lease of the partner has run out at a standby: no renewal in four units, or for 5 ms outside cycles (R409). -/
def Node.leaseOver (n : Node) : Bool :=
  if n.cycled then n.quiet n.par.lease 4 else n.passed n.par.lease 5000000

/-- LEASE_TAKEOVER (R409, R427). -/
def execLeaseTakeover (time : Nat) (s : State) : Host.Outcome State Fault Refusal :=
  .next (s.on fun n =>
    let m := n.atPair time
    if m.token = tkStandby ∧ !m.fenced ∧ !m.unfit ∧ m.leaseOver then
      let k := (m.takeToken false).inc Reg.PAR_TAKEOVERS
      k.raise 0x4101 k.generation (m.par.applied.getD 0)
    else m)

/-- FENCE_RELEASE_TAKEOVER (R410): after a commit that does not list the partner, a standby that has seen no renewal for 4
consecutive units takes the token. -/
def execFenceReleaseTakeover (time : Nat) (s : State) : Host.Outcome State Fault Refusal :=
  .next (s.on fun n =>
    let m := n.atPair time
    if m.token = tkStandby ∧ m.par.alone ∧ m.quiet m.par.lease 4 then m.acquire 2 else m)

/-- SOLO_WAIT_EXPIRY (R412): no contact, and no commit taken, for the solo wait in INIT. -/
def execSoloWaitExpiry (time : Nat) (s : State) : Host.Outcome State Fault Refusal :=
  .next (s.on fun n =>
    let m := n.atPair time
    if m.paired ∧ m.token = tkInit ∧ m.contactAt.isNone ∧ m.ina.table.isEmpty ∧
        m.par.initAt + m.fld Reg.PAR_CFG Fld.PAR_CFG_SOLO_WAIT * 1000000000 ≤ m.tm.raw then m.acquire 2
    else m)

/-- PARTNER_LOST (R413): a holder has heard nothing, or a standby has seen no renewal, for 2 units; the master hears that the
partner has disappeared (R272). -/
def execPartnerLost (time : Nat) (s : State) : Host.Outcome State Fault Refusal :=
  .next (s.on fun n =>
    let m := n.atPair time
    let gone := if m.token = tkHolder then m.quiet m.contactAt 2 else m.token == tkStandby && m.quiet m.par.lease 2
    if m.paired ∧ gone ∧ !m.par.lost then
      let last := match m.contactAt with
        | some t => m.unitAt t
        | none => 0
      ({ m with par := { m.par with lost := true } }.raise 0x4106 last 0).notice 4 12
    else m)

/-- PAIR_PATH_LOST (R404): one path has carried nothing for 2 units while the other still carries. -/
def execPairPathLost (path time : Nat) (s : State) : Host.Outcome State Fault Refusal :=
  .next (s.on fun n =>
    let m := n.atPair time
    let gone (a b : Option Nat) : Bool :=
      m.paired && m.hbFitted && a.isSome && m.quiet a 2 && b.isSome && !m.quiet b 2
    if path = 1 then
      if gone m.par.jlkAt m.par.hbAt ∧ !m.par.lostJlk then
        { m with par := { m.par with lostJlk := true } }.raise 0x4109 1 m.unit
      else m
    else if gone m.par.hbAt m.par.jlkAt ∧ !m.par.lostHb then
      { m with par := { m.par with lostHb := true } }.raise 0x4109 2 m.unit
    else m)

/-- The partner node is listed in a numbering: by its identity, or as the other node of a pair in the own vehicle. -/
def Node.partnerListed (n : Node) : Bool :=
  let own := (n.entryOf n.identity).getD ⟨0, 0, 0, false, false, false, false, 0, 0⟩
  n.ina.table.any fun e => (e.identity == n.partnerId && n.partnerId != 0) ||
    (e.paired && e.pos == own.pos && e.roleB != own.roleB)

/-- What an epoch commit does to the token (R410, R412). -/
def Node.pairCommit (n : Node) : Node :=
  if !n.paired || n.partnerListed then n
  else if n.token = tkInit then (if n.contactAt.isNone then n.acquire 2 else n)
  else if n.token = tkStandby ∧ n.fenced ∧ !n.unfit then
    { n.setFld Reg.PAR_TOKEN Fld.PAR_TOKEN_FENCED 0 with par :=
      { (n.setFld Reg.PAR_TOKEN Fld.PAR_TOKEN_FENCED 0).par with alone := true } }
  else n

/-! ### Handover (R414, R415) -/

/-- The holder starts a handover at a cycle: it sends the first handover frame. -/
def Node.startHandover (n : Node) (h cause : Nat) : Node :=
  let m := { n with par := { n.par with handover := some h, handAcked := false, handCause := cause } }
  (m.ctrlSend 5 0 m.unit (encBE 4 h ++ zeros 4)).syncPair

/-- JALDER_HANDOVER_RECEIVED (R414): a standby acknowledges the handover cycle. -/
def execJalderHandoverReceived (r : Rx) (s : State) : Host.Outcome State Fault Refusal :=
  .next (s.on fun n => n.ctrl r 5 fun m _ b =>
    if m.token = tkStandby ∧ !m.unfit then
      let k := m.ctrlSend 6 0 m.unit (slice b 0 4 ++ zeros 4)
      { k with par := { k.par with handTake := some (extend32 k.unit (beAt b 0 4)) } }
    else m)

/-- JALDER_HANDOVER_ACK_RECEIVED (R414): the standby has acknowledged H; the command completes. -/
def execJalderHandoverAckReceived (r : Rx) (s : State) : Host.Outcome State Fault Refusal :=
  .next (s.on fun n => n.ctrl r 6 fun m _ b =>
    match m.par.handover with
    | some h =>
      if m.token = tkHolder ∧ beAt b 0 4 = h % 2 ^ 32 ∧ !m.par.handAcked then
        ({ m with par := { m.par with handAcked := true } }).finishWaits (fun w => w.kind == 7) sOk []
      else m
    | none => m)

/-- HANDOVER_EXECUTE (R414, R415): at t_H the holder stops. -/
def execHandoverExecute (time : Nat) (s : State) : Host.Outcome State Fault Refusal :=
  .next (s.on fun n =>
    let m := n.atPair time
    match m.par.handover with
    | some h =>
      if m.token = tkHolder ∧ m.par.handAcked ∧ h ≤ m.unit then
        (({ m with par := { m.par with handover := none, handAcked := false } }).demote m.par.handCause false).syncPair
      else m
    | none => m)

/-- HANDOVER_TAKE (R414): a standby that has acknowledged H becomes holder at t_(H+1). -/
def execHandoverTake (time : Nat) (s : State) : Host.Outcome State Fault Refusal :=
  .next (s.on fun n =>
    let m := n.atPair time
    match m.par.handTake with
    | some h => if m.token = tkStandby ∧ h + 1 ≤ m.unit then m.acquire 3 else m
    | none => m)

/-- HANDOVER_TIMEOUT (R414): no acknowledgement before t_(H-1); the holder keeps the token. -/
def execHandoverTimeout (time : Nat) (s : State) : Host.Outcome State Fault Refusal :=
  .next (s.on fun n =>
    let m := n.atPair time
    match m.par.handover with
    | some h =>
      if !m.par.handAcked ∧ h ≤ m.unit + 1 then
        (({ m with par := { m.par with handover := none } }).finishWaits (fun w => w.kind == 7) sTimeout []).syncPair
      else m
    | none => m)

/-- MUTE_HANDOVER (R415): a holder in MUTE for 8 cycles hands over to a standby that is current, fit and in RUN. -/
def execMuteHandover (time : Nat) (s : State) : Host.Outcome State Fault Refusal :=
  .next (s.on fun n =>
    let m := n.atPair time
    let f (x : Field) : Nat := m.fld Reg.PAR_PARTNER x
    if m.paired ∧ m.token = tkHolder ∧ 8 ≤ m.par.muteRun ∧ m.par.handover.isNone ∧ f Fld.PAR_PARTNER_CURRENT = 1 ∧
        f Fld.PAR_PARTNER_RUN = 1 ∧ f Fld.PAR_PARTNER_UNFIT = 0 then m.startHandover (m.unit + 2) 4
    else m)

/-! ### State copy (R421 to R429) -/

/-- The journal lines of pair-shared shares (R421). -/
def Node.sharedLines (n : Node) : List Nat :=
  (List.range 8).flatMap fun c =>
    if n.fld (Reg.HST_CTX_CFG c) Fld.HST_CTX_CFG_SHARED = 1 then
      List.range' (n.reg (Reg.JRN_CTX_BASE c)).toNat (n.reg (Reg.JRN_CTX_SIZE c)).toNat
    else []

/-- The contents of a journal line. -/
def Node.lineBytes (n : Node) (i : Nat) : List Byte := (n.getRegs (Reg.JRN_ENTRY i) 16).flatMap fun w => encLE 4 w.toNat

/-- A line as the standby last reported it applied; zero before any report. -/
def Node.baseLine (n : Node) (i : Nat) : List Byte := ((n.par.base.find? fun x => x.1 == i).map (·.2)).getD (zeros 64)

/-- The replication phase of the cycle in progress, from and to in ns of the cycle (R423). -/
def Node.replPhase (n : Node) : Nat × Nat :=
  match n.curMode with
  | some m => (4000 + m.sched, n.tc - m.guard)
  | none => (0, 0)

/-- The length of the replication phase in ns, which is also the budget in bytes (R423). -/
def Node.replBudget (n : Node) : Nat :=
  match n.curMode with
  | some m => n.tc - 4000 - m.sched - m.guard
  | none => 0

/-- The snapshot of a cycle (R422): the journal lines that differ from what the standby has reported applied, as they are
now; and what each cycle does to the pair: MUTE is counted (R415), a standby without the copy of the cycle before is not
current (R426), and the budget of the mode is shown (R423). -/
def Node.pairBoundary (n : Node) : Node :=
  if !n.paired then n
  else
    let m := n.setReg Reg.PAR_REPL_BUDGET (word n.replBudget)
    let m := { m with par := { m.par with muteRun := if m.st = stMute then m.par.muteRun + 1 else 0 } }
    let m : Node :=
      if m.token = tkHolder then
        let due := (m.sharedLines.map fun i => (i, m.lineBytes i)).filter fun x => x.2 != m.baseLine x.1
        { m with par := { m.par with snap := due, snapCyc := m.cyc.cur } }
      else if m.par.applied != some (m.cyc.cur - 1) then m.setFld Reg.PAR_REPL_STAT Fld.PAR_REPL_STAT_CURRENT 0
      else m
    m.syncPair

/-- The records that fit the bytes of a budget, the copy end frame counted (R423). -/
def replRecords (budget : Nat) : Nat := 21 * ((budget - 84) / 1482) + ((budget - 84) % 1482 - 54) / 68

/-- Lists of at most 21 records. -/
def inFrames : Nat → List (Nat × List Byte) → List (List (Nat × List Byte))
  | 0, _ => []
  | _, [] => []
  | k + 1, x :: xs => (x :: xs).take 21 :: inFrames k ((x :: xs).drop 21)

/-- The 68 bytes of a line record. -/
def recordBytes (x : Nat × List Byte) : List Byte := encBE 4 x.1 ++ slice x.2 0 64

/-- The lines that hold service state, placer state and counters: their layout is not given, so which of them are written,
and what they hold, are free (DESIGN CHOICE, log entry 31). -/
def Node.serviceLines (n : Node) : List (Nat × List Byte) :=
  (List.range' 8192 8192).filterMap fun i =>
    if Config.lineWritten n.fresh i then some (i, (List.range 64).map (Config.lineByte n.fresh i)) else none

/-- The bytes that a copy begun now may take: the budget, and what the wire carries before the phase ends (R423). -/
def Node.replRoom (n : Node) : Nat :=
  min n.replBudget ((n.replPhase.2 - (n.trainNs % (n.tc : Int)).toNat) * 5 / 4)

/-- STATE_COPY_SEND (R422 to R424, R429): once in the replication phase of a cycle the holder sends the lines due, then the
lines of a full pass up to the budget, and the copy end frame. -/
def execStateCopySend (time : Nat) (s : State) : Host.Outcome State Fault Refusal :=
  .next (s.on fun n =>
    let m := n.atPair time
    let into := (m.trainNs % (m.tc : Int)).toNat
    if !(m.paired && m.token == tkHolder && m.cycled && decide (m.replPhase.1 ≤ into) && decide (into < m.replPhase.2)) then m
    else
      let stop := !m.linkUp 12 || m.unfit
      let m := m.setFld Reg.PAR_REPL_STAT Fld.PAR_REPL_STAT_STOPPED (b2n stop)
      if stop || m.par.snapCyc != m.cyc.cur || m.par.sentCyc == m.par.snapCyc then m
      else
        let room := replRecords m.replRoom
        let due := m.par.snap ++ m.serviceLines
        let rest : List (Nat × List Byte) := match m.par.pass with
          | some p => ((m.sharedLines ++ List.range' 8192 8192).filter fun i => decide (p ≤ i)).map fun i =>
              (i, if i < 8192 then m.lineBytes i else (List.range 64).map (Config.lineByte m.fresh i))
          | none => []
        let now := due.take room
        let passNow := rest.take (room - now.length)
        let all := now ++ passNow
        let left := due.length - now.length
        let passLeft := rest.length - passNow.length
        let done := m.par.pass.isSome && passLeft == 0
        let next : Option (Nat × List Byte) := (rest.drop passNow.length).head?
        let nextPass : Option Nat := if done || m.par.pass.isNone then none else next.map (·.1)
        let body := all.flatMap recordBytes
        let k := { m with fresh := m.fresh + 1 }.chkCopySent body
        let k := (inFrames all.length all).foldl (fun q f => q.ctrlSend 3 0 q.unit (f.flatMap recordBytes)) k
        let k := k.ctrlSend 4 (b2n (left != 0) + b2n done * 2) k.unit
          (encBE 4 all.length ++ encBE 4 (crc32c body) ++ encBE 4 m.par.snapCyc ++ zeros 4)
        let k := { k with par := { k.par with
          sent := if left = 0 then all else [], sentCyc := m.par.snapCyc, sentWhole := left == 0,
          pass := nextPass } }
        let k := (k.setFld Reg.PAR_REPL_STAT Fld.PAR_REPL_STAT_RESYNC (b2n k.par.pass.isSome)).setFld Reg.PAR_REPL_STAT
          Fld.PAR_REPL_STAT_PASS_LEFT passLeft
        let k := k.setBits Reg.PAR_REPL_LINES 16 15 left
        if left = 0 then k.setBits Reg.PAR_REPL_LINES 0 15 all.length
        else ((k.setFld Reg.PAR_REPL_STAT Fld.PAR_REPL_STAT_LAST_OK 0).inc Reg.PAR_REPL_OVR).raise 0x4202 m.par.snapCyc left)

/-- JALDER_COPY_RECEIVED (R425): the standby holds the records of the copy. -/
def execJalderCopyReceived (r : Rx) (s : State) : Host.Outcome State Fault Refusal :=
  .next (s.on fun n => n.ctrl r 3 fun m _ b =>
    if m.token = tkStandby ∧ !m.unfit then
      let recs := (List.range (b.length / 68)).map fun i => (beAt b (68 * i) 4 % 16384, slice b (68 * i + 4) 64)
      { m with par := { m.par with buffer := m.par.buffer ++ recs, resync := if m.par.resync = 1 then 2 else m.par.resync } }
    else m)

/-- The own journal entry that a holder's line stands for (R421): the line's place in the holder's share of a pair-shared
context, whose first entry at the holder no frame carries (DESIGN CHOICE, log entry 31). -/
def Node.ownLine (n : Node) (i : Nat) : Option (Nat × Nat) :=
  ((List.range 8).find? fun c =>
    n.fld (Reg.HST_CTX_CFG c) Fld.HST_CTX_CFG_SHARED == 1 && decide ((Config.partnerShare c).toNat ≤ i) &&
    decide (i < (Config.partnerShare c).toNat + (n.reg (Reg.JRN_CTX_SIZE c)).toNat)).map fun c =>
      (c, (n.reg (Reg.JRN_CTX_BASE c)).toNat + (i - (Config.partnerShare c).toNat))

/-- One record applied; a journal entry written by the copy carries `REPLICATED` (R653). -/
def Node.applyLine (n : Node) (x : Nat × List Byte) : Node :=
  if x.1 < 8192 then
    match n.ownLine x.1 with
    | some (_, e) =>
      let m := n.setRegs (Reg.JRN_ENTRY e) (wordsLE x.2 16)
      if m.jrnValid e then (m.setBit (Reg.JRN_ENTRY e + 4) 22 true).jrnSeal e else m
    | none => n
  else { n with par := { n.par with lines := n.par.lines.filter (fun y => y.1 != x.1) ++ [x] } }

/-- The share of a pair-shared context after a copy: the entries it holds, and the next to write after the newest. -/
def Node.recountShare (n : Node) (c : Nat) : Node :=
  let base := (n.reg (Reg.JRN_CTX_BASE c)).toNat
  let size := (n.reg (Reg.JRN_CTX_SIZE c)).toNat
  let held := (List.range size).countP fun i => n.jrnValid (base + i)
  let next := if held < size then held
    else (((List.range size).find? fun i => seqPrecedes (n.jrnSeq (base + (i + 1) % max size 1)) (n.jrnSeq (base + i))).getD 0
      + 1) % max size 1
  ({ n with host := { n.host with shares := modifyAt n.host.shares c fun _ => ⟨next, held⟩ } }).syncJrn c

/-- The wait of a resubmission of a command that runs at the partner (R641). -/
def waitDup : Nat := 15

/-- Resubmissions that waited for an outcome which the copy now gives complete with DUPLICATE (R641). -/
def Node.settleDups (n : Node) : Node :=
  (n.host.waits.filter fun w => w.kind == waitDup && n.jrnOutcome w.key != 0xFE).foldl (fun m w =>
    let k := { m with host := { m.host with waits := m.host.waits.erase w } }
    k.post w.ctx w.ring w.seq w.opcode 1 (k.jrnOutcome w.key) ((w.aux.headD 0#32).toNat * 2)
      (k.getRegs (Reg.JRN_ENTRY w.key + 40) 4)) n

/-- A copy that is complete and checked is applied all at once (R425, R426). -/
def Node.applyCopy (n : Node) (cyc flags : Nat) : Node :=
  let m := n.par.buffer.foldl Node.applyLine n
  let m := ((List.range 8).filter fun c => n.fld (Reg.HST_CTX_CFG c) Fld.HST_CTX_CFG_SHARED == 1).foldl Node.recountShare m
  let m := m.settleDups
  let passDone := decide (flags / 2 % 2 = 1) && n.par.resync != 0
  let m := { m with par := { m.par with
    buffer := [], appliedBefore := if passDone then none else n.par.applied, applied := some cyc,
    resync := if passDone then 0 else n.par.resync } }
  let m := (m.setReg Reg.PAR_REPL_CYC (word cyc)).setFld Reg.PAR_REPL_STAT Fld.PAR_REPL_STAT_LAST_OK 1
  let m := (m.setBits Reg.PAR_REPL_LINES 0 15 n.par.buffer.length).setFld Reg.PAR_REPL_STAT Fld.PAR_REPL_STAT_RESYNC
    (b2n (m.par.resync == 2))
  if m.par.resync = 0 ∧ m.par.appliedBefore = some (cyc - 1) ∧ m.cyc.cur ≤ cyc + 1 ∧ !m.current then
    (m.setFld Reg.PAR_REPL_STAT Fld.PAR_REPL_STAT_CURRENT 1).raise 0x4008 cyc 0
  else m

/-- A copy that is discarded (R425, R426). -/
def Node.discardCopy (n : Node) : Node :=
  let m := { n with par := { n.par with buffer := [] } }
  (m.setFld Reg.PAR_REPL_STAT Fld.PAR_REPL_STAT_CURRENT 0).setFld Reg.PAR_REPL_STAT Fld.PAR_REPL_STAT_LAST_OK 0

/-- JALDER_COPY_END_RECEIVED (R425, R426). -/
def execJalderCopyEndReceived (r : Rx) (s : State) : Host.Outcome State Fault Refusal :=
  .next (s.on fun n => n.ctrl r 4 fun m h b =>
    if m.token ≠ tkStandby ∨ m.unfit = true then m
    else if h.flags % 2 = 1 then m.discardCopy
    else
      let body := m.par.buffer.flatMap recordBytes
      let m := m.chkCopyReceived body (beAt b 4 4)
      if beAt b 0 4 ≠ m.par.buffer.length ∨ beAt b 4 4 ≠ crc32c body then m.discardCopy.inc Reg.PAR_REPL_CHK
      else m.applyCopy (extend32 m.cyc.cur (beAt b 8 4)) h.flags)

/-- RESYNC_REQUEST_SEND (R428): a standby that wants a full pass asks for it. -/
def execResyncRequestSend (time : Nat) (s : State) : Host.Outcome State Fault Refusal :=
  .next (s.on fun n =>
    let m := n.atPair time
    if m.token = tkStandby ∧ m.par.resync = 1 then m.ctrlSend 7 0 m.unit (zeros 8) else m)

/-- A full pass starts (R428). -/
def Node.startPass (n : Node) : Node :=
  { n.setFld Reg.PAR_REPL_STAT Fld.PAR_REPL_STAT_RESYNC 1 with par :=
    { (n.setFld Reg.PAR_REPL_STAT Fld.PAR_REPL_STAT_RESYNC 1).par with pass := some 0 } }

/-- JALDER_RESYNC_RECEIVED (R428): the holder starts a full pass unless one is in progress. -/
def execJalderResyncReceived (r : Rx) (s : State) : Host.Outcome State Fault Refusal :=
  .next (s.on fun n => n.ctrl r 7 fun m _ _ =>
    if m.token = tkHolder ∧ m.par.pass.isNone then m.startPass else m)

/-! ### Commands (R433) -/

/-- The instance of the PAR block (R646). -/
def instPar : Nat := 28

/-- Contact over the Jalder link (R414). -/
def Node.jlkContact (n : Node) : Bool := n.bit Reg.JLK_STAT 2

/-- PAIR_STATUS (R433). -/
def execPairStatus (c : Cmd) (s : State) : Host.Outcome State Fault Refusal :=
  .next (s.runs c 0x0A01 fun n => n.command c .either 0 fun m =>
    let k := if m.paired then m.syncPair else m
    .done k sOk [k.reg Reg.PAR_TOKEN, k.reg Reg.PAR_PARTNER, k.reg Reg.PAR_REPL_STAT, k.reg Reg.PAR_REPL_CYC])

/-- PAIR_HANDOVER (R414, R433). -/
def execPairHandover (c : Cmd) (s : State) : Host.Outcome State Fault Refusal :=
  .next (s.runs c 0x0A02 fun n => n.command c (.secure instPar) 1 fun m0 =>
    let m := m0.syncPair
    if !m.paired ∨ m.token ≠ tkHolder ∨ !m.jlkContact ∨ m.fld Reg.PAR_PARTNER Fld.PAR_PARTNER_CURRENT = 0 ∨
        m.fld Reg.PAR_PARTNER Fld.PAR_PARTNER_UNFIT = 1 then .fail m sState
    else if m.par.handover.isSome then .fail m sBusy
    else
      let h := if arg c 0 = 0 then m.unit + 2 else max (m.unit + 2) (extend32 m.unit (arg c 0))
      .wait (m.startHandover h 2) 7 0 [])

/-- PAIR_RESYNC (R428, R433). -/
def execPairResync (c : Cmd) (s : State) : Host.Outcome State Fault Refusal :=
  .next (s.runs c 0x0A03 fun n => n.command c (.secure instPar) 0 fun m0 =>
    let m := m0.syncPair
    if !m.paired ∨ m.token ≠ tkHolder ∨ !m.jlkContact then .fail m sState else .done m.startPass sOk [])

/-- Every tracker empty. -/
def Node.emptyTrackers (n : Node) : Node :=
  { n with regs := n.regs.filter (fun (x : Nat × Word) => decide (x.1 < Reg.PAR_TRK 0) || decide (Reg.PAR_TRK 16384 ≤ x.1)),
           par := { n.par with stale := [], kept := [] } }

/-- PAIR_TRK_RESET (R395, R433). -/
def execPairTrkReset (c : Cmd) (s : State) : Host.Outcome State Fault Refusal :=
  .next (s.runs c 0x0A04 fun n => n.command c (.secure instPar) 1 fun m =>
    if arg c 0 = 0xFFFF then .done m.emptyTrackers sOk []
    else if 1 ≤ arg c 0 ∧ arg c 0 ≤ 16379 then .done (m.emptyTracker (arg c 0)) sOk []
    else .fail m sArgs)

end Sys2Proof.Machine
end

