-- ==== Sys2Proof/Machine/Slots.lean ====
section
/-! DEFINITION. Slots (R212 to R224): taking buffers, sending originated frames, receiving and forwarding SLOT frames, status
frames (R218 to R220), overruns, and the trackers' part of a reception (R391 to R397). Where gates open and close is computed
from the slot list; what a queue does between is timing. -/

namespace Sys2Proof.Machine

/-! ### Slots in a cycle -/

/-- When a frame of a stream may leave on a port. -/
inductive Gate where
  /-- It starts at once: its gate is open. -/
  | now
  /-- It waits for the gate that opens at an offset. -/
  | wait (start : Nat)
  /-- Its gate has closed, or it has none. -/
  | closed
  deriving DecidableEq, Repr

/-- The gate that a frame ready at an offset finds on a port (R214). Slots of the frame's own copy come first. -/
def Node.gateFor (n : Node) (s ci p : Nat) (ready : Int) : Gate :=
  let all := n.slotList.filter fun x => x.stream == s && !x.orig && x.egress.testBit p && x.inCycle n.cycleNow
  let mine := all.filter fun x => (n.plc.placed.any fun (q : Placed) =>
    q.stream == s && q.node == n.identity && q.copy == ci && q.start == x.start)
  match (if mine.isEmpty then all else mine).find? fun x => decide (ready < n.gateClose p x.start) with
  | some x => if (x.start : Int) ≤ ready then .now else .wait x.start
  | none => .closed

/-- The ports on which this node forwards a stream's frames of a line: those of its slot list, or, while the node does not
hold its mode, those that its entry's placement or any of its modes gives (R789). -/
def Node.forwardPorts (n : Node) (s : Nat) (lineB : Bool) (ingress : Nat) : List Nat :=
  let entries := if n.curMode.isSome then n.slotList else n.cyc.modes.flatMap n.slotsIn
  let placed := if n.curMode.isSome then [] else n.myPlaced.filter fun (q : Placed) => q.stream == s && !q.orig
  (List.range 12).filter fun p => n.isLinePort p && n.portB p == lineB && p != ingress &&
    ((entries.any fun x => x.stream == s && !x.orig && x.egress.testBit p) || placed.any fun (q : Placed) => q.port == p)

/-! ### Taking a buffer (R220 to R223, R443, R448) -/

/-- The offset from the cycle start of a stream's take: 2,000 ns before the start of its instance, the earliest where a moving
stream has two slots (R221, R369). -/
def Node.takeOffset (n : Node) (s : Nat) : Option Int :=
  ((((n.slotList.filter fun x => x.stream == s && x.orig && x.inCycle n.cycleNow).map (·.start)).min?).map fun t => (t : Int) - 2000)

/-- The take instant of a stream is now (R221). -/
def Node.takeNow (n : Node) (s : Nat) : Bool := (n.takeOffset s).any n.atOffset

/-- What a take of a process or message stream sends: the latest buffer completed before the CORE cycle of the take, at age 0, or
the previous payload again at one more (R221, R222). Before any completion the payload is zero data (DESIGN CHOICE, log entry
35). -/
def Node.takeBuffer (n : Node) (s : Nat) : Node :=
  let e := n.strm s
  let cyc := n.cycleNow
  let t := n.txOf s
  let fresh (u : TxStream) : List Byte :=
    match (n.dsIndex s).bind n.dsAt with
    | some d => if d.consumed then slice u.latest 0 e.size else n.dsPayload e d cyc u
    | none => slice u.latest 0 e.size
  let late := t.fresh && coreCycle t.doneAt == coreCycle n.tm.raw
  let ready := if !t.fresh then none else if late then t.prior else some (t.latest, t.check)
  match ready with
  | some (data, check) =>
    n.putTx { t with send := fresh { t with latest := data, check := check }, fresh := late, prior := none, age := 0, aged := true,
                     pend := n.hasPolled }
  | none =>
    let send := if t.send.isEmpty then fresh t else t.send
    ((n.putTx { t with send := send, age := min (t.age + 1) 0xFFFF, aged := true, pend := n.hasPolled }).inc
      Reg.CYC_NOT_READY).raiseCounted 0x2102 s n.tc s

/-! ### Sending originated frames (R213, R218 to R220, R389) -/

/-- The status payload (R219). -/
def Node.statusPayload (n : Node) : List Byte :=
  let (ack, refuse, target, cyc, tint) := match n.cyc.switch with
    | some w => (w.acked, w.refused, w.target, w.cyc % 2 ^ 32, w.tint)
    | none => (false, false, 0, 0, 0)
  encBE 1 (n.mode + b2n ack * 8 + target % 8 * 16 + b2n refuse * 128) ++ encBE 1 (b2n n.holder) ++ zeros 2 ++ encBE 4 cyc ++
    encBE 4 tint ++ encBE 2 (min n.waitingBytes 0xFFFF) ++ zeros 2

/-- The answer to the switch as of this status frame (R239): what speaks against it may come and go. The master's own refusal
aborts it (R240). -/
def Node.reAnswer (n : Node) : Node :=
  match n.cyc.switch with
  | some w =>
    if w.state == 3 || !(w.acked || w.refused) then n
    else
      let bad := n.refusesSwitch w.target w.tint
      { n with cyc := { n.cyc with
        switch := some { w with acked := !bad, refused := bad }
        abort := if bad && n.master && w.state == 1 && n.cyc.abort == 0 then 2 else n.cyc.abort } }
  | none => n

/-- A switch that a status frame acknowledges or refuses is shown so (R252). -/
def Node.showAck (n : Node) : Node :=
  match n.cyc.switch with
  | some w => (n.setFld Reg.CYC_MODE_NEXT Fld.CYC_MODE_NEXT_ACKED (b2n w.acked)).setFld Reg.CYC_MODE_NEXT
      Fld.CYC_MODE_NEXT_REFUSED (b2n w.refused)
  | none => n

/-- A copy of an originated instance leaves on a port: direct on the port's line, or handed over for the other line with the
crossed copy index (R25, R152); a copy that cannot be handed over is counted (R402). -/
def Node.sendCopy (n : Node) (h : SpineHdr) (payload : List Byte) (p : Nat) : Node :=
  let role := if n.paired && n.roleB then 2 else 0
  let lineB := if p = 12 then !n.roleB else n.portB p
  let t := (n.reg Reg.TST_INJ_TARGET).toNat
  let hit := n.injMatch 5 t && t % 2 ^ 14 == h.sid && t.testBit (16 + b2n lineB)
  let out (m : Node) (f : Frame) : Node :=
    if hit && m.linkUp p then
      let check := encBE 4 (Nat.xor (beAt f.body 28 4) (m.reg Reg.TST_INJ_MASK).toNat)
      m.injUse.send p { f with body := f.body.take 28 ++ check ++ f.body.drop 32 }
    else m.send p f
  if p = 12 then
    if n.linkUp 12 then out n (n.spineFrame (addrLine lineB) { h with lineB := lineB, ci := role + 1 } payload)
    else n.inc Reg.JLK_XFEED_DROP
  else out n (n.spineFrame (addrLine lineB) { h with lineB := lineB, ci := role } payload)

/-- The originated slot that begins now: the one of the stream whose start is nearest. -/
def Node.slotNow (n : Node) (s : Nat) : Option SlotEntry :=
  let off := n.offsetAt n.tm.raw
  let far (x : SlotEntry) : Nat := ((x.start : Int) - off).natAbs
  (n.slotList.filter fun x => x.stream == s && x.orig && x.inCycle n.cycleNow).foldl (fun a x =>
    match a with
    | some y => if far x < far y then some x else some y
    | none => some x) none

/-- The header of an originated SLOT frame (R151, R222). -/
def Node.slotHdr (n : Node) (s : Nat) (t : TxStream) : SpineHdr :=
  let cyc := n.cycleNow
  { n.hdr 0x1 with sid := s, seq := seqOf (if s = 0 then 0 else (n.strm s).k) cyc, age := t.age, ageValid := t.aged,
                   pending := t.pend, cycle := cyc % 2 ^ 32 }

/-- ORIGINATED_SLOT_SEND (R213, R218, R389): in RUN the frame of a slot leaves on the slot's ports at its start. A node in MUTE
sends no SLOT frame (R225). -/
def execOriginatedSlotSend (stream time : Nat) (s : State) : Host.Outcome State Fault Refusal :=
  .next (s.on fun n =>
    let m := n.at time
    match m.slotNow stream with
    | some x =>
      if m.st = stRun ∧ m.atOffset x.start then
        let m := if stream = 0 then m.reAnswer else m
        let t := m.txOf stream
        let payload := if stream = 0 then m.statusPayload else t.send
        let h := m.slotHdr stream (if stream = 0 then { t with age := 0, aged := false } else t)
        let k := ((List.range 13).filter fun p => x.egress.testBit p).foldl (fun k p => k.sendCopy h payload p) m
        let k := match k.dsIndex stream with
          | some i => k.setBits (Reg.PDT_DS_SEQ i) 0 16 h.seq
          | none => k
        if stream = 0 then k.showAck else k
      else m
    | none => m)

/-! ### Receiving SLOT frames -/

/-- The frame comes directly from its originating node, or from the partner that handed it over: this node is its first
downstream node (R215, R398). -/
def Node.firstHop (n : Node) (r : Rx) (src : NumEntry) : Bool := (n.port r.port).farId == src.identity

/-- The starts of the originator's slots for a copy on the segment that leads here: those that its placement gives, two while it
moves (R369). No frame of the spec carries the slots of an image-fixed stream to the nodes that receive it: its start is a
free value (DESIGN CHOICE, log entry 68). -/
def Node.sourceStarts (n : Node) (r : Rx) (h : SpineHdr) (src : NumEntry) : List Nat :=
  let far := if r.port = 12 then 12 else (n.port r.port).farPort
  if h.sid != 0 && (n.strm h.sid).fixed then [(Config.fixedStart src.identity h.sid far).toNat]
  else (n.plc.placed.filter fun (p : Placed) => p.stream == h.sid && p.node == src.identity && p.orig && p.port == far &&
    (h.sid == 0 || p.copy == h.ci)).map (·.start)

/-- The signed difference from the expected ingress stamp, in ns (R215). -/
def Node.windowDiff (n : Node) (r : Rx) (h : SpineHdr) (start : Nat) : Int :=
  let cyc := extend32 n.cycleNow h.cycle
  n.fineAt r.stamp / 65536 - ((cyc * n.tc + start : Nat) : Int) - n.ingressDelay r.port / 65536

/-- The difference by which a frame misses the acceptance window of every slot that it may have left in, none when one takes it
or none is known (R215). The difference given is the smallest. -/
def Node.windowMiss (n : Node) (r : Rx) (h : SpineHdr) (src : NumEntry) : Option Int :=
  let ds := (n.sourceStarts r h src).map (n.windowDiff r h)
  if ds.any fun d => decide (d.natAbs ≤ 160) then none
  else ds.foldl (fun (a : Option Int) d => match a with
    | some x => if d.natAbs < x.natAbs then some d else some x
    | none => some d) none

/-- OUT_OF_WINDOW (R215, R255). -/
def Node.outOfWindow (n : Node) (h : SpineHdr) (d : Int) : Node :=
  let w := h.sid + h.src * 65536
  (((n.inc Reg.CYC_OUT_WIN).setReg Reg.CYC_LAST_OOW (word w)).setReg Reg.CYC_LAST_OOW_DT (sword d)).raiseLimited 0x2104
    h.sid n.tc w (detail d)

/-- STREAM_CLASH (R392): the entry is not valid, absent after an error in its memory (R73), or registers another source. The
status stream has no entry. -/
def Node.clashes (n : Node) (h : SpineHdr) (src : Option NumEntry) : Bool :=
  h.sid != 0 && (!(n.strmLive h.sid).valid || match src with
    | some x => !n.sourceIs (n.strm h.sid) x.identity
    | none => true)

def Node.clash (n : Node) (r : Rx) (h : SpineHdr) : Node :=
  (n.inc Reg.PAR_CLASH).raiseLimited 0x1A05 h.sid n.tc (h.sid + h.src * 65536) r.port

/-- EXPRESS_DROP (R58, R173). -/
def Node.expressDrop (n : Node) (r : Rx) (h : SpineHdr) : Node :=
  let m := if r.port < 12 then n.inc (Reg.SPN_EXP_DROP r.port) else n
  m.raisePort2 0x190C r.port h.sid r.port

/-- The offset at which a received frame is ready on an egress port: after the residence, and after its last bit where it
is stored (R49, R169). -/
def Node.readyAt (n : Node) (r : Rx) (p : Nat) : Int :=
  let res : Nat := 180 + (if n.secOn r.port then 40 else 0)
  let whole : Nat := if n.cutThrough r.port p then 0 else n.wireNs r.port r.frame
  n.offsetAt r.stamp + (res : Int) + (whole : Int)

/-- A SLOT frame sent on along its line (R214, R789). From LISTEN to NUMBERED the gates of TC6 are closed (R166, R259). -/
def Node.forwardSlot (n : Node) (r : Rx) (h : SpineHdr) (lineB : Bool) : Node :=
  if !n.gated then n
  else (n.forwardPorts h.sid lineB r.port).foldl (fun m p =>
    let t := m.egressOf r p
    let out : Frame := m.corrected r.port r.stamp t r.frame
    if m.curMode.isNone then m.passAt r p out t
    else match m.gateFor h.sid h.ci p (m.readyAt r p) with
      | .now => m.passAt r p out t
      | .wait _ => { m with net := { m.net with transit := m.net.transit ++ [Transit.mk h.sid p r.port r.stamp r.frame] } }
      | .closed => m.clsDrop p 6) n

/-- The ports on which a frame that fails a check at its end has begun cut-through (R158): those whose gate opened before
the frame's last bit. -/
def Node.begun (n : Node) (r : Rx) (h : SpineHdr) (lineB : Bool) : List Nat :=
  let fin := n.offsetAt r.stamp + (n.wireNs r.port r.frame : Int)
  (n.forwardPorts h.sid lineB r.port).filter fun p => n.gated && n.mayLeave p r.frame && n.cutThrough r.port p &&
    (n.curMode.isNone || match n.gateFor h.sid h.ci p (n.readyAt r p) with
      | .now => true
      | .wait s => decide ((s : Int) < fin)
      | .closed => false)

/-- A SLOT frame that fails a check at its end (R158, R171, R172): counted under the check, and stomped on every port on
which it has begun; the node that stomps it first reports it. -/
def Node.slotStomp (n : Node) (r : Rx) (e : RxFail) : Node :=
  let h := decodeHdr r.frame.body
  let m := n.rxCount r e
  let src := n.nodeIn h.epoch h.src
  if stompReason e = 0 ∧ e ≠ .stomped ∨ n.hdrBad r h ∨ n.epochBad h ∨ h.kind ≠ 1 ∨ (r.port ≠ 12 ∧ !n.joined r.port) ∨
      n.clashes h src ∨ r.room < frameCells r.frame then m
  else (n.begun r h (n.rxLine r h)).foldl (fun k p =>
    let out : Frame := k.corrected r.port r.stamp (k.egressOf r p) r.frame
    if e = .stomped then k.sendStomped p out else k.stompFirst p out (stompReason e)) m

/-- The reception of a SLOT frame (R158, R173, R215, R217, R392): its checks in order, then its forwarding, then `deliver`.
Only frames of the wanted kind of stream are taken: status frames, or streams with an entry. -/
def Node.slotFrame (n : Node) (r : Rx) (status : Bool) (deliver : Node → SpineHdr → NumEntry → List Byte → Bool → Node) :
    Node :=
  let m := (n.at r.stamp).echoBack r
  match m.rxFail r with
  | some e => m.slotStomp r e
  | none =>
    let h := decodeHdr r.frame.body
    let g := m.rxGood r
    if !g.isSpine r.frame ∨ h.kind ≠ 1 ∨ g.crossed r.port ∨ (h.sid = 0) ≠ (status = true) ∨ (r.port ≠ 12 ∧ !g.joined r.port) then g
    else if r.room < frameCells r.frame then g.expressDrop r h
    else
      let src := g.nodeIn h.epoch h.src
      let lineB := g.rxLine r h
      match src.bind fun x => if g.firstHop r x then g.windowMiss r h x else none with
      | some d => g.outOfWindow h d
      | none =>
        if g.clashes h src then g.clash r h
        else
          let k := g.forwardSlot r h lineB
          match src with
          | some x =>
            let k := if h.pending then { k with cyc := { k.cyc with
                pendingNodes := (k.cyc.pendingNodes.filter fun y => y != (x.identity, extend32 k.cycleNow h.cycle)) ++
                  [(x.identity, extend32 k.cycleNow h.cycle)] } } else k
            deliver k h x (payloadOf r.frame.body) lineB
          | none => k

/-- The master's collection of acknowledgements (R238 to R240): a refusal, of any node, is announced with the next REF. -/
def Node.switchAck (n : Node) (x : StatusRec) : Node :=
  match n.cyc.switch with
  | some w =>
    if !n.master || w.state != 1 then n
    else
      let same := x.ackMode == w.target && x.ackCycle == w.cyc % 2 ^ 32 && x.ackTint == w.tint
      if same && x.refuse then { n with cyc := { n.cyc with abort := if n.cyc.abort = 0 then 2 else n.cyc.abort } }
      else if same && x.ack && n.cyc.set.contains x.node && decide (n.cycleNow + 1 < w.cyc) then
        let acks := if n.cyc.acks.contains x.node then n.cyc.acks else n.cyc.acks ++ [x.node]
        { n with cyc := { n.cyc with acks := acks } }.setReg Reg.CYC_SWITCH_SET (word (n.cyc.set.length + acks.length * 65536))
      else n
  | none => n

/-- A status frame is kept, the first copy per source and cycle (R219, R397). -/
def Node.takeStatus (n : Node) (h : SpineHdr) (b : List Byte) : Node :=
  let cyc := h.cycle
  if n.cyc.status.any fun x => x.node == h.src && x.cycle == cyc then n
  else
    let m := byteAt b 0
    let x : StatusRec :=
      { node := h.src, cycle := cyc, mode := m % 8, ack := m.testBit 3, refuse := m.testBit 7, ackMode := m / 16 % 8,
        ackCycle := beAt b 4 4, ackTint := beAt b 8 4, holder := (byteAt b 1).testBit 0, waiting := beAt b 12 2 }
    let old := n.cyc.status.filter fun y => y.node != h.src || y.cycle == (cyc + 2 ^ 32 - 1) % 2 ^ 32
    ({ n with cyc := { n.cyc with status := old ++ [x] } }).switchAck x

/-- STATUS_FRAME_RECEIVED (R215, R219, R240, R397). -/
def execStatusFrameReceived (r : Rx) (s : State) : Host.Outcome State Fault Refusal :=
  .next (s.on fun n => n.slotFrame r true fun m h _ b _ => m.takeStatus h b)

/-! ### Gates and overruns -/

/-- The gate that a waiting frame waits for is open (R214). -/
def Node.gateOpen (n : Node) (t : Transit) : Bool :=
  let h := decodeHdr t.frame.body
  n.gated && (n.curMode.isNone || n.gateFor t.stream h.ci t.egress (n.offsetAt n.tm.raw) == .now)

/-- FORWARD_GATE_OPEN (R214): the frame of the stream that waits on a port starts, with its correction. -/
def execForwardGateOpen (stream port time : Nat) (s : State) : Host.Outcome State Fault Refusal :=
  .next (s.on fun n =>
    let m := n.at time
    match m.net.transit.find? fun t => t.stream == stream && t.egress == port && m.gateOpen t with
    | some t =>
      let k := { m with net := { m.net with transit := m.net.transit.erase t } }
      k.sendFrom t.ingress port 6 (k.corrected t.ingress t.stamp k.tm.raw t.frame)
    | none => m)

/-- A frame is still on the wire when the guard of the next slot or crossing on its port has ended (R216). -/
def Node.overruns (n : Node) (x : Sent) : Bool :=
  let began := n.offsetAt x.time
  let off := n.offsetAt n.tm.raw
  let next := ((n.curMode.map fun m => (n.slotMarks m x.port n.cycleNow).map fun y => y.1 + (m.sguard : Int)).getD []) ++
    (n.crossing x.port).toList.map fun y => y.1
  decide (n.tm.raw < x.time + n.wireNs x.port x.frame) && next.any fun t => decide (began < t) && decide (t ≤ off)

/-- SLOT_OVERRUN (R216, R255): the frame of the stream still on the wire when the next slot's guard ends is stomped. -/
def execSlotOverrun (stream port time : Nat) (s : State) : Host.Outcome State Fault Refusal :=
  .next (s.on fun n =>
    let m := n.at time
    let mine (x : Sent) : Bool := x.port == port && !x.stomped && m.isSpine x.frame && (decodeHdr x.frame.body).kind == 1 &&
      (decodeHdr x.frame.body).sid == stream && m.overruns x
    match m.net.sent.reverse.find? mine with
    | some x =>
      let h := decodeHdr x.frame.body
      let k := (m.cutSending port).stompFirst port x.frame 6
      (k.inc Reg.CYC_OVERRUN).raiseLimited 0x2203 stream k.tc (stream + h.src * 65536) port
    | none => m)

/-- CLOSING_GUARD_START (R203): the gates of TC6 to TC0 close: what could start before has started. -/
def execClosingGuardStart (time : Nat) (s : State) : Host.Outcome State Fault Refusal :=
  .next (s.on fun n => (n.at time).serveAll)

end Sys2Proof.Machine
end

