-- ==== Sys2Proof/Machine/Audio.lean ====
section
/-! DEFINITION. Audio and the on-node services (chapter 11): sample numbers (R479), audio streams (R485 to R488), AAF (R489 to
R491), public address (R497 to R508), the announcement library (R509, R510) and the AUDIO section (R520). What the stream
engines compute sample by sample stays outside the model. -/

namespace Sys2Proof.Machine

/-- The instance of the AUD block in the world map (R646). -/
def instAud : Nat := 31

/-- A region of DRAM as its base and size in bytes (R378). -/
def Node.region (n : Node) (r : Nat) : Nat × Nat :=
  ((n.reg (Reg.PLC_DRAM_BASE_HI r)).toNat * 2 ^ 32 + (n.reg (Reg.PLC_DRAM_BASE_LO r)).toNat,
   (n.reg (Reg.PLC_DRAM_SIZE r)).toNat * 2 ^ 20)

/-- Bytes read from DRAM and written to DRAM. -/
def Node.dramRead (n : Node) (a len : Nat) : List Byte := Sparse.range (fun _ => 0#8) n.mem.dram a len
def Node.dramWrite (n : Node) (a : Nat) (bs : List Byte) : Node :=
  let m := n.injDram a bs.length
  { m with mem := { m.mem with dram := Sparse.putAll (fun _ => 0#8) n.mem.dram a bs } }

/-! ### Sample numbers (R479, R480) -/

/-- The number of the last sample edge at or before a T_ns. -/
def Node.sampleAtNs (n : Node) (ns : Int) : Nat := (ns * n.fs / 1000000000).toNat

/-- The first sample edge at or after a T_ns. -/
def Node.sampleFrom (n : Node) (ns : Int) : Nat := ((ns * n.fs + 999999999) / 1000000000).toNat

/-- The sample number now. -/
def Node.sampleNow (n : Node) : Nat := n.sampleAtNs n.trainNs

/-- The T_ns of a sample edge. -/
def Node.edgeNs (n : Node) (k : Nat) : Nat := k * 1000000000 / n.fs

/-- `AUD_SAMPLE_LO`, `AUD_SAMPLE_HI`, the copy of the PLL's lock and whether SC1 runs the services, as they read now (R479,
R523). -/
def Node.audRefresh (n : Node) : Node :=
  ((n.setReg64 Reg.AUD_SAMPLE_LO n.sampleNow).setFld Reg.AUD_STAT Fld.AUD_STAT_LOCK (n.bits Reg.TMB_AUD_STAT 0 1)).setFld
    Reg.AUD_STAT Fld.AUD_STAT_RUNNING (b2n (n.bit Reg.TOP_ENG_RUN 1 && n.bit Reg.TOP_PD_STATE 4))

/-- A block is 125 µs of samples (R480). -/
def Node.block (n : Node) : Nat := n.fs / 8000

/-- The first block boundary at or after a sample (R496). -/
def Node.blockFrom (n : Node) (k : Nat) : Nat := (k + n.block - 1) / n.block * n.block

/-- The delay in samples from a local input to the graph (R481), and from a stream's samples to their emission at every receiver
(R487). -/
def Node.localDelay (n : Node) : Nat := (2 * n.tc + 500000) * n.fs / 1000000000
def Node.playDelay (n : Node) (e : Strm) : Nat := (2 * (2 ^ e.k * n.tc) + 2 * n.tc + 750000) * n.fs / 1000000000

/-! ### The AUDIO section (R520) -/

/-- The zones held: those of the zone mixers (R497). -/
def Node.zonesHeld (n : Node) : List Nat :=
  (List.range 16).filter fun z => n.aud.elements.any fun e => e.type == 1 && byteAt e.params 0 == z

/-- A signed field of a parameter. -/
def sleAt (b : List Byte) (off len : Nat) : Int :=
  let v := leAt b off len
  if v < 2 ^ (8 * len - 1) then v else (v : Int) - 2 ^ (8 * len)

/-- The parameters of an element type (R493): offset, size, lowest and highest value, as the field's sign gives them. -/
def elementParams : Nat → Option (List (Nat × Nat × Int × Int))
  | 0x01 => some [(0, 1, 0, 255), (1, 1, 1, 32), (2, 2, -960, 240)]
  | 0x02 => some [(0, 2, -960, 240), (2, 2, 0, 2000), (4, 1, 0, 1)]
  | 0x03 => some [(0, 4, 0, 9600)]
  | 0x04 => some ([0, 4, 8, 12, 16].map fun o => (o, 4, -2 ^ 31, 2 ^ 31 - 1))
  | 0x05 => some [(0, 2, -400, 0), (2, 2, 100, 10000), (4, 2, 10, 2000), (6, 2, 0, 48)]
  | 0x06 => some [(0, 1, 16, 128), (1, 1, 0, 1)]
  | 0x07 => some []
  | 0x08 => some [(0, 2, 10, 10000), (2, 1, 0, 63)]
  | 0x09 => some [(0, 1, 0, 7)]
  | 0x20 => some [(0, 1, 0, 3), (1, 1, 0, 15)]
  | 0x21 => some [(0, 1, 0, 3), (1, 1, 0, 15)]
  | 0x22 => some [(0, 2, 1, 16379)]
  | 0x23 => some [(0, 2, 1, 16379)]
  | 0x24 => some [(0, 1, 0, 255), (1, 1, 0, 7)]
  | 0x25 => some [(0, 1, 0, 255), (1, 1, 0, 7)]
  | 0x26 => some [(0, 1, 0, 15)]
  | 0x27 => some [(0, 1, 0, 255), (1, 1, 0, 1)]
  | _ => none

/-- A parameter's value within its range; a zone mixer's zone is 0 to 15 or 0xFF. -/
def paramOk (type off width : Nat) (lo hi : Int) (bytes : List Byte) : Bool :=
  let v : Int := if lo < 0 then sleAt bytes 0 width else leAt bytes 0 width
  decide (lo ≤ v) && decide (v ≤ hi) && !(type == 1 && off == 0 && decide (15 < v) && decide (v < 255))

/-- Every parameter of an element is within its range. -/
def Element.ok (e : Element) : Bool :=
  match elementParams e.type with
  | some ps => ps.all fun p => paramOk e.type p.1 p.2.1 p.2.2.1 p.2.2.2 (slice e.params p.1 p.2.1)
  | none => false

/-- Inputs and outputs of an element (R493). -/
def Element.ins (e : Element) : Nat :=
  match e.type with
  | 0x01 => byteAt e.params 1
  | 0x06 => 2
  | 0x09 => 0 | 0x20 => 0 | 0x22 => 0 | 0x24 => 0 | 0x26 => 0
  | _ => 1
def Element.outs (e : Element) : Nat := if e.type ∈ [0x21, 0x23, 0x25, 0x27] then 0 else 1

/-- The units of an element (R493, R494). -/
def Element.cost (e : Element) (rate16 : Bool) : Nat :=
  let u := match e.type with
    | 0x01 => byteAt e.params 1
    | 0x04 => 2 | 0x05 => 4 | 0x06 => byteAt e.params 0 | 0x07 => 3 | 0x09 => 2
    | _ => 1
  if rate16 then (u + 2) / 3 else u

/-- The elements fed by an element, one step along the connections. -/
def feeds (cs : List Connect) (g : Nat) (es : List Nat) : List Nat :=
  ((cs.filter fun c => c.graph == g && es.contains c.fromElem).map (·.toElem)).eraseDups

/-- The connections of a graph hold a cycle (R492): some element is reached from itself. -/
def cyclic (cs : List Connect) (g : Nat) : Bool :=
  ((cs.filter (·.graph == g)).map (·.fromElem)).eraseDups.any fun e =>
    ((List.range 255).foldl (fun seen _ => (seen ++ feeds cs g seen).eraseDups) (feeds cs g [e])).contains e

/-- The connections name elements, outputs and inputs that are there, and feed each input at most once (R492). -/
def connectsOk (es : List Element) (cs : List Connect) : Bool :=
  (cs.all fun c =>
    (es.any fun e => e.graph == c.graph && e.elem == c.fromElem && decide (c.fromOut < e.outs)) &&
    (es.any fun e => e.graph == c.graph && e.elem == c.toElem && decide (c.toIn < e.ins))) &&
  (cs.map fun c => (c.graph, c.toElem, c.toIn)).Nodup &&
  ((cs.map (·.graph)).eraseDups.all fun g => !cyclic cs g)

/-- The units of a graph and the mix inputs of its zone mixers. -/
def graphUnits (es : List Element) (rate16 : Bool) (g : Nat) : Nat :=
  (es.filter (·.graph == g)).foldl (fun a e => a + e.cost rate16) 0
def graphMix (es : List Element) (g : Nat) : Nat :=
  (es.filter fun e => e.graph == g && e.type == 1 && decide (byteAt e.params 0 < 16)).foldl (fun a e => a + byteAt e.params 1) 0

/-- The lowest-numbered engine with room for a graph; engines as (units, mix inputs) in use. -/
def graphRoom (engines : List (Nat × Nat)) (units mix : Nat) : Option Nat :=
  if 1000 < units then none else engines.findIdx? fun e => decide (e.1 + units ≤ 1000) && decide (e.2 + mix ≤ 32)

/-- A graph put on that engine. -/
def placeGraph (engines : List (Nat × Nat)) (units mix : Nat) : Option (List (Nat × Nat)) :=
  (graphRoom engines units mix).map fun i => modifyAt engines i fun e => (e.1 + units, e.2 + mix)

/-- Graphs with a zone mixer first, in ascending zone (R377), then the others in ascending graph number (R494). -/
def graphOrder (es : List Element) : List Nat :=
  let zoned := (List.range 16).filterMap fun z => (es.find? fun e => e.type == 1 && byteAt e.params 0 == z).map (·.graph)
  (zoned ++ (List.range 256).filter fun g => es.any (·.graph == g)).eraseDups

/-- The load of the engines, none when a graph finds no place (R494). -/
def engineLoad (es : List Element) (rate16 : Bool) : Option (List (Nat × Nat)) :=
  (graphOrder es).foldl (fun acc g => acc.bind fun l => placeGraph l (graphUnits es rate16 g) (graphMix es g))
    (some (List.replicate 8 (0, 0)))

/-- The stream engine, 0 to 7, that runs each graph, as (graph, engine) (R377, R494). -/
def graphEngines (es : List Element) (rate16 : Bool) : List (Nat × Nat) :=
  ((graphOrder es).foldl (fun (a : List (Nat × Nat) × List (Nat × Nat)) g =>
    let u := graphUnits es rate16 g
    let mix := graphMix es g
    ((placeGraph a.1 u mix).getD a.1, a.2 ++ ((graphRoom a.1 u mix).map fun i => (g, i)).toList))
    (List.replicate 8 (0, 0), [])).2

/-- The records of a section, as (tag, value). -/
abbrev Records := List (Nat × List Byte)

/-- The values of a tag, in order. -/
def Records.of (rs : Records) (tag : Nat) : List (List Byte) := (rs.filter (·.1 == tag)).map (·.2)

/-- AUD_GLOBAL: the defaults hold where the section has no record. -/
def audGlobalOf (v : List Byte) : AudGlobal :=
  { rate16 := byteAt v 0 == 1, pcm24 := byteAt v 1 == 2, svcFirst := leAt v 2 2, svcCount := leAt v 4 2,
    poolFirst := leAt v 6 2, poolCount := leAt v 8 2, prios := (List.range 5).map fun i => byteAt v (10 + i),
    duckMask := byteAt v 15, duckDepth := leAt v 16 2, fade := leAt v 18 2, escalation := leAt v 20 2 }

/-- LIB_ENTRY records with their places in the library: entry order, each padded to 4 KiB (R509). -/
def libOf : Nat → List (List Byte) → List LibEntry
  | _, [] => []
  | off, v :: vs =>
    { id := leAt v 0 2, format := byteAt v 2, rate := byteAt v 3, samples := leAt v 4 4, len := leAt v 8 4, crc := leAt v 12 4,
      gain := leAt v 16 2, offset := off, valid := false, unverified := true, written := [] } ::
    libOf (off + (leAt v 8 4 + 4095) / 4096 * 4096) vs

/-- The services as a section's records define them. -/
def audOf (old : AudState) (rs : Records) : AudState :=
  { old with
    global := (((rs.of 1).head?).map audGlobalOf).getD AudGlobal.reset
    elements := (rs.of 3).map fun v => ⟨byteAt v 0, byteAt v 1, byteAt v 2, slice v 4 32⟩
    connects := (rs.of 4).map fun v => ⟨byteAt v 0, byteAt v 1, byteAt v 2, byteAt v 3, byteAt v 4⟩
    lib := libOf 0 (rs.of 5)
    stations := (rs.of 6).map fun v =>
      { index := byteAt v 0, cab := byteAt v 1 == 1, flags := byteAt v 2, line := byteAt v 3, stream := leAt v 4 2,
        bit := leAt v 6 2, mic := leAt v 8 2, speaker := leAt v 10 2, answer := byteAt v 12, counter := 0, level := false }
    aafs := (rs.of 7).map fun v =>
      { index := byteAt v 0, output := byteAt v 1 == 1, port := byteAt v 2, channels := byteAt v 3, format := byteAt v 4,
        unique := leAt v 6 2, dst := leAt v 8 6, tci := leAt v 14 2, talker := leAt v 16 8, seq := 0, placed := none,
        sentCyc := none }
    chimes := (rs.of 8).map fun v =>
      ⟨byteAt v 0, leAt v 2 2, leAt v 4 2, leAt v 6 2, leAt v 8 2, leAt v 10 2, byteAt v 12⟩ }

/-- The sizes of the records. -/
def audSize : Nat → Option Nat
  | 1 => some 32 | 2 => some 8 | 3 => some 36 | 4 => some 8 | 5 => some 20 | 6 => some 16 | 7 => some 24 | 8 => some 16
  | _ => none

/-- A stream that the section may name: one of the stream table, or of the call stream pool. -/
def Node.audStream (n : Node) (g : AudGlobal) (s : Nat) : Bool :=
  (n.strm s).valid || (decide (g.poolFirst ≤ s) && decide (s < g.poolFirst + g.poolCount))

/-- The section keeps every range and names only what is there (R492, R494, R520). -/
def Node.audOk (n : Node) (rs : Records) : Bool :=
  let a := audOf n.aud rs
  let g := (rs.of 1).headD (zeros 32)
  let tdm := (rs.of 2).map fun v => byteAt v 0
  let aafAt (i : Nat) (out : Bool) (ch : Nat) : Bool :=
    a.aafs.any fun f => f.index == i && f.output == out && decide (ch < f.channels)
  ((rs : List (Nat × List Byte)).all fun r => decide (0x8000 ≤ r.1) || audSize r.1 == some r.2.length) && decide ((rs.of 1).length ≤ 1) &&
  decide (byteAt g 0 ≤ 1) && ((rs.of 1).isEmpty || decide (byteAt g 1 = 1 ∨ byteAt g 1 = 2)) &&
  (a.global.prios.all fun p => decide (p ≤ 15)) && decide (a.global.fade ≤ 2000) &&
  ((rs.of 1).isEmpty || (decide (5 ≤ a.global.escalation) && decide (a.global.escalation ≤ 600))) &&
  (tdm.all fun p => decide (p < 4)) && tdm.Nodup &&
  (a.elements.all fun e => e.ok &&
    (match e.type with
     | 0x20 => tdm.contains (byteAt e.params 0)
     | 0x21 => tdm.contains (byteAt e.params 0)
     | 0x22 => n.audStream a.global (leAt e.params 0 2)
     | 0x23 => n.audStream a.global (leAt e.params 0 2)
     | 0x24 => aafAt (byteAt e.params 0) false (byteAt e.params 1)
     | 0x25 => aafAt (byteAt e.params 0) true (byteAt e.params 1)
     | _ => true)) &&
  (a.elements.map fun e => (e.graph, e.elem)).Nodup && connectsOk a.elements a.connects &&
  (engineLoad a.elements a.global.rate16).isSome &&
  (a.lib.all fun e => e.id != 0 && decide (e.format = 1 ∨ e.format = 2) && decide (e.rate ≤ 1)) && (a.lib.map (·.id)).Nodup &&
  ((rs.of 6).all fun v => decide (byteAt v 1 ≤ 1)) && (a.stations.map (·.index)).Nodup &&
  (a.aafs.all fun f => decide (f.port < 8) && n.carKind (4 + f.port) == 0 && decide (1 ≤ f.channels) && decide (f.channels ≤ 8) &&
    decide (2 ≤ f.format) && decide (f.format ≤ 4)) && (a.aafs.map (·.index)).Nodup &&
  (a.chimes.all fun c => decide (c.index < 8)) && (a.chimes.map (·.index)).Nodup

/-- The registers that the section sets (R341, R522, R524, R525). -/
def Node.audShow (n : Node) (rs : Records) : Node :=
  let a := n.aud
  let zones := n.zonesHeld.foldl (fun x z => x + 2 ^ z) 0
  let graphs := ((a.elements.map (·.graph)).eraseDups).length
  let ports := (rs.of 2).foldl (fun x v => x + 2 ^ byteAt v 0) 0
  let m := n.setReg Reg.AUD_CFG (word (b2n a.global.rate16 + ports * 16 + graphs * 256 + zones * 65536))
  let m := (rs.of 2).foldl (fun m v =>
    (m.setReg (Reg.AUD_TDM_CFG (byteAt v 0)) (word (byteAt v 1 % 64))).setReg (Reg.AUD_TDM_STAT (byteAt v 0))
      (word (1 + b2n (!(byteAt v 1).testBit 0) * 2 + b2n (!(byteAt v 1).testBit 4 || m.holder || !m.paired) * 4))) m
  let m := ((engineLoad a.elements a.global.rate16).getD []).zipIdx.foldl (fun m x =>
    m.setReg (Reg.AUD_SE_LOAD x.2) (word (x.1.1 + x.1.2 * 65536))) m
  let m := n.zonesHeld.foldl (fun m z => m.setFld (Reg.AUD_ZN_STAT z) Fld.AUD_ZN_STAT_HELD 1) m
  (m.setFld Reg.AUD_STAT Fld.AUD_STAT_RUNNING (b2n (m.bit Reg.TOP_ENG_RUN 1))).setBit Reg.TMB_AUD_STAT 1 (!a.global.rate16)

/-! ### The library (R509, R510) -/

/-- An entry of the index. -/
def Node.libEntry (n : Node) (id : Nat) : Option LibEntry := n.aud.lib.find? fun e => e.id == id

/-- An entry changed. -/
def Node.onLib (n : Node) (id : Nat) (f : LibEntry → LibEntry) : Node :=
  { n with aud := { n.aud with lib := n.aud.lib.map fun e => if e.id == id then f e else e } }

/-- A range put into its place by its first offset. -/
def rangeInsert (r : Nat × Nat) : List (Nat × Nat) → List (Nat × Nat)
  | [] => [r]
  | x :: xs => if r.1 ≤ x.1 then r :: x :: xs else x :: rangeInsert r xs

/-- The bytes of an entry that have been written. -/
def LibEntry.count (e : LibEntry) : Nat :=
  (e.written.foldl (fun (a : Nat × Nat) r => (a.1 + (max r.2 a.2 - max r.1 a.2), max r.2 a.2)) (0, 0)).1

/-- The counts that `AUD_LIB_ENTRIES` and `AUD_LIB_USED` show. -/
def Node.syncLib (n : Node) : Node :=
  let used := n.aud.lib.foldl (fun a e => a + e.count) 0
  (n.setReg Reg.AUD_LIB_ENTRIES (word ((n.aud.lib.filter (·.valid)).length + n.aud.lib.length * 65536))).setReg
    Reg.AUD_LIB_USED (word ((used + 2 ^ 20 - 1) / 2 ^ 20))

/-- A write to DRAM reaches the library: every entry whose bytes it touches is unverified (R510). -/
def Node.libTouched (n : Node) (addr len : Nat) : Node :=
  let base := (n.region 1).1
  let touch (e : LibEntry) : LibEntry :=
    let lo := max addr (base + e.offset)
    let hi := min (addr + len) (base + e.offset + e.len)
    if lo < hi then
      { e with valid := false, unverified := true, written := rangeInsert (lo - (base + e.offset), hi - (base + e.offset)) e.written }
    else e
  { n with aud := { n.aud with lib := n.aud.lib.map touch } }.syncLib

/-- The samples of a library request, repeats and gaps included. -/
def Node.libSamples (n : Node) (e : LibEntry) (repeats gap : Nat) : Nat :=
  let one := e.samples * n.fs / (if e.rate = 1 then 16000 else 48000)
  (repeats + 1) * one + repeats * (gap * n.fs / 1000)

/-! ### Public address (R497 to R508) -/

/-- The position of this node in the numbering of an epoch: the current one, or the previous within the bleed window
(R280). -/
def Node.posIn (n : Node) (epoch : Nat) : Option Nat :=
  if epoch = n.epoch then (n.ina.table.find? fun e => e.identity == n.identity).map (·.pos)
  else if n.fld Reg.INA_STATE Fld.INA_STATE_BLEED = 1 ∧ epoch = (n.reg Reg.INA_PREV_EPOCH).toNat % 65536 then
    (n.ina.prev.find? fun e => e.identity == n.identity).map (·.pos)
  else none

/-- The node number of an identity, 0 when it is not listed. -/
def Node.numOf (n : Node) (id : Nat) : Nat := ((n.entryOf id).map (·.num)).getD 0

/-- The detail word of a request (R527). -/
def Node.reqDetail (n : Node) (q : PaReq) : Nat := q.tag + n.numOf q.requester * 65536

/-- A request ranks above another (R503). -/
def PaReq.above (a b : PaReq) : Bool :=
  if a.prio ≠ b.prio then decide (b.prio < a.prio)
  else if a.start ≠ b.start then decide (a.start < b.start)
  else if a.requester ≠ b.requester then decide (b.requester < a.requester)
  else decide (b.tag < a.tag)

/-- A request is the one of a requester and tag. -/
def PaReq.is (q : PaReq) (requester tag : Nat) : Bool := q.requester == requester && q.tag == tag

/-- A request put into its place in rank order. -/
def rankInsert (q : PaReq) : List PaReq → List PaReq
  | [] => [q]
  | x :: xs => if q.above x then q :: x :: xs else x :: rankInsert q xs

/-- The active requests of a zone, first-ranked first. -/
def Node.ranked (n : Node) (z : Nat) : List PaReq :=
  (n.aud.reqs.filter fun q => q.started && q.plays.any fun p => p.zone == z).foldl (fun l q => rankInsert q l) []

/-- A request changed. -/
def Node.onReq (n : Node) (requester tag : Nat) (f : PaReq → PaReq) : Node :=
  { n with aud := { n.aud with reqs := n.aud.reqs.map fun q => if q.is requester tag then f q else q } }

/-- The level of a request by its rank (R503): 0 first-ranked, 1 ducked, 2 muted. -/
def levelOf (q : PaReq) (rank : Nat) : Nat := if rank = 0 then 0 else if q.duckable then 1 else 2

/-- A request's level in a zone. -/
def PaReq.levelIn (q : PaReq) (z : Nat) : Option Nat := (q.plays.find? fun p => p.zone == z).map (·.level)

/-- The registers of a zone (R522, R525). -/
def Node.syncZone (n : Node) (z : Nat) : Node :=
  let rs := n.ranked z
  let held := b2n (n.zonesHeld.contains z)
  let first := rs.head?
  let ducking := rs.any fun q => q.levelIn z == some 1
  let st := rs.length + ((first.map (·.prio)).getD 0) * 8 + ((first.map (·.cls)).getD 0) * 128 + b2n ducking * 1024 + held * 2048
  (n.setReg (Reg.AUD_ZN_STAT z) (word st)).setReg (Reg.AUD_ZN_REQ z)
    (word ((first.map fun q => n.reqDetail q).getD 0))

/-- A zone is arbitrated (R503 to R505): beyond four requests the lowest-ranked ends there; each request takes the level of
its rank, a change beginning its ramp now, and one that becomes muted is reported. -/
def Node.arbitrate (n : Node) (z : Nat) : Node :=
  let now := n.sampleNow
  let out := (n.ranked z).drop 4
  let n := out.foldl (fun m q =>
    (m.onReq q.requester q.tag fun x => { x with plays := x.plays.filter fun (p : ZonePlay) => p.zone != z }).raise 0x5002
      (m.reqDetail q) (2 ^ z + 3 * 65536)) n
  let n := { n with aud := { n.aud with reqs := n.aud.reqs.filter fun q => !(q.started && q.plays.isEmpty) } }
  let n := (n.ranked z).zipIdx.foldl (fun m x =>
    let q := x.1
    let lv := levelOf q x.2
    let old := (q.levelIn z).getD 3
    if old = lv then m
    else
      let k := m.onReq q.requester q.tag fun y => { y with plays := y.plays.map fun (p : ZonePlay) =>
        if p.zone == z then { p with level := lv, since := now } else p }
      if lv = 2 then k.raise 0x5006 (m.reqDetail q) z else k) n
  n.syncZone z

/-- Every zone of a request is arbitrated, and the count of active requests shown. -/
def Node.arbitrateAll (n : Node) (zones : List Nat) : Node :=
  let m := zones.foldl Node.arbitrate n
  m.setReg Reg.AUD_PA_ACTIVE (word (min (m.aud.reqs.filter (·.started)).length 127))

/-- The cause for which a library request plays nothing (R510): 1 not valid, 2 the check differs. -/
def Node.libCause (n : Node) (q : PaReq) : Option Nat :=
  if q.type ≠ 1 then none
  else match n.libEntry q.source with
    | some e => if !e.valid then some 1 else if e.crc ≠ q.check then some 2 else none
    | none => some 1

/-- A request ends here (R506): reported by a node that played it, its zones arbitrated anew. -/
def Node.reqEnd (n : Node) (q : PaReq) (cause : Nat) : Node :=
  let zones := q.plays.map (·.zone)
  let m := { n with aud := { n.aud with reqs := n.aud.reqs.filter fun x => !x.is q.requester q.tag } }
  let m := if q.started then m.raise 0x5002 (n.reqDetail q) (zones.foldl (fun a z => a + 2 ^ z) 0 + cause * 65536) else m
  m.arbitrateAll zones

/-- A request begins to play (R502, R506, R510): `skipped` samples are passed over at a late join. -/
def Node.reqStart (n : Node) (q : PaReq) (skipped : Nat) : Node :=
  match n.libCause q with
  | some cause =>
    ({ n with aud := { n.aud with reqs := n.aud.reqs.filter fun x => !x.is q.requester q.tag } }).raise 0x5104 q.source cause
  | none =>
    let zones := q.plays.map (·.zone)
    let m := n.onReq q.requester q.tag fun x => { x with started := true, skipped }
    let m := if skipped = 0 then m.raise 0x5001 (n.reqDetail q) (zones.foldl (fun a z => a + 2 ^ z) 0)
      else (m.inc Reg.AUD_LATE_JOIN).raise 0x5103 (n.reqDetail q) skipped
    m.arbitrateAll zones

/-- The samples that a chime request plays, its repeats and gaps included: each play is the chime's tones and the pauses between
them (DESIGN CHOICE, log entry 119). -/
def Node.chimeSamples (n : Node) (c : Chime) (repeats gap : Nat) : Nat :=
  ((repeats + 1) * ((c.repeats + 1) * c.on + c.repeats * c.off) + repeats * gap) * n.fs / 1000

/-- The sample after the last one of a request; a live request has none (R506). -/
def Node.reqFin (n : Node) (q : PaReq) : Option Nat :=
  if q.type = 1 then (n.libEntry q.source).map fun e => q.start + n.libSamples e q.repeats q.gap
  else if q.type = 3 then (n.aud.chimes.find? fun x => x.index == q.source).map fun c => q.start + n.chimeSamples c q.repeats q.gap
  else none

/-- The PA message of a request or a stop (R499). -/
def paBytes (type cls prio : Nat) (duckable : Bool) (repeats requester tag zones first last epoch start source gain check gap : Nat) :
    List Byte :=
  encBE 1 type ++ encBE 1 cls ++ encBE 1 (prio + b2n duckable * 16) ++ encBE 1 repeats ++ encBE 6 requester ++ encBE 2 tag ++
  encBE 2 zones ++ encBE 2 first ++ encBE 2 last ++ encBE 2 epoch ++ encBE 8 start ++ encBE 2 source ++ encBE 2 gain ++
  encBE 4 check ++ encBE 2 gap ++ zeros 2

/-- A PA message is taken (R500 to R502, R506): a stop by the nodes that hold the request, a request by those that take
part in it. -/
def Node.paTake (n : Node) (b : List Byte) : Node :=
  let who := beAt b 4 6
  let tag := beAt b 10 2
  let held := n.aud.reqs.any fun q => q.is who tag
  if byteAt b 0 = 4 then n.onReq who tag fun q => { q with stop := some (beAt b 20 8) }
  else if byteAt b 0 < 1 ∨ 3 < byteAt b 0 ∨ held then n
  else
    let zones := n.zonesHeld.filter fun z => (beAt b 12 2).testBit z
    let here := match n.posIn (beAt b 18 2) with
      | some p => decide (beAt b 14 2 % 1024 ≤ p) && decide (p ≤ beAt b 16 2 % 1024)
      | none => false
    if !here || zones.isEmpty then n
    else
      let q : PaReq :=
        { requester := who, tag := tag, type := byteAt b 0, cls := byteAt b 1, prio := byteAt b 2 % 16,
          duckable := (byteAt b 2).testBit 4, repeats := byteAt b 3, zones := beAt b 12 2, start := beAt b 20 8,
          source := beAt b 28 2, gain := beAt b 30 2, check := beAt b 32 4, gap := beAt b 36 2, started := false, stop := none,
          skipped := 0, plays := zones.map fun z => ⟨z, 3, 0⟩ }
      let m := { n with aud := { n.aud with reqs := n.aud.reqs ++ [q] } }
      let now := n.sampleNow
      if q.start < now + 8 then
        let past := (m.reqFin q).any fun e => decide (e ≤ now)
        if past then n else m.reqStart q (max (now - q.start) 1)
      else m

/-- PA_START_SAMPLE (R503 to R506, R519): a request begins at its start sample. -/
def execPaStartSample (requester tag time : Nat) (s : State) : Host.Outcome State Fault Refusal :=
  .next (s.on fun n =>
    let m := n.at time
    match m.aud.reqs.find? fun q => q.is requester tag with
    | some q => if q.started ∨ m.sampleNow < q.start ∨ m.engFailed 1 then m else m.reqStart q 0
    | none => m)

/-- ANNOUNCEMENT_ENDED (R504, R506): a request ends at its stop sample, or after its last sample. A live request ends only by
a stop. -/
def execAnnouncementEnded (requester tag time : Nat) (s : State) : Host.Outcome State Fault Refusal :=
  .next (s.on fun n =>
    let m := n.at time
    match m.aud.reqs.find? fun q => q.is requester tag with
    | some q =>
      let fin := if q.started then (m.reqFin q).filter fun e => decide (e ≤ m.sampleNow) else none
      match q.stop.filter fun t => decide (t ≤ m.sampleNow), fin with
      | some t, some e => m.reqEnd q (if e < t then 1 else 2)
      | some _, none => m.reqEnd q 2
      | none, some _ => m.reqEnd q 1
      | none, none => m
    | none => m)

/-! ### The service stream (R498) -/

/-- The service stream's ID. -/
def Node.svcId (n : Node) : Nat := n.fld Reg.AUD_STAT Fld.AUD_STAT_SVC_ID

/-- A message goes out on the service stream, or waits for it; a pair's messages are sent by the holder. -/
def Node.svcSend (n : Node) (bytes : List Byte) : Node :=
  if n.fld Reg.AUD_STAT Fld.AUD_STAT_SVC_STREAM = 1 then n.postMsg n.svcId [] bytes
  else { n with aud := { n.aud with outbox := n.aud.outbox ++ [bytes] } }

/-- SC1 runs the services and the STREAM domain is on (R519). -/
def Node.servicesOn (n : Node) : Bool := !n.engFailed 1 && n.bit Reg.TOP_PD_STATE 4

/-! ### PA commands (R501, R521) -/

/-- The start sample that three words name, none for words out of range (R501). -/
def Node.startOf (n : Node) (kind w0 w1 : Nat) : Option Nat :=
  let least := n.sampleFrom (n.trainNs + 3 * (n.tc : Int))
  if kind = 0 then some least
  else if kind = 1 then some (max least (n.sampleFrom ((w0 + w1 * 2 ^ 32 : Nat) : Int)))
  else if kind = 2 ∧ w1 < n.tc then some (max least (n.sampleFrom ((extend32 n.cycleNow w0 * n.tc + w1 : Nat) : Int)))
  else none

/-- A request of this node is made (R501): its message is sent, it is taken here as everywhere, and the command completes with
the tag and the start sample. -/
def Node.paIssue (n : Node) (c : Cmd) (type source check : Nat) : Answer :=
  let w1 := arg c 1
  let w2 := arg c 2
  let w3 := arg c 3
  let first := w2 % 1024
  let last := w2 / 65536 % 1024
  if w1 / 2 ^ 24 ≠ 0 ∨ 4 < bitsOf w1 20 3 ∨ w2 / 1024 % 64 ≠ 0 ∨ w2 / 2 ^ 26 ≠ 0 ∨ last < first ∨ arg c 6 / 65536 ≠ 0 then
    .fail n sArgs
  else match n.startOf (w3 % 256) (arg c 4) (arg c 5) with
    | none => .fail n sArgs
    | some start =>
      if n.st ≠ stRun then .fail n sState
      else
        let tag := n.aud.nextTag
        let b := paBytes type (bitsOf w1 20 3) (bitsOf w1 16 4) (w1.testBit 23) (bitsOf w3 8 8) n.identity tag (w1 % 65536) first
          last n.epoch start source (arg c 6) check (w3 / 65536)
        let m := { n with aud := { n.aud with nextTag := (tag + 1) % 65536, issued := n.aud.issued ++ [tag] } }
        .done ((m.svcSend b).paTake b) sOk [word tag, word start, word (start / 2 ^ 32)]

/-- A service command (R519, R521). -/
def Node.service (n : Node) (c : Cmd) (nargs : Nat) (act : Node → Answer) : Node :=
  n.command c (.inst instAud) nargs fun m => if m.servicesOn then act m else .fail m sState

/-- AUD_STATUS (R519, R521): with SC1 failed it still answers. -/
def execAudStatus (c : Cmd) (s : State) : Host.Outcome State Fault Refusal :=
  .next (s.runs c 0x0501 fun n => n.command c (.inst instAud) 0 fun m =>
    if !m.bit Reg.TOP_PD_STATE 4 then .fail m sState
    else
      let k := m.audRefresh
      .done k sOk [k.reg Reg.AUD_STAT, k.reg Reg.AUD_PA_ACTIVE, k.reg Reg.AUD_CALLS, k.reg Reg.AUD_SAMPLE_LO,
        k.reg Reg.AUD_SAMPLE_HI])

/-- PA_PLAY (R521). -/
def execPaPlay (c : Cmd) (s : State) : Host.Outcome State Fault Refusal :=
  .next (s.runs c 0x0502 fun n => n.service c 7 fun m =>
    match m.libEntry (arg c 0) with
    | some e => m.paIssue c 1 e.id e.crc
    | none => .fail m sArgs)

/-- PA_LIVE (R507, R521): the stream is an audio stream that this node originates and that is active. -/
def execPaLive (c : Cmd) (s : State) : Host.Outcome State Fault Refusal :=
  .next (s.runs c 0x0503 fun n => n.service c 7 fun m =>
    let e := m.strm (arg c 0)
    if arg c 0 = 0 ∨ 16380 ≤ arg c 0 then .fail m sArgs
    else if !e.valid ∨ e.cls ≠ 1 ∨ !m.ownStream e ∨ !(e.state = 2 ∨ e.state = 3 ∨ e.state = 4) then .fail m sState
    else m.paIssue c 2 (arg c 0) 0)

/-- PA_CHIME (R521). -/
def execPaChime (c : Cmd) (s : State) : Host.Outcome State Fault Refusal :=
  .next (s.runs c 0x0504 fun n => n.service c 7 fun m =>
    if m.aud.chimes.any fun x => x.index == arg c 0 then m.paIssue c 3 (arg c 0) 0 else .fail m sArgs)

/-- PA_STOP (R506, R521): a stop message for a request of this node or of a named requester. -/
def execPaStop (c : Cmd) (s : State) : Host.Outcome State Fault Refusal :=
  .next (s.runs c 0x0505 fun n => n.service c 6 fun m =>
    let named := arg c 1 + arg c 2 * 2 ^ 32
    let who := if named = 0 then m.identity else named
    let known := (who == m.identity && m.aud.issued.contains (arg c 0)) || m.aud.reqs.any fun q => q.is who (arg c 0)
    match m.startOf (arg c 3) (arg c 4) (arg c 5) with
    | none => .fail m sArgs
    | some at_ =>
      if !known then .fail m sArgs
      else
        let b := paBytes 4 0 0 false 0 who (arg c 0) 0 0 0 m.epoch at_ 0 0 0 0
        let k := if who = m.identity then { m with aud := { m.aud with issued := m.aud.issued.filter (· != arg c 0) } } else m
        .done ((k.svcSend b).paTake b) sOk [word at_, word (at_ / 2 ^ 32)])

/-! ### Element parameters (R496) -/

/-- AUD_PARAM_SET (R496): the parameter is written at the first block boundary at or after the sample named. -/
def execAudParamSet (c : Cmd) (s : State) : Host.Outcome State Fault Refusal :=
  .next (s.runs c 0x0506 fun n => n.service c 6 fun m =>
    let g := arg c 0 % 256
    let e := arg c 0 / 256 % 256
    let found := (m.aud.elements.find? fun x => x.graph == g && x.elem == e).bind fun x =>
      (elementParams x.type).bind fun ps => (ps.find? fun p => p.1 == arg c 1).map fun p => (x.type, p)
    match found with
    | some (type, off, width, lo, hi) =>
      let bytes := encLE 4 (arg c 2)
      let fits := if lo < 0 then sleAt bytes 0 4 == sleAt bytes 0 width else arg c 2 == leAt bytes 0 width
      if arg c 0 / 65536 ≠ 0 ∨ 1 < arg c 3 ∨ !fits ∨ !paramOk type off width lo hi bytes then .fail m sArgs
      else
        let at_ := if arg c 3 = 0 then m.sampleNow else arg c 4 + arg c 5 * 2 ^ 32
        .done { m with aud := { m.aud with params := m.aud.params ++ [ParamSet.mk g e off width (arg c 2) at_] } } sOk []
    | none => .fail m sArgs)

/-- The bytes of a parameter replaced. -/
def Element.put (e : Element) (off width v : Nat) : Element :=
  { e with params := (encLE width v).zipIdx.foldl (fun l x => modifyAt l (off + x.2) fun _ => x.1) e.params }

/-- PARAM_APPLY (R496): at a block boundary the parameters that are due take effect, in the order of their commands. -/
def execParamApply (time : Nat) (s : State) : Host.Outcome State Fault Refusal :=
  .next (s.on fun n =>
    let m := n.at time
    let now := m.sampleNow
    let put (p : ParamSet) (e : Element) : Element :=
      if e.graph == p.graph && e.elem == p.elem then e.put p.offset p.width p.value else e
    let apply (k : Node) (p : ParamSet) : Node :=
      { k with aud := { k.aud with elements := k.aud.elements.map (put p) } }
    let k := (m.aud.params.filter fun p => decide (m.blockFrom p.sample ≤ now)).foldl apply m
    { k with aud := { k.aud with params := m.aud.params.filter fun p => !decide (m.blockFrom p.sample ≤ now) } })

/-! ### Library commands (R510, R521) -/

/-- AUD_LIB_WRITE (R510, R521). -/
def execAudLibWrite (c : Cmd) (s : State) : Host.Outcome State Fault Refusal :=
  .next (s.runs c 0x0507 fun n => n.service c 6 fun m =>
    match m.libEntry (arg c 0) with
    | none => .fail m sArgs
    | some e =>
      if e.len < arg c 1 + arg c 2 then .fail m sArgs
      else match m.sourceBytes c (arg c 3) (arg c 4 + arg c 5 * 2 ^ 32) (arg c 2) with
        | none => .fail m sArgs
        | some bytes =>
          let a := (m.region 1).1 + e.offset + arg c 1
          let k := (m.dramWrite a bytes).libTouched a bytes.length
          let full := match k.libEntry e.id with
            | some x => x.count == x.len
            | none => false
          .done k sOk [word (b2n full)])

/-- AUD_LIB_INFO (R521). -/
def execAudLibInfo (c : Cmd) (s : State) : Host.Outcome State Fault Refusal :=
  .next (s.runs c 0x0508 fun n => n.service c 1 fun m =>
    match m.libEntry (arg c 0) with
    | some e => .done m sOk [word (e.id + e.format * 65536 + e.rate * 2 ^ 24), word e.samples, word e.len, word e.crc, word e.gain,
        word (b2n e.valid + b2n e.unverified * 2)]
    | none => .fail m sArgs)

/-- LIBRARY_VERIFY (R510): the background check of an entry completes; requests that play an entry found not valid stop
playing it. -/
def execLibraryVerify (entry time : Nat) (s : State) : Host.Outcome State Fault Refusal :=
  .next (s.on fun n =>
    let m := n.at time
    match m.libEntry entry with
    | some e =>
      if !e.unverified then m
      else
        let addr := (m.region 1).1 + e.offset
        let bytes := m.dramRead addr e.len
        let ok := crc32c bytes == e.crc
        let k := ((m.chkLibrary addr e.len bytes e.crc).onLib entry fun x => { x with valid := ok, unverified := false }).syncLib
        if ok then k
        else (k.aud.reqs.filter fun q => q.started && q.type == 1 && q.source == entry).foldl (fun k q =>
          let zones := q.plays.map (·.zone)
          (({ k with aud := { k.aud with reqs := k.aud.reqs.filter fun x => !x.is q.requester q.tag } }).raise 0x5104 entry
            1).arbitrateAll zones) k
    | none => m)

/-! ### Audio streams (R485 to R488) -/

/-- The receiver's record of a stream. -/
def Node.audioIn (n : Node) (s : Nat) : AudioIn := (n.aud.inputs.find? fun a => a.stream == s).getD ⟨s, none, none, false, none⟩

/-- The record written. -/
def Node.putAudioIn (n : Node) (a : AudioIn) : Node :=
  { n with aud := { n.aud with inputs := n.aud.inputs.filter (fun (x : AudioIn) => x.stream != a.stream) ++ [a] } }

/-- The cycle of the last instance of a stream whose decision is due: t_n + P − 50,000 ns (R488). -/
def Node.audioDue (n : Node) (e : Strm) : Option Nat := n.dueCyc e (((2 ^ e.k * n.tc : Nat) : Int) - 50000)

/-- A copy of an instance that the tracker accepted (R488): kept for its decision, or counted when it comes later. -/
def Node.audioCopy (n : Node) (s cyc : Nat) (payload : List Byte) : Node :=
  let a := n.audioIn s
  if (a.decided.any fun d => decide (cyc ≤ d)) || ((n.audioDue (n.strm s)).any fun d => decide (cyc ≤ d)) then
    n.inc Reg.AUD_GAP_CNT
  else n.putAudioIn { a with got := some (cyc, payload) }

/-- AUDIO_INSTANCE_DECISION (R488): at t_n + P − 50,000 ns the instance is played, or is missed when no copy of it came or its
rate field differs. -/
def execAudioInstanceDecision (stream time : Nat) (s : State) : Host.Outcome State Fault Refusal :=
  .next (s.on fun n =>
    let m := n.at time
    let e := m.strmLive stream
    if !e.valid ∨ e.cls ≠ 1 ∨ !m.isDest e then m
    else
      let a := m.audioIn stream
      match m.audioDue e with
      | none => m
      | some cyc =>
        if a.decided = some cyc then m
        else
          let played := a.got.filter fun g => g.1 == cyc && byteAt g.2 1 == b2n m.aud.global.rate16
          match played with
          | some g => m.putAudioIn { a with
              decided := some cyc, silent := false, playAt := some (beAt g.2 4 8 + m.playDelay e) }
          | none => ((m.putAudioIn { a with decided := some cyc, silent := true }).inc Reg.AUD_GAP_CNT).raiseCounted 0x5105 stream
              m.tc stream)

/-- An output of a graph carries silence: its engine has failed (R68), or nothing feeds it (R492). -/
def Node.outSilent (n : Node) (e : Element) : Bool :=
  !(n.aud.connects.any fun c => c.graph == e.graph && c.toElem == e.elem) ||
  ((graphEngines n.aud.elements n.aud.global.rate16).any fun x => x.1 == e.graph && n.engFailed (x.2 + 2))

/-- The payload of an instance that the stream engines feed (R485, R487): the header and N samples, which are the engines', or
silence. -/
def Node.audioPayload (n : Node) (s : Nat) (e : Strm) : Node × List Byte :=
  let ns := 2 ^ e.k * n.tc
  let count := ns * n.fs / 1000000000
  let cyc := n.instanceCyc e
  let (m, samples) := n.freeBytes (count * (if n.aud.global.pcm24 then 3 else 2))
  let silent := n.aud.elements.any fun x => x.type == 0x23 && leAt x.params 0 2 == s && n.outSilent x
  (m, encBE 1 (if n.aud.global.pcm24 then 2 else 1) ++ encBE 1 (b2n n.aud.global.rate16) ++ encBE 2 count ++
    encBE 8 (n.sampleFrom (((cyc * n.tc : Nat) : Int) - ((ns + 250000 : Nat) : Int))) ++ zeros 4 ++
    (if silent then zeros samples.length else samples))

/-- GRAPH_OVERLOAD (R495): an engine misses its render deadline. -/
def execGraphOverload (engine time : Nat) (s : State) : Host.Outcome State Fault Refusal :=
  .next (s.on fun n =>
    let m := n.at time
    if engine < 8 then
      let k := m.inc (Reg.AUD_SE_MISS engine)
      k.raise 0x520E engine (k.reg (Reg.AUD_SE_MISS engine)).toNat
    else m)

/-- TDM_CLOCK_FAULT (R483): a slave port slips a frame. -/
def execTdmClockFault (port time : Nat) (s : State) : Host.Outcome State Fault Refusal :=
  .next (s.on fun n =>
    let m := n.at time
    if port < 4 ∧ m.bit Reg.AUD_CFG (4 + port) ∧ m.fld (Reg.AUD_TDM_CFG port) Fld.AUD_TDM_CFG_MASTER = 0 then
      (m.inc (Reg.AUD_TDM_SLIP port)).raiseCounted 0x510D port m.tc port
    else m)

/-! ### AAF on car ports (R489 to R491) -/

/-- The EtherType of IEEE 1722, and the code of a sample rate. -/
def aafType : Nat := 0x22F0
def aafRate (rate16 : Bool) : Nat := if rate16 then 2 else 5

/-- A PDU uses a value outside the subset of R489. -/
def Node.aafBad (n : Node) (b : List Byte) : Bool :=
  byteAt b 0 != 2 || !(byteAt b 1).testBit 7 || !(byteAt b 1).testBit 0 ||
  !(decide (2 ≤ byteAt b 16) && decide (byteAt b 16 ≤ 4)) || byteAt b 17 / 16 != aafRate n.aud.global.rate16 ||
  decide (beAt b 17 2 % 1024 < 1) || decide (8 < beAt b 17 2 % 1024) || (byteAt b 22).testBit 4

/-- AAF_PDU_RECEIVED (R489 to R491): a PDU of a declared talker on a consist port. A frame that is none is open traffic. -/
def execAafPduReceived (r : Rx) (s : State) : Host.Outcome State Fault Refusal :=
  .next (s.on fun n =>
    let m := (n.at r.stamp).echoBack r
    match m.rxFail r with
    | some e => m.rxCount r e
    | none =>
      let g := m.rxGood r
      let b := r.frame.body
      let own (f : AafStream) : Bool := !f.output && f.port + 4 == r.port && f.talker == beAt b 4 8
      match g.aud.aafs.find? own with
      | none => g.openIn r
      | some f =>
        if r.frame.etype ≠ aafType then g.openIn r
        else if r.room < frameCells r.frame then g.poolDrop r.port (pcpClass r.frame)
        else if g.aafBad b then g.inc Reg.AUD_AAF_DROP
        else
          let d := (BitVec.ofInt 32 ((beAt b 12 4 : Int) - g.trainNs)).toInt
          if d < -(2 * (g.tc : Int)) ∨ 16 * (g.tc : Int) < d then (g.inc Reg.AUD_AAF_DROP).raiseCounted 0x510F f.index g.tc f.index
          else
            let k := ((((g.trainNs + d) * g.fs + 500000000) / 1000000000) : Int).toNat
            let samples := (b.drop 24).take (beAt b 20 2)
            { g with aud := { g.aud with aafs := g.aud.aafs.map fun x =>
              if x.index == f.index then { x with placed := some (k, samples) } else x } })

/-- Bits of a sample of an AAF format code. -/
def aafBits (format : Nat) : Nat := if format = 2 then 32 else if format = 3 then 24 else 16

/-- A channel of an output stream carries silence. -/
def Node.aafSilent (n : Node) (f : AafStream) (ch : Nat) : Bool :=
  n.aud.elements.any fun x => x.type == 0x25 && byteAt x.params 0 == f.index && byteAt x.params 1 == ch && n.outSilent x

/-- One PDU of an output stream: `count` samples from sample `k`, those of a silent channel zero. -/
def Node.aafPdu (n : Node) (f : AafStream) (seq k count : Nat) : Node × Frame :=
  let len := count * f.channels * (aafBits f.format / 8)
  let (m, heard) := n.freeBytes len
  let samples := heard.mapIdx fun i b => if n.aafSilent f (i / (aafBits f.format / 8) % f.channels) then 0#8 else b
  (m, { dst := f.dst, src := n.identity, tag := some ⟨f.tci / 2 ^ 13, 0, f.tci % 4096⟩, etype := aafType,
        body := encBE 1 2 ++ encBE 1 0x81 ++ encBE 1 seq ++ zeros 1 ++ encBE 6 n.identity ++ encBE 2 f.unique ++
          encBE 4 (n.edgeNs k) ++ encBE 1 f.format ++ encBE 2 (aafRate n.aud.global.rate16 * 4096 + f.channels) ++
          encBE 1 (aafBits f.format) ++ encBE 2 len ++ zeros 2 ++ samples })

/-- The PDUs of a cycle as (offset in samples, samples): at most 1 ms of samples each (R490). -/
def aafParts (total ms : Nat) : List (Nat × Nat) :=
  (List.range ((total + ms - 1) / max ms 1)).map fun i => (i * ms, min ms (total - i * ms))

/-- AAF_PDU_SEND (R430, R490): once in a cycle an output stream sends the samples of cycle n + 2, on a port whose time service
is on. The start of its car slot, which follows no spine stream, is when the row comes (DESIGN CHOICE, log entry 118). -/
def execAafPduSend (index time : Nat) (s : State) : Host.Outcome State Fault Refusal :=
  .next (s.on fun n =>
    let m := n.at time
    match m.aud.aafs.find? fun f => f.output && f.index == index with
    | none => m
    | some f =>
      let p := f.port + 4
      if !m.instants ∨ !m.carSends p ∨ m.timeService p = 0 ∨ f.sentCyc = some m.cycleNow then m
      else
        let first := m.sampleFrom (((m.cycleNow + 2) * m.tc : Nat) : Int)
        let (k, seq) := (aafParts (m.tc * m.fs / 1000000000) (m.fs / 1000)).foldl (fun (a : Node × Nat) x =>
          let (k, fr) := a.1.aafPdu f a.2 (first + x.1) x.2
          (k.sendGated p 6 fr, (a.2 + 1) % 256)) (m, f.seq)
        { k with aud := { k.aud with aafs := k.aud.aafs.map fun x => if x.output && x.index == index then
          { x with seq := seq, sentCyc := some m.cycleNow } else x } })

end Sys2Proof.Machine
end

