-- ==== Sys2Proof/Machine/Calls.lean ====
section
/-! DEFINITION. Intercom call control (R511 to R516), call recording (R517, R518), the service stream (R498) and the messages
on it, and the two receptions that the services share with process data and with the slots of the cycle. -/

namespace Sys2Proof.Machine

/-! ### Handles, cabs and registers -/

/-- A call is the one of a handle. -/
def Call.is (c : Call) (pair station counter : Nat) : Bool :=
  c.pair == pair && c.station == station && c.counter == counter

/-- The second detail word of a handle (R527). -/
def Call.detail (c : Call) : Nat := c.station + c.counter * 256

/-- The vehicle tag of the active cab, 0 for none (R512). -/
def Node.activeCab (n : Node) : Nat :=
  if n.aud.cabSet ≠ 0 then n.aud.cabSet
  else ((n.ina.table.find? fun e => e.pos == 1).map fun e => n.tagOf e.identity).getD 0

/-- This node's own vehicle tag. -/
def Node.vehTag (n : Node) : Nat := (n.reg Reg.TOP_VEH_TAG).toNat

/-- This node is a cab node: it stands in the active cab's vehicle. -/
def Node.isCab (n : Node) : Bool := n.st == stRun && n.vehTag == n.activeCab

/-- The vehicle at the end of the train opposite to a cab: the far end from position 1, position 1 from any other. -/
def Node.oppositeCab (n : Node) (tag : Nat) : Nat :=
  let last := n.ina.table.foldl (fun a e => max a e.pos) 0
  let at_ (p : Nat) : Nat := ((n.ina.table.find? fun e => e.pos == p).map fun e => n.tagOf e.identity).getD 0
  if at_ last = tag then at_ 1 else at_ last

/-- The vehicle tag of a station's pair identity; 0 when it has left the train. -/
def Node.tagOfPair (n : Node) (pair : Nat) : Nat :=
  ((n.ina.table.find? fun e => n.pairIdOf e.identity == pair).map fun e => n.tagOf e.identity).getD 0

/-- The registers that show the calls (R522, R523, R526). -/
def Node.syncCalls (n : Node) : Node :=
  let live := (n.aud.calls.filter (·.slot.isSome)).length
  let queued := (n.aud.calls.filter (·.slot.isNone)).length
  let m := n.setReg Reg.AUD_CALLS (word (live + queued * 256 + n.aud.mine.length * 65536))
  let m := (m.setReg Reg.AUD_CAB_TAG (word n.activeCab)).setFld Reg.AUD_STAT Fld.AUD_STAT_CAB (b2n n.isCab)
  (List.range 16).foldl (fun m i =>
    match n.aud.calls.find? fun c => c.slot == some i with
    | some c =>
      let rec_ := n.aud.recordings.any fun r => r.pair == c.pair && r.station == c.station && r.counter == c.counter
      m.setRegs (Reg.AUD_CALL_STAT i)
        [word (c.state + b2n c.esc * 8 + b2n rec_ * 16 + c.station * 256 + c.counter * 65536 + c.cabStn * 2 ^ 24), word c.pair,
         c.reqStamp, c.ansStamp, word (c.up + c.down * 65536)]
    | none => m.setRegs (Reg.AUD_CALL_STAT i) [0#32, 0#32, 0#32, 0#32, 0#32]) m

/-- A call changed, as cab node and as station node. -/
def Node.onCall (n : Node) (c : Call) (f : Call → Call) : Node :=
  { n with aud := { n.aud with calls := n.aud.calls.map fun x => if x.is c.pair c.station c.counter then f x else x } }
def Node.onMine (n : Node) (c : Call) (f : Call → Call) : Node :=
  { n with aud := { n.aud with mine := n.aud.mine.map fun x => if x.is c.pair c.station c.counter then f x else x } }

/-- A station of this node. -/
def Node.station (n : Node) (i : Nat) : Option Station := n.aud.stations.find? fun x => x.index == i

/-- A station changed. -/
def Node.onStation (n : Node) (i : Nat) (f : Station → Station) : Node :=
  { n with aud := { n.aud with stations := n.aud.stations.map fun x => if x.index == i then f x else x } }

/-! ### Streams of the services (R498, R514) -/

/-- The stream table entry of a declaration of the services: this node or its pair as source, both lines. -/
def Node.svcEntry (n : Node) (cls dkind darg1 size deadline : Nat) : List Word :=
  Strm.words { noStrm with src := if n.paired then (n.reg Reg.TOP_PAIR_ID).toNat else n.identity, valid := true,
                           pair := n.paired, cls := cls, lines := 3, secure := n.instSecure instAud, dkind := dkind,
                           darg1 := darg1, k := 0, size := size, deadline := deadline }

/-- A declaration of the services is requested. -/
def Node.declare (n : Node) (d : AudDecl) (entry : List Word) : Node :=
  let (m, tag) := n.request 1 d.stream 0 entry
  { m with aud := { m.aud with decls := m.aud.decls ++ [{ d with tag := tag }] } }

/-- The lowest ID of the call stream pool from `first` on that is in use neither in the train nor here; 0 for none. -/
def Node.poolFree (n : Node) (first : Nat) : Nat :=
  (((List.range n.aud.global.poolCount).map (n.aud.global.poolFirst + ·)).find? fun s =>
    decide (first ≤ s) && !(n.strm s).valid && !(n.aud.decls.any fun d => d.stream == s)).getD 0

/-- The audio stream of a call is declared toward a vehicle (R514): its ID, 0 when the pool has none. -/
def Node.declareCall (n : Node) (use first tag : Nat) (c : Call) : Node × Nat :=
  let s := n.poolFree first
  if s = 0 then (n, 0)
  else (n.declare ⟨0, s, use, c.pair, c.station, c.counter⟩ (n.svcEntry 1 6 tag (n.audioSize 0) (n.tc - 50000)), s)

/-- A stream of a call is removed at its end (R514). -/
def Node.dropStream (n : Node) (s : Nat) : Node :=
  if s ≠ 0 ∧ n.ownStream (n.strm s) then (n.request 2 s 0 []).1 else n

/-! ### Call messages (R513, R515) -/

/-- The call message of a call. -/
def Call.bytes (c : Call) (type cause : Nat) : List Byte :=
  encBE 1 type ++ encBE 1 cause ++ encBE 4 c.pair ++ encBE 1 c.station ++ encBE 1 c.counter ++ encBE 4 c.cabTag ++
  encBE 2 c.up ++ encBE 2 c.down ++ encBE 1 c.cabStn ++ encBE 1 (b2n c.esc) ++ zeros 2 ++ encBE 4 c.reqStamp.toNat

/-- The call that a message describes. -/
def callOf (b : List Byte) : Call :=
  { pair := beAt b 2 4, station := byteAt b 6, counter := byteAt b 7, state := 2, esc := (byteAt b 17).testBit 0,
    reqStamp := word (beAt b 20 4), ansStamp := 0#32, up := beAt b 12 2, down := beAt b 14 2, cabTag := beAt b 8 4,
    cabStn := byteAt b 16, slot := none, since := 0 }

/-- The lowest free call slot. -/
def Node.freeSlot (n : Node) : Option Nat :=
  (List.range 16).find? fun i => !(n.aud.calls.any fun c => c.slot == some i)

/-- A queued call takes the slot that an ended one leaves: the oldest request stamp first (R515). -/
def Node.promote (n : Node) : Node :=
  let older (a b : Call) : Call := if seqPrecedes b.reqStamp.toNat a.reqStamp.toNat then b else a
  match n.freeSlot, n.aud.calls.filter (·.slot.isNone) with
  | some i, c :: cs =>
    let first := cs.foldl older c
    n.onCall first fun x => { x with slot := some i, state := 2, since := n.tm.raw }
  | _, _ => n

/-- A request reaches a cab node (R515): it rings, is queued, or finds the queue full. Without a cab station in the active cab
the call rings at the opposite end at once. -/
def Node.callIn (n : Node) (c : Call) : Node :=
  let known := n.aud.calls.any fun x => x.is c.pair c.station c.counter
  let here := if c.esc then n.vehTag == n.oppositeCab c.cabTag else n.vehTag == c.cabTag
  let say (m : Node) (code d0 d1 : Nat) : Node := if m.holder && !c.esc then m.raise code d0 d1 else m
  if !here then n
  else if known then n.onCall c fun x => { x with up := c.up, esc := x.esc || c.esc }
  else
    let slot := n.freeSlot
    if slot.isNone ∧ 64 ≤ (n.aud.calls.filter (·.slot.isNone)).length then say n 0x510B c.pair c.station
    else
      let x := { c with slot := slot, state := if slot.isSome then 2 else 1, since := n.tm.raw }
      let m := say { n with aud := { n.aud with calls := n.aud.calls ++ [x] } } 0x5007 c.pair c.detail
      if c.esc || m.aud.stations.any (·.cab) then m
      else
        let k := say m 0x5110 n.vehTag 0
        let k := k.onCall c fun y => { y with esc := true }
        if k.holder then k.svcSend ({ x with esc := true }.bytes 8 0) else k

/-- Connect, hold and end messages at the nodes that hold the call (R515); the cab node's holder reports them. -/
def Node.callUpdate (n : Node) (c : Call) (type cause : Nat) : Node :=
  let held := n.aud.calls.find? fun x => x.is c.pair c.station c.counter
  let here := held.any fun x => x.cabTag == n.vehTag && n.holder
  let state := if type = 9 then 3 else 4
  if type = 11 then
    let own := n.aud.mine.find? fun x => x.is c.pair c.station c.counter
    let m := if here then n.raise 0x5009 c.pair (c.detail + cause * 65536) else n
    let m := match held with
      | some x => if m.holder then m.dropStream x.down else m
      | none => m
    let m := match own with
      | some x => if m.holder then m.dropStream x.up else m
      | none => m
    let stop (r : Recording) : Recording :=
      if r.pair == c.pair && r.station == c.station && r.counter == c.counter then { r with fin := some m.sampleNow } else r
    let m := { m with aud := { m.aud with
      calls := m.aud.calls.filter fun (x : Call) => !x.is c.pair c.station c.counter
      mine := m.aud.mine.filter fun (x : Call) => !x.is c.pair c.station c.counter
      recordings := m.aud.recordings.map stop } }
    if held.isSome then m.promote else m
  else
    let m := if type = 9 ∧ here then n.raise 0x5008 c.pair (c.detail + c.cabStn * 65536) else n
    let set (x : Call) : Call :=
      { x with state := state, down := c.down, cabStn := c.cabStn, ansStamp := if type = 9 then m.stamp else x.ansStamp }
    (m.onCall c set).onMine c set

/-- A station of this node or of its pair asks (R511, R517): both nodes of a pair hold the open call and its recording. -/
def Node.mineIn (n : Node) (c : Call) : Node :=
  if c.esc || c.pair != (n.reg Reg.TOP_PAIR_ID).toNat || (n.station c.station).isNone ||
      n.aud.mine.any (fun x => x.is c.pair c.station c.counter) then n
  else
    let m := n.onStation c.station fun x => { x with counter := c.counter }
    { m with aud := { m.aud with
      mine := m.aud.mine ++ [{ c with state := 1, since := n.tm.raw }]
      recordings := m.aud.recordings ++ [Recording.mk c.pair c.station c.counter n.sampleNow 0 none] } }

/-- A call message is taken (R513, R515). -/
def Node.callTake (n : Node) (b : List Byte) : Node :=
  let c := callOf b
  let m := match byteAt b 0 with
    | 8 => (n.mineIn c).callIn c
    | 9 => n.callUpdate c 9 0
    | 10 => n.callUpdate c 10 0
    | 11 => n.callUpdate c 11 (byteAt b 1)
    | _ => n
  m.syncCalls

/-- A call message is sent to every node, and taken here. -/
def Node.callSend (n : Node) (c : Call) (type cause : Nat) : Node :=
  (n.svcSend (c.bytes type cause)).callTake (c.bytes type cause)

/-- A service message (R499, R513). -/
def Node.serviceMsg (n : Node) (m : InMsg) : Node :=
  if !n.servicesOn then n
  else if 1 ≤ byteAt m.bytes 0 ∧ byteAt m.bytes 0 ≤ 4 then n.paTake m.bytes
  else n.callTake m.bytes

/-- PA_MESSAGE_RECEIVED (R500 to R502, R508). -/
def execPaMessageReceived (r : Rx) (s : State) : Host.Outcome State Fault Refusal :=
  .next (s.on fun n => n.msgFrame r n.svcRange Node.serviceMsg)

/-- CALL_MESSAGE_RECEIVED (R514, R515). -/
def execCallMessageReceived (r : Rx) (s : State) : Host.Outcome State Fault Refusal :=
  .next (s.on fun n => n.msgFrame r n.svcRange Node.serviceMsg)

/-! ### Requests of stations (R511, R514, R515) -/

/-- A station requests a call (R511, R514): only the holder of the station's node decides, and only while no call of it is
open. -/
def Node.callRequest (n : Node) (st : Station) : Node :=
  let pair := (n.reg Reg.TOP_PAIR_ID).toNat
  if !n.holder || !n.servicesOn || n.st != stRun || n.aud.mine.any (fun x => x.station == st.index) then n
  else
    let c : Call :=
      { pair := pair, station := st.index, counter := (st.counter + 1) % 256, state := 1, esc := false, reqStamp := n.stamp,
        ansStamp := 0#32, up := 0, down := 0, cabTag := n.activeCab, cabStn := 0, slot := none, since := n.tm.raw }
    let (m, up) := n.declareCall 1 0 c.cabTag c
    m.callSend { c with up := up } 8 0

/-- CALL_REQUEST_REPEAT (R515): every 1 s a station node repeats a request that no cab node has taken up. -/
def execCallRequestRepeat (station time : Nat) (s : State) : Host.Outcome State Fault Refusal :=
  .next (s.on fun n =>
    let m := n.at time
    match m.aud.mine.find? fun c => c.station == station && c.state == 1 && decide (c.since + 1000000000 ≤ m.tm.raw) with
    | some c =>
      if m.holder && m.servicesOn then (m.onMine c fun x => { x with since := m.tm.raw }).callSend c 8 0 else m
    | none => m)

/-- A call is connected to a cab station (R514, R515): a call connected there is held, and the downlink is declared at the first
connect. -/
def Node.answer_ (n : Node) (c : Call) (cabStn : Nat) : Node :=
  let others := n.aud.calls.filter fun x =>
    x.state == 3 && x.cabStn == cabStn && !x.is c.pair c.station c.counter
  let m := others.foldl (fun k x => k.callSend x 10 0) n
  let (m, down) := if c.down = 0 then m.declareCall 2 0 (m.tagOfPair c.pair) c else (m, c.down)
  m.callSend { c with down := down, cabStn := cabStn } 9 0

/-- The ringing call with the oldest request stamp (R515). -/
def Node.oldestRinging (n : Node) : Option Call :=
  let older (a b : Call) : Call := if seqPrecedes b.reqStamp.toNat a.reqStamp.toNat then b else a
  match n.aud.calls.filter fun c => c.state == 2 with
  | [] => none
  | c :: cs => some (cs.foldl older c)

/-- An edge to active of a line requests a call at the stations that it feeds, and at a cab station's answer line it answers
(R511, R515). -/
def Node.stationLine (n : Node) (l : Nat) : Node :=
  let m := (n.aud.stations.filter fun x => x.flags.testBit 1 && x.line == l).foldl Node.callRequest n
  (m.aud.stations.filter fun x => x.cab && x.answer == l && l != 0xFF).foldl (fun k x =>
    if k.holder && k.servicesOn then
      match k.oldestRinging with
      | some c => k.answer_ c x.index
      | none => k
    else k) m

/-- LINE_EDGE (R463 to R467, R511, R515). -/
def execLineEdge (line : Nat) (level : Bool) (time : Nat) (s : State) : Host.Outcome State Fault Refusal :=
  .next (s.on fun n =>
    let m := n.at time
    let k := m.lineEdge line level
    if line < 36 ∧ k.lineLevel line ≠ m.lineLevel line ∧ k.lineActive line then k.stationLine line else k)

/-- The stations fed by a bit of a dataset take its decided value: an edge to active requests a call (R511). -/
def Node.stationBits (n : Node) (s : Nat) : Node :=
  match (n.dsIndex s).bind n.dsAt with
  | none => n
  | some d =>
    let data := ((d.decided.map (·.data)).getD d.shown.data)
    (n.aud.stations.filter fun x => x.flags.testBit 2 && x.stream == s).foldl (fun m x =>
      let v := dataBit data x.bit
      let k := m.onStation x.index fun y => { y with level := v }
      if v && !x.level then k.callRequest { x with level := v } else k) n

/-- DECISION_POINT (R447, R451, R452, R511). -/
def execDecisionPoint (stream time : Nat) (s : State) : Host.Outcome State Fault Refusal :=
  .next (s.on fun n => ((n.at time).decisionPoint stream).stationBits stream)

/-- CALL_ESCALATED (R515): a call that has rung for the escalation time also rings at the opposite end. -/
def execCallEscalated (pair station counter time : Nat) (s : State) : Host.Outcome State Fault Refusal :=
  .next (s.on fun n =>
    let m := n.at time
    match m.aud.calls.find? fun c => c.is pair station counter && c.state == 2 && !c.esc &&
        decide (c.since + m.aud.global.escalation * 1000000000 ≤ m.tm.raw) with
    | some c =>
      if !m.holder || !m.servicesOn then m
      else
        let k := (m.onCall c fun x => { x with esc := true }).raise 0x510A c.pair c.detail
        (k.svcSend ({ c with esc := true }.bytes 8 0)).syncCalls
    | none => m)

/-! ### Commits (R498, R512, R515) -/

/-- The service stream is sought from an ID on, wrapping within the service range (R498). -/
def Node.declareService (n : Node) (k : Nat) : Node :=
  let g := n.aud.global
  let s := g.svcFirst + k % g.svcCount
  n.declare ⟨0, s, 0, 0, 0, k⟩ (n.svcEntry 2 5 0 1468 n.tc)

/-- The service stream as the stream table shows it; once active, the messages that waited go out. -/
def Node.syncService (n : Node) : Node :=
  match n.validStreams.find? fun s => n.svcRange s && n.ownStream (n.strm s) with
  | some s =>
    let m := (n.setFld Reg.AUD_STAT Fld.AUD_STAT_SVC_STREAM 1).setFld Reg.AUD_STAT Fld.AUD_STAT_SVC_ID s
    let m := { m with aud := { m.aud with outbox := [] } }
    if n.holder then n.aud.outbox.foldl (fun k b => k.postMsg s [] b) m else m
  | none => n.setFld Reg.AUD_STAT Fld.AUD_STAT_SVC_STREAM 0

/-- The declarations of the services whose verdicts have come: one rejected with reason 7 tries the next ID (R498, R514). -/
def Node.settleDecls (n : Node) : Node :=
  let settled := n.aud.decls.filter fun d => !n.plc.mine.any fun q => q.tag == d.tag
  let taken (d : AudDecl) : Bool := n.plc.rejected.contains (d.tag, 7)
  let m := { n with
    aud := { n.aud with decls := n.aud.decls.filter fun (d : AudDecl) => n.plc.mine.any fun (q : PlcReq) => q.tag == d.tag }
    plc := { n.plc with rejected := [] } }
  let again (m : Node) (d : AudDecl) : Node :=
    if !taken d then m
    else if d.use = 0 then (if d.counter + 1 < (n.num - 1) + n.aud.global.svcCount then m.declareService (d.counter + 1) else m)
    else
      match (if d.use = 1 then m.aud.mine else m.aud.calls).find? fun c => c.is d.pair d.station d.counter with
      | none => m
      | some c =>
        let (k, s) := m.declareCall d.use (d.stream + 1) (if d.use = 1 then c.cabTag else m.tagOfPair c.pair) c
        if d.use = 1 then (k.onMine c fun x => { x with up := s }).callSend { c with up := s } 8 0
        else k.callSend { c with down := s } 9 0
  (settled.foldl again m).syncService

/-- A change of the active cab (R512): calls that ring or wait here are left to the new cab, and stations send their open
requests again. -/
def Node.cabChanged (n : Node) : Node :=
  let cab := n.activeCab
  if n.aud.cabWas = cab then n.syncCalls
  else
    let m := { n with aud := { n.aud with
      cabWas := cab
      calls := n.aud.calls.filter fun (c : Call) => decide (3 ≤ c.state) || c.cabTag == cab } }
    let open_ := m.aud.mine.filter fun c => c.state == 1
    let k := open_.foldl (fun k c =>
      let x := { c with cabTag := cab }
      let k := k.onMine c fun _ => x
      if k.holder then k.callSend x 8 0 else k) m
    k.syncCalls

/-- What a commit does to the services: the service stream at the first commit in RUN (R498), the active cab (R512), and the
calls whose station node has left the train (R515). -/
def Node.callCommit (n : Node) : Node :=
  let m :=
    if n.st == stRun && !n.aud.svcAsked && n.aud.global.svcCount != 0 && n.holder && n.servicesOn then
      { n with aud := { n.aud with svcAsked := true } }.declareService (n.num - 1)
    else n
  let gone := m.aud.calls.filter fun c => !(m.ina.table.any fun e => m.pairIdOf e.identity == c.pair)
  let m := gone.foldl (fun k c => if k.holder then k.callSend c 11 3 else (k.callUpdate c 11 3)) m
  m.cabChanged

/-! ### Commands (R515, R521) -/

/-- CALL_STATUS (R519, R521). -/
def execCallStatus (c : Cmd) (s : State) : Host.Outcome State Fault Refusal :=
  .next (s.runs c 0x0601 fun n => n.command c (.inst instAud) 1 fun m =>
    if !m.bit Reg.TOP_PD_STATE 4 then .fail m sState
    else if 16 ≤ arg c 0 then .fail m sArgs
    else .done m sOk (m.getRegs (Reg.AUD_CALL_STAT (arg c 0)) 5))

/-- The handle that two argument words name is this call's. -/
def handleIs (c : Cmd) (x : Call) : Bool := x.is (arg c 0) (arg c 1 % 256) (arg c 1 / 256)

/-- CALL_ANSWER (R515, R521). -/
def execCallAnswer (c : Cmd) (s : State) : Host.Outcome State Fault Refusal :=
  .next (s.runs c 0x0602 fun n => n.service c 3 fun m =>
    if !(m.aud.stations.any fun x => x.cab && x.index == arg c 2) then .fail m sArgs
    else if !m.isCab || !m.holder then .fail m sState
    else
      let found := if arg c 0 = 0 then m.oldestRinging
        else m.aud.calls.find? fun x => handleIs c x && (x.state == 2 || x.state == 4)
      match found with
      | some x => .done (m.answer_ x (arg c 2)) sOk []
      | none => .fail m sState)

/-- CALL_HOLD (R515, R521). -/
def execCallHold (c : Cmd) (s : State) : Host.Outcome State Fault Refusal :=
  .next (s.runs c 0x0603 fun n => n.service c 2 fun m =>
    match m.aud.calls.find? fun x => handleIs c x && x.state == 3 with
    | some x => if m.holder then .done (m.callSend x 10 0) sOk [] else .fail m sState
    | none => .fail m sState)

/-- CALL_END (R515, R521): at the cab node cause 1, at the station node cause 2. -/
def execCallEnd (c : Cmd) (s : State) : Host.Outcome State Fault Refusal :=
  .next (s.runs c 0x0604 fun n => n.service c 2 fun m =>
    match m.aud.calls.find? (handleIs c), m.aud.mine.find? (handleIs c) with
    | some x, _ => if m.holder then .done (m.callSend x 11 1) sOk [] else .fail m sState
    | none, some x => if m.holder then .done (m.callSend x 11 2) sOk [] else .fail m sState
    | none, none => .fail m sArgs)

/-- CALL_CAB_SET (R512, R521). -/
def execCallCabSet (c : Cmd) (s : State) : Host.Outcome State Fault Refusal :=
  .next (s.runs c 0x0605 fun n => n.service c 1 fun m =>
    if arg c 0 ≠ 0 ∧ !(m.ina.table.any fun e => m.tagOf e.identity == arg c 0) then .fail m sArgs
    else .done { m with aud := { m.aud with cabSet := arg c 0 } }.cabChanged sOk [])

/-! ### Recording (R517, R518) -/

/-- The slots of the recording region, and the count that the registers show. -/
def Node.recSlots (n : Node) : Nat := (n.region 2).2 / 49152
def Node.syncRec (n : Node) : Node :=
  n.setReg Reg.AUD_REC_SLOTS (word (n.recSlots + (n.aud.slots.filter (·.prot)).length * 65536))

/-- The next unprotected slot in ascending order from `AUD_REC_NEXT`, wrapping at the end (R518). -/
def Node.nextRec (n : Node) : Option Nat :=
  let count := n.recSlots
  let from_ := (n.reg Reg.AUD_REC_NEXT).toNat % 65536
  ((List.range count).map fun i => (from_ + i) % count).find? fun s =>
    !(n.aud.slots.any fun x => x.slot == s && x.prot)

/-- A block written to a slot (R517): its header, and frames that are the graph's. -/
def Node.writeBlock (n : Node) (slot : Nat) (r : Recording) (frames : Nat) (last : Bool) : Node :=
  let (m, bytes) := n.freeBytes (frames * 4)
  let ns : Int := n.edgeNs r.next
  let head := encLE 6 (secOf ns) ++ zeros 2 ++ encLE 4 (nsOf ns) ++ encLE 4 r.pair ++ encLE 1 r.station ++ encLE 1 r.counter ++
    encLE 2 frames ++ encLE 4 r.block ++ encLE 4 (crc32c bytes) ++ encLE 1 (b2n n.aud.global.rate16) ++ encLE 1 (b2n last) ++ zeros 2
  let k := m.dramWrite ((m.region 2).1 + slot * 49152) (head ++ bytes)
  let rest := k.aud.slots.filter fun x => x.slot != slot
  let k := { k with aud := { k.aud with slots := rest ++ [RecSlot.mk slot r.pair r.station r.counter r.block false] } }
  (k.setReg Reg.AUD_REC_NEXT (word ((slot + 1) % max k.recSlots 1))).syncRec

/-- RECORDING_BLOCK_WRITE (R517, R518): the holder of the station node writes the block that ends now; a standby only keeps
count. With every slot protected, recording stops. -/
def execRecordingBlockWrite (station time : Nat) (s : State) : Host.Outcome State Fault Refusal :=
  .next (s.on fun n =>
    let m := n.at time
    match m.aud.recordings.find? fun r => r.station == station with
    | none => m
    | some r =>
      let full := m.fs / 4
      if m.sampleNow < (r.fin.map fun e => min e (r.next + full)).getD (r.next + full) then m else
      let frames := match r.fin with
        | some e => min (e - r.next) full
        | none => full
      let last := r.fin.any fun e => decide (e ≤ r.next + full)
      let mine (x : Recording) : Bool := x.pair == r.pair && x.station == r.station && x.counter == r.counter
      let step (x : Recording) : Recording := if mine x then { x with next := x.next + full, block := x.block + 1 } else x
      let recs : List Recording := if last then m.aud.recordings.filter fun x => !mine x else m.aud.recordings.map step
      let on := { m with aud := { m.aud with recordings := recs } }
      if !m.holder then on
      else match on.nextRec with
        | some slot => ((on.writeBlock slot r frames last).setFld Reg.AUD_STAT Fld.AUD_STAT_REC_FULL 0).syncCalls
        | none =>
          let k := if on.fld Reg.AUD_STAT Fld.AUD_STAT_REC_FULL = 1 then on else on.raise 0x520C r.pair r.station
          (k.setFld Reg.AUD_STAT Fld.AUD_STAT_REC_FULL 1).syncCalls)

/-- The slots of a recorded call. -/
def Node.recOfCall (n : Node) (c : Cmd) : List RecSlot :=
  n.aud.slots.filter fun x => x.pair == arg c 0 && x.station == arg c 1 % 256 && x.counter == arg c 1 / 256

/-- CALL_REC_PROTECT (R518, R521). -/
def execCallRecProtect (c : Cmd) (s : State) : Host.Outcome State Fault Refusal :=
  .next (s.runs c 0x0606 fun n => n.service c 3 fun m =>
    let mine := m.recOfCall c
    if mine.isEmpty ∨ 1 < arg c 2 then .fail m sArgs
    else
      let on := arg c 2 == 1
      let mark (x : RecSlot) : RecSlot := if mine.contains x then { x with prot := on } else x
      let k := { m with aud := { m.aud with slots := m.aud.slots.map mark } }
      let k := mine.foldl (fun k x =>
        let a := (k.region 2).1 + x.slot * 49152 + 0x1D
        k.dramWrite a [BitVec.ofNat 8 (withBits (byteAt (k.dramRead a 1) 0) 1 1 (b2n on))]) k
      let k := if on then k else k.setFld Reg.AUD_STAT Fld.AUD_STAT_REC_FULL 0
      .done k.syncRec sOk [word mine.length])

/-- CALL_REC_FIND (R521). -/
def execCallRecFind (c : Cmd) (s : State) : Host.Outcome State Fault Refusal :=
  .next (s.runs c 0x0607 fun n => n.service c 2 fun m =>
    match m.recOfCall c with
    | [] => .fail m sArgs
    | x :: xs =>
      let first := xs.foldl (fun (a y : RecSlot) => if y.block < a.block then y else a) x
      .done m sOk [word first.slot, word (xs.length + 1)])

/-! ### Slots (R221, R223, R394, R488) -/

/-- TAKE_INSTANT (R220 to R223): at the take instant of a stream that this node originates in the cycle, a status stream only notes whether polled data waits; an audio stream takes what its stream
engines have rendered; any other takes its latest complete buffer. -/
def execTakeInstant (stream time : Nat) (s : State) : Host.Outcome State Fault Refusal :=
  .next (s.on fun n =>
    let m := n.at time
    let e := m.strmLive stream
    if !m.takeNow stream then m
    else if stream = 0 then m.putTx { m.txOf 0 with pend := m.hasPolled }
    else if !e.valid ∨ !m.ownStream e then m
    else if e.cls = 1 then
      let (k, payload) := m.audioPayload stream e
      k.putTx { k.txOf stream with send := payload, fresh := false, age := 0, aged := false, pend := k.hasPolled }
    else m.takeBuffer stream)

/-- A SLOT frame that passed the checks reaches the tracker of its stream, and from there its dataset or audio input (R394,
R451, R488). -/
def Node.slotDeliver (n : Node) (h : SpineHdr) (_src : NumEntry) (payload : List Byte) (lineB : Bool) : Node :=
  let e := n.strmLive h.sid
  if !e.valid || !n.isDest e then n
  else
    let (m, taken) := n.track h.sid h.seq h.age h.check h.ci
    let m := if taken then m.chkPass 4 h.sid h.seq payload else m
    let cyc := extend32 m.cycleNow h.cycle
    if e.cls = 0 then m.dsCopy h.sid cyc (if h.ageValid then h.age else 0) payload lineB taken
    else if e.cls = 1 ∧ taken then m.audioCopy h.sid cyc payload
    else m

/-- SLOT_FRAME_RECEIVED (R158, R214 to R216, R391 to R396). -/
def execSlotFrameReceived (r : Rx) (s : State) : Host.Outcome State Fault Refusal :=
  .next (s.on fun n => n.slotFrame r false Node.slotDeliver)

end Sys2Proof.Machine
end

