-- ==== Sys2Proof/Machine/Can.lean ====
section
/-! DEFINITION. The CAN controllers (chapter 12): frame entries (R532), transmit queues and objects (R534 to R542), locks and
shadows (R543 to R546), completions and cancels (R547 to R550), clashes (R551 to R553), error states (R554 to R556), timed
transmission (R557) and their commands (R561). When the start of a frame has been sent on the bus is a fact of the bus and
comes with the command. -/

namespace Sys2Proof.Machine

/-! ### Controllers -/

/-- A controller's state. -/
def Node.ctl (n : Node) (c : Nat) : CanState := n.can.getD c CanState.reset

/-- A controller's state changed. -/
def Node.onCtl (n : Node) (c : Nat) (f : CanState → CanState) : Node := { n with can := modifyAt n.can c f }

/-- The controller is enabled, its power domain on (R528), and it is in compatibility mode (R539). -/
def Node.canOn (n : Node) (c : Nat) : Bool := decide (c < 4) && n.bit (Reg.CAN_CFG c) 0 && n.bit Reg.TOP_PD_STATE 11
def Node.canCompat (n : Node) (c : Nat) : Bool := n.bit (Reg.CAN_CFG c) 1
def Node.canFd (n : Node) (c : Nat) : Bool := n.bit (Reg.CAN_CFG c) 2

/-- The instance of a controller in the world map (R646). -/
def instCan (c : Nat) : Nat := 32 + c

/-- A CAN event of severity note or warning, limited per controller (R566), with the occurrences or a word of its own. -/
def Node.canNote (n : Node) (code c d0 : Nat) : Node :=
  match n.occurIn code c 1000000 with
  | (m, some k) => m.raise code d0 k
  | (m, none) => m
def Node.canNote2 (n : Node) (code c d0 d1 : Nat) : Node :=
  match n.occurIn code c 1000000 with
  | (m, some _) => m.raise code d0 d1
  | (m, none) => m

/-! ### Frame entries (R532, R533) -/

/-- Word `i` of an entry as a number. -/
def wAt (e : List Word) (i : Nat) : Nat := (e.getD i 0#32).toNat

/-- The bytes that a data length code names. -/
def dlcLen (dlc : Nat) (fdf : Bool) : Nat :=
  if dlc ≤ 8 then dlc
  else if !fdf then 8
  else match dlc with
    | 9 => 12 | 10 => 16 | 11 => 20 | 12 => 24 | 13 => 32 | 14 => 48 | _ => 64

/-- The tag of an entry. -/
def entryTag (e : List Word) : Nat := wAt e 1 / 65536

/-- The 21 words of a received frame (R532, R533). -/
def rxEntry (f : CanFrame) (tag : Nat) (stamp w3 : Word) (flags : Nat) : List Word :=
  [word (f.id % 2 ^ 29 + b2n f.ide * 2 ^ 29 + b2n f.rtr * 2 ^ 30),
   word (f.dlc % 16 + b2n f.fdf * 16 + b2n f.brs * 32 + b2n f.esi * 64 + tag % 65536 * 65536), stamp, w3] ++
  wordsLE (slice (f.data.take (if f.rtr then 0 else dlcLen f.dlc f.fdf)) 0 64) 16 ++ [word flags]

/-- The frame of an entry. -/
def frameOf (e : List Word) : CanFrame :=
  let fdf := (wAt e 1).testBit 4
  let rtr := (wAt e 0).testBit 30
  let len := if rtr then 0 else dlcLen (wAt e 1 % 16) fdf
  { id := wAt e 0 % 2 ^ 29, ide := (wAt e 0).testBit 29, rtr := rtr, dlc := wAt e 1 % 16, fdf := fdf,
    brs := (wAt e 1).testBit 5, esi := (wAt e 1).testBit 6,
    data := ((List.range 16).flatMap fun i => encLE 4 (wAt e (4 + i))).take len }

/-- The words of an object as its registers hold them. -/
def Node.objWords (n : Node) (c o : Nat) : List Word := n.getRegs (Reg.CAN_OBJ c o) 21

/-- A flag of the last word of an object: 0 `NEW`, 1 `OVERRUN`, 2 `LOCKED`, 3 `SHADOW`, 4 `TXREQ`. -/
def Node.objFlag (n : Node) (c o i : Nat) : Bool := n.bit (Reg.CAN_OBJ c o + 80) i

/-- An object's flag changed; `NEW` and `TXREQ` show in their bitmaps too (R540, R541). -/
def Node.setObjFlag (n : Node) (c o i : Nat) (b : Bool) : Node :=
  let m := n.setBit (Reg.CAN_OBJ c o + 80) i b
  if i = 0 then m.setBit (Reg.CAN_OBJ_NEW c (o / 32)) (o % 32) b
  else if i = 4 then m.setBit (Reg.CAN_OBJ_TXREQ c (o / 32)) (o % 32) b
  else m

/-- The lock on an entry. -/
def Node.canLock (n : Node) (c kind idx : Nat) : Option CanLock :=
  (n.ctl c).locks.find? fun l => l.kind == kind && l.idx == idx

/-- The registers that show queues, FIFOs and completions (R562). -/
def Node.syncCan (n : Node) (c : Nat) : Node :=
  let x := n.ctl c
  let m := x.queues.zipIdx.foldl (fun m q =>
    let head := q.1.head?
    let held := head.any fun e => (wAt e.words 1).testBit 7 && !e.released
    m.setReg (Reg.CAN_TXQ_STAT c q.2)
      (word (q.1.length + b2n held * 128 + ((head.map fun e => entryTag e.words).getD 0) * 65536))) n
  let m := x.fifos.zipIdx.foldl (fun m f =>
    let locked := (n.canLock c 0 f.2).isSome
    let shadow := (x.shadows.getD f.2 none).isSome
    let k := m.setReg (Reg.CAN_RXF_STAT c f.2) (word (f.1.length + b2n shadow * 128 + b2n locked * 256))
    let head := (f.1.head?).getD (List.replicate 21 0#32)
    let last := wAt head 20 + (if f.1.isEmpty then 0 else b2n locked * 4 + b2n shadow * 8)
    k.setRegs (Reg.CAN_RXF_WIN c f.2) (head.take 20 ++ [word last])) m
  let m := m.setReg (Reg.CAN_TXC_STAT c) (word (x.comps.length + b2n x.compOvf * 128 + min x.compLost 65535 * 65536))
  match x.comps with
  | [] => m.setRegs (Reg.CAN_TXC_WIN c) [0#32, 0#32, 0#32]
  | e :: _ => m.setRegs (Reg.CAN_TXC_WIN c)
      [word (e.w0.toNat + b2n e.gap * 2 ^ 28 + 2 ^ 31), e.stamp, word (min e.lost 65535 + min e.attempts 255 * 65536)]

/-! ### Completions (R547, R548) -/

/-- A completion joins the queue; a full queue follows R328. -/
def Node.compPush (n : Node) (c : Nat) (w0 stamp : Word) (attempts : Nat) : Node :=
  let x := n.ctl c
  if 64 ≤ x.comps.length then n.onCtl c fun x => { x with compOvf := true, compLost := x.compLost + 1 }
  else
    let m := n.onCtl c fun x =>
      { x with comps := x.comps ++ [CanComp.mk w0 stamp attempts x.compOvf x.compLost], compOvf := false, compLost := 0 }
    if x.compOvf then m.canNote2 0x590A c c x.compLost else m

/-- An entry ends with a status (R547, R548): reported when it asks for it or the status is not SENT; a command that waits
for its cancel completes. -/
def Node.canEnd (n : Node) (c : Nat) (obj : Bool) (idx : Nat) (e : TxEntry) (status : Nat) (stamp : Word) : Node :=
  let tag := entryTag e.words
  let m := if status = 2 then n.inc (Reg.CAN_CANCEL_CNT c) else n
  let m :=
    if (wAt e.words 1).testBit 8 ∨ status ≠ 1 then
      m.compPush c (word (tag + idx * 65536 + b2n obj * 2 ^ 23 + status * 2 ^ 24)) stamp e.attempts
    else m
  let m := if status = 3 then m.canNote2 0x5802 c (c + tag * 65536) (wAt e.words 0) else m
  let m := if status = 5 then (m.inc (Reg.CAN_LATE_CNT c)).canNote2 0x5909 c (c + tag * 65536) (wAt e.words 2) else m
  m.finishWaits (fun w => w.kind == 8 && w.key == c && w.aux == [word idx, word tag] && !obj) sOk [word status]

/-! ### Transmit queues (R534 to R536, R557) -/

/-- A queue of a controller. -/
def Node.txq (n : Node) (c q : Nat) : List TxEntry := (n.ctl c).queues.getD q []
def Node.onTxq (n : Node) (c q : Nat) (f : List TxEntry → List TxEntry) : Node :=
  n.onCtl c fun x => { x with queues := modifyAt x.queues q f }

/-- An entry that nothing has happened to. -/
def TxEntry.fresh (words : List Word) : TxEntry :=
  { words := words, attempts := 0, clash := 0, cancel := false, released := false, inTime := false, since := none }

/-- The head of a queue from now on can be offered to the bus. -/
def Node.offerHead (n : Node) (c q : Nat) (released : Bool) : Node :=
  n.onTxq c q fun l => modifyAt l 0 fun x =>
    { x with released := released, since := match x.since with | some t => some t | none => some n.tm.raw }

/-- The head of a queue (R557): a timed entry that reaches the head past its limit completes LATE, and the next is looked at; one
whose time has come is released at once; any other waits, and is not late any more. -/
def Node.canHead : Nat → Node → Nat → Nat → Node
  | 0, n, _, _ => n
  | fuel + 1, n, c, q =>
    match n.txq c q with
    | [] => n
    | e :: _ =>
      if !(wAt e.words 1).testBit 7 || e.released then n.offerHead c q e.released
      else if n.engFailed 13 then n
      else
        let t : Int := (wAt e.words 2 + wAt e.words 3 * 2 ^ 32 : Nat)
        let late := (n.reg (Reg.CAN_TT_LATE c)).toNat
        if !e.inTime ∧ late ≠ 0 ∧ t + (late * 1000 : Nat) < n.trainNs then
          Node.canHead fuel ((n.onTxq c q List.tail).canEnd c false q e 5 0#32) c q
        else if t ≤ n.trainNs then
          n.offerHead c q true
        else n.onTxq c q fun l => modifyAt l 0 fun x => { x with inTime := true }

/-- The head is looked at, and the registers follow. -/
def Node.canNext (n : Node) (c q : Nat) : Node := (Node.canHead 65 n c q).syncCan c

/-- An entry pushed into a queue that has room. -/
def Node.canPush (n : Node) (c q : Nat) (words : List Word) : Node :=
  (n.onTxq c q fun l => l ++ [TxEntry.fresh words]).canNext c q

/-- The context that owns a queue, FIFO or completion queue by its owner byte; a tunnel queue and an unassigned one belong to
no context. -/
def ownerCtx (b : Nat) : Option Nat := if b.testBit 7 && !b.testBit 6 then some (b % 8) else none

/-- The owner of a queue. -/
def Node.queueOwner (n : Node) (c q : Nat) : Option Nat := ownerCtx ((n.ctl c).owners.getD q 0)

/-- A queue replays tunnels (R535). -/
def Node.tunnelQueue (n : Node) (c q : Nat) : Bool :=
  let b := (n.ctl c).owners.getD q 0
  b.testBit 7 && b.testBit 6

/-- A write to the push window (R535): words 0x00 to 0x4C are kept, and word 0x50 pushes. Only the owner writes. -/
def Node.winWrite (n : Node) (ctx c q i : Nat) (v : Word) : Node :=
  if n.canCompat c then n
  else if n.queueOwner c q ≠ some ctx then n.refuse ctx true 0 2 (Reg.CAN_TXQ_WIN c q + 4 * i) (instCan c)
  else if i < 20 then n.onCtl c fun x => { x with window := modifyAt x.window q fun w => modifyAt w i fun _ => v }
  else if 64 ≤ (n.txq c q).length then n.inc (Reg.CAN_PUSH_DROP c)
  else
    let words := (n.ctl c).window.getD q []
    (n.onCtl c fun x => { x with window := modifyAt x.window q fun _ => List.replicate 20 0#32 }).canPush c q words

/-- CAN_TXQ_PUSH (R535). -/
def execCanTxqPush (ctx ctl queue : Nat) (v : Word) (s : State) : Host.Outcome State Fault Refusal :=
  .next (s.on fun n => if 4 ≤ ctl ∨ 4 ≤ queue then n else
    n.access ctx (Reg.CAN_TXQ_WIN ctl queue + 80) true fun m => m.winWrite ctx ctl queue 20 v)

/-- TIMED_ENTRY_RELEASE (R557, R558): PS3 releases a timed head at its train time. -/
def execTimedEntryRelease (ctl queue time : Nat) (s : State) : Host.Outcome State Fault Refusal :=
  .next (s.on fun n =>
    let m := n.at time
    if ctl < 4 ∧ queue < 4 ∧ m.canOn ctl then m.canNext ctl queue else m)

/-! ### Send objects (R539 to R542) -/

/-- The progress of a send object. -/
def Node.objProgress (n : Node) (c o : Nat) : TxEntry :=
  { (((n.ctl c).objTx.find? fun x => x.1 == o).map (·.2)).getD (TxEntry.fresh []) with words := (n.objWords c o).take 20 }

/-- The progress of a send object written. -/
def Node.putProgress (n : Node) (c o : Nat) (e : TxEntry) : Node :=
  n.onCtl c fun x => { x with objTx := x.objTx.filter (fun y => y.1 != o) ++ [(o, e)] }

/-- A send object's request ends (R548): `TXREQ` is cleared and `LAST` holds the status. -/
def Node.objEnd (n : Node) (c o status : Nat) (e : TxEntry) (stamp : Word) : Node :=
  let m := (n.setObjFlag c o 4 false).setBits (Reg.CAN_OBJ c o + 80) 8 4 status
  let m := m.onCtl c fun x => { x with objTx := x.objTx.filter fun y => y.1 != o }
  (m.canEnd c true o e status stamp).syncCan c

/-- The key by which objects compete (R540): the identifier from its most significant bit, an 11-bit one first at a tie. -/
def arbKey (w0 : Nat) : Nat :=
  if w0.testBit 29 then w0 % 2 ^ 29 * 2 + 1 else w0 % 2 ^ 29 / 2 ^ 18 * 2 ^ 19

/-- The object that is offered: the lowest key, then the lowest number (R540). -/
def Node.objOffered (n : Node) (c : Nat) : Option Nat :=
  let asked := (List.range 128).filter fun o => n.objFlag c o 4
  match asked with
  | [] => none
  | o :: os => some (os.foldl (fun a b =>
      if arbKey (n.reg (Reg.CAN_OBJ c b)).toNat < arbKey (n.reg (Reg.CAN_OBJ c a)).toNat then b else a) o)

/-- The controller takes part in the bus: enabled, integrated, not in bus-off and not held. -/
def Node.canLive (n : Node) (c : Nat) : Bool :=
  n.canOn c && n.bit Reg.PCR_PLL_STAT 5 && !(n.ctl c).integ && !(n.ctl c).off && !(n.ctl c).dom

/-- The controller is halted (R563): it offers no new entry. -/
def Node.halted (n : Node) (c : Nat) : Bool := n.fld (Reg.CAN_CTRL c) Fld.CAN_CTRL_HALT == 1

/-- A timed send object is late at its first offer (R542): the offers of a controller that takes part in the bus and is not
halted are looked at until one stands. -/
def Node.objOffer : Nat → Node → Nat → Node
  | 0, n, _ => n
  | fuel + 1, n, c =>
    if !n.canLive c || n.halted c then n else
    match n.objOffered c with
    | some o =>
      if n.bit (Reg.CAN_OBJ c o + 4) 7 then Node.objOffer fuel (n.objEnd c o 5 (n.objProgress c o) 0#32) c else n
    | none => n

/-- `TXREQ` of send objects is set (R540). -/
def Node.txreq (n : Node) (c w : Nat) (v : Word) : Node :=
  if !n.canCompat c then n
  else Node.objOffer 129 ((List.range 32).foldl (fun m b =>
    let o := 32 * w + b
    if v.toNat.testBit b && m.bit (Reg.CAN_OBJ c o + 4) 9 && !m.objFlag c o 4 then
      (m.setObjFlag c o 4 true).putProgress c o { TxEntry.fresh [] with since := some m.tm.raw }
    else m) n) c

/-- CAN_OBJ_TXREQ_WRITE (R540). -/
def execCanObjTxreqWrite (ctx ctl w : Nat) (v : Word) (s : State) : Host.Outcome State Fault Refusal :=
  .next (s.on fun n => if 4 ≤ ctl ∨ 4 ≤ w then n else
    n.access ctx (Reg.CAN_OBJ_TXREQ ctl w) true fun m => m.txreq ctl w v)

/-- A word of an object is written (R539): dropped while its `TXREQ` is 1 or the object is locked (R543). The last word's bits
are the node's, but for `NEW`, which a write does not set. -/
def Node.objWrite (n : Node) (c o i : Nat) (v : Word) : Node :=
  if !n.canCompat c then n
  else if n.objFlag c o 4 && n.bit (Reg.CAN_OBJ c o + 4) 9 then n.inc (Reg.CAN_PUSH_DROP c)
  else if (n.canLock c 1 o).isSome ∨ 20 ≤ i then n
  else n.setReg (Reg.CAN_OBJ c o + 4 * i)
    (if i = 0 then v &&& 0x7FFFFFFF#32 else if i = 1 then v &&& 0xFFFF03FF#32 else v)

/-- CAN_OBJECT_WRITE (R539). -/
def execCanObjectWrite (ctx ctl obj wordIndex : Nat) (v : Word) (s : State) : Host.Outcome State Fault Refusal :=
  .next (s.on fun n => if 4 ≤ ctl ∨ 128 ≤ obj ∨ 21 ≤ wordIndex then n else
    n.access ctx (Reg.CAN_OBJ ctl obj + 4 * wordIndex) true fun m => m.objWrite ctl obj wordIndex v)

/-! ### Reception (R537 to R541, R544) -/

/-- The first filter that matches a frame (R537). -/
def Node.canFilter (n : Node) (c : Nat) (f : CanFrame) : Option Nat :=
  (List.range 64).find? fun i =>
    let id := (n.reg (Reg.CAN_FLT_ID c i)).toNat
    let mask := (n.reg (Reg.CAN_FLT_MASK c i)).toNat % 2 ^ 29
    n.bit (Reg.CAN_FLT_CFG c i) 0 && id.testBit 29 == f.ide && Nat.land (Nat.xor (id % 2 ^ 29) (f.id % 2 ^ 29)) mask == 0

/-- CAN_RX_OVERRUN (R544). -/
def Node.rxOverrun (n : Node) (c kind idx : Nat) : Node :=
  (n.inc (Reg.CAN_RX_OVR c)).canNote 0x5908 c (c + kind * 256 + idx * 65536)

/-- A frame for an RX FIFO (R544). -/
def Node.fifoStore (n : Node) (c f : Nat) (e : List Word) : Node :=
  let l := (n.ctl c).fifos.getD f []
  let put (m : Node) (g : List (List Word) → List (List Word)) : Node :=
    m.onCtl c fun x => { x with fifos := modifyAt x.fifos f g }
  let shade (m : Node) (s : List Word) : Node := m.onCtl c fun x => { x with shadows := modifyAt x.shadows f fun _ => some s }
  if l.length < 64 then put n fun l => l ++ [e]
  else if (n.canLock c 0 f).isSome then
    if ((n.ctl c).shadows.getD f none).isSome then
      (shade n (modifyAt e 20 fun w => word (withBits w.toNat 1 1 1))).rxOverrun c 0 f
    else shade n e
  else n.rxOverrun c 0 f

/-- A receive object's content replaced: its mask and direction stay. -/
def Node.objFill (n : Node) (c o : Nat) (e : List Word) : Node :=
  let keep := n.objWords c o
  let w1 := word (wAt e 1 % 512 + wAt keep 1 / 512 % 2 * 512 + o * 65536)
  let m := n.setRegs (Reg.CAN_OBJ c o) ([e.getD 0 0#32, w1, e.getD 2 0#32, keep.getD 3 0#32] ++ (e.drop 4).take 16)
  ((m.setObjFlag c o 0 true).setObjFlag c o 1 ((wAt e 20).testBit 1)).setObjFlag c o 3 false

/-- A frame for a receive object (R541, R544). -/
def Node.objStore (n : Node) (c o : Nat) (e : List Word) : Node :=
  let lost (e : List Word) : List Word := modifyAt e 20 fun w => word (withBits w.toNat 1 1 1)
  if (n.canLock c 1 o).isSome then
    let had := n.objFlag c o 3
    let e' := if had then lost e else e
    let m := (n.onCtl c fun x => { x with objShadow := x.objShadow.filter (fun y => y.1 != o) ++ [(o, e')] }).setObjFlag c o 3 true
    if had then m.rxOverrun c 1 o else m
  else if n.objFlag c o 0 then (n.objFill c o (lost e)).rxOverrun c 1 o
  else n.objFill c o e

/-- The receive object for a frame (R541). -/
def Node.objFor (n : Node) (c : Nat) (f : CanFrame) : Option Nat :=
  (List.range 128).find? fun o =>
    let w0 := (n.reg (Reg.CAN_OBJ c o)).toNat
    let mask := (n.reg (Reg.CAN_OBJ c o + 12)).toNat
    !n.bit (Reg.CAN_OBJ c o + 4) 9 &&
    Nat.land (Nat.xor (w0 % 2 ^ 29) (f.id % 2 ^ 29)) (mask % 2 ^ 29) == 0 && (!mask.testBit 29 || w0.testBit 29 == f.ide)

/-- A frame enters the receive path (R537, R541); `bridge` takes one whose target is the bridge. -/
def Node.canStore (n : Node) (c : Nat) (f : CanFrame) (sof : Nat) (bridge : Node → Nat → CanFrame → Word → Node) : Node :=
  let stamp := n.stampAt sof
  if n.canCompat c then
    match n.objFor c f with
    | some o => n.objStore c o (rxEntry f o stamp 0#32 1)
    | none => n.inc (Reg.CAN_NOMATCH c)
  else
    let hit := n.canFilter c f
    let target := match hit with
      | some i => n.bits (Reg.CAN_FLT_CFG c i) 1 2
      | none => n.bits (Reg.CAN_CFG c) 4 2
    match target with
    | 0 => if hit.isSome then n else n.inc (Reg.CAN_NOMATCH c)
    | 3 => bridge n c f stamp
    | t =>
      let (m, tag) : Node × Nat := match hit with
        | some i => (n, i)
        | none => (n.free.1, n.free.2.toNat % 65536)
      m.fifoStore c (t - 1) (rxEntry f tag stamp 0#32 1)

/-! ### Error states (R554 to R556) -/

/-- The transmit and receive error counters. -/
def Node.tec (n : Node) (c : Nat) : Nat := n.bits (Reg.CAN_ERR c) 0 9
def Node.rec_ (n : Node) (c : Nat) : Nat := n.bits (Reg.CAN_ERR c) 16 9

/-- The counters written. -/
def Node.setErr (n : Node) (c tec rec_ : Nat) : Node :=
  n.setReg (Reg.CAN_ERR c) (word (min tec 511 + min rec_ 511 * 65536))

/-- `CAN_STAT.STATE` (R564). -/
def Node.showCan (n : Node) (c : Nat) : Node :=
  let x := n.ctl c
  let st := if !n.bit (Reg.CAN_CFG c) 0 || !n.bit Reg.PCR_PLL_STAT 5 then 0 else if x.integ then 1 else if x.dom then 5 else if x.off then 4
    else if n.fld (Reg.CAN_CTRL c) Fld.CAN_CTRL_HALT = 1 then 6 else if x.passive then 3 else 2
  n.setFld (Reg.CAN_STAT c) Fld.CAN_STAT_STATE st

/-- The state that the counters give (R554): an entry to error passive or to bus-off is reported. -/
def Node.canCheck (n : Node) (c : Nat) : Node :=
  let x := n.ctl c
  let err := (n.reg (Reg.CAN_ERR c)).toNat
  if x.off then n.showCan c
  else if 256 ≤ n.tec c then
    let m := (n.inc (Reg.CAN_BUSOFF_CNT c)).onCtl c fun x => { x with off := true, passive := false, recovering := n.bit (Reg.CAN_CFG c) 3 }
    (m.raise 0x5A05 c (m.reg (Reg.CAN_BUSOFF_CNT c)).toNat).showCan c
  else
    let p := decide (128 ≤ n.tec c) || decide (128 ≤ n.rec_ c)
    let m := n.onCtl c fun x => { x with passive := p }
    (if p && !x.passive then m.canNote2 0x5907 c c err else m).showCan c

/-- A loop mode that was waiting takes effect at the bus idle that follows a frame (R559). -/
def Node.loopIdle (n : Node) (c : Nat) : Node :=
  let l := n.fld (Reg.CAN_CTRL c) Fld.CAN_CTRL_LOOP
  n.onCtl c fun x => { x with loop := l }

/-- A receive error (R554): the counter rises by what ISO 11898-1:2015 gives. CAN_RX is ignored in the internal loop, and the
silent loop answers with no error frame (R559). -/
def Node.canRxError (n : Node) (c rise : Nat) : Node :=
  let loop := (n.ctl c).loop
  if loop = 1 then n
  else
    let m := if loop = 2 then n else n.inc (Reg.CAN_ERR_FRM c)
    ((m.setErr c (m.tec c) (m.rec_ c + rise)).canCheck c).loopIdle c

/-- CAN_RX_ERROR (R554): `rise` is 1 or 8 as ISO 11898-1:2015 gives for the error. -/
def execCanRxError (ctl rise time : Nat) (s : State) : Host.Outcome State Fault Refusal :=
  .next (s.on fun n =>
    let m := n.at time
    if m.canLive ctl then m.canRxError ctl rise else m)

/-- A frame received without error lowers the receive counter; from above 127 it becomes a value from 119 to 127 that ISO
11898-1:2015 leaves open. -/
def Node.canRxGood (n : Node) (c : Nat) : Node :=
  if 127 < n.rec_ c then
    let (m, w) := n.free
    (m.setErr c (m.tec c) (119 + w.toNat % 9)).canCheck c
  else (n.setErr c (n.tec c) (n.rec_ c - 1)).canCheck c

/-- A valid frame arrives from the bus (R531, R537, R554, R559). -/
def Node.canReceive (n : Node) (c : Nat) (f : CanFrame) (sof : Nat) (bridge : Node → Nat → CanFrame → Word → Node) : Node :=
  if !n.canLive c ∨ (n.ctl c).loop = 1 then n
  else if f.fdf && !n.canFd c then n.canRxError c 1
  else
    let m := (n.canRxGood c).add64 (Reg.CAN_RX_FRM_LO c) 1
    ((m.canStore c f sof bridge).syncCan c).loopIdle c

/-- BUS_INTEGRATION_COMPLETE (R564): the controller becomes error active, or what its counters give. -/
def execBusIntegrationComplete (ctl time : Nat) (s : State) : Host.Outcome State Fault Refusal :=
  .next (s.on fun n =>
    let m := n.at time
    if m.canOn ctl ∧ m.bit Reg.PCR_PLL_STAT 5 ∧ (m.ctl ctl).integ then Node.objOffer 129 ((m.onCtl ctl fun x => { x with integ := false }).canCheck ctl) ctl else m)

/-- Recovery from bus-off starts (R555). -/
def Node.canRecover (n : Node) (c : Nat) : Node :=
  if (n.ctl c).off then
    (n.onCtl c fun x => { x with recovering := true }).setFld (Reg.CAN_CTRL c) Fld.CAN_CTRL_RECOVER 1
  else n

/-- BUS_RECOVERED (R555): after 128 sequences of 11 recessive bits. -/
def execBusRecovered (ctl time : Nat) (s : State) : Host.Outcome State Fault Refusal :=
  .next (s.on fun n =>
    let m := n.at time
    if m.canOn ctl ∧ (m.ctl ctl).off ∧ (m.ctl ctl).recovering ∧ !(m.ctl ctl).dom then
      let k := (m.onCtl ctl fun x => { x with off := false, recovering := false, passive := false }).setErr ctl 0 0
      Node.objOffer 129 (((k.setFld (Reg.CAN_CTRL ctl) Fld.CAN_CTRL_RECOVER 0).canNote 0x5806 ctl ctl).showCan ctl) ctl
    else m)

/-- DOMINANT_TIMEOUT (R556); the internal loop ignores CAN_RX (R559). -/
def execDominantTimeout (ctl time : Nat) (s : State) : Host.Outcome State Fault Refusal :=
  .next (s.on fun n =>
    let m := n.at time
    if m.canOn ctl ∧ !(m.ctl ctl).dom ∧ (m.ctl ctl).loop ≠ 1 then
      ((m.onCtl ctl fun x => { x with dom := true, integ := false }).raise 0x5A03 ctl (m.reg (Reg.CAN_ERR ctl)).toNat).showCan ctl
    else m)

/-- DOMINANT_RELEASED (R556). -/
def execDominantReleased (ctl time : Nat) (s : State) : Host.Outcome State Fault Refusal :=
  .next (s.on fun n =>
    let m := n.at time
    if m.canOn ctl ∧ (m.ctl ctl).dom then
      Node.objOffer 129 (((m.onCtl ctl fun x => { x with dom := false }).canNote 0x580B ctl ctl).canCheck ctl) ctl
    else m)

/-! ### Outcomes of attempts (R536, R547 to R553) -/

/-- An entry of higher precedence could be offered before the instant `sof` (R534, R540): a frame that begins then is not the
one of this queue or object. -/
def Node.outranked (n : Node) (c : Nat) (obj : Bool) (idx sof : Nat) : Bool :=
  let before (e : TxEntry) : Bool := e.since.any fun t => decide (t < sof)
  let key (o : Nat) : Nat := arbKey (n.reg (Reg.CAN_OBJ c o)).toNat * 128 + o
  if obj then (n.ctl c).objTx.any fun x => before x.2 && decide (key x.1 < key idx)
  else (List.range idx).any fun q => (n.txq c q).head?.any before

/-- The entry that an attempt was for: the head of a queue, or a send object with `TXREQ` = 1. A halted controller ends only
the frame that was on the bus (R563). -/
def Node.attempted (n : Node) (c : Nat) (obj : Bool) (idx : Nat) : Option TxEntry :=
  if !n.canLive c || n.halted c && !(n.ctl c).lastOne then none
  else if obj then (if n.canCompat c && decide (idx < 128) && n.objFlag c idx 4 then some (n.objProgress c idx) else none)
  else match n.txq c idx with
    | e :: _ => if (wAt e.words 1).testBit 7 && !e.released then none else some e
    | [] => none

/-- The frame on the bus has ended. -/
def Node.busFree (n : Node) (c : Nat) : Node := n.onCtl c fun x => { x with lastOne := false }

/-- The entry's progress kept for the next attempt. -/
def Node.retry (n : Node) (c : Nat) (obj : Bool) (idx : Nat) (e : TxEntry) : Node :=
  if obj then n.putProgress c idx e else (n.onTxq c idx fun l => modifyAt l 0 fun _ => e).syncCan c

/-- The entry leaves with a status, and the next is offered. -/
def Node.leave (n : Node) (c : Nat) (obj : Bool) (idx : Nat) (e : TxEntry) (status : Nat) (stamp : Word) : Node :=
  if obj then Node.objOffer 129 (n.objEnd c idx status e stamp) c
  else ((n.onTxq c idx List.tail).canEnd c false idx e status stamp).canNext c idx

/-- A frame has been sent and acknowledged (R547, R549, R554); in a loop mode it enters the receive path (R538, R559). -/
def Node.canSent (n : Node) (c idx : Nat) (obj : Bool) (sof : Nat) (bridge : Node → Nat → CanFrame → Word → Node) : Node :=
  match (if n.outranked c obj idx sof then none else n.attempted c obj idx) with
  | none => n
  | some e =>
    let e := { e with attempts := e.attempts + 1 }
    let n := n.busFree c
    let loop := (n.ctl c).loop
    let m := ((n.setErr c (n.tec c - 1) (n.rec_ c)).canCheck c).add64 (Reg.CAN_TX_FRM_LO c) 1
    let m := m.leave c obj idx e (if e.cancel then 3 else 1) (n.stampAt sof)
    let m := if loop = 0 then m else ((m.add64 (Reg.CAN_RX_FRM_LO c) 1).canStore c (frameOf e.words) sof bridge).syncCan c
    m.loopIdle c

/-- CAN_ARBITRATION_LOST (R536, R549): the entry stays and is offered again, unless a cancel is recorded. -/
def execCanArbitrationLost (ctl idx : Nat) (obj : Bool) (time : Nat) (s : State) : Host.Outcome State Fault Refusal :=
  .next (s.on fun n =>
    let m := n.at time
    match m.attempted ctl obj idx with
    | none => m
    | some e =>
      let e := { e with attempts := e.attempts + 1 }
      let k := (m.inc (Reg.CAN_ARB_LOST ctl)).busFree ctl
      if e.cancel then k.leave ctl obj idx e 2 0#32 else k.retry ctl obj idx e)

/-- An identifier clash at an attempt (R551 to R553). -/
def Node.canClash (n : Node) (c idx : Nat) (obj : Bool) (e : TxEntry) : Node :=
  if e.clash < 3 then n.retry c obj idx e
  else
    let id := wAt e.words 0 % 2 ^ 30
    let m := (n.setReg (Reg.CAN_LAST_CLASH c) (word id)).canNote2 0x5901 c (id + c * 2 ^ 30) (entryTag e.words + idx * 65536)
    if m.bit (Reg.CAN_CLASH_HOLD c) 0 then m.leave c obj idx e 4 0#32 else m.retry c obj idx e

/-- CAN_TX_ERROR (R549, R551 to R554): `clash` tells a bit error between the arbitration field and the CRC delimiter, and
`counted` whether ISO 11898-1:2015 raises the transmit counter by 8 for the error. -/
def execCanTxError (ctl idx : Nat) (obj clash counted : Bool) (time : Nat) (s : State) : Host.Outcome State Fault Refusal :=
  .next (s.on fun n =>
    let m := n.at time
    match m.attempted ctl obj idx with
    | none => m
    | some e =>
      let e := { e with attempts := e.attempts + 1, clash := if clash then e.clash + 1 else 0 }
      let k := (m.inc (Reg.CAN_ERR_FRM ctl)).setErr ctl (m.tec ctl + (if counted then 8 else 0)) (m.rec_ ctl)
      let k := (k.canCheck ctl).busFree ctl
      (if e.cancel then k.leave ctl obj idx e 2 0#32 else k.canClash ctl idx obj e).loopIdle ctl)

/-! ### Cancels (R549) -/

/-- A cancel for an entry of a queue: `onBus` tells whether it is the head and its SOF has been sent. The answer is whether an
entry was found and whether its outcome is known. -/
def Node.cancelQueued (n : Node) (c q tag : Nat) (onBus : Bool) : Node × Option Bool :=
  match (n.txq c q).findIdx? fun e => entryTag e.words == tag with
  | none => (n, none)
  | some i =>
    if i = 0 ∧ onBus then ((n.onTxq c q fun l => modifyAt l 0 fun e => { e with cancel := true }), some false)
    else
      let e := (n.txq c q).getD i (TxEntry.fresh [])
      (((n.onTxq c q fun l => l.eraseIdx i).canEnd c false q e 2 0#32).canNext c q, some true)

/-- CAN_TX_CANCEL_WRITE (R549). -/
def execCanTxCancelWrite (ctx ctl : Nat) (v : Word) (onBus : Bool) (s : State) : Host.Outcome State Fault Refusal :=
  .next (s.on fun n => if 4 ≤ ctl then n else
    n.access ctx (Reg.CAN_TX_CANCEL ctl) true fun m =>
      (m.cancelQueued ctl (v.toNat / 65536 % 4) (v.toNat % 65536) onBus).1)

/-- Cancels for send objects: the one on the bus keeps its cancel, the others end at once (R549). -/
def Node.cancelObjects (n : Node) (c w : Nat) (v : Word) (onBus : Option Nat) : Node :=
  if !n.canCompat c then n
  else (List.range 32).foldl (fun m b =>
    let o := 32 * w + b
    if v.toNat.testBit b && m.objFlag c o 4 then
      if onBus = some o then m.putProgress c o { m.objProgress c o with cancel := true }
      else m.leave c true o (m.objProgress c o) 2 0#32
    else m) n

/-- CAN_OBJ_CANCEL_WRITE (R549). -/
def execCanObjCancelWrite (ctx ctl w : Nat) (v : Word) (onBus : Option Nat) (s : State) : Host.Outcome State Fault Refusal :=
  .next (s.on fun n => if 4 ≤ ctl ∨ 4 ≤ w then n else
    n.access ctx (Reg.CAN_OBJ_CANCEL ctl w) true fun m => m.cancelObjects ctl w v onBus)

/-- A queue is flushed (R561): every entry but the one on the bus completes FLUSHED. -/
def Node.canFlush (n : Node) (c q : Nat) (onBus : Bool) : Node × Nat :=
  let l := n.txq c q
  let gone := if onBus then l.drop 1 else l
  let m := n.onTxq c q fun l => if onBus then l.take 1 else []
  ((gone.foldl (fun m e => m.canEnd c false q e 6 0#32) m).canNext c q, gone.length)

/-! ### Locks (R543 to R546) -/

/-- There is an entry to lock. -/
def Node.canEntry (n : Node) (c kind idx : Nat) : Bool :=
  if kind = 0 then !((n.ctl c).fifos.getD idx []).isEmpty
  else if kind = 1 then n.canCompat c && decide (idx < 128)
  else !(n.ctl c).comps.isEmpty

/-- The address of an entry's first word, and the place of its last word. -/
def canEntryAddr (c kind idx : Nat) : Nat :=
  if kind = 0 then Reg.CAN_RXF_WIN c idx else if kind = 1 then Reg.CAN_OBJ c idx else Reg.CAN_TXC_WIN c
def canLastOff (kind : Nat) : Nat := if kind = 2 then 8 else 80

/-- The names of an entry are in range. -/
def canNamed (c kind idx : Nat) : Bool :=
  decide (c < 4) && decide (kind < 3) && decide (idx < if kind = 0 then 2 else if kind = 1 then 128 else 1)

/-- A read of word 0x00 (R543): an unlocked entry is locked for the reader; the word is returned. -/
def Node.lockRead (n : Node) (ctx c kind idx : Nat) : Node :=
  let v := n.reg (canEntryAddr c kind idx)
  let m :=
    if n.canEntry c kind idx && (n.canLock c kind idx).isNone then
      let k := n.onCtl c fun x => { x with locks := x.locks ++ [CanLock.mk kind idx ctx n.tm.raw] }
      (if kind = 1 then k.setObjFlag c idx 2 true else k).syncCan c
    else n
  m.answer v

/-- CAN_ENTRY_LOCK_READ (R543). -/
def execCanEntryLockRead (ctx ctl kind idx time : Nat) (s : State) : Host.Outcome State Fault Refusal :=
  .next (s.on fun n =>
    let m := n.at time
    if canNamed ctl kind idx then m.access ctx (canEntryAddr ctl kind idx) false fun k => k.lockRead ctx ctl kind idx else m)

/-- A lock is released; an object takes the content of its shadow (R544). -/
def Node.unlockCan (n : Node) (c kind idx : Nat) : Node :=
  let m := n.onCtl c fun x => { x with locks := x.locks.filter fun l => !(l.kind == kind && l.idx == idx) }
  if kind = 1 then
    let m := m.setObjFlag c idx 2 false
    match (m.ctl c).objShadow.find? fun y => y.1 == idx with
    | some (_, e) => (m.onCtl c fun x => { x with objShadow := x.objShadow.filter fun y => y.1 != idx }).objFill c idx e
    | none => m
  else m

/-- The entry is done with (R538, R543, R544): a FIFO removes its head and takes its shadow, an object clears `NEW`, a
completion leaves. -/
def Node.takeEntry (n : Node) (c kind idx : Nat) : Node :=
  if kind = 0 then n.onCtl c fun x =>
    let s := (x.shadows.getD idx none).toList
    { x with fifos := modifyAt x.fifos idx fun l => l.tail ++ s, shadows := modifyAt x.shadows idx fun _ => none }
  else if kind = 1 then (n.setObjFlag c idx 0 false).setObjFlag c idx 1 false
  else n.onCtl c fun x => { x with comps := x.comps.tail }

/-- A read of the last word (R543 to R545): by the context that holds the lock, or of an entry that no one has locked. -/
def Node.releaseRead (n : Node) (ctx c kind idx : Nat) : Node :=
  let v := n.reg (canEntryAddr c kind idx + canLastOff kind)
  let free := match n.canLock c kind idx with
    | some l => l.ctx == ctx
    | none => true
  let m := if n.canEntry c kind idx && free then ((n.takeEntry c kind idx).unlockCan c kind idx).syncCan c else n
  m.answer v

/-- CAN_ENTRY_RELEASE_READ (R543, R544). -/
def execCanEntryReleaseRead (ctx ctl kind idx : Nat) (s : State) : Host.Outcome State Fault Refusal :=
  .next (s.on fun n =>
    if canNamed ctl kind idx then
      n.access ctx (canEntryAddr ctl kind idx + canLastOff kind) false fun k => k.releaseRead ctx ctl kind idx
    else n)

/-- LOCK_TIMEOUT (R545): a lock held 1 ms after its read is released; a FIFO head stays. -/
def execLockTimeout (ctl kind idx time : Nat) (s : State) : Host.Outcome State Fault Refusal :=
  .next (s.on fun n =>
    let m := n.at time
    match m.canLock ctl kind idx with
    | some l =>
      if m.tm.raw < l.since + 1000000 then m
      else
        let k := (m.unlockCan ctl kind idx).inc (Reg.CAN_LOCK_TO_CNT ctl)
        (k.canNote2 0x5904 ctl (ctl + kind * 256 + idx * 65536) l.ctx).syncCan ctl
    | none => m)

/-- A context reset releases the locks of a context and flushes its queues (R546, R561). Whether the head of a queue is on the
bus at that moment is free. -/
def Node.canCtxReset (n : Node) (ctx : Nat) : Node :=
  [0, 1, 2, 3].foldl (fun m c =>
    let mine := (m.ctl c).locks.filter fun l => l.ctx == ctx
    let m := (mine.foldl (fun k l => k.unlockCan c l.kind l.idx) m).syncCan c
    [0, 1, 2, 3].foldl (fun m q =>
      if m.queueOwner c q = some ctx ∧ !(m.txq c q).isEmpty then
        let (k, w) := m.free
        (k.canFlush c q (w.toNat % 2 == 1)).1
      else m) m) n

/-! ### Controller control (R555, R559, R563) -/

/-- A write of `CAN_CTRL`: the loop mode takes effect at the next bus idle, at once when no frame is on the bus; `HALT` stops
or resumes the offering; `RECOVER` starts the recovery from bus-off. A controller held in reset takes no write (R528). -/
def Node.canCtrlWrite (n : Node) (c : Nat) (v : Word) (busy : Bool) : Node :=
  if !n.bit (Reg.CAN_CFG c) 0 then n else
  let m := (n.setBits (Reg.CAN_CTRL c) 0 3 (v.toNat % 8)).onCtl c fun x => { x with lastOne := busy }
  let m := if busy then m else m.loopIdle c
  let m := if v.toNat.testBit 3 then m.canRecover c else m
  Node.objOffer 129 (m.showCan c) c

/-- CAN_CTRL_LOOP_WRITE (R559). -/
def execCanCtrlLoopWrite (ctx ctl : Nat) (v : Word) (busy : Bool) (s : State) : Host.Outcome State Fault Refusal :=
  .next (s.on fun n => if 4 ≤ ctl then n else
    n.access ctx (Reg.CAN_CTRL ctl) true fun m => m.canCtrlWrite ctl v busy)

/-- CAN_CTRL_HALT_WRITE (R563). -/
def execCanCtrlHaltWrite (ctx ctl : Nat) (v : Word) (busy : Bool) (s : State) : Host.Outcome State Fault Refusal :=
  .next (s.on fun n => if 4 ≤ ctl then n else
    n.access ctx (Reg.CAN_CTRL ctl) true fun m => m.canCtrlWrite ctl v busy)

/-- CAN_CTRL_RECOVER_WRITE (R555). -/
def execCanCtrlRecoverWrite (ctx ctl : Nat) (v : Word) (busy : Bool) (s : State) : Host.Outcome State Fault Refusal :=
  .next (s.on fun n => if 4 ≤ ctl then n else
    n.access ctx (Reg.CAN_CTRL ctl) true fun m => m.canCtrlWrite ctl v busy)

/-- `CAN_STAT` as it reads: whether a frame is in transmission, and the measured loop delay, are facts of the bus (R564). -/
def Node.canStat (n : Node) (c : Nat) : Node × Word :=
  let offered := (n.ctl c).queues.any (fun l => !l.isEmpty) || (n.objOffered c).isSome
  let (m, w) := n.free
  let stat := (n.reg (Reg.CAN_STAT c)).toNat
  let stat := if offered && n.canLive c then withBits stat 11 1 w.toNat else stat
  (m, word (if stat.testBit 3 then withBits stat 4 7 (w.toNat / 2) else stat))

/-! ### Commands (R561) -/

/-- The controller and queue of word 0, with its other bits zero. -/
def canWord0 (c : Cmd) (queue : Bool) : Bool := decide (arg c 0 < 4) || (queue && decide (arg c 0 < 64) && arg c 0 / 4 % 4 == 0)

/-- A CAN command acts in the world of its controller. -/
def Node.canCommand (n : Node) (c : Cmd) (nargs : Nat) (queue : Bool) (act : Node → Nat → Nat → Answer) : Node :=
  n.command c (.inst (instCan (arg c 0 % 4))) nargs fun m =>
    if canWord0 c queue then act m (arg c 0 % 4) (arg c 0 / 16 % 4) else .fail m sArgs

/-- CAN_STATUS (R561). -/
def execCanStatus (c : Cmd) (s : State) : Host.Outcome State Fault Refusal :=
  .next (s.runs c 0x0701 fun n => n.canCommand c 1 false fun m x _ =>
    let (k, w) := m.canStat x
    .done k sOk [w, k.reg (Reg.CAN_ERR x), k.reg (Reg.CAN_LAST_CLASH x)])

/-- CAN_SEND (R561): the entry is pushed as a push of the window does. -/
def execCanSend (c : Cmd) (s : State) : Host.Outcome State Fault Refusal :=
  .next (s.runs c 0x0702 fun n => n.canCommand c 8 true fun m x q =>
    let fdf := (arg c 2).testBit 4
    if 4 ≤ c.ctx ∨ m.canCompat x ∨ m.queueOwner x q ≠ some c.ctx ∨ arg c 7 ≠ dlcLen (arg c 2 % 16) fdf then .fail m sArgs
    else if 64 ≤ (m.txq x q).length then .fail m sResource
    else
      let words := [argW c 1, argW c 2, argW c 3, argW c 4] ++ wordsLE (slice (slice c.data 0 (arg c 7)) 0 64) 16
      .done (m.canPush x q words) sOk [word (arg c 2 / 65536)])

/-- CAN_CANCEL (R549, R561): the command completes when the outcome is known. -/
def execCanCancel (c : Cmd) (onBus : Bool) (s : State) : Host.Outcome State Fault Refusal :=
  .next (s.runs c 0x0703 fun n => n.canCommand c 2 true fun m x q =>
    if 65535 < arg c 1 then .fail m sArgs
    else match m.cancelQueued x q (arg c 1) onBus with
      | (k, none) => .fail k sArgs
      | (k, some true) => .done k sOk [2#32]
      | (k, some false) => .wait k 8 x [word q, argW c 1])

/-- CAN_RECOVER (R555, R561). -/
def execCanRecover (c : Cmd) (s : State) : Host.Outcome State Fault Refusal :=
  .next (s.runs c 0x0704 fun n => n.canCommand c 1 false fun m x _ =>
    if (m.ctl x).off then .done (m.canRecover x) sOk [] else .fail m sState)

/-- CAN_FLUSH (R561). -/
def execCanFlush (c : Cmd) (onBus : Bool) (s : State) : Host.Outcome State Fault Refusal :=
  .next (s.runs c 0x0705 fun n => n.canCommand c 1 true fun m x q =>
    let (k, count) := m.canFlush x q onBus
    .done k sOk [word count])

/-- CAN_LOOP (R559, R561). -/
def execCanLoop (c : Cmd) (busy : Bool) (s : State) : Host.Outcome State Fault Refusal :=
  .next (s.runs c 0x0706 fun n => n.canCommand c 2 false fun m x _ =>
    if 3 < arg c 1 then .fail m sArgs
    else .done (m.canCtrlWrite x (word (withBits (m.bits (Reg.CAN_CTRL x) 0 3) 0 2 (arg c 1))) busy) sOk [])

/-! ### Image records (R529, R560) -/

/-- A CAN_CTRL record keeps its ranges (R529). -/
def canCtrlOk (v : List Byte) : Bool :=
  let b (i : Nat) : Nat := byteAt v i
  let nominal := b 2 * (1 + b 3 + b 4)
  let fast := b 6 * (1 + b 7 + b 8)
  let owner (i : Nat) : Bool := (b i / 8 % 8 == 0)
  decide (b 0 < 4) && decide (1 ≤ b 2 ∧ b 2 ≤ 32) && decide (1 ≤ b 3) && decide (1 ≤ b 4 ∧ b 4 ≤ 128) &&
  decide (1 ≤ b 5 ∧ b 5 ≤ b 4) && decide (1 ≤ b 6 ∧ b 6 ≤ 32) && decide (1 ≤ b 7 ∧ b 7 ≤ 31) && decide (1 ≤ b 8 ∧ b 8 ≤ 16) &&
  decide (1 ≤ b 9 ∧ b 9 ≤ b 8) && decide (b 10 ≤ 127) && decide (b 11 ≤ 3) && decide (80 ≤ nominal) && decide (10 ≤ fast) &&
  ([12, 13, 14, 15, 16, 17, 18].all owner) && decide (leAt v 20 4 ≤ 1000000)

/-- A controller loaded from its record: enabled, integrating, its timing shown (R528, R560, R565). -/
def Node.canCtrlLoad (n : Node) (v : List Byte) : Node :=
  let b (i : Nat) : Nat := byteAt v i
  let c := b 0
  let timing (i : Nat) : Nat := (b i - 1) + (b (i + 1) - 1) * 32 + (b (i + 2) - 1) * 2 ^ 13 + (b (i + 3) - 1) * 2 ^ 20
  let m := n.setReg (Reg.CAN_CFG c) (word (1 + b 1 % 8 * 2 + b 11 * 16))
  let m := (m.setReg (Reg.CAN_NBT c) (word (timing 2))).setReg (Reg.CAN_DBT c) (word (timing 6 + b 10 * 2 ^ 25))
  let m := (m.setReg (Reg.CAN_CLASH_HOLD c) (word (b 1 / 8 % 2))).setReg (Reg.CAN_TT_LATE c) (word (leAt v 20 4))
  let m := m.setFld (Reg.CAN_STAT c) Fld.CAN_STAT_TDC (b2n (b 10 != 0))
  let m := m.onCtl c fun x => { x with
    owners := [b 12, b 13, b 14, b 15], rxOwners := [b 16, b 17], compOwner := b 18, integ := true }
  (m.showCan c).syncCan c

/-- A CAN_FILTER record loaded (R560). -/
def Node.canFilterLoad (n : Node) (v : List Byte) : Node :=
  let c := byteAt v 0
  let i := byteAt v 1
  ((n.setReg (Reg.CAN_FLT_ID c i) (word (leAt v 4 4 % 2 ^ 29 + byteAt v 3 % 2 * 2 ^ 29))).setReg (Reg.CAN_FLT_MASK c i)
    (word (leAt v 8 4))).setReg (Reg.CAN_FLT_CFG c i) (word (1 + byteAt v 2 % 4 * 2))

/-- A CAN_OBJECT record loaded (R539, R560). -/
def Node.canObjectLoad (n : Node) (v : List Byte) : Node :=
  let f := byteAt v 2
  if !n.canCompat (byteAt v 0) then n else n.setRegs (Reg.CAN_OBJ (byteAt v 0) (byteAt v 1))
    [word (leAt v 4 4 % 2 ^ 29 + f / 2 % 2 * 2 ^ 29),
     word (byteAt v 12 % 16 + f / 4 % 2 * 16 + f / 8 % 2 * 32 + f % 2 * 512), 0#32, word (leAt v 8 4)]

end Sys2Proof.Machine
end

