-- ==== Sys2Proof/Machine/Bridge.lean ====
section
/-! DEFINITION. The bridge (chapter 13): tunnels and routes (R567 to R575), the requesting side of remote windows (R578 to
R591), semaphores (R592, R593), sideband polling (R594, R595) and the 0x08xx commands (R597). RWIN and RWIN_RSP frames name
no target, so whether a received one is addressed to this node comes with the command. -/

namespace Sys2Proof.Machine

/-- The instance of the bridge in the world map (R646). -/
def instBrg : Nat := 36

/-- PS2 runs (R68). -/
def Node.ps2 (n : Node) : Bool := !n.engFailed 12

/-- The reads outstanding; lock requests are none (R587). -/
def Node.readCount (n : Node) : Nat := (n.brg.reads.filter fun r => r.kind != 2).length

/-- `BRG_STAT` (R598). -/
def Node.syncBrg (n : Node) : Node :=
  n.setReg Reg.BRG_STAT (word (b2n n.ps2 + n.readCount % 64 * 2 + n.brg.blocks.length % 32 * 256 +
    n.brg.polled.length % 128 * 65536))

/-! ### CAN records (R570) -/

/-- The record of a received frame with the identifier that it is carried with. -/
def canRecord (f : CanFrame) (id : Nat) (stamp : Word) : List Byte :=
  let data := f.data.take (if f.rtr then 0 else dlcLen f.dlc f.fdf)
  encBE 4 (id % 2 ^ 29 + b2n f.ide * 2 ^ 29 + b2n f.rtr * 2 ^ 30) ++
  encBE 1 (f.dlc % 16 + b2n f.fdf * 16 + b2n f.brs * 32 + b2n f.esi * 64) ++ zeros 3 ++ encBE 4 stamp.toNat ++
  slice data 0 ((data.length + 3) / 4 * 4)

/-- The bytes of the record that a byte string begins with. -/
def recordLen (b : List Byte) : Nat :=
  let rtr := (byteAt b 0).testBit 6
  12 + (if rtr then 0 else (dlcLen (byteAt b 4 % 16) ((byteAt b 4).testBit 4) + 3) / 4 * 4)

/-- The records that follow one another in a payload. -/
def recordsOf : Nat → List Byte → List (List Byte)
  | 0, _ => []
  | k + 1, b => if b.length < recordLen b then [] else b.take (recordLen b) :: recordsOf k (b.drop (recordLen b))

/-- The replayed entry of a record (R573): `REPORT` and `TIMED` are 0, and its tag is open. -/
def recordEntry (b : List Byte) (tag : Nat) : List Word :=
  let fdf := (byteAt b 4).testBit 4
  let len := if (byteAt b 0).testBit 6 then 0 else dlcLen (byteAt b 4 % 16) fdf
  [word (beAt b 0 4 % 2 ^ 31), word (byteAt b 4 % 64 + tag % 65536 * 65536), 0#32, 0#32] ++
  wordsLE (slice ((b.drop 12).take len) 0 64) 16

/-! ### The routing table (R574, R575) -/

/-- The valid routing entries, in ascending index. -/
def Node.routes (n : Node) : List Nat :=
  (n.regs.filter fun p => decide (Reg.BRG_RT_W0 0 ≤ p.1 ∧ p.1 < Reg.BRG_RT_W0 4096) && p.1 % 8 == 4 && p.2.toNat.testBit 31).map
    fun p => (p.1 - Reg.BRG_RT_W0 0) / 8

/-- The lowest identifier bit that an entry compares: `MLEN` bits are left out, from [18] upward for an 11-bit identifier. -/
def routeLow (w0 w1 : Nat) : Nat := (if w0.testBit 29 then 0 else 18) + bitsOf w1 14 5

/-- An entry matches a frame of a controller. -/
def routeMatches (w0 w1 c : Nat) (f : CanFrame) : Bool :=
  w0 / 2 ^ 30 == c && w0.testBit 29 == f.ide && w0 % 2 ^ 29 / 2 ^ routeLow w0 w1 == f.id % 2 ^ 29 / 2 ^ routeLow w0 w1

/-- The identifier that a route carries (R575). -/
def routeId (w0 w1 id : Nat) : Nat :=
  if w1.testBit 30 then
    let lo := max (routeLow w0 w1) 18
    if lo < 29 then withBits id lo (29 - lo) (bitsOf w1 19 11 / 2 ^ (lo - 18)) else id
  else id

/-! ### Sending CAN frames across the spine (R567 to R571) -/

/-- A record joins a tunnel or route; beyond 512 waiting records it is discarded (R571). -/
def Node.tunQueue (n : Node) (stream c kind : Nat) (record : List Byte) : Node :=
  let mine (t : TunOut) : Bool := t.stream == stream && t.ctl == c
  let count : Nat := ((n.brg.tunOut.filter fun t => t.stream == stream).map fun t => t.records.length).sum
  if (n.strmLive stream).state ≠ 2 ∨ n.mem.absent.contains (2, stream) then n.inc Reg.BRG_TUN_DROP
  else if 512 ≤ count then (n.inc Reg.BRG_TUN_DROP).raiseLimited 0x6109 stream n.tc stream 3
  else
    let old := (n.brg.tunOut.find? mine).getD ⟨stream, c, kind, [], n.tm.raw⟩
    let new := { old with records := old.records ++ [record], since := if old.records.isEmpty then n.tm.raw else old.since }
    { n with brg := { n.brg with tunOut := n.brg.tunOut.filter (fun t => !mine t) ++ [new] } }

/-- A frame whose target is the bridge (R567, R569): the first route that matches, else the controller's tunnel. A standby
carries nothing; a route that an error has hit counts as absent (R73). -/
def Node.bridgeCan (n : Node) (c : Nat) (f : CanFrame) (stamp : Word) : Node :=
  if !n.ps2 || !n.holder then n
  else
    let w0 (r : Nat) : Nat := (n.reg (Reg.BRG_RT_W0 r)).toNat
    let w1 (r : Nat) : Nat := (n.reg (Reg.BRG_RT_W1 r)).toNat
    match n.routes.find? fun r => !n.mem.absent.contains (5, r) && routeMatches (w0 r) (w1 r) c f with
    | some r => n.tunQueue (w1 r % 2 ^ 14) c 2 (canRecord f (routeId (w0 r) (w1 r) f.id) stamp)
    | none =>
      let cfg := (n.reg (Reg.BRG_TUN_CFG c)).toNat
      if cfg.testBit 31 then n.tunQueue (cfg % 2 ^ 14) c 1 (canRecord f f.id stamp) else n.inc Reg.BRG_RT_NOMATCH

/-- CAN_FRAME_RECEIVED (R537, R541, R567). -/
def execCanFrameReceived (ctl : Nat) (f : CanFrame) (sof time : Nat) (s : State) : Host.Outcome State Fault Refusal :=
  .next (s.on fun n => (n.at time).canReceive ctl f sof Node.bridgeCan)

/-- CAN_FRAME_SENT (R547, R549, R567). -/
def execCanFrameSent (ctl idx : Nat) (obj : Bool) (sof time : Nat) (s : State) : Host.Outcome State Fault Refusal :=
  .next (s.on fun n => (n.at time).canSent ctl idx obj sof Node.bridgeCan)

/-- The records that one TUN frame takes: up to 1,460 bytes and 73 records. -/
def frameRecords : Nat → Nat → List (List Byte) → List (List Byte)
  | 0, _, _ => []
  | _, _, [] => []
  | k + 1, used, r :: rs => if used + r.length ≤ 1460 then r :: frameRecords k (used + r.length) rs else []

/-- The index of a stream's tunnel record at this node as sender. -/
def Node.txTun (n : Node) (stream c : Nat) : Option Nat :=
  if c < 4 ∧ (n.reg (Reg.BRG_TUN_CFG c)).toNat.testBit 31 ∧ (n.reg (Reg.BRG_TUN_CFG c)).toNat % 2 ^ 14 = stream then some c else none

/-- A frame being filled closes (R571): it holds all that it can, 20 µs have passed since its first record, or a TC4 gate that
was open then is closed now. -/
def Node.tunDue (n : Node) (t : TunOut) (rs : List (List Byte)) : Bool :=
  decide (rs.length < t.records.length) || decide (1460 ≤ (rs.flatMap id).length) || decide (t.since + 20000 ≤ n.tm.raw) ||
  (n.linePorts false ++ n.linePorts true).any fun p => n.gateAt p 4 (n.fineAt t.since / 65536) && !n.gateAt p 4 (n.fineAt n.tm.raw / 65536)

/-- The next sequence of a tunnel or route stream. A pair node that has come to hold the token continues it from replicated
counters that are laid out nowhere: free until its first frame (log entry 49). -/
def Node.tunSeq (n : Node) (stream : Nat) : Node × Nat :=
  match n.brg.seqs.find? fun x => x.1 == stream with
  | some x => (n, x.2)
  | none => if n.paired then (n.free.1, n.free.2.toNat % 65536) else (n, 0)

/-- TUN_FRAME_CLOSE (R569 to R571): the frame that is being filled is closed and sent toward the stream's destinations. -/
def execTunFrameClose (stream ctl time : Nat) (s : State) : Host.Outcome State Fault Refusal :=
  .next (s.on fun n =>
    let m := n.at time
    let mine (t : TunOut) : Bool := t.stream == stream && t.ctl == ctl
    match m.brg.tunOut.find? mine with
    | none => m
    | some t =>
      let rs := frameRecords 73 0 t.records
      if rs.isEmpty ∨ !m.ps2 ∨ !m.holder ∨ !m.tunDue t rs then m
      else
        let (m, seq) := m.tunSeq stream
        let payload := encBE 1 t.kind ++ encBE 1 rs.length ++ encBE 2 (ctl % 4) ++ zeros 4 ++ rs.flatMap id
        let k := m.tell { m.hdr 0x7 with sid := stream, seq := seq, tunnel := true } payload (m.leadsTo (m.strmDests stream))
        let left := t.records.drop rs.length
        let outs := k.brg.tunOut.filter fun x => !mine x
        let k := { k with brg := { k.brg with
          tunOut := if left.isEmpty then outs else outs ++ [{ t with records := left, since := k.tm.raw }]
          seqs := k.brg.seqs.filter (fun x => x.1 != stream) ++ [(stream, (seq + 1) % 65536)] } }
        match m.txTun stream ctl with
        | some i => (k.setBits (Reg.BRG_TUN_SEQ i) 0 16 seq).addSat (Reg.BRG_TUN_REC i) rs.length
        | none => k)

/-! ### Replaying (R572, R573) -/

/-- The TUN_RX record of a stream, as its index. -/
def Node.rxTun (n : Node) (stream : Nat) : Option Nat :=
  ((List.range 16).map (4 + ·)).find? fun t =>
    (n.reg (Reg.BRG_TUN_CFG t)).toNat.testBit 31 && (n.reg (Reg.BRG_TUN_CFG t)).toNat % 2 ^ 14 == stream

/-- A record is discarded (R573). -/
def Node.tunDrop (n : Node) (stream cause : Nat) : Node :=
  (n.inc Reg.BRG_TUN_DROP).raiseLimited 0x6109 stream n.tc stream cause

/-- One record is replayed into the queue of its TUN_RX record. -/
def Node.replay (n : Node) (stream : Nat) (record : List Byte) : Node :=
  match n.rxTun stream with
  | none => n.tunDrop stream 4
  | some t =>
    let c := n.bits (Reg.BRG_TUN_CFG t) 14 2
    let q := n.bits (Reg.BRG_TUN_CFG t) 16 2
    if (byteAt record 4).testBit 4 && !n.canFd c then n.tunDrop stream 2
    else if 64 ≤ (n.txq c q).length then n.tunDrop stream 1
    else
      let (m, w) := n.free
      (m.canPush c q (recordEntry record w.toNat)).addSat (Reg.BRG_TUN_REC t) 1

/-- The records of a frame are replayed at the holder; a standby discards them (R569). -/
def Node.replayFrame (n : Node) (stream seq : Nat) (records : List (List Byte)) : Node :=
  let m := match n.rxTun stream with
    | some t => n.setBits (Reg.BRG_TUN_SEQ t) 0 16 seq
    | none => n
  if m.holder then records.foldl (fun k r => k.replay stream r) m else m

/-- A tunnel stream's record as receiver. -/
def Node.tunIn (n : Node) (stream : Nat) : TunIn := (n.brg.tunIn.find? fun t => t.stream == stream).getD ⟨stream, none, []⟩
def Node.putTunIn (n : Node) (t : TunIn) : Node :=
  { n with brg := { n.brg with tunIn := n.brg.tunIn.filter (fun (x : TunIn) => x.stream != t.stream) ++ [t] } }

/-- The held frames that follow without a gap are replayed. -/
def Node.tunRelease : Nat → Node → Nat → Node
  | 0, n, _ => n
  | fuel + 1, n, stream =>
    let t := n.tunIn stream
    match t.next with
    | none => n
    | some q =>
      match t.held.find? fun h => h.seq == q with
      | some h =>
        let m := n.putTunIn { t with next := some ((q + 1) % 65536), held := t.held.filter fun x => x.seq != q }
        Node.tunRelease fuel (m.replayFrame stream q h.records) stream
      | none => n

/-- A missing sequence fills its place in the tracker's map (R572). -/
def Node.tunLate (n : Node) (stream q : Nat) : Bool :=
  let t := n.tracker stream
  let d := seqDelta q t.high
  match (n.tunIn stream).next with
  | some next => t.map % 2 == 1 && decide (-64 < d) && decide (d < 0) && !t.map.testBit (-d).toNat && decide (0 ≤ seqDelta q next)
  | none => false

/-- A frame accepted: replayed in its turn, or held for the sequences before it. -/
def Node.tunAccept (n : Node) (stream q : Nat) (records : List (List Byte)) : Node :=
  let t := n.tunIn stream
  let next := t.next.getD q
  if seqDelta q next ≤ 0 then
    Node.tunRelease 65 ((n.putTunIn { t with next := some ((q + 1) % 65536) }).replayFrame stream q records) stream
  else n.putTunIn { t with next := some next, held := t.held ++ [TunHeld.mk q records n.tm.raw] }

/-- TUN_RECEIVED (R156, R570, R572, R573): a TUN frame travels on toward the destinations of its stream; at a destination of its stream it is tracked and its
records are replayed in order. -/
def execTunReceived (r : Rx) (s : State) : Host.Outcome State Fault Refusal :=
  .next (s.on fun n => n.receive r 0x7 fun g h pl =>
    let m := g.relay r (g.rxLine r h) (g.leadsTo (g.strmDests h.sid))
    let e := m.strmLive h.sid
    if !e.valid ∨ !m.isDest e ∨ !m.ps2 then m
    else
      let records := recordsOf (byteAt pl 1) (pl.drop 8)
      if m.tunLate h.sid h.seq then
        let t := m.tracker h.sid
        (m.putTracker h.sid { t with map := t.map + 2 ^ (-(seqDelta h.seq t.high)).toNat }).tunAccept h.sid h.seq records
      else
        let (k, taken) := m.track h.sid h.seq h.age h.check h.ci
        if taken then (k.chkPass 4 h.sid h.seq pl).tunAccept h.sid h.seq records else k)

/-- The hold of a tunnel stream ends (R572): the missing frames count as lost and the held ones are replayed. -/
def Node.tunGap (n : Node) (t : TunIn) : Node :=
  match t.next with
  | none => n
  | some q =>
    let first := t.held.foldl (fun a h => if seqDelta h.seq a < 0 then h.seq else a) ((t.held.head?.map (·.seq)).getD q)
    let lost := (seqDelta first q).toNat
    let m := match n.rxTun t.stream with
      | some i => n.addSat (Reg.BRG_TUN_LOST i) lost
      | none => n
    let m := m.raiseLimited 0x6108 t.stream m.tc t.stream lost
    Node.tunRelease 65 (m.putTunIn { t with next := some first }) t.stream

/-! ### Targets and sessions (R578 to R584) -/

/-- Window and targets of a slot. -/
def Node.slotTgt (n : Node) (s : Nat) : BrgTgt :=
  { pair := n.fld (Reg.BRG_AP_CTRL s) Fld.BRG_AP_CTRL_PAIR == 1,
    id := (n.reg (Reg.BRG_AP_ID_LO s)).toNat + n.bits (Reg.BRG_AP_ID_HI s) 0 16 * 2 ^ 32 }
def Node.slotValid (n : Node) (s : Nat) : Bool := n.fld (Reg.BRG_AP_CTRL s) Fld.BRG_AP_CTRL_VALID == 1
def Node.slotCtx (n : Node) (s : Nat) : Nat := n.fld (Reg.BRG_AP_CTRL s) Fld.BRG_AP_CTRL_CTX
def Node.slotWindow (n : Node) (s : Nat) : Nat := n.fld (Reg.BRG_AP_CTRL s) Fld.BRG_AP_CTRL_WINDOW
def Node.slotBase (n : Node) (s : Nat) : Nat := n.fld (Reg.BRG_AP_CTRL s) Fld.BRG_AP_CTRL_OFFSET * 2 ^ 22

/-- The nodes of a target in the current numbering (R580). -/
def Node.tgtNodes (n : Node) (t : BrgTgt) : List NumEntry :=
  n.ina.table.filter fun e => if t.pair then e.paired && n.pairIdOf e.identity == t.id else e.identity == t.id

/-- The session of a target; a new one takes the place of the one unused longest without an outstanding request (R582). -/
def Node.session (n : Node) (t : BrgTgt) : Node × BrgSession :=
  match n.brg.sessions.find? fun x => x.tgt == t with
  | some x => (n, x)
  | none =>
    let idle := n.brg.sessions.filter fun x => !(n.brg.reads.any fun r => r.tgt == x.tgt)
    let keep := if n.brg.sessions.length < 256 then n.brg.sessions
      else match idle with
        | [] => n.brg.sessions.tail
        | x :: xs =>
          let oldest := xs.foldl (fun (a y : BrgSession) => if y.used < a.used then y else a) x
          n.brg.sessions.erase oldest
    let new : BrgSession := ⟨t, n.brg.nextSession, 0, n.tm.raw⟩
    ({ n with brg := { n.brg with sessions := keep ++ [new], nextSession := (n.brg.nextSession + 1) % 65536 } }, new)

/-- A frame of TC4 leaves toward a target's nodes: the raw time at which its first copy starts. -/
def Node.towardAt (n : Node) (ids : List Nat) (h : SpineHdr) (payload : List Byte) : Nat :=
  let at1 := ((n.linePorts false ++ n.linePorts true).filter fun p => n.linkUp p && n.joined p && n.leadsTo (some ids) p).map fun p =>
    n.leaveIn p 4 (n.spineFrame (addrLine (n.portB p)) h payload)
  match at1 with
  | t :: ts => ts.foldl min t
  | [] => n.tm.raw

/-- A request leaves for its target on both lines (R582): the answer is its session with the request's sequence, and the raw
time at which it starts. `ctx` and `secure` are the calling context's. -/
def Node.rwinSend (n : Node) (t : BrgTgt) (op size tag window ctx : Nat) (prefetch secure : Bool) (off : Nat) (data : List Byte) :
    Node × BrgSession × Nat :=
  let (m, x) := n.session t
  let ids := (n.tgtNodes t).map (·.identity)
  let payload := encBE 1 op ++ encBE 1 (size + b2n prefetch * 4) ++ encBE 2 tag ++ encBE 1 window ++
    encBE 1 (ctx % 8 + b2n secure * 8) ++ encBE 2 x.session ++ encBE 8 off ++ encBE 6 m.identity ++ zeros 2 ++
    zeros (8 - data.length) ++ data.reverse
  let h := { m.hdr 0x8 with seq := x.seq }
  let k := m.tell h payload (m.leadsTo (some ids))
  let up (y : BrgSession) : BrgSession := if y.tgt == t then { y with seq := (y.seq + 1) % 65536, used := n.tm.raw } else y
  ({ k with brg := { k.brg with sessions := k.brg.sessions.map up } }, x, m.towardAt ids h payload)

/-- A request sent is kept among the last 256 (R585). -/
def Node.keepSent (n : Node) (x : BrgSent) : Node :=
  let l := n.brg.sent ++ [x]
  { n with brg := { n.brg with sent := l.drop (l.length - 256) } }

/-- The semaphores that an access through a window, sent at a raw time, renews at its requester (R593). -/
def Node.renewSems (n : Node) (t : BrgTgt) (window ctx sent : Nat) : Node :=
  let mine (m : Nat) : Bool :=
    let cfg := n.reg (Reg.BRG_SEM_CFG m)
    let s := cfg.toNat % 64
    bitsOf cfg.toNat 8 2 == 2 && bitsOf cfg.toNat 12 3 == ctx && n.slotTgt s == t && n.slotWindow s == window
  let up (p : Nat × Nat) : Nat × Nat := if mine p.1 then (p.1, sent) else p
  { n with brg := { n.brg with semSent := n.brg.semSent.map up } }

/-- The size code of a length, none for a length that the bridge refuses (R581). -/
def sizeCode : Nat → Option Nat
  | 1 => some 0 | 2 => some 1 | 4 => some 2 | 8 => some 3
  | _ => none

/-! ### Posted writes (R585, R586) -/

/-- The registers that show the log. -/
def Node.syncPwe (n : Node) : Node :=
  let b := n.brg
  let m := n.setReg Reg.BRG_PWE_STAT (word (b.log.length + b2n b.logOvf * 128 + min b.logLost 65535 * 65536))
  match b.log with
  | [] => m.setRegs Reg.BRG_PWE_W0 [0#32, 0#32, 0#32, 0#32, 0#32]
  | e :: _ => m.setRegs Reg.BRG_PWE_W0
      [word (e.w0 + b2n e.gap * 2 ^ 30 + 2 ^ 31), word e.w1, word e.w2, word (e.w3 + min e.lost 4095 * 2 ^ 20), e.w4]

/-- A posted write failed (R585): counted in the log and reported. -/
def Node.postedFail (n : Node) (wtag ctx reason slot window off : Nat) (t : BrgTgt) : Node :=
  let b := n.brg
  let m :=
    if 64 ≤ b.log.length then { n with brg := { b with logOvf := true, logLost := b.logLost + 1 } }
    else
      let e : Pwe := ⟨wtag % 65536 + ctx % 8 * 65536 + reason % 16 * 2 ^ 20 + slot % 64 * 2 ^ 24, off, t.id,
        t.id / 2 ^ 32 % 65536 + window % 16 * 65536, n.stamp, b.logOvf, b.logLost⟩
      let k := { n with brg := { b with log := b.log ++ [e], logOvf := false, logLost := 0 } }
      if b.logOvf then k.raiseLimited 0x610B 0 k.tc 0 b.logLost else k
  m.syncPwe.raise 0x6202 (wtag % 65536 + ctx % 8 * 65536 + reason % 16 * 2 ^ 20) off

/-- The next write tag of a context. -/
def Node.nextWtag (n : Node) (ctx : Nat) : Node × Nat :=
  let t := (n.bits (Reg.BRG_WTAG ctx) 0 16 + 1) % 65536
  (n.setReg (Reg.BRG_WTAG ctx) (word t), t)

/-- A posted write of a context leaves, or fails at once when its target is absent or PS2 has failed (R580, R585). -/
def Node.remoteWrite (n : Node) (ctx slot window off : Nat) (t : BrgTgt) (data : List Byte) : Node × Nat :=
  let (m, tag) := n.nextWtag ctx
  if !m.ps2 then (m.postedFail tag ctx 9 slot window off t, tag)
  else if (m.tgtNodes t).isEmpty then (m.postedFail tag ctx 4 slot window off t, tag)
  else
    let (k, x, sent) := m.rwinSend t 2 ((sizeCode data.length).getD 0) tag window ctx false (m.ctxSecure ctx) off data
    (((k.keepSent ⟨t, x.session, x.seq, true, tag, ctx, slot, window, off⟩).inc Reg.BRG_WR_CNT).renewSems t window ctx sent, tag)

/-- The oldest entry of the posted-write error log shows to a secure context and to the entry's own (R598). -/
def Node.pweMine (n : Node) (ctx : Nat) : Bool :=
  n.ctxSecure ctx || match n.brg.log with
    | e :: _ => e.w0 / 65536 % 8 == ctx
    | [] => false

/-- The entry is read to its end and removed. -/
def Node.pwePop (n : Node) (ctx : Nat) : Node :=
  if n.pweMine ctx then
    let v := n.reg Reg.BRG_PWE_W4
    ({ n with brg := { n.brg with log := n.brg.log.tail } }.syncPwe).answer v
  else n.answer 0#32

/-- POSTED_LOG_READ (R586, R598): a read of `BRG_PWE_W4` removes the oldest entry. -/
def execPostedLogRead (ctx : Nat) (s : State) : Host.Outcome State Fault Refusal :=
  .next (s.on fun n => n.access ctx Reg.BRG_PWE_W4 false fun m => m.pwePop ctx)

/-! ### Prefetch (R590, R591) -/

/-- A block is discarded: words of a block with read side effect that were never read are reported (R591). -/
def Node.dropBlock (n : Node) (b : PfBlock) : Node :=
  let m := { n with brg := { n.brg with blocks := n.brg.blocks.filter fun x => x.bar != b.bar } }.syncBrg
  if b.side && !b.unread.isEmpty then
    (m.inc Reg.BRG_PF_LOST).raiseLimited 0x6101 (b.bar / 2 ^ 22) m.tc b.bar (b.unread.foldl (fun a i => a + 2 ^ i) 0)
  else m

/-- A posted write to an address within a block invalidates it. -/
def Node.invalidate (n : Node) (t : BrgTgt) (window off len : Nat) : Node :=
  (n.brg.blocks.filter fun b => b.tgt == t && b.window == window && decide (off < b.off + 256) && decide (b.off < off + len)).foldl
    (fun m b => m.dropBlock b) n

/-- A block arrives; when 16 are in use, the one unused longest goes. -/
def Node.putBlock (n : Node) (b : PfBlock) : Node :=
  let n := match n.brg.blocks.find? fun x => x.bar == b.bar with
    | some x => n.dropBlock x
    | none => n
  let m := match n.brg.blocks with
    | x :: xs => if 15 ≤ xs.length then n.dropBlock (xs.foldl (fun (a y : PfBlock) => if y.used < a.used then y else a) x) else n
    | [] => n
  { m with brg := { m.brg with blocks := m.brg.blocks ++ [b] } }.syncBrg

/-- PREFETCH_BLOCK_EXPIRY (R590): a block is valid for T_c after its response. -/
def execPrefetchBlockExpiry (bar time : Nat) (s : State) : Host.Outcome State Fault Refusal :=
  .next (s.on fun n =>
    let m := n.at time
    match m.brg.blocks.find? fun b => b.bar == bar with
    | some b => if b.since + m.tc ≤ m.tm.raw then m.dropBlock b else m
    | none => m)

/-! ### Reads (R587 to R589) -/

/-- A read TLP completes. -/
def Node.cpl (n : Node) (ctx bar : Nat) (abort : Bool) (data : List Byte) : Node :=
  { n with brg := { n.brg with cpls := n.brg.cpls ++ [(ctx, bar, abort, data)] } }

/-- SIZE_UNSUPPORTED (R581). -/
def Node.sizeErr (n : Node) (bar len : Nat) : Node :=
  (n.inc Reg.BRG_SIZE_ERR).raiseLimited 0x6104 (if bar < 2 ^ 28 then bar / 2 ^ 22 else 64) n.tc bar len

/-- REMOTE_READ_FAIL (R588). -/
def Node.readFail (n : Node) (bar reason : Nat) : Node :=
  n.raiseLimited 0x6105 (if bar < 2 ^ 28 then bar / 2 ^ 22 else 64) n.tc bar reason

/-- A read or lock leaves and is outstanding under a tag; its timeout counts from the moment it is sent (R587). -/
def Node.issueRead (n : Node) (r : BrgRead) (op size : Nat) (tag : Nat) : Node :=
  let (m, x, sent) := n.rwinSend r.tgt op size tag r.window r.ctx r.block (n.ctxSecure r.ctx) r.off []
  let m := m.keepSent ⟨r.tgt, x.session, x.seq, false, 0, r.ctx, r.slot, r.window, r.off⟩
  ({ m with brg := { m.brg with reads := m.brg.reads ++ [{ r with since := sent }] } }.renewSems r.tgt r.window r.ctx sent).syncBrg

/-- The next read tag. -/
def Node.nextReadTag (n : Node) : Node × Nat :=
  ({ n with brg := { n.brg with nextTag := (n.brg.nextTag + 1) % 65536 } }, n.brg.nextTag)

/-- A read TLP of supported size on a slot of its function (R587, R590). -/
def Node.barRead (n : Node) (fn bar len : Nat) : Node :=
  let s := bar / 2 ^ 22
  let t := n.slotTgt s
  let off := n.slotBase s + bar % 2 ^ 22
  match n.brg.blocks.find? fun b => decide (b.bar ≤ bar) && decide (bar + len ≤ b.bar + b.data.length) && decide (n.tm.raw < b.since + n.tc) with
  | some b =>
    let words := (List.range 32).filter fun i => decide (8 * i < bar - b.bar + len) && decide (bar - b.bar < 8 * i + 8)
    let up (x : PfBlock) : PfBlock :=
      if x.bar == b.bar then { x with used := n.tm.raw, unread := x.unread.filter fun i => !words.contains i } else x
    (({ n with brg := { n.brg with blocks := n.brg.blocks.map up } }.inc Reg.BRG_PF_HIT).inc Reg.BRG_RD_CNT).cpl fn bar false
      (slice b.data (bar - b.bar) len)
  | none =>
    if !n.ps2 then (n.cpl fn bar true []).readFail bar 9
    else if (n.tgtNodes t).isEmpty then (n.cpl fn bar true []).readFail bar 4
    else if 32 ≤ n.readCount then { n with brg := { n.brg with waiting := n.brg.waiting ++ [(fn, bar, len)] } }
    else
      let ahead := n.fld (Reg.BRG_AP_CTRL s) Fld.BRG_AP_CTRL_PREFETCH == 1 && n.bit (Reg.BRG_AP_STAT s) 4 &&
        n.bit (Reg.BRG_AP_STAT s) 2
      let (m, tag) := n.nextReadTag
      m.issueRead ⟨tag, 0, fn, s, bar, len, ahead, t, n.slotWindow s, if ahead then off / 256 * 256 else off, 0⟩ 1
        ((sizeCode len).getD 0) tag

/-- A function may use a slot: the slot is valid and bound to its context (R578). -/
def Node.slotOk (n : Node) (fn bar : Nat) : Bool :=
  decide (bar < 2 ^ 28) && n.slotValid (bar / 2 ^ 22) && n.slotCtx (bar / 2 ^ 22) == fn

/-- A read TLP is served, or refused where the function may not use the slot (R9, R578). -/
def Node.barServe (n : Node) (fn bar len : Nat) : Node :=
  if n.slotOk fn bar then n.barRead fn bar len else (n.refuse fn false 3 2 bar instBrg).cpl fn bar false (zeros len)

/-- BAR2_READ_TLP (R578, R580, R581, R587, R590). -/
def execBar2ReadTlp (fn off len time : Nat) (s : State) : Host.Outcome State Fault Refusal :=
  .next (s.on fun n =>
    let m := n.at time
    if 4 ≤ fn then m
    else if m.slotOk fn off ∧ ((sizeCode len).isNone ∨ off % max len 1 ≠ 0) then (m.cpl fn off true []).sizeErr off len
    else m.barServe fn off len)

/-- BAR2_WRITE_TLP (R578, R581, R585, R590). -/
def execBar2WriteTlp (fn off : Nat) (bytes : List Byte) (time : Nat) (s : State) : Host.Outcome State Fault Refusal :=
  .next (s.on fun n =>
    let m := n.at time
    let sl := off / 2 ^ 22
    let t := m.slotTgt sl
    let woff := m.slotBase sl + off % 2 ^ 22
    if 4 ≤ fn then m
    else if !m.slotOk fn off then m.refuse fn true 3 2 off instBrg
    else if (sizeCode bytes.length).isNone ∨ off % max bytes.length 1 ≠ 0 then
      let (k, tag) := (m.sizeErr off bytes.length).nextWtag fn
      k.postedFail tag fn 6 sl (m.slotWindow sl) woff t
    else ((m.invalidate t (m.slotWindow sl) woff bytes.length).remoteWrite fn sl (m.slotWindow sl) woff t bytes).1)

/-- Unmaps that waited for the reads of their slot complete (R597), and read TLPs that waited go out. -/
def Node.readDone (n : Node) (slot : Nat) : Node :=
  let m := if n.brg.reads.any fun r => r.slot == slot && r.kind == 0 then n
    else n.finishWaits (fun w => w.kind == 9 && w.key == slot) sOk []
  match m.brg.waiting with
  | (fn, bar, len) :: ws =>
    if m.readCount < 32 then { m with brg := { m.brg with waiting := ws } }.barServe fn bar len else m
  | [] => m

/-- A read leaves the outstanding ones, and its tag is kept with its outcome (R589). -/
def Node.endRead (n : Node) (tag : Nat) (timedOut : Bool) : Node :=
  let l := n.brg.outcomes.filter (fun x => x.1 != tag) ++ [(tag, timedOut)]
  { n with brg := { n.brg with
    reads := n.brg.reads.filter fun (r : BrgRead) => !(r.tag == tag && r.kind != 2)
    outcomes := l.drop (l.length - 1024) } }.syncBrg

/-- READ_TIMEOUT (R587, R593). -/
def execReadTimeout (tag time : Nat) (s : State) : Host.Outcome State Fault Refusal :=
  .next (s.on fun n =>
    let m := n.at time
    let limit := max 100 (min 100000 (m.reg Reg.BRG_RD_TIMEOUT).toNat) * 1000
    match m.brg.reads.find? fun r => r.tag == tag with
    | none => m
    | some r =>
      if m.tm.raw < r.since + limit then m
      else
        let key := if r.bar < 2 ^ 28 then r.slot else 64
        if r.kind = 2 then
          let k := { m with brg := { m.brg with reads := m.brg.reads.erase r } }.syncBrg
          let k := k.setBits (Reg.BRG_SEM_CFG tag) 8 2 0
          (k.finishWaits (fun w => w.kind == 11 && w.key == tag) sTimeout []).readDone r.slot
        else
          let k := ((m.endRead tag true).inc Reg.BRG_RD_TO).raiseCounted 0x6106 key m.tc r.bar
          let k := if r.kind = 0 then k.cpl r.ctx r.bar true []
            else k.finishWaits (fun w => w.kind == 10 && w.key == tag) sTimeout []
          k.readDone r.slot)

/-! ### Semaphores at the requester (R592, R593) -/

/-- The state of a semaphore: 0 FREE, 1 REQUESTED, 2 HELD. -/
def Node.semState (n : Node) (m : Nat) : Nat := n.bits (Reg.BRG_SEM_CFG m) 8 2
def Node.semSlot (n : Node) (m : Nat) : Nat := n.bits (Reg.BRG_SEM_CFG m) 0 6
def Node.semCtx (n : Node) (m : Nat) : Nat := n.bits (Reg.BRG_SEM_CFG m) 12 3

/-- A semaphore is freed with an unlock request (R593). -/
def Node.semUnlock (n : Node) (m : Nat) : Node :=
  let s := n.semSlot m
  let t := n.slotTgt s
  let k := n.setBits (Reg.BRG_SEM_CFG m) 8 2 0
  let k := { k with brg := { k.brg with semSent := k.brg.semSent.filter fun x => x.1 != m } }
  if (k.tgtNodes t).isEmpty || !k.ps2 then k
  else (k.rwinSend t 4 0 m (n.slotWindow s) (n.semCtx m) false (n.ctxSecure (n.semCtx m)) (n.slotBase s) []).1

/-- SEM_LEASE_EXPIRED (R593): 10 ms after the last renewing request was sent. -/
def execSemLeaseExpired (sem time : Nat) (s : State) : Host.Outcome State Fault Refusal :=
  .next (s.on fun n =>
    let m := n.at time
    let since := ((m.brg.semSent.find? fun x => x.1 == sem).map (·.2)).getD 0
    if sem < 64 ∧ m.semState sem = 2 ∧ since + 10000000 ≤ m.tm.raw then
      let k := m.setBits (Reg.BRG_SEM_CFG sem) 8 2 0
      { k with brg := { k.brg with semSent := k.brg.semSent.filter fun x => x.1 != sem } }.raiseLimited 0x6107 (m.semSlot sem) m.tc sem (m.semSlot sem)
    else m)

/-- A slot is unbound: its semaphores are freed and its blocks discarded. -/
def Node.unmapSlot (n : Node) (s : Nat) : Node :=
  let sems := (List.range 64).filter fun m => n.semState m == 2 && n.semSlot m == s
  let k := sems.foldl Node.semUnlock n
  let k := (k.brg.blocks.filter fun b => b.bar / 2 ^ 22 == s).foldl (fun k b => k.dropBlock b) k
  k.setRegs (Reg.BRG_AP_CTRL s) [0#32, 0#32, 0#32, 0#32, 0#32]

/-- A context reset frees the semaphores of a context and unmaps its slots (R593, R645). -/
def Node.brgCtxReset (n : Node) (ctx : Nat) : Node :=
  let sems := (List.range 64).filter fun m => n.semState m != 0 && n.semCtx m == ctx
  let k := sems.foldl Node.semUnlock n
  ((List.range 64).filter fun s => k.slotValid s && k.slotCtx s == ctx).foldl Node.unmapSlot k

/-! ### Sideband polling (R594, R595) -/

/-- The valid slots of a target. -/
def Node.slotsOfTgt (n : Node) (t : BrgTgt) : List Nat := (List.range 64).filter fun s => n.slotValid s && n.slotTgt s == t

/-- SUMMARY_POLL (R594, R595): a summary request to every distinct target; a target that has missed three is absent. -/
def execSummaryPoll (time : Nat) (s : State) : Host.Outcome State Fault Refusal :=
  .next (s.on fun n =>
    let m := n.at time
    let period := (m.reg Reg.BRG_POLL).toNat % 256
    if period = 0 ∨ m.cyc.cur % period ≠ 0 ∨ !m.ps2 ∨ m.st ≠ stRun ∨ m.brg.pollCyc = some m.cyc.cur then m
    else
      let tgts := (((List.range 64).filter m.slotValid).map m.slotTgt).eraseDups
      let old (t : BrgTgt) : BrgPolled := (m.brg.polled.find? fun p => p.tgt == t).getD ⟨t, 0, true, 0, none⟩
      let k := tgts.foldl (fun k t =>
        let p := old t
        let p := if p.answered then p else { p with misses := p.misses + 1 }
        let slots := k.slotsOfTgt t
        let k := if p.misses = 3 ∧ !p.answered then
            (slots.foldl (fun k s => k.setFld (Reg.BRG_AP_STAT s) Fld.BRG_AP_STAT_ABSENT 1) k).raiseLimited 0x610C
              (slots.headD 0) k.tc t.id (slots.headD 0) else k
        let k := { k with brg := { k.brg with
          polled := k.brg.polled.filter (fun (x : BrgPolled) => x.tgt != t) ++ [{ p with answered := false }] } }
        if (k.tgtNodes t).isEmpty then k
        else (k.rwinSend t 5 0 0 (k.slotWindow (slots.headD 0)) (k.slotCtx (slots.headD 0)) false false 0 []).1)
        { m with brg := { m.brg with
          polled := m.brg.polled.filter fun (x : BrgPolled) => tgts.contains x.tgt
          pollCyc := some m.cyc.cur } }
      k.syncBrg)

/-- A summary response (R594): the bits and the fault count of the target. -/
def Node.summary (n : Node) (t : BrgTgt) (src : NumEntry) (data : List Byte) : Node :=
  match n.brg.polled.find? fun p => p.tgt == t with
  | none => n
  | some p =>
    let bits := beAt data 0 4
    let faults := beAt data 4 4
    let moved := p.faults.any fun f => f != faults
    let slots := n.slotsOfTgt t
    let m := slots.foldl (fun k s => ((k.setReg (Reg.BRG_AP_SB s) (word bits)).setFld (Reg.BRG_AP_STAT s) Fld.BRG_AP_STAT_ABSENT 0).setFld
      (Reg.BRG_AP_STAT s) Fld.BRG_AP_STAT_FAULTS (b2n moved)) n
    let up (x : BrgPolled) : BrgPolled :=
      if x.tgt == t then { x with misses := 0, answered := true, bits := bits, faults := some faults } else x
    let m := { m with brg := { m.brg with polled := m.brg.polled.map up } }
    if bits ≠ p.bits ∨ moved then m.raise 0x600A (slots.headD 0 + b2n moved * 64 + src.num * 65536) (Nat.xor bits p.bits) else m

/-! ### Responses (R585, R588, R589, R592, R593) -/

/-- A response to a read (R588, R589, R590). -/
def Node.readResponse (n : Node) (r : BrgRead) (reason attrs : Nat) (data : List Byte) : Node :=
  let m := n.endRead r.tag false
  let ok := reason == 0
  let part := if r.block then slice data (r.bar % 256) r.size else slice data 0 r.size
  let m := if ok && r.block then
      m.putBlock { bar := r.bar - r.bar % 256, tgt := r.tgt, window := r.window, off := r.off, data := data, since := n.tm.raw,
                   used := n.tm.raw, side := attrs.testBit 0,
                   unread := (List.range 32).filter fun i => decide (8 * i < data.length) && i != r.bar % 256 / 8 }
    else m
  let m := if ok then m.inc Reg.BRG_RD_CNT else m
  let m :=
    if r.kind = 0 then
      if ok then m.cpl r.ctx r.bar false part
      else if reason = 2 then m.cpl r.ctx r.bar false (zeros r.size)
      else (m.cpl r.ctx r.bar true []).readFail r.bar reason
    else
      let m := if ok ∨ reason = 2 then m else m.readFail r.bar reason
      m.finishWaits (fun w => w.kind == 10 && w.key == r.tag) (if ok then sOk else sFar)
        (if ok then wordsLE (slice data 0 8) ((r.size + 3) / 4) else [word reason])
  m.readDone r.slot

/-- The slots of a target on a window show the attributes of a response (R600). -/
def Node.showAttrs (n : Node) (t : BrgTgt) (window attrs : Nat) : Node :=
  ((n.slotsOfTgt t).filter fun s => n.slotWindow s == window).foldl
    (fun k s => k.setBits (Reg.BRG_AP_STAT s) 0 5 (attrs % 16 + 16)) n

/-- A lock is granted or refused (R593); one freed meanwhile by a context reset stays free. -/
def Node.lockResponse (n : Node) (r : BrgRead) (reason : Nat) : Node :=
  let m := { n with brg := { n.brg with reads := n.brg.reads.erase r } }.syncBrg
  let held := n.semState r.tag == 2
  let freed := n.semState r.tag == 0
  let m := m.setBits (Reg.BRG_SEM_CFG r.tag) 8 2 (if (reason = 0 ∨ held) ∧ !freed then 2 else 0)
  let m := if reason = 0 ∧ !freed then { m with brg := { m.brg with
    semSent := m.brg.semSent.filter (fun x => x.1 != r.tag) ++ [(r.tag, r.since)] } } else m
  (m.finishWaits (fun w => w.kind == 11 && w.key == r.tag) (if reason = 0 then sOk else sBusy) []).readDone r.slot

/-- The target of this node's session that a response belongs to. -/
def Node.respTgt (n : Node) (src : NumEntry) (session : Nat) : Option BrgTgt :=
  (n.brg.sessions.find? fun x => x.session == session &&
    (if x.tgt.pair then src.paired && n.pairIdOf src.identity == x.tgt.id else x.tgt.id == src.identity)).map (·.tgt)

/-- A write that a failure or a loss notice names is logged (R585). -/
def Node.failSent (n : Node) (t : BrgTgt) (session seq reason : Nat) : Node :=
  match n.brg.sent.find? fun x => x.tgt == t && x.session == session && x.seq == seq && x.write with
  | some x => { n with brg := { n.brg with sent := n.brg.sent.erase x } }.postedFail x.wtag x.ctx reason x.slot x.window x.off t
  | none => n

/-- RWIN_RSP_RECEIVED (R585, R588, R589, R592 to R595): a response addressed to this node takes effect; any other travels on. -/
def execRwinRspReceived (r : Rx) (addressed : Bool) (s : State) : Host.Outcome State Fault Refusal :=
  .next (s.on fun n => n.receive r 0x9 fun g h pl =>
    if !addressed then g.forwardJoined r (g.rxLine r h)
    else match g.nodeIn h.epoch h.src with
      | none => g
      | some src =>
        let op := byteAt pl 0
        let reason := byteAt pl 1
        let tag := beAt pl 2 2
        let session := beAt pl 6 2
        let seq := beAt pl 8 2
        let data := slice pl 16 (beAt pl 10 2)
        match g.respTgt src session with
        | none => g
        | some t =>
          let g := if op ∈ [1, 2, 3] then g.showAttrs t (byteAt pl 5 % 16) (byteAt pl 4) else g
          match op with
          | 1 =>
            match g.brg.reads.find? fun x => x.kind != 2 && x.tag == tag && x.tgt == t with
            | some x => g.readResponse x reason (byteAt pl 4) data
            | none => if g.brg.outcomes.contains (tag, true) then (g.inc Reg.BRG_LATE_RSP).raiseCounted 0x6103 0 g.tc tag else g
          | 2 => g.failSent t session seq reason
          | 3 =>
            match g.brg.reads.find? fun x => x.kind == 2 && x.tag == tag && x.tgt == t with
            | some x => g.lockResponse x reason
            | none => g
          | 5 => g.summary t src data
          | 6 => (List.range tag).foldl (fun k i => k.failSent t session ((seq + i) % 65536) 8) g
          | _ => g)

/-! ### Commands (R597) -/

/-- A bridge command acts in the world of the BRG instance. -/
def Node.brgCommand (n : Node) (c : Cmd) (nargs : Nat) (act : Node → Answer) : Node := n.command c (.inst instBrg) nargs act

/-- The target of identity words. -/
def tgtOf (lo hi : Nat) : BrgTgt := { pair := hi.testBit 16, id := lo + (if hi.testBit 16 then 0 else hi % 65536 * 2 ^ 32) }

/-- BRIDGE_STATUS (R597). -/
def execBridgeStatus (c : Cmd) (s : State) : Host.Outcome State Fault Refusal :=
  .next (s.runs c 0x0801 fun n => n.brgCommand c 0 fun m =>
    let k := m.syncBrg
    .done k sOk [k.reg Reg.BRG_STAT, k.reg Reg.BRG_PWE_STAT])

/-- BRIDGE_MAP (R578, R597). -/
def execBridgeMap (c : Cmd) (s : State) : Host.Outcome State Fault Refusal :=
  .next (s.runs c 0x0802 fun n => n.brgCommand c 5 fun m =>
    let sl := arg c 0 % 64
    if 4 ≤ c.ctx ∨ arg c 0 / 64 % 4 ≠ 0 ∨ arg c 0 / 512 ≠ 0 ∨ arg c 2 / 2 ^ 17 ≠ 0 ∨ 15 < arg c 3 ∨ 1023 < arg c 4 then .fail m sArgs
    else if m.slotValid sl && m.slotCtx sl != c.ctx then .fail m sBusy
    else
      let t := tgtOf (arg c 1) (arg c 2)
      let k := m.unmapSlot sl
      .done (k.setRegs (Reg.BRG_AP_CTRL sl)
        [word (1 + b2n t.pair * 2 + arg c 0 / 256 % 2 * 4 + c.ctx * 16 + arg c 3 * 256 + arg c 4 * 65536), argW c 1,
         word (if t.pair then 0 else arg c 2 % 65536), 0#32, 0#32]) sOk [])

/-- BRIDGE_UNMAP (R597): completes once the slot's outstanding reads have. -/
def execBridgeUnmap (c : Cmd) (s : State) : Host.Outcome State Fault Refusal :=
  .next (s.runs c 0x0803 fun n => n.brgCommand c 1 fun m =>
    if 64 ≤ arg c 0 ∨ !m.slotValid (arg c 0) ∨ m.slotCtx (arg c 0) ≠ c.ctx then .fail m sArgs
    else
      let k := m.unmapSlot (arg c 0)
      if k.brg.reads.any fun r => r.slot == arg c 0 && r.kind == 0 then .wait k 9 (arg c 0) [] else .done k sOk [])

/-- The checks of R581 on a command's access, and its window. -/
def Node.farArgsBad (c : Cmd) : Bool :=
  decide (arg c 1 / 2 ^ 17 ≠ 0) || decide (15 < arg c 2) || decide (3 < arg c 5) ||
  decide ((arg c 3 + arg c 4 * 2 ^ 32) % 2 ^ min (arg c 5) 3 ≠ 0)

/-- A command whose size code or alignment the bridge refuses. -/
def Node.farSizeErr (n : Node) (c : Cmd) : Node :=
  if 3 < arg c 5 ∨ (arg c 3 + arg c 4 * 2 ^ 32) % 2 ^ min (arg c 5) 3 ≠ 0 then n.sizeErr 0xFFFFFFFF (2 ^ min (arg c 5) 31) else n

/-- BRIDGE_READ (R580, R581, R587, R597). -/
def execBridgeRead (c : Cmd) (s : State) : Host.Outcome State Fault Refusal :=
  .next (s.runs c 0x0804 fun n => n.brgCommand c 6 fun m =>
    let t := tgtOf (arg c 0) (arg c 1)
    if Node.farArgsBad c then .fail (m.farSizeErr c) sArgs
    else if !m.ps2 then .done m sFar [9#32]
    else if (m.tgtNodes t).isEmpty then .done (m.readFail 0xFFFFFFFF 4) sFar [4#32]
    else if 32 ≤ m.readCount then .fail m sResource
    else
      let (k, tag) := m.nextReadTag
      .wait (k.issueRead ⟨tag, 1, c.ctx, 64, 0xFFFFFFFF, 2 ^ arg c 5, false, t, arg c 2, arg c 3 + arg c 4 * 2 ^ 32, 0⟩ 1 (arg c 5)
        tag) 10 tag [])

/-- BRIDGE_WRITE (R581, R585, R597). -/
def execBridgeWrite (c : Cmd) (s : State) : Host.Outcome State Fault Refusal :=
  .next (s.runs c 0x0805 fun n => n.brgCommand c 8 fun m =>
    let t := tgtOf (arg c 0) (arg c 1)
    let off := arg c 3 + arg c 4 * 2 ^ 32
    if Node.farArgsBad c then .fail (m.farSizeErr c) sArgs
    else if !m.ps2 then .done m sFar [9#32]
    else
      let data := (encLE 4 (arg c 6) ++ encLE 4 (arg c 7)).take (2 ^ arg c 5)
      let (k, tag) := (m.invalidate t (arg c 2) off data.length).remoteWrite c.ctx 63 (arg c 2) off t data
      .done k sOk [word tag])

/-- BRIDGE_LOCK (R592, R593, R597). -/
def execBridgeLock (c : Cmd) (s : State) : Host.Outcome State Fault Refusal :=
  .next (s.runs c 0x0806 fun n => n.brgCommand c 2 fun m =>
    let sem := arg c 0
    let sl := arg c 1
    if 64 ≤ sem ∨ 64 ≤ sl ∨ !m.slotValid sl ∨ m.slotCtx sl ≠ c.ctx then .fail m sArgs
    else if !m.ps2 then .done m sFar [9#32]
    else if m.semState sem = 1 ∨ (m.semState sem = 2 ∧ (m.semCtx sem ≠ c.ctx ∨ m.semSlot sem ≠ sl)) then .fail m sBusy
    else if (m.tgtNodes (m.slotTgt sl)).isEmpty then .fail m sBusy
    else
      let st := if m.semState sem = 2 then 2 else 1
      let k := m.setReg (Reg.BRG_SEM_CFG sem) (word (sl + st * 256 + c.ctx * 4096))
      .wait (k.issueRead ⟨sem, 2, c.ctx, sl, 0xFFFFFFFF, 0, false, m.slotTgt sl, m.slotWindow sl, m.slotBase sl, 0⟩ 3 0 sem)
        11 sem [])

/-- BRIDGE_UNLOCK (R593, R597). -/
def execBridgeUnlock (c : Cmd) (s : State) : Host.Outcome State Fault Refusal :=
  .next (s.runs c 0x0807 fun n => n.brgCommand c 1 fun m =>
    if 64 ≤ arg c 0 ∨ m.semState (arg c 0) ≠ 2 ∨ m.semCtx (arg c 0) ≠ c.ctx then .fail m sArgs
    else .done (m.semUnlock (arg c 0)) sOk [])

/-! ### The owning node: receipt (R577, R583) -/

/-- A response or notice of the owning node, sent toward the requester (R582). Its own sequence is not given; the model sends
0. -/
def Node.rwinRsp (n : Node) (requester op reason tag attrs window session seq : Nat) (data : List Byte) : Node :=
  n.tell (n.hdr 0x9) (encBE 1 op ++ encBE 1 reason ++ encBE 2 tag ++ encBE 1 attrs ++ encBE 1 window ++ encBE 2 session ++
    encBE 2 seq ++ encBE 2 data.length ++ zeros 4 ++ data) (n.leadsTo (some [requester]))

/-- The attributes of a window as byte 4 of a response: read side effect, read-only, prefetchable, secure. -/
def Node.winAttrs (n : Node) (w : Nat) : Nat :=
  let cfg := (n.reg (Reg.BRG_WIN_CFG w)).toNat
  bitsOf cfg 2 1 + bitsOf cfg 1 1 * 2 + bitsOf cfg 3 1 * 4 + bitsOf cfg 4 1 * 8

/-- Only the holder answers a request to the pair (R579). -/
def Node.answers (n : Node) (q : OwnReq) : Bool := !q.pair || n.holder

/-- A request joins the queue of those to be performed, or is refused with reason 7 when 256 are held (R577). -/
def Node.ownEnqueue (n : Node) (q : OwnReq) : Node :=
  if n.brg.queue.length < 256 then { n with brg := { n.brg with queue := n.brg.queue ++ [q] } }
  else
    let m := n.inc Reg.BRG_FAR_REFUSED
    let w := byteAt q.payload 4 % 16
    if m.answers q then m.rwinRsp q.requester (byteAt q.payload 0) 7 (beAt q.payload 2 2) (m.winAttrs w) w (beAt q.payload 6 2) q.seq [] else m

/-- What the node keeps of a requester, written; it holds 256 and replaces the one unused longest. -/
def Node.putOwn (n : Node) (x : OwnSession) : Node :=
  let others := n.brg.own.filter fun y => y.requester != x.requester
  let kept := match others with
    | y :: ys => if 255 ≤ ys.length then others.erase (ys.foldl (fun (a z : OwnSession) => if z.used < a.used then z else a) y) else others
    | [] => []
  { n with brg := { n.brg with own := kept ++ [x] } }

/-- The held requests of a requester that follow without a gap are queued. -/
def Node.ownRelease : Nat → Node → OwnSession → Node × OwnSession
  | 0, n, x => (n, x)
  | fuel + 1, n, x =>
    match x.held.find? fun q => q.seq == x.next with
    | some q => Node.ownRelease fuel (n.ownEnqueue q) { x with next := (x.next + 1) % 65536, held := x.held.erase q }
    | none => (n, x)

/-- A request of a sequence (R583): duplicates are discarded as R394 gives; one beyond the next is held. -/
def Node.ownTake (n : Node) (x : OwnSession) (q : OwnReq) : Node :=
  let t : Tracker := ⟨x.high, 0, x.map, 0⟩
  let d := seqDelta q.seq x.high
  let late := x.map % 2 == 1 && decide (-64 < d) && decide (d < 0) && !x.map.testBit (-d).toNat && decide (0 ≤ seqDelta q.seq x.next)
  match t.fate q.seq with
  | .accept =>
    let u := t.take q.seq 0 0
    let x := { x with high := u.high, map := u.map, next := if x.map % 2 = 0 then q.seq else x.next, used := n.tm.raw }
    if q.seq = x.next then
      let (m, y) := Node.ownRelease 65 (n.ownEnqueue q) { x with next := (x.next + 1) % 65536 }
      m.putOwn y
    else n.putOwn { x with held := x.held ++ [q] }
  | _ =>
    if late then
      let x := { x with map := x.map + 2 ^ (-d).toNat, used := n.tm.raw, held := x.held ++ [q] }
      let (m, y) := Node.ownRelease 65 n x
      m.putOwn y
    else n

/-- RWIN_RECEIVED (R577, R583): `addressed` is 1 for a request to this node, 2 for one to its pair, 0 for any other, which
travels on. -/
def execRwinReceived (r : Rx) (addressed : Nat) (s : State) : Host.Outcome State Fault Refusal :=
  .next (s.on fun n => n.receive r 0x8 fun g h pl =>
    let m := if addressed = 1 then g else g.forwardJoined r (g.rxLine r h)
    if addressed = 0 then m
    else
      let q : OwnReq := ⟨beAt pl 16 6, ((m.nodeIn h.epoch h.src).map (·.num)).getD 0, h.seq, addressed == 2, pl, m.tm.raw⟩
      let session := beAt pl 6 2
      if !m.ps2 then
        if m.answers q then m.rwinRsp q.requester (byteAt pl 0) 9 (beAt pl 2 2) 0 (byteAt pl 4 % 16) session h.seq [] else m
      else
        let old := m.brg.own.find? fun x => x.requester == q.requester
        let x := match old with
          | some x => if x.session = session then x else ⟨q.requester, session, 0, 0, 0, [], m.tm.raw⟩
          | none => ⟨q.requester, session, 0, 0, 0, [], m.tm.raw⟩
        m.ownTake x q)

/-- The hold of a requester's requests ends (R583): a loss notice for the missing sequences, and the held ones go on. -/
def Node.ownGap (n : Node) (x : OwnSession) : Node :=
  let first := x.held.foldl (fun a q => if seqDelta q.seq a < 0 then q.seq else a) ((x.held.head?.map (·.seq)).getD x.next)
  let lost := (seqDelta first x.next).toNat
  let m := n.addSat Reg.BRG_FAR_LOST lost
  let m := if (x.held.head?.map fun q => m.answers q).getD true then m.rwinRsp x.requester 6 8 lost 0 0 x.session x.next [] else m
  let (k, y) := Node.ownRelease 65 m { x with next := first }
  k.putOwn y

/-- REORDER_HOLD_EXPIRY (R572, R583): every hold that `BRG_HOLD` has passed since its frame arrived ends. -/
def execReorderHoldExpiry (time : Nat) (s : State) : Host.Outcome State Fault Refusal :=
  .next (s.on fun n =>
    let m := n.at time
    let hold := m.bits Reg.BRG_HOLD 0 10 * 1000
    let k := (m.brg.tunIn.filter fun t => t.held.any fun h => decide (h.since + hold ≤ m.tm.raw)).foldl (fun k t => k.tunGap t) m
    (k.brg.own.filter fun x => x.held.any fun q => decide (q.since + hold ≤ m.tm.raw)).foldl (fun k x => k.ownGap x) k)

/-! ### Window locks at the owner (R592) -/

/-- The lock word of a window and its holder. -/
def Node.winLocked (n : Node) (w : Nat) : Bool := n.bit (Reg.BRG_WIN_LOCK_HI w) 31
def Node.winHolder (n : Node) (w : Nat) : Nat × Nat × Nat :=
  ((n.reg (Reg.BRG_WIN_LOCK_LO w)).toNat + n.bits (Reg.BRG_WIN_LOCK_HI w) 0 16 * 2 ^ 32, n.bits (Reg.BRG_WIN_LOCK_HI w) 16 3,
   n.bits (Reg.BRG_WIN_LOCK_HI w) 24 6)

/-- A window is locked, its lease renewed, and released. -/
def Node.winRenew (n : Node) (w : Nat) : Node :=
  { n with brg := { n.brg with winLease := n.brg.winLease.filter (fun x => x.1 != w) ++ [(w, n.tm.raw)] } }
def Node.winLock (n : Node) (w id ctx sem : Nat) : Node :=
  (n.setRegs (Reg.BRG_WIN_LOCK_LO w) [word id, word (id / 2 ^ 32 % 65536 + ctx % 8 * 65536 + sem % 64 * 2 ^ 24 + 2 ^ 31)]).winRenew w
def Node.winFree (n : Node) (w : Nat) : Node :=
  let m := n.setRegs (Reg.BRG_WIN_LOCK_LO w) [0#32, 0#32, 0#32]
  { m with brg := { m.brg with winLease := m.brg.winLease.filter fun x => x.1 != w } }

/-- WINDOW_LOCK_LEASE_EXPIRY (R592): 10 ms after the last renewal received. -/
def execWindowLockLeaseExpiry (window time : Nat) (s : State) : Host.Outcome State Fault Refusal :=
  .next (s.on fun n =>
    let m := n.at time
    let since := ((m.brg.winLease.find? fun x => x.1 == window).map (·.2)).getD 0
    if window < 16 ∧ m.winLocked window ∧ since + 10000000 ≤ m.tm.raw then m.winFree window else m)

/-- The µs that leases still run, as `BRG_SEM_LEASE` and `BRG_WIN_LEASE` read now (R598). -/
def Node.brgRefresh (n : Node) : Node :=
  let left (since : Nat) : Word := word ((since + 10000000 - n.tm.raw) / 1000)
  let m := (List.range 64).foldl (fun m i => m.setReg (Reg.BRG_SEM_LEASE i)
    (if n.semState i = 2 then left (((n.brg.semSent.find? fun x => x.1 == i).map (·.2)).getD 0) else 0#32)) n
  (List.range 16).foldl (fun m w => m.setReg (Reg.BRG_WIN_LEASE w)
    (if n.winLocked w then left (((n.brg.winLease.find? fun x => x.1 == w).map (·.2)).getD 0) else 0#32)) m

/-! ### Image records (R576, R596) -/

/-- A WINDOW record keeps its ranges and lies within its space (R576). -/
def Node.windowOk (n : Node) (v : List Byte) : Bool :=
  let size := leAt v 4 4
  let base := leAt v 8 8
  let fin := base + size * 1024
  let meets (lo hi : Nat) : Bool := decide (base < hi) && decide (lo < fin)
  decide (byteAt v 0 < 16) && decide (byteAt v 2 ≤ 1) && decide (size % 4 = 0) && decide (4 ≤ size ∧ size ≤ 4194304) &&
  decide (base % 4096 = 0) &&
  if byteAt v 2 = 0 then
    decide (fin ≤ 0x04000000) && !meets 0x00100000 0x00180000 && !meets 0x00300000 0x00400000 && !meets 0x02C00000 0x03000000
  else decide (byteAt v 3 ≤ 4) && decide (fin ≤ (n.reg (Reg.PLC_DRAM_SIZE (byteAt v 3))).toNat * 2 ^ 20)

/-- A window loaded. -/
def Node.windowLoad (n : Node) (v : List Byte) : Node :=
  let f := byteAt v 1
  n.setRegs (Reg.BRG_WIN_CFG (byteAt v 0))
    [word (1 + f % 2 * 2 + f / 2 % 2 * 4 + f / 4 % 2 * 8 + f / 8 % 2 * 16 + byteAt v 2 * 32 + byteAt v 3 % 8 * 256),
     word (leAt v 8 4), word (leAt v 12 4), word (leAt v 4 4)]

/-- BRG_GLOBAL loaded (R596). -/
def Node.brgGlobalLoad (n : Node) (v : List Byte) : Node :=
  ((n.setReg Reg.BRG_RD_TIMEOUT (word (leAt v 0 4))).setReg Reg.BRG_POLL (word (byteAt v 4))).setReg Reg.BRG_HOLD (word (leAt v 6 2))

/-- TUN_TX and TUN_RX records loaded: `i` counts the TUN_RX records (R596, R598). -/
def Node.tunTxLoad (n : Node) (v : List Byte) : Node :=
  n.setReg (Reg.BRG_TUN_CFG (byteAt v 0 % 4)) (word (leAt v 2 2 % 2 ^ 14 + byteAt v 0 % 4 * 2 ^ 14 + 2 ^ 31))
def Node.tunRxLoad (n : Node) (i : Nat) (v : List Byte) : Node :=
  n.setReg (Reg.BRG_TUN_CFG (4 + i)) (word (leAt v 0 2 % 2 ^ 14 + byteAt v 2 % 4 * 2 ^ 14 + byteAt v 3 % 4 * 2 ^ 16 + 2 ^ 31))

/-- The counts of `BRG_CFG` (R598). -/
def Node.syncBrgCfg (n : Node) : Node :=
  let wins := ((List.range 16).filter fun w => n.bit (Reg.BRG_WIN_CFG w) 0).length
  let tuns := ((List.range 20).filter fun t => n.bit (Reg.BRG_TUN_CFG t) 31).length
  n.setReg Reg.BRG_CFG (word (wins + tuns * 256 + n.routes.length * 65536))

end Sys2Proof.Machine
end

