-- ==== Sys2Proof/Machine/Crypto.lean ====
section
/-! DEFINITION. SHA-256 and the verification of an ECDSA signature on curve P-256, as R108 to R110 take them from FIPS 186-4.
The round constants and the curve's numbers are those of that standard. -/

namespace Sys2Proof.Machine

/-! ### SHA-256 -/

/-- The round constants. -/
def shaK : List (BitVec 32) :=
  [0x428A2F98#32, 0x71374491#32, 0xB5C0FBCF#32, 0xE9B5DBA5#32, 0x3956C25B#32, 0x59F111F1#32, 0x923F82A4#32, 0xAB1C5ED5#32] ++
  [0xD807AA98#32, 0x12835B01#32, 0x243185BE#32, 0x550C7DC3#32, 0x72BE5D74#32, 0x80DEB1FE#32, 0x9BDC06A7#32, 0xC19BF174#32] ++
  [0xE49B69C1#32, 0xEFBE4786#32, 0x0FC19DC6#32, 0x240CA1CC#32, 0x2DE92C6F#32, 0x4A7484AA#32, 0x5CB0A9DC#32, 0x76F988DA#32] ++
  [0x983E5152#32, 0xA831C66D#32, 0xB00327C8#32, 0xBF597FC7#32, 0xC6E00BF3#32, 0xD5A79147#32, 0x06CA6351#32, 0x14292967#32] ++
  [0x27B70A85#32, 0x2E1B2138#32, 0x4D2C6DFC#32, 0x53380D13#32, 0x650A7354#32, 0x766A0ABB#32, 0x81C2C92E#32, 0x92722C85#32] ++
  [0xA2BFE8A1#32, 0xA81A664B#32, 0xC24B8B70#32, 0xC76C51A3#32, 0xD192E819#32, 0xD6990624#32, 0xF40E3585#32, 0x106AA070#32] ++
  [0x19A4C116#32, 0x1E376C08#32, 0x2748774C#32, 0x34B0BCB5#32, 0x391C0CB3#32, 0x4ED8AA4A#32, 0x5B9CCA4F#32, 0x682E6FF3#32] ++
  [0x748F82EE#32, 0x78A5636F#32, 0x84C87814#32, 0x8CC70208#32, 0x90BEFFFA#32, 0xA4506CEB#32, 0xBEF9A3F7#32, 0xC67178F2#32]

/-- The initial hash value. -/
def shaInit : List (BitVec 32) := [0x6A09E667#32, 0xBB67AE85#32, 0x3C6EF372#32, 0xA54FF53A#32, 0x510E527F#32, 0x9B05688C#32, 0x1F83D9AB#32, 0x5BE0CD19#32]

/-- A 32-bit word rotated right. -/
def rotr (w : BitVec 32) (k : Nat) : BitVec 32 := (w >>> k) ||| (w <<< (32 - k))

/-- The message schedule: the last 16 words, newest first, grown by `k` words. -/
def shaSched : Nat → List (BitVec 32) → List (BitVec 32)
  | 0, w => w
  | k + 1, w =>
    let a := w.getD 14 0#32
    let b := w.getD 1 0#32
    let s0 := rotr a 7 ^^^ rotr a 18 ^^^ (a >>> 3)
    let s1 := rotr b 17 ^^^ rotr b 19 ^^^ (b >>> 10)
    shaSched k ((w.getD 15 0#32 + s0 + w.getD 6 0#32 + s1) :: w)

/-- One round over the eight working words, with the sum of the round constant and the schedule word. -/
def shaRound (v : List (BitVec 32)) (kw : BitVec 32) : List (BitVec 32) :=
  let g (i : Nat) : BitVec 32 := v.getD i 0#32
  let s1 := rotr (g 4) 6 ^^^ rotr (g 4) 11 ^^^ rotr (g 4) 25
  let ch := (g 4 &&& g 5) ^^^ (~~~(g 4) &&& g 6)
  let t1 := g 7 + s1 + ch + kw
  let s0 := rotr (g 0) 2 ^^^ rotr (g 0) 13 ^^^ rotr (g 0) 22
  let maj := (g 0 &&& g 1) ^^^ (g 0 &&& g 2) ^^^ (g 1 &&& g 2)
  [t1 + s0 + maj, g 0, g 1, g 2, g 3 + t1, g 4, g 5, g 6]

/-- One block of 64 bytes. -/
def shaBlock (h : List (BitVec 32)) (block : List Byte) : List (BitVec 32) :=
  let first := (List.range 16).map fun i => BitVec.ofNat 32 (beAt block (4 * i) 4)
  let sched := (shaSched 48 first.reverse).reverse
  let v := (List.zipWith (· + ·) shaK sched).foldl shaRound h
  List.zipWith (· + ·) h v

/-- `k` blocks read through `rd`, which gives 64 bytes at an offset. -/
def shaBlocks (rd : Nat → Nat → List Byte) : Nat → Nat → List (BitVec 32) → List (BitVec 32)
  | 0, _, h => h
  | k + 1, off, h => shaBlocks rd k (off + 64) (shaBlock h (rd off 64))

/-- SHA-256 of the `len` bytes that `rd` reads from offset 0, as a number. -/
def sha256 (rd : Nat → Nat → List Byte) (len : Nat) : Nat :=
  let whole := len / 64
  let rest := rd (whole * 64) (len % 64)
  let tail := rest ++ [0x80#8] ++ zeros ((119 - len % 64) % 64) ++ encBE 8 (len * 8)
  let h := shaBlocks rd whole 0 shaInit
  let h := shaBlocks (fun off n => slice tail off n) (tail.length / 64) 0 h
  h.foldl (fun a w => a * 2 ^ 32 + w.toNat) 0

/-! ### Curve P-256 -/

/-- The field prime, the order of the base point, the curve's coefficient b and the base point. -/
def p256 : Nat := 2 ^ 256 - 2 ^ 224 + 2 ^ 192 + 2 ^ 96 - 1
def n256 : Nat := 0xFFFFFFFF00000000FFFFFFFFFFFFFFFFBCE6FAADA7179E84F3B9CAC2FC632551
def b256 : Nat := 0x5AC635D8AA3A93E7B3EBBD55769886BC651D06B0CC53B0F63BCE3C3E27D2604B
def gx256 : Nat := 0x6B17D1F2E12C4247F8BCE6E563A440F277037D812DEB33A0F4A13945D898C296
def gy256 : Nat := 0x4FE342E2FE1A7F9B8EE7EB4A7C0F9E162BCE33576B315ECECBB6406837BF51F5

/-- `b ^ e mod m` over the low `k` bits of the exponent. -/
def powMod (m : Nat) : Nat → Nat → Nat → Nat
  | 0, _, _ => 1
  | k + 1, b, e =>
    let r := powMod m k (b * b % m) (e / 2)
    if e % 2 = 1 then r * b % m else r

/-- The inverse modulo a prime. -/
def invMod (m a : Nat) : Nat := powMod m 256 (a % m) (m - 2)

/-- The sum of two points; none is the point at infinity. -/
def addPt (a b : Option (Nat × Nat)) : Option (Nat × Nat) :=
  match a, b with
  | none, q => q
  | q, none => q
  | some (x1, y1), some (x2, y2) =>
    if x1 = x2 ∧ (y1 + y2) % p256 = 0 then none
    else
      let l := if x1 = x2 then (3 * x1 * x1 + (p256 - 3)) * invMod p256 (2 * y1) % p256
        else (y2 + p256 - y1) * invMod p256 (x2 + p256 - x1) % p256
      let x3 := (l * l + (p256 - x1) + (p256 - x2)) % p256
      some (x3, (l * (x1 + p256 - x3) + (p256 - y1)) % p256)

/-- A multiple of a point, over the low `k` bits of the factor. -/
def mulPt : Nat → Nat → Option (Nat × Nat) → Option (Nat × Nat)
  | 0, _, _ => none
  | k + 1, e, q =>
    let r := mulPt k (e / 2) (addPt q q)
    if e % 2 = 1 then addPt r q else r

/-- A signature (r, s) over a hash verifies with the public key (x, y) (R109). -/
def ecdsaOk (hash x y r s : Nat) : Bool :=
  decide (0 < r) && decide (r < n256) && decide (0 < s) && decide (s < n256) && decide (x < p256) && decide (y < p256) &&
  decide (y * y % p256 = (x * x * x + (p256 - 3) * x + b256) % p256) &&
  (let w := invMod n256 s
   match addPt (mulPt 256 (hash * w % n256) (some (gx256, gy256))) (mulPt 256 (r * w % n256) (some (x, y))) with
   | some q => q.1 % n256 == r
   | none => false)

end Sys2Proof.Machine
end

