-- ==== Sys2Proof/Machine/Faults.lean ====
section
/-! DEFINITION. The event router and the fault log (R672 to R676), memory errors (R72 to R74, R727, R728) and engine faults
(R67 to R69). -/

namespace Sys2Proof.Machine

/-! ### The event router (R672 to R676) -/

/-- The severity and the block of an event code (R11). -/
def evSev (code : Nat) : Nat := bitsOf code 8 2
def evBlock (code : Nat) : Nat := code / 2048

/-- A context receives an event (R673): it subscribes to the block and the severity, and an open context to none of IMG,
WLD, PCR and TST. -/
def Node.subscribed (n : Node) (c code : Nat) : Bool :=
  n.ctxPresent c && !n.ctxResetting c && n.bit (Reg.EVT_SUB_BLK c) (evBlock code) &&
  decide (n.bits (Reg.EVT_SUB_SEV c) 0 2 ≤ evSev code) &&
  (n.ctxSecure c || !([2, 15, 16, 17].contains (evBlock code)))

/-- The four words of a fault record (R670). -/
def recordWords (e : Event) : List Word := [word (e.code + e.node * 65536), e.stamp, e.d0, e.d1]

/-- A record is written to the fault log at `HEAD` (R674). -/
def Node.logRecord (n : Node) (e : Event) : Node :=
  let head := n.bits Reg.EVT_STAT 0 10
  let full := n.bit Reg.EVT_STAT 10 || decide (1024 ≤ (n.reg Reg.EVT_LOG_TOTAL).toNat)
  let m := (n.setRegs (Reg.EVT_LOG head) (recordWords e)).injSram 7 (head * 2) 2
  let m := m.setBits Reg.EVT_STAT 0 10 ((head + 1) % 1024)
  let m := if full then (m.inc Reg.EVT_LOG_WRAP).setBit Reg.EVT_STAT 10 true else m
  m.setReg Reg.EVT_LOG_TOTAL (m.reg Reg.EVT_LOG_TOTAL + 1#32)

/-- The router handles one event (R672): counted, logged, latched as the first fatal one, and given to the contexts that
subscribe. -/
def Node.routeOne (n : Node) (e : Event) : Node :=
  let sev := evSev e.code
  let m := n.inc (Reg.EVT_CNT_SEV sev)
  let m := if n.bits Reg.EVT_CFG 0 2 ≤ sev then m.logRecord e else m
  let m := if sev = 3 ∧ !m.bit Reg.EVT_STAT 11 then
      (m.setBit Reg.EVT_STAT 11 true).setRegs Reg.EVT_FATAL_W0 (recordWords e)
    else m
  ((List.range 8).filter fun c => m.subscribed c e.code).foldl (fun k c => k.evqPut c e) m

/-- The event to handle next: of those raised together, the one with the lowest code (R672). -/
def nextEvent : List Event → Option Event
  | [] => none
  | e :: es => some ((es.takeWhile fun x => x.stamp == e.stamp).foldl (fun a x => if x.code < a.code then x else a) e)

/-- The router handles the next event of its queue, if any. -/
def Node.routeNext (n : Node) : Node :=
  match nextEvent n.ev.queue with
  | some e => { n with ev := { n.ev with queue := n.ev.queue.erase e } }.routeOne e
  | none => n

/-- The router handles every event in its queue (R786). -/
def Node.routeAll (n : Node) : Node := (List.range n.ev.queue.length).foldl (fun m _ => m.routeNext) n

/-- EVENT_ROUTE (R672, R676). -/
def execEventRoute (time : Nat) (s : State) : Host.Outcome State Fault Refusal :=
  .next (s.on fun n => (n.at time).routeNext)

/-- Word 0 of a record is read, and the record's other words are latched for the context (R674). -/
def Node.logRead (n : Node) (ctx index : Nat) : Node :=
  let a := Reg.EVT_LOG index
  let m := [4, 8, 12].foldl (fun m o => m.latch ctx (a + o) (n.reg (a + o))) n
  m.answer (n.reg a)

/-- FAULT_LOG_WORD0_READ (R674). -/
def execFaultLogWord0Read (ctx index : Nat) (s : State) : Host.Outcome State Fault Refusal :=
  .next (s.on fun n => n.access ctx (Reg.EVT_LOG index) false fun m => m.logRead ctx index)

/-- The log is cleared (R675). -/
def Node.clearLog (n : Node) : Node :=
  let m := (n.clearRegs 0x00190000 0x00194000).setReg Reg.EVT_LOG_TOTAL 0#32
  m.setBits Reg.EVT_STAT 0 11 0

/-- The first-fatal latch is emptied (R675). -/
def Node.clearFatal (n : Node) : Node :=
  (n.setBit Reg.EVT_STAT 11 false).setRegs Reg.EVT_FATAL_W0 [0#32, 0#32, 0#32, 0#32]

/-- A write of `EVT_CLEAR` (R675, R677). -/
def Node.evtClear (n : Node) (v : Word) : Node :=
  let m := if v.toNat.testBit 0 then n.clearLog else n
  if v.toNat.testBit 1 then m.clearFatal else m

/-- EVT_CLEAR_LOG: a write of `EVT_CLEAR` with bit 0 alone (R675). -/
def execEvtClearLog (ctx : Nat) (s : State) : Host.Outcome State Fault Refusal :=
  .next (s.on fun n => n.access ctx Reg.EVT_CLEAR true fun m => m.evtClear 1#32)

/-- EVT_CLEAR_FATAL: a write of `EVT_CLEAR` with bit 1 alone (R677). -/
def execEvtClearFatal (ctx : Nat) (s : State) : Host.Outcome State Fault Refusal :=
  .next (s.on fun n => n.access ctx Reg.EVT_CLEAR true fun m => m.evtClear 2#32)

/-! ### Engines (R67 to R69) -/

/-- An engine fails (R67): it is held in reset, and the outcome depends on the engine (R68, R416, R519). A stopped engine can
fail by an error in its SRAM alone. -/
def Node.engineFault (n : Node) (e cause : Nat) : Node :=
  if 16 ≤ e ∨ n.boot.engDown.contains e ∨ (!n.bit Reg.TOP_ENG_RUN e ∧ cause ≠ 2) then n
  else
    let m := (n.setBit Reg.TOP_ENG_FAULT e true).setBit Reg.TOP_ENG_RUN e false
    let m := { m with boot := { m.boot with engDown := m.boot.engDown ++ [e] } }
    let m := (m.raise 0x0B04 e cause).pairFault
    if e = 1 then
      let zones := m.aud.reqs.flatMap fun q => q.plays.map (·.zone)
      { m with aud := { m.aud with reqs := [], issued := [], outbox := [] } }.arbitrateAll zones
    else if e = 10 ∨ e = 11 ∨ e = 14 ∨ e = 15 then m.enterMute
    else m

/-- ENGINE_FAULT (R67): `cause` 1 watchdog, 2 uncorrectable SRAM error, 3 trap, 4 assertion. -/
def execEngineFault (engine cause time : Nat) (s : State) : Host.Outcome State Fault Refusal :=
  .next (s.on fun n => (n.at time).engineFault engine cause)

/-- ENGINE_FAULT_CLEAR (R69): the record is cleared; the engine stays stopped until a reset. -/
def execEngineFaultClear (ctx : Nat) (v : Word) (s : State) : Host.Outcome State Fault Refusal :=
  .next (s.on fun n => n.access ctx Reg.TOP_ENG_FAULT true fun m => m.plainWrite Reg.TOP_ENG_FAULT v 0#32)

/-! ### Memory errors (R72, R73, R727) -/

/-- A journal entry is found corrupt (R657): counted, marked, sealed again and reported. -/
def Node.jrnMarkCorrupt (n : Node) (i : Nat) : Node :=
  let m := (n.setBit (Reg.JRN_ENTRY i + 12) 17 true).inc Reg.JRN_CORRUPT
  let ctx := (n.jrnWord i 1).toNat / 2 ^ 16 % 8
  (m.jrnSeal i).raise 0x7204 i ctx

/-- The frame buffer (R54, R70): one stored copy of each frame that a port sends or that waits for one. -/
def Node.buffered (n : Node) : List Frame :=
  (((List.range 13).filterMap fun p => (n.sending p).map fun x => x.frame) ++ n.net.queue.map (fun q => q.frame) ++
    n.net.transit.map fun t => t.frame).eraseDups

/-- A frame of the frame buffer takes an uncorrectable error (R73): stomped on every port that sends it, and discarded where it
waits. -/
def Node.bufferHit (n : Node) (f : Frame) : Node :=
  let m := (List.range 13).foldl (fun m p =>
    if (m.sending p).any fun x => x.frame == f then (m.cutSending p).stompFirst p f 4 else m) n
  { m with net := { m.net with queue := m.net.queue.filter fun q => q.frame != f,
                               transit := m.net.transit.filter fun t => t.frame != f } }

/-- An uncorrectable error in the frame buffer hits a free choice of its frames, or a cell that holds none: the manual does not
say which frame a location holds (DESIGN CHOICE, log entry 121). -/
def Node.bufferEcc (n : Node) : Node :=
  let (m, w) := n.free
  match m.buffered[w.toNat % (m.buffered.length + 1)]? with
  | some f => m.bufferHit f
  | none => m

/-- The entry of a table memory that a word lies in, by the entries' sizes (R70): the stream table, the trackers, the filter
rules and the routes. -/
def tableEntry (mem w : Nat) : Nat := if mem = 3 then w / 2 else if mem = 5 then w else w / 4

/-- An error in on-chip SRAM at a location in the format of `TOP_ECC_LAST` (R72, R73): a corrected word is counted; an
uncorrectable one is recorded and acted on by memory. A word that an injection has altered holds the error that it made; a
correction writes the word back, which an injection may alter again (R695). -/
def Node.sramEcc (n : Node) (place : Nat) (uncorrectable : Bool) : Node :=
  if !((n.spoiltAt (place / 2 ^ 24) (place % 2 ^ 24)).getD uncorrectable) then
    ((n.injSram (place / 2 ^ 24) (place % 2 ^ 24) 1).add64 Reg.TOP_ECC_CORR_LO 1).raiseCounted 0x0801 0 n.tc place
  else
    let m := ((n.setReg Reg.TOP_ECC_LAST (word place)).inc Reg.TOP_ECC_UNCORR).raise 0x0A02 place 0
    let mem := place / 2 ^ 24 % 256
    let w := place % 2 ^ 24
    if 0x10 ≤ mem ∧ mem < 0x20 then m.engineFault (mem - 0x10) 2
    else if mem = 1 then m.bufferEcc
    else if 2 ≤ mem ∧ mem ≤ 5 then { m with mem := { m.mem with absent := (m.mem.absent ++ [(mem, tableEntry mem w)]).eraseDups } }
    else if mem = 6 then if w / 8 < 8192 then m.jrnMarkCorrupt (w / 8) else m
    else if mem = 7 then
      let i := w / 2 % 1024
      [0, 4, 8, 12].foldl (fun k o => (k.free.1).setReg (Reg.EVT_LOG i + o) k.free.2) m
    else m

/-- An error in DRAM at an address (R727); in a unit that an injection has altered it is the error that it made. -/
def Node.dramEcc (n : Node) (addr : Nat) (uncorrectable : Bool) : Node :=
  if (n.spoiltAt 0 (addr / 64)).getD uncorrectable then
    let r := ((List.range 5).find? fun r => decide ((n.region r).1 ≤ addr) && decide (addr < (n.region r).1 + (n.region r).2)).getD 4
    ((n.inc Reg.MEM_ECC_UNCORR).setReg Reg.MEM_ECC_LAST (word (addr / 64 % 2 ^ 27))).raise 0x9202 (addr / 64 % 2 ^ 27) r
  else
    let m := n.add64 Reg.MEM_ECC_CORR_LO 1
    match m.occurIn 0x9001 0 1000000000 with
    | (k, some c) => k.raise 0x9001 (addr / 64) c
    | (k, none) => k

/-- A memory error of either kind. -/
def Node.ecc (n : Node) (e : EccFact) : Node :=
  if e.dram then n.dramEcc e.place e.uncorrectable else n.sramEcc e.place e.uncorrectable

/-- SRAM_SCRUB (R74): what the scrubber finds in on-chip SRAM is treated as R72 and R73 give. -/
def execSramScrub (ecc : EccFact) (time : Nat) (s : State) : Host.Outcome State Fault Refusal :=
  .next (s.on fun n => (n.at time).sramEcc ecc.place ecc.uncorrectable)

/-- DRAM_SCRUB (R728): with `MEM_SCRUB.EN` = 1, what the patrol finds in DRAM is treated as R727 gives; no reader acts. At the end
of the installed DRAM a pass is complete (R734). -/
def execDramScrub (addr : Nat) (uncorrectable : Bool) (time : Nat) (s : State) : Host.Outcome State Fault Refusal :=
  .next (s.on fun n =>
    let m := n.at time
    if !m.bit Reg.MEM_SCRUB 0 then m
    else if m.bits Reg.MEM_SIZE 0 16 * 2 ^ 20 ≤ addr then
      m.setBits Reg.MEM_SCRUB 16 16 (min (m.bits Reg.MEM_SCRUB 16 16 + 1) 65535)
    else m.dramEcc addr uncorrectable)

end Sys2Proof.Machine
end

