-- ==== Sys2Proof/Machine/Check.lean ====
section
/-! DEFINITION. The check engine's software contexts (R604 to R615): `GO`, `STOP`, the running value, DMA jobs and snooped
blocks. -/

namespace Sys2Proof.Machine

/-! ### The world of memory (R647, R648) -/

/-- The memory region of the world map that holds a DRAM address. -/
def Node.wldRegion (n : Node) (addr : Nat) : Option Nat :=
  (List.range (n.bits Reg.WLD_CFG 0 9)).find? fun g =>
    let base := (n.reg (Reg.WLD_RGN_BASE_LO g)).toNat + (n.reg (Reg.WLD_RGN_BASE_HI g)).toNat * 2 ^ 32
    n.bit (Reg.WLD_RGN_CFG g) 31 && n.bits (Reg.WLD_RGN_CFG g) 0 8 == 0 && decide (base ≤ addr) &&
    decide (addr < base + (n.reg (Reg.WLD_RGN_SIZE g)).toNat * 1024)

/-- A DRAM address is secure: by its region, else region 0 of R378 is and the rest is not. -/
def Node.dramSecure (n : Node) (addr : Nat) : Bool :=
  match n.wldRegion addr with
  | some g => n.bit (Reg.WLD_RGN_CFG g) 8
  | none => decide (addr < (n.region 0).2)

/-- The first secure address of a range of DRAM, in the 4 KiB units in which worlds are given. -/
def Node.firstSecure (n : Node) (addr len : Nat) : Option Nat :=
  if len = 0 then none
  else ((List.range ((addr + len - 1) / 4096 - addr / 4096 + 1)).map fun i => max addr ((addr / 4096 + i) * 4096)).find?
    n.dramSecure

/-- A refused access to memory (R650): the region is logged; outside every region its index is free. -/
def Node.refuseMem (n : Node) (req : Nat) (write : Bool) (addr : Nat) : Node :=
  match n.wldRegion addr with
  | some g => n.refuse req write 1 1 (addr % 2 ^ 32) g
  | none => n.free.1.refuse req write 1 1 (addr % 2 ^ 32) (n.free.2.toNat % 65536)

/-! ### Jobs (R605 to R608, R612) -/

/-- The operands of a context's job. -/
def Node.chkSrc (n : Node) (c : Nat) : Nat := (n.reg (Reg.CHK_CTX_SRC_LO c)).toNat + (n.reg (Reg.CHK_CTX_SRC_HI c)).toNat * 2 ^ 32
def Node.chkDst (n : Node) (c : Nat) : Nat := (n.reg (Reg.CHK_CTX_DST_LO c)).toNat + (n.reg (Reg.CHK_CTX_DST_HI c)).toNat * 2 ^ 32
def Node.chkLen (n : Node) (c : Nat) : Nat := n.bits (Reg.CHK_CTX_LEN c) 0 28
def Node.chkAlg (n : Node) (c : Nat) : Nat := n.chkCfg c Fld.CHK_CTX_CFG_ALG
def Node.chkOp (n : Node) (c : Nat) : Nat := n.chkCfg c Fld.CHK_CTX_CFG_OP

/-- The bytes that a block feeds before its data (R603, R607). -/
def Node.chkFold (n : Node) (c stream seq : Nat) : List Byte :=
  let f1 := (n.reg (Reg.CHK_CTX_FOLD1 c)).toNat
  let sel (f : Field) (bs : List Byte) : List Byte := if n.chkCfg c f = 1 then bs else []
  if n.chkCfg c Fld.CHK_CTX_CFG_CHAIN = 1 then []
  else if n.chkAlg c = 4 then encBE 2 (stream % 2 ^ 14 * 4) ++ encBE 2 seq ++ encBE 2 (f1 % 65536)
  else sel Fld.CHK_CTX_CFG_FOLD_SID (encBE 2 stream) ++ sel Fld.CHK_CTX_CFG_FOLD_SEQ (encBE 2 seq) ++
    sel Fld.CHK_CTX_CFG_FOLD_ADDR (encBE 4 f1)

/-- The running value at the start of a block (R605). -/
def Node.chkStart (n : Node) (c : Nat) : Nat :=
  if n.chkCfg c Fld.CHK_CTX_CFG_CHAIN = 1 then (n.reg (Reg.CHK_CTX_RUN c)).toNat else crcSeed (n.chkAlg c)

/-- The least significant byte lies first in a check value (R609); algorithm 4 is always most significant first (R603). -/
def Node.chkLsb (n : Node) (c : Nat) : Bool := n.chkCfg c Fld.CHK_CTX_CFG_ORDER == 1 && n.chkAlg c != 4

/-- Where the output of a job goes: append, check and strip write it. -/
def Node.chkOut (n : Node) (c : Nat) : Nat :=
  let w := crcBytes (n.chkAlg c)
  if n.chkOp c = 1 then n.chkLen c + w else if n.chkOp c = 3 then n.chkLen c - w else 0

/-- The status of a context: `BUSY`, `DONE`, `RESULT` and `ERR`, the rest kept. -/
def Node.chkEnd (n : Node) (c result err : Nat) : Node :=
  let m := n.setBits (Reg.CHK_CTX_STAT c) 0 8 (2 + result * 4 + err * 16)
  let m := (m.putChk c ⟨none, [], false⟩).syncChk
  if err = 0 then m else m.raise 0x6902 (c + err * 256) (m.chkLen c)

/-- Why a `GO` ends at once: 4 an invalid configuration, 2 an address out of range, 6 a length below the check's, 7 no snoop
unit free. -/
def Node.chkBad (n : Node) (c : Nat) : Option Nat :=
  let alg := n.chkAlg c
  let op := n.chkOp c
  let feed := n.chkCfg c Fld.CHK_CTX_CFG_FEED
  let src := n.chkSrc c
  let dst := n.chkDst c
  let len := n.chkLen c
  let out := n.chkOut c
  let size := n.bits Reg.MEM_SIZE 16 16 * 2 ^ 20
  let use := ((List.range 28).filter fun x => n.chkBusy x && n.chkCfg x Fld.CHK_CTX_CFG_FEED == 4).length
  if 5 ≤ alg ∨ 5 ≤ feed then some 4
  else if feed = 0 then
    if len = 0 then some 4
    else if (op = 2 ∨ op = 3) ∧ len < crcBytes alg then some 6
    else if size < src + len ∨ (0 < out ∧ size < dst + out) then some 2
    else if 0 < out ∧ src ≠ dst ∧ src < dst + out ∧ dst < src + len then some 4
    else none
  else if feed = 4 then
    if op = 1 ∨ op = 3 ∨ 1467 < n.bits (Reg.CHK_CTX_SNOOP c) 14 11 then some 4
    else if 4 ≤ use then some 7 else none
  else if op ≠ 0 ∨ !n.instSecure (37 + c) then some 4
  else none

/-- A write of `GO` (R606, R612, R613, R618). -/
def Node.chkGo (n : Node) (ctx c : Nat) : Node :=
  if n.chkBusy c then n.setBit (Reg.CHK_CTX_STAT c) 8 true
  else
    let m := n.setReg (Reg.CHK_CTX_STAT c) 0#32
    match m.chkBad c with
    | some e => m.chkEnd c 0 e
    | none =>
      let m := m.setBit (Reg.CHK_CTX_STAT c) 0 true
      let start := m.chkStart c
      if m.chkCfg c Fld.CHK_CTX_CFG_FEED = 0 then
        let f := (m.reg (Reg.CHK_CTX_FOLD0 c)).toNat
        let run := crcFeed (m.chkAlg c) start (m.chkFold c (f % 65536) (f / 65536))
        ((m.putChk c ⟨some ⟨ctx, run, 0⟩, [], false⟩).setReg (Reg.CHK_CTX_RUN c) (word start)).syncChk
      else (m.putChk c ⟨none, [], false⟩).syncChk

/-- A write of `STOP` (R613): a snoop ends at the end of the block in progress. -/
def Node.chkStop (n : Node) (c : Nat) : Node :=
  if !n.chkBusy c ∨ n.chkCfg c Fld.CHK_CTX_CFG_FEED = 0 then n
  else
    match (n.chkCtx c).blocks with
    | [] => n.chkEnd c (n.chkStat c Fld.CHK_CTX_STAT_RESULT) 0
    | b :: _ => n.putChk c { n.chkCtx c with blocks := [b], stop := true }

/-- A write of `CHK_CTX_CTRL`: both bits may be set; a `GO` comes first. -/
def Node.chkCtrl (n : Node) (ctx c : Nat) (v : Word) : Node :=
  let m := if v.toNat.testBit 0 then n.chkGo ctx c else n
  if v.toNat.testBit 1 then m.chkStop c else m

/-- A write to a register of a context (R606): dropped while the context is busy; contexts 28 to 31 take none (R604). -/
def Node.chkWrite (n : Node) (addr c : Nat) (v : Word) : Node :=
  if 28 ≤ c then n
  else if n.chkBusy c then n.setBit (Reg.CHK_CTX_STAT c) 8 true
  else n.plainWrite addr v 0#32

/-- CHK_GO_WRITE: a write of `CHK_CTX_CTRL` with `GO` (R612, R613). Contexts 28 to 31 cannot be written (R604). -/
def execChkGoWrite (ctx c : Nat) (v : Word) (s : State) : Host.Outcome State Fault Refusal :=
  .next (s.on fun n => n.access ctx (Reg.CHK_CTX_CTRL c) true fun m => if c < 28 then m.chkCtrl ctx c v else m)

/-- CHK_STOP_WRITE: a write of `CHK_CTX_CTRL` with `STOP` (R613). -/
def execChkStopWrite (ctx c : Nat) (v : Word) (s : State) : Host.Outcome State Fault Refusal :=
  .next (s.on fun n => n.access ctx (Reg.CHK_CTX_CTRL c) true fun m => if c < 28 then m.chkCtrl ctx c v else m)

/-- CHK_RUN_WRITE (R605, R606). -/
def execChkRunWrite (ctx c : Nat) (v : Word) (s : State) : Host.Outcome State Fault Refusal :=
  .next (s.on fun n => n.access ctx (Reg.CHK_CTX_RUN c) true fun m => m.chkWrite (Reg.CHK_CTX_RUN c) c v)

/-- The running value as a read shows it (R605): while a DMA job runs, the value after the last complete 4 KiB chunk, which
is a free number of chunks at or beyond those that an earlier read showed. -/
def Node.chkRunRead (n : Node) (c : Nat) : Node :=
  match (n.chkCtx c).job with
  | none => n
  | some j =>
    let total := n.chkLen c / 4096
    let (m, w) := n.free
    let k := j.chunks + w.toNat % (total + 1 - min j.chunks total)
    let m := m.putChk c { m.chkCtx c with job := some { j with chunks := k } }
    if k = 0 then m
    else m.setReg (Reg.CHK_CTX_RUN c) (word (crcFeed (m.chkAlg c) j.start (m.dramRead (m.chkSrc c) (k * 4096))))

/-! ### The end of a job or block (R608 to R615) -/

/-- The operation on a block's data from a running value (R608 to R610): the result registers, and `RESULT`. -/
def Node.chkApply (n : Node) (c start stream : Nat) (data : List Byte) : Node × Nat :=
  let alg := n.chkAlg c
  let op := n.chkOp c
  let w := crcBytes alg
  let body := if op = 2 ∨ op = 3 then data.take (data.length - w) else data
  let run := crcFeed alg start body
  let hit := n.injMatch 7 c
  let result := Nat.xor (crcResult alg run) (if hit then (n.reg Reg.TST_INJ_MASK).toNat % 2 ^ (8 * w) else 0)
  let n := if hit then n.injUse else n
  let m := (n.setReg (Reg.CHK_CTX_RUN c) (word run)).setReg (Reg.CHK_CTX_RESULT c) (word result)
  if op = 2 ∨ op = 3 then
    let tail := data.drop (data.length - w)
    let found := beNat (if m.chkLsb c then tail.reverse else tail)
    let m := m.setReg (Reg.CHK_CTX_EXPECT c) (word found)
    if found = result then (m, 1)
    else (m.checkMismatch (if m.chkCfg c Fld.CHK_CTX_CFG_FEED = 4 then 4 else 0) stream 0 c, 2)
  else (m, 0)

/-- What a job writes to its destination: the data, and with append the check value. -/
def Node.chkOutput (n : Node) (c : Nat) (data : List Byte) : List Byte :=
  let w := crcBytes (n.chkAlg c)
  if n.chkOp c = 1 then
    data ++ (if n.chkLsb c then encLE w (n.reg (Reg.CHK_CTX_RESULT c)).toNat else encBE w (n.reg (Reg.CHK_CTX_RESULT c)).toNat)
  else if n.chkOp c = 3 then data.take (data.length - w) else []

/-- Bytes written by the check engine. -/
def Node.chkStore (n : Node) (addr : Nat) (bs : List Byte) : Node :=
  if bs.isEmpty then n else (n.dramWrite addr bs).libTouched addr bs.length

/-- A DMA job ends (R612). A refused access or an uncorrectable error ends it after the 4 KiB chunks before it. -/
def Node.chkJobEnd (n : Node) (c : Nat) (j : ChkJob) (ecc : Option EccFact) : Node :=
  let src := n.chkSrc c
  let dst := n.chkDst c
  let len := n.chkLen c
  let out := n.chkOut c
  let secure := n.instSecure (37 + c)
  let m := match ecc with
    | some e => n.ecc e
    | none => n
  let stop (k : Node) (err off : Nat) : Node :=
    let part := k.dramRead src (off / 4096 * 4096)
    let k := k.setReg (Reg.CHK_CTX_RUN c) (word (crcFeed (k.chkAlg c) j.start part))
    let k := if 0 < out then k.chkStore dst (part.take out) else k
    k.chkEnd c 0 err
  let bad := match ecc with
    | some e => e.uncorrectable
    | none => false
  if bad then
    let off := match ecc with
      | some e => if e.dram then min (e.place - src) len else 0
      | none => 0
    stop m 5 off
  else
    match if secure then none else m.firstSecure src len with
    | some a => stop (m.refuseMem j.req false a) 1 (a - src)
    | none =>
      match if secure then none else m.firstSecure dst out with
      | some a => stop (m.refuseMem j.req true a) 1 (a - dst)
      | none =>
        let data := m.dramRead src len
        let (k, result) := m.chkApply c j.start 0 data
        (k.chkStore dst (k.chkOutput c data)).chkEnd c result 0

/-- A snooped block ends (R613, R615): an empty one, or one shorter than the check value, is counted and leaves `RESULT`;
an uncorrectable error discards it. -/
def Node.chkBlockEnd (n : Node) (c : Nat) (b : ChkBlock) (ecc : Option EccFact) : Node :=
  let m := n.putChk c { n.chkCtx c with blocks := (n.chkCtx c).blocks.drop 1 }
  let m := match ecc with
    | some e => m.ecc e
    | none => m
  let bad := match ecc with
    | some e => e.uncorrectable
    | none => false
  let f := (m.reg (Reg.CHK_CTX_FOLD0 c)).toNat
  let least := if m.chkOp c = 2 then crcBytes (m.chkAlg c) else 0
  let count (k : Node) : Node :=
    k.setBits (Reg.CHK_CTX_STAT c) 16 16 (min (k.bits (Reg.CHK_CTX_STAT c) 16 16 + 1) 65535)
  let m := if bad then m
    else if b.data.isEmpty ∨ b.data.length < least then count m
    else
      let stream := if b.feed = 4 then b.stream else f % 65536
      let seq := if b.feed = 4 then b.seq else f / 65536
      let start := crcFeed (m.chkAlg c) (m.chkStart c) (m.chkFold c stream seq)
      let (k, result) := m.chkApply c start b.stream b.data
      count (k.setFld (Reg.CHK_CTX_STAT c) Fld.CHK_CTX_STAT_RESULT result)
  if (m.chkCtx c).stop then m.chkEnd c (m.chkStat c Fld.CHK_CTX_STAT_RESULT) 0 else m

/-- CHECK_JOB_DONE (R608): the job of a context ends, or its oldest snooped block. -/
def execCheckJobDone (c : Nat) (ecc : Option EccFact) (time : Nat) (s : State) : Host.Outcome State Fault Refusal :=
  .next (s.on fun n =>
    let m := n.at time
    if 28 ≤ c ∨ !m.chkBusy c then m
    else match (m.chkCtx c).job, (m.chkCtx c).blocks with
      | some j, _ => m.chkJobEnd c j ecc
      | none, b :: _ => m.chkBlockEnd c b ecc
      | none, [] => m)

end Sys2Proof.Machine
end

