-- ==== Sys2Proof/Machine/Test.lean ====
section
/-! DEFINITION. Test and loopback (chapter 17): loops and ECHO mode, PRBS, BIST requests, fault injection, boundary scan. -/

namespace Sys2Proof.Machine

/-- The instance of the TST block (R646, R698). -/
def instTst : Nat := 94

/-! ### Loops (R679 to R688) -/

/-- The loop of a target, if any. -/
def Node.loopAt (n : Node) (t : Nat) : Option TstLoop := n.tst.loops.find? fun l => l.target == t

/-- The loops with that of a target replaced or removed. -/
def Node.putLoop (n : Node) (t : Nat) (l : Option TstLoop) : Node :=
  { n with tst := { n.tst with loops := n.tst.loops.filter (fun x => x.target != t) ++ l.toList } }

/-- A port is withdrawn from service for a loop (R680, R681): its link goes down with LINK_DOWN, and the master hears of it; the
frame in transmission has ended, and those that wait for the port are sent into the loop. What the loop returns comes in as the
rows of its reception (log entry 131). -/
def Node.withdraw (n : Node) (p : Nat) : Node :=
  let m := if n.linkUp p then (Node.serve p (n.net.queue.length + 1) n) else n
  let kept := (m.net.queue.filter fun q => q.port == p).map (fun q => q.frame) ++
    (m.net.transit.filter fun t => t.egress == p).map fun t => t.frame
  let m := (if m.linkUp p then m.linkLost p else m).stopWake p
  kept.foldl (fun k f => k.putOut p f) m

/-- A target reads as looped, or not (R699). -/
def Node.loopBits (n : Node) (t : Nat) (on : Bool) : Node := n.setBit Reg.TST_STAT t on

/-- A target enters a loop (R680): a port is withdrawn, a TDM port keeps its service (R688). -/
def Node.loopEnter (n : Node) (l : TstLoop) : Node :=
  let m := if l.target < 13 then n.withdraw l.target else n
  let depth := if l.depth = 6 then 1 else l.depth
  (m.loopBits l.target true).setReg (Reg.TST_LB_CFG l.target) (word (depth + b2n l.force * 16 + l.session * 65536))

/-- The loop takes effect: its duration counts from now and LOOPBACK_ACTIVE is raised (R681, R687, R688). -/
def Node.loopActive (n : Node) (l : TstLoop) : Node :=
  let m := n.putLoop l.target (some { l with active := true, since := n.tm.raw })
  (m.setReg (Reg.TST_LB_LEFT l.target) (word l.ms)).raise 0x8805 l.target l.depth

/-- The PHY write that sets or clears a port's loop (R683): that of the PORTS section, else Clause 22 register 0 bit 14 or
Clause 45 device 3 register 0 bit 14, the device in bits [20:16] of the address. -/
def Node.phyWrites (n : Node) (p : Nat) (on : Bool) : List MdioWrite :=
  let own := if on then n.net.phyLoop else n.net.phyUnloop
  match own.filter (fun x => x.1 == p) with
  | [] =>
    let type := n.fld (Reg.SPN_IFTYPE p) Fld.SPN_IFTYPE_TYPE
    [⟨n.fld (Reg.SPN_IFTYPE p) Fld.SPN_IFTYPE_MDIO, n.fld (Reg.SPN_IFTYPE p) Fld.SPN_IFTYPE_PHYAD,
      if type = 5 ∨ type = 6 then 0 else 3 * 65536, if on then 0x4000 else 0⟩]
  | ws => ws.map (·.2)

/-- An ECHO frame on a port (R685): it leaves although the port is withdrawn (R680), but not on one that is held (R190). -/
def Node.echoSend (n : Node) (p type reason ms session requester : Nat) : Node :=
  let h := { n.hdr 0xC with lineB := n.portB p, ci := n.copyIndex }
  if p < 12 ∧ n.fld (Reg.SPN_STAT p) Fld.SPN_STAT_HELD = 1 then n
  else n.putOut p (n.spineFrame addrLocal h (encBE 1 type ++ encBE 1 reason ++ encBE 2 ms ++ encBE 2 session ++ encBE 6 requester ++ zeros 4))

/-- A loop ends (R680, R683, R687): the requester of an ECHO loop sends exit, the bit in the PHY is cleared. The port comes
back with its next link-up. -/
def Node.loopEnd (n : Node) (l : TstLoop) : Node :=
  let m := if l.depth = 5 then n.echoSend l.target 4 0 l.ms l.session n.identity else n
  let m := if l.depth = 4 then m.startScript (m.phyWrites l.target false) else m
  ((m.putLoop l.target none).loopBits l.target false).setRegs (Reg.TST_LB_CFG l.target) [0#32, 0#32]

/-- The command that waits for a loop to take effect completes. -/
def Node.loopAnswer (n : Node) (t status : Nat) (res : List Word) : Node :=
  n.finishWaits (fun w => w.kind == 12 && w.key == t) status res

/-- The lane of a port runs PRBS. -/
def Node.prbsOn (n : Node) (p : Nat) : Bool := n.bit Reg.TST_STAT (17 + p)

/-- A port in service that `TEST_LOOP` and `TEST_PRBS` refuse to disturb (R682). -/
def Node.inService (n : Node) (p : Nat) : Bool :=
  (decide (p < 12) && n.member p && n.inRun) || (p == 12 && n.bit Reg.PAR_TOKEN 5)

/-- The depths that a target takes. -/
def depthFor (t d : Nat) : Bool := d == 15 || if t < 13 then decide (d ≤ 5) else d == 7 || d == 8

/-- TEST_LOOP (R682 to R686, R691): the command waits until the loop is in effect. -/
def execTestLoop (c : Cmd) (s : State) : Host.Outcome State Fault Refusal :=
  .next (s.runs c 0x0C02 fun n => n.command c (.inst instTst) 4 fun m =>
    let t := arg c 0
    let d := arg c 1
    let ms := arg c 2
    let force := arg c 3 == 1 && m.ctxSecure c.ctx
    if 16 < t ∨ !depthFor t d ∨ 3600000 < ms ∨ 1 < arg c 3 then .fail m sArgs
    else if d = 4 ∧ (t = 12 ∨ m.fld (Reg.SPN_IFTYPE t) Fld.SPN_IFTYPE_PHY = 0) then .fail m sArgs
    else if d = 5 ∧ (ms = 0 ∨ 60000 < ms) then .fail m sArgs
    else if d = 15 then
      match m.loopAt t with
      | some l => .done ((m.loopAnswer t sCancelled []).loopEnd l) sOk []
      | none => .done m sOk []
    else if t < 13 ∧ m.inService t ∧ !force then .fail m sState
    else if t < 13 ∧ m.prbsOn t ∧ (d ≤ 2 ∨ d = 5) then .fail m sBusy
    else if (m.loopAt t).any (fun l => !l.active || l.depth == 6) then .fail m sBusy
    else
      let m := match m.loopAt t with
        | some l => m.loopEnd l
        | none => m
      let (m, session) := if d = 5 then m.free else (m, 0#32)
      let l : TstLoop := ⟨t, d, false, m.tm.raw, ms, session.toNat % 65536, 1, arg c 3 == 1⟩
      let m := m.putLoop t (some l)
      let m := if d = 5 then (m.loopEnter l).echoSend t 1 0 ms l.session m.identity
        else if d = 4 then m.startScript (m.phyWrites t true) else m
      .wait m 12 t [])

/-- LOOPBACK_ACTIVE (R681, R683): a loop other than ECHO takes effect once no frame is in transmission; that of a PHY once its MDIO
writes have ended. -/
def execLoopbackActive (target time : Nat) (s : State) : Host.Outcome State Fault Refusal :=
  .next (s.on fun n =>
    let m := n.at time
    match m.loopAt target with
    | some l =>
      if l.active ∨ l.depth = 5 ∨ (m.sending target).isSome then m
      else if l.depth = 4 ∧ m.net.script.any (fun w => m.phyWrites target true |>.contains w) then m
      else ((m.loopEnter l).loopActive l).loopAnswer target sOk []
    | none => m)

/-- LOOP_DURATION_EXPIRY (R684): a loop with a duration ends by itself. -/
def execLoopDurationExpiry (target time : Nat) (s : State) : Host.Outcome State Fault Refusal :=
  .next (s.on fun n =>
    let m := n.at time
    match m.loopAt target with
    | some l => if l.active ∧ 0 < l.ms ∧ l.since + l.ms * 1000000 ≤ m.tm.raw then m.loopEnd l else m
    | none => m)

/-- The ms that loops still run, as `TST_LB_LEFT` reads now (R699). -/
def Node.loopRefresh (n : Node) : Node :=
  n.tst.loops.foldl (fun m l =>
    if l.active ∧ 0 < l.ms then
      m.setReg (Reg.TST_LB_LEFT l.target) (word ((l.since + l.ms * 1000000 - n.tm.raw + 999999) / 1000000))
    else m) n

/-! ### ECHO (R685 to R687) -/

/-- ECHO_ENTER_RETRY (R686): every 10 ms, at most three enter frames; without an answer to the third the loop ends and the
command times out. -/
def execEchoEnterRetry (port time : Nat) (s : State) : Host.Outcome State Fault Refusal :=
  .next (s.on fun n =>
    let m := n.at time
    match m.loopAt port with
    | some l =>
      if l.active ∨ l.depth ≠ 5 ∨ m.tm.raw < l.since + 10000000 * l.tries then m
      else if l.tries < 3 then
        (m.putLoop port (some { l with tries := l.tries + 1 })).echoSend port 1 0 l.ms l.session m.identity
      else (m.loopEnd l).loopAnswer port sTimeout []
    | none => m)

/-- The fields of an ECHO payload. -/
def echoType (b : List Byte) : Nat := byteAt b 0
def echoSession (b : List Byte) : Nat := beAt b 4 2

/-- ECHO_ENTER_RECEIVED (R687): accepted when allowed and the port is neither the Jalder link nor in a test; otherwise
refused with its reason, where several hold the Jalder link, then a test (DESIGN CHOICE, log entry 131). -/
def execEchoEnterReceived (r : Rx) (s : State) : Host.Outcome State Fault Refusal :=
  .next (s.on fun n => n.receive r 0xC fun m _ b =>
    if echoType b ≠ 1 then m
    else
      let ms := beAt b 2 2
      let answer (k : Node) (type reason : Nat) : Node := k.echoSend r.port type reason ms (echoSession b) (beAt b 6 6)
      if r.port = 12 then answer m 3 3
      else if (m.loopAt r.port).isSome ∨ m.prbsOn r.port then answer m 3 2
      else if !m.bit Reg.TST_CFG 0 then answer m 3 1
      else
        let l : TstLoop := ⟨r.port, 6, true, m.tm.raw, ms, echoSession b, 0, false⟩
        ((answer m 2 0).loopEnter l).loopActive l)

/-- ECHO_REPLY_RECEIVED (R686): an accept sets the loop in effect; a refusal ends it and completes the command with
FAR_ERROR. -/
def execEchoReplyReceived (r : Rx) (s : State) : Host.Outcome State Fault Refusal :=
  .next (s.on fun n => n.receive r 0xC fun m _ b =>
    match m.loopAt r.port with
    | some l =>
      if l.active ∨ l.depth ≠ 5 ∨ echoSession b ≠ l.session then m
      else if echoType b = 2 then (m.loopActive l).loopAnswer r.port sOk []
      else if echoType b = 3 then (m.loopEnd l).loopAnswer r.port sFar [word (byteAt b 1)]
      else m
    | none => m)

/-- ECHO_EXIT_RECEIVED (R687): an exit with the session ends the loop at this end. -/
def execEchoExitReceived (r : Rx) (s : State) : Host.Outcome State Fault Refusal :=
  .next (s.on fun n => n.receive r 0xC fun m _ b =>
    match m.loopAt r.port with
    | some l => if l.depth = 6 ∧ echoType b = 4 ∧ echoSession b = l.session then m.loopEnd l else m
    | none => m)

/-! ### PRBS (R689 to R691) -/

/-- TEST_PRBS (R689, R691, R698). -/
def execTestPrbs (c : Cmd) (s : State) : Host.Outcome State Fault Refusal :=
  .next (s.runs c 0x0C03 fun n => n.command c (.inst instTst) 2 fun m =>
    let p := arg c 0
    let w := arg c 1
    if 12 < p ∨ 31 < w then .fail m sArgs
    else if m.inService p then .fail m sState
    else if (m.loopAt p).any (fun l => decide (l.depth ≤ 2) || l.depth == 5 || l.depth == 6) then .fail m sBusy
    else
      let on := w % 4 ≠ 0 ∧ 8 ≤ w
      let m := if on then (m.linkGoesDown p []).stopWake p else m
      let m := m.setBits (Reg.TST_PRBS_STAT p) 0 6 (if on then w else 0)
      .done (m.setBit Reg.TST_STAT (17 + p) (decide on)) sOk [])

/-- A checker reports the bits it has compared while locked and the errors among them (R690). -/
def Node.prbsCount (n : Node) (p bits errs : Nat) : Node :=
  let m := (n.add64 (Reg.TST_PRBS_BITS_LO p) bits).add64 (Reg.TST_PRBS_ERR_LO p) errs
  if errs = 0 then m
  else
    let all := m.tst.prbsErrs.getD p 0 + errs
    let keep (k : Node) (v : Nat) : Node := { k with tst := { k.tst with prbsErrs := modifyAt k.tst.prbsErrs p fun _ => v } }
    match m.occurIn 0x8903 p 1000000 with
    | (k, some _) => (keep k 0).raise 0x8903 p all
    | (k, none) => keep k all

/-- The checker of a lane runs. -/
def Node.prbsChecks (n : Node) (p : Nat) : Bool := n.bit (Reg.TST_PRBS_STAT p) 4

/-- PRBS_CHECKER_LOCK (R690): the checker locks, or reports what it has compared since. -/
def execPrbsCheckerLock (lane bits errs time : Nat) (s : State) : Host.Outcome State Fault Refusal :=
  .next (s.on fun n =>
    let m := n.at time
    if 12 < lane ∨ !m.prbsChecks lane then m else (m.setBit (Reg.TST_PRBS_STAT lane) 5 true).prbsCount lane bits errs)

/-- PRBS_LOCK_LOSS (R690): more than 32 errors in 1,024 bits. -/
def execPrbsLockLoss (lane bits errs time : Nat) (s : State) : Host.Outcome State Fault Refusal :=
  .next (s.on fun n =>
    let m := n.at time
    let a := Reg.TST_PRBS_STAT lane
    if 12 < lane ∨ !m.prbsChecks lane ∨ !m.bit a 5 then m
    else ((m.setBit a 5 false).setBits a 16 16 (min (m.bits a 16 16 + 1) 65535)).prbsCount lane bits errs)

/-! ### BIST (R692) and status (R698) -/

/-- TEST_STATUS (R698). -/
def execTestStatus (c : Cmd) (s : State) : Host.Outcome State Fault Refusal :=
  .next (s.runs c 0x0C01 fun n => n.command c (.inst instTst) 0 fun m =>
    .done m sOk [m.reg Reg.TST_STAT, m.reg Reg.TST_BIST_DONE, m.reg Reg.TST_BIST_FAIL, m.reg Reg.TST_INJ_LEFT])

/-- TEST_BIST (R692): the mask is kept and a warm reset follows 1 ms after the completion. -/
def execTestBist (c : Cmd) (s : State) : Host.Outcome State Fault Refusal :=
  .next (s.runs c 0x0C04 fun n => n.command c (.inst instTst) 1 fun m =>
    if (arg c 0).testBit 5 ∨ (arg c 0).testBit 6 ∨ 2 ^ 24 ≤ arg c 0 then .fail m sArgs
    else .done ((m.setReg Reg.TST_BIST_REQ (argW c 0)).warmIn 1000000 2) sOk [])

/-! ### Fault injection (R694, R695, R700) -/

/-- The injection of `TST_INJ_CTRL` is armed (R694): a count of 0 is treated as 1. -/
def Node.injArm (n : Node) : Node :=
  let kind := n.fld Reg.TST_INJ_CTRL Fld.TST_INJ_CTRL_KIND
  let count := max (n.fld Reg.TST_INJ_CTRL Fld.TST_INJ_CTRL_COUNT) 1
  let m := (n.setFld Reg.TST_INJ_CTRL Fld.TST_INJ_CTRL_ARM 1).setReg Reg.TST_INJ_LEFT (word count)
  (m.setBit Reg.TST_STAT 31 true).raise 0x8804 kind (m.reg Reg.TST_INJ_TARGET).toNat

/-- An injection is armed. -/
def Node.injArmed (n : Node) : Bool := n.fld Reg.TST_INJ_CTRL Fld.TST_INJ_CTRL_ARM == 1

/-- A write of `TST_INJ_CTRL` (R700): while armed only `DISARM` acts. -/
def Node.injWrite (n : Node) (v : Word) : Node :=
  let disarm := v.toNat.testBit 4
  if n.injArmed then (if disarm then n.injOff else n)
  else
    let m := n.setReg Reg.TST_INJ_CTRL (v &&& 0x0000FF07#32)
    if v.toNat.testBit 3 && !disarm then m.injArm else m

/-- INJECT_ARM_WRITE: a write of `TST_INJ_CTRL` with `ARM` (R694). -/
def execInjectArmWrite (ctx : Nat) (v : Word) (s : State) : Host.Outcome State Fault Refusal :=
  .next (s.on fun n => n.access ctx Reg.TST_INJ_CTRL true fun m => m.injWrite v)

/-- INJECT_DISARM_WRITE: a write of `TST_INJ_CTRL` with `DISARM` (R695). -/
def execInjectDisarmWrite (ctx : Nat) (v : Word) (s : State) : Host.Outcome State Fault Refusal :=
  .next (s.on fun n => n.access ctx Reg.TST_INJ_CTRL true fun m => m.injWrite v)

/-- The number of 64-bit words of an on-chip memory, by its code in `TOP_ECC_LAST` (R64, R70, R92). -/
def sramWords (mem : Nat) : Nat :=
  match mem with
  | 1 => 12 * 2 ^ 17
  | 2 => 65536
  | 3 => 32768
  | 4 => 32768
  | 5 => 4096
  | 6 => 65536
  | 7 => 2048
  | _ =>
    if mem < 0x10 ∨ 0x20 ≤ mem then 0
    else if mem < 0x12 then 65536 else if mem < 0x1A then 32768 else if mem < 0x1E then 8192 else 32768

/-- A target of an injection exists (R694). -/
def Node.injTargetOk (n : Node) (kind t : Nat) : Bool :=
  match kind with
  | 1 => decide (t % 2 ^ 24 < sramWords (t / 2 ^ 24))
  | 2 => decide (t % 2 ^ 24 < sramWords (t / 2 ^ 24))
  | 3 => decide (t * 64 < n.bits Reg.MEM_SIZE 16 16 * 2 ^ 20)
  | 4 => decide (t * 64 < n.bits Reg.MEM_SIZE 16 16 * 2 ^ 20)
  | 5 => decide (t < 2 ^ 18) && !t.testBit 14 && !t.testBit 15 && decide (t / 2 ^ 16 ≠ 0)
  | 6 => decide (t ≤ 12)
  | 7 => decide (t ≤ 27)
  | _ => false

/-- TEST_INJECT (R694, R698). -/
def execTestInject (c : Cmd) (s : State) : Host.Outcome State Fault Refusal :=
  .next (s.runs c 0x0C05 fun n => n.command c (.secure instTst) 4 fun m =>
    if 255 < arg c 3 ∨ !m.injTargetOk (arg c 0) (arg c 1) then .fail m sArgs
    else if m.injArmed then .fail m sBusy
    else
      let k := (m.setReg Reg.TST_INJ_CTRL (word (arg c 0 + arg c 3 * 256))).setReg Reg.TST_INJ_TARGET (argW c 1)
      .done (k.setReg Reg.TST_INJ_MASK (argW c 2)).injArm sOk [])

/-! ### Boundary scan (R696, R697) -/

/-- An instruction is taken by the JTAG port. -/
def Node.jtagSet (n : Node) (ir dr : Nat) (taken : Bool) : Node := { n with tst := { n.tst with jtag := ⟨ir, dr, taken⟩ } }

/-- What the boundary register captures from the balls: a free value. -/
def Node.jtagScan (n : Node) (ir : Nat) (taken : Bool) : Node := n.free.1.jtagSet ir n.free.2.toNat taken

/-- EXTEST: the pins take the boundary register (R696, R697; IEEE 1149.1). -/
def execExtest (s : State) : Host.Outcome State Fault Refusal := .next (s.on fun n => n.jtagScan 0x00 true)

/-- IDCODE (R696): version 0x1, part 0x6420, manufacturer 0x5A3. -/
def execIdcode (s : State) : Host.Outcome State Fault Refusal := .next (s.on fun n => n.jtagSet 0x01 0x16420B47 false)

/-- SAMPLE/PRELOAD: the boundary register captures the pins and drives nothing (R696; IEEE 1149.1). -/
def execSamplePreload (s : State) : Host.Outcome State Fault Refusal := .next (s.on fun n => n.jtagScan 0x02 false)

/-- CLAMP: the pins hold and the bypass register is selected (R696; IEEE 1149.1). -/
def execClamp (s : State) : Host.Outcome State Fault Refusal := .next (s.on fun n => n.jtagSet 0x04 0 true)

/-- HIGHZ: the pins float and the bypass register is selected (R696; IEEE 1149.1). -/
def execHighz (s : State) : Host.Outcome State Fault Refusal := .next (s.on fun n => n.jtagSet 0x08 0 true)

/-- EXTEST_PULSE of the AC-coupled lanes (R696, R697; IEEE 1149.6). -/
def execExtestPulse (s : State) : Host.Outcome State Fault Refusal := .next (s.on fun n => n.jtagScan 0x09 true)

/-- EXTEST_TRAIN of the AC-coupled lanes (R696, R697; IEEE 1149.6). -/
def execExtestTrain (s : State) : Host.Outcome State Fault Refusal := .next (s.on fun n => n.jtagScan 0x0A true)

/-- The engines to which the JTAG port gives debug access: those of the open world while `DEBUG` is 1, else none (R98). -/
def Node.jtagEngines (n : Node) : List Nat :=
  if n.fld Reg.IMG_STATE Fld.IMG_STATE_DEBUG = 1 then (List.range 16).filter fun e => !n.instSecure (65 + e) else []

/-- BYPASS: code 0xFF and every code that the table does not give (R696), but for the private debug codes while the port has
debug access: what such a code captures from an engine is a free value, and what it does to the engine is the debug unit's, which
the manual does not give (R98, log entry 122). -/
def execBypass (code : Nat) (s : State) : Host.Outcome State Fault Refusal :=
  .next (s.on fun n =>
    let c := code % 256
    if c ∈ [0x00, 0x01, 0x02, 0x04, 0x08, 0x09, 0x0A] then n
    else if c ≠ 0xFF ∧ !n.jtagEngines.isEmpty ∧ Config.debugCode c then n.jtagScan c false
    else n.jtagSet c 0 false)

end Sys2Proof.Machine
end

