-- ==== Sys2Proof/Machine/Image.lean ====
section
/-! DEFINITION. The Mordant image (chapter 03): header, directory, TLV records and signature, the checks of *Rejection
reasons* (R111), the section records whose layouts the chapters give, and what loading each section does to the node. -/

namespace Sys2Proof.Machine

/-! ### Header and directory (R94 to R102) -/

/-- What reads an image: `len` bytes from an offset. -/
abbrev Reader := Nat → Nat → List Byte

/-- A little-endian field of an image. -/
def Reader.le (rd : Reader) (off len : Nat) : Nat := leAt (rd off len) 0 len

/-- The image in a flash slot (R115). -/
def Node.slotReader (n : Node) (slot : Nat) : Reader := fun off len =>
  Sparse.range (fun _ => 0xFF#8) n.mem.flash (slot * 0x2000000 + off) len

/-- An image held as bytes. -/
def bytesReader (bs : List Byte) : Reader := fun off len => slice bs off len

/-- The header fields (R95). -/
structure ImgHead where
  format : Nat
  total : Nat
  count : Nat
  kind : Nat
  ver : Nat
  arc : Nat
  flags : Nat
  key : Nat
  spare : Nat
  base : Nat
  seq : Nat
  tag : Nat
  target : Nat
  deriving DecidableEq, Repr

def imgHead (rd : Reader) : ImgHead :=
  { format := rd.le 4 2, total := rd.le 8 4, count := rd.le 0xC 2, kind := rd.le 0xE 2, ver := rd.le 0x10 4, arc := rd.le 0x14 4,
    flags := rd.le 0x18 4, key := rd.le 0x1C 1, spare := rd.le 0x1D 3, base := rd.le 0x20 4, seq := rd.le 0x24 4,
    tag := rd.le 0x28 4, target := rd.le 0x30 8 }

/-- A directory entry (R101). -/
structure ImgSection where
  type : Nat
  flags : Nat
  off : Nat
  len : Nat
  crc : Nat
  deriving DecidableEq, Repr

def imgDir (rd : Reader) (count : Nat) : List ImgSection :=
  (List.range count).map fun i =>
    let o := 0x40 + 16 * i
    ⟨rd.le o 2, rd.le (o + 2) 2, rd.le (o + 4) 4, rd.le (o + 8) 4, rd.le (o + 12) 4⟩

/-- The section types of R104: structural and re-dyeable. -/
def structTypes : List Nat := [1, 2, 3, 4, 5, 6]
def dyeTypes : List Nat := [0x10, 0x11, 0x12, 0x13, 0x14, 0x15]

/-- Sections in ascending order without overlap, the first at or after `lo`. -/
def inOrder : Nat → List ImgSection → Bool
  | _, [] => true
  | lo, s :: ss => decide (lo ≤ s.off) && inOrder (s.off + s.len) ss

/-- A directory is well formed (R101, R102). -/
def dirOk (h : ImgHead) (ss : List ImgSection) : Bool :=
  let types := ss.map (·.type)
  let allowed := if h.kind = 0 then structTypes ++ dyeTypes ++ [0xFF] else dyeTypes ++ [0xFF]
  inOrder (0x40 + 16 * h.count) ss && types.Nodup && (types.all fun t => allowed.contains t) &&
  (ss.all fun s => s.off % 8 == 0 && s.len % 8 == 0 && decide (8 ≤ s.len) && s.flags % 2 == b2n (dyeTypes.contains s.type)) &&
  (match ss.getLast? with
   | some s => s.type == 0xFF && s.len == 136 && s.off + 136 == h.total
   | none => false) &&
  (h.kind != 0 || structTypes.all fun t => types.contains t)

/-- The total length keeps the bounds of its kind (R97). -/
def totalOk (h : ImgHead) : Bool :=
  decide (64 + 16 * h.count + 136 ≤ h.total) &&
  (if h.kind = 0 then decide (h.total ≤ 0x01FF0000) else h.kind == 1 && decide (h.total ≤ 0x00800000))

/-- The checks of the header and the directory: the reason of the first that fails, 0 when all hold (R111, R788). -/
def headFault (rd : Reader) : Nat :=
  let h := imgHead rd
  if rd 0 4 ≠ [0x4D#8, 0x44#8, 0x4E#8, 0x54#8] then 1
  else if crc32c (rd 0 60) ≠ rd.le 0x3C 4 ∨ rd.le 6 2 ≠ 64 then 2
  else if h.format / 256 ≠ 1 then 3
  else if !totalOk h then 4
  else if h.count < 2 ∨ 64 < h.count ∨ crc32c (rd 0x40 (16 * h.count)) ≠ rd.le 0x38 4 ∨ !dirOk h (imgDir rd h.count) then 5
  else 0

/-- The bytes of a section and whether its CRC-32C holds. -/
def sectionBytes (rd : Reader) (s : ImgSection) : List Byte := rd s.off s.len
def crcOk (rd : Reader) (s : ImgSection) : Bool := crc32c (sectionBytes rd s) == s.crc

/-- The offset of the signature section: the signed message ends there (R109). -/
def sigOff (h : ImgHead) : Nat := h.total - 136

/-- Keys of the OTP (R112). -/
def Otp.keyFused (o : Otp) (i : Nat) : Bool := if i = 0 then o.fused0 else i == 1 && o.fused1
def Otp.keyRevoked (o : Otp) (i : Nat) : Bool := if i = 0 then o.revoked0 else i == 1 && o.revoked1
def Otp.keyHash (o : Otp) (i : Nat) : Nat := if i = 0 then o.hash0 else o.hash1

/-- The checks at the signature: key (reason 7), algorithm and signature (reason 8), R108 to R110. -/
def sigFault (o : Otp) (rd : Reader) : Nat :=
  let h := imgHead rd
  let g := sigOff h
  let key := 0x04#8 :: rd (g + 8) 64
  if !o.keyFused h.key ∨ o.keyRevoked h.key ∨ sha256 (fun a l => slice key a l) 65 ≠ o.keyHash h.key then 7
  else if rd.le g 4 ≠ 1 then 8
  else if ecdsaOk (sha256 rd g) (beNat (rd (g + 8) 32)) (beNat (rd (g + 0x28) 32)) (beNat (rd (g + 0x48) 32))
      (beNat (rd (g + 0x68) 32)) then 0
  else 8

/-- The checks right after the signature: anti-rollback (9), target node (10), reserved and tint fields (11), R99, R100. -/
def fieldFault (o : Otp) (rd : Reader) : Nat :=
  let h := imgHead rd
  if h.arc < o.arc then 9
  else if h.target % 2 ^ 48 ≠ 0 ∧ h.target % 2 ^ 48 ≠ o.identity then 10
  else if h.format % 256 = 0 ∧ (h.flags / 2 ≠ 0 ∨ h.spare ≠ 0 ∨ h.target / 2 ^ 48 ≠ 0) then 11
  else if h.kind = 0 ∧ (h.base ≠ 0 ∨ h.seq ≠ 0 ∨ h.tag ≠ 0) then 11
  else if h.kind = 1 ∧ (h.seq = 0 ∨ h.tag = 0) then 11
  else 0

/-! ### TLV records (R106, R107) -/

/-- The records of a section, none where a record breaks R106 or runs past the section's end; `k` bounds their number. -/
def tlv : Nat → List Byte → Option Records
  | _, [] => some []
  | 0, _ => none
  | k + 1, bs =>
    let tag := leAt bs 0 2
    let len := leAt bs 4 4
    let full := 8 + (len + 7) / 8 * 8
    if tag = 0 ∨ leAt bs 2 2 ≠ 0 ∨ bs.length < full ∨ ((bs.take full).drop (8 + len)).any (· != 0#8) then none
    else (tlv k (bs.drop full)).map fun rs => (tag, slice bs 8 len) :: rs

/-- The tags that must be understood (R107). PORTS, ENGINES and KEYS hold further records whose layout the manual does not
give: what they say comes with the check point as `ImageFacts`. -/
def knownTag (type tag : Nat) : Bool :=
  decide (0x8000 ≤ tag) || type ∈ [2, 3, 6] ||
  (match type with
   | 1 => decide (tag ≤ 3)
   | 4 => tag == 1
   | 5 => tag == 0x10 || tag == 0x20 || tag == 0x30
   | 0x10 => decide (tag ≤ 3)
   | 0x11 => decide (tag ≤ 2)
   | 0x12 => decide (tag ≤ 8)
   | 0x13 => decide (tag ≤ 5)
   | 0x14 => decide (tag ≤ 3)
   | 0x15 => decide (tag ≤ 2)
   | _ => false)

/-- Every record of a tag has a length, and there are at most `most`. -/
def sized (rs : Records) (tag len most : Nat) : Bool :=
  ((rs.of tag).all fun v => v.length == len) && decide ((rs.of tag).length ≤ most)

/-! ### PORTS (R141 to R150, R560, R771) -/

/-- An EtherType that R150 allows. -/
def etypeOk (e : Nat) : Bool :=
  decide (0x0600 ≤ e) && decide (e < 0x10000) &&
  !([0x0800, 0x0806, 0x86DD, 0x8100, 0x8808, 0x88A8, 0x88E5, 0x88F7, 0x22F0].contains e)

/-- The PORTS section keeps the types of spine and car ports (R141, R142, R192) and every range. -/
def portsOk (f : ImageFacts) (rs : Records) : Bool :=
  let car := (f.iftypes.drop 4).filter fun w => bitsOf w 0 4 != 0
  let ctl := (rs.of 0x60).map fun v => byteAt v 0
  let lanes := (rs.of 0x70).map fun v => byteAt v 0
  f.sound && ((f.iftypes.take 4).all fun w => decide (bitsOf w 0 4 ≤ 6)) &&
  (car.all fun w => decide (4 ≤ bitsOf w 0 4 ∧ bitsOf w 0 4 ≤ 6)) &&
  decide ((car.filter fun w => bitsOf w 4 2 == 2).length ≤ 2) &&
  (car.all fun w => bitsOf w 4 2 != 1 || bitsOf w 0 4 == 4) && etypeOk f.etype && decide (1 ≤ f.vid ∧ f.vid ≤ 4094) &&
  sized rs 0x60 32 4 && ((rs.of 0x60).all canCtrlOk) && ctl.Nodup &&
  sized rs 0x61 16 256 && ((rs.of 0x61).all fun v => decide (byteAt v 0 < 4 ∧ byteAt v 1 < 64 ∧ byteAt v 2 ≤ 3)) &&
  sized rs 0x62 16 512 && ((rs.of 0x62).all fun v => decide (byteAt v 0 < 4 ∧ byteAt v 1 < 128)) &&
  sized rs 0x70 8 13 && lanes.Nodup &&
  ((rs.of 0x70).all fun v => decide (byteAt v 0 ≤ 12 ∧ byteAt v 2 ≤ 7 ∧ byteAt v 3 ≤ 7 ∧ byteAt v 4 ≤ 19))

/-- An MDIO write of the facts. -/
def mdioOf (x : Nat × Nat × Nat × Nat × Nat) : Nat × MdioWrite := (x.1, ⟨x.2.1, x.2.2.1, x.2.2.2.1, x.2.2.2.2⟩)

/-- The PORTS section loaded. `SPN_PREEMPT_STAT` of a port with preemption enabled shows 1 from here on (DEDUCED, log entry
124). -/
def Node.portsLoad (n : Node) (f : ImageFacts) (rs : Records) : Node :=
  let m := (f.iftypes.take 12).zipIdx.foldl (fun m x =>
    let v := if bitsOf x.1 0 4 = 0 then 0#32 else word x.1
    (m.setReg (Reg.SPN_IFTYPE x.2) v).setReg (Reg.SPN_PREEMPT_STAT x.2) (word (bitsOf v.toNat 8 1))) n
  let m := (f.keyNums.take 4).zipIdx.foldl (fun m x => m.setReg (Reg.SPN_MACSEC_KEYNUM x.2) (word x.1)) m
  let m := ((m.setReg Reg.SPN_ETYPE (word f.etype)).setReg Reg.SPN_SPINE_VID (word f.vid)).setReg Reg.SPN_WAKE_CODE (word f.wake)
  let m := (f.mdioDivs.take 2).zipIdx.foldl (fun m x => m.setReg (Reg.SPN_MDIO_CFG x.2) (word (x.1 % 256))) m
  let m := f.rules.foldl (fun m x => x.2.zipIdx.foldl (fun k w => if x.1 < 8192 ∧ w.2 < 8 then k.ruleWrite x.1 w.2 w.1 else k) m) m
  let m := { m with net := { m.net with
    scriptEnter := f.scriptEnter.map fun x => (mdioOf x).2
    scriptExit := f.scriptExit.map fun x => (mdioOf x).2
    phyLoop := f.loopSet.map mdioOf
    phyUnloop := f.loopClear.map mdioOf } }
  let m := (rs.of 0x60).foldl (fun m v => m.canCtrlLoad v) m
  let m := (rs.of 0x61).foldl (fun m v => m.canFilterLoad v) m
  let m := (rs.of 0x62).foldl (fun m v => m.canObjectLoad v) m
  { m with boot := { m.boot with lanes := rs.of 0x70 } }

/-- The electrical settings of a lane (R771): transmit swing in mV, pre-cursor and post-cursor codes, transmit and receive polarity
inverted. -/
structure LaneElec where
  swing : Nat
  pre : Nat
  post : Nat
  txInv : Bool
  rxInv : Bool
  deriving DecidableEq, Repr

/-- The settings of a port's lane: those of its record, else the defaults of its type; the Jalder link is of the first (R398). -/
def Node.laneElec (n : Node) (p : Nat) : LaneElec :=
  match n.boot.lanes.find? fun v => byteAt v 0 == p with
  | some v => ⟨400 + 100 * byteAt v 2, byteAt v 3, byteAt v 4, (byteAt v 1).testBit 0, (byteAt v 1).testBit 1⟩
  | none =>
    let type := if p = 12 then 1 else n.fld (Reg.SPN_IFTYPE p) Fld.SPN_IFTYPE_TYPE
    if type = 1 then ⟨900, 0, 6, false, false⟩
    else if type = 2 ∨ type = 3 then ⟨800, 0, 4, false, false⟩
    else ⟨700, 0, 2, false, false⟩

/-! ### HOSTS (R621, R622, R654) -/

/-- The transport of a context (R620). -/
def transportOf (c : Nat) : Nat := if c < 4 then 0 else if c < 6 then 1 else 2

/-- A port is a host-frame port (R142). -/
def Node.hostPort (n : Node) (p : Nat) : Bool :=
  decide (p < 8) && n.fld (Reg.SPN_IFTYPE (4 + p)) Fld.SPN_IFTYPE_TYPE != 0 && n.carKind (4 + p) == 2

def Node.hostsOk (n : Node) (rs : Records) : Bool :=
  let v := rs.of 1
  let ctxs := v.map fun r => byteAt r 0
  let tsq (q : Nat) : Nat := (v.filter fun r => (byteAt r 2).testBit (2 + q)).length
  sized rs 1 32 8 && ctxs.Nodup && decide (v.foldl (fun a r => a + leAt r 4 2) 0 ≤ 8192) && decide (tsq 0 ≤ 1) && decide (tsq 1 ≤ 1) &&
  v.all fun r =>
    let c := byteAt r 0
    let fl := byteAt r 2
    decide (c < 8) && byteAt r 1 == transportOf c && decide (1 ≤ byteAt r 3 ∧ byteAt r 3 ≤ 4) &&
    decide (256 ≤ leAt r 4 2 ∧ leAt r 4 2 ≤ 8192) && (decide (c < 4) || fl / 4 % 8 == 0) &&
    (if c < 6 then byteAt r 6 == 0 else n.hostPort (byteAt r 6))

/-- A context and its registers set up from its record (R621, R660, R661): an SPI transport is up whenever the context is
present, a PCIe one as its link says. -/
def Node.hostLoad (n : Node) (v : List Byte) : Node :=
  let c := byteAt v 0
  let f := byteAt v 2
  let cfg := byteAt v 1 + f % 2 * 4 + f / 2 % 2 * 8 + f / 16 % 2 * 16 + f / 32 % 2 * 32 + byteAt v 3 * 64 + byteAt v 6 % 8 * 512 +
    leAt v 4 2 * 65536
  let up := if c < 4 then n.bits (Reg.HST_CTX_STAT c) 2 1 else if c < 6 then 1
    else b2n (n.fld (Reg.SPN_STAT (4 + byteAt v 6)) Fld.SPN_STAT_LINK == 1)
  let m := (n.setReg (Reg.HST_CTX_CFG c) (word cfg)).setReg (Reg.HST_CTX_STAT c) (word (1 + up * 4 + f / 4 % 4 * 16))
  let m := [0, 1].foldl (fun m q => if f.testBit (2 + q) then m.setReg (Reg.TMB_TSQ_CFG q) (word (c + 128)) else m) m
  let m := m.setBit (Reg.WLD_INST ((81 + c) / 32)) ((81 + c) % 32) (f % 2 == 1)
  { m with host := { m.host with cfgs := m.host.cfgs.filter (fun x => x.ctx != c) ++
    [⟨c, beNat (slice v 8 6), leAt v 0xE 2, leAt v 0x10 2⟩] } }

/-- The journal shares in ascending context number from entry 0 (R654). -/
def Node.sharesLoad (n : Node) (rs : Records) : Node :=
  ((List.range 8).foldl (fun (a : Node × Nat) c =>
    match (rs.of 1).find? fun v => byteAt v 0 == c with
    | some v =>
      let size := leAt v 4 2
      ((a.1.setReg (Reg.JRN_CTX_BASE c) (word a.2)).setReg (Reg.JRN_CTX_SIZE c) (word size), a.2 + size)
    | none => ((a.1.setReg (Reg.JRN_CTX_BASE c) 0#32).setReg (Reg.JRN_CTX_SIZE c) 0#32, a.2)) (n, 0)).1

/-! ### WORLD (R646 to R649) -/

/-- Where a memory region lies must end: engine SRAM by R64, DRAM by the capacity after inline ECC. -/
def Node.spaceEnd (n : Node) (space : Nat) : Option Nat :=
  if space = 0 then some (n.bits Reg.MEM_SIZE 16 16 * 2 ^ 20)
  else if 0x10 ≤ space ∧ space < 0x20 then
    let e := space - 0x10
    some ((if e < 2 then 512 else if e < 10 then 256 else if e < 14 then 64 else 256) * 1024)
  else none

/-- The fixed instances of R646 that are secure. -/
def fixedSecure : List Nat := [12, 14, 65, 75, 76, 89, 90, 92]

def Node.worldOk (n : Node) (rs : Records) : Bool :=
  let inst := beNat ((rs.of 1).headD (zeros 16)).reverse
  let rgn := (rs.of 2).map fun v => (byteAt v 0, byteAt v 1, leAt v 4 4 * 1024, leAt v 8 8)
  sized rs 1 16 1 && sized rs 2 16 256 && sized rs 3 8 1 &&
  !([81, 82, 83, 84, 85, 86, 87, 88, 95].any fun i => inst.testBit i) && decide (inst / 2 ^ 96 = 0) &&
  (rgn.all fun r =>
    (match n.spaceEnd r.1 with
     | some e => decide (r.2.2.2 + r.2.2.1 ≤ e)
     | none => false) &&
    decide (r.2.1 ≤ 1) && r.2.2.1 % 4096 == 0 && r.2.2.2 % 4096 == 0 &&
    (r.1 != 0 || r.2.1 == 1 || r.2.2.1 == 0 || decide (64 * 2 ^ 20 ≤ r.2.2.2))) &&
  rgn.Pairwise fun a b => a.1 ≠ b.1 ∨ a.2.2.2 + a.2.2.1 ≤ b.2.2.2 ∨ b.2.2.2 + b.2.2.1 ≤ a.2.2.2

def Node.worldLoad (n : Node) (rs : Records) : Node :=
  let inst := beNat ((rs.of 1).headD (zeros 16)).reverse
  let m := (List.range 96).foldl (fun m i =>
    if inst.testBit i || fixedSecure.contains i then m.setBit (Reg.WLD_INST (i / 32)) (i % 32) true else m) n
  let m := (rs.of 2).zipIdx.foldl (fun m x => m.setRegs (Reg.WLD_RGN_BASE_LO x.2)
    [word (leAt x.1 8 4), word (leAt x.1 12 4), word (leAt x.1 4 4), word (byteAt x.1 0 + byteAt x.1 1 % 2 * 256 + 2 ^ 31)]) m
  let note := byteAt ((rs.of 3).headD (zeros 8)) 0
  m.setReg Reg.WLD_CFG (word ((rs.of 2).length + (if note.testBit 7 then (note % 8 + 8) * 65536 else 0)))

/-! ### PAIR (R301, R339, R432) -/

def pairOk (rs : Records) : Bool :=
  sized rs 0x10 32 1 && sized rs 0x20 16 1 && sized rs 0x30 80 1 &&
  ((rs.of 0x10).all fun v => decide (byteAt v 8 ≤ 1) && decide (1 ≤ leAt v 0xA 2 ∧ leAt v 0xA 2 ≤ 600) &&
    (byteAt v 9 % 2 == 1 || byteAt v 8 == 0) && (List.range 8).all fun c => decide (byteAt v (0xC + c) % 4 ≤ 2)) &&
  ((rs.of 0x20).all fun v => decide (20 ≤ leAt v 4 2 ∧ leAt v 4 2 ≤ 2000) &&
    (leAt v 6 2 == 0 || decide (100 ≤ leAt v 6 2 ∧ leAt v 6 2 ≤ 60000))) &&
  ((rs.of 0x30).all fun v => decide (3 ≤ byteAt v 1 ∧ byteAt v 1 ≤ 15) &&
    (List.range 8).all fun c => decide (byteAt v (0x40 + c) ≤ 127))

/-- The pair record: identities, role, heartbeat, solo wait and car modes (R42, R432, R435). -/
def Node.pairRecLoad (n : Node) (v : List Byte) : Node :=
  let m := n.setRegs Reg.TOP_PAIR_ID ([word (leAt v 0 4), word (leAt v 4 4)] ++ wordsLE (slice v 0x14 12) 3)
  let m := m.setReg Reg.PAR_CFG (word (byteAt v 8 % 2 + byteAt v 9 % 4 * 2 + leAt v 0xA 2 % 1024 * 65536))
  m.setReg Reg.PAR_CARMODE (word ((List.range 8).foldl (fun a c => a + byteAt v (0xC + c) % 4 * 2 ^ (2 * c)) 0))

/-- The inauguration record (R301). -/
def Node.inaRecLoad (n : Node) (v : List Byte) : Node :=
  ((n.setReg Reg.INA_CFG (word (byteAt v 0 + byteAt v 1 % 2 * 256 + byteAt v 8 % 8 * 512))).setReg Reg.INA_MAX_RTT
    (word (leAt v 4 2))).setReg Reg.INA_LINK_WAIT (word (leAt v 6 2))

/-- The time record (R198, R312, R333, R339). -/
def Node.timeRecLoad (n : Node) (v : List Byte) : Node :=
  let j := byteAt v 0 % 8
  let m := (n.setReg Reg.CYC_CFG (word (j + byteAt v 1 * 16))).setReg Reg.CYC_TC_NS (word (125000 * 2 ^ j))
  let m := (List.range 13).foldl (fun m p => m.setReg (Reg.TMB_PD_ASYM p) (word (leAt v (4 + 4 * p) 4))) m
  let m := (List.range 8).foldl (fun m c => m.setReg (Reg.TMB_CARTIME_CFG c)
    (word (byteAt v (0x38 + c) % 4 + byteAt v (0x40 + c) * 256))) m
  { m with tm := { m.tm with utc := leAt v 0x48 2 } }

/-! ### ENGINES: the placer policy (R57, R378, R379) -/

def enginesOk (f : ImageFacts) (rs : Records) : Bool :=
  f.sound && sized rs 0x40 24 1 &&
  (rs.of 0x40).all fun v => decide (4096 ≤ leAt v 0 4 ∧ leAt v 0 4 ≤ 32768 ∧ leAt v 4 4 ≤ 2048 ∧ leAt v 8 4 ≤ 512 ∧ leAt v 12 4 ≤ 1024)

/-- The regions of DRAM from address 0 upward; when they do not fit, the partition store, then recordings, then the library
shrink, each reported with its shortfall (R378). -/
def Node.regionsLoad (n : Node) (lib recs store : Nat) : Node :=
  let room := n.bits Reg.MEM_SIZE 16 16 - 64
  let over0 := lib + recs + store - room
  let cutStore := min over0 store
  let cutRec := min (over0 - cutStore) recs
  let cutLib := min (over0 - cutStore - cutRec) lib
  let sizes := [64, lib - cutLib, recs - cutRec, store - cutStore,
    room - (lib - cutLib) - (recs - cutRec) - (store - cutStore)]
  let m := ((List.range 5).foldl (fun (a : Node × Nat) r =>
    let base := a.2 * 2 ^ 20
    let size := sizes.getD r 0
    (a.1.setRegs (Reg.PLC_DRAM_BASE_LO r) [word base, word (base / 2 ^ 32), word size], a.2 + size)) (n, 0)).1
  [(3, cutStore), (2, cutRec), (1, cutLib)].foldl (fun m c => if c.2 = 0 then m else m.raise 0x390A c.1 c.2) m

def Node.enginesLoad (n : Node) (rs : Records) : Node :=
  let v := (rs.of 0x40).headD (encLE 4 16384 ++ zeros 20)
  let cells := leAt v 0 4
  let open_ := 49152 - 512 - cells
  let m := (n.setReg Reg.TOP_BUF_CFG (word (cells + open_ * 65536))).setReg Reg.TOP_BUF_OPEN_FREE (word open_)
  let m := (m.setReg Reg.TOP_BUF_OPEN_MIN (word open_)).setReg Reg.PLC_POOL_FREE (word cells)
  { m with plc := { m.plc with poolCells := cells, expiry := leAt v 16 4 } }.regionsLoad (leAt v 4 4) (leAt v 8 4) (leAt v 12 4)

/-! ### MODES (R202, R230 to R234) -/

/-- An entry of a slot list. -/
def slotOf (v : List Byte) (i : Nat) : SlotEntry :=
  let w := leAt v (12 * i + 4) 4
  ⟨leAt v (12 * i) 4, bitsOf w 0 14, bitsOf w 16 4, bitsOf w 20 10, w.testBit 30, bitsOf (leAt v (12 * i + 8) 4) 0 15⟩

/-- An entry of a slot list keeps its ranges. -/
def slotEntryOk (v : List Byte) (sched i : Nat) : Bool :=
  let x := slotOf v i
  let w := leAt v (12 * i + 4) 4
  x.start % 32 == 0 && decide (4000 ≤ x.start) && decide (x.start < 4000 + sched) && bitsOf w 14 2 == 0 && !w.testBit 31 &&
  decide (x.k ≤ 10) && decide (x.phase < 2 ^ x.k) && decide (leAt v (12 * i + 8) 4 < 2 ^ 15)

/-- The groups of a MODES section: each header with the slot list and poll table that follow it; none where a record stands
without a header or twice. -/
def modeGroups : Records → List Mode → Option (List Mode)
  | [], acc => some acc
  | (tag, v) :: rs, acc =>
    if tag = 1 then
      if v.length ≠ 16 then none
      else modeGroups rs (acc ++ [{ num := byteAt v 0, sguard := leAt v 2 2, sched := leAt v 4 4, poll := leAt v 8 4,
                                    guard := leAt v 12 4, placer := byteAt v 1 != 0, slots := [], polls := [] }])
    else if tag = 2 then
      match acc.getLast? with
      | some m =>
        let k := v.length / 12
        if v.length % 12 ≠ 0 ∨ k = 0 ∨ 16384 < k ∨ !m.slots.isEmpty ∨ !(List.range k).all (slotEntryOk v m.sched) then none
        else modeGroups rs (acc.dropLast ++ [{ m with slots := (List.range k).map (slotOf v) }])
      | none => none
    else if tag = 3 then
      match acc.getLast? with
      | some m =>
        let k := v.length / 12
        let ok (i : Nat) : Bool := leAt v (12 * i + 6) 2 == 0 && leAt v (12 * i + 8) 2 != 0 && leAt v (12 * i + 10) 2 == 0
        if v.length % 12 ≠ 0 ∨ k = 0 ∨ 4000 < k ∨ !m.polls.isEmpty ∨ !(List.range k).all ok then none
        else
          let polls : List PollEntry := (List.range k).map fun i => ⟨leAt v (12 * i) 6, leAt v (12 * i + 8) 2⟩
          modeGroups rs (acc.dropLast ++ [{ m with polls := polls }])
      | none => none
    else modeGroups rs acc

/-- The modes keep the limits of R202, R212 and R233. -/
def modesFit (tc : Nat) (ms : List Mode) : Bool :=
  (ms.map (·.num)).Nodup &&
  ms.all fun m =>
    decide (m.num ≤ 3) && !m.placer && m.sched % 32 == 0 && m.poll % 32 == 0 && m.guard % 32 == 0 && decide (4096 ≤ m.sched) &&
    decide (4096 ≤ m.poll) && decide (1536 ≤ m.guard ∧ m.guard ≤ 65536) && decide (4000 + m.sched + m.poll + m.guard ≤ tc) &&
    decide (64 ≤ m.sguard ∧ m.sguard ≤ 1024) && m.sguard % 32 == 0 &&
    decide ((m.slots.filter (·.orig)).length ≤ 512) && (m.slots.map (·.start)).Pairwise (· ≤ ·)

def Node.modesOk (n : Node) (rs : Records) : Bool :=
  match modeGroups rs [] with
  | some ms => modesFit n.tc ms
  | none => false

def Node.modesLoad (n : Node) (rs : Records) : Node :=
  ((modeGroups rs []).getD []).foldl (fun m x => m.putMode x) n

/-! ### STREAMS (R350, R374, R379) -/

/-- The fields of a stream record keep their ranges: state, phase and admission sequence are zero but for the phase of a fixed
stream. -/
def Node.streamRecOk (n : Node) (v : List Byte) : Bool :=
  let e := strmOf (wordsLE (slice v 4 32) 8)
  let w (i : Nat) : Nat := leAt v (4 + 4 * i) 4
  decide (1 ≤ leAt v 0 2 ∧ leAt v 0 2 ≤ 16379) && leAt v 2 2 == 0 && decide (e.cls ≤ 2) && e.lines != 0 &&
  decide (1 ≤ e.dkind ∧ e.dkind ≤ 6) && decide (e.k ≤ 10) && decide (1 ≤ e.size ∧ e.size ≤ 1468) &&
  decide (4000 ≤ e.deadline ∧ e.deadline ≤ 2 ^ e.k * n.tc) && (if e.fixed then decide (e.phase < 2 ^ e.k) else e.phase == 0) &&
  e.state == 0 && e.admSeq == 0 && e.reason == 0 && bitsOf (w 2) 8 8 == 0 && bitsOf (w 4) 14 2 == 0 && bitsOf (w 4) 27 5 == 0 &&
  bitsOf (w 7) 18 14 == 0

def Node.streamsOk (n : Node) (rs : Records) : Bool :=
  ((rs.of 1).all fun v => v.length == 36 && n.streamRecOk v) && ((rs.of 1).map fun v => leAt v 0 2).Nodup &&
  (rs.of 2).all fun v => v.length == 12 && byteAt v 8 % 4 != 0

/-- A fixed stream is active from the image; the others are declared by the node at its initial commit (R350, R353). -/
def Node.streamsLoad (n : Node) (rs : Records) : Node :=
  let m := (rs.of 1).foldl (fun m v =>
    let e := strmOf (wordsLE (slice v 4 32) 8)
    m.putStrm (leAt v 0 2) { e with valid := true, state := if e.fixed then 2 else 0 }) n
  let ids := (rs.of 1).map fun v => leAt v 0 2
  let growth := (rs.of 2).map fun v => (leAt v 0 4, leAt v 4 4, byteAt v 8 % 4)
  { m with boot := { m.boot with streams := ids }, plc := { m.plc with growth := growth } }

/-! ### DATASETS (R446, R472, R473) -/

/-- A dataset from its record, its safe value and its line maps. -/
def datasetOf (rs : Records) (v : List Byte) : Dataset :=
  let s := leAt v 0 2
  let fl := byteAt v 2
  let hi := byteAt v 29
  let safe := (rs.of 2).find? fun x => leAt x 0 2 == s
  { stream := s, consumed := fl % 2 == 1, safePolicy := fl / 2 % 2 == 1, source := fl / 4 % 4, ports := byteAt v 3, len := leAt v 4 2,
    limit := leAt v 6 2, sigma := leAt v 8 4 + hi % 4 * 2 ^ 32, omega := leAt v 12 4 + hi / 4 % 4 * 2 ^ 32, margin := leAt v 16 4,
    dst := beNat (slice v 20 6), tci := leAt v 26 2, layout := byteAt v 28, safeValue := ((safe.map fun x => x.drop 4)).getD [],
    maps := ((rs.of 4).filter fun x => leAt x 2 2 == s).map fun x => (byteAt x 0, leAt x 4 2),
    mismatch := false, sampled := [], fresh := none, last := none, age := 0, misses := 0, safeRun := false, lineA := false,
    lineB := false, decided := none, late := false, sampledCyc := none, doneCyc := none, decidedCyc := none, outCyc := none, shown := ⟨0, [], []⟩, pins := [] }

/-- The datasets of a section. -/
def datasetsOf (rs : Records) : List Dataset := (rs.of 1).map (datasetOf rs)

/-- The LINE record of a line. -/
def lineRecord (rs : Records) (l : Nat) : Option (List Byte) := (rs.of 3).find? fun v => byteAt v 0 == l

/-- A line is an output by its record. -/
def isOutput (rs : Records) (l : Nat) : Bool := (lineRecord rs l).any fun v => byteAt v 1 % 2 == 1

/-- The period of a dataset's stream, the longest of all where the image does not declare the stream (R200). -/
def Node.dsPeriod (n : Node) (s : Nat) : Nat := 2 ^ (if (n.strm s).valid then (n.strm s).k else 10) * n.tc

/-- A car port is a consist port (R142). -/
def Node.consistPort (n : Node) (p : Nat) : Bool :=
  n.fld (Reg.SPN_IFTYPE (4 + p)) Fld.SPN_IFTYPE_TYPE != 0 && n.carKind (4 + p) == 0

def Node.datasetsOk (n : Node) (rs : Records) : Bool :=
  let ds := datasetsOf rs
  let of (s : Nat) : Option Dataset := ds.find? fun d => d.stream == s
  let maps := (rs.of 4).map fun v => byteAt v 0
  let etype := leAt ((rs.of 5).headD (encLE 2 0x88B6 ++ zeros 6)) 0 2
  sized rs 1 32 512 && sized rs 3 16 36 && ((rs.of 4).all fun v => v.length == 8) && sized rs 5 8 1 &&
  (ds.map (·.stream)).Nodup && ((rs.of 3).map fun v => byteAt v 0).Nodup &&
  (ds.all fun d => decide (1 ≤ d.stream ∧ d.stream ≤ 16379) && decide (1 ≤ d.len ∧ d.len ≤ 1432) && decide (d.source ≤ 2) &&
    decide (d.sigma < n.dsPeriod d.stream) && decide (d.omega < n.dsPeriod d.stream) && decide (5000 + d.margin ≤ d.omega) &&
    (List.range 8).all fun p => !d.ports.testBit p || n.consistPort p) &&
  ((rs.of 2).all fun v => match of (leAt v 0 2) with
    | some d => v.length == 4 + d.len
    | none => false) &&
  ((rs.of 3).all fun v =>
    let l := byteAt v 0
    let stuck := leAt v 4 2
    let win := leAt v 8 2
    decide (l ≤ 35) && (decide (l < 32) || byteAt v 1 % 2 == 0) && decide (stuck ≤ 600) && decide (10 ≤ win ∧ win ≤ 60000) &&
    (byteAt v 1 % 2 == 0 || byteAt v 1 / 16 % 2 == 0 || maps.contains l)) &&
  ((rs.of 4).all fun v => match of (leAt v 2 2) with
    | some d => decide (byteAt v 0 < 32) && decide (leAt v 4 2 < 8 * d.len) && isOutput rs (byteAt v 0) == d.consumed &&
        (!d.consumed || (maps.filter fun l => l == byteAt v 0).length == 1)
    | none => false) &&
  etypeOk etype && etype != (n.reg Reg.SPN_ETYPE).toNat

/-- The registers of a dataset (R475). -/
def Node.dsShow (n : Node) (i : Nat) (d : Dataset) : Node :=
  n.setRegs (Reg.PDT_DS_CFG i)
    [word (d.stream + b2n d.consumed * 2 ^ 14 + b2n d.safePolicy * 2 ^ 15 + d.source * 2 ^ 16 + d.ports * 2 ^ 24),
     word (d.len + d.sigma / 2 ^ 32 % 4 * 2 ^ 11 + d.omega / 2 ^ 32 % 4 * 2 ^ 13 + d.limit * 65536), word d.sigma, word d.omega]

/-- The settings of a line (R477): those of its record, the reset values without one. -/
def Node.lineShow (n : Node) (rs : Records) (l : Nat) : Node :=
  match lineRecord rs l with
  | some v => n.setRegs (Reg.DIO_LN_CFG l) [word (byteAt v 1 % 32 + leAt v 2 2 * 65536), word (leAt v 4 2 % 1024),
      word (leAt v 6 2 + leAt v 8 2 * 65536)]
  | none => n

def Node.datasetsLoad (n : Node) (rs : Records) : Node :=
  let ds := datasetsOf rs
  let v5 := (rs.of 5).headD (encLE 2 0x88B6 ++ zeros 6)
  let m := ds.zipIdx.foldl (fun m x => m.dsShow x.2 x.1) n
  let m := (List.range 36).foldl (fun m l => m.lineShow rs l) m
  let made := (ds.filter fun d => !d.consumed).length
  let m := m.setReg Reg.PDT_CFG (word (ds.length + leAt v5 0 2 * 65536))
  let m := m.setBits Reg.PDT_STAT 0 31 (made + (ds.length - made) * 65536)
  { m with pd := { m.pd with sets := ds,
                             edgeCtx := if (byteAt v5 4).testBit 7 then some (byteAt v5 4 % 8) else none } }.syncDrivers

/-! ### CANROUTE and BRIDGE (R576, R596) -/

def Node.canRouteOk (n : Node) (rs : Records) : Bool :=
  let ctls := (rs.of 1).map fun v => byteAt v 0
  let replayQ (c q : Nat) : Bool := ((n.ctl c).owners.getD q 0).testBit 7 && ((n.ctl c).owners.getD q 0).testBit 6
  sized rs 1 8 4 && sized rs 2 8 16 && sized rs 3 8 4096 && ctls.Nodup &&
  ((rs.of 1).all fun v => decide (byteAt v 0 < 4) && n.bit (Reg.CAN_CFG (byteAt v 0)) 0 && !n.canCompat (byteAt v 0) &&
    decide (1 ≤ leAt v 2 2 ∧ leAt v 2 2 ≤ 16379)) &&
  ((rs.of 2).all fun v => decide (byteAt v 2 < 4) && decide (byteAt v 3 < 4) && replayQ (byteAt v 2) (byteAt v 3) &&
    decide (1 ≤ leAt v 0 2 ∧ leAt v 0 2 ≤ 16379)) &&
  (rs.of 3).all fun v =>
    decide (bitsOf (leAt v 4 4) 14 5 ≤ if (leAt v 0 4).testBit 29 then 29 else 11)

def Node.canRouteLoad (n : Node) (rs : Records) : Node :=
  let m := (rs.of 1).foldl (fun m v => m.tunTxLoad v) n
  let m := (rs.of 2).zipIdx.foldl (fun m x => m.tunRxLoad x.2 x.1) m
  ((rs.of 3).zipIdx.foldl (fun m x => (m.setReg (Reg.BRG_RT_W0 x.2) (word (leAt x.1 0 4))).setReg (Reg.BRG_RT_W1 x.2)
    (word (leAt x.1 4 4))) m).syncBrgCfg

def Node.bridgeOk (n : Node) (rs : Records) : Bool :=
  sized rs 1 24 16 && sized rs 2 8 1 && ((rs.of 1).all n.windowOk) && ((rs.of 1).map fun v => byteAt v 0).Nodup &&
  (rs.of 2).all fun v => decide (10 ≤ leAt v 6 2 ∧ leAt v 6 2 ≤ 1000)

def Node.bridgeLoad (n : Node) (rs : Records) : Node :=
  ((rs.of 2).foldl (fun m v => m.brgGlobalLoad v) ((rs.of 1).foldl (fun m v => m.windowLoad v) n)).syncBrgCfg

/-! ### AUDIO (R377, R520) -/

/-- The services as the section gives them; an engine that runs a zone mixer offers 32 mix inputs (R377). -/
def Node.audioLoad (n : Node) (rs : Records) : Node :=
  let a := audOf n.aud rs
  let mix := ((engineLoad a.elements a.global.rate16).getD []).map fun x => if x.2 = 0 then 0 else 32
  ({ n with aud := a, plc := { n.plc with mixCap := (mix ++ List.replicate 8 0).take 8 } }.audShow rs).syncLib

/-! ### Sections -/

/-- A section's records are content that its chapters allow (R107). -/
def Node.sectionOk (n : Node) (f : ImageFacts) (type : Nat) (rs : Records) : Bool :=
  (rs : List (Nat × List Byte)).all (fun r => knownTag type r.1) &&
  (match type with
   | 1 => n.worldOk rs
   | 2 => portsOk f rs
   | 3 => enginesOk f rs
   | 4 => n.hostsOk rs
   | 5 => pairOk rs
   | 6 => f.sound
   | 0x10 => n.modesOk rs
   | 0x11 => n.streamsOk rs
   | 0x12 => n.audOk rs
   | 0x13 => n.datasetsOk rs
   | 0x14 => n.canRouteOk rs
   | 0x15 => n.bridgeOk rs
   | _ => false)

/-- A section's records take effect. -/
def Node.sectionLoad (n : Node) (f : ImageFacts) (type : Nat) (rs : Records) : Node :=
  match type with
  | 1 => n.worldLoad rs
  | 2 => n.portsLoad f rs
  | 3 => { n.enginesLoad rs with boot := { n.boot with code := f.code } }
  | 4 => ((rs.of 1).foldl (fun m v => m.hostLoad v) n).sharesLoad rs
  | 5 => (rs.of 0x30).foldl (fun m v => m.timeRecLoad v) ((rs.of 0x20).foldl (fun m v => m.inaRecLoad v)
      ((rs.of 0x10).foldl (fun m v => m.pairRecLoad v) n))
  | 6 => { n with boot := { n.boot with keyA := f.keyA, keyB := f.keyB } }
  | 0x10 => n.modesLoad rs
  | 0x11 => n.streamsLoad rs
  | 0x12 => n.audioLoad rs
  | 0x13 => n.datasetsLoad rs
  | 0x14 => n.canRouteLoad rs
  | 0x15 => n.bridgeLoad rs
  | _ => n

/-- The order in which the sections are checked and applied: what a later one names stands before it. -/
def sectionOrder : List Nat := [2, 5, 4, 1, 3, 6, 0x10, 0x11, 0x12, 0x13, 0x14, 0x15]

/-- The records of every section but the signature, in that order; none where a section breaks R106. -/
def imgRecords (rd : Reader) : Option (List (Nat × Records)) :=
  let ss := imgDir rd (imgHead rd).count
  let present := sectionOrder.filterMap fun t => ss.find? fun s => s.type == t
  present.foldr (fun s acc => acc.bind fun l => (tlv (s.len / 8) (sectionBytes rd s)).map fun rs => (s.type, rs) :: l) (some [])

/-- The sections loaded one after another, none where one holds forbidden content (reason 12). -/
def Node.loadSections (n : Node) (f : ImageFacts) (l : List (Nat × Records)) : Option Node :=
  l.foldl (fun acc x => acc.bind fun m => if m.sectionOk f x.1 x.2 then some (m.sectionLoad f x.1 x.2) else none) (some n)

/-- The owners of the CAN records are contexts that the HOSTS section declares (R560). -/
def Node.ownersOk (n : Node) : Bool :=
  n.can.all fun c => (c.owners ++ c.rxOwners ++ [c.compOwner]).all fun b => match ownerCtx b with
    | some x => n.ctxPresent x
    | none => true

/-- The node that a check of a full image's content starts from: nothing configured, the DRAM as trained (R647, R788). -/
def Node.blank (n : Node) : Node :=
  let m := { Node.reset with tm := n.tm, mem := n.mem, fresh := n.fresh }
  [Reg.MEM_SIZE, Reg.MEM_STAT, Reg.TOP_NODE_ID_LO, Reg.TOP_NODE_ID_HI].foldl (fun m a => m.setReg a (n.reg a)) m

/-- The content of a full image: the node with every section loaded, none for reason 12. -/
def Node.loadFull (n : Node) (f : ImageFacts) (rd : Reader) : Option Node :=
  (imgRecords rd).bind fun l => (n.loadSections f l).bind fun m => if m.ownersOk then some m else none

/-- The content of the image in a slot, after every earlier check: 0x0C, or 0x0E for a tint in a slot (R111). -/
def Node.slotContentFault (n : Node) (f : ImageFacts) (rd : Reader) : Nat :=
  if (imgHead rd).kind = 0 then if (n.blank.loadFull f rd).isNone then 0xC else 0
  else match imgRecords rd with
    | some l => if ((n.blank).loadSections f l).isNone then 0xC else 0xE
    | none => 0xC

/-! ### Tints (R125, R130) -/

/-- What the running section of a type has set is taken back before a tint's section replaces it (R130). -/
def Node.sectionClear (n : Node) (type : Nat) : Node :=
  match type with
  | 0x10 =>
    let m := (List.range 8).foldl (fun m i => m.setRegs (Reg.CYC_MD_STAT i) (List.replicate 6 0#32)) n
    { m with cyc := { m.cyc with modes := [] } }
  | 0x11 =>
    let old := n.boot.streams
    let m := old.foldl (fun m s => m.putStrm s (strmOf (List.replicate 8 0#32))) n
    let keep := m.plc.placed.filter fun (p : Placed) => !old.contains p.stream
    { m with plc := { m.plc with growth := [], placed := keep }, boot := { m.boot with streams := [] } }
  | 0x12 =>
    let m := (List.range 4).foldl (fun m p => m.setRegs (Reg.AUD_TDM_CFG p) [0#32, 0#32]) n
    let m := (List.range 8).foldl (fun m e => m.setReg (Reg.AUD_SE_LOAD e) 0#32) m
    (List.range 16).foldl (fun m z => m.setFld (Reg.AUD_ZN_STAT z) Fld.AUD_ZN_STAT_HELD 0) m
  | 0x13 =>
    let m := (List.range 512).foldl (fun m i => m.setRegs (Reg.PDT_DS_CFG i) (List.replicate 8 0#32)) n
    (List.range 36).foldl (fun m l => m.setRegs (Reg.DIO_LN_CFG l) [0#32, 30#32, 0x00640040#32]) m
  | 0x14 =>
    let m := (List.range 20).foldl (fun m t => m.setReg (Reg.BRG_TUN_CFG t) 0#32) n
    n.routes.foldl (fun m r => (m.setReg (Reg.BRG_RT_W0 r) 0#32).setReg (Reg.BRG_RT_W1 r) 0#32) m
  | 0x15 =>
    let m := (List.range 16).foldl (fun m w => m.setRegs (Reg.BRG_WIN_CFG w) (List.replicate 4 0#32)) n
    [Reg.BRG_RD_TIMEOUT, Reg.BRG_POLL, Reg.BRG_HOLD].foldl (fun m a => m.setReg a (regReset a)) m
  | _ => n

/-- A tint carries none of PORTS, ENGINES and KEYS. -/
def noFacts : ImageFacts :=
  { sound := true, iftypes := [], keyNums := [], etype := 0, vid := 0, wake := 0, mdioDivs := [], rules := [], scriptEnter := [],
    scriptExit := [], loopSet := [], loopClear := [], engines := 0 }

/-- A tint's sections replace the running ones; modes M4 to M7 fall with a tint that carries MODES or STREAMS (R130). -/
def Node.tintLoad (n : Node) (l : List (Nat × Records)) : Option Node :=
  ((l.map (·.1)).foldl (fun m t => m.sectionClear t) n).loadSections noFacts l

/-- The sections of a tint that has passed every check take effect (R130). -/
def Node.tintApply (n : Node) (l : List (Nat × Records)) : Node :=
  l.foldl (fun m x => m.sectionLoad noFacts x.1 x.2) ((l.map (·.1)).foldl (fun m t => m.sectionClear t) n)

/-- A tint that needs the STREAM domain on a node where it is off (R125). -/
def Node.needsStream (n : Node) (l : List (Nat × Records)) : Bool :=
  !n.bit Reg.TOP_PD_STATE 4 && l.any fun x => x.1 == 0x12 && (x.2 : List (Nat × List Byte)).any fun r => r.1 == 2 || r.1 == 3

/-- The reason for which the bytes are not accepted for staging as a tint, 0 when they are (R111, R125). A node that waits for an image runs none that a tint could be based on. -/
def Node.tintFault (n : Node) (o : Otp) (f : ImageFacts) (rd : Reader) : Nat :=
  let h := imgHead rd
  let head := headFault rd
  if head ≠ 0 then head
  else if !(imgDir rd h.count).all (crcOk rd) then 6
  else if sigFault o rd ≠ 0 then sigFault o rd
  else if fieldFault o rd ≠ 0 then fieldFault o rd
  else if h.kind = 0 then if (n.blank.loadFull f rd).isNone then 0xC else 0xE
  else match imgRecords rd with
    | none => 0xC
    | some l =>
      if n.needsStream l ∨ (n.tintLoad l).isNone then 0xC
      else if n.waiting ∨ h.base ≠ (n.reg Reg.IMG_RUN_VER).toNat then 0xF
      else if h.seq ≤ (n.reg Reg.IMG_TINT_SEQ).toNat then 0x10
      else 0

end Sys2Proof.Machine
end

