-- ==== Sys2Proof/Machine/Boot.lean ====
section
/-! DEFINITION. Booting (R115 to R122, R788): the flash and its two slots, the choice of a slot, the check points of a load, the
waiting state, BIST and DRAM training, the application of an image, and the image commands (R123 to R135). -/

namespace Sys2Proof.Machine

/-- The instance of the image registers in the world map (R646). -/
def instImg : Nat := 89

/-! ### Flash (R115, R116, R123, R730) -/

/-- The size of a slot's image and of a slot with its status block. -/
def slotImage : Nat := 0x01FF0000
def slotSize : Nat := 0x02000000

/-- A byte of flash; erased where nothing is programmed. -/
def Node.flashByte (n : Node) (a : Nat) : Byte := Sparse.get (fun _ => 0xFF#8) n.mem.flash a

/-- A word of a slot's status block, little-endian. -/
def Node.statusWord (n : Node) (slot w : Nat) : Nat :=
  leAt (Sparse.range (fun _ => 0xFF#8) n.mem.flash (slot * slotSize + slotImage + 4 * w) 4) 0 4

/-- Programming clears bits: each byte ends as the AND of its old and new values (R123). -/
def Node.flashProgram (n : Node) (a : Nat) (bs : List Byte) : Node :=
  let new := bs.mapIdx fun i b => b &&& n.flashByte (a + i)
  { n with mem := { n.mem with flash := Sparse.putAll (fun _ => 0xFF#8) n.mem.flash a new } }

/-- A slot is erased, image and status block together (R116). -/
def Node.flashErase (n : Node) (slot : Nat) : Node :=
  let kept := n.mem.flash.filter fun (p : Nat × Byte) => !(decide (slot * slotSize ≤ p.1) && decide (p.1 < (slot + 1) * slotSize))
  { n with mem := { n.mem with flash := kept } }

/-- FLASH_ERROR (R730). -/
def Node.flashError (n : Node) (cause addr : Nat) : Node := (n.inc Reg.MEM_FLASH_ERR).raise 0x9104 cause addr

/-- The slot is marked bad (R116). -/
def Node.slotBad (n : Node) (slot : Nat) : Bool := n.statusWord slot 0 != 0xFFFFFFFF

/-- A slot is marked bad: word 1 of its status block takes the reason, then word 0 the marker (R116). -/
def Node.markBad (n : Node) (slot reason : Nat) : Node :=
  let base := slot * slotSize + slotImage
  let m := (n.flashProgram (base + 4) (encLE 4 reason)).flashProgram base (encLE 4 0)
  (m.setFld (Reg.IMG_SLOT_STAT slot) Fld.IMG_SLOT_STAT_BAD 1).setFld (Reg.IMG_SLOT_STAT slot) Fld.IMG_SLOT_STAT_REASON reason

/-- The version and length that a slot's header gives, zero without a sound header (R136). -/
def Node.slotShow (n : Node) (slot : Nat) : Node :=
  let rd := n.slotReader slot
  let sound := headFault rd ≠ 1 ∧ headFault rd ≠ 2
  (n.setReg (Reg.IMG_SLOT_VER slot) (word (if sound then (imgHead rd).ver else 0))).setReg (Reg.IMG_SLOT_LEN slot)
    (word (if sound then (imgHead rd).total else 0))

/-- What the fuses show in the image registers (R112, R136). -/
def Node.showOtp (n : Node) (o : Otp) : Node :=
  (n.setReg Reg.IMG_OTP_ARC (word o.arc)).setBits Reg.IMG_KEY_STAT 0 4
    (b2n o.fused0 + b2n o.fused1 * 2 + b2n o.revoked0 * 4 + b2n o.revoked1 * 8)

/-! ### The waiting state (R121, R654) -/

/-- A share of the waiting state as its entries with `WAIT` = 1 show it. -/
def Node.waitShare (n : Node) (c : Nat) : Node :=
  let base := (n.reg (Reg.JRN_CTX_BASE c)).toNat
  let has (i : Nat) : Bool := n.jrnValid (base + i) && n.bit (Reg.JRN_ENTRY (base + i) + 12) 18
  let held := (List.range 256).countP has
  let next := if held < 256 then held
    else (((List.range 256).find? fun i => seqPrecedes (n.jrnSeq (base + (i + 1) % 256)) (n.jrnSeq (base + i))).getD 0 + 1) % 256
  ({ n with host := { n.host with shares := modifyAt n.host.shares c fun _ => ⟨next, held⟩ } }).syncJrn c

/-- HC0 or HC4 as the waiting state has it: secure, one ring pair, its share of 256 entries. -/
def Node.waitContext (n : Node) (c base : Nat) : Node :=
  let up := if c < 4 then n.bits (Reg.HST_CTX_STAT c) 2 1 else 1
  let m := (n.setReg (Reg.HST_CTX_CFG c) (word (transportOf c + 4 + 64 + 256 * 65536))).setReg (Reg.HST_CTX_STAT c)
    (word (1 + up * 4))
  let m := m.setBit (Reg.WLD_INST ((81 + c) / 32)) ((81 + c) % 32) true
  ((m.setReg (Reg.JRN_CTX_BASE c) (word base)).setReg (Reg.JRN_CTX_SIZE c) (word 256)).waitShare c

/-- RESET_RECORDED with the kind and the cause of the last reset (R716). -/
def Node.resetRecorded (n : Node) : Node :=
  n.raise 0x8005 (n.fld Reg.PCR_RESET_CAUSE Fld.PCR_RESET_CAUSE_KIND) (n.fld Reg.PCR_RESET_CAUSE Fld.PCR_RESET_CAUSE_CAUSE)

/-- The node enters the waiting state (R121): everything but the two secure contexts stays off. `FALLBACK` tells whether the
slot chosen first failed a check; one passed over for its attempts did not (DESIGN CHOICE, log entry 125). -/
def Node.enterWaiting (n : Node) : Node :=
  let m := n.setReg Reg.IMG_STATE (word (1 + b2n n.boot.failed.isSome * 32))
  let m := { m with
    boot := { m.boot with phase := 3, away := if m.boot.away.isEmpty then m.host.shares else m.boot.away } }
  let m := fixedSecure.foldl (fun m i => m.setBit (Reg.WLD_INST (i / 32)) (i % 32) true) m
  let m := ((m.waitContext 0 (waitFirst 0)).waitContext 4 (waitFirst 4)).setBits Reg.JRN_CFG 0 14 512
  m.resetRecorded

/-- No slot yields a valid image: NO_VALID_IMAGE with the reason of each slot, and the waiting state (R121). -/
def Node.noImage (n : Node) : Node :=
  (n.raise 0x1304 (n.boot.reasons.getD 0 0) (n.boot.reasons.getD 1 0)).enterWaiting

/-! ### Choosing a slot (R117, R118, R120) -/

/-- The reason found for a slot. -/
def Node.slotReason (n : Node) (slot reason : Nat) : Node :=
  { n with boot := { n.boot with reasons := modifyAt n.boot.reasons slot fun _ => reason } }.setFld (Reg.IMG_SLOT_STAT slot)
    Fld.IMG_SLOT_STAT_REASON reason

/-- The boot-attempt count of a slot. -/
def Node.setAttempts (n : Node) (slot k : Nat) : Node :=
  { n with boot := { n.boot with attempts := modifyAt n.boot.attempts slot fun _ => k } }.setFld (Reg.IMG_SLOT_STAT slot)
    Fld.IMG_SLOT_STAT_ATTEMPTS k

/-- The boot-attempt counts that AON holds are shown (R120, R138). -/
def Node.showAttempts (n : Node) : Node :=
  [0, 1].foldl (fun m slot => m.setFld (Reg.IMG_SLOT_STAT slot) Fld.IMG_SLOT_STAT_ATTEMPTS (m.boot.attempts.getD slot 0)) n

/-- A slot fails the examination: IMAGE_SLOT_INVALID at that instant (R788). -/
def Node.examineFails (n : Node) (slot reason : Nat) : Node := (n.slotReason slot reason).raise 0x1201 slot reason

/-- The examination of a slot before the choice: the bad marker before all others, then header and directory (R117, R788).
A read that ends in a bus error fails the slot's header. -/
def Node.examine (n : Node) (slot : Nat) (bus : Option Nat) : Node :=
  let rd := n.slotReader slot
  let m := n.slotShow slot
  let m := match bus with
    | some a => m.flashError 4 a
    | none => m
  if m.slotBad slot then (m.setFld (Reg.IMG_SLOT_STAT slot) Fld.IMG_SLOT_STAT_BAD 1).examineFails slot 0xD
  else if bus.isSome then m.examineFails slot 1
  else if headFault rd = 0 then m else m.examineFails slot (headFault rd)

/-- A slot may be chosen: sound, not bad, not tried. -/
def Node.slotCandidate (n : Node) (slot : Nat) : Bool := n.boot.reasons.getD slot 0 == 0 && !n.boot.tried.contains slot

/-- The slot to load (R117, R711). -/
def Node.pickSlot (n : Node) : Option Nat :=
  let pref := n.boot.pref
  let ver (s : Nat) : Nat := (n.reg (Reg.IMG_SLOT_VER s)).toNat
  if n.boot.tried.isEmpty && pref != 0 && n.slotCandidate (pref - 1) then some (pref - 1)
  else if n.slotCandidate 0 && n.slotCandidate 1 then
    some (if ver 0 < ver 1 then 1 else if ver 1 < ver 0 then 0 else b2n (n.reg Reg.PCR_STRAP == 1#32))
  else if n.slotCandidate 0 then some 0
  else if n.slotCandidate 1 then some 1
  else none

/-- A slot is chosen and its load begins; a slot whose attempts would reach 3 is marked bad and the choice made again (R120);
`k` bounds the choices. -/
def Node.chooseSlot : Nat → Node → Node
  | 0, n => n.noImage
  | k + 1, n =>
    match n.pickSlot with
    | none => n.noImage
    | some s =>
      let byPref := n.boot.tried.isEmpty && n.boot.pref == s + 1
      let m := { n with boot := { n.boot with
        tried := n.boot.tried ++ [s], pref := if byPref then 0 else n.boot.pref, usedPref := byPref } }
      let tries := m.boot.attempts.getD s 0 + 1
      if 3 ≤ tries then Node.chooseSlot k ((m.markBad s 0x20).slotReason s 0x20)
      else
        let m := m.setAttempts s tries
        { m with boot := { m.boot with phase := 1, slot := s, point := 0 } }

/-- The slot being loaded fails a check (R118): IMAGE_SLOT_INVALID, the slot is marked bad, and the other slot loads if it can. -/
def Node.slotFails (n : Node) (reason : Nat) : Node :=
  let s := n.boot.slot
  let m := ((n.raise 0x1201 s reason).markBad s reason).slotReason s reason
  let m := { m with boot := { m.boot with failed := if m.boot.failed.isNone then some (s, reason) else m.boot.failed } }
  m.chooseSlot 2

/-- With BIST failed or strap 0b10 the node waits; else both slots are examined and one is chosen (R117, R693, R711, R730). -/
def Node.bootStart (n : Node) (flash : FlashFacts) : Node :=
  if n.reg Reg.PCR_STRAP = 2#32 then n.enterWaiting
  else if n.boot.bistBad then n.showAttempts.enterWaiting
  else if !flash.sfdp then n.showAttempts.noImage
  else ((n.showAttempts.examine 0 flash.busA).examine 1 flash.busB).chooseSlot 3

/-- RESET_RELEASE: the boot ROM starts; the strap is sampled, the PLLs lock, the flash is identified, both slots are examined
and one is chosen (R117, R709, R711, R730). -/
def execResetRelease (strap : Nat) (flash : FlashFacts) (time : Nat) (s : State) : Host.Outcome State Fault Refusal :=
  .next (s.on fun n =>
    let m := n.at time
    if m.boot.phase ≠ 0 ∨ m.boot.sleep ≠ 0 then m
    else
      let kind := m.fld Reg.PCR_RESET_CAUSE Fld.PCR_RESET_CAUSE_KIND
      let m := if kind ≤ 2 then m.setReg Reg.PCR_STRAP (word (strap % 4)) else m
      let m := ((m.setBits Reg.PCR_PLL_STAT 0 6 63).setReg Reg.PCR_SUPPLY_STAT 0#32).showOtp s.otp
      let m := { m with boot := { m.boot with phase := 1, released := m.tm.raw } }
      let m := m.setReg Reg.MEM_FLASH_ID (word (flash.jedec % 2 ^ 24))
      let m := if flash.sfdp then m.setReg Reg.MEM_FLASH_SIZE (word flash.size) else m.flashError 1 0
      let m := if flash.octal || !flash.sfdp then m else m.flashError 2 0
      let m := m.setFld Reg.MEM_STAT Fld.MEM_STAT_STATE 1
      (m.setReg Reg.MEM_FLASH_STAT
        (word (b2n (flash.octal && flash.sfdp) + (if flash.octal then flash.mhz else 50) % 256 * 256))).bootStart flash)

/-! ### BIST and DRAM training (R692, R693, R725, R726) -/

/-- The lowest bit of a mask. -/
def lowestBit (v : Nat) : Nat := ((List.range 32).find? fun i => v.testBit i).getD 0

/-- BIST_RUN_COMPLETE: March C− has run on the memories asked for; `fail` names those that failed (R692, R693). -/
def execBistRunComplete (fail first time : Nat) (s : State) : Host.Outcome State Fault Refusal :=
  .next (s.on fun n =>
    let m := n.at time
    let bad := Nat.land fail m.boot.bist
    if m.boot.phase = 0 ∨ m.boot.bist = 0 then m
    else
      let k := ((m.setReg Reg.TST_BIST_DONE (word m.boot.bist)).setReg Reg.TST_BIST_FAIL (word bad)).setReg Reg.TST_BIST_FIRST
        (if bad = 0 then 0#32 else word first)
      let k := (k.setReg Reg.TST_BIST_REQ 0#32).setBit Reg.TST_STAT 30 true
      let k := { k with boot := { k.boot with bist := 0 } }
      if bad = 0 then k.raise 0x8801 m.boot.bist 0
      else
        let k := k.raise 0x8A02 (lowestBit bad) first
        let k := { k with boot := { k.boot with bistBad := true } }
        if k.waiting then k else k.enterWaiting)

/-- DRAM_TRAINING_DONE: the sizes of the two channels in MiB, the rate reached and the channels that failed at every rate, with
the lanes' eyes (R71, R725, R726). -/
def execDramTrainingDone (sizes : List Nat) (rate failed : Nat) (eyes : List Word) (time : Nat) (s : State) :
    Host.Outcome State Fault Refusal :=
  .next (s.on fun n =>
    let m := n.at time
    if m.boot.phase = 0 ∨ 2 ≤ m.fld Reg.MEM_STAT Fld.MEM_STAT_STATE then m
    else
      let size (c : Nat) : Nat := sizes.getD c 0
      let bad (c : Nat) : Bool := failed.testBit c
      let inUse := (if bad 0 then 0 else size 0) + (if bad 1 then 0 else size 1)
      let k := m.setReg Reg.MEM_SIZE (word (min (size 0 + size 1) 8192 + min inUse 8192 * 7 / 8 * 65536))
      let k := k.setRegs (Reg.MEM_TRAIN 0) (eyes.take 8)
      let k := k.setReg Reg.MEM_STAT (word ((if bad 0 && bad 1 then 3 else 2) + rate % 4 * 4 + b2n (!bad 0) * 16 + b2n (!bad 1) * 32))
      if bad 0 && bad 1 then
        let k := k.raise 0x9303 3 (rate % 4)
        if k.waiting then k else k.enterWaiting
      else k)

/-- The DRAM has failed: `IMG_STATUS` alone completes OK (R726). -/
def Node.dramFailed (n : Node) : Bool := n.fld Reg.MEM_STAT Fld.MEM_STAT_STATE == 3

/-! ### The check points of a load (R788) -/

/-- The check that a point makes of the slot being loaded: the sections' CRCs one after another, the signature, the fields
after it, the content. The answer is the reason, 0 when it holds. -/
def Node.pointFault (n : Node) (o : Otp) (f : ImageFacts) (spoilt : Bool) : Nat :=
  let rd := n.slotReader n.boot.slot
  let ss := imgDir rd (imgHead rd).count
  match ss[n.boot.point]? with
  | some x => if spoilt || !crcOk rd x then 6 else 0
  | none =>
    if n.boot.point = ss.length then sigFault o rd
    else if n.boot.point = ss.length + 1 then fieldFault o rd
    else n.slotContentFault f rd

/-- A check point is passed or fails its slot; after the last one the image is to be applied (R118, R788). -/
def Node.pointDone (n : Node) (o : Otp) (facts : ImageFacts) (spoilt : Bool) (last : Nat) : Node :=
  let fault := n.pointFault o facts spoilt
  if fault ≠ 0 then n.slotFails fault
  else if n.boot.point < last then { n with boot := { n.boot with point := n.boot.point + 1 } }
  else
    let k := n.setFld (Reg.IMG_SLOT_STAT n.boot.slot) Fld.IMG_SLOT_STAT_VALID 1
    { k with boot := { k.boot with phase := 2, facts := some facts } }

/-- IMAGE_CHECK_POINT: the load, which SC0 runs (R66), reaches its next check point (R788). `ecc` are the memory errors met since the last one: a
second uncorrectable one fails the section (R727); `bus` is a flash address at which a read ended in a bus error (R730). -/
def execImageCheckPoint (facts : ImageFacts) (ecc : List EccFact) (bus : Option Nat) (time : Nat) (s : State) :
    Host.Outcome State Fault Refusal :=
  .next (s.on fun n =>
    let m := n.at time
    if m.boot.phase ≠ 1 ∨ m.boot.engDown.contains 0 ∨ m.boot.bist ≠ 0 ∨ m.fld Reg.MEM_STAT Fld.MEM_STAT_STATE ≠ 2 then m
    else
      let rd := m.slotReader m.boot.slot
      let ss := imgDir rd (imgHead rd).count
      let reading := decide (m.boot.point < ss.length)
      let m := ecc.foldl (fun k e => k.ecc e) m
      let m := match bus with
        | some a => if reading then m.flashError 4 a else m
        | none => m
      let m := match ss[m.boot.point]? with
        | some x => m.chkImage (sectionBytes rd x) x.crc
        | none => m
      let spoilt := decide (2 ≤ (ecc.filter fun e => e.uncorrectable).length) || bus.isSome
      m.pointDone s.otp facts spoilt (ss.length + 2))

/-! ### Applying an image (R122) -/

/-- Ports that the image or R24 leaves unused are held in reset; a spine port of the other line reads as unused (R24, R86,
R192). -/
def Node.holdPorts (n : Node) : Node :=
  (List.range 12).foldl (fun m p =>
    let other := m.paired && decide (p < 4) && (p % 2 == 1) != m.roleB
    let m := if other then (m.setReg (Reg.SPN_IFTYPE p) 0#32).setReg (Reg.SPN_PREEMPT_STAT p) 0#32 else m
    if m.fld (Reg.SPN_IFTYPE p) Fld.SPN_IFTYPE_TYPE = 0 then m.setFld (Reg.SPN_STAT p) Fld.SPN_STAT_HELD 1 else m) n

/-- The power domains that the image leaves on (R83, R85). The image is that of a branch node without a sub-chain when it leaves
RA and RB unused and gives FA and FB the type of a branch link (R29; DEDUCED, log entry 102). -/
def Node.imageDomains (n : Node) : Node :=
  let type (p : Nat) : Nat := n.fld (Reg.SPN_IFTYPE p) Fld.SPN_IFTYPE_TYPE
  let used (p : Nat) : Bool := type p != 0
  let branch := (used 0 || used 1) && [0, 1].all fun p => type p == 0 || type p == 4
  let bits := [(4, !n.aud.elements.isEmpty || n.bits Reg.AUD_CFG 4 4 != 0), (5, true), (6, used 2 || used 3 || !branch),
    (7, (List.range 8).any fun p => used (4 + p)), (8, n.paired), (9, (List.range 6).any n.ctxPresent), (10, true),
    (11, (List.range 4).any fun c => n.bit (Reg.CAN_CFG c) 0)]
  bits.foldl (fun m b => m.setBit Reg.TOP_PD_STATE b.1 b.2) n

/-- The engines to which the image gives code start (R65); those of a domain that is off do not run, and one that has failed
stays stopped (R69). -/
def Node.startEngines (n : Node) (mask : Nat) : Node :=
  let on := (List.range 16).filter fun e => !n.boot.engDown.contains e && (e == 0 || (mask.testBit e && (decide (e < 2 ∨ 10 ≤ e) || n.bit Reg.TOP_PD_STATE 4)))
  let m := n.setReg Reg.TOP_ENG_RUN (word (on.foldl (fun a e => a + 2 ^ e) 0))
  m.setFld Reg.AUD_STAT Fld.AUD_STAT_RUNNING (b2n (m.bit Reg.TOP_ENG_RUN 1))

/-- The journal at the boot of an image (R654, R657): entries of the waiting state lose `VALID`, pending ones are abandoned,
corrupt ones marked; another share layout clears the journal. -/
def Node.bootJournal (n : Node) : Node :=
  let m := if n.boot.away.isEmpty then n
    else { n with host := { n.host with shares := n.boot.away }, boot := { n.boot with away := [] } }
  let layout := (List.range 8).map fun c => (m.reg (Reg.JRN_CTX_SIZE c)).toNat
  let total := layout.foldl (· + ·) 0
  let same := m.host.layout == layout
  let m := m.setReg Reg.JRN_CFG (word (total + b2n same * 65536))
  let m :=
    if same then
      (List.range 8192).foldl (fun k i =>
        if !k.jrnValid i then k
        else if k.bit (Reg.JRN_ENTRY i + 12) 18 then (k.setBit (Reg.JRN_ENTRY i + 12) 16 false).jrnSeal i
        else
          let k := if k.jrnWord i 15 = k.jrnCheck i then k else k.jrnMarkCorrupt i
          if k.jrnOutcome i = 0xFE then (k.setBits (Reg.JRN_ENTRY i + 4) 24 8 0xFF).jrnSeal i else k) m
    else
      let k := m.clearRegs (Reg.JRN_ENTRY 0) (Reg.JRN_ENTRY 8192)
      let k := (List.range 8).foldl (fun k c => k.setReg (Reg.JRN_CTX_ACK c) 0#32) k
      let k := { k with host := { k.host with shares := List.replicate 8 ⟨0, 0⟩ } }
      if m.host.layout.isEmpty then k else k.raise 0x7008 0 0
  let m := { m with host := { m.host with layout := layout } }
  (List.range 8).foldl (fun k c => k.syncJrn c) m

/-- Regions 1 and 2 of DRAM keep their contents when the image gives them the sizes they had; else every region is cleared
(R717). A library entry whose record is unchanged keeps its validity. -/
def Node.keepRegions (n : Node) : Node :=
  match n.boot.kept with
  | some k =>
    if k.lib = (n.reg (Reg.PLC_DRAM_SIZE 1)).toNat ∧ k.rec_ = (n.reg (Reg.PLC_DRAM_SIZE 2)).toNat then
      let again (e : LibEntry) : LibEntry :=
        match k.entries.find? fun x => x.id == e.id && x.format == e.format && x.rate == e.rate && x.samples == e.samples &&
            x.len == e.len && x.crc == e.crc && x.offset == e.offset with
        | some x => { e with valid := x.valid, unverified := x.unverified, written := x.written }
        | none => e
      let m := { n with aud := { n.aud with lib := n.aud.lib.map again, slots := k.slots } }
      (m.setFld Reg.MEM_STAT Fld.MEM_STAT_KEPT 1).syncLib
    else { n with mem := { n.mem with dram := [] } }
  | none => { n with mem := { n.mem with dram := [] } }

/-- The token at boot: SOLO at a single node, INIT at a node of a pair (R405, R412). -/
def Node.bootToken (n : Node) : Node :=
  let m := { n with par := { n.par with initAt := n.tm.raw } }
  if m.paired then (m.setFld Reg.PAR_TOKEN Fld.PAR_TOKEN_STATE tkInit).pulse m.tm.raw 2000000
  else m.setFld Reg.PAR_TOKEN Fld.PAR_TOKEN_STATE 3

/-- The image registers of the running image (R136, R137). -/
def Node.showImage (n : Node) : Node :=
  let h := imgHead (n.slotReader n.boot.slot)
  let m := n.setReg Reg.IMG_STATE (word (2 + n.boot.slot * 16 + b2n n.boot.failed.isSome * 32 + b2n n.boot.usedPref * 64 +
    h.flags % 2 * 128))
  let m := (m.setReg Reg.IMG_RUN_VER (word h.ver)).setReg Reg.IMG_RUN_ARC (word h.arc)
  let m := m.setBit Reg.IMG_KEY_STAT 4 (h.key == 1)
  m.setReg Reg.IMG_BOOT_TIME (word ((n.tm.raw - n.boot.released) / 1000))

/-- The reports of a boot (R118, R122, R185, R716, R723). -/
def Node.bootEvents (n : Node) : Node :=
  let m := match n.boot.failed with
    | some f => n.raise 0x1103 f.1 f.2
    | none => n
  let m := (m.raise 0x1002 m.boot.slot (m.reg Reg.IMG_RUN_VER).toNat).resetRecorded
  if m.fld Reg.PCR_RESET_CAUSE Fld.PCR_RESET_CAUSE_KIND ≠ 5 then m
  else
    let m := m.raise 0x8004 (m.reg Reg.PCR_WAKE_CAUSE).toNat (m.reg Reg.PCR_SLEEP_SEC).toNat
    let m := if m.bit Reg.PCR_WAKE_CAUSE 0 then m.raise 0x180B 0 0 else m
    let m := if m.bit Reg.PCR_WAKE_CAUSE 1 then m.raise 0x180B 2 0 else m
    m.startScript m.net.scriptExit

/-- The sections of the image are applied and the node enters LINK (R122). -/
def Node.applyImage (n : Node) (f : ImageFacts) : Node :=
  let rd := n.slotReader n.boot.slot
  let m := ((imgRecords rd).bind fun l => n.loadSections f l).getD n
  let m := ((m.holdPorts.imageDomains.startEngines f.engines).bootJournal).keepRegions
  let m := (List.range 13).foldl (fun k p => k.setBit Reg.PCR_PLL_STAT (6 + p)
    (if p < 12 then k.fld (Reg.SPN_IFTYPE p) Fld.SPN_IFTYPE_TYPE != 0 else k.paired)) m
  let m := (m.bootToken.showImage.reserve.syncRec).setFld Reg.INA_STATE Fld.INA_STATE_INTEROP
    (m.fld Reg.INA_CFG Fld.INA_CFG_INTEROP)
  let m := { m with boot := { m.boot with phase := 3 } }
  (m.setSt stLink).bootEvents

/-- IMAGE_BOOTED: the image that has passed every check is applied (R122). -/
def execImageBooted (time : Nat) (s : State) : Host.Outcome State Fault Refusal :=
  .next (s.on fun n =>
    let m := n.at time
    if m.boot.phase = 2 ∧ !m.boot.engDown.contains 0 then
      match m.boot.facts with
      | some f => m.applyImage f
      | none => m
    else m)

/-- BOOT_ATTEMPT_CLEAR: the node has run 60 s without a reset (R120). -/
def execBootAttemptClear (time : Nat) (s : State) : Host.Outcome State Fault Refusal :=
  .next (s.on fun n =>
    let m := n.at time
    if m.boot.phase = 3 ∧ m.boot.released + 60000000000 ≤ m.tm.raw then (m.setAttempts 0 0).setAttempts 1 0 else m)

/-! ### Image commands (R123 to R135) -/

/-- The wait of a slot command or a staging. -/
def waitFlash : Nat := 13

/-- A command of the image: none but `IMG_STATUS` runs when the DRAM has failed (R726). -/
def Node.imageCommand (n : Node) (c : Cmd) (nargs : Nat) (act : Node → Answer) : Node :=
  n.command c (.secure instImg) nargs fun m =>
    match act m with
    | .done k st res => if m.dramFailed ∧ st ≠ sArgs then .fail m sState else .done k st res
    | .wait k kind key aux => if m.dramFailed then .fail m sState else .wait k kind key aux

/-- IMG_STATUS (R133). -/
def execImgStatus (c : Cmd) (s : State) : Host.Outcome State Fault Refusal :=
  .next (s.runs c 0x0D01 fun n => n.command c (.secure instImg) 0 fun m => .done m sOk [m.reg Reg.IMG_STATE, m.reg Reg.IMG_TINT_STAT])

/-- R123: the slot that the running image came from is not touched unless the other slot holds an image that is valid, not
marked bad and not rolled back. -/
def Node.slotLocked (n : Node) (o : Otp) (slot : Nat) : Bool :=
  n.fld Reg.IMG_STATE Fld.IMG_STATE_STATE == 2 && n.fld Reg.IMG_STATE Fld.IMG_STATE_SLOT == slot &&
  !(n.fld (Reg.IMG_SLOT_STAT (1 - slot)) Fld.IMG_SLOT_STAT_VALID == 1 && !n.slotBad (1 - slot) &&
    decide (o.arc ≤ (imgHead (n.slotReader (1 - slot))).arc))

/-- A job of the flash or a staging begins; the command waits for it. -/
def Node.startJob (n : Node) (c : Cmd) (kind slot off : Nat) (data : List Byte) : Answer :=
  let m := { n with boot := { n.boot with jobs := n.boot.jobs ++ [⟨c.ctx, c.entry.seq, kind, slot, off, data⟩] } }
  .wait (if kind < 3 then m.setBit Reg.MEM_FLASH_STAT 16 true else m) waitFlash c.entry.seq []

/-- IMG_SLOT_ERASE (R116, R123). -/
def execImgSlotErase (c : Cmd) (s : State) : Host.Outcome State Fault Refusal :=
  .next (s.runs c 0x0D02 fun n => n.imageCommand c 1 fun m =>
    if 1 < arg c 0 then .fail m sArgs
    else if m.slotLocked s.otp (arg c 0) then .fail m sState
    else m.startJob c 0 (arg c 0) 0 [])

/-- The bytes of a source word, an address and a length; the staging buffer holds 32 MiB (R134). -/
def Node.imageSource (n : Node) (c : Cmd) (src lo hi len : Nat) : Option (List Byte) :=
  if src = 0 ∧ 2 ^ 25 < lo + hi * 2 ^ 32 + len then none else n.sourceBytes c src (lo + hi * 2 ^ 32) len

/-- IMG_SLOT_WRITE (R123, R134). -/
def execImgSlotWrite (c : Cmd) (s : State) : Host.Outcome State Fault Refusal :=
  .next (s.runs c 0x0D03 fun n => n.imageCommand c 6 fun m =>
    if 1 < arg c 0 ∨ slotImage < arg c 1 + arg c 2 then .fail m sArgs
    else match m.imageSource c (arg c 3) (arg c 4) (arg c 5) (arg c 2) with
      | none => .fail m sArgs
      | some bs => if m.slotLocked s.otp (arg c 0) then .fail m sState else m.startJob c 1 (arg c 0) (arg c 1) bs)

/-- IMG_SLOT_VERIFY (R123, R133). -/
def execImgSlotVerify (c : Cmd) (s : State) : Host.Outcome State Fault Refusal :=
  .next (s.runs c 0x0D04 fun n => n.imageCommand c 1 fun m =>
    if 1 < arg c 0 then .fail m sArgs else m.startJob c 2 (arg c 0) 0 [])

/-- IMG_SLOT_MARK_BAD (R135). -/
def execImgSlotMarkBad (c : Cmd) (s : State) : Host.Outcome State Fault Refusal :=
  .next (s.runs c 0x0D05 fun n => n.imageCommand c 1 fun m =>
    if 1 < arg c 0 then .fail m sArgs
    else if m.fld Reg.IMG_STATE Fld.IMG_STATE_STATE = 2 ∧ m.fld Reg.IMG_STATE Fld.IMG_STATE_SLOT = arg c 0 then .fail m sState
    else .done ((m.markBad (arg c 0) 0x21).raise 0x1109 (arg c 0) 0x21) sOk [])

/-- The oldest job ends: its command completes. -/
def Node.endJob (n : Node) (j : FlashJob) (status : Nat) (res : List Word) : Node :=
  let m := { n with boot := { n.boot with jobs := n.boot.jobs.drop 1 } }
  let m := m.setBit Reg.MEM_FLASH_STAT 16 (m.boot.jobs.any fun x => decide (x.kind < 3))
  m.finishWaits (fun w => w.kind == waitFlash && w.ctx == j.ctx && w.seq == j.seq) status res

/-- A slot's contents have changed: it is no longer verified, and `BAD` follows its status block. -/
def Node.slotChanged (n : Node) (slot : Nat) : Node :=
  ((n.setFld (Reg.IMG_SLOT_STAT slot) Fld.IMG_SLOT_STAT_VALID 0).setFld (Reg.IMG_SLOT_STAT slot) Fld.IMG_SLOT_STAT_BAD
    (b2n (n.slotBad slot))).slotShow slot

/-- FLASH_OPERATION_DONE: the erase or the programming at work ends, or exceeds twice its time (R123, R730): then what the range
holds is free. -/
def execFlashOperationDone (timedOut : Bool) (time : Nat) (s : State) : Host.Outcome State Fault Refusal :=
  .next (s.on fun n =>
    let m := n.at time
    match m.boot.jobs.head? with
    | some j =>
      let base := j.slot * slotSize + j.off
      let spoil (len : Nat) : Node :=
        let (k, bs) := m.freeBytes len
        let k := { k with mem := { k.mem with flash := Sparse.putAll (fun _ => 0xFF#8) k.mem.flash base bs } }
        ((k.slotChanged j.slot).flashError 3 base).endJob j sTimeout []
      if j.kind = 0 then
        if timedOut then spoil slotSize
        else ((m.flashErase j.slot).slotChanged j.slot).endJob j sOk []
      else if j.kind = 1 then
        if timedOut then spoil j.data.length
        else ((m.flashProgram base j.data).slotChanged j.slot).endJob j sOk []
      else m
    | none => m)

/-- The reason for which a verified slot fails, 0 when it is valid (R111, R133). -/
def Node.verifyFault (n : Node) (o : Otp) (f : ImageFacts) (rd : Reader) : Nat :=
  if headFault rd ≠ 0 then headFault rd
  else if !(imgDir rd (imgHead rd).count).all (crcOk rd) then 6
  else if sigFault o rd ≠ 0 then sigFault o rd
  else if fieldFault o rd ≠ 0 then fieldFault o rd
  else n.slotContentFault f rd

/-- The check engine sees the sections that a verification reads, up to the first that fails. -/
def Node.verifyChecks (n : Node) (rd : Reader) : Node :=
  if headFault rd ≠ 0 then n
  else
    let ss := imgDir rd (imgHead rd).count
    (ss.take ((ss.takeWhile (crcOk rd)).length + 1)).foldl (fun m x => m.chkImage (sectionBytes rd x) x.crc) n

/-- The tint in bytes that have passed every check. -/
def tintOf (rd : Reader) : Tint :=
  { tag := (imgHead rd).tag, seq := (imgHead rd).seq, sections := (imgRecords rd).getD [] }

/-- What `IMG_TINT_STAT` and `IMG_TINT_TAG` show with no tint staged: the last one committed since the reset (R139). -/
def Node.tintIdle (n : Node) : Node :=
  (n.setReg Reg.IMG_TINT_STAT (word (if n.boot.lastTag = 0 then 0 else 3 + n.boot.lastBits * 4))).setReg Reg.IMG_TINT_TAG
    (word n.boot.lastTag)

/-- Whether a tint carries MODES and STREAMS, as bits 0 and 1. -/
def Tint.bits (t : Tint) : Nat := b2n (t.sections.any fun x => x.1 == 0x10) + b2n (t.sections.any fun x => x.1 == 0x11) * 2

/-- A tint is staged; it replaces one that was staged before (R126). -/
def Node.stageTint (n : Node) (t : Tint) : Node :=
  ({ n with boot := { n.boot with tint := some t } }.setReg Reg.IMG_TINT_STAT (word (1 + t.bits * 4))).setReg Reg.IMG_TINT_TAG
    (word t.tag)

/-- IMAGE_VERIFY_DONE: a slot verification or the checks of a tint to be staged end (R125, R133). A staging that fails leaves a
tint staged earlier as it is, and TINT_REJECTED without a sound header gives tag 0 (DESIGN CHOICE, log entry 126). -/
def execImageVerifyDone (facts : ImageFacts) (bus : Option Nat) (time : Nat) (s : State) : Host.Outcome State Fault Refusal :=
  .next (s.on fun n =>
    let m := n.at time
    match m.boot.jobs.head? with
    | some j =>
      if j.kind = 2 then
        let rd := m.slotReader j.slot
        let k := match bus with
          | some a => m.flashError 4 a
          | none => m.verifyChecks rd
        let reason := match bus with
          | some a => if a % slotSize < 0x40 + 16 * 64 then 1 else 6
          | none => m.verifyFault s.otp facts rd
        let k := (k.slotShow j.slot).setFld (Reg.IMG_SLOT_STAT j.slot) Fld.IMG_SLOT_STAT_VALID (b2n (reason == 0))
        if reason = 0 then k.endJob j sOk []
        else (k.setFld (Reg.IMG_SLOT_STAT j.slot) Fld.IMG_SLOT_STAT_REASON reason).endJob j sArgs [word reason]
      else if j.kind = 3 then
        let rd := bytesReader j.data
        let k := m.verifyChecks rd
        let reason := m.tintFault s.otp facts rd
        if reason = 0 then
          if k.fld Reg.IMG_TINT_STAT Fld.IMG_TINT_STAT_STATE = 2 then k.endJob j sBusy []
          else (k.stageTint (tintOf rd)).endJob j sOk []
        else (k.raise 0x1205 (if headFault rd = 1 ∨ headFault rd = 2 then 0 else (imgHead rd).tag) reason).endJob j sArgs [word reason]
      else m
    | none => m)

/-- IMG_TINT_STAGE (R125, R126, R134). -/
def execImgTintStage (c : Cmd) (s : State) : Host.Outcome State Fault Refusal :=
  .next (s.runs c 0x0D06 fun n => n.imageCommand c 4 fun m =>
    match m.imageSource c (arg c 0) (arg c 2) (arg c 3) (arg c 1) with
    | none => .fail m sArgs
    | some bs =>
      if m.fld Reg.IMG_TINT_STAT Fld.IMG_TINT_STAT_STATE = 2 then .fail m sBusy
      else m.startJob c 3 0 0 bs)

/-- IMG_TINT_COMMIT (R127). A node outside RUN completes it with REJECT_STATE, as R247 gives of a mode switch (DESIGN CHOICE, log
entry 127). -/
def execImgTintCommit (c : Cmd) (s : State) : Host.Outcome State Fault Refusal :=
  .next (s.runs c 0x0D07 fun n => n.imageCommand c 2 fun m =>
    let held := m.tintStaged && m.reg Reg.IMG_TINT_TAG == argW c 0
    if 7 < arg c 1 ∨ (held ∧ m.tintModes ∧ 3 < arg c 1) then .fail m sArgs
    else if m.fld Reg.IMG_TINT_STAT Fld.IMG_TINT_STAT_STATE = 2 then .fail m sBusy
    else if !held ∨ m.st ≠ stRun then .fail m sState
    else m.askSwitch (arg c 1) 0 (arg c 0))

/-- IMG_TINT_DISCARD (R126, R139). -/
def execImgTintDiscard (c : Cmd) (s : State) : Host.Outcome State Fault Refusal :=
  .next (s.runs c 0x0D08 fun n => n.imageCommand c 0 fun m =>
    if m.fld Reg.IMG_TINT_STAT Fld.IMG_TINT_STAT_STATE = 2 then .fail m sBusy
    else .done { m with boot := { m.boot with tint := none } }.tintIdle sOk [])

/-- IMG_ROLLBACK_ADVANCE (R113): the OTP count becomes the argument. It never falls. -/
def execImgRollbackAdvance (c : Cmd) (s : State) : Host.Outcome State Fault Refusal :=
  if c.entry.opcode ≠ 0x0D09 then .next s else
  let n := (s.node.showOtp s.otp).imageCommand c 1 fun m =>
    if arg c 0 < s.otp.arc ∨ (m.reg Reg.IMG_RUN_ARC).toNat < arg c 0 ∨ 64 < arg c 0 then .fail m sArgs
    else if arg c 0 = s.otp.arc then .done m sOk []
    else .done ((m.setReg Reg.IMG_OTP_ARC (argW c 0)).raise 0x1008 (arg c 0) s.otp.arc) sOk []
  .next { s with node := n, otp := { s.otp with arc := max s.otp.arc (n.reg Reg.IMG_OTP_ARC).toNat } }

/-- IMG_RESTART (R117, R135). -/
def execImgRestart (c : Cmd) (s : State) : Host.Outcome State Fault Refusal :=
  .next (s.runs c 0x0D0A fun n => n.imageCommand c 1 fun m =>
    if 2 < arg c 0 then .fail m sArgs
    else .done ({ m with boot := { m.boot with pref := arg c 0 } }.warmIn 1000000 1) sOk [])

/-- IMG_KEY_REVOKE (R114): a revoke bit is never cleared. -/
def execImgKeyRevoke (c : Cmd) (s : State) : Host.Outcome State Fault Refusal :=
  if c.entry.opcode ≠ 0x0D0B then .next s else
  let n := (s.node.showOtp s.otp).imageCommand c 1 fun m =>
    let k := arg c 0
    if 1 < k then .fail m sArgs
    else if m.fld Reg.IMG_STATE Fld.IMG_STATE_STATE ≠ 2 ∨ m.bits Reg.IMG_KEY_STAT 4 1 = k ∨ !s.otp.keyFused (1 - k) ∨
        s.otp.keyRevoked (1 - k) then .fail m sState
    else .done (m.setBit Reg.IMG_KEY_STAT (2 + k) true) sOk []
  let bit (i : Nat) : Bool := n.bit Reg.IMG_KEY_STAT (2 + i)
  .next { s with node := n, otp := { s.otp with revoked0 := s.otp.revoked0 || bit 0, revoked1 := s.otp.revoked1 || bit 1 } }

/-! ### The commit of a tint (R130) -/

/-- At the boundary at which the new mode starts the staged tint with the announced tag takes effect (R130). -/
def Node.commitTint (n : Node) (tag cyc : Nat) : Node :=
  match n.boot.tint with
  | some t =>
    if t.tag ≠ tag ∨ tag = 0 then n
    else
      let modes := t.bits != 0
      let m := if modes then
          let keep := n.cyc.modes.filter fun (x : Mode) => decide (x.num < 4)
          let k := (List.range 4).foldl (fun k i => k.setRegs (Reg.CYC_MD_STAT (4 + i)) (List.replicate 6 0#32)) n
          { k with cyc := { k.cyc with modes := keep } } else n
      let m := m.tintApply t.sections
      let m := { m with boot := { m.boot with tint := none, lastTag := tag, lastBits := t.bits, tintCyc := cyc % 2 ^ 32 } }
      let m := ((m.tintIdle.setReg Reg.IMG_TINT_SEQ (word t.seq)).setReg Reg.IMG_TINT_CYCLE (word cyc)).raise 0x1006 tag t.seq
      m.reserve
  | none => n

end Sys2Proof.Machine
end

