-- ==== Sys2Proof/Machine/Boundary.lean ====
section
/-! DEFINITION. The boundary at which a cycle begins (R199): what the cycle before showed (R210, R251), the outcome of a switch
and the switch itself (R237 to R244), the epoch commit (R277 to R280) with what follows from it, the master's announcements,
REF (R205, R206) and TOPO_RESULT (R276). -/

namespace Sys2Proof.Machine

/-! ### The cycle that ends (R210, R251) -/

/-- A node that follows a master. -/
def Node.follows (n : Node) : Bool := decide (stIntegrate ≤ n.st) && !n.master

/-- A cycle without a REF on a line that carried none is counted for that line, in half of `CYC_REF_LINE_MISS`. -/
def Node.lineMiss (n : Node) (lo : Nat) (seen : Bool) : Node :=
  if seen || !n.follows then n
  else n.setBits Reg.CYC_REF_LINE_MISS lo 16 (min (n.bits Reg.CYC_REF_LINE_MISS lo 16 + 1) 0xFFFF)

/-- Cycle `c` begins: its number is shown, and the REFs of the cycle before. -/
def Node.beginCycle (n : Node) (c : Nat) : Node :=
  let a := n.cyc.seenA
  let b := n.cyc.seenB
  let m := (n.lineMiss 0 a).lineMiss 16 b
  let m := (m.setReg Reg.CYC_NUM_LO (word c)).setReg Reg.CYC_NUM_HI (word (c / 2 ^ 32))
  let m := (m.setFld Reg.CYC_STATE Fld.CYC_STATE_REF_A (b2n a)).setFld Reg.CYC_STATE Fld.CYC_STATE_REF_B (b2n b)
  let m := m.setFld Reg.CYC_STATE Fld.CYC_STATE_HOLDOVER (b2n (n.follows && !a && !b))
  { m with cyc := { m.cyc with
    cur := c, seenA := false, seenB := false
    pendingNodes := m.cyc.pendingNodes.filter fun (x : Nat × Nat) => decide (c ≤ x.2 + 1) } }

/-! ### The master's part in a switch (R237 to R240, R282) -/

/-- The master aborts its switch: it acts as every node does (R242), repeats state 3 in its REFs up to the switch cycle, and
the command that asked for it completes (R247). -/
def Node.masterAbort (n : Node) (reason : Nat) : Node :=
  match n.cyc.switch with
  | some w =>
    let m := n.abortSwitch reason
    let m := { m with cyc := { m.cyc with switch := some { w with state := 3, reason := reason }, abort := 0 } }
    m.finishWaits (fun x => x.kind == 5 && x.key == w.cyc) sOk []
  | none => n

/-- The reason for which the master aborts an announced switch at the boundary of cycle `c`, 0 for none (R240, R242, R282). -/
def Node.abortReason (n : Node) (w : Switch) (c : Nat) : Nat :=
  if n.cyc.abort ≠ 0 then n.cyc.abort
  else if n.ina.announced.any (fun k => decide (w.cyc ≤ k.cyc)) then 3
  else if !(n.cyc.modes.any fun m => m.num == w.target && n.usable m) then 5
  else if w.cyc ≤ c + 1 ∧ !(n.cyc.set.all fun x => n.cyc.acks.contains x) then 1
  else 0

/-- What the master's switch becomes at the boundary of cycle `c`: aborted, confirmed at t_(C-1), or still announced. -/
def Node.switchOutcome (n : Node) (c : Nat) : Node :=
  match n.cyc.switch with
  | some w =>
    if !n.master || w.state != 1 then n
    else if w.announcer ≠ n.identity then n.abortSwitch 4
    else
      let why := n.abortReason w c
      if why ≠ 0 then n.masterAbort why
      else if w.cyc ≤ c + 1 then n.putSwitch { w with state := 2 } else n
  | none => n

/-- The nodes whose status frames of the last two cycles the master has received, and the master itself (R238). -/
def Node.switchSet (n : Node) (c : Nat) : List Nat :=
  let recent (x : StatusRec) : Bool := (x.cycle + 1) % 2 ^ 32 == c % 2 ^ 32 || (x.cycle + 2) % 2 ^ 32 == c % 2 ^ 32
  n.num :: (((n.cyc.status.filter recent).map (·.node)).eraseDups.filter fun k => k != n.num && n.ina.table.any fun e => e.num == k)

/-- The master announces the request it has accepted in the REF of cycle `c` (R237, R282). What speaks against the switch at
the master aborts it from the next REF on (R240, R242). -/
def Node.announceRequest (n : Node) (c : Nat) : Node :=
  match n.cyc.request with
  | none => n
  | some q =>
    if !n.master then { n with cyc := { n.cyc with request := none } }
    else
      let first := c + n.fld Reg.CYC_CFG Fld.CYC_CFG_LEAD
      let asked := if q.earliest = 0 then first else max first (extend32 c q.earliest)
      let at_ := match n.ina.announced with
        | some x => max asked (x.cyc + 4)
        | none => asked
      let set := n.switchSet c
      let k : Node := { n with cyc := { n.cyc with switch := none, request := none } }
      let m : Node := k.announceSwitch q.target at_ q.tint n.identity
      let acked : Bool := m.cyc.switch.any fun w => w.acked
      let acks := if acked then [m.num] else []
      let ok : Bool := m.cyc.modes.any fun x => x.num == q.target && m.usable x
      let m : Node := { m with cyc := { m.cyc with set := set, acks := acks, abort := if !acked then 2 else if ok then 0 else 5 } }
      let m := m.setReg Reg.CYC_SWITCH_SET (word (set.length + acks.length * 65536))
      if q.node = 0 then m else m.answerMode q 0 at_

/-! ### Streams that a node declares itself (R350, R373) -/

/-- The streams of this node that it declares: those of a pair source by the token holder. -/
def Node.ownDeclared (n : Node) (sel : Strm → Bool) : List Nat :=
  n.validStreams.filter fun s => n.ownStream (n.strm s) && (!(n.strm s).pair || n.holder) && sel (n.strm s)

/-- Streams declared, in ascending stream ID. -/
def Node.declareAll (n : Node) (ss : List Nat) : Node :=
  ss.foldl (fun m s => (m.request 1 s 0 ({ m.strm s with state := 0, admSeq := 0, reason := 0 } : Strm).words).1) n

/-- The streams of the image that are not placed by it are declared. -/
def Node.declareImage (n : Node) : Node :=
  n.declareAll ((n.ownDeclared fun e => !e.fixed && e.state == 0).filter n.boot.streams.contains)

/-- A joiner's stream table starts anew: the entries that another train's placer admitted are gone, and the streams of this
node are declared again (R279, R373). -/
def Node.joinAgain (n : Node) : Node :=
  let m := n.declareAll (n.ownDeclared fun _ => true)
  let gone := m.validStreams.filter fun s => !(m.strm s).fixed && !m.boot.streams.contains s
  let m := gone.foldl (fun k s => k.setStream s noStrm []) m
  { m with plc := { m.plc with placed := m.plc.placed.filter fun (p : Placed) => p.stream == 0 } }.reserve

/-! ### The switch (R241) -/

/-- Streams that the switch to a placer mode makes active at this node (R367). -/
def Node.goesActive (n : Node) : List Nat :=
  n.plc.announcedStreams.filter fun s => (n.strm s).valid && (n.strm s).state == 1

/-- A full re-placement starts at the master (R130, R370). -/
def Node.startReplacement (n : Node) : Node := if n.master then n.setFld Reg.PLC_STATE Fld.PLC_STATE_BUSY 1 else n

/-- A staged tint whose commit has been announced takes effect; one that replaced MODES or STREAMS starts a full re-placement,
and its streams are declared (R130, R370). -/
def Node.switchTint (n : Node) (w : Switch) : Node :=
  if w.tint ≠ 0 ∧ n.fld Reg.IMG_TINT_STAT Fld.IMG_TINT_STAT_STATE = 2 ∧ (n.reg Reg.IMG_TINT_TAG).toNat = w.tint then
    let bits := (n.boot.tint.map (·.bits)).getD 0
    let m := n.commitTint w.tint w.cyc
    if bits = 0 then m else m.declareImage.startReplacement
  else n

/-- The node switches to the target mode, its staged tint with it (R130, R241). A node that does not hold the mode stays in
its own, and finds the mismatch with the next REF (R244). -/
def Node.takeSwitch (n : Node) (w : Switch) : Node :=
  let m := { n with cyc := { n.cyc with switch := none } }
  let m := if m.master then m.setFld Reg.CYC_MODE_NEXT Fld.CYC_MODE_NEXT_STATE 0 else m
  if !m.holds w.target then m
  else
    let old := m.mode
    let m := (m.setFld Reg.CYC_STATE Fld.CYC_STATE_CUR w.target).raise 0x2005 w.target w.cyc
    let m := m.switchTint w
    let active := m.goesActive
    if 4 ≤ w.target then active.foldl (fun k s => k.dsActivate s) (m.placerSwitched w.cyc)
    else if 4 ≤ old then m.imageSwitched w.target
    else m

/-- The switch held takes effect at its cycle, unless it was aborted (R241). -/
def Node.switchDue (n : Node) (c : Nat) : Node :=
  match n.cyc.switch with
  | some w =>
    if c < w.cyc then n
    else if w.state = 3 then
      { n.setFld Reg.CYC_MODE_NEXT Fld.CYC_MODE_NEXT_STATE 0 with cyc := { n.cyc with switch := none } }
    else n.takeSwitch w
  | none => n

/-- A mode mismatch ends with the adoption of the REF's mode (R244). -/
def Node.adoptMode (n : Node) : Node :=
  match n.cyc.adopt with
  | some m => { n.setFld Reg.CYC_STATE Fld.CYC_STATE_CUR m with cyc := { n.cyc with adopt := none } }
  | none => n

/-! ### The commit (R278 to R280, R361, R372, R373) -/

/-- The status placement of the numbering takes effect; without its own part the node mutes and asks for it (R361). -/
def Node.statusCommit (n : Node) : Node :=
  let placed := n.plc.placed.filter (fun (p : Placed) => p.stream != 0) ++ n.plc.nextStatus
  let m := { n with plc := { n.plc with placed := placed, nextStatus := [] } }
  if m.plc.statusEpoch = some m.epoch then m else (m.askResend 0).enterMute

/-- A node number of the numbering before a commit as the same node has it now, 0 for a node that has left (R282). -/
def Node.renumber (n : Node) (before : List NumEntry) (num : Nat) : Nat :=
  (((before.find? fun e => e.num == num).bind fun e => n.entryOf e.identity).map (·.num)).getD 0

/-- A switch that goes on over a commit is kept by node, not by number (R282). -/
def Node.renumberSwitch (n : Node) (before : List NumEntry) : Node :=
  let new (l : List Nat) : List Nat := (l.map (n.renumber before)).filter (· != 0)
  { n with cyc := { n.cyc with
    set := new n.cyc.set, acks := new n.cyc.acks
    request := n.cyc.request.map fun q => if q.node = 0 then q else { q with node := n.renumber before q.node }
    toSend := n.cyc.toSend.map fun q => { q with node := n.num } } }

/-- What follows from a commit at a node that has taken the numbering: `before` is the numbering it had, `initial` and
`joiner` what the commit is to it. -/
def Node.afterCommit (n : Node) (before : List NumEntry) (initial joiner : Bool) : Node :=
  let came := if initial then [] else (n.ina.table.map (·.identity)).filter fun i => !before.any fun e => e.identity == i
  let m := { n with
    cyc := { n.cyc with status := [], polls := [] }
    plc := { n.plc with censusDue := true, joiners := came } }
  let m := (m.renumberSwitch before).statusCommit.storeAtCommit.resolveAll
  let m := if initial then
      (m.setFld Reg.PLC_STATE Fld.PLC_STATE_BASE (m.fld Reg.INA_CFG Fld.INA_CFG_START)).declareImage
    else if joiner then m.joinAgain else m
  let m := if m.master && !m.plc.staging.isEmpty then m.restage else m
  m.pairCommit.callCommit

/-- The commit that this node awaits: the master its own, another node the one that REF announces; a master that has given up
still holds the one it announced (R278). -/
def Node.commitAwaited (n : Node) : Option (Nat × Nat) :=
  if n.master then n.ina.announced.map fun k => (k.epoch, k.cyc)
  else n.ina.refCommit <|> n.ina.announced.map fun k => (k.epoch, k.cyc)

/-- An announced commit takes effect at its cycle (R278). -/
def Node.commitDue (n : Node) (c : Nat) : Node :=
  match n.commitAwaited with
  | some (epoch, at_) =>
    if c < at_ then n
    else match n.heldCommit epoch with
      | some (k, _) =>
        let m := n.commitNow epoch
        m.afterCommit n.ina.table k.initial m.ina.joiner
      | none => n.commitNow epoch
  | none => n

/-- The master announces the numbering it holds in the REF of cycle `c` (R277): it is numbered by it, its command completes
(R290), and a switch announced before is aborted by `switchOutcome`. -/
def Node.announceCommit (n : Node) : Node :=
  match n.ina.announced with
  | some k =>
    if !n.master || n.bit Reg.INA_COMMIT 16 then n
    else
      let m := (n.setReg Reg.INA_COMMIT (word (k.epoch + 65536 + b2n k.initial * 2 ^ 17))).setReg Reg.INA_COMMIT_CYC (word k.cyc)
      let m := { m with ina := { m.ina with result := some k, joiner := m.st != stRun } }
      let m := if m.st = stIntegrate then m.setSt stNumbered else m
      if m.ina.leadReq.isSome then m
      else m.ina.leadBy.foldl (fun q b => q.answerOp b.1 b.2 0 k.cyc) { m with ina := { m.ina with leadBy := [] } }
  | none => n

/-! ### What the master sends (R205, R206, R276, R291) -/

/-- The mode that REF names: before the first commit of a cold start the start mode (R279). -/
def Node.refModeOut (n : Node) : Nat :=
  if n.st < stRun ∧ n.ina.coldStart then n.fld Reg.INA_CFG Fld.INA_CFG_START else n.mode

/-- The payload of the REF of cycle `c` (R206). Without a switch the next mode is a free value. -/
def Node.refOut (n : Node) (c : Nat) : Node × RefInfo :=
  let (m, w) := n.free
  let open_ : Option Switch := n.cyc.switch
  let op (k : Nat) : Option TrainOp := n.ina.op.filter fun o => o.op == k
  (m, { cyc := c, sec := secOf n.trainNs, ns := nsOf n.trainNs, code := n.fld Reg.CYC_CFG Fld.CYC_CFG_CODE,
        mode := n.refModeOut, next := (open_.map (·.target)).getD (w.toNat % 8), state := (open_.map (·.state)).getD 0,
        reason := (open_.map fun x => if x.state = 3 then x.reason else 0).getD 0,
        swCyc := (open_.map (·.cyc)).getD 0 % 2 ^ 32, tint := (open_.map (·.tint)).getD 0, master := n.identity,
        rank := n.fld Reg.INA_CFG Fld.INA_CFG_RANK, holdover := n.ina.holdRef, commit := n.ina.announced.isSome,
        reset := (op 3).isSome, snapshot := (op 4).isSome, epoch := (n.ina.announced.map (·.epoch)).getD 0,
        commitCyc := (n.ina.announced.map (·.cyc)).getD 0 % 2 ^ 32, opCyc := (n.ina.op.map (·.cyc)).getD 0 % 2 ^ 32,
        opOff := (n.ina.op.map (·.offset)).getD 0 })

/-- The master sends REF of cycle `c`, the TOPO_RESULT of the commit announced, or of the one that takes effect in this cycle,
and the answers that it repeats (R205, R276, R291). -/
def Node.masterSend (n : Node) (c : Nat) (done : Option Commit) : Node :=
  if !n.master || decide (c < n.ina.firstRef) then n
  else
    let (m, f) := n.refOut c
    let m := m.broadcast { m.hdr 0x0 with seq := c % 65536, lastFrag := true } (encodeRef f)
    let m := ((m.ina.announced <|> done).map m.sendResult).getD m
    let keep := m.ina.answers.filter fun (a : Nat × Nat × Nat × Nat) => decide (c ≤ a.2.2.2)
    let m := { m with ina := { m.ina with answers := keep } }
    keep.foldl (fun q a => q.answerOut (a.1, a.2.1, a.2.2.1, a.2.2.2 % 2 ^ 32)) m

/-- An announced operation whose cycle has passed is over (R292). -/
def Node.opOver (n : Node) (c : Nat) : Node :=
  match n.ina.op with
  | some o => if o.cyc < c then { n with ina := { n.ina with op := none } } else n
  | none => n

/-! ### The boundary -/

/-- The registers of every mode follow what holds now (R249, R253). -/
def Node.showModes (n : Node) : Node := (n.cyc.modes.foldl Node.showMode n).syncTxlist

/-- Cycle `c` begins (R199). What an error had hit has been rewritten from its source (R73). -/
def Node.boundary (n : Node) (c : Nat) : Node :=
  let n := { n with mem := { n.mem with absent := [] } }
  let m := ((n.serveAll.beginCycle c).switchOutcome c).switchDue c
  let done := m.ina.announced.filter fun k => decide (k.cyc ≤ c)
  let m := (m.adoptMode.commitDue c).announceCommit
  let m := ((m.announceRequest c).opOver c).masterSend c done
  let m := m.bleedOver
  m.showModes.pairBoundary.settleDecls

/-- CYCLE_BOUNDARY: train time reaches t_n (R199). -/
def execCycleBoundary (time : Nat) (s : State) : Host.Outcome State Fault Refusal :=
  .next (s.on fun n =>
    let m := n.at time
    if m.cycleNow = m.cyc.cur then m else m.boundary m.cycleNow)

end Sys2Proof.Machine
end

