-- ==== Sys2Proof/Machine/Hosts.lean ====
section
/-! DEFINITION. Hosts (chapter 15): ring registers and doorbells, the fetch of a command with its checks, host frames, frame
rings, context resets, the PCIe link, and the node and journal commands. -/

namespace Sys2Proof.Machine

/-! ### Context reset (R626, R645) -/

/-- A context reset starts: the node stops fetching for the context; what is fetched runs on, and posts nothing (R645). -/
def Node.ctxResetStart (n : Node) (c cause : Nat) : Node :=
  if !n.ctxPresent c || n.ctxResetting c then n
  else
    let hush (f : Flight) : Flight := if f.ctx == c then { f with silent := true, dups := [] } else f
    let m := n.setBit (Reg.HST_CTX_STAT c) 1 true
    { m with host := { m.host with
        resets := m.host.resets ++ [(c, cause)],
        flight := m.host.flight.map hush,
        waits := m.host.waits.filter (fun (w : Wait) => !(w.ctx == c && w.kind == waitDup)),
        frameCmds := m.host.frameCmds.filter fun x => x.1 != c } }

/-- The rings of a context and what belongs to them are cleared, with its subscription to events (R645, R673). -/
def Node.clearRings (n : Node) (c : Nat) : Node :=
  let base := Reg.HST_CTX_CFG c
  let m := (((n.clearRegs (base + 0x0C) (base + 0x14)).clearRegs (base + 0x20) (base + 0x34)).clearRegs (base + 0x100)
    (base + 0x200)).clearRegs (base + 0x300) (base + 0x328)
  let m := (m.clearRegs (0x00180100 + c * 0x10) (0x00180108 + c * 0x10)).setBit (Reg.HST_CTX_STAT c) 3 false
  { m with host := { m.host with
      phase0 := m.host.phase0.filter (fun (x : Nat × Nat) => x.1 != c),
      coalesce := m.host.coalesce.filter (fun (e : Coalesce) => e.ctx != c),
      held := m.host.held.filter (fun (e : HeldEntry) => e.ctx != c),
      evqLost := m.host.evqLost.filter (fun (x : Nat × Nat) => x.1 != c),
      stopped := m.host.stopped.filter fun (x : Nat × Nat) => x.1 != c } }

/-- The TSQ of a context is emptied and its lost count zeroed (R328). -/
def Node.clearTsq (n : Node) (c : Nat) : Node :=
  match n.tsqOf c with
  | some q => { n with tm := { n.tm with tsqs := modifyAt n.tm.tsqs q fun _ => Tsq.reset } }.syncTsq q
  | none => n

/-- The wait of `CTX_RESET`. -/
def waitCtxReset : Nat := 14

/-- A context reset completes (R645). -/
def Node.ctxResetEnd (n : Node) (c cause : Nat) : Node :=
  let m := (((n.clearRings c).clearTsq c).canCtxReset c).brgCtxReset c
  let m := m.setBit (Reg.HST_CTX_STAT c) 1 false
  let m := { m with host := { m.host with resets := m.host.resets.filter fun (x : Nat × Nat) => x.1 != c } }
  (m.raise 0x7002 c cause).finishWaits (fun w => w.kind == waitCtxReset && w.key == c) sOk []

/-- CONTEXT_RESET: a context reset in progress completes (R645). -/
def execContextReset (ctx time : Nat) (s : State) : Host.Outcome State Fault Refusal :=
  .next (s.on fun n =>
    let m := n.at time
    match m.host.resets.find? fun x => x.1 == ctx with
    | some x => m.ctxResetEnd ctx x.2
    | none => m)

/-- HC0 to HC3 lose the PCIe link: each is reset, with its MSI-X table (R626, R669). -/
def Node.pcieDown (n : Node) : Node :=
  [0, 1, 2, 3].foldl (fun m c => ((m.setBit (Reg.HST_CTX_STAT c) 2 false).msixReset c).ctxResetStart c 4) (n.setReg Reg.HST_PCIE_STAT 0#32)

/-- PCIE_FUNCTION_LEVEL_RESET (R626). -/
def execPcieFunctionLevelReset (fn : Nat) (s : State) : Host.Outcome State Fault Refusal :=
  .next (s.on fun n => if fn < 4 then (n.msixReset fn).ctxResetStart fn 3 else n)

/-- PCIE_LINK_DOWN (R626). -/
def execPcieLinkDown (time : Nat) (s : State) : Host.Outcome State Fault Refusal :=
  .next (s.on fun n => (n.at time).pcieDown)

/-- PCIE_PERST: the endpoint is held in reset, which acts as a link loss (R773). -/
def execPciePerst (time : Nat) (s : State) : Host.Outcome State Fault Refusal :=
  .next (s.on fun n => (n.at time).pcieDown)

/-- PCIE_LINK_UP: the link has trained; `width` is 1, 2 or 4, `rate` 1 to 3 as `HST_PCIE_STAT` shows it, and bit f of `fns`
says that the host has enabled function f (R625, R660). -/
def execPcieLinkUp (width rate fns time : Nat) (s : State) : Host.Outcome State Fault Refusal :=
  .next (s.on fun n =>
    let m := (n.at time).setReg Reg.HST_PCIE_STAT (word (1 + width % 8 * 2 + rate % 4 * 16))
    [0, 1, 2, 3].foldl (fun k c => k.setBit (Reg.HST_CTX_STAT c) 2 (fns.testBit c)) m)

/-- HOST_DMA_ERROR: the ring concerned stops until its context is reset; rings 0 to 3 are submission rings, 5 is FTX, 6 FRX
(R626). -/
def execHostDmaError (ctx ring cause time : Nat) (s : State) : Host.Outcome State Fault Refusal :=
  .next (s.on fun n =>
    let m := n.at time
    if 4 ≤ ctx ∨ !m.ctxPresent ctx ∨ 7 ≤ ring then m
    else
      let k := m.setBit (Reg.HST_CTX_STAT ctx) 3 true
      let k := { k with host := { k.host with
        stopped := if k.host.stopped.contains (ctx, ring) then k.host.stopped else k.host.stopped ++ [(ctx, ring)] } }
      k.raise 0x7105 (ctx + ring * 16) cause)

/-! ### Ring registers (R631, R632, R643) -/

/-- A doorbell or ring size is turned away: DOORBELL_ERROR (R631, R632). -/
def Node.doorbellError (n : Node) (c ring : Nat) (v : Word) : Node := n.raise 0x7103 (c + ring * 16) v.toNat

/-- A doorbell: an index below the size of an enabled ring, else dropped and reported (R632); with SC0 failed it is ignored
(R68). -/
def Node.doorbell (n : Node) (c ring size addr : Nat) (v : Word) : Node :=
  if n.engFailed 0 then n
  else if v.toNat < (n.reg size).toNat then n.setReg addr v else n.doorbellError c ring v

/-- The sizes allowed: for a PCIe ring a power of two from 16 to 1,024, for a frame ring 16 to 1,024, for an SPI ring a power
of two from 16 to `spiMax` (R631, R643). -/
def ringSizeOk (c : Nat) (frames : Bool) (spiMax size : Nat) : Bool :=
  let pow2 := [16, 32, 64, 128, 256, 512, 1024].contains size
  if frames then decide (16 ≤ size) && decide (size ≤ 1024)
  else if c < 4 then pow2 else pow2 && decide (size ≤ spiMax)

/-- A write of a ring size register (R631): dropped for an enabled ring, and for a size not allowed with a report. -/
def Node.ringSize (n : Node) (c ring addr : Nat) (frames : Bool) (spiMax : Nat) (v : Word) : Node :=
  let size := v.toNat % 2048
  if n.reg addr ≠ 0#32 ∨ size = 0 then n
  else if ringSizeOk c frames spiMax size then n.setReg addr (word size) else n.doorbellError c ring v

/-- A write of a ring base register: dropped for an enabled ring; only PCIe rings have a base (R631, R660). -/
def Node.ringBase (n : Node) (c size addr : Nat) (v : Word) : Node :=
  if 4 ≤ c ∨ n.reg size ≠ 0#32 then n else n.setReg addr v

/-- A write of one of the registers of a ring pair (R660). -/
def Node.pairWrite (n : Node) (c r off : Nat) (v : Word) : Node :=
  let has := decide (r < n.fld (Reg.HST_CTX_CFG c) Fld.HST_CTX_CFG_RINGS)
  if off = 0x0C then n.doorbell c r (Reg.HST_SQ_SIZE c r) (Reg.HST_SQ_TAIL c r) v
  else if off = 0x20 then n.doorbell c r (Reg.HST_CQ_SIZE c r) (Reg.HST_CQ_HEAD c r) v
  else if !has then n
  else if off = 0x00 then n.ringBase c (Reg.HST_SQ_SIZE c r) (Reg.HST_SQ_BASE_LO c r) v
  else if off = 0x04 then n.ringBase c (Reg.HST_SQ_SIZE c r) (Reg.HST_SQ_BASE_HI c r) v
  else if off = 0x08 then n.ringSize c r (Reg.HST_SQ_SIZE c r) false 64 v
  else if off = 0x14 then n.ringBase c (Reg.HST_CQ_SIZE c r) (Reg.HST_CQ_BASE_LO c r) v
  else if off = 0x18 then n.ringBase c (Reg.HST_CQ_SIZE c r) (Reg.HST_CQ_BASE_HI c r) v
  else if off = 0x1C then n.ringSize c r (Reg.HST_CQ_SIZE c r) false 128 v
  else if off = 0x28 then n.setReg (Reg.HST_CQ_IRQ c r) (v &&& 0xFFFFFF#32)
  else n

/-- A write of one of the frame ring registers (R643, R660); a context without frame rings has none to size. -/
def Node.frameRingWrite (n : Node) (c off : Nat) (v : Word) : Node :=
  let has := n.fld (Reg.HST_CTX_CFG c) Fld.HST_CTX_CFG_FRAMES == 1
  if off = 0x0C then n.doorbell c 5 (Reg.HST_FTX_SIZE c) (Reg.HST_FTX_TAIL c) v
  else if off = 0x20 then n.doorbell c 6 (Reg.HST_FRX_SIZE c) (Reg.HST_FRX_TAIL c) v
  else if !has then n
  else if off = 0x00 then n.ringBase c (Reg.HST_FTX_SIZE c) (Reg.HST_FTX_BASE_LO c) v
  else if off = 0x04 then n.ringBase c (Reg.HST_FTX_SIZE c) (Reg.HST_FTX_BASE_HI c) v
  else if off = 0x08 then n.ringSize c 5 (Reg.HST_FTX_SIZE c) true 0 v
  else if off = 0x14 then n.ringBase c (Reg.HST_FRX_SIZE c) (Reg.HST_FRX_BASE_LO c) v
  else if off = 0x18 then n.ringBase c (Reg.HST_FRX_SIZE c) (Reg.HST_FRX_BASE_HI c) v
  else if off = 0x1C then n.ringSize c 6 (Reg.HST_FRX_SIZE c) true 0 v
  else n

/-- A write of a register of a context in HST (R660): dropped for an absent context, and for a ring register while a context
reset runs (R621, R645). `hw` are the interrupt bits set in the same cycle (R10). -/
def Node.hstWrite (n : Node) (addr : Nat) (v hw : Word) : Node :=
  let c := (addr - 0x03400000) / 0x400
  let off := (addr - 0x03400000) % 0x400
  if !n.ctxPresent c then n
  else if off = 0x08 then if v.toNat.testBit 0 then n.ctxResetStart c 1 else n
  else if off = 0x0C then n.plainWrite addr v hw
  else if off = 0x10 then n.setReg addr (v &&& 0x1FF#32)
  else if n.ctxResetting c then n
  else if off = 0x20 then n.ringBase c (Reg.HST_EVQ_SIZE c) addr v
  else if off = 0x24 then n.ringBase c (Reg.HST_EVQ_SIZE c) addr v
  else if off = 0x28 then n.ringSize c 4 addr false 128 v
  else if off = 0x2C then n.doorbell c 4 (Reg.HST_EVQ_SIZE c) addr v
  else if 0x100 ≤ off ∧ off < 0x200 then n.pairWrite c ((off - 0x100) / 0x40) ((off - 0x100) % 0x40) v
  else if 0x300 ≤ off then n.frameRingWrite c (off - 0x300) v
  else n

/-- A host writes a register of a context in HST. -/
def Node.hstAccess (n : Node) (ctx addr : Nat) (v : Word) : Node := n.access ctx addr true fun m => m.hstWrite addr v 0#32

/-- SQ_TAIL_DOORBELL (R632). -/
def execSqTailDoorbell (ctx ring : Nat) (v : Word) (s : State) : Host.Outcome State Fault Refusal :=
  .next (s.on fun n => if 4 ≤ ring then n else n.hstAccess ctx (Reg.HST_SQ_TAIL ctx ring) v)

/-- CQ_HEAD_DOORBELL (R632). -/
def execCqHeadDoorbell (ctx ring : Nat) (v : Word) (s : State) : Host.Outcome State Fault Refusal :=
  .next (s.on fun n => if 4 ≤ ring then n else n.hstAccess ctx (Reg.HST_CQ_HEAD ctx ring) v)

/-- EVQ_HEAD_DOORBELL (R632). -/
def execEvqHeadDoorbell (ctx : Nat) (v : Word) (s : State) : Host.Outcome State Fault Refusal :=
  .next (s.on fun n => n.hstAccess ctx (Reg.HST_EVQ_HEAD ctx) v)

/-- Whether an address is a ring size register of HST. -/
def isRingSize (addr : Nat) : Bool :=
  let off := (addr - 0x03400000) % 0x400
  decide (0x03400000 ≤ addr) && decide (addr < 0x03402000) &&
  (off == 0x28 || off == 0x308 || off == 0x31C ||
   (decide (0x100 ≤ off) && decide (off < 0x200) && (off % 0x40 == 8 || off % 0x40 == 0x1C)))

/-- RING_SIZE_WRITE: a write of a ring size register (R631). -/
def execRingSizeWrite (ctx addr : Nat) (v : Word) (s : State) : Host.Outcome State Fault Refusal :=
  .next (s.on fun n => if isRingSize addr then n.hstAccess ctx addr v else n)

/-- FTX_TAIL_DOORBELL (R643). -/
def execFtxTailDoorbell (ctx : Nat) (v : Word) (s : State) : Host.Outcome State Fault Refusal :=
  .next (s.on fun n => n.hstAccess ctx (Reg.HST_FTX_TAIL ctx) v)

/-- FRX_TAIL_DOORBELL (R643). -/
def execFrxTailDoorbell (ctx : Nat) (v : Word) (s : State) : Host.Outcome State Fault Refusal :=
  .next (s.on fun n => n.hstAccess ctx (Reg.HST_FRX_TAIL ctx) v)

/-- HST_CTX_RESET_WRITE: a write of `HST_CTX_CTRL` of context `target` (R645). -/
def execHstCtxResetWrite (ctx target : Nat) (v : Word) (s : State) : Host.Outcome State Fault Refusal :=
  .next (s.on fun n => if 8 ≤ target then n else n.hstAccess ctx (Reg.HST_CTX_CTRL target) v)

/-- CQ_IRQ_TIMER_EXPIRY: the time of `HST_CQ_IRQ` has passed since the first unsignalled entry of a ring (R635). -/
def execCqIrqTimerExpiry (ctx ring time : Nat) (s : State) : Host.Outcome State Fault Refusal :=
  .next (s.on fun n =>
    let m := n.at time
    match m.host.coalesce.find? fun e => e.ctx == ctx && e.ring == ring with
    | some e =>
      if m.tm.raw < e.since + m.bits (Reg.HST_CQ_IRQ ctx ring) 8 16 * 1000 then m
      else { m with host := { m.host with coalesce := m.host.coalesce.erase e } }.irq ctx ring ring
    | none => m)

/-! ### SPI (R627) -/

/-- The status bits of an SPI port. -/
def Node.spiStat (n : Node) (port : Nat) : SpiStat := if port = 0 then n.host.spi0 else n.host.spi1

/-- SPI_STATUS_TRANSACTION: the status byte; it clears bits [3:1] (R627). -/
def execSpiStatusTransaction (port : Nat) (s : State) : Host.Outcome State Fault Refusal :=
  .next (s.on fun n =>
    if 2 ≤ port ∨ !n.bit Reg.TOP_PD_STATE 9 then n
    else
      let t := n.spiStat port
      (n.answer (word (b2n (n.spiInt port) + b2n t.retry * 2 + b2n t.refused * 4 + b2n t.format * 8))).spiFlag (4 + port)
        fun _ => ⟨false, false, false⟩)

/-- SPI_INVALID_TRANSACTION: another first byte or an unaligned address (R627). -/
def execSpiInvalidTransaction (port : Nat) (s : State) : Host.Outcome State Fault Refusal :=
  .next (s.on fun n =>
    if 2 ≤ port ∨ !n.bit Reg.TOP_PD_STATE 9 then n else n.spiFlag (4 + port) fun t => { t with format := true })

/-! ### Fetching commands (R633, R787) -/

/-- A submission entry as its 16 words lie in memory (R636). -/
def entryOf (ws : List Word) : SqEntry :=
  let w0 := (ws.getD 0 0#32).toNat
  { opcode := w0 % 65536, flags := w0 / 65536 % 256, rsv := w0 / 2 ^ 24, seq := (ws.getD 1 0#32).toNat, args := ws.drop 2 }

/-- Submissions of a ring that have been fetched and not yet completed; each has 4 completion entries reserved (R633). -/
def Node.inFlight (n : Node) (c r : Nat) : Nat :=
  (n.host.flight.countP fun f => f.ctx == c && f.ring == r && !f.silent) +
  ((n.host.flight.filter fun f => f.ctx == c).foldl (fun a f => a + f.dups.countP fun d => d.1 == r) 0) +
  n.host.waits.countP fun w => w.ctx == c && w.ring == r && w.kind == waitDup

/-- The commands whose names end in `_STATUS`, `_QUERY` or `_INFO` (R420). -/
def asksOnly (opcode : Nat) : Bool :=
  [0x0101, 0x0104, 0x0121, 0x0203, 0x0207, 0x0301, 0x0304, 0x0401, 0x0402, 0x0406, 0x0501, 0x0508, 0x0601, 0x0701, 0x0801,
   0x0901, 0x0A01, 0x0B01, 0x0C01, 0x0D01].contains opcode

/-- The opcodes that the spec defines (R14, R15): in each range the low bytes named, from `lo` to `hi`. -/
def definedOpcode (opcode : Nat) : Bool :=
  [(0x0101, 0x0104), (0x0120, 0x0124), (0x0201, 0x0207), (0x0301, 0x0304), (0x0401, 0x0406), (0x0501, 0x0508), (0x0601, 0x0607),
   (0x0701, 0x0706), (0x0801, 0x0807), (0x0901, 0x0905), (0x0A01, 0x0A04), (0x0B01, 0x0B04), (0x0C01, 0x0C05),
   (0x0D01, 0x0D0B)].any fun x => decide (x.1 ≤ opcode) && decide (opcode ≤ x.2)

/-- A resubmission of a journalled sequence (R641): DUPLICATE at once with the earlier outcome, or when it comes. -/
def Node.duplicate (n : Node) (c r : Nat) (e : SqEntry) (i : Nat) : Node :=
  let differs := (n.jrnWord i 1).toNat % 65536 != e.opcode % 65536 || n.jrnWord i 2 != word (argDigest e)
  let m := if differs then n.raise 0x7107 c e.seq else n
  if m.jrnOutcome i ≠ 0xFE then
    m.post c r e.seq e.opcode 1 (m.jrnOutcome i) (b2n differs * 2) (m.getRegs (Reg.JRN_ENTRY i + 40) 4)
  else if (m.flightOf c e.seq).isSome then
    { m with host := { m.host with flight := m.host.flight.map fun f =>
      if f.ctx == c && f.seq == e.seq then { f with dups := f.dups ++ [(r, differs, e.opcode)] } else f } }
  else
    { m with host := { m.host with waits := m.host.waits ++
      [⟨c, r, e.seq, e.opcode, waitDup, i, [word (b2n differs)], m.tm.raw, m.cyc.cur⟩] } }

/-- The next entry of the share holds a pending outcome (R655). -/
def Node.jrnFull (n : Node) (c : Nat) : Bool :=
  let i := (n.reg (Reg.JRN_CTX_BASE c)).toNat + (n.host.shares.getD c ⟨0, 0⟩).next
  n.jrnValid i && n.jrnOutcome i == 0xFE

/-- Checks 1 to 4 of R787 for a submission, and its acceptance: it is journalled, unless R656 leaves it out, and in flight.
`busy` says that the limit of R630 has been reached. -/
def Node.accept (n : Node) (c r : Nat) (e : SqEntry) (busy : Bool) : Node :=
  let reject (st : Nat) : Node := n.post c r e.seq e.opcode st 0 0 []
  if e.seq = 0 then reject sArgs
  else if (n.host.shares.getD c ⟨0, 0⟩).count ≠ 0 ∧ seqPrecedes e.seq (n.reg (Reg.JRN_CTX_OLDEST c)).toNat then reject sState
  else match n.jrnFind c e.seq with
    | some i => n.duplicate c r e i
    | none =>
      if n.fld (Reg.HST_CTX_CFG c) Fld.HST_CTX_CFG_SHARED = 1 ∧ !n.holder ∧ !asksOnly e.opcode then reject sNotHolder
      else if busy then reject sBusy
      else
        let fly (m : Node) (jrn : Option Nat) : Node :=
          { m with host := { m.host with flight := m.host.flight ++
            [⟨c, r, e.seq, e.opcode, jrn, e.flags.testBit 0, false, []⟩] } }
        if unjournalled e.opcode then fly n none
        else if n.jrnFull c then reject sBusy
        else
          let (m, i) := n.jrnAccept c r e
          fly m (some i)

/-- The node takes commands of a context: it exists, no reset of it runs, SC0 runs and the node is awake (R68, R645). -/
def Node.fetches (n : Node) (c : Nat) : Bool :=
  n.ctxPresent c && !n.ctxResetting c && !n.engFailed 0 && n.boot.sleep == 0

/-- COMMAND_FETCH: the next submission of a ring is fetched once the completion ring has room (R633) and passes checks 1 to 4
of R787. A PCIe ring's entry comes from host memory; an SPI ring's from ring memory, a host-frame ring's from the frames
taken. -/
def execCommandFetch (ctx ring : Nat) (entry : SqEntry) (time : Nat) (s : State) : Host.Outcome State Fault Refusal :=
  .next (s.on fun n =>
    let m := n.at time
    if !m.fetches ctx ∨ 4 ≤ ring then m
    else if 6 ≤ ctx then
      match m.host.frameCmds.find? fun x => x.1 == ctx && x.2.1 == ring with
      | some x => { m with host := { m.host with frameCmds := m.host.frameCmds.erase x } }.accept ctx ring x.2.2 false
      | none => m
    else
      let size := (m.reg (Reg.HST_SQ_SIZE ctx ring)).toNat
      let head := (m.reg (Reg.HST_SQ_HEAD ctx ring)).toNat
      if size = 0 ∨ !m.cqOn ctx ring ∨ head = (m.reg (Reg.HST_SQ_TAIL ctx ring)).toNat ∨ m.host.stopped.contains (ctx, ring) ∨
          m.cqFree ctx ring < 4 + 4 * m.inFlight ctx ring then m
      else
        let e := if ctx < 4 then entry
          else entryOf (m.getRegs (Reg.HST_SPI_RING + (ctx - 4) * 0x10000 + ring * 0x2000 + head * 64) 16)
        (m.setReg (Reg.HST_SQ_HEAD ctx ring) (word (if head + 1 < size then head + 1 else 0))).accept ctx ring e false)

/-- UNDEFINED_OPCODE: check 5 of R787 (R15). -/
def execUndefinedOpcode (c : Cmd) (s : State) : Host.Outcome State Fault Refusal :=
  .next (s.on fun n =>
    let m := n.at c.time
    if definedOpcode c.entry.opcode ∨ m.fenceHeld c then m
    else m.finish c.ctx c.ring c.entry.seq c.entry.opcode sArgs [])

/-! ### Host frames (R629, R630) -/

/-- The host-frame context to which a frame on a car port belongs (R629). -/
def Node.frameCtx (n : Node) (p : Nat) (f : Frame) : Option Nat :=
  let vid := match f.tag with
    | some t => t.vid
    | none => 0
  [6, 7].find? fun c =>
    n.ctxPresent c && n.fld (Reg.HST_CTX_CFG c) Fld.HST_CTX_CFG_PORT + 4 == p &&
    (n.host.cfgs.find? fun g => g.ctx == c).any fun g => g.mac == f.src && g.etype == f.etype && g.tag % 4096 == vid

/-- The commands of a command frame, with their ring: none of another type or with another count than R629 allows. -/
def frameEntries (body : List Byte) : Nat × List SqEntry :=
  let count := leAt body 2 2
  if leAt body 0 1 ≠ 1 ∨ count = 0 ∨ 22 < count then (0, [])
  else (leAt body 1 1 % 4, (List.range count).map fun k => entryOf (wordsLE (slice body (8 + 64 * k) 64) 16))

/-- HOST_FRAME_COMMANDS: a frame of a host-frame context is taken and its commands queued; beyond 64 of a ring that have not
completed a command completes with BUSY (R630). A frame that finds no room in its pool is discarded (R59); one that belongs to no
context is open traffic. -/
def execHostFrameCommands (r : Rx) (s : State) : Host.Outcome State Fault Refusal :=
  .next (s.on fun n =>
    let m := (n.at r.stamp).echoBack r
    match m.rxFail r with
    | some e => m.rxCount r e
    | none =>
      let g := m.rxGood r
      match g.frameCtx r.port r.frame with
      | none => g.openIn r
      | some c =>
        let (ring, es) := frameEntries r.frame.body
        if r.room < frameCells r.frame then g.poolDrop r.port (pcpClass r.frame)
        else if g.echoing r.port ∨ !g.fetches c ∨ g.fld (Reg.HST_CTX_CFG c) Fld.HST_CTX_CFG_RINGS ≤ ring then g
        else es.foldl (fun k e =>
          let waiting := k.host.frameCmds.countP fun x => x.1 == c && x.2.1 == ring
          if 64 ≤ waiting + k.inFlight c ring then k.accept c ring e true
          else { k with host := { k.host with frameCmds := k.host.frameCmds ++ [(c, ring, e)] } }) g)

/-- How many of a ring's held completion entries one frame takes: whole completions, at most `room` entries. `k` bounds the
completions looked at. -/
def wholeEntries : Nat → Nat → List HeldEntry → Nat
  | 0, _, _ => 0
  | _ + 1, _, [] => 0
  | k + 1, room, e :: es =>
    let len := 1 + leAt e.bytes 28 1
    if room < len then 0 else len + wholeEntries k (room - len) (es.drop (len - 1))

/-- A frame from the node to a host-frame context (R629): its header and its entries, padded to 64 bytes (R149). -/
def Node.hostFrame (n : Node) (c type ring : Nat) (es : List HeldEntry) : Node :=
  match n.host.cfgs.find? fun g => g.ctx == c with
  | none => n
  | some g =>
    let tag := if g.tag % 4096 = 0 then none else some (Tci.mk (g.tag / 8192 % 8) 0 (g.tag % 4096))
    let body := encLE 1 type ++ encLE 1 ring ++ encLE 2 es.length ++ zeros 4 ++ es.flatMap fun e => e.bytes
    let pad := zeros (if tag.isSome then 42 - body.length else 46 - body.length)
    let f : Frame := { dst := g.mac, src := n.identity, tag := tag, etype := g.etype, body := body ++ pad }
    n.sendGated (4 + n.fld (Reg.HST_CTX_CFG c) Fld.HST_CTX_CFG_PORT) (pcpClass f) f

/-- COMPLETION_FRAME_SEND: the node sends what it holds for a host-frame context: the completions of one ring, up to 46 entries,
and up to 46 events (R630, R642). -/
def execCompletionFrameSend (ctx time : Nat) (s : State) : Host.Outcome State Fault Refusal :=
  .next (s.on fun n =>
    let m := n.at time
    let held := m.host.held.filter fun e => e.ctx == ctx
    let ringOf (e : HeldEntry) : Nat := leAt e.bytes 31 1 / 16 % 4
    let comps := held.filter fun e => !e.event
    let ring := (comps.head?.map ringOf).getD 0
    let mine := comps.filter fun e => ringOf e == ring
    let comp := mine.take (wholeEntries 46 46 mine)
    let evts := (held.filter fun e => e.event).take 46
    let m := { m with host := { m.host with held := (comp ++ evts).foldl (fun l e => l.erase e) m.host.held } }
    let m := if comp.isEmpty then m else m.hostFrame ctx 2 ring comp
    if evts.isEmpty then m else m.hostFrame ctx 3 0 evts)

/-- HOST_FRAME_LINK_TIMEOUT: the car port's link of a host-frame context has been down for 1 s (R630). -/
def execHostFrameLinkTimeout (ctx time : Nat) (s : State) : Host.Outcome State Fault Refusal :=
  .next (s.on fun n =>
    let m := n.at time
    let p := 4 + m.fld (Reg.HST_CTX_CFG ctx) Fld.HST_CTX_CFG_PORT
    if ctx < 6 ∨ !m.ctxPresent ctx ∨ m.linkUp p ∨ m.tm.raw < (m.port p).linkAt + 1000000000 then m
    else m.ctxResetStart ctx 5)

/-! ### Frames from PCIe hosts (R325, R326, R643, R644) -/

/-- A frame of the transmit ring enters the fabric through the host port, port 13, as open traffic, or is discarded and
counted. A stamped frame yields one stamp, on the lowest-numbered port that sends it, when it starts there (R326). -/
def Node.hostSends (n : Node) (c len frameTag flags : Nat) (f : Frame) : Node :=
  if len < 60 ∨ 1518 < len ∨ n.isSpine f ∨ f.etype = 0x8808 then n.inc (Reg.HST_FTX_DROP c)
  else
    let before := n.net.sent.length
    let wait := n.net.queue.length
    let m := n.openForward 13 f (n.reg Reg.TOP_BUF_OPEN_FREE).toNat n.tm.raw
    let now := ((m.net.sent.drop before).map (·.port)).min?
    let later := ((m.net.queue.drop wait).map (·.port)).min?
    match m.tsqOf c with
    | none => m
    | some q =>
      let tag := frameTag % 65536
      if !flags.testBit 0 then m
      else match now, later with
        | none, none => m
        | some p, none => m.tsqPush q tag p (m.stampAt m.tm.raw)
        | now, some w =>
          if now.any fun p => decide (p < w) then m.tsqPush q tag (now.getD 0) (m.stampAt m.tm.raw)
          else { m with net := { m.net with queue := m.net.queue.take wait ++ (m.net.queue.drop wait).map fun (x : Queued) =>
            if x.port == w then { x with stamp := some (q, tag) } else x } }

/-- HOST_FRAME_TRANSMIT: the descriptor at `HST_FTX_HEAD`, with the frame that it names in host memory (R643, R644). -/
def execHostFrameTransmit (ctx len frameTag flags : Nat) (frame : Frame) (time : Nat) (s : State) :
    Host.Outcome State Fault Refusal :=
  .next (s.on fun n =>
    let m := n.at time
    let size := (m.reg (Reg.HST_FTX_SIZE ctx)).toNat
    let head := (m.reg (Reg.HST_FTX_HEAD ctx)).toNat
    if 4 ≤ ctx ∨ !m.ctxPresent ctx ∨ m.ctxResetting ctx ∨ size = 0 ∨ head = (m.reg (Reg.HST_FTX_TAIL ctx)).toNat ∨
        m.host.stopped.contains (ctx, 5) then m
    else
      let k := m.setReg (Reg.HST_FTX_HEAD ctx) (word (if head + 1 < size then head + 1 else 0))
      (k.hostSends ctx len frameTag flags frame).irq ctx 6 6)

/-! ### Node and journal commands (R659) -/

/-- A command that names a context in word 0: an open context may name only its own; another is an ownership refusal of
kind 2 (R659). -/
def Node.ctxCommand (n : Node) (c : Cmd) (secure : Bool) (nargs : Nat) (act : Node → Nat → Answer) : Node :=
  let t := arg c 0
  n.command c (if secure then .secure (81 + t % 8) else .either) nargs fun m =>
    if 8 ≤ t then .fail m sArgs
    else if t ≠ c.ctx ∧ !m.ctxSecure c.ctx then .fail (m.refuse c.ctx false 2 2 c.entry.opcode (81 + t)) sWorld
    else act m t

/-- NODE_STATUS (R659). -/
def execNodeStatus (c : Cmd) (s : State) : Host.Outcome State Fault Refusal :=
  .next (s.runs c 0x0101 fun n => n.command c .either 0 fun m => .done m sOk
    [m.reg Reg.TOP_PLACE, m.reg Reg.TOP_EPOCH, m.reg Reg.INA_STATE, m.reg Reg.PAR_TOKEN, m.reg Reg.TOP_ENG_FAULT])

/-- NODE_NOP (R659). -/
def execNodeNop (c : Cmd) (s : State) : Host.Outcome State Fault Refusal :=
  .next (s.runs c 0x0102 fun n => n.command c .either 4 fun m => .done m sOk [argW c 0, argW c 1, argW c 2, argW c 3])

/-- CTX_RESET (R645, R659): it completes when the reset does. -/
def execCtxReset (c : Cmd) (s : State) : Host.Outcome State Fault Refusal :=
  .next (s.runs c 0x0103 fun n => n.ctxCommand c true 1 fun m t =>
    if t = c.ctx ∨ !m.ctxPresent t then .fail m sArgs
    else .wait (m.ctxResetStart t 2) waitCtxReset t [])

/-- CTX_INFO (R659). -/
def execCtxInfo (c : Cmd) (s : State) : Host.Outcome State Fault Refusal :=
  .next (s.runs c 0x0104 fun n => n.ctxCommand c false 1 fun m t => .done m sOk
    [if m.ctxPresent t then m.reg (Reg.HST_CTX_CFG t) else 0#32, if m.ctxPresent t then m.reg (Reg.HST_CTX_STAT t) else 0#32,
     m.reg (Reg.JRN_CTX_BASE t), m.reg (Reg.JRN_CTX_SIZE t)])

/-- JRN_STATUS (R659). -/
def execJrnStatus (c : Cmd) (s : State) : Host.Outcome State Fault Refusal :=
  .next (s.runs c 0x0B01 fun n => n.ctxCommand c false 1 fun m t => .done m sOk
    [m.reg (Reg.JRN_CTX_OLDEST t), m.reg (Reg.JRN_CTX_NEWEST t), m.reg (Reg.JRN_CTX_ACK t), m.reg (Reg.JRN_CTX_SIZE t)])

/-- An entry index put into a list in the order of sequences counted from `first`. -/
def Node.jrnInsert (n : Node) (first i : Nat) : List Nat → List Nat
  | [] => [i]
  | j :: js =>
    let key (k : Nat) : Nat := (n.jrnSeq k + 2 ^ 32 - first % 2 ^ 32) % 2 ^ 32
    if key i ≤ key j then i :: j :: js else j :: n.jrnInsert first i js

/-- The valid entries of a share from a sequence on, in sequence order. -/
def Node.jrnFrom (n : Node) (t first : Nat) : List Nat :=
  let held := (List.range (n.host.shares.getD t ⟨0, 0⟩).count).map (n.jrnIndex t)
  (held.filter fun i => n.jrnValid i && (n.jrnSeq i == first || seqPrecedes first (n.jrnSeq i))).foldr (n.jrnInsert first) []

/-- JRN_READ (R659). -/
def execJrnRead (c : Cmd) (s : State) : Host.Outcome State Fault Refusal :=
  .next (s.runs c 0x0B02 fun n => n.ctxCommand c false 5 fun m t =>
    let count := arg c 2
    let addr := arg c 3 + arg c 4 * 2 ^ 32
    if count = 0 ∨ 64 < count ∨ (addr ≠ 0 ∧ 4 ≤ c.ctx) ∨ (addr = 0 ∧ 1 < count) then .fail m sArgs
    else
      let sel := (m.jrnFrom t (arg c 1)).take count
      let words := sel.flatMap fun i => m.getRegs (Reg.JRN_ENTRY i) 16
      if addr = 0 then .done m sOk (word sel.length :: words)
      else .done { m with host := { m.host with dma := m.host.dma ++
        [⟨c.ctx, addr, words.flatMap fun w => encLE 4 w.toNat⟩] } } sOk [word sel.length])

/-- JRN_ACK (R659). -/
def execJrnAck (c : Cmd) (s : State) : Host.Outcome State Fault Refusal :=
  .next (s.runs c 0x0B03 fun n => n.ctxCommand c false 2 fun m t =>
    let newest := (m.reg (Reg.JRN_CTX_NEWEST t)).toNat
    if (m.host.shares.getD t ⟨0, 0⟩).count = 0 ∨ !(arg c 1 == newest || seqPrecedes (arg c 1) newest) then .fail m sArgs
    else .done (m.setReg (Reg.JRN_CTX_ACK t) (argW c 1)) sOk [])

/-- JRN_CLEAR (R659): every entry of the share is cleared but the command's own. -/
def execJrnClear (c : Cmd) (s : State) : Host.Outcome State Fault Refusal :=
  .next (s.runs c 0x0B04 fun n => n.ctxCommand c true 1 fun m t =>
    let own := (m.flightOf c.ctx c.entry.seq).bind fun f => f.jrn
    let base := (m.reg (Reg.JRN_CTX_BASE t)).toNat
    let size := (m.reg (Reg.JRN_CTX_SIZE t)).toNat
    let others := (List.range' base size).filter fun i => own != some i
    if !m.ctxPresent t then .fail m sArgs
    else if others.any fun i => m.jrnValid i && m.jrnOutcome i == 0xFE then .fail m sState
    else
      let k := others.foldl (fun k i => k.clearRegs (Reg.JRN_ENTRY i) (Reg.JRN_ENTRY i + 64)) m
      let share : JrnShare := match own with
        | some i => if base ≤ i ∧ i < base + size then ⟨(i - base + 1) % max size 1, 1⟩ else ⟨0, 0⟩
        | none => ⟨0, 0⟩
      let k := { k with host := { k.host with shares := modifyAt k.host.shares t fun _ => share } }
      .done ((k.syncJrn t).raise 0x7008 2 t) sOk [])

end Sys2Proof.Machine
end

