-- ==== Sys2Proof/Machine/Power.lean ====
section
/-! DEFINITION. Power, reset, sleep and clocks (chapter 18): the kinds of reset and what each keeps, the supply and clock
monitors, sleep and wake, and the DRAM loopback. -/

namespace Sys2Proof.Machine

/-! ### Kinds of reset (R712 to R716) -/

/-- The kinds of R712. -/
def kPower : Nat := 1
def kPin : Nat := 2
def kWarm : Nat := 3
def kTrain : Nat := 4
def kWake : Nat := 5

/-- The registers that a reset of a kind keeps (R657, R675, R693, R711, R713, R731). -/
def keptReg (kind cause a : Nat) : Bool :=
  let within (lo hi : Nat) : Bool := decide (lo ≤ a) && decide (a < hi)
  (kind != kPower &&
    (within Reg.EVT_STAT Reg.EVT_LOG_WRAP || within Reg.EVT_FATAL_W0 (Reg.EVT_FATAL_W3 + 4) ||
     within (Reg.EVT_LOG 0) (Reg.EVT_LOG 1024) || within (Reg.JRN_ENTRY 0) (Reg.JRN_ENTRY 8192) ||
     (List.range 8).any (fun c => a == Reg.JRN_CTX_ACK c) ||
     [Reg.TST_BIST_DONE, Reg.TST_BIST_FAIL, Reg.TST_BIST_FIRST, Reg.PCR_PLL_UNLOCKS, Reg.PCR_WARM_CNT].contains a)) ||
  (decide (3 ≤ kind) &&
    (a == Reg.PCR_STRAP || a == Reg.PCR_WAKE_EN || a == Reg.DIO_WAKE || within (Reg.DIO_LN_CFG 32) (Reg.DIO_LN_CFG 36))) ||
  ((kind == kWarm || kind == kTrain) && !(kind == kWarm && cause == 4) && a == Reg.PCR_PLL_STAT) ||
  (kind == kWarm && cause == 2 && a == Reg.TST_BIST_REQ)

/-- The DRAM that a warm, train or wake reset keeps: regions 1 and 2 (R717). -/
def Node.keptBytes (n : Node) : List (Nat × Byte) :=
  if n.fld Reg.IMG_STATE Fld.IMG_STATE_STATE = 2 then
    let inside (r a : Nat) : Bool := decide ((n.region r).1 ≤ a) && decide (a < (n.region r).1 + (n.region r).2)
    n.mem.dram.filter fun (x : Nat × Byte) => inside 1 x.1 || inside 2 x.1
  else n.mem.dram

/-- What a reset keeps of DRAM beside its bytes (R717). -/
def Node.keptSizes (n : Node) : Option KeptDram :=
  if n.fld Reg.IMG_STATE Fld.IMG_STATE_STATE = 2 then
    some ⟨(n.reg (Reg.PLC_DRAM_SIZE 1)).toNat, (n.reg (Reg.PLC_DRAM_SIZE 2)).toNat, n.aud.lib, n.aud.slots⟩
  else n.boot.kept

/-- The lines as a reset keeps them: the filters of the wake inputs, 32 to 35, run on with their times begun again (R471). -/
def Node.keptLines (n : Node) : List Line :=
  let renew (l : Line) : Line := { l with activeAt := 0, subAt := 0 }
  PdState.reset.lines.mapIdx fun i l => if i < 32 then l else renew (n.pd.lines.getD i l)

/-- The boot state after a reset (R120, R692, R693, R713). A failed engine restarts at a warm, pin or power-on reset alone (R69);
SC0 runs the boot ROM after every reset (R65, R715; DEDUCED, log entry 123). -/
def Node.keptBoot (n : Node) (kind cause : Nat) : BootState :=
  if kind = kPower then BootState.reset
  else
    let bist := if kind = kWarm ∧ cause = 2 then (n.reg Reg.TST_BIST_REQ).toNat else 0
    { BootState.reset with
      attempts := n.boot.attempts, pref := n.boot.pref, away := n.boot.away, bist := bist,
      engDown := if kind = kTrain ∨ kind = kWake then n.boot.engDown.filter fun e => e != 0 else [],
      bistBad := n.boot.bistBad && decide (3 ≤ kind), kept := if 3 ≤ kind then n.keptSizes else none }

/-- The node as a reset of a kind leaves it (R713): everything starts from its reset value but what the kind keeps. The flash
keeps its contents, and the identity stands in fuses. -/
def Node.resetTo (n : Node) (o : Otp) (kind cause : Nat) : Node :=
  let keep := n.regs.filter fun (x : Nat × Word) => keptReg kind cause x.1
  let m : Node := { Node.reset with
    regs := keep
    fresh := n.fresh
    mem := { MemState.reset with flash := n.mem.flash, dram := if 3 ≤ kind then n.keptBytes else [] }
    boot := n.keptBoot kind cause
    host := if kind = kPower then HostState.reset
      else { HostState.reset with layout := n.host.layout, shares := n.host.shares }
    pd := if 3 ≤ kind then { PdState.reset with lines := n.keptLines } else PdState.reset }
  let m := (m.setReg Reg.TOP_NODE_ID_LO (word o.identity)).setReg Reg.TOP_NODE_ID_HI (word (o.identity / 2 ^ 32))
  let m := if kind = kPower then m else m.setBit Reg.TST_STAT 30 (n.bit Reg.TST_STAT 30)
  let m := if kind = kWarm ∨ kind = kTrain then m.inc Reg.PCR_WARM_CNT else m
  m.setReg Reg.PCR_RESET_CAUSE (word (kind + cause * 256))

/-- A reset runs, from its start to the reset release. -/
def Node.inReset (n : Node) : Bool := n.boot.phase == 0 && n.boot.sleep == 0

/-- How strong a kind is (R714). -/
def kindRank (kind : Nat) : Nat := if kind = kPower then 3 else if kind = kPin then 2 else 1

/-- A reset request (R714): one that meets a stronger reset in progress, or a warm, train or wake one that meets any, has no
effect. Before a warm or train reset the router handles what is in its queue (R786). -/
def Node.requestReset (n : Node) (o : Otp) (kind cause : Nat) : Node :=
  let now := kindRank (n.fld Reg.PCR_RESET_CAUSE Fld.PCR_RESET_CAUSE_KIND)
  if n.inReset && (decide (kindRank kind < now) || kindRank kind == 1) then n
  else (if kind = kWarm ∨ kind = kTrain then n.routeAll else n).resetTo o kind cause

/-- POWER_ON_RESET (R707, R712). -/
def execPowerOnReset (s : State) : Host.Outcome State Fault Refusal := .next (s.on fun n => n.requestReset s.otp kPower 1)

/-- PIN_RESET (R704, R712). -/
def execPinReset (s : State) : Host.Outcome State Fault Refusal := .next (s.on fun n => n.requestReset s.otp kPin 1)

/-- SUPPLY_MONITOR_TRIP: monitor 0 is VDD_AON, 1 VDD_CORE, 2 VDD_SRAM (R707). -/
def execSupplyMonitorTrip (monitor : Nat) (s : State) : Host.Outcome State Fault Refusal :=
  .next (s.on fun n =>
    if 3 ≤ monitor then n
    else (n.requestReset s.otp (if monitor = 0 then kPower else kPin) 2).setBit Reg.PCR_SUPPLY_STAT monitor true)

/-- REFCLK_LOST (R707). -/
def execRefclkLost (s : State) : Host.Outcome State Fault Refusal :=
  .next (s.on fun n => (n.requestReset s.otp kPin 3).setBit Reg.PCR_SUPPLY_STAT 3 true)

/-- WARM_RESET: a requested warm reset begins (R715). -/
def execWarmReset (time : Nat) (s : State) : Host.Outcome State Fault Refusal :=
  .next (s.on fun n =>
    let m := n.at time
    match m.boot.warm with
    | some w => if w.1 ≤ m.tm.raw then m.requestReset s.otp kWarm w.2 else m
    | none => m)

/-- TRAIN_RESET_INSTANT: t_op of an announced train reset (R293, R715). -/
def execTrainResetInstant (time : Nat) (s : State) : Host.Outcome State Fault Refusal :=
  .next (s.on fun n =>
    let m := n.at time
    match m.ina.op with
    | some o => if o.op = 3 ∧ m.opDue o then m.requestReset s.otp kTrain 1 else m
    | none => m)

/-- What a write of `PCR_RESET_CTRL` does (R731). -/
def Node.warmWrite (n : Node) (v : Word) : Node := if v.toNat.testBit 0 then n.warmIn 0 3 else n

/-- PCR_WARM_WRITE: a write of `PCR_RESET_CTRL` (R731). -/
def execPcrWarmWrite (ctx : Nat) (v : Word) (time : Nat) (s : State) : Host.Outcome State Fault Refusal :=
  .next (s.on fun n => (n.at time).access ctx Reg.PCR_RESET_CTRL true fun m => m.warmWrite v)

/-! ### Clocks (R709, R710) -/

/-- A PLL that was locked loses lock and acts as the table of R709 gives. -/
def Node.pllLost (n : Node) (pll : Nat) : Node :=
  if 19 ≤ pll ∨ !n.bit Reg.PCR_PLL_STAT pll then n
  else
    let action := if pll = 3 then 2 else if pll = 5 then 3 else if 6 ≤ pll then 4 else 1
    let m := ((n.setBit Reg.PCR_PLL_STAT pll false).inc Reg.PCR_PLL_UNLOCKS).raise 0x8206 pll action
    if action = 1 then m.warmIn 0 4
    else if action = 2 then m.pcieDown
    else if action = 3 then [0, 1, 2, 3].foldl (fun k c => k.showCan c) m
    else m.linkGoesDown (pll - 6) []

/-- PLL_UNLOCK (R709). -/
def execPllUnlock (pll time : Nat) (s : State) : Host.Outcome State Fault Refusal :=
  .next (s.on fun n => (n.at time).pllLost pll)

/-- PLL_RELOCK: the host, CAN or a lane PLL locks again (R709). The CAN controllers integrate anew; a link comes back as R145
gives. -/
def execPllRelock (pll time : Nat) (s : State) : Host.Outcome State Fault Refusal :=
  .next (s.on fun n =>
    let m := n.at time
    if 19 ≤ pll ∨ pll < 3 ∨ pll = 4 ∨ m.bit Reg.PCR_PLL_STAT pll then m
    else
      let k := m.setBit Reg.PCR_PLL_STAT pll true
      if pll = 5 then
        [0, 1, 2, 3].foldl (fun q c => (if q.canOn c then q.onCtl c fun x => { x with integ := true } else q).showCan c) k
      else k)

/-- AON_RC_CALIBRATE: every 100 ms `hz`, the frequency measured against REFCLK, is shown (R710). -/
def execAonRcCalibrate (hz time : Nat) (s : State) : Host.Outcome State Fault Refusal :=
  .next (s.on fun n =>
    let m := n.at time
    if m.boot.sleep = 2 ∨ m.bit Reg.PCR_SUPPLY_STAT 3 ∨ m.tm.raw < m.boot.calAt + 100000000 then m
    else { m with boot := { m.boot with calAt := m.tm.raw } }.setReg Reg.PCR_AON_CAL (word hz))

/-! ### Sleep and wake (R718 to R723) -/

/-- Sleep entry begins (R719): the event, safe values, the token's actions stop, ports stop sending, and the listen-entry
scripts run. -/
def Node.startSleep (n : Node) : Node :=
  let m := n.setReg Reg.PCR_SLEEP_CTRL 1#32
  let m := (m.raise 0x8003 (m.reg Reg.PCR_WAKE_EN).toNat 0).setSt stOff
  let m := (m.setFld Reg.PAR_TOKEN Fld.PAR_TOKEN_STATE 0).syncDrivers
  let m := m.startScript m.net.scriptEnter
  { m with boot := { m.boot with sleep := 1, wakes := 0 } }

/-- What a write of `PCR_SLEEP_CTRL` does (R718, R733). -/
def Node.sleepWrite (n : Node) (v : Word) : Node :=
  if !v.toNat.testBit 0 ∨ n.boot.sleep ≠ 0 ∨ n.boot.phase = 0 then n
  else if n.reg Reg.PCR_WAKE_EN = 0#32 then n.setFld Reg.PCR_SLEEP_CTRL Fld.PCR_SLEEP_CTRL_REFUSED 1
  else n.startSleep

/-- PCR_SLEEP_WRITE: a write of `PCR_SLEEP_CTRL` (R718, R733). -/
def execPcrSleepWrite (ctx : Nat) (v : Word) (time : Nat) (s : State) : Host.Outcome State Fault Refusal :=
  .next (s.on fun n => (n.at time).access ctx Reg.PCR_SLEEP_CTRL true fun m => m.sleepWrite v)

/-- The node asleep: AON keeps what a wake reset keeps, and every other domain is off (R83, R719). The listen islands hold what
they compare a wake frame with (R185). -/
def Node.fallAsleep (n : Node) (o : Otp) : Node :=
  let m := n.routeAll.resetTo o kWake 0
  let m := (m.setReg Reg.PCR_RESET_CAUSE (n.reg Reg.PCR_RESET_CAUSE)).setReg Reg.TOP_PD_STATE 1#32
  let m := [Reg.PCR_AON_CAL, Reg.SPN_WAKE_CODE, Reg.SPN_ETYPE].foldl (fun k a => k.setReg a (n.reg a)) m
  let m := (m.setReg Reg.TOP_ENG_RUN 0#32).setReg Reg.PCR_SLEEP_CTRL 1#32
  { m with boot := { m.boot with sleep := 2 } }

/-- The lowest-numbered source of a mask. -/
def firstSource (mask : Nat) : Nat := ((List.range 9).find? fun b => mask.testBit b).getD 0

/-- The node wakes (R723): a wake reset, with its sources and the seconds asleep. -/
def Node.wakeUp (n : Node) (o : Otp) (mask seconds : Nat) : Node :=
  ((n.resetTo o kWake (firstSource mask)).setReg Reg.PCR_WAKE_CAUSE (word mask)).setReg Reg.PCR_SLEEP_SEC (word seconds)

/-- SLEEP_ENTRY_COMPLETE: entry has ended; a wake held meanwhile wakes the node as soon as it has (R719, R723). -/
def execSleepEntryComplete (time : Nat) (s : State) : Host.Outcome State Fault Refusal :=
  .next (s.on fun n =>
    let m := n.at time
    if m.boot.sleep = 1 then
      let k := m.fallAsleep s.otp
      if m.boot.wakes = 0 then k else k.wakeUp s.otp m.boot.wakes 0
    else m)

/-- A listen island has heard 3 wake frames within 10 ms (R185). -/
def Node.islandWakes (n : Node) (p : Nat) : Bool := decide (3 ≤ (n.port p).wakeHeard.length)

/-- The sources of a wake that may wake the node: those enabled (R718), but for an island that has not heard enough (R185) and for
a wake input that is stuck or in a storm (R471). -/
def Node.wakeSources (n : Node) (sources : Nat) : Nat :=
  let deaf := Nat.lor (n.bits Reg.DIO_WAKE 4 4) (n.bits Reg.DIO_WAKE 8 4) * 4 + b2n (!n.islandWakes 0) + b2n (!n.islandWakes 2) * 2
  let mask := Nat.land sources (n.bits Reg.PCR_WAKE_EN 0 9)
  mask - Nat.land mask deaf

/-- WAKE_EVENT: sources that AON accepts, as a mask, and the seconds asleep as AON times them (R721, R723). -/
def execWakeEvent (sources seconds : Nat) (s : State) : Host.Outcome State Fault Refusal :=
  .next (s.on fun n =>
    let mask := n.wakeSources sources
    if mask = 0 then n
    else if n.boot.sleep = 1 then { n with boot := { n.boot with wakes := Nat.lor n.boot.wakes mask } }
    else if n.boot.sleep = 2 then n.wakeUp s.otp mask seconds
    else n)

/-! ### Pins (R484, R720, R748) -/

/-- SLEEP_N: low only while the node sleeps (R720). -/
def Node.sleepN (n : Node) : Bool := n.boot.sleep != 2

/-- CANn_TX is held recessive, high: its controller is in reset, the CAN domain is off, the bus has been dominant too long (R748),
or a loop keeps the controller from the bus (R559). -/
def Node.canTxHigh (n : Node) (c : Nat) : Bool :=
  !n.bit (Reg.CAN_CFG c) 0 || !n.bit Reg.TOP_PD_STATE 11 || [0, 5].contains (n.fld (Reg.CAN_STAT c) Fld.CAN_STAT_STATE) ||
  [1, 2].contains (n.ctl c).loop

/-- The pins of a TDM port. -/
inductive TdmPin where
  | bclk
  | fsync
  | dout
  | din
  deriving DecidableEq, Repr

/-- A TDM port drives a pin; one that it does not drive is high impedance, as every TDM pin is with the STREAM domain off (R484,
R748). -/
def Node.tdmDrives (n : Node) (port : Nat) (pin : TdmPin) : Bool :=
  n.bit Reg.TOP_PD_STATE 4 && n.bit Reg.AUD_CFG (4 + port) && n.bit (Reg.AUD_TDM_STAT port) 2 &&
  match pin with
  | .bclk => n.fld (Reg.AUD_TDM_CFG port) Fld.AUD_TDM_CFG_MASTER == 1
  | .fsync => n.fld (Reg.AUD_TDM_CFG port) Fld.AUD_TDM_CFG_MASTER == 1
  | .dout => true
  | .din => false

/-- SPIn_SDO is driven while SPIn_CS_N is low, and high impedance while it is high (R748). -/
def sdoDriven (csN : Bool) : Bool := !csN

/-! ### DRAM loopback (R729) -/

/-- What a write of `MEM_LOOP` does: `GO` runs the loopback in the waiting state alone (R729). -/
def Node.loopGo (n : Node) (v : Word) : Node := if v.toNat.testBit 0 && n.waiting then n.setReg Reg.MEM_LOOP 1#32 else n

/-- MEM_LOOP_GO_WRITE: a write of `MEM_LOOP` (R729). -/
def execMemLoopGoWrite (ctx : Nat) (v : Word) (s : State) : Host.Outcome State Fault Refusal :=
  .next (s.on fun n => n.access ctx Reg.MEM_LOOP true fun m => m.loopGo v)

/-- MEM_LOOP_DONE: the loopback ends. -/
def execMemLoopDone (passed : Bool) (s : State) : Host.Outcome State Fault Refusal :=
  .next (s.on fun n => if n.bit Reg.MEM_LOOP 0 then n.setReg Reg.MEM_LOOP (word (2 + b2n passed * 4)) else n)

end Sys2Proof.Machine
end

