-- ==== Sys2Proof/Machine/RegBus.lean ====
section
/-! DEFINITION. The register bus: what a write and a read of each address of the register space do beyond holding a value
(R4 to R10, R665, R666), and the accesses that the owning node of a remote window performs (R577, R592). -/

namespace Sys2Proof.Machine

/-! ### Addresses -/

/-- The element of an array that an address lies in, and the offset within the element. -/
def hit (base stride count a : Nat) : Option (Nat × Nat) :=
  if base ≤ a ∧ a < base + stride * count then some ((a - base) / stride, (a - base) % stride) else none

/-- The port whose SPN or CPT instance an address lies in, and the offset there (R665). -/
def portHit (a : Nat) : Option (Nat × Nat) :=
  match hit 0x00800000 0x10000 4 a with
  | some x => some x
  | none => (hit 0x00900000 0x10000 8 a).map fun x => (x.1 + 4, x.2)

/-- An address lies in a range. -/
def isIn (a lo hi : Nat) : Bool := decide (lo ≤ a) && decide (a < hi)

/-! ### Writes -/

/-- The staging buffer is 32 MiB; its window shows 64 KiB from `IMG_STAGE_BASE` (R134, R136). -/
def Node.stageAt (n : Node) (a : Nat) : Nat := (n.reg Reg.IMG_STAGE_BASE).toNat + (a - Reg.IMG_STAGE_WIN)
def stageLen : Nat := 0x02000000

/-- A word written through the staging window; an offset beyond the buffer takes none. -/
def Node.stageWrite (n : Node) (a : Nat) (v : Word) : Node :=
  let o := n.stageAt a
  if o + 4 ≤ stageLen then
    { n with mem := { n.mem with stage := Sparse.putAll (fun _ => 0#8) n.mem.stage o (encLE 4 v.toNat) } }
  else n

/-- A write in SPN or CPT (R187, R190, R164). -/
def Node.writeSpn (n : Node) (a : Nat) (v hw : Word) : Node :=
  match portHit a, hit (Reg.SPN_MDIO_CMD 0) 0x10 2 a, hit (Reg.SPN_FLT 0) 0x20 8192 a with
  | some (p, 0), _, _ => n.portCtrl p v
  | _, some (m, 0), _ => n.mdioWrite m v
  | _, _, some (r, o) => n.ruleWrite r (o / 4) v
  | _, _, _ => n.plainWrite a v hw

/-- A write in PDT (R449, R461). -/
def Node.writePdt (n : Node) (ctx a : Nat) (v hw : Word) : Node :=
  match hit (Reg.PDT_TOUT_BIND 0) 4 8 a, hit (Reg.PDT_DS_DONE 0) 0x20 512 a, hit (Reg.PDT_BUF 0) 0x800 512 a with
  | some (i, _), _, _ => n.bindWrite ctx i v
  | _, some (d, 0), _ => n.dsDone d v
  | _, _, some (d, o) => n.bufWrite d o v
  | _, _, _ => n.plainWrite a v hw

/-- A write in CAN. The facts of the bus that the rows of their own carry are those of an idle bus here. A controller that the
image does not enable is held in reset and takes none (R528; log entry 144). -/
def Node.writeCan (n : Node) (ctx a : Nat) (v hw : Word) : Node :=
  match hit 0x02800000 0x40000 4 a with
  | none => n
  | some (c, o) =>
    if o = 0x04 then n.canCtrlWrite c v false
    else if o = 0x24 then (n.cancelQueued c (v.toNat / 65536 % 4) (v.toNat % 65536) false).1
    else if isIn o 0x200 0x210 then n.txreq c ((o - 0x200) / 4) v
    else if isIn o 0x210 0x220 then n.cancelObjects c ((o - 0x210) / 4) v none
    else if isIn o 0x10000 0x10400 then n.winWrite ctx c ((o - 0x10000) / 0x100) (o % 0x100 / 4) v
    else if isIn o 0x20000 0x24000 then n.objWrite c ((o - 0x20000) / 0x80) (o % 0x80 / 4) v
    else if n.bit (Reg.CAN_CFG c) 0 then n.plainWrite a v hw
    else n

/-- A write in BRG: the read timeout is clamped, and a routing entry written is counted (R598) and takes an injected error
(R694). -/
def Node.writeBrg (n : Node) (a : Nat) (v hw : Word) : Node :=
  if a = Reg.BRG_RD_TIMEOUT then n.setReg a (word (max 100 (min 100000 (v.toNat % 2 ^ 17))))
  else
    let m := n.plainWrite a v hw
    match hit (Reg.BRG_RT_W0 0) 8 4096 a with
    | some (r, _) => (m.injSram 5 r 1).syncBrgCfg
    | none => m

/-- A write in CHK (R606, R612). -/
def Node.writeChk (n : Node) (ctx a : Nat) (v hw : Word) : Node :=
  match hit (Reg.CHK_CTX_CFG 0) 0x40 28 a with
  | some (c, o) => if o = 4 then n.chkCtrl ctx c v else n.chkWrite a c v
  | none => n.plainWrite a v hw

/-- A write in TST: the target and mask of an armed injection stand (R700). -/
def Node.writeTst (n : Node) (a : Nat) (v hw : Word) : Node :=
  if a = Reg.TST_INJ_CTRL then n.injWrite v
  else if (a == Reg.TST_INJ_TARGET || a == Reg.TST_INJ_MASK) && n.injArmed then n
  else n.plainWrite a v hw

/-- A write in JRN: the acknowledgement of an absent context is not there (R621). -/
def Node.writeJrn (n : Node) (a : Nat) (v hw : Word) : Node :=
  match ctxOf a with
  | some c => if n.ctxPresent c then n.plainWrite a v hw else n
  | none => n.plainWrite a v hw

/-- A write in TMB (R330): the control of a timed output acts; the start, period and width of an armed output stand. -/
def Node.writeTmb (n : Node) (a : Nat) (v hw : Word) : Node :=
  match hit (Reg.TMB_TOUT_CTRL 0) 0x20 8 a with
  | some (i, 0) => n.toutCtrl i v
  | some (i, _) => if (n.tm.touts.getD i Tout.reset).armed then n else n.plainWrite a v hw
  | none => n.plainWrite a v hw

/-- What a write does at an address whose checks it has passed; `hw` are the bits that hardware sets in the same cycle
(R10). -/
def Node.writeReg (n : Node) (ctx a : Nat) (v hw : Word) : Node :=
  if isIn a 0x00180000 0x00200000 then (if a = Reg.EVT_CLEAR then n.evtClear v else n.plainWrite a v hw)
  else if isIn a 0x00200000 0x00300000 then
    (if a = Reg.PCR_RESET_CTRL then n.warmWrite v
     else if a = Reg.PCR_SLEEP_CTRL then n.sleepWrite v else n.plainWrite a v hw)
  else if isIn a 0x00310000 0x00320000 then n.stageWrite a v
  else if isIn a 0x00400000 0x00800000 then n.writeTmb a v hw
  else if isIn a 0x00800000 0x00A00000 then n.writeSpn a v hw
  else if isIn a 0x01C00000 0x01E00000 then n.writePdt ctx a v hw
  else if isIn a 0x01E00000 0x02000000 then
    (if a = Reg.DIO_OUT_SET then n.hostDrive v true
     else if a = Reg.DIO_OUT_CLR then n.hostDrive v false else n.plainWrite a v hw)
  else if isIn a 0x02800000 0x02C00000 then n.writeCan ctx a v hw
  else if isIn a 0x02C00000 0x03000000 then n.writeBrg a v hw
  else if isIn a 0x03000000 0x03400000 then n.writeChk ctx a v hw
  else if isIn a 0x03400000 0x03402000 then n.hstWrite a v hw
  else if isIn a 0x03800000 0x03A00000 then n.writeJrn a v hw
  else if isIn a 0x03A00000 0x03C00000 then (if a = Reg.MEM_LOOP then n.loopGo v else n.plainWrite a v hw)
  else if isIn a 0x03C00000 0x04000000 then n.writeTst a v hw
  else n.plainWrite a v hw

/-- Where the model numbers BAR4 of a PCIe function among the addresses of its registers: a TLP to BAR4 comes as an access of
its context at this address and beyond (DESIGN CHOICE, log entry 120). -/
def bar4Base : Nat := 2 ^ 32

/-- An access that goes to BAR4 (R669). -/
def Node.isBar4 (n : Node) (ctx addr : Nat) : Bool :=
  decide (ctx < 4) && n.bit Reg.TOP_PD_STATE 9 && decide (bar4Base ≤ addr) && decide (addr < bar4Base + 0x4000)

/-- REGISTER_WRITE (R666, R669): a write to a register, or to the MSI-X table of the context's function. -/
def execRegisterWrite (ctx addr : Nat) (v : Word) (s : State) : Host.Outcome State Fault Refusal :=
  .next (s.on fun n =>
    if n.isBar4 ctx addr then n.bar4Write ctx (addr - bar4Base) v
    else n.access ctx addr true fun m => m.writeReg ctx addr v 0#32)

/-- W1C_WRITE (R10): a write to a write-1-to-clear register that hardware sets in the same cycle. -/
def execW1cWrite (ctx addr : Nat) (v hw : Word) (s : State) : Host.Outcome State Fault Refusal :=
  .next (s.on fun n => n.access ctx addr true fun m => m.writeReg ctx addr v hw)

/-! ### What a register shows -/

/-- The train-time registers that are computed on reading (R304, R307, R341). -/
def Node.timeShown (n : Node) (a : Nat) : Option Word :=
  let t := n.trainNs
  if a = Reg.TMB_NOW_NS then some (word (nsOf t))
  else if a = Reg.TMB_NOW_SEC_LO then some (word (secOf t))
  else if a = Reg.TMB_NOW_SEC_HI then some (word (secOf t / 2 ^ 32 % 2 ^ 16))
  else if a = Reg.TMB_NOW_FRAC then some (sword (n.fine % 65536))
  else if a = Reg.TMB_RAW_LO then some (word n.tm.raw)
  else if a = Reg.TMB_RAW_HI then some (word (n.tm.raw / 2 ^ 32))
  else if a = Reg.TMB_OFFSET0 then some (sword n.tm.offset)
  else if a = Reg.TMB_OFFSET1 then some (sword (n.tm.offset / 2 ^ 32))
  else if a = Reg.TMB_OFFSET2 then some (sword (n.tm.offset / 2 ^ 64))
  else if a = Reg.TMB_RATE_LO then some (sword n.tm.rate)
  else if a = Reg.TMB_RATE_HI then some (sword (n.tm.rate / 2 ^ 32 % 2 ^ 8))
  else match hit (Reg.TMB_CARTIME_STAT 0) 0x10 8 a with
    | some (i, 0) => some (word (b2n (n.timeSends (i + 4)) + b2n (n.bit a 1) * 2))
    | _ => none

/-- A buffer window as a context sees it: the data of a produced dataset's buffer, or the view of a consumed one that the
context has pinned (R449, R457). -/
def Node.bufShown (n : Node) (ctx d off : Nat) : Word :=
  match n.dsAt d with
  | none => 0#32
  | some x =>
    if !x.consumed then
      (if off < 16 ∨ x.len ≤ off - 16 then 0#32 else word (leAt (slice (n.txOf x.stream).write 0 x.len) (off - 16) 4))
    else
      let v := ((x.pins.find? fun p => p.1 == ctx).map fun p => p.2.1).getD x.shown
      if off = 0 then word v.status
      else if off = 4 then word (beAt v.header 4 4)
      else if off = 8 then word (beAt v.header 32 4)
      else if off = 12 ∨ x.len ≤ off - 16 then 0#32
      else word (leAt v.data (off - 16) 4)

/-- The levels that the audio engines measure, which the model does not compute: meters and zone outputs (DESIGN CHOICE, log entry 2). -/
def Node.metered (n : Node) (a : Nat) : Bool :=
  n.bits Reg.AUD_CFG 8 8 != 0 &&
  ((hit (Reg.AUD_MTR_PEAK 0) 8 64 a).isSome || (match hit (Reg.AUD_ZN_LEVEL 0) 0x10 16 a with
    | some (_, 0) => true
    | _ => false))

/-- The size of a recording slot (R517), and the word of the slot that `AUD_REC_BASE` names. -/
def recSlotLen : Nat := 0xC000
def Node.recShown (n : Node) (a : Nat) : Word :=
  let o := n.bits Reg.AUD_REC_BASE 0 16 * recSlotLen + (a - Reg.AUD_REC_WIN)
  if o + 4 ≤ (n.region 2).2 then word (leAt (n.dramRead ((n.region 2).1 + o) 4) 0 4) else 0#32

/-- The registers that show nothing to some contexts: TSQ (R325), the edge queue (R476), the posted-write log (R598), a secure
stream's entry (R385), and the registers of an absent context (R621). -/
def Node.hides (n : Node) (secure : Bool) (ctx a : Nat) : Bool :=
  (match hit (Reg.TMB_TSQ_CFG 0) 0x20 8 a with | some (q, _) => !n.tsqMine ctx q | none => false) ||
  (isIn a Reg.DIO_EDGE_STAT (Reg.DIO_EDGE_W1 + 4) && !secure && n.pd.edgeCtx != some ctx) ||
  (isIn a Reg.BRG_PWE_STAT (Reg.BRG_PWE_W4 + 4) && !secure && !n.pweMine ctx) ||
  (match hit (Reg.STB_ENTRY 0) 0x20 16384 a with | some (s, _) => !secure && (n.strm s).secure | none => false) ||
  (match ctxOf a with | some c => !n.ctxPresent c | none => false)

/-- The phase of a dataset's stream, bits [25:16] of `PDT_DS_SEQ` (R475). -/
def Node.phaseShown (n : Node) (a : Nat) : Word :=
  match hit (Reg.PDT_DS_SEQ 0) 0x20 512 a with
  | some (d, 0) => ((n.dsAt d).map fun x => word (n.strm x.stream).phase <<< 16).getD 0#32
  | _ => 0#32

/-- The value that a register shows to a context now. -/
def Node.shown (n : Node) (secure : Bool) (ctx a : Nat) : Word :=
  let writeOnly := match regRow a with
    | some r => r.access == .wo
    | none => true
  if writeOnly || n.hides secure ctx a then 0#32
  else if isIn a 0x00310000 0x00320000 then
    (if n.stageAt a + 4 ≤ stageLen then word (leAt (Sparse.range (fun _ => 0#8) n.mem.stage (n.stageAt a) 4) 0 4) else 0#32)
  else if isIn a Reg.AUD_REC_WIN (Reg.AUD_REC_WIN + recSlotLen) then n.recShown a
  else match hit (Reg.PDT_BUF 0) 0x800 512 a with
    | some (d, o) => n.bufShown ctx d o
    | none => (n.timeShown a).getD (n.reg a) ||| n.phaseShown a

/-! ### Latches (R5, R40, R307, R674) -/

/-- The low word of a 64-bit counter, whose high word follows (R5). -/
def isLowWord (a : Nat) : Bool :=
  [Reg.TOP_ECC_CORR_LO, Reg.CYC_NUM_LO, Reg.TMB_RAW_LO, Reg.PAR_DUP_LO, Reg.JLK_TX_FRM_LO, Reg.JLK_RX_FRM_LO, Reg.AUD_SAMPLE_LO,
    Reg.MEM_ECC_CORR_LO].contains a ||
  (match portHit a with | some (_, o) => [0x10, 0x100, 0x108, 0x110, 0x118].contains o | none => false) ||
  (match hit 0x02800000 0x40000 4 a with | some (_, o) => o == 0x40 || o == 0x48 | none => false) ||
  (match hit 0x03C00400 0x20 13 a with | some (_, o) => o == 0x08 || o == 0x10 | none => false)

/-- The registers that a read of an address latches for the reading context. -/
def latchesOf (a : Nat) : List Nat :=
  if a = Reg.TOP_PLACE then [Reg.TOP_EPOCH]
  else if a = Reg.TMB_NOW_NS then [Reg.TMB_NOW_SEC_LO, Reg.TMB_NOW_SEC_HI, Reg.TMB_NOW_FRAC, Reg.TMB_EPOCH_NS,
    Reg.TMB_EPOCH_SEC_LO, Reg.TMB_EPOCH_SEC_HI]
  else if isLowWord a then [a + 4]
  else match hit (Reg.EVT_LOG 0) 0x10 1024 a with
    | some (_, 0) => [a + 4, a + 8, a + 12]
    | _ => []

/-- A latched value is used once, but those of a read of `TMB_NOW_NS`, which stand until the next (R307). -/
def latchStands (a : Nat) : Bool := isIn a Reg.TMB_NOW_SEC_LO (Reg.TMB_EPOCH_SEC_HI + 4)

/-- The value returned for a read, with the latches that the read sets or uses. -/
def Node.readLatched (n : Node) (secure : Bool) (ctx a : Nat) : Node :=
  match n.latched ctx a with
  | some v => (if latchStands a then n else n.unlatch ctx a).answer v
  | none =>
    let m := n.answer (n.shown secure ctx a)
    (latchesOf a).foldl (fun k b => k.latch ctx b (n.shown secure ctx b)) m

/-! ### Reads that change state -/

/-- A read clears an RC register; what hardware sets in the same cycle stays (R10). The lowest count of free cells starts again
from the count now. -/
def Node.readClear (n : Node) (a : Nat) (hw : Word) : Node :=
  match regRow a with
  | some r =>
    if r.access != .rc then n
    else if a = Reg.TOP_BUF_OPEN_MIN then n.setReg a (n.reg Reg.TOP_BUF_OPEN_FREE)
    else n.setReg a hw
  | none => n

/-- The oldest refusal leaves the violation log (R652). -/
def Node.violPop (n : Node) : Node := { n with host := { n.host with viol := n.host.viol.tail } }.syncViol

/-- The CAN entry whose first or last word an address is: controller, kind, index, and whether it is the last (R543). -/
def canWord (a : Nat) : Option (Nat × Nat × Nat × Bool) :=
  match hit 0x02800000 0x40000 4 a with
  | none => none
  | some (c, o) =>
    if isIn o 0x11000 0x11200 then
      (if o % 0x100 = 0 then some (c, 0, (o - 0x11000) / 0x100, false)
       else if o % 0x100 = 80 then some (c, 0, (o - 0x11000) / 0x100, true) else none)
    else if o = 0x12000 then some (c, 2, 0, false)
    else if o = 0x12008 then some (c, 2, 0, true)
    else if isIn o 0x20000 0x24000 then
      (if o % 0x80 = 0 then some (c, 1, (o - 0x20000) / 0x80, false)
       else if o % 0x80 = 80 then some (c, 1, (o - 0x20000) / 0x80, true) else none)
    else none

/-- The registers whose value follows the time are brought up to date before a read. -/
def Node.refresh (n : Node) (a : Nat) : Node :=
  if isIn a 0x02000000 0x02800000 then n.audRefresh
  else if isIn a 0x02C00000 0x03000000 then n.brgRefresh
  else if isIn a 0x03C00000 0x04000000 then n.loopRefresh
  else match hit (Reg.CHK_CTX_RUN 0) 0x40 32 a with
    | some (c, 0) => n.chkRunRead c
    | _ => n

/-- A read of an address that takes an entry from a queue, locks or releases a CAN entry, or pins a view. -/
def Node.readTakes (n : Node) (ctx a : Nat) : Option Node :=
  if a = Reg.WLD_VIOL_W3 then some (n.answer (n.reg a)).violPop
  else if a = Reg.DIO_EDGE_W1 then some (n.edgeRead ctx)
  else if a = Reg.BRG_PWE_W4 then some (n.pwePop ctx)
  else match hit (Reg.TMB_TSQ_W2 0) 0x20 8 a, hit (Reg.TMB_TCAP_SEC_HI 0) 0x20 4 a, hit (Reg.PDT_BUF 0) 0x800 512 a, canWord a with
    | some (q, 0), _, _, _ => if n.tsqMine ctx q then some ((n.answer (n.reg a)).tsqPop q) else none
    | _, some (i, 0), _, _ => some ((n.answer (n.reg a)).capturePop i)
    | _, _, some (d, 0), _ => if ((n.dsAt d).map (·.consumed)).getD false then some (n.bufStatus ctx d) else none
    | _, _, _, some (c, k, i, true) => some (n.releaseRead ctx c k i)
    | _, _, _, some (c, k, i, false) => some (n.lockRead ctx c k i)
    | _, _, _, _ => none

/-- What a read does at an address whose checks it has passed; `hw` is what hardware sets in the same cycle (R10). -/
def Node.readReg (n : Node) (secure : Bool) (ctx a : Nat) (hw : Word) : Node :=
  let m := n.refresh a
  match m.readTakes ctx a with
  | some k => k
  | none =>
    if m.metered a then
      let (k, v) := m.free
      k.answer v
    else (m.readLatched secure ctx a).readClear a hw

/-- REGISTER_READ (R666, R669): a read of a register, or of the MSI-X table and pending bits of the context's function. A word that an SPI port cannot present in time comes back as all ones and sets
`RETRY`, and is not read (R627, R760). -/
def execRegisterRead (ctx addr : Nat) (late : Bool) (s : State) : Host.Outcome State Fault Refusal :=
  .next (s.on fun n =>
    if n.isBar4 ctx addr then n.answer (n.bar4Read ctx (addr - bar4Base)) else
    n.access ctx addr false fun m =>
      if late && (ctx == 4 || ctx == 5) then
        (m.answer 0xFFFFFFFF#32).spiFlag ctx fun x => { x with retry := true }
      else m.readReg (m.ctxSecure ctx) ctx addr 0#32)

/-- RC_REGISTER_READ (R10): a read of a read-clear register; `hw` is what hardware sets in the same cycle. -/
def execRcRegisterRead (ctx addr : Nat) (hw : Word) (s : State) : Host.Outcome State Fault Refusal :=
  .next (s.on fun n => n.access ctx addr false fun m => m.readReg (m.ctxSecure ctx) ctx addr hw)

/-- COUNTER_LOW_WORD_READ (R5): a read of the low word of a 64-bit counter. -/
def execCounterLowWordRead (ctx addr : Nat) (s : State) : Host.Outcome State Fault Refusal :=
  .next (s.on fun n => n.access ctx addr false fun m => m.readReg (m.ctxSecure ctx) ctx addr 0#32)

/-- TOP_PLACE_READ (R40): a read of `TOP_PLACE`. -/
def execTopPlaceRead (ctx : Nat) (s : State) : Host.Outcome State Fault Refusal :=
  .next (s.on fun n => n.access ctx Reg.TOP_PLACE false fun m => m.readReg (m.ctxSecure ctx) ctx Reg.TOP_PLACE 0#32)

/-- TMB_NOW_NS_READ (R307): a read of `TMB_NOW_NS`. -/
def execTmbNowNsRead (ctx time : Nat) (s : State) : Host.Outcome State Fault Refusal :=
  .next (s.on fun n => (n.at time).access ctx Reg.TMB_NOW_NS false fun m =>
    m.readReg (m.ctxSecure ctx) ctx Reg.TMB_NOW_NS 0#32)

/-- VIOLATION_LOG_READ (R652): a read of `WLD_VIOL_W3` removes the oldest entry. -/
def execViolationLogRead (ctx : Nat) (s : State) : Host.Outcome State Fault Refusal :=
  .next (s.on fun n => n.access ctx Reg.WLD_VIOL_W3 false fun m =>
    m.readReg (m.ctxSecure ctx) ctx Reg.WLD_VIOL_W3 0#32)

/-- REG_ACCESS_BAD (R666): a memory TLP to BAR0 that is not one naturally aligned 4-byte access. A read completes with Completer
Abort, a write is dropped; the node counts and reports both. -/
def execRegAccessBad (ctx addr len : Nat) (write : Bool) (s : State) : Host.Outcome State Fault Refusal :=
  .next (s.on fun n =>
    if 4 ≤ ctx ∨ !n.bit Reg.TOP_PD_STATE 9 ∨ regSpace ≤ addr ∨ (addr % 4 = 0 ∧ len = 4) then n
    else
      let m := (n.answer 0#32).badAccess addr len
      { m with host := { m.host with readAbort := !write } })

/-! ### The owning node performs a remote access (R577, R592, R594) -/

/-- The fields of a request. -/
def OwnReq.op (q : OwnReq) : Nat := byteAt q.payload 0
def OwnReq.size (q : OwnReq) : Nat := 2 ^ (byteAt q.payload 1 % 4)
def OwnReq.prefetch (q : OwnReq) : Bool := (byteAt q.payload 1).testBit 2
def OwnReq.tag (q : OwnReq) : Nat := beAt q.payload 2 2
def OwnReq.window (q : OwnReq) : Nat := byteAt q.payload 4 % 16
def OwnReq.ctx (q : OwnReq) : Nat := byteAt q.payload 5 % 8
def OwnReq.secure (q : OwnReq) : Bool := (byteAt q.payload 5).testBit 3
def OwnReq.session (q : OwnReq) : Nat := beAt q.payload 6 2
def OwnReq.off (q : OwnReq) : Nat := beAt q.payload 8 8
def OwnReq.data (q : OwnReq) : List Byte := slice q.payload 24 q.size

/-- The configuration bits of a window (R598): valid, read-only, secure, DRAM. -/
def Node.winBit (n : Node) (w b : Nat) : Bool := n.bit (Reg.BRG_WIN_CFG w) b

/-- The size of a window in bytes, and the place of an offset in its space: a register address, or a DRAM address. -/
def Node.winSize (n : Node) (w : Nat) : Nat := (n.reg (Reg.BRG_WIN_SIZE w)).toNat * 1024
def Node.winPlace (n : Node) (w off : Nat) : Nat :=
  let base := (n.reg (Reg.BRG_WIN_BASE_LO w)).toNat + (n.reg (Reg.BRG_WIN_BASE_HI w)).toNat * 2 ^ 32
  if n.winBit w 5 then (n.region (n.bits (Reg.BRG_WIN_CFG w) 8 3)).1 + base + off else base + off

/-- The requester holds the window's lock (R592): node and context. -/
def Node.winMine (n : Node) (q : OwnReq) : Bool :=
  n.winLocked q.window && (n.winHolder q.window).1 == q.requester && (n.winHolder q.window).2.1 == q.ctx

/-- The reason for which a request is refused, 0 when it is performed (R576, R592): the window and the range, the world, a
read-only window, a lock that another holds, and the size in a register window. -/
def Node.farReason (n : Node) (q : OwnReq) : Nat :=
  let w := q.window
  if q.op = 5 then 0
  else if !n.winBit w 0 then 3
  else if n.winBit w 4 && !q.secure then 2
  else if q.op = 4 then 0
  else if q.op = 3 then (if n.winLocked w && !n.winMine q then 5 else 0)
  else if n.winSize w < q.off + q.size then 3
  else if q.op = 2 ∧ n.winBit w 1 then 1
  else if q.op = 2 ∧ n.winLocked w ∧ !n.winMine q then 5
  else if !n.winBit w 5 ∧ (q.size ≠ 4 ∨ q.off % 4 ≠ 0) then 6
  else 0

/-- The code of a remote node as requester (R650, R652). -/
def farRequester : Nat := 0x20

/-- A register access of a window's world (R577): a refused read returns zero. -/
def Node.farRegister (n : Node) (secure : Bool) (a : Nat) (write : Bool) (v : Word) : Node :=
  (n.answer 0#32).checked secure farRequester a write fun m =>
    if write then m.writeReg farRequester a v 0#32 else m.readReg secure farRequester a 0#32

/-- The bytes of a read, its block when the request asks for one and the window allows it (R590). -/
def Node.farRead (n : Node) (q : OwnReq) : Node × List Byte :=
  let w := q.window
  let block := q.prefetch && n.winBit w 3
  let first := if block then q.off - q.off % 256 else q.off
  let len := if block then min 256 (n.winSize w - first) else q.size
  if n.winBit w 5 then (n, n.dramRead (n.winPlace w first) len)
  else
    (List.range ((len + 3) / 4)).foldl (fun (a : Node × List Byte) i =>
      let m := a.1.farRegister (a.1.winBit w 4) (a.1.winPlace w (first + 4 * i)) false 0#32
      (m, a.2 ++ encLE 4 m.host.readData.toNat)) (n, [])

/-- A request is performed (R577, R592, R594): the node after it, the reason and the data. -/
def Node.perform (n : Node) (q : OwnReq) : Node × List Byte :=
  let w := q.window
  let m := if n.winMine q && q.op != 4 then n.winRenew w else n
  match q.op with
  | 1 =>
    let keep := m.host
    let (k, b) := m.farRead q
    ({ k with host := { k.host with readData := keep.readData, readAbort := keep.readAbort } }, b)
  | 2 =>
    let a := m.winPlace w q.off
    if m.winBit w 5 then ((m.dramWrite a q.data).libTouched a q.size, [])
    else
      let k := m.farRegister (m.winBit w 4) a true (word (leAt q.data 0 4))
      ({ k with host := { k.host with readData := m.host.readData, readAbort := m.host.readAbort } }, [])
  | 3 => (m.winLock w q.requester q.ctx q.tag, [])
  | 4 => (if m.winMine q && (m.winHolder w).2.2 == q.tag % 64 then m.winFree w else m, [])
  | 5 => (m, encBE 4 (m.reg Reg.BRG_SB_OUT).toNat ++ encBE 4 (m.reg Reg.EVT_LOG_TOTAL).toNat)
  | _ => (m, [])

/-- A request refused: counted, and for its world logged as a refusal of a remote node (R588, R650). -/
def Node.farRefuse (n : Node) (q : OwnReq) (reason : Nat) : Node :=
  let m := n.inc Reg.BRG_FAR_REFUSED
  if reason = 2 then m.refuse farRequester (q.op == 2) 3 1 (q.off % 2 ^ 32) q.src else m

/-- REMOTE_ACCESS_PERFORMED: the owning node performs the oldest request and answers it: a read, a lock and a summary always,
a write when it fails (R577, R579, R585, R592, R594). -/
def execRemoteAccessPerformed (time : Nat) (s : State) : Host.Outcome State Fault Refusal :=
  .next (s.on fun n =>
    let m := n.at time
    match m.brg.queue with
    | [] => m
    | q :: rest =>
      let m := { m with brg := { m.brg with queue := rest } }
      let reason := if m.ps2 then m.farReason q else 9
      let (k, data) := if reason = 0 then m.perform q else (m.farRefuse q reason, [])
      let said := q.op == 1 || q.op == 3 || q.op == 5 || (q.op == 2 && reason != 0)
      if said && k.answers q then
        k.rwinRsp q.requester q.op reason q.tag (if q.op = 5 then 0 else k.winAttrs q.window) q.window q.session q.seq data
      else k)

end Sys2Proof.Machine
end

