-- ==== Sys2Proof/Machine/Dispatch.lean ====
section
/-! DEFINITION. One arm per command. An arm that is refused has no meaning yet and says so by name. -/

namespace Sys2Proof.Machine

def exec (i : Instr) (s : State) : Host.Outcome State Fault Refusal :=
  match i with
  | .registerWrite ctx addr v => Sys2Proof.Machine.execRegisterWrite ctx addr v s
  | .w1cWrite ctx addr v hw => Sys2Proof.Machine.execW1cWrite ctx addr v hw s
  | .rcRegisterRead ctx addr hw => Sys2Proof.Machine.execRcRegisterRead ctx addr hw s
  | .counterLowWordRead ctx addr => Sys2Proof.Machine.execCounterLowWordRead ctx addr s
  | .topPlaceRead ctx => Sys2Proof.Machine.execTopPlaceRead ctx s
  | .tmbNowNsRead ctx time => Sys2Proof.Machine.execTmbNowNsRead ctx time s
  | .regAccessBad ctx addr len write => Sys2Proof.Machine.execRegAccessBad ctx addr len write s
  | .violationLogRead ctx => Sys2Proof.Machine.execViolationLogRead ctx s
  | .spiStatusTransaction port => Sys2Proof.Machine.execSpiStatusTransaction port s
  | .spiInvalidTransaction port => Sys2Proof.Machine.execSpiInvalidTransaction port s
  | .sqTailDoorbell ctx ring v => Sys2Proof.Machine.execSqTailDoorbell ctx ring v s
  | .cqHeadDoorbell ctx ring v => Sys2Proof.Machine.execCqHeadDoorbell ctx ring v s
  | .evqHeadDoorbell ctx v => Sys2Proof.Machine.execEvqHeadDoorbell ctx v s
  | .ringSizeWrite ctx addr v => Sys2Proof.Machine.execRingSizeWrite ctx addr v s
  | .ftxTailDoorbell ctx v => Sys2Proof.Machine.execFtxTailDoorbell ctx v s
  | .frxTailDoorbell ctx v => Sys2Proof.Machine.execFrxTailDoorbell ctx v s
  | .hostFrameTransmit ctx len frameTag flags frame time => Sys2Proof.Machine.execHostFrameTransmit ctx len frameTag flags frame time s
  | .commandFetch ctx ring entry time => Sys2Proof.Machine.execCommandFetch ctx ring entry time s
  | .undefinedOpcode c => Sys2Proof.Machine.execUndefinedOpcode c s
  | .hostFrameCommands r => Sys2Proof.Machine.execHostFrameCommands r s
  | .completionFrameSend ctx time => Sys2Proof.Machine.execCompletionFrameSend ctx time s
  | .hostFrameLinkTimeout ctx time => Sys2Proof.Machine.execHostFrameLinkTimeout ctx time s
  | .cqIrqTimerExpiry ctx ring time => Sys2Proof.Machine.execCqIrqTimerExpiry ctx ring time s
  | .hstCtxResetWrite ctx target v => Sys2Proof.Machine.execHstCtxResetWrite ctx target v s
  | .contextReset ctx time => Sys2Proof.Machine.execContextReset ctx time s
  | .pcieFunctionLevelReset fn => Sys2Proof.Machine.execPcieFunctionLevelReset fn s
  | .pcieLinkDown time => Sys2Proof.Machine.execPcieLinkDown time s
  | .pciePerst time => Sys2Proof.Machine.execPciePerst time s
  | .hostDmaError ctx ring cause time => Sys2Proof.Machine.execHostDmaError ctx ring cause time s
  | .nodeStatus c => Sys2Proof.Machine.execNodeStatus c s
  | .nodeNop c => Sys2Proof.Machine.execNodeNop c s
  | .ctxReset c => Sys2Proof.Machine.execCtxReset c s
  | .ctxInfo c => Sys2Proof.Machine.execCtxInfo c s
  | .jrnStatus c => Sys2Proof.Machine.execJrnStatus c s
  | .jrnRead c => Sys2Proof.Machine.execJrnRead c s
  | .jrnAck c => Sys2Proof.Machine.execJrnAck c s
  | .jrnClear c => Sys2Proof.Machine.execJrnClear c s
  | .eventRoute time => Sys2Proof.Machine.execEventRoute time s
  | .faultLogWord0Read ctx index => Sys2Proof.Machine.execFaultLogWord0Read ctx index s
  | .evtClearLog ctx => Sys2Proof.Machine.execEvtClearLog ctx s
  | .evtClearFatal ctx => Sys2Proof.Machine.execEvtClearFatal ctx s
  | .engineFault engine cause time => Sys2Proof.Machine.execEngineFault engine cause time s
  | .engineFaultClear ctx v => Sys2Proof.Machine.execEngineFaultClear ctx v s
  | .sramScrub ecc time => Sys2Proof.Machine.execSramScrub ecc time s
  | .resetRelease strap flash time => Sys2Proof.Machine.execResetRelease strap flash time s
  | .bistRunComplete fail first time => Sys2Proof.Machine.execBistRunComplete fail first time s
  | .dramTrainingDone sizes rate failed eyes time => Sys2Proof.Machine.execDramTrainingDone sizes rate failed eyes time s
  | .imageCheckPoint facts ecc bus time => Sys2Proof.Machine.execImageCheckPoint facts ecc bus time s
  | .imageBooted time => Sys2Proof.Machine.execImageBooted time s
  | .bootAttemptClear time => Sys2Proof.Machine.execBootAttemptClear time s
  | .imgStatus c => Sys2Proof.Machine.execImgStatus c s
  | .imgSlotErase c => Sys2Proof.Machine.execImgSlotErase c s
  | .imgSlotWrite c => Sys2Proof.Machine.execImgSlotWrite c s
  | .imgSlotVerify c => Sys2Proof.Machine.execImgSlotVerify c s
  | .imgSlotMarkBad c => Sys2Proof.Machine.execImgSlotMarkBad c s
  | .imgTintStage c => Sys2Proof.Machine.execImgTintStage c s
  | .imgTintCommit c => Sys2Proof.Machine.execImgTintCommit c s
  | .imgTintDiscard c => Sys2Proof.Machine.execImgTintDiscard c s
  | .imgRollbackAdvance c => Sys2Proof.Machine.execImgRollbackAdvance c s
  | .imgRestart c => Sys2Proof.Machine.execImgRestart c s
  | .imgKeyRevoke c => Sys2Proof.Machine.execImgKeyRevoke c s
  | .linkUp port rate time => Sys2Proof.Machine.execLinkUp port rate time s
  | .linkDown port cut time => Sys2Proof.Machine.execLinkDown port cut time s
  | .macsecMismatch port cause time => Sys2Proof.Machine.execMacsecMismatch port cause time s
  | .preemptVerifyAttempt port time => Sys2Proof.Machine.execPreemptVerifyAttempt port time s
  | .adminDownWrite ctx port v => Sys2Proof.Machine.execAdminDownWrite ctx port v s
  | .wakeSendWrite ctx port v => Sys2Proof.Machine.execWakeSendWrite ctx port v s
  | .wakeSendAuto time => Sys2Proof.Machine.execWakeSendAuto time s
  | .wakeFrameSend port time => Sys2Proof.Machine.execWakeFrameSend port time s
  | .filterRuleWrite ctx rule wordIndex v => Sys2Proof.Machine.execFilterRuleWrite ctx rule wordIndex v s
  | .mdioGoWrite ctx master v => Sys2Proof.Machine.execMdioGoWrite ctx master v s
  | .mdioFrameDone master data time => Sys2Proof.Machine.execMdioFrameDone master data time s
  | .openFrameReceived r => Sys2Proof.Machine.execOpenFrameReceived r s
  | .macControlFrameReceived r => Sys2Proof.Machine.execMacControlFrameReceived r s
  | .slotFrameReceived r => Sys2Proof.Machine.execSlotFrameReceived r s
  | .statusFrameReceived r => Sys2Proof.Machine.execStatusFrameReceived r s
  | .refReceived r => Sys2Proof.Machine.execRefReceived r s
  | .cycleBoundary time => Sys2Proof.Machine.execCycleBoundary time s
  | .refLost time => Sys2Proof.Machine.execRefLost time s
  | .backupTakeoverClaim time => Sys2Proof.Machine.execBackupTakeoverClaim time s
  | .orphaned time => Sys2Proof.Machine.execOrphaned time s
  | .takeInstant stream time => Sys2Proof.Machine.execTakeInstant stream time s
  | .originatedSlotSend stream time => Sys2Proof.Machine.execOriginatedSlotSend stream time s
  | .forwardGateOpen stream port time => Sys2Proof.Machine.execForwardGateOpen stream port time s
  | .slotOverrun stream port time => Sys2Proof.Machine.execSlotOverrun stream port time s
  | .closingGuardStart time => Sys2Proof.Machine.execClosingGuardStart time s
  | .pollSend time => Sys2Proof.Machine.execPollSend time s
  | .pollReceived r => Sys2Proof.Machine.execPollReceived r s
  | .replyReceived r => Sys2Proof.Machine.execReplyReceived r s
  | .pollMissed time => Sys2Proof.Machine.execPollMissed time s
  | .masterMessageSend time => Sys2Proof.Machine.execMasterMessageSend time s
  | .modeRequestSend time => Sys2Proof.Machine.execModeRequestSend time s
  | .modeRequestReceived r => Sys2Proof.Machine.execModeRequestReceived r s
  | .modeAnswerReceived r => Sys2Proof.Machine.execModeAnswerReceived r s
  | .masterAnswerTimeout ctx ring seq time => Sys2Proof.Machine.execMasterAnswerTimeout ctx ring seq time s
  | .cycStatus c => Sys2Proof.Machine.execCycStatus c s
  | .cycModeSwitch c => Sys2Proof.Machine.execCycModeSwitch c s
  | .cycModeAbort c => Sys2Proof.Machine.execCycModeAbort c s
  | .cycModeInfo c => Sys2Proof.Machine.execCycModeInfo c s
  | .linkWaitExpiry time => Sys2Proof.Machine.execLinkWaitExpiry time s
  | .listenWaitExpiry time => Sys2Proof.Machine.execListenWaitExpiry time s
  | .claimSend time => Sys2Proof.Machine.execClaimSend time s
  | .claimReceived r => Sys2Proof.Machine.execClaimReceived r s
  | .masterElected time => Sys2Proof.Machine.execMasterElected time s
  | .topoRoundStart time => Sys2Proof.Machine.execTopoRoundStart time s
  | .topoProbeReceived r => Sys2Proof.Machine.execTopoProbeReceived r s
  | .topoReplyReceived r => Sys2Proof.Machine.execTopoReplyReceived r s
  | .topoNoticeReceived r => Sys2Proof.Machine.execTopoNoticeReceived r s
  | .topoRoundTimeout time => Sys2Proof.Machine.execTopoRoundTimeout time s
  | .numberingAssigned time => Sys2Proof.Machine.execNumberingAssigned time s
  | .topoResultReceived r => Sys2Proof.Machine.execTopoResultReceived r s
  | .operationRequestReceived r => Sys2Proof.Machine.execOperationRequestReceived r s
  | .operationAnswerReceived r => Sys2Proof.Machine.execOperationAnswerReceived r s
  | .trainResetInstant time => Sys2Proof.Machine.execTrainResetInstant time s
  | .snapshotTaken time => Sys2Proof.Machine.execSnapshotTaken time s
  | .snapshotRecordSend time => Sys2Proof.Machine.execSnapshotRecordSend time s
  | .trainSetLead c => Sys2Proof.Machine.execTrainSetLead c s
  | .trainStatus c => Sys2Proof.Machine.execTrainStatus c s
  | .trainReinaugurate c => Sys2Proof.Machine.execTrainReinaugurate c s
  | .trainReset c => Sys2Proof.Machine.execTrainReset c s
  | .trainSnapshot c => Sys2Proof.Machine.execTrainSnapshot c s
  | .ttdpHelloSend time => Sys2Proof.Machine.execTtdpHelloSend time s
  | .ttdpHelloReceived port identity time => Sys2Proof.Machine.execTtdpHelloReceived port identity time s
  | .ttdpHelloTimeout port time => Sys2Proof.Machine.execTtdpHelloTimeout port time s
  | .ttdpTopologySend time => Sys2Proof.Machine.execTtdpTopologySend time s
  | .ttdpTopologyReceived port etbn count counter time => Sys2Proof.Machine.execTtdpTopologyReceived port etbn count counter time s
  | .pdelayRequestSend port time => Sys2Proof.Machine.execPdelayRequestSend port time s
  | .pdelayRequestReceived r turnaround => Sys2Proof.Machine.execPdelayRequestReceived r turnaround s
  | .pdelayResponseReceived r => Sys2Proof.Machine.execPdelayResponseReceived r s
  | .pdelayResponseTimeout port time => Sys2Proof.Machine.execPdelayResponseTimeout port time s
  | .timeWrap time => Sys2Proof.Machine.execTimeWrap time s
  | .slewComplete time => Sys2Proof.Machine.execSlewComplete time s
  | .timeStatus c => Sys2Proof.Machine.execTimeStatus c s
  | .timeSet c => Sys2Proof.Machine.execTimeSet c s
  | .timeAdjust c => Sys2Proof.Machine.execTimeAdjust c s
  | .timeToutSet c => Sys2Proof.Machine.execTimeToutSet c s
  | .timeToutStop c => Sys2Proof.Machine.execTimeToutStop c s
  | .toutArmWrite ctx output v => Sys2Proof.Machine.execToutArmWrite ctx output v s
  | .toutModeOffWrite ctx output v => Sys2Proof.Machine.execToutModeOffWrite ctx output v s
  | .toutPulse output time => Sys2Proof.Machine.execToutPulse output time s
  | .toutBindWrite ctx output v => Sys2Proof.Machine.execToutBindWrite ctx output v s
  | .tcapEdge input rising time => Sys2Proof.Machine.execTcapEdge input rising time s
  | .tcapEntryRead ctx input => Sys2Proof.Machine.execTcapEntryRead ctx input s
  | .tsqEntryRead ctx queue => Sys2Proof.Machine.execTsqEntryRead ctx queue s
  | .gptpSyncSend port time => Sys2Proof.Machine.execGptpSyncSend port time s
  | .gptpAnnounceSend port time => Sys2Proof.Machine.execGptpAnnounceSend port time s
  | .gptpPdelaySend port time => Sys2Proof.Machine.execGptpPdelaySend port time s
  | .ptpMessageReceived port msgType time => Sys2Proof.Machine.execPtpMessageReceived port msgType time s
  | .audioPllLock phase time => Sys2Proof.Machine.execAudioPllLock phase time s
  | .aonRcCalibrate hz time => Sys2Proof.Machine.execAonRcCalibrate hz time s
  | .placementDecision time => Sys2Proof.Machine.execPlacementDecision time s
  | .verdictReceived r => Sys2Proof.Machine.execVerdictReceived r s
  | .placerSwitchRequest time => Sys2Proof.Machine.execPlacerSwitchRequest time s
  | .censusSend time => Sys2Proof.Machine.execCensusSend time s
  | .requestRetry time => Sys2Proof.Machine.execRequestRetry time s
  | .replacementComputed time => Sys2Proof.Machine.execReplacementComputed time s
  | .msgReceived r => Sys2Proof.Machine.execMsgReceived r s
  | .storedMessageExpiry time => Sys2Proof.Machine.execStoredMessageExpiry time s
  | .streamDeclare c => Sys2Proof.Machine.execStreamDeclare c s
  | .streamRemove c => Sys2Proof.Machine.execStreamRemove c s
  | .streamQuery c => Sys2Proof.Machine.execStreamQuery c s
  | .streamReplaceAll c => Sys2Proof.Machine.execStreamReplaceAll c s
  | .streamMsgSend c => Sys2Proof.Machine.execStreamMsgSend c s
  | .streamMsgRecv c => Sys2Proof.Machine.execStreamMsgRecv c s
  | .plcStatus c => Sys2Proof.Machine.execPlcStatus c s
  | .leaseRenewSend time => Sys2Proof.Machine.execLeaseRenewSend time s
  | .jalderRenewReceived r => Sys2Proof.Machine.execJalderRenewReceived r s
  | .jalderAckReceived r => Sys2Proof.Machine.execJalderAckReceived r s
  | .heartbeatPulseReceived rise high => Sys2Proof.Machine.execHeartbeatPulseReceived rise high s
  | .tokenDemoted time => Sys2Proof.Machine.execTokenDemoted time s
  | .leaseTakeover time => Sys2Proof.Machine.execLeaseTakeover time s
  | .fenceReleaseTakeover time => Sys2Proof.Machine.execFenceReleaseTakeover time s
  | .soloWaitExpiry time => Sys2Proof.Machine.execSoloWaitExpiry time s
  | .partnerLost time => Sys2Proof.Machine.execPartnerLost time s
  | .pairPathLost path time => Sys2Proof.Machine.execPairPathLost path time s
  | .jalderHandoverReceived r => Sys2Proof.Machine.execJalderHandoverReceived r s
  | .jalderHandoverAckReceived r => Sys2Proof.Machine.execJalderHandoverAckReceived r s
  | .handoverExecute time => Sys2Proof.Machine.execHandoverExecute time s
  | .handoverTake time => Sys2Proof.Machine.execHandoverTake time s
  | .handoverTimeout time => Sys2Proof.Machine.execHandoverTimeout time s
  | .muteHandover time => Sys2Proof.Machine.execMuteHandover time s
  | .stateCopySend time => Sys2Proof.Machine.execStateCopySend time s
  | .jalderCopyReceived r => Sys2Proof.Machine.execJalderCopyReceived r s
  | .jalderCopyEndReceived r => Sys2Proof.Machine.execJalderCopyEndReceived r s
  | .resyncRequestSend time => Sys2Proof.Machine.execResyncRequestSend time s
  | .jalderResyncReceived r => Sys2Proof.Machine.execJalderResyncReceived r s
  | .pairStatus c => Sys2Proof.Machine.execPairStatus c s
  | .pairHandover c => Sys2Proof.Machine.execPairHandover c s
  | .pairResync c => Sys2Proof.Machine.execPairResync c s
  | .pairTrkReset c => Sys2Proof.Machine.execPairTrkReset c s
  | .sampleInstant stream time => Sys2Proof.Machine.execSampleInstant stream time s
  | .discreteBufferComplete stream time => Sys2Proof.Machine.execDiscreteBufferComplete stream time s
  | .decisionPoint stream time => Sys2Proof.Machine.execDecisionPoint stream time s
  | .outputInstant stream time => Sys2Proof.Machine.execOutputInstant stream time s
  | .carDeliverySend stream port time => Sys2Proof.Machine.execCarDeliverySend stream port time s
  | .carInputFrameReceived r => Sys2Proof.Machine.execCarInputFrameReceived r s
  | .pdtDsDoneWrite ctx d v => Sys2Proof.Machine.execPdtDsDoneWrite ctx d v s
  | .pdtBufStatusRead ctx d => Sys2Proof.Machine.execPdtBufStatusRead ctx d s
  | .pdStatus c => Sys2Proof.Machine.execPdStatus c s
  | .pdInfo c => Sys2Proof.Machine.execPdInfo c s
  | .pdWrite c => Sys2Proof.Machine.execPdWrite c s
  | .pdRead c => Sys2Proof.Machine.execPdRead c s
  | .dioSet c => Sys2Proof.Machine.execDioSet c s
  | .dioStatus c => Sys2Proof.Machine.execDioStatus c s
  | .dioOutSetWrite ctx v => Sys2Proof.Machine.execDioOutSetWrite ctx v s
  | .dioOutClrWrite ctx v => Sys2Proof.Machine.execDioOutClrWrite ctx v s
  | .lineEdge line level time => Sys2Proof.Machine.execLineEdge line level time s
  | .lineStuck line time => Sys2Proof.Machine.execLineStuck line time s
  | .wakeStuck input time => Sys2Proof.Machine.execWakeStuck input time s
  | .stormEnded line time => Sys2Proof.Machine.execStormEnded line time s
  | .dlReadbackFail line time => Sys2Proof.Machine.execDlReadbackFail line time s
  | .edgeEntryRead ctx => Sys2Proof.Machine.execEdgeEntryRead ctx s
  | .paMessageReceived r => Sys2Proof.Machine.execPaMessageReceived r s
  | .paStartSample requester tag time => Sys2Proof.Machine.execPaStartSample requester tag time s
  | .announcementEnded requester tag time => Sys2Proof.Machine.execAnnouncementEnded requester tag time s
  | .audioInstanceDecision stream time => Sys2Proof.Machine.execAudioInstanceDecision stream time s
  | .graphOverload engine time => Sys2Proof.Machine.execGraphOverload engine time s
  | .paramApply time => Sys2Proof.Machine.execParamApply time s
  | .tdmClockFault port time => Sys2Proof.Machine.execTdmClockFault port time s
  | .aafPduReceived r => Sys2Proof.Machine.execAafPduReceived r s
  | .aafPduSend index time => Sys2Proof.Machine.execAafPduSend index time s
  | .libraryVerify entry time => Sys2Proof.Machine.execLibraryVerify entry time s
  | .callMessageReceived r => Sys2Proof.Machine.execCallMessageReceived r s
  | .callRequestRepeat station time => Sys2Proof.Machine.execCallRequestRepeat station time s
  | .callEscalated pair station counter time => Sys2Proof.Machine.execCallEscalated pair station counter time s
  | .recordingBlockWrite station time => Sys2Proof.Machine.execRecordingBlockWrite station time s
  | .audStatus c => Sys2Proof.Machine.execAudStatus c s
  | .paPlay c => Sys2Proof.Machine.execPaPlay c s
  | .paLive c => Sys2Proof.Machine.execPaLive c s
  | .paChime c => Sys2Proof.Machine.execPaChime c s
  | .paStop c => Sys2Proof.Machine.execPaStop c s
  | .audParamSet c => Sys2Proof.Machine.execAudParamSet c s
  | .audLibWrite c => Sys2Proof.Machine.execAudLibWrite c s
  | .audLibInfo c => Sys2Proof.Machine.execAudLibInfo c s
  | .callStatus c => Sys2Proof.Machine.execCallStatus c s
  | .callAnswer c => Sys2Proof.Machine.execCallAnswer c s
  | .callHold c => Sys2Proof.Machine.execCallHold c s
  | .callEnd c => Sys2Proof.Machine.execCallEnd c s
  | .callCabSet c => Sys2Proof.Machine.execCallCabSet c s
  | .callRecProtect c => Sys2Proof.Machine.execCallRecProtect c s
  | .callRecFind c => Sys2Proof.Machine.execCallRecFind c s
  | .canFrameReceived ctl f sof time => Sys2Proof.Machine.execCanFrameReceived ctl f sof time s
  | .canFrameSent ctl idx obj sof time => Sys2Proof.Machine.execCanFrameSent ctl idx obj sof time s
  | .canArbitrationLost ctl idx obj time => Sys2Proof.Machine.execCanArbitrationLost ctl idx obj time s
  | .canTxError ctl idx obj clash counted time => Sys2Proof.Machine.execCanTxError ctl idx obj clash counted time s
  | .busRecovered ctl time => Sys2Proof.Machine.execBusRecovered ctl time s
  | .dominantTimeout ctl time => Sys2Proof.Machine.execDominantTimeout ctl time s
  | .dominantReleased ctl time => Sys2Proof.Machine.execDominantReleased ctl time s
  | .timedEntryRelease ctl queue time => Sys2Proof.Machine.execTimedEntryRelease ctl queue time s
  | .canTxqPush ctx ctl queue v => Sys2Proof.Machine.execCanTxqPush ctx ctl queue v s
  | .canTxCancelWrite ctx ctl v onBus => Sys2Proof.Machine.execCanTxCancelWrite ctx ctl v onBus s
  | .canObjCancelWrite ctx ctl w v onBus => Sys2Proof.Machine.execCanObjCancelWrite ctx ctl w v onBus s
  | .canObjTxreqWrite ctx ctl w v => Sys2Proof.Machine.execCanObjTxreqWrite ctx ctl w v s
  | .canObjectWrite ctx ctl obj wordIndex v => Sys2Proof.Machine.execCanObjectWrite ctx ctl obj wordIndex v s
  | .canEntryLockRead ctx ctl kind idx time => Sys2Proof.Machine.execCanEntryLockRead ctx ctl kind idx time s
  | .canEntryReleaseRead ctx ctl kind idx => Sys2Proof.Machine.execCanEntryReleaseRead ctx ctl kind idx s
  | .lockTimeout ctl kind idx time => Sys2Proof.Machine.execLockTimeout ctl kind idx time s
  | .canCtrlLoopWrite ctx ctl v busy => Sys2Proof.Machine.execCanCtrlLoopWrite ctx ctl v busy s
  | .canCtrlHaltWrite ctx ctl v busy => Sys2Proof.Machine.execCanCtrlHaltWrite ctx ctl v busy s
  | .canCtrlRecoverWrite ctx ctl v busy => Sys2Proof.Machine.execCanCtrlRecoverWrite ctx ctl v busy s
  | .canStatus c => Sys2Proof.Machine.execCanStatus c s
  | .canSend c => Sys2Proof.Machine.execCanSend c s
  | .canCancel c onBus => Sys2Proof.Machine.execCanCancel c onBus s
  | .canRecover c => Sys2Proof.Machine.execCanRecover c s
  | .canFlush c onBus => Sys2Proof.Machine.execCanFlush c onBus s
  | .canLoop c busy => Sys2Proof.Machine.execCanLoop c busy s
  | .tunFrameClose stream ctl time => Sys2Proof.Machine.execTunFrameClose stream ctl time s
  | .tunReceived r => Sys2Proof.Machine.execTunReceived r s
  | .reorderHoldExpiry time => Sys2Proof.Machine.execReorderHoldExpiry time s
  | .bar2ReadTlp fn off len time => Sys2Proof.Machine.execBar2ReadTlp fn off len time s
  | .bar2WriteTlp fn off bytes time => Sys2Proof.Machine.execBar2WriteTlp fn off bytes time s
  | .rwinReceived r addressed => Sys2Proof.Machine.execRwinReceived r addressed s
  | .remoteAccessPerformed time => Sys2Proof.Machine.execRemoteAccessPerformed time s
  | .rwinRspReceived r addressed => Sys2Proof.Machine.execRwinRspReceived r addressed s
  | .readTimeout tag time => Sys2Proof.Machine.execReadTimeout tag time s
  | .prefetchBlockExpiry bar time => Sys2Proof.Machine.execPrefetchBlockExpiry bar time s
  | .semLeaseExpired sem time => Sys2Proof.Machine.execSemLeaseExpired sem time s
  | .windowLockLeaseExpiry window time => Sys2Proof.Machine.execWindowLockLeaseExpiry window time s
  | .summaryPoll time => Sys2Proof.Machine.execSummaryPoll time s
  | .postedLogRead ctx => Sys2Proof.Machine.execPostedLogRead ctx s
  | .bridgeStatus c => Sys2Proof.Machine.execBridgeStatus c s
  | .bridgeMap c => Sys2Proof.Machine.execBridgeMap c s
  | .bridgeUnmap c => Sys2Proof.Machine.execBridgeUnmap c s
  | .bridgeRead c => Sys2Proof.Machine.execBridgeRead c s
  | .bridgeWrite c => Sys2Proof.Machine.execBridgeWrite c s
  | .bridgeLock c => Sys2Proof.Machine.execBridgeLock c s
  | .bridgeUnlock c => Sys2Proof.Machine.execBridgeUnlock c s
  | .chkGoWrite ctx c v => Sys2Proof.Machine.execChkGoWrite ctx c v s
  | .chkStopWrite ctx c v => Sys2Proof.Machine.execChkStopWrite ctx c v s
  | .chkRunWrite ctx c v => Sys2Proof.Machine.execChkRunWrite ctx c v s
  | .checkJobDone c ecc time => Sys2Proof.Machine.execCheckJobDone c ecc time s
  | .testStatus c => Sys2Proof.Machine.execTestStatus c s
  | .testLoop c => Sys2Proof.Machine.execTestLoop c s
  | .testPrbs c => Sys2Proof.Machine.execTestPrbs c s
  | .testBist c => Sys2Proof.Machine.execTestBist c s
  | .testInject c => Sys2Proof.Machine.execTestInject c s
  | .loopbackActive target time => Sys2Proof.Machine.execLoopbackActive target time s
  | .loopDurationExpiry target time => Sys2Proof.Machine.execLoopDurationExpiry target time s
  | .echoEnterRetry port time => Sys2Proof.Machine.execEchoEnterRetry port time s
  | .echoEnterReceived r => Sys2Proof.Machine.execEchoEnterReceived r s
  | .echoReplyReceived r => Sys2Proof.Machine.execEchoReplyReceived r s
  | .echoExitReceived r => Sys2Proof.Machine.execEchoExitReceived r s
  | .prbsLockLoss lane bits errs time => Sys2Proof.Machine.execPrbsLockLoss lane bits errs time s
  | .injectArmWrite ctx v => Sys2Proof.Machine.execInjectArmWrite ctx v s
  | .injectDisarmWrite ctx v => Sys2Proof.Machine.execInjectDisarmWrite ctx v s
  | .extest => Sys2Proof.Machine.execExtest s
  | .idcode => Sys2Proof.Machine.execIdcode s
  | .samplePreload => Sys2Proof.Machine.execSamplePreload s
  | .clamp => Sys2Proof.Machine.execClamp s
  | .highz => Sys2Proof.Machine.execHighz s
  | .extestPulse => Sys2Proof.Machine.execExtestPulse s
  | .extestTrain => Sys2Proof.Machine.execExtestTrain s
  | .bypass code => Sys2Proof.Machine.execBypass code s
  | .powerOnReset => Sys2Proof.Machine.execPowerOnReset s
  | .pinReset => Sys2Proof.Machine.execPinReset s
  | .supplyMonitorTrip monitor => Sys2Proof.Machine.execSupplyMonitorTrip monitor s
  | .refclkLost => Sys2Proof.Machine.execRefclkLost s
  | .pllUnlock pll time => Sys2Proof.Machine.execPllUnlock pll time s
  | .warmReset time => Sys2Proof.Machine.execWarmReset time s
  | .pcrWarmWrite ctx v time => Sys2Proof.Machine.execPcrWarmWrite ctx v time s
  | .pcrSleepWrite ctx v time => Sys2Proof.Machine.execPcrSleepWrite ctx v time s
  | .sleepEntryComplete time => Sys2Proof.Machine.execSleepEntryComplete time s
  | .wakeEvent sources seconds => Sys2Proof.Machine.execWakeEvent sources seconds s
  | .dramScrub addr uncorrectable time => Sys2Proof.Machine.execDramScrub addr uncorrectable time s
  | .memLoopGoWrite ctx v => Sys2Proof.Machine.execMemLoopGoWrite ctx v s
  | .registerRead ctx addr late => Sys2Proof.Machine.execRegisterRead ctx addr late s
  | .preemptVerifyFrameReceived port respond time => Sys2Proof.Machine.execPreemptVerifyFrameReceived port respond time s
  | .canRxError ctl rise time => Sys2Proof.Machine.execCanRxError ctl rise time s
  | .busIntegrationComplete ctl time => Sys2Proof.Machine.execBusIntegrationComplete ctl time s
  | .pllRelock pll time => Sys2Proof.Machine.execPllRelock pll time s
  | .prbsCheckerLock lane bits errs time => Sys2Proof.Machine.execPrbsCheckerLock lane bits errs time s
  | .memLoopDone passed => Sys2Proof.Machine.execMemLoopDone passed s
  | .flashOperationDone timedOut time => Sys2Proof.Machine.execFlashOperationDone timedOut time s
  | .imageVerifyDone facts bus time => Sys2Proof.Machine.execImageVerifyDone facts bus time s
  | .pcieLinkUp width rate fns time => Sys2Proof.Machine.execPcieLinkUp width rate fns time s
  | .carPeerDelayReceived port msgType seq clock portNum egress time => Sys2Proof.Machine.execCarPeerDelayReceived port msgType seq clock portNum egress time s

end Sys2Proof.Machine
end

