-- ==== Sys2Proof/Machine/Tick.lean ====
section
/-! DEFINITION. What an empty queue does: one period of the 250 MHz time clock passes (DESIGN CHOICE, log entry 1). -/

namespace Sys2Proof.Machine

/-- The period of the TIME clock in ns: 250 MHz (*Raw counter, offset and rate* of chapter 7, and PLL 2 of R709). -/
def tickNs : Nat := 4

/-- One period of raw time passes; nothing else changes. Every event at a later instant is a command of its own. -/
def State.tick (s : State) : State :=
  { s with node := { s.node with tm := { s.node.tm with raw := s.node.tm.raw + tickNs } } }

end Sys2Proof.Machine
end

