-- ==== Sys2Proof/Machine/Step.lean ====
section
/-! DEFINITION. One step: the command at the front of the queue is carried out; with no command waiting the block idles while
raw time moves on (DESIGN CHOICE, log entry 1). -/

namespace Sys2Proof.Machine

/-- The state without its first waiting command. -/
def State.rest (s : State) : State := { s with pending := s.pending.tail }

/-- The state with a command put in front of those that wait. -/
def State.withFront (s : State) (i : Instr) : State := { s with pending := i :: s.pending }

/-- One step of the block. -/
def step (s : State) : Host.Outcome State Fault Refusal :=
  match s.pending with
  | [] => .next s.tick
  | i :: _ => exec i s.rest

/-- The state with the command that a word spells in front of the queue; unchanged where the word spells none. -/
def State.withFetchWord (s : State) (nbits w : Nat) : State :=
  match Sys2Proof.decodeTableWord nbits w with
  | some i => s.withFront i
  | none => s

end Sys2Proof.Machine
end

