-- ==== Sys2Proof/Safety.lean ====
section
/-! DEFINITION. What counts as a safe state and a safe step, in the terms that statements use: the canonical form of the sparse
stores, and the fuses that only blow. -/

namespace Sys2Proof.Machine

/-- The registers, the flash and the DRAM in canonical form: addresses strictly rising, and no entry equal to what an unlisted
address reads as. -/
def Memory.wf (n : Node) : Bool :=
  Sparse.wf regReset n.regs && Sparse.wf (fun _ => 0xFF#8) n.mem.flash && Sparse.wf (fun _ => 0#8) n.mem.dram &&
    Sparse.wf (fun _ => 0#8) n.mem.stage

/-- The fuses of `b` hold everything that those of `a` hold (R113, R114): the identity and the keys are the same, the
anti-rollback count has not fallen and no revoked key is valid again. -/
def Otp.grows (a b : Otp) : Prop :=
  b.identity = a.identity ∧ b.fused0 = a.fused0 ∧ b.fused1 = a.fused1 ∧ b.hash0 = a.hash0 ∧ b.hash1 = a.hash1 ∧
    a.arc ≤ b.arc ∧ (a.revoked0 = true → b.revoked0 = true) ∧ (a.revoked1 = true → b.revoked1 = true)

/-! ### The terms of the statements about accesses and commands -/

/-- A register access passes every check of R666: the form, the world and the owner, the power domain and the register. -/
def Node.admits (n : Node) (ctx addr : Nat) (write : Bool) : Bool :=
  decide (ctx < 6) && n.bit Reg.TOP_PD_STATE 9 && decide (addr % 4 = 0) && decide (addr < regSpace) &&
    n.waitingOk ctx addr write && (n.refusal (n.ctxSecure ctx) ctx addr write).isNone &&
    (domainOf addr).all (fun d => n.bit Reg.TOP_PD_STATE d) && (regRow addr).isSome

/-- A read of an address does nothing beyond showing its register: no queue entry behind it, no time or view computed, nothing
hidden from the context and no latch waiting for it. -/
def Node.showsPlain (n : Node) (ctx a : Nat) : Bool :=
  let m := n.answer 0#32
  decide (m.refresh a = m) && (m.readTakes ctx a).isNone && !n.metered a &&
    decide (n.shown (n.ctxSecure ctx) ctx a = n.reg a) && (n.latched ctx a).isNone

/-- The addresses at which a write does nothing but change the bits of one register: TOP and WLD, IMG below its staging window,
JLK, CYC, INA, PLC and PAR, and the audio block. -/
def plainAddr (a : Nat) : Bool :=
  decide (a < 0x00180000) || isIn a 0x00300000 0x00310000 || isIn a 0x00A00000 0x01C00000 || isIn a 0x02000000 0x02800000

/-- A register access that a row stands for: the context, the address, whether it writes, and its time (0 where the row has
none). -/
structure RowAccess where
  ctx : Nat
  addr : Nat
  write : Bool
  time : Nat
  deriving DecidableEq, Repr

/-- The register access of each row that is one, for operands that name a register. -/
def accessOf : Instr → Option RowAccess
  | .registerWrite ctx addr _ => some ⟨ctx, addr, true, 0⟩
  | .w1cWrite ctx addr _ _ => some ⟨ctx, addr, true, 0⟩
  | .registerRead ctx addr _ => some ⟨ctx, addr, false, 0⟩
  | .rcRegisterRead ctx addr _ => some ⟨ctx, addr, false, 0⟩
  | .counterLowWordRead ctx addr => some ⟨ctx, addr, false, 0⟩
  | .topPlaceRead ctx => some ⟨ctx, Reg.TOP_PLACE, false, 0⟩
  | .tmbNowNsRead ctx time => some ⟨ctx, Reg.TMB_NOW_NS, false, time⟩
  | .violationLogRead ctx => some ⟨ctx, Reg.WLD_VIOL_W3, false, 0⟩
  | .sqTailDoorbell ctx ring _ => if ring < 4 then some ⟨ctx, Reg.HST_SQ_TAIL ctx ring, true, 0⟩ else none
  | .cqHeadDoorbell ctx ring _ => if ring < 4 then some ⟨ctx, Reg.HST_CQ_HEAD ctx ring, true, 0⟩ else none
  | .evqHeadDoorbell ctx _ => some ⟨ctx, Reg.HST_EVQ_HEAD ctx, true, 0⟩
  | .ringSizeWrite ctx addr _ => if isRingSize addr then some ⟨ctx, addr, true, 0⟩ else none
  | .ftxTailDoorbell ctx _ => some ⟨ctx, Reg.HST_FTX_TAIL ctx, true, 0⟩
  | .frxTailDoorbell ctx _ => some ⟨ctx, Reg.HST_FRX_TAIL ctx, true, 0⟩
  | .hstCtxResetWrite ctx target _ => if target < 8 then some ⟨ctx, Reg.HST_CTX_CTRL target, true, 0⟩ else none
  | .faultLogWord0Read ctx index => some ⟨ctx, Reg.EVT_LOG index, false, 0⟩
  | .evtClearLog ctx => some ⟨ctx, Reg.EVT_CLEAR, true, 0⟩
  | .evtClearFatal ctx => some ⟨ctx, Reg.EVT_CLEAR, true, 0⟩
  | .engineFaultClear ctx _ => some ⟨ctx, Reg.TOP_ENG_FAULT, true, 0⟩
  | .adminDownWrite ctx port _ => some ⟨ctx, Reg.SPN_CTRL port, true, 0⟩
  | .wakeSendWrite ctx port _ => some ⟨ctx, Reg.SPN_CTRL port, true, 0⟩
  | .mdioGoWrite ctx master _ => some ⟨ctx, Reg.SPN_MDIO_CMD master, true, 0⟩
  | .filterRuleWrite ctx rule w _ => some ⟨ctx, Reg.SPN_FLT rule + 4 * (w % 8), true, 0⟩
  | .toutArmWrite ctx output _ => some ⟨ctx, Reg.TMB_TOUT_CTRL output, true, 0⟩
  | .toutModeOffWrite ctx output _ => some ⟨ctx, Reg.TMB_TOUT_CTRL output, true, 0⟩
  | .toutBindWrite ctx output _ => some ⟨ctx, Reg.PDT_TOUT_BIND output, true, 0⟩
  | .tcapEntryRead ctx input => some ⟨ctx, Reg.TMB_TCAP_SEC_HI input, false, 0⟩
  | .tsqEntryRead ctx queue => some ⟨ctx, Reg.TMB_TSQ_W2 queue, false, 0⟩
  | .pdtDsDoneWrite ctx d _ => some ⟨ctx, Reg.PDT_DS_DONE d, true, 0⟩
  | .pdtBufStatusRead ctx d => some ⟨ctx, Reg.PDT_BUF d, false, 0⟩
  | .dioOutSetWrite ctx _ => some ⟨ctx, Reg.DIO_OUT_SET, true, 0⟩
  | .dioOutClrWrite ctx _ => some ⟨ctx, Reg.DIO_OUT_CLR, true, 0⟩
  | .edgeEntryRead ctx => some ⟨ctx, Reg.DIO_EDGE_W1, false, 0⟩
  | .canTxqPush ctx ctl queue _ => if ctl < 4 ∧ queue < 4 then some ⟨ctx, Reg.CAN_TXQ_WIN ctl queue + 80, true, 0⟩ else none
  | .canTxCancelWrite ctx ctl _ _ => if ctl < 4 then some ⟨ctx, Reg.CAN_TX_CANCEL ctl, true, 0⟩ else none
  | .canObjCancelWrite ctx ctl w _ _ => if ctl < 4 ∧ w < 4 then some ⟨ctx, Reg.CAN_OBJ_CANCEL ctl w, true, 0⟩ else none
  | .canObjTxreqWrite ctx ctl w _ => if ctl < 4 ∧ w < 4 then some ⟨ctx, Reg.CAN_OBJ_TXREQ ctl w, true, 0⟩ else none
  | .canObjectWrite ctx ctl obj w _ =>
    if ctl < 4 ∧ obj < 128 ∧ w < 21 then some ⟨ctx, Reg.CAN_OBJ ctl obj + 4 * w, true, 0⟩ else none
  | .canEntryLockRead ctx ctl kind idx time =>
    if canNamed ctl kind idx then some ⟨ctx, canEntryAddr ctl kind idx, false, time⟩ else none
  | .canEntryReleaseRead ctx ctl kind idx =>
    if canNamed ctl kind idx then some ⟨ctx, canEntryAddr ctl kind idx + canLastOff kind, false, 0⟩ else none
  | .canCtrlLoopWrite ctx ctl _ _ => if ctl < 4 then some ⟨ctx, Reg.CAN_CTRL ctl, true, 0⟩ else none
  | .canCtrlHaltWrite ctx ctl _ _ => if ctl < 4 then some ⟨ctx, Reg.CAN_CTRL ctl, true, 0⟩ else none
  | .canCtrlRecoverWrite ctx ctl _ _ => if ctl < 4 then some ⟨ctx, Reg.CAN_CTRL ctl, true, 0⟩ else none
  | .postedLogRead ctx => some ⟨ctx, Reg.BRG_PWE_W4, false, 0⟩
  | .chkGoWrite ctx c _ => some ⟨ctx, Reg.CHK_CTX_CTRL c, true, 0⟩
  | .chkStopWrite ctx c _ => some ⟨ctx, Reg.CHK_CTX_CTRL c, true, 0⟩
  | .chkRunWrite ctx c _ => some ⟨ctx, Reg.CHK_CTX_RUN c, true, 0⟩
  | .injectArmWrite ctx _ => some ⟨ctx, Reg.TST_INJ_CTRL, true, 0⟩
  | .injectDisarmWrite ctx _ => some ⟨ctx, Reg.TST_INJ_CTRL, true, 0⟩
  | .pcrWarmWrite ctx _ time => some ⟨ctx, Reg.PCR_RESET_CTRL, true, time⟩
  | .pcrSleepWrite ctx _ time => some ⟨ctx, Reg.PCR_SLEEP_CTRL, true, time⟩
  | .memLoopGoWrite ctx _ => some ⟨ctx, Reg.MEM_LOOP, true, 0⟩
  | _ => none

/-- The world of a command (R648): open to every context, or to a secure one, or to those that its instance admits. -/
def Node.mayRun (n : Node) (ctx : Nat) : Need → Bool
  | .either => true
  | .secure _ => n.ctxSecure ctx
  | .inst i => n.ctxSecure ctx || !n.instSecure i

/-- A command of an opcode reaches its own checks and its effect (R14, R787): its entry names the opcode, no fence holds it, its
reserved fields are zero, its world is right and the node is not in the waiting state of R121, in which it takes the commands of the
image alone. Argument words from `nargs` on are reserved. -/
def Node.takes (n : Node) (c : Cmd) (op : Nat) (need : Need) (nargs : Nat) : Bool :=
  decide (c.entry.opcode = op) && !(n.at c.time).fenceHeld c && decide (c.entry.flags < 2) && decide (c.entry.rsv = 0) &&
    !(c.entry.args.drop nargs).any (· != 0#32) && n.mayRun c.ctx need && (!n.waiting || decide (op / 256 = 0x0D))

/-- A command row: the command, its opcode, the number of argument words it uses and the world it needs (the tables of commands of
R133, R247, R297, R340, R384, R433, R474, R521, R561, R597, R659 and R698). -/
structure RowCommand where
  cmd : Cmd
  op : Nat
  nargs : Nat
  need : Need
  deriving DecidableEq, Repr

/-- The command of each row that is one, at a node; the two rows that blow fuses stand apart, because they also read the OTP. -/
def Node.commandOf (n : Node) : Instr → Option RowCommand
  | .nodeStatus c => some ⟨c, 0x0101, 0, .either⟩
  | .nodeNop c => some ⟨c, 0x0102, 4, .either⟩
  | .ctxReset c => some ⟨c, 0x0103, 1, .secure (81 + arg c 0 % 8)⟩
  | .ctxInfo c => some ⟨c, 0x0104, 1, .either⟩
  | .jrnStatus c => some ⟨c, 0x0B01, 1, .either⟩
  | .jrnRead c => some ⟨c, 0x0B02, 5, .either⟩
  | .jrnAck c => some ⟨c, 0x0B03, 2, .either⟩
  | .jrnClear c => some ⟨c, 0x0B04, 1, .secure (81 + arg c 0 % 8)⟩
  | .imgStatus c => some ⟨c, 0x0D01, 0, .secure instImg⟩
  | .imgSlotErase c => some ⟨c, 0x0D02, 1, .secure instImg⟩
  | .imgSlotWrite c => some ⟨c, 0x0D03, 6, .secure instImg⟩
  | .imgSlotVerify c => some ⟨c, 0x0D04, 1, .secure instImg⟩
  | .imgSlotMarkBad c => some ⟨c, 0x0D05, 1, .secure instImg⟩
  | .imgTintStage c => some ⟨c, 0x0D06, 4, .secure instImg⟩
  | .imgTintCommit c => some ⟨c, 0x0D07, 2, .secure instImg⟩
  | .imgTintDiscard c => some ⟨c, 0x0D08, 0, .secure instImg⟩
  | .imgRestart c => some ⟨c, 0x0D0A, 1, .secure instImg⟩
  | .cycStatus c => some ⟨c, 0x0301, 0, .either⟩
  | .cycModeSwitch c => some ⟨c, 0x0302, 2, .either⟩
  | .cycModeAbort c => some ⟨c, 0x0303, 1, .either⟩
  | .cycModeInfo c => some ⟨c, 0x0304, 1, .either⟩
  | .trainSetLead c => some ⟨c, 0x0120, 3, .either⟩
  | .trainStatus c => some ⟨c, 0x0121, 0, .either⟩
  | .trainReinaugurate c => some ⟨c, 0x0122, 0, .secure 14⟩
  | .trainReset c => some ⟨c, 0x0123, 2, .secure 14⟩
  | .trainSnapshot c => some ⟨c, 0x0124, 2, .either⟩
  | .timeStatus c => some ⟨c, 0x0901, 0, .either⟩
  | .timeSet c => some ⟨c, 0x0902, 3, .secure 15⟩
  | .timeAdjust c => some ⟨c, 0x0903, 1, .secure 15⟩
  | .timeToutSet c => some ⟨c, 0x0904, 7, if arg c 0 < 8 then .inst (16 + arg c 0) else .either⟩
  | .timeToutStop c => some ⟨c, 0x0905, 1, if arg c 0 < 8 then .inst (16 + arg c 0) else .either⟩
  | .streamDeclare c => some ⟨c, 0x0201, 9, .either⟩
  | .streamRemove c => some ⟨c, 0x0202, 1, n.strmNeed (arg c 0)⟩
  | .streamQuery c => some ⟨c, 0x0203, 1, .either⟩
  | .streamReplaceAll c => some ⟨c, 0x0204, 0, .secure 28⟩
  | .streamMsgSend c => some ⟨c, 0x0205, 6, n.strmNeed (arg c 0)⟩
  | .streamMsgRecv c => some ⟨c, 0x0206, 4, n.strmNeed (arg c 0)⟩
  | .plcStatus c => some ⟨c, 0x0207, 0, .either⟩
  | .pairStatus c => some ⟨c, 0x0A01, 0, .either⟩
  | .pairHandover c => some ⟨c, 0x0A02, 1, .secure instPar⟩
  | .pairResync c => some ⟨c, 0x0A03, 0, .secure instPar⟩
  | .pairTrkReset c => some ⟨c, 0x0A04, 1, .secure instPar⟩
  | .pdStatus c => some ⟨c, 0x0401, 0, .inst instPdt⟩
  | .pdInfo c => some ⟨c, 0x0402, 1, .inst instPdt⟩
  | .pdWrite c => some ⟨c, 0x0403, 5, .inst instPdt⟩
  | .pdRead c => some ⟨c, 0x0404, 4, .inst instPdt⟩
  | .dioSet c => some ⟨c, 0x0405, 2, .inst instDio⟩
  | .dioStatus c => some ⟨c, 0x0406, 0, .inst instDio⟩
  | .audStatus c => some ⟨c, 0x0501, 0, .inst instAud⟩
  | .paPlay c => some ⟨c, 0x0502, 7, .inst instAud⟩
  | .paLive c => some ⟨c, 0x0503, 7, .inst instAud⟩
  | .paChime c => some ⟨c, 0x0504, 7, .inst instAud⟩
  | .paStop c => some ⟨c, 0x0505, 6, .inst instAud⟩
  | .audParamSet c => some ⟨c, 0x0506, 6, .inst instAud⟩
  | .audLibWrite c => some ⟨c, 0x0507, 6, .inst instAud⟩
  | .audLibInfo c => some ⟨c, 0x0508, 1, .inst instAud⟩
  | .callStatus c => some ⟨c, 0x0601, 1, .inst instAud⟩
  | .callAnswer c => some ⟨c, 0x0602, 3, .inst instAud⟩
  | .callHold c => some ⟨c, 0x0603, 2, .inst instAud⟩
  | .callEnd c => some ⟨c, 0x0604, 2, .inst instAud⟩
  | .callCabSet c => some ⟨c, 0x0605, 1, .inst instAud⟩
  | .callRecProtect c => some ⟨c, 0x0606, 3, .inst instAud⟩
  | .callRecFind c => some ⟨c, 0x0607, 2, .inst instAud⟩
  | .canStatus c => some ⟨c, 0x0701, 1, .inst (instCan (arg c 0 % 4))⟩
  | .canSend c => some ⟨c, 0x0702, 8, .inst (instCan (arg c 0 % 4))⟩
  | .canCancel c _ => some ⟨c, 0x0703, 2, .inst (instCan (arg c 0 % 4))⟩
  | .canRecover c => some ⟨c, 0x0704, 1, .inst (instCan (arg c 0 % 4))⟩
  | .canFlush c _ => some ⟨c, 0x0705, 1, .inst (instCan (arg c 0 % 4))⟩
  | .canLoop c _ => some ⟨c, 0x0706, 2, .inst (instCan (arg c 0 % 4))⟩
  | .bridgeStatus c => some ⟨c, 0x0801, 0, .inst instBrg⟩
  | .bridgeMap c => some ⟨c, 0x0802, 5, .inst instBrg⟩
  | .bridgeUnmap c => some ⟨c, 0x0803, 1, .inst instBrg⟩
  | .bridgeRead c => some ⟨c, 0x0804, 6, .inst instBrg⟩
  | .bridgeWrite c => some ⟨c, 0x0805, 8, .inst instBrg⟩
  | .bridgeLock c => some ⟨c, 0x0806, 2, .inst instBrg⟩
  | .bridgeUnlock c => some ⟨c, 0x0807, 1, .inst instBrg⟩
  | .testStatus c => some ⟨c, 0x0C01, 0, .inst instTst⟩
  | .testLoop c => some ⟨c, 0x0C02, 4, .inst instTst⟩
  | .testPrbs c => some ⟨c, 0x0C03, 2, .inst instTst⟩
  | .testBist c => some ⟨c, 0x0C04, 1, .inst instTst⟩
  | .testInject c => some ⟨c, 0x0C05, 4, .secure instTst⟩
  | _ => none

/-- The submission that a fetch takes from a PCIe or SPI ring: the one in host memory, or the one at the head in ring memory. -/
def Node.fetched (n : Node) (ctx ring : Nat) (entry : SqEntry) : SqEntry :=
  if ctx < 4 then entry
  else Sys2Proof.Machine.entryOf (n.getRegs (Reg.HST_SPI_RING + (ctx - 4) * 0x10000 + ring * 0x2000 + (n.reg (Reg.HST_SQ_HEAD ctx ring)).toNat * 64) 16)

/-- A submission passes checks 1 to 4 of R787: its sequence is not 0, not older than the journal holds and not held there, its
context may act at this node, and the journal has an entry for it. -/
def Node.passesFirst (n : Node) (c : Nat) (e : SqEntry) : Bool :=
  e.seq != 0 &&
  !((n.host.shares.getD c ⟨0, 0⟩).count != 0 && seqPrecedes e.seq (n.reg (Reg.JRN_CTX_OLDEST c)).toNat) &&
  (n.jrnFind c e.seq).isNone &&
  (n.fld (Reg.HST_CTX_CFG c) Fld.HST_CTX_CFG_SHARED != 1 || n.holder || asksOnly e.opcode) &&
  (unjournalled e.opcode || !n.jrnFull c)

/-- A submission taken: journalled, unless R656 leaves it out, and in flight. -/
def Node.taken (n : Node) (c r : Nat) (e : SqEntry) : Node :=
  let x := if unjournalled e.opcode then (n, none) else ((n.jrnAccept c r e).1, some (n.jrnAccept c r e).2)
  { x.1 with host := { x.1.host with flight := x.1.host.flight ++
    [⟨c, r, e.seq, e.opcode, x.2, e.flags.testBit 0, false, []⟩] } }

/-- The message of a vector of a PCIe function (R669). -/
def Node.msixMessage (n : Node) (fn vec : Nat) : HostWrite :=
  ⟨fn, (n.msixDword fn (16 * vec)).toNat + (n.msixDword fn (16 * vec + 4)).toNat * 2 ^ 32,
    encLE 4 (n.msixDword fn (16 * vec + 8)).toNat⟩

/-- With `k` new entries a completion ring signals now, and not later (R635). -/
def Node.signalsNow (n : Node) (c r k : Nat) : Bool :=
  decide (n.bits (Reg.HST_CQ_IRQ c r) 0 8 ≤
    ((n.host.coalesce.find? fun e => e.ctx == c && e.ring == r).map (·.count)).getD 0 + k)

/-- A command completes with a status and result words. -/
def Node.completes (n : Node) (c : Cmd) (status : Nat) (res : List Word) : Node :=
  n.finish c.ctx c.ring c.entry.seq c.entry.opcode status res

/-- A command goes on waiting for a later happening. -/
def Node.waitsFor (n : Node) (c : Cmd) (kind key : Nat) (aux : List Word) : Node :=
  { n with host := { n.host with waits := n.host.waits ++
    [Wait.mk c.ctx c.ring c.entry.seq c.entry.opcode kind key aux n.tm.raw n.cyc.cur] } }

/-- What is left of a command once its own checks and its effect have answered. -/
def Node.settle (c : Cmd) : Answer → Node
  | .done k st res => k.completes c st res
  | .wait k kind key aux => k.waitsFor c kind key aux

/-- The record of an event raised now (R670). -/
def Node.eventNow (n : Node) (code d0 d1 : Nat) : Event :=
  { code := code, node := n.num + (n.epoch % 16) * 4096, stamp := n.stamp, d0 := word d0, d1 := word d1 }

/-! ### The terms of the statements about received frames -/

/-- The frame of each row that is the reception of one and that R158 checks before anything else; the two SLOT rows stand
apart, because a SLOT frame that fails at its end is stomped as well (R171). -/
def rxOf : Instr → Option Rx
  | .openFrameReceived r => some r
  | .macControlFrameReceived r => some r
  | .refReceived r => some r
  | .pollReceived r => some r
  | .replyReceived r => some r
  | .modeRequestReceived r => some r
  | .modeAnswerReceived r => some r
  | .claimReceived r => some r
  | .topoProbeReceived r => some r
  | .topoReplyReceived r => some r
  | .topoNoticeReceived r => some r
  | .topoResultReceived r => some r
  | .operationRequestReceived r => some r
  | .operationAnswerReceived r => some r
  | .pdelayRequestReceived r _ => some r
  | .pdelayResponseReceived r => some r
  | .verdictReceived r => some r
  | .msgReceived r => some r
  | .jalderRenewReceived r => some r
  | .jalderAckReceived r => some r
  | .jalderHandoverReceived r => some r
  | .jalderHandoverAckReceived r => some r
  | .jalderCopyReceived r => some r
  | .jalderCopyEndReceived r => some r
  | .jalderResyncReceived r => some r
  | .carInputFrameReceived r => some r
  | .paMessageReceived r => some r
  | .aafPduReceived r => some r
  | .callMessageReceived r => some r
  | .tunReceived r => some r
  | .rwinReceived r _ => some r
  | .rwinRspReceived r _ => some r
  | .echoEnterReceived r => some r
  | .echoReplyReceived r => some r
  | .echoExitReceived r => some r
  | .hostFrameCommands r => some r
  | _ => none

/-- The node when a frame reaches the checks of R158: time has come to its ingress stamp, and a port at the far end of an ECHO
loop has returned it (R687). -/
def Node.meets (n : Node) (r : Rx) : Node := (n.at r.stamp).echoBack r

/-- The node once a frame has passed the checks: it has been counted (R189). -/
def Node.heard (n : Node) (r : Rx) : Node := (n.meets r).rxGood r

/-- A spine frame of a kind reaches what its row does with it: it passes the checks of R158, its port is neither crossed (R28) nor in a
loop (R680), its pool has room (R59), and for a kind with an epoch its link is joined (R281). -/
def Node.hears (n : Node) (r : Rx) (kind : Nat) : Bool :=
  let h := decodeHdr r.frame.body
  ((n.meets r).rxFail r).isNone && (n.heard r).isSpine r.frame && h.kind == kind &&
    !((n.heard r).crossed r.port && kind != 0xA) && !((n.heard r).looped r.port && kind != 0xC) && ctrlAdmit r &&
    (h.tc == 7 || !(epochChecked kind && r.port != 12 && !(n.heard r).joined r.port))

/-- A SLOT frame of a stream reaches its forwarding (R158, R173, R215, R217, R392): it passes the checks, its link is joined, its
reservation has room, it lies in its window and its source is the one registered. -/
def Node.slotTakes (n : Node) (r : Rx) (x : NumEntry) : Bool :=
  let h := decodeHdr r.frame.body
  ((n.meets r).rxFail r).isNone && (n.heard r).isSpine r.frame && h.kind == 1 && !(n.heard r).crossed r.port &&
    (r.port == 12 || (n.heard r).joined r.port) && decide (frameCells r.frame ≤ r.room) &&
    decide ((n.heard r).nodeIn h.epoch h.src = some x) &&
    (!(n.heard r).firstHop r x || ((n.heard r).windowMiss r h x).isNone) &&
    !(n.heard r).clashes h (some x) && !h.pending

/-- A MSG frame once it has been counted and sent on along its line toward the nodes that it is for (R156, R380). -/
def Node.msgCarried (n : Node) (r : Rx) : Node :=
  let h := decodeHdr r.frame.body
  (n.heard r).relay r ((n.heard r).rxLine r h) ((n.heard r).msgWay h.sid)

/-- A MSG frame that is a whole message of another node, not delivered before (R380, R397): one fragment, with no fragment of its
stream and source held. -/
def Node.getsMsg (n : Node) (r : Rx) (src : NumEntry) : Bool :=
  let h := decodeHdr r.frame.body
  let m := n.msgCarried r
  n.hears r 0xB && decide (m.nodeIn h.epoch h.src = some src) && src.identity != m.identity && m.takesStream h.sid &&
    !m.msgSeen src.identity h.sid h.seq && h.lastFrag && h.age == 0 &&
    (m.plc.parts.find? fun p => p.src == src.identity && p.stream == h.sid).isNone

/-- The node once it has taken a whole message for its own: it is marked as delivered, and a check context that snoops it has
seen it. -/
def Node.gotMsg (n : Node) (r : Rx) (src : NumEntry) : Node :=
  let h := decodeHdr r.frame.body
  let m := n.msgCarried r
  let k : Node := { m with plc := { m.plc with
    parts := m.plc.parts.filter fun p => !(p.src == src.identity && p.stream == h.sid) } }
  (k.msgMark src.identity h.sid h.seq h.age h.check h.ci).chkPass 4 h.sid h.seq (payloadOf r.frame.body)

/-- The header of a Jalder control frame (R400). -/
def ctrlHdr (r : Rx) : CtrlHdr :=
  ⟨byteAt r.frame.body 0, byteAt r.frame.body 1, beAt r.frame.body 4 4, beAt r.frame.body 8 4⟩

/-- The body of a Jalder control frame. -/
def ctrlBody (r : Rx) : List Byte := slice r.frame.body 16 (beAt r.frame.body 2 2)

/-- A Jalder control frame of a type reaches what its row does with it (R61, R400, R401): it passes the checks of R158, the control
pool has room for it, it came over the Jalder link from the partner, and its length fits its type. -/
def Node.hearsCtrl (n : Node) (r : Rx) (type : Nat) : Bool :=
  ((n.meets r).rxFail r).isNone && r.port == 12 && r.frame.dst == addrJalder && ctrlAdmit r &&
    ctrlFits (ctrlHdr r).type (beAt r.frame.body 2 2) && r.frame.src == (n.heard r).partnerId && (n.heard r).partnerId != 0 &&
    (n.heard r).isSpine r.frame && (ctrlHdr r).type == type

/-- The node once it has noted the contact that a Jalder control frame is (R401, R412). -/
def Node.heardCtrl (n : Node) (r : Rx) : Node :=
  let g := (n.heard r).sawGen (ctrlHdr r).gen
  let k : Node := { g with par := { g.par with ctrlAt := some (n.heard r).tm.raw } }
  (k.setFld Reg.PAR_PARTNER Fld.PAR_PARTNER_VALID 1).contact (ctrlState (ctrlHdr r).type) ((ctrlHdr r).type == 1)

/-! ### The terms of the statements about the services -/

/-- The argument words of a PA request keep their fields and ranges (R501, R521). -/
def paFieldsOk (c : Cmd) : Bool :=
  decide (arg c 1 < 2 ^ 24) && decide (bitsOf (arg c 1) 20 3 ≤ 4) && decide (arg c 2 / 1024 % 64 = 0) &&
    decide (arg c 2 < 2 ^ 26) && decide (arg c 2 % 1024 ≤ arg c 2 / 65536 % 1024) && decide (arg c 6 < 65536)

/-- The message of a PA request of this node (R499, R501). -/
def Node.paMessage (n : Node) (c : Cmd) (type source check start : Nat) : List Byte :=
  paBytes type (bitsOf (arg c 1) 20 3) (bitsOf (arg c 1) 16 4) ((arg c 1).testBit 23) (bitsOf (arg c 3) 8 8) n.identity n.aud.nextTag
    (arg c 1 % 65536) (arg c 2 % 1024) (arg c 2 / 65536 % 1024) n.epoch start source (arg c 6) check (arg c 3 / 65536)

/-- A PA request made: its tag is used up, its message is sent, and it is taken here as everywhere (R501). -/
def Node.paMade (n : Node) (b : List Byte) : Node :=
  let m : Node := { n with aud := { n.aud with
    nextTag := (n.aud.nextTag + 1) % 65536, issued := n.aud.issued ++ [n.aud.nextTag] } }
  (m.svcSend b).paTake b

/-- A command of the services reaches its own checks: the shared ones pass and SC1 runs the services (R519, R787). -/
def Node.takesService (n : Node) (c : Cmd) (op nargs : Nat) : Bool := n.takes c op (.inst instAud) nargs && n.servicesOn

/-- The commands carried out one after another, with nothing waiting behind them. -/
def carryOut (s : State) (i : Instr) : State :=
  match exec i s with
  | .next t => t
  | _ => s

/-- What the start of a context reset leaves (R645): the context reads as resetting, its fetched commands go on without a
completion, its queued host-frame commands are gone and every other context stands. -/
structure ResetStarted (n m : Node) (c cause : Nat) : Prop where
  resetting : m.ctxResetting c = true
  listed : m.host.resets = n.host.resets ++ [(c, cause)]
  silent : m.host.flight = n.host.flight.map fun f => if f.ctx == c then { f with silent := true, dups := [] } else f
  frames : m.host.frameCmds = n.host.frameCmds.filter fun x => x.1 != c
  registers : ∀ a, a ≠ Reg.HST_CTX_STAT c → m.reg a = n.reg a
  rest : m = { n with regs := m.regs, host := m.host }

/-- A command goes on as a job of the flash or of a staging: the job joins the others and the command waits for its end. -/
def jobOf (n : Node) (c : Cmd) (kind slot off : Nat) (data : List Byte) : Node :=
  { n with boot := { n.boot with jobs := n.boot.jobs ++ [⟨c.ctx, c.entry.seq, kind, slot, off, data⟩] } }

end Sys2Proof.Machine
end

