-- ==== Sys2Proof/Certificates/Slice0/Obligations.lean ====
section
/-! DEFINITION. The statements for the provers: what the machine as a whole, its registers and its rings do, and what every
command does where it completes. -/

open Sys2Proof Sys2Proof.Machine

/-- The row's own rule for a block: a step with a command at the front of the queue is `exec` of it with the queue's rest. -/
def Obligations.StepRunsTheFrontCommand : Prop :=
  ∀ (c : Instr) (s : State), step (s.withFront c) = exec c s

/-- DESIGN CHOICE of log entry 1: with no command waiting, one 4 ns period of raw time passes and nothing else changes. -/
def Obligations.StepOnEmptyQueueLetsTimePass : Prop :=
  ∀ s : State, s.pending = [] → ∃ t : State, step s = .next t ∧ t.node.tm.raw = s.node.tm.raw + 4 ∧
    t = { s with node := { s.node with tm := { s.node.tm with raw := t.node.tm.raw } } }

/-- No command ends a run, none touches the queue, and only the two OTP commands touch the fuses. -/
def Obligations.EveryCommandAnswersAndKeepsTheQueue : Prop :=
  ∀ (i : Instr) (s : State), ∃ t : State, exec i s = .next t ∧ t.pending = s.pending ∧
    ((∀ c, i ≠ .imgRollbackAdvance c ∧ i ≠ .imgKeyRevoke c) → t.otp = s.otp)

/-- A queue is served first in, first out, and the commands that wait behind have no effect on those in front. -/
def Obligations.QueueIsServedFirstInFirstOut : Prop :=
  ∀ (q r : List Instr) (s : State), s.pending = [] →
    Sys2Proof.core.run q.length { s with pending := q ++ r } = .next { q.foldl carryOut s with pending := r }

/-- R113, R114 and R70: over any number of steps from any state the fuses only blow: the identity and the keys stay, the
anti-rollback count never falls and a revoked key stays revoked. -/
def Obligations.FusesOnlyBlow : Prop :=
  ∀ (k : Nat) (s t : State), Sys2Proof.core.run k s = .next t → s.otp.grows t.otp

/-- The machine right after reset: nothing waits, every register outside the node identity holds its reset value, every
store is in canonical form, and the boot has not begun. Where the spec states no reset value for a register, its value is
the model's choice of log entry 4; the phase, queues and logs that the spec does not name are those of log entry 6. -/
def Obligations.ResetLeavesTheResetValues : Prop :=
  State.reset.pending = [] ∧ Memory.wf State.reset.node = true ∧
  (∀ a, a ≠ Reg.TOP_NODE_ID_LO → a ≠ Reg.TOP_NODE_ID_HI → State.reset.node.reg a = regReset a) ∧
  State.reset.node.reg Reg.TOP_PART = 0x00006420#32 ∧ State.reset.node.reg Reg.TOP_STEP = 0x000000B0#32 ∧
  State.reset.node.st = stOff ∧ State.reset.node.boot.phase = 0 ∧ State.reset.node.ev.queue = [] ∧
  State.reset.node.host.flight = [] ∧ State.reset.node.net.sent = []

/-- R4: a register write changes that register and no other piece of the node, and a read gives back what was written. R670,
R671, R676: a raised event joins the router's queue behind the others, with the node number and epoch bits [3:0] and the
stamp of the raise; with 256 waiting it is dropped and counted, and nothing else changes. -/
def Obligations.RegistersHoldAndEventsJoinTheQueue : Prop :=
  (∀ (n : Node) (a : Nat) (v : Word), (n.setReg a v).reg a = v ∧ (∀ b, b ≠ a → (n.setReg a v).reg b = n.reg b) ∧
    { n.setReg a v with regs := n.regs } = n ∧ (Memory.wf n = true → Memory.wf (n.setReg a v) = true)) ∧
  (∀ (n : Node) (code d0 d1 : Nat),
    (n.ev.queue.length < 256 →
      (n.raise code d0 d1).ev.queue = n.ev.queue ++ [n.eventNow code d0 d1] ∧
      { n.raise code d0 d1 with ev := n.ev } = n) ∧
    (256 ≤ n.ev.queue.length →
      (n.raise code d0 d1).ev = n.ev ∧
      (n.raise code d0 d1).reg Reg.EVT_DROP = word (min ((n.reg Reg.EVT_DROP).toNat + 1) 0xFFFFFFFF) ∧
      { n.raise code d0 d1 with regs := n.regs } = n) ∧
    (n.ev.queue.length ≤ 256 → (n.raise code d0 d1).ev.queue.length ≤ 256))

/-- R6, R10 and the access codes of *Registers and fields*: what a write that passes its checks does to a plain register. A
field written in the cycle in which hardware sets it ends set; the rest of the machine stands. -/
def Obligations.WritesChangeOnlyTheWritableBits : Prop :=
  ∀ (s : State) (ctx addr : Nat) (v hw : Word) (row : RegRow),
    s.node.admits ctx addr true = true → plainAddr addr = true → regRow addr = some row →
    ((row.access = .rw ∨ row.access = .rws ∨ row.access = .wo) →
      exec (.registerWrite ctx addr v) s = .next (s.on fun n =>
        (n.answer 0#32).setReg addr ((n.reg addr &&& ~~~row.wmask) ||| (v &&& row.wmask)))) ∧
    ((row.access = .ro ∨ row.access = .ros ∨ row.access = .rc) →
      exec (.registerWrite ctx addr v) s = .next (s.on fun n => n.answer 0#32)) ∧
    (row.access = .w1c → exec (.w1cWrite ctx addr v hw) s = .next (s.on fun n =>
      (n.answer 0#32).setReg addr ((n.reg addr &&& ~~~(v &&& row.wmask)) ||| hw)))

/-- Steps 2 to 4 of R666, in that order, for every row that is a register access: an access refused for world or ownership
is counted, logged and reported; one in a powered-off domain is counted in `TOP_OFF_ACCESS` and reported; at an offset that
no register occupies a read returns zero and a write is ignored. None of them has any other effect. -/
def Obligations.FailedAccessesHaveNoEffect : Prop :=
  ∀ (i : Instr) (x : RowAccess) (s : State), accessOf i = some x →
    x.ctx < 6 → s.node.bit Reg.TOP_PD_STATE 9 = true → x.addr % 4 = 0 → x.addr < regSpace →
    s.node.waitingOk x.ctx x.addr x.write = true →
    (∀ cause inst, s.node.refusal (s.node.ctxSecure x.ctx) x.ctx x.addr x.write = some (cause, inst) →
      exec i s = .next (s.on fun n => (((n.at x.time).answer 0#32).refuse x.ctx x.write 0 cause x.addr inst).spiFlag x.ctx
        fun p => { p with refused := true })) ∧
    (s.node.refusal (s.node.ctxSecure x.ctx) x.ctx x.addr x.write = none →
      (∀ d, domainOf x.addr = some d → s.node.bit Reg.TOP_PD_STATE d = false →
        exec i s = .next (s.on fun n => (((n.at x.time).answer 0#32).inc Reg.TOP_OFF_ACCESS).raise 0x0905 x.addr x.ctx)) ∧
      ((∀ d, domainOf x.addr = some d → s.node.bit Reg.TOP_PD_STATE d = true) → regRow x.addr = none →
        exec i s = .next (s.on fun n => (n.at x.time).answer 0#32)))

/-- R650 and R652: a refused access is counted, and joins the violation log behind the others while 32 entries do not wait;
a full log is not overwritten and counts the loss. -/
def Obligations.RefusalsAreCountedAndLogged : Prop :=
  ∀ (n : Node) (req : Nat) (write : Bool) (kind cause addr what : Nat),
    (n.refuse req write kind cause addr what).reg Reg.WLD_REFUSED =
      word (min ((n.reg Reg.WLD_REFUSED).toNat + 1) 0xFFFFFFFF) ∧
    (n.host.viol.length < 32 →
      ∃ e : Viol, (n.refuse req write kind cause addr what).host.viol = n.host.viol ++ [e] ∧
        e.w0 = word (req % 256 + b2n write * 256 + kind * 512 + cause * 4096 + b2n (n.host.violLost != 0) * 2 ^ 30 + 2 ^ 31) ∧
        e.w1 = word addr ∧ e.w3 = n.stamp ∧ (n.refuse req write kind cause addr what).host.violLost = 0) ∧
    (32 ≤ n.host.viol.length →
      (n.refuse req write kind cause addr what).host.viol = n.host.viol ∧
      (n.refuse req write kind cause addr what).host.violLost = n.host.violLost + 1)

/-- R5: COUNTER_LOW_WORD_READ returns the low word and latches the high one for the reading context; its next read of the
high word returns the latched value, whatever has happened to the registers in between, and uses the latch up; a read of the
high word that follows no read of the low one returns the current word. -/
def Obligations.CounterReadsAreConsistent : Prop :=
  ∀ (s : State) (ctx a : Nat), isLowWord a = true → a ≠ Reg.TOP_PLACE → a ≠ Reg.TMB_NOW_NS →
    (regRow a).all (fun r => r.access != .rc) = true → (regRow (a + 4)).all (fun r => r.access != .rc) = true →
    latchStands (a + 4) = false → latchesOf (a + 4) = [] →
    (∀ m, m = (s.node.answer 0#32).refresh a → s.node.admits ctx a false = true → m.readTakes ctx a = none →
      m.metered a = false → m.latched ctx a = none →
      exec (.counterLowWordRead ctx a) s = .next (s.on fun _ =>
        (m.answer (m.shown (s.node.ctxSecure ctx) ctx a)).latch ctx (a + 4) (m.shown (s.node.ctxSecure ctx) ctx (a + 4)))) ∧
    (∀ m, m = (s.node.answer 0#32).refresh (a + 4) → s.node.admits ctx (a + 4) false = true →
      m.readTakes ctx (a + 4) = none → m.metered (a + 4) = false →
      (∀ v, m.latched ctx (a + 4) = some v →
        exec (.registerRead ctx (a + 4) false) s = .next (s.on fun _ => (m.unlatch ctx (a + 4)).answer v)) ∧
      (m.latched ctx (a + 4) = none →
        exec (.registerRead ctx (a + 4) false) s = .next (s.on fun _ =>
          m.answer (m.shown (s.node.ctxSecure ctx) ctx (a + 4)))))

/-- R40, R307 and R674: a read of `TOP_PLACE` latches `TOP_EPOCH`, one of `TMB_NOW_NS` latches seconds, fraction and the
last wrap of the same instant, and one of word 0 of a fault record latches its other words, each for the reading context.
R10: a read-clear register answers the value before the read and is left with what hardware sets in the same cycle. R652,
R327, R332, R464 and R586: the read that ends a queue's oldest entry returns the register's word and takes that entry from
the queue; every other queue stands. R666 step 1 and R627: a PCIe memory access that is not one aligned 4-byte word is
counted and reported, a read completing with Completer Abort; an SPI transaction with an unknown first byte or an unaligned
address sets `FORMAT`; the status transaction returns the four status bits and clears bits [3:1]. -/
def Obligations.ReadsLatchClearAndRemove : Prop :=
  (∀ (s : State) (ctx : Nat), s.node.admits ctx Reg.TOP_PLACE false = true → s.node.latched ctx Reg.TOP_PLACE = none →
    exec (.topPlaceRead ctx) s = .next (s.on fun n =>
      (n.answer (n.reg Reg.TOP_PLACE)).latch ctx Reg.TOP_EPOCH (n.reg Reg.TOP_EPOCH))) ∧
  (∀ (s : State) (ctx time : Nat), s.node.admits ctx Reg.TMB_NOW_NS false = true → s.node.latched ctx Reg.TMB_NOW_NS = none →
    ∃ t : State, exec (.tmbNowNsRead ctx time) s = .next t ∧
      t.node.host.readData = word (nsOf (s.node.at time).trainNs) ∧
      t.node.latched ctx Reg.TMB_NOW_SEC_LO = some (word (secOf (s.node.at time).trainNs)) ∧
      t.node.latched ctx Reg.TMB_NOW_SEC_HI = some (word (secOf (s.node.at time).trainNs / 2 ^ 32 % 2 ^ 16)) ∧
      t.node.latched ctx Reg.TMB_NOW_FRAC = some (sword ((s.node.at time).fine % 65536)) ∧
      t.node.latched ctx Reg.TMB_EPOCH_NS = some (s.node.reg Reg.TMB_EPOCH_NS) ∧
      t.node.latched ctx Reg.TMB_EPOCH_SEC_LO = some (s.node.reg Reg.TMB_EPOCH_SEC_LO) ∧
      t.node.latched ctx Reg.TMB_EPOCH_SEC_HI = some (s.node.reg Reg.TMB_EPOCH_SEC_HI) ∧ t.node.regs = s.node.regs) ∧
  (∀ (s : State) (ctx index : Nat), s.node.admits ctx (Reg.EVT_LOG index) false = true →
    ∃ t : State, exec (.faultLogWord0Read ctx index) s = .next t ∧
      t.node.host.readData = s.node.reg (Reg.EVT_LOG index) ∧
      t.node.latched ctx (Reg.EVT_LOG index + 4) = some (s.node.reg (Reg.EVT_LOG index + 4)) ∧
      t.node.latched ctx (Reg.EVT_LOG index + 8) = some (s.node.reg (Reg.EVT_LOG index + 8)) ∧
      t.node.latched ctx (Reg.EVT_LOG index + 12) = some (s.node.reg (Reg.EVT_LOG index + 12)) ∧
      t.node.regs = s.node.regs) ∧
  (∀ (s : State) (ctx a : Nat) (hw : Word), s.node.admits ctx a false = true → s.node.showsPlain ctx a = true →
    latchesOf a = [] → (regRow a).any (fun r => r.access == .rc) = true → a ≠ Reg.TOP_BUF_OPEN_MIN →
    exec (.rcRegisterRead ctx a hw) s = .next (s.on fun n => (n.answer (n.reg a)).setReg a hw)) ∧
  (∀ (s : State) (ctx : Nat), s.node.admits ctx Reg.WLD_VIOL_W3 false = true →
    ∃ t : State, exec (.violationLogRead ctx) s = .next t ∧ t.node.host.readData = s.node.reg Reg.WLD_VIOL_W3 ∧
      t.node.host.viol = s.node.host.viol.tail) ∧
  (∀ (s : State) (ctx q : Nat), q < 2 → s.node.admits ctx (Reg.TMB_TSQ_W2 q) false = true → s.node.tsqMine ctx q = true →
    ∃ t : State, exec (.tsqEntryRead ctx q) s = .next t ∧ t.node.host.readData = s.node.reg (Reg.TMB_TSQ_W2 q) ∧
      t.node.tm.tsqs = modifyAt s.node.tm.tsqs q (fun x => { x with entries := x.entries.drop 1 }) ∧
      t.node = { s.node with regs := t.node.regs, host := t.node.host, tm := { s.node.tm with tsqs := t.node.tm.tsqs } }) ∧
  (∀ (s : State) (ctx i : Nat), i < 4 → s.node.admits ctx (Reg.TMB_TCAP_SEC_HI i) false = true →
    ∃ t : State, exec (.tcapEntryRead ctx i) s = .next t ∧ t.node.host.readData = s.node.reg (Reg.TMB_TCAP_SEC_HI i) ∧
      t.node.tm.tcaps = modifyAt s.node.tm.tcaps i (fun x => { x with entries := x.entries.drop 1, full := false }) ∧
      t.node = { s.node with regs := t.node.regs, host := t.node.host, tm := { s.node.tm with tcaps := t.node.tm.tcaps } }) ∧
  (∀ (s : State) (ctx : Nat), s.node.admits ctx Reg.DIO_EDGE_W1 false = true →
    (s.node.pd.edgeCtx = some ctx ∨ s.node.ctxSecure ctx = true) →
    ∃ t : State, exec (.edgeEntryRead ctx) s = .next t ∧ t.node.host.readData = s.node.reg Reg.DIO_EDGE_W1 ∧
      t.node.pd.edges = s.node.pd.edges.drop 1 ∧
      t.node = { s.node with regs := t.node.regs, host := t.node.host, pd := { s.node.pd with edges := t.node.pd.edges } }) ∧
  (∀ (s : State) (ctx : Nat), s.node.admits ctx Reg.BRG_PWE_W4 false = true → s.node.pweMine ctx = true →
    ∃ t : State, exec (.postedLogRead ctx) s = .next t ∧ t.node.host.readData = s.node.reg Reg.BRG_PWE_W4 ∧
      t.node.brg.log = s.node.brg.log.tail) ∧
  (∀ (s : State) (ctx addr len : Nat) (write : Bool), ctx < 4 → s.node.bit Reg.TOP_PD_STATE 9 = true → addr < regSpace →
    (addr % 4 ≠ 0 ∨ len ≠ 4) →
    ∃ t : State, exec (.regAccessBad ctx addr len write) s = .next t ∧ t.node.host.readAbort = !write ∧
      t.node.regs = (((s.node.answer 0#32).inc Reg.EVT_BAD_ACCESS).raise 0x0907 addr len).regs ∧
      t.node.ev = (((s.node.answer 0#32).inc Reg.EVT_BAD_ACCESS).raise 0x0907 addr len).ev ∧
      t.node.host = { s.node.host with readData := 0#32, readAbort := !write } ∧
      t.node = { s.node with regs := t.node.regs, ev := t.node.ev, host := t.node.host }) ∧
  (∀ s : State, s.node.bit Reg.TOP_PD_STATE 9 = true →
    exec (.spiInvalidTransaction 0) s = .next (s.on fun n =>
      { n with host := { n.host with spi0 := { n.host.spi0 with format := true } } }) ∧
    exec (.spiInvalidTransaction 1) s = .next (s.on fun n =>
      { n with host := { n.host with spi1 := { n.host.spi1 with format := true } } }) ∧
    exec (.spiStatusTransaction 0) s = .next (s.on fun n =>
      { n with host := { n.host with
          readData := word (b2n (n.spiInt 0) + b2n n.host.spi0.retry * 2 + b2n n.host.spi0.refused * 4 + b2n n.host.spi0.format * 8)
          readAbort := false
          spi0 := ⟨false, false, false⟩ } }) ∧
    exec (.spiStatusTransaction 1) s = .next (s.on fun n =>
      { n with host := { n.host with
          readData := word (b2n (n.spiInt 1) + b2n n.host.spi1.retry * 2 + b2n n.host.spi1.refused * 4 + b2n n.host.spi1.format * 8)
          readAbort := false
          spi1 := ⟨false, false, false⟩ } }))

/-- R632, R643 and R68: a doorbell below the size of its ring is taken, the register and the answer word being all that
changes; any other value, and any value for a disabled ring, is dropped with DOORBELL_ERROR; with SC0 failed every doorbell
is ignored. R631: a size that a ring of the context may have enables it; any other value but 0 is dropped with
DOORBELL_ERROR; the size of an enabled ring does not change. R626, R635 and R669: a DMA error of a ring stops that ring and
is reported; the coalescing timer of a completion ring fires its vector once its time has passed, which sends the vector's
message or, while it is masked, leaves it pending. That a bad size of an enabled ring is dropped without an event is the
model's choice, log entry 70. -/
def Obligations.RingsTakeDoorbellsAndSizes : Prop :=
  (∀ (s : State) (ctx ring : Nat) (v : Word), ring < 4 → s.node.ctxPresent ctx = true → s.node.ctxResetting ctx = false →
    (s.node.admits ctx (Reg.HST_SQ_TAIL ctx ring) true = true →
      exec (.sqTailDoorbell ctx ring v) s = .next (s.on fun n =>
        if n.engFailed 0 then n.answer 0#32
        else if v.toNat < (n.reg (Reg.HST_SQ_SIZE ctx ring)).toNat then (n.answer 0#32).setReg (Reg.HST_SQ_TAIL ctx ring) v
        else (n.answer 0#32).raise 0x7103 (ctx + ring * 16) v.toNat)) ∧
    (s.node.admits ctx (Reg.HST_CQ_HEAD ctx ring) true = true →
      exec (.cqHeadDoorbell ctx ring v) s = .next (s.on fun n =>
        if n.engFailed 0 then n.answer 0#32
        else if v.toNat < (n.reg (Reg.HST_CQ_SIZE ctx ring)).toNat then (n.answer 0#32).setReg (Reg.HST_CQ_HEAD ctx ring) v
        else (n.answer 0#32).raise 0x7103 (ctx + ring * 16) v.toNat)) ∧
    (s.node.admits ctx (Reg.HST_EVQ_HEAD ctx) true = true →
      exec (.evqHeadDoorbell ctx v) s = .next (s.on fun n =>
        if n.engFailed 0 then n.answer 0#32
        else if v.toNat < (n.reg (Reg.HST_EVQ_SIZE ctx)).toNat then (n.answer 0#32).setReg (Reg.HST_EVQ_HEAD ctx) v
        else (n.answer 0#32).raise 0x7103 (ctx + 4 * 16) v.toNat)) ∧
    (s.node.admits ctx (Reg.HST_FTX_TAIL ctx) true = true →
      exec (.ftxTailDoorbell ctx v) s = .next (s.on fun n =>
        if n.engFailed 0 then n.answer 0#32
        else if v.toNat < (n.reg (Reg.HST_FTX_SIZE ctx)).toNat then (n.answer 0#32).setReg (Reg.HST_FTX_TAIL ctx) v
        else (n.answer 0#32).raise 0x7103 (ctx + 5 * 16) v.toNat)) ∧
    (s.node.admits ctx (Reg.HST_FRX_TAIL ctx) true = true →
      exec (.frxTailDoorbell ctx v) s = .next (s.on fun n =>
        if n.engFailed 0 then n.answer 0#32
        else if v.toNat < (n.reg (Reg.HST_FRX_SIZE ctx)).toNat then (n.answer 0#32).setReg (Reg.HST_FRX_TAIL ctx) v
        else (n.answer 0#32).raise 0x7103 (ctx + 6 * 16) v.toNat))) ∧
  (∀ (s : State) (ctx ring : Nat) (v : Word), ring < s.node.fld (Reg.HST_CTX_CFG ctx) Fld.HST_CTX_CFG_RINGS → ring < 4 →
    s.node.ctxPresent ctx = true → s.node.ctxResetting ctx = false →
    s.node.admits ctx (Reg.HST_SQ_SIZE ctx ring) true = true →
    (s.node.reg (Reg.HST_SQ_SIZE ctx ring) ≠ 0#32 ∨ v.toNat % 2048 = 0 →
      exec (.ringSizeWrite ctx (Reg.HST_SQ_SIZE ctx ring) v) s = .next (s.on fun n => n.answer 0#32)) ∧
    (s.node.reg (Reg.HST_SQ_SIZE ctx ring) = 0#32 →
      (v.toNat % 2048 ∈ [16, 32, 64] ∨ (ctx < 4 ∧ v.toNat % 2048 ∈ [128, 256, 512, 1024])) →
      exec (.ringSizeWrite ctx (Reg.HST_SQ_SIZE ctx ring) v) s = .next (s.on fun n =>
        (n.answer 0#32).setReg (Reg.HST_SQ_SIZE ctx ring) (word (v.toNat % 2048)))) ∧
    (s.node.reg (Reg.HST_SQ_SIZE ctx ring) = 0#32 → v.toNat % 2048 ≠ 0 →
      v.toNat % 2048 ∉ [16, 32, 64, 128, 256, 512, 1024] →
      exec (.ringSizeWrite ctx (Reg.HST_SQ_SIZE ctx ring) v) s = .next (s.on fun n =>
        (n.answer 0#32).raise 0x7103 (ctx + ring * 16) v.toNat))) ∧
  (∀ (s : State) (ctx ring cause time : Nat), ctx < 4 → ring < 7 → s.node.ctxPresent ctx = true →
    s.node.host.stopped.contains (ctx, ring) = false →
    exec (.hostDmaError ctx ring cause time) s = .next (s.on fun n =>
      let k := (n.at time).setBit (Reg.HST_CTX_STAT ctx) 3 true
      { k with host := { k.host with stopped := k.host.stopped ++ [(ctx, ring)] } }.raise 0x7105 (ctx + ring * 16) cause)) ∧
  (∀ (s : State) (ctx ring time : Nat) (e : Coalesce), ctx < 4 →
    (s.node.host.coalesce.find? fun x => x.ctx == ctx && x.ring == ring) = some e →
    e.since + s.node.bits (Reg.HST_CQ_IRQ ctx ring) 8 16 * 1000 ≤ (s.node.at time).tm.raw →
    ∃ t : State, exec (.cqIrqTimerExpiry ctx ring time) s = .next t ∧
      t.node.host.coalesce = s.node.host.coalesce.erase e ∧
      t.node.regs = (s.node.setBit (Reg.HST_IRQ_STAT ctx) ring true).regs ∧
      (s.node.msixMasked ctx ring = false → t.node.host.msix = s.node.host.msix ++ [(ctx, ring)] ∧
        t.node.host.dma = s.node.host.dma ++ [s.node.msixMessage ctx ring]) ∧
      (s.node.msixMasked ctx ring = true → t.node.host.msix = s.node.host.msix ∧ t.node.host.dma = s.node.host.dma ∧
        (ctx, ring) ∈ t.node.host.msixPend)) ∧
  (∀ (s : State) (ctx vec : Nat) (v : Word), ctx < 4 → vec < 32 → s.node.bit Reg.TOP_PD_STATE 9 = true → v.toNat % 2 = 0 →
    s.node.host.msixPend = [(ctx, vec)] →
    ∃ t : State, exec (.registerWrite ctx (bar4Base + 16 * vec + 12) v) s = .next t ∧ t.node.msixMasked ctx vec = false ∧
      t.node.host.msixPend = [] ∧ t.node.host.msix = s.node.host.msix ++ [(ctx, vec)] ∧ t.node.regs = s.node.regs) ∧
  (∀ (s : State) (ctx vec w : Nat) (v : Word), ctx < 4 → vec < 32 → w < 3 → s.node.bit Reg.TOP_PD_STATE 9 = true →
    s.node.host.msixPend = [] →
    ∃ t : State, exec (.registerWrite ctx (bar4Base + 16 * vec + 4 * w) v) s = .next t ∧
      t.node.bar4Read ctx (16 * vec + 4 * w) = (if w = 0 then v &&& 0xFFFFFFFC#32 else v) ∧
      t.node.host.msix = s.node.host.msix ∧ t.node.regs = s.node.regs) ∧
  (∀ (s : State) (ctx off : Nat), ctx < 4 → off < 0x4000 → s.node.bit Reg.TOP_PD_STATE 9 = true →
    exec (.registerRead ctx (bar4Base + off) false) s = .next (s.on fun n => n.answer (n.bar4Read ctx off)))

/-- R626, R645 and R630: a function-level reset, a write of `HST_CTX_CTRL.RESET` and a host-frame link that has been down
for 1 s each start the reset of their context with the cause of R645. R626, R773 and R625: loss of the PCIe link and
`PCIE_PERST_N` reset every present context HC0 to HC3 with cause 4 and clear the link's status; a link that has trained
shows its width and rate and the functions that the host has enabled. R645: the end of a context reset disables the
context's rings, forgets what waits for it and raises its event with the cause; the reset is over. That the effects on rings
fall at the end of the reset is the model's reading, log entry 71. -/
def Obligations.ContextResetsStartAndEnd : Prop :=
  (∀ (s : State) (fn : Nat), fn < 4 → s.node.ctxPresent fn = true → s.node.ctxResetting fn = false →
    ∃ t : State, exec (.pcieFunctionLevelReset fn) s = .next t ∧ ResetStarted s.node t.node fn 3) ∧
  (∀ (s : State) (ctx target : Nat) (v : Word), target < 8 → v.toNat.testBit 0 = true →
    s.node.admits ctx (Reg.HST_CTX_CTRL target) true = true → s.node.ctxPresent target = true →
    s.node.ctxResetting target = false →
    ∃ t : State, exec (.hstCtxResetWrite ctx target v) s = .next t ∧ ResetStarted (s.node.answer 0#32) t.node target 1) ∧
  (∀ (s : State) (ctx time : Nat), 6 ≤ ctx → s.node.ctxPresent ctx = true → s.node.ctxResetting ctx = false →
    s.node.linkUp (4 + s.node.fld (Reg.HST_CTX_CFG ctx) Fld.HST_CTX_CFG_PORT) = false →
    (s.node.port (4 + s.node.fld (Reg.HST_CTX_CFG ctx) Fld.HST_CTX_CFG_PORT)).linkAt + 1000000000 ≤ time →
    ∃ t : State, exec (.hostFrameLinkTimeout ctx time) s = .next t ∧ ResetStarted (s.node.at time) t.node ctx 5) ∧
  (∀ (s : State) (time : Nat), ∃ t : State,
    exec (.pcieLinkDown time) s = .next t ∧ exec (.pciePerst time) s = .next t ∧ t.node.reg Reg.HST_PCIE_STAT = 0#32 ∧
    (∀ c, c < 4 → s.node.ctxPresent c = true → t.node.ctxResetting c = true) ∧
    t.node.host.resets = s.node.host.resets ++
      ([0, 1, 2, 3].filter fun c => s.node.ctxPresent c && !s.node.ctxResetting c).map fun c => (c, 4)) ∧
  (∀ (s : State) (width rate fns time : Nat), ∃ t : State, exec (.pcieLinkUp width rate fns time) s = .next t ∧
    t.node.reg Reg.HST_PCIE_STAT = word (1 + width % 8 * 2 + rate % 4 * 16) ∧
    (∀ c, c < 4 → t.node.bit (Reg.HST_CTX_STAT c) 2 = fns.testBit c) ∧
      t.node = { s.node.at time with regs := t.node.regs }) ∧
  (∀ (s : State) (ctx time cause : Nat), ctx < 8 →
    (s.node.host.resets.find? fun x => x.1 == ctx) = some (ctx, cause) →
    (∀ w ∈ s.node.host.waits, ¬ (w.kind = waitCtxReset ∧ w.key = ctx)) → s.node.ev.queue.length < 200 →
    s.node.brg.blocks = [] →
    ∃ t : State, exec (.contextReset ctx time) s = .next t ∧ t.node.ctxResetting ctx = false ∧
      (∀ r, r < 4 → t.node.reg (Reg.HST_SQ_SIZE ctx r) = 0#32 ∧ t.node.reg (Reg.HST_CQ_SIZE ctx r) = 0#32) ∧
      t.node.reg (Reg.HST_EVQ_SIZE ctx) = 0#32 ∧ (∀ x ∈ t.node.host.resets, x.1 ≠ ctx) ∧
      (∀ e ∈ t.node.host.held, e.ctx ≠ ctx) ∧
      (t.node.ev.queue.getLast?.map fun e => (e.code, e.d0, e.d1)) = some (0x7002, word ctx, word cause))

/-- R633, R655 and R787: a fetched submission that passes checks 1 to 4 is accepted. A PCIe or SPI ring that has room in its
completion ring takes its head on, a host-frame ring gives up the oldest command of its frames; the command is journalled
with a pending outcome unless R656 leaves it out, and is in flight, completing nothing yet. R15, R640 and R787: a submission
with sequence 0, one older than the journal holds, and one from a shared context at a node that does not hold the token are
completed at once without being taken. -/
def Obligations.FetchedCommandsAreCheckedAndAccepted : Prop :=
  (∀ (s : State) (ctx ring time : Nat) (entry e : SqEntry), ctx < 6 → ring < 4 → s.node.fetches ctx = true →
    s.node.reg (Reg.HST_SQ_HEAD ctx ring) ≠ s.node.reg (Reg.HST_SQ_TAIL ctx ring) →
    s.node.reg (Reg.HST_SQ_SIZE ctx ring) ≠ 0#32 → s.node.cqOn ctx ring = true →
    s.node.host.stopped.contains (ctx, ring) = false → 4 + 4 * s.node.inFlight ctx ring ≤ s.node.cqFree ctx ring →
    e = s.node.fetched ctx ring entry → s.node.passesFirst ctx e = true →
    exec (.commandFetch ctx ring entry time) s = .next (s.on fun n =>
      ((n.at time).setReg (Reg.HST_SQ_HEAD ctx ring)
        (word (if (n.reg (Reg.HST_SQ_HEAD ctx ring)).toNat + 1 < (n.reg (Reg.HST_SQ_SIZE ctx ring)).toNat
          then (n.reg (Reg.HST_SQ_HEAD ctx ring)).toNat + 1 else 0))).taken ctx ring e)) ∧
  (∀ (s : State) (ctx ring time : Nat) (entry e : SqEntry), 6 ≤ ctx → ring < 4 → s.node.fetches ctx = true →
    (s.node.host.frameCmds.find? fun x => x.1 == ctx && x.2.1 == ring) = some (ctx, ring, e) →
      s.node.passesFirst ctx e = true →
    exec (.commandFetch ctx ring entry time) s = .next (s.on fun n =>
      { n.at time with host := { n.host with frameCmds := n.host.frameCmds.erase (ctx, ring, e) } }.taken ctx ring e)) ∧
  (∀ (n : Node) (c r i : Nat) (e : SqEntry), c < 8 → r < 4 → e.seq < 2 ^ 32 →
    i = (n.reg (Reg.JRN_CTX_BASE c)).toNat + (n.host.shares.getD c ⟨0, 0⟩).next → i < 8192 →
    (n.jrnAccept c r e).2 = i ∧ (n.jrnAccept c r e).1.jrnSeq i = e.seq ∧ (n.jrnAccept c r e).1.jrnOutcome i = 0xFE ∧
      (n.jrnAccept c r e).1.jrnValid i = true ∧ (n.jrnAccept c r e).1.host.flight = n.host.flight ∧
      (n.jrnAccept c r e).1.host.dma = n.host.dma ∧ (n.jrnAccept c r e).1.host.waits = n.host.waits) ∧
  (∀ (n : Node) (c r : Nat) (e : SqEntry) (busy : Bool), e.seq = 0 →
    n.accept c r e busy = n.post c r e.seq e.opcode sArgs 0 0 []) ∧
  (∀ (n : Node) (c r : Nat) (e : SqEntry) (busy : Bool), e.seq ≠ 0 → (n.host.shares.getD c ⟨0, 0⟩).count ≠ 0 →
    seqPrecedes e.seq (n.reg (Reg.JRN_CTX_OLDEST c)).toNat = true →
    n.accept c r e busy = n.post c r e.seq e.opcode sState 0 0 []) ∧
  (∀ (n : Node) (c r : Nat) (e : SqEntry) (busy : Bool), e.seq ≠ 0 →
    ¬ ((n.host.shares.getD c ⟨0, 0⟩).count ≠ 0 ∧ seqPrecedes e.seq (n.reg (Reg.JRN_CTX_OLDEST c)).toNat = true) →
    n.jrnFind c e.seq = none → n.fld (Reg.HST_CTX_CFG c) Fld.HST_CTX_CFG_SHARED = 1 → n.holder = false →
    asksOnly e.opcode = false → n.accept c r e busy = n.post c r e.seq e.opcode sNotHolder 0 0 [])

/-- R15: an opcode whose high byte names no range, or whose low byte is not defined in its range, is undefined; its command
is journalled like any other, with a pending outcome, and completes with status REJECT_ARGS (0x03) once no fence holds it. -/
def Obligations.UndefinedOpcodesAreRejected : Prop :=
  (∀ op : Nat, (op / 256 = 0 ∨ 0x0E ≤ op / 256) → definedOpcode op = false) ∧
  (∀ op : Nat, definedOpcode op = false → unjournalled op = false) ∧
  (∀ (n : Node) (c r : Nat) (e : SqEntry), e.seq ≠ 0 → definedOpcode e.opcode = false →
    ¬ ((n.host.shares.getD c ⟨0, 0⟩).count ≠ 0 ∧ seqPrecedes e.seq (n.reg (Reg.JRN_CTX_OLDEST c)).toNat = true) →
    n.jrnFind c e.seq = none → n.fld (Reg.HST_CTX_CFG c) Fld.HST_CTX_CFG_SHARED = 0 → n.jrnFull c = false →
    n.accept c r e false = { (n.jrnAccept c r e).1 with host := { (n.jrnAccept c r e).1.host with
      flight := (n.jrnAccept c r e).1.host.flight ++
        [⟨c, r, e.seq, e.opcode, some (n.jrnAccept c r e).2, e.flags.testBit 0, false, []⟩] } }) ∧
  (∀ (s : State) (c : Cmd), definedOpcode c.entry.opcode = false → (s.node.at c.time).fenceHeld c = false →
    exec (.undefinedOpcode c) s = .next (s.on fun n => (n.at c.time).completes c sArgs []))

/-- R634, R635, R637, R641 and R669: what the completion of a command of a PCIe context writes to its completion ring:
sequence, opcode, status, result words 0 to 3 and the stamp at the ring's tail, then the message of the ring's vector where
the ring signals now and the vector is not masked; the tail is taken on and the command is in flight no more. -/
def Obligations.CompletionsArePosted : Prop :=
  ∀ (n : Node) (c : Cmd) (status : Nat) (res : List Word), c.ctx < 4 → c.ring < 4 → res.length ≤ 4 →
    n.engFailed 0 = false → n.cqOn c.ctx c.ring = true → n.flightOf c.ctx c.entry.seq = none →
    (n.reg (Reg.HST_CQ_TAIL c.ctx c.ring)).toNat + 1 < (n.reg (Reg.HST_CQ_SIZE c.ctx c.ring)).toNat →
    (n.completes c status res).host.dma = n.host.dma ++ [⟨c.ctx,
      n.reg64 (Reg.HST_CQ_BASE_LO c.ctx c.ring) + (n.reg (Reg.HST_CQ_TAIL c.ctx c.ring)).toNat * 32,
      encLE 4 c.entry.seq ++ encLE 2 c.entry.opcode ++ encLE 1 status ++ encLE 1 0 ++
        encLE 4 (res.getD 0 0#32).toNat ++ encLE 4 (res.getD 1 0#32).toNat ++ encLE 4 (res.getD 2 0#32).toNat ++
        encLE 4 (res.getD 3 0#32).toNat ++ encLE 4 n.stamp.toNat ++ encLE 1 0 ++ zeros 2 ++
        [BitVec.ofNat 8 (c.ring * 16 + b2n (n.phase c.ctx c.ring))]⟩] ++
      (if n.signalsNow c.ctx c.ring 1 && !n.msixMasked c.ctx c.ring then [n.msixMessage c.ctx c.ring] else []) ∧
    (n.completes c status res).reg (Reg.HST_CQ_TAIL c.ctx c.ring) =
      word ((n.reg (Reg.HST_CQ_TAIL c.ctx c.ring)).toNat + 1) ∧
    (∀ f ∈ (n.completes c status res).host.flight, ¬ (f.ctx = c.ctx ∧ f.seq = c.entry.seq)) ∧
    (n.completes c status res).pd = n.pd ∧ (n.completes c status res).plc = n.plc ∧
    (n.completes c status res).mem = n.mem ∧ (n.completes c status res).aud = n.aud

/-- R14, R633 and checks 6 and 7 of R787, for every command: an entry of another opcode is not the command's business; while
a fence holds it nothing but time moves; a reserved field or a reserved argument word that is not zero completes it with
REJECT_ARGS; a command of the other world is logged as a refusal of kind 2 and completes with REJECT_WORLD. None of them has
any effect of its own. -/
def Obligations.CommandsThatFailTheSharedChecksHaveNoEffect : Prop :=
  ∀ (i : Instr) (s : State) (x : RowCommand), s.node.commandOf i = some x →
    (x.cmd.entry.opcode ≠ x.op → exec i s = .next s) ∧
    (x.cmd.entry.opcode = x.op → (s.node.at x.cmd.time).fenceHeld x.cmd = true →
      exec i s = .next (s.on fun n => n.at x.cmd.time)) ∧
    (x.cmd.entry.opcode = x.op → (s.node.at x.cmd.time).fenceHeld x.cmd = false →
      (2 ≤ x.cmd.entry.flags ∨ x.cmd.entry.rsv ≠ 0 ∨ ∃ w ∈ x.cmd.entry.args.drop x.nargs, w ≠ 0#32) →
      exec i s = .next (s.on fun n => (n.at x.cmd.time).completes x.cmd sArgs [])) ∧
    (∀ k, (x.need = .secure k ∨ x.need = .inst k) → x.cmd.entry.opcode = x.op →
      (s.node.at x.cmd.time).fenceHeld x.cmd = false →
      x.cmd.entry.flags < 2 → x.cmd.entry.rsv = 0 → (∀ w ∈ x.cmd.entry.args.drop x.nargs, w = 0#32) →
      s.node.mayRun x.cmd.ctx x.need = false →
      exec i s = .next (s.on fun n =>
        ((n.at x.cmd.time).refuse x.cmd.ctx false 2 1 x.cmd.entry.opcode k).completes x.cmd sWorld []))

/-- R659: the commands that ask or echo complete with OK and the words of the table, and change nothing else; `CTX_RESET`
starts the reset of another context and waits for its end. A context of the open world asks only for itself. R653 to R659:
the journal commands of a share that the context may name: its sequences, an entry in the result, the acknowledgement of a
sequence at or before the newest, and the clearing of a share in which nothing is pending. -/
def Obligations.NodeAndJournalCommandsAnswer : Prop :=
  (∀ (s : State) (c : Cmd), s.node.takes c 0x0101 .either 0 = true → exec (.nodeStatus c) s = .next (s.on fun n =>
    (n.at c.time).completes c sOk
      [n.reg Reg.TOP_PLACE, n.reg Reg.TOP_EPOCH, n.reg Reg.INA_STATE, n.reg Reg.PAR_TOKEN, n.reg Reg.TOP_ENG_FAULT])) ∧
  (∀ (s : State) (c : Cmd), s.node.takes c 0x0102 .either 4 = true → exec (.nodeNop c) s = .next (s.on fun n =>
    (n.at c.time).completes c sOk [argW c 0, argW c 1, argW c 2, argW c 3])) ∧
  (∀ (s : State) (c : Cmd), s.node.takes c 0x0104 .either 1 = true → arg c 0 < 8 →
    (arg c 0 = c.ctx ∨ s.node.ctxSecure c.ctx = true) → s.node.ctxPresent (arg c 0) = true →
    exec (.ctxInfo c) s = .next (s.on fun n => (n.at c.time).completes c sOk
      [n.reg (Reg.HST_CTX_CFG (arg c 0)), n.reg (Reg.HST_CTX_STAT (arg c 0)), n.reg (Reg.JRN_CTX_BASE (arg c 0)),
       n.reg (Reg.JRN_CTX_SIZE (arg c 0))])) ∧
  (∀ (s : State) (c : Cmd), s.node.takes c 0x0104 .either 1 = true → arg c 0 < 8 → arg c 0 ≠ c.ctx →
    s.node.ctxSecure c.ctx = false → exec (.ctxInfo c) s = .next (s.on fun n =>
      ((n.at c.time).refuse c.ctx false 2 2 c.entry.opcode (81 + arg c 0)).completes c sWorld [])) ∧
  (∀ (s : State) (c : Cmd), s.node.takes c 0x0103 (.secure (81 + arg c 0 % 8)) 1 = true → arg c 0 < 8 → arg c 0 ≠ c.ctx →
    s.node.ctxPresent (arg c 0) = true → exec (.ctxReset c) s = .next (s.on fun n =>
      ((n.at c.time).ctxResetStart (arg c 0) 2).waitsFor c waitCtxReset (arg c 0) [])) ∧
  (∀ (s : State) (c : Cmd), s.node.takes c 0x0B01 .either 1 = true → arg c 0 < 8 →
    (arg c 0 = c.ctx ∨ s.node.ctxSecure c.ctx = true) →
    exec (.jrnStatus c) s = .next (s.on fun n => (n.at c.time).completes c sOk
      [n.reg (Reg.JRN_CTX_OLDEST (arg c 0)), n.reg (Reg.JRN_CTX_NEWEST (arg c 0)), n.reg (Reg.JRN_CTX_ACK (arg c 0)),
       n.reg (Reg.JRN_CTX_SIZE (arg c 0))])) ∧
  (∀ (s : State) (c : Cmd) (i : Nat) (is : List Nat), s.node.takes c 0x0B02 .either 5 = true → arg c 0 < 8 →
    (arg c 0 = c.ctx ∨ s.node.ctxSecure c.ctx = true) → arg c 2 = 1 → arg c 3 = 0 → arg c 4 = 0 →
    s.node.jrnFrom (arg c 0) (arg c 1) = i :: is →
    exec (.jrnRead c) s = .next (s.on fun n =>
      (n.at c.time).completes c sOk (word 1 :: (n.at c.time).getRegs (Reg.JRN_ENTRY i) 16))) ∧
  (∀ (s : State) (c : Cmd), s.node.takes c 0x0B03 .either 2 = true → arg c 0 < 8 →
    (arg c 0 = c.ctx ∨ s.node.ctxSecure c.ctx = true) → (s.node.host.shares.getD (arg c 0) ⟨0, 0⟩).count ≠ 0 →
    (arg c 1 = (s.node.reg (Reg.JRN_CTX_NEWEST (arg c 0))).toNat ∨
      seqPrecedes (arg c 1) (s.node.reg (Reg.JRN_CTX_NEWEST (arg c 0))).toNat = true) →
    exec (.jrnAck c) s = .next (s.on fun n =>
      ((n.at c.time).setReg (Reg.JRN_CTX_ACK (arg c 0)) (argW c 1)).completes c sOk [])) ∧
  (∀ (s : State) (c : Cmd), s.node.takes c 0x0B04 (.secure (81 + arg c 0 % 8)) 1 = true → arg c 0 < 8 →
    s.node.ctxPresent (arg c 0) = true →
    (∀ i, (s.node.reg (Reg.JRN_CTX_BASE (arg c 0))).toNat ≤ i →
      i < (s.node.reg (Reg.JRN_CTX_BASE (arg c 0))).toNat + (s.node.reg (Reg.JRN_CTX_SIZE (arg c 0))).toNat →
      s.node.jrnValid i = true → s.node.jrnOutcome i ≠ 0xFE) →
    s.node.flightOf c.ctx c.entry.seq = none →
    exec (.jrnClear c) s = .next (s.on fun n =>
      let k := (List.range' (n.reg (Reg.JRN_CTX_BASE (arg c 0))).toNat (n.reg (Reg.JRN_CTX_SIZE (arg c 0))).toNat).foldl
        (fun k i => k.clearRegs (Reg.JRN_ENTRY i) (Reg.JRN_ENTRY i + 64)) (n.at c.time)
      let k := { k with host := { k.host with shares := modifyAt k.host.shares (arg c 0) fun _ => ⟨0, 0⟩ } }
      ((k.syncJrn (arg c 0)).raise 0x7008 2 (arg c 0)).completes c sOk []))

/-- R59, R629, R630, R643 and R644: the commands of a good frame of a host-frame context that finds room join its queue
while no more than 64 of the ring wait; a held completion leaves in a completion frame; a transmit descriptor is taken and
its frame enters the fabric through the host port, but one shorter than 60 or longer than 1,518 bytes, a spine frame and a
MAC control frame are counted and not sent. -/
def Obligations.HostFramesCarryCommandsAndCompletions : Prop :=
  (∀ (s : State) (r : Rx) (c : Nat), ((s.node.at r.stamp).echoBack r).rxFail r = none →
    (((s.node.at r.stamp).echoBack r).rxGood r).frameCtx r.port r.frame = some c →
    frameCells r.frame ≤ r.room → (((s.node.at r.stamp).echoBack r).rxGood r).echoing r.port = false →
    (((s.node.at r.stamp).echoBack r).rxGood r).fetches c = true →
    (frameEntries r.frame.body).1 < (((s.node.at r.stamp).echoBack r).rxGood r).fld (Reg.HST_CTX_CFG c) Fld.HST_CTX_CFG_RINGS →
    ((((s.node.at r.stamp).echoBack r).rxGood r).host.frameCmds.countP fun x => x.1 == c && x.2.1 == (frameEntries r.frame.body).1) +
      (((s.node.at r.stamp).echoBack r).rxGood r).inFlight c (frameEntries r.frame.body).1 +
      (frameEntries r.frame.body).2.length ≤ 64 →
    exec (.hostFrameCommands r) s = .next (s.on fun n =>
      let g := ((n.at r.stamp).echoBack r).rxGood r
      { g with host := { g.host with frameCmds := g.host.frameCmds ++
        (frameEntries r.frame.body).2.map fun e => (c, (frameEntries r.frame.body).1, e) } })) ∧
  (∀ (s : State) (ctx time : Nat) (e : HeldEntry), s.node.host.held = [e] → e.ctx = ctx → e.event = false →
    byteAt e.bytes 28 = 0 →
    exec (.completionFrameSend ctx time) s = .next (s.on fun n =>
      { n.at time with host := { n.host with held := [] } }.hostFrame ctx 2 (leAt e.bytes 31 1 / 16 % 4) [e])) ∧
  (∀ (s : State) (ctx len tag flags time : Nat) (f : Frame), ctx < 4 → s.node.ctxPresent ctx = true →
    s.node.ctxResetting ctx = false → s.node.reg (Reg.HST_FTX_SIZE ctx) ≠ 0#32 →
    s.node.reg (Reg.HST_FTX_HEAD ctx) ≠ s.node.reg (Reg.HST_FTX_TAIL ctx) → s.node.host.stopped.contains (ctx, 5) = false →
    (len < 60 ∨ 1518 < len ∨ s.node.isSpine f = true ∨ f.etype = 0x8808) →
    exec (.hostFrameTransmit ctx len tag flags f time) s = .next (s.on fun n =>
      ((((n.at time).setReg (Reg.HST_FTX_HEAD ctx)
        (word (if (n.reg (Reg.HST_FTX_HEAD ctx)).toNat + 1 < (n.reg (Reg.HST_FTX_SIZE ctx)).toNat
          then (n.reg (Reg.HST_FTX_HEAD ctx)).toNat + 1 else 0))).inc (Reg.HST_FTX_DROP ctx)).irq ctx 6 6))) ∧
  (∀ (s : State) (ctx len tag flags time : Nat) (f : Frame), ctx < 4 → s.node.ctxPresent ctx = true →
    s.node.ctxResetting ctx = false → s.node.reg (Reg.HST_FTX_SIZE ctx) ≠ 0#32 →
    s.node.reg (Reg.HST_FTX_HEAD ctx) ≠ s.node.reg (Reg.HST_FTX_TAIL ctx) → s.node.host.stopped.contains (ctx, 5) = false →
    60 ≤ len → len ≤ 1518 → s.node.isSpine f = false → f.etype ≠ 0x8808 → flags.testBit 0 = false →
    exec (.hostFrameTransmit ctx len tag flags f time) s = .next (s.on fun n =>
      (((n.at time).setReg (Reg.HST_FTX_HEAD ctx)
        (word (if (n.reg (Reg.HST_FTX_HEAD ctx)).toNat + 1 < (n.reg (Reg.HST_FTX_SIZE ctx)).toNat
          then (n.reg (Reg.HST_FTX_HEAD ctx)).toNat + 1 else 0))).openForward 13 f (n.reg Reg.TOP_BUF_OPEN_FREE).toNat
            (n.at time).tm.raw).irq ctx 6 6)) ∧
  (∀ (s : State) (ctx len tag flags time q p : Nat) (f : Frame) (m : Node), ctx < 4 → s.node.ctxPresent ctx = true →
    s.node.ctxResetting ctx = false → s.node.reg (Reg.HST_FTX_SIZE ctx) ≠ 0#32 →
    s.node.reg (Reg.HST_FTX_HEAD ctx) ≠ s.node.reg (Reg.HST_FTX_TAIL ctx) → s.node.host.stopped.contains (ctx, 5) = false →
    60 ≤ len → len ≤ 1518 → s.node.isSpine f = false → f.etype ≠ 0x8808 → flags.testBit 0 = true →
    m = ((s.node.at time).setReg (Reg.HST_FTX_HEAD ctx)
        (word (if (s.node.reg (Reg.HST_FTX_HEAD ctx)).toNat + 1 < (s.node.reg (Reg.HST_FTX_SIZE ctx)).toNat
          then (s.node.reg (Reg.HST_FTX_HEAD ctx)).toNat + 1 else 0))).openForward 13 f (s.node.reg Reg.TOP_BUF_OPEN_FREE).toNat
            (s.node.at time).tm.raw →
    m.tsqOf ctx = some q → m.net.queue = s.node.net.queue →
      ((m.net.sent.drop s.node.net.sent.length).map (·.port)).min? = some p →
    exec (.hostFrameTransmit ctx len tag flags f time) s = .next (s.on fun _ =>
      (m.tsqPush q (tag % 65536) p (m.stampAt m.tm.raw)).irq ctx 6 6))

/-- R672 to R675: the router takes the next event of its queue, the one of lowest code among those of the oldest stamp,
counts it by severity, and with no context subscribed, a log threshold above it and the fatal latch in use does nothing
else; a record at or above the threshold is written at `HEAD`. R675 and R69: clearing the log empties the records, `HEAD`
and the total and leaves the first-fatal latch; clearing the latch leaves the log; clearing an engine's fault record does
not restart the engine. R67, R68, R72 to R74, R727, R728 and R734: an engine that fails is held in reset with its record set
and its event, and the loss of a schedule or placement engine ends RUN, that of SC1 its announcements; what the scrubbers of
SRAM and DRAM find is counted, an uncorrectable error is recorded and reported, a table entry hit counts as absent, a
journal entry hit is marked corrupt and an engine's memory hit fails its engine; at the end of the installed DRAM a pass is
counted. The order of events of one stamp by ascending code is the model's reading, log entry 61. -/
def Obligations.EventsFaultsAndMemoryErrorsAreReported : Prop :=
  (∀ (s : State) (time : Nat) (e : Event), nextEvent s.node.ev.queue = some e →
    (∀ c, c < 8 → s.node.ctxPresent c = false) → evSev e.code < s.node.bits Reg.EVT_CFG 0 2 → evSev e.code < 3 →
    exec (.eventRoute time) s = .next (s.on fun n =>
      { n.at time with ev := { n.ev with queue := n.ev.queue.erase e } }.inc (Reg.EVT_CNT_SEV (evSev e.code)))) ∧
  (∀ (s : State) (time : Nat), s.node.ev.queue = [] → exec (.eventRoute time) s = .next (s.on fun n => n.at time)) ∧
  (∀ (n : Node) (e : Event), n.bits Reg.EVT_STAT 0 10 < 1024 →
    (n.logRecord e).getRegs (Reg.EVT_LOG (n.bits Reg.EVT_STAT 0 10)) 4 = recordWords e ∧
    (n.logRecord e).bits Reg.EVT_STAT 0 10 = (n.bits Reg.EVT_STAT 0 10 + 1) % 1024 ∧
    (n.logRecord e).reg Reg.EVT_LOG_TOTAL = n.reg Reg.EVT_LOG_TOTAL + 1#32) ∧
  (∀ (s : State) (ctx : Nat), s.node.admits ctx Reg.EVT_CLEAR true = true →
    ∃ t : State, exec (.evtClearLog ctx) s = .next t ∧ t.node.reg Reg.EVT_LOG_TOTAL = 0#32 ∧
      t.node.bits Reg.EVT_STAT 0 11 = 0 ∧ (∀ i, i < 1024 → t.node.getRegs (Reg.EVT_LOG i) 4 = [0#32, 0#32, 0#32, 0#32]) ∧
      t.node.bit Reg.EVT_STAT 11 = s.node.bit Reg.EVT_STAT 11 ∧
      t.node.getRegs Reg.EVT_FATAL_W0 4 = s.node.getRegs Reg.EVT_FATAL_W0 4 ∧
      t.node = { s.node.answer 0#32 with regs := t.node.regs }) ∧
  (∀ (s : State) (ctx : Nat), s.node.admits ctx Reg.EVT_CLEAR true = true →
    exec (.evtClearFatal ctx) s = .next (s.on fun n =>
      ((n.answer 0#32).setBit Reg.EVT_STAT 11 false).setRegs Reg.EVT_FATAL_W0 [0#32, 0#32, 0#32, 0#32])) ∧
  (∀ (s : State) (ctx : Nat) (v : Word), s.node.admits ctx Reg.TOP_ENG_FAULT true = true →
    ∃ t : State, exec (.engineFaultClear ctx v) s = .next t ∧
      t.node.reg Reg.TOP_ENG_FAULT = s.node.reg Reg.TOP_ENG_FAULT &&& ~~~(v &&& 0xFFFF#32) ∧
      t.node.reg Reg.TOP_ENG_RUN = s.node.reg Reg.TOP_ENG_RUN) ∧
  (∀ (s : State) (e cause time : Nat), e < 16 → e ≠ 1 → s.node.boot.engDown.contains e = false →
    (s.node.bit Reg.TOP_ENG_RUN e = true ∨ cause = 2) →
    exec (.engineFault e cause time) s = .next (s.on fun n =>
      let m := ((n.at time).setBit Reg.TOP_ENG_FAULT e true).setBit Reg.TOP_ENG_RUN e false
      let m := ({ m with boot := { m.boot with engDown := m.boot.engDown ++ [e] } }.raise 0x0B04 e cause).pairFault
      if e = 10 ∨ e = 11 ∨ e = 14 ∨ e = 15 then m.enterMute else m)) ∧
  (∀ (s : State) (cause time : Nat), s.node.boot.engDown.contains 1 = false →
    (s.node.bit Reg.TOP_ENG_RUN 1 = true ∨ cause = 2) →
    exec (.engineFault 1 cause time) s = .next (s.on fun n =>
      let m := ((n.at time).setBit Reg.TOP_ENG_FAULT 1 true).setBit Reg.TOP_ENG_RUN 1 false
      let m := ({ m with boot := { m.boot with engDown := m.boot.engDown ++ [1] } }.raise 0x0B04 1 cause).pairFault
      { m with aud := { m.aud with reqs := [], issued := [], outbox := [] } }.arbitrateAll
        (m.aud.reqs.flatMap fun (q : PaReq) => q.plays.map fun (z : ZonePlay) => z.zone))) ∧
  (∀ (s : State) (place time : Nat), 2 ≤ place / 2 ^ 24 % 256 → place / 2 ^ 24 % 256 ≤ 5 →
    s.node.spoiltAt (place / 2 ^ 24) (place % 2 ^ 24) = none →
    exec (.sramScrub ⟨false, place, true⟩ time) s = .next (s.on fun n =>
      let m := (((n.at time).setReg Reg.TOP_ECC_LAST (word place)).inc Reg.TOP_ECC_UNCORR).raise 0x0A02 place 0
      { m with mem := { m.mem with
        absent := (m.mem.absent ++ [(place / 2 ^ 24 % 256, tableEntry (place / 2 ^ 24 % 256) (place % 2 ^ 24))]).eraseDups } })) ∧
  (∀ (s : State) (place time : Nat), place / 2 ^ 24 % 256 = 6 → place % 2 ^ 24 / 8 < 8192 →
    s.node.spoiltAt (place / 2 ^ 24) (place % 2 ^ 24) = none →
    exec (.sramScrub ⟨false, place, true⟩ time) s = .next (s.on fun n =>
      ((((n.at time).setReg Reg.TOP_ECC_LAST (word place)).inc Reg.TOP_ECC_UNCORR).raise 0x0A02 place 0).jrnMarkCorrupt
        (place % 2 ^ 24 / 8))) ∧
  (∀ (s : State) (place time : Nat), 0x10 ≤ place / 2 ^ 24 % 256 → place / 2 ^ 24 % 256 < 0x20 →
    s.node.spoiltAt (place / 2 ^ 24) (place % 2 ^ 24) = none →
    exec (.sramScrub ⟨false, place, true⟩ time) s = .next (s.on fun n =>
      ((((n.at time).setReg Reg.TOP_ECC_LAST (word place)).inc Reg.TOP_ECC_UNCORR).raise 0x0A02 place 0).engineFault
        (place / 2 ^ 24 % 256 - 0x10) 2)) ∧
  (∀ (s : State) (place time : Nat), s.node.spoiltAt (place / 2 ^ 24) (place % 2 ^ 24) = none →
    ∃ t : State, exec (.sramScrub ⟨false, place, false⟩ time) s = .next t ∧
    t.node.reg64 Reg.TOP_ECC_CORR_LO = (s.node.reg64 Reg.TOP_ECC_CORR_LO + 1) % 2 ^ 64 ∧
    t.node.reg Reg.TOP_ECC_UNCORR = s.node.reg Reg.TOP_ECC_UNCORR ∧
      t.node.reg Reg.TOP_ECC_LAST = s.node.reg Reg.TOP_ECC_LAST) ∧
  (∀ (s : State) (addr time : Nat), s.node.bit Reg.MEM_SCRUB 0 = true → addr < s.node.bits Reg.MEM_SIZE 0 16 * 2 ^ 20 →
    s.node.spoiltAt 0 (addr / 64) = none →
    ∃ t : State, exec (.dramScrub addr true time) s = .next t ∧
      t.node.reg Reg.MEM_ECC_UNCORR = word (min ((s.node.reg Reg.MEM_ECC_UNCORR).toNat + 1) 0xFFFFFFFF) ∧
      t.node.reg Reg.MEM_ECC_LAST = word (addr / 64 % 2 ^ 27) ∧ t.node.mem = s.node.mem) ∧
  (∀ (s : State) (addr time : Nat) (found : Bool), s.node.bit Reg.MEM_SCRUB 0 = true →
    s.node.bits Reg.MEM_SIZE 0 16 * 2 ^ 20 ≤ addr →
    exec (.dramScrub addr found time) s = .next (s.on fun n =>
      (n.at time).setBits Reg.MEM_SCRUB 16 16 (min (n.bits Reg.MEM_SCRUB 16 16 + 1) 65535)))

/-- R117, R121 and R709: at the release of reset the strap is sampled, and with strap 0b10 the node waits, HC0 and HC4 alone
present, secure, with one ring pair and 256 journal entries each. R692, R693, R725 and R726: a memory test that finds
nothing and one that does; trained DRAM and DRAM of which both channels fail, which puts the node into the waiting state. -/
def Obligations.BootStartsAndSelfTestsDecide : Prop :=
  (∀ (s : State) (strap time : Nat) (flash : FlashFacts), s.node.boot.phase = 0 → s.node.boot.sleep = 0 →
    s.node.fld Reg.PCR_RESET_CAUSE Fld.PCR_RESET_CAUSE_KIND ≤ 2 →
    ∃ t : State, exec (.resetRelease strap flash time) s = .next t ∧ t.node.reg Reg.PCR_STRAP = word (strap % 4) ∧
      t.node.reg Reg.MEM_FLASH_ID = word (flash.jedec % 2 ^ 24) ∧ t.node.bits Reg.PCR_PLL_STAT 0 6 = 63 ∧ t.otp = s.otp ∧
      t.node.reg Reg.IMG_OTP_ARC = word s.otp.arc ∧
      (strap % 4 = 2 → t.node.waiting = true ∧
        (∀ c, c = 0 ∨ c = 4 → t.node.ctxPresent c = true ∧ t.node.ctxSecure c = true ∧
          t.node.fld (Reg.HST_CTX_CFG c) Fld.HST_CTX_CFG_RINGS = 1 ∧ t.node.reg (Reg.JRN_CTX_SIZE c) = 256#32))) ∧
  (∀ (s : State) (fail first time : Nat), s.node.boot.phase ≠ 0 → s.node.boot.bist ≠ 0 → Nat.land fail s.node.boot.bist = 0 →
    exec (.bistRunComplete fail first time) s = .next (s.on fun n =>
      let k := ((((((n.at time).setReg Reg.TST_BIST_DONE (word n.boot.bist)).setReg Reg.TST_BIST_FAIL 0#32).setReg
        Reg.TST_BIST_FIRST 0#32).setReg Reg.TST_BIST_REQ 0#32).setBit Reg.TST_STAT 30 true)
      { k with boot := { k.boot with bist := 0 } }.raise 0x8801 n.boot.bist 0)) ∧
  (∀ (s : State) (fail first time : Nat), s.node.boot.phase ≠ 0 → Nat.land fail s.node.boot.bist ≠ 0 →
    ∃ t : State, exec (.bistRunComplete fail first time) s = .next t ∧ t.node.waiting = true ∧
      t.node.reg Reg.TST_BIST_FAIL = word (Nat.land fail s.node.boot.bist) ∧ t.node.reg Reg.TST_BIST_FIRST = word first) ∧
  (∀ (s : State) (a b rate : Nat) (eyes : List Word) (time : Nat), s.node.boot.phase ≠ 0 →
    s.node.fld Reg.MEM_STAT Fld.MEM_STAT_STATE < 2 →
    exec (.dramTrainingDone [a, b] rate 0 eyes time) s = .next (s.on fun n =>
      (((n.at time).setReg Reg.MEM_SIZE (word (min (a + b) 8192 + min (a + b) 8192 * 7 / 8 * 65536))).setRegs (Reg.MEM_TRAIN 0)
        (eyes.take 8)).setReg Reg.MEM_STAT (word (2 + rate % 4 * 4 + 16 + 32)))) ∧
  (∀ (s : State) (sizes : List Nat) (rate : Nat) (eyes : List Word) (time : Nat), s.node.boot.phase ≠ 0 →
    s.node.fld Reg.MEM_STAT Fld.MEM_STAT_STATE < 2 →
    ∃ t : State, exec (.dramTrainingDone sizes rate 3 eyes time) s = .next t ∧ t.node.waiting = true ∧
      t.node.fld Reg.MEM_STAT Fld.MEM_STAT_STATE = 3)

/-- R117: of two sound slots that have not been tried, neither marked bad, the one with the higher version is loaded; of two
equal ones slot A, or slot B when the strap says so. Its load is counted as an attempt (R120). R118, R788: a section whose
CRC holds lets the load go on to its next check point; one whose CRC fails marks its slot bad with reason 6 and reports
IMAGE_SLOT_INVALID. R122 and R120: the image that has passed every check is applied and the node enters LINK; after 60 s
without a reset the boot-attempt counts of both slots are zero. -/
def Obligations.ImagesAreChosenCheckedAndRun : Prop :=
  (∀ (s : State) (flash : FlashFacts) (strap time : Nat), s.node.boot.phase = 0 → s.node.boot.sleep = 0 →
    s.node.fld Reg.PCR_RESET_CAUSE Fld.PCR_RESET_CAUSE_KIND ≤ 2 → s.node.boot.bistBad = false → strap % 4 ≠ 2 →
    flash.sfdp = true → flash.busA = none → flash.busB = none → s.node.boot.pref = 0 → s.node.boot.tried = [] →
    s.node.boot.reasons = [0, 0] → s.node.boot.attempts = [0, 0] →
    headFault (s.node.slotReader 0) = 0 → headFault (s.node.slotReader 1) = 0 →
    s.node.slotBad 0 = false → s.node.slotBad 1 = false →
    ∃ t : State, exec (.resetRelease strap flash time) s = .next t ∧ t.node.boot.phase = 1 ∧ t.node.boot.point = 0 ∧
      t.node.boot.slot =
        (if (imgHead (s.node.slotReader 0)).ver < (imgHead (s.node.slotReader 1)).ver then 1
         else if (imgHead (s.node.slotReader 1)).ver < (imgHead (s.node.slotReader 0)).ver then 0
         else if strap % 4 = 1 then 1 else 0) ∧
      t.node.boot.attempts.getD t.node.boot.slot 0 = 1 ∧ t.node.mem.flash = s.node.mem.flash) ∧
  (∀ (s : State) (facts : ImageFacts) (time : Nat) (x : ImgSection), s.node.boot.phase = 1 → s.node.boot.bist = 0 →
    s.node.boot.engDown.contains 0 = false →
    s.node.fld Reg.MEM_STAT Fld.MEM_STAT_STATE = 2 → s.node.boot.slot < 2 →
      s.node.boot.tried.contains s.node.boot.slot = true →
    (imgDir (s.node.slotReader s.node.boot.slot) (imgHead (s.node.slotReader s.node.boot.slot)).count)[s.node.boot.point]? = some x →
    (crcOk (s.node.slotReader s.node.boot.slot) x = true →
      exec (.imageCheckPoint facts [] none time) s = .next (s.on fun n =>
        let k := (n.at time).chkImage (sectionBytes (n.slotReader n.boot.slot) x) x.crc
        { k with boot := { k.boot with point := n.boot.point + 1 } })) ∧
    (crcOk (s.node.slotReader s.node.boot.slot) x = false → s.node.ev.queue.length < 200 → s.node.boot.reasons.length = 2 →
      ∃ t : State, exec (.imageCheckPoint facts [] none time) s = .next t ∧
        t.node.fld (Reg.IMG_SLOT_STAT s.node.boot.slot) Fld.IMG_SLOT_STAT_BAD = 1 ∧
        t.node.fld (Reg.IMG_SLOT_STAT s.node.boot.slot) Fld.IMG_SLOT_STAT_REASON = 6 ∧
        t.node.slotBad s.node.boot.slot = true ∧
        (∃ e ∈ t.node.ev.queue, e.code = 0x1201 ∧ e.d0 = word s.node.boot.slot ∧ e.d1 = 6#32))) ∧
  (∀ (s : State) (time : Nat) (f : ImageFacts), s.node.boot.phase = 2 → s.node.boot.facts = some f → s.node.boot.slot < 2 →
    s.node.boot.engDown.contains 0 = false →
    ∃ t : State, exec (.imageBooted time) s = .next t ∧ t.node.st = stLink ∧ t.node.boot.phase = 3 ∧
      t.node.fld Reg.IMG_STATE Fld.IMG_STATE_STATE = 2 ∧ t.node.fld Reg.IMG_STATE Fld.IMG_STATE_SLOT = s.node.boot.slot) ∧
  (∀ (s : State) (time : Nat), s.node.boot.phase = 3 → s.node.boot.released + 60000000000 ≤ time →
    s.node.boot.attempts.length = 2 →
    ∃ t : State, exec (.bootAttemptClear time) s = .next t ∧ t.node.boot.attempts = [0, 0] ∧
      (∀ k, k < 2 → t.node.fld (Reg.IMG_SLOT_STAT k) Fld.IMG_SLOT_STAT_ATTEMPTS = 0) ∧
      t.node = { s.node.at time with regs := t.node.regs, boot := { s.node.boot with attempts := [0, 0] } })

/-- R123, R125 to R127, R133 to R135, R139: the image commands that the node takes with working DRAM: status, erase, write,
verify, mark bad, stage, discard, commit and restart; a slot number above 1 is refused. R116, R123, R125, R126, R133: what
ends a job: an erased slot reads as all ones and is no longer marked bad, programming ANDs the old bytes with the new, a
verification shows its result in `IMG_SLOT_STAT` and completes with the reason, and a tint that passes its checks is staged.
-/
def Obligations.ImageCommandsAndJobsAct : Prop :=
  (∀ (s : State) (c : Cmd), (s.node.takes c 0x0D01 (.secure instImg) 0 = true → exec (.imgStatus c) s = .next (s.on fun n =>
      (n.at c.time).completes c sOk [n.reg Reg.IMG_STATE, n.reg Reg.IMG_TINT_STAT])) ∧
    (s.node.takes c 0x0D02 (.secure instImg) 1 = true → s.node.dramFailed = false →
      arg c 0 ≤ 1 → s.node.slotLocked s.otp (arg c 0) = false →
      exec (.imgSlotErase c) s = .next (s.on fun n =>
        ((jobOf (n.at c.time) c 0 (arg c 0) 0 []).setBit Reg.MEM_FLASH_STAT 16 true).waitsFor c waitFlash c.entry.seq [])) ∧
    (s.node.takes c 0x0D03 (.secure instImg) 6 = true → s.node.dramFailed = false →
      ∀ bs, arg c 0 ≤ 1 → arg c 1 + arg c 2 ≤ 0x01FF0000 →
      s.node.imageSource c (arg c 3) (arg c 4) (arg c 5) (arg c 2) = some bs → s.node.slotLocked s.otp (arg c 0) = false →
      exec (.imgSlotWrite c) s = .next (s.on fun n =>
        ((jobOf (n.at c.time) c 1 (arg c 0) (arg c 1) bs).setBit Reg.MEM_FLASH_STAT 16 true).waitsFor c waitFlash c.entry.seq [])) ∧
    (s.node.takes c 0x0D04 (.secure instImg) 1 = true → s.node.dramFailed = false →
      arg c 0 ≤ 1 → exec (.imgSlotVerify c) s = .next (s.on fun n =>
      ((jobOf (n.at c.time) c 2 (arg c 0) 0 []).setBit Reg.MEM_FLASH_STAT 16 true).waitsFor c waitFlash c.entry.seq [])) ∧
    (s.node.takes c 0x0D05 (.secure instImg) 1 = true → s.node.dramFailed = false →
      arg c 0 ≤ 1 →
      ¬ (s.node.fld Reg.IMG_STATE Fld.IMG_STATE_STATE = 2 ∧ s.node.fld Reg.IMG_STATE Fld.IMG_STATE_SLOT = arg c 0) →
      exec (.imgSlotMarkBad c) s = .next (s.on fun n =>
        (((n.at c.time).markBad (arg c 0) 0x21).raise 0x1109 (arg c 0) 0x21).completes c sOk [])) ∧
    (1 < arg c 0 →
      (s.node.takes c 0x0D02 (.secure instImg) 1 = true →
        exec (.imgSlotErase c) s = .next (s.on fun n => (n.at c.time).completes c sArgs [])) ∧
      (s.node.takes c 0x0D04 (.secure instImg) 1 = true →
        exec (.imgSlotVerify c) s = .next (s.on fun n => (n.at c.time).completes c sArgs [])) ∧
      (s.node.takes c 0x0D05 (.secure instImg) 1 = true →
        exec (.imgSlotMarkBad c) s = .next (s.on fun n => (n.at c.time).completes c sArgs []))) ∧
    (s.node.takes c 0x0D06 (.secure instImg) 4 = true → s.node.dramFailed = false →
      ∀ bs, s.node.imageSource c (arg c 0) (arg c 2) (arg c 3) (arg c 1) = some bs →
      s.node.fld Reg.IMG_TINT_STAT Fld.IMG_TINT_STAT_STATE ≠ 2 →
      exec (.imgTintStage c) s = .next (s.on fun n =>
        (jobOf (n.at c.time) c 3 0 0 bs).waitsFor c waitFlash c.entry.seq [])) ∧
    (s.node.takes c 0x0D08 (.secure instImg) 0 = true → s.node.dramFailed = false →
      s.node.fld Reg.IMG_TINT_STAT Fld.IMG_TINT_STAT_STATE ≠ 2 →
      exec (.imgTintDiscard c) s = .next (s.on fun n =>
        ({ n.at c.time with boot := { n.boot with tint := none } }.tintIdle).completes c sOk [])) ∧
    (s.node.takes c 0x0D07 (.secure instImg) 2 = true → s.node.dramFailed = false →
      arg c 1 ≤ 7 → (s.node.tintModes = true → arg c 1 ≤ 3) → s.node.tintStaged = true →
        s.node.reg Reg.IMG_TINT_TAG = argW c 0 →
      s.node.fld Reg.IMG_TINT_STAT Fld.IMG_TINT_STAT_STATE ≠ 2 → s.node.st = stRun →
      exec (.imgTintCommit c) s = .next (s.on fun n => Node.settle c ((n.at c.time).askSwitch (arg c 1) 0 (arg c 0)))) ∧
    (s.node.takes c 0x0D0A (.secure instImg) 1 = true → s.node.dramFailed = false →
      arg c 0 ≤ 2 → exec (.imgRestart c) s = .next (s.on fun n =>
      ({ n.at c.time with boot := { n.boot with pref := arg c 0 } }.warmIn 1000000 1).completes c sOk [])) ∧
    (s.node.takes c 0x0D07 (.secure instImg) 2 = true → s.node.dramFailed = false → arg c 1 ≤ 7 →
      (s.node.tintModes = true → arg c 1 ≤ 3) → s.node.fld Reg.IMG_TINT_STAT Fld.IMG_TINT_STAT_STATE ≠ 2 →
      (s.node.tintStaged = false ∨ s.node.reg Reg.IMG_TINT_TAG ≠ argW c 0) →
      exec (.imgTintCommit c) s = .next (s.on fun n => (n.at c.time).completes c sState []))) ∧
  (∀ (s : State) (time : Nat) (j : FlashJob) (js : List FlashJob), s.node.boot.jobs = j :: js →
    (j.kind = 0 → ∃ t : State, exec (.flashOperationDone false time) s = .next t ∧ t.node.boot.jobs = js ∧
      (∀ a, t.node.flashByte a =
        if j.slot * 0x02000000 ≤ a ∧ a < (j.slot + 1) * 0x02000000 then 0xFF#8 else s.node.flashByte a)) ∧
    (j.kind = 1 → ∃ t : State, exec (.flashOperationDone false time) s = .next t ∧ t.node.boot.jobs = js ∧
      (∀ a, t.node.flashByte a =
        if j.slot * 0x02000000 + j.off ≤ a ∧ a < j.slot * 0x02000000 + j.off + j.data.length
        then j.data.getD (a - (j.slot * 0x02000000 + j.off)) 0xFF#8 &&& s.node.flashByte a else s.node.flashByte a)) ∧
    (∀ facts, j.kind = 2 → j.slot < 2 → ∃ t : State, exec (.imageVerifyDone facts none time) s = .next t ∧
      t.node.boot.jobs = js ∧
      (t.node.fld (Reg.IMG_SLOT_STAT j.slot) Fld.IMG_SLOT_STAT_VALID = 1 ↔
        s.node.verifyFault s.otp facts (s.node.slotReader j.slot) = 0) ∧ t.node.mem.flash = s.node.mem.flash) ∧
    (∀ facts, j.kind = 3 → s.node.tintFault s.otp facts (bytesReader j.data) = 0 →
      s.node.fld Reg.IMG_TINT_STAT Fld.IMG_TINT_STAT_STATE ≠ 2 →
      ∃ t : State, exec (.imageVerifyDone facts none time) s = .next t ∧ t.node.boot.jobs = js ∧
        t.node.boot.tint = some (tintOf (bytesReader j.data)) ∧
        t.node.fld Reg.IMG_TINT_STAT Fld.IMG_TINT_STAT_STATE = 1 ∧
        t.node.reg Reg.IMG_TINT_TAG = word (imgHead (bytesReader j.data)).tag))

/-- R114: a key of the OTP is revoked only when the running image was signed under the other key index and that other index
is fused and not revoked; otherwise the command completes with REJECT_STATE (0x04) and no fuse blows. The anti-rollback
count takes an argument above it that the running image's count allows (R113). -/
def Obligations.FuseCommandsBlow : Prop :=
  ∀ (s : State) (c : Cmd), s.node.dramFailed = false →
    (s.node.takes c 0x0D09 (.secure instImg) 1 = true → s.otp.arc < arg c 0 → arg c 0 ≤ 64 →
      arg c 0 ≤ (s.node.reg Reg.IMG_RUN_ARC).toNat →
      ∃ t : State, exec (.imgRollbackAdvance c) s = .next t ∧ t.otp = { s.otp with arc := arg c 0 } ∧
        t.node.reg Reg.IMG_OTP_ARC = argW c 0 ∧ t.pending = s.pending) ∧
    (∀ k, s.node.takes c 0x0D0B (.secure instImg) 1 = true → arg c 0 = k → k ≤ 1 →
      (s.node.fld Reg.IMG_STATE Fld.IMG_STATE_STATE = 2 → s.node.bits Reg.IMG_KEY_STAT 4 1 ≠ k →
        s.otp.keyFused (1 - k) = true → s.otp.keyRevoked (1 - k) = false →
        ∃ t : State, exec (.imgKeyRevoke c) s = .next t ∧ t.otp.keyRevoked k = true ∧ t.otp.keyRevoked (1 - k) = false ∧
          t.otp.arc = s.otp.arc ∧ t.node.bit Reg.IMG_KEY_STAT (2 + k) = true) ∧
      ((s.node.fld Reg.IMG_STATE Fld.IMG_STATE_STATE ≠ 2 ∨ s.node.bits Reg.IMG_KEY_STAT 4 1 = k ∨
          s.otp.keyFused (1 - k) = false ∨ s.otp.keyRevoked (1 - k) = true) →
        exec (.imgKeyRevoke c) s = .next { s with node := ((s.node.showOtp s.otp).at c.time).completes c sState [] }))

/-- R158 and R161: a frame that fails one of the receive checks is counted under the first that it fails, and under no
other; it has no further effect, whatever the row. A frame cut short, one with a bad FCS, a stomped one, one of another
epoch. -/
def Obligations.FramesThatFailACheckAreCountedUnderIt : Prop :=
  ∀ (i : Instr) (s : State) (r : Rx) (e : RxFail), rxOf i = some r → (s.node.meets r).rxFail r = some e →
    (i ≠ .openFrameReceived r ∨ s.node.boot.sleep = 0) →
    exec i s = .next (s.on fun n => (n.meets r).rxCount r e) ∧
    (e = .length → r.port < 12 → exec i s = .next (s.on fun n => (n.meets r).inc (Reg.SPN_RX_LEN_ERR r.port))) ∧
    (e = .fcs → r.port < 12 → exec i s = .next (s.on fun n => (n.meets r).inc (Reg.SPN_RX_FCS_ERR r.port))) ∧
    (e = .stomped → r.port < 12 → exec i s = .next (s.on fun n => (n.meets r).inc (Reg.SPN_RX_STOMP r.port))) ∧
    (e = .epoch → r.port < 12 → exec i s = .next (s.on fun n => (n.meets r).inc (Reg.SPN_RX_EPOCH_DROP r.port))) ∧
    (e = .fcs → r.port = 12 → exec i s = .next (s.on fun n => (n.meets r).inc Reg.JLK_RX_FCS_ERR))

/-- R141, R145 and R146: a usable port whose lock has stood comes up at a rate of its type, unprotected until a frame
passes; one that loses lock goes down and shows no rate. The links of the other ports stand when one comes up. R175, R181
and R272: a protected link whose ends differ, or on which no frame has passed 10 ms after its link-up, is blocked until its
next link-up, and a member link that ends so is noticed; a verification of preemption goes on for three attempts, fails
after them and succeeds with a response. R186 and R190: `ADMIN_DOWN` holds the link of a used port down and its clearing
lets go; `WAKE_SEND`, and the timer of LINK, make a port send 100 wake frames, of which each is counted; after the last the
port returns to its type. R144 and R195: `GO` starts an MDIO frame when the master is idle and is ignored when it is busy;
the end of a read shows its data and `DONE`, and the writes of a script follow the software's frame. -/
def Obligations.LinksPortsAndMdioAct : Prop :=
  (∀ (s : State) (p rate time : Nat), p < 12 → rate < 8 → s.node.portUsable p = true → s.node.linkUp p = false →
    s.node.looped p = false → s.node.bit Reg.TST_STAT (17 + p) = false → (s.node.port p).wakeLeft = 0 →
    rateOk (s.node.fld (Reg.SPN_IFTYPE p) Fld.SPN_IFTYPE_TYPE) rate = true →
    ∃ t : State, exec (.linkUp p rate time) s = .next t ∧ t.node.linkUp p = true ∧
      t.node.fld (Reg.SPN_STAT p) Fld.SPN_STAT_RATE = rate ∧ t.node.fld (Reg.SPN_STAT p) Fld.SPN_STAT_MACSEC = 0 ∧
      t.node.reg (Reg.SPN_PREEMPT_STAT p) =
        (if s.node.fld (Reg.SPN_IFTYPE p) Fld.SPN_IFTYPE_PREEMPT = 1 ∧ 1 ≤ rate ∧ rate ≤ 4 then 18#32 else 0#32) ∧
      (∀ q, q < 12 → q ≠ p → t.node.reg (Reg.SPN_STAT q) = s.node.reg (Reg.SPN_STAT q)) ∧ t.node.st = s.node.st ∧
      t.node.net.sent = s.node.net.sent) ∧
  (∀ (s : State) (rate time : Nat), s.node.portUsable 12 = true → s.node.linkUp 12 = false → s.node.looped 12 = false →
    s.node.bit Reg.TST_STAT 29 = false → (s.node.port 12).wakeLeft = 0 →
    ∃ t : State, exec (.linkUp 12 rate time) s = .next t ∧ t.node.linkUp 12 = true ∧ t.node.st = s.node.st ∧
      t.node.net.sent = s.node.net.sent) ∧
  (∀ (s : State) (p time : Nat) (cut : List (Nat × Frame)), p < 12 → s.node.linkUp p = true →
    ∃ t : State, exec (.linkDown p cut time) s = .next t ∧ t.node.linkUp p = false ∧
      t.node.fld (Reg.SPN_STAT p) Fld.SPN_STAT_RATE = 0 ∧ t.node.fld (Reg.SPN_STAT p) Fld.SPN_STAT_MACSEC = 0) ∧
  (∀ (s : State) (time : Nat), s.node.linkUp 12 = true →
    ∃ t : State, exec (.linkDown 12 [] time) s = .next t ∧ t.node.linkUp 12 = false) ∧
  (∀ (s : State) (p : Nat) (rate time : Nat), s.node.looped p = true ∨ s.node.portUsable p = false →
    exec (.linkUp p rate time) s = .next (s.on fun n => n.at time)) ∧
  (∀ (s : State) (p cause time : Nat), s.node.secOn p = true → s.node.linkUp p = true →
    (s.node.port p).secBlocked = false →
    (cause ≠ 3 ∨ (s.node.fld (Reg.SPN_STAT p) Fld.SPN_STAT_MACSEC = 0 ∧ (s.node.port p).linkAt + 10000000 ≤ time)) →
    exec (.macsecMismatch p cause time) s = .next (s.on fun n =>
      let m := (((n.at time).setFld (Reg.SPN_STAT p) Fld.SPN_STAT_MACSEC 0).onPort p fun q => { q with secBlocked := true }).raise
        0x1A03 p cause
      if (n.at time).member p then (m.notice 2 p).checkAllDown else m)) ∧
  (∀ (s : State) (p cause time : Nat), (s.node.port p).secBlocked = true →
    exec (.macsecMismatch p cause time) s = .next (s.on fun n => n.at time)) ∧
  (∀ (s : State) (p time : Nat), s.node.bits (Reg.SPN_PREEMPT_STAT p) 0 3 = 2 →
    s.node.bits (Reg.SPN_PREEMPT_STAT p) 4 2 < 3 →
    exec (.preemptVerifyAttempt p time) s = .next (s.on fun n =>
      (n.at time).setBits (Reg.SPN_PREEMPT_STAT p) 4 2 (n.bits (Reg.SPN_PREEMPT_STAT p) 4 2 + 1))) ∧
  (∀ (s : State) (p time : Nat), s.node.bits (Reg.SPN_PREEMPT_STAT p) 0 3 = 2 →
    s.node.bits (Reg.SPN_PREEMPT_STAT p) 4 2 = 3 →
    exec (.preemptVerifyAttempt p time) s = .next (s.on fun n =>
      ((n.at time).setBits (Reg.SPN_PREEMPT_STAT p) 0 3 4).raisePort2 0x1909 p p 0)) ∧
  (∀ (s : State) (p time : Nat), s.node.bits (Reg.SPN_PREEMPT_STAT p) 0 3 = 2 →
    exec (.preemptVerifyFrameReceived p true time) s = .next (s.on fun n =>
      ((n.at time).setBits (Reg.SPN_PREEMPT_STAT p) 0 3 3).setFld (Reg.SPN_STAT p) Fld.SPN_STAT_PREEMPT 1)) ∧
  (∀ (s : State) (ctx p : Nat) (v : Word), p < 12 → s.node.admits ctx (Reg.SPN_CTRL p) true = true →
    s.node.fld (Reg.SPN_IFTYPE p) Fld.SPN_IFTYPE_TYPE ≠ 0 → v.toNat < 2 →
    ∃ t : State, exec (.adminDownWrite ctx p v) s = .next t ∧
      t.node.fld (Reg.SPN_CTRL p) Fld.SPN_CTRL_ADMIN_DOWN = v.toNat ∧
      t.node.fld (Reg.SPN_STAT p) Fld.SPN_STAT_HELD = v.toNat ∧ (v.toNat = 1 → t.node.linkUp p = false) ∧
      (v.toNat = 0 → t.node.linkUp p = s.node.linkUp p ∧ t.node.net = s.node.net)) ∧
  (∀ (s : State) (ctx p : Nat), p = 0 ∨ p = 2 → s.node.admits ctx (Reg.SPN_CTRL p) true = true →
    s.node.fld (Reg.SPN_IFTYPE p) Fld.SPN_IFTYPE_TYPE ≠ 0 → s.node.bit Reg.PCR_PLL_STAT (6 + p) = true →
    s.node.looped p = false → s.node.bit Reg.TST_STAT (17 + p) = false → (s.node.port p).wakeLeft = 0 →
      s.node.net.ports.length = 13 →
    ∃ t : State, exec (.wakeSendWrite ctx p 2#32) s = .next t ∧ (t.node.port p).wakeLeft = 100 ∧ t.node.linkUp p = false ∧
      t.node.fld (Reg.SPN_CTRL p) Fld.SPN_CTRL_WAKE_SEND = 1 ∧ t.node.fld (Reg.SPN_STAT p) Fld.SPN_STAT_LISTEN = 1) ∧
  (∀ (s : State) (time : Nat), s.node.st = stLink → s.node.net.wakeAutoDone = false → s.node.net.ports.length = 13 →
    s.node.ina.entered + 100000000 ≤ time →
    (∀ p, p = 0 ∨ p = 2 → s.node.linkUp p = false ∧ s.node.portUsable p = true ∧ (s.node.port p).wakeLeft = 0 ∧
      s.node.looped p = false ∧ s.node.bit Reg.TST_STAT (17 + p) = false) →
    ∃ t : State, exec (.wakeSendAuto time) s = .next t ∧ t.node.net.wakeAutoDone = true ∧
      (t.node.port 0).wakeLeft = 100 ∧ (t.node.port 2).wakeLeft = 100) ∧
  (∀ (s : State) (p time : Nat), p = 0 ∨ p = 2 → 0 < (s.node.port p).wakeLeft → s.node.net.ports.length = 13 →
    (s.node.port p).wakeAt ≤ time →
    ∃ t : State, exec (.wakeFrameSend p time) s = .next t ∧
      t.node.net.sent = s.node.net.sent ++ [Sent.mk p
        ⟨addrWake, s.node.identity, none, (s.node.reg Reg.SPN_ETYPE).toNat, encBE 4 (s.node.reg Reg.SPN_WAKE_CODE).toNat ++
          zeros 42⟩
        (max s.node.tm.raw time) false 0 []] ∧
      (t.node.port p).wakeLeft = (s.node.port p).wakeLeft - 1 ∧
      ((s.node.port p).wakeLeft = 1 → t.node.fld (Reg.SPN_CTRL p) Fld.SPN_CTRL_WAKE_SEND = 0 ∧
        t.node.fld (Reg.SPN_STAT p) Fld.SPN_STAT_LISTEN = 0)) ∧
  (∀ (s : State) (ctx m : Nat) (v : Word), s.node.admits ctx (Reg.SPN_MDIO_CMD m) true = true → v.toNat.testBit 0 = true →
    (s.node.bit (Reg.SPN_MDIO_STAT m) 0 = true → exec (.mdioGoWrite ctx m v) s = .next (s.on fun n => n.answer 0#32)) ∧
    (s.node.bit (Reg.SPN_MDIO_STAT m) 0 = false → exec (.mdioGoWrite ctx m v) s = .next (s.on fun n =>
      let k := (((n.answer 0#32).setReg (Reg.SPN_MDIO_CMD m) (v &&& 0x001F1F0E#32)).setBit (Reg.SPN_MDIO_STAT m) 0 true).setBit
        (Reg.SPN_MDIO_STAT m) 1 false
      { k with net := { k.net with mdioSoft := k.net.mdioSoft ++ [m] } }))) ∧
  (∀ (s : State) (m data time : Nat), s.node.net.mdioSoft = [m] → s.node.net.script = [] →
    s.node.fld (Reg.SPN_MDIO_CMD m) Fld.SPN_MDIO_CMD_OP = 1 →
    exec (.mdioFrameDone m data time) s = .next (s.on fun n =>
      let k := { n.at time with net := { n.net with mdioSoft := [] } }.setReg (Reg.SPN_MDIO_DATA m) (word (data % 65536))
      ((k.setBit (Reg.SPN_MDIO_STAT m) 1 true).setBit (Reg.SPN_MDIO_STAT m) 0 false).setBit (Reg.SPN_MDIO_STAT m) 2 false)) ∧
  (∀ (s : State) (m data time : Nat) (w : MdioWrite), s.node.net.mdioSoft = [] → s.node.net.script = [w] → w.master = m →
    exec (.mdioFrameDone m data time) s = .next (s.on fun n =>
      ({ n.at time with net := { n.net with script := [] } }.setBit (Reg.SPN_MDIO_STAT m) 0 false).setBit
        (Reg.SPN_MDIO_STAT m) 2 false))

/-- R160, R162 to R165 and R183: a write of a word of a filter rule keeps its reserved bits zero and `SPN_FLT_USED` right;
an open frame that no rule matches is dropped and counted in the class of its priority, one whose rule discards it counts a
hit, and one whose rule forwards it leaves on the rule's ports where the open pool has room for it; a MAC control frame is
discarded, counted and reported once for each link-up. -/
def Obligations.OpenTrafficIsFiltered : Prop :=
  (∀ (s : State) (ctx r : Nat) (v : Word), r < 8192 → s.node.admits ctx (Reg.SPN_FLT r) true = true →
    exec (.filterRuleWrite ctx r 0 v) s = .next (s.on fun n =>
      (((n.answer 0#32).setReg (Reg.SPN_FLT r) (v &&& 0x3F#32)).injSram 4 (r * 4) 1).setReg Reg.SPN_FLT_USED
        (word ((n.reg Reg.SPN_FLT_USED).toNat + v.toNat % 2 - (n.reg (Reg.SPN_FLT r)).toNat % 2)))) ∧
  (∀ (s : State) (r : Rx), (s.node.meets r).rxFail r = none → (s.node.heard r).isSpine r.frame = false →
    (s.node.heard r).crossed r.port = false → (s.node.heard r).echoing r.port = false → r.frame.etype ≠ 0x8808 →
    s.node.boot.sleep = 0 →
    ((∀ k ∈ (s.node.heard r).validRules, (s.node.heard r).ruleMatches k r.port r.frame = false) →
      exec (.openFrameReceived r) s = .next (s.on fun n => (n.heard r).clsDrop r.port (pcpClass r.frame))) ∧
    (∀ k, ((s.node.heard r).validRules.find? fun k => (s.node.heard r).ruleMatches k r.port r.frame) = some k →
      ((s.node.heard r).reg (Reg.SPN_FLT k)).toNat.testBit 1 = true →
      exec (.openFrameReceived r) s = .next (s.on fun n => (n.heard r).inc (Reg.SPN_FLT k + 28))) ∧
    (∀ k, ((s.node.heard r).validRules.find? fun k => (s.node.heard r).ruleMatches k r.port r.frame) = some k →
      ((s.node.heard r).reg (Reg.SPN_FLT k)).toNat.testBit 1 = false → stListen ≤ s.node.st → frameCells r.frame ≤ r.room →
      exec (.openFrameReceived r) s = .next (s.on fun n =>
        let w0 := ((n.heard r).reg (Reg.SPN_FLT k)).toNat
        let cls := if w0.testBit 3 then bitsOf w0 4 2 else pcpClass r.frame
        (((List.range 15).filter fun p => (((n.heard r).rule k 1).testBit (16 + p) || (p == localPort && w0.testBit 2)) &&
          p != r.port).foldl (fun g p =>
            if p = 13 then g.toHosts r.port r.frame r.stamp
            else if p = localPort ∨ g.looped p then g.putOut p r.frame
            else g.sendFrom r.port p cls r.frame)
          ((((n.heard r).inc (Reg.SPN_FLT k + 28)).openAdmit r.port cls r.room (frameCells r.frame)).1)))) ∧
    (∀ k, ((s.node.heard r).validRules.find? fun k => (s.node.heard r).ruleMatches k r.port r.frame) = some k →
      ((s.node.heard r).reg (Reg.SPN_FLT k)).toNat.testBit 1 = false → r.room < frameCells r.frame →
      exec (.openFrameReceived r) s = .next (s.on fun n =>
        let w0 := ((n.heard r).reg (Reg.SPN_FLT k)).toNat
        (((n.heard r).inc (Reg.SPN_FLT k + 28)).openAdmit r.port (if w0.testBit 3 then bitsOf w0 4 2 else pcpClass r.frame)
          r.room (frameCells r.frame)).1))) ∧
  (∀ (s : State) (r : Rx), (s.node.meets r).rxFail r = none → r.port < 12 →
    r.frame.etype = 0x8808 → exec (.macControlFrameReceived r) s = .next (s.on fun n =>
      let g := (n.heard r).inc (Reg.SPN_PAUSE_DROP r.port)
      if (g.port r.port).pauseSeen then g
      else (g.onPort r.port fun q => { q with pauseSeen := true }).raisePort2 0x1808 r.port r.port 0))

/-- R209, R210 and R266: at a node that follows a master the first REF of a cycle from it is sent on and becomes the
cycle's, a later copy is only sent on, a foreign one is counted, and one that the node sent itself goes no further. R199,
R210, R241, R287 and R323: at a boundary the number of the new cycle is shown, and a switch whose cycle has come takes
effect at a node that holds its mode; a cycle without a REF is counted; 24 of them leave the node orphaned in LISTEN, where
it keeps its place. -/
def Obligations.ReferencesAndCyclesAreKept : Prop :=
  (∀ (s : State) (r : Rx), s.node.hears r 0x0 = true →
    ((s.node.heard r).refTake (decodeHdr r.frame.body) (decodeRef (payloadOf r.frame.body)) = .own →
      (s.node.heard r).cyc.lastRef ≠ some (decodeRef (payloadOf r.frame.body)).cyc →
      ∃ t : State, exec (.refReceived r) s = .next t ∧
        t.node.cyc.lastRef = some (decodeRef (payloadOf r.frame.body)).cyc ∧ t.node.cyc.missed = 0 ∧
        t.node.cyc.refPort = r.port ∧ t.node.cyc.refMode = (decodeRef (payloadOf r.frame.body)).mode ∧
        (if (s.node.heard r).rxLine r (decodeHdr r.frame.body) then t.node.cyc.seenB else t.node.cyc.seenA) = true) ∧
    ((s.node.heard r).refTake (decodeHdr r.frame.body) (decodeRef (payloadOf r.frame.body)) = .own →
      (s.node.heard r).cyc.lastRef = some (decodeRef (payloadOf r.frame.body)).cyc →
      exec (.refReceived r) s = .next (s.on fun n =>
        ((n.heard r).sawLine r (decodeHdr r.frame.body) ((n.heard r).rxLine r (decodeHdr r.frame.body))).forwardCorrected r
          ((n.heard r).rxLine r (decodeHdr r.frame.body)))) ∧
    ((s.node.heard r).refTake (decodeHdr r.frame.body) (decodeRef (payloadOf r.frame.body)) = .foreign →
      exec (.refReceived r) s = .next (s.on fun n => ((n.heard r).inc Reg.INA_FOREIGN_DROP).notice 3 r.port)) ∧
    ((decodeRef (payloadOf r.frame.body)).master = (s.node.heard r).identity →
      exec (.refReceived r) s = .next (s.on fun n => n.heard r))) ∧
  (∀ (s : State) (time : Nat), (s.node.at time).cycleNow ≠ s.node.cyc.cur →
    ∃ t : State, exec (.cycleBoundary time) s = .next t ∧
    t.node.cyc.cur = (s.node.at time).cycleNow ∧ t.node.reg Reg.CYC_NUM_LO = word (s.node.at time).cycleNow ∧
    t.node.reg Reg.CYC_NUM_HI = word ((s.node.at time).cycleNow / 2 ^ 32) ∧ t.node.cyc.seenA = false ∧
      t.node.cyc.seenB = false) ∧
  (∀ (s : State) (time : Nat), (s.node.at time).cycleNow = s.node.cyc.cur →
    exec (.cycleBoundary time) s = .next (s.on fun n => n.at time)) ∧
  (∀ (s : State) (time : Nat) (w : Switch), s.node.master = false → s.node.cyc.switch = some w → w.state ≠ 3 → w.tint = 0 →
    (s.node.at time).cycleNow ≠ s.node.cyc.cur → w.cyc ≤ (s.node.at time).cycleNow → w.target < 8 →
      s.node.holds w.target = true → s.node.cyc.adopt = none →
    s.node.ina.refCommit = none → s.node.ina.announced = none →
    ∃ t : State, exec (.cycleBoundary time) s = .next t ∧ t.node.fld Reg.CYC_STATE Fld.CYC_STATE_CUR = w.target ∧
      t.node.cyc.switch = none) ∧
  (∀ (s : State) (time : Nat), stIntegrate ≤ s.node.st → s.node.master = false →
    (s.node.at time).refHeard = false →
    ∃ t : State, exec (.refLost time) s = .next t ∧ t.node.cyc.missed = s.node.cyc.missed + 1 ∧
      t.node.fld Reg.CYC_STATE Fld.CYC_STATE_HOLDOVER = 1 ∧
      t.node.reg Reg.CYC_REF_MISS = word (min ((s.node.reg Reg.CYC_REF_MISS).toNat + 1) 0xFFFFFFFF)) ∧
  (∀ (s : State) (time : Nat), s.node.st = stRun ∨ s.node.st = stMute → 24 ≤ s.node.cyc.missed →
    ∃ t : State, exec (.orphaned time) s = .next t ∧ t.node.st = stListen ∧
      t.node.reg Reg.TOP_PLACE = s.node.reg Reg.TOP_PLACE) ∧
  (∀ (s : State) (time : Nat), s.node.st = stRun → s.node.master = false →
    s.node.fld Reg.INA_STATE Fld.INA_STATE_BACKUP < 16 →
    3 + s.node.fld Reg.INA_STATE Fld.INA_STATE_BACKUP ≤ s.node.cyc.missed → s.node.candidate = true →
    (s.node.at time).betterHeld = false →
    exec (.backupTakeoverClaim time) s = .next (s.on fun n =>
      { n.at time with ina := { n.ina with hold := true, claims := 0, claimFrom := max n.tm.raw time } }))

/-- R213, R216, R218 to R223: in RUN the frame of an originated slot leaves on its port, with the header of its stream and
cycle and the payload that its take instant fixed; the status stream notes whether polled data waits; the frame that waits
for a gate leaves with its correction; a frame still on the wire when the next slot's guard has ended is stomped and
counted; outside its instant none of them has an effect. R214, R219, R394 and R397: a SLOT frame that passes its checks is
sent on along its line and goes to the tracker of its stream; a status frame is kept once for each source and cycle; the
frame of a stream that registers another source is counted as a clash and goes no further; one that finds no room is dropped
and counted. -/
def Obligations.SlotsAndTheirFramesCross : Prop :=
  (∀ (s : State) (stream time p : Nat) (x : SlotEntry) (m : Node) (f : Frame), (s.node.at time).slotNow stream = some x →
    x.egress = 2 ^ p → p < 4 → s.node.st = stRun → (s.node.at time).atOffset x.start = true →
    s.node.fld Reg.TST_INJ_CTRL Fld.TST_INJ_CTRL_ARM = 0 →
    m = (if stream = 0 then (s.node.at time).reAnswer else s.node.at time) →
    f = m.spineFrame (addrLine (m.portB p))
      { m.slotHdr stream (if stream = 0 then { m.txOf 0 with age := 0, aged := false } else m.txOf stream) with
        lineB := m.portB p, ci := if m.paired && m.roleB then 2 else 0 }
      (if stream = 0 then m.statusPayload else (m.txOf stream).send) → m.mayLeave p f = true →
    ∃ t : State, exec (.originatedSlotSend stream time) s = .next t ∧
      t.node.net.sent = s.node.net.sent ++ [Sent.mk p f (max s.node.tm.raw time) false 0 (m.protect p f)]) ∧
  (∀ (s : State) (stream time : Nat),
    (s.node.st = stRun → ∀ x, (s.node.at time).slotNow stream = some x → (s.node.at time).atOffset x.start = false) →
    exec (.originatedSlotSend stream time) s = .next (s.on fun n => n.at time)) ∧
  (∀ (s : State) (time : Nat), (s.node.at time).takeNow 0 = true → exec (.takeInstant 0 time) s = .next (s.on fun n =>
    (n.at time).putTx { n.txOf 0 with pend := n.hasPolled })) ∧
  (∀ (s : State) (stream time : Nat), stream ≠ 0 → (s.node.strmLive stream).valid = true →
    s.node.ownStream (s.node.strmLive stream) = true → (s.node.strmLive stream).cls ≠ 1 →
      (s.node.at time).takeNow stream = true →
    exec (.takeInstant stream time) s = .next (s.on fun n => (n.at time).takeBuffer stream)) ∧
  (∀ (s : State) (stream time : Nat), (s.node.at time).takeNow stream = false →
    exec (.takeInstant stream time) s = .next (s.on fun n => n.at time)) ∧
  (∀ (s : State) (stream port time : Nat) (x : Transit),
    (s.node.net.transit.find? fun t => t.stream == stream && t.egress == port && (s.node.at time).gateOpen t) = some x →
    exec (.forwardGateOpen stream port time) s = .next (s.on fun n =>
      let k := { n.at time with net := { n.net with transit := n.net.transit.erase x } }
      k.sendFrom x.ingress port 6 (k.corrected x.ingress x.stamp (max n.tm.raw time) x.frame))) ∧
  (∀ (s : State) (stream port time : Nat) (x : Sent),
    (s.node.net.sent.reverse.find? fun x => x.port == port && !x.stomped && s.node.isSpine x.frame &&
      (decodeHdr x.frame.body).kind == 1 && (decodeHdr x.frame.body).sid == stream && (s.node.at time).overruns x) = some x →
    ∃ t : State, exec (.slotOverrun stream port time) s = .next t ∧
      t.node.reg Reg.CYC_OVERRUN = word (min ((s.node.reg Reg.CYC_OVERRUN).toNat + 1) 0xFFFFFFFF)) ∧
  (∀ (s : State) (time : Nat), exec (.closingGuardStart time) s = .next (s.on fun n => (n.at time).serveAll) ∧
    (s.node.net.queue = [] → exec (.closingGuardStart time) s = .next (s.on fun n => n.at time))) ∧
  (∀ (s : State) (r : Rx) (x : NumEntry), s.node.slotTakes r x = true →
    ((decodeHdr r.frame.body).sid ≠ 0 → exec (.slotFrameReceived r) s = .next (s.on fun n =>
      ((n.heard r).forwardSlot r (decodeHdr r.frame.body) ((n.heard r).rxLine r (decodeHdr r.frame.body))).slotDeliver
        (decodeHdr r.frame.body) x (payloadOf r.frame.body) ((n.heard r).rxLine r (decodeHdr r.frame.body)))) ∧
    ((decodeHdr r.frame.body).sid = 0 →
      (∀ y ∈ s.node.cyc.status, ¬ (y.node = (decodeHdr r.frame.body).src ∧ y.cycle = (decodeHdr r.frame.body).cycle)) →
      ∃ (t : State) (y : StatusRec), exec (.statusFrameReceived r) s = .next t ∧ y ∈ t.node.cyc.status ∧
        y.node = (decodeHdr r.frame.body).src ∧ y.cycle = (decodeHdr r.frame.body).cycle ∧
        y.mode = byteAt (payloadOf r.frame.body) 0 % 8 ∧ y.ackCycle = beAt (payloadOf r.frame.body) 4 4 ∧
        y.waiting = beAt (payloadOf r.frame.body) 12 2)) ∧
  (∀ (s : State) (r : Rx), ((s.node.meets r).rxFail r).isNone = true → (s.node.heard r).isSpine r.frame = true →
    (decodeHdr r.frame.body).kind = 1 → (decodeHdr r.frame.body).sid ≠ 0 → (s.node.heard r).crossed r.port = false →
    (r.port = 12 ∨ (s.node.heard r).joined r.port = true) →
    (r.room < frameCells r.frame → exec (.slotFrameReceived r) s = .next (s.on fun n =>
      (n.heard r).expressDrop r (decodeHdr r.frame.body))) ∧
    (frameCells r.frame ≤ r.room →
      (s.node.heard r).nodeIn (decodeHdr r.frame.body).epoch (decodeHdr r.frame.body).src = none →
      exec (.slotFrameReceived r) s = .next (s.on fun n =>
        ((n.heard r).inc Reg.PAR_CLASH).raiseLimited 0x1A05 (decodeHdr r.frame.body).sid (n.heard r).tc
          ((decodeHdr r.frame.body).sid + (decodeHdr r.frame.body).src * 65536) r.port)))

/-- R225 to R229: in RUN the master polls, in its order, the nodes that asked; the polled node answers once within its
budget, or with one longer message alone, and counts it; the master marks the poll answered and sends its own messages after
the last poll; a poll left without a reply is counted when the window ends. R235 to R237, R247 and R297: a request of a node
that is not the master leaves toward it in the polled window; the master accepts one for its next REF, or answers at once;
any other node passes it on toward the master or answers that it is not it; the answer, or 8 cycles without one, completes
the requester's command. -/
def Obligations.PollsAndModeRequestsAreAnswered : Prop :=
  (∀ (s : State) (time : Nat), s.node.master = true → s.node.st = stRun → (s.node.at time).inPolled = true →
    ∃ t : State, exec (.pollSend time) s = .next t ∧
      t.node.cyc.polls = s.node.pollOrder.zipIdx.map fun x => PollRec.mk x.1.num x.2 (s.node.pollBudget x.1.identity) false) ∧
  (∀ (s : State) (r : Rx), s.node.hears r 0x2 = true →
    (((s.node.heard r).nodeIn (decodeHdr r.frame.body).epoch (beAt (payloadOf r.frame.body) 0 2 % 4096)).any fun e =>
      e.identity == (s.node.heard r).identity) = true →
    s.node.cyc.pollSeen ≠ some ((decodeHdr r.frame.body).cycle, beAt (payloadOf r.frame.body) 4 2) →
    exec (.pollReceived r) s = .next (s.on fun n =>
      let lineB := (n.heard r).rxLine r (decodeHdr r.frame.body)
      let m := (n.heard r).forwardJoined r lineB
      { m with cyc := { m.cyc with
        pollSeen := some ((decodeHdr r.frame.body).cycle, beAt (payloadOf r.frame.body) 4 2) } }.answerPoll lineB
          (beAt (payloadOf r.frame.body) 2 2) (beAt (payloadOf r.frame.body) 4 2))) ∧
  (∀ (n : Node) (first : Bool) (budget index : Nat),
    (n.answerPoll first budget index).reg Reg.CYC_POLLED = word (min ((n.reg Reg.CYC_POLLED).toNat + 1) 0xFFFFFFFF) ∧
    (∀ m ∈ polledMsgs n.msgNs budget (n.polledLeft.getD 0) n.waitingMsgs, m ∉ (n.answerPoll first budget index).plc.out)) ∧
  (∀ (cost : OutMsg → Nat) (budget time : Nat) (ms : List OutMsg),
    ((polledMsgs cost budget time ms).map (·.bytes.length)).sum ≤ budget ∨ (polledMsgs cost budget time ms).length = 1) ∧
  (∀ (s : State) (r : Rx) (e : NumEntry), s.node.hears r 0x3 = true → s.node.master = true →
    (s.node.heard r).nodeIn (decodeHdr r.frame.body).epoch (decodeHdr r.frame.body).src = some e →
    ∃ t : State, exec (.replyReceived r) s = .next t ∧
      t.node.cyc.polls = s.node.cyc.polls.map fun p =>
        if p.index = beAt (payloadOf r.frame.body) 0 2 ∧ p.node = e.num then { p with replied := true } else p) ∧
  (∀ (s : State) (time : Nat), (s.node.at time).inPolled = false →
    ∃ t : State, exec (.pollMissed time) s = .next t ∧ t.node.cyc.polls = [] ∧
    t.node.reg Reg.CYC_POLL_MISS = word (min ((s.node.reg Reg.CYC_POLL_MISS).toNat +
      (s.node.cyc.polls.countP fun p => !p.replied)) 0xFFFFFFFF)) ∧
  (∀ (s : State) (time : Nat), s.node.master = true → (s.node.at time).inPolled = true →
    (s.node.pollOrder.isEmpty = true ∨ s.node.cyc.polls.isEmpty = false) →
    (∃ t : State, exec (.masterMessageSend time) s = .next t ∧ t.node.plc.verdicts = []) ∧
    (s.node.plc.verdicts = [] → s.node.bit Reg.INA_COMMIT 16 = false → s.node.ina.bleedEnd ≠ s.node.cyc.cur + 4 →
      (∀ x ∈ s.node.sendable, x.stream ≠ 16381) →
      exec (.masterMessageSend time) s = .next (s.on fun n =>
        let m := n.at time
        m.sendMsgs (fun _ => true) (withinBudget m.msgNs (2 ^ 32) (m.polledLeft.getD 0) m.sendable)))) ∧
  (∀ (s : State) (time : Nat), (s.node.at time).inPolled = false →
    exec (.modeRequestSend time) s = .next (s.on fun n => n.at time)) ∧
  (∀ (s : State) (time : Nat), (s.node.at time).inPolled = true →
    ∃ t : State, exec (.modeRequestSend time) s = .next t ∧ t.node.cyc.toSend = [] ∧
    (s.node.cyc.toSend = [] → t.node = { s.node.at time with cyc := t.node.cyc }) ∧
    (∀ q, s.node.cyc.toSend = [q] → t.node.net.sent = ((s.node.at time).startOn s.node.cyc.refPort (s.node.hdr 0xD)
      (modePayload 1 q 0 q.earliest)).net.sent)) ∧
  (∀ (s : State) (r : Rx) (e : NumEntry), s.node.hears r 0xD = true → byteAt (payloadOf r.frame.body) 0 = 1 →
    s.node.master = true → s.node.cyc.request = none → s.node.cyc.switch = none →
    (s.node.heard r).nodeIn (decodeHdr r.frame.body).epoch (beAt (payloadOf r.frame.body) 12 2 % 4096) = some e →
    s.node.holds (byteAt (payloadOf r.frame.body) 1 % 8) = true → beAt (payloadOf r.frame.body) 4 4 = 0 →
    exec (.modeRequestReceived r) s = .next (s.on fun n =>
      { n.heard r with cyc := { (n.heard r).cyc with request := some ⟨byteAt (payloadOf r.frame.body) 1 % 8, 0,
        beAt (payloadOf r.frame.body) 8 4, e.num, beAt (payloadOf r.frame.body) 14 2⟩ } })) ∧
  (∀ (s : State) (r : Rx) (e : NumEntry), s.node.hears r 0xD = true → byteAt (payloadOf r.frame.body) 0 = 1 →
    s.node.master = false →
    (s.node.heard r).nodeIn (decodeHdr r.frame.body).epoch (beAt (payloadOf r.frame.body) 12 2 % 4096) = some e →
    exec (.modeRequestReceived r) s = .next (s.on fun n =>
      let g := n.heard r
      if g.masterId = g.identity ∨ g.cyc.refPort = r.port then
        g.tellAll (g.hdr 0xD) (modePayload 2 ⟨byteAt (payloadOf r.frame.body) 1 % 8, beAt (payloadOf r.frame.body) 4 4,
          beAt (payloadOf r.frame.body) 8 4, e.num, beAt (payloadOf r.frame.body) 14 2⟩ 2 0)
      else g.relayOn r g.cyc.refPort (decodeHdr r.frame.body) (payloadOf r.frame.body))) ∧
  (∀ (s : State) (r : Rx) (e : NumEntry) (w : Wait), s.node.hears r 0xD = true → byteAt (payloadOf r.frame.body) 0 = 2 →
    (s.node.heard r).nodeIn (decodeHdr r.frame.body).epoch (beAt (payloadOf r.frame.body) 12 2 % 4096) = some e →
    e.identity = (s.node.heard r).identity → s.node.host.waits = [w] → w.kind = 2 →
      w.key = beAt (payloadOf r.frame.body) 14 2 →
    exec (.modeAnswerReceived r) s = .next (s.on fun n =>
      ((n.heard r).forwardJoined r ((n.heard r).rxLine r (decodeHdr r.frame.body))).finish w.ctx w.ring w.seq w.opcode
        (if byteAt (payloadOf r.frame.body) 2 = 0 then 0 else if byteAt (payloadOf r.frame.body) 2 = 1 then 0xB
          else if byteAt (payloadOf r.frame.body) 2 = 2 then 8 else 3)
        (if byteAt (payloadOf r.frame.body) 2 = 0 then [word (beAt (payloadOf r.frame.body) 4 4)] else []))) ∧
  (∀ (s : State) (ctx ring seq time : Nat) (w : Wait),
    (s.node.host.waits.find? fun w => w.ctx == ctx && w.ring == ring && w.seq == seq) = some w → w.kind = 1 ∨ w.kind = 2 →
    (w.cycle + 8 ≤ s.node.cyc.cur → exec (.masterAnswerTimeout ctx ring seq time) s = .next (s.on fun n =>
      (n.at time).finish w.ctx w.ring w.seq w.opcode 7 [])) ∧
    (s.node.cyc.cur < w.cycle + 8 → exec (.masterAnswerTimeout ctx ring seq time) s = .next (s.on fun n => n.at time)))

/-- R247 and R248: the commands of the cycle: its state, a mode's registers, a switch asked for in RUN, which at the master
waits to be announced and elsewhere to be sent, and the abort of a switch that is not yet confirmed. -/
def Obligations.CycleCommandsAct : Prop :=
  ∀ (s : State) (c : Cmd),
    (s.node.takes c 0x0301 .either 0 = true → exec (.cycStatus c) s = .next (s.on fun n => (n.at c.time).completes c sOk
      [n.reg Reg.CYC_STATE, n.reg Reg.CYC_MODE_NEXT, n.reg Reg.CYC_SWITCH_CYC, n.reg Reg.CYC_NUM_LO,
        n.reg Reg.CYC_NUM_HI])) ∧
    (s.node.takes c 0x0304 .either 1 = true → arg c 0 ≤ 7 → s.node.holds (arg c 0) = true →
      exec (.cycModeInfo c) s = .next (s.on fun n =>
      (n.at c.time).completes c sOk (n.getRegs (Reg.CYC_MD_STAT (arg c 0)) 6))) ∧
    (s.node.takes c 0x0304 .either 1 = true → s.node.holds (arg c 0) = false → exec (.cycModeInfo c) s = .next (s.on fun n =>
      (n.at c.time).completes c sArgs [])) ∧
    (s.node.takes c 0x0302 .either 2 = true → arg c 0 ≤ 7 → s.node.st ≠ stRun →
      exec (.cycModeSwitch c) s = .next (s.on fun n =>
      (n.at c.time).completes c sState [])) ∧
    (s.node.takes c 0x0302 .either 2 = true → arg c 0 ≤ 7 → s.node.st = stRun → s.node.master = false →
      exec (.cycModeSwitch c) s = .next (s.on fun n =>
      { n.at c.time with cyc := { n.cyc with nextTag := (n.cyc.nextTag + 1) % 65536
                                             toSend := n.cyc.toSend ++ [ModeReq.mk (arg c 0) (arg c 1) 0 n.num n.cyc.nextTag] }
        }.waitsFor c 2 n.cyc.nextTag [])) ∧
    (s.node.takes c 0x0302 .either 2 = true → arg c 0 ≤ 7 → s.node.st = stRun → s.node.master = true →
      s.node.cyc.request = none → s.node.cyc.switch = none →
      s.node.holds (arg c 0) = true → arg c 1 = 0 → exec (.cycModeSwitch c) s = .next (s.on fun n =>
        { n.at c.time with cyc := { n.cyc with nextTag := (n.cyc.nextTag + 1) % 65536
                                               request := some ⟨arg c 0, 0, 0, n.num, n.cyc.nextTag⟩ } }.waitsFor c 2 n.cyc.nextTag [])) ∧
    (s.node.takes c 0x0303 .either 1 = true → ∀ w, s.node.cyc.switch = some w → s.node.master = true →
      w.cyc % 2 ^ 32 = arg c 0 → w.state ≠ 3 →
      s.node.cyc.cur + 1 < w.cyc → exec (.cycModeAbort c) s = .next (s.on fun n =>
        { n.at c.time with cyc := { n.cyc with abort := 6 } }.waitsFor c 5 w.cyc [])) ∧
    (s.node.takes c 0x0303 .either 1 = true → s.node.cyc.switch = none → exec (.cycModeAbort c) s = .next (s.on fun n =>
      (n.at c.time).completes c sState []))

/-- R258, R261 to R263: a node alone goes on from LINK to LISTEN once its wait has passed, unless that is 0; when its
listening time has passed it claims if it is a candidate that holds no better claim and listens afresh otherwise; and it
counts every claim that it sends. R257, R264, R265 and R324: the best claim heard in the last 1 ms is shown, a claimant that
hears a better one listens again, and one that hears none until its claims have settled becomes cycle master, with the time
state MASTER. -/
def Obligations.ClaimsAreHeardAndTheBestWins : Prop :=
  (∀ (s : State) (time : Nat), s.node.st = stLink →
    (s.node.bits Reg.INA_LINK_WAIT 0 16 ≠ 0 →
      s.node.ina.entered + 1000000 * s.node.bits Reg.INA_LINK_WAIT 0 16 ≤ max s.node.tm.raw time →
      ∃ t : State, exec (.linkWaitExpiry time) s = .next t ∧ t.node.st = stListen ∧
        t.node.ina.waitFrom = max s.node.tm.raw time ∧ t.node.ina.claims = 0 ∧ t.node.ina.hold = false) ∧
    (s.node.bits Reg.INA_LINK_WAIT 0 16 = 0 ∨
        max s.node.tm.raw time < s.node.ina.entered + 1000000 * s.node.bits Reg.INA_LINK_WAIT 0 16 →
      exec (.linkWaitExpiry time) s = .next (s.on fun n => n.at time))) ∧
  (∀ (s : State) (time : Nat), s.node.st = stListen → (s.node.at time).listened = true →
    (s.node.candidate = true → (s.node.at time).betterHeld = false →
      ∃ t : State, exec (.listenWaitExpiry time) s = .next t ∧ t.node.st = stClaim ∧ t.node.ina.claims = 0 ∧
        t.node.ina.claimFrom = max s.node.tm.raw time) ∧
    (s.node.candidate = false → exec (.listenWaitExpiry time) s = .next (s.on fun n =>
      { n.at time with ina := { n.ina with waitFrom := max n.tm.raw time } }))) ∧
  (∀ (s : State) (time : Nat), s.node.st = stClaim →
    ∃ t : State, exec (.claimSend time) s = .next t ∧ t.node.ina.claims = s.node.ina.claims + 1 ∧
      t.node.reg Reg.INA_CLAIMS = word (min ((s.node.reg Reg.INA_CLAIMS).toNat + 1) 0xFFFFFFFF) ∧ t.node.st = stClaim) ∧
  (∀ (s : State) (time : Nat), s.node.claiming = false → exec (.claimSend time) s = .next (s.on fun n => n.at time)) ∧
  (∀ (s : State) (r : Rx), s.node.hears r 0x4 = true → stListen ≤ s.node.st →
    beAt (payloadOf r.frame.body) 2 6 ≠ s.node.identity →
    (∀ w, (s.node.heard r).bestClaim = some w →
      w ≤ byteAt (payloadOf r.frame.body) 0 * 2 ^ 48 + beAt (payloadOf r.frame.body) 2 6) →
    ∃ t : State, exec (.claimReceived r) s = .next t ∧
      t.node.bestClaim = some (byteAt (payloadOf r.frame.body) 0 * 2 ^ 48 + beAt (payloadOf r.frame.body) 2 6) ∧
      t.node.reg Reg.INA_BEST_CLAIM_LO = word (byteAt (payloadOf r.frame.body) 0 * 2 ^ 48 + beAt (payloadOf r.frame.body) 2 6) ∧
      (s.node.st = stClaim →
        s.node.claimValue < byteAt (payloadOf r.frame.body) 0 * 2 ^ 48 + beAt (payloadOf r.frame.body) 2 6 →
        t.node.st = stListen)) ∧
  (∀ (s : State) (time : Nat), s.node.st = stClaim → 1 ≤ s.node.ina.claims → (s.node.at time).betterHeld = false →
    s.node.ina.claimFrom + 400000 + 2000 * s.node.bits Reg.INA_MAX_RTT 0 11 ≤ max s.node.tm.raw time →
    s.node.identity < 2 ^ 48 →
    ∃ t : State, exec (.masterElected time) s = .next t ∧ t.node.master = true ∧ t.node.masterId = s.node.identity ∧
      t.node.ts = tsMaster ∧ t.node.st = stIntegrate ∧ t.node.ina.wanted = true ∧
      t.node.ina.firstRef = (s.node.at time).cycleNow + 1)

/-- R270 to R272: at t_p + 4 µs the master starts the round it wants; a node adds its record and remembers the round; the
master collects replies and notes notices; a round that stays incomplete is repeated twice and then taken as it is. R273 to
R280: the master holds the numbering of a complete round for announcement with an epoch that no node carries; another node
holds the parts that belong to the commit announced; at the commit a node takes its own entry and goes on in RUN, or in MUTE
while a cause of MUTE holds, and one without an entry keeps its place. -/
def Obligations.RoundsAndNumberingsAreTaken : Prop :=
  (∀ (s : State) (time : Nat), s.node.master = true → s.node.ina.wanted = true → s.node.ina.roundOn = false →
    s.node.ina.announced = none → s.node.ina.firstRef + 3 ≤ (s.node.at time).cycleNow →
    (((s.node.at time).cycleNow * s.node.tc + 4000 : Nat) : Int) ≤ (s.node.at time).trainNs →
    s.node.ina.lastNotice + 3 * (s.node.tc : Int) ≤ ((s.node.at time).cycleNow * s.node.tc : Nat) →
    ∃ t : State, exec (.topoRoundStart time) s = .next t ∧ t.node.ina.roundOn = true ∧ t.node.ina.wanted = false ∧
      t.node.ina.round = (s.node.ina.round + 1) % 65536 ∧ t.node.ina.roundBy = [] ∧
      t.node.reg Reg.INA_ROUNDS = word (min ((s.node.reg Reg.INA_ROUNDS).toNat + 1) 0xFFFFFFFF)) ∧
  (∀ (s : State) (r : Rx), s.node.hears r 0x5 = true → byteAt (payloadOf r.frame.body) 0 = 1 → stIntegrate ≤ s.node.st →
    beAt (payloadOf r.frame.body) 8 6 ≠ s.node.identity →
    (beAt (payloadOf r.frame.body) 8 6 ≠ s.node.masterId →
      exec (.topoProbeReceived r) s = .next (s.on fun n => n.heard r)) ∧
    (beAt (payloadOf r.frame.body) 8 6 = s.node.masterId → ∃ t : State, exec (.topoProbeReceived r) s = .next t ∧
      (∃ q ∈ t.node.ina.probes, q.1 = beAt (payloadOf r.frame.body) 2 2 ∧ q.2.1 = byteAt (payloadOf r.frame.body) 14 % 4) ∧
      (∀ q ∈ t.node.ina.probes, q.1 = beAt (payloadOf r.frame.body) 2 2))) ∧
  (∀ (s : State) (r : Rx), s.node.hears r 0x5 = true → byteAt (payloadOf r.frame.body) 0 = 2 → stIntegrate ≤ s.node.st →
    beAt (payloadOf r.frame.body) 8 6 = s.node.identity → s.node.master = true → s.node.ina.roundOn = true →
    beAt (payloadOf r.frame.body) 2 2 = s.node.ina.round →
    ∃ t : State, exec (.topoReplyReceived r) s = .next t ∧
      t.node.ina.collected = s.node.ina.collected ++ (topoRecs (payloadOf r.frame.body)).map fun x =>
        TopoHeld.mk x (byteAt (payloadOf r.frame.body) 14 % 4)) ∧
  (∀ (s : State) (r : Rx), s.node.hears r 0x5 = true → byteAt (payloadOf r.frame.body) 0 = 3 → stIntegrate ≤ s.node.st →
    s.node.master = true → exec (.topoNoticeReceived r) s = .next (s.on fun n =>
      { n.heard r with ina := { (n.heard r).ina with wanted := true, trigger := (n.heard r).trainNs, lastNotice := (n.heard r).trainNs } })) ∧
  (∀ (s : State) (time : Nat), s.node.master = true → s.node.ina.roundOn = true → s.node.ina.ready = false →
    s.node.ina.roundCyc < (s.node.at time).cycleNow →
    (s.node.ina.incomplete < 2 → exec (.topoRoundTimeout time) s = .next (s.on fun n => { n.at time with ina := { n.ina with
      roundOn := false, wanted := true, incomplete := n.ina.incomplete + 1 } })) ∧
    (2 ≤ s.node.ina.incomplete → ∃ t : State, exec (.topoRoundTimeout time) s = .next t ∧ t.node.ina.ready = true ∧
      t.node.ina.round = s.node.ina.round)) ∧
  (∀ (s : State) (time : Nat), s.node.master = true → s.node.ina.roundOn = true → s.node.ina.ready = true →
    s.node.ina.announced = none → s.node.ina.collected.length ≤ 4096 →
    ∃ t : State, exec (.numberingAssigned time) s = .next t ∧ t.node.ina.roundOn = false ∧ t.node.ina.ready = false ∧
      t.node.ina.leadReq = none ∧
      (∀ c, t.node.ina.announced = some c → c.epoch ≠ 0 ∧ c.cyc = (s.node.at time).cycleNow + 4 ∧
        ∀ x ∈ s.node.ina.collected, x.topo.epoch ≠ c.epoch)) ∧
  (∀ (s : State) (r : Rx) (e cyc : Nat), s.node.hears r 0x6 = true → stIntegrate ≤ s.node.st → s.node.master = false →
    s.node.ina.refCommit = some (e, cyc) → e = beAt (payloadOf r.frame.body) 0 2 →
    cyc % 2 ^ 32 = beAt (payloadOf r.frame.body) 4 4 → s.node.ina.result = none →
    ∃ (t : State) (c : Commit), exec (.topoResultReceived r) s = .next t ∧ t.node.ina.result = some c ∧ c.epoch = e ∧
      c.cyc = cyc ∧
      t.node.ina.parts = [byteAt (payloadOf r.frame.body) 8] ∧
      (s.node.st = stIntegrate → (c.entries.any fun x => x.identity == s.node.identity) = true → t.node.st = stNumbered)) ∧
  (∀ (n : Node) (c : Commit) (own : NumEntry) (epoch : Nat), n.heldCommit epoch = some (c, own) → n.st ≠ stMute →
    n.pairConflict
      ((sortBy id (c.entries.map (·.num))).filterMap fun k => c.entries.find? fun e => e.num == k) own = false →
    n.ina.conflicts = [] →
    (n.commitNow epoch).reg Reg.TOP_PLACE = word own.place ∧ (n.commitNow epoch).reg Reg.TOP_EPOCH = word c.epoch ∧
    (n.commitNow epoch).reg Reg.INA_PREV_EPOCH = word n.epoch ∧ (n.st = stRun → (n.commitNow epoch).st = stRun) ∧
    (n.st ≠ stRun → (n.commitNow epoch).st = if (n.commitNow epoch).muteCause then stMute else stRun)) ∧
  (∀ (n : Node) (epoch : Nat), n.heldCommit epoch = none →
    (n.commitNow epoch).reg Reg.TOP_PLACE = n.reg Reg.TOP_PLACE ∧
      (n.commitNow epoch).reg Reg.TOP_EPOCH = n.reg Reg.TOP_EPOCH ∧
    (n.commitNow epoch).st = n.st)

/-- R290 to R294: the master takes a snapshot request of a node and announces its cycle; an answer completes the command of
the node that it names; at the instant of a snapshot the node latches its record, in memory order, and holds it in network
order for the requester, to whom it goes in the polled window of each cycle until a poll takes it. R297: the train-wide
commands: status; set lead, re-inaugurate, reset and snapshot, which at a node that is not the master leave toward it as one
request and wait for the answer; what the state of the node does not allow is turned away. -/
def Obligations.TrainOperationsAndCommandsAct : Prop :=
  (∀ (s : State) (r : Rx), s.node.hears r 0x5 = true → byteAt (payloadOf r.frame.body) 0 = 4 → stIntegrate ≤ s.node.st →
    s.node.master = true → byteAt (payloadOf r.frame.body) 24 = 4 → s.node.ina.op = none →
    beAt (payloadOf r.frame.body) 32 4 < s.node.tc → beAt (payloadOf r.frame.body) 36 4 = 0 →
    ∃ t : State, exec (.operationRequestReceived r) s = .next t ∧
      t.node.ina.op = some ⟨4, (s.node.heard r).cycleNow + 4, beAt (payloadOf r.frame.body) 32 4,
        beAt (payloadOf r.frame.body) 16 6, beAt (payloadOf r.frame.body) 22 2⟩ ∧
      t.node.ina.answers = s.node.ina.answers ++
        [(beAt (payloadOf r.frame.body) 16 6, beAt (payloadOf r.frame.body) 22 2, 0, (s.node.heard r).cycleNow + 4)]) ∧
  (∀ (s : State) (r : Rx) (o : TrainOp), s.node.hears r 0x5 = true → byteAt (payloadOf r.frame.body) 0 = 5 →
    stListen ≤ s.node.st → s.node.ina.op = some o → o.requester = 0 → byteAt (payloadOf r.frame.body) 24 = 0 →
    o.cyc % 2 ^ 32 = beAt (payloadOf r.frame.body) 28 4 →
    ∃ t : State, exec (.operationAnswerReceived r) s = .next t ∧
      t.node.ina.op = some { o with requester := beAt (payloadOf r.frame.body) 16 6, tag := beAt (payloadOf r.frame.body) 22 2 }) ∧
  (∀ (s : State) (time : Nat) (o : TrainOp), s.node.ina.op = some o → o.op = 4 → (s.node.at time).opDue o = true →
    o.requester ≠ s.node.identity → o.requester ≠ 0 →
    ∃ t : State, exec (.snapshotTaken time) s = .next t ∧ t.node.ina.op = none ∧
      t.node.getRegs Reg.INA_SNAP_OWN 32 = wordsLE (snapMemory ((s.node.at time).snapFields o.tag)) 32 ∧
      t.node.ina.snapshot = some (o.requester, snapWire ((s.node.at time).snapFields o.tag))) ∧
  (∀ (s : State) (time : Nat), s.node.ina.snapshot = none ∨ (s.node.at time).inPolled = false →
    exec (.snapshotRecordSend time) s = .next (s.on fun n => n.at time)) ∧
  (∀ (s : State) (time who : Nat) (bytes : List Byte), s.node.ina.snapshot = some (who, bytes) →
    (s.node.at time).inPolled = true →
    exec (.snapshotRecordSend time) s = .next (s.on fun n =>
      (n.at time).sendMsg ⟨16383, n.cyc.cur % 65536, [who], bytes, 0⟩)) ∧
  (∀ (s : State) (c : Cmd), s.node.takes c 0x0121 .either 0 = true → exec (.trainStatus c) s = .next (s.on fun n =>
    (n.at c.time).completes c sOk [n.reg Reg.INA_STATE, n.reg Reg.INA_COMMIT, n.reg Reg.INA_NODES])) ∧
  (∀ (s : State) (c : Cmd), s.node.takes c 0x0120 .either 3 = true → arg c 0 = 0 → s.node.st = stRun →
    s.node.master = false →
    exec (.trainSetLead c) s = .next (s.on fun n => Node.settle c ((n.at c.time).requestOp 1 0 0 0))) ∧
  (∀ (s : State) (c : Cmd), s.node.takes c 0x0122 (.secure 14) 0 = true → s.node.ina.refCommit = none →
    s.node.ina.announced = none →
    s.node.master = false →
    exec (.trainReinaugurate c) s = .next (s.on fun n => Node.settle c ((n.at c.time).requestOp 2 0 0 0))) ∧
  (∀ (s : State) (c : Cmd), s.node.takes c 0x0123 (.secure 14) 2 = true → s.node.st = stRun → s.node.ina.op = none →
    s.node.master = false →
    exec (.trainReset c) s = .next (s.on fun n => Node.settle c ((n.at c.time).requestOp 3 0 (arg c 0) (arg c 1)))) ∧
  (∀ (s : State) (c : Cmd), s.node.takes c 0x0124 .either 2 = true → s.node.ina.op = none → s.node.master = false →
    exec (.trainSnapshot c) s = .next (s.on fun n => Node.settle c ((n.at c.time).requestOp 4 0 (arg c 0) (arg c 1)))) ∧
  (∀ (s : State) (c : Cmd), s.node.takes c 0x0124 .either 2 = true → s.node.ina.op.isSome = true →
    exec (.trainSnapshot c) s = .next (s.on fun n => (n.at c.time).completes c sBusy [])) ∧
  (∀ (n : Node) (op a off early : Nat), n.master = false →
    n.requestOp op a off early = .wait ({ n with ina := { n.ina with nextTag := (n.ina.nextTag + 1) % 65536 } }.topoInward
      n.cyc.refPort 4 0 0 0 0 (b2n (n.lineOut n.cyc.refPort) * 2)
      (encBE 6 n.identity ++ encBE 2 n.ina.nextTag ++ encBE 1 op ++ zeros 1 ++ encBE 6 a ++ encBE 4 off ++ encBE 4 early))
      1 n.ina.nextTag []) ∧
  (∀ (s : State) (c : Cmd), s.node.takes c 0x0120 .either 3 = true → arg c 0 = 0 → s.node.st = stRun → s.node.master = true →
    ∃ t : State, exec (.trainSetLead c) s = .next t ∧ t.node.ina.leadReq = some 0 ∧ t.node.ina.wanted = true)

/-- R295 and R296: in IEC 61375-2-5 mode a node sends its HELLO and TOPOLOGY on the spine ports, holds the neighbours that
it hears until their timeout, and shows the ETBN number and the topology counter; in the other mode none of these has an
effect. The addresses and EtherTypes of the TTDP frames are presumed from the standard, log entry 25, and the bytes that
they carry are free values, log entry 2. -/
def Obligations.InteroperationActsInItsModeAlone : Prop :=
  (∀ (s : State) (time : Nat), (s.node.interop = true → stLink ≤ s.node.st →
      exec (.ttdpHelloSend time) s = .next (s.on fun n =>
        (n.at time).freeBytes 88 |>.1.sendAll [0, 1, 2, 3] ⟨0x0180C200000E, n.identity, none, 0x88CC,
          ((n.at time).freeBytes 88).2⟩) ∧
      exec (.ttdpTopologySend time) s = .next (s.on fun n =>
        (n.at time).freeBytes 88 |>.1.sendAll [0, 1, 2, 3] ⟨0x0180C2000010, n.identity, none, 0x894C,
          ((n.at time).freeBytes 88).2⟩)) ∧
    (s.node.interop = false → exec (.ttdpHelloSend time) s = .next (s.on fun n => n.at time) ∧
      exec (.ttdpTopologySend time) s = .next (s.on fun n => n.at time))) ∧
  (∀ (s : State) (port identity time : Nat), s.node.interop = true → port < 4 →
    exec (.ttdpHelloReceived port identity time) s = .next (s.on fun n => { n.at time with ina := { n.ina with
      hello := n.ina.hello.filter (fun q => q.1 != port) ++ [(port, identity, max n.tm.raw time)] } })) ∧
  (∀ (s : State) (port time : Nat), ∃ t : State, exec (.ttdpHelloTimeout port time) s = .next t ∧
    (∀ q ∈ t.node.ina.hello, q.1 ≠ port) ∧
      t.node = { s.node.at time with ina := { s.node.ina with hello := t.node.ina.hello } }) ∧
  (∀ (s : State) (port etbn count counter time : Nat), s.node.interop = true → port < 4 → count ≤ 63 →
    ∃ t : State, exec (.ttdpTopologyReceived port etbn count counter time) s = .next t ∧
      t.node.reg Reg.INA_TTDP = word (etbn % 64 + counter % 65536 * 65536)) ∧
  (∀ (s : State) (port etbn count counter time : Nat), 63 < count →
    exec (.ttdpTopologyReceived port etbn count counter time) s = .next (s.on fun n => n.at time))

/-- R28 and R310 to R313: a port starts an exchange when one is due and remembers it with its egress stamp; a request shows
its sender, a port of the other line is withdrawn, and a withdrawn one that has come up anew returns with the right line;
the response that matches its exchange gives the link delay, half of what the round trip exceeds the turnaround; an exchange
without a matching response is counted. -/
def Obligations.LinkDelayIsMeasured : Prop :=
  (∀ (s : State) (p time : Nat), p < 13 → s.node.net.ports.length = 13 → s.node.linkUp p = true →
    (s.node.isLinePort p = true ∨ p = 12) → stLink ≤ s.node.st → (s.node.at time).pdDue p = true →
    ∃ t : State, exec (.pdelayRequestSend p time) s = .next t ∧ (t.node.port p).pdAt = some (max s.node.tm.raw time) ∧
      (∃ t1, max s.node.tm.raw time ≤ t1 ∧ (t.node.port p).exch = (s.node.port p).exch ++ [((s.node.port p).exchNext, t1)]) ∧
      (t.node.port p).exchNext = ((s.node.port p).exchNext + 1) % 65536) ∧
  (∀ (s : State) (p time : Nat), s.node.linkUp p = false → (s.node.at time).pdDue p = true →
    ∃ t : State, exec (.pdelayRequestSend p time) s = .next t ∧ t.node.net.sent = s.node.net.sent ∧
      t.node.net.queue = s.node.net.queue ∧ (t.node.port p).exch = (s.node.port p).exch) ∧
  (∀ (s : State) (p time : Nat), (s.node.at time).pdDue p = false →
    exec (.pdelayRequestSend p time) s = .next (s.on fun n => n.at time)) ∧
  (∀ (s : State) (r : Rx) (turn : Nat), s.node.hears r 0xA = true → r.port < 13 → s.node.net.ports.length = 13 →
    byteAt (payloadOf r.frame.body) 0 = 1 →
    ∃ t : State, exec (.pdelayRequestReceived r turn) s = .next t ∧
      (t.node.port r.port).farId = beAt (payloadOf r.frame.body) 4 6 ∧
      (t.node.port r.port).farPort = byteAt (payloadOf r.frame.body) 1 % 16 ∧
      (r.port < 12 → (decodeHdr r.frame.body).lineB ≠ s.node.portB r.port → t.node.crossed r.port = true) ∧
      (r.port < 12 → (decodeHdr r.frame.body).lineB = s.node.portB r.port → (s.node.port r.port).crossFresh = true →
        t.node.crossed r.port = false)) ∧
  (∀ (s : State) (r : Rx) (k t1 : Nat), s.node.hears r 0xA = true → r.port < 13 → s.node.net.ports.length = 13 →
    byteAt (payloadOf r.frame.body) 0 = 2 → (r.port = 12 ∨ (decodeHdr r.frame.body).lineB = s.node.portB r.port) →
    ((s.node.port r.port).exch.find? fun x => x.1 == beAt (payloadOf r.frame.body) 2 2 &&
      beAt (payloadOf r.frame.body) 4 6 == s.node.identity && decide (r.stamp ≤ x.2 + 100000)) = some (k, t1) →
    (s.node.port r.port).pdLast = [] →
    ∃ t : State, exec (.pdelayResponseReceived r) s = .next t ∧ (t.node.port r.port).pdDone = true ∧
      (t.node.port r.port).pdMisses = 0 ∧
      t.node.reg (Reg.TMB_PD_DELAY r.port) = sword (((s.node.scaled ((r.stamp : Int) - t1)) -
        (BitVec.ofNat 64 (beAt (payloadOf r.frame.body) 16 8)).toInt) / 2)) ∧
  (∀ (s : State) (r : Rx), s.node.hears r 0xA = true → r.port < 13 → s.node.net.ports.length = 13 →
    byteAt (payloadOf r.frame.body) 0 = 2 → (r.port = 12 ∨ (decodeHdr r.frame.body).lineB = s.node.portB r.port) →
    (s.node.port r.port).exch ≠ [] →
    ((s.node.port r.port).exch.find? fun x => x.1 == beAt (payloadOf r.frame.body) 2 2 &&
      beAt (payloadOf r.frame.body) 4 6 == s.node.identity && decide (r.stamp ≤ x.2 + 100000)) = none →
    ∃ t : State, exec (.pdelayResponseReceived r) s = .next t ∧
      (t.node.port r.port).exch = (s.node.port r.port).exch.drop 1 ∧
      (t.node.port r.port).pdMisses = (s.node.port r.port).pdMisses + 1) ∧
  (∀ (s : State) (p time : Nat),
    ((s.node.port p).exch.head?.any fun x => decide (x.2 + 100000 ≤ max s.node.tm.raw time)) = false →
    exec (.pdelayResponseTimeout p time) s = .next (s.on fun n => n.at time)) ∧
  (∀ (s : State) (p time : Nat), p < 13 → s.node.net.ports.length = 13 →
    ((s.node.port p).exch.head?.any fun x => decide (x.2 + 100000 ≤ max s.node.tm.raw time)) = true →
    ∃ t : State, exec (.pdelayResponseTimeout p time) s = .next t ∧ (t.node.port p).exch = (s.node.port p).exch.drop 1 ∧
      (t.node.port p).pdMisses = (s.node.port p).pdMisses + 1 ∧
      t.node.reg (Reg.TMB_PD_MISS p) = word (min ((s.node.reg (Reg.TMB_PD_MISS p)).toNat + 1) 0xFFFFFFFF))

/-- R304, R305, R309, R317 and R318: a change of rate leaves train time continuous and within 200 ppm; a step moves train
time by its size alone and is counted and shown; a wrap shows the last multiple of 2^32 ns; a slew ends once it has shifted
train time by its amount. -/
def Obligations.TrainTimeIsContinuousButForSteps : Prop :=
  (∀ (n : Node) (r : Int), (n.setRate r).fine = n.fine ∧ -858993 ≤ (n.setRate r).tm.rate ∧ (n.setRate r).tm.rate ≤ 858993 ∧
    (-858993 ≤ r → r ≤ 858993 → (n.setRate r).tm.rate = r)) ∧
  (∀ (n : Node) (d : Int) (cause : Nat), (n.stepTime d cause).fine = n.fine + d ∧ (n.stepTime d cause).tm.rate = n.tm.rate ∧
    (n.stepTime d cause).reg Reg.TMB_STEP_CNT = word (min ((n.reg Reg.TMB_STEP_CNT).toNat + 1) 0xFFFFFFFF) ∧
    (n.stepTime d cause).reg Reg.TMB_LAST_STEP = sword (d / 65536)) ∧
  (∀ (s : State) (time : Nat), ∃ t : State, exec (.timeWrap time) s = .next t ∧ t.node.tm = (s.node.at time).tm ∧
    t.node.reg Reg.TMB_EPOCH_NS = word (nsOf ((s.node.at time).trainNs / 2 ^ 32 * 2 ^ 32)) ∧
    t.node.reg Reg.TMB_EPOCH_SEC_LO = word (secOf ((s.node.at time).trainNs / 2 ^ 32 * 2 ^ 32))) ∧
  (∀ (s : State) (time : Nat) (sl : Slew), s.node.tm.slew = some sl → (s.node.at time).slewReached = true →
    -858993 ≤ sl.base →
    sl.base ≤ 858993 →
    ∃ t : State, exec (.slewComplete time) s = .next t ∧ t.node.tm.slew = none ∧ t.node.tm.rate = sl.base ∧
      t.node.fine = (s.node.at time).fine ∧ t.node.fld Reg.TMB_STATE Fld.TMB_STATE_SLEW = 0) ∧
  (∀ (s : State) (time : Nat), (s.node.at time).slewReached = false →
    exec (.slewComplete time) s = .next (s.on fun n => n.at time))

/-- R319, R320 and R340: the time commands: status; the setting of time in LINK, LISTEN and CLAIM, after which train time is
the time named; a shift at the master, by at most 10 ppm and within 200 ppm in all; what the state does not allow is turned
away. R329, R330, R340, R344 and R461: a timed output is armed with what its registers hold when its start lies at least 2
µs ahead, and is left disarmed and marked late when not; a pulse is driven for its width when it is due, and a one-shot
output is then disarmed; stop and mode 0 disarm it; a binding is written from the world of the output alone. R332: an edge
of the kind asked for joins its capture queue with the train time of the edge, up to 16 entries; the next is lost and
reported once; other edges are not captured. R333 to R338 and R710: the time service of a car port sends its PTP frames when
they are due, while it runs and train time is synchronised; a foreign message is counted and reported once for each link-up;
a peer delay request is answered with two messages, and a response makes the delay valid; the locked audio PLL shows its
phase error; the calibration of the AON oscillator is shown. The layout of the PTP messages is presumed from IEEE 802.1AS
and IEEE 1588, log entry 34. -/
def Obligations.TimeCommandsOutputsAndCapturesAct : Prop :=
  (∀ (s : State) (c : Cmd), s.node.takes c 0x0901 .either 0 = true → exec (.timeStatus c) s = .next (s.on fun n =>
    (n.at c.time).completes c sOk [n.reg Reg.TMB_STATE, n.reg Reg.TMB_EST, word (nsOf (n.at c.time).trainNs),
      word (secOf (n.at c.time).trainNs), word (secOf (n.at c.time).trainNs / 2 ^ 32),
        word ((n.at c.time).fine % 65536).toNat])) ∧
  (∀ (s : State) (c : Cmd), s.node.takes c 0x0902 (.secure 15) 3 = true → arg c 2 ≤ 999999999 → arg c 1 < 65536 →
    (stLink ≤ s.node.st → s.node.st ≤ stClaim → ∃ t : State, exec (.timeSet c) s = .next t ∧
      t.node.trainNs = ((arg c 1 * 2 ^ 32 + arg c 0) * 1000000000 + arg c 2 : Nat) ∧ t.node.tm.rate = s.node.tm.rate) ∧
    (s.node.st < stLink ∨ stClaim < s.node.st → exec (.timeSet c) s = .next (s.on fun n =>
      (n.at c.time).completes c sState []))) ∧
  (∀ (s : State) (c : Cmd), s.node.takes c 0x0903 (.secure 15) 1 = true → (argW c 0).toInt.natAbs ≤ 10000000 →
    (s.node.master = false → exec (.timeAdjust c) s = .next (s.on fun n => (n.at c.time).completes c sState [])) ∧
    (s.node.master = true → s.node.tm.slew = none → 0 < (argW c 0).toInt → 4295 ≤ 858993 - s.node.tm.rate →
      ∃ t : State, exec (.timeAdjust c) s = .next t ∧ t.node.fine = (s.node.at c.time).fine ∧
        t.node.tm.rate = max (-858993) (s.node.tm.rate + min 42949 (858993 - s.node.tm.rate)) ∧
        t.node.tm.slew = some ⟨s.node.tm.rate, min 42949 (858993 - s.node.tm.rate), (argW c 0).toInt * 65536,
          max s.node.tm.raw c.time⟩) ∧
    (s.node.master = true → s.node.tm.slew = none → 0 < (argW c 0).toInt → 858993 - s.node.tm.rate < 4295 →
      exec (.timeAdjust c) s = .next (s.on fun n => (n.at c.time).completes c sState []))) ∧
  (∀ (s : State) (c : Cmd), arg c 0 < 8 → s.node.takes c 0x0904 (.inst (16 + arg c 0)) 7 = true →
    s.node.tm.touts.length = 8 →
    1 ≤ arg c 1 → arg c 1 ≤ 3 → arg c 2 ≤ 999999999 → arg c 4 < 65536 → 4 ≤ arg c 6 →
    (arg c 1 = 2 → 16 ≤ arg c 5 ∧ arg c 6 + 4 ≤ arg c 5) →
    (arg c 1 = 3 ∨ (s.node.at c.time).trainNs + 2000 ≤ ((arg c 4 * 2 ^ 32 + arg c 3) * 1000000000 + arg c 2 : Nat) →
      ∃ t : State, exec (.timeToutSet c) s = .next t ∧
        t.node.tm.touts.getD (arg c 0) Tout.reset = ⟨true, arg c 1,
          ((arg c 4 * 2 ^ 32 + arg c 3) * 1000000000 + arg c 2 : Nat),
          arg c 5, arg c 6, 0, false⟩ ∧ t.node.fld (Reg.TMB_TOUT_CTRL (arg c 0)) Fld.TMB_TOUT_CTRL_ARM = 1) ∧
    (arg c 1 ≠ 3 → ((arg c 4 * 2 ^ 32 + arg c 3) * 1000000000 + arg c 2 : Nat) < (s.node.at c.time).trainNs + 2000 →
      ∃ t : State, exec (.timeToutSet c) s = .next t ∧ (t.node.tm.touts.getD (arg c 0) Tout.reset).armed = false ∧
        t.node.bit (Reg.TMB_TOUT_STAT (arg c 0)) 1 = true)) ∧
  (∀ (s : State) (c : Cmd), arg c 0 < 8 → s.node.takes c 0x0905 (.inst (16 + arg c 0)) 1 = true →
    s.node.tm.touts.length = 8 →
    ∃ t : State, exec (.timeToutStop c) s = .next t ∧ (t.node.tm.touts.getD (arg c 0) Tout.reset).armed = false ∧
      t.node.fld (Reg.TMB_TOUT_CTRL (arg c 0)) Fld.TMB_TOUT_CTRL_MODE = 0) ∧
  (∀ (s : State) (ctx i : Nat) (v : Word), i < 8 → s.node.admits ctx (Reg.TMB_TOUT_CTRL i) true = true →
    s.node.tm.touts.length = 8 →
    (v.toNat % 4 = 0 → ∃ t : State, exec (.toutModeOffWrite ctx i v) s = .next t ∧
      (t.node.tm.touts.getD i Tout.reset).armed = false ∧ t.node.fld (Reg.TMB_TOUT_CTRL i) Fld.TMB_TOUT_CTRL_ARM = 0) ∧
    (v.toNat % 4 ≠ 0 → v.toNat.testBit 3 = true → (v.toNat % 4 = 3 ∨ s.node.trainNs + 2000 ≤ s.node.toutStart i) →
      ∃ t : State, exec (.toutArmWrite ctx i v) s = .next t ∧ (t.node.tm.touts.getD i Tout.reset).armed = true ∧
        (t.node.tm.touts.getD i Tout.reset).mode = v.toNat % 4 ∧
          (t.node.tm.touts.getD i Tout.reset).start = s.node.toutStart i ∧
        t.node.fld (Reg.TMB_TOUT_CTRL i) Fld.TMB_TOUT_CTRL_POL = v.toNat / 4 % 2)) ∧
  (∀ (s : State) (i time : Nat), i < 8 → s.node.tm.touts.length = 8 → (s.node.at time).toutDue i = true →
    ∃ t : State, exec (.toutPulse i time) s = .next t ∧
      t.node.tm.pulses = s.node.tm.pulses ++ [(i, (s.node.tm.touts.getD i Tout.reset).start +
        (s.node.tm.touts.getD i Tout.reset).next * (s.node.tm.touts.getD i Tout.reset).period,
        (s.node.tm.touts.getD i Tout.reset).width)] ∧
      (t.node.tm.touts.getD i Tout.reset).armed = decide ((s.node.tm.touts.getD i Tout.reset).mode ≠ 1)) ∧
  (∀ (s : State) (i time : Nat), (s.node.at time).toutDue i = false →
    exec (.toutPulse i time) s = .next (s.on fun n => n.at time)) ∧
  (∀ (s : State) (ctx i : Nat) (v : Word), i < 8 → s.node.admits ctx (Reg.PDT_TOUT_BIND i) true = true →
    (s.node.ctxSecure ctx = s.node.instSecure (16 + i) → exec (.toutBindWrite ctx i v) s = .next (s.on fun n =>
      (n.answer 0#32).plainWrite (Reg.PDT_TOUT_BIND i) v 0#32)) ∧
    (s.node.ctxSecure ctx ≠ s.node.instSecure (16 + i) → exec (.toutBindWrite ctx i v) s = .next (s.on fun n =>
      ((n.answer 0#32).refuse ctx true 0 1 (Reg.PDT_TOUT_BIND i) (16 + i)).spiFlag ctx fun p => { p with refused := true }))) ∧
  (∀ (s : State) (i : Nat) (rising : Bool) (time : Nat), i < 4 → s.node.tm.tcaps.length = 4 →
    ((s.node.bits (Reg.TMB_TCAP_CTRL i) 0 2 = 3 ∨ s.node.bits (Reg.TMB_TCAP_CTRL i) 0 2 = (if rising then 1 else 2)) →
      ((s.node.tm.tcaps.getD i Tcap.reset).entries.length < 16 →
        ∃ t : State, exec (.tcapEdge i rising time) s = .next t ∧
          (t.node.tm.tcaps.getD i Tcap.reset).entries = (s.node.tm.tcaps.getD i Tcap.reset).entries ++
            [⟨secOf (s.node.at time).trainNs, nsOf (s.node.at time).trainNs, rising⟩]) ∧
      (16 ≤ (s.node.tm.tcaps.getD i Tcap.reset).entries.length →
        ∃ t : State, exec (.tcapEdge i rising time) s = .next t ∧
          (t.node.tm.tcaps.getD i Tcap.reset).entries = (s.node.tm.tcaps.getD i Tcap.reset).entries ∧
          (t.node.tm.tcaps.getD i Tcap.reset).lost = (s.node.tm.tcaps.getD i Tcap.reset).lost + 1)) ∧
    (s.node.bits (Reg.TMB_TCAP_CTRL i) 0 2 ≠ 3 → s.node.bits (Reg.TMB_TCAP_CTRL i) 0 2 ≠ (if rising then 1 else 2) →
      exec (.tcapEdge i rising time) s = .next (s.on fun n => n.at time))) ∧
  (∀ (s : State) (p time : Nat), 4 ≤ p → p < 12 →
    ((s.node.at time).timeSends p = true → (s.node.at time).ptpDue p 0 125000000 = true →
      s.node.net.ports.length = 13 → ∃ t : State, exec (.gptpSyncSend p time) s = .next t ∧
        t.node.tm.ptpSeq = (s.node.tm.ptpSeq + 1) % 65536 ∧ t.node.ptpDue p 0 125000000 = false ∧
        (∀ x ∈ t.node.net.sent.drop s.node.net.sent.length, x.port = p ∧ x.frame.etype = 0x88F7) ∧
        (∀ x ∈ t.node.net.queue.drop s.node.net.queue.length, x.port = p ∧ x.cls = 3 ∧ x.frame.etype = 0x88F7)) ∧
    ((s.node.at time).timeSends p = false ∨ (s.node.at time).ptpDue p 0 125000000 = false →
      exec (.gptpSyncSend p time) s = .next (s.on fun n => n.at time)) ∧
    ((s.node.at time).timeSends p = true → (s.node.at time).ptpDue p 11 1000000000 = true →
      s.node.net.ports.length = 13 → ∃ t : State, exec (.gptpAnnounceSend p time) s = .next t ∧
        t.node.tm.ptpSeq = (s.node.tm.ptpSeq + 1) % 65536 ∧ t.node.ptpDue p 11 1000000000 = false ∧
        (∀ x ∈ t.node.net.sent.drop s.node.net.sent.length, x.port = p ∧ x.frame.etype = 0x88F7) ∧
        (∀ x ∈ t.node.net.queue.drop s.node.net.queue.length, x.port = p ∧ x.cls = 3 ∧ x.frame.etype = 0x88F7)) ∧
    ((s.node.at time).timeSends p = false ∨ (s.node.at time).ptpDue p 11 1000000000 = false →
      exec (.gptpAnnounceSend p time) s = .next (s.on fun n => n.at time)) ∧
    (s.node.timeService p ≠ 0 → s.node.linkUp p = true → (s.node.at time).carSends p = true →
      (s.node.at time).ptpDue p 2 1000000000 = true →
      exec (.gptpPdelaySend p time) s = .next (s.on fun n =>
        ((n.at time).ptpSend p 2 0 n.tm.ptpSeq 0 (zeros 20)).ptpDone p 2)) ∧
    (s.node.timeService p ≠ 0 → s.node.linkUp p = true → (s.node.at time).carSends p = true →
      ∀ seq clock num egress, exec (.carPeerDelayReceived p 2 seq clock num egress time) s = .next (s.on fun n =>
        let m := n.at time
        (m.ptpSend p 3 0x0200 seq 0x7F (ptpStamp m.trainNs ++ (encBE 8 clock ++ encBE 2 num))).ptpSend p 10 0 seq 0x7F
          (ptpStamp (m.fineAt egress / 65536) ++ (encBE 8 clock ++ encBE 2 num)))) ∧
    (s.node.timeService p ≠ 0 → s.node.linkUp p = true → ∀ seq clock num egress,
      exec (.carPeerDelayReceived p 10 seq clock num egress time) s = .next (s.on fun n =>
        (n.at time).setBit (Reg.TMB_CARTIME_STAT (p - 4)) 1 true)) ∧
    (∀ ty, ty = 0 ∨ ty = 8 ∨ ty = 11 → exec (.ptpMessageReceived p ty time) s = .next (s.on fun n =>
      let k := (n.at time).inc (Reg.TMB_CARTIME_FOREIGN (p - 4))
      if (n.port p).ptpSeen then k else (k.onPort p fun q => { q with ptpSeen := true }).raise 0x3008 p ty))) ∧
  (∀ (s : State) (phase : Int) (time : Nat), s.node.ts = tsSynced ∨ s.node.ts = tsMaster ∨ s.node.tm.audioMute = true →
    ∃ t : State, exec (.audioPllLock phase time) s = .next t ∧
    t.node.bit Reg.TMB_AUD_STAT 0 = true ∧ t.node.bits Reg.TMB_AUD_STAT 16 16 = (sword phase).toNat % 65536 ∧
    t.node.tm = { s.node.tm with raw := max s.node.tm.raw time, audioMute := false }) ∧
  (∀ (s : State) (phase : Int) (time : Nat), s.node.ts ≠ tsSynced → s.node.ts ≠ tsMaster → s.node.tm.audioMute = false →
    exec (.audioPllLock phase time) s = .next (s.on fun n => n.at time)) ∧
  (∀ (s : State) (hz time : Nat), s.node.boot.sleep ≠ 2 → s.node.bit Reg.PCR_SUPPLY_STAT 3 = false →
    (s.node.boot.calAt + 100000000 ≤ max s.node.tm.raw time → exec (.aonRcCalibrate hz time) s = .next (s.on fun n =>
      { n.at time with boot := { n.boot with calAt := max n.tm.raw time } }.setReg Reg.PCR_AON_CAL (word hz))) ∧
    (max s.node.tm.raw time < s.node.boot.calAt + 100000000 →
      exec (.aonRcCalibrate hz time) s = .next (s.on fun n => n.at time)))

/-- R357, R362, R370, R384: a declaration whose fields are right leaves as a request and waits for its verdict; wrong
fields, the other world and a node outside RUN turn it away; a removal by the source does likewise; a query answers the
entry; a full re-placement at the master is begun. R357 to R359, R367, R370, R372, R379: the master decides the next request
of its queue and numbers its admissions; a request without a verdict is sent twice and then times out; the staged mode is
asked for; the census goes out; a full re-placement ends. The layout of a census is the model's choice, log entry 29. -/
def Obligations.PlacementIsAskedForAndDecided : Prop :=
  (∀ (s : State) (c : Cmd) (w : List Word), s.node.takes c 0x0201 .either 9 = true →
    w = (List.range 8).map (fun i => argW c (1 + i)) →
    ((s.node.at c.time).badDeclare (arg c 0) (strmOf w) w = true →
      exec (.streamDeclare c) s = .next (s.on fun n => (n.at c.time).completes c sArgs [])) ∧
    ((s.node.at c.time).badDeclare (arg c 0) (strmOf w) w = false → (s.node.at c.time).badWorld c.ctx (strmOf w) = true →
      exec (.streamDeclare c) s = .next (s.on fun n => ((((n.at c.time).inc Reg.PLC_REJ_CNT).setReg Reg.PLC_LAST_REJ
        (word (arg c 0 + 6 * 65536))).raise 0x3801 (arg c 0) 6).completes c sWorld [6#32])) ∧
    ((s.node.at c.time).badDeclare (arg c 0) (strmOf w) w = false → (s.node.at c.time).badWorld c.ctx (strmOf w) = false →
      (s.node.st ≠ stRun → exec (.streamDeclare c) s = .next (s.on fun n => (n.at c.time).completes c sState [])) ∧
      (s.node.st = stRun → exec (.streamDeclare c) s = .next (s.on fun n =>
        ((n.at c.time).request 1 (arg c 0) 0 w).1.waitsFor c 3 n.plc.nextTag [])))) ∧
  (∀ (s : State) (c : Cmd), s.node.takes c 0x0202 (s.node.strmNeed (arg c 0)) 1 = true →
    ((s.node.strm (arg c 0)).valid = true → s.node.ownStream (s.node.strm (arg c 0)) = true → 0 < arg c 0 → arg c 0 < 16380 →
      exec (.streamRemove c) s = .next (s.on fun n =>
        ((n.at c.time).request 2 (arg c 0) 0 []).1.waitsFor c 3 n.plc.nextTag [])) ∧
    (s.node.ownStream (s.node.strm (arg c 0)) = false →
      exec (.streamRemove c) s = .next (s.on fun n => (n.at c.time).completes c sArgs []))) ∧
  (∀ (n : Node) (type stream first : Nat) (entry : List Word), n.master = false →
    (n.request type stream first entry).2 = n.plc.nextTag ∧
    (n.request type stream first entry).1.plc.mine =
      n.plc.mine ++ [⟨type, stream, n.plc.nextTag, n.identity, entry, first, n.cyc.cur, 1⟩] ∧
    (n.request type stream first entry).1.plc.out = n.plc.out ++ [⟨16380, n.nextMsgSeq 16380, [n.masterId],
      requestBytes ⟨type, stream, n.plc.nextTag, n.identity, entry, first, n.cyc.cur, 1⟩,
        n.tm.raw + n.plc.expiry * 1000000000⟩]) ∧
  (∀ (s : State) (c : Cmd), s.node.takes c 0x0203 .either 1 = true → arg c 0 < 16384 →
    exec (.streamQuery c) s = .next (s.on fun n =>
    (n.at c.time).completes c sOk (if n.strmSecure (arg c 0) && !n.ctxSecure c.ctx then List.replicate 8 0#32
      else n.getRegs (Reg.STB_ENTRY (arg c 0)) 8))) ∧
  (∀ (s : State) (c : Cmd), s.node.takes c 0x0204 (.secure 28) 0 = true →
    (s.node.master = false → exec (.streamReplaceAll c) s = .next (s.on fun n => (n.at c.time).completes c sState [])) ∧
    (s.node.master = true → s.node.fld Reg.PLC_STATE Fld.PLC_STATE_BUSY ≠ 1 →
      s.node.fld Reg.PLC_STATE Fld.PLC_STATE_REPLACING ≠ 1 → exec (.streamReplaceAll c) s = .next (s.on fun n =>
        ((n.at c.time).setFld Reg.PLC_STATE Fld.PLC_STATE_BUSY 1).waitsFor c 6 0 []))) ∧
  (∀ (s : State) (c : Cmd), s.node.takes c 0x0207 .either 0 = true → exec (.plcStatus c) s = .next (s.on fun n =>
    (n.at c.time).completes c sOk [n.reg Reg.PLC_STATE, n.reg Reg.PLC_ADM_SEQ, n.reg Reg.PLC_DIGEST])) ∧
  (∀ (s : State) (time : Nat) (q : PlcReq) (k : Node), s.node.master = true → (s.node.at time).nextRequest = some q →
    k = { s.node.at time with plc := { s.node.plc with queue := s.node.plc.queue.erase q } } →
    (∀ reason, q.type = 1 →
      k.admitGrowth q.stream (strmOf q.entry) (k.plc.joiners.contains q.requester)
        ((k.strm q.stream).valid && (k.strm q.stream).src == (strmOf q.entry).src &&
          (k.strm q.stream).pair == (strmOf q.entry).pair && ((k.strm q.stream).state == 0 || (k.strm q.stream).state == 5)) =
        .error reason →
      exec (.placementDecision time) s = .next (s.on fun _ => k.reject q reason)) ∧
    (∀ phase placed growth, q.type = 1 →
      k.admitGrowth q.stream (strmOf q.entry) (k.plc.joiners.contains q.requester)
        ((k.strm q.stream).valid && (k.strm q.stream).src == (strmOf q.entry).src &&
          (k.strm q.stream).pair == (strmOf q.entry).pair && ((k.strm q.stream).state == 0 || (k.strm q.stream).state == 5)) =
        .ok (phase, placed, growth) →
      exec (.placementDecision time) s = .next (s.on fun _ =>
        ((k.setReg Reg.PLC_ADM_SEQ (word ((k.reg Reg.PLC_ADM_SEQ).toNat + 1))).inc Reg.PLC_ADM_CNT).admitTime.place
          q.stream 0 q.tag ((k.reg Reg.PLC_ADM_SEQ).toNat + 1) (strmOf q.entry) (phase, placed) growth)) ∧
    (q.type = 2 → (k.strm q.stream).valid = false →
      exec (.placementDecision time) s = .next (s.on fun _ => k.reject q 7)) ∧
    (q.type = 3 → exec (.placementDecision time) s = .next (s.on fun _ => k.resend q.first))) ∧
  (∀ (s : State) (time : Nat) (q : PlcReq), s.node.plc.mine = [q] → q.cycle + 8 ≤ s.node.cyc.cur → q.type ≠ 3 →
    (q.attempts < 2 → exec (.requestRetry time) s = .next (s.on fun n =>
      let q' := { q with attempts := q.attempts + 1, cycle := n.cyc.cur }
      { n.at time with plc := { n.plc with mine := [q'] } }.sendRequest q')) ∧
    (2 ≤ q.attempts → exec (.requestRetry time) s = .next (s.on fun n =>
      { n.at time with plc := { n.plc with mine := [] } }.finishWaits (fun w => w.kind == 3 && w.key == q.tag) sTimeout []))) ∧
  (∀ (s : State) (time : Nat), s.node.master = true → s.node.fld Reg.PLC_STATE Fld.PLC_STATE_STAGED = 1 →
    s.node.plc.verdicts = [] → (∀ x ∈ s.node.plc.out, x.stream ≠ 16381) → s.node.plc.verdictCyc < s.node.cyc.cur →
    s.node.cyc.request = none → (∀ w, s.node.cyc.switch = some w → w.state = 3) →
    ∃ t : State, exec (.placerSwitchRequest time) s = .next t ∧ (∃ q, t.node.cyc.request = some q ∧
      q.target = t.node.fld Reg.PLC_STATE Fld.PLC_STATE_STAGED_MODE ∧ q.earliest = 0)) ∧
  (∀ (s : State) (time : Nat), s.node.plc.censusDue = true → s.node.master = false →
    exec (.censusSend time) s = .next (s.on fun n => { n.at time with plc := { n.plc with censusDue := false } }.postMsg 16382
      [n.masterId] (n.at time).censusBytes)) ∧
  (∀ (s : State) (time : Nat), s.node.master = true → s.node.fld Reg.PLC_STATE Fld.PLC_STATE_BUSY = 1 →
    s.node.placedStreams = [] → s.node.host.waits = [] →
    ∃ t : State, exec (.replacementComputed time) s = .next t ∧ t.node.fld Reg.PLC_STATE Fld.PLC_STATE_BUSY = 0 ∧
      t.node.plc.moves = [])

/-- R364 to R366, R380 to R384: a message that is whole and new goes to the master's queue, to a waiting receive of its
stream, or waits in the order of arrival, up to 64 for a stream; a node to which a stream is not delivered only sends its
frame on (R393); a verdict is taken by every node but the master; a message sent is queued, or stored while its destination
is absent. -/
def Obligations.MessagesReachTheirReceivers : Prop :=
  (∀ (s : State) (r : Rx) (src : NumEntry), s.node.getsMsg r src = true → (decodeHdr r.frame.body).sid ≠ 16381 →
    s.node.svcRange (decodeHdr r.frame.body).sid = false →
    exec (.msgReceived r) s = .next (s.on fun n =>
      (n.gotMsg r src).takeMsg ⟨(decodeHdr r.frame.body).sid, src.identity, payloadOf r.frame.body⟩)) ∧
  (∀ (s : State) (r : Rx), s.node.hears r 0xB = true →
    (s.node.msgCarried r).takesStream (decodeHdr r.frame.body).sid = false →
    s.node.svcRange (decodeHdr r.frame.body).sid = false → exec (.msgReceived r) s = .next (s.on fun n => n.msgCarried r)) ∧
  (∀ (s : State) (r : Rx) (src : NumEntry), s.node.getsMsg r src = true → (decodeHdr r.frame.body).sid = 16381 →
    exec (.verdictReceived r) s = .next (s.on fun n =>
      if (n.gotMsg r src).master then n.gotMsg r src else (n.gotMsg r src).takeVerdict (decodeVerdict (payloadOf r.frame.body)))) ∧
  (∀ (n : Node) (m : InMsg), m.stream = 16380 → n.master = true →
    (n.takeMsg m).plc.queue = n.plc.queue ++ [decodeRequest m.bytes]) ∧
  (∀ (n : Node) (m : InMsg), n.host.waits = [] →
    ((n.plc.inbox.filter fun x => x.stream == m.stream).length < 64 → (n.deliverMsg m).plc.inbox = n.plc.inbox ++ [m]) ∧
    (64 ≤ (n.plc.inbox.filter fun x => x.stream == m.stream).length → n.deliverMsg m = n.inc Reg.PLC_MSG_DROP)) ∧
  (∀ (s : State) (c : Cmd) (e : Strm), s.node.takes c 0x0205 (s.node.strmNeed (arg c 0)) 6 = true →
    e = s.node.strm (arg c 0) →
    0 < arg c 0 → arg c 0 < 16380 → e.valid = true → e.cls = 2 → s.node.ownStream e = true → arg c 1 ≤ 16384 →
    (∀ bytes, s.node.sourceBytes c (arg c 2) (arg c 3 + arg c 4 * 2 ^ 32) (arg c 1) = some bytes →
      (s.node.absentDest e = none → exec (.streamMsgSend c) s = .next (s.on fun n =>
        ((n.at c.time).postUntil (arg c 0) ((n.destsOf n.ina.table e).map (·.identity)) bytes (max n.tm.raw c.time +
          (if arg c 5 = 0 then n.plc.expiry else arg c 5) * 1000000000)).completes c sOk [])) ∧
      (∀ d, s.node.absentDest e = some d →
        (s.node.storeRoom bytes.length = true → exec (.streamMsgSend c) s = .next (s.on fun n =>
          { n.at c.time with plc := { n.plc with store := n.plc.store ++ [StoredMsg.mk (arg c 0) d.1 d.2 bytes (max n.tm.raw c.time +
            (if arg c 5 = 0 then n.plc.expiry else arg c 5) * 1000000000)] } }.syncStore.completes c sOk [])) ∧
        (s.node.storeRoom bytes.length = false → exec (.streamMsgSend c) s = .next (s.on fun n =>
          ((n.at c.time).raise 0x3906 (arg c 0) (n.reg Reg.PLC_PART_USED).toNat).completes c sResource []))))) ∧
  (∀ (s : State) (c : Cmd), s.node.takes c 0x0206 (s.node.strmNeed (arg c 0)) 4 = true → arg c 0 < 16380 →
    (s.node.plc.inbox = [] → exec (.streamMsgRecv c) s = .next (s.on fun n =>
      (n.at c.time).waitsFor c 4 (arg c 0) [argW c 1, argW c 2, argW c 3])) ∧
    (∀ m ms, s.node.plc.inbox = m :: ms → arg c 0 = m.stream → s.node.strmSecure m.stream = false →
      m.bytes.length ≤ arg c 3 →
      exec (.streamMsgRecv c) s = .next (s.on fun n =>
        { n.at c.time with
          host := { n.host with dma := n.host.dma ++ [HostWrite.mk c.ctx (arg c 1 + arg c 2 * 2 ^ 32) m.bytes] }
          plc := { n.plc with inbox := ms } }.completes c sOk [word m.bytes.length, word m.src, word (m.src / 2 ^ 32)]))) ∧
  (∀ (s : State) (time : Nat), ∃ t : State, exec (.storedMessageExpiry time) s = .next t ∧
    t.node.plc.store = s.node.plc.store.filter fun x => !decide (x.expiry ≤ max s.node.tm.raw time))

/-- R393 and R394, for every tracker and every sequence: a copy that the tracker accepts becomes its highest sequence and is
a duplicate from then on; a copy more than 63 behind the highest, or one of the last 63 that was not seen, is stale. -/
def Obligations.ACopyIsAcceptedOnce : Prop :=
  ∀ (t : Tracker) (q age check : Nat), q < 65536 → t.high < 65536 → t.map < 2 ^ 64 →
    (t.fate q = .accept → (t.take q age check).fate q = .duplicate ∧ (t.take q age check).high = q ∧
      (t.take q age check).map < 2 ^ 64) ∧
    (t.map % 2 = 0 → t.fate q = .accept) ∧
    (t.map % 2 = 1 → seqDelta q t.high ≤ -64 → t.fate q = .stale) ∧
    (t.map % 2 = 1 → -64 < seqDelta q t.high → seqDelta q t.high ≤ 0 →
      t.fate q = if t.map.testBit (-seqDelta q t.high).toNat then .duplicate else .stale)

/-- R163, R346, R362 and R364: what a node writes on the spine it reads back: a stream table entry from its eight words, a
request and the 48 fixed bytes of a verdict from their bytes, with every field at every value of its width. -/
def Obligations.EntriesReadBackAsWritten : Prop :=
  (∀ e : Strm, e.src < 2 ^ 48 → e.cls < 4 → e.lines < 4 → e.prio < 16 → e.state < 8 → e.dkind < 256 → e.darg0 < 65536 →
    e.darg1 < 2 ^ 32 → e.k < 16 → e.phase < 1024 → e.size < 2048 → e.deadline < 2 ^ 34 → e.admSeq < 2 ^ 32 →
      e.dcount < 4096 →
    e.reason < 16 → strmOf e.words = e) ∧
  (∀ q : PlcReq, q.type = 1 → q.stream < 65536 → q.tag < 65536 → q.requester < 2 ^ 48 → q.first < 2 ^ 32 →
    q.entry.length = 8 →
    decodeRequest (requestBytes q) = { q with cycle := 0, attempts := 0 }) ∧
  (∀ v : Verdict, v.stream < 65536 → v.result < 256 → v.reason < 256 → v.admSeq < 2 ^ 32 → v.epoch < 65536 → v.tag < 65536 →
    v.entry.length = 8 → (∀ x ∈ v.slots, x.num < 4096 ∧ x.copy < 4 ∧ x.egress < 32768 ∧ x.start < 2 ^ 32) →
    decodeVerdict v.bytes = v)

/-- R272, R403, R404, R407 to R413: the holder renews its lease once in a unit, with a handover that is not acknowledged,
and is demoted without acknowledgements; a standby acknowledges renewals and takes the token when they stop; a pulse is a
renewal, an acknowledgement or a bad pulse; a partner or a path that falls silent is reported. From when the
acknowledgements of a lone holder count is the model's reading, log entry 30. -/
def Obligations.TheLeaseMovesTheToken : Prop :=
  (∀ (s : State) (time : Nat), s.node.paired = true → (s.node.atPair time).token = tkHolder → s.node.hbFitted = false →
    (s.node.atPair time).renewDue = true →
    (s.node.par.handover = none → exec (.leaseRenewSend time) s = .next (s.on fun n =>
      let m := { n.atPair time with par := { (n.atPair time).par with renewAt := some (max n.tm.raw time) } }
      (m.ctrlSend 1 (b2n (m.st == stRun) + b2n (m.st == stMute) * 2) m.unit (encBE 4 m.par.sentCyc ++ zeros 4)).setReg
        Reg.PAR_LEASE (word m.unit))) ∧
    (∀ h, s.node.par.handover = some h → s.node.par.handAcked = false → exec (.leaseRenewSend time) s = .next (s.on fun n =>
      let m := { n.atPair time with par := { (n.atPair time).par with renewAt := some (max n.tm.raw time) } }
      ((m.ctrlSend 1 (b2n (m.st == stRun) + b2n (m.st == stMute) * 2 + 4) m.unit (encBE 4 m.par.sentCyc ++ zeros 4)).setReg
        Reg.PAR_LEASE (word m.unit)).ctrlSend 5 0 m.unit (encBE 4 h ++ zeros 4)))) ∧
  (∀ (s : State) (time : Nat), (s.node.atPair time).token ≠ tkHolder ∨ (s.node.atPair time).renewDue = false →
    exec (.leaseRenewSend time) s = .next (s.on fun n => n.atPair time)) ∧
  (∀ (s : State) (r : Rx), s.node.hearsCtrl r 1 = true → (s.node.heardCtrl r).token = tkStandby →
    ∃ t : State, exec (.jalderRenewReceived r) s = .next t ∧
      ((s.node.heardCtrl r).unfit = false → t.node.fld Reg.PAR_TOKEN Fld.PAR_TOKEN_FENCED = 0) ∧
      t.node.reg Reg.PAR_LEASE = word (ctrlHdr r).unit ∧ t.node.par.lease = some (max s.node.tm.raw r.stamp) ∧
      t.node.fld Reg.PAR_PARTNER Fld.PAR_PARTNER_HOLDER = 1) ∧
  (∀ (s : State) (r : Rx), s.node.hearsCtrl r 1 = true → (s.node.heardCtrl r).token = tkHolder →
    (s.node.heardCtrl r).generation < (ctrlHdr r).gen ∨
      ((s.node.heardCtrl r).generation = (ctrlHdr r).gen ∧ (s.node.heardCtrl r).roleB = true) →
    ∃ t : State, exec (.jalderRenewReceived r) s = .next t ∧ t.node.token = tkStandby ∧
      t.node.reg Reg.PAR_TOKEN_GEN = word (ctrlHdr r).gen) ∧
  (∀ (s : State) (r : Rx), s.node.hearsCtrl r 2 = true → (s.node.heardCtrl r).token = tkHolder →
    (ctrlHdr r).unit = (s.node.heardCtrl r).unit % 2 ^ 32 →
    ∃ t : State, exec (.jalderAckReceived r) s = .next t ∧ t.node.par.lease = some (max s.node.tm.raw r.stamp) ∧
      t.node.reg Reg.PAR_REPL_CYC = word (beAt (ctrlBody r) 0 4) ∧
      t.node.fld Reg.PAR_PARTNER Fld.PAR_PARTNER_CURRENT = (ctrlHdr r).flags % 2) ∧
  (∀ (s : State) (rise high : Nat), s.node.paired = true → s.node.hbFitted = true →
    (s.node.atPair (rise + high)).token = tkStandby →
    (4000 ≤ high → high ≤ 12000 → ∃ t : State, exec (.heartbeatPulseReceived rise high) s = .next t ∧
      t.node.par.lease = some (max s.node.tm.raw (rise + high)) ∧ t.node.par.pulseAt = some rise ∧
      (s.node.unfit = false → t.node.fld Reg.PAR_TOKEN Fld.PAR_TOKEN_FENCED = 0)) ∧
    ((high < 4000 ∨ 12000 < high) → exec (.heartbeatPulseReceived rise high) s = .next (s.on fun n =>
      (n.atPair (rise + high)).inc Reg.PAR_HB_BAD))) ∧
  (∀ (s : State) (time : Nat), (s.node.atPair time).token = tkHolder → s.node.par.lease.isSome = true →
    s.node.cycled = true →
    (s.node.atPair time).quiet s.node.par.lease 2 = true →
    exec (.tokenDemoted time) s = .next (s.on fun n => (n.atPair time).demote 1 true)) ∧
  (∀ (s : State) (time : Nat), (s.node.atPair time).token = tkStandby → (s.node.atPair time).fenced = false →
    (s.node.atPair time).unfit = false → (s.node.atPair time).leaseOver = true →
    ∃ t : State, exec (.leaseTakeover time) s = .next t ∧ t.node.token = tkHolder ∧
      t.node.generation = (max s.node.par.genSeen (s.node.atPair time).generation + 1) % 2 ^ 32) ∧
  (∀ (s : State) (time : Nat), (s.node.atPair time).token = tkStandby → s.node.par.alone = true →
    (s.node.atPair time).quiet s.node.par.lease 4 = true →
    exec (.fenceReleaseTakeover time) s = .next (s.on fun n => (n.atPair time).acquire 2)) ∧
  (∀ (s : State) (time : Nat), s.node.paired = true → (s.node.atPair time).token = tkInit → s.node.contactAt = none →
    s.node.ina.table = [] →
    s.node.par.initAt + s.node.fld Reg.PAR_CFG Fld.PAR_CFG_SOLO_WAIT * 1000000000 ≤ max s.node.tm.raw time →
    exec (.soloWaitExpiry time) s = .next (s.on fun n => (n.atPair time).acquire 2)) ∧
  (∀ (s : State) (time : Nat), s.node.paired = true → s.node.par.lost = false →
    ((s.node.atPair time).token = tkHolder ∧ (s.node.atPair time).quiet s.node.contactAt 2 = true) ∨
      ((s.node.atPair time).token = tkStandby ∧ (s.node.atPair time).quiet s.node.par.lease 2 = true) →
    exec (.partnerLost time) s = .next (s.on fun n =>
      ({ n.atPair time with par := { (n.atPair time).par with lost := true } }.raise 0x4106
        ((n.contactAt.map (n.atPair time).unitAt).getD 0) 0).notice 4 12)) ∧
  (∀ (s : State) (path time : Nat) (a b : Option Nat), s.node.paired = true → s.node.hbFitted = true →
    (a, b) = (if path = 1 then (s.node.par.jlkAt, s.node.par.hbAt) else (s.node.par.hbAt, s.node.par.jlkAt)) →
    a.isSome = true → (s.node.atPair time).quiet a 2 = true → b.isSome = true → (s.node.atPair time).quiet b 2 = false →
    (path = 1 → s.node.par.lostJlk = false → exec (.pairPathLost path time) s = .next (s.on fun n =>
      { n.atPair time with par := { (n.atPair time).par with lostJlk := true } }.raise 0x4109 1 (n.atPair time).unit)) ∧
    (path ≠ 1 → s.node.par.lostHb = false → exec (.pairPathLost path time) s = .next (s.on fun n =>
      { n.atPair time with par := { (n.atPair time).par with lostHb := true } }.raise 0x4109 2 (n.atPair time).unit)))

/-- R408 to R412, R414 and R416, for every node: demotion leaves a standby and takeover a holder whose generation is above
every one seen, unless the node is unfit. R414, R415: a handover is announced by the holder, acknowledged by the standby,
executed by the one at its cycle and taken by the other one unit later; without an acknowledgement it is given up; a holder
in MUTE for 8 cycles hands over by itself. -/
def Obligations.TheTokenIsHeldByGenerationAndHandedOver : Prop :=
  (∀ (n : Node) (cause : Nat) (fence : Bool), (n.demote cause fence).token = tkStandby ∧
    (n.demote cause fence).fenced = fence ∧ (n.demote cause fence).par.pass = none ∧
      (n.demote cause fence).current = false) ∧
  (∀ (n : Node) (heard : Bool), (n.takeToken heard).token = tkHolder ∧ (n.takeToken heard).fenced = false ∧
    (n.takeToken heard).par.genSeen = max n.par.genSeen n.generation + 1 ∧
    (n.takeToken heard).generation = (max n.par.genSeen n.generation + 1) % 2 ^ 32) ∧
  (∀ (n : Node) (cause : Nat), n.unfit = true → n.acquire cause = n) ∧
  (∀ (n : Node) (cause : Nat), n.unfit = false → (n.acquire cause).token = tkHolder) ∧
  (∀ (s : State) (c : Cmd), s.node.takes c 0x0A02 (.secure instPar) 1 = true → s.node.paired = true →
    (s.node.atPair c.time).token = tkHolder → (s.node.atPair c.time).jlkContact = true →
    s.node.fld Reg.PAR_PARTNER Fld.PAR_PARTNER_CURRENT = 1 → s.node.fld Reg.PAR_PARTNER Fld.PAR_PARTNER_UNFIT = 0 →
    s.node.par.handover = none → arg c 0 = 0 →
    exec (.pairHandover c) s = .next (s.on fun n =>
      ((n.atPair c.time).startHandover ((n.atPair c.time).unit + 2) 2).waitsFor c 7 0 [])) ∧
  (∀ (s : State) (r : Rx), s.node.hearsCtrl r 5 = true → (s.node.heardCtrl r).token = tkStandby →
    (s.node.heardCtrl r).unfit = false →
    ∃ t : State, exec (.jalderHandoverReceived r) s = .next t ∧
      t.node.par.handTake = some (extend32 (s.node.heardCtrl r).unit (beAt (ctrlBody r) 0 4))) ∧
  (∀ (s : State) (r : Rx) (h : Nat), s.node.hearsCtrl r 6 = true → (s.node.heardCtrl r).token = tkHolder →
    (s.node.heardCtrl r).par.handover = some h → beAt (ctrlBody r) 0 4 = h % 2 ^ 32 →
      (s.node.heardCtrl r).par.handAcked = false →
    exec (.jalderHandoverAckReceived r) s = .next (s.on fun n =>
      ({ n.heardCtrl r with par := { (n.heardCtrl r).par with handAcked := true } }.finishWaits (fun w => w.kind == 7) sOk []).syncPair)) ∧
  (∀ (s : State) (time h : Nat), s.node.par.handover = some h → s.node.par.handAcked = true →
    (s.node.atPair time).token = tkHolder → h ≤ (s.node.atPair time).unit →
    ∃ t : State, exec (.handoverExecute time) s = .next t ∧ t.node.token = tkStandby ∧ t.node.par.handover = none) ∧
  (∀ (s : State) (time h : Nat), s.node.par.handTake = some h → (s.node.atPair time).token = tkStandby →
    h + 1 ≤ (s.node.atPair time).unit →
    exec (.handoverTake time) s = .next (s.on fun n => (n.atPair time).acquire 3)) ∧
  (∀ (s : State) (time h : Nat), s.node.par.handover = some h → s.node.par.handAcked = false →
    h ≤ (s.node.atPair time).unit + 1 →
    exec (.handoverTimeout time) s = .next (s.on fun n =>
      ({ n.atPair time with par := { n.par with handover := none } }.finishWaits (fun w => w.kind == 7) sTimeout []).syncPair)) ∧
  (∀ (s : State) (time : Nat), s.node.paired = true → (s.node.atPair time).token = tkHolder → 8 ≤ s.node.par.muteRun →
    s.node.par.handover = none → s.node.fld Reg.PAR_PARTNER Fld.PAR_PARTNER_CURRENT = 1 →
    s.node.fld Reg.PAR_PARTNER Fld.PAR_PARTNER_RUN = 1 → s.node.fld Reg.PAR_PARTNER Fld.PAR_PARTNER_UNFIT = 0 →
    exec (.muteHandover time) s = .next (s.on fun n => (n.atPair time).startHandover ((n.atPair time).unit + 2) 4))

/-- R421 to R429, R433: the holder's copy of a cycle, once in its replication phase, its records held by the standby,
applied all at once when the copy end agrees and discarded when it does not; a full pass is asked for and started; the
commands of the pair. -/
def Obligations.TheStateIsCopied : Prop :=
  (∀ (s : State) (time : Nat), s.node.paired = true → (s.node.atPair time).token = tkHolder → s.node.cycled = true →
    (s.node.replPhase.1 : Int) ≤ (s.node.at time).trainNs % (s.node.tc : Int) →
    (s.node.at time).trainNs % (s.node.tc : Int) < s.node.replPhase.2 → 0 < s.node.tc →
    ((s.node.atPair time).linkUp 12 = false ∨ (s.node.atPair time).unfit = true) →
    exec (.stateCopySend time) s = .next (s.on fun n => (n.atPair time).setFld Reg.PAR_REPL_STAT Fld.PAR_REPL_STAT_STOPPED 1)) ∧
  (∀ (s : State) (time : Nat), s.node.paired = true → (s.node.atPair time).token = tkHolder → s.node.cycled = true →
    (s.node.replPhase.1 : Int) ≤ (s.node.at time).trainNs % (s.node.tc : Int) →
    (s.node.at time).trainNs % (s.node.tc : Int) < s.node.replPhase.2 → 0 < s.node.tc →
    (s.node.atPair time).linkUp 12 = true → (s.node.atPair time).unfit = false →
    s.node.par.snapCyc = s.node.cyc.cur → s.node.par.sentCyc ≠ s.node.par.snapCyc →
    ∃ t : State, exec (.stateCopySend time) s = .next t ∧ t.node.par.sentCyc = s.node.par.snapCyc) ∧
  (∀ (s : State) (time : Nat), s.node.paired = false ∨ (s.node.atPair time).token ≠ tkHolder ∨ s.node.cycled = false →
    exec (.stateCopySend time) s = .next (s.on fun n => n.atPair time)) ∧
  (∀ (s : State) (r : Rx), s.node.hearsCtrl r 3 = true → (s.node.heardCtrl r).token = tkStandby →
    (s.node.heardCtrl r).unfit = false →
    ∃ t : State, exec (.jalderCopyReceived r) s = .next t ∧ t.node.par.buffer = (s.node.heardCtrl r).par.buffer ++
      (List.range ((ctrlBody r).length / 68)).map fun i =>
        (beAt (ctrlBody r) (68 * i) 4 % 16384, slice (ctrlBody r) (68 * i + 4) 64)) ∧
  (∀ (s : State) (r : Rx), s.node.hearsCtrl r 4 = true → (s.node.heardCtrl r).token = tkStandby →
    (s.node.heardCtrl r).unfit = false →
    let n := s.node.heardCtrl r
    let body := n.par.buffer.flatMap recordBytes
    let m := n.chkCopyReceived body (beAt (ctrlBody r) 4 4)
    ((ctrlHdr r).flags % 2 = 1 → exec (.jalderCopyEndReceived r) s = .next (s.on fun _ => n.discardCopy.syncPair)) ∧
    ((ctrlHdr r).flags % 2 = 0 →
      ((beAt (ctrlBody r) 0 4 ≠ m.par.buffer.length ∨ beAt (ctrlBody r) 4 4 ≠ crc32c body) →
        exec (.jalderCopyEndReceived r) s = .next (s.on fun _ => (m.discardCopy.inc Reg.PAR_REPL_CHK).syncPair)) ∧
      (beAt (ctrlBody r) 0 4 = m.par.buffer.length → beAt (ctrlBody r) 4 4 = crc32c body →
        exec (.jalderCopyEndReceived r) s = .next (s.on fun _ =>
          (m.applyCopy (extend32 m.cyc.cur (beAt (ctrlBody r) 8 4)) (ctrlHdr r).flags).syncPair)))) ∧
  (∀ (n : Node), n.discardCopy.par.buffer = [] ∧ n.discardCopy.current = false) ∧
  (∀ (s : State) (time : Nat), (s.node.atPair time).token = tkStandby → s.node.par.resync = 1 →
    exec (.resyncRequestSend time) s = .next (s.on fun n => (n.atPair time).ctrlSend 7 0 (n.atPair time).unit (zeros 8))) ∧
  (∀ (s : State) (r : Rx), s.node.hearsCtrl r 7 = true → (s.node.heardCtrl r).token = tkHolder →
    (s.node.heardCtrl r).par.pass = none →
    exec (.jalderResyncReceived r) s = .next (s.on fun n => (n.heardCtrl r).startPass.syncPair)) ∧
  (∀ (s : State) (c : Cmd), s.node.takes c 0x0A01 .either 0 = true → s.node.paired = true →
    exec (.pairStatus c) s = .next (s.on fun n =>
    let k := n.atPair c.time
    k.completes c sOk [k.reg Reg.PAR_TOKEN, k.reg Reg.PAR_PARTNER, k.reg Reg.PAR_REPL_STAT, k.reg Reg.PAR_REPL_CYC])) ∧
  (∀ (s : State) (c : Cmd), s.node.takes c 0x0A03 (.secure instPar) 0 = true → s.node.paired = true →
    (s.node.atPair c.time).token = tkHolder → (s.node.atPair c.time).jlkContact = true →
    exec (.pairResync c) s = .next (s.on fun n => (n.atPair c.time).startPass.completes c sOk [])) ∧
  (∀ (s : State) (c : Cmd), s.node.takes c 0x0A04 (.secure instPar) 1 = true → 1 ≤ arg c 0 → arg c 0 ≤ 16379 →
    exec (.pairTrkReset c) s = .next (s.on fun n => ((n.at c.time).emptyTracker (arg c 0)).completes c sOk []))

/-- R443 to R450, R474: the inputs of a produced dataset are sampled once at its sample instant; the node, the host, a
command or car equipment completes its buffer, and what is completed is what the next take sends. R451 to R454, R457, R458,
R474: at its decision point a consumed dataset decides on its fresh copy, or misses; at its output instant it presents what
it decided and drives its outputs; a read of the window pins the view, a command reads it, and car equipment is sent it. The
header of an instance that never had a copy is a free value, log entry 32. -/
def Obligations.DatasetsAreCompletedDecidedAndPresented : Prop :=
  (∀ (s : State) (stream time i : Nat) (d : Dataset), s.node.dsIndex stream = some i → s.node.dsAt i = some d →
    s.node.instants = true → d.consumed = false →
    (∀ c, (s.node.at time).dueCyc (s.node.strm stream) (s.node.sampleOff (s.node.strm stream) d) = some c →
      (d.sampledCyc ≠ some c → exec (.sampleInstant stream time) s = .next (s.on fun n =>
        ((n.at time).onDs i fun d' => { d' with
          sampled := d.maps.map fun x => (x.1, n.lineActive x.1), sampledCyc := some c }).boundPulses i false)) ∧
      (d.sampledCyc = some c → exec (.sampleInstant stream time) s = .next (s.on fun n => n.at time))) ∧
    (∀ c, (s.node.at time).dueCyc (s.node.strm stream) (s.node.sampleOff (s.node.strm stream) d + 1000) = some c →
      d.source = 2 → d.doneCyc ≠ some c → exec (.discreteBufferComplete stream time) s = .next (s.on fun n =>
        ((n.at time).onDs i fun d' => { d' with doneCyc := some c }).complete stream (slice (n.txOf stream).write 0 d.len) 0#32))) ∧
  (∀ (n : Node) (stream : Nat) (data : List Byte) (check : Word),
    ((n.complete stream data check).txOf stream).latest = data ∧ ((n.complete stream data check).txOf stream).write = data ∧
    ((n.complete stream data check).txOf stream).fresh = true ∧ ((n.complete stream data check).txOf stream).check = check) ∧
  (∀ (s : State) (ctx i : Nat) (v : Word) (d : Dataset), i < 512 → s.node.admits ctx (Reg.PDT_DS_DONE i) true = true →
    s.node.dsAt i = some d → d.consumed = false → d.source = 0 →
    exec (.pdtDsDoneWrite ctx i v) s = .next (s.on fun n =>
      (n.answer 0#32).complete d.stream (slice (n.txOf d.stream).write 0 d.len) v)) ∧
  (∀ (s : State) (c : Cmd) (d : Dataset), s.node.takes c 0x0403 (.inst instPdt) 5 = true →
    (s.node.pd.sets.find? fun d => d.stream == arg c 0) = some d → d.consumed = false → d.source = 0 → arg c 1 = d.len →
      c.ctx < 4 →
    exec (.pdWrite c) s = .next (s.on fun n =>
      ((n.at c.time).complete d.stream (slice c.data 0 d.len) (argW c 4)).completes c sOk [])) ∧
  (∀ (s : State) (r : Rx) (d : Dataset), ((s.node.meets r).rxFail r).isNone = true → 4 ≤ r.port → r.port < 12 →
    (s.node.heard r).carKind r.port = 0 → r.frame.etype = (s.node.heard r).carType → d ∈ (s.node.heard r).pd.sets →
    d.consumed = false → d.source = 1 → d.ports.testBit (carPort r.port) = true →
    ((s.node.heard r).pd.sets.find? fun d => d.stream == beAt r.frame.body 4 2 && !d.consumed && d.source == 1) = some d →
    frameCells r.frame ≤ r.room →
    (beAt r.frame.body 24 2 = d.len → 40 + d.len ≤ r.frame.body.length →
      exec (.carInputFrameReceived r) s = .next (s.on fun n =>
        (n.heard r).complete d.stream (slice r.frame.body 40 d.len) (word (beAt r.frame.body 36 4)))) ∧
    (beAt r.frame.body 24 2 ≠ d.len →
      exec (.carInputFrameReceived r) s = .next (s.on fun n => (n.heard r).inc Reg.PDT_CAR_DROP))) ∧
  (∀ (s : State) (stream time i : Nat) (d : Dataset), s.node.dsIndex stream = some i → s.node.dsAt i = some d →
    s.node.instants = true → d.consumed = true →
    (∀ c, (s.node.at time).dueCyc (s.node.strm stream) (s.node.decideOff d) = some c → d.decidedCyc ≠ some c →
      exec (.decisionPoint stream time) s = .next (s.on fun n => ((n.at time).dsDecide i d c).stationBits stream))) ∧
  (∀ (n : Node) (i : Nat) (d : Dataset) (c : DsCopy), n.dsAt i = some d → d.fresh = some c →
    (d.limit = 0 ∨ c.age ≤ d.limit) → c.age < 65536 →
    ∃ (d' : Dataset) (v : DsView), (n.dsDecide i d c.cyc).dsAt i = some d' ∧ d'.decided = some v ∧ v.data = c.data ∧
      v.header = c.header ∧
      v.status.testBit 16 = true ∧ v.status.testBit 17 = false ∧ d'.misses = 0 ∧ d'.decidedCyc = some c.cyc) ∧
  (∀ (n : Node) (i cyc : Nat) (d : Dataset), n.dsAt i = some d → d.fresh = none →
    ∃ d' : Dataset, (n.dsDecide i d cyc).dsAt i = some d' ∧ d'.decidedCyc = some cyc ∧ d'.misses = d.misses + 1 ∧
      d'.age = min (d.age + 1) 0xFFFF ∧
      (d.last = none → ∃ v, d'.decided = some v ∧ v.data = d.safeData)) ∧
  (∀ (s : State) (stream time i c : Nat) (d : Dataset), s.node.dsIndex stream = some i → s.node.dsAt i = some d →
    s.node.instants = true → (s.node.at time).dueCyc (s.node.strm stream) (d.omega : Int) = some c →
    (d.outCyc = some c → exec (.outputInstant stream time) s = .next (s.on fun n => n.at time)) ∧
    (d.outCyc ≠ some c → d.decided = none → exec (.outputInstant stream time) s = .next (s.on fun n =>
      ((n.at time).onDs i fun d' => { d' with outCyc := some c }).boundPulses i true)) ∧
    (∀ v, d.outCyc ≠ some c → d.decided = some v → v.status.testBit 17 = false → d.late = false → d.pins = [] →
      exec (.outputInstant stream time) s = .next (s.on fun n =>
        let d' := { d with shown := v, decided := none, outCyc := some c }
        ((((n.at time).onDs i fun _ => d').setReg (Reg.PDT_DS_STAT i) (word v.status)).latchMaps d').boundPulses i true))) ∧
  (∀ (s : State) (stream port time i : Nat) (d : Dataset) (m : Node), m = (s.node.at time).decisionPoint stream →
    m.dsIndex stream = some i → m.dsAt i = some d →
    m.instants = true → d.consumed = true → 4 ≤ port → port < 12 → d.ports.testBit (carPort port) = true →
    m.bits (Reg.TMB_CARTIME_CFG (carPort port)) 0 2 ≠ 0 → m.paired = false →
    ((m.carStart stream port).any fun t => m.atOffset t) = true →
    exec (.carDeliverySend stream port time) s = .next (s.on fun _ =>
      let v := d.decided.getD d.shown
      let body := encBE 4 v.status ++ (slice v.header 0 16 ++
        encBE 4 (sword (m.outputAt d (m.instanceCyc (m.strm stream)))).toNat ++
        slice v.header 20 16) ++ v.data
      m.sendGated port 6 { dst := d.dst, src := m.identity, tag := some ⟨d.tci / 8192 % 8, 0, d.tci % 4096⟩, etype := m.carType,
                           body := body ++ zeros (42 - body.length) })) ∧
  (∀ (s : State) (ctx i : Nat) (d : Dataset), i < 512 → s.node.admits ctx (Reg.PDT_BUF i) false = true →
    s.node.dsAt i = some d →
    d.consumed = true → exec (.pdtBufStatusRead ctx i) s = .next (s.on fun n =>
      ((n.answer 0#32).onDs i fun d => { d with pins := d.pins.filter (fun p => p.1 != ctx) ++ [(ctx, d.shown, 0)] }).answer
        (word d.shown.status))) ∧
  (∀ (s : State) (c : Cmd) (d : Dataset), s.node.takes c 0x0404 (.inst instPdt) 4 = true →
    (s.node.pd.sets.find? fun d => d.stream == arg c 0) = some d → d.consumed = true → c.ctx < 4 → arg c 3 = d.len →
    exec (.pdRead c) s = .next (s.on fun n =>
      { n.at c.time with host := { n.host with dma := n.host.dma ++
        [HostWrite.mk c.ctx (arg c 1 + arg c 2 * 2 ^ 32) (slice d.shown.data 0 d.len)] } }.completes c sOk
        [word d.shown.status, word (beAt d.shown.header 4 4)])) ∧
  (∀ (s : State) (c : Cmd), s.node.takes c 0x0401 (.inst instPdt) 0 = true → exec (.pdStatus c) s = .next (s.on fun n =>
    (n.at c.time).completes c sOk [n.reg Reg.PDT_STAT, n.reg Reg.PDT_MISS_CNT, n.reg Reg.PDT_SAFE_CNT])) ∧
  (∀ (s : State) (c : Cmd) (i : Nat), s.node.takes c 0x0402 (.inst instPdt) 1 = true → s.node.dsIndex (arg c 0) = some i →
    exec (.pdInfo c) s = .next (s.on fun n => (n.at c.time).completes c sOk (n.getRegs (Reg.PDT_DS_CFG i) 8)))

/-- R462 to R471, R474: an edge of an input changes its level, is counted and queued; a line too long active is stuck, a
storm ends when the edges are few; hosts drive the outputs they own; a readback that differs is reported once. That a line
driven to a new level is taken to read back right until it fails is the model's choice, log entry 33. -/
def Obligations.DiscreteLinesAct : Prop :=
  (∀ (s : State) (line time : Nat) (level : Bool), line < 32 → s.node.fld (Reg.DIO_LN_CFG line) Fld.DIO_LN_CFG_DIR = 0 →
    s.node.lineLevel line ≠ level → (∀ x ∈ s.node.aud.stations, x.line ≠ line ∧ x.answer ≠ line) →
    ∃ t : State, exec (.lineEdge line level time) s = .next t ∧ t.node.lineLevel line = level ∧
      t.node.reg (Reg.DIO_LN_EDGES line) = word (min ((s.node.reg (Reg.DIO_LN_EDGES line)).toNat + 1) 0xFFFFFFFF)) ∧
  (∀ (s : State) (line time : Nat) (level : Bool), (36 ≤ line ∨ s.node.fld (Reg.DIO_LN_CFG line) Fld.DIO_LN_CFG_DIR = 1) →
    exec (.lineEdge line level time) s = .next (s.on fun n => n.at time)) ∧
  (∀ (n : Node) (l : Nat) (active : Bool) (stamp : Word), n.pd.edgeOvf = false →
    (n.pd.edges.length < 256 → (n.edgePush l active stamp).pd.edges = n.pd.edges ++ [⟨l, active, false, 0, stamp⟩]) ∧
    (256 ≤ n.pd.edges.length → (n.edgePush l active stamp).pd.edges = n.pd.edges ∧
      (n.edgePush l active stamp).pd.edgeOvf = true ∧ (n.edgePush l active stamp).pd.edgeLost = n.pd.edgeLost + 1)) ∧
  (∀ (s : State) (line time : Nat), line < 32 → 0 < s.node.bits (Reg.DIO_LN_STUCK_T line) 0 10 →
    s.node.lineActive line = true →
    s.node.lineStuck line = false → s.node.fld (Reg.DIO_LN_CFG line) Fld.DIO_LN_CFG_DIR = 0 →
    (s.node.line line).activeAt + s.node.bits (Reg.DIO_LN_STUCK_T line) 0 10 * 1000000000 ≤ max s.node.tm.raw time →
    exec (.lineStuck line time) s = .next (s.on fun n => ((n.at time).setStuck line true).raise 0x4910 line
      (n.bits (Reg.DIO_LN_STUCK_T line) 0 10))) ∧
  (∀ (s : State) (i time : Nat), i < 4 → 0 < s.node.bits (Reg.DIO_LN_STUCK_T (32 + i)) 0 10 →
    s.node.lineActive (32 + i) = true →
    s.node.lineStuck (32 + i) = false → s.node.fld (Reg.DIO_LN_CFG (32 + i)) Fld.DIO_LN_CFG_DIR = 0 →
    (s.node.line (32 + i)).activeAt + s.node.bits (Reg.DIO_LN_STUCK_T (32 + i)) 0 10 * 1000000000 ≤ max s.node.tm.raw time →
    exec (.wakeStuck i time) s = .next (s.on fun n => ((n.at time).setStuck (32 + i) true).raise 0x8101 (32 + i - 32)
      (n.bits (Reg.DIO_LN_STUCK_T (32 + i)) 0 10))) ∧
  (∀ (s : State) (line time : Nat), line < 36 → s.node.lineStorm line = true →
    (((s.node.at time).line line).upTo ((s.node.at time).subNow line - 1)).total ≤ s.node.stormN line / 2 →
    ∃ t : State, exec (.stormEnded line time) s = .next t ∧ t.node.lineStorm line = false) ∧
  (∀ (s : State) (ctx : Nat) (v : Word), s.node.admits ctx Reg.DIO_OUT_SET true = true →
    exec (.dioOutSetWrite ctx v) s = .next (s.on fun n => (n.answer 0#32).hostDrive v true)) ∧
  (∀ (s : State) (ctx : Nat) (v : Word), s.node.admits ctx Reg.DIO_OUT_CLR true = true →
    exec (.dioOutClrWrite ctx v) s = .next (s.on fun n => (n.answer 0#32).hostDrive v false)) ∧
  (∀ (s : State) (line time : Nat) (level : Bool), (s.node.pd.driven.find? fun x => x.1 == line &&
      decide ((s.node.line line).drivenAt + 12000 ≤ max s.node.tm.raw time)) = some (line, level) →
    (s.node.line line).readbackBad = false → exec (.dlReadbackFail line time) s = .next (s.on fun n =>
      (((n.at time).setBit Reg.DIO_RB line !level).onLineState line fun y => { y with readbackBad := true }).raise 0x4A05 line
        (b2n level))) ∧
  (∀ (s : State) (c : Cmd), s.node.takes c 0x0405 (.inst instDio) 2 = true → arg c 0 < 32 → arg c 1 < 2 →
    s.node.fld (Reg.DIO_LN_CFG (arg c 0)) Fld.DIO_LN_CFG_DIR ≠ 0 →
      s.node.fld (Reg.DIO_LN_CFG (arg c 0)) Fld.DIO_LN_CFG_OWNER ≠ 1 →
    exec (.dioSet c) s = .next (s.on fun n =>
      (((n.at c.time).drive (arg c 0) (arg c 1 == 1)).syncDrivers).completes c sOk [])) ∧
  (∀ (s : State) (c : Cmd), s.node.takes c 0x0406 (.inst instDio) 0 = true → exec (.dioStatus c) s = .next (s.on fun n =>
    (n.at c.time).completes c sOk [n.reg Reg.DIO_IN, n.reg Reg.DIO_OUT, n.reg Reg.DIO_STUCK, n.reg Reg.DIO_STORM]))

/-- R499 to R508, R521: a PA command sends its message and completes with its tag and start; a node that holds a zone of the
message holds the request, starts it at its start sample and ends it at its stop or its end; a stop names a request that is
known. -/
def Obligations.AnnouncementsAreMadeAndPlayed : Prop :=
  (∀ (s : State) (c : Cmd) (start : Nat), paFieldsOk c = true → s.node.st = stRun →
    (s.node.at c.time).startOf (arg c 3 % 256) (arg c 4) (arg c 5) = some start →
    (∀ e, s.node.takesService c 0x0502 7 = true → s.node.libEntry (arg c 0) = some e →
      exec (.paPlay c) s = .next (s.on fun n =>
      ((n.at c.time).paMade (n.paMessage c 1 e.id e.crc start)).completes c sOk
        [word n.aud.nextTag, word start, word (start / 2 ^ 32)])) ∧
    (∀ e, s.node.takesService c 0x0503 7 = true → e = s.node.strm (arg c 0) → 0 < arg c 0 → arg c 0 < 16380 →
      e.valid = true →
      e.cls = 1 → s.node.ownStream e = true → (e.state = 2 ∨ e.state = 3 ∨ e.state = 4) →
      exec (.paLive c) s = .next (s.on fun n =>
        ((n.at c.time).paMade (n.paMessage c 2 (arg c 0) 0 start)).completes c sOk
          [word n.aud.nextTag, word start, word (start / 2 ^ 32)])) ∧
    (s.node.takesService c 0x0504 7 = true → (s.node.aud.chimes.any fun x => x.index == arg c 0) = true →
      exec (.paChime c) s = .next (s.on fun n =>
      ((n.at c.time).paMade (n.paMessage c 3 (arg c 0) 0 start)).completes c sOk
        [word n.aud.nextTag, word start, word (start / 2 ^ 32)]))) ∧
  (∀ (s : State) (c : Cmd) (stop : Nat), s.node.takesService c 0x0505 6 = true → arg c 1 = 0 → arg c 2 = 0 →
    (s.node.at c.time).startOf (arg c 3) (arg c 4) (arg c 5) = some stop → s.node.aud.issued.contains (arg c 0) = true →
    exec (.paStop c) s = .next (s.on fun n =>
      let b := paBytes 4 0 0 false 0 n.identity (arg c 0) 0 0 0 n.epoch stop 0 0 0 0
      let k : Node := { n.at c.time with aud := { n.aud with issued := n.aud.issued.filter (· != arg c 0) } }
      ((k.svcSend b).paTake b).completes c sOk [word stop, word (stop / 2 ^ 32)])) ∧
  (∀ (s : State) (r : Rx) (src : NumEntry), s.node.getsMsg r src = true →
    s.node.svcRange (decodeHdr r.frame.body).sid = true →
    exec (.paMessageReceived r) s = .next (s.on fun n =>
      (n.gotMsg r src).serviceMsg ⟨(decodeHdr r.frame.body).sid, src.identity, payloadOf r.frame.body⟩)) ∧
  (∀ (n : Node) (b : List Byte) (p : Nat), 1 ≤ byteAt b 0 → byteAt b 0 ≤ 3 →
    (n.aud.reqs.any fun q => q.is (beAt b 4 6) (beAt b 10 2)) = false →
    (n.zonesHeld.filter fun z => (beAt b 12 2).testBit z) ≠ [] → n.posIn (beAt b 18 2) = some p →
    beAt b 14 2 % 1024 ≤ p → p ≤ beAt b 16 2 % 1024 → n.sampleNow + 8 ≤ beAt b 20 8 →
    ∃ q : PaReq, (n.paTake b).aud.reqs = n.aud.reqs ++ [q] ∧ q.requester = beAt b 4 6 ∧ q.tag = beAt b 10 2 ∧
      q.start = beAt b 20 8 ∧ q.started = false ∧ q.stop = none) ∧
  (∀ (s : State) (who tag time : Nat) (q : PaReq), (s.node.aud.reqs.find? fun q => q.is who tag) = some q →
    (q.started = false → q.start ≤ (s.node.at time).sampleNow → s.node.engFailed 1 = false →
      exec (.paStartSample who tag time) s = .next (s.on fun n => (n.at time).reqStart q 0)) ∧
    (∀ stop, q.stop = some stop → stop ≤ (s.node.at time).sampleNow →
      (q.started = true → ∀ e, (s.node.at time).reqFin q = some e → (s.node.at time).sampleNow < e) →
      exec (.announcementEnded who tag time) s = .next (s.on fun n => (n.at time).reqEnd q 2)) ∧
    (∀ e, q.stop = none → q.started = true → (s.node.at time).reqFin q = some e → e ≤ (s.node.at time).sampleNow →
      exec (.announcementEnded who tag time) s = .next (s.on fun n => (n.at time).reqEnd q 1)) ∧
    (q.stop = none → (s.node.at time).reqFin q = none →
      exec (.announcementEnded who tag time) s = .next (s.on fun n => n.at time)))

/-- R483, R488 to R491, R495, R496, R509, R510, R521: an instance of audio is played or counted as a gap; parameters wait
for their sample; the library is written, verified and shown; AAF is taken on its port and sent in its slot; faults of the
engines and clocks are counted. -/
def Obligations.AudioStreamsAndTheLibraryAct : Prop :=
  (∀ (s : State) (stream time cyc : Nat) (e : Strm), e = s.node.strmLive stream → e.valid = true → e.cls = 1 →
    s.node.isDest e = true →
    (s.node.at time).audioDue e = some cyc → (s.node.audioIn stream).decided ≠ some cyc →
    ((s.node.audioIn stream).got = none → exec (.audioInstanceDecision stream time) s = .next (s.on fun n =>
      ((((n.at time).putAudioIn { n.audioIn stream with decided := some cyc, silent := true }).inc Reg.AUD_GAP_CNT).raiseCounted
        0x5105 stream n.tc stream))) ∧
    (∀ p, (s.node.audioIn stream).got = some (cyc, p) → byteAt p 1 = b2n s.node.aud.global.rate16 →
      exec (.audioInstanceDecision stream time) s = .next (s.on fun n =>
        (n.at time).putAudioIn { n.audioIn stream with
          decided := some cyc, silent := false, playAt := some (beAt p 4 8 + (n.at time).playDelay e) }))) ∧
  (∀ (s : State) (stream time : Nat), (s.node.at time).audioDue (s.node.strmLive stream) = none ∨
      (s.node.at time).audioDue (s.node.strmLive stream) = (s.node.audioIn stream).decided →
    exec (.audioInstanceDecision stream time) s = .next (s.on fun n => n.at time)) ∧
  (∀ (s : State) (engine time : Nat), engine < 8 → exec (.graphOverload engine time) s = .next (s.on fun n =>
    let k := (n.at time).inc (Reg.AUD_SE_MISS engine)
    k.raise 0x520E engine (k.reg (Reg.AUD_SE_MISS engine)).toNat)) ∧
  (∀ (s : State) (port time : Nat), port < 4 → s.node.bit Reg.AUD_CFG (4 + port) = true →
    s.node.fld (Reg.AUD_TDM_CFG port) Fld.AUD_TDM_CFG_MASTER = 0 → exec (.tdmClockFault port time) s = .next (s.on fun n =>
      ((n.at time).inc (Reg.AUD_TDM_SLIP port)).raiseCounted 0x510D port n.tc port)) ∧
  (∀ (s : State) (c : Cmd) (x : Element) (width : Nat) (lo hi : Int) (ps : List (Nat × Nat × Int × Int)),
    s.node.takesService c 0x0506 6 = true →
    (s.node.aud.elements.find? fun x => x.graph == arg c 0 % 256 && x.elem == arg c 0 / 256 % 256) = some x →
    elementParams x.type = some ps → (ps.find? fun p => p.1 == arg c 1) = some (arg c 1, width, lo, hi) → 0 ≤ lo →
    arg c 0 < 65536 → arg c 3 = 1 → arg c 2 = leAt (encLE 4 (arg c 2)) 0 width →
    paramOk x.type (arg c 1) width lo hi (encLE 4 (arg c 2)) = true →
    exec (.audParamSet c) s = .next (s.on fun n =>
      { n.at c.time with aud := { n.aud with params := n.aud.params ++ [ParamSet.mk (arg c 0 % 256) (arg c 0 / 256 % 256) (arg c 1)
        width (arg c 2) (arg c 4 + arg c 5 * 2 ^ 32)] } }.completes c sOk [])) ∧
  (∀ (s : State) (time : Nat) (p : ParamSet), s.node.aud.params = [p] →
    (s.node.at time).blockFrom p.sample ≤ (s.node.at time).sampleNow →
    ∃ t : State, exec (.paramApply time) s = .next t ∧ t.node.aud.params = [] ∧ t.node.aud.elements =
      s.node.aud.elements.map fun e => if e.graph == p.graph && e.elem == p.elem then e.put p.offset p.width p.value else e) ∧
  (∀ (s : State) (c : Cmd) (e : LibEntry) (bytes : List Byte), s.node.takesService c 0x0507 6 = true →
    s.node.libEntry (arg c 0) = some e →
    arg c 1 + arg c 2 ≤ e.len → s.node.sourceBytes c (arg c 3) (arg c 4 + arg c 5 * 2 ^ 32) (arg c 2) = some bytes →
    ∃ full : Nat, exec (.audLibWrite c) s = .next (s.on fun n =>
      let a := (n.region 1).1 + e.offset + arg c 1
      (((n.at c.time).dramWrite a bytes).libTouched a bytes.length).completes c sOk [word full])) ∧
  (∀ (s : State) (entry time : Nat) (e : LibEntry), s.node.libEntry entry = some e → e.unverified = true →
    crc32c (s.node.dramRead ((s.node.region 1).1 + e.offset) e.len) = e.crc →
    ∃ t : State, exec (.libraryVerify entry time) s = .next t ∧
      ∃ x, t.node.libEntry entry = some x ∧ x.valid = true ∧ x.unverified = false) ∧
  (∀ (s : State) (c : Cmd) (e : LibEntry), s.node.takesService c 0x0508 1 = true → s.node.libEntry (arg c 0) = some e →
    exec (.audLibInfo c) s = .next (s.on fun n => (n.at c.time).completes c sOk
      [word (e.id + e.format * 65536 + e.rate * 2 ^ 24), word e.samples, word e.len, word e.crc, word e.gain,
       word (b2n e.valid + b2n e.unverified * 2)])) ∧
  (∀ (s : State) (c : Cmd), s.node.takes c 0x0501 (.inst instAud) 0 = true → s.node.bit Reg.TOP_PD_STATE 4 = true →
    exec (.audStatus c) s = .next (s.on fun n =>
      let k := (n.at c.time).audRefresh
      k.completes c sOk [k.reg Reg.AUD_STAT, k.reg Reg.AUD_PA_ACTIVE, k.reg Reg.AUD_CALLS, k.reg Reg.AUD_SAMPLE_LO,
        k.reg Reg.AUD_SAMPLE_HI])) ∧
  (∀ (s : State) (r : Rx) (f : AafStream), ((s.node.meets r).rxFail r).isNone = true →
    ((s.node.heard r).aud.aafs.find? fun f => !f.output && f.port + 4 == r.port && f.talker == beAt r.frame.body 4 8) = some f →
    r.frame.etype = aafType → frameCells r.frame ≤ r.room →
    ((s.node.heard r).aafBad r.frame.body = true →
      exec (.aafPduReceived r) s = .next (s.on fun n => (n.heard r).inc Reg.AUD_AAF_DROP)) ∧
    ((s.node.heard r).aafBad r.frame.body = false →
      (∀ d : Int, d = (BitVec.ofInt 32 ((beAt r.frame.body 12 4 : Int) - (s.node.heard r).trainNs)).toInt →
        -(2 * ((s.node.heard r).tc : Int)) ≤ d → d ≤ 16 * ((s.node.heard r).tc : Int) →
        ∃ t : State, exec (.aafPduReceived r) s = .next t ∧ ∃ x ∈ t.node.aud.aafs, x.index = f.index ∧
          x.placed.map (·.2) = some ((r.frame.body.drop 24).take (beAt r.frame.body 20 2))))) ∧
  (∀ (s : State) (index time : Nat) (f : AafStream), (s.node.aud.aafs.find? fun f => f.output && f.index == index) = some f →
    s.node.instants = true → s.node.carSends (f.port + 4) = true → (s.node.at time).timeService (f.port + 4) ≠ 0 →
    (f.sentCyc ≠ some (s.node.at time).cycleNow → f.seq < 256 → ∃ t : State, exec (.aafPduSend index time) s = .next t ∧
      (t.node.aud.aafs.find? fun f => f.output && f.index == index).map (fun x => (x.seq, x.sentCyc)) =
        some ((f.seq + (aafParts (s.node.tc * s.node.fs / 1000000000) (s.node.fs / 1000)).length) % 256,
          some (s.node.at time).cycleNow)) ∧
    (f.sentCyc = some (s.node.at time).cycleNow → exec (.aafPduSend index time) s = .next (s.on fun n => n.at time)))

/-- R511 to R518, R521: a call message is taken by every node; a station repeats its request, a call that rings too long
escalates, and the commands answer, hold and end it; a block of a call is recorded, and its slots are protected and found. -/
def Obligations.CallsAreHandled : Prop :=
  (∀ (s : State) (r : Rx) (src : NumEntry), s.node.getsMsg r src = true →
    s.node.svcRange (decodeHdr r.frame.body).sid = true →
    exec (.callMessageReceived r) s = .next (s.on fun n =>
      (n.gotMsg r src).serviceMsg ⟨(decodeHdr r.frame.body).sid, src.identity, payloadOf r.frame.body⟩)) ∧
  (∀ (s : State) (station time : Nat) (c : Call), (s.node.aud.mine.find? fun c => c.station == station && c.state == 1 &&
      decide (c.since + 1000000000 ≤ max s.node.tm.raw time)) = some c →
    s.node.holder = true → s.node.servicesOn = true →
    exec (.callRequestRepeat station time) s = .next (s.on fun n =>
      ((n.at time).onMine c fun x => { x with since := max n.tm.raw time }).callSend c 8 0)) ∧
  (∀ (s : State) (pair station counter time : Nat) (c : Call),
    (s.node.aud.calls.find? fun c => c.is pair station counter && c.state == 2 && !c.esc &&
      decide (c.since + s.node.aud.global.escalation * 1000000000 ≤ max s.node.tm.raw time)) = some c →
        s.node.holder = true →
    s.node.servicesOn = true → exec (.callEscalated pair station counter time) s = .next (s.on fun n =>
      ((((n.at time).onCall c fun x => { x with esc := true }).raise 0x510A c.pair c.detail).svcSend
        ({ c with esc := true }.bytes 8 0)).syncCalls)) ∧
  (∀ (s : State) (station time : Nat) (r : Recording), (s.node.aud.recordings.find? fun r => r.station == station) = some r →
    r.fin = none → r.next + s.node.fs / 4 ≤ (s.node.at time).sampleNow → s.node.holder = false →
      ∃ t : State, exec (.recordingBlockWrite station time) s = .next t ∧
      t.node.aud.recordings = s.node.aud.recordings.map fun x =>
        if x.pair == r.pair && x.station == r.station && x.counter == r.counter then
          { x with next := x.next + s.node.fs / 4, block := x.block + 1 } else x) ∧
  (∀ (s : State) (station time slot : Nat) (r : Recording),
    (s.node.aud.recordings.find? fun r => r.station == station) = some r →
    r.fin = none → r.next + s.node.fs / 4 ≤ (s.node.at time).sampleNow → s.node.holder = true → s.node.nextRec = some slot →
    ∃ t : State, exec (.recordingBlockWrite station time) s = .next t ∧
      (∃ x ∈ t.node.aud.slots, x.slot = slot ∧ x.pair = r.pair ∧ x.block = r.block ∧ x.prot = false) ∧
      t.node.fld Reg.AUD_STAT Fld.AUD_STAT_REC_FULL = 0) ∧
  (∀ (s : State) (c : Cmd), s.node.takes c 0x0601 (.inst instAud) 1 = true → s.node.bit Reg.TOP_PD_STATE 4 = true →
    arg c 0 < 16 →
    exec (.callStatus c) s = .next (s.on fun n => (n.at c.time).completes c sOk (n.getRegs (Reg.AUD_CALL_STAT (arg c 0)) 5))) ∧
  (∀ (s : State) (c : Cmd) (x : Call), s.node.takesService c 0x0602 3 = true →
    (s.node.aud.stations.any fun x => x.cab && x.index == arg c 2) = true → s.node.isCab = true → s.node.holder = true →
    arg c 0 = 0 → s.node.oldestRinging = some x →
    exec (.callAnswer c) s = .next (s.on fun n => ((n.at c.time).answer_ x (arg c 2)).completes c sOk [])) ∧
  (∀ (s : State) (c : Cmd) (x : Call), s.node.holder = true →
    (s.node.takesService c 0x0603 2 = true → (s.node.aud.calls.find? fun x => handleIs c x && x.state == 3) = some x →
      exec (.callHold c) s = .next (s.on fun n => ((n.at c.time).callSend x 10 0).completes c sOk [])) ∧
    (s.node.takesService c 0x0604 2 = true → s.node.aud.calls.find? (handleIs c) = some x →
      exec (.callEnd c) s = .next (s.on fun n => ((n.at c.time).callSend x 11 1).completes c sOk [])) ∧
    (s.node.takesService c 0x0604 2 = true → s.node.aud.calls.find? (handleIs c) = none →
      s.node.aud.mine.find? (handleIs c) = some x →
      exec (.callEnd c) s = .next (s.on fun n => ((n.at c.time).callSend x 11 2).completes c sOk []))) ∧
  (∀ (s : State) (c : Cmd), s.node.takesService c 0x0605 1 = true → arg c 0 = 0 →
    exec (.callCabSet c) s = .next (s.on fun n =>
    ({ n.at c.time with aud := { n.aud with cabSet := 0 } }.cabChanged).completes c sOk [])) ∧
  (∀ (s : State) (c : Cmd), s.node.takesService c 0x0606 3 = true → s.node.recOfCall c ≠ [] → arg c 2 = 1 →
    ∃ k : Node, exec (.callRecProtect c) s = .next (s.on fun _ => k.completes c sOk [word (s.node.recOfCall c).length]) ∧
      k.aud.slots = s.node.aud.slots.map fun x => if (s.node.recOfCall c).contains x then { x with prot := true } else x) ∧
  (∀ (s : State) (c : Cmd) (x : RecSlot), s.node.takesService c 0x0607 2 = true → s.node.recOfCall c = [x] →
    exec (.callRecFind c) s = .next (s.on fun n => (n.at c.time).completes c sOk [word x.slot, word 1]))

/-- R531, R536 to R541, R547 to R557, R564: frames received and sent, lost arbitration, errors, integration, recovery,
dominance, timed release and lock expiry, for a controller that takes part in its bus. -/
def Obligations.FramesCrossTheCanBus : Prop :=
  (∀ (s : State) (c sof time : Nat) (f : CanFrame), s.node.canLive c = true → (s.node.ctl c).loop ≠ 1 →
    ((f.fdf = false ∨ s.node.canFd c = true) → exec (.canFrameReceived c f sof time) s = .next (s.on fun n =>
      ((((((n.at time).canRxGood c).add64 (Reg.CAN_RX_FRM_LO c) 1).canStore c f sof Node.bridgeCan).syncCan c).loopIdle c))) ∧
    (f.fdf = true → s.node.canFd c = false →
      exec (.canFrameReceived c f sof time) s = .next (s.on fun n => (n.at time).canRxError c 1))) ∧
  (∀ (n : Node) (c f : Nat) (e : List Word), c < n.can.length → f < (n.ctl c).fifos.length →
    ((n.ctl c).fifos.getD f []).length < 64 →
    (((n.fifoStore c f e).ctl c).fifos.getD f []) = (n.ctl c).fifos.getD f [] ++ [e]) ∧
  (∀ (s : State) (c i sof time : Nat) (obj : Bool) (e : TxEntry), (s.node.at time).outranked c obj i sof = false →
    (s.node.at time).attempted c obj i = some e → (s.node.ctl c).loop = 0 →
    exec (.canFrameSent c i obj sof time) s = .next (s.on fun n =>
      let m := (n.at time).busFree c
      ((((m.setErr c (m.tec c - 1) (m.rec_ c)).canCheck c).add64 (Reg.CAN_TX_FRM_LO c) 1).leave c obj i
        { e with attempts := e.attempts + 1 } (if e.cancel then 3 else 1) (m.stampAt sof)).loopIdle c)) ∧
  (∀ (s : State) (c i time : Nat) (obj : Bool) (e : TxEntry), (s.node.at time).attempted c obj i = some e →
    exec (.canArbitrationLost c i obj time) s = .next (s.on fun n =>
      if e.cancel then (((n.at time).inc (Reg.CAN_ARB_LOST c)).busFree c).leave c obj i { e with attempts := e.attempts + 1 } 2 0#32
      else (((n.at time).inc (Reg.CAN_ARB_LOST c)).busFree c).retry c obj i { e with attempts := e.attempts + 1 }) ∧
    (e.cancel = false → exec (.canTxError c i obj false true time) s = .next (s.on fun n =>
      ((((((n.at time).inc (Reg.CAN_ERR_FRM c)).setErr c (n.tec c + 8) (n.rec_ c)).canCheck c).busFree c).canClash c i obj
        { e with attempts := e.attempts + 1, clash := 0 }).loopIdle c))) ∧
  (∀ (s : State) (c rise time : Nat), s.node.canLive c = true →
    exec (.canRxError c rise time) s = .next (s.on fun n => (n.at time).canRxError c rise)) ∧
  (∀ (s : State) (c time : Nat), s.node.canOn c = true →
    (s.node.bit Reg.PCR_PLL_STAT 5 = true → (s.node.ctl c).integ = true →
      exec (.busIntegrationComplete c time) s = .next (s.on fun n =>
        Node.objOffer 129 (((n.at time).onCtl c fun x => { x with integ := false }).canCheck c) c)) ∧
    ((s.node.ctl c).off = true → (s.node.ctl c).recovering = true → (s.node.ctl c).dom = false →
      exec (.busRecovered c time) s = .next (s.on fun n =>
        let k := ((n.at time).onCtl c fun x => { x with off := false, recovering := false, passive := false }).setErr c 0 0
        Node.objOffer 129 (((k.setFld (Reg.CAN_CTRL c) Fld.CAN_CTRL_RECOVER 0).canNote 0x5806 c c).showCan c) c)) ∧
    ((s.node.ctl c).dom = false → (s.node.ctl c).loop ≠ 1 → exec (.dominantTimeout c time) s = .next (s.on fun n =>
      (((n.at time).onCtl c fun x => { x with dom := true, integ := false }).raise 0x5A03 c (n.reg (Reg.CAN_ERR c)).toNat).showCan c)) ∧
    ((s.node.ctl c).dom = true → exec (.dominantReleased c time) s = .next (s.on fun n =>
      Node.objOffer 129 ((((n.at time).onCtl c fun x => { x with dom := false }).canNote 0x580B c c).canCheck c) c)) ∧
    (∀ q, q < 4 → exec (.timedEntryRelease c q time) s = .next (s.on fun n => (n.at time).canNext c q))) ∧
  (∀ (s : State) (c kind i time : Nat) (l : CanLock), s.node.canLock c kind i = some l →
    l.since + 1000000 ≤ max s.node.tm.raw time →
    exec (.lockTimeout c kind i time) s = .next (s.on fun n =>
      ((((n.at time).unlockCan c kind i).inc (Reg.CAN_LOCK_TO_CNT c)).canNote2 0x5904 c (c + kind * 256 + i * 65536) l.ctx).syncCan c))

/-- R535, R538 to R549, R555, R559, R561, R563: a write of the last word of the window pushes what the owner has written;
writes cancel, request and fill objects and control the controller; the first word locks an entry and the last one releases
it; the CAN commands act. -/
def Obligations.CanRegistersAndCommandsAct : Prop :=
  (∀ (s : State) (ctx c q : Nat) (v : Word), c < 4 → q < 4 → s.node.admits ctx (Reg.CAN_TXQ_WIN c q + 80) true = true →
    s.node.canCompat c = false → s.node.queueOwner c q = some ctx → (s.node.txq c q).length < 64 →
    exec (.canTxqPush ctx c q v) s = .next (s.on fun n =>
      ((n.answer 0#32).onCtl c fun x => { x with window := modifyAt x.window q fun _ => List.replicate 20 0#32 }).canPush c q
        ((n.ctl c).window.getD q []))) ∧
  (∀ (s : State) (ctx c : Nat) (v : Word) (onBus : Bool), c < 4 → s.node.admits ctx (Reg.CAN_TX_CANCEL c) true = true →
    exec (.canTxCancelWrite ctx c v onBus) s = .next (s.on fun n =>
      ((n.answer 0#32).cancelQueued c (v.toNat / 65536 % 4) (v.toNat % 65536) onBus).1)) ∧
  (∀ (s : State) (ctx c w : Nat) (v : Word) (onBus : Option Nat), c < 4 → w < 4 →
    (s.node.admits ctx (Reg.CAN_OBJ_CANCEL c w) true = true →
      exec (.canObjCancelWrite ctx c w v onBus) s = .next (s.on fun n =>
      (n.answer 0#32).cancelObjects c w v onBus)) ∧
    (s.node.admits ctx (Reg.CAN_OBJ_TXREQ c w) true = true → exec (.canObjTxreqWrite ctx c w v) s = .next (s.on fun n =>
      (n.answer 0#32).txreq c w v))) ∧
  (∀ (s : State) (ctx c o i : Nat) (v : Word), c < 4 → o < 128 → i < 20 →
    s.node.admits ctx (Reg.CAN_OBJ c o + 4 * i) true = true →
    s.node.canCompat c = true → s.node.objFlag c o 4 = false → s.node.canLock c 1 o = none →
    exec (.canObjectWrite ctx c o i v) s = .next (s.on fun n => (n.answer 0#32).setReg (Reg.CAN_OBJ c o + 4 * i)
      (if i = 0 then v &&& 0x7FFFFFFF#32 else if i = 1 then v &&& 0xFFFF03FF#32 else v))) ∧
  (∀ (s : State) (ctx c kind i time : Nat), canNamed c kind i = true →
    (s.node.admits ctx (canEntryAddr c kind i) false = true → s.node.canEntry c kind i = true →
      s.node.canLock c kind i = none →
      c < s.node.can.length → ∃ t : State, exec (.canEntryLockRead ctx c kind i time) s = .next t ∧
        t.node.canLock c kind i = some ⟨kind, i, ctx, max s.node.tm.raw time⟩ ∧
        t.node.host.readData = s.node.reg (canEntryAddr c kind i)) ∧
    (s.node.admits ctx (canEntryAddr c kind i + canLastOff kind) false = true → s.node.canEntry c kind i = true →
      (∀ l, s.node.canLock c kind i = some l → l.ctx = ctx) →
      exec (.canEntryReleaseRead ctx c kind i) s = .next (s.on fun n =>
        ((((n.answer 0#32).takeEntry c kind i).unlockCan c kind i).syncCan c).answer
          (n.reg (canEntryAddr c kind i + canLastOff kind))))) ∧
  (∀ (s : State) (ctx c : Nat) (v : Word) (busy : Bool), c < 4 → s.node.admits ctx (Reg.CAN_CTRL c) true = true →
    exec (.canCtrlLoopWrite ctx c v busy) s = .next (s.on fun n => (n.answer 0#32).canCtrlWrite c v busy) ∧
    exec (.canCtrlHaltWrite ctx c v busy) s = .next (s.on fun n => (n.answer 0#32).canCtrlWrite c v busy) ∧
    exec (.canCtrlRecoverWrite ctx c v busy) s = .next (s.on fun n => (n.answer 0#32).canCtrlWrite c v busy)) ∧
  (∀ (s : State) (c : Cmd), arg c 0 < 4 →
    (s.node.takes c 0x0701 (.inst (instCan (arg c 0 % 4))) 1 = true → exec (.canStatus c) s = .next (s.on fun n =>
      let k := (n.at c.time).canStat (arg c 0)
      k.1.completes c sOk [k.2, k.1.reg (Reg.CAN_ERR (arg c 0)), k.1.reg (Reg.CAN_LAST_CLASH (arg c 0))])) ∧
    (s.node.takes c 0x0704 (.inst (instCan (arg c 0 % 4))) 1 = true → (s.node.ctl (arg c 0)).off = true →
      exec (.canRecover c) s = .next (s.on fun n => ((n.at c.time).canRecover (arg c 0)).completes c sOk [])) ∧
    (∀ onBus, s.node.takes c 0x0705 (.inst (instCan (arg c 0 % 4))) 1 = true →
      exec (.canFlush c onBus) s = .next (s.on fun n =>
      ((n.at c.time).canFlush (arg c 0) 0 onBus).1.completes c sOk [word ((n.at c.time).canFlush (arg c 0) 0 onBus).2]))) ∧
  (∀ (s : State) (c : Cmd), s.node.takes c 0x0702 (.inst (instCan (arg c 0 % 4))) 8 = true → arg c 0 < 4 → c.ctx < 4 →
    s.node.canCompat (arg c 0) = false → s.node.queueOwner (arg c 0) 0 = some c.ctx →
    arg c 7 = dlcLen (arg c 2 % 16) ((arg c 2).testBit 4) →
    ((s.node.txq (arg c 0) 0).length < 64 → exec (.canSend c) s = .next (s.on fun n =>
      ((n.at c.time).canPush (arg c 0) 0 ([argW c 1, argW c 2, argW c 3, argW c 4] ++
        wordsLE (slice (slice c.data 0 (arg c 7)) 0 64) 16)).completes c sOk [word (arg c 2 / 65536)])) ∧
    (64 ≤ (s.node.txq (arg c 0) 0).length →
      exec (.canSend c) s = .next (s.on fun n => (n.at c.time).completes c sResource []))) ∧
  (∀ (s : State) (c : Cmd) (onBus : Bool), s.node.takes c 0x0703 (.inst (instCan (arg c 0 % 4))) 2 = true → arg c 0 < 4 →
    arg c 1 < 65536 →
    (∀ k, (s.node.at c.time).cancelQueued (arg c 0) 0 (arg c 1) onBus = (k, some true) →
      exec (.canCancel c onBus) s = .next (s.on fun _ => k.completes c sOk [2#32])) ∧
    (∀ k, (s.node.at c.time).cancelQueued (arg c 0) 0 (arg c 1) onBus = (k, some false) →
      exec (.canCancel c onBus) s = .next (s.on fun _ => k.waitsFor c 8 (arg c 0) [word 0, argW c 1]))) ∧
  (∀ (s : State) (c : Cmd) (busy : Bool), s.node.takes c 0x0706 (.inst (instCan (arg c 0 % 4))) 2 = true → arg c 0 < 4 →
    arg c 1 ≤ 3 →
    exec (.canLoop c busy) s = .next (s.on fun n =>
      ((n.at c.time).canCtrlWrite (arg c 0) (word (withBits (n.bits (Reg.CAN_CTRL (arg c 0)) 0 3) 0 2 (arg c 1))) busy).completes
        c sOk []))

/-- R569 to R573, R577, R583, R585, R592 to R595: a tunnel frame is closed and replayed; requests to this node are queued,
performed in order and answered; holds, leases, reads and blocks end when their time has passed; targets are polled. -/
def Obligations.TheBridgeCarriesAndPerforms : Prop :=
  (∀ (s : State) (stream c time : Nat) (x : TunOut),
    (s.node.brg.tunOut.find? fun t => t.stream == stream && t.ctl == c) = some x →
    frameRecords 73 0 x.records = x.records → x.records ≠ [] → s.node.ps2 = true → s.node.holder = true →
    (s.node.at time).tunDue x x.records = true → s.node.paired = false →
    ∃ t : State, exec (.tunFrameClose stream c time) s = .next t ∧
      (t.node.brg.tunOut.find? fun t => t.stream == stream && t.ctl == c) = none ∧
      (t.node.brg.seqs.find? fun y => y.1 == stream).map (·.2) =
        some ((((s.node.brg.seqs.find? fun y => y.1 == stream).map (·.2)).getD 0 + 1) % 65536)) ∧
  (∀ (s : State) (r : Rx), s.node.hears r 0x7 = true →
    let h := decodeHdr r.frame.body
    let m := (s.node.heard r).relay r ((s.node.heard r).rxLine r h) ((s.node.heard r).leadsTo ((s.node.heard r).strmDests h.sid))
    ((m.strmLive h.sid).valid = false → exec (.tunReceived r) s = .next (s.on fun _ => m)) ∧
    ((m.strmLive h.sid).valid = true → m.isDest (m.strmLive h.sid) = true → m.ps2 = true → m.tunLate h.sid h.seq = false →
      (m.track h.sid h.seq h.age h.check h.ci).2 = true →
      exec (.tunReceived r) s = .next (s.on fun _ => ((m.track h.sid h.seq h.age h.check h.ci).1.chkPass 4 h.sid h.seq
        (payloadOf r.frame.body)).tunAccept h.sid h.seq (recordsOf (byteAt (payloadOf r.frame.body) 1) ((payloadOf r.frame.body).drop 8))))) ∧
  (∀ (s : State) (time : Nat), (∀ t ∈ s.node.brg.tunIn, t.held = []) → (∀ x ∈ s.node.brg.own, x.held = []) →
    exec (.reorderHoldExpiry time) s = .next (s.on fun n => n.at time)) ∧
  (∀ (s : State) (time : Nat) (t : TunIn), s.node.brg.tunIn = [t] → s.node.brg.own = [] →
    (t.held.any fun h => decide (h.since + s.node.bits Reg.BRG_HOLD 0 10 * 1000 ≤ max s.node.tm.raw time)) = true →
    exec (.reorderHoldExpiry time) s = .next (s.on fun n =>
      ((n.at time).tunGap t).brg.own.foldl (fun k x => if x.held.any fun q =>
        decide (q.since + n.bits Reg.BRG_HOLD 0 10 * 1000 ≤ (n.at time).tm.raw) then k.ownGap x else k) ((n.at time).tunGap t))) ∧
  (∀ (s : State) (r : Rx), s.node.hears r 0x8 = true →
    (exec (.rwinReceived r 0) s = .next (s.on fun n =>
      (n.heard r).forwardJoined r ((n.heard r).rxLine r (decodeHdr r.frame.body)))) ∧
    (∀ x, (s.node.heard r).ps2 = true →
      ((s.node.heard r).brg.own.find? fun x => x.requester == beAt (payloadOf r.frame.body) 16 6) = some x →
      x.session = beAt (payloadOf r.frame.body) 6 2 → exec (.rwinReceived r 1) s = .next (s.on fun n =>
        let h := decodeHdr r.frame.body
        (n.heard r).ownTake x ⟨beAt (payloadOf r.frame.body) 16 6, (((n.heard r).nodeIn h.epoch h.src).map (·.num)).getD 0,
          h.seq, false,
          payloadOf r.frame.body, (n.heard r).tm.raw⟩))) ∧
  (∀ (s : State) (time : Nat) (q : OwnReq) (rest : List OwnReq), s.node.brg.queue = q :: rest → s.node.ps2 = true →
    let m : Node := { s.node.at time with brg := { s.node.brg with queue := rest } }
    (m.farReason q = 0 → q.op = 2 → exec (.remoteAccessPerformed time) s = .next (s.on fun _ => (m.perform q).1)) ∧
    (m.farReason q = 0 → q.op = 1 → (m.perform q).1.answers q = true →
      exec (.remoteAccessPerformed time) s = .next (s.on fun _ => (m.perform q).1.rwinRsp q.requester 1 0 q.tag
        ((m.perform q).1.winAttrs q.window) q.window q.session q.seq (m.perform q).2)) ∧
    (∀ reason, m.farReason q = reason → reason ≠ 0 → q.op = 2 → (m.farRefuse q reason).answers q = true →
      exec (.remoteAccessPerformed time) s = .next (s.on fun _ => (m.farRefuse q reason).rwinRsp q.requester 2 reason q.tag
        ((m.farRefuse q reason).winAttrs q.window) q.window q.session q.seq []))) ∧
  (∀ (s : State) (bar time : Nat) (b : PfBlock), (s.node.brg.blocks.find? fun b => b.bar == bar) = some b →
    b.since + s.node.tc ≤ max s.node.tm.raw time →
    exec (.prefetchBlockExpiry bar time) s = .next (s.on fun n => (n.at time).dropBlock b)) ∧
  (∀ (s : State) (sem time : Nat), sem < 64 → s.node.semState sem = 2 →
    ((s.node.brg.semSent.find? fun x => x.1 == sem).map (·.2)).getD 0 + 10000000 ≤ max s.node.tm.raw time →
    ∃ t : State, exec (.semLeaseExpired sem time) s = .next t ∧ t.node.semState sem = 0) ∧
  (∀ (s : State) (w time : Nat), w < 16 → s.node.winLocked w = true →
    ((s.node.brg.winLease.find? fun x => x.1 == w).map (·.2)).getD 0 + 10000000 ≤ max s.node.tm.raw time →
    ∃ t : State, exec (.windowLockLeaseExpiry w time) s = .next t ∧ t.node.winLocked w = false) ∧
  (∀ (s : State) (time : Nat), 0 < (s.node.reg Reg.BRG_POLL).toNat % 256 →
    s.node.cyc.cur % ((s.node.reg Reg.BRG_POLL).toNat % 256) = 0 → s.node.ps2 = true → s.node.st = stRun →
    s.node.brg.pollCyc ≠ some s.node.cyc.cur → (∀ i < 64, s.node.slotValid i = false) →
    exec (.summaryPoll time) s = .next (s.on fun n => { n.at time with brg := { n.brg with polled := [], pollCyc := some n.cyc.cur } }.syncBrg))

/-- R578 to R589, R597: accesses through BAR2 and the bridge commands at the requesting node: a slot of another function
refuses, a size the bridge lacks is an error, a read leaves and is outstanding until its response or its timeout, a write is
posted, and a semaphore is asked for and freed. -/
def Obligations.RemoteAccessesAreRequested : Prop :=
  (∀ (s : State) (fn off len time : Nat), fn < 4 →
    (s.node.slotOk fn off = false → exec (.bar2ReadTlp fn off len time) s = .next (s.on fun n =>
      ((n.at time).refuse fn false 3 2 off instBrg).cpl fn off false (zeros len))) ∧
    (s.node.slotOk fn off = true → sizeCode len = none → exec (.bar2ReadTlp fn off len time) s = .next (s.on fun n =>
      ((n.at time).cpl fn off true []).sizeErr off len)) ∧
    (s.node.slotOk fn off = true → (sizeCode len).isSome = true → off % len = 0 →
      exec (.bar2ReadTlp fn off len time) s = .next (s.on fun n => (n.at time).barRead fn off len))) ∧
  (∀ (s : State) (fn off time : Nat) (bytes : List Byte), fn < 4 → s.node.slotOk fn off = true →
    (sizeCode bytes.length).isSome = true →
    off % bytes.length = 0 → exec (.bar2WriteTlp fn off bytes time) s = .next (s.on fun n =>
      let i := off / 2 ^ 22
      ((((n.at time).invalidate (n.slotTgt i) (n.slotWindow i) (n.slotBase i + off % 2 ^ 22) bytes.length).remoteWrite fn i
        (n.slotWindow i) (n.slotBase i + off % 2 ^ 22) (n.slotTgt i) bytes).1))) ∧
  (∀ (s : State) (r : Rx) (src : NumEntry) (t : BrgTgt) (x : BrgRead), s.node.hears r 0x9 = true →
    let pl := payloadOf r.frame.body
    let g := (s.node.heard r).showAttrs t (byteAt pl 5 % 16) (byteAt pl 4)
    (s.node.heard r).nodeIn (decodeHdr r.frame.body).epoch (decodeHdr r.frame.body).src = some src →
    (s.node.heard r).respTgt src (beAt pl 6 2) = some t → byteAt pl 0 = 1 →
    (g.brg.reads.find? fun x => x.kind != 2 && x.tag == beAt pl 2 2 && x.tgt == t) = some x →
    exec (.rwinRspReceived r true) s = .next (s.on fun _ =>
      g.readResponse x (byteAt pl 1) (byteAt pl 4) (slice pl 16 (beAt pl 10 2)))) ∧
  (∀ (s : State) (tag time : Nat) (x : BrgRead), (s.node.brg.reads.find? fun r => r.tag == tag) = some x → x.kind = 1 →
    x.since + max 100 (min 100000 (s.node.reg Reg.BRG_RD_TIMEOUT).toNat) * 1000 ≤ max s.node.tm.raw time →
    exec (.readTimeout tag time) s = .next (s.on fun n =>
      (((((n.at time).endRead tag true).inc Reg.BRG_RD_TO).raiseCounted 0x6106 (if x.bar < 2 ^ 28 then x.slot else 64) n.tc x.bar).finishWaits
        (fun w => w.kind == 10 && w.key == tag) sTimeout []).readDone x.slot)) ∧
  (∀ (s : State) (c : Cmd), s.node.takes c 0x0801 (.inst instBrg) 0 = true → exec (.bridgeStatus c) s = .next (s.on fun n =>
    ((n.at c.time).syncBrg).completes c sOk [(n.at c.time).syncBrg.reg Reg.BRG_STAT,
      (n.at c.time).syncBrg.reg Reg.BRG_PWE_STAT])) ∧
  (∀ (s : State) (c : Cmd), s.node.takes c 0x0802 (.inst instBrg) 5 = true → c.ctx < 4 → arg c 0 < 64 → arg c 2 < 2 ^ 17 →
    arg c 3 ≤ 15 →
    arg c 4 ≤ 1023 →
    (s.node.slotValid (arg c 0) = true → s.node.slotCtx (arg c 0) ≠ c.ctx →
      exec (.bridgeMap c) s = .next (s.on fun n => (n.at c.time).completes c sBusy [])) ∧
    (s.node.slotValid (arg c 0) = false → exec (.bridgeMap c) s = .next (s.on fun n =>
      (((n.at c.time).unmapSlot (arg c 0)).setRegs (Reg.BRG_AP_CTRL (arg c 0))
        [word (1 + b2n (tgtOf (arg c 1) (arg c 2)).pair * 2 + c.ctx * 16 + arg c 3 * 256 + arg c 4 * 65536), argW c 1,
         word (if (tgtOf (arg c 1) (arg c 2)).pair then 0 else arg c 2 % 65536), 0#32, 0#32]).completes c sOk []))) ∧
  (∀ (s : State) (c : Cmd), arg c 0 < 64 →
    (s.node.takes c 0x0803 (.inst instBrg) 1 = true → s.node.slotValid (arg c 0) = true → s.node.slotCtx (arg c 0) = c.ctx →
      s.node.brg.reads = [] →
      exec (.bridgeUnmap c) s = .next (s.on fun n => ((n.at c.time).unmapSlot (arg c 0)).completes c sOk [])) ∧
    (s.node.takes c 0x0807 (.inst instBrg) 1 = true → s.node.semState (arg c 0) = 2 → s.node.semCtx (arg c 0) = c.ctx →
      exec (.bridgeUnlock c) s = .next (s.on fun n => ((n.at c.time).semUnlock (arg c 0)).completes c sOk []))) ∧
  (∀ (s : State) (c : Cmd) (t : BrgTgt), s.node.takes c 0x0804 (.inst instBrg) 6 = true → t = tgtOf (arg c 0) (arg c 1) →
    Node.farArgsBad c = false → s.node.ps2 = true →
    (s.node.tgtNodes t = [] → exec (.bridgeRead c) s = .next (s.on fun n =>
      ((n.at c.time).readFail 0xFFFFFFFF 4).completes c sFar [4#32])) ∧
    (s.node.tgtNodes t ≠ [] → s.node.readCount < 32 → exec (.bridgeRead c) s = .next (s.on fun n =>
      (((n.at c.time).nextReadTag.1).issueRead ⟨n.brg.nextTag, 1, c.ctx, 64, 0xFFFFFFFF, 2 ^ arg c 5, false, t, arg c 2,
        arg c 3 + arg c 4 * 2 ^ 32, 0⟩ 1 (arg c 5) n.brg.nextTag).waitsFor c 10 n.brg.nextTag []))) ∧
  (∀ (s : State) (c : Cmd), s.node.takes c 0x0805 (.inst instBrg) 8 = true → Node.farArgsBad c = false → s.node.ps2 = true →
    exec (.bridgeWrite c) s = .next (s.on fun n =>
      let data := (encLE 4 (arg c 6) ++ encLE 4 (arg c 7)).take (2 ^ arg c 5)
      let k := ((n.at c.time).invalidate (tgtOf (arg c 0) (arg c 1)) (arg c 2) (arg c 3 + arg c 4 * 2 ^ 32) data.length).remoteWrite
        c.ctx 63 (arg c 2) (arg c 3 + arg c 4 * 2 ^ 32) (tgtOf (arg c 0) (arg c 1)) data
      k.1.completes c sOk [word k.2])) ∧
  (∀ (s : State) (c : Cmd), s.node.takes c 0x0806 (.inst instBrg) 2 = true → arg c 0 < 64 → arg c 1 < 64 →
    s.node.slotValid (arg c 1) = true →
    s.node.slotCtx (arg c 1) = c.ctx → s.node.ps2 = true → s.node.semState (arg c 0) = 0 →
    s.node.tgtNodes (s.node.slotTgt (arg c 1)) ≠ [] →
    exec (.bridgeLock c) s = .next (s.on fun n =>
      (((n.at c.time).setReg (Reg.BRG_SEM_CFG (arg c 0)) (word (arg c 1 + 1 * 256 + c.ctx * 4096))).issueRead
        ⟨arg c 0, 2, c.ctx, arg c 1, 0xFFFFFFFF, 0, false, n.slotTgt (arg c 1), n.slotWindow (arg c 1),
          n.slotBase (arg c 1), 0⟩ 3 0
        (arg c 0)).waitsFor c 11 (arg c 0) []))

/-- R605 to R613: `GO` on an idle context starts its job, on a busy one is only flagged, and with a wrong configuration ends
at once; the end of a job gives the check value of its data and its result; contexts 28 to 31 take no write. -/
def Obligations.CheckJobsRunAndEnd : Prop :=
  (∀ (s : State) (ctx c : Nat) (v : Word), c < 28 → s.node.admits ctx (Reg.CHK_CTX_CTRL c) true = true →
    exec (.chkGoWrite ctx c v) s = .next (s.on fun n => (n.answer 0#32).chkCtrl ctx c v) ∧
    exec (.chkStopWrite ctx c v) s = .next (s.on fun n => (n.answer 0#32).chkCtrl ctx c v)) ∧
  (∀ (s : State) (ctx c : Nat) (v : Word), 28 ≤ c → c < 32 → s.node.admits ctx (Reg.CHK_CTX_CTRL c) true = true →
    exec (.chkGoWrite ctx c v) s = .next (s.on fun n => n.answer 0#32)) ∧
  (∀ (n : Node) (ctx c : Nat) (v : Word), v.toNat % 4 = 1 →
    (n.chkBusy c = true → n.chkCtrl ctx c v = n.setBit (Reg.CHK_CTX_STAT c) 8 true) ∧
    (n.chkBusy c = false → ∀ e, (n.setReg (Reg.CHK_CTX_STAT c) 0#32).chkBad c = some e →
      n.chkCtrl ctx c v = (n.setReg (Reg.CHK_CTX_STAT c) 0#32).chkEnd c 0 e)) ∧
  (∀ (n : Node) (ctx c : Nat) (v : Word), v.toNat % 4 = 2 → n.chkBusy c = true → n.chkCfg c Fld.CHK_CTX_CFG_FEED ≠ 0 →
    (n.chkCtx c).blocks = [] → n.chkCtrl ctx c v = n.chkEnd c (n.chkStat c Fld.CHK_CTX_STAT_RESULT) 0) ∧
  (∀ (s : State) (ctx c : Nat) (v : Word), c < 28 → s.node.admits ctx (Reg.CHK_CTX_RUN c) true = true →
    (s.node.chkBusy c = true →
      exec (.chkRunWrite ctx c v) s = .next (s.on fun n => (n.answer 0#32).setBit (Reg.CHK_CTX_STAT c) 8 true)) ∧
    (s.node.chkBusy c = false →
      exec (.chkRunWrite ctx c v) s = .next (s.on fun n => (n.answer 0#32).setReg (Reg.CHK_CTX_RUN c) v))) ∧
  (∀ (s : State) (c time : Nat) (j : ChkJob), c < 28 → s.node.chkBusy c = true → (s.node.chkCtx c).job = some j →
    exec (.checkJobDone c none time) s = .next (s.on fun n => (n.at time).chkJobEnd c j none)) ∧
  (∀ (n : Node) (c start stream : Nat) (data : List Byte), c < 28 → n.injMatch 7 c = false → n.chkOp c = 0 →
    (n.chkApply c start stream data).1.reg (Reg.CHK_CTX_RESULT c) = word (crcResult (n.chkAlg c) (crcFeed (n.chkAlg c) start data)) ∧
    (n.chkApply c start stream data).1.reg (Reg.CHK_CTX_RUN c) = word (crcFeed (n.chkAlg c) start data) ∧
    (n.chkApply c start stream data).2 = 0)

/-- R680 to R692, R694, R695, R698 and R700: loops of a target start, take effect, end and time out, at this end and at the
far one; a lane runs and checks PRBS; a BIST is asked for; a fault is armed and disarmed; the test commands are turned away
where they would disturb. R696 and R697: every instruction of the boundary-scan port selects its register and says whether
the pins follow it: IDCODE, the bypass and the boundary register, whose captured bits are free. R98: the codes that reach an
engine of the open world are private, and open to a port with debug access alone. The register contents of CLAMP, HIGHZ and
BYPASS are presumed from IEEE 1149.1, log entry 63. -/
def Obligations.TestsRunAndEnd : Prop :=
  (∀ (s : State) (c : Cmd), s.node.takes c 0x0C01 (.inst instTst) 0 = true → exec (.testStatus c) s = .next (s.on fun n =>
    (n.at c.time).completes c sOk [n.reg Reg.TST_STAT, n.reg Reg.TST_BIST_DONE, n.reg Reg.TST_BIST_FAIL,
      n.reg Reg.TST_INJ_LEFT])) ∧
  (∀ (s : State) (c : Cmd), s.node.takes c 0x0C02 (.inst instTst) 4 = true → arg c 0 < 13 → arg c 1 ≤ 3 →
    arg c 2 ≤ 3600000 → arg c 3 = 0 →
    (s.node.inService (arg c 0) = true → exec (.testLoop c) s = .next (s.on fun n => (n.at c.time).completes c sState [])) ∧
    (s.node.inService (arg c 0) = false → s.node.prbsOn (arg c 0) = false → s.node.loopAt (arg c 0) = none →
      exec (.testLoop c) s = .next (s.on fun n =>
        ((n.at c.time).putLoop (arg c 0) (some ⟨arg c 0, arg c 1, false, max n.tm.raw c.time, arg c 2, 0, 1,
          false⟩)).waitsFor
          c 12 (arg c 0) []))) ∧
  (∀ (s : State) (c : Cmd), s.node.takes c 0x0C03 (.inst instTst) 2 = true → arg c 0 ≤ 12 → arg c 1 ≤ 31 →
    s.node.inService (arg c 0) = false →
    s.node.loopAt (arg c 0) = none → ∃ k : Node, exec (.testPrbs c) s = .next (s.on fun _ => k.completes c sOk []) ∧
      k.prbsOn (arg c 0) = decide (arg c 1 % 4 ≠ 0 ∧ 8 ≤ arg c 1)) ∧
  (∀ (s : State) (c : Cmd), s.node.takes c 0x0C04 (.inst instTst) 1 = true → arg c 0 < 2 ^ 24 →
    ((arg c 0).testBit 5 = true → exec (.testBist c) s = .next (s.on fun n => (n.at c.time).completes c sArgs [])) ∧
    ((arg c 0).testBit 5 = false → (arg c 0).testBit 6 = false → exec (.testBist c) s = .next (s.on fun n =>
      (((n.at c.time).setReg Reg.TST_BIST_REQ (argW c 0)).warmIn 1000000 2).completes c sOk []))) ∧
  (∀ (s : State) (c : Cmd), s.node.takes c 0x0C05 (.secure instTst) 4 = true → arg c 3 ≤ 255 →
    s.node.injTargetOk (arg c 0) (arg c 1) = true →
    (s.node.injArmed = true → exec (.testInject c) s = .next (s.on fun n => (n.at c.time).completes c sBusy [])) ∧
    (s.node.injArmed = false → exec (.testInject c) s = .next (s.on fun n =>
      (((((n.at c.time).setReg Reg.TST_INJ_CTRL (word (arg c 0 + arg c 3 * 256))).setReg Reg.TST_INJ_TARGET (argW c 1)).setReg
        Reg.TST_INJ_MASK (argW c 2)).injArm).completes c sOk []))) ∧
  (∀ (s : State) (ctx : Nat) (v : Word), s.node.admits ctx Reg.TST_INJ_CTRL true = true →
    exec (.injectArmWrite ctx v) s = .next (s.on fun n => (n.answer 0#32).injWrite v) ∧
    exec (.injectDisarmWrite ctx v) s = .next (s.on fun n => (n.answer 0#32).injWrite v)) ∧
  (∀ (n : Node) (v : Word), n.injArmed = true → n.injWrite v = if v.toNat.testBit 4 then n.injOff else n) ∧
  (∀ (s : State) (target time : Nat) (l : TstLoop), s.node.loopAt target = some l →
    (l.active = false → l.depth ≤ 3 → ((s.node.at time).sending target).isSome = false →
      exec (.loopbackActive target time) s = .next (s.on fun n =>
      (((n.at time).loopEnter l).loopActive l).loopAnswer target sOk [])) ∧
    (l.active = true → 0 < l.ms → l.since + l.ms * 1000000 ≤ max s.node.tm.raw time →
      exec (.loopDurationExpiry target time) s = .next (s.on fun n => (n.at time).loopEnd l)) ∧
    (l.active = false → l.depth = 5 → l.since + 10000000 * l.tries ≤ max s.node.tm.raw time →
      (l.tries < 3 → exec (.echoEnterRetry target time) s = .next (s.on fun n =>
        ((n.at time).putLoop target (some { l with tries := l.tries + 1 })).echoSend target 1 0 l.ms l.session n.identity)) ∧
      (3 ≤ l.tries → exec (.echoEnterRetry target time) s = .next (s.on fun n =>
        ((n.at time).loopEnd l).loopAnswer target sTimeout [])))) ∧
  (∀ (s : State) (r : Rx), s.node.hears r 0xC = true → echoType (payloadOf r.frame.body) = 1 → r.port ≠ 12 →
    (s.node.heard r).loopAt r.port = none → (s.node.heard r).prbsOn r.port = false →
      (s.node.heard r).bit Reg.TST_CFG 0 = true →
    exec (.echoEnterReceived r) s = .next (s.on fun n =>
      let b := payloadOf r.frame.body
      let l : TstLoop := ⟨r.port, 6, true, (n.heard r).tm.raw, beAt b 2 2, echoSession b, 0, false⟩
      ((((n.heard r).echoSend r.port 2 0 (beAt b 2 2) (echoSession b) (beAt b 6 6)).loopEnter l).loopActive l))) ∧
  (∀ (s : State) (r : Rx) (l : TstLoop), s.node.hears r 0xC = true → (s.node.heard r).loopAt r.port = some l →
    echoSession (payloadOf r.frame.body) = l.session →
    (l.active = false → l.depth = 5 → echoType (payloadOf r.frame.body) = 2 →
      exec (.echoReplyReceived r) s = .next (s.on fun n => ((n.heard r).loopActive l).loopAnswer r.port sOk [])) ∧
    (l.depth = 6 → echoType (payloadOf r.frame.body) = 4 →
      exec (.echoExitReceived r) s = .next (s.on fun n => (n.heard r).loopEnd l))) ∧
  (∀ (s : State) (lane bits errs time : Nat), lane ≤ 12 → s.node.prbsChecks lane = true →
    exec (.prbsCheckerLock lane bits errs time) s = .next (s.on fun n =>
      ((n.at time).setBit (Reg.TST_PRBS_STAT lane) 5 true).prbsCount lane bits errs) ∧
    (s.node.bit (Reg.TST_PRBS_STAT lane) 5 = true → ∃ t : State, exec (.prbsLockLoss lane bits errs time) s = .next t ∧
      t.node.bit (Reg.TST_PRBS_STAT lane) 5 = false)) ∧
  (∀ s : State, exec .idcode s = .next (s.on fun n => { n with tst := { n.tst with jtag := ⟨0x01, 0x16420B47, false⟩ } }) ∧
    exec .clamp s = .next (s.on fun n => { n with tst := { n.tst with jtag := ⟨0x04, 0, true⟩ } }) ∧
    exec .highz s = .next (s.on fun n => { n with tst := { n.tst with jtag := ⟨0x08, 0, true⟩ } })) ∧
  (∀ s : State, ∃ w : Nat,
    exec .extest s = .next (s.on fun n => { n with fresh := n.fresh + 1, tst := { n.tst with jtag := ⟨0x00, w, true⟩ } }) ∧
    exec .samplePreload s = .next (s.on fun n => { n with fresh := n.fresh + 1, tst := { n.tst with jtag := ⟨0x02, w, false⟩ } }) ∧
    exec .extestPulse s = .next (s.on fun n => { n with fresh := n.fresh + 1, tst := { n.tst with jtag := ⟨0x09, w, true⟩ } }) ∧
    exec .extestTrain s = .next (s.on fun n => { n with fresh := n.fresh + 1, tst := { n.tst with jtag := ⟨0x0A, w, true⟩ } })) ∧
  (∀ (s : State) (code : Nat), code % 256 ∉ [0x00, 0x01, 0x02, 0x04, 0x08, 0x09, 0x0A] →
    (code % 256 = 0xFF ∨ s.node.jtagEngines = [] →
      exec (.bypass code) s = .next (s.on fun n => { n with tst := { n.tst with jtag := ⟨code % 256, 0, false⟩ } })) ∧
    (code % 256 ≠ 0xFF → s.node.jtagEngines ≠ [] → exec (.bypass code) s = .next (s.on fun n =>
      if Config.debugCode (code % 256) then n.jtagScan (code % 256) false else n.jtagSet (code % 256) 0 false)))

/-- R704, R707, R712 to R716: a reset leaves every register at its reset value but those that its kind keeps, names its kind
and cause, empties the queues, and keeps the flash; a weaker reset within a stronger one has no effect. -/
def Obligations.ResetsKeepWhatTheirKindKeeps : Prop :=
  (∀ (n : Node) (o : Otp) (kind cause a : Nat), keptReg kind cause a = true → a ≠ Reg.PCR_WARM_CNT → a ≠ Reg.TST_STAT →
    (n.resetTo o kind cause).reg a = n.reg a) ∧
  (∀ (n : Node) (o : Otp) (kind cause a : Nat), keptReg kind cause a = false →
    a ∉ [Reg.PCR_WARM_CNT, Reg.TST_STAT, Reg.PCR_RESET_CAUSE, Reg.TOP_NODE_ID_LO, Reg.TOP_NODE_ID_HI] →
    (n.resetTo o kind cause).reg a = regReset a) ∧
  (∀ (n : Node) (o : Otp) (kind cause : Nat), (n.resetTo o kind cause).reg Reg.PCR_RESET_CAUSE = word (kind + cause * 256) ∧
    (n.resetTo o kind cause).mem.flash = n.mem.flash ∧ (n.resetTo o kind cause).host.waits = [] ∧
    (n.resetTo o kind cause).ina.table = []) ∧
  (∀ (s : State), s.node.inReset = false →
    exec .powerOnReset s = .next (s.on fun n => n.resetTo s.otp kPower 1) ∧
      exec .pinReset s = .next (s.on fun n => n.resetTo s.otp kPin 1) ∧
    exec .refclkLost s = .next (s.on fun n => (n.resetTo s.otp kPin 3).setBit Reg.PCR_SUPPLY_STAT 3 true) ∧
    (∀ monitor, monitor < 3 → exec (.supplyMonitorTrip monitor) s = .next (s.on fun n =>
      (n.resetTo s.otp (if monitor = 0 then kPower else kPin) 2).setBit Reg.PCR_SUPPLY_STAT monitor true)) ∧
    (∀ time at_ cause, s.node.boot.warm = some (at_, cause) → at_ ≤ max s.node.tm.raw time →
      exec (.warmReset time) s = .next (s.on fun n => ((n.at time).routeAll).resetTo s.otp kWarm cause)) ∧
    (∀ time o, s.node.ina.op = some o → o.op = 3 → (s.node.at time).opDue o = true →
      exec (.trainResetInstant time) s = .next (s.on fun n => ((n.at time).routeAll).resetTo s.otp kTrain 1))) ∧
  (∀ (s : State), s.node.inReset = true → s.node.fld Reg.PCR_RESET_CAUSE Fld.PCR_RESET_CAUSE_KIND = kPower →
    exec .pinReset s = .next s ∧
    (∀ time at_ cause, s.node.boot.warm = some (at_, cause) → at_ ≤ max s.node.tm.raw time →
      exec (.warmReset time) s = .next (s.on fun n => n.at time)))

/-- R709, R715, R718 to R723, R729, R731: the writes that ask for a warm reset, for sleep and for the DRAM loopback; sleep
is entered and left as its sources allow, SLEEP_N low only while the node sleeps; a PLL that loses lock acts by its table
and locks again. -/
def Obligations.SleepClocksAndLoopbackAct : Prop :=
  (∀ (s : State) (ctx time : Nat) (v : Word), s.node.admits ctx Reg.PCR_RESET_CTRL true = true →
    exec (.pcrWarmWrite ctx v time) s = .next (s.on fun n =>
      if v.toNat.testBit 0 then ((n.at time).answer 0#32).warmIn 0 3 else (n.at time).answer 0#32)) ∧
  (∀ (s : State) (ctx time : Nat) (v : Word), s.node.admits ctx Reg.PCR_SLEEP_CTRL true = true → v.toNat.testBit 0 = true →
    s.node.boot.sleep = 0 → s.node.boot.phase ≠ 0 →
    (s.node.reg Reg.PCR_WAKE_EN = 0#32 → exec (.pcrSleepWrite ctx v time) s = .next (s.on fun n =>
      ((n.at time).answer 0#32).setFld Reg.PCR_SLEEP_CTRL Fld.PCR_SLEEP_CTRL_REFUSED 1)) ∧
    (s.node.reg Reg.PCR_WAKE_EN ≠ 0#32 → ∃ t : State, exec (.pcrSleepWrite ctx v time) s = .next t ∧ t.node.boot.sleep = 1 ∧
      t.node.st = stOff)) ∧
  (∀ (s : State) (time : Nat), s.node.boot.sleep = 1 → s.node.boot.wakes = 0 →
    ∃ t : State, exec (.sleepEntryComplete time) s = .next t ∧ t.node.boot.sleep = 2 ∧ t.node.reg Reg.TOP_PD_STATE = 1#32 ∧
      t.node.sleepN = false) ∧
  (∀ (s : State) (sources seconds : Nat), s.node.wakeSources sources ≠ 0 →
    (s.node.boot.sleep = 1 → exec (.wakeEvent sources seconds) s = .next (s.on fun n =>
      { n with boot := { n.boot with wakes := Nat.lor n.boot.wakes (n.wakeSources sources) } })) ∧
    (s.node.boot.sleep = 2 → ∃ t : State, exec (.wakeEvent sources seconds) s = .next t ∧ t.node.boot.sleep = 0 ∧
      t.node.sleepN = true ∧
      t.node.reg Reg.PCR_WAKE_CAUSE = word (s.node.wakeSources sources) ∧ t.node.reg Reg.PCR_SLEEP_SEC = word seconds ∧
      t.node.reg Reg.PCR_RESET_CAUSE = word (kWake + firstSource (s.node.wakeSources sources) * 256))) ∧
  (∀ (s : State) (pll time : Nat), pll < 19 → s.node.bit Reg.PCR_PLL_STAT pll = true →
    exec (.pllUnlock pll time) s = .next (s.on fun n =>
      let m := (((n.at time).setBit Reg.PCR_PLL_STAT pll false).inc Reg.PCR_PLL_UNLOCKS).raise 0x8206 pll
        (if pll = 3 then 2 else if pll = 5 then 3 else if 6 ≤ pll then 4 else 1)
      if pll = 3 then m.pcieDown
      else if pll = 5 then [0, 1, 2, 3].foldl (fun k c => k.showCan c) m
      else if 6 ≤ pll then m.linkGoesDown (pll - 6) [] else m.warmIn 0 4)) ∧
  (∀ (s : State) (pll time : Nat), pll = 3 ∨ (6 ≤ pll ∧ pll < 19) → s.node.bit Reg.PCR_PLL_STAT pll = false →
    exec (.pllRelock pll time) s = .next (s.on fun n => (n.at time).setBit Reg.PCR_PLL_STAT pll true)) ∧
  (∀ (s : State) (time : Nat), s.node.bit Reg.PCR_PLL_STAT 5 = false → exec (.pllRelock 5 time) s = .next (s.on fun n =>
    [0, 1, 2, 3].foldl (fun q c => (if q.canOn c then q.onCtl c fun x => { x with integ := true } else q).showCan c)
      ((n.at time).setBit Reg.PCR_PLL_STAT 5 true))) ∧
  (∀ (s : State) (ctx : Nat) (v : Word), s.node.admits ctx Reg.MEM_LOOP true = true →
    exec (.memLoopGoWrite ctx v) s = .next (s.on fun n =>
      if v.toNat.testBit 0 && n.waiting then (n.answer 0#32).setReg Reg.MEM_LOOP 1#32 else n.answer 0#32)) ∧
  (∀ (s : State) (passed : Bool), s.node.bit Reg.MEM_LOOP 0 = true →
    exec (.memLoopDone passed) s = .next (s.on fun n => n.setReg Reg.MEM_LOOP (word (2 + b2n passed * 4))))
end

