-- ==== Sys2Proof/Laws/Memory.lean ====
section
/-! SUPPORT. The sparse stores: a read after a write, and the canonical form that every memory operation keeps. -/

namespace Sys2Proof.Machine

variable {β : Type} {d : Nat → β}

/-! ### Reads after writes -/

theorem Sparse.get_filter_ne (m : List (Nat × β)) {a b : Nat} (h : b ≠ a) :
    Sparse.get d (m.filter fun p => p.1 ≠ a) b = Sparse.get d m b := by
  induction m with
  | nil => rfl
  | cons p m ih =>
    obtain ⟨k, v⟩ := p
    by_cases hk : k = a
    · subst hk
      have hb : k ≠ b := fun e => h e.symm
      simpa [Sparse.get, hb] using ih
    · simp only [ne_eq, hk, not_false_eq_true, decide_true, List.filter_cons_of_pos, Sparse.get]
      split
      · rfl
      · simpa using ih

theorem Sparse.get_filter_self (m : List (Nat × β)) (a : Nat) :
    Sparse.get d (m.filter fun p => p.1 ≠ a) a = d a := by
  induction m with
  | nil => rfl
  | cons p m ih =>
    obtain ⟨k, v⟩ := p
    by_cases hk : k = a
    · subst hk; simpa using ih
    · simp only [ne_eq, hk, not_false_eq_true, decide_true, List.filter_cons_of_pos, Sparse.get, if_false]
      simpa using ih

theorem Sparse.get_insert_ne (m : List (Nat × β)) {a b : Nat} (v : β) (h : b ≠ a) :
    Sparse.get d (Sparse.insert a v m) b = Sparse.get d m b := by
  have ha : a ≠ b := fun e => h e.symm
  induction m with
  | nil => simp [Sparse.insert, Sparse.get, ha]
  | cons p m ih =>
    obtain ⟨k, w⟩ := p
    simp only [Sparse.insert]
    split
    · simp [Sparse.get, ha]
    · simp [Sparse.get, ih]

theorem Sparse.get_insert_self (m : List (Nat × β)) (a : Nat) (v : β) (h : ∀ p ∈ m, p.1 ≠ a) :
    Sparse.get d (Sparse.insert a v m) a = v := by
  induction m with
  | nil => simp [Sparse.insert, Sparse.get]
  | cons p m ih =>
    obtain ⟨k, w⟩ := p
    have hk : k ≠ a := h (k, w) (by simp)
    have ht : ∀ p ∈ m, p.1 ≠ a := fun p hp => h p (by simp [hp])
    simp only [Sparse.insert]
    split
    · simp [Sparse.get]
    · simp [Sparse.get, hk, ih ht]

/-- A read after a write to the same address gives the value written. -/
theorem Sparse.get_put_self [DecidableEq β] (m : List (Nat × β)) (a : Nat) (v : β) :
    Sparse.get d (Sparse.put d m a v) a = v := by
  unfold Sparse.put
  split
  · next h => rw [Sparse.get_filter_self, h]
  · exact Sparse.get_insert_self _ _ _ (fun p hp => by simpa using (List.mem_filter.mp hp).2)

/-- A write leaves every other address alone. -/
theorem Sparse.get_put_ne [DecidableEq β] (m : List (Nat × β)) {a b : Nat} (v : β) (h : b ≠ a) :
    Sparse.get d (Sparse.put d m a v) b = Sparse.get d m b := by
  unfold Sparse.put
  split
  · exact Sparse.get_filter_ne m h
  · rw [Sparse.get_insert_ne _ _ h, Sparse.get_filter_ne m h]

/-- A read after a write, at any address. -/
theorem Sparse.get_put [DecidableEq β] (m : List (Nat × β)) (a b : Nat) (v : β) :
    Sparse.get d (Sparse.put d m a v) b = if b = a then v else Sparse.get d m b := by
  split
  · next h => rw [h, Sparse.get_put_self]
  · next h => exact Sparse.get_put_ne m v h

/-- A write of consecutive values leaves every address outside them alone. -/
theorem Sparse.get_putAll_out [DecidableEq β] (vs : List β) (m : List (Nat × β)) (a b : Nat)
    (h : b < a ∨ a + vs.length ≤ b) : Sparse.get d (Sparse.putAll d m a vs) b = Sparse.get d m b := by
  induction vs generalizing m a with
  | nil => rfl
  | cons v vs ih =>
    simp only [List.length_cons] at h
    rw [Sparse.putAll, ih _ _ (by omega), Sparse.get_put_ne m v (by omega)]

/-! ### The canonical form -/

theorem Sparse.wf_iff [DecidableEq β] (m : List (Nat × β)) :
    Sparse.wf d m = true ↔ (m.map (·.1)).Pairwise (· < ·) ∧ ∀ p ∈ m, p.2 ≠ d p.1 := by
  simp only [Sparse.wf, Bool.and_eq_true, decide_eq_true_eq, List.all_eq_true]

/-- Entries taken out of a store leave it in canonical form. -/
theorem Sparse.wf_filter [DecidableEq β] (m : List (Nat × β)) (p : Nat × β → Bool) (h : Sparse.wf d m = true) :
    Sparse.wf d (m.filter p) = true := by
  rw [Sparse.wf_iff] at h ⊢
  exact ⟨h.1.sublist ((List.filter_sublist (l := m) (p := p)).map _), fun q hq => h.2 q (List.mem_filter.mp hq).1⟩

theorem Sparse.mem_insert (m : List (Nat × β)) (a : Nat) (v : β) (p : Nat × β) :
    p ∈ Sparse.insert a v m ↔ p = (a, v) ∨ p ∈ m := by
  induction m with
  | nil => simp [Sparse.insert]
  | cons q m ih =>
    obtain ⟨k, w⟩ := q
    simp only [Sparse.insert]
    split
    · simp
    · simp only [List.mem_cons, ih]; tauto

theorem Sparse.insert_sorted (m : List (Nat × β)) (a : Nat) (v : β) (hs : (m.map (·.1)).Pairwise (· < ·))
    (ha : ∀ p ∈ m, p.1 ≠ a) : ((Sparse.insert a v m).map (·.1)).Pairwise (· < ·) := by
  induction m with
  | nil => simp [Sparse.insert]
  | cons q m ih =>
    obtain ⟨k, w⟩ := q
    rw [List.map_cons, List.pairwise_cons] at hs
    have hk : k ≠ a := ha (k, w) (by simp)
    have hm : ∀ p ∈ m, p.1 ≠ a := fun p hp => ha p (by simp [hp])
    simp only [Sparse.insert]
    split
    · next hlt =>
      simp only [List.map_cons, List.pairwise_cons, List.mem_cons, forall_eq_or_imp]
      exact ⟨⟨hlt, fun b hb => lt_trans hlt (hs.1 b hb)⟩, hs.1, hs.2⟩
    · next hge =>
      rw [List.map_cons, List.pairwise_cons]
      refine ⟨fun b hb => ?_, ih hs.2 hm⟩
      obtain ⟨p, hp, rfl⟩ := List.mem_map.mp hb
      rcases (Sparse.mem_insert m a v p).mp hp with rfl | hp
      · show k < a; omega
      · exact hs.1 _ (List.mem_map_of_mem hp)

/-- A write keeps the canonical form. -/
theorem Sparse.wf_put [DecidableEq β] (m : List (Nat × β)) (a : Nat) (v : β) (h : Sparse.wf d m = true) :
    Sparse.wf d (Sparse.put d m a v) = true := by
  unfold Sparse.put
  have hf := Sparse.wf_filter m (fun p => p.1 ≠ a) h
  split
  · exact hf
  · next hv =>
    rw [Sparse.wf_iff] at hf ⊢
    refine ⟨Sparse.insert_sorted _ _ _ hf.1 fun p hp => by simpa using (List.mem_filter.mp hp).2, fun p hp => ?_⟩
    rcases (Sparse.mem_insert _ _ _ _).mp hp with rfl | hp
    · exact hv
    · exact hf.2 p hp

/-- Consecutive writes keep the canonical form. -/
theorem Sparse.wf_putAll [DecidableEq β] (vs : List β) (m : List (Nat × β)) (a : Nat) (h : Sparse.wf d m = true) :
    Sparse.wf d (Sparse.putAll d m a vs) = true := by
  induction vs generalizing m a with
  | nil => exact h
  | cons v vs ih => exact ih _ _ (Sparse.wf_put m a v h)

/-! ### The memories of the node -/

/-- A register write keeps the canonical form of every store. -/
theorem Memory.wf_setReg (n : Node) (a : Nat) (v : Word) (h : Memory.wf n = true) : Memory.wf (n.setReg a v) = true := by
  simp only [Memory.wf, Bool.and_eq_true] at h ⊢
  exact ⟨⟨⟨Sparse.wf_put _ _ _ h.1.1.1, h.1.1.2⟩, h.1.2⟩, h.2⟩

/-- Registers cleared keep it. -/
theorem Memory.wf_clearRegs (n : Node) (lo hi : Nat) (h : Memory.wf n = true) : Memory.wf (n.clearRegs lo hi) = true := by
  simp only [Memory.wf, Bool.and_eq_true] at h ⊢
  exact ⟨⟨⟨Sparse.wf_filter _ _ h.1.1.1, h.1.1.2⟩, h.1.2⟩, h.2⟩

/-- Reset's memories are in canonical form. -/
theorem Memory.wf_reset : Memory.wf Node.reset = true := by decide +kernel

end Sys2Proof.Machine
end

