-- ==== Sys2Proof/Laws/State.lean ====
section
/-! SUPPORT. What the named updates of the state leave alone: one lemma per field per update, so that no proof unfolds a record
update. -/

namespace Sys2Proof.Machine

@[simp] theorem State.on_pending (s : State) (f : Node → Node) : (s.on f).pending = s.pending := rfl
@[simp] theorem State.on_otp (s : State) (f : Node → Node) : (s.on f).otp = s.otp := rfl
@[simp] theorem State.on_node (s : State) (f : Node → Node) : (s.on f).node = f s.node := rfl

/-- Two changes of the node that agree on the node at hand give the same next state. -/
theorem State.next_on_congr {s : State} {f g : Node → Node} (h : f s.node = g s.node) :
    (Host.Outcome.next (s.on f) : Host.Outcome State Fault Refusal) = .next (s.on g) := by
  unfold State.on
  rw [h]

@[simp] theorem Node.setReg_latches (n : Node) (a : Nat) (v : Word) : (n.setReg a v).latches = n.latches := rfl
@[simp] theorem Node.setReg_ev (n : Node) (a : Nat) (v : Word) : (n.setReg a v).ev = n.ev := rfl
@[simp] theorem Node.setReg_host (n : Node) (a : Nat) (v : Word) : (n.setReg a v).host = n.host := rfl
@[simp] theorem Node.setReg_net (n : Node) (a : Nat) (v : Word) : (n.setReg a v).net = n.net := rfl
@[simp] theorem Node.setReg_cyc (n : Node) (a : Nat) (v : Word) : (n.setReg a v).cyc = n.cyc := rfl
@[simp] theorem Node.setReg_ina (n : Node) (a : Nat) (v : Word) : (n.setReg a v).ina = n.ina := rfl
@[simp] theorem Node.setReg_tm (n : Node) (a : Nat) (v : Word) : (n.setReg a v).tm = n.tm := rfl
@[simp] theorem Node.setReg_plc (n : Node) (a : Nat) (v : Word) : (n.setReg a v).plc = n.plc := rfl
@[simp] theorem Node.setReg_par (n : Node) (a : Nat) (v : Word) : (n.setReg a v).par = n.par := rfl
@[simp] theorem Node.setReg_pd (n : Node) (a : Nat) (v : Word) : (n.setReg a v).pd = n.pd := rfl
@[simp] theorem Node.setReg_aud (n : Node) (a : Nat) (v : Word) : (n.setReg a v).aud = n.aud := rfl
@[simp] theorem Node.setReg_can (n : Node) (a : Nat) (v : Word) : (n.setReg a v).can = n.can := rfl
@[simp] theorem Node.setReg_brg (n : Node) (a : Nat) (v : Word) : (n.setReg a v).brg = n.brg := rfl
@[simp] theorem Node.setReg_chk (n : Node) (a : Nat) (v : Word) : (n.setReg a v).chk = n.chk := rfl
@[simp] theorem Node.setReg_tst (n : Node) (a : Nat) (v : Word) : (n.setReg a v).tst = n.tst := rfl
@[simp] theorem Node.setReg_mem (n : Node) (a : Nat) (v : Word) : (n.setReg a v).mem = n.mem := rfl
@[simp] theorem Node.setReg_boot (n : Node) (a : Nat) (v : Word) : (n.setReg a v).boot = n.boot := rfl
@[simp] theorem Node.setReg_fresh (n : Node) (a : Nat) (v : Word) : (n.setReg a v).fresh = n.fresh := rfl

@[simp] theorem Node.setFld_latches (n : Node) (a : Nat) (f : Field) (v : Nat) : (n.setFld a f v).latches = n.latches := rfl
@[simp] theorem Node.setFld_ev (n : Node) (a : Nat) (f : Field) (v : Nat) : (n.setFld a f v).ev = n.ev := rfl
@[simp] theorem Node.setFld_host (n : Node) (a : Nat) (f : Field) (v : Nat) : (n.setFld a f v).host = n.host := rfl
@[simp] theorem Node.setFld_net (n : Node) (a : Nat) (f : Field) (v : Nat) : (n.setFld a f v).net = n.net := rfl
@[simp] theorem Node.setFld_cyc (n : Node) (a : Nat) (f : Field) (v : Nat) : (n.setFld a f v).cyc = n.cyc := rfl
@[simp] theorem Node.setFld_ina (n : Node) (a : Nat) (f : Field) (v : Nat) : (n.setFld a f v).ina = n.ina := rfl
@[simp] theorem Node.setFld_tm (n : Node) (a : Nat) (f : Field) (v : Nat) : (n.setFld a f v).tm = n.tm := rfl
@[simp] theorem Node.setFld_plc (n : Node) (a : Nat) (f : Field) (v : Nat) : (n.setFld a f v).plc = n.plc := rfl
@[simp] theorem Node.setFld_par (n : Node) (a : Nat) (f : Field) (v : Nat) : (n.setFld a f v).par = n.par := rfl
@[simp] theorem Node.setFld_pd (n : Node) (a : Nat) (f : Field) (v : Nat) : (n.setFld a f v).pd = n.pd := rfl
@[simp] theorem Node.setFld_aud (n : Node) (a : Nat) (f : Field) (v : Nat) : (n.setFld a f v).aud = n.aud := rfl
@[simp] theorem Node.setFld_can (n : Node) (a : Nat) (f : Field) (v : Nat) : (n.setFld a f v).can = n.can := rfl
@[simp] theorem Node.setFld_brg (n : Node) (a : Nat) (f : Field) (v : Nat) : (n.setFld a f v).brg = n.brg := rfl
@[simp] theorem Node.setFld_chk (n : Node) (a : Nat) (f : Field) (v : Nat) : (n.setFld a f v).chk = n.chk := rfl
@[simp] theorem Node.setFld_tst (n : Node) (a : Nat) (f : Field) (v : Nat) : (n.setFld a f v).tst = n.tst := rfl
@[simp] theorem Node.setFld_mem (n : Node) (a : Nat) (f : Field) (v : Nat) : (n.setFld a f v).mem = n.mem := rfl
@[simp] theorem Node.setFld_boot (n : Node) (a : Nat) (f : Field) (v : Nat) : (n.setFld a f v).boot = n.boot := rfl
@[simp] theorem Node.setFld_fresh (n : Node) (a : Nat) (f : Field) (v : Nat) : (n.setFld a f v).fresh = n.fresh := rfl

@[simp] theorem Node.setBits_latches (n : Node) (a lo w v : Nat) : (n.setBits a lo w v).latches = n.latches := rfl
@[simp] theorem Node.setBits_ev (n : Node) (a lo w v : Nat) : (n.setBits a lo w v).ev = n.ev := rfl
@[simp] theorem Node.setBits_host (n : Node) (a lo w v : Nat) : (n.setBits a lo w v).host = n.host := rfl
@[simp] theorem Node.setBits_net (n : Node) (a lo w v : Nat) : (n.setBits a lo w v).net = n.net := rfl
@[simp] theorem Node.setBits_cyc (n : Node) (a lo w v : Nat) : (n.setBits a lo w v).cyc = n.cyc := rfl
@[simp] theorem Node.setBits_ina (n : Node) (a lo w v : Nat) : (n.setBits a lo w v).ina = n.ina := rfl
@[simp] theorem Node.setBits_tm (n : Node) (a lo w v : Nat) : (n.setBits a lo w v).tm = n.tm := rfl
@[simp] theorem Node.setBits_plc (n : Node) (a lo w v : Nat) : (n.setBits a lo w v).plc = n.plc := rfl
@[simp] theorem Node.setBits_par (n : Node) (a lo w v : Nat) : (n.setBits a lo w v).par = n.par := rfl
@[simp] theorem Node.setBits_pd (n : Node) (a lo w v : Nat) : (n.setBits a lo w v).pd = n.pd := rfl
@[simp] theorem Node.setBits_aud (n : Node) (a lo w v : Nat) : (n.setBits a lo w v).aud = n.aud := rfl
@[simp] theorem Node.setBits_can (n : Node) (a lo w v : Nat) : (n.setBits a lo w v).can = n.can := rfl
@[simp] theorem Node.setBits_brg (n : Node) (a lo w v : Nat) : (n.setBits a lo w v).brg = n.brg := rfl
@[simp] theorem Node.setBits_chk (n : Node) (a lo w v : Nat) : (n.setBits a lo w v).chk = n.chk := rfl
@[simp] theorem Node.setBits_tst (n : Node) (a lo w v : Nat) : (n.setBits a lo w v).tst = n.tst := rfl
@[simp] theorem Node.setBits_mem (n : Node) (a lo w v : Nat) : (n.setBits a lo w v).mem = n.mem := rfl
@[simp] theorem Node.setBits_boot (n : Node) (a lo w v : Nat) : (n.setBits a lo w v).boot = n.boot := rfl
@[simp] theorem Node.setBits_fresh (n : Node) (a lo w v : Nat) : (n.setBits a lo w v).fresh = n.fresh := rfl

@[simp] theorem Node.setBit_latches (n : Node) (a i : Nat) (b : Bool) : (n.setBit a i b).latches = n.latches := rfl
@[simp] theorem Node.setBit_ev (n : Node) (a i : Nat) (b : Bool) : (n.setBit a i b).ev = n.ev := rfl
@[simp] theorem Node.setBit_host (n : Node) (a i : Nat) (b : Bool) : (n.setBit a i b).host = n.host := rfl
@[simp] theorem Node.setBit_net (n : Node) (a i : Nat) (b : Bool) : (n.setBit a i b).net = n.net := rfl
@[simp] theorem Node.setBit_cyc (n : Node) (a i : Nat) (b : Bool) : (n.setBit a i b).cyc = n.cyc := rfl
@[simp] theorem Node.setBit_ina (n : Node) (a i : Nat) (b : Bool) : (n.setBit a i b).ina = n.ina := rfl
@[simp] theorem Node.setBit_tm (n : Node) (a i : Nat) (b : Bool) : (n.setBit a i b).tm = n.tm := rfl
@[simp] theorem Node.setBit_plc (n : Node) (a i : Nat) (b : Bool) : (n.setBit a i b).plc = n.plc := rfl
@[simp] theorem Node.setBit_par (n : Node) (a i : Nat) (b : Bool) : (n.setBit a i b).par = n.par := rfl
@[simp] theorem Node.setBit_pd (n : Node) (a i : Nat) (b : Bool) : (n.setBit a i b).pd = n.pd := rfl
@[simp] theorem Node.setBit_aud (n : Node) (a i : Nat) (b : Bool) : (n.setBit a i b).aud = n.aud := rfl
@[simp] theorem Node.setBit_can (n : Node) (a i : Nat) (b : Bool) : (n.setBit a i b).can = n.can := rfl
@[simp] theorem Node.setBit_brg (n : Node) (a i : Nat) (b : Bool) : (n.setBit a i b).brg = n.brg := rfl
@[simp] theorem Node.setBit_chk (n : Node) (a i : Nat) (b : Bool) : (n.setBit a i b).chk = n.chk := rfl
@[simp] theorem Node.setBit_tst (n : Node) (a i : Nat) (b : Bool) : (n.setBit a i b).tst = n.tst := rfl
@[simp] theorem Node.setBit_mem (n : Node) (a i : Nat) (b : Bool) : (n.setBit a i b).mem = n.mem := rfl
@[simp] theorem Node.setBit_boot (n : Node) (a i : Nat) (b : Bool) : (n.setBit a i b).boot = n.boot := rfl
@[simp] theorem Node.setBit_fresh (n : Node) (a i : Nat) (b : Bool) : (n.setBit a i b).fresh = n.fresh := rfl

@[simp] theorem Node.addSat_latches (n : Node) (a k : Nat) : (n.addSat a k).latches = n.latches := rfl
@[simp] theorem Node.addSat_ev (n : Node) (a k : Nat) : (n.addSat a k).ev = n.ev := rfl
@[simp] theorem Node.addSat_host (n : Node) (a k : Nat) : (n.addSat a k).host = n.host := rfl
@[simp] theorem Node.addSat_net (n : Node) (a k : Nat) : (n.addSat a k).net = n.net := rfl
@[simp] theorem Node.addSat_cyc (n : Node) (a k : Nat) : (n.addSat a k).cyc = n.cyc := rfl
@[simp] theorem Node.addSat_ina (n : Node) (a k : Nat) : (n.addSat a k).ina = n.ina := rfl
@[simp] theorem Node.addSat_tm (n : Node) (a k : Nat) : (n.addSat a k).tm = n.tm := rfl
@[simp] theorem Node.addSat_plc (n : Node) (a k : Nat) : (n.addSat a k).plc = n.plc := rfl
@[simp] theorem Node.addSat_par (n : Node) (a k : Nat) : (n.addSat a k).par = n.par := rfl
@[simp] theorem Node.addSat_pd (n : Node) (a k : Nat) : (n.addSat a k).pd = n.pd := rfl
@[simp] theorem Node.addSat_aud (n : Node) (a k : Nat) : (n.addSat a k).aud = n.aud := rfl
@[simp] theorem Node.addSat_can (n : Node) (a k : Nat) : (n.addSat a k).can = n.can := rfl
@[simp] theorem Node.addSat_brg (n : Node) (a k : Nat) : (n.addSat a k).brg = n.brg := rfl
@[simp] theorem Node.addSat_chk (n : Node) (a k : Nat) : (n.addSat a k).chk = n.chk := rfl
@[simp] theorem Node.addSat_tst (n : Node) (a k : Nat) : (n.addSat a k).tst = n.tst := rfl
@[simp] theorem Node.addSat_mem (n : Node) (a k : Nat) : (n.addSat a k).mem = n.mem := rfl
@[simp] theorem Node.addSat_boot (n : Node) (a k : Nat) : (n.addSat a k).boot = n.boot := rfl
@[simp] theorem Node.addSat_fresh (n : Node) (a k : Nat) : (n.addSat a k).fresh = n.fresh := rfl

@[simp] theorem Node.inc_latches (n : Node) (a : Nat) : (n.inc a).latches = n.latches := rfl
@[simp] theorem Node.inc_ev (n : Node) (a : Nat) : (n.inc a).ev = n.ev := rfl
@[simp] theorem Node.inc_host (n : Node) (a : Nat) : (n.inc a).host = n.host := rfl
@[simp] theorem Node.inc_net (n : Node) (a : Nat) : (n.inc a).net = n.net := rfl
@[simp] theorem Node.inc_cyc (n : Node) (a : Nat) : (n.inc a).cyc = n.cyc := rfl
@[simp] theorem Node.inc_ina (n : Node) (a : Nat) : (n.inc a).ina = n.ina := rfl
@[simp] theorem Node.inc_tm (n : Node) (a : Nat) : (n.inc a).tm = n.tm := rfl
@[simp] theorem Node.inc_plc (n : Node) (a : Nat) : (n.inc a).plc = n.plc := rfl
@[simp] theorem Node.inc_par (n : Node) (a : Nat) : (n.inc a).par = n.par := rfl
@[simp] theorem Node.inc_pd (n : Node) (a : Nat) : (n.inc a).pd = n.pd := rfl
@[simp] theorem Node.inc_aud (n : Node) (a : Nat) : (n.inc a).aud = n.aud := rfl
@[simp] theorem Node.inc_can (n : Node) (a : Nat) : (n.inc a).can = n.can := rfl
@[simp] theorem Node.inc_brg (n : Node) (a : Nat) : (n.inc a).brg = n.brg := rfl
@[simp] theorem Node.inc_chk (n : Node) (a : Nat) : (n.inc a).chk = n.chk := rfl
@[simp] theorem Node.inc_tst (n : Node) (a : Nat) : (n.inc a).tst = n.tst := rfl
@[simp] theorem Node.inc_mem (n : Node) (a : Nat) : (n.inc a).mem = n.mem := rfl
@[simp] theorem Node.inc_boot (n : Node) (a : Nat) : (n.inc a).boot = n.boot := rfl
@[simp] theorem Node.inc_fresh (n : Node) (a : Nat) : (n.inc a).fresh = n.fresh := rfl

@[simp] theorem Node.setReg64_latches (n : Node) (lo v : Nat) : (n.setReg64 lo v).latches = n.latches := rfl
@[simp] theorem Node.setReg64_ev (n : Node) (lo v : Nat) : (n.setReg64 lo v).ev = n.ev := rfl
@[simp] theorem Node.setReg64_host (n : Node) (lo v : Nat) : (n.setReg64 lo v).host = n.host := rfl
@[simp] theorem Node.setReg64_net (n : Node) (lo v : Nat) : (n.setReg64 lo v).net = n.net := rfl
@[simp] theorem Node.setReg64_cyc (n : Node) (lo v : Nat) : (n.setReg64 lo v).cyc = n.cyc := rfl
@[simp] theorem Node.setReg64_ina (n : Node) (lo v : Nat) : (n.setReg64 lo v).ina = n.ina := rfl
@[simp] theorem Node.setReg64_tm (n : Node) (lo v : Nat) : (n.setReg64 lo v).tm = n.tm := rfl
@[simp] theorem Node.setReg64_plc (n : Node) (lo v : Nat) : (n.setReg64 lo v).plc = n.plc := rfl
@[simp] theorem Node.setReg64_par (n : Node) (lo v : Nat) : (n.setReg64 lo v).par = n.par := rfl
@[simp] theorem Node.setReg64_pd (n : Node) (lo v : Nat) : (n.setReg64 lo v).pd = n.pd := rfl
@[simp] theorem Node.setReg64_aud (n : Node) (lo v : Nat) : (n.setReg64 lo v).aud = n.aud := rfl
@[simp] theorem Node.setReg64_can (n : Node) (lo v : Nat) : (n.setReg64 lo v).can = n.can := rfl
@[simp] theorem Node.setReg64_brg (n : Node) (lo v : Nat) : (n.setReg64 lo v).brg = n.brg := rfl
@[simp] theorem Node.setReg64_chk (n : Node) (lo v : Nat) : (n.setReg64 lo v).chk = n.chk := rfl
@[simp] theorem Node.setReg64_tst (n : Node) (lo v : Nat) : (n.setReg64 lo v).tst = n.tst := rfl
@[simp] theorem Node.setReg64_mem (n : Node) (lo v : Nat) : (n.setReg64 lo v).mem = n.mem := rfl
@[simp] theorem Node.setReg64_boot (n : Node) (lo v : Nat) : (n.setReg64 lo v).boot = n.boot := rfl
@[simp] theorem Node.setReg64_fresh (n : Node) (lo v : Nat) : (n.setReg64 lo v).fresh = n.fresh := rfl

@[simp] theorem Node.add64_latches (n : Node) (lo k : Nat) : (n.add64 lo k).latches = n.latches := Node.setReg64_latches n lo _
@[simp] theorem Node.add64_ev (n : Node) (lo k : Nat) : (n.add64 lo k).ev = n.ev := Node.setReg64_ev n lo _
@[simp] theorem Node.add64_host (n : Node) (lo k : Nat) : (n.add64 lo k).host = n.host := Node.setReg64_host n lo _
@[simp] theorem Node.add64_net (n : Node) (lo k : Nat) : (n.add64 lo k).net = n.net := Node.setReg64_net n lo _
@[simp] theorem Node.add64_cyc (n : Node) (lo k : Nat) : (n.add64 lo k).cyc = n.cyc := Node.setReg64_cyc n lo _
@[simp] theorem Node.add64_ina (n : Node) (lo k : Nat) : (n.add64 lo k).ina = n.ina := Node.setReg64_ina n lo _
@[simp] theorem Node.add64_tm (n : Node) (lo k : Nat) : (n.add64 lo k).tm = n.tm := Node.setReg64_tm n lo _
@[simp] theorem Node.add64_plc (n : Node) (lo k : Nat) : (n.add64 lo k).plc = n.plc := Node.setReg64_plc n lo _
@[simp] theorem Node.add64_par (n : Node) (lo k : Nat) : (n.add64 lo k).par = n.par := Node.setReg64_par n lo _
@[simp] theorem Node.add64_pd (n : Node) (lo k : Nat) : (n.add64 lo k).pd = n.pd := Node.setReg64_pd n lo _
@[simp] theorem Node.add64_aud (n : Node) (lo k : Nat) : (n.add64 lo k).aud = n.aud := Node.setReg64_aud n lo _
@[simp] theorem Node.add64_can (n : Node) (lo k : Nat) : (n.add64 lo k).can = n.can := Node.setReg64_can n lo _
@[simp] theorem Node.add64_brg (n : Node) (lo k : Nat) : (n.add64 lo k).brg = n.brg := Node.setReg64_brg n lo _
@[simp] theorem Node.add64_chk (n : Node) (lo k : Nat) : (n.add64 lo k).chk = n.chk := Node.setReg64_chk n lo _
@[simp] theorem Node.add64_tst (n : Node) (lo k : Nat) : (n.add64 lo k).tst = n.tst := Node.setReg64_tst n lo _
@[simp] theorem Node.add64_mem (n : Node) (lo k : Nat) : (n.add64 lo k).mem = n.mem := Node.setReg64_mem n lo _
@[simp] theorem Node.add64_boot (n : Node) (lo k : Nat) : (n.add64 lo k).boot = n.boot := Node.setReg64_boot n lo _
@[simp] theorem Node.add64_fresh (n : Node) (lo k : Nat) : (n.add64 lo k).fresh = n.fresh := Node.setReg64_fresh n lo _

@[simp] theorem Node.clearRegs_latches (n : Node) (lo hi : Nat) : (n.clearRegs lo hi).latches = n.latches := rfl
@[simp] theorem Node.clearRegs_ev (n : Node) (lo hi : Nat) : (n.clearRegs lo hi).ev = n.ev := rfl
@[simp] theorem Node.clearRegs_host (n : Node) (lo hi : Nat) : (n.clearRegs lo hi).host = n.host := rfl
@[simp] theorem Node.clearRegs_net (n : Node) (lo hi : Nat) : (n.clearRegs lo hi).net = n.net := rfl
@[simp] theorem Node.clearRegs_cyc (n : Node) (lo hi : Nat) : (n.clearRegs lo hi).cyc = n.cyc := rfl
@[simp] theorem Node.clearRegs_ina (n : Node) (lo hi : Nat) : (n.clearRegs lo hi).ina = n.ina := rfl
@[simp] theorem Node.clearRegs_tm (n : Node) (lo hi : Nat) : (n.clearRegs lo hi).tm = n.tm := rfl
@[simp] theorem Node.clearRegs_plc (n : Node) (lo hi : Nat) : (n.clearRegs lo hi).plc = n.plc := rfl
@[simp] theorem Node.clearRegs_par (n : Node) (lo hi : Nat) : (n.clearRegs lo hi).par = n.par := rfl
@[simp] theorem Node.clearRegs_pd (n : Node) (lo hi : Nat) : (n.clearRegs lo hi).pd = n.pd := rfl
@[simp] theorem Node.clearRegs_aud (n : Node) (lo hi : Nat) : (n.clearRegs lo hi).aud = n.aud := rfl
@[simp] theorem Node.clearRegs_can (n : Node) (lo hi : Nat) : (n.clearRegs lo hi).can = n.can := rfl
@[simp] theorem Node.clearRegs_brg (n : Node) (lo hi : Nat) : (n.clearRegs lo hi).brg = n.brg := rfl
@[simp] theorem Node.clearRegs_chk (n : Node) (lo hi : Nat) : (n.clearRegs lo hi).chk = n.chk := rfl
@[simp] theorem Node.clearRegs_tst (n : Node) (lo hi : Nat) : (n.clearRegs lo hi).tst = n.tst := rfl
@[simp] theorem Node.clearRegs_mem (n : Node) (lo hi : Nat) : (n.clearRegs lo hi).mem = n.mem := rfl
@[simp] theorem Node.clearRegs_boot (n : Node) (lo hi : Nat) : (n.clearRegs lo hi).boot = n.boot := rfl
@[simp] theorem Node.clearRegs_fresh (n : Node) (lo hi : Nat) : (n.clearRegs lo hi).fresh = n.fresh := rfl

@[simp] theorem Node.at_regs (n : Node) (t : Nat) : (n.at t).regs = n.regs := rfl
@[simp] theorem Node.at_latches (n : Node) (t : Nat) : (n.at t).latches = n.latches := rfl
@[simp] theorem Node.at_ev (n : Node) (t : Nat) : (n.at t).ev = n.ev := rfl
@[simp] theorem Node.at_host (n : Node) (t : Nat) : (n.at t).host = n.host := rfl
@[simp] theorem Node.at_net (n : Node) (t : Nat) : (n.at t).net = n.net := rfl
@[simp] theorem Node.at_cyc (n : Node) (t : Nat) : (n.at t).cyc = n.cyc := rfl
@[simp] theorem Node.at_ina (n : Node) (t : Nat) : (n.at t).ina = n.ina := rfl
@[simp] theorem Node.at_plc (n : Node) (t : Nat) : (n.at t).plc = n.plc := rfl
@[simp] theorem Node.at_par (n : Node) (t : Nat) : (n.at t).par = n.par := rfl
@[simp] theorem Node.at_pd (n : Node) (t : Nat) : (n.at t).pd = n.pd := rfl
@[simp] theorem Node.at_aud (n : Node) (t : Nat) : (n.at t).aud = n.aud := rfl
@[simp] theorem Node.at_can (n : Node) (t : Nat) : (n.at t).can = n.can := rfl
@[simp] theorem Node.at_brg (n : Node) (t : Nat) : (n.at t).brg = n.brg := rfl
@[simp] theorem Node.at_chk (n : Node) (t : Nat) : (n.at t).chk = n.chk := rfl
@[simp] theorem Node.at_tst (n : Node) (t : Nat) : (n.at t).tst = n.tst := rfl
@[simp] theorem Node.at_mem (n : Node) (t : Nat) : (n.at t).mem = n.mem := rfl
@[simp] theorem Node.at_boot (n : Node) (t : Nat) : (n.at t).boot = n.boot := rfl
@[simp] theorem Node.at_fresh (n : Node) (t : Nat) : (n.at t).fresh = n.fresh := rfl

@[simp] theorem Node.latch_regs (n : Node) (c a : Nat) (v : Word) : (n.latch c a v).regs = n.regs := rfl
@[simp] theorem Node.latch_ev (n : Node) (c a : Nat) (v : Word) : (n.latch c a v).ev = n.ev := rfl
@[simp] theorem Node.latch_host (n : Node) (c a : Nat) (v : Word) : (n.latch c a v).host = n.host := rfl
@[simp] theorem Node.latch_net (n : Node) (c a : Nat) (v : Word) : (n.latch c a v).net = n.net := rfl
@[simp] theorem Node.latch_cyc (n : Node) (c a : Nat) (v : Word) : (n.latch c a v).cyc = n.cyc := rfl
@[simp] theorem Node.latch_ina (n : Node) (c a : Nat) (v : Word) : (n.latch c a v).ina = n.ina := rfl
@[simp] theorem Node.latch_tm (n : Node) (c a : Nat) (v : Word) : (n.latch c a v).tm = n.tm := rfl
@[simp] theorem Node.latch_plc (n : Node) (c a : Nat) (v : Word) : (n.latch c a v).plc = n.plc := rfl
@[simp] theorem Node.latch_par (n : Node) (c a : Nat) (v : Word) : (n.latch c a v).par = n.par := rfl
@[simp] theorem Node.latch_pd (n : Node) (c a : Nat) (v : Word) : (n.latch c a v).pd = n.pd := rfl
@[simp] theorem Node.latch_aud (n : Node) (c a : Nat) (v : Word) : (n.latch c a v).aud = n.aud := rfl
@[simp] theorem Node.latch_can (n : Node) (c a : Nat) (v : Word) : (n.latch c a v).can = n.can := rfl
@[simp] theorem Node.latch_brg (n : Node) (c a : Nat) (v : Word) : (n.latch c a v).brg = n.brg := rfl
@[simp] theorem Node.latch_chk (n : Node) (c a : Nat) (v : Word) : (n.latch c a v).chk = n.chk := rfl
@[simp] theorem Node.latch_tst (n : Node) (c a : Nat) (v : Word) : (n.latch c a v).tst = n.tst := rfl
@[simp] theorem Node.latch_mem (n : Node) (c a : Nat) (v : Word) : (n.latch c a v).mem = n.mem := rfl
@[simp] theorem Node.latch_boot (n : Node) (c a : Nat) (v : Word) : (n.latch c a v).boot = n.boot := rfl
@[simp] theorem Node.latch_fresh (n : Node) (c a : Nat) (v : Word) : (n.latch c a v).fresh = n.fresh := rfl

@[simp] theorem Node.unlatch_regs (n : Node) (c a : Nat) : (n.unlatch c a).regs = n.regs := rfl
@[simp] theorem Node.unlatch_ev (n : Node) (c a : Nat) : (n.unlatch c a).ev = n.ev := rfl
@[simp] theorem Node.unlatch_host (n : Node) (c a : Nat) : (n.unlatch c a).host = n.host := rfl
@[simp] theorem Node.unlatch_net (n : Node) (c a : Nat) : (n.unlatch c a).net = n.net := rfl
@[simp] theorem Node.unlatch_cyc (n : Node) (c a : Nat) : (n.unlatch c a).cyc = n.cyc := rfl
@[simp] theorem Node.unlatch_ina (n : Node) (c a : Nat) : (n.unlatch c a).ina = n.ina := rfl
@[simp] theorem Node.unlatch_tm (n : Node) (c a : Nat) : (n.unlatch c a).tm = n.tm := rfl
@[simp] theorem Node.unlatch_plc (n : Node) (c a : Nat) : (n.unlatch c a).plc = n.plc := rfl
@[simp] theorem Node.unlatch_par (n : Node) (c a : Nat) : (n.unlatch c a).par = n.par := rfl
@[simp] theorem Node.unlatch_pd (n : Node) (c a : Nat) : (n.unlatch c a).pd = n.pd := rfl
@[simp] theorem Node.unlatch_aud (n : Node) (c a : Nat) : (n.unlatch c a).aud = n.aud := rfl
@[simp] theorem Node.unlatch_can (n : Node) (c a : Nat) : (n.unlatch c a).can = n.can := rfl
@[simp] theorem Node.unlatch_brg (n : Node) (c a : Nat) : (n.unlatch c a).brg = n.brg := rfl
@[simp] theorem Node.unlatch_chk (n : Node) (c a : Nat) : (n.unlatch c a).chk = n.chk := rfl
@[simp] theorem Node.unlatch_tst (n : Node) (c a : Nat) : (n.unlatch c a).tst = n.tst := rfl
@[simp] theorem Node.unlatch_mem (n : Node) (c a : Nat) : (n.unlatch c a).mem = n.mem := rfl
@[simp] theorem Node.unlatch_boot (n : Node) (c a : Nat) : (n.unlatch c a).boot = n.boot := rfl
@[simp] theorem Node.unlatch_fresh (n : Node) (c a : Nat) : (n.unlatch c a).fresh = n.fresh := rfl

@[simp] theorem Node.raise_latches (n : Node) (code d0 d1 : Nat) : (n.raise code d0 d1).latches = n.latches := by unfold Node.raise; split <;> rfl
@[simp] theorem Node.raise_host (n : Node) (code d0 d1 : Nat) : (n.raise code d0 d1).host = n.host := by unfold Node.raise; split <;> rfl
@[simp] theorem Node.raise_net (n : Node) (code d0 d1 : Nat) : (n.raise code d0 d1).net = n.net := by unfold Node.raise; split <;> rfl
@[simp] theorem Node.raise_cyc (n : Node) (code d0 d1 : Nat) : (n.raise code d0 d1).cyc = n.cyc := by unfold Node.raise; split <;> rfl
@[simp] theorem Node.raise_ina (n : Node) (code d0 d1 : Nat) : (n.raise code d0 d1).ina = n.ina := by unfold Node.raise; split <;> rfl
@[simp] theorem Node.raise_tm (n : Node) (code d0 d1 : Nat) : (n.raise code d0 d1).tm = n.tm := by unfold Node.raise; split <;> rfl
@[simp] theorem Node.raise_plc (n : Node) (code d0 d1 : Nat) : (n.raise code d0 d1).plc = n.plc := by unfold Node.raise; split <;> rfl
@[simp] theorem Node.raise_par (n : Node) (code d0 d1 : Nat) : (n.raise code d0 d1).par = n.par := by unfold Node.raise; split <;> rfl
@[simp] theorem Node.raise_pd (n : Node) (code d0 d1 : Nat) : (n.raise code d0 d1).pd = n.pd := by unfold Node.raise; split <;> rfl
@[simp] theorem Node.raise_aud (n : Node) (code d0 d1 : Nat) : (n.raise code d0 d1).aud = n.aud := by unfold Node.raise; split <;> rfl
@[simp] theorem Node.raise_can (n : Node) (code d0 d1 : Nat) : (n.raise code d0 d1).can = n.can := by unfold Node.raise; split <;> rfl
@[simp] theorem Node.raise_brg (n : Node) (code d0 d1 : Nat) : (n.raise code d0 d1).brg = n.brg := by unfold Node.raise; split <;> rfl
@[simp] theorem Node.raise_chk (n : Node) (code d0 d1 : Nat) : (n.raise code d0 d1).chk = n.chk := by unfold Node.raise; split <;> rfl
@[simp] theorem Node.raise_tst (n : Node) (code d0 d1 : Nat) : (n.raise code d0 d1).tst = n.tst := by unfold Node.raise; split <;> rfl
@[simp] theorem Node.raise_mem (n : Node) (code d0 d1 : Nat) : (n.raise code d0 d1).mem = n.mem := by unfold Node.raise; split <;> rfl
@[simp] theorem Node.raise_boot (n : Node) (code d0 d1 : Nat) : (n.raise code d0 d1).boot = n.boot := by unfold Node.raise; split <;> rfl
@[simp] theorem Node.raise_fresh (n : Node) (code d0 d1 : Nat) : (n.raise code d0 d1).fresh = n.fresh := by unfold Node.raise; split <;> rfl

theorem Node.setRegs_cons (n : Node) (a : Nat) (v : Word) (vs : List Word) :
    n.setRegs a (v :: vs) = (n.setReg a v).setRegs (a + 4) vs := rfl

@[simp] theorem Node.setRegs_latches (n : Node) (a : Nat) (vs : List Word) : (n.setRegs a vs).latches = n.latches := by
  induction vs generalizing n a with
  | nil => rfl
  | cons v vs ih => rw [Node.setRegs_cons, ih]; rfl
@[simp] theorem Node.setRegs_ev (n : Node) (a : Nat) (vs : List Word) : (n.setRegs a vs).ev = n.ev := by
  induction vs generalizing n a with
  | nil => rfl
  | cons v vs ih => rw [Node.setRegs_cons, ih]; rfl
@[simp] theorem Node.setRegs_host (n : Node) (a : Nat) (vs : List Word) : (n.setRegs a vs).host = n.host := by
  induction vs generalizing n a with
  | nil => rfl
  | cons v vs ih => rw [Node.setRegs_cons, ih]; rfl
@[simp] theorem Node.setRegs_net (n : Node) (a : Nat) (vs : List Word) : (n.setRegs a vs).net = n.net := by
  induction vs generalizing n a with
  | nil => rfl
  | cons v vs ih => rw [Node.setRegs_cons, ih]; rfl
@[simp] theorem Node.setRegs_cyc (n : Node) (a : Nat) (vs : List Word) : (n.setRegs a vs).cyc = n.cyc := by
  induction vs generalizing n a with
  | nil => rfl
  | cons v vs ih => rw [Node.setRegs_cons, ih]; rfl
@[simp] theorem Node.setRegs_ina (n : Node) (a : Nat) (vs : List Word) : (n.setRegs a vs).ina = n.ina := by
  induction vs generalizing n a with
  | nil => rfl
  | cons v vs ih => rw [Node.setRegs_cons, ih]; rfl
@[simp] theorem Node.setRegs_tm (n : Node) (a : Nat) (vs : List Word) : (n.setRegs a vs).tm = n.tm := by
  induction vs generalizing n a with
  | nil => rfl
  | cons v vs ih => rw [Node.setRegs_cons, ih]; rfl
@[simp] theorem Node.setRegs_plc (n : Node) (a : Nat) (vs : List Word) : (n.setRegs a vs).plc = n.plc := by
  induction vs generalizing n a with
  | nil => rfl
  | cons v vs ih => rw [Node.setRegs_cons, ih]; rfl
@[simp] theorem Node.setRegs_par (n : Node) (a : Nat) (vs : List Word) : (n.setRegs a vs).par = n.par := by
  induction vs generalizing n a with
  | nil => rfl
  | cons v vs ih => rw [Node.setRegs_cons, ih]; rfl
@[simp] theorem Node.setRegs_pd (n : Node) (a : Nat) (vs : List Word) : (n.setRegs a vs).pd = n.pd := by
  induction vs generalizing n a with
  | nil => rfl
  | cons v vs ih => rw [Node.setRegs_cons, ih]; rfl
@[simp] theorem Node.setRegs_aud (n : Node) (a : Nat) (vs : List Word) : (n.setRegs a vs).aud = n.aud := by
  induction vs generalizing n a with
  | nil => rfl
  | cons v vs ih => rw [Node.setRegs_cons, ih]; rfl
@[simp] theorem Node.setRegs_can (n : Node) (a : Nat) (vs : List Word) : (n.setRegs a vs).can = n.can := by
  induction vs generalizing n a with
  | nil => rfl
  | cons v vs ih => rw [Node.setRegs_cons, ih]; rfl
@[simp] theorem Node.setRegs_brg (n : Node) (a : Nat) (vs : List Word) : (n.setRegs a vs).brg = n.brg := by
  induction vs generalizing n a with
  | nil => rfl
  | cons v vs ih => rw [Node.setRegs_cons, ih]; rfl
@[simp] theorem Node.setRegs_chk (n : Node) (a : Nat) (vs : List Word) : (n.setRegs a vs).chk = n.chk := by
  induction vs generalizing n a with
  | nil => rfl
  | cons v vs ih => rw [Node.setRegs_cons, ih]; rfl
@[simp] theorem Node.setRegs_tst (n : Node) (a : Nat) (vs : List Word) : (n.setRegs a vs).tst = n.tst := by
  induction vs generalizing n a with
  | nil => rfl
  | cons v vs ih => rw [Node.setRegs_cons, ih]; rfl
@[simp] theorem Node.setRegs_mem (n : Node) (a : Nat) (vs : List Word) : (n.setRegs a vs).mem = n.mem := by
  induction vs generalizing n a with
  | nil => rfl
  | cons v vs ih => rw [Node.setRegs_cons, ih]; rfl
@[simp] theorem Node.setRegs_boot (n : Node) (a : Nat) (vs : List Word) : (n.setRegs a vs).boot = n.boot := by
  induction vs generalizing n a with
  | nil => rfl
  | cons v vs ih => rw [Node.setRegs_cons, ih]; rfl
@[simp] theorem Node.setRegs_fresh (n : Node) (a : Nat) (vs : List Word) : (n.setRegs a vs).fresh = n.fresh := by
  induction vs generalizing n a with
  | nil => rfl
  | cons v vs ih => rw [Node.setRegs_cons, ih]; rfl

end Sys2Proof.Machine
end

