-- ==== Sys2Proof/Laws/Ops.lean ====
section
/-! SUPPORT. What the named operations over registers, bit fields and events do, said once. -/

namespace Sys2Proof.Machine

/-! ### Bit fields of a number -/

theorem bitsOf_lt (n lo w : Nat) : bitsOf n lo w < 2 ^ w := Nat.mod_lt _ (Nat.two_pow_pos w)

/-- A number is what lies above a field, the field, and what lies below it. -/
theorem field_split (n lo w : Nat) :
    n = n / 2 ^ (lo + w) * 2 ^ (lo + w) + bitsOf n lo w * 2 ^ lo + n % 2 ^ lo := by
  unfold bitsOf
  have h1 := Nat.div_add_mod n (2 ^ lo)
  have h2 := Nat.div_add_mod (n / 2 ^ lo) (2 ^ w)
  rw [Nat.div_div_eq_div_mul, ← Nat.pow_add] at h2
  calc n = 2 ^ lo * (n / 2 ^ lo) + n % 2 ^ lo := h1.symm
    _ = 2 ^ lo * (2 ^ w * (n / 2 ^ (lo + w)) + n / 2 ^ lo % 2 ^ w) + n % 2 ^ lo := by rw [h2]
    _ = _ := by rw [Nat.pow_add]; ring

theorem withBits_split (n lo w v : Nat) :
    withBits n lo w v = n / 2 ^ (lo + w) * 2 ^ (lo + w) + v % 2 ^ w * 2 ^ lo + n % 2 ^ lo := by
  have h := field_split n lo w
  unfold withBits
  omega

theorem withBits_div (n lo w v : Nat) : withBits n lo w v / 2 ^ lo = n / 2 ^ (lo + w) * 2 ^ w + v % 2 ^ w := by
  rw [withBits_split, Nat.pow_add, show n / (2 ^ lo * 2 ^ w) * (2 ^ lo * 2 ^ w) + v % 2 ^ w * 2 ^ lo + n % 2 ^ lo =
    n % 2 ^ lo + (n / (2 ^ lo * 2 ^ w) * 2 ^ w + v % 2 ^ w) * 2 ^ lo by ring,
    Nat.add_mul_div_right _ _ (Nat.two_pow_pos lo), Nat.div_eq_of_lt (Nat.mod_lt _ (Nat.two_pow_pos lo)), Nat.zero_add]

/-- A field reads as the low bits of what was put into it. -/
theorem bitsOf_withBits_self (n lo w v : Nat) : bitsOf (withBits n lo w v) lo w = v % 2 ^ w := by
  unfold bitsOf
  rw [withBits_div, Nat.mul_comm, Nat.mul_add_mod, Nat.mod_mod]

/-- A field lies within the bits below its end. -/
theorem bitsOf_mod (n lo w k : Nat) (h : lo + w ≤ k) : bitsOf (n % 2 ^ k) lo w = bitsOf n lo w := by
  obtain ⟨j, rfl⟩ := Nat.exists_eq_add_of_le h
  unfold bitsOf
  rw [show lo + w + j = lo + (w + j) by ring, Nat.pow_add, Nat.mod_mul_right_div_self, Nat.pow_add, Nat.mod_mul_right_mod]

/-- A field below a replaced one is as it was. -/
theorem bitsOf_withBits_below (n lo w v lo' w' : Nat) (h : lo' + w' ≤ lo) :
    bitsOf (withBits n lo w v) lo' w' = bitsOf n lo' w' := by
  rw [← bitsOf_mod (withBits n lo w v) lo' w' lo h, ← bitsOf_mod n lo' w' lo h]
  congr 1
  rw [withBits_split, Nat.pow_add, show n / (2 ^ lo * 2 ^ w) * (2 ^ lo * 2 ^ w) + v % 2 ^ w * 2 ^ lo + n % 2 ^ lo =
    2 ^ lo * (n / (2 ^ lo * 2 ^ w) * 2 ^ w + v % 2 ^ w) + n % 2 ^ lo by ring, Nat.mul_add_mod, Nat.mod_mod]

/-- A field above a replaced one is as it was. -/
theorem bitsOf_withBits_above (n lo w v lo' w' : Nat) (h : lo + w ≤ lo') :
    bitsOf (withBits n lo w v) lo' w' = bitsOf n lo' w' := by
  obtain ⟨j, rfl⟩ := Nat.exists_eq_add_of_le h
  have hd : withBits n lo w v / 2 ^ (lo + w) = n / 2 ^ (lo + w) := by
    rw [Nat.pow_add, ← Nat.div_div_eq_div_mul, withBits_div, Nat.mul_comm, Nat.mul_add_div (Nat.two_pow_pos w),
      Nat.div_eq_of_lt (Nat.mod_lt _ (Nat.two_pow_pos w)), Nat.add_zero, Nat.pow_add]
  unfold bitsOf
  rw [Nat.pow_add _ (lo + w) j, ← Nat.div_div_eq_div_mul, ← Nat.div_div_eq_div_mul, hd]

@[simp] theorem word_toNat (v : Nat) : (word v).toNat = v % 2 ^ 32 := by simp [word]

/-! ### Fields of a register word -/

/-- A field of a word reads as the low bits of what was put into it. -/
theorem Field.get_put_self (f : Field) (w : Word) (v : Nat) (h : f.lo + f.width ≤ 32) :
    f.get (f.put w v) = v % 2 ^ f.width := by
  unfold Field.get Field.put
  rw [word_toNat, bitsOf_mod _ _ _ _ h, bitsOf_withBits_self]

/-- Another field of the same word is as it was. -/
theorem Field.get_put_ne (f g : Field) (w : Word) (v : Nat) (hg : g.lo + g.width ≤ 32)
    (h : g.lo + g.width ≤ f.lo ∨ f.lo + f.width ≤ g.lo) : g.get (f.put w v) = g.get w := by
  unfold Field.get Field.put
  rw [word_toNat, bitsOf_mod _ _ _ _ hg]
  rcases h with h | h
  · exact bitsOf_withBits_below _ _ _ _ _ _ h
  · exact bitsOf_withBits_above _ _ _ _ _ _ h

/-! ### Registers -/

/-- A register read after a register is given a word. -/
theorem Node.reg_setReg (n : Node) (a b : Nat) (v : Word) : (n.setReg a v).reg b = if b = a then v else n.reg b :=
  Sparse.get_put n.regs a b v

@[simp] theorem Node.reg_setReg_self (n : Node) (a : Nat) (v : Word) : (n.setReg a v).reg a = v := by
  rw [Node.reg_setReg, if_pos rfl]

theorem Node.reg_setReg_ne (n : Node) {a b : Nat} (v : Word) (h : b ≠ a) : (n.setReg a v).reg b = n.reg b := by
  rw [Node.reg_setReg, if_neg h]

theorem Node.fld_setFld_self (n : Node) (a : Nat) (f : Field) (v : Nat) (h : f.lo + f.width ≤ 32) :
    (n.setFld a f v).fld a f = v % 2 ^ f.width := by
  simp [Node.fld, Node.setFld, Field.get_put_self f _ v h]

theorem Node.reg_setFld_ne (n : Node) {a b : Nat} (f : Field) (v : Nat) (h : b ≠ a) : (n.setFld a f v).reg b = n.reg b :=
  Node.reg_setReg_ne n _ h

theorem Node.fld_setFld_ne (n : Node) (a : Nat) (f g : Field) (v : Nat) (hg : g.lo + g.width ≤ 32)
    (h : g.lo + g.width ≤ f.lo ∨ f.lo + f.width ≤ g.lo) : (n.setFld a f v).fld a g = n.fld a g := by
  simp [Node.fld, Node.setFld, Field.get_put_ne f g _ v hg h]

theorem Node.reg_setBits_ne (n : Node) {a b : Nat} (lo w v : Nat) (h : b ≠ a) : (n.setBits a lo w v).reg b = n.reg b :=
  Node.reg_setReg_ne n _ h

theorem Node.bits_setBits_self (n : Node) (a lo w v : Nat) (h : lo + w ≤ 32) :
    (n.setBits a lo w v).bits a lo w = v % 2 ^ w := by
  unfold Node.bits Node.setBits
  rw [Node.reg_setReg_self, word_toNat, bitsOf_mod _ _ _ _ h, bitsOf_withBits_self]

theorem Node.reg_inc_self (n : Node) (a : Nat) : (n.inc a).reg a = word (min ((n.reg a).toNat + 1) 0xFFFFFFFF) := by
  simp [Node.inc, Node.addSat]

theorem Node.reg_inc_ne (n : Node) {a b : Nat} (h : b ≠ a) : (n.inc a).reg b = n.reg b := Node.reg_setReg_ne n _ h

@[simp] theorem Node.reg_at (n : Node) (t a : Nat) : (n.at t).reg a = n.reg a := rfl
@[simp] theorem Node.reg_latch (n : Node) (c a b : Nat) (v : Word) : (n.latch c a v).reg b = n.reg b := rfl
@[simp] theorem Node.reg_unlatch (n : Node) (c a b : Nat) : (n.unlatch c a).reg b = n.reg b := rfl

/-- Consecutive registers given words: the registers outside them are as they were. -/
theorem Node.reg_setRegs_out (vs : List Word) (n : Node) (a b : Nat) (h : b < a ∨ a + 4 * vs.length ≤ b) :
    (n.setRegs a vs).reg b = n.reg b := by
  induction vs generalizing n a with
  | nil => rfl
  | cons v vs ih =>
    simp only [List.length_cons] at h
    rw [Node.setRegs_cons, ih _ _ (by omega), Node.reg_setReg_ne _ _ (by omega)]

/-! ### Events (R670, R676) -/

/-- What a raise does: with fewer than 256 events waiting the record joins the queue and no register changes; otherwise the
loss is counted and the queue stands. -/
theorem Node.raise_cases (n : Node) (code d0 d1 : Nat) :
    (n.ev.queue.length < 256 ∧
      n.raise code d0 d1 = { n with ev := { n.ev with queue := n.ev.queue ++ [n.eventNow code d0 d1] } }) ∨
    (256 ≤ n.ev.queue.length ∧ n.raise code d0 d1 = n.inc Reg.EVT_DROP) := by
  unfold Node.raise
  split
  · next h => exact .inl ⟨h, rfl⟩
  · next h => exact .inr ⟨by omega, rfl⟩

theorem Node.reg_raise_ne (n : Node) (code d0 d1 : Nat) {a : Nat} (h : a ≠ Reg.EVT_DROP) :
    (n.raise code d0 d1).reg a = n.reg a := by
  rcases n.raise_cases code d0 d1 with ⟨_, e⟩ | ⟨_, e⟩ <;> rw [e]
  · rfl
  · exact Node.reg_inc_ne n h

/-! ### The canonical form -/

theorem Memory.wf_raise (n : Node) (code d0 d1 : Nat) (h : Memory.wf n = true) : Memory.wf (n.raise code d0 d1) = true := by
  rcases n.raise_cases code d0 d1 with ⟨_, e⟩ | ⟨_, e⟩ <;> rw [e]
  · exact h
  · exact Memory.wf_setReg n _ _ h

end Sys2Proof.Machine
end

