-- ==== Sys2Proof/Laws/Access.lean ====
section
/-! SUPPORT. What a register access and a command do, said once: the path that reaches the effect, and each path that does not
(R666, R787). -/

namespace Sys2Proof.Machine

@[simp] theorem Node.answer_regs (n : Node) (v : Word) : (n.answer v).regs = n.regs := rfl
@[simp] theorem Node.reg_answer (n : Node) (v : Word) (a : Nat) : (n.answer v).reg a = n.reg a := rfl
@[simp] theorem Node.bit_answer (n : Node) (v : Word) (a i : Nat) : (n.answer v).bit a i = n.bit a i := rfl
@[simp] theorem Node.waitingOk_answer (n : Node) (v : Word) (c a : Nat) (w : Bool) :
    (n.answer v).waitingOk c a w = n.waitingOk c a w := rfl
@[simp] theorem Node.ctxSecure_answer (n : Node) (v : Word) (c : Nat) : (n.answer v).ctxSecure c = n.ctxSecure c := rfl
@[simp] theorem Node.refusal_answer (n : Node) (v : Word) (s : Bool) (c a : Nat) (w : Bool) :
    (n.answer v).refusal s c a w = n.refusal s c a w := rfl

/-- An access that passes every check of R666 reaches its effect. -/
theorem Node.access_admitted (n : Node) (ctx addr : Nat) (write : Bool) (act : Node → Node)
    (h : n.admits ctx addr write = true) : n.access ctx addr write act = act (n.answer 0#32) := by
  simp only [Node.admits, Bool.and_eq_true, decide_eq_true_eq, Option.isNone_iff_eq_none] at h
  obtain ⟨⟨⟨⟨⟨⟨⟨hc, hh⟩, ha⟩, hr⟩, hw⟩, hn⟩, hd⟩, hrow⟩ := h
  obtain ⟨row, hrow⟩ := Option.isSome_iff_exists.mp hrow
  unfold Node.access Node.checked
  dsimp only
  rw [if_neg (by simp [hh]; omega), if_neg (by omega), if_neg (by simp [hw]), Node.ctxSecure_answer, Node.refusal_answer, hn]
  dsimp only
  rw [hrow]
  cases hdd : domainOf addr with
  | none => rfl
  | some d => exact if_neg (by rw [hdd] at hd; simp only [Option.all_some] at hd; simp [hd])

/-- An access of a world or an owner that R648 or R623 refuses is counted, logged and reported, and has no other effect. -/
theorem Node.checked_refused (n : Node) (secure : Bool) (ctx addr : Nat) (write : Bool) (act : Node → Node) (cause inst : Nat)
    (h : n.refusal secure ctx addr write = some (cause, inst)) :
    n.checked secure ctx addr write act =
      (n.refuse ctx write 0 cause addr inst).spiFlag ctx fun s => { s with refused := true } := by
  simp [Node.checked, h]

/-- A row of commands acts on the entries of its own opcode (R14). -/
theorem State.runs_takes (s : State) (c : Cmd) (op : Nat) (need : Need) (nargs : Nat) (f : Node → Node)
    (h : s.node.takes c op need nargs = true) : s.runs c op f = s.on f := by
  simp only [Node.takes, Bool.and_eq_true, decide_eq_true_eq] at h
  simp [State.runs, h.1.1.1.1.1.1]

/-- A command that passes checks 6, 7 and 9 of R787 and that no fence holds is carried out. -/
theorem Node.command_runs (n : Node) (c : Cmd) (op : Nat) (need : Need) (nargs : Nat) (act : Node → Answer)
    (h : n.takes c op need nargs = true) : n.command c need nargs act = Node.settle c (act (n.at c.time)) := by
  simp only [Node.takes, Bool.and_eq_true, Bool.or_eq_true, Bool.not_eq_true', decide_eq_true_eq] at h
  obtain ⟨⟨⟨⟨⟨⟨ho, hf⟩, h6⟩, hr⟩, ha⟩, hw⟩, h9⟩ := h
  have h6' : ¬ 2 ≤ c.entry.flags := by omega
  have h9' : ∀ a, (n.at c.time).waitAnswer c a = a := by
    intro a
    have : (n.at c.time).waiting = false ∨ c.entry.opcode / 256 = 0x0D := by rw [ho]; exact h9
    rcases this with h | h <;> simp [Node.waitAnswer, h]
  have hs : (n.at c.time).ctxSecure c.ctx = n.ctxSecure c.ctx := rfl
  have hi : ∀ i, (n.at c.time).instSecure i = n.instSecure i := fun _ => rfl
  unfold Node.command
  simp only [hf, h6', hr, ha, h9', Bool.false_eq_true, if_false, ne_eq, not_true_eq_false, false_or]
  cases need with
  | either => cases act (n.at c.time) <;> rfl
  | secure i =>
    have hw' : n.ctxSecure c.ctx = true := hw
    simp only [hs, hw', if_true]
    cases act (n.at c.time) <;> rfl
  | inst i =>
    have hw' : (n.ctxSecure c.ctx || !n.instSecure i) = true := hw
    simp only [hs, hi, hw', if_true]
    cases act (n.at c.time) <;> rfl

/-- Check 6 of R787: a reserved field that is not zero completes the command with REJECT_ARGS and no effect. -/
theorem Node.command_reserved (n : Node) (c : Cmd) (need : Need) (nargs : Nat) (act : Node → Answer)
    (hf : (n.at c.time).fenceHeld c = false)
    (hr : 2 ≤ c.entry.flags ∨ c.entry.rsv ≠ 0 ∨ (c.entry.args.drop nargs).any (· != 0#32) = true) :
    n.command c need nargs act = (n.at c.time).finish c.ctx c.ring c.entry.seq c.entry.opcode sArgs [] := by
  unfold Node.command
  rw [if_neg (by simp [hf])]
  exact if_pos hr

/-- Check 7 of R787: a command of the other world is logged as a refusal of kind 2 and completes with REJECT_WORLD. -/
theorem Node.command_world (n : Node) (c : Cmd) (i nargs : Nat) (act : Node → Answer) (need : Need)
    (hn : need = .secure i ∨ need = .inst i)
    (hf : (n.at c.time).fenceHeld c = false) (h6 : c.entry.flags < 2) (hr : c.entry.rsv = 0)
    (ha : (c.entry.args.drop nargs).any (· != 0#32) = false) (hw : n.mayRun c.ctx need = false) :
    n.command c need nargs act =
      ((n.at c.time).refuse c.ctx false 2 1 c.entry.opcode i).finish c.ctx c.ring c.entry.seq c.entry.opcode sWorld [] := by
  have h6' : ¬ 2 ≤ c.entry.flags := by omega
  have hs : (n.at c.time).ctxSecure c.ctx = n.ctxSecure c.ctx := rfl
  have hi : ∀ i, (n.at c.time).instSecure i = n.instSecure i := fun _ => rfl
  unfold Node.command
  simp only [hf, h6', hr, ha, Bool.false_eq_true, if_false, ne_eq, not_true_eq_false, false_or]
  rcases hn with rfl | rfl
  · have hw' : n.ctxSecure c.ctx = false := hw
    simp only [hs, hw', Bool.false_eq_true, if_false]
  · have hw' : (n.ctxSecure c.ctx || !n.instSecure i) = false := hw
    simp only [hs, hi, hw', Bool.false_eq_true, if_false]

/-- A command that a fence holds is not started: only time passes. -/
theorem Node.command_held (n : Node) (c : Cmd) (need : Need) (nargs : Nat) (act : Node → Answer)
    (hf : (n.at c.time).fenceHeld c = true) : n.command c need nargs act = n.at c.time := by
  unfold Node.command
  rw [if_pos hf]

end Sys2Proof.Machine
end

