-- ==== Sys2Proof/Laws/Stores.lean ====
section
/-! SUPPORT. Every operation that writes a memory of the node keeps the canonical form: the flash, the DRAM, the staging buffer, and what a
reset makes of them. -/

namespace Sys2Proof.Machine

/-- The canonical form is a matter of the registers and the three memories alone. -/
theorem Memory.wf_iff (n : Node) : Memory.wf n = true ↔ Sparse.wf regReset n.regs = true ∧
    Sparse.wf (fun _ => 0xFF#8) n.mem.flash = true ∧ Sparse.wf (fun _ => 0#8) n.mem.dram = true ∧
    Sparse.wf (fun _ => 0#8) n.mem.stage = true := by
  simp only [Memory.wf, Bool.and_eq_true, and_assoc]

theorem Memory.wf_congr {m n : Node} (hr : m.regs = n.regs) (hm : m.mem = n.mem) : Memory.wf m = Memory.wf n := by
  simp only [Memory.wf, hr, hm]

/-! ### Registers -/

theorem Memory.wf_setFld (n : Node) (a : Nat) (f : Field) (v : Nat) (h : Memory.wf n = true) : Memory.wf (n.setFld a f v) = true :=
  Memory.wf_setReg n a _ h

theorem Memory.wf_setBits (n : Node) (a lo w v : Nat) (h : Memory.wf n = true) : Memory.wf (n.setBits a lo w v) = true :=
  Memory.wf_setReg n a _ h

theorem Memory.wf_setBit (n : Node) (a i : Nat) (b : Bool) (h : Memory.wf n = true) : Memory.wf (n.setBit a i b) = true :=
  Memory.wf_setReg n a _ h

theorem Memory.wf_addSat (n : Node) (a k : Nat) (h : Memory.wf n = true) : Memory.wf (n.addSat a k) = true := Memory.wf_setReg n a _ h

theorem Memory.wf_inc (n : Node) (a : Nat) (h : Memory.wf n = true) : Memory.wf (n.inc a) = true := Memory.wf_setReg n a _ h

theorem Memory.wf_setRegs (vs : List Word) (n : Node) (a : Nat) (h : Memory.wf n = true) : Memory.wf (n.setRegs a vs) = true := by
  induction vs generalizing n a with
  | nil => exact h
  | cons v vs ih => exact ih _ _ (Memory.wf_setReg n a v h)

/-- An armed injection that is used up touches registers only. -/
theorem Memory.wf_injUse (n : Node) (h : Memory.wf n = true) : Memory.wf n.injUse = true := by
  unfold Node.injUse
  dsimp only
  split
  · exact Memory.wf_setBit _ _ _ _ (Memory.wf_setReg _ _ _ (Memory.wf_setFld _ _ _ _ h))
  · exact Memory.wf_setReg _ _ _ h

/-- A memory written while an injection is armed keeps its form: what is spoilt stands beside the stores (R694). -/
theorem Memory.wf_injWords (n : Node) (mem first words one two unit hi : Nat) (h : Memory.wf n = true) :
    Memory.wf (n.injWords mem first words one two unit hi) = true := by
  unfold Node.injWords
  dsimp only
  split
  · exact h
  · split
    · exact Memory.wf_injUse { n with mem := { n.mem with spoilt := _ } } h
    · split
      · exact Memory.wf_injUse { n with mem := { n.mem with spoilt := _ } } h
      · exact h

/-! ### The memories -/

/-- The flash is programmed (R123) and erased (R116). -/
theorem Memory.wf_flashProgram (n : Node) (a : Nat) (bs : List Byte) (h : Memory.wf n = true) : Memory.wf (n.flashProgram a bs) = true := by
  rw [Memory.wf_iff] at h ⊢
  exact ⟨h.1, Sparse.wf_putAll _ _ _ h.2.1, h.2.2⟩

theorem Memory.wf_flashErase (n : Node) (slot : Nat) (h : Memory.wf n = true) : Memory.wf (n.flashErase slot) = true := by
  rw [Memory.wf_iff] at h ⊢
  exact ⟨h.1, Sparse.wf_filter _ _ h.2.1, h.2.2⟩

/-- The DRAM is written. -/
theorem Memory.wf_dramWrite (n : Node) (a : Nat) (bs : List Byte) (h : Memory.wf n = true) : Memory.wf (n.dramWrite a bs) = true := by
  have hi : Memory.wf (n.injDram a bs.length) = true := Memory.wf_injWords n _ _ _ _ _ _ _ h
  rw [Memory.wf_iff] at h hi ⊢
  exact ⟨hi.1, hi.2.1, Sparse.wf_putAll _ _ _ h.2.2.1, hi.2.2.2⟩

/-- The staging buffer is written through its window (R134, R136). -/
theorem Memory.wf_stageWrite (n : Node) (a : Nat) (v : Word) (h : Memory.wf n = true) : Memory.wf (n.stageWrite a v) = true := by
  unfold Node.stageWrite
  dsimp only
  split
  · rw [Memory.wf_iff] at h ⊢
    exact ⟨h.1, h.2.1, h.2.2.1, Sparse.wf_putAll _ _ _ h.2.2.2⟩
  · exact h

/-- What a reset keeps of the DRAM (R717). -/
theorem Memory.wf_keptBytes (n : Node) (h : Memory.wf n = true) : Sparse.wf (fun _ => 0#8) n.keptBytes = true := by
  rw [Memory.wf_iff] at h
  unfold Node.keptBytes
  split
  · exact Sparse.wf_filter _ _ h.2.2.1
  · exact h.2.2.1

/-- A reset leaves canonical memories (R713). -/
theorem Memory.wf_resetTo (n : Node) (o : Otp) (kind cause : Nat) (h : Memory.wf n = true) :
    Memory.wf (n.resetTo o kind cause) = true := by
  have hk := Memory.wf_keptBytes n h
  have hd : Sparse.wf (fun _ => 0#8) (if 3 ≤ kind then n.keptBytes else []) = true := by
    split
    · exact hk
    · decide
  have hs : Sparse.wf (fun _ => 0#8) ([] : List (Nat × Byte)) = true := by decide
  rw [Memory.wf_iff] at h
  unfold Node.resetTo
  dsimp only
  refine Memory.wf_setReg _ _ _ ?_
  split
  on_goal 1 => refine Memory.wf_inc _ _ ?_
  all_goals
    split
    on_goal 2 => refine Memory.wf_setBit _ _ _ _ ?_
    all_goals
      refine Memory.wf_setReg _ _ _ (Memory.wf_setReg _ _ _ ?_)
      rw [Memory.wf_iff]
      exact ⟨Sparse.wf_filter _ _ h.1, h.2.1, hd, hs⟩

end Sys2Proof.Machine
end

