-- ==== Sys2Proof/WellFormed.lean ====
section
/-! DEFINITION. Which commands are well formed: every operand in the range that the spec gives it. The checks are about a command
as syntax; what the node does with a register access or a submission entry that the spec refuses is `exec`'s matter, so none
of those is ill-formed here. -/

namespace Sys2Proof

/-- A host context, 0 to 7 (R620). -/
def ctxOk (c : Nat) : Bool := decide (c < 8)

/-- A VLAN tag: three bits of priority, one of drop eligibility, twelve of VLAN ID. -/
def Tci.wf (t : Tci) : Bool := decide (t.pcp < 8) && decide (t.dei < 2) && decide (t.vid < 4096)

/-- A frame: 48-bit addresses and a 16-bit EtherType (R147). -/
def Frame.wf (f : Frame) : Bool :=
  decide (f.dst < 2 ^ 48) && decide (f.src < 2 ^ 48) && decide (f.etype < 65536) && f.tag.all Tci.wf

/-- A received frame: a fabric port, 0 to 12 (R52). -/
def Rx.wf (r : Rx) : Bool := decide (r.port < 13) && r.frame.wf

/-- A submission entry (R636): 16-bit opcode, a flags byte and a reserved byte, a 32-bit sequence and 14 argument words. -/
def SqEntry.wf (e : SqEntry) : Bool :=
  decide (e.opcode < 65536) && decide (e.flags < 256) && decide (e.rsv < 256) && decide (e.seq < 2 ^ 32) &&
    decide (e.args.length = 14)

/-- A started command: a context, one of its four rings (R631) and its entry. -/
def Cmd.wf (c : Cmd) : Bool := ctxOk c.ctx && decide (c.ring < 4) && c.entry.wf

/-- A started command of one opcode. -/
def Cmd.has (c : Cmd) (op : Nat) : Bool := c.wf && decide (c.entry.opcode = op)

/-- A CAN frame: an identifier as `ID` places it, a four-bit data length code and at most 64 data bytes (R532). -/
def CanFrame.wf (f : CanFrame) : Bool := decide (f.id < 2 ^ 29) && decide (f.dlc < 16) && decide (f.data.length ≤ 64)

/-- Every operand in range, one arm per command. -/
def Instr.wf : Instr → Bool
  | .registerWrite ctx _ _ => ctxOk ctx
  | .w1cWrite ctx _ _ _ => ctxOk ctx
  | .rcRegisterRead ctx _ _ => ctxOk ctx
  | .counterLowWordRead ctx _ => ctxOk ctx
  | .topPlaceRead ctx => ctxOk ctx
  | .tmbNowNsRead ctx _ => ctxOk ctx
  | .regAccessBad ctx _ _ _ => ctxOk ctx
  | .violationLogRead ctx => ctxOk ctx
  | .spiStatusTransaction port => decide (port < 2)
  | .spiInvalidTransaction port => decide (port < 2)
  | .sqTailDoorbell ctx ring _ => ctxOk ctx && decide (ring < 4)
  | .cqHeadDoorbell ctx ring _ => ctxOk ctx && decide (ring < 4)
  | .evqHeadDoorbell ctx _ => ctxOk ctx
  | .ringSizeWrite ctx _ _ => ctxOk ctx
  | .ftxTailDoorbell ctx _ => ctxOk ctx
  | .frxTailDoorbell ctx _ => ctxOk ctx
  | .hostFrameTransmit ctx _ frameTag _ frame _ => ctxOk ctx && decide (frameTag < 65536) && frame.wf
  | .commandFetch ctx ring entry _ => ctxOk ctx && decide (ring < 4) && entry.wf
  | .undefinedOpcode c => c.wf
  | .hostFrameCommands r => r.wf
  | .completionFrameSend ctx _ => ctxOk ctx
  | .hostFrameLinkTimeout ctx _ => ctxOk ctx
  | .cqIrqTimerExpiry ctx ring _ => ctxOk ctx && decide (ring < 4)
  | .hstCtxResetWrite ctx target _ => ctxOk ctx && ctxOk target
  | .contextReset ctx _ => ctxOk ctx
  | .pcieFunctionLevelReset fn => decide (fn < 4)
  | .pcieLinkDown _ => true
  | .pciePerst _ => true
  | .hostDmaError ctx ring _ _ => ctxOk ctx && decide (ring < 7)
  | .nodeStatus c => c.has 0x0101
  | .nodeNop c => c.has 0x0102
  | .ctxReset c => c.has 0x0103
  | .ctxInfo c => c.has 0x0104
  | .jrnStatus c => c.has 0x0B01
  | .jrnRead c => c.has 0x0B02
  | .jrnAck c => c.has 0x0B03
  | .jrnClear c => c.has 0x0B04
  | .eventRoute _ => true
  | .faultLogWord0Read ctx _ => ctxOk ctx
  | .evtClearLog ctx => ctxOk ctx
  | .evtClearFatal ctx => ctxOk ctx
  | .engineFault engine _ _ => decide (engine < 16)
  | .engineFaultClear ctx _ => ctxOk ctx
  | .sramScrub _ _ => true
  | .resetRelease _ _ _ => true
  | .bistRunComplete _ _ _ => true
  | .dramTrainingDone _ _ _ _ _ => true
  | .imageCheckPoint _ _ _ _ => true
  | .imageBooted _ => true
  | .bootAttemptClear _ => true
  | .imgStatus c => c.has 0x0D01
  | .imgSlotErase c => c.has 0x0D02
  | .imgSlotWrite c => c.has 0x0D03
  | .imgSlotVerify c => c.has 0x0D04
  | .imgSlotMarkBad c => c.has 0x0D05
  | .imgTintStage c => c.has 0x0D06
  | .imgTintCommit c => c.has 0x0D07
  | .imgTintDiscard c => c.has 0x0D08
  | .imgRollbackAdvance c => c.has 0x0D09
  | .imgRestart c => c.has 0x0D0A
  | .imgKeyRevoke c => c.has 0x0D0B
  | .linkUp port _ _ => decide (port < 13)
  | .linkDown port _ _ => decide (port < 13)
  | .macsecMismatch port _ _ => decide (port < 13)
  | .preemptVerifyAttempt port _ => decide (port < 13)
  | .adminDownWrite ctx port _ => ctxOk ctx && decide (port < 13)
  | .wakeSendWrite ctx port _ => ctxOk ctx && decide (port < 13)
  | .wakeSendAuto _ => true
  | .wakeFrameSend port _ => decide (port < 13)
  | .filterRuleWrite ctx rule wordIndex _ => ctxOk ctx && decide (rule < 8192) && decide (wordIndex < 8)
  | .mdioGoWrite ctx master _ => ctxOk ctx && decide (master < 2)
  | .mdioFrameDone master _ _ => decide (master < 2)
  | .openFrameReceived r => r.wf
  | .macControlFrameReceived r => r.wf
  | .slotFrameReceived r => r.wf
  | .statusFrameReceived r => r.wf
  | .refReceived r => r.wf
  | .cycleBoundary _ => true
  | .refLost _ => true
  | .backupTakeoverClaim _ => true
  | .orphaned _ => true
  | .takeInstant stream _ => decide (stream < 16384)
  | .originatedSlotSend stream _ => decide (stream < 16384)
  | .forwardGateOpen stream port _ => decide (stream < 16384) && decide (port < 13)
  | .slotOverrun stream port _ => decide (stream < 16384) && decide (port < 13)
  | .closingGuardStart _ => true
  | .pollSend _ => true
  | .pollReceived r => r.wf
  | .replyReceived r => r.wf
  | .pollMissed _ => true
  | .masterMessageSend _ => true
  | .modeRequestSend _ => true
  | .modeRequestReceived r => r.wf
  | .modeAnswerReceived r => r.wf
  | .masterAnswerTimeout ctx ring _ _ => ctxOk ctx && decide (ring < 4)
  | .cycStatus c => c.has 0x0301
  | .cycModeSwitch c => c.has 0x0302
  | .cycModeAbort c => c.has 0x0303
  | .cycModeInfo c => c.has 0x0304
  | .linkWaitExpiry _ => true
  | .listenWaitExpiry _ => true
  | .claimSend _ => true
  | .claimReceived r => r.wf
  | .masterElected _ => true
  | .topoRoundStart _ => true
  | .topoProbeReceived r => r.wf
  | .topoReplyReceived r => r.wf
  | .topoNoticeReceived r => r.wf
  | .topoRoundTimeout _ => true
  | .numberingAssigned _ => true
  | .topoResultReceived r => r.wf
  | .operationRequestReceived r => r.wf
  | .operationAnswerReceived r => r.wf
  | .trainResetInstant _ => true
  | .snapshotTaken _ => true
  | .snapshotRecordSend _ => true
  | .trainSetLead c => c.has 0x0120
  | .trainStatus c => c.has 0x0121
  | .trainReinaugurate c => c.has 0x0122
  | .trainReset c => c.has 0x0123
  | .trainSnapshot c => c.has 0x0124
  | .ttdpHelloSend _ => true
  | .ttdpHelloReceived port identity _ => decide (port < 13) && decide (identity < 2 ^ 48)
  | .ttdpHelloTimeout port _ => decide (port < 13)
  | .ttdpTopologySend _ => true
  | .ttdpTopologyReceived port _ _ _ _ => decide (port < 13)
  | .pdelayRequestSend port _ => decide (port < 13)
  | .pdelayRequestReceived r _ => r.wf
  | .pdelayResponseReceived r => r.wf
  | .pdelayResponseTimeout port _ => decide (port < 13)
  | .timeWrap _ => true
  | .slewComplete _ => true
  | .timeStatus c => c.has 0x0901
  | .timeSet c => c.has 0x0902
  | .timeAdjust c => c.has 0x0903
  | .timeToutSet c => c.has 0x0904
  | .timeToutStop c => c.has 0x0905
  | .toutArmWrite ctx output _ => ctxOk ctx && decide (output < 8)
  | .toutModeOffWrite ctx output _ => ctxOk ctx && decide (output < 8)
  | .toutPulse output _ => decide (output < 8)
  | .toutBindWrite ctx output _ => ctxOk ctx && decide (output < 8)
  | .tcapEdge input _ _ => decide (input < 4)
  | .tcapEntryRead ctx input => ctxOk ctx && decide (input < 4)
  | .tsqEntryRead ctx queue => ctxOk ctx && decide (queue < 2)
  | .gptpSyncSend port _ => decide (port < 13)
  | .gptpAnnounceSend port _ => decide (port < 13)
  | .gptpPdelaySend port _ => decide (port < 13)
  | .ptpMessageReceived port msgType _ => decide (port < 13) && decide (msgType < 16)
  | .audioPllLock _ _ => true
  | .aonRcCalibrate _ _ => true
  | .placementDecision _ => true
  | .verdictReceived r => r.wf
  | .placerSwitchRequest _ => true
  | .censusSend _ => true
  | .requestRetry _ => true
  | .replacementComputed _ => true
  | .msgReceived r => r.wf
  | .storedMessageExpiry _ => true
  | .streamDeclare c => c.has 0x0201
  | .streamRemove c => c.has 0x0202
  | .streamQuery c => c.has 0x0203
  | .streamReplaceAll c => c.has 0x0204
  | .streamMsgSend c => c.has 0x0205
  | .streamMsgRecv c => c.has 0x0206
  | .plcStatus c => c.has 0x0207
  | .leaseRenewSend _ => true
  | .jalderRenewReceived r => r.wf
  | .jalderAckReceived r => r.wf
  | .heartbeatPulseReceived _ _ => true
  | .tokenDemoted _ => true
  | .leaseTakeover _ => true
  | .fenceReleaseTakeover _ => true
  | .soloWaitExpiry _ => true
  | .partnerLost _ => true
  | .pairPathLost path _ => decide (path = 1 || path = 2)
  | .jalderHandoverReceived r => r.wf
  | .jalderHandoverAckReceived r => r.wf
  | .handoverExecute _ => true
  | .handoverTake _ => true
  | .handoverTimeout _ => true
  | .muteHandover _ => true
  | .stateCopySend _ => true
  | .jalderCopyReceived r => r.wf
  | .jalderCopyEndReceived r => r.wf
  | .resyncRequestSend _ => true
  | .jalderResyncReceived r => r.wf
  | .pairStatus c => c.has 0x0A01
  | .pairHandover c => c.has 0x0A02
  | .pairResync c => c.has 0x0A03
  | .pairTrkReset c => c.has 0x0A04
  | .sampleInstant stream _ => decide (stream < 16384)
  | .discreteBufferComplete stream _ => decide (stream < 16384)
  | .decisionPoint stream _ => decide (stream < 16384)
  | .outputInstant stream _ => decide (stream < 16384)
  | .carDeliverySend stream port _ => decide (stream < 16384) && decide (port < 13)
  | .carInputFrameReceived r => r.wf
  | .pdtDsDoneWrite ctx d _ => ctxOk ctx && decide (d < 512)
  | .pdtBufStatusRead ctx d => ctxOk ctx && decide (d < 512)
  | .pdStatus c => c.has 0x0401
  | .pdInfo c => c.has 0x0402
  | .pdWrite c => c.has 0x0403
  | .pdRead c => c.has 0x0404
  | .dioSet c => c.has 0x0405
  | .dioStatus c => c.has 0x0406
  | .dioOutSetWrite ctx _ => ctxOk ctx
  | .dioOutClrWrite ctx _ => ctxOk ctx
  | .lineEdge line _ _ => decide (line < 36)
  | .lineStuck line _ => decide (line < 36)
  | .wakeStuck input _ => decide (input < 4)
  | .stormEnded line _ => decide (line < 36)
  | .dlReadbackFail line _ => decide (line < 36)
  | .edgeEntryRead ctx => ctxOk ctx
  | .paMessageReceived r => r.wf
  | .paStartSample _ _ _ => true
  | .announcementEnded _ _ _ => true
  | .audioInstanceDecision stream _ => decide (stream < 16384)
  | .graphOverload engine _ => decide (engine < 8)
  | .paramApply _ => true
  | .tdmClockFault port _ => decide (port < 4)
  | .aafPduReceived r => r.wf
  | .aafPduSend _ _ => true
  | .libraryVerify _ _ => true
  | .callMessageReceived r => r.wf
  | .callRequestRepeat _ _ => true
  | .callEscalated _ _ _ _ => true
  | .recordingBlockWrite _ _ => true
  | .audStatus c => c.has 0x0501
  | .paPlay c => c.has 0x0502
  | .paLive c => c.has 0x0503
  | .paChime c => c.has 0x0504
  | .paStop c => c.has 0x0505
  | .audParamSet c => c.has 0x0506
  | .audLibWrite c => c.has 0x0507
  | .audLibInfo c => c.has 0x0508
  | .callStatus c => c.has 0x0601
  | .callAnswer c => c.has 0x0602
  | .callHold c => c.has 0x0603
  | .callEnd c => c.has 0x0604
  | .callCabSet c => c.has 0x0605
  | .callRecProtect c => c.has 0x0606
  | .callRecFind c => c.has 0x0607
  | .canFrameReceived ctl f _ _ => decide (ctl < 4) && f.wf
  | .canFrameSent ctl _ _ _ _ => decide (ctl < 4)
  | .canArbitrationLost ctl _ _ _ => decide (ctl < 4)
  | .canTxError ctl _ _ _ _ _ => decide (ctl < 4)
  | .busRecovered ctl _ => decide (ctl < 4)
  | .dominantTimeout ctl _ => decide (ctl < 4)
  | .dominantReleased ctl _ => decide (ctl < 4)
  | .timedEntryRelease ctl queue _ => decide (ctl < 4) && decide (queue < 4)
  | .canTxqPush ctx ctl queue _ => ctxOk ctx && decide (ctl < 4) && decide (queue < 4)
  | .canTxCancelWrite ctx ctl _ _ => ctxOk ctx && decide (ctl < 4)
  | .canObjCancelWrite ctx ctl w _ _ => ctxOk ctx && decide (ctl < 4) && decide (w < 4)
  | .canObjTxreqWrite ctx ctl w _ => ctxOk ctx && decide (ctl < 4) && decide (w < 4)
  | .canObjectWrite ctx ctl obj wordIndex _ => ctxOk ctx && decide (ctl < 4) && decide (obj < 128) && decide (wordIndex < 32)
  | .canEntryLockRead ctx ctl kind _ _ => ctxOk ctx && decide (ctl < 4) && decide (kind < 2)
  | .canEntryReleaseRead ctx ctl kind _ => ctxOk ctx && decide (ctl < 4) && decide (kind < 2)
  | .lockTimeout ctl kind _ _ => decide (ctl < 4) && decide (kind < 2)
  | .canCtrlLoopWrite ctx ctl _ _ => ctxOk ctx && decide (ctl < 4)
  | .canCtrlHaltWrite ctx ctl _ _ => ctxOk ctx && decide (ctl < 4)
  | .canCtrlRecoverWrite ctx ctl _ _ => ctxOk ctx && decide (ctl < 4)
  | .canStatus c => c.has 0x0701
  | .canSend c => c.has 0x0702
  | .canCancel c _ => c.has 0x0703
  | .canRecover c => c.has 0x0704
  | .canFlush c _ => c.has 0x0705
  | .canLoop c _ => c.has 0x0706
  | .tunFrameClose stream ctl _ => decide (stream < 16384) && decide (ctl < 4)
  | .tunReceived r => r.wf
  | .reorderHoldExpiry _ => true
  | .bar2ReadTlp fn _ _ _ => decide (fn < 4)
  | .bar2WriteTlp fn _ _ _ => decide (fn < 4)
  | .rwinReceived r _ => r.wf
  | .remoteAccessPerformed _ => true
  | .rwinRspReceived r _ => r.wf
  | .readTimeout _ _ => true
  | .prefetchBlockExpiry bar _ => decide (bar < 2 ^ 28)
  | .semLeaseExpired sem _ => decide (sem < 64)
  | .windowLockLeaseExpiry window _ => decide (window < 16)
  | .summaryPoll _ => true
  | .postedLogRead ctx => ctxOk ctx
  | .bridgeStatus c => c.has 0x0801
  | .bridgeMap c => c.has 0x0802
  | .bridgeUnmap c => c.has 0x0803
  | .bridgeRead c => c.has 0x0804
  | .bridgeWrite c => c.has 0x0805
  | .bridgeLock c => c.has 0x0806
  | .bridgeUnlock c => c.has 0x0807
  | .chkGoWrite ctx c _ => ctxOk ctx && decide (c < 28)
  | .chkStopWrite ctx c _ => ctxOk ctx && decide (c < 28)
  | .chkRunWrite ctx c _ => ctxOk ctx && decide (c < 28)
  | .checkJobDone c _ _ => decide (c < 28)
  | .testStatus c => c.has 0x0C01
  | .testLoop c => c.has 0x0C02
  | .testPrbs c => c.has 0x0C03
  | .testBist c => c.has 0x0C04
  | .testInject c => c.has 0x0C05
  | .loopbackActive _ _ => true
  | .loopDurationExpiry _ _ => true
  | .echoEnterRetry port _ => decide (port < 13)
  | .echoEnterReceived r => r.wf
  | .echoReplyReceived r => r.wf
  | .echoExitReceived r => r.wf
  | .prbsLockLoss lane _ _ _ => decide (lane < 13)
  | .injectArmWrite ctx _ => ctxOk ctx
  | .injectDisarmWrite ctx _ => ctxOk ctx
  | .extest => true
  | .idcode => true
  | .samplePreload => true
  | .clamp => true
  | .highz => true
  | .extestPulse => true
  | .extestTrain => true
  | .bypass code => decide (code < 256)
  | .powerOnReset => true
  | .pinReset => true
  | .supplyMonitorTrip monitor => decide (monitor < 3)
  | .refclkLost => true
  | .pllUnlock pll _ => decide (pll < 19)
  | .warmReset _ => true
  | .pcrWarmWrite ctx _ _ => ctxOk ctx
  | .pcrSleepWrite ctx _ _ => ctxOk ctx
  | .sleepEntryComplete _ => true
  | .wakeEvent _ _ => true
  | .dramScrub _ _ _ => true
  | .memLoopGoWrite ctx _ => ctxOk ctx
  | .registerRead ctx _ _ => ctxOk ctx
  | .preemptVerifyFrameReceived port _ _ => decide (port < 13)
  | .canRxError ctl _ _ => decide (ctl < 4)
  | .busIntegrationComplete ctl _ => decide (ctl < 4)
  | .pllRelock pll _ => decide (pll < 19)
  | .prbsCheckerLock lane _ _ _ => decide (lane < 13)
  | .memLoopDone _ => true
  | .flashOperationDone _ _ => true
  | .imageVerifyDone _ _ _ => true
  | .pcieLinkUp _ _ _ _ => true
  | .carPeerDelayReceived port msgType _ _ _ _ _ => decide (port < 13) && decide (msgType < 16)

end Sys2Proof
end

