-- ==== Sys2Proof/Tests/Slice0.lean ====
section
/-! SUPPORT. The tests of the model: for every statement of Certificates/Slice0 that has hypotheses a state and operands that meet them,
clause by clause; ill-formed terms for every check of WellFormed; and worked examples of the spec. A test on fixed values is a
check of the work, no statement about the machine. -/

set_option linter.unusedVariables false
set_option maxRecDepth 100000
set_option Elab.async false

namespace Sys2Proof.Tests

open Sys2Proof.Machine

/-! ### Small states -/

/-- Registers given values. -/
def tRegs (n : Node) (l : List (Nat × Nat)) : Node := l.foldl (fun m x => m.setReg x.1 (word x.2)) n

/-- A state with a node, an empty queue and unblown fuses. -/
def tSt (n : Node) : State := { State.reset with node := n }

/-- A node that runs its image: every domain on and the contexts HC0 (PCIe, secure), HC1 (PCIe, open), HC4 (SPI, secure) and
HC6 (host frames, secure) present with one ring pair each. -/
def tOn : Node :=
  tRegs { Node.reset with boot := { BootState.reset with phase := 3, bist := 0 } }
    [(Reg.TOP_PD_STATE, 0xFFF), (Reg.IMG_STATE, 2), (Reg.HST_CTX_CFG 0, 68), (Reg.HST_CTX_STAT 0, 1), (Reg.HST_CTX_CFG 1, 64),
     (Reg.HST_CTX_STAT 1, 1), (Reg.HST_CTX_CFG 4, 69), (Reg.HST_CTX_STAT 4, 1), (Reg.HST_CTX_CFG 6, 70), (Reg.HST_CTX_STAT 6, 1),
     (Reg.PCR_PLL_STAT, 0x7FFFF), (Reg.TOP_ENG_RUN, 0xFFFF)]

/-- An entry of a numbering. -/
def tEntry (identity num pos : Nat) : NumEntry := ⟨identity, num, pos, true, false, false, false, 0, 0⟩

/-- The node itself and a neighbour. -/
def tOwn : Nat := 0x3C0A915E07D2
def tFar : Nat := 0x3C0A91000001

/-- A node in RUN, number 2 of epoch 5, that follows the neighbour on FA as its master. -/
def tRun : Node :=
  tRegs { tOn with
      net := { NetState.reset with
        ports := { Port.reset with pdDone := true, farId := tFar, farState := 6 } :: List.replicate 12 Port.reset }
      ina := { InaState.reset with table := [tEntry tFar 1 1, tEntry tOwn 2 2] } }
    [(Reg.INA_STATE, 0xFF06), (Reg.TOP_PLACE, 0x402002), (Reg.TOP_EPOCH, 5), (Reg.SPN_IFTYPE 0, 1), (Reg.SPN_STAT 0, 0x1),
     (Reg.INA_MASTER_ID_LO, 0x91000001), (Reg.INA_MASTER_ID_HI, 0x503C0A), (Reg.INA_CFG, 0x50)]

/-- The same node as the cycle master. -/
def tMaster : Node :=
  tRegs tRun [(Reg.INA_STATE, 0xFF0E), (Reg.INA_MASTER_ID_LO, 0x915E07D2), (Reg.INA_MASTER_ID_HI, 0x503C0A), (Reg.CYC_STATE, 8),
    (Reg.PLC_STATE, 1)]

/-- A spine frame of the neighbour on line A, and its reception on FA. -/
def tFrame (h : SpineHdr) (payload : List Byte) : Frame :=
  { tOn.spineFrame (addrLine false) h payload with src := tFar }
def tHdr (kind : Nat) : SpineHdr := { hdrOf kind with epoch := 5, src := 1 }
def tRx (h : SpineHdr) (payload : List Byte) : Rx := ⟨0, tFrame h payload, .good, .plain, 1000, 64, [], 0⟩

/-- A command of a context with argument words. -/
def tCmd (ctx : Nat) (args : List Nat) : Cmd := ⟨ctx, 0, ⟨0x0101, 0, 0, 7, args.map word⟩, [], 1000⟩
/-- The same command with the opcode of its row. -/
def tOp (opcode ctx : Nat) (args : List Nat) : Cmd := ⟨ctx, 0, ⟨opcode, 0, 0, 7, args.map word⟩, [], 1000⟩
/-- The rings of HC0 enabled, with one submission waiting. -/
def tRing : Node :=
  tRegs tOn [(Reg.HST_SQ_SIZE 0 0, 16), (Reg.HST_CQ_SIZE 0 0, 16), (Reg.HST_SQ_TAIL 0 0, 1), (Reg.HST_EVQ_SIZE 0, 16),
    (Reg.HST_FTX_SIZE 0, 16), (Reg.HST_FRX_SIZE 0, 16), (Reg.JRN_CTX_SIZE 0, 4), (Reg.JRN_CTX_BASE 0, 0)]
def tSq (opcode seq : Nat) : SqEntry := ⟨opcode, 0, 0, seq, []⟩
/-- One journal entry of HC0: sequence 5, completed with OK. -/
def tJrn : Node :=
  (tRing.accept 0 0 (tSq 0x0101 5) false).finish 0 0 5 0x0101 0 []
/-- HC6 on the first car port, with one command frame of its host. -/
def tHf : Node :=
  { tRegs tOn [(Reg.SPN_IFTYPE 4, 0x21), (Reg.SPN_STAT 4, 1)] with
    host := { tOn.host with cfgs := [⟨6, 0x020000000001, 5, 0x88B6⟩] } }
def tHfRx : Rx :=
  ⟨4, ⟨tOwn, 0x020000000001, some ⟨0, 0, 5⟩, 0x88B6, [1#8, 0#8, 1#8, 0#8] ++ zeros 4 ++ (encLE 2 0x0102 ++ zeros 2 ++ encLE 4 9 ++ zeros 56)⟩,
    .good, .plain, 1000, 64, [], 0⟩
/-- A tint of one BRIDGE section with no record that must be understood, signed under the key of `tOtp`. -/
def tImg : List Byte :=
  encBE 48 0x4D444E5400014000F0000000020001000700000000000000000000000000000009000000030000000500000000000000 ++
  encBE 48 0x000000000000000091163B7F9C225EB61500010060000000080000007EBC4679FF000000680000008800000001000000 ++
  encBE 48 0x0080000000000000010000008F3E6DB8335E623D9113653A924DCAF5FEA2EF9EECB60E2A53F8488D5C7C9C0F2D2B4CD0 ++
  encBE 48 0x507A27DC9EF484B0E4D44B334EF3D7EFB833A9351A549D823487BA5530C3C48C2489949D4502141F96D883DEF9DD270B ++
  encBE 48 0xA0E7CEB3AF36147F06F44703A86B46182489949D4502141F96D883DEF9DD270BA0E7CEB3AF36147F06F44703A86B4618
/-- A key fused with the hash of that tint's key. -/
def tOtp : Otp := { Otp.reset with fused0 := true, hash0 := 0x2B05649744481514B443419081ADA442B1B42362522688353BFE02A8515796F1 }
/-- The same bytes in a slot of the flash. -/
def tFlash (slot : Nat) (bs : List Byte) : List Host.Cell :=
  (bs.zipIdx.map fun x => (slot * 0x2000000 + x.2, x.1)).filter fun p => p.2 != 0xFF#8
/-- A node that is still loading, with the tint in both slots. -/
def tBoot : Node :=
  { Node.reset with mem := { Node.reset.mem with flash := tFlash 0 tImg ++ tFlash 1 tImg } }
def tFacts : ImageFacts := ⟨true, [], [], 0x88B5, 2, 0, [], [], [], [], [], [], 0, 0, 0, []⟩
def tLoad : Node := tRegs { tBoot with boot := { BootState.reset with phase := 1, bist := 0, tried := [0] } } [(Reg.MEM_STAT, 2)]
/-- A REF of a cycle from a master. -/
def tRef (cyc master : Nat) : Rx :=
  tRx (tHdr 0) (encodeRef ⟨cyc, 0, 0, 0, 0, 0, 0, 0, 0, 0, master, 0x50, false, false, false, false, 5, 0, 0, 0⟩)
/-- The entry of a stream of a source, and a node in RUN that holds two of them: stream 9 of its own and stream 10 of the
neighbour, with a slot of each in mode 0. -/
def tStrm (src : Nat) : Strm := ⟨src, true, false, 0, 1, 0, false, false, false, 2, 1, 0, 0, 0, 0, 64, 100000, 0, 0, 0⟩
def tMode (num : Nat) (slots : List SlotEntry) (polls : List PollEntry) : Mode := ⟨num, 1000, 20000, 40000, 1000, false, slots, polls⟩
def tSlots : Node :=
  let n := { tRun.onPort 2 fun x => { x with pdDone := true, farId := tFar, farState := 6 } with cyc := { tRun.cyc with
    modes := [tMode 0 [⟨6000, 9, 0, 0, true, 4⟩, ⟨8000, 10, 0, 0, false, 4⟩, ⟨10000, 0, 0, 0, true, 4⟩] [⟨tOwn, 100⟩, ⟨tFar, 100⟩],
      tMode 1 [] []] } }
  ((tRegs n [(Reg.SPN_IFTYPE 2, 1), (Reg.SPN_STAT 2, 1)]).putStrm 9 (tStrm tOwn)).putStrm 10 (tStrm tFar)
def tSlotHdr (sid : Nat) : SpineHdr := { tHdr 1 with sid := sid }
/-- A REF that fails a receive check. -/
def tBad (fcs : Fcs) (port epoch : Nat) (body : List Byte) : Rx :=
  let r := tRx { tHdr 0 with epoch := epoch } []
  { r with port := port, fcs := fcs, frame := { r.frame with body := r.frame.body ++ body } }
/-- A topology frame of a type, a round and a master. -/
def tTopo (type round master : Nat) (rest : List Byte) : Rx :=
  tRx (tHdr 5) (encBE 1 type ++ zeros 1 ++ encBE 2 round ++ zeros 4 ++ encBE 6 master ++ zeros 2 ++ rest)
/-- A wait of a command. -/
def tWait (kind key : Nat) : Wait := ⟨0, 0, 7, 0x0101, kind, key, [], 0, 0⟩
def tWaits (n : Node) (kind key : Nat) : Node := { n with host := { n.host with waits := [tWait kind key] } }
/-- The node in a state of the inauguration. -/
def tIn (st : Nat) : Node := tRegs tRun [(Reg.INA_STATE, 0xFF00 + st)]
def tCommit : Commit := ⟨6, 9, false, 0, 0, [tEntry tFar 1 1, tEntry tOwn 2 2]⟩
/-- A PDELAY frame of the neighbour. -/
def tDelay (type exch : Nat) : Rx :=
  tRx { tHdr 0xA with tc := 7 } (encBE 1 type ++ encBE 1 0x62 ++ encBE 2 exch ++ encBE 6 (if type = 1 then tFar else tOwn) ++
    encBE 6 (if type = 1 then 0 else tFar) ++ encBE 8 (300 * 65536))
/-- A car port that runs the time service while train time is synchronised. -/
def tCar : Node :=
  (tRegs tRun [(Reg.SPN_IFTYPE 4, 1), (Reg.SPN_STAT 4, 1), (Reg.TMB_CARTIME_CFG 0, 1)]).setFld Reg.INA_STATE Fld.INA_STATE_SYNCED 1
/-- A declaration's entry, and a request of the neighbour for it. -/
def tDecl (src : Nat) : List Word := { tStrm src with state := 0 }.words
def tReq (type : Nat) : PlcReq := ⟨type, 11, 3, tFar, tDecl tFar, 0, 0, 0⟩
def tQueue (q : PlcReq) : Node := { tMaster with plc := { tMaster.plc with queue := [q] } }
/-- A request for a message stream that reaches the master. -/
def tReqMsg : PlcReq :=
  { tReq 1 with entry := { tStrm tFar with state := 0, cls := 2, darg0 := tOwn / 2 ^ 32, darg1 := tOwn % 2 ^ 32 }.words }
/-- The master's node once it has taken the request from its queue. -/
def tTaken : Node := { tMaster with plc := { tMaster.plc with queue := [] } }
/-- A message of the neighbour on a stream. -/
def tMsg (sid : Nat) (bytes : List Byte) : Rx := tRx { tHdr 0xB with sid := sid, lastFrag := true } bytes
/-- A node to which the neighbour sends messages on a stream, as to every other. -/
def tTo (n : Node) (sid : Nat) : Node := n.putStrm sid { tStrm tFar with cls := 2, dkind := 5 }
/-- A node with a message stream of its own, to a node by identity. -/
def tMsgs (dst : Nat) : Node :=
  tRun.putStrm 12 { tStrm tOwn with cls := 2, darg0 := dst / 2 ^ 32, darg1 := dst % 2 ^ 32 }
/-- A node of a pair in RUN in a token state, at unit 10 of train time, and a control frame of its partner. -/
def tPartner : Nat := 0x3C0A91000002
def tPair (token : Nat) : Node :=
  let n := { tRun with
    net := { tRun.net with ports := (List.replicate 12 Port.reset) ++ [{ Port.reset with pdDone := true, farId := tPartner }] }
    tm := { tRun.tm with raw := 10000000 } }
  (tRegs n [(Reg.TOP_PAIR_ID, 77), (Reg.JLK_STAT, 1), (Reg.PAR_CFG, 2)]).setFld Reg.PAR_TOKEN Fld.PAR_TOKEN_STATE token
def tCtrl (type flags unit gen : Nat) (body : List Byte) : Rx :=
  ⟨12, ⟨addrJalder, tPartner, none, (tOn.reg Reg.SPN_ETYPE).toNat, encBE 1 type ++ encBE 1 flags ++ encBE 2 body.length ++ encBE 4 unit ++
    encBE 4 gen ++ zeros 4 ++ body ++ zeros (30 - body.length)⟩, .good, .plain, 1000, 64, [], 0⟩
def tPar (n : Node) (lease jlk ctrl hb : Option Nat) : Node :=
  { n with par := { n.par with lease := lease, jlkAt := jlk, ctrlAt := ctrl, hbAt := hb } }
/-- A dataset, and a node in RUN with a produced dataset on stream 9 and a consumed one on stream 10. -/
def tDs (stream : Nat) (consumed : Bool) (source : Nat) : Dataset :=
  ⟨stream, consumed, false, source, 1, 8, 4, 0, 500000, 1000, 0x020000000009, 3, 0, zeros 8, [(3, 5)], false, [], none, none, 0, 0,
    false, false, false, none, false, none, none, none, none, ⟨0x10000, zeros 36, zeros 8⟩, []⟩
def tData (a b : Dataset) : Node := { tSlots with pd := { tSlots.pd with sets := [a, b] } }
/-- A frame with the car EtherType on the first car port. -/
def tCarFrame (len : Nat) : Rx :=
  ⟨4, ⟨0xFFFFFFFFFFFF, 0x020000000001, none, 0x88B6, encBE 4 0 ++ encBE 2 9 ++ zeros 18 ++ encBE 2 len ++ zeros 10 ++ encBE 4 77 ++
    encBE 8 0x0102030405060708⟩, .good, .plain, 1000, 64, [], 0⟩
def tCarPort (n : Node) : Node :=
  tRegs n [(Reg.SPN_IFTYPE 4, 1), (Reg.SPN_STAT 4, 1), (Reg.PDT_CFG, 0x88B60002), (Reg.TMB_CARTIME_CFG 0, 1)]
/-- A node that delivers the consumed dataset of stream 10 on the first car port at 30,000 ns. -/
def tCarDue : Node :=
  tCarPort { tData (tDs 9 false 1) { tDs 10 true 0 with decidedCyc := some 0 } with
    cyc := { tSlots.cyc with modes := [tMode 0 [⟨30000, 10, 0, 0, false, 16⟩] []] } }
/-- A node with services: a zone, a library entry, a chime and the service streams. -/
def tAud : Node :=
  { tRun with aud := { tRun.aud with
      global := { tRun.aud.global with svcFirst := 200, svcCount := 4 }
      elements := [⟨0, 0, 1, zeros 8⟩]
      lib := [⟨5, 0, 0, 480, 960, 0x1234, 0, 0, true, false, []⟩]
      chimes := [⟨2, 440, 660, 0, 480, 480, 3⟩]
      issued := [9] } }
/-- The arguments of a PA request for every zone of every vehicle, at once. -/
def tPa (source : Nat) : List Nat := [source, 0xFFFF, 1023 * 65536, 0, 0, 0, 0]
/-- A PA request that the node holds. -/
def tPaReq (type : Nat) (started : Bool) (stop : Option Nat) : PaReq :=
  ⟨tFar, 7, type, 0, 0, false, 0, 1, 0, 5, 0, 0x1234, 0, started, stop, 0, []⟩
def tHold (q : PaReq) : Node := { tAud with aud := { tAud.aud with reqs := [q] } }
/-- A call, and a node of the services that holds it as a call heard of and as one of its own. -/
def tCall (state : Nat) : Call := ⟨77, 1, 3, state, false, 0#32, 0#32, 0, 0, 0, 0, none, 0⟩
def tCalls (calls mine : List Call) : Node :=
  ({ tAud with aud := { tAud.aud with
      cabSet := 5, calls := calls, mine := mine, stations := [⟨4, true, 0, 5, 0, 0, 0, 0, 6, 0, false⟩] } }.setFld Reg.PAR_TOKEN
    Fld.PAR_TOKEN_STATE 3).setReg Reg.TOP_VEH_TAG 5#32
def tRec (fin : Option Nat) (holder : Nat) (slots : List RecSlot) : Node :=
  tRegs ({ tAud with aud := { tAud.aud with recordings := [⟨77, 1, 3, 12000, 0, fin⟩], slots := slots } }.setFld Reg.PAR_TOKEN
    Fld.PAR_TOKEN_STATE holder) [(Reg.PLC_DRAM_SIZE 2, 1)]
/-- An AAF frame of a talker, and a node that takes its PDUs and sends some of its own. -/
def tAafBody (subtype : Nat) : List Byte :=
  encBE 1 subtype ++ encBE 1 0x81 ++ zeros 2 ++ encBE 8 0x99 ++ encBE 4 1000 ++ encBE 1 2 ++ encBE 1 (aafRate false * 16) ++
    encBE 1 1 ++ encBE 1 16 ++ encBE 2 96 ++ zeros 2 ++ zeros 96
def tAaf (subtype : Nat) : Rx :=
  ⟨4, ⟨0x91E0F0000001, 0x020000000001, none, aafType, tAafBody subtype⟩, .good, .plain, 1000, 64, [], 0⟩
def tAafs : Node :=
  { tCarPort tAud with aud := { tAud.aud with
      aafs := [⟨0, false, 0, 1, 2, 0, 0x91E0F0000001, 0, 0x99, 0, none, none⟩, ⟨1, true, 0, 1, 2, 0, 0x91E0F0000002, 0, 0, 255, none, none⟩] } }
/-- An audio stream of the neighbour to this node. -/
def tAudio (got : Option (Nat × List Byte)) : Node :=
  { tAud.putStrm 13 { tStrm tFar with cls := 1, darg0 := tOwn / 2 ^ 32, darg1 := tOwn % 2 ^ 32 } with
    aud := { tAud.aud with inputs := [⟨13, got, none, false, none⟩] } }
/-- A node with controller 0 live on its bus, its queue 0 and its FIFOs owned by HC0. -/
def tCanCtl : CanState := { CanState.reset with owners := [128, 128, 128, 128], rxOwners := [128, 128], compOwner := 128 }
def tCanWith (cfg : Nat) (x : CanState) : Node := { tRegs tRun [(Reg.CAN_CFG 0, cfg)] with can := x :: tRun.can.drop 1 }
def tCan : Node := tCanWith 5 tCanCtl
def tTx (tag : Nat) : TxEntry := ⟨[0x123#32, word (8 + tag * 65536)] ++ List.replicate 18 0#32, 0, 0, false, false, false, none⟩
def tCanQ (k : Nat) : Node := tCanWith 5 { tCanCtl with queues := List.replicate k (tTx 9) :: tCanCtl.queues.drop 1 }
def tCanFrame (fdf : Bool) : CanFrame := ⟨0x123, false, false, 8, fdf, false, false, zeros 8⟩
/-- A request for a window, its session on the owning node, and the frames that carry a request and a response. -/
def tOwnPay (op size window : Nat) : List Byte :=
  encBE 1 op ++ encBE 1 size ++ encBE 2 9 ++ encBE 1 window ++ encBE 1 0 ++ encBE 2 1 ++ encBE 8 0 ++ encBE 6 tFar ++ zeros 14
def tOwnReq (op size window : Nat) : OwnReq := ⟨tFar, 1, 3, false, tOwnPay op size window, 500⟩
def tWin : Node := tRegs tRun [(Reg.BRG_WIN_CFG 0, 0x21), (Reg.BRG_WIN_SIZE 0, 4), (Reg.PLC_DRAM_SIZE 0, 4)]
def tServe (op size window : Nat) : Node := { tWin with brg := { tWin.brg with queue := [tOwnReq op size window] } }
def tWinRx (kind : Nat) (payload : List Byte) : Rx := tRx { tHdr kind with seq := 3 } payload
/-- A node whose bridge has a record to send, holds frames of a tunnel, has a block and has a read outstanding. -/
def tTun (since : Nat) : TunIn := ⟨9, some 3, [⟨5, [], since⟩]⟩
def tTgt : BrgTgt := ⟨false, tFar⟩
def tRd (kind : Nat) : BrgRead := ⟨9, kind, 0, 64, 0xFFFFFFFF, 4, false, tTgt, 0, 0, 0⟩
def tBrg (n : Node) (f : BrgState → BrgState) : Node := { n with brg := f n.brg }
/-- A slot of HC0 toward the neighbour, and a semaphore held through it. -/
def tSlot : Node := tRegs tRun [(Reg.BRG_AP_CTRL 0, 1), (Reg.BRG_AP_ID_LO 0, 0x91000001), (Reg.BRG_AP_ID_HI 0, 0x3C0A)]
def tSem : Node := tRegs tSlot [(Reg.BRG_SEM_CFG 5, 0x200)]
/-- A node with a job of the check engine in context 3, one with a loop of port 2, and one in reset. -/
def tChk (cfg stat : Nat) : Node :=
  let n := tRegs tRun [(Reg.CHK_CTX_CFG 3, cfg), (Reg.CHK_CTX_STAT 3, stat)]
  { n with chk := { n.chk with ctxs := modifyAt n.chk.ctxs 3 fun _ => ⟨some ⟨0, 0, 0⟩, [], false⟩ } }
def tLoop (depth : Nat) (active : Bool) (tries : Nat) : TstLoop := ⟨2, depth, active, 0, 50, 7, tries, false⟩
def tLoops (l : TstLoop) : Node := { tRegs tSlots [(Reg.TST_CFG, 1)] with tst := { tSlots.tst with loops := [l] } }
def tEcho (type : Nat) : Rx := { tRx (tHdr 0xC) (encBE 1 type ++ zeros 1 ++ encBE 2 100 ++ encBE 2 7 ++ encBE 6 tFar) with port := 2 }
def tReset : Node := tRegs { tRun with boot := { tRun.boot with phase := 0, warm := some (5, 3) } } [(Reg.PCR_RESET_CAUSE, kPower)]
def tSleep (sleep wakes : Nat) : Node :=
  { tRegs tRun [(Reg.PCR_WAKE_EN, 5)] with boot := { tRun.boot with sleep := sleep, wakes := wakes } }
/-- The slot frame that starts on RA at 6,000 ns. -/
def tSlotOut : Frame :=
  let m := tSlots.at 6000
  m.spineFrame (addrLine (m.portB 2)) { m.slotHdr 9 (m.txOf 9) with lineB := m.portB 2, ci := 0 } (m.txOf 9).send
/-- A node of a pair that holds its mode. -/
def tPairM (token : Nat) : Node := { tPair token with cyc := { (tPair token).cyc with modes := tSlots.cyc.modes } }
/-- HC0 with a frame to send by a rule from port 13 to the first car port, and the node once it has sent it. -/
def tFtx : Node :=
  tRegs tRing [(Reg.HST_FTX_TAIL 0, 1), (Reg.TMB_TSQ_CFG 0, 0x80), (Reg.SPN_FLT 3, 1), (Reg.SPN_FLT 3 + 4, 0x102000),
    (Reg.SPN_IFTYPE 4, 1), (Reg.SPN_STAT 4, 1), (Reg.INA_STATE, 0xFF02), (Reg.TOP_BUF_OPEN_FREE, 64)]
def tFtxSent : Node :=
  ((tFtx.at 5).setReg (Reg.HST_FTX_HEAD 0) (word (if (tFtx.reg (Reg.HST_FTX_HEAD 0)).toNat + 1 < (tFtx.reg (Reg.HST_FTX_SIZE 0)).toNat
    then (tFtx.reg (Reg.HST_FTX_HEAD 0)).toNat + 1 else 0))).openForward 13 ⟨tFar, tOwn, none, 0x0800, zeros 46⟩
    (tFtx.reg Reg.TOP_BUF_OPEN_FREE).toNat (tFtx.at 5).tm.raw
/-- The node in a state of the inauguration with a numbering announced, and with the record of the neighbour, of another pair. -/
def tNumbered (st : Nat) : Node :=
  { tIn st with
    ina := { tRun.ina with result := some tCommit }
    plc := { tRun.plc with records := [⟨⟨tFar, 0, 5, 5, 0, 0, 0, 0, 0, 0, 0, 0⟩, 0⟩] } }

/-! ### Ill-formed commands are refused by `Instr.wf` -/

/-- The well-formed operands from which the terms below differ in one place. -/
def tWfFrame : Frame := ⟨0, 0, none, 0, []⟩
def tWfRx : Rx := ⟨0, tWfFrame, .good, .plain, 0, 0, [], 0⟩
def tWfCan : CanFrame := ⟨0, false, false, 0, false, false, false, []⟩
def tWfEntry : SqEntry := ⟨0x0101, 0, 0, 0, List.replicate 14 0#32⟩
def tWfCmd : Cmd := ⟨0, 0, tWfEntry, [], 0⟩

/-- One operand of each kind out of range. -/
theorem test_wf_operands :
    (Instr.nodeStatus tWfCmd).wf = true ∧ tWfRx.wf = true ∧ tWfCan.wf = true ∧
    ([{ pcp := 8, dei := 0, vid := 0 }, { pcp := 0, dei := 2, vid := 0 }, { pcp := 0, dei := 0, vid := 4096 }] : List Tci).all (fun t => !t.wf) = true ∧
    ([{ tWfFrame with dst := 2 ^ 48 }, { tWfFrame with src := 2 ^ 48 }, { tWfFrame with etype := 65536 },
      { tWfFrame with tag := some ⟨8, 0, 0⟩ }] : List Frame).all (fun f => !f.wf) = true ∧
    ([{ tWfRx with port := 13 }, { tWfRx with frame := { tWfFrame with etype := 65536 } }] : List Rx).all (fun r => !r.wf) = true ∧
    ([{ tWfEntry with opcode := 65536 }, { tWfEntry with flags := 256 }, { tWfEntry with rsv := 256 }, { tWfEntry with seq := 2 ^ 32 },
      { tWfEntry with args := [] }] : List SqEntry).all (fun e => !e.wf) = true ∧
    ([{ tWfCmd with ctx := 8 }, { tWfCmd with ring := 4 }, { tWfCmd with entry := { tWfEntry with args := [] } }] : List Cmd).all
      (fun c => !c.wf) = true ∧
    ([{ tWfCan with id := 2 ^ 29 }, { tWfCan with dlc := 16 }, { tWfCan with data := zeros 65 }] : List CanFrame).all (fun f => !f.wf) = true := by
  decide +kernel

/-- A command with its own opcode is well formed, with any other it is not. -/
theorem test_wf_opcodes :
    ([
      (.nodeStatus, 0x0101), (.nodeNop, 0x0102), (.ctxReset, 0x0103), (.ctxInfo, 0x0104), (.jrnStatus, 0x0B01), (.jrnRead, 0x0B02),
      (.jrnAck, 0x0B03), (.jrnClear, 0x0B04), (.imgStatus, 0x0D01), (.imgSlotErase, 0x0D02), (.imgSlotWrite, 0x0D03),
      (.imgSlotVerify, 0x0D04), (.imgSlotMarkBad, 0x0D05), (.imgTintStage, 0x0D06), (.imgTintCommit, 0x0D07), (.imgTintDiscard, 0x0D08),
      (.imgRollbackAdvance, 0x0D09), (.imgRestart, 0x0D0A), (.imgKeyRevoke, 0x0D0B), (.cycStatus, 0x0301), (.cycModeSwitch, 0x0302),
      (.cycModeAbort, 0x0303), (.cycModeInfo, 0x0304), (.trainSetLead, 0x0120), (.trainStatus, 0x0121), (.trainReinaugurate, 0x0122),
      (.trainReset, 0x0123), (.trainSnapshot, 0x0124), (.timeStatus, 0x0901), (.timeSet, 0x0902), (.timeAdjust, 0x0903),
      (.timeToutSet, 0x0904), (.timeToutStop, 0x0905), (.streamDeclare, 0x0201), (.streamRemove, 0x0202), (.streamQuery, 0x0203),
      (.streamReplaceAll, 0x0204), (.streamMsgSend, 0x0205), (.streamMsgRecv, 0x0206), (.plcStatus, 0x0207), (.pairStatus, 0x0A01),
      (.pairHandover, 0x0A02), (.pairResync, 0x0A03), (.pairTrkReset, 0x0A04), (.pdStatus, 0x0401), (.pdInfo, 0x0402),
      (.pdWrite, 0x0403), (.pdRead, 0x0404), (.dioSet, 0x0405), (.dioStatus, 0x0406), (.audStatus, 0x0501), (.paPlay, 0x0502),
      (.paLive, 0x0503), (.paChime, 0x0504), (.paStop, 0x0505), (.audParamSet, 0x0506), (.audLibWrite, 0x0507), (.audLibInfo, 0x0508),
      (.callStatus, 0x0601), (.callAnswer, 0x0602), (.callHold, 0x0603), (.callEnd, 0x0604), (.callCabSet, 0x0605),
      (.callRecProtect, 0x0606), (.callRecFind, 0x0607), (.canStatus, 0x0701), (.canSend, 0x0702), (fun c => .canCancel c false, 0x0703),
      (.canRecover, 0x0704), (fun c => .canFlush c false, 0x0705), (fun c => .canLoop c false, 0x0706), (.bridgeStatus, 0x0801),
      (.bridgeMap, 0x0802), (.bridgeUnmap, 0x0803), (.bridgeRead, 0x0804), (.bridgeWrite, 0x0805), (.bridgeLock, 0x0806),
      (.bridgeUnlock, 0x0807), (.testStatus, 0x0C01), (.testLoop, 0x0C02), (.testPrbs, 0x0C03), (.testBist, 0x0C04),
      (.testInject, 0x0C05)] : List ((Cmd → Instr) × Nat)).all (fun x =>
      (x.1 { tWfCmd with entry := { tWfEntry with opcode := x.2 } }).wf &&
      !(x.1 { tWfCmd with entry := { tWfEntry with opcode := x.2 + 1 } }).wf) = true := by
  decide +kernel

/-- A frame received on a port that the node does not have. -/
theorem test_wf_frames :
    ([
      .hostFrameCommands, .openFrameReceived, .macControlFrameReceived, .slotFrameReceived, .statusFrameReceived, .refReceived,
      .pollReceived, .replyReceived, .modeRequestReceived, .modeAnswerReceived, .claimReceived, .topoProbeReceived, .topoReplyReceived,
      .topoNoticeReceived, .topoResultReceived, .operationRequestReceived, .operationAnswerReceived, fun r => .pdelayRequestReceived r 0,
      .pdelayResponseReceived, .verdictReceived, .msgReceived, .jalderRenewReceived, .jalderAckReceived, .jalderHandoverReceived,
      .jalderHandoverAckReceived, .jalderCopyReceived, .jalderCopyEndReceived, .jalderResyncReceived, .carInputFrameReceived,
      .paMessageReceived, .aafPduReceived, .callMessageReceived, .tunReceived, fun r => .rwinReceived r 0,
      fun r => .rwinRspReceived r false, .echoEnterReceived, .echoReplyReceived, .echoExitReceived] : List (Rx → Instr)).all (fun f => !(f { tWfRx with port := 13 }).wf) = true := by
  decide +kernel

/-- Operands out of range, part 1. -/
theorem test_wf_ranges_0 :
    ([
      .undefinedOpcode { tWfCmd with ctx := 8 }, .registerWrite 8 0 0#32, .w1cWrite 8 0 0#32 0#32, .rcRegisterRead 8 0 0#32,
      .counterLowWordRead 8 0, .topPlaceRead 8, .tmbNowNsRead 8 0, .regAccessBad 8 0 0 false, .violationLogRead 8,
      .spiStatusTransaction 2, .spiInvalidTransaction 2, .sqTailDoorbell 8 0 0#32, .sqTailDoorbell 0 4 0#32, .cqHeadDoorbell 8 0 0#32,
      .cqHeadDoorbell 0 4 0#32, .evqHeadDoorbell 8 0#32, .ringSizeWrite 8 0 0#32, .ftxTailDoorbell 8 0#32, .frxTailDoorbell 8 0#32,
      .hostFrameTransmit 8 0 0 0 tWfFrame 0, .hostFrameTransmit 0 0 65536 0 tWfFrame 0,
      .hostFrameTransmit 0 0 0 0 { tWfFrame with etype := 65536 } 0, .commandFetch 8 0 tWfEntry 0, .commandFetch 0 4 tWfEntry 0,
      .commandFetch 0 0 { tWfEntry with args := [] } 0, .completionFrameSend 8 0, .hostFrameLinkTimeout 8 0, .cqIrqTimerExpiry 8 0 0,
      .cqIrqTimerExpiry 0 4 0, .hstCtxResetWrite 8 0 0#32, .hstCtxResetWrite 0 8 0#32, .contextReset 8 0, .pcieFunctionLevelReset 4,
      .hostDmaError 8 0 0 0, .hostDmaError 0 7 0 0, .faultLogWord0Read 8 0, .evtClearLog 8, .evtClearFatal 8, .engineFault 16 0 0,
      .engineFaultClear 8 0#32, .linkUp 13 0 0, .linkDown 13 [] 0, .macsecMismatch 13 0 0, .preemptVerifyAttempt 13 0,
      .adminDownWrite 8 0 0#32, .adminDownWrite 0 13 0#32, .wakeSendWrite 8 0 0#32, .wakeSendWrite 0 13 0#32, .wakeFrameSend 13 0,
      .filterRuleWrite 8 0 0 0#32, .filterRuleWrite 0 8192 0 0#32, .filterRuleWrite 0 0 8 0#32, .mdioGoWrite 8 0 0#32,
      .mdioGoWrite 0 2 0#32, .mdioFrameDone 2 0 0, .takeInstant 16384 0, .originatedSlotSend 16384 0, .forwardGateOpen 16384 0 0,
      .forwardGateOpen 0 13 0, .slotOverrun 16384 0 0] : List Instr).all (fun i => !i.wf) = true := by
  decide +kernel

/-- Operands out of range, part 2. -/
theorem test_wf_ranges_1 :
    ([
      .slotOverrun 0 13 0, .masterAnswerTimeout 8 0 0 0, .masterAnswerTimeout 0 4 0 0, .ttdpHelloReceived 13 0 0,
      .ttdpHelloReceived 0 281474976710656 0, .ttdpHelloTimeout 13 0, .ttdpTopologyReceived 13 0 0 0 0, .pdelayRequestSend 13 0,
      .pdelayResponseTimeout 13 0, .toutArmWrite 8 0 0#32, .toutArmWrite 0 8 0#32, .toutModeOffWrite 8 0 0#32,
      .toutModeOffWrite 0 8 0#32, .toutPulse 8 0, .toutBindWrite 8 0 0#32, .toutBindWrite 0 8 0#32, .tcapEdge 4 false 0,
      .tcapEntryRead 8 0, .tcapEntryRead 0 4, .tsqEntryRead 8 0, .tsqEntryRead 0 2, .gptpSyncSend 13 0, .gptpAnnounceSend 13 0,
      .gptpPdelaySend 13 0, .ptpMessageReceived 13 0 0, .ptpMessageReceived 0 16 0, .pairPathLost 3 0, .sampleInstant 16384 0,
      .discreteBufferComplete 16384 0, .decisionPoint 16384 0, .outputInstant 16384 0, .carDeliverySend 16384 0 0,
      .carDeliverySend 0 13 0, .pdtDsDoneWrite 8 0 0#32, .pdtDsDoneWrite 0 512 0#32, .pdtBufStatusRead 8 0, .pdtBufStatusRead 0 512,
      .dioOutSetWrite 8 0#32, .dioOutClrWrite 8 0#32, .lineEdge 36 false 0, .lineStuck 36 0, .wakeStuck 4 0, .stormEnded 36 0,
      .dlReadbackFail 36 0, .edgeEntryRead 8, .audioInstanceDecision 16384 0, .graphOverload 8 0, .tdmClockFault 4 0,
      .canFrameReceived 4 tWfCan 0 0, .canFrameReceived 0 { tWfCan with dlc := 16 } 0 0, .canFrameSent 4 0 false 0 0,
      .canArbitrationLost 4 0 false 0, .canTxError 4 0 false false false 0, .busRecovered 4 0, .dominantTimeout 4 0,
      .dominantReleased 4 0, .timedEntryRelease 4 0 0, .timedEntryRelease 0 4 0, .canTxqPush 8 0 0 0#32, .canTxqPush 0 4 0 0#32] : List Instr).all (fun i => !i.wf) = true := by
  decide +kernel

/-- Operands out of range, part 3. -/
theorem test_wf_ranges_2 :
    ([
      .canTxqPush 0 0 4 0#32, .canTxCancelWrite 8 0 0#32 false, .canTxCancelWrite 0 4 0#32 false, .canObjCancelWrite 8 0 0 0#32 none,
      .canObjCancelWrite 0 4 0 0#32 none, .canObjCancelWrite 0 0 4 0#32 none, .canObjTxreqWrite 8 0 0 0#32, .canObjTxreqWrite 0 4 0 0#32,
      .canObjTxreqWrite 0 0 4 0#32, .canObjectWrite 8 0 0 0 0#32, .canObjectWrite 0 4 0 0 0#32, .canObjectWrite 0 0 128 0 0#32,
      .canObjectWrite 0 0 0 32 0#32, .canEntryLockRead 8 0 0 0 0, .canEntryLockRead 0 4 0 0 0, .canEntryLockRead 0 0 2 0 0,
      .canEntryReleaseRead 8 0 0 0, .canEntryReleaseRead 0 4 0 0, .canEntryReleaseRead 0 0 2 0, .lockTimeout 4 0 0 0,
      .lockTimeout 0 2 0 0, .canCtrlLoopWrite 8 0 0#32 false, .canCtrlLoopWrite 0 4 0#32 false, .canCtrlHaltWrite 8 0 0#32 false,
      .canCtrlHaltWrite 0 4 0#32 false, .canCtrlRecoverWrite 8 0 0#32 false, .canCtrlRecoverWrite 0 4 0#32 false,
      .tunFrameClose 16384 0 0, .tunFrameClose 0 4 0, .bar2ReadTlp 4 0 0 0, .bar2WriteTlp 4 0 [] 0, .prefetchBlockExpiry 268435456 0,
      .semLeaseExpired 64 0, .windowLockLeaseExpiry 16 0, .postedLogRead 8, .chkGoWrite 8 0 0#32, .chkGoWrite 0 28 0#32,
      .chkStopWrite 8 0 0#32, .chkStopWrite 0 28 0#32, .chkRunWrite 8 0 0#32, .chkRunWrite 0 28 0#32, .checkJobDone 28 none 0,
      .echoEnterRetry 13 0, .prbsLockLoss 13 0 0 0, .injectArmWrite 8 0#32, .injectDisarmWrite 8 0#32, .bypass 256, .supplyMonitorTrip 3,
      .pllUnlock 19 0, .pcrWarmWrite 8 0#32 0, .pcrSleepWrite 8 0#32 0, .memLoopGoWrite 8 0#32, .registerRead 8 0 false,
      .preemptVerifyFrameReceived 13 false 0, .canRxError 4 0 0, .busIntegrationComplete 4 0, .pllRelock 19 0, .prbsCheckerLock 13 0 0 0,
      .carPeerDelayReceived 13 0 0 0 0 0 0, .carPeerDelayReceived 0 16 0 0 0 0 0] : List Instr).all (fun i => !i.wf) = true := by
  decide +kernel

/-! ### Worked examples of the spec, and the ends of the machine -/

/-- R602: the check values of the table, over the nine bytes "123456789". -/
theorem test_check_values :
    let bs : List Byte := [0x31#8, 0x32#8, 0x33#8, 0x34#8, 0x35#8, 0x36#8, 0x37#8, 0x38#8, 0x39#8]
    [0, 1, 2, 3].map (fun a => crcResult a (crcFeed a (crcSeed a) bs)) = [0xE3069283, 0xCBF43926, 0x29B1, 0xF4] ∧
    crcFeed 0 (crcFeed 0 (crcSeed 0) (bs.take 4)) (bs.drop 4) = 0x1CF96D7C := by decide +kernel

/-- The header of a slot frame, the worked example of chapter 4. -/
theorem test_slot_header_bytes :
    ((encodeHdr { hdrOf 1 with
        lineB := true, ageValid := true, lastFrag := true, epoch := 0x2A, src := 8, tc := 6, sid := 0x123, ci := 1,
        seq := 0x1F40, age := 2, cycle := 100000, plen := 64 }).take 28).map (·.toNat) =
      [0x11, 0xA8, 0, 0x2A, 0, 0x86, 4, 0x8D, 0x1F, 0x40, 0, 2, 0, 0, 0, 0, 0, 0, 0, 0, 0, 1, 0x86, 0xA0, 0, 0x40, 0, 0] := by
  decide +kernel

/-- The copy index does not enter the check of that frame. -/
theorem test_slot_header_check :
    spineCheck { hdrOf 1 with sid := 0x123, ci := 1, seq := 0x1F40, epoch := 0x2A } (zeros 64) =
      crc32c ([4, 0x8C, 0x1F, 0x40, 0, 0x2A].map (BitVec.ofNat 8) ++ zeros 64) := by decide +kernel

/-- A translated route, the worked example of chapter 13. -/
theorem test_translated_route :
    routeMatches 0x89000000 0xED00C410 2 { tWfCan with id := 0x243 * 2 ^ 18 } = true ∧
    routeMatches 0x89000000 0xED00C410 2 { tWfCan with id := 0x248 * 2 ^ 18 } = false ∧
    routeId 0x89000000 0xED00C410 (0x243 * 2 ^ 18) = 0x5A3 * 2 ^ 18 := by decide +kernel

/-- The words of a log record, the worked example of chapter 16, and the address of record 37. -/
theorem test_log_record :
    recordWords ⟨0x2203, 4 + 0xA * 4096, 0x5F5E1A40#32, 0x00060200#32, 0#32⟩ = [0xA0042203#32, 0x5F5E1A40#32, 0x00060200#32, 0#32] ∧
    Reg.EVT_LOG 37 = 0x00190250 ∧ evSev 0x4202 = 2 := by decide +kernel

/-- No row of the opcode table has bits, so no word spells a command. -/
theorem test_no_word_spells_a_command (nbits w : Nat) : decodeTableWord nbits w = none := rfl

/-- What an outcome's next state satisfies; false of a fault and of a refusal. -/
def tNext (o : Host.Outcome State Fault Refusal) (p : State → Bool) : Bool := match o with | .next t => p t | _ => false

/-- With no command waiting a tick of 4 ns passes, and with one waiting it is performed and leaves the queue. -/
theorem test_step :
    tNext (step (tSt tOn)) (fun t => t.node.tm.raw == tOn.tm.raw + 4) = true ∧
    tNext (step { tSt tOn with pending := [.powerOnReset, .idcode] }) (fun t => t.pending == [.idcode] && t.node.inReset) = true := by
  decide +kernel

/-- R697: the identity of the boundary-scan port. -/
theorem test_idcode : tNext (exec .idcode (tSt tOn)) (fun t => t.node.tst.jtag.dr == 0x16420B47) = true := by decide +kernel

/-- A write through a read-only register changes nothing, and a write of the timer register is read back. -/
theorem test_register_write :
    tNext (exec (.registerWrite 0 Reg.TOP_PART 5#32) (tSt tOn)) (fun t => t.node.reg Reg.TOP_PART == tOn.reg Reg.TOP_PART) = true ∧
    tNext (exec (.registerWrite 0 Reg.TOP_WDOG_CFG 7#32) (tSt tOn)) (fun t => t.node.reg Reg.TOP_WDOG_CFG == 7#32) = true := by
  decide +kernel

/-! ### The hypotheses of the statements can be met -/

theorem test_step_on_empty_queue_lets_time_pass :
    (∃ (s : State), s.pending = []) := by
  exact
      ⟨tSt tOn, by decide +kernel⟩

theorem test_queue_is_served_first_in_first_out :
    (∃ (s : State), s.pending = []) := by
  exact
      ⟨tSt tOn, by decide +kernel⟩

theorem test_fuses_only_blow :
    (∃ (k : Nat) (s t : State), Sys2Proof.core.run k s = .next t) := by
  exact
      ⟨1, tSt tOn, tSt { tOn with tm := { tOn.tm with raw := 4 } }, rfl⟩

theorem test_reset_leaves_the_reset_values :
    (∃ a, a ≠ Reg.TOP_NODE_ID_LO ∧ a ≠ Reg.TOP_NODE_ID_HI) := by
  exact
      ⟨Reg.TOP_PART, by decide +kernel⟩

theorem test_registers_hold_and_events_join_the_queue :
    (∃ (a : Nat), ∃ b, b ≠ a) ∧
    (∃ (n : Node), Memory.wf n = true) ∧
    (∃ (n : Node), n.ev.queue.length < 256) ∧
    (∃ (n : Node), 256 ≤ n.ev.queue.length) ∧
    (∃ (n : Node), n.ev.queue.length ≤ 256) := by
  refine ⟨
      ⟨Reg.TOP_PLACE, Reg.TOP_EPOCH, by decide +kernel⟩,
      ⟨tOn, by decide +kernel⟩,
      ⟨tOn, by decide +kernel⟩,
      ⟨{ tOn with ev := { tOn.ev with queue := List.replicate 256 ⟨1, 0, 0#32, 0#32, 0#32⟩ } }, by decide +kernel⟩,
      ⟨{ tOn with ev := { tOn.ev with queue := List.replicate 256 ⟨1, 0, 0#32, 0#32, 0#32⟩ } }, by decide +kernel⟩⟩

theorem test_writes_change_only_the_writable_bits :
    (∃ (s : State) (ctx addr : Nat) (row : RegRow), s.node.admits ctx addr true = true ∧ plainAddr addr = true ∧ regRow addr = some row ∧
      (row.access = .rw ∨ row.access = .rws ∨ row.access = .wo)) ∧
    (∃ (s : State) (ctx addr : Nat) (row : RegRow), s.node.admits ctx addr true = true ∧ plainAddr addr = true ∧ regRow addr = some row ∧
      (row.access = .ro ∨ row.access = .ros ∨ row.access = .rc)) ∧
    (∃ (s : State) (ctx addr : Nat) (row : RegRow), s.node.admits ctx addr true = true ∧ plainAddr addr = true ∧ regRow addr = some row ∧
      row.access = .w1c) := by
  refine ⟨
      ⟨tSt tOn, 0, Reg.TOP_WDOG_CFG, (regRow Reg.TOP_WDOG_CFG).getD ⟨0, [], 0, .ro, 0#32⟩, by decide +kernel⟩,
      ⟨tSt tOn, 0, Reg.TOP_PART, (regRow Reg.TOP_PART).getD ⟨0, [], 0, .ro, 0#32⟩, by decide +kernel⟩,
      ⟨tSt tOn, 0, Reg.TOP_ENG_FAULT, (regRow Reg.TOP_ENG_FAULT).getD ⟨0, [], 0, .ro, 0#32⟩, by decide +kernel⟩⟩

theorem test_failed_accesses_have_no_effect :
    (∃ (i : Instr) (x : RowAccess) (s : State), ∃ cause, ∃ inst, accessOf i = some x ∧ x.ctx < 6 ∧ s.node.bit Reg.TOP_PD_STATE 9 = true ∧
      x.addr % 4 = 0 ∧ x.addr < regSpace ∧ s.node.waitingOk x.ctx x.addr x.write = true ∧ s.node.refusal (s.node.ctxSecure x.ctx) x.ctx
      x.addr x.write = some (cause, inst)) ∧
    (∃ (i : Instr) (x : RowAccess) (s : State), ∃ d, accessOf i = some x ∧ x.ctx < 6 ∧ s.node.bit Reg.TOP_PD_STATE 9 = true ∧ x.addr % 4 =
      0 ∧ x.addr < regSpace ∧ s.node.waitingOk x.ctx x.addr x.write = true ∧ s.node.refusal (s.node.ctxSecure x.ctx) x.ctx x.addr x.write =
      none ∧ domainOf x.addr = some d ∧ s.node.bit Reg.TOP_PD_STATE d = false) ∧
    (∃ (i : Instr) (x : RowAccess) (s : State), accessOf i = some x ∧ x.ctx < 6 ∧ s.node.bit Reg.TOP_PD_STATE 9 = true ∧ x.addr % 4 = 0 ∧
      x.addr < regSpace ∧ s.node.waitingOk x.ctx x.addr x.write = true ∧ s.node.refusal (s.node.ctxSecure x.ctx) x.ctx x.addr x.write =
      none ∧ (∀ d, domainOf x.addr = some d → s.node.bit Reg.TOP_PD_STATE d = true) ∧ regRow x.addr = none) := by
  refine ⟨
      ⟨.registerWrite 1 Reg.PCR_WAKE_EN 5#32, ⟨1, Reg.PCR_WAKE_EN, true, 0⟩, tSt tOn, 1, (instOf Reg.PCR_WAKE_EN).getD 127,
        by decide +kernel⟩,
      ⟨.tmbNowNsRead 0 9, ⟨0, Reg.TMB_NOW_NS, false, 9⟩, tSt (tRegs tOn [(Reg.TOP_PD_STATE, 0xFFD)]), 1, by decide +kernel⟩,
      ⟨.registerWrite 0 0x03FFFFFC 1#32, ⟨0, 0x03FFFFFC, true, 0⟩, tSt tOn, by decide +kernel⟩⟩

theorem test_refusals_are_counted_and_logged :
    (∃ (n : Node), n.host.viol.length < 32) ∧
    (∃ (n : Node), 32 ≤ n.host.viol.length) := by
  refine ⟨
      ⟨{ tOn with host := { tOn.host with viol := List.replicate 31 ⟨0#32, 0#32, 0#32, 0#32⟩ } }, by decide +kernel⟩,
      ⟨{ tOn with host := { tOn.host with viol := List.replicate 32 ⟨0#32, 0#32, 0#32, 0#32⟩ } }, by decide +kernel⟩⟩

theorem test_counter_reads_are_consistent :
    (∃ (s : State) (ctx a : Nat), ∃ m, isLowWord a = true ∧ a ≠ Reg.TOP_PLACE ∧ a ≠ Reg.TMB_NOW_NS ∧ (regRow a).all (fun r => r.access !=
      .rc) = true ∧ (regRow (a + 4)).all (fun r => r.access != .rc) = true ∧ latchStands (a + 4) = false ∧ latchesOf (a + 4) = [] ∧ m =
      (s.node.answer 0#32).refresh a ∧ s.node.admits ctx a false = true ∧ m.readTakes ctx a = none ∧ m.metered a = false ∧ m.latched ctx a
      = none) ∧
    (∃ (s : State) (ctx a : Nat), ∃ m, ∃ v, isLowWord a = true ∧ a ≠ Reg.TOP_PLACE ∧ a ≠ Reg.TMB_NOW_NS ∧ (regRow a).all (fun r => r.access
      != .rc) = true ∧ (regRow (a + 4)).all (fun r => r.access != .rc) = true ∧ latchStands (a + 4) = false ∧ latchesOf (a + 4) = [] ∧ m =
      (s.node.answer 0#32).refresh (a + 4) ∧ s.node.admits ctx (a + 4) false = true ∧ m.readTakes ctx (a + 4) = none ∧ m.metered (a + 4) =
      false ∧ m.latched ctx (a + 4) = some v) ∧
    (∃ (s : State) (ctx a : Nat), ∃ m, isLowWord a = true ∧ a ≠ Reg.TOP_PLACE ∧ a ≠ Reg.TMB_NOW_NS ∧ (regRow a).all (fun r => r.access !=
      .rc) = true ∧ (regRow (a + 4)).all (fun r => r.access != .rc) = true ∧ latchStands (a + 4) = false ∧ latchesOf (a + 4) = [] ∧ m =
      (s.node.answer 0#32).refresh (a + 4) ∧ s.node.admits ctx (a + 4) false = true ∧ m.readTakes ctx (a + 4) = none ∧ m.metered (a + 4) =
      false ∧ m.latched ctx (a + 4) = none) := by
  refine ⟨
      ⟨tSt tOn, 0, Reg.TMB_RAW_LO, (tOn.answer 0#32).refresh Reg.TMB_RAW_LO, by decide +kernel⟩,
      ⟨tSt (tOn.latch 0 Reg.TMB_RAW_HI 9#32), 0, Reg.TMB_RAW_LO, ((tOn.latch 0 Reg.TMB_RAW_HI 9#32).answer 0#32).refresh Reg.TMB_RAW_HI,
        9#32, by decide +kernel⟩,
      ⟨tSt tOn, 0, Reg.AUD_SAMPLE_LO, (tOn.answer 0#32).refresh Reg.AUD_SAMPLE_HI, by decide +kernel⟩⟩

theorem test_reads_latch_clear_and_remove :
    (∃ (s : State) (ctx : Nat), s.node.admits ctx Reg.TOP_PLACE false = true ∧ s.node.latched ctx Reg.TOP_PLACE = none) ∧
    (∃ (s : State) (ctx : Nat), s.node.admits ctx Reg.TMB_NOW_NS false = true ∧ s.node.latched ctx Reg.TMB_NOW_NS = none) ∧
    (∃ (s : State) (ctx index : Nat), s.node.admits ctx (Reg.EVT_LOG index) false = true) ∧
    (∃ (s : State) (ctx a : Nat), s.node.admits ctx a false = true ∧ s.node.showsPlain ctx a = true ∧ latchesOf a = [] ∧ (regRow a).any
      (fun r => r.access == .rc) = true ∧ a ≠ Reg.TOP_BUF_OPEN_MIN) ∧
    (∃ (s : State) (ctx : Nat), s.node.admits ctx Reg.WLD_VIOL_W3 false = true) ∧
    (∃ (s : State) (ctx q : Nat), q < 2 ∧ s.node.admits ctx (Reg.TMB_TSQ_W2 q) false = true ∧ s.node.tsqMine ctx q = true) ∧
    (∃ (s : State) (ctx i : Nat), i < 4 ∧ s.node.admits ctx (Reg.TMB_TCAP_SEC_HI i) false = true) ∧
    (∃ (s : State) (ctx : Nat), s.node.admits ctx Reg.DIO_EDGE_W1 false = true ∧ (s.node.pd.edgeCtx = some ctx ∨ s.node.ctxSecure ctx =
      true)) ∧
    (∃ (s : State) (ctx : Nat), s.node.admits ctx Reg.BRG_PWE_W4 false = true ∧ s.node.pweMine ctx = true) ∧
    (∃ (s : State) (ctx addr len : Nat), ctx < 4 ∧ s.node.bit Reg.TOP_PD_STATE 9 = true ∧ addr < regSpace ∧ (addr % 4 ≠ 0 ∨ len ≠ 4)) ∧
    (∃ (s : State), s.node.bit Reg.TOP_PD_STATE 9 = true) := by
  refine ⟨
      ⟨tSt tRun, 1, by decide +kernel⟩,
      ⟨tSt tRun, 1, by decide +kernel⟩,
      ⟨tSt tRun, 0, 1023, by decide +kernel⟩,
      ⟨tSt (tRegs tRun [(Reg.PAR_STALE, 77)]), 0, Reg.PAR_STALE, by decide +kernel⟩,
      ⟨tSt (tOn.refuse 1 true 0 1 0x10 3), 0, by decide +kernel⟩,
      ⟨tSt { tRegs tOn [(Reg.TMB_TSQ_CFG 1, 0x80)] with
        tm := { tOn.tm with tsqs := [Tsq.reset, { Tsq.reset with entries := [⟨1, 2, false, 0, 5#32⟩] }] } }, 0, 1, by decide +kernel⟩,
      ⟨tSt { tRegs tOn [(Reg.TMB_TSQ_CFG 1, 0x80)] with
        tm := { tOn.tm with tsqs := [Tsq.reset, { Tsq.reset with entries := [⟨1, 2, false, 0, 5#32⟩] }] } }, 0, 3, by decide +kernel⟩,
      ⟨tSt { tOn with pd := { tOn.pd with edges := [⟨1, true, false, 0, 5#32⟩] } }, 0, by decide +kernel⟩,
      ⟨tSt { tOn with brg := { tOn.brg with log := [⟨1, 2, 3, 4, 5#32, false, 0⟩] } }, 0, by decide +kernel⟩,
      ⟨tSt { tOn with brg := { tOn.brg with log := [⟨1, 2, 3, 4, 5#32, false, 0⟩] } }, 0, 2, 4, by decide +kernel⟩,
      ⟨tSt tOn, by decide +kernel⟩⟩

theorem test_rings_take_doorbells_and_sizes :
    (∃ (s : State) (ctx ring : Nat), ring < 4 ∧ s.node.ctxPresent ctx = true ∧ s.node.ctxResetting ctx = false ∧ s.node.admits ctx
      (Reg.HST_SQ_TAIL ctx ring) true = true) ∧
    (∃ (s : State) (ctx ring : Nat), ring < 4 ∧ s.node.ctxPresent ctx = true ∧ s.node.ctxResetting ctx = false ∧ s.node.admits ctx
      (Reg.HST_CQ_HEAD ctx ring) true = true) ∧
    (∃ (s : State) (ctx ring : Nat), ring < 4 ∧ s.node.ctxPresent ctx = true ∧ s.node.ctxResetting ctx = false ∧ s.node.admits ctx
      (Reg.HST_EVQ_HEAD ctx) true = true) ∧
    (∃ (s : State) (ctx ring : Nat), ring < 4 ∧ s.node.ctxPresent ctx = true ∧ s.node.ctxResetting ctx = false ∧ s.node.admits ctx
      (Reg.HST_FTX_TAIL ctx) true = true) ∧
    (∃ (s : State) (ctx ring : Nat), ring < 4 ∧ s.node.ctxPresent ctx = true ∧ s.node.ctxResetting ctx = false ∧ s.node.admits ctx
      (Reg.HST_FRX_TAIL ctx) true = true) ∧
    (∃ (s : State) (ctx ring : Nat) (v : Word), ring < s.node.fld (Reg.HST_CTX_CFG ctx) Fld.HST_CTX_CFG_RINGS ∧ ring < 4 ∧
      s.node.ctxPresent ctx = true ∧ s.node.ctxResetting ctx = false ∧ s.node.admits ctx (Reg.HST_SQ_SIZE ctx ring) true = true ∧
      (s.node.reg (Reg.HST_SQ_SIZE ctx ring) ≠ 0#32 ∨ v.toNat % 2048 = 0)) ∧
    (∃ (s : State) (ctx ring : Nat) (v : Word), ring < s.node.fld (Reg.HST_CTX_CFG ctx) Fld.HST_CTX_CFG_RINGS ∧ ring < 4 ∧
      s.node.ctxPresent ctx = true ∧ s.node.ctxResetting ctx = false ∧ s.node.admits ctx (Reg.HST_SQ_SIZE ctx ring) true = true ∧
      s.node.reg (Reg.HST_SQ_SIZE ctx ring) = 0#32 ∧ (v.toNat % 2048 ∈ [16, 32, 64] ∨ (ctx < 4 ∧ v.toNat % 2048 ∈ [128, 256, 512, 1024]))) ∧
    (∃ (s : State) (ctx ring : Nat) (v : Word), ring < s.node.fld (Reg.HST_CTX_CFG ctx) Fld.HST_CTX_CFG_RINGS ∧ ring < 4 ∧
      s.node.ctxPresent ctx = true ∧ s.node.ctxResetting ctx = false ∧ s.node.admits ctx (Reg.HST_SQ_SIZE ctx ring) true = true ∧
      s.node.reg (Reg.HST_SQ_SIZE ctx ring) = 0#32 ∧ v.toNat % 2048 ≠ 0 ∧ v.toNat % 2048 ∉ [16, 32, 64, 128, 256, 512, 1024]) ∧
    (∃ (s : State) (ctx ring : Nat), ctx < 4 ∧ ring < 7 ∧ s.node.ctxPresent ctx = true ∧ s.node.host.stopped.contains (ctx, ring) = false) ∧
    (∃ (s : State) (ctx ring time : Nat) (e : Coalesce), ctx < 4 ∧ (s.node.host.coalesce.find? fun x => x.ctx == ctx && x.ring == ring) =
      some e ∧ e.since + s.node.bits (Reg.HST_CQ_IRQ ctx ring) 8 16 * 1000 ≤ (s.node.at time).tm.raw) ∧
    (∃ (s : State) (ctx vec : Nat) (v : Word), ctx < 4 ∧ vec < 32 ∧ s.node.bit Reg.TOP_PD_STATE 9 = true ∧ v.toNat % 2 = 0 ∧
      s.node.host.msixPend = [(ctx, vec)]) ∧
    (∃ (s : State) (ctx vec w : Nat), ctx < 4 ∧ vec < 32 ∧ w < 3 ∧ s.node.bit Reg.TOP_PD_STATE 9 = true ∧ s.node.host.msixPend = []) ∧
    (∃ (s : State) (ctx off : Nat), ctx < 4 ∧ off < 0x4000 ∧ s.node.bit Reg.TOP_PD_STATE 9 = true) := by
  refine ⟨
      ⟨tSt tRing, 0, 0, by decide +kernel⟩,
      ⟨tSt tRing, 0, 0, by decide +kernel⟩,
      ⟨tSt tRing, 0, 0, by decide +kernel⟩,
      ⟨tSt tRing, 0, 0, by decide +kernel⟩,
      ⟨tSt tRing, 0, 0, by decide +kernel⟩,
      ⟨tSt tRing, 0, 0, 0#32, by decide +kernel⟩,
      ⟨tSt tOn, 0, 0, 1024#32, by decide +kernel⟩,
      ⟨tSt tOn, 0, 0, 8#32, by decide +kernel⟩,
      ⟨tSt tOn, 0, 6, by decide +kernel⟩,
      ⟨tSt { tRegs tOn [(Reg.HST_CQ_IRQ 0 0, 0x200)] with host := { tOn.host with coalesce := [⟨0, 0, 1, 5⟩] } }, 0, 0, 2005, ⟨0, 0, 1, 5⟩,
        by decide +kernel⟩,
      ⟨tSt { tOn with host := { tOn.host with msixPend := [(0, 3)] } }, 0, 3, 0#32, by decide +kernel⟩,
      ⟨tSt tOn, 0, 31, 2, by decide +kernel⟩,
      ⟨tSt tOn, 0, 0x3FFF, by decide +kernel⟩⟩

theorem test_context_resets_start_and_end :
    (∃ (s : State) (fn : Nat), fn < 4 ∧ s.node.ctxPresent fn = true ∧ s.node.ctxResetting fn = false) ∧
    (∃ (s : State) (ctx target : Nat) (v : Word), target < 8 ∧ v.toNat.testBit 0 = true ∧ s.node.admits ctx (Reg.HST_CTX_CTRL target) true
      = true ∧ s.node.ctxPresent target = true ∧ s.node.ctxResetting target = false) ∧
    (∃ (s : State) (ctx time : Nat), 6 ≤ ctx ∧ s.node.ctxPresent ctx = true ∧ s.node.ctxResetting ctx = false ∧ s.node.linkUp (4 +
      s.node.fld (Reg.HST_CTX_CFG ctx) Fld.HST_CTX_CFG_PORT) = false ∧ (s.node.port (4 + s.node.fld (Reg.HST_CTX_CFG ctx)
      Fld.HST_CTX_CFG_PORT)).linkAt + 1000000000 ≤ time) ∧
    (∃ (s : State) (ctx cause : Nat), ctx < 8 ∧ (s.node.host.resets.find? fun x => x.1 == ctx) = some (ctx, cause) ∧ (∀ w ∈
      s.node.host.waits, ¬ (w.kind = waitCtxReset ∧ w.key = ctx)) ∧ s.node.ev.queue.length < 200 ∧ s.node.brg.blocks = []) := by
  refine ⟨
      ⟨tSt tOn, 1, by decide +kernel⟩,
      ⟨tSt tOn, 0, 4, 1#32, by decide +kernel⟩,
      ⟨tSt tOn, 6, 1000000000, by decide +kernel⟩,
      ⟨tSt (tOn.ctxResetStart 1 3), 1, 3, by decide +kernel⟩⟩

theorem test_fetched_commands_are_checked_and_accepted :
    (∃ (s : State) (ctx ring : Nat) (entry e : SqEntry), ctx < 6 ∧ ring < 4 ∧ s.node.fetches ctx = true ∧ s.node.reg (Reg.HST_SQ_HEAD ctx
      ring) ≠ s.node.reg (Reg.HST_SQ_TAIL ctx ring) ∧ s.node.reg (Reg.HST_SQ_SIZE ctx ring) ≠ 0#32 ∧ s.node.cqOn ctx ring = true ∧
      s.node.host.stopped.contains (ctx, ring) = false ∧ 4 + 4 * s.node.inFlight ctx ring ≤ s.node.cqFree ctx ring ∧ e = s.node.fetched ctx
      ring entry ∧ s.node.passesFirst ctx e = true) ∧
    (∃ (s : State) (ctx ring : Nat) (e : SqEntry), 6 ≤ ctx ∧ ring < 4 ∧ s.node.fetches ctx = true ∧ (s.node.host.frameCmds.find? fun x =>
      x.1 == ctx && x.2.1 == ring) = some (ctx, ring, e) ∧ s.node.passesFirst ctx e = true) ∧
    (∃ (n : Node) (c r i : Nat) (e : SqEntry), c < 8 ∧ r < 4 ∧ e.seq < 2 ^ 32 ∧ i = (n.reg (Reg.JRN_CTX_BASE c)).toNat +
      (n.host.shares.getD c ⟨0, 0⟩).next ∧ i < 8192) ∧
    (∃ (e : SqEntry), e.seq = 0) ∧
    (∃ (n : Node) (c : Nat) (e : SqEntry), e.seq ≠ 0 ∧ (n.host.shares.getD c ⟨0, 0⟩).count ≠ 0 ∧ seqPrecedes e.seq (n.reg
      (Reg.JRN_CTX_OLDEST c)).toNat = true) ∧
    (∃ (n : Node) (c : Nat) (e : SqEntry), e.seq ≠ 0 ∧ (¬ ((n.host.shares.getD c ⟨0, 0⟩).count ≠ 0 ∧ seqPrecedes e.seq (n.reg
      (Reg.JRN_CTX_OLDEST c)).toNat = true)) ∧ n.jrnFind c e.seq = none ∧ n.fld (Reg.HST_CTX_CFG c) Fld.HST_CTX_CFG_SHARED = 1 ∧ n.holder =
      false ∧ asksOnly e.opcode = false) := by
  refine ⟨
      ⟨tSt tRing, 0, 0, tSq 0x0102 7, tSq 0x0102 7, by decide +kernel⟩,
      ⟨tSt { tHf with host := { tHf.host with frameCmds := [(6, 0, tSq 0x0102 7)] } }, 6, 0, tSq 0x0102 7, by decide +kernel⟩,
      ⟨tRing, 0, 0, 0, tSq 0x0102 7, by decide +kernel⟩,
      ⟨tSq 0x0101 0, by decide +kernel⟩,
      ⟨tJrn, 0, tSq 0x0101 4, by decide +kernel⟩,
      ⟨tRegs tRing [(Reg.HST_CTX_CFG 0, 76)], 0, tSq 0x0201 7, by decide +kernel⟩⟩

theorem test_undefined_opcodes_are_rejected :
    (∃ (op : Nat), (op / 256 = 0 ∨ 0x0E ≤ op / 256)) ∧
    (∃ (op : Nat), definedOpcode op = false) ∧
    (∃ (n : Node) (c : Nat) (e : SqEntry), e.seq ≠ 0 ∧ definedOpcode e.opcode = false ∧ (¬ ((n.host.shares.getD c ⟨0, 0⟩).count ≠ 0 ∧
      seqPrecedes e.seq (n.reg (Reg.JRN_CTX_OLDEST c)).toNat = true)) ∧ n.jrnFind c e.seq = none ∧ n.fld (Reg.HST_CTX_CFG c)
      Fld.HST_CTX_CFG_SHARED = 0 ∧ n.jrnFull c = false) ∧
    (∃ (s : State) (c : Cmd), definedOpcode c.entry.opcode = false ∧ (s.node.at c.time).fenceHeld c = false) := by
  refine ⟨
      ⟨0x0E00, by decide +kernel⟩,
      ⟨0x0105, by decide +kernel⟩,
      ⟨tRing, 0, tSq 0x0105 7, by decide +kernel⟩,
      ⟨tSt tRing, { tCmd 0 [] with entry := tSq 0x0105 7 }, by decide +kernel⟩⟩

theorem test_completions_are_posted :
    (∃ (n : Node) (c : Cmd) (res : List Word), c.ctx < 4 ∧ c.ring < 4 ∧ res.length ≤ 4 ∧ n.engFailed 0 = false ∧ n.cqOn c.ctx c.ring = true
      ∧ n.flightOf c.ctx c.entry.seq = none ∧ (n.reg (Reg.HST_CQ_TAIL c.ctx c.ring)).toNat + 1 < (n.reg (Reg.HST_CQ_SIZE c.ctx
      c.ring)).toNat) := by
  exact
      ⟨tRing, tCmd 0 [], [1#32, 2#32, 3#32, 4#32], by decide +kernel⟩

theorem test_commands_that_fail_the_shared_checks_have_no_effect :
    (∃ (i : Instr) (s : State) (x : RowCommand), s.node.commandOf i = some x ∧ x.cmd.entry.opcode ≠ x.op) ∧
    (∃ (i : Instr) (s : State) (x : RowCommand), s.node.commandOf i = some x ∧ x.cmd.entry.opcode = x.op ∧ (s.node.at x.cmd.time).fenceHeld
      x.cmd = true) ∧
    (∃ (i : Instr) (s : State) (x : RowCommand), s.node.commandOf i = some x ∧ x.cmd.entry.opcode = x.op ∧ (s.node.at x.cmd.time).fenceHeld
      x.cmd = false ∧ (2 ≤ x.cmd.entry.flags ∨ x.cmd.entry.rsv ≠ 0 ∨ ∃ w ∈ x.cmd.entry.args.drop x.nargs, w ≠ 0#32)) ∧
    (∃ (i : Instr) (s : State) (x : RowCommand), ∃ k, s.node.commandOf i = some x ∧ (x.need = .secure k ∨ x.need = .inst k) ∧
      x.cmd.entry.opcode = x.op ∧ (s.node.at x.cmd.time).fenceHeld x.cmd = false ∧ x.cmd.entry.flags < 2 ∧ x.cmd.entry.rsv = 0 ∧ (∀ w ∈
      x.cmd.entry.args.drop x.nargs, w = 0#32) ∧ s.node.mayRun x.cmd.ctx x.need = false) := by
  refine ⟨
      ⟨.nodeNop (tCmd 0 []), tSt tOn, ⟨tCmd 0 [], 0x0102, 4, .either⟩, rfl, by decide +kernel⟩,
      ⟨.nodeStatus (tCmd 0 []), tSt { tOn with
        host := { tOn.host with flight := [⟨0, 0, 6, 0x0201, none, false, false, []⟩, ⟨0, 0, 7, 0x0101, none, true, false, []⟩] } }, ⟨tCmd
        0 [], 0x0101, 0, .either⟩, rfl, by decide +kernel, by decide +kernel⟩,
      ⟨.nodeStatus (tCmd 0 [1]), tSt tOn, ⟨tCmd 0 [1], 0x0101, 0, .either⟩, rfl, by decide +kernel, by decide +kernel, .inr (.inr ⟨1#32,
        by decide +kernel, by decide +kernel⟩)⟩,
      ⟨.imgStatus (tOp 0x0D01 1 []), tSt tOn, ⟨tOp 0x0D01 1 [], 0x0D01, 0, .secure instImg⟩, instImg, rfl, .inl rfl, by decide +kernel,
        by decide +kernel, by decide +kernel, by decide +kernel, List.forall_mem_nil _, by decide +kernel⟩⟩

theorem test_node_and_journal_commands_answer :
    (∃ (s : State) (c : Cmd), s.node.takes c 0x0101 .either 0 = true) ∧
    (∃ (s : State) (c : Cmd), s.node.takes c 0x0102 .either 4 = true) ∧
    (∃ (s : State) (c : Cmd), s.node.takes c 0x0104 .either 1 = true ∧ arg c 0 < 8 ∧ (arg c 0 = c.ctx ∨ s.node.ctxSecure c.ctx = true) ∧
      s.node.ctxPresent (arg c 0) = true) ∧
    (∃ (s : State) (c : Cmd), s.node.takes c 0x0104 .either 1 = true ∧ arg c 0 < 8 ∧ arg c 0 ≠ c.ctx ∧ s.node.ctxSecure c.ctx = false) ∧
    (∃ (s : State) (c : Cmd), s.node.takes c 0x0103 (.secure (81 + arg c 0 % 8)) 1 = true ∧ arg c 0 < 8 ∧ arg c 0 ≠ c.ctx ∧
      s.node.ctxPresent (arg c 0) = true) ∧
    (∃ (s : State) (c : Cmd), s.node.takes c 0x0B01 .either 1 = true ∧ arg c 0 < 8 ∧ (arg c 0 = c.ctx ∨ s.node.ctxSecure c.ctx = true)) ∧
    (∃ (s : State) (c : Cmd) (i : Nat) (is : List Nat), s.node.takes c 0x0B02 .either 5 = true ∧ arg c 0 < 8 ∧ (arg c 0 = c.ctx ∨
      s.node.ctxSecure c.ctx = true) ∧ arg c 2 = 1 ∧ arg c 3 = 0 ∧ arg c 4 = 0 ∧ s.node.jrnFrom (arg c 0) (arg c 1) = i :: is) ∧
    (∃ (s : State) (c : Cmd), s.node.takes c 0x0B03 .either 2 = true ∧ arg c 0 < 8 ∧ (arg c 0 = c.ctx ∨ s.node.ctxSecure c.ctx = true) ∧
      (s.node.host.shares.getD (arg c 0) ⟨0, 0⟩).count ≠ 0 ∧ (arg c 1 = (s.node.reg (Reg.JRN_CTX_NEWEST (arg c 0))).toNat ∨ seqPrecedes
      (arg c 1) (s.node.reg (Reg.JRN_CTX_NEWEST (arg c 0))).toNat = true)) ∧
    (∃ (s : State) (c : Cmd), s.node.takes c 0x0B04 (.secure (81 + arg c 0 % 8)) 1 = true ∧ arg c 0 < 8 ∧ s.node.ctxPresent (arg c 0) =
      true ∧ (∀ i, (s.node.reg (Reg.JRN_CTX_BASE (arg c 0))).toNat ≤ i → i < (s.node.reg (Reg.JRN_CTX_BASE (arg c 0))).toNat + (s.node.reg
      (Reg.JRN_CTX_SIZE (arg c 0))).toNat → s.node.jrnValid i = true → s.node.jrnOutcome i ≠ 0xFE) ∧ s.node.flightOf c.ctx c.entry.seq =
      none) := by
  refine ⟨
      ⟨tSt tOn, tOp 0x0101 1 [], by decide +kernel⟩,
      ⟨tSt tOn, tOp 0x0102 1 [1, 2, 3, 4], by decide +kernel⟩,
      ⟨tSt tOn, tOp 0x0104 0 [1], by decide +kernel⟩,
      ⟨tSt tOn, tOp 0x0104 1 [0], by decide +kernel⟩,
      ⟨tSt tOn, tOp 0x0103 0 [6], by decide +kernel⟩,
      ⟨tSt tOn, tOp 0x0B01 1 [1], by decide +kernel⟩,
      ⟨tSt tJrn, tOp 0x0B02 0 [0, 5, 1], 0, [], by decide +kernel⟩,
      ⟨tSt tJrn, tOp 0x0B03 0 [0, 5], by decide +kernel⟩,
      ⟨tSt tJrn, tOp 0x0B04 0 [0], by decide +kernel⟩⟩

theorem test_host_frames_carry_commands_and_completions :
    (∃ (s : State) (r : Rx) (c : Nat), ((s.node.at r.stamp).echoBack r).rxFail r = none ∧ (((s.node.at r.stamp).echoBack r).rxGood
      r).frameCtx r.port r.frame = some c ∧ frameCells r.frame ≤ r.room ∧ (((s.node.at r.stamp).echoBack r).rxGood r).echoing r.port =
      false ∧ (((s.node.at r.stamp).echoBack r).rxGood r).fetches c = true ∧ (frameEntries r.frame.body).1 < (((s.node.at r.stamp).echoBack
      r).rxGood r).fld (Reg.HST_CTX_CFG c) Fld.HST_CTX_CFG_RINGS ∧ ((((s.node.at r.stamp).echoBack r).rxGood r).host.frameCmds.countP fun x
      => x.1 == c && x.2.1 == (frameEntries r.frame.body).1) + (((s.node.at r.stamp).echoBack r).rxGood r).inFlight c (frameEntries
      r.frame.body).1 + (frameEntries r.frame.body).2.length ≤ 64) ∧
    (∃ (s : State) (ctx : Nat) (e : HeldEntry), s.node.host.held = [e] ∧ e.ctx = ctx ∧ e.event = false ∧ byteAt e.bytes 28 = 0) ∧
    (∃ (s : State) (ctx len : Nat) (f : Frame), ctx < 4 ∧ s.node.ctxPresent ctx = true ∧ s.node.ctxResetting ctx = false ∧ s.node.reg
      (Reg.HST_FTX_SIZE ctx) ≠ 0#32 ∧ s.node.reg (Reg.HST_FTX_HEAD ctx) ≠ s.node.reg (Reg.HST_FTX_TAIL ctx) ∧ s.node.host.stopped.contains
      (ctx, 5) = false ∧ (len < 60 ∨ 1518 < len ∨ s.node.isSpine f = true ∨ f.etype = 0x8808)) ∧
    (∃ (s : State) (ctx len flags : Nat) (f : Frame), ctx < 4 ∧ s.node.ctxPresent ctx = true ∧ s.node.ctxResetting ctx = false ∧ s.node.reg
      (Reg.HST_FTX_SIZE ctx) ≠ 0#32 ∧ s.node.reg (Reg.HST_FTX_HEAD ctx) ≠ s.node.reg (Reg.HST_FTX_TAIL ctx) ∧ s.node.host.stopped.contains
      (ctx, 5) = false ∧ 60 ≤ len ∧ len ≤ 1518 ∧ s.node.isSpine f = false ∧ f.etype ≠ 0x8808 ∧ flags.testBit 0 = false) ∧
    (∃ (s : State) (ctx len flags time q p : Nat) (f : Frame) (m : Node), ctx < 4 ∧ s.node.ctxPresent ctx = true ∧ s.node.ctxResetting ctx
      = false ∧ s.node.reg (Reg.HST_FTX_SIZE ctx) ≠ 0#32 ∧ s.node.reg (Reg.HST_FTX_HEAD ctx) ≠ s.node.reg (Reg.HST_FTX_TAIL ctx) ∧
      s.node.host.stopped.contains (ctx, 5) = false ∧ 60 ≤ len ∧ len ≤ 1518 ∧ s.node.isSpine f = false ∧ f.etype ≠ 0x8808 ∧ flags.testBit 0
      = true ∧ m = ((s.node.at time).setReg (Reg.HST_FTX_HEAD ctx) (word (if (s.node.reg (Reg.HST_FTX_HEAD ctx)).toNat + 1 < (s.node.reg
      (Reg.HST_FTX_SIZE ctx)).toNat then (s.node.reg (Reg.HST_FTX_HEAD ctx)).toNat + 1 else 0))).openForward 13 f (s.node.reg
      Reg.TOP_BUF_OPEN_FREE).toNat (s.node.at time).tm.raw ∧ m.tsqOf ctx = some q ∧ m.net.queue = s.node.net.queue ∧ ((m.net.sent.drop
      s.node.net.sent.length).map (·.port)).min? = some p) := by
  refine ⟨
      ⟨tSt (tHf), tHfRx, 6, by decide +kernel⟩,
      ⟨tSt { tHf with host := { tHf.host with held := [⟨6, false, encLE 4 7 ++ zeros 28, 0⟩] } }, 6, ⟨6, false, encLE 4 7 ++ zeros 28, 0⟩,
        by decide +kernel⟩,
      ⟨tSt (tRegs tRing [(Reg.HST_FTX_TAIL 0, 1)]), 0, 59, tFrame (tHdr 1) [], by decide +kernel⟩,
      ⟨tSt (tRegs tRing [(Reg.HST_FTX_TAIL 0, 1)]), 0, 60, 0, ⟨tFar, tOwn, none, 0x0800, zeros 46⟩, by decide +kernel⟩,
      ⟨tSt tFtx, 0, 60, 1, 5, 0, 4, ⟨tFar, tOwn, none, 0x0800, zeros 46⟩, tFtxSent, by decide +kernel⟩⟩

theorem test_events_faults_and_memory_errors_are_reported :
    (∃ (s : State) (e : Event), nextEvent s.node.ev.queue = some e ∧ (∀ c, c < 8 → s.node.ctxPresent c = false) ∧ evSev e.code <
      s.node.bits Reg.EVT_CFG 0 2 ∧ evSev e.code < 3) ∧
    (∃ (s : State), s.node.ev.queue = []) ∧
    (∃ (n : Node), n.bits Reg.EVT_STAT 0 10 < 1024) ∧
    (∃ (s : State) (ctx : Nat), s.node.admits ctx Reg.EVT_CLEAR true = true) ∧
    (∃ (s : State) (ctx : Nat), s.node.admits ctx Reg.TOP_ENG_FAULT true = true) ∧
    (∃ (s : State) (e cause : Nat), e < 16 ∧ e ≠ 1 ∧ s.node.boot.engDown.contains e = false ∧ (s.node.bit Reg.TOP_ENG_RUN e = true ∨ cause
      = 2)) ∧
    (∃ (s : State) (cause : Nat), s.node.boot.engDown.contains 1 = false ∧ (s.node.bit Reg.TOP_ENG_RUN 1 = true ∨ cause = 2)) ∧
    (∃ (s : State) (place : Nat), 2 ≤ place / 2 ^ 24 % 256 ∧ place / 2 ^ 24 % 256 ≤ 5 ∧ s.node.spoiltAt (place / 2 ^ 24) (place % 2 ^ 24) =
      none) ∧
    (∃ (s : State) (place : Nat), place / 2 ^ 24 % 256 = 6 ∧ place % 2 ^ 24 / 8 < 8192 ∧ s.node.spoiltAt (place / 2 ^ 24) (place % 2 ^ 24)
      = none) ∧
    (∃ (s : State) (place : Nat), 0x10 ≤ place / 2 ^ 24 % 256 ∧ place / 2 ^ 24 % 256 < 0x20 ∧ s.node.spoiltAt (place / 2 ^ 24) (place % 2 ^
      24) = none) ∧
    (∃ (s : State) (place : Nat), s.node.spoiltAt (place / 2 ^ 24) (place % 2 ^ 24) = none) ∧
    (∃ (s : State) (addr : Nat), s.node.bit Reg.MEM_SCRUB 0 = true ∧ addr < s.node.bits Reg.MEM_SIZE 0 16 * 2 ^ 20 ∧ s.node.spoiltAt 0
      (addr / 64) = none) ∧
    (∃ (s : State) (addr : Nat), s.node.bit Reg.MEM_SCRUB 0 = true ∧ s.node.bits Reg.MEM_SIZE 0 16 * 2 ^ 20 ≤ addr) := by
  refine ⟨
      ⟨tSt { tRegs Node.reset [(Reg.EVT_CFG, 2)] with ev := { EvState.reset with queue := [⟨0x0801, 0, 5#32, 0#32, 0#32⟩] } }, ⟨0x0801, 0,
        5#32, 0#32, 0#32⟩, by decide +kernel⟩,
      ⟨tSt tOn, by decide +kernel⟩,
      ⟨tOn, by decide +kernel⟩,
      ⟨tSt tOn, 0, by decide +kernel⟩,
      ⟨tSt tOn, 0, by decide +kernel⟩,
      ⟨tSt tOn, 12, 1, by decide +kernel⟩,
      ⟨tSt tOn, 1, by decide +kernel⟩,
      ⟨tSt tOn, 0x05000001, by decide +kernel⟩,
      ⟨tSt tOn, 0x06000008, by decide +kernel⟩,
      ⟨tSt tOn, 0x10000001, by decide +kernel⟩,
      ⟨tSt tOn, 0x10000001, by decide +kernel⟩,
      ⟨tSt (tRegs tOn [(Reg.MEM_SCRUB, 1), (Reg.MEM_SIZE, 1)]), 0x40, by decide +kernel⟩,
      ⟨tSt (tRegs tOn [(Reg.MEM_SCRUB, 1), (Reg.MEM_SIZE, 1)]), 0x100000, by decide +kernel⟩⟩

theorem test_boot_starts_and_self_tests_decide :
    (∃ (s : State), s.node.boot.phase = 0 ∧ s.node.boot.sleep = 0 ∧ s.node.fld Reg.PCR_RESET_CAUSE Fld.PCR_RESET_CAUSE_KIND ≤ 2) ∧
    (∃ (s : State) (fail : Nat), s.node.boot.phase ≠ 0 ∧ s.node.boot.bist ≠ 0 ∧ Nat.land fail s.node.boot.bist = 0) ∧
    (∃ (s : State) (fail : Nat), s.node.boot.phase ≠ 0 ∧ Nat.land fail s.node.boot.bist ≠ 0) ∧
    (∃ (s : State), s.node.boot.phase ≠ 0 ∧ s.node.fld Reg.MEM_STAT Fld.MEM_STAT_STATE < 2) ∧
    (∃ (s : State), s.node.boot.phase ≠ 0 ∧ s.node.fld Reg.MEM_STAT Fld.MEM_STAT_STATE < 2) := by
  refine ⟨
      ⟨tSt tBoot, by decide +kernel⟩,
      ⟨tSt { tBoot with boot := { BootState.reset with phase := 1 } }, 0, by decide +kernel⟩,
      ⟨tSt { tBoot with boot := { BootState.reset with phase := 1 } }, 0xFFFFFFFF, by decide +kernel⟩,
      ⟨tSt { tBoot with boot := { BootState.reset with phase := 1 } }, by decide +kernel⟩,
      ⟨tSt { tBoot with boot := { BootState.reset with phase := 1 } }, by decide +kernel⟩⟩

theorem test_images_are_chosen_checked_and_run :
    (∃ (s : State) (flash : FlashFacts) (strap : Nat), s.node.boot.phase = 0 ∧ s.node.boot.sleep = 0 ∧ s.node.fld Reg.PCR_RESET_CAUSE
      Fld.PCR_RESET_CAUSE_KIND ≤ 2 ∧ s.node.boot.bistBad = false ∧ strap % 4 ≠ 2 ∧ flash.sfdp = true ∧ flash.busA = none ∧ flash.busB =
      none ∧ s.node.boot.pref = 0 ∧ s.node.boot.tried = [] ∧ s.node.boot.reasons = [0, 0] ∧ s.node.boot.attempts = [0, 0] ∧ headFault
      (s.node.slotReader 0) = 0 ∧ headFault (s.node.slotReader 1) = 0 ∧ s.node.slotBad 0 = false ∧ s.node.slotBad 1 = false) ∧
    (∃ (s : State) (x : ImgSection), s.node.boot.phase = 1 ∧ s.node.boot.bist = 0 ∧ s.node.boot.engDown.contains 0 = false ∧ s.node.fld
      Reg.MEM_STAT Fld.MEM_STAT_STATE = 2 ∧ s.node.boot.slot < 2 ∧ s.node.boot.tried.contains s.node.boot.slot = true ∧ (imgDir
      (s.node.slotReader s.node.boot.slot) (imgHead (s.node.slotReader s.node.boot.slot)).count)[s.node.boot.point]? = some x ∧ crcOk
      (s.node.slotReader s.node.boot.slot) x = true) ∧
    (∃ (s : State) (x : ImgSection), s.node.boot.phase = 1 ∧ s.node.boot.bist = 0 ∧ s.node.boot.engDown.contains 0 = false ∧ s.node.fld
      Reg.MEM_STAT Fld.MEM_STAT_STATE = 2 ∧ s.node.boot.slot < 2 ∧ s.node.boot.tried.contains s.node.boot.slot = true ∧ (imgDir
      (s.node.slotReader s.node.boot.slot) (imgHead (s.node.slotReader s.node.boot.slot)).count)[s.node.boot.point]? = some x ∧ crcOk
      (s.node.slotReader s.node.boot.slot) x = false ∧ s.node.ev.queue.length < 200 ∧ s.node.boot.reasons.length = 2) ∧
    (∃ (s : State) (f : ImageFacts), s.node.boot.phase = 2 ∧ s.node.boot.facts = some f ∧ s.node.boot.slot < 2 ∧
      s.node.boot.engDown.contains 0 = false) ∧
    (∃ (s : State) (time : Nat), s.node.boot.phase = 3 ∧ s.node.boot.released + 60000000000 ≤ time ∧ s.node.boot.attempts.length = 2) := by
  refine ⟨
      ⟨tSt tBoot, ⟨true, true, 0x123456, 0x4000000, 200, none, none⟩, 1, by decide +kernel⟩,
      ⟨tSt tLoad, ⟨0x15, 1, 96, 8, 0x7946BC7E⟩, by decide +kernel⟩,
      ⟨tSt { tLoad with mem := { tLoad.mem with flash := tLoad.mem.flash.filter fun p => p.1 != 0x61 } }, ⟨0x15, 1, 96, 8, 0x7946BC7E⟩,
        by decide +kernel⟩,
      ⟨tSt { tLoad with boot := { tLoad.boot with phase := 2, facts := some tFacts } }, tFacts, by decide +kernel⟩,
      ⟨tSt { tLoad with boot := { tLoad.boot with phase := 3, attempts := [2, 1] } }, 60000000000, by decide +kernel⟩⟩

theorem test_image_commands_and_jobs_act :
    (∃ (s : State) (c : Cmd), s.node.takes c 0x0D01 (.secure instImg) 0 = true) ∧
    (∃ (s : State) (c : Cmd), s.node.takes c 0x0D02 (.secure instImg) 1 = true ∧ s.node.dramFailed = false ∧ arg c 0 ≤ 1 ∧
      s.node.slotLocked s.otp (arg c 0) = false) ∧
    (∃ (s : State) (c : Cmd), ∃ bs, s.node.takes c 0x0D03 (.secure instImg) 6 = true ∧ s.node.dramFailed = false ∧ arg c 0 ≤ 1 ∧ arg c 1 +
      arg c 2 ≤ 0x01FF0000 ∧ s.node.imageSource c (arg c 3) (arg c 4) (arg c 5) (arg c 2) = some bs ∧ s.node.slotLocked s.otp (arg c 0) =
      false) ∧
    (∃ (s : State) (c : Cmd), s.node.takes c 0x0D04 (.secure instImg) 1 = true ∧ s.node.dramFailed = false ∧ arg c 0 ≤ 1) ∧
    (∃ (s : State) (c : Cmd), s.node.takes c 0x0D05 (.secure instImg) 1 = true ∧ s.node.dramFailed = false ∧ arg c 0 ≤ 1 ∧ (¬ (s.node.fld
      Reg.IMG_STATE Fld.IMG_STATE_STATE = 2 ∧ s.node.fld Reg.IMG_STATE Fld.IMG_STATE_SLOT = arg c 0))) ∧
    (∃ (s : State) (c : Cmd), 1 < arg c 0 ∧ s.node.takes c 0x0D02 (.secure instImg) 1 = true) ∧
    (∃ (s : State) (c : Cmd), 1 < arg c 0 ∧ s.node.takes c 0x0D04 (.secure instImg) 1 = true) ∧
    (∃ (s : State) (c : Cmd), 1 < arg c 0 ∧ s.node.takes c 0x0D05 (.secure instImg) 1 = true) ∧
    (∃ (s : State) (c : Cmd), ∃ bs, s.node.takes c 0x0D06 (.secure instImg) 4 = true ∧ s.node.dramFailed = false ∧ s.node.imageSource c
      (arg c 0) (arg c 2) (arg c 3) (arg c 1) = some bs ∧ s.node.fld Reg.IMG_TINT_STAT Fld.IMG_TINT_STAT_STATE ≠ 2) ∧
    (∃ (s : State) (c : Cmd), s.node.takes c 0x0D08 (.secure instImg) 0 = true ∧ s.node.dramFailed = false ∧ s.node.fld Reg.IMG_TINT_STAT
      Fld.IMG_TINT_STAT_STATE ≠ 2) ∧
    (∃ (s : State) (c : Cmd), s.node.takes c 0x0D07 (.secure instImg) 2 = true ∧ s.node.dramFailed = false ∧ arg c 1 ≤ 7 ∧
      (s.node.tintModes = true → arg c 1 ≤ 3) ∧ s.node.tintStaged = true ∧ s.node.reg Reg.IMG_TINT_TAG = argW c 0 ∧ s.node.fld
      Reg.IMG_TINT_STAT Fld.IMG_TINT_STAT_STATE ≠ 2 ∧ s.node.st = stRun) ∧
    (∃ (s : State) (c : Cmd), s.node.takes c 0x0D0A (.secure instImg) 1 = true ∧ s.node.dramFailed = false ∧ arg c 0 ≤ 2) ∧
    (∃ (s : State) (c : Cmd), s.node.takes c 0x0D07 (.secure instImg) 2 = true ∧ s.node.dramFailed = false ∧ arg c 1 ≤ 7 ∧
      (s.node.tintModes = true → arg c 1 ≤ 3) ∧ s.node.fld Reg.IMG_TINT_STAT Fld.IMG_TINT_STAT_STATE ≠ 2 ∧ (s.node.tintStaged = false ∨
      s.node.reg Reg.IMG_TINT_TAG ≠ argW c 0)) ∧
    (∃ (s : State) (j : FlashJob) (js : List FlashJob), s.node.boot.jobs = j :: js ∧ j.kind = 0) ∧
    (∃ (s : State) (j : FlashJob) (js : List FlashJob), s.node.boot.jobs = j :: js ∧ j.kind = 1) ∧
    (∃ (s : State) (j : FlashJob) (js : List FlashJob), s.node.boot.jobs = j :: js ∧ j.kind = 2 ∧ j.slot < 2) ∧
    (∃ (s : State) (j : FlashJob) (js : List FlashJob), ∃ facts, s.node.boot.jobs = j :: js ∧ j.kind = 3 ∧ s.node.tintFault s.otp facts
      (bytesReader j.data) = 0 ∧ s.node.fld Reg.IMG_TINT_STAT Fld.IMG_TINT_STAT_STATE ≠ 2) := by
  refine ⟨
      ⟨tSt tOn, tOp 0x0D01 0 [], by decide +kernel⟩,
      ⟨tSt tOn, tOp 0x0D02 0 [1], by decide +kernel⟩,
      ⟨tSt tOn, { tOp 0x0D03 0 [1, 0, 8, 1] with data := encBE 8 0x0102030405060708 }, encBE 8 0x0102030405060708, by decide +kernel⟩,
      ⟨tSt tOn, tOp 0x0D04 0 [1], by decide +kernel⟩,
      ⟨tSt tOn, tOp 0x0D05 0 [1], by decide +kernel⟩,
      ⟨tSt tOn, tOp 0x0D02 0 [2], by decide +kernel⟩,
      ⟨tSt tOn, tOp 0x0D04 0 [2], by decide +kernel⟩,
      ⟨tSt tOn, tOp 0x0D05 0 [2], by decide +kernel⟩,
      ⟨tSt tOn, { tOp 0x0D06 0 [1, 8] with data := encBE 8 0x0102030405060708 }, encBE 8 0x0102030405060708, by decide +kernel⟩,
      ⟨tSt tOn, tOp 0x0D08 0 [], by decide +kernel⟩,
      ⟨tSt { tRegs tRun [(Reg.IMG_TINT_STAT, 1), (Reg.IMG_TINT_TAG, 5)] with boot := { tRun.boot with tint := some ⟨5, 3, []⟩ } }, tOp
        0x0D07 0 [5, 2], by decide +kernel⟩,
      ⟨tSt { tRegs tRun [(Reg.IMG_TINT_STAT, 1), (Reg.IMG_TINT_TAG, 5)] with boot := { tRun.boot with tint := some ⟨5, 3, []⟩ } }, tOp
        0x0D0A 0 [1], by decide +kernel⟩,
      ⟨tSt { tRegs tRun [(Reg.IMG_TINT_STAT, 1), (Reg.IMG_TINT_TAG, 5)] with boot := { tRun.boot with tint := some ⟨5, 3, []⟩ } }, tOp
        0x0D07 0 [6, 2], by decide +kernel⟩,
      ⟨tSt { tLoad with boot := { tLoad.boot with jobs := [⟨0, 7, 0, 1, 0, []⟩] } }, ⟨0, 7, 0, 1, 0, []⟩, [], by decide +kernel⟩,
      ⟨tSt { tLoad with boot := { tLoad.boot with jobs := [⟨0, 7, 1, 1, 0, [1#8, 2#8]⟩] } }, ⟨0, 7, 1, 1, 0, [1#8, 2#8]⟩, [],
        by decide +kernel⟩,
      ⟨tSt { tLoad with boot := { tLoad.boot with jobs := [⟨0, 7, 2, 1, 0, []⟩] } }, ⟨0, 7, 2, 1, 0, []⟩, [], by decide +kernel⟩,
      ⟨{ tSt { tRegs tRun [(Reg.IMG_RUN_VER, 9)] with boot := { tRun.boot with jobs := [⟨0, 7, 3, 0, 0, tImg⟩] } } with otp := tOtp }, ⟨0,
        7, 3, 0, 0, tImg⟩, [], tFacts, by decide +kernel⟩⟩

theorem test_fuse_commands_blow :
    (∃ (s : State) (c : Cmd), s.node.dramFailed = false ∧ s.node.takes c 0x0D09 (.secure instImg) 1 = true ∧ s.otp.arc < arg c 0 ∧ arg c 0
      ≤ 64 ∧ arg c 0 ≤ (s.node.reg Reg.IMG_RUN_ARC).toNat) ∧
    (∃ (s : State) (c : Cmd), ∃ k, s.node.dramFailed = false ∧ s.node.takes c 0x0D0B (.secure instImg) 1 = true ∧ arg c 0 = k ∧ k ≤ 1 ∧
      s.node.fld Reg.IMG_STATE Fld.IMG_STATE_STATE = 2 ∧ s.node.bits Reg.IMG_KEY_STAT 4 1 ≠ k ∧ s.otp.keyFused (1 - k) = true ∧
      s.otp.keyRevoked (1 - k) = false) ∧
    (∃ (s : State) (c : Cmd), ∃ k, s.node.dramFailed = false ∧ s.node.takes c 0x0D0B (.secure instImg) 1 = true ∧ arg c 0 = k ∧ k ≤ 1 ∧
      (s.node.fld Reg.IMG_STATE Fld.IMG_STATE_STATE ≠ 2 ∨ s.node.bits Reg.IMG_KEY_STAT 4 1 = k ∨ s.otp.keyFused (1 - k) = false ∨
      s.otp.keyRevoked (1 - k) = true)) := by
  refine ⟨
      ⟨{ tSt (tRegs tOn [(Reg.IMG_RUN_ARC, 4)]) with otp := { tOtp with fused1 := true } }, tOp 0x0D09 0 [3], by decide +kernel⟩,
      ⟨{ tSt (tRegs tOn [(Reg.IMG_RUN_ARC, 4)]) with otp := { tOtp with fused1 := true } }, tOp 0x0D0B 0 [1], 1, by decide +kernel⟩,
      ⟨{ tSt (tRegs tOn [(Reg.IMG_RUN_ARC, 4)]) with otp := { tOtp with fused1 := true } }, tOp 0x0D0B 0 [0], 0, by decide +kernel⟩⟩

theorem test_frames_that_fail_a_check_are_counted_under_it :
    (∃ (i : Instr) (s : State) (r : Rx) (e : RxFail), rxOf i = some r ∧ (s.node.meets r).rxFail r = some e ∧ (i ≠ .openFrameReceived r ∨
      s.node.boot.sleep = 0)) ∧
    (∃ (i : Instr) (s : State) (r : Rx) (e : RxFail), rxOf i = some r ∧ (s.node.meets r).rxFail r = some e ∧ (i ≠ .openFrameReceived r ∨
      s.node.boot.sleep = 0) ∧ e = .length ∧ r.port < 12) ∧
    (∃ (i : Instr) (s : State) (r : Rx) (e : RxFail), rxOf i = some r ∧ (s.node.meets r).rxFail r = some e ∧ (i ≠ .openFrameReceived r ∨
      s.node.boot.sleep = 0) ∧ e = .fcs ∧ r.port < 12) ∧
    (∃ (i : Instr) (s : State) (r : Rx) (e : RxFail), rxOf i = some r ∧ (s.node.meets r).rxFail r = some e ∧ (i ≠ .openFrameReceived r ∨
      s.node.boot.sleep = 0) ∧ e = .stomped ∧ r.port < 12) ∧
    (∃ (i : Instr) (s : State) (r : Rx) (e : RxFail), rxOf i = some r ∧ (s.node.meets r).rxFail r = some e ∧ (i ≠ .openFrameReceived r ∨
      s.node.boot.sleep = 0) ∧ e = .epoch ∧ r.port < 12) ∧
    (∃ (i : Instr) (s : State) (r : Rx) (e : RxFail), rxOf i = some r ∧ (s.node.meets r).rxFail r = some e ∧ (i ≠ .openFrameReceived r ∨
      s.node.boot.sleep = 0) ∧ e = .fcs ∧ r.port = 12) := by
  refine ⟨
      ⟨.refReceived (tBad .bad 0 5 []), tSt tRun, tBad .bad 0 5 [], .fcs, by decide +kernel⟩,
      ⟨.refReceived (tBad .good 0 5 (zeros 2000)), tSt tRun, tBad .good 0 5 (zeros 2000), .length, by decide +kernel⟩,
      ⟨.refReceived (tBad .bad 0 5 []), tSt tRun, tBad .bad 0 5 [], .fcs, by decide +kernel⟩,
      ⟨.refReceived (tBad .stomped 0 5 []), tSt tRun, tBad .stomped 0 5 [], .stomped, by decide +kernel⟩,
      ⟨.pollReceived (tRx { tHdr 2 with epoch := 4 } (zeros 6)), tSt tRun, tRx { tHdr 2 with epoch := 4 } (zeros 6), .epoch,
        by decide +kernel⟩,
      ⟨.refReceived (tBad .bad 12 5 []), tSt tRun, tBad .bad 12 5 [], .fcs, by decide +kernel⟩⟩

theorem test_links_ports_and_mdio_act :
    (∃ (s : State) (p rate : Nat), p < 12 ∧ rate < 8 ∧ s.node.portUsable p = true ∧ s.node.linkUp p = false ∧ s.node.looped p = false ∧
      s.node.bit Reg.TST_STAT (17 + p) = false ∧ (s.node.port p).wakeLeft = 0 ∧ rateOk (s.node.fld (Reg.SPN_IFTYPE p) Fld.SPN_IFTYPE_TYPE)
      rate = true) ∧
    (∃ (s : State), s.node.portUsable 12 = true ∧ s.node.linkUp 12 = false ∧ s.node.looped 12 = false ∧ s.node.bit Reg.TST_STAT 29 = false
      ∧ (s.node.port 12).wakeLeft = 0) ∧
    (∃ (s : State) (p : Nat), p < 12 ∧ s.node.linkUp p = true) ∧
    (∃ (s : State), s.node.linkUp 12 = true) ∧
    (∃ (s : State) (p : Nat), (s.node.looped p = true ∨ s.node.portUsable p = false)) ∧
    (∃ (s : State) (p cause time : Nat), s.node.secOn p = true ∧ s.node.linkUp p = true ∧ (s.node.port p).secBlocked = false ∧ (cause ≠ 3 ∨
      (s.node.fld (Reg.SPN_STAT p) Fld.SPN_STAT_MACSEC = 0 ∧ (s.node.port p).linkAt + 10000000 ≤ time))) ∧
    (∃ (s : State) (p : Nat), (s.node.port p).secBlocked = true) ∧
    (∃ (s : State) (p : Nat), s.node.bits (Reg.SPN_PREEMPT_STAT p) 0 3 = 2 ∧ s.node.bits (Reg.SPN_PREEMPT_STAT p) 4 2 < 3) ∧
    (∃ (s : State) (p : Nat), s.node.bits (Reg.SPN_PREEMPT_STAT p) 0 3 = 2 ∧ s.node.bits (Reg.SPN_PREEMPT_STAT p) 4 2 = 3) ∧
    (∃ (s : State) (p : Nat), s.node.bits (Reg.SPN_PREEMPT_STAT p) 0 3 = 2) ∧
    (∃ (s : State) (ctx p : Nat) (v : Word), p < 12 ∧ s.node.admits ctx (Reg.SPN_CTRL p) true = true ∧ s.node.fld (Reg.SPN_IFTYPE p)
      Fld.SPN_IFTYPE_TYPE ≠ 0 ∧ v.toNat < 2) ∧
    (∃ (s : State) (ctx p : Nat), (p = 0 ∨ p = 2) ∧ s.node.admits ctx (Reg.SPN_CTRL p) true = true ∧ s.node.fld (Reg.SPN_IFTYPE p)
      Fld.SPN_IFTYPE_TYPE ≠ 0 ∧ s.node.bit Reg.PCR_PLL_STAT (6 + p) = true ∧ s.node.looped p = false ∧ s.node.bit Reg.TST_STAT (17 + p) =
      false ∧ (s.node.port p).wakeLeft = 0 ∧ s.node.net.ports.length = 13) ∧
    (∃ (s : State) (time : Nat), s.node.st = stLink ∧ s.node.net.wakeAutoDone = false ∧ s.node.net.ports.length = 13 ∧ s.node.ina.entered +
      100000000 ≤ time ∧ (∀ p, p = 0 ∨ p = 2 → s.node.linkUp p = false ∧ s.node.portUsable p = true ∧ (s.node.port p).wakeLeft = 0 ∧
      s.node.looped p = false ∧ s.node.bit Reg.TST_STAT (17 + p) = false)) ∧
    (∃ (s : State) (p time : Nat), (p = 0 ∨ p = 2) ∧ 0 < (s.node.port p).wakeLeft ∧ s.node.net.ports.length = 13 ∧ (s.node.port p).wakeAt ≤
      time) ∧
    (∃ (s : State) (ctx m : Nat) (v : Word), s.node.admits ctx (Reg.SPN_MDIO_CMD m) true = true ∧ v.toNat.testBit 0 = true ∧ s.node.bit
      (Reg.SPN_MDIO_STAT m) 0 = true) ∧
    (∃ (s : State) (ctx m : Nat) (v : Word), s.node.admits ctx (Reg.SPN_MDIO_CMD m) true = true ∧ v.toNat.testBit 0 = true ∧ s.node.bit
      (Reg.SPN_MDIO_STAT m) 0 = false) ∧
    (∃ (s : State) (m : Nat), s.node.net.mdioSoft = [m] ∧ s.node.net.script = [] ∧ s.node.fld (Reg.SPN_MDIO_CMD m) Fld.SPN_MDIO_CMD_OP = 1) ∧
    (∃ (s : State) (m : Nat) (w : MdioWrite), s.node.net.mdioSoft = [] ∧ s.node.net.script = [w] ∧ w.master = m) := by
  refine ⟨
      ⟨tSt (tRegs tOn [(Reg.SPN_IFTYPE 0, 1)]), 0, 4, by decide +kernel⟩,
      ⟨tSt (tRegs (tPair 1) [(Reg.JLK_STAT, 0)]), by decide +kernel⟩,
      ⟨tSt tRun, 0, by decide +kernel⟩,
      ⟨tSt (tRegs tRun [(Reg.JLK_STAT, 1)]), by decide +kernel⟩,
      ⟨tSt (tRegs tRun [(Reg.TST_STAT, 1)]), 0, by decide +kernel⟩,
      ⟨tSt (tRegs tRun [(Reg.SPN_IFTYPE 0, 0xFFFF)]), 0, 1, 9, by decide +kernel⟩,
      ⟨tSt (tRun.onPort 0 fun x => { x with secBlocked := true }), 0, by decide +kernel⟩,
      ⟨tSt (tRegs tRun [(Reg.SPN_PREEMPT_STAT 0, 18)]), 0, by decide +kernel⟩,
      ⟨tSt (tRegs tRun [(Reg.SPN_PREEMPT_STAT 0, 50)]), 0, by decide +kernel⟩,
      ⟨tSt (tRegs tRun [(Reg.SPN_PREEMPT_STAT 0, 18)]), 0, by decide +kernel⟩,
      ⟨tSt (tRegs tRun [(Reg.SPN_PREEMPT_STAT 0, 18)]), 0, 0, 1#32, by decide +kernel⟩,
      ⟨tSt (tRegs tRun [(Reg.SPN_PREEMPT_STAT 0, 18)]), 0, 0, by decide +kernel⟩,
      ⟨tSt (tRegs tOn [(Reg.SPN_IFTYPE 0, 1), (Reg.SPN_IFTYPE 2, 1), (Reg.INA_STATE, 0xFF01)]), 100000000, by decide +kernel,
        by decide +kernel, by decide +kernel, by decide +kernel, by rintro p (rfl | rfl) <;> decide +kernel⟩,
      ⟨tSt { tRun with net := { tRun.net with ports := { Port.reset with wakeLeft := 1 } :: List.replicate 12 Port.reset } }, 0, 100000000,
        by decide +kernel⟩,
      ⟨tSt (tRegs tOn [(Reg.SPN_MDIO_STAT 0, 1)]), 0, 0, 3#32, by decide +kernel⟩,
      ⟨tSt tOn, 0, 0, 3#32, by decide +kernel⟩,
      ⟨tSt { tRegs tOn [(Reg.SPN_MDIO_CMD 0, 2), (Reg.SPN_MDIO_STAT 0, 1)] with net := { tOn.net with mdioSoft := [0] } }, 0,
        by decide +kernel⟩,
      ⟨tSt { tOn with net := { tOn.net with script := [⟨0, 1, 2, 3⟩] } }, 0, ⟨0, 1, 2, 3⟩, by decide +kernel⟩⟩

theorem test_open_traffic_is_filtered :
    (∃ (s : State) (ctx r : Nat), r < 8192 ∧ s.node.admits ctx (Reg.SPN_FLT r) true = true) ∧
    (∃ (s : State) (r : Rx), (s.node.meets r).rxFail r = none ∧ (s.node.heard r).isSpine r.frame = false ∧ (s.node.heard r).crossed r.port
      = false ∧ (s.node.heard r).echoing r.port = false ∧ r.frame.etype ≠ 0x8808 ∧ s.node.boot.sleep = 0 ∧ (∀ k ∈ (s.node.heard
      r).validRules, (s.node.heard r).ruleMatches k r.port r.frame = false)) ∧
    (∃ (s : State) (r : Rx), ∃ k, (s.node.meets r).rxFail r = none ∧ (s.node.heard r).isSpine r.frame = false ∧ (s.node.heard r).crossed
      r.port = false ∧ (s.node.heard r).echoing r.port = false ∧ r.frame.etype ≠ 0x8808 ∧ s.node.boot.sleep = 0 ∧ ((s.node.heard
      r).validRules.find? fun k => (s.node.heard r).ruleMatches k r.port r.frame) = some k ∧ ((s.node.heard r).reg (Reg.SPN_FLT
      k)).toNat.testBit 1 = true) ∧
    (∃ (s : State) (r : Rx), ∃ k, (s.node.meets r).rxFail r = none ∧ (s.node.heard r).isSpine r.frame = false ∧ (s.node.heard r).crossed
      r.port = false ∧ (s.node.heard r).echoing r.port = false ∧ r.frame.etype ≠ 0x8808 ∧ s.node.boot.sleep = 0 ∧ ((s.node.heard
      r).validRules.find? fun k => (s.node.heard r).ruleMatches k r.port r.frame) = some k ∧ ((s.node.heard r).reg (Reg.SPN_FLT
      k)).toNat.testBit 1 = false ∧ stListen ≤ s.node.st ∧ frameCells r.frame ≤ r.room) ∧
    (∃ (s : State) (r : Rx), ∃ k, (s.node.meets r).rxFail r = none ∧ (s.node.heard r).isSpine r.frame = false ∧ (s.node.heard r).crossed
      r.port = false ∧ (s.node.heard r).echoing r.port = false ∧ r.frame.etype ≠ 0x8808 ∧ s.node.boot.sleep = 0 ∧ ((s.node.heard
      r).validRules.find? fun k => (s.node.heard r).ruleMatches k r.port r.frame) = some k ∧ ((s.node.heard r).reg (Reg.SPN_FLT
      k)).toNat.testBit 1 = false ∧ r.room < frameCells r.frame) ∧
    (∃ (s : State) (r : Rx), (s.node.meets r).rxFail r = none ∧ r.port < 12 ∧ r.frame.etype = 0x8808) := by
  refine ⟨
      ⟨tSt tOn, 0, 8191, by decide +kernel⟩,
      ⟨tSt tRun, { tRef 4 tFar with frame := ⟨tOwn, tFar, none, 0x0800, zeros 46⟩ }, by decide +kernel⟩,
      ⟨tSt (tRegs tRun [(Reg.SPN_FLT 3, 3), (Reg.SPN_FLT 3 + 4, 1)]), { tRef 4 tFar with frame := ⟨tOwn, tFar, none, 0x0800, zeros 46⟩ },
        3, by decide +kernel⟩,
      ⟨tSt (tRegs tRun [(Reg.SPN_FLT 3, 1), (Reg.SPN_FLT 3 + 4, 0x40001)]),
        { tRef 4 tFar with frame := ⟨tOwn, tFar, none, 0x0800, zeros 46⟩ }, 3, by decide +kernel⟩,
      ⟨tSt (tRegs tRun [(Reg.SPN_FLT 3, 1), (Reg.SPN_FLT 3 + 4, 0x40001)]),
        { tRef 4 tFar with frame := ⟨tOwn, tFar, none, 0x0800, zeros 46⟩, room := 0 }, 3, by decide +kernel⟩,
      ⟨tSt (tRegs tRun [(Reg.SPN_FLT 3, 1), (Reg.SPN_FLT 3 + 4, 0x40001)]),
        { tRef 4 tFar with frame := ⟨0x0180C2000001, tFar, none, 0x8808, zeros 46⟩ }, by decide +kernel⟩⟩

theorem test_references_and_cycles_are_kept :
    (∃ (s : State) (r : Rx), s.node.hears r 0x0 = true ∧ (s.node.heard r).refTake (decodeHdr r.frame.body) (decodeRef (payloadOf
      r.frame.body)) = .own ∧ (s.node.heard r).cyc.lastRef ≠ some (decodeRef (payloadOf r.frame.body)).cyc) ∧
    (∃ (s : State) (r : Rx), s.node.hears r 0x0 = true ∧ (s.node.heard r).refTake (decodeHdr r.frame.body) (decodeRef (payloadOf
      r.frame.body)) = .own ∧ (s.node.heard r).cyc.lastRef = some (decodeRef (payloadOf r.frame.body)).cyc) ∧
    (∃ (s : State) (r : Rx), s.node.hears r 0x0 = true ∧ (s.node.heard r).refTake (decodeHdr r.frame.body) (decodeRef (payloadOf
      r.frame.body)) = .foreign) ∧
    (∃ (s : State) (r : Rx), s.node.hears r 0x0 = true ∧ (decodeRef (payloadOf r.frame.body)).master = (s.node.heard r).identity) ∧
    (∃ (s : State) (time : Nat), (s.node.at time).cycleNow ≠ s.node.cyc.cur) ∧
    (∃ (s : State) (time : Nat), (s.node.at time).cycleNow = s.node.cyc.cur) ∧
    (∃ (s : State) (time : Nat) (w : Switch), s.node.master = false ∧ s.node.cyc.switch = some w ∧ w.state ≠ 3 ∧ w.tint = 0 ∧ (s.node.at
      time).cycleNow ≠ s.node.cyc.cur ∧ w.cyc ≤ (s.node.at time).cycleNow ∧ w.target < 8 ∧ s.node.holds w.target = true ∧ s.node.cyc.adopt
      = none ∧ s.node.ina.refCommit = none ∧ s.node.ina.announced = none) ∧
    (∃ (s : State) (time : Nat), stIntegrate ≤ s.node.st ∧ s.node.master = false ∧ (s.node.at time).refHeard = false) ∧
    (∃ (s : State), (s.node.st = stRun ∨ s.node.st = stMute) ∧ 24 ≤ s.node.cyc.missed) ∧
    (∃ (s : State) (time : Nat), s.node.st = stRun ∧ s.node.master = false ∧ s.node.fld Reg.INA_STATE Fld.INA_STATE_BACKUP < 16 ∧ 3 +
      s.node.fld Reg.INA_STATE Fld.INA_STATE_BACKUP ≤ s.node.cyc.missed ∧ s.node.candidate = true ∧ (s.node.at time).betterHeld = false) := by
  refine ⟨
      ⟨tSt tRun, tRef 4 tFar, by decide +kernel⟩,
      ⟨tSt { tRun with cyc := { tRun.cyc with lastRef := some 4 } }, tRef 4 tFar, by decide +kernel⟩,
      ⟨tSt { tRun with cyc := { tRun.cyc with lastRef := some 4 } }, tRef 4 0x3C0A90000000, by decide +kernel⟩,
      ⟨tSt { tRun with cyc := { tRun.cyc with lastRef := some 4 } }, tRef 4 tOwn, by decide +kernel⟩,
      ⟨tSt { tRun with cyc := { tRun.cyc with lastRef := some 4 } }, 1000000, by decide +kernel⟩,
      ⟨tSt { tSlots with cyc := { tSlots.cyc with switch := some ⟨1, 0, 0, 1, 0, true, false, tFar⟩ } }, 9, by decide +kernel⟩,
      ⟨tSt { tSlots with cyc := { tSlots.cyc with switch := some ⟨1, 0, 0, 1, 0, true, false, tFar⟩ } }, 1000000, ⟨1, 0, 0, 1, 0, true,
        false, tFar⟩, by decide +kernel⟩,
      ⟨tSt { tSlots with cyc := { tSlots.cyc with switch := some ⟨1, 0, 0, 1, 0, true, false, tFar⟩ } }, 1000000, by decide +kernel⟩,
      ⟨tSt { tRun with cyc := { tRun.cyc with missed := 24 } }, by decide +kernel⟩,
      ⟨tSt { tRegs tRun [(Reg.INA_STATE, 0x0106)] with cyc := { tRun.cyc with missed := 24 } }, 1000000, by decide +kernel⟩⟩

theorem test_slots_and_their_frames_cross :
    (∃ (s : State) (stream time p : Nat) (x : SlotEntry) (m : Node) (f : Frame), (s.node.at time).slotNow stream = some x ∧ x.egress = 2 ^
      p ∧ p < 4 ∧ s.node.st = stRun ∧ (s.node.at time).atOffset x.start = true ∧ s.node.fld Reg.TST_INJ_CTRL Fld.TST_INJ_CTRL_ARM = 0 ∧ m =
      (if stream = 0 then (s.node.at time).reAnswer else s.node.at time) ∧ f = m.spineFrame (addrLine (m.portB p)) { m.slotHdr stream (if
      stream = 0 then { m.txOf 0 with age := 0, aged := false } else m.txOf stream) with lineB := m.portB p, ci := if m.paired && m.roleB
      then 2 else 0 } (if stream = 0 then m.statusPayload else (m.txOf stream).send) ∧ m.mayLeave p f = true) ∧
    (∃ (s : State) (stream time : Nat), (s.node.st = stRun → ∀ x, (s.node.at time).slotNow stream = some x → (s.node.at time).atOffset
      x.start = false)) ∧
    (∃ (s : State) (time : Nat), (s.node.at time).takeNow 0 = true) ∧
    (∃ (s : State) (stream time : Nat), stream ≠ 0 ∧ (s.node.strmLive stream).valid = true ∧ s.node.ownStream (s.node.strmLive stream) =
      true ∧ (s.node.strmLive stream).cls ≠ 1 ∧ (s.node.at time).takeNow stream = true) ∧
    (∃ (s : State) (stream time : Nat), (s.node.at time).takeNow stream = false) ∧
    (∃ (s : State) (stream port time : Nat) (x : Transit), (s.node.net.transit.find? fun t => t.stream == stream && t.egress == port &&
      (s.node.at time).gateOpen t) = some x) ∧
    (∃ (s : State) (stream port time : Nat) (x : Sent), (s.node.net.sent.reverse.find? fun x => x.port == port && !x.stomped &&
      s.node.isSpine x.frame && (decodeHdr x.frame.body).kind == 1 && (decodeHdr x.frame.body).sid == stream && (s.node.at time).overruns
      x) = some x) ∧
    (∃ (s : State), s.node.net.queue = []) ∧
    (∃ (s : State) (r : Rx) (x : NumEntry), s.node.slotTakes r x = true ∧ (decodeHdr r.frame.body).sid ≠ 0) ∧
    (∃ (s : State) (r : Rx) (x : NumEntry), s.node.slotTakes r x = true ∧ (decodeHdr r.frame.body).sid = 0 ∧ (∀ y ∈ s.node.cyc.status, ¬
      (y.node = (decodeHdr r.frame.body).src ∧ y.cycle = (decodeHdr r.frame.body).cycle))) ∧
    (∃ (s : State) (r : Rx), ((s.node.meets r).rxFail r).isNone = true ∧ (s.node.heard r).isSpine r.frame = true ∧ (decodeHdr
      r.frame.body).kind = 1 ∧ (decodeHdr r.frame.body).sid ≠ 0 ∧ (s.node.heard r).crossed r.port = false ∧ (r.port = 12 ∨ (s.node.heard
      r).joined r.port = true) ∧ r.room < frameCells r.frame) ∧
    (∃ (s : State) (r : Rx), ((s.node.meets r).rxFail r).isNone = true ∧ (s.node.heard r).isSpine r.frame = true ∧ (decodeHdr
      r.frame.body).kind = 1 ∧ (decodeHdr r.frame.body).sid ≠ 0 ∧ (s.node.heard r).crossed r.port = false ∧ (r.port = 12 ∨ (s.node.heard
      r).joined r.port = true) ∧ frameCells r.frame ≤ r.room ∧ (s.node.heard r).nodeIn (decodeHdr r.frame.body).epoch (decodeHdr
      r.frame.body).src = none) := by
  refine ⟨
      ⟨tSt tSlots, 9, 6000, 2, ⟨6000, 9, 0, 0, true, 4⟩, tSlots.at 6000, tSlotOut, by decide +kernel⟩,
      ⟨tSt tSlots, 11, 6000, by decide +kernel⟩,
      ⟨tSt tSlots, 8000, by decide +kernel⟩,
      ⟨tSt tSlots, 9, 4000, by decide +kernel⟩,
      ⟨tSt tSlots, 9, 1500, by decide +kernel⟩,
      ⟨tSt { tSlots with net := { tSlots.net with transit := [⟨10, 2, 0, 1000, (tRx (tSlotHdr 10) (zeros 64)).frame⟩] } }, 10, 2, 8000,
        ⟨10, 2, 0, 1000, (tRx (tSlotHdr 10) (zeros 64)).frame⟩, by decide +kernel⟩,
      ⟨tSt { tSlots with net := { tSlots.net with sent := [⟨2, (tRx (tSlotHdr 10) (zeros 64)).frame, 7900, false, 0, []⟩] } }, 10, 2, 8000,
        ⟨2, (tRx (tSlotHdr 10) (zeros 64)).frame, 7900, false, 0, []⟩, by decide +kernel⟩,
      ⟨tSt tSlots, by decide +kernel⟩,
      ⟨tSt tSlots, tRx (tSlotHdr 10) (zeros 64), tEntry tFar 1 1, by decide +kernel⟩,
      ⟨tSt tSlots, tRx (tSlotHdr 0) (zeros 16), tEntry tFar 1 1, by decide +kernel⟩,
      ⟨tSt tSlots, { tRx (tSlotHdr 10) (zeros 64) with room := 0 }, by decide +kernel⟩,
      ⟨tSt tSlots, tRx { tSlotHdr 10 with src := 77 } (zeros 64), by decide +kernel⟩⟩

theorem test_polls_and_mode_requests_are_answered :
    (∃ (s : State) (time : Nat), s.node.master = true ∧ s.node.st = stRun ∧ (s.node.at time).inPolled = true) ∧
    (∃ (s : State) (r : Rx), s.node.hears r 0x2 = true ∧ (((s.node.heard r).nodeIn (decodeHdr r.frame.body).epoch (beAt (payloadOf
      r.frame.body) 0 2 % 4096)).any fun e => e.identity == (s.node.heard r).identity) = true ∧ s.node.cyc.pollSeen ≠ some ((decodeHdr
      r.frame.body).cycle, beAt (payloadOf r.frame.body) 4 2)) ∧
    (∃ (s : State) (r : Rx) (e : NumEntry), s.node.hears r 0x3 = true ∧ s.node.master = true ∧ (s.node.heard r).nodeIn (decodeHdr
      r.frame.body).epoch (decodeHdr r.frame.body).src = some e) ∧
    (∃ (s : State) (time : Nat), (s.node.at time).inPolled = false) ∧
    (∃ (s : State) (time : Nat), s.node.master = true ∧ (s.node.at time).inPolled = true ∧ (s.node.pollOrder.isEmpty = true ∨
      s.node.cyc.polls.isEmpty = false)) ∧
    (∃ (s : State) (time : Nat), s.node.master = true ∧ (s.node.at time).inPolled = true ∧ (s.node.pollOrder.isEmpty = true ∨
      s.node.cyc.polls.isEmpty = false) ∧ s.node.plc.verdicts = [] ∧ s.node.bit Reg.INA_COMMIT 16 = false ∧ s.node.ina.bleedEnd ≠
      s.node.cyc.cur + 4 ∧ (∀ x ∈ s.node.sendable, x.stream ≠ 16381)) ∧
    (∃ (s : State) (time : Nat), (s.node.at time).inPolled = true) ∧
    (∃ (s : State) (r : Rx) (e : NumEntry), s.node.hears r 0xD = true ∧ byteAt (payloadOf r.frame.body) 0 = 1 ∧ s.node.master = true ∧
      s.node.cyc.request = none ∧ s.node.cyc.switch = none ∧ (s.node.heard r).nodeIn (decodeHdr r.frame.body).epoch (beAt (payloadOf
      r.frame.body) 12 2 % 4096) = some e ∧ s.node.holds (byteAt (payloadOf r.frame.body) 1 % 8) = true ∧ beAt (payloadOf r.frame.body) 4 4
      = 0) ∧
    (∃ (s : State) (r : Rx) (e : NumEntry), s.node.hears r 0xD = true ∧ byteAt (payloadOf r.frame.body) 0 = 1 ∧ s.node.master = false ∧
      (s.node.heard r).nodeIn (decodeHdr r.frame.body).epoch (beAt (payloadOf r.frame.body) 12 2 % 4096) = some e) ∧
    (∃ (s : State) (r : Rx) (e : NumEntry) (w : Wait), s.node.hears r 0xD = true ∧ byteAt (payloadOf r.frame.body) 0 = 2 ∧ (s.node.heard
      r).nodeIn (decodeHdr r.frame.body).epoch (beAt (payloadOf r.frame.body) 12 2 % 4096) = some e ∧ e.identity = (s.node.heard
      r).identity ∧ s.node.host.waits = [w] ∧ w.kind = 2 ∧ w.key = beAt (payloadOf r.frame.body) 14 2) ∧
    (∃ (s : State) (ctx ring seq : Nat) (w : Wait), (s.node.host.waits.find? fun w => w.ctx == ctx && w.ring == ring && w.seq == seq) =
      some w ∧ (w.kind = 1 ∨ w.kind = 2) ∧ w.cycle + 8 ≤ s.node.cyc.cur) ∧
    (∃ (s : State) (ctx ring seq : Nat) (w : Wait), (s.node.host.waits.find? fun w => w.ctx == ctx && w.ring == ring && w.seq == seq) =
      some w ∧ (w.kind = 1 ∨ w.kind = 2) ∧ s.node.cyc.cur < w.cycle + 8) := by
  refine ⟨
      ⟨tSt { tMaster with cyc := { tSlots.cyc with pendingNodes := [(tFar, 4)] } }, 24000, by decide +kernel⟩,
      ⟨tSt tRun, tRx (tHdr 2) (encBE 2 2 ++ zeros 10), by decide +kernel⟩,
      ⟨tSt { tMaster with cyc := { tMaster.cyc with polls := [⟨1, 0, 100, false⟩] } }, tRx (tHdr 3) (zeros 12), tEntry tFar 1 1,
        by decide +kernel⟩,
      ⟨tSt { tMaster with cyc := { tMaster.cyc with polls := [⟨1, 0, 100, false⟩] } }, 9, by decide +kernel⟩,
      ⟨tSt { tMaster with cyc := { tSlots.cyc with polls := [⟨1, 0, 100, false⟩] } }, 24000, by decide +kernel⟩,
      ⟨tSt { tMaster with cyc := { tSlots.cyc with polls := [⟨1, 0, 100, false⟩] } }, 24000, by decide +kernel⟩,
      ⟨tSt { tMaster with cyc := { tSlots.cyc with polls := [⟨1, 0, 100, false⟩] } }, 24000, by decide +kernel⟩,
      ⟨tSt { tMaster with cyc := { tSlots.cyc with cur := 5 } }, tRx (tHdr 0xD) (modePayload 1 ⟨1, 0, 0, 1, 3⟩ 0 0), tEntry tFar 1 1,
        by decide +kernel⟩,
      ⟨tSt { tSlots with cyc := { tSlots.cyc with cur := 5 } }, tRx (tHdr 0xD) (modePayload 1 ⟨1, 0, 0, 1, 3⟩ 0 0), tEntry tFar 1 1,
        by decide +kernel⟩,
      ⟨tSt (tWaits tRun 2 3), tRx (tHdr 0xD) (modePayload 2 ⟨1, 0, 0, 2, 3⟩ 0 9), tEntry tOwn 2 2, tWait 2 3, by decide +kernel⟩,
      ⟨tSt { tWaits tRun 2 3 with cyc := { tRun.cyc with cur := 8 } }, 0, 0, 7, tWait 2 3, by decide +kernel⟩,
      ⟨tSt (tWaits tRun 2 3), 0, 0, 7, tWait 2 3, by decide +kernel⟩⟩

theorem test_cycle_commands_act :
    (∃ (s : State) (c : Cmd), s.node.takes c 0x0301 .either 0 = true) ∧
    (∃ (s : State) (c : Cmd), s.node.takes c 0x0304 .either 1 = true ∧ arg c 0 ≤ 7 ∧ s.node.holds (arg c 0) = true) ∧
    (∃ (s : State) (c : Cmd), s.node.takes c 0x0304 .either 1 = true ∧ s.node.holds (arg c 0) = false) ∧
    (∃ (s : State) (c : Cmd), s.node.takes c 0x0302 .either 2 = true ∧ arg c 0 ≤ 7 ∧ s.node.st ≠ stRun) ∧
    (∃ (s : State) (c : Cmd), s.node.takes c 0x0302 .either 2 = true ∧ arg c 0 ≤ 7 ∧ s.node.st = stRun ∧ s.node.master = false) ∧
    (∃ (s : State) (c : Cmd), s.node.takes c 0x0302 .either 2 = true ∧ arg c 0 ≤ 7 ∧ s.node.st = stRun ∧ s.node.master = true ∧
      s.node.cyc.request = none ∧ s.node.cyc.switch = none ∧ s.node.holds (arg c 0) = true ∧ arg c 1 = 0) ∧
    (∃ (s : State) (c : Cmd), ∃ w, s.node.takes c 0x0303 .either 1 = true ∧ s.node.cyc.switch = some w ∧ s.node.master = true ∧ w.cyc % 2 ^
      32 = arg c 0 ∧ w.state ≠ 3 ∧ s.node.cyc.cur + 1 < w.cyc) ∧
    (∃ (s : State) (c : Cmd), s.node.takes c 0x0303 .either 1 = true ∧ s.node.cyc.switch = none) := by
  refine ⟨
      ⟨tSt tSlots, tOp 0x0301 1 [], by decide +kernel⟩,
      ⟨tSt tSlots, tOp 0x0304 1 [1], by decide +kernel⟩,
      ⟨tSt tSlots, tOp 0x0304 1 [5], by decide +kernel⟩,
      ⟨tSt tOn, tOp 0x0302 1 [1, 0], by decide +kernel⟩,
      ⟨tSt tSlots, tOp 0x0302 1 [1, 0], by decide +kernel⟩,
      ⟨tSt { tMaster with cyc := tSlots.cyc }, tOp 0x0302 1 [1, 0], by decide +kernel⟩,
      ⟨tSt { tMaster with cyc := { tSlots.cyc with switch := some ⟨1, 20, 0, 1, 0, true, false, tOwn⟩ } }, tOp 0x0303 1 [20], Switch.mk 1
        20 0 1 0 true false tOwn, by decide +kernel⟩,
      ⟨tSt tSlots, tOp 0x0303 1 [20], by decide +kernel⟩⟩

theorem test_claims_are_heard_and_the_best_wins :
    (∃ (s : State) (time : Nat), s.node.st = stLink ∧ s.node.bits Reg.INA_LINK_WAIT 0 16 ≠ 0 ∧ s.node.ina.entered + 1000000 * s.node.bits
      Reg.INA_LINK_WAIT 0 16 ≤ max s.node.tm.raw time) ∧
    (∃ (s : State) (time : Nat), s.node.st = stLink ∧ (s.node.bits Reg.INA_LINK_WAIT 0 16 = 0 ∨ max s.node.tm.raw time < s.node.ina.entered
      + 1000000 * s.node.bits Reg.INA_LINK_WAIT 0 16)) ∧
    (∃ (s : State) (time : Nat), s.node.st = stListen ∧ (s.node.at time).listened = true ∧ s.node.candidate = true ∧ (s.node.at
      time).betterHeld = false) ∧
    (∃ (s : State) (time : Nat), s.node.st = stListen ∧ (s.node.at time).listened = true ∧ s.node.candidate = false) ∧
    (∃ (s : State), s.node.st = stClaim) ∧
    (∃ (s : State), s.node.claiming = false) ∧
    (∃ (s : State) (r : Rx), s.node.hears r 0x4 = true ∧ stListen ≤ s.node.st ∧ beAt (payloadOf r.frame.body) 2 6 ≠ s.node.identity ∧ (∀ w,
      (s.node.heard r).bestClaim = some w → w ≤ byteAt (payloadOf r.frame.body) 0 * 2 ^ 48 + beAt (payloadOf r.frame.body) 2 6)) ∧
    (∃ (s : State) (time : Nat), s.node.st = stClaim ∧ 1 ≤ s.node.ina.claims ∧ (s.node.at time).betterHeld = false ∧ s.node.ina.claimFrom +
      400000 + 2000 * s.node.bits Reg.INA_MAX_RTT 0 11 ≤ max s.node.tm.raw time ∧ s.node.identity < 2 ^ 48) := by
  refine ⟨
      ⟨tSt (tRegs (tIn 1) [(Reg.INA_LINK_WAIT, 20)]), 20000000, by decide +kernel⟩,
      ⟨tSt (tRegs (tIn 1) [(Reg.INA_LINK_WAIT, 0)]), 20000000, by decide +kernel⟩,
      ⟨tSt (tIn 2), 4000000, by decide +kernel⟩,
      ⟨tSt (tRegs (tIn 2) [(Reg.INA_CFG, 0)]), 4000000, by decide +kernel⟩,
      ⟨tSt (tIn 3), by decide +kernel⟩,
      ⟨tSt tRun, by decide +kernel⟩,
      ⟨tSt (tIn 3), tRx (tHdr 4) (encBE 1 0x70 ++ zeros 1 ++ encBE 6 tFar ++ zeros 4), by decide +kernel⟩,
      ⟨tSt { tIn 3 with ina := { tRun.ina with claims := 3 } }, 90000000, by decide +kernel⟩⟩

theorem test_rounds_and_numberings_are_taken :
    (∃ (s : State) (time : Nat), s.node.master = true ∧ s.node.ina.wanted = true ∧ s.node.ina.roundOn = false ∧ s.node.ina.announced = none
      ∧ s.node.ina.firstRef + 3 ≤ (s.node.at time).cycleNow ∧ (((s.node.at time).cycleNow * s.node.tc + 4000 : Nat) : Int) ≤ (s.node.at
      time).trainNs ∧ s.node.ina.lastNotice + 3 * (s.node.tc : Int) ≤ ((s.node.at time).cycleNow * s.node.tc : Nat)) ∧
    (∃ (s : State) (r : Rx), s.node.hears r 0x5 = true ∧ byteAt (payloadOf r.frame.body) 0 = 1 ∧ stIntegrate ≤ s.node.st ∧ beAt (payloadOf
      r.frame.body) 8 6 ≠ s.node.identity ∧ beAt (payloadOf r.frame.body) 8 6 ≠ s.node.masterId) ∧
    (∃ (s : State) (r : Rx), s.node.hears r 0x5 = true ∧ byteAt (payloadOf r.frame.body) 0 = 1 ∧ stIntegrate ≤ s.node.st ∧ beAt (payloadOf
      r.frame.body) 8 6 ≠ s.node.identity ∧ beAt (payloadOf r.frame.body) 8 6 = s.node.masterId) ∧
    (∃ (s : State) (r : Rx), s.node.hears r 0x5 = true ∧ byteAt (payloadOf r.frame.body) 0 = 2 ∧ stIntegrate ≤ s.node.st ∧ beAt (payloadOf
      r.frame.body) 8 6 = s.node.identity ∧ s.node.master = true ∧ s.node.ina.roundOn = true ∧ beAt (payloadOf r.frame.body) 2 2 =
      s.node.ina.round) ∧
    (∃ (s : State) (r : Rx), s.node.hears r 0x5 = true ∧ byteAt (payloadOf r.frame.body) 0 = 3 ∧ stIntegrate ≤ s.node.st ∧ s.node.master =
      true) ∧
    (∃ (s : State) (time : Nat), s.node.master = true ∧ s.node.ina.roundOn = true ∧ s.node.ina.ready = false ∧ s.node.ina.roundCyc <
      (s.node.at time).cycleNow ∧ s.node.ina.incomplete < 2) ∧
    (∃ (s : State) (time : Nat), s.node.master = true ∧ s.node.ina.roundOn = true ∧ s.node.ina.ready = false ∧ s.node.ina.roundCyc <
      (s.node.at time).cycleNow ∧ 2 ≤ s.node.ina.incomplete) ∧
    (∃ (s : State), s.node.master = true ∧ s.node.ina.roundOn = true ∧ s.node.ina.ready = true ∧ s.node.ina.announced = none ∧
      s.node.ina.collected.length ≤ 4096) ∧
    (∃ (s : State) (r : Rx) (e cyc : Nat), s.node.hears r 0x6 = true ∧ stIntegrate ≤ s.node.st ∧ s.node.master = false ∧
      s.node.ina.refCommit = some (e, cyc) ∧ e = beAt (payloadOf r.frame.body) 0 2 ∧ cyc % 2 ^ 32 = beAt (payloadOf r.frame.body) 4 4 ∧
      s.node.ina.result = none) ∧
    (∃ (n : Node) (c : Commit) (own : NumEntry) (epoch : Nat), n.heldCommit epoch = some (c, own) ∧ n.st ≠ stMute ∧ n.pairConflict ((sortBy
      id (c.entries.map (·.num))).filterMap fun k => c.entries.find? fun e => e.num == k) own = false ∧ n.ina.conflicts = []) ∧
    (∃ (n : Node) (c : Commit) (own : NumEntry) (epoch : Nat), n.heldCommit epoch = some (c, own) ∧ n.st ≠ stMute ∧ n.pairConflict ((sortBy
      id (c.entries.map (·.num))).filterMap fun k => c.entries.find? fun e => e.num == k) own = false ∧ n.ina.conflicts = [] ∧ n.st =
      stRun) ∧
    (∃ (n : Node) (c : Commit) (own : NumEntry) (epoch : Nat), n.heldCommit epoch = some (c, own) ∧ n.st ≠ stMute ∧ n.pairConflict ((sortBy
      id (c.entries.map (·.num))).filterMap fun k => c.entries.find? fun e => e.num == k) own = false ∧ n.ina.conflicts = [] ∧ n.st ≠
      stRun) ∧
    (∃ (n : Node) (epoch : Nat), n.heldCommit epoch = none) := by
  refine ⟨
      ⟨tSt { tMaster with ina := { tMaster.ina with wanted := true, lastNotice := -1000000000 } }, 60004000, by decide +kernel⟩,
      ⟨tSt tRun, tTopo 1 4 0x3C0A90000000 [], by decide +kernel⟩,
      ⟨tSt tRun, tTopo 1 4 tFar [], by decide +kernel⟩,
      ⟨tSt { tMaster with ina := { tMaster.ina with roundOn := true, round := 4 } }, tTopo 2 4 tOwn [], by decide +kernel⟩,
      ⟨tSt tMaster, tTopo 3 0 tOwn (zeros 16), by decide +kernel⟩,
      ⟨tSt { tMaster with ina := { tMaster.ina with roundOn := true, round := 4 } }, 60004000, by decide +kernel⟩,
      ⟨tSt { tMaster with ina := { tMaster.ina with roundOn := true, round := 4, incomplete := 2 } }, 60004000, by decide +kernel⟩,
      ⟨tSt { tMaster with ina := { tMaster.ina with roundOn := true, round := 4, ready := true } }, by decide +kernel⟩,
      ⟨tSt { tIn 4 with ina := { tRun.ina with refCommit := some (6, 9) } }, tRx (tHdr 6) (tCommit.part 0), 6, 9, by decide +kernel⟩,
      ⟨tNumbered 6, tCommit, tEntry tOwn 2 2, 6, by decide +kernel⟩,
      ⟨tNumbered 6, tCommit, tEntry tOwn 2 2, 6, by decide +kernel⟩,
      ⟨tNumbered 4, tCommit, tEntry tOwn 2 2, 6, by decide +kernel⟩,
      ⟨tRun, 6, by decide +kernel⟩⟩

theorem test_train_operations_and_commands_act :
    (∃ (s : State) (r : Rx), s.node.hears r 0x5 = true ∧ byteAt (payloadOf r.frame.body) 0 = 4 ∧ stIntegrate ≤ s.node.st ∧ s.node.master =
      true ∧ byteAt (payloadOf r.frame.body) 24 = 4 ∧ s.node.ina.op = none ∧ beAt (payloadOf r.frame.body) 32 4 < s.node.tc ∧ beAt
      (payloadOf r.frame.body) 36 4 = 0) ∧
    (∃ (s : State) (r : Rx) (o : TrainOp), s.node.hears r 0x5 = true ∧ byteAt (payloadOf r.frame.body) 0 = 5 ∧ stListen ≤ s.node.st ∧
      s.node.ina.op = some o ∧ o.requester = 0 ∧ byteAt (payloadOf r.frame.body) 24 = 0 ∧ o.cyc % 2 ^ 32 = beAt (payloadOf r.frame.body) 28
      4) ∧
    (∃ (s : State) (time : Nat) (o : TrainOp), s.node.ina.op = some o ∧ o.op = 4 ∧ (s.node.at time).opDue o = true ∧ o.requester ≠
      s.node.identity ∧ o.requester ≠ 0) ∧
    (∃ (s : State) (time : Nat), (s.node.ina.snapshot = none ∨ (s.node.at time).inPolled = false)) ∧
    (∃ (s : State) (time who : Nat) (bytes : List Byte), s.node.ina.snapshot = some (who, bytes) ∧ (s.node.at time).inPolled = true) ∧
    (∃ (s : State) (c : Cmd), s.node.takes c 0x0121 .either 0 = true) ∧
    (∃ (s : State) (c : Cmd), s.node.takes c 0x0120 .either 3 = true ∧ arg c 0 = 0 ∧ s.node.st = stRun ∧ s.node.master = false) ∧
    (∃ (s : State) (c : Cmd), s.node.takes c 0x0122 (.secure 14) 0 = true ∧ s.node.ina.refCommit = none ∧ s.node.ina.announced = none ∧
      s.node.master = false) ∧
    (∃ (s : State) (c : Cmd), s.node.takes c 0x0123 (.secure 14) 2 = true ∧ s.node.st = stRun ∧ s.node.ina.op = none ∧ s.node.master =
      false) ∧
    (∃ (s : State) (c : Cmd), s.node.takes c 0x0124 .either 2 = true ∧ s.node.ina.op = none ∧ s.node.master = false) ∧
    (∃ (s : State) (c : Cmd), s.node.takes c 0x0124 .either 2 = true ∧ s.node.ina.op.isSome = true) ∧
    (∃ (n : Node), n.master = false) ∧
    (∃ (s : State) (c : Cmd), s.node.takes c 0x0120 .either 3 = true ∧ arg c 0 = 0 ∧ s.node.st = stRun ∧ s.node.master = true) := by
  refine ⟨
      ⟨tSt tMaster, tTopo 4 0 tOwn (encBE 6 tFar ++ encBE 2 9 ++ encBE 1 4 ++ zeros 7 ++ encBE 4 77 ++ zeros 4), by decide +kernel⟩,
      ⟨tSt { tRun with ina := { tRun.ina with op := some ⟨4, 9, 5, 0, 0⟩ } }, tTopo 5 0 tFar (encBE 6 tOwn ++ encBE 2 9 ++ encBE 1 0 ++
        zeros 3 ++ encBE 4 9), ⟨4, 9, 5, 0, 0⟩, by decide +kernel⟩,
      ⟨tSt { tRun with ina := { tRun.ina with op := some ⟨4, 0, 5, tFar, 3⟩ } }, 50, ⟨4, 0, 5, tFar, 3⟩, by decide +kernel⟩,
      ⟨tSt tRun, 50, by decide +kernel⟩,
      ⟨tSt { tSlots with ina := { tRun.ina with snapshot := some (tFar, zeros 128) } }, 24000, tFar, zeros 128, by decide +kernel⟩,
      ⟨tSt tRun, tOp 0x0121 1 [], by decide +kernel⟩,
      ⟨tSt tRun, tOp 0x0120 1 [0], by decide +kernel⟩,
      ⟨tSt tRun, tOp 0x0122 0 [], by decide +kernel⟩,
      ⟨tSt tRun, tOp 0x0123 0 [5, 0], by decide +kernel⟩,
      ⟨tSt tRun, tOp 0x0124 1 [5, 0], by decide +kernel⟩,
      ⟨tSt { tRun with ina := { tRun.ina with op := some ⟨4, 9, 5, 0, 0⟩ } }, tOp 0x0124 1 [5, 0], by decide +kernel⟩,
      ⟨tRun, by decide +kernel⟩,
      ⟨tSt tMaster, tOp 0x0120 1 [0], by decide +kernel⟩⟩

theorem test_interoperation_acts_in_its_mode_alone :
    (∃ (s : State), s.node.interop = true ∧ stLink ≤ s.node.st) ∧
    (∃ (s : State), s.node.interop = false) ∧
    (∃ (s : State) (port : Nat), s.node.interop = true ∧ port < 4) ∧
    (∃ (s : State) (port count : Nat), s.node.interop = true ∧ port < 4 ∧ count ≤ 63) ∧
    (∃ (count : Nat), 63 < count) := by
  refine ⟨
      ⟨tSt (tRegs tRun [(Reg.INA_CFG, 0x150)]), by decide +kernel⟩,
      ⟨tSt tRun, by decide +kernel⟩,
      ⟨tSt (tRegs tRun [(Reg.INA_CFG, 0x150)]), 3, by decide +kernel⟩,
      ⟨tSt (tRegs tRun [(Reg.INA_CFG, 0x150)]), 3, 63, by decide +kernel⟩,
      ⟨64, by decide +kernel⟩⟩

theorem test_link_delay_is_measured :
    (∃ (s : State) (p time : Nat), p < 13 ∧ s.node.net.ports.length = 13 ∧ s.node.linkUp p = true ∧ (s.node.isLinePort p = true ∨ p = 12) ∧
      stLink ≤ s.node.st ∧ (s.node.at time).pdDue p = true) ∧
    (∃ (s : State) (p time : Nat), s.node.linkUp p = false ∧ (s.node.at time).pdDue p = true) ∧
    (∃ (s : State) (p time : Nat), (s.node.at time).pdDue p = false) ∧
    (∃ (s : State) (r : Rx), s.node.hears r 0xA = true ∧ r.port < 13 ∧ s.node.net.ports.length = 13 ∧ byteAt (payloadOf r.frame.body) 0 =
      1) ∧
    (∃ (s : State) (r : Rx) (k t1 : Nat), s.node.hears r 0xA = true ∧ r.port < 13 ∧ s.node.net.ports.length = 13 ∧ byteAt (payloadOf
      r.frame.body) 0 = 2 ∧ (r.port = 12 ∨ (decodeHdr r.frame.body).lineB = s.node.portB r.port) ∧ ((s.node.port r.port).exch.find? fun x
      => x.1 == beAt (payloadOf r.frame.body) 2 2 && beAt (payloadOf r.frame.body) 4 6 == s.node.identity && decide (r.stamp ≤ x.2 +
      100000)) = some (k, t1) ∧ (s.node.port r.port).pdLast = []) ∧
    (∃ (s : State) (r : Rx), s.node.hears r 0xA = true ∧ r.port < 13 ∧ s.node.net.ports.length = 13 ∧ byteAt (payloadOf r.frame.body) 0 = 2
      ∧ (r.port = 12 ∨ (decodeHdr r.frame.body).lineB = s.node.portB r.port) ∧ (s.node.port r.port).exch ≠ [] ∧ ((s.node.port
      r.port).exch.find? fun x => x.1 == beAt (payloadOf r.frame.body) 2 2 && beAt (payloadOf r.frame.body) 4 6 == s.node.identity &&
      decide (r.stamp ≤ x.2 + 100000)) = none) ∧
    (∃ (s : State) (p time : Nat), ((s.node.port p).exch.head?.any fun x => decide (x.2 + 100000 ≤ max s.node.tm.raw time)) = false) ∧
    (∃ (s : State) (p time : Nat), p < 13 ∧ s.node.net.ports.length = 13 ∧ ((s.node.port p).exch.head?.any fun x => decide (x.2 + 100000 ≤
      max s.node.tm.raw time)) = true) := by
  refine ⟨
      ⟨tSt tRun, 0, 9, by decide +kernel⟩,
      ⟨tSt tRun, 1, 9, by decide +kernel⟩,
      ⟨tSt (tRun.onPort 1 fun x => { x with pdAt := some 0 }), 1, 9, by decide +kernel⟩,
      ⟨tSt (tRun.onPort 1 fun x => { x with pdAt := some 0 }), tDelay 1 3, by decide +kernel⟩,
      ⟨tSt { tRun with net := { tRun.net with ports := { tRun.port 0 with exch := [(3, 100)] } :: List.replicate 12 Port.reset } }, tDelay
        2 3, 3, 100, by decide +kernel⟩,
      ⟨tSt { tRun with net := { tRun.net with ports := { tRun.port 0 with exch := [(4, 100)] } :: List.replicate 12 Port.reset } }, tDelay
        2 3, by decide +kernel⟩,
      ⟨tSt { tRun with net := { tRun.net with ports := { tRun.port 0 with exch := [(4, 100)] } :: List.replicate 12 Port.reset } }, 0, 9,
        by decide +kernel⟩,
      ⟨tSt { tRun with net := { tRun.net with ports := { tRun.port 0 with exch := [(4, 100)] } :: List.replicate 12 Port.reset } }, 0,
        100100, by decide +kernel⟩⟩

theorem test_train_time_is_continuous_but_for_steps :
    (∃ (r : Int), -858993 ≤ r ∧ r ≤ 858993) ∧
    (∃ (s : State) (time : Nat) (sl : Slew), s.node.tm.slew = some sl ∧ (s.node.at time).slewReached = true ∧ -858993 ≤ sl.base ∧ sl.base ≤
      858993) ∧
    (∃ (s : State) (time : Nat), (s.node.at time).slewReached = false) := by
  refine ⟨
      ⟨-858993, by decide +kernel⟩,
      ⟨tSt { tRun with tm := { tRun.tm with rate := 500, slew := some ⟨858993, -500, -70000, 0⟩ } }, 9200000, ⟨858993, -500, -70000, 0⟩,
        by decide +kernel⟩,
      ⟨tSt { tRun with tm := { tRun.tm with rate := 500, slew := some ⟨858993, -500, -70000, 0⟩ } }, 90000, by decide +kernel⟩⟩

theorem test_time_commands_outputs_and_captures_act :
    (∃ (s : State) (c : Cmd), s.node.takes c 0x0901 .either 0 = true) ∧
    (∃ (s : State) (c : Cmd), s.node.takes c 0x0902 (.secure 15) 3 = true ∧ arg c 2 ≤ 999999999 ∧ arg c 1 < 65536 ∧ stLink ≤ s.node.st ∧
      s.node.st ≤ stClaim) ∧
    (∃ (s : State) (c : Cmd), s.node.takes c 0x0902 (.secure 15) 3 = true ∧ arg c 2 ≤ 999999999 ∧ arg c 1 < 65536 ∧ (s.node.st < stLink ∨
      stClaim < s.node.st)) ∧
    (∃ (s : State) (c : Cmd), s.node.takes c 0x0903 (.secure 15) 1 = true ∧ (argW c 0).toInt.natAbs ≤ 10000000 ∧ s.node.master = false) ∧
    (∃ (s : State) (c : Cmd), s.node.takes c 0x0903 (.secure 15) 1 = true ∧ (argW c 0).toInt.natAbs ≤ 10000000 ∧ s.node.master = true ∧
      s.node.tm.slew = none ∧ 0 < (argW c 0).toInt ∧ 4295 ≤ 858993 - s.node.tm.rate) ∧
    (∃ (s : State) (c : Cmd), s.node.takes c 0x0903 (.secure 15) 1 = true ∧ (argW c 0).toInt.natAbs ≤ 10000000 ∧ s.node.master = true ∧
      s.node.tm.slew = none ∧ 0 < (argW c 0).toInt ∧ 858993 - s.node.tm.rate < 4295) ∧
    (∃ (s : State) (c : Cmd), arg c 0 < 8 ∧ s.node.takes c 0x0904 (.inst (16 + arg c 0)) 7 = true ∧ s.node.tm.touts.length = 8 ∧ 1 ≤ arg c
      1 ∧ arg c 1 ≤ 3 ∧ arg c 2 ≤ 999999999 ∧ arg c 4 < 65536 ∧ 4 ≤ arg c 6 ∧ (arg c 1 = 2 → 16 ≤ arg c 5 ∧ arg c 6 + 4 ≤ arg c 5) ∧ (arg c
      1 = 3 ∨ (s.node.at c.time).trainNs + 2000 ≤ ((arg c 4 * 2 ^ 32 + arg c 3) * 1000000000 + arg c 2 : Nat))) ∧
    (∃ (s : State) (c : Cmd), arg c 0 < 8 ∧ s.node.takes c 0x0904 (.inst (16 + arg c 0)) 7 = true ∧ s.node.tm.touts.length = 8 ∧ 1 ≤ arg c
      1 ∧ arg c 1 ≤ 3 ∧ arg c 2 ≤ 999999999 ∧ arg c 4 < 65536 ∧ 4 ≤ arg c 6 ∧ (arg c 1 = 2 → 16 ≤ arg c 5 ∧ arg c 6 + 4 ≤ arg c 5) ∧ arg c
      1 ≠ 3 ∧ ((arg c 4 * 2 ^ 32 + arg c 3) * 1000000000 + arg c 2 : Nat) < (s.node.at c.time).trainNs + 2000) ∧
    (∃ (s : State) (c : Cmd), arg c 0 < 8 ∧ s.node.takes c 0x0905 (.inst (16 + arg c 0)) 1 = true ∧ s.node.tm.touts.length = 8) ∧
    (∃ (s : State) (ctx i : Nat) (v : Word), i < 8 ∧ s.node.admits ctx (Reg.TMB_TOUT_CTRL i) true = true ∧ s.node.tm.touts.length = 8 ∧
      v.toNat % 4 = 0) ∧
    (∃ (s : State) (ctx i : Nat) (v : Word), i < 8 ∧ s.node.admits ctx (Reg.TMB_TOUT_CTRL i) true = true ∧ s.node.tm.touts.length = 8 ∧
      v.toNat % 4 ≠ 0 ∧ v.toNat.testBit 3 = true ∧ (v.toNat % 4 = 3 ∨ s.node.trainNs + 2000 ≤ s.node.toutStart i)) ∧
    (∃ (s : State) (i time : Nat), i < 8 ∧ s.node.tm.touts.length = 8 ∧ (s.node.at time).toutDue i = true) ∧
    (∃ (s : State) (i time : Nat), (s.node.at time).toutDue i = false) ∧
    (∃ (s : State) (ctx i : Nat), i < 8 ∧ s.node.admits ctx (Reg.PDT_TOUT_BIND i) true = true ∧ s.node.ctxSecure ctx = s.node.instSecure
      (16 + i)) ∧
    (∃ (s : State) (ctx i : Nat), i < 8 ∧ s.node.admits ctx (Reg.PDT_TOUT_BIND i) true = true ∧ s.node.ctxSecure ctx ≠ s.node.instSecure
      (16 + i)) ∧
    (∃ (s : State) (i : Nat) (rising : Bool), i < 4 ∧ s.node.tm.tcaps.length = 4 ∧ (s.node.bits (Reg.TMB_TCAP_CTRL i) 0 2 = 3 ∨ s.node.bits
      (Reg.TMB_TCAP_CTRL i) 0 2 = (if rising then 1 else 2)) ∧ (s.node.tm.tcaps.getD i Tcap.reset).entries.length < 16) ∧
    (∃ (s : State) (i : Nat) (rising : Bool), i < 4 ∧ s.node.tm.tcaps.length = 4 ∧ (s.node.bits (Reg.TMB_TCAP_CTRL i) 0 2 = 3 ∨ s.node.bits
      (Reg.TMB_TCAP_CTRL i) 0 2 = (if rising then 1 else 2)) ∧ 16 ≤ (s.node.tm.tcaps.getD i Tcap.reset).entries.length) ∧
    (∃ (s : State) (i : Nat) (rising : Bool), i < 4 ∧ s.node.tm.tcaps.length = 4 ∧ s.node.bits (Reg.TMB_TCAP_CTRL i) 0 2 ≠ 3 ∧ s.node.bits
      (Reg.TMB_TCAP_CTRL i) 0 2 ≠ (if rising then 1 else 2)) ∧
    (∃ (s : State) (p time : Nat), 4 ≤ p ∧ p < 12 ∧ (s.node.at time).timeSends p = true ∧ (s.node.at time).ptpDue p 0 125000000 = true ∧
      s.node.net.ports.length = 13) ∧
    (∃ (s : State) (p time : Nat), 4 ≤ p ∧ p < 12 ∧ ((s.node.at time).timeSends p = false ∨ (s.node.at time).ptpDue p 0 125000000 = false)) ∧
    (∃ (s : State) (p time : Nat), 4 ≤ p ∧ p < 12 ∧ (s.node.at time).timeSends p = true ∧ (s.node.at time).ptpDue p 11 1000000000 = true ∧
      s.node.net.ports.length = 13) ∧
    (∃ (s : State) (p time : Nat), 4 ≤ p ∧ p < 12 ∧ ((s.node.at time).timeSends p = false ∨ (s.node.at time).ptpDue p 11 1000000000 =
      false)) ∧
    (∃ (s : State) (p time : Nat), 4 ≤ p ∧ p < 12 ∧ s.node.timeService p ≠ 0 ∧ s.node.linkUp p = true ∧ (s.node.at time).carSends p = true
      ∧ (s.node.at time).ptpDue p 2 1000000000 = true) ∧
    (∃ (s : State) (p time : Nat), 4 ≤ p ∧ p < 12 ∧ s.node.timeService p ≠ 0 ∧ s.node.linkUp p = true ∧ (s.node.at time).carSends p = true) ∧
    (∃ (s : State) (p : Nat), 4 ≤ p ∧ p < 12 ∧ s.node.timeService p ≠ 0 ∧ s.node.linkUp p = true) ∧
    (∃ (p : Nat), ∃ ty, 4 ≤ p ∧ p < 12 ∧ (ty = 0 ∨ ty = 8 ∨ ty = 11)) ∧
    (∃ (s : State), (s.node.ts = tsSynced ∨ s.node.ts = tsMaster ∨ s.node.tm.audioMute = true)) ∧
    (∃ (s : State), s.node.ts ≠ tsSynced ∧ s.node.ts ≠ tsMaster ∧ s.node.tm.audioMute = false) ∧
    (∃ (s : State) (time : Nat), s.node.boot.sleep ≠ 2 ∧ s.node.bit Reg.PCR_SUPPLY_STAT 3 = false ∧ s.node.boot.calAt + 100000000 ≤ max
      s.node.tm.raw time) ∧
    (∃ (s : State) (time : Nat), s.node.boot.sleep ≠ 2 ∧ s.node.bit Reg.PCR_SUPPLY_STAT 3 = false ∧ max s.node.tm.raw time <
      s.node.boot.calAt + 100000000) := by
  refine ⟨
      ⟨tSt tRun, tOp 0x0901 1 [], by decide +kernel⟩,
      ⟨tSt (tIn 3), tOp 0x0902 0 [7, 65535, 999999999], by decide +kernel⟩,
      ⟨tSt (tIn 4), tOp 0x0902 0 [7, 65535, 999999999], by decide +kernel⟩,
      ⟨tSt tRun, tOp 0x0903 0 [10000000], by decide +kernel⟩,
      ⟨tSt { tMaster with tm := { tMaster.tm with rate := 858993 - 4295 } }, tOp 0x0903 0 [10000000], by decide +kernel⟩,
      ⟨tSt { tMaster with tm := { tMaster.tm with rate := 858993 - 4294 } }, tOp 0x0903 0 [10000000], by decide +kernel⟩,
      ⟨tSt tRun, tOp 0x0904 0 [7, 2, 3000, 0, 0, 16, 12], by decide +kernel⟩,
      ⟨tSt tRun, tOp 0x0904 0 [7, 2, 2999, 0, 0, 16, 12], by decide +kernel⟩,
      ⟨tSt tRun, tOp 0x0905 0 [7], by decide +kernel⟩,
      ⟨tSt tRun, 0, 7, 0#32, by decide +kernel⟩,
      ⟨tSt (tRegs tRun [(Reg.TMB_TOUT_START_NS 7, 2000)]), 0, 7, 9#32, by decide +kernel⟩,
      ⟨tSt { tRun with tm := { tRun.tm with touts := ⟨true, 2, 3000, 16, 12, 1, false⟩ :: tRun.tm.touts.drop 1 } }, 0, 3016,
        by decide +kernel⟩,
      ⟨tSt { tRun with tm := { tRun.tm with touts := ⟨true, 2, 3000, 16, 12, 1, false⟩ :: tRun.tm.touts.drop 1 } }, 0, 3015,
        by decide +kernel⟩,
      ⟨tSt (tRegs tRun [(Reg.WLD_INST 0, 0x10000)]), 0, 0, by decide +kernel⟩,
      ⟨tSt tRun, 0, 0, by decide +kernel⟩,
      ⟨tSt (tRegs tRun [(Reg.TMB_TCAP_CTRL 3, 3)]), 3, true, by decide +kernel⟩,
      ⟨tSt (tRegs { tRun with tm := { tRun.tm with tcaps := tRun.tm.tcaps.map fun _ => ⟨List.replicate 16 ⟨0, 1, true⟩, 0, false⟩ } }
        [(Reg.TMB_TCAP_CTRL 3, 1)]), 3, true, by decide +kernel⟩,
      ⟨tSt (tRegs tRun [(Reg.TMB_TCAP_CTRL 3, 2)]), 3, true, by decide +kernel⟩,
      ⟨tSt tCar, 4, 9, by decide +kernel⟩,
      ⟨tSt tCar, 11, 9, by decide +kernel⟩,
      ⟨tSt tCar, 4, 9, by decide +kernel⟩,
      ⟨tSt tCar, 11, 9, by decide +kernel⟩,
      ⟨tSt tCar, 4, 9, by decide +kernel⟩,
      ⟨tSt tCar, 4, 9, by decide +kernel⟩,
      ⟨tSt tCar, 4, by decide +kernel⟩,
      ⟨4, 11, by decide +kernel⟩,
      ⟨tSt { tRun with tm := { tRun.tm with audioMute := true } }, by decide +kernel⟩,
      ⟨tSt tRun, by decide +kernel⟩,
      ⟨tSt tRun, 100000000, by decide +kernel⟩,
      ⟨tSt tRun, 9, by decide +kernel⟩⟩

theorem test_placement_is_asked_for_and_decided :
    (∃ (s : State) (c : Cmd) (w : List Word), s.node.takes c 0x0201 .either 9 = true ∧ w = (List.range 8).map (fun i => argW c (1 + i)) ∧
      (s.node.at c.time).badDeclare (arg c 0) (strmOf w) w = true) ∧
    (∃ (s : State) (c : Cmd) (w : List Word), s.node.takes c 0x0201 .either 9 = true ∧ w = (List.range 8).map (fun i => argW c (1 + i)) ∧
      (s.node.at c.time).badDeclare (arg c 0) (strmOf w) w = false ∧ (s.node.at c.time).badWorld c.ctx (strmOf w) = true) ∧
    (∃ (s : State) (c : Cmd) (w : List Word), s.node.takes c 0x0201 .either 9 = true ∧ w = (List.range 8).map (fun i => argW c (1 + i)) ∧
      (s.node.at c.time).badDeclare (arg c 0) (strmOf w) w = false ∧ (s.node.at c.time).badWorld c.ctx (strmOf w) = false ∧ s.node.st ≠
      stRun) ∧
    (∃ (s : State) (c : Cmd) (w : List Word), s.node.takes c 0x0201 .either 9 = true ∧ w = (List.range 8).map (fun i => argW c (1 + i)) ∧
      (s.node.at c.time).badDeclare (arg c 0) (strmOf w) w = false ∧ (s.node.at c.time).badWorld c.ctx (strmOf w) = false ∧ s.node.st =
      stRun) ∧
    (∃ (s : State) (c : Cmd), s.node.takes c 0x0202 (s.node.strmNeed (arg c 0)) 1 = true ∧ (s.node.strm (arg c 0)).valid = true ∧
      s.node.ownStream (s.node.strm (arg c 0)) = true ∧ 0 < arg c 0 ∧ arg c 0 < 16380) ∧
    (∃ (s : State) (c : Cmd), s.node.takes c 0x0202 (s.node.strmNeed (arg c 0)) 1 = true ∧ s.node.ownStream (s.node.strm (arg c 0)) =
      false) ∧
    (∃ (n : Node), n.master = false) ∧
    (∃ (s : State) (c : Cmd), s.node.takes c 0x0203 .either 1 = true ∧ arg c 0 < 16384) ∧
    (∃ (s : State) (c : Cmd), s.node.takes c 0x0204 (.secure 28) 0 = true ∧ s.node.master = false) ∧
    (∃ (s : State) (c : Cmd), s.node.takes c 0x0204 (.secure 28) 0 = true ∧ s.node.master = true ∧ s.node.fld Reg.PLC_STATE
      Fld.PLC_STATE_BUSY ≠ 1 ∧ s.node.fld Reg.PLC_STATE Fld.PLC_STATE_REPLACING ≠ 1) ∧
    (∃ (s : State) (c : Cmd), s.node.takes c 0x0207 .either 0 = true) ∧
    (∃ (s : State) (time : Nat) (q : PlcReq) (k : Node), ∃ reason, s.node.master = true ∧ (s.node.at time).nextRequest = some q ∧ k =
      { s.node.at time with plc := { s.node.plc with queue := s.node.plc.queue.erase q } } ∧ q.type = 1 ∧ k.admitGrowth q.stream (strmOf
      q.entry) (k.plc.joiners.contains q.requester) ((k.strm q.stream).valid && (k.strm q.stream).src == (strmOf q.entry).src && (k.strm
      q.stream).pair == (strmOf q.entry).pair && ((k.strm q.stream).state == 0 || (k.strm q.stream).state == 5)) = .error reason) ∧
    (∃ (s : State) (time : Nat) (q : PlcReq) (k : Node), ∃ phase, ∃ placed, ∃ growth, s.node.master = true ∧ (s.node.at time).nextRequest =
      some q ∧ k = { s.node.at time with plc := { s.node.plc with queue := s.node.plc.queue.erase q } } ∧ q.type = 1 ∧ k.admitGrowth
      q.stream (strmOf q.entry) (k.plc.joiners.contains q.requester) ((k.strm q.stream).valid && (k.strm q.stream).src == (strmOf
      q.entry).src && (k.strm q.stream).pair == (strmOf q.entry).pair && ((k.strm q.stream).state == 0 || (k.strm q.stream).state == 5)) =
      .ok (phase, placed, growth)) ∧
    (∃ (s : State) (time : Nat) (q : PlcReq) (k : Node), s.node.master = true ∧ (s.node.at time).nextRequest = some q ∧ k =
      { s.node.at time with plc := { s.node.plc with queue := s.node.plc.queue.erase q } } ∧ q.type = 2 ∧ (k.strm q.stream).valid = false) ∧
    (∃ (s : State) (time : Nat) (q : PlcReq) (k : Node), s.node.master = true ∧ (s.node.at time).nextRequest = some q ∧ k =
      { s.node.at time with plc := { s.node.plc with queue := s.node.plc.queue.erase q } } ∧ q.type = 3) ∧
    (∃ (s : State) (q : PlcReq), s.node.plc.mine = [q] ∧ q.cycle + 8 ≤ s.node.cyc.cur ∧ q.type ≠ 3 ∧ q.attempts < 2) ∧
    (∃ (s : State) (q : PlcReq), s.node.plc.mine = [q] ∧ q.cycle + 8 ≤ s.node.cyc.cur ∧ q.type ≠ 3 ∧ 2 ≤ q.attempts) ∧
    (∃ (s : State), s.node.master = true ∧ s.node.fld Reg.PLC_STATE Fld.PLC_STATE_STAGED = 1 ∧ s.node.plc.verdicts = [] ∧ (∀ x ∈
      s.node.plc.out, x.stream ≠ 16381) ∧ s.node.plc.verdictCyc < s.node.cyc.cur ∧ s.node.cyc.request = none ∧ (∀ w, s.node.cyc.switch =
      some w → w.state = 3)) ∧
    (∃ (s : State), s.node.plc.censusDue = true ∧ s.node.master = false) ∧
    (∃ (s : State), s.node.master = true ∧ s.node.fld Reg.PLC_STATE Fld.PLC_STATE_BUSY = 1 ∧ s.node.placedStreams = [] ∧ s.node.host.waits
      = []) := by
  refine ⟨
      ⟨tSt tRun, tOp 0x0201 1 (0 :: (tDecl tOwn).map BitVec.toNat), tDecl tOwn, by decide +kernel⟩,
      ⟨tSt (tRegs tRun [(Reg.WLD_INST 0, 0x20000000)]), tOp 0x0201 1 (11 :: (tDecl tOwn).map BitVec.toNat), tDecl tOwn, by decide +kernel⟩,
      ⟨tSt (tIn 4), tOp 0x0201 1 (11 :: (tDecl tOwn).map BitVec.toNat), tDecl tOwn, by decide +kernel⟩,
      ⟨tSt tRun, tOp 0x0201 1 (11 :: (tDecl tOwn).map BitVec.toNat), tDecl tOwn, by decide +kernel⟩,
      ⟨tSt tSlots, tOp 0x0202 1 [9], by decide +kernel⟩,
      ⟨tSt tSlots, tOp 0x0202 1 [10], by decide +kernel⟩,
      ⟨tRun, by decide +kernel⟩,
      ⟨tSt tSlots, tOp 0x0203 1 [16383], by decide +kernel⟩,
      ⟨tSt tSlots, tOp 0x0204 0 [], by decide +kernel⟩,
      ⟨tSt tMaster, tOp 0x0204 0 [], by decide +kernel⟩,
      ⟨tSt tMaster, tOp 0x0207 1 [], by decide +kernel⟩,
      ⟨tSt (tQueue (tReq 1)), 9, tReq 1, { tTaken with tm := { tTaken.tm with raw := 9 } }, 9, by decide +kernel⟩,
      ⟨tSt (tQueue tReqMsg), 9, tReqMsg, { tTaken with tm := { tTaken.tm with raw := 9 } }, 0, ([] : List (Copy × List Slotted)), false,
        by decide +kernel⟩,
      ⟨tSt (tQueue (tReq 2)), 9, tReq 2, { tTaken with tm := { tTaken.tm with raw := 9 } }, by decide +kernel⟩,
      ⟨tSt (tQueue (tReq 3)), 9, tReq 3, { tTaken with tm := { tTaken.tm with raw := 9 } }, by decide +kernel⟩,
      ⟨tSt { tRun with cyc := { tRun.cyc with cur := 8 }, plc := { tRun.plc with mine := [{ tReq 1 with attempts := 1 }] } },
        { tReq 1 with attempts := 1 }, by decide +kernel⟩,
      ⟨tSt { tRun with cyc := { tRun.cyc with cur := 8 }, plc := { tRun.plc with mine := [{ tReq 1 with attempts := 2 }] } },
        { tReq 1 with attempts := 2 }, by decide +kernel⟩,
      ⟨tSt ({ tMaster with cyc := { tMaster.cyc with cur := 8 } }.setFld Reg.PLC_STATE Fld.PLC_STATE_STAGED 1), by decide +kernel⟩,
      ⟨tSt { tRun with plc := { tRun.plc with censusDue := true } }, by decide +kernel⟩,
      ⟨tSt (tMaster.setFld Reg.PLC_STATE Fld.PLC_STATE_BUSY 1), by decide +kernel⟩⟩

theorem test_messages_reach_their_receivers :
    (∃ (s : State) (r : Rx) (src : NumEntry), s.node.getsMsg r src = true ∧ (decodeHdr r.frame.body).sid ≠ 16381 ∧ s.node.svcRange
      (decodeHdr r.frame.body).sid = false) ∧
    (∃ (s : State) (r : Rx), s.node.hears r 0xB = true ∧ (s.node.msgCarried r).takesStream (decodeHdr r.frame.body).sid = false ∧
      s.node.svcRange (decodeHdr r.frame.body).sid = false) ∧
    (∃ (s : State) (r : Rx) (src : NumEntry), s.node.getsMsg r src = true ∧ (decodeHdr r.frame.body).sid = 16381) ∧
    (∃ (n : Node) (m : InMsg), m.stream = 16380 ∧ n.master = true) ∧
    (∃ (n : Node) (m : InMsg), n.host.waits = [] ∧ (n.plc.inbox.filter fun x => x.stream == m.stream).length < 64) ∧
    (∃ (n : Node) (m : InMsg), n.host.waits = [] ∧ 64 ≤ (n.plc.inbox.filter fun x => x.stream == m.stream).length) ∧
    (∃ (s : State) (c : Cmd) (e : Strm), ∃ bytes, s.node.takes c 0x0205 (s.node.strmNeed (arg c 0)) 6 = true ∧ e = s.node.strm (arg c 0) ∧
      0 < arg c 0 ∧ arg c 0 < 16380 ∧ e.valid = true ∧ e.cls = 2 ∧ s.node.ownStream e = true ∧ arg c 1 ≤ 16384 ∧ s.node.sourceBytes c (arg
      c 2) (arg c 3 + arg c 4 * 2 ^ 32) (arg c 1) = some bytes ∧ s.node.absentDest e = none) ∧
    (∃ (s : State) (c : Cmd) (e : Strm), ∃ bytes, ∃ d, s.node.takes c 0x0205 (s.node.strmNeed (arg c 0)) 6 = true ∧ e = s.node.strm (arg c
      0) ∧ 0 < arg c 0 ∧ arg c 0 < 16380 ∧ e.valid = true ∧ e.cls = 2 ∧ s.node.ownStream e = true ∧ arg c 1 ≤ 16384 ∧ s.node.sourceBytes c
      (arg c 2) (arg c 3 + arg c 4 * 2 ^ 32) (arg c 1) = some bytes ∧ s.node.absentDest e = some d ∧ s.node.storeRoom bytes.length = true) ∧
    (∃ (s : State) (c : Cmd) (e : Strm), ∃ bytes, ∃ d, s.node.takes c 0x0205 (s.node.strmNeed (arg c 0)) 6 = true ∧ e = s.node.strm (arg c
      0) ∧ 0 < arg c 0 ∧ arg c 0 < 16380 ∧ e.valid = true ∧ e.cls = 2 ∧ s.node.ownStream e = true ∧ arg c 1 ≤ 16384 ∧ s.node.sourceBytes c
      (arg c 2) (arg c 3 + arg c 4 * 2 ^ 32) (arg c 1) = some bytes ∧ s.node.absentDest e = some d ∧ s.node.storeRoom bytes.length = false) ∧
    (∃ (s : State) (c : Cmd), s.node.takes c 0x0206 (s.node.strmNeed (arg c 0)) 4 = true ∧ arg c 0 < 16380 ∧ s.node.plc.inbox = []) ∧
    (∃ (s : State) (c : Cmd), ∃ m, ∃ ms, s.node.takes c 0x0206 (s.node.strmNeed (arg c 0)) 4 = true ∧ arg c 0 < 16380 ∧ s.node.plc.inbox =
      m :: ms ∧ arg c 0 = m.stream ∧ s.node.strmSecure m.stream = false ∧ m.bytes.length ≤ arg c 3) := by
  refine ⟨
      ⟨tSt (tTo tRun 20), tMsg 20 (zeros 64), tEntry tFar 1 1, by decide +kernel⟩,
      ⟨tSt tRun, tMsg 20 (zeros 64), by decide +kernel⟩,
      ⟨tSt tRun, tMsg 16381 (zeros 64), tEntry tFar 1 1, by decide +kernel⟩,
      ⟨tMaster, ⟨16380, tFar, requestBytes (tReq 1)⟩, by decide +kernel⟩,
      ⟨tRun, ⟨20, tFar, zeros 64⟩, by decide +kernel⟩,
      ⟨{ tRun with plc := { tRun.plc with inbox := List.replicate 64 ⟨20, tFar, zeros 8⟩ } }, ⟨20, tFar, zeros 64⟩, by decide +kernel⟩,
      ⟨tSt (tMsgs tFar), tOp 0x0205 0 [12, 8], (tMsgs tFar).strm 12, zeros 8, by decide +kernel⟩,
      ⟨tSt (tRegs (tMsgs 5) [(Reg.PLC_DRAM_SIZE 3, 1)]), tOp 0x0205 0 [12, 8], (tMsgs 5).strm 12, zeros 8, (false, 5), by decide +kernel⟩,
      ⟨tSt (tMsgs 5), tOp 0x0205 0 [12, 8], (tMsgs 5).strm 12, zeros 8, (false, 5), by decide +kernel⟩,
      ⟨tSt tRun, tOp 0x0206 0 [20, 0, 0, 64], by decide +kernel⟩,
      ⟨tSt { tRun with plc := { tRun.plc with inbox := [⟨20, tFar, zeros 64⟩] } }, tOp 0x0206 0 [20, 0, 0, 64], InMsg.mk 20 tFar (zeros
        64), ([] : List InMsg), by decide +kernel⟩⟩

theorem test_a_copy_is_accepted_once :
    (∃ (t : Tracker) (q : Nat), q < 65536 ∧ t.high < 65536 ∧ t.map < 2 ^ 64 ∧ t.fate q = .accept) ∧
    (∃ (t : Tracker) (q : Nat), q < 65536 ∧ t.high < 65536 ∧ t.map < 2 ^ 64 ∧ t.map % 2 = 0) ∧
    (∃ (t : Tracker) (q : Nat), q < 65536 ∧ t.high < 65536 ∧ t.map < 2 ^ 64 ∧ t.map % 2 = 1 ∧ seqDelta q t.high ≤ -64) ∧
    (∃ (t : Tracker) (q : Nat), q < 65536 ∧ t.high < 65536 ∧ t.map < 2 ^ 64 ∧ t.map % 2 = 1 ∧ -64 < seqDelta q t.high ∧ seqDelta q t.high ≤
      0) := by
  refine ⟨
      ⟨⟨65530, 0, 1, 0⟩, 3, by decide +kernel⟩,
      ⟨⟨65530, 0, 0, 0⟩, 3, by decide +kernel⟩,
      ⟨⟨66, 0, 1, 0⟩, 2, by decide +kernel⟩,
      ⟨⟨65, 0, 1, 0⟩, 2, by decide +kernel⟩⟩

theorem test_entries_read_back_as_written :
    (∃ (e : Strm), e.src < 2 ^ 48 ∧ e.cls < 4 ∧ e.lines < 4 ∧ e.prio < 16 ∧ e.state < 8 ∧ e.dkind < 256 ∧ e.darg0 < 65536 ∧ e.darg1 < 2 ^
      32 ∧ e.k < 16 ∧ e.phase < 1024 ∧ e.size < 2048 ∧ e.deadline < 2 ^ 34 ∧ e.admSeq < 2 ^ 32 ∧ e.dcount < 4096 ∧ e.reason < 16) ∧
    (∃ (q : PlcReq), q.type = 1 ∧ q.stream < 65536 ∧ q.tag < 65536 ∧ q.requester < 2 ^ 48 ∧ q.first < 2 ^ 32 ∧ q.entry.length = 8) ∧
    (∃ (v : Verdict), v.stream < 65536 ∧ v.result < 256 ∧ v.reason < 256 ∧ v.admSeq < 2 ^ 32 ∧ v.epoch < 65536 ∧ v.tag < 65536 ∧
      v.entry.length = 8 ∧ (∀ x ∈ v.slots, x.num < 4096 ∧ x.copy < 4 ∧ x.egress < 32768 ∧ x.start < 2 ^ 32)) := by
  refine ⟨
      ⟨⟨tFar, true, true, 3, 3, 15, true, true, true, 7, 255, 65535, 0xFFFFFFFF, 15, 1023, 2047, 2 ^ 34 - 1, 0xFFFFFFFF, 4095, 15⟩,
        by decide +kernel⟩,
      ⟨tReq 1, by decide +kernel⟩,
      ⟨⟨65535, 255, 255, 0xFFFFFFFF, 65535, 65535, 7#32, tDecl tFar, [⟨4095, 3, true, 32767, 0xFFFFFFFF⟩]⟩, by decide +kernel⟩⟩

theorem test_the_lease_moves_the_token :
    (∃ (s : State) (time : Nat), s.node.paired = true ∧ (s.node.atPair time).token = tkHolder ∧ s.node.hbFitted = false ∧ (s.node.atPair
      time).renewDue = true ∧ s.node.par.handover = none) ∧
    (∃ (s : State) (time : Nat), ∃ h, s.node.paired = true ∧ (s.node.atPair time).token = tkHolder ∧ s.node.hbFitted = false ∧
      (s.node.atPair time).renewDue = true ∧ s.node.par.handover = some h ∧ s.node.par.handAcked = false) ∧
    (∃ (s : State) (time : Nat), ((s.node.atPair time).token ≠ tkHolder ∨ (s.node.atPair time).renewDue = false)) ∧
    (∃ (s : State) (r : Rx), s.node.hearsCtrl r 1 = true ∧ (s.node.heardCtrl r).token = tkStandby) ∧
    (∃ (s : State) (r : Rx), s.node.hearsCtrl r 1 = true ∧ (s.node.heardCtrl r).token = tkHolder ∧ ((s.node.heardCtrl r).generation <
      (ctrlHdr r).gen ∨ ((s.node.heardCtrl r).generation = (ctrlHdr r).gen ∧ (s.node.heardCtrl r).roleB = true))) ∧
    (∃ (s : State) (r : Rx), s.node.hearsCtrl r 2 = true ∧ (s.node.heardCtrl r).token = tkHolder ∧ (ctrlHdr r).unit = (s.node.heardCtrl
      r).unit % 2 ^ 32) ∧
    (∃ (s : State) (rise high : Nat), s.node.paired = true ∧ s.node.hbFitted = true ∧ (s.node.atPair (rise + high)).token = tkStandby ∧
      4000 ≤ high ∧ high ≤ 12000) ∧
    (∃ (s : State) (rise high : Nat), s.node.paired = true ∧ s.node.hbFitted = true ∧ (s.node.atPair (rise + high)).token = tkStandby ∧
      (high < 4000 ∨ 12000 < high)) ∧
    (∃ (s : State) (time : Nat), (s.node.atPair time).token = tkHolder ∧ s.node.par.lease.isSome = true ∧ s.node.cycled = true ∧
      (s.node.atPair time).quiet s.node.par.lease 2 = true) ∧
    (∃ (s : State) (time : Nat), (s.node.atPair time).token = tkStandby ∧ (s.node.atPair time).fenced = false ∧ (s.node.atPair time).unfit
      = false ∧ (s.node.atPair time).leaseOver = true) ∧
    (∃ (s : State) (time : Nat), (s.node.atPair time).token = tkStandby ∧ s.node.par.alone = true ∧ (s.node.atPair time).quiet
      s.node.par.lease 4 = true) ∧
    (∃ (s : State) (time : Nat), s.node.paired = true ∧ (s.node.atPair time).token = tkInit ∧ s.node.contactAt = none ∧ s.node.ina.table =
      [] ∧ s.node.par.initAt + s.node.fld Reg.PAR_CFG Fld.PAR_CFG_SOLO_WAIT * 1000000000 ≤ max s.node.tm.raw time) ∧
    (∃ (s : State) (time : Nat), s.node.paired = true ∧ s.node.par.lost = false ∧ (((s.node.atPair time).token = tkHolder ∧ (s.node.atPair
      time).quiet s.node.contactAt 2 = true) ∨ ((s.node.atPair time).token = tkStandby ∧ (s.node.atPair time).quiet s.node.par.lease 2 =
      true))) ∧
    (∃ (s : State) (path time : Nat) (a b : Option Nat), s.node.paired = true ∧ s.node.hbFitted = true ∧ (a, b) = (if path = 1 then
      (s.node.par.jlkAt, s.node.par.hbAt) else (s.node.par.hbAt, s.node.par.jlkAt)) ∧ a.isSome = true ∧ (s.node.atPair time).quiet a 2 =
      true ∧ b.isSome = true ∧ (s.node.atPair time).quiet b 2 = false ∧ path = 1 ∧ s.node.par.lostJlk = false) ∧
    (∃ (s : State) (path time : Nat) (a b : Option Nat), s.node.paired = true ∧ s.node.hbFitted = true ∧ (a, b) = (if path = 1 then
      (s.node.par.jlkAt, s.node.par.hbAt) else (s.node.par.hbAt, s.node.par.jlkAt)) ∧ a.isSome = true ∧ (s.node.atPair time).quiet a 2 =
      true ∧ b.isSome = true ∧ (s.node.atPair time).quiet b 2 = false ∧ path ≠ 1 ∧ s.node.par.lostHb = false) := by
  refine ⟨
      ⟨tSt (tPair 1), 0, by decide +kernel⟩,
      ⟨tSt { tPair 1 with par := { (tPair 1).par with handover := some 12 } }, 0, 12, by decide +kernel⟩,
      ⟨tSt (tPair 2), 0, by decide +kernel⟩,
      ⟨tSt (tPair 2), tCtrl 1 1 10 4 (zeros 8), by decide +kernel⟩,
      ⟨tSt (tPair 1), tCtrl 1 1 10 4 (zeros 8), by decide +kernel⟩,
      ⟨tSt (tPair 1), tCtrl 2 1 10 4 (zeros 8), by decide +kernel⟩,
      ⟨tSt ((tPair 2).setFld Reg.PAR_CFG Fld.PAR_CFG_HB 1), 10000000, 12000, by decide +kernel⟩,
      ⟨tSt ((tPair 2).setFld Reg.PAR_CFG Fld.PAR_CFG_HB 1), 10000000, 12001, by decide +kernel⟩,
      ⟨tSt (tPar (tPair 1) (some 6000000) none none none), 0, by decide +kernel⟩,
      ⟨tSt (tPar (tPair 2) (some 4000000) none none none), 0, by decide +kernel⟩,
      ⟨tSt { tPar (tPair 2) (some 4000000) none none none with par := { (tPair 2).par with alone := true } }, 0, by decide +kernel⟩,
      ⟨tSt { tPair 0 with ina := InaState.reset }, 999000000000, by decide +kernel⟩,
      ⟨tSt (tPair 1), 0, by decide +kernel⟩,
      ⟨tSt ((tPar (tPair 1) none (some 6000000) none (some 9000000)).setFld Reg.PAR_CFG Fld.PAR_CFG_HB 1), 1, 0, some 6000000, some
        9000000, by decide +kernel⟩,
      ⟨tSt ((tPar (tPair 1) none (some 9000000) none (some 6000000)).setFld Reg.PAR_CFG Fld.PAR_CFG_HB 1), 2, 0, some 6000000, some
        9000000, by decide +kernel⟩⟩

theorem test_the_token_is_held_by_generation_and_handed_over :
    (∃ (n : Node), n.unfit = true) ∧
    (∃ (n : Node), n.unfit = false) ∧
    (∃ (s : State) (c : Cmd), s.node.takes c 0x0A02 (.secure instPar) 1 = true ∧ s.node.paired = true ∧ (s.node.atPair c.time).token =
      tkHolder ∧ (s.node.atPair c.time).jlkContact = true ∧ s.node.fld Reg.PAR_PARTNER Fld.PAR_PARTNER_CURRENT = 1 ∧ s.node.fld
      Reg.PAR_PARTNER Fld.PAR_PARTNER_UNFIT = 0 ∧ s.node.par.handover = none ∧ arg c 0 = 0) ∧
    (∃ (s : State) (r : Rx), s.node.hearsCtrl r 5 = true ∧ (s.node.heardCtrl r).token = tkStandby ∧ (s.node.heardCtrl r).unfit = false) ∧
    (∃ (s : State) (r : Rx) (h : Nat), s.node.hearsCtrl r 6 = true ∧ (s.node.heardCtrl r).token = tkHolder ∧ (s.node.heardCtrl
      r).par.handover = some h ∧ beAt (ctrlBody r) 0 4 = h % 2 ^ 32 ∧ (s.node.heardCtrl r).par.handAcked = false) ∧
    (∃ (s : State) (time h : Nat), s.node.par.handover = some h ∧ s.node.par.handAcked = true ∧ (s.node.atPair time).token = tkHolder ∧ h ≤
      (s.node.atPair time).unit) ∧
    (∃ (s : State) (time h : Nat), s.node.par.handTake = some h ∧ (s.node.atPair time).token = tkStandby ∧ h + 1 ≤ (s.node.atPair
      time).unit) ∧
    (∃ (s : State) (time h : Nat), s.node.par.handover = some h ∧ s.node.par.handAcked = false ∧ h ≤ (s.node.atPair time).unit + 1) ∧
    (∃ (s : State) (time : Nat), s.node.paired = true ∧ (s.node.atPair time).token = tkHolder ∧ 8 ≤ s.node.par.muteRun ∧
      s.node.par.handover = none ∧ s.node.fld Reg.PAR_PARTNER Fld.PAR_PARTNER_CURRENT = 1 ∧ s.node.fld Reg.PAR_PARTNER Fld.PAR_PARTNER_RUN
      = 1 ∧ s.node.fld Reg.PAR_PARTNER Fld.PAR_PARTNER_UNFIT = 0) := by
  refine ⟨
      ⟨(tPair 2).setFld Reg.PAR_TOKEN Fld.PAR_TOKEN_UNFIT 1, by decide +kernel⟩,
      ⟨tPair 2, by decide +kernel⟩,
      ⟨tSt ((tPar (tPair 1) none (some 9000000) (some 9000000) none).setFld Reg.PAR_PARTNER Fld.PAR_PARTNER_CURRENT 1), tOp 0x0A02 0 [0],
        by decide +kernel⟩,
      ⟨tSt (tPair 2), tCtrl 5 0 10 4 (encBE 4 12 ++ zeros 4), by decide +kernel⟩,
      ⟨tSt { tPair 1 with par := { (tPair 1).par with handover := some 12 } }, tCtrl 6 0 10 4 (encBE 4 12 ++ zeros 4), 12,
        by decide +kernel⟩,
      ⟨tSt { tPair 1 with par := { (tPair 1).par with handover := some 10, handAcked := true } }, 0, 10, by decide +kernel⟩,
      ⟨tSt { tPair 2 with par := { (tPair 2).par with handTake := some 9 } }, 0, 9, by decide +kernel⟩,
      ⟨tSt { tPair 1 with par := { (tPair 1).par with handover := some 11 } }, 0, 11, by decide +kernel⟩,
      ⟨tSt ({ tPair 1 with par := { (tPair 1).par with muteRun := 8 } }.setFld Reg.PAR_PARTNER Fld.PAR_PARTNER_CURRENT 1 |>.setFld
        Reg.PAR_PARTNER Fld.PAR_PARTNER_RUN 1), 0, by decide +kernel⟩⟩

theorem test_the_state_is_copied :
    (∃ (s : State) (time : Nat), s.node.paired = true ∧ (s.node.atPair time).token = tkHolder ∧ s.node.cycled = true ∧ (s.node.replPhase.1
      : Int) ≤ (s.node.at time).trainNs % (s.node.tc : Int) ∧ (s.node.at time).trainNs % (s.node.tc : Int) < s.node.replPhase.2 ∧ 0 <
      s.node.tc ∧ ((s.node.atPair time).linkUp 12 = false ∨ (s.node.atPair time).unfit = true)) ∧
    (∃ (s : State) (time : Nat), s.node.paired = true ∧ (s.node.atPair time).token = tkHolder ∧ s.node.cycled = true ∧ (s.node.replPhase.1
      : Int) ≤ (s.node.at time).trainNs % (s.node.tc : Int) ∧ (s.node.at time).trainNs % (s.node.tc : Int) < s.node.replPhase.2 ∧ 0 <
      s.node.tc ∧ (s.node.atPair time).linkUp 12 = true ∧ (s.node.atPair time).unfit = false ∧ s.node.par.snapCyc = s.node.cyc.cur ∧
      s.node.par.sentCyc ≠ s.node.par.snapCyc) ∧
    (∃ (s : State) (time : Nat), (s.node.paired = false ∨ (s.node.atPair time).token ≠ tkHolder ∨ s.node.cycled = false)) ∧
    (∃ (s : State) (r : Rx), s.node.hearsCtrl r 3 = true ∧ (s.node.heardCtrl r).token = tkStandby ∧ (s.node.heardCtrl r).unfit = false) ∧
    (∃ (s : State) (r : Rx), s.node.hearsCtrl r 4 = true ∧ (s.node.heardCtrl r).token = tkStandby ∧ (s.node.heardCtrl r).unfit = false ∧
      (ctrlHdr r).flags % 2 = 1) ∧
    (∃ (s : State) (r : Rx), let n := s.node.heardCtrl r; let body := n.par.buffer.flatMap recordBytes;
      let m := n.chkCopyReceived body (beAt (ctrlBody r) 4 4); s.node.hearsCtrl r 4 = true ∧ (s.node.heardCtrl r).token = tkStandby ∧
      (s.node.heardCtrl r).unfit = false ∧ (ctrlHdr r).flags % 2 = 0 ∧ (beAt (ctrlBody r) 0 4 ≠ m.par.buffer.length ∨ beAt (ctrlBody r) 4 4
      ≠ crc32c body)) ∧
    (∃ (s : State) (r : Rx), let n := s.node.heardCtrl r; let body := n.par.buffer.flatMap recordBytes;
      let m := n.chkCopyReceived body (beAt (ctrlBody r) 4 4); s.node.hearsCtrl r 4 = true ∧ (s.node.heardCtrl r).token = tkStandby ∧
      (s.node.heardCtrl r).unfit = false ∧ (ctrlHdr r).flags % 2 = 0 ∧ beAt (ctrlBody r) 0 4 = m.par.buffer.length ∧ beAt (ctrlBody r) 4 4
      = crc32c body) ∧
    (∃ (s : State) (time : Nat), (s.node.atPair time).token = tkStandby ∧ s.node.par.resync = 1) ∧
    (∃ (s : State) (r : Rx), s.node.hearsCtrl r 7 = true ∧ (s.node.heardCtrl r).token = tkHolder ∧ (s.node.heardCtrl r).par.pass = none) ∧
    (∃ (s : State) (c : Cmd), s.node.takes c 0x0A01 .either 0 = true ∧ s.node.paired = true) ∧
    (∃ (s : State) (c : Cmd), s.node.takes c 0x0A03 (.secure instPar) 0 = true ∧ s.node.paired = true ∧ (s.node.atPair c.time).token =
      tkHolder ∧ (s.node.atPair c.time).jlkContact = true) ∧
    (∃ (s : State) (c : Cmd), s.node.takes c 0x0A04 (.secure instPar) 1 = true ∧ 1 ≤ arg c 0 ∧ arg c 0 ≤ 16379) := by
  refine ⟨
      ⟨tSt ((tPairM 1).setFld Reg.PAR_TOKEN Fld.PAR_TOKEN_UNFIT 1), 10024000, by decide +kernel⟩,
      ⟨tSt { tPairM 1 with par := { (tPairM 1).par with sentCyc := 7 } }, 10024000, by decide +kernel⟩,
      ⟨tSt (tPair 2), 0, by decide +kernel⟩,
      ⟨tSt (tPair 2), tCtrl 3 0 10 4 (encBE 4 5 ++ zeros 64), by decide +kernel⟩,
      ⟨tSt (tPair 2), tCtrl 4 1 10 4 (zeros 16), by decide +kernel⟩,
      ⟨tSt (tPair 2), tCtrl 4 0 10 4 (encBE 4 1 ++ zeros 12), by decide +kernel⟩,
      ⟨tSt (tPair 2), tCtrl 4 0 10 4 (zeros 4 ++ encBE 4 (crc32c []) ++ encBE 4 9 ++ zeros 4), by decide +kernel⟩,
      ⟨tSt { tPair 2 with par := { (tPair 2).par with resync := 1 } }, 0, by decide +kernel⟩,
      ⟨tSt (tPair 1), tCtrl 7 0 10 4 (zeros 8), by decide +kernel⟩,
      ⟨tSt (tPair 1), tOp 0x0A01 1 [], by decide +kernel⟩,
      ⟨tSt (tPar (tPair 1) none (some 9000000) (some 9000000) none), tOp 0x0A03 0 [], by decide +kernel⟩,
      ⟨tSt tRun, tOp 0x0A04 0 [16379], by decide +kernel⟩⟩

theorem test_datasets_are_completed_decided_and_presented :
    (∃ (s : State) (stream time i : Nat) (d : Dataset), ∃ c, s.node.dsIndex stream = some i ∧ s.node.dsAt i = some d ∧ s.node.instants =
      true ∧ d.consumed = false ∧ (s.node.at time).dueCyc (s.node.strm stream) (s.node.sampleOff (s.node.strm stream) d) = some c ∧
      d.sampledCyc ≠ some c) ∧
    (∃ (s : State) (stream time i : Nat) (d : Dataset), ∃ c, s.node.dsIndex stream = some i ∧ s.node.dsAt i = some d ∧ s.node.instants =
      true ∧ d.consumed = false ∧ (s.node.at time).dueCyc (s.node.strm stream) (s.node.sampleOff (s.node.strm stream) d) = some c ∧
      d.sampledCyc = some c) ∧
    (∃ (s : State) (stream time i : Nat) (d : Dataset), ∃ c, s.node.dsIndex stream = some i ∧ s.node.dsAt i = some d ∧ s.node.instants =
      true ∧ d.consumed = false ∧ (s.node.at time).dueCyc (s.node.strm stream) (s.node.sampleOff (s.node.strm stream) d + 1000) = some c ∧
      d.source = 2 ∧ d.doneCyc ≠ some c) ∧
    (∃ (s : State) (ctx i : Nat) (d : Dataset), i < 512 ∧ s.node.admits ctx (Reg.PDT_DS_DONE i) true = true ∧ s.node.dsAt i = some d ∧
      d.consumed = false ∧ d.source = 0) ∧
    (∃ (s : State) (c : Cmd) (d : Dataset), s.node.takes c 0x0403 (.inst instPdt) 5 = true ∧ (s.node.pd.sets.find? fun d => d.stream == arg
      c 0) = some d ∧ d.consumed = false ∧ d.source = 0 ∧ arg c 1 = d.len ∧ c.ctx < 4) ∧
    (∃ (s : State) (r : Rx) (d : Dataset), ((s.node.meets r).rxFail r).isNone = true ∧ 4 ≤ r.port ∧ r.port < 12 ∧ (s.node.heard r).carKind
      r.port = 0 ∧ r.frame.etype = (s.node.heard r).carType ∧ d ∈ (s.node.heard r).pd.sets ∧ d.consumed = false ∧ d.source = 1 ∧
      d.ports.testBit (carPort r.port) = true ∧ ((s.node.heard r).pd.sets.find? fun d => d.stream == beAt r.frame.body 4 2 && !d.consumed
      && d.source == 1) = some d ∧ frameCells r.frame ≤ r.room ∧ beAt r.frame.body 24 2 = d.len ∧ 40 + d.len ≤ r.frame.body.length) ∧
    (∃ (s : State) (r : Rx) (d : Dataset), ((s.node.meets r).rxFail r).isNone = true ∧ 4 ≤ r.port ∧ r.port < 12 ∧ (s.node.heard r).carKind
      r.port = 0 ∧ r.frame.etype = (s.node.heard r).carType ∧ d ∈ (s.node.heard r).pd.sets ∧ d.consumed = false ∧ d.source = 1 ∧
      d.ports.testBit (carPort r.port) = true ∧ ((s.node.heard r).pd.sets.find? fun d => d.stream == beAt r.frame.body 4 2 && !d.consumed
      && d.source == 1) = some d ∧ frameCells r.frame ≤ r.room ∧ beAt r.frame.body 24 2 ≠ d.len) ∧
    (∃ (s : State) (stream time i : Nat) (d : Dataset), ∃ c, s.node.dsIndex stream = some i ∧ s.node.dsAt i = some d ∧ s.node.instants =
      true ∧ d.consumed = true ∧ (s.node.at time).dueCyc (s.node.strm stream) (s.node.decideOff d) = some c ∧ d.decidedCyc ≠ some c) ∧
    (∃ (n : Node) (i : Nat) (d : Dataset) (c : DsCopy), n.dsAt i = some d ∧ d.fresh = some c ∧ (d.limit = 0 ∨ c.age ≤ d.limit) ∧ c.age <
      65536) ∧
    (∃ (n : Node) (i : Nat) (d : Dataset), n.dsAt i = some d ∧ d.fresh = none) ∧
    (∃ (s : State) (stream time i c : Nat) (d : Dataset), s.node.dsIndex stream = some i ∧ s.node.dsAt i = some d ∧ s.node.instants = true
      ∧ (s.node.at time).dueCyc (s.node.strm stream) (d.omega : Int) = some c ∧ d.outCyc = some c) ∧
    (∃ (s : State) (stream time i c : Nat) (d : Dataset), s.node.dsIndex stream = some i ∧ s.node.dsAt i = some d ∧ s.node.instants = true
      ∧ (s.node.at time).dueCyc (s.node.strm stream) (d.omega : Int) = some c ∧ d.outCyc ≠ some c ∧ d.decided = none) ∧
    (∃ (s : State) (stream time i c : Nat) (d : Dataset), ∃ v, s.node.dsIndex stream = some i ∧ s.node.dsAt i = some d ∧ s.node.instants =
      true ∧ (s.node.at time).dueCyc (s.node.strm stream) (d.omega : Int) = some c ∧ d.outCyc ≠ some c ∧ d.decided = some v ∧
      v.status.testBit 17 = false ∧ d.late = false ∧ d.pins = []) ∧
    (∃ (s : State) (stream port time i : Nat) (d : Dataset) (m : Node), m = (s.node.at time).decisionPoint stream ∧ m.dsIndex stream = some
      i ∧ m.dsAt i = some d ∧ m.instants = true ∧ d.consumed = true ∧ 4 ≤ port ∧ port < 12 ∧ d.ports.testBit (carPort port) = true ∧ m.bits
      (Reg.TMB_CARTIME_CFG (carPort port)) 0 2 ≠ 0 ∧ m.paired = false ∧ ((m.carStart stream port).any fun t => m.atOffset t) = true) ∧
    (∃ (s : State) (ctx i : Nat) (d : Dataset), i < 512 ∧ s.node.admits ctx (Reg.PDT_BUF i) false = true ∧ s.node.dsAt i = some d ∧
      d.consumed = true) ∧
    (∃ (s : State) (c : Cmd) (d : Dataset), s.node.takes c 0x0404 (.inst instPdt) 4 = true ∧ (s.node.pd.sets.find? fun d => d.stream == arg
      c 0) = some d ∧ d.consumed = true ∧ c.ctx < 4 ∧ arg c 3 = d.len) ∧
    (∃ (s : State) (c : Cmd), s.node.takes c 0x0401 (.inst instPdt) 0 = true) ∧
    (∃ (s : State) (c : Cmd) (i : Nat), s.node.takes c 0x0402 (.inst instPdt) 1 = true ∧ s.node.dsIndex (arg c 0) = some i) := by
  refine ⟨
      ⟨tSt (tData (tDs 9 false 0) (tDs 10 true 0)), 9, 9, 0, tDs 9 false 0, 1, by decide +kernel⟩,
      ⟨tSt (tData { tDs 9 false 0 with sampledCyc := some 1 } (tDs 10 true 0)), 9, 9, 0, { tDs 9 false 0 with sampledCyc := some 1 }, 1,
        by decide +kernel⟩,
      ⟨tSt (tData (tDs 9 false 2) (tDs 10 true 0)), 9, 1009, 0, tDs 9 false 2, 1, by decide +kernel⟩,
      ⟨tSt (tData (tDs 9 false 0) (tDs 10 true 0)), 0, 0, tDs 9 false 0, by decide +kernel⟩,
      ⟨tSt (tData (tDs 9 false 0) (tDs 10 true 0)), { tOp 0x0403 0 [9, 8] with data := encBE 8 0x0102030405060708 }, tDs 9 false 0,
        by decide +kernel⟩,
      ⟨tSt (tCarPort (tData (tDs 9 false 1) (tDs 10 true 0))), tCarFrame 8, tDs 9 false 1, by decide +kernel⟩,
      ⟨tSt (tCarPort (tData (tDs 9 false 1) (tDs 10 true 0))), tCarFrame 9, tDs 9 false 1, by decide +kernel⟩,
      ⟨tSt (tData (tDs 9 false 0) (tDs 10 true 0)), 10, 499500, 1, tDs 10 true 0, 0, by decide +kernel⟩,
      ⟨tData (tDs 9 false 0) { tDs 10 true 0 with fresh := some ⟨0, 4, zeros 36, encBE 8 0x0102030405060708⟩ }, 1,
        { tDs 10 true 0 with fresh := some ⟨0, 4, zeros 36, encBE 8 0x0102030405060708⟩ }, DsCopy.mk 0 4 (zeros 36) (encBE 8
        0x0102030405060708), by decide +kernel⟩,
      ⟨tData (tDs 9 false 0) (tDs 10 true 0), 1, tDs 10 true 0, by decide +kernel⟩,
      ⟨tSt (tData (tDs 9 false 0) { tDs 10 true 0 with outCyc := some 0 }), 10, 500000, 1, 0, { tDs 10 true 0 with outCyc := some 0 },
        by decide +kernel⟩,
      ⟨tSt (tData (tDs 9 false 0) (tDs 10 true 0)), 10, 500000, 1, 0, tDs 10 true 0, by decide +kernel⟩,
      ⟨tSt (tData (tDs 9 false 0) { tDs 10 true 0 with decided := some ⟨0x10000, zeros 36, zeros 8⟩ }), 10, 500000, 1, 0,
        { tDs 10 true 0 with decided := some ⟨0x10000, zeros 36, zeros 8⟩ }, DsView.mk 0x10000 (zeros 36) (zeros 8), by decide +kernel⟩,
      ⟨tSt tCarDue, 10, 4, 30000, 1, { tDs 10 true 0 with decidedCyc := some 0 }, (tCarDue.at 30000).decisionPoint 10, by decide +kernel⟩,
      ⟨tSt tCarDue, 0, 1, { tDs 10 true 0 with decidedCyc := some 0 }, by decide +kernel⟩,
      ⟨tSt tCarDue, tOp 0x0404 0 [10, 64, 0, 8], { tDs 10 true 0 with decidedCyc := some 0 }, by decide +kernel⟩,
      ⟨tSt tCarDue, tOp 0x0401 0 [], by decide +kernel⟩,
      ⟨tSt tCarDue, tOp 0x0402 0 [10], 1, by decide +kernel⟩⟩

theorem test_discrete_lines_act :
    (∃ (s : State) (line : Nat) (level : Bool), line < 32 ∧ s.node.fld (Reg.DIO_LN_CFG line) Fld.DIO_LN_CFG_DIR = 0 ∧ s.node.lineLevel line
      ≠ level ∧ (∀ x ∈ s.node.aud.stations, x.line ≠ line ∧ x.answer ≠ line)) ∧
    (∃ (s : State) (line : Nat), (36 ≤ line ∨ s.node.fld (Reg.DIO_LN_CFG line) Fld.DIO_LN_CFG_DIR = 1)) ∧
    (∃ (n : Node), n.pd.edgeOvf = false ∧ n.pd.edges.length < 256) ∧
    (∃ (n : Node), n.pd.edgeOvf = false ∧ 256 ≤ n.pd.edges.length) ∧
    (∃ (s : State) (line time : Nat), line < 32 ∧ 0 < s.node.bits (Reg.DIO_LN_STUCK_T line) 0 10 ∧ s.node.lineActive line = true ∧
      s.node.lineStuck line = false ∧ s.node.fld (Reg.DIO_LN_CFG line) Fld.DIO_LN_CFG_DIR = 0 ∧ (s.node.line line).activeAt + s.node.bits
      (Reg.DIO_LN_STUCK_T line) 0 10 * 1000000000 ≤ max s.node.tm.raw time) ∧
    (∃ (s : State) (i time : Nat), i < 4 ∧ 0 < s.node.bits (Reg.DIO_LN_STUCK_T (32 + i)) 0 10 ∧ s.node.lineActive (32 + i) = true ∧
      s.node.lineStuck (32 + i) = false ∧ s.node.fld (Reg.DIO_LN_CFG (32 + i)) Fld.DIO_LN_CFG_DIR = 0 ∧ (s.node.line (32 + i)).activeAt +
      s.node.bits (Reg.DIO_LN_STUCK_T (32 + i)) 0 10 * 1000000000 ≤ max s.node.tm.raw time) ∧
    (∃ (s : State) (line time : Nat), line < 36 ∧ s.node.lineStorm line = true ∧ (((s.node.at time).line line).upTo ((s.node.at
      time).subNow line - 1)).total ≤ s.node.stormN line / 2) ∧
    (∃ (s : State) (ctx : Nat), s.node.admits ctx Reg.DIO_OUT_SET true = true) ∧
    (∃ (s : State) (ctx : Nat), s.node.admits ctx Reg.DIO_OUT_CLR true = true) ∧
    (∃ (s : State) (line time : Nat) (level : Bool), (s.node.pd.driven.find? fun x => x.1 == line && decide ((s.node.line line).drivenAt +
      12000 ≤ max s.node.tm.raw time)) = some (line, level) ∧ (s.node.line line).readbackBad = false) ∧
    (∃ (s : State) (c : Cmd), s.node.takes c 0x0405 (.inst instDio) 2 = true ∧ arg c 0 < 32 ∧ arg c 1 < 2 ∧ s.node.fld (Reg.DIO_LN_CFG (arg
      c 0)) Fld.DIO_LN_CFG_DIR ≠ 0 ∧ s.node.fld (Reg.DIO_LN_CFG (arg c 0)) Fld.DIO_LN_CFG_OWNER ≠ 1) ∧
    (∃ (s : State) (c : Cmd), s.node.takes c 0x0406 (.inst instDio) 0 = true) := by
  refine ⟨
      ⟨tSt tRun, 31, true, by decide +kernel⟩,
      ⟨tSt tRun, 36, by decide +kernel⟩,
      ⟨tRun, by decide +kernel⟩,
      ⟨{ tRun with pd := { tRun.pd with edges := List.replicate 256 ⟨3, true, false, 0, 9#32⟩ } }, by decide +kernel⟩,
      ⟨tSt (tRegs tRun [(Reg.DIO_LN_STUCK_T 31, 1), (Reg.DIO_IN, 0x80000000), (Reg.DIO_LN_CFG 31, 0)]), 31, 1000000000, by decide +kernel⟩,
      ⟨tSt (tRegs tRun [(Reg.DIO_LN_STUCK_T 32, 1), (Reg.DIO_WAKE, 1), (Reg.DIO_LN_CFG 32, 0)]), 0, 1000000000, by decide +kernel⟩,
      ⟨tSt (tRegs tRun [(Reg.DIO_STORM, 0x80000000)]), 31, 1000000000, by decide +kernel⟩,
      ⟨tSt (tRegs tRun [(Reg.DIO_STORM, 0x80000000)]), 0, by decide +kernel⟩,
      ⟨tSt (tRegs tRun [(Reg.DIO_STORM, 0x80000000)]), 0, by decide +kernel⟩,
      ⟨tSt { tRun with pd := { tRun.pd with driven := [(4, true)] } }, 4, 1000000000, true, by decide +kernel⟩,
      ⟨tSt (tRegs tRun [(Reg.DIO_LN_CFG 31, 1)]), tOp 0x0405 0 [31, 1], by decide +kernel⟩,
      ⟨tSt (tRegs tRun [(Reg.DIO_LN_CFG 31, 1)]), tOp 0x0406 0 [], by decide +kernel⟩⟩

theorem test_announcements_are_made_and_played :
    (∃ (s : State) (c : Cmd) (start : Nat), ∃ e, paFieldsOk c = true ∧ s.node.st = stRun ∧ (s.node.at c.time).startOf (arg c 3 % 256) (arg
      c 4) (arg c 5) = some start ∧ s.node.takesService c 0x0502 7 = true ∧ s.node.libEntry (arg c 0) = some e) ∧
    (∃ (s : State) (c : Cmd) (start : Nat), ∃ e, paFieldsOk c = true ∧ s.node.st = stRun ∧ (s.node.at c.time).startOf (arg c 3 % 256) (arg
      c 4) (arg c 5) = some start ∧ s.node.takesService c 0x0503 7 = true ∧ e = s.node.strm (arg c 0) ∧ 0 < arg c 0 ∧ arg c 0 < 16380 ∧
      e.valid = true ∧ e.cls = 1 ∧ s.node.ownStream e = true ∧ (e.state = 2 ∨ e.state = 3 ∨ e.state = 4)) ∧
    (∃ (s : State) (c : Cmd) (start : Nat), paFieldsOk c = true ∧ s.node.st = stRun ∧ (s.node.at c.time).startOf (arg c 3 % 256) (arg c 4)
      (arg c 5) = some start ∧ s.node.takesService c 0x0504 7 = true ∧ (s.node.aud.chimes.any fun x => x.index == arg c 0) = true) ∧
    (∃ (s : State) (c : Cmd) (stop : Nat), s.node.takesService c 0x0505 6 = true ∧ arg c 1 = 0 ∧ arg c 2 = 0 ∧ (s.node.at c.time).startOf
      (arg c 3) (arg c 4) (arg c 5) = some stop ∧ s.node.aud.issued.contains (arg c 0) = true) ∧
    (∃ (s : State) (r : Rx) (src : NumEntry), s.node.getsMsg r src = true ∧ s.node.svcRange (decodeHdr r.frame.body).sid = true) ∧
    (∃ (n : Node) (b : List Byte) (p : Nat), 1 ≤ byteAt b 0 ∧ byteAt b 0 ≤ 3 ∧ (n.aud.reqs.any fun q => q.is (beAt b 4 6) (beAt b 10 2)) =
      false ∧ (n.zonesHeld.filter fun z => (beAt b 12 2).testBit z) ≠ [] ∧ n.posIn (beAt b 18 2) = some p ∧ beAt b 14 2 % 1024 ≤ p ∧ p ≤
      beAt b 16 2 % 1024 ∧ n.sampleNow + 8 ≤ beAt b 20 8) ∧
    (∃ (s : State) (who tag time : Nat) (q : PaReq), (s.node.aud.reqs.find? fun q => q.is who tag) = some q ∧ q.started = false ∧ q.start ≤
      (s.node.at time).sampleNow ∧ s.node.engFailed 1 = false) ∧
    (∃ (s : State) (who tag time : Nat) (q : PaReq), ∃ stop, (s.node.aud.reqs.find? fun q => q.is who tag) = some q ∧ q.stop = some stop ∧
      stop ≤ (s.node.at time).sampleNow ∧ (q.started = true → ∀ e, (s.node.at time).reqFin q = some e → (s.node.at time).sampleNow < e)) ∧
    (∃ (s : State) (who tag time : Nat) (q : PaReq), ∃ e, (s.node.aud.reqs.find? fun q => q.is who tag) = some q ∧ q.stop = none ∧
      q.started = true ∧ (s.node.at time).reqFin q = some e ∧ e ≤ (s.node.at time).sampleNow) ∧
    (∃ (s : State) (who tag time : Nat) (q : PaReq), (s.node.aud.reqs.find? fun q => q.is who tag) = some q ∧ q.stop = none ∧ (s.node.at
      time).reqFin q = none) := by
  refine ⟨
      ⟨tSt tAud, tOp 0x0502 0 (tPa 5), 145, LibEntry.mk 5 0 0 480 960 0x1234 0 0 true false [], by decide +kernel⟩,
      ⟨tSt (tAud.putStrm 12 { tStrm tOwn with cls := 1 }), tOp 0x0503 0 (tPa 12), 145, ({ tStrm tOwn with cls := 1 } : Strm),
        by decide +kernel⟩,
      ⟨tSt tAud, tOp 0x0504 0 (tPa 2), 145, by decide +kernel⟩,
      ⟨tSt tAud, tOp 0x0505 0 [9, 0, 0, 0, 0, 0], 145, by decide +kernel⟩,
      ⟨tSt (tTo tAud 200), tMsg 200 (paBytes 1 0 0 false 0 tFar 7 1 0 1023 5 5000 5 0 0x1234 0), tEntry tFar 1 1, by decide +kernel⟩,
      ⟨tAud, paBytes 1 0 0 false 0 tFar 7 1 0 1023 5 5000 5 0 0x1234 0, 2, by decide +kernel⟩,
      ⟨tSt (tHold (tPaReq 1 false none)), tFar, 7, 9, tPaReq 1 false none, by decide +kernel⟩,
      ⟨tSt (tHold (tPaReq 1 true (some 0))), tFar, 7, 9, tPaReq 1 true (some 0), 0, by decide +kernel⟩,
      ⟨tSt (tHold (tPaReq 1 true none)), tFar, 7, 1000000000, tPaReq 1 true none, 480, by decide +kernel⟩,
      ⟨tSt (tHold (tPaReq 2 true none)), tFar, 7, 1000000000, tPaReq 2 true none, by decide +kernel⟩⟩

theorem test_audio_streams_and_the_library_act :
    (∃ (s : State) (stream time cyc : Nat) (e : Strm), e = s.node.strmLive stream ∧ e.valid = true ∧ e.cls = 1 ∧ s.node.isDest e = true ∧
      (s.node.at time).audioDue e = some cyc ∧ (s.node.audioIn stream).decided ≠ some cyc ∧ (s.node.audioIn stream).got = none) ∧
    (∃ (s : State) (stream time cyc : Nat) (e : Strm), ∃ p, e = s.node.strmLive stream ∧ e.valid = true ∧ e.cls = 1 ∧ s.node.isDest e =
      true ∧ (s.node.at time).audioDue e = some cyc ∧ (s.node.audioIn stream).decided ≠ some cyc ∧ (s.node.audioIn stream).got = some (cyc,
      p) ∧ byteAt p 1 = b2n s.node.aud.global.rate16) ∧
    (∃ (s : State) (stream time : Nat), ((s.node.at time).audioDue (s.node.strmLive stream) = none ∨ (s.node.at time).audioDue
      (s.node.strmLive stream) = (s.node.audioIn stream).decided)) ∧
    (∃ (engine : Nat), engine < 8) ∧
    (∃ (s : State) (port : Nat), port < 4 ∧ s.node.bit Reg.AUD_CFG (4 + port) = true ∧ s.node.fld (Reg.AUD_TDM_CFG port)
      Fld.AUD_TDM_CFG_MASTER = 0) ∧
    (∃ (s : State) (c : Cmd) (x : Element) (width : Nat) (lo hi : Int) (ps : List (Nat × Nat × Int × Int)), s.node.takesService c 0x0506 6
      = true ∧ (s.node.aud.elements.find? fun x => x.graph == arg c 0 % 256 && x.elem == arg c 0 / 256 % 256) = some x ∧ elementParams
      x.type = some ps ∧ (ps.find? fun p => p.1 == arg c 1) = some (arg c 1, width, lo, hi) ∧ 0 ≤ lo ∧ arg c 0 < 65536 ∧ arg c 3 = 1 ∧ arg
      c 2 = leAt (encLE 4 (arg c 2)) 0 width ∧ paramOk x.type (arg c 1) width lo hi (encLE 4 (arg c 2)) = true) ∧
    (∃ (s : State) (time : Nat) (p : ParamSet), s.node.aud.params = [p] ∧ (s.node.at time).blockFrom p.sample ≤ (s.node.at time).sampleNow) ∧
    (∃ (s : State) (c : Cmd) (e : LibEntry) (bytes : List Byte), s.node.takesService c 0x0507 6 = true ∧ s.node.libEntry (arg c 0) = some e
      ∧ arg c 1 + arg c 2 ≤ e.len ∧ s.node.sourceBytes c (arg c 3) (arg c 4 + arg c 5 * 2 ^ 32) (arg c 2) = some bytes) ∧
    (∃ (s : State) (entry : Nat) (e : LibEntry), s.node.libEntry entry = some e ∧ e.unverified = true ∧ crc32c (s.node.dramRead
      ((s.node.region 1).1 + e.offset) e.len) = e.crc) ∧
    (∃ (s : State) (c : Cmd) (e : LibEntry), s.node.takesService c 0x0508 1 = true ∧ s.node.libEntry (arg c 0) = some e) ∧
    (∃ (s : State) (c : Cmd), s.node.takes c 0x0501 (.inst instAud) 0 = true ∧ s.node.bit Reg.TOP_PD_STATE 4 = true) ∧
    (∃ (s : State) (r : Rx) (f : AafStream), ((s.node.meets r).rxFail r).isNone = true ∧ ((s.node.heard r).aud.aafs.find? fun f =>
      !f.output && f.port + 4 == r.port && f.talker == beAt r.frame.body 4 8) = some f ∧ r.frame.etype = aafType ∧ frameCells r.frame ≤
      r.room ∧ (s.node.heard r).aafBad r.frame.body = true) ∧
    (∃ (s : State) (r : Rx) (f : AafStream) (d : Int), ((s.node.meets r).rxFail r).isNone = true ∧ ((s.node.heard r).aud.aafs.find? fun f
      => !f.output && f.port + 4 == r.port && f.talker == beAt r.frame.body 4 8) = some f ∧ r.frame.etype = aafType ∧ frameCells r.frame ≤
      r.room ∧ (s.node.heard r).aafBad r.frame.body = false ∧ d = (BitVec.ofInt 32 ((beAt r.frame.body 12 4 : Int) - (s.node.heard
      r).trainNs)).toInt ∧ -(2 * ((s.node.heard r).tc : Int)) ≤ d ∧ d ≤ 16 * ((s.node.heard r).tc : Int)) ∧
    (∃ (s : State) (index time : Nat) (f : AafStream), (s.node.aud.aafs.find? fun f => f.output && f.index == index) = some f ∧
      s.node.instants = true ∧ s.node.carSends (f.port + 4) = true ∧ (s.node.at time).timeService (f.port + 4) ≠ 0 ∧ f.sentCyc ≠ some
      (s.node.at time).cycleNow ∧ f.seq < 256) ∧
    (∃ (s : State) (index time : Nat) (f : AafStream), (s.node.aud.aafs.find? fun f => f.output && f.index == index) = some f ∧
      s.node.instants = true ∧ s.node.carSends (f.port + 4) = true ∧ (s.node.at time).timeService (f.port + 4) ≠ 0 ∧ f.sentCyc = some
      (s.node.at time).cycleNow) := by
  refine ⟨
      ⟨tSt (tAudio none), 13, 950000, 0, (tAudio none).strm 13, by decide +kernel⟩,
      ⟨tSt (tAudio (some (0, zeros 98))), 13, 950000, 0, (tAudio none).strm 13, zeros 98, by decide +kernel⟩,
      ⟨tSt (tAudio (some (0, zeros 98))), 13, 9, by decide +kernel⟩,
      ⟨7, by decide +kernel⟩,
      ⟨tSt (tRegs tAud [(Reg.AUD_CFG, 0x80)]), 3, by decide +kernel⟩,
      ⟨tSt tAud, tOp 0x0506 0 [0, 1, 32, 1, 7, 0], ⟨0, 0, 1, zeros 8⟩, 1, 1, 32, [(0, 1, 0, 255), (1, 1, 1, 32), (2, 2, -960, 240)],
        by decide +kernel⟩,
      ⟨tSt { tAud with aud := { tAud.aud with params := [⟨0, 0, 1, 1, 5, 0⟩] } }, 9, ⟨0, 0, 1, 1, 5, 0⟩, by decide +kernel⟩,
      ⟨tSt tAud, { tOp 0x0507 0 [5, 952, 8, 1] with data := zeros 8 }, LibEntry.mk 5 0 0 480 960 0x1234 0 0 true false [], zeros 8,
        by decide +kernel⟩,
      ⟨tSt { tAud with aud := { tAud.aud with lib := [⟨5, 0, 0, 4, 8, crc32c (zeros 8), 0, 0, false, true, []⟩] } }, 5, ⟨5, 0, 0, 4, 8,
        crc32c (zeros 8), 0, 0, false, true, []⟩, by decide +kernel⟩,
      ⟨tSt tAud, tOp 0x0508 0 [5], LibEntry.mk 5 0 0 480 960 0x1234 0 0 true false [], by decide +kernel⟩,
      ⟨tSt tAud, tOp 0x0501 0 [], by decide +kernel⟩,
      ⟨tSt tAafs, tAaf 3, ⟨0, false, 0, 1, 2, 0, 0x91E0F0000001, 0, 0x99, 0, none, none⟩, by decide +kernel⟩,
      ⟨tSt tAafs, tAaf 2, ⟨0, false, 0, 1, 2, 0, 0x91E0F0000001, 0, 0x99, 0, none, none⟩, 0, by decide +kernel⟩,
      ⟨tSt (tAafs.setFld Reg.PAR_TOKEN Fld.PAR_TOKEN_STATE 3), 1, 9, ⟨1, true, 0, 1, 2, 0, 0x91E0F0000002, 0, 0, 255, none, none⟩,
        by decide +kernel⟩,
      ⟨tSt (({ tAafs with aud := { tAafs.aud with aafs := [⟨1, true, 0, 1, 2, 0, 0x91E0F0000002, 0, 0, 255, none, some 0⟩] } } :
        Node).setFld Reg.PAR_TOKEN Fld.PAR_TOKEN_STATE 3), 1, 9, ⟨1, true, 0, 1, 2, 0, 0x91E0F0000002, 0, 0, 255, none, some 0⟩,
        by decide +kernel⟩⟩

theorem test_calls_are_handled :
    (∃ (s : State) (r : Rx) (src : NumEntry), s.node.getsMsg r src = true ∧ s.node.svcRange (decodeHdr r.frame.body).sid = true) ∧
    (∃ (s : State) (station time : Nat) (c : Call), (s.node.aud.mine.find? fun c => c.station == station && c.state == 1 && decide (c.since
      + 1000000000 ≤ max s.node.tm.raw time)) = some c ∧ s.node.holder = true ∧ s.node.servicesOn = true) ∧
    (∃ (s : State) (pair station counter time : Nat) (c : Call), (s.node.aud.calls.find? fun c => c.is pair station counter && c.state == 2
      && !c.esc && decide (c.since + s.node.aud.global.escalation * 1000000000 ≤ max s.node.tm.raw time)) = some c ∧ s.node.holder = true ∧
      s.node.servicesOn = true) ∧
    (∃ (s : State) (station time : Nat) (r : Recording), (s.node.aud.recordings.find? fun r => r.station == station) = some r ∧ r.fin =
      none ∧ r.next + s.node.fs / 4 ≤ (s.node.at time).sampleNow ∧ s.node.holder = false) ∧
    (∃ (s : State) (station time slot : Nat) (r : Recording), (s.node.aud.recordings.find? fun r => r.station == station) = some r ∧ r.fin
      = none ∧ r.next + s.node.fs / 4 ≤ (s.node.at time).sampleNow ∧ s.node.holder = true ∧ s.node.nextRec = some slot) ∧
    (∃ (s : State) (c : Cmd), s.node.takes c 0x0601 (.inst instAud) 1 = true ∧ s.node.bit Reg.TOP_PD_STATE 4 = true ∧ arg c 0 < 16) ∧
    (∃ (s : State) (c : Cmd) (x : Call), s.node.takesService c 0x0602 3 = true ∧ (s.node.aud.stations.any fun x => x.cab && x.index == arg
      c 2) = true ∧ s.node.isCab = true ∧ s.node.holder = true ∧ arg c 0 = 0 ∧ s.node.oldestRinging = some x) ∧
    (∃ (s : State) (c : Cmd) (x : Call), s.node.holder = true ∧ s.node.takesService c 0x0603 2 = true ∧ (s.node.aud.calls.find? fun x =>
      handleIs c x && x.state == 3) = some x) ∧
    (∃ (s : State) (c : Cmd) (x : Call), s.node.holder = true ∧ s.node.takesService c 0x0604 2 = true ∧ s.node.aud.calls.find? (handleIs c)
      = some x) ∧
    (∃ (s : State) (c : Cmd) (x : Call), s.node.holder = true ∧ s.node.takesService c 0x0604 2 = true ∧ s.node.aud.calls.find? (handleIs c)
      = none ∧ s.node.aud.mine.find? (handleIs c) = some x) ∧
    (∃ (s : State) (c : Cmd), s.node.takesService c 0x0605 1 = true ∧ arg c 0 = 0) ∧
    (∃ (s : State) (c : Cmd), s.node.takesService c 0x0606 3 = true ∧ s.node.recOfCall c ≠ [] ∧ arg c 2 = 1) ∧
    (∃ (s : State) (c : Cmd) (x : RecSlot), s.node.takesService c 0x0607 2 = true ∧ s.node.recOfCall c = [x]) := by
  refine ⟨
      ⟨tSt (tTo tAud 203), tMsg 203 ((tCall 1).bytes 8 0), tEntry tFar 1 1, by decide +kernel⟩,
      ⟨tSt (tCalls [] [tCall 1]), 1, 1000000000, tCall 1, by decide +kernel⟩,
      ⟨tSt (tCalls [tCall 2] []), 77, 1, 3, 30000000000, tCall 2, by decide +kernel⟩,
      ⟨tSt (tRec none 2 []), 1, 2000000000, ⟨77, 1, 3, 12000, 0, none⟩, by decide +kernel⟩,
      ⟨tSt (tRec none 3 []), 1, 2000000000, 0, ⟨77, 1, 3, 12000, 0, none⟩, by decide +kernel⟩,
      ⟨tSt tAud, tOp 0x0601 0 [15], by decide +kernel⟩,
      ⟨tSt (tCalls [tCall 2] []), tOp 0x0602 0 [0, 0, 4], tCall 2, by decide +kernel⟩,
      ⟨tSt (tCalls [tCall 3] []), tOp 0x0603 0 [77, 0x301], tCall 3, by decide +kernel⟩,
      ⟨tSt (tCalls [tCall 3] []), tOp 0x0604 0 [77, 0x301], tCall 3, by decide +kernel⟩,
      ⟨tSt (tCalls [] [tCall 3]), tOp 0x0604 0 [77, 0x301], tCall 3, by decide +kernel⟩,
      ⟨tSt (tCalls [] [tCall 3]), tOp 0x0605 0 [0], by decide +kernel⟩,
      ⟨tSt (tRec none 3 [⟨4, 77, 1, 3, 0, false⟩]), tOp 0x0606 0 [77, 0x301, 1], by decide +kernel⟩,
      ⟨tSt (tRec none 3 [⟨4, 77, 1, 3, 0, false⟩]), tOp 0x0607 0 [77, 0x301], ⟨4, 77, 1, 3, 0, false⟩, by decide +kernel⟩⟩

theorem test_frames_cross_the_can_bus :
    (∃ (s : State) (c : Nat) (f : CanFrame), s.node.canLive c = true ∧ (s.node.ctl c).loop ≠ 1 ∧ (f.fdf = false ∨ s.node.canFd c = true)) ∧
    (∃ (s : State) (c : Nat) (f : CanFrame), s.node.canLive c = true ∧ (s.node.ctl c).loop ≠ 1 ∧ f.fdf = true ∧ s.node.canFd c = false) ∧
    (∃ (n : Node) (c f : Nat), c < n.can.length ∧ f < (n.ctl c).fifos.length ∧ ((n.ctl c).fifos.getD f []).length < 64) ∧
    (∃ (s : State) (c i sof time : Nat) (obj : Bool) (e : TxEntry), (s.node.at time).outranked c obj i sof = false ∧ (s.node.at
      time).attempted c obj i = some e ∧ (s.node.ctl c).loop = 0) ∧
    (∃ (s : State) (c i time : Nat) (obj : Bool) (e : TxEntry), (s.node.at time).attempted c obj i = some e) ∧
    (∃ (s : State) (c i time : Nat) (obj : Bool) (e : TxEntry), (s.node.at time).attempted c obj i = some e ∧ e.cancel = false) ∧
    (∃ (s : State) (c : Nat), s.node.canLive c = true) ∧
    (∃ (s : State) (c : Nat), s.node.canOn c = true ∧ s.node.bit Reg.PCR_PLL_STAT 5 = true ∧ (s.node.ctl c).integ = true) ∧
    (∃ (s : State) (c : Nat), s.node.canOn c = true ∧ (s.node.ctl c).off = true ∧ (s.node.ctl c).recovering = true ∧ (s.node.ctl c).dom =
      false) ∧
    (∃ (s : State) (c : Nat), s.node.canOn c = true ∧ (s.node.ctl c).dom = false ∧ (s.node.ctl c).loop ≠ 1) ∧
    (∃ (s : State) (c : Nat), s.node.canOn c = true ∧ (s.node.ctl c).dom = true) ∧
    (∃ (s : State) (c : Nat), ∃ q, s.node.canOn c = true ∧ q < 4) ∧
    (∃ (s : State) (c kind i time : Nat) (l : CanLock), s.node.canLock c kind i = some l ∧ l.since + 1000000 ≤ max s.node.tm.raw time) := by
  refine ⟨
      ⟨tSt tCan, 0, tCanFrame true, by decide +kernel⟩,
      ⟨tSt (tCanWith 1 tCanCtl), 0, tCanFrame true, by decide +kernel⟩,
      ⟨tCan, 0, 1, by decide +kernel⟩,
      ⟨tSt (tCanQ 1), 0, 0, 5, 9, false, tTx 9, by decide +kernel⟩,
      ⟨tSt (tCanQ 1), 0, 0, 9, false, tTx 9, by decide +kernel⟩,
      ⟨tSt (tCanQ 1), 0, 0, 9, false, tTx 9, by decide +kernel⟩,
      ⟨tSt (tCanQ 1), 0, by decide +kernel⟩,
      ⟨tSt (tCanWith 1 { tCanCtl with integ := true }), 0, by decide +kernel⟩,
      ⟨tSt (tCanWith 1 { tCanCtl with off := true, recovering := true }), 0, by decide +kernel⟩,
      ⟨tSt tCan, 0, by decide +kernel⟩,
      ⟨tSt (tCanWith 1 { tCanCtl with dom := true }), 0, by decide +kernel⟩,
      ⟨tSt (tCanWith 1 { tCanCtl with dom := true }), 0, 3, by decide +kernel⟩,
      ⟨tSt (tCanWith 1 { tCanCtl with locks := [⟨0, 1, 0, 4⟩] }), 0, 0, 1, 1000004, ⟨0, 1, 0, 4⟩, by decide +kernel⟩⟩

theorem test_can_registers_and_commands_act :
    (∃ (s : State) (ctx c q : Nat), c < 4 ∧ q < 4 ∧ s.node.admits ctx (Reg.CAN_TXQ_WIN c q + 80) true = true ∧ s.node.canCompat c = false ∧
      s.node.queueOwner c q = some ctx ∧ (s.node.txq c q).length < 64) ∧
    (∃ (s : State) (ctx c : Nat), c < 4 ∧ s.node.admits ctx (Reg.CAN_TX_CANCEL c) true = true) ∧
    (∃ (s : State) (ctx c w : Nat), c < 4 ∧ w < 4 ∧ s.node.admits ctx (Reg.CAN_OBJ_CANCEL c w) true = true) ∧
    (∃ (s : State) (ctx c w : Nat), c < 4 ∧ w < 4 ∧ s.node.admits ctx (Reg.CAN_OBJ_TXREQ c w) true = true) ∧
    (∃ (s : State) (ctx c o i : Nat), c < 4 ∧ o < 128 ∧ i < 20 ∧ s.node.admits ctx (Reg.CAN_OBJ c o + 4 * i) true = true ∧ s.node.canCompat
      c = true ∧ s.node.objFlag c o 4 = false ∧ s.node.canLock c 1 o = none) ∧
    (∃ (s : State) (ctx c kind i : Nat), canNamed c kind i = true ∧ s.node.admits ctx (canEntryAddr c kind i) false = true ∧
      s.node.canEntry c kind i = true ∧ s.node.canLock c kind i = none ∧ c < s.node.can.length) ∧
    (∃ (s : State) (ctx c kind i : Nat), canNamed c kind i = true ∧ s.node.admits ctx (canEntryAddr c kind i + canLastOff kind) false =
      true ∧ s.node.canEntry c kind i = true ∧ (∀ l, s.node.canLock c kind i = some l → l.ctx = ctx)) ∧
    (∃ (s : State) (ctx c : Nat), c < 4 ∧ s.node.admits ctx (Reg.CAN_CTRL c) true = true) ∧
    (∃ (s : State) (c : Cmd), arg c 0 < 4 ∧ s.node.takes c 0x0701 (.inst (instCan (arg c 0 % 4))) 1 = true) ∧
    (∃ (s : State) (c : Cmd), arg c 0 < 4 ∧ s.node.takes c 0x0704 (.inst (instCan (arg c 0 % 4))) 1 = true ∧ (s.node.ctl (arg c 0)).off =
      true) ∧
    (∃ (s : State) (c : Cmd), arg c 0 < 4 ∧ s.node.takes c 0x0705 (.inst (instCan (arg c 0 % 4))) 1 = true) ∧
    (∃ (s : State) (c : Cmd), s.node.takes c 0x0702 (.inst (instCan (arg c 0 % 4))) 8 = true ∧ arg c 0 < 4 ∧ c.ctx < 4 ∧ s.node.canCompat
      (arg c 0) = false ∧ s.node.queueOwner (arg c 0) 0 = some c.ctx ∧ arg c 7 = dlcLen (arg c 2 % 16) ((arg c 2).testBit 4) ∧ (s.node.txq
      (arg c 0) 0).length < 64) ∧
    (∃ (s : State) (c : Cmd), s.node.takes c 0x0702 (.inst (instCan (arg c 0 % 4))) 8 = true ∧ arg c 0 < 4 ∧ c.ctx < 4 ∧ s.node.canCompat
      (arg c 0) = false ∧ s.node.queueOwner (arg c 0) 0 = some c.ctx ∧ arg c 7 = dlcLen (arg c 2 % 16) ((arg c 2).testBit 4) ∧ 64 ≤
      (s.node.txq (arg c 0) 0).length) ∧
    (∃ (s : State) (c : Cmd) (onBus : Bool), ∃ k, s.node.takes c 0x0703 (.inst (instCan (arg c 0 % 4))) 2 = true ∧ arg c 0 < 4 ∧ arg c 1 <
      65536 ∧ (s.node.at c.time).cancelQueued (arg c 0) 0 (arg c 1) onBus = (k, some true)) ∧
    (∃ (s : State) (c : Cmd) (onBus : Bool), ∃ k, s.node.takes c 0x0703 (.inst (instCan (arg c 0 % 4))) 2 = true ∧ arg c 0 < 4 ∧ arg c 1 <
      65536 ∧ (s.node.at c.time).cancelQueued (arg c 0) 0 (arg c 1) onBus = (k, some false)) ∧
    (∃ (s : State) (c : Cmd), s.node.takes c 0x0706 (.inst (instCan (arg c 0 % 4))) 2 = true ∧ arg c 0 < 4 ∧ arg c 1 ≤ 3) := by
  refine ⟨
      ⟨tSt (tCanQ 63), 0, 0, 0, by decide +kernel⟩,
      ⟨tSt (tCanQ 2), 0, 0, by decide +kernel⟩,
      ⟨tSt (tCanWith 3 tCanCtl), 0, 0, 3, by decide +kernel⟩,
      ⟨tSt (tCanWith 3 tCanCtl), 0, 0, 3, by decide +kernel⟩,
      ⟨tSt (tCanWith 3 tCanCtl), 0, 0, 127, 19, by decide +kernel⟩,
      ⟨tSt (tCanWith 5 { tCanCtl with fifos := [[List.replicate 20 1#32], []] }), 0, 0, 0, 0, by decide +kernel⟩,
      ⟨tSt (tCanWith 5 { tCanCtl with fifos := [[List.replicate 20 1#32], []] }), 0, 0, 0, 0, by decide +kernel⟩,
      ⟨tSt (tCanWith 5 { tCanCtl with fifos := [[List.replicate 20 1#32], []] }), 0, 0, by decide +kernel⟩,
      ⟨tSt (tCanWith 5 { tCanCtl with fifos := [[List.replicate 20 1#32], []] }), tOp 0x0701 0 [0], by decide +kernel⟩,
      ⟨tSt (tCanWith 1 { tCanCtl with off := true }), tOp 0x0704 0 [0], by decide +kernel⟩,
      ⟨tSt (tCanWith 1 { tCanCtl with off := true }), tOp 0x0705 0 [0], by decide +kernel⟩,
      ⟨tSt (tCanQ 63), { tOp 0x0702 0 [0, 0x123, 0x90008, 0, 0, 0, 0, 8] with data := zeros 8 }, by decide +kernel⟩,
      ⟨tSt (tCanQ 64), { tOp 0x0702 0 [0, 0x123, 0x90008, 0, 0, 0, 0, 8] with data := zeros 8 }, by decide +kernel⟩,
      ⟨tSt (tCanQ 2), tOp 0x0703 0 [0, 9], false, ((tCanQ 2).at 1000 |>.cancelQueued 0 0 9 false).1, by decide +kernel⟩,
      ⟨tSt (tCanQ 2), tOp 0x0703 0 [0, 9], true, ((tCanQ 2).at 1000 |>.cancelQueued 0 0 9 true).1, by decide +kernel⟩,
      ⟨tSt (tCanQ 2), tOp 0x0706 0 [0, 3], by decide +kernel⟩⟩

theorem test_the_bridge_carries_and_performs :
    (∃ (s : State) (stream c time : Nat) (x : TunOut), (s.node.brg.tunOut.find? fun t => t.stream == stream && t.ctl == c) = some x ∧
      frameRecords 73 0 x.records = x.records ∧ x.records ≠ [] ∧ s.node.ps2 = true ∧ s.node.holder = true ∧ (s.node.at time).tunDue x
      x.records = true ∧ s.node.paired = false) ∧
    (∃ (s : State) (r : Rx), let h := decodeHdr r.frame.body;
      let m := (s.node.heard r).relay r ((s.node.heard r).rxLine r h) ((s.node.heard r).leadsTo ((s.node.heard r).strmDests h.sid));
      s.node.hears r 0x7 = true ∧ (m.strmLive h.sid).valid = false) ∧
    (∃ (s : State) (r : Rx), let h := decodeHdr r.frame.body;
      let m := (s.node.heard r).relay r ((s.node.heard r).rxLine r h) ((s.node.heard r).leadsTo ((s.node.heard r).strmDests h.sid));
      s.node.hears r 0x7 = true ∧ (m.strmLive h.sid).valid = true ∧ m.isDest (m.strmLive h.sid) = true ∧ m.ps2 = true ∧ m.tunLate h.sid
      h.seq = false ∧ (m.track h.sid h.seq h.age h.check h.ci).2 = true) ∧
    (∃ (s : State), (∀ t ∈ s.node.brg.tunIn, t.held = []) ∧ (∀ x ∈ s.node.brg.own, x.held = [])) ∧
    (∃ (s : State) (time : Nat) (t : TunIn), s.node.brg.tunIn = [t] ∧ s.node.brg.own = [] ∧ (t.held.any fun h => decide (h.since +
      s.node.bits Reg.BRG_HOLD 0 10 * 1000 ≤ max s.node.tm.raw time)) = true) ∧
    (∃ (s : State) (r : Rx), s.node.hears r 0x8 = true) ∧
    (∃ (s : State) (r : Rx), ∃ x, s.node.hears r 0x8 = true ∧ (s.node.heard r).ps2 = true ∧ ((s.node.heard r).brg.own.find? fun x =>
      x.requester == beAt (payloadOf r.frame.body) 16 6) = some x ∧ x.session = beAt (payloadOf r.frame.body) 6 2) ∧
    (∃ (s : State) (time : Nat) (q : OwnReq) (rest : List OwnReq),
      let m : Node := { s.node.at time with brg := { s.node.brg with queue := rest } }; s.node.brg.queue = q :: rest ∧ s.node.ps2 = true ∧
      m.farReason q = 0 ∧ q.op = 2) ∧
    (∃ (s : State) (time : Nat) (q : OwnReq) (rest : List OwnReq),
      let m : Node := { s.node.at time with brg := { s.node.brg with queue := rest } }; s.node.brg.queue = q :: rest ∧ s.node.ps2 = true ∧
      m.farReason q = 0 ∧ q.op = 1 ∧ (m.perform q).1.answers q = true) ∧
    (∃ (s : State) (time : Nat) (q : OwnReq) (rest : List OwnReq), ∃ reason,
      let m : Node := { s.node.at time with brg := { s.node.brg with queue := rest } }; s.node.brg.queue = q :: rest ∧ s.node.ps2 = true ∧
      m.farReason q = reason ∧ reason ≠ 0 ∧ q.op = 2 ∧ (m.farRefuse q reason).answers q = true) ∧
    (∃ (s : State) (bar time : Nat) (b : PfBlock), (s.node.brg.blocks.find? fun b => b.bar == bar) = some b ∧ b.since + s.node.tc ≤ max
      s.node.tm.raw time) ∧
    (∃ (s : State) (sem time : Nat), sem < 64 ∧ s.node.semState sem = 2 ∧ ((s.node.brg.semSent.find? fun x => x.1 == sem).map (·.2)).getD 0
      + 10000000 ≤ max s.node.tm.raw time) ∧
    (∃ (s : State) (w time : Nat), w < 16 ∧ s.node.winLocked w = true ∧ ((s.node.brg.winLease.find? fun x => x.1 == w).map (·.2)).getD 0 +
      10000000 ≤ max s.node.tm.raw time) ∧
    (∃ (s : State), 0 < (s.node.reg Reg.BRG_POLL).toNat % 256 ∧ s.node.cyc.cur % ((s.node.reg Reg.BRG_POLL).toNat % 256) = 0 ∧ s.node.ps2 =
      true ∧ s.node.st = stRun ∧ s.node.brg.pollCyc ≠ some s.node.cyc.cur ∧ (∀ i < 64, s.node.slotValid i = false)) := by
  refine ⟨
      ⟨tSt (tBrg (tRun.setFld Reg.PAR_TOKEN Fld.PAR_TOKEN_STATE 1) fun b =>
        { b with tunOut := [⟨9, 0, 1, [canRecord (tCanFrame false) 0x123 0#32], 0⟩] }), 9, 0, 20000, TunOut.mk 9 0 1 [canRecord (tCanFrame
        false) 0x123 0#32] 0, by decide +kernel⟩,
      ⟨tSt tRun, tWinRx 7 (zeros 8), by decide +kernel⟩,
      ⟨tSt (tRun.putStrm 0 { tStrm tFar with darg0 := tOwn / 2 ^ 32, darg1 := tOwn % 2 ^ 32 }), tWinRx 7 (zeros 8), by decide +kernel⟩,
      ⟨tSt tRun, by decide +kernel⟩,
      ⟨tSt (tBrg tRun fun b => { b with tunIn := [tTun 0] }), 2000000, tTun 0, by decide +kernel⟩,
      ⟨tSt tRun, tWinRx 8 (tOwnPay 1 2 0), by decide +kernel⟩,
      ⟨tSt (tBrg tRun fun b => { b with own := [⟨tFar, 1, 2, 1, 3, [], 0⟩] }), tWinRx 8 (tOwnPay 1 2 0), OwnSession.mk tFar 1 2 1 3 [] 0,
        by decide +kernel⟩,
      ⟨tSt (tServe 2 2 0), 2000000, tOwnReq 2 2 0, [], by decide +kernel⟩,
      ⟨tSt (tServe 1 2 0), 2000000, tOwnReq 1 2 0, [], by decide +kernel⟩,
      ⟨tSt (tServe 2 2 1), 2000000, tOwnReq 2 2 1, [], 3, by decide +kernel⟩,
      ⟨tSt (tBrg tRun fun b => { b with blocks := [⟨0, tTgt, 0, 0, zeros 256, 0, 0, [1], true⟩] }), 0, 2000000, ⟨0, tTgt, 0, 0, zeros 256,
        0, 0, [1], true⟩, by decide +kernel⟩,
      ⟨tSt tSem, 5, 10000000, by decide +kernel⟩,
      ⟨tSt (tRegs tWin [(Reg.BRG_WIN_LOCK_HI 3, 0x80000000)]), (3 : Nat), 10000000, by decide +kernel⟩,
      ⟨tSt (tRegs tRun [(Reg.BRG_POLL, 1)]), by decide +kernel⟩⟩

theorem test_remote_accesses_are_requested :
    (∃ (s : State) (fn off : Nat), fn < 4 ∧ s.node.slotOk fn off = false) ∧
    (∃ (s : State) (fn off len : Nat), fn < 4 ∧ s.node.slotOk fn off = true ∧ sizeCode len = none) ∧
    (∃ (s : State) (fn off len : Nat), fn < 4 ∧ s.node.slotOk fn off = true ∧ (sizeCode len).isSome = true ∧ off % len = 0) ∧
    (∃ (s : State) (fn off : Nat) (bytes : List Byte), fn < 4 ∧ s.node.slotOk fn off = true ∧ (sizeCode bytes.length).isSome = true ∧ off %
      bytes.length = 0) ∧
    (∃ (s : State) (r : Rx) (src : NumEntry) (t : BrgTgt) (x : BrgRead), let pl := payloadOf r.frame.body;
      let g := (s.node.heard r).showAttrs t (byteAt pl 5 % 16) (byteAt pl 4); s.node.hears r 0x9 = true ∧ (s.node.heard r).nodeIn
      (decodeHdr r.frame.body).epoch (decodeHdr r.frame.body).src = some src ∧ (s.node.heard r).respTgt src (beAt pl 6 2) = some t ∧ byteAt
      pl 0 = 1 ∧ (g.brg.reads.find? fun x => x.kind != 2 && x.tag == beAt pl 2 2 && x.tgt == t) = some x) ∧
    (∃ (s : State) (tag time : Nat) (x : BrgRead), (s.node.brg.reads.find? fun r => r.tag == tag) = some x ∧ x.kind = 1 ∧ x.since + max 100
      (min 100000 (s.node.reg Reg.BRG_RD_TIMEOUT).toNat) * 1000 ≤ max s.node.tm.raw time) ∧
    (∃ (s : State) (c : Cmd), s.node.takes c 0x0801 (.inst instBrg) 0 = true) ∧
    (∃ (s : State) (c : Cmd), s.node.takes c 0x0802 (.inst instBrg) 5 = true ∧ c.ctx < 4 ∧ arg c 0 < 64 ∧ arg c 2 < 2 ^ 17 ∧ arg c 3 ≤ 15 ∧
      arg c 4 ≤ 1023 ∧ s.node.slotValid (arg c 0) = true ∧ s.node.slotCtx (arg c 0) ≠ c.ctx) ∧
    (∃ (s : State) (c : Cmd), s.node.takes c 0x0802 (.inst instBrg) 5 = true ∧ c.ctx < 4 ∧ arg c 0 < 64 ∧ arg c 2 < 2 ^ 17 ∧ arg c 3 ≤ 15 ∧
      arg c 4 ≤ 1023 ∧ s.node.slotValid (arg c 0) = false) ∧
    (∃ (s : State) (c : Cmd), arg c 0 < 64 ∧ s.node.takes c 0x0803 (.inst instBrg) 1 = true ∧ s.node.slotValid (arg c 0) = true ∧
      s.node.slotCtx (arg c 0) = c.ctx ∧ s.node.brg.reads = []) ∧
    (∃ (s : State) (c : Cmd), arg c 0 < 64 ∧ s.node.takes c 0x0807 (.inst instBrg) 1 = true ∧ s.node.semState (arg c 0) = 2 ∧ s.node.semCtx
      (arg c 0) = c.ctx) ∧
    (∃ (s : State) (c : Cmd) (t : BrgTgt), s.node.takes c 0x0804 (.inst instBrg) 6 = true ∧ t = tgtOf (arg c 0) (arg c 1) ∧ Node.farArgsBad
      c = false ∧ s.node.ps2 = true ∧ s.node.tgtNodes t = []) ∧
    (∃ (s : State) (c : Cmd) (t : BrgTgt), s.node.takes c 0x0804 (.inst instBrg) 6 = true ∧ t = tgtOf (arg c 0) (arg c 1) ∧ Node.farArgsBad
      c = false ∧ s.node.ps2 = true ∧ s.node.tgtNodes t ≠ [] ∧ s.node.readCount < 32) ∧
    (∃ (s : State) (c : Cmd), s.node.takes c 0x0805 (.inst instBrg) 8 = true ∧ Node.farArgsBad c = false ∧ s.node.ps2 = true) ∧
    (∃ (s : State) (c : Cmd), s.node.takes c 0x0806 (.inst instBrg) 2 = true ∧ arg c 0 < 64 ∧ arg c 1 < 64 ∧ s.node.slotValid (arg c 1) =
      true ∧ s.node.slotCtx (arg c 1) = c.ctx ∧ s.node.ps2 = true ∧ s.node.semState (arg c 0) = 0 ∧ s.node.tgtNodes (s.node.slotTgt (arg c
      1)) ≠ []) := by
  refine ⟨
      ⟨tSt tSlot, 1, 16, by decide +kernel⟩,
      ⟨tSt tSlot, 0, 16, 3, by decide +kernel⟩,
      ⟨tSt tSlot, 0, 16, 4, by decide +kernel⟩,
      ⟨tSt tSlot, 0, 16, zeros 4, by decide +kernel⟩,
      ⟨tSt (tBrg tRun fun b => { b with reads := [tRd 1], sessions := [⟨tTgt, 1, 0, 0⟩] }), tWinRx 9 (encBE 1 1 ++ encBE 1 0 ++ encBE 2 9
        ++ encBE 1 0 ++ encBE 1 0 ++ encBE 2 1 ++ encBE 2 3 ++ encBE 2 4 ++ zeros 8), tEntry tFar 1 1, tTgt, tRd 1, by decide +kernel⟩,
      ⟨tSt (tBrg tRun fun b => { b with reads := [tRd 1], sessions := [⟨tTgt, 1, 0, 0⟩] }), 9, 200000000, tRd 1, by decide +kernel⟩,
      ⟨tSt tSlot, tOp 0x0801 0 [], by decide +kernel⟩,
      ⟨tSt tSlot, tOp 0x0802 1 [0, 0x91000001, 0x3C0A, 0, 0], by decide +kernel⟩,
      ⟨tSt tSlot, tOp 0x0802 1 [1, 0x91000001, 0x3C0A, 0, 0], by decide +kernel⟩,
      ⟨tSt tSlot, tOp 0x0803 0 [0], by decide +kernel⟩,
      ⟨tSt tSem, tOp 0x0807 0 [5], by decide +kernel⟩,
      ⟨tSt tRun, tOp 0x0804 0 [77, 0, 0, 0, 0, 2], ⟨false, 77⟩, by decide +kernel⟩,
      ⟨tSt tRun, tOp 0x0804 0 [0x91000001, 0x3C0A, 0, 0, 0, 2], tTgt, by decide +kernel⟩,
      ⟨tSt tRun, tOp 0x0805 0 [0x91000001, 0x3C0A, 0, 0, 0, 2, 5, 6], by decide +kernel⟩,
      ⟨tSt tSlot, tOp 0x0806 0 [5, 0], by decide +kernel⟩⟩

theorem test_check_jobs_run_and_end :
    (∃ (s : State) (ctx c : Nat), c < 28 ∧ s.node.admits ctx (Reg.CHK_CTX_CTRL c) true = true) ∧
    (∃ (s : State) (ctx c : Nat), 28 ≤ c ∧ c < 32 ∧ s.node.admits ctx (Reg.CHK_CTX_CTRL c) true = true) ∧
    (∃ (n : Node) (c : Nat) (v : Word), v.toNat % 4 = 1 ∧ n.chkBusy c = true) ∧
    (∃ (n : Node) (c : Nat) (v : Word), ∃ e, v.toNat % 4 = 1 ∧ n.chkBusy c = false ∧ (n.setReg (Reg.CHK_CTX_STAT c) 0#32).chkBad c = some
      e) ∧
    (∃ (n : Node) (c : Nat) (v : Word), v.toNat % 4 = 2 ∧ n.chkBusy c = true ∧ n.chkCfg c Fld.CHK_CTX_CFG_FEED ≠ 0 ∧ (n.chkCtx c).blocks =
      []) ∧
    (∃ (s : State) (ctx c : Nat), c < 28 ∧ s.node.admits ctx (Reg.CHK_CTX_RUN c) true = true ∧ s.node.chkBusy c = true) ∧
    (∃ (s : State) (ctx c : Nat), c < 28 ∧ s.node.admits ctx (Reg.CHK_CTX_RUN c) true = true ∧ s.node.chkBusy c = false) ∧
    (∃ (s : State) (c : Nat) (j : ChkJob), c < 28 ∧ s.node.chkBusy c = true ∧ (s.node.chkCtx c).job = some j) ∧
    (∃ (n : Node) (c : Nat), c < 28 ∧ n.injMatch 7 c = false ∧ n.chkOp c = 0) := by
  refine ⟨
      ⟨tSt tRun, 0, 3, by decide +kernel⟩,
      ⟨tSt tRun, 0, 28, by decide +kernel⟩,
      ⟨tChk 0 1, 3, 1#32, by decide +kernel⟩,
      ⟨tRun, 3, 1#32, (4 : Nat), by decide +kernel⟩,
      ⟨tChk 0x2000 1, 3, 2#32, by decide +kernel⟩,
      ⟨tSt (tChk 0 1), 0, 3, by decide +kernel⟩,
      ⟨tSt tRun, 0, 3, by decide +kernel⟩,
      ⟨tSt (tChk 0 1), 3, ⟨0, 0, 0⟩, by decide +kernel⟩,
      ⟨tRun, 3, by decide +kernel⟩⟩

theorem test_tests_run_and_end :
    (∃ (s : State) (c : Cmd), s.node.takes c 0x0C01 (.inst instTst) 0 = true) ∧
    (∃ (s : State) (c : Cmd), s.node.takes c 0x0C02 (.inst instTst) 4 = true ∧ arg c 0 < 13 ∧ arg c 1 ≤ 3 ∧ arg c 2 ≤ 3600000 ∧ arg c 3 = 0
      ∧ s.node.inService (arg c 0) = true) ∧
    (∃ (s : State) (c : Cmd), s.node.takes c 0x0C02 (.inst instTst) 4 = true ∧ arg c 0 < 13 ∧ arg c 1 ≤ 3 ∧ arg c 2 ≤ 3600000 ∧ arg c 3 = 0
      ∧ s.node.inService (arg c 0) = false ∧ s.node.prbsOn (arg c 0) = false ∧ s.node.loopAt (arg c 0) = none) ∧
    (∃ (s : State) (c : Cmd), s.node.takes c 0x0C03 (.inst instTst) 2 = true ∧ arg c 0 ≤ 12 ∧ arg c 1 ≤ 31 ∧ s.node.inService (arg c 0) =
      false ∧ s.node.loopAt (arg c 0) = none) ∧
    (∃ (s : State) (c : Cmd), s.node.takes c 0x0C04 (.inst instTst) 1 = true ∧ arg c 0 < 2 ^ 24 ∧ (arg c 0).testBit 5 = true) ∧
    (∃ (s : State) (c : Cmd), s.node.takes c 0x0C04 (.inst instTst) 1 = true ∧ arg c 0 < 2 ^ 24 ∧ (arg c 0).testBit 5 = false ∧ (arg c
      0).testBit 6 = false) ∧
    (∃ (s : State) (c : Cmd), s.node.takes c 0x0C05 (.secure instTst) 4 = true ∧ arg c 3 ≤ 255 ∧ s.node.injTargetOk (arg c 0) (arg c 1) =
      true ∧ s.node.injArmed = true) ∧
    (∃ (s : State) (c : Cmd), s.node.takes c 0x0C05 (.secure instTst) 4 = true ∧ arg c 3 ≤ 255 ∧ s.node.injTargetOk (arg c 0) (arg c 1) =
      true ∧ s.node.injArmed = false) ∧
    (∃ (s : State) (ctx : Nat), s.node.admits ctx Reg.TST_INJ_CTRL true = true) ∧
    (∃ (n : Node), n.injArmed = true) ∧
    (∃ (s : State) (target time : Nat) (l : TstLoop), s.node.loopAt target = some l ∧ l.active = false ∧ l.depth ≤ 3 ∧ ((s.node.at
      time).sending target).isSome = false) ∧
    (∃ (s : State) (target time : Nat) (l : TstLoop), s.node.loopAt target = some l ∧ l.active = true ∧ 0 < l.ms ∧ l.since + l.ms * 1000000
      ≤ max s.node.tm.raw time) ∧
    (∃ (s : State) (target time : Nat) (l : TstLoop), s.node.loopAt target = some l ∧ l.active = false ∧ l.depth = 5 ∧ l.since + 10000000 *
      l.tries ≤ max s.node.tm.raw time ∧ l.tries < 3) ∧
    (∃ (s : State) (target time : Nat) (l : TstLoop), s.node.loopAt target = some l ∧ l.active = false ∧ l.depth = 5 ∧ l.since + 10000000 *
      l.tries ≤ max s.node.tm.raw time ∧ 3 ≤ l.tries) ∧
    (∃ (s : State) (r : Rx), s.node.hears r 0xC = true ∧ echoType (payloadOf r.frame.body) = 1 ∧ r.port ≠ 12 ∧ (s.node.heard r).loopAt
      r.port = none ∧ (s.node.heard r).prbsOn r.port = false ∧ (s.node.heard r).bit Reg.TST_CFG 0 = true) ∧
    (∃ (s : State) (r : Rx) (l : TstLoop), s.node.hears r 0xC = true ∧ (s.node.heard r).loopAt r.port = some l ∧ echoSession (payloadOf
      r.frame.body) = l.session ∧ l.active = false ∧ l.depth = 5 ∧ echoType (payloadOf r.frame.body) = 2) ∧
    (∃ (s : State) (r : Rx) (l : TstLoop), s.node.hears r 0xC = true ∧ (s.node.heard r).loopAt r.port = some l ∧ echoSession (payloadOf
      r.frame.body) = l.session ∧ l.depth = 6 ∧ echoType (payloadOf r.frame.body) = 4) ∧
    (∃ (s : State) (lane : Nat), lane ≤ 12 ∧ s.node.prbsChecks lane = true) ∧
    (∃ (s : State) (lane : Nat), lane ≤ 12 ∧ s.node.prbsChecks lane = true ∧ s.node.bit (Reg.TST_PRBS_STAT lane) 5 = true) ∧
    (∃ (s : State) (code : Nat), code % 256 ∉ [0x00, 0x01, 0x02, 0x04, 0x08, 0x09, 0x0A] ∧ (code % 256 = 0xFF ∨ s.node.jtagEngines = [])) ∧
    (∃ (s : State) (code : Nat), code % 256 ∉ [0x00, 0x01, 0x02, 0x04, 0x08, 0x09, 0x0A] ∧ code % 256 ≠ 0xFF ∧ s.node.jtagEngines ≠ []) := by
  refine ⟨
      ⟨tSt tRun, tOp 0x0C01 0 [], by decide +kernel⟩,
      ⟨tSt tRun, tOp 0x0C02 0 [0, 1, 100, 0], by decide +kernel⟩,
      ⟨tSt tOn, tOp 0x0C02 0 [2, 1, 100, 0], by decide +kernel⟩,
      ⟨tSt tOn, tOp 0x0C03 0 [2, 9], by decide +kernel⟩,
      ⟨tSt tOn, tOp 0x0C04 0 [0x20], by decide +kernel⟩,
      ⟨tSt tOn, tOp 0x0C04 0 [1], by decide +kernel⟩,
      ⟨tSt (tRegs tOn [(Reg.TST_INJ_CTRL, 0x8)]), tOp 0x0C05 0 [6, 2, 1, 1], by decide +kernel⟩,
      ⟨tSt tOn, tOp 0x0C05 0 [6, 2, 1, 1], by decide +kernel⟩,
      ⟨tSt tOn, 0, by decide +kernel⟩,
      ⟨tRegs tOn [(Reg.TST_INJ_CTRL, 0x8)], by decide +kernel⟩,
      ⟨tSt (tLoops (tLoop 1 false 1)), 2, 9, tLoop 1 false 1, by decide +kernel⟩,
      ⟨tSt (tLoops (tLoop 1 true 1)), 2, 50000000, tLoop 1 true 1, by decide +kernel⟩,
      ⟨tSt (tLoops (tLoop 5 false 2)), 2, 20000000, tLoop 5 false 2, by decide +kernel⟩,
      ⟨tSt (tLoops (tLoop 5 false 3)), 2, 30000000, tLoop 5 false 3, by decide +kernel⟩,
      ⟨tSt (tRegs tSlots [(Reg.TST_CFG, 1)]), tEcho 1, by decide +kernel⟩,
      ⟨tSt (tLoops (tLoop 5 false 1)), tEcho 2, tLoop 5 false 1, by decide +kernel⟩,
      ⟨tSt (tLoops (tLoop 6 true 1)), tEcho 4, tLoop 6 true 1, by decide +kernel⟩,
      ⟨tSt (tRegs tOn [(Reg.TST_PRBS_STAT 12, 0x30)]), 12, by decide +kernel⟩,
      ⟨tSt (tRegs tOn [(Reg.TST_PRBS_STAT 12, 0x30)]), 12, by decide +kernel⟩,
      ⟨tSt tOn, 255, by decide +kernel⟩,
      ⟨tSt (tRegs tOn [(Reg.IMG_STATE, 0x82)]), 0x10, by decide +kernel⟩⟩

theorem test_resets_keep_what_their_kind_keeps :
    (∃ (kind cause a : Nat), keptReg kind cause a = true ∧ a ≠ Reg.PCR_WARM_CNT ∧ a ≠ Reg.TST_STAT) ∧
    (∃ (kind cause a : Nat), keptReg kind cause a = false ∧ a ∉ [Reg.PCR_WARM_CNT, Reg.TST_STAT, Reg.PCR_RESET_CAUSE, Reg.TOP_NODE_ID_LO,
      Reg.TOP_NODE_ID_HI]) ∧
    (∃ (s : State), s.node.inReset = false) ∧
    (∃ (s : State), ∃ monitor, s.node.inReset = false ∧ monitor < 3) ∧
    (∃ (s : State), ∃ time, ∃ at_, ∃ cause, s.node.inReset = false ∧ s.node.boot.warm = some (at_, cause) ∧ at_ ≤ max s.node.tm.raw time) ∧
    (∃ (s : State), ∃ time, ∃ o, s.node.inReset = false ∧ s.node.ina.op = some o ∧ o.op = 3 ∧ (s.node.at time).opDue o = true) ∧
    (∃ (s : State), s.node.inReset = true ∧ s.node.fld Reg.PCR_RESET_CAUSE Fld.PCR_RESET_CAUSE_KIND = kPower) ∧
    (∃ (s : State), ∃ time, ∃ at_, ∃ cause, s.node.inReset = true ∧ s.node.fld Reg.PCR_RESET_CAUSE Fld.PCR_RESET_CAUSE_KIND = kPower ∧
      s.node.boot.warm = some (at_, cause) ∧ at_ ≤ max s.node.tm.raw time) := by
  refine ⟨
      ⟨kWarm, 3, Reg.PCR_PLL_STAT, by decide +kernel⟩,
      ⟨kWarm, 3, Reg.TOP_EPOCH, by decide +kernel⟩,
      ⟨tSt tRun, by decide +kernel⟩,
      ⟨tSt tRun, (2 : Nat), by decide +kernel⟩,
      ⟨tSt { tRun with boot := { tRun.boot with warm := some (5, 3) } }, (9 : Nat), (5 : Nat), (3 : Nat), by decide +kernel⟩,
      ⟨tSt { tRun with ina := { tRun.ina with op := some ⟨3, 0, 5, tFar, 3⟩ } }, (50 : Nat), TrainOp.mk 3 0 5 tFar 3, by decide +kernel⟩,
      ⟨tSt tReset, by decide +kernel⟩,
      ⟨tSt tReset, (9 : Nat), (5 : Nat), (3 : Nat), by decide +kernel⟩⟩

theorem test_sleep_clocks_and_loopback_act :
    (∃ (s : State) (ctx : Nat), s.node.admits ctx Reg.PCR_RESET_CTRL true = true) ∧
    (∃ (s : State) (ctx : Nat) (v : Word), s.node.admits ctx Reg.PCR_SLEEP_CTRL true = true ∧ v.toNat.testBit 0 = true ∧ s.node.boot.sleep
      = 0 ∧ s.node.boot.phase ≠ 0 ∧ s.node.reg Reg.PCR_WAKE_EN = 0#32) ∧
    (∃ (s : State) (ctx : Nat) (v : Word), s.node.admits ctx Reg.PCR_SLEEP_CTRL true = true ∧ v.toNat.testBit 0 = true ∧ s.node.boot.sleep
      = 0 ∧ s.node.boot.phase ≠ 0 ∧ s.node.reg Reg.PCR_WAKE_EN ≠ 0#32) ∧
    (∃ (s : State), s.node.boot.sleep = 1 ∧ s.node.boot.wakes = 0) ∧
    (∃ (s : State) (sources : Nat), s.node.wakeSources sources ≠ 0 ∧ s.node.boot.sleep = 1) ∧
    (∃ (s : State) (sources : Nat), s.node.wakeSources sources ≠ 0 ∧ s.node.boot.sleep = 2) ∧
    (∃ (s : State) (pll : Nat), pll < 19 ∧ s.node.bit Reg.PCR_PLL_STAT pll = true) ∧
    (∃ (s : State) (pll : Nat), (pll = 3 ∨ (6 ≤ pll ∧ pll < 19)) ∧ s.node.bit Reg.PCR_PLL_STAT pll = false) ∧
    (∃ (s : State), s.node.bit Reg.PCR_PLL_STAT 5 = false) ∧
    (∃ (s : State) (ctx : Nat), s.node.admits ctx Reg.MEM_LOOP true = true) ∧
    (∃ (s : State), s.node.bit Reg.MEM_LOOP 0 = true) := by
  refine ⟨
      ⟨tSt tRun, 0, by decide +kernel⟩,
      ⟨tSt tRun, 0, 1#32, by decide +kernel⟩,
      ⟨tSt (tSleep 0 0), 0, 1#32, by decide +kernel⟩,
      ⟨tSt (tSleep 1 0), by decide +kernel⟩,
      ⟨tSt (tSleep 1 0), 4, by decide +kernel⟩,
      ⟨tSt (tSleep 2 0), 4, by decide +kernel⟩,
      ⟨tSt tRun, 5, by decide +kernel⟩,
      ⟨tSt (tRegs tRun [(Reg.PCR_PLL_STAT, 0)]), 18, by decide +kernel⟩,
      ⟨tSt (tRegs tCan [(Reg.PCR_PLL_STAT, 0)]), by decide +kernel⟩,
      ⟨tSt (tRegs tRun [(Reg.IMG_STATE, 1)]), 0, by decide +kernel⟩,
      ⟨tSt (tRegs tRun [(Reg.MEM_LOOP, 1)]), by decide +kernel⟩⟩

end Sys2Proof.Tests
end

section
/-! PROOF. The statements of the scope family: the reads of 64-bit counters (R5) and the commands of undefined opcodes (R15). -/

namespace Sys2Proof.Machine

/-! ### Reads that only show a value (R5, R10, R666) -/

/-- BAR4 lies above the register space, so an admitted access never goes to it. -/
theorem Node.isBar4_of_admits {n : Node} {ctx addr : Nat} {write : Bool} (h : n.admits ctx addr write = true) :
    n.isBar4 ctx addr = false := by
  simp only [Node.admits, Bool.and_eq_true, decide_eq_true_eq] at h
  obtain ⟨⟨⟨⟨⟨-, hspace⟩, -⟩, -⟩, -⟩, -⟩ := h
  have hbelow : ¬ bar4Base ≤ addr := by unfold regSpace at hspace; unfold bar4Base; omega
  simp [Node.isBar4, hbelow]

theorem Node.readClear_of_not_rc (n : Node) {a : Nat} (hw : Word) (h : (regRow a).all (fun r => r.access != .rc) = true) :
    n.readClear a hw = n := by
  unfold Node.readClear
  cases hrow : regRow a with
  | none => rfl
  | some r =>
    rw [hrow] at h
    exact if_pos h

/-- A read that takes nothing from a queue, measures nothing and clears nothing answers the latch or the register. -/
theorem Node.readReg_eq_readLatched (n : Node) (secure : Bool) (ctx a : Nat) (hw : Word)
    (htakes : (n.refresh a).readTakes ctx a = none) (hmeter : (n.refresh a).metered a = false)
    (hrc : (regRow a).all (fun r => r.access != .rc) = true) :
    n.readReg secure ctx a hw = (n.refresh a).readLatched secure ctx a := by
  simp [Node.readReg, htakes, hmeter, Node.readClear_of_not_rc _ _ hrc]

theorem Node.readLatched_of_latched {n : Node} {ctx a : Nat} {v : Word} (secure : Bool) (hv : n.latched ctx a = some v)
    (honce : latchStands a = false) : n.readLatched secure ctx a = (n.unlatch ctx a).answer v := by
  simp [Node.readLatched, hv, honce]

theorem Node.readLatched_of_not_latched {n : Node} {ctx a : Nat} (secure : Bool) (hv : n.latched ctx a = none) :
    n.readLatched secure ctx a = (latchesOf a).foldl (fun k b => k.latch ctx b (n.shown secure ctx b))
      (n.answer (n.shown secure ctx a)) := by
  simp [Node.readLatched, hv]

theorem latchesOf_lowWord {a : Nat} (hlow : isLowWord a = true) (hplace : a ≠ Reg.TOP_PLACE) (hnow : a ≠ Reg.TMB_NOW_NS) :
    latchesOf a = [a + 4] := by
  simp [latchesOf, hlow, hplace, hnow]

theorem exec_counterLowWordRead_admitted (s : State) (ctx a : Nat) (h : s.node.admits ctx a false = true) :
    exec (.counterLowWordRead ctx a) s =
      .next (s.on fun n => (n.answer 0#32).readReg (n.ctxSecure ctx) ctx a 0#32) :=
  State.next_on_congr (Node.access_admitted _ _ _ _ _ h)

theorem exec_registerRead_admitted (s : State) (ctx a : Nat) (h : s.node.admits ctx a false = true) :
    exec (.registerRead ctx a false) s =
      .next (s.on fun n => (n.answer 0#32).readReg (n.ctxSecure ctx) ctx a 0#32) := by
  refine State.next_on_congr ?_
  rw [Node.isBar4_of_admits h, if_neg Bool.false_ne_true, Node.access_admitted _ _ _ _ _ h]
  rfl

/-- Settles O11: the read of the low word finds no latch and sets the one of the high word; the read of the high word uses the
latch up where there is one and otherwise shows the register. -/
theorem counterReadsAreConsistent : Obligations.CounterReadsAreConsistent := by
  unfold Obligations.CounterReadsAreConsistent
  intro s ctx a hlow hplace hnow hrc hrcHigh honce hnone
  refine ⟨?_, ?_⟩
  · rintro m rfl hadm htakes hmeter hfree
    rw [exec_counterLowWordRead_admitted s ctx a hadm]
    refine State.next_on_congr ?_
    rw [Node.readReg_eq_readLatched _ _ _ _ _ htakes hmeter hrc, Node.readLatched_of_not_latched _ hfree,
      latchesOf_lowWord hlow hplace hnow]
    rfl
  · rintro m rfl hadm htakes hmeter
    rw [exec_registerRead_admitted s ctx (a + 4) hadm]
    have hread := Node.readReg_eq_readLatched (s.node.answer 0#32) (s.node.ctxSecure ctx) ctx (a + 4) 0#32 htakes hmeter hrcHigh
    refine ⟨fun v hv => State.next_on_congr ?_, fun hfree => State.next_on_congr ?_⟩
    · rw [hread, Node.readLatched_of_latched _ hv honce]
    · rw [hread, Node.readLatched_of_not_latched _ hfree, hnone]
      rfl

/-! ### Undefined opcodes (R14, R15) -/

/-- Every defined opcode lies in one of the ranges 0x01 to 0x0D. -/
theorem highByte_of_definedOpcode {op : Nat} (h : definedOpcode op = true) : 1 ≤ op / 256 ∧ op / 256 ≤ 0x0D := by
  simp only [definedOpcode, List.any_cons, List.any_nil, Bool.or_false, Bool.or_eq_true, Bool.and_eq_true,
    decide_eq_true_eq] at h
  omega

/-- The three opcodes that R656 leaves out of the journal are defined ones. -/
theorem definedOpcode_of_unjournalled {op : Nat} (h : unjournalled op = true) : definedOpcode op = true := by
  simp only [unjournalled, Bool.or_eq_true, beq_iff_eq] at h
  obtain (rfl | rfl) | rfl := h <;> decide

/-- A submission that passes checks 1 to 4 of R787 and that R656 does not leave out is journalled and in flight. -/
theorem Node.accept_journalled (n : Node) (c r : Nat) (e : SqEntry) (hseq : e.seq ≠ 0)
    (hold : ¬ ((n.host.shares.getD c ⟨0, 0⟩).count ≠ 0 ∧ seqPrecedes e.seq (n.reg (Reg.JRN_CTX_OLDEST c)).toNat = true))
    (hnew : n.jrnFind c e.seq = none) (hshared : n.fld (Reg.HST_CTX_CFG c) Fld.HST_CTX_CFG_SHARED ≠ 1)
    (hjrn : unjournalled e.opcode = false) (hroom : n.jrnFull c = false) :
    n.accept c r e false = { (n.jrnAccept c r e).1 with host := { (n.jrnAccept c r e).1.host with
      flight := (n.jrnAccept c r e).1.host.flight ++
        [⟨c, r, e.seq, e.opcode, some (n.jrnAccept c r e).2, e.flags.testBit 0, false, []⟩] } } := by
  unfold Node.accept
  simp only [if_neg hseq, if_neg hold, hnew, hshared, hjrn, hroom, false_and, Bool.false_eq_true, if_false]

theorem exec_undefinedOpcode_free (s : State) (c : Cmd) (hop : definedOpcode c.entry.opcode = false)
    (hfree : (s.node.at c.time).fenceHeld c = false) :
    exec (.undefinedOpcode c) s = .next (s.on fun n => (n.at c.time).completes c sArgs []) :=
  State.next_on_congr (if_neg (by simp [hop, hfree]))

/-- Settles O16: an undefined opcode is none of the unjournalled ones, so its command takes the common path of acceptance. -/
theorem undefinedOpcodesAreRejected : Obligations.UndefinedOpcodesAreRejected := by
  unfold Obligations.UndefinedOpcodesAreRejected
  have hjrn : ∀ op, definedOpcode op = false → unjournalled op = false := fun op hop =>
    Bool.eq_false_iff.mpr fun h => Bool.eq_false_iff.mp hop (definedOpcode_of_unjournalled h)
  refine ⟨fun op hrange => Bool.eq_false_iff.mpr fun hdef => ?_, hjrn, ?_, exec_undefinedOpcode_free⟩
  · have := highByte_of_definedOpcode hdef
    omega
  · intro n c r e hseq hop hold hnew hshared hroom
    exact n.accept_journalled c r e hseq hold hnew (by omega) (hjrn _ hop) hroom

end Sys2Proof.Machine
end

section
/-! PROOF. The statements of the node family: what an access that fails a check of R666 does. -/

namespace Sys2Proof.Machine

/-! ### Steps 2 to 4 of R666, where they fail -/

/-- Step 3 of R666 (R87): an access in a powered-off domain is counted and reported. -/
theorem Node.checked_off (n : Node) (secure : Bool) (ctx addr : Nat) (write : Bool) (act : Node → Node) {d : Nat}
    (hopen : n.refusal secure ctx addr write = none) (hd : domainOf addr = some d) (hoff : n.bit Reg.TOP_PD_STATE d = false) :
    n.checked secure ctx addr write act = (n.inc Reg.TOP_OFF_ACCESS).raise 0x0905 addr ctx := by
  simp [Node.checked, hopen, hd, hoff]

/-- Step 4 of R666: an access to an offset that no register occupies has no effect. -/
theorem Node.checked_empty (n : Node) (secure : Bool) (ctx addr : Nat) (write : Bool) (act : Node → Node)
    (hopen : n.refusal secure ctx addr write = none) (hon : ∀ d, domainOf addr = some d → n.bit Reg.TOP_PD_STATE d = true)
    (hrow : regRow addr = none) : n.checked secure ctx addr write act = n := by
  cases hd : domainOf addr with
  | none => simp [Node.checked, hopen, hrow, hd]
  | some d => simp [Node.checked, hopen, hrow, hd, hon d hd]

/-- An access of the form of step 1 of R666, which the waiting state (R121) does not shut out, reaches steps 2 to 4 with
zero as its answer so far. -/
theorem Node.access_wellFormed (n : Node) {ctx addr : Nat} {write : Bool} (act : Node → Node) (hctx : ctx < 6)
    (hhost : n.bit Reg.TOP_PD_STATE 9 = true) (halign : addr % 4 = 0) (hspace : addr < regSpace)
    (hwait : n.waitingOk ctx addr write = true) :
    n.access ctx addr write act = (n.answer 0#32).checked (n.ctxSecure ctx) ctx addr write act := by
  have hform : ¬ (addr % 4 ≠ 0 ∨ regSpace ≤ addr) := by omega
  simp [Node.access, Nat.not_le.mpr hctx, hhost, hform, hwait]

/-- BAR4 lies above the register space. -/
theorem Node.isBar4_of_lt_regSpace (n : Node) (ctx : Nat) {addr : Nat} (h : addr < regSpace) : n.isBar4 ctx addr = false := by
  have hbelow : ¬ bar4Base ≤ addr := by unfold regSpace at h; unfold bar4Base; omega
  simp [Node.isBar4, hbelow]

/-! ### Every row that is a register access is one through the checks -/

/-- Raw time does not fall, so that it stands for a row that has no time. -/
theorem Node.at_zero (n : Node) : n.at 0 = n := by
  simp [Node.at]

/-- A row carries out an access: time moves on to that of the row, and whatever else the row does, it does through
`Node.access`. -/
def CarriesOut (i : Instr) (x : RowAccess) : Prop :=
  ∃ act, ∀ s, exec i s = .next (s.on fun n => (n.at x.time).access x.ctx x.addr x.write act)

theorem CarriesOut.untimed {i : Instr} {ctx addr : Nat} {write : Bool} {act : Node → Node}
    (hexec : ∀ s, exec i s = .next (s.on fun n => n.access ctx addr write act)) : CarriesOut i ⟨ctx, addr, write, 0⟩ :=
  ⟨act, fun s => (hexec s).trans (State.next_on_congr (by rw [Node.at_zero]))⟩

/-- A row whose operands have to name a register: `accessOf` gives its access where they do, and the row leads to that access
there. -/
theorem CarriesOut.named {i : Instr} {x y : RowAccess} {named : Prop} [Decidable named] {f : Node → Node} {act : Node → Node}
    (h : (if named then some y else none) = some x) (hexec : ∀ s, exec i s = .next (s.on f))
    (hf : named → ∀ n, f n = (n.at y.time).access y.ctx y.addr y.write act) : CarriesOut i x := by
  obtain ⟨hnamed, ⟨⟩⟩ := Option.ite_none_right_eq_some.mp h
  exact ⟨act, fun s => (hexec s).trans (State.next_on_congr (hf hnamed s.node))⟩

/-- A row that does nothing where its operands name no register. -/
theorem CarriesOut.unlessBad {i : Instr} {x : RowAccess} {ctx addr : Nat} {write : Bool} {named bad : Prop} [Decidable named]
    [Decidable bad] {act : Node → Node} (h : (if named then some ⟨ctx, addr, write, 0⟩ else none) = some x)
    (hexec : ∀ s, exec i s = .next (s.on fun n => if bad then n else n.access ctx addr write act)) (hgood : named → ¬ bad) :
    CarriesOut i x :=
  .named h hexec fun hnamed n => by rw [Node.at_zero, if_neg (hgood hnamed)]

/-- The row of each register access carries it out. Only a row that names a plain address could go elsewhere, to BAR4, and that
lies outside the register space. -/
theorem carriesOut_of_accessOf {i : Instr} {x : RowAccess} (h : accessOf i = some x) (hspace : x.addr < regSpace) :
    CarriesOut i x := by
  cases i with
  | registerWrite | registerRead =>
    cases h
    exact ⟨_, fun s => State.next_on_congr (by rw [Node.isBar4_of_lt_regSpace _ _ hspace, Node.at_zero]; rfl)⟩
  | w1cWrite | rcRegisterRead | counterLowWordRead | topPlaceRead | violationLogRead | evqHeadDoorbell | ftxTailDoorbell
  | frxTailDoorbell | faultLogWord0Read | evtClearLog | evtClearFatal | engineFaultClear | adminDownWrite | wakeSendWrite
  | mdioGoWrite | filterRuleWrite | toutArmWrite | toutModeOffWrite | toutBindWrite | tcapEntryRead | tsqEntryRead
  | pdtDsDoneWrite | pdtBufStatusRead | dioOutSetWrite | dioOutClrWrite | edgeEntryRead | postedLogRead | chkGoWrite
  | chkStopWrite | chkRunWrite | injectArmWrite | injectDisarmWrite | memLoopGoWrite =>
    cases h
    exact .untimed fun _ => rfl
  | tmbNowNsRead | pcrWarmWrite | pcrSleepWrite =>
    cases h
    exact ⟨_, fun _ => rfl⟩
  | sqTailDoorbell | cqHeadDoorbell | hstCtxResetWrite | canTxqPush | canTxCancelWrite | canObjCancelWrite | canObjTxreqWrite
  | canObjectWrite | canCtrlLoopWrite | canCtrlHaltWrite | canCtrlRecoverWrite =>
    exact .unlessBad h (fun _ => rfl) (by omega)
  | ringSizeWrite | canEntryReleaseRead =>
    exact .named h (fun _ => rfl) fun hnamed n => by rw [Node.at_zero]; exact if_pos hnamed
  | canEntryLockRead => exact .named h (fun _ => rfl) fun hnamed _ => if_pos hnamed
  | _ => cases h

/-- Settles O9: every row that is a register access goes through the checks of R666, and where one of steps 2 to 4 fails, what
the row would do is not reached. -/
theorem failedAccessesHaveNoEffect : Obligations.FailedAccessesHaveNoEffect := by
  unfold Obligations.FailedAccessesHaveNoEffect
  intro i x s haccess hctx hhost halign hspace hwait
  obtain ⟨act, hexec⟩ := carriesOut_of_accessOf haccess hspace
  have hchecked : (s.node.at x.time).access x.ctx x.addr x.write act =
      ((s.node.at x.time).answer 0#32).checked (s.node.ctxSecure x.ctx) x.ctx x.addr x.write act :=
    Node.access_wellFormed _ act hctx hhost halign hspace hwait
  rw [hexec]
  refine ⟨fun cause inst hrefused => State.next_on_congr (hchecked.trans ?_), fun hopen => ⟨fun d hd hoff =>
    State.next_on_congr (hchecked.trans ?_), fun hon hrow => State.next_on_congr (hchecked.trans ?_)⟩⟩
  · exact Node.checked_refused _ _ _ _ _ _ _ _ hrefused
  · exact Node.checked_off _ _ _ _ _ _ hopen hd hoff
  · exact Node.checked_empty _ _ _ _ _ _ hopen hon hrow

end Sys2Proof.Machine
end

section
/-! PROOF. The statements of the image family: the commands that blow fuses (R113, R114). A completion writes the registers of the
host block and of the blocks above it alone, so that what a command has set in the registers of the image block stands. -/

namespace Sys2Proof.Machine

/-! ### A completion leaves the registers below the host block as they were (R637, R641, R655) -/

/-- Where the registers of the host block begin: those of the journal and of the test block, which a completion also writes, lie
above them. -/
def hostBlock : Nat := Reg.HST_CTX_CFG 0

/-- An interrupt message changes no register (R635, R669). -/
theorem Node.reg_msixFire (n : Node) (fn vec b : Nat) : (n.msixFire fn vec).reg b = n.reg b := by
  unfold Node.msixFire
  split
  · rfl
  · split <;> rfl

section
variable {b : Nat} (hb : b < hostBlock)
include hb

/-- A register written at or above the host block is none below it. -/
theorem Node.reg_setReg_host (n : Node) {a : Nat} (v : Word) (ha : hostBlock ≤ a) : (n.setReg a v).reg b = n.reg b :=
  Node.reg_setReg_ne n v (by omega)

theorem Node.reg_setRegs_host (n : Node) {a : Nat} (vs : List Word) (ha : hostBlock ≤ a) : (n.setRegs a vs).reg b = n.reg b :=
  Node.reg_setRegs_out vs n a b (.inl (by omega))

theorem Node.reg_injUse_host (n : Node) : n.injUse.reg b = n.reg b := by
  unfold Node.injUse
  dsimp only
  split
  · calc n.injOff.reg b = ((n.setFld Reg.TST_INJ_CTRL Fld.TST_INJ_CTRL_ARM 0).setReg Reg.TST_INJ_LEFT 0#32).reg b :=
          Node.reg_setReg_host hb _ _ (by decide)
      _ = (n.setFld Reg.TST_INJ_CTRL Fld.TST_INJ_CTRL_ARM 0).reg b := Node.reg_setReg_host hb _ _ (by decide)
      _ = n.reg b := Node.reg_setReg_host hb _ _ (by decide)
  · exact Node.reg_setReg_host hb _ _ (by decide)

theorem Node.reg_injWords_host (n : Node) (mem first words one two unit hi : Nat) :
    (n.injWords mem first words one two unit hi).reg b = n.reg b := by
  unfold Node.injWords
  dsimp only
  split
  · rfl
  · split
    · exact Node.reg_injUse_host hb { n with mem := _ }
    · split
      · exact Node.reg_injUse_host hb { n with mem := _ }
      · rfl

theorem Node.reg_jrnClose_host (n : Node) (i status : Nat) (res : List Word) : (n.jrnClose i status res).reg b = n.reg b := by
  have hentry : ∀ k, hostBlock ≤ Reg.JRN_ENTRY i + k := fun k => by
    simp only [hostBlock, Reg.HST_CTX_CFG, Reg.JRN_ENTRY]
    omega
  unfold Node.jrnClose Node.jrnSeal
  dsimp only
  rw [Node.injSram, Node.reg_injWords_host hb, Node.reg_setReg_host hb _ _ (hentry 60), Node.reg_setRegs_host hb _ _ (hentry 28)]
  exact Node.reg_setReg_host hb _ _ (hentry 4)

theorem Node.reg_irq_host (n : Node) (c bit vec : Nat) : (n.irq c bit vec).reg b = n.reg b := by
  have hset : (n.setBit (Reg.HST_IRQ_STAT c) bit true).reg b = n.reg b :=
    Node.reg_setReg_host hb _ _ (by simp only [hostBlock, Reg.HST_CTX_CFG, Reg.HST_IRQ_STAT]; omega)
  unfold Node.irq
  dsimp only
  split
  · rw [Node.reg_msixFire, hset]
  · exact hset

theorem Node.reg_ringWrite_host (n : Node) (c base off idx : Nat) (bytes : List Byte) :
    (n.ringWrite c base off idx bytes).reg b = n.reg b := by
  unfold Node.ringWrite
  split
  · rfl
  · split
    · exact Node.reg_setRegs_host hb _ _ (by simp only [hostBlock, Reg.HST_CTX_CFG, Reg.HST_SPI_RING]; omega)
    · rfl

theorem Node.reg_cqPut_host (n : Node) (c r k : Nat) (bytes : List Byte) (flags : Nat) :
    (n.cqPut c r k bytes flags).reg b = n.reg b := by
  unfold Node.cqPut
  split
  · rfl
  · exact Node.reg_ringWrite_host hb _ _ _ _ _ _

theorem Node.reg_cqAdvance_host (n : Node) (c r k : Nat) : (n.cqAdvance c r k).reg b = n.reg b := by
  have htail : hostBlock ≤ Reg.HST_CQ_TAIL c r := by simp only [hostBlock, Reg.HST_CTX_CFG, Reg.HST_CQ_TAIL]; omega
  unfold Node.cqAdvance
  dsimp only
  split
  · rfl
  · split
    · exact Node.reg_setReg_host hb _ _ htail
    · exact Node.reg_setReg_host hb _ _ htail

theorem Node.reg_cqSignal_host (n : Node) (c r k : Nat) : (n.cqSignal c r k).reg b = n.reg b := by
  unfold Node.cqSignal
  dsimp only
  split
  · exact Node.reg_irq_host hb { n with host := _ } c r r
  · rfl

theorem Node.reg_post_host (n : Node) (c r seq opcode status prior flags : Nat) (res : List Word) :
    (n.post c r seq opcode status prior flags res).reg b = n.reg b := by
  unfold Node.post
  split
  · rfl
  extract_lets ext w main exts putExts putMain written advanced signalled counted
  have hexts : ∀ k, (putExts k).reg b = k.reg b := fun k =>
    List.foldlRecOn (motive := fun m => m.reg b = k.reg b) _ _ rfl fun m hm x _ => (Node.reg_cqPut_host hb m _ _ _ _ _).trans hm
  have hmain : ∀ k, (putMain k).reg b = k.reg b := fun k => Node.reg_cqPut_host hb k _ _ _ _ _
  have hwritten : written.reg b = n.reg b := by
    simp only [written]
    split
    · rw [hexts, hmain]
    · rw [hmain, hexts]
  have hadvanced : advanced.reg b = n.reg b := (Node.reg_cqAdvance_host hb _ _ _ _).trans hwritten
  have hsignalled : signalled.reg b = n.reg b := by
    simp only [signalled]
    split
    · exact (Node.reg_cqSignal_host hb _ _ _ _).trans hadvanced
    · exact hadvanced
  have hcounted : counted.reg b = n.reg b :=
    (Node.reg_setReg_host hb _ _ (by simp only [hostBlock, Reg.HST_CTX_CFG, Reg.HST_CMD_CNT]; omega)).trans hsignalled
  split
  · exact (Node.reg_setReg_host hb _ _ (by simp only [hostBlock, Reg.HST_CTX_CFG, Reg.HST_REJ_CNT]; omega)).trans hcounted
  · exact hcounted

theorem Node.reg_finish_host (n : Node) (c r seq opcode status : Nat) (res : List Word) :
    (n.finish c r seq opcode status res).reg b = n.reg b := by
  unfold Node.finish
  extract_lets f host landed closed posted
  have hclosed : closed.reg b = n.reg b := by
    simp only [closed]
    split
    · exact Node.reg_jrnClose_host hb landed _ _ _
    · rfl
  have hposted : posted.reg b = n.reg b := by
    simp only [posted]
    split
    · exact hclosed
    · exact (Node.reg_post_host hb _ _ _ _ _ _ _ _ _).trans hclosed
  exact List.foldlRecOn (motive := fun m => m.reg b = n.reg b) _ _ hposted fun m hm x _ =>
    (Node.reg_post_host hb m _ _ _ _ _ _ _ _).trans hm

theorem Node.reg_completes_host (n : Node) (c : Cmd) (status : Nat) (res : List Word) :
    (n.completes c status res).reg b = n.reg b := Node.reg_finish_host hb n _ _ _ _ _ _

end

/-! ### Single bits of a register -/

theorem Node.bit_eq_bits (n : Node) (a i : Nat) : n.bit a i = decide (n.bits a i 1 = 1) :=
  Nat.testBit_eq_decide_div_mod_eq

theorem Node.bits_setBits_ne (n : Node) (a lo w v : Nat) {lo' w' : Nat} (hword : lo' + w' ≤ 32)
    (h : lo' + w' ≤ lo ∨ lo + w ≤ lo') : (n.setBits a lo w v).bits a lo' w' = n.bits a lo' w' :=
  Node.fld_setFld_ne n a ⟨lo, w⟩ ⟨lo', w'⟩ v hword h

theorem Node.bit_setBit_self (n : Node) (a : Nat) {i : Nat} (v : Bool) (hi : i < 32) : (n.setBit a i v).bit a i = v := by
  rw [Node.bit_eq_bits, Node.setBit, Node.bits_setBits_self n a i 1 _ hi]
  cases v <;> rfl

theorem Node.bit_setBit_ne (n : Node) (a : Nat) {i j : Nat} (v : Bool) (hj : j < 32) (h : j ≠ i) :
    (n.setBit a i v).bit a j = n.bit a j := by
  rw [Node.bit_eq_bits, Node.bit_eq_bits, Node.setBit, Node.bits_setBits_ne n a i 1 _ hj (by omega)]

/-! ### The registers that show the fuses (R136) -/

theorem Node.reg_showOtp_ne (n : Node) (o : Otp) {a : Nat} (harc : a ≠ Reg.IMG_OTP_ARC) (hkey : a ≠ Reg.IMG_KEY_STAT) :
    (n.showOtp o).reg a = n.reg a :=
  (Node.reg_setBits_ne _ 0 4 _ hkey).trans (Node.reg_setReg_ne n _ harc)

/-- The key of the running image lies above the bits that show the fuses. -/
theorem Node.runKey_showOtp (n : Node) (o : Otp) : (n.showOtp o).bits Reg.IMG_KEY_STAT 4 1 = n.bits Reg.IMG_KEY_STAT 4 1 := by
  rw [Node.showOtp, Node.bits_setBits_ne _ _ 0 4 _ (by decide) (by decide), Node.bits, Node.reg_setReg_ne n _ (by decide)]
  rfl

/-- A bit lies within the bits below any that is above it. -/
theorem Node.bit_eq_testBit_bits (n : Node) (a : Nat) {i w : Nat} (hi : i < w) : n.bit a i = (n.bits a 0 w).testBit i := by
  simp [Node.bit, Node.bits, bitsOf, hi]

/-- Bits 2 and 3 of the fuse bits, as `IMG_KEY_STAT` lays them out, are the revoke bits of keys 0 and 1. -/
theorem testBit_fuseBits : ∀ fused0 fused1 revoked0 revoked1 : Bool,
    ((b2n fused0 + b2n fused1 * 2 + b2n revoked0 * 4 + b2n revoked1 * 8) % 2 ^ 4).testBit 2 = revoked0 ∧
    ((b2n fused0 + b2n fused1 * 2 + b2n revoked0 * 4 + b2n revoked1 * 8) % 2 ^ 4).testBit 3 = revoked1 := by
  decide

theorem Node.revokedBit_showOtp (n : Node) (o : Otp) {k : Nat} (hk : k ≤ 1) :
    (n.showOtp o).bit Reg.IMG_KEY_STAT (2 + k) = o.keyRevoked k := by
  obtain ⟨hkey0, hkey1⟩ := testBit_fuseBits o.fused0 o.fused1 o.revoked0 o.revoked1
  rw [Node.bit_eq_testBit_bits _ _ (show 2 + k < 4 by omega), Node.showOtp, Node.bits_setBits_self _ _ 0 4 _ (by decide)]
  obtain rfl | rfl : k = 0 ∨ k = 1 := by omega
  · exact hkey0
  · exact hkey1

/-- The key bits as the node shows them after a command blow the revoke bits of the OTP that they show set (R114). -/
def Otp.revokedAsShown (o : Otp) (n : Node) : Otp :=
  { o with revoked0 := o.revoked0 || n.bit Reg.IMG_KEY_STAT 2, revoked1 := o.revoked1 || n.bit Reg.IMG_KEY_STAT 3 }

theorem Otp.keyRevoked_revokedAsShown (o : Otp) (n : Node) {k : Nat} (hk : k ≤ 1) :
    (o.revokedAsShown n).keyRevoked k = (o.keyRevoked k || n.bit Reg.IMG_KEY_STAT (2 + k)) := by
  obtain rfl | rfl : k = 0 ∨ k = 1 := by omega
  · rfl
  · rfl

/-- Where the node shows no other key revoked than the OTP holds, no fuse blows. -/
theorem Otp.revokedAsShown_eq_self {o : Otp} {n : Node} (h : ∀ k ≤ 1, n.bit Reg.IMG_KEY_STAT (2 + k) = o.keyRevoked k) :
    o.revokedAsShown n = o := by
  have h0 : n.bit Reg.IMG_KEY_STAT 2 = o.revoked0 := h 0 (by decide)
  have h1 : n.bit Reg.IMG_KEY_STAT 3 = o.revoked1 := h 1 (by decide)
  rw [Otp.revokedAsShown, h0, h1, Bool.or_self, Bool.or_self]

/-! ### The commands of the image block on a node that shows its fuses -/

theorem Node.takes_opcode {n : Node} {c : Cmd} {op : Nat} {need : Need} {nargs : Nat} (h : n.takes c op need nargs = true) :
    c.entry.opcode = op := by
  simp only [Node.takes, Bool.and_eq_true, decide_eq_true_eq] at h
  obtain ⟨⟨⟨⟨⟨⟨hop, -⟩, -⟩, -⟩, -⟩, -⟩, -⟩ := h
  exact hop

/-- What a secure command meets before its own checks does not depend on the fuses shown. -/
theorem Node.takes_showOtp (n : Node) (o : Otp) (c : Cmd) (op i nargs : Nat) :
    (n.showOtp o).takes c op (.secure i) nargs = n.takes c op (.secure i) nargs := by
  have himage : ∀ a < hostBlock, Reg.HST_CTX_CFG c.ctx ≠ a := fun a ha => by
    simp only [hostBlock, Reg.HST_CTX_CFG] at ha ⊢
    omega
  have hctx : (n.showOtp o).ctxSecure c.ctx = n.ctxSecure c.ctx := by
    rw [Node.ctxSecure, Node.fld, Node.reg_showOtp_ne n o (himage _ (by decide)) (himage _ (by decide))]
    rfl
  have hwaiting : (n.showOtp o).waiting = n.waiting := by
    rw [Node.waiting, Node.fld, Node.reg_showOtp_ne n o (by decide) (by decide)]
    rfl
  have hfence : ((n.showOtp o).at c.time).fenceHeld c = (n.at c.time).fenceHeld c := rfl
  simp only [Node.takes, Node.mayRun, hctx, hwaiting, hfence]

/-- With the DRAM sound, a command of the image block that the node takes is answered as its own action has it (R726). -/
theorem Node.imageCommand_runs (n : Node) (c : Cmd) (op nargs : Nat) (act : Node → Answer)
    (h : n.takes c op (.secure instImg) nargs = true) (hdram : n.dramFailed = false) :
    n.imageCommand c nargs act = Node.settle c (act (n.at c.time)) := by
  have hsound : (n.at c.time).dramFailed = false := hdram
  rw [Node.imageCommand, Node.command_runs n c op _ nargs _ h]
  cases act (n.at c.time) with
  | done k st res => exact congrArg (Node.settle c) (if_neg (by simp [hsound]))
  | wait k kind key aux => exact congrArg (Node.settle c) (if_neg (by simp [hsound]))

/-- The node on which a fuse command makes its checks: the fuses shown, at the time of the command. -/
def State.fuseNode (s : State) (c : Cmd) : Node := (s.node.showOtp s.otp).at c.time

theorem State.reg_fuseNode_ne (s : State) (c : Cmd) {a : Nat} (harc : a ≠ Reg.IMG_OTP_ARC) (hkey : a ≠ Reg.IMG_KEY_STAT) :
    (s.fuseNode c).reg a = s.node.reg a := Node.reg_showOtp_ne s.node s.otp harc hkey

theorem State.fuseCommand_runs (s : State) (c : Cmd) (op nargs : Nat) (act : Node → Answer) (hdram : s.node.dramFailed = false)
    (h : s.node.takes c op (.secure instImg) nargs = true) :
    (s.node.showOtp s.otp).imageCommand c nargs act = Node.settle c (act (s.fuseNode c)) := by
  refine Node.imageCommand_runs _ c op nargs act ((Node.takes_showOtp _ _ _ _ _ _).trans h) ?_
  rw [Node.dramFailed, Node.fld, Node.reg_showOtp_ne _ _ (by decide) (by decide)]
  exact hdram

/-! ### The anti-rollback count (R113) -/

/-- The node after an advance of the anti-rollback count: it shows the new count, and the rise is reported. -/
def State.advanced (s : State) (c : Cmd) : Node :=
  ((s.fuseNode c).setReg Reg.IMG_OTP_ARC (argW c 0)).raise 0x1008 (arg c 0) s.otp.arc

/-- An argument above the count that the running image's count allows is taken: the node shows it, and the fuses follow. -/
theorem exec_imgRollbackAdvance_advances (s : State) (c : Cmd) (hdram : s.node.dramFailed = false)
    (htakes : s.node.takes c 0x0D09 (.secure instImg) 1 = true) (habove : s.otp.arc < arg c 0) (hmax : arg c 0 ≤ 64)
    (hrun : arg c 0 ≤ (s.node.reg Reg.IMG_RUN_ARC).toNat) :
    exec (.imgRollbackAdvance c) s = .next { s with
      node := (s.advanced c).completes c sOk []
      otp := { s.otp with arc := max s.otp.arc (((s.advanced c).completes c sOk []).reg Reg.IMG_OTP_ARC).toNat } } := by
  have hrun' : ((s.fuseNode c).reg Reg.IMG_RUN_ARC).toNat = (s.node.reg Reg.IMG_RUN_ARC).toNat := by
    rw [State.reg_fuseNode_ne s c (by decide) (by decide)]
  have hallowed : ¬ (arg c 0 < s.otp.arc ∨ ((s.fuseNode c).reg Reg.IMG_RUN_ARC).toNat < arg c 0 ∨ 64 < arg c 0) := by omega
  change execImgRollbackAdvance c s = _
  rw [execImgRollbackAdvance, if_neg (not_not.mpr (Node.takes_opcode htakes)), State.fuseCommand_runs s c 0x0D09 1 _ hdram htakes,
    if_neg hallowed, if_neg habove.ne']
  rfl

/-- The count shown at the end of an advance is its argument: neither the event nor the completion writes that register. -/
theorem State.arc_advanced_completes (s : State) (c : Cmd) :
    ((s.advanced c).completes c sOk []).reg Reg.IMG_OTP_ARC = argW c 0 := by
  rw [Node.reg_completes_host (by decide), State.advanced, Node.reg_raise_ne _ _ _ _ (by decide), Node.reg_setReg_self]

/-! ### The revocation of a key (R114) -/

/-- The other key does not verify the running image: no image runs, it was signed under the key itself, or the other key is not
fused or is revoked. -/
def State.revokeRefused (s : State) (k : Nat) : Prop :=
  s.node.fld Reg.IMG_STATE Fld.IMG_STATE_STATE ≠ 2 ∨ s.node.bits Reg.IMG_KEY_STAT 4 1 = k ∨
    s.otp.keyFused (1 - k) = false ∨ s.otp.keyRevoked (1 - k) = true

/-- The check that the model makes, on the node that shows the fuses. -/
theorem State.revokeRefused_iff (s : State) (c : Cmd) (k : Nat) :
    ((s.fuseNode c).fld Reg.IMG_STATE Fld.IMG_STATE_STATE ≠ 2 ∨ (s.fuseNode c).bits Reg.IMG_KEY_STAT 4 1 = k ∨
      !s.otp.keyFused (1 - k) ∨ s.otp.keyRevoked (1 - k)) ↔ s.revokeRefused k := by
  have hstate : (s.fuseNode c).fld Reg.IMG_STATE Fld.IMG_STATE_STATE = s.node.fld Reg.IMG_STATE Fld.IMG_STATE_STATE := by
    rw [Node.fld, State.reg_fuseNode_ne s c (by decide) (by decide)]
    rfl
  have hkey : (s.fuseNode c).bits Reg.IMG_KEY_STAT 4 1 = s.node.bits Reg.IMG_KEY_STAT 4 1 := Node.runKey_showOtp s.node s.otp
  rw [hstate, hkey, Bool.not_eq_true']
  rfl

/-- The node after a revocation: it shows the key of the command revoked. -/
def State.revoked (s : State) (c : Cmd) : Node := (s.fuseNode c).setBit Reg.IMG_KEY_STAT (2 + arg c 0) true

/-- A command on a key that the other key stands in for sets the revoke bit shown, and the fuse follows. -/
theorem exec_imgKeyRevoke_revokes (s : State) (c : Cmd) (hdram : s.node.dramFailed = false)
    (htakes : s.node.takes c 0x0D0B (.secure instImg) 1 = true) (hk : arg c 0 ≤ 1) (hmay : ¬ s.revokeRefused (arg c 0)) :
    exec (.imgKeyRevoke c) s = .next { s with
      node := (s.revoked c).completes c sOk []
      otp := s.otp.revokedAsShown ((s.revoked c).completes c sOk []) } := by
  change execImgKeyRevoke c s = _
  rw [execImgKeyRevoke, if_neg (not_not.mpr (Node.takes_opcode htakes)), State.fuseCommand_runs s c 0x0D0B 1 _ hdram htakes,
    if_neg (Nat.not_lt.mpr hk), if_neg (mt (State.revokeRefused_iff s c _).mp hmay)]
  rfl

/-- Any other completes with REJECT_STATE. -/
theorem exec_imgKeyRevoke_refused (s : State) (c : Cmd) (hdram : s.node.dramFailed = false)
    (htakes : s.node.takes c 0x0D0B (.secure instImg) 1 = true) (hk : arg c 0 ≤ 1) (hrefused : s.revokeRefused (arg c 0)) :
    exec (.imgKeyRevoke c) s = .next { s with
      node := (s.fuseNode c).completes c sState []
      otp := s.otp.revokedAsShown ((s.fuseNode c).completes c sState []) } := by
  change execImgKeyRevoke c s = _
  rw [execImgKeyRevoke, if_neg (not_not.mpr (Node.takes_opcode htakes)), State.fuseCommand_runs s c 0x0D0B 1 _ hdram htakes,
    if_neg (Nat.not_lt.mpr hk), if_pos ((State.revokeRefused_iff s c _).mpr hrefused)]
  rfl

theorem Node.bit_completes_host (n : Node) (c : Cmd) (status : Nat) (res : List Word) {a : Nat} (i : Nat) (ha : a < hostBlock) :
    (n.completes c status res).bit a i = n.bit a i := by
  rw [Node.bit, Node.reg_completes_host ha]
  rfl

theorem State.revokedBit_fuseNode (s : State) (c : Cmd) {k : Nat} (hk : k ≤ 1) :
    (s.fuseNode c).bit Reg.IMG_KEY_STAT (2 + k) = s.otp.keyRevoked k := Node.revokedBit_showOtp s.node s.otp hk

theorem State.revokedBit_revoked_self (s : State) (c : Cmd) (hk : arg c 0 ≤ 1) :
    ((s.revoked c).completes c sOk []).bit Reg.IMG_KEY_STAT (2 + arg c 0) = true := by
  rw [Node.bit_completes_host _ _ _ _ _ (by decide), State.revoked, Node.bit_setBit_self _ _ _ (by omega)]

theorem State.revokedBit_revoked_ne (s : State) (c : Cmd) {k : Nat} (hk : k ≤ 1) (hne : k ≠ arg c 0) :
    ((s.revoked c).completes c sOk []).bit Reg.IMG_KEY_STAT (2 + k) = s.otp.keyRevoked k := by
  rw [Node.bit_completes_host _ _ _ _ _ (by decide), State.revoked, Node.bit_setBit_ne _ _ _ (by omega) (by omega),
    State.revokedBit_fuseNode s c hk]

/-- Settles O25: the completion leaves the registers that show the fuses as the command has set them, so that the fuses which
follow them are the one of the command and no other. -/
theorem fuseCommandsBlow : Obligations.FuseCommandsBlow := by
  unfold Obligations.FuseCommandsBlow
  intro s c hdram
  refine ⟨fun htakes habove hmax hrun => ?_, ?_⟩
  · refine ⟨_, exec_imgRollbackAdvance_advances s c hdram htakes habove hmax hrun, ?_, State.arc_advanced_completes s c, rfl⟩
    rw [State.arc_advanced_completes]
    exact congrArg (fun arc => { s.otp with arc := arc }) (Nat.max_eq_right habove.le)
  · rintro k htakes rfl hk
    refine ⟨fun hstate hsigned hfused hvalid => ?_, fun hrefused => ?_⟩
    · have hmay : ¬ s.revokeRefused (arg c 0) := by simp [State.revokeRefused, hstate, hsigned, hfused, hvalid]
      have hset := State.revokedBit_revoked_self s c hk
      refine ⟨_, exec_imgKeyRevoke_revokes s c hdram htakes hk hmay, ?_, ?_, rfl, hset⟩
      · rw [Otp.keyRevoked_revokedAsShown _ _ hk, hset, Bool.or_true]
      · rw [Otp.keyRevoked_revokedAsShown _ _ (by omega), State.revokedBit_revoked_ne s c (by omega) (by omega), hvalid,
          Bool.or_self]
    · have hfuses : s.otp.revokedAsShown ((s.fuseNode c).completes c sState []) = s.otp :=
        Otp.revokedAsShown_eq_self fun k hk =>
          (Node.bit_completes_host _ _ _ _ _ (by decide)).trans (State.revokedBit_fuseNode s c hk)
      rw [exec_imgKeyRevoke_refused s c hdram htakes hk hrefused, hfuses]
      rfl

end Sys2Proof.Machine
end

section
/-! PROOF. The statements about steps and runs: every command answers, the queue is served in order, and the fuses only blow. -/

namespace Sys2Proof.Machine

/-- Settles O1. -/
theorem stepRunsTheFrontCommand : Obligations.StepRunsTheFrontCommand := by
  intro c s
  rfl

/-- Settles O2. -/
theorem stepOnEmptyQueueLetsTimePass : Obligations.StepOnEmptyQueueLetsTimePass := by
  intro s hempty
  refine ⟨s.tick, ?_, rfl, rfl⟩
  rw [step, hempty]

/-! ### Every command answers (R14, R113) -/

theorem State.runs_pending (s : State) (c : Cmd) (op : Nat) (f : Node → Node) : (s.runs c op f).pending = s.pending := by
  unfold State.runs
  split <;> rfl

theorem State.runs_otp (s : State) (c : Cmd) (op : Nat) (f : Node → Node) : (s.runs c op f).otp = s.otp := by
  unfold State.runs
  split <;> rfl

theorem Otp.grows_refl (o : Otp) : o.grows o := ⟨rfl, rfl, rfl, rfl, rfl, le_rfl, id, id⟩

theorem Otp.grows_trans {a b c : Otp} (hab : a.grows b) (hbc : b.grows c) : a.grows c := by
  obtain ⟨hid, hf0, hf1, hh0, hh1, harc, hr0, hr1⟩ := hab
  obtain ⟨hid', hf0', hf1', hh0', hh1', harc', hr0', hr1'⟩ := hbc
  exact ⟨hid'.trans hid, hf0'.trans hf0, hf1'.trans hf1, hh0'.trans hh0, hh1'.trans hh1, harc.trans harc', hr0' ∘ hr0, hr1' ∘ hr1⟩

/-- What a command does to what surrounds the node: it goes on to a next state with the queue as it was, and the fuses
only blow. -/
structure Answers (i : Instr) (s t : State) : Prop where
  next : exec i s = .next t
  pending : t.pending = s.pending
  otp : s.otp.grows t.otp
  kept : (∀ c, i ≠ .imgRollbackAdvance c ∧ i ≠ .imgKeyRevoke c) → t.otp = s.otp

theorem Answers.on {i : Instr} {s : State} {f : Node → Node} (h : exec i s = .next (s.on f)) : Answers i s (s.on f) :=
  ⟨h, rfl, Otp.grows_refl _, fun _ => rfl⟩

theorem Answers.runs {i : Instr} {s : State} {c : Cmd} {op : Nat} {f : Node → Node} (h : exec i s = .next (s.runs c op f)) :
    Answers i s (s.runs c op f) where
  next := h
  pending := State.runs_pending s c op f
  otp := by rw [State.runs_otp]; exact Otp.grows_refl _
  kept _ := State.runs_otp s c op f

theorem imgRollbackAdvance_answers (c : Cmd) (s : State) : ∃ t, Answers (.imgRollbackAdvance c) s t := by
  have hkept {t : State} (h : ∀ d, (Instr.imgRollbackAdvance c ≠ .imgRollbackAdvance d ∧ Instr.imgRollbackAdvance c ≠ .imgKeyRevoke d)) :
      t.otp = s.otp := absurd rfl (h c).1
  by_cases hop : c.entry.opcode ≠ 0x0D09
  · exact ⟨s, if_pos hop, rfl, Otp.grows_refl _, hkept⟩
  · exact ⟨_, if_neg hop, rfl, ⟨rfl, rfl, rfl, rfl, rfl, le_max_left _ _, id, id⟩, hkept⟩

theorem imgKeyRevoke_answers (c : Cmd) (s : State) : ∃ t, Answers (.imgKeyRevoke c) s t := by
  have hkept {t : State} (h : ∀ d, (Instr.imgKeyRevoke c ≠ .imgRollbackAdvance d ∧ Instr.imgKeyRevoke c ≠ .imgKeyRevoke d)) :
      t.otp = s.otp := absurd rfl (h c).2
  have hblown {a b : Bool} (h : a = true) : (a || b) = true := by rw [h, Bool.true_or]
  by_cases hop : c.entry.opcode ≠ 0x0D0B
  · exact ⟨s, if_pos hop, rfl, Otp.grows_refl _, hkept⟩
  · exact ⟨_, if_neg hop, rfl, ⟨rfl, rfl, rfl, rfl, rfl, le_rfl, hblown, hblown⟩, hkept⟩

theorem exec_answers (i : Instr) (s : State) : ∃ t, Answers i s t := by
  cases i with
  | imgRollbackAdvance c => exact imgRollbackAdvance_answers c s
  | imgKeyRevoke c => exact imgKeyRevoke_answers c s
  | timeStatus | timeSet | timeAdjust | timeToutSet | timeToutStop | trainSetLead | trainStatus | trainReinaugurate
  | trainReset | trainSnapshot | streamMsgRecv | streamMsgSend | cycStatus | cycModeSwitch | cycModeAbort | cycModeInfo
  | pdStatus | pdInfo | pdWrite | pdRead | dioSet | dioStatus | streamDeclare | streamRemove | streamQuery
  | streamReplaceAll | plcStatus | pairStatus | pairHandover | pairResync | pairTrkReset | audStatus | paPlay | paLive
  | paChime | paStop | audParamSet | audLibWrite | audLibInfo | callStatus | callAnswer | callHold | callEnd | callCabSet
  | callRecProtect | callRecFind | canStatus | canSend | canCancel | canRecover | canFlush | canLoop | bridgeStatus
  | bridgeMap | bridgeUnmap | bridgeRead | bridgeWrite | bridgeLock | bridgeUnlock | testLoop | testPrbs | testStatus
  | testBist | testInject | imgStatus | imgSlotErase | imgSlotWrite | imgSlotVerify | imgSlotMarkBad | imgTintStage
  | imgTintCommit | imgTintDiscard | imgRestart | nodeStatus | nodeNop | ctxReset | ctxInfo | jrnStatus | jrnRead | jrnAck
  | jrnClear =>
    exact ⟨_, .runs rfl⟩
  | _ => exact ⟨_, .on rfl⟩

/-- Settles O3: the two OTP commands show the fuses at the node and blow what it shows; every other command changes the node
alone. -/
theorem everyCommandAnswersAndKeepsTheQueue : Obligations.EveryCommandAnswersAndKeepsTheQueue := by
  intro i s
  obtain ⟨t, h⟩ := exec_answers i s
  exact ⟨t, h.next, h.pending, h.kept⟩

/-! ### Runs -/

theorem carryOut_of_exec {i : Instr} {s t : State} (h : exec i s = .next t) : carryOut s i = t := by
  rw [carryOut, h]

theorem exec_on_withPending {i : Instr} {f : State → Node → Node} (h : ∀ s, exec i s = .next (s.on (f s))) (s : State)
    (r : List Instr) (hf : f { s with pending := r } = f s := by rfl) :
    exec i { s with pending := r } = .next { carryOut s i with pending := r } := by
  rw [carryOut_of_exec (h s), h, hf]
  rfl

theorem exec_runs_withPending {i : Instr} {c : Cmd} {op : Nat} {f : State → Node → Node}
    (h : ∀ s, exec i s = .next (s.runs c op (f s))) (s : State) (r : List Instr) (hf : f { s with pending := r } = f s := by rfl) :
    exec i { s with pending := r } = .next { carryOut s i with pending := r } := by
  rw [carryOut_of_exec (h s), h, hf]
  unfold State.runs
  split <;> rfl

theorem core_run_succ (M : Host.Core) {s t : M.State} (k : Nat) (h : M.step s = .next t) : M.run (k + 1) s = M.run k t := by
  rw [Host.Core.run, h]

theorem run_succ_of_step {s t : State} (k : Nat) (h : step s = .next t) : Sys2Proof.core.run (k + 1) s = Sys2Proof.core.run k t :=
  core_run_succ Sys2Proof.core k h

/-- What waits behind a command has no effect on it. -/
theorem exec_withPending (i : Instr) (s : State) (r : List Instr) :
    exec i { s with pending := r } = .next { carryOut s i with pending := r } := by
  cases i with
  | imgRollbackAdvance c =>
    by_cases hop : c.entry.opcode ≠ 0x0D09
    · rw [carryOut_of_exec (show exec (.imgRollbackAdvance c) s = _ from if_pos hop)]
      exact if_pos hop
    · rw [carryOut_of_exec (show exec (.imgRollbackAdvance c) s = _ from if_neg hop)]
      exact if_neg hop
  | imgKeyRevoke c =>
    by_cases hop : c.entry.opcode ≠ 0x0D0B
    · rw [carryOut_of_exec (show exec (.imgKeyRevoke c) s = _ from if_pos hop)]
      exact if_pos hop
    · rw [carryOut_of_exec (show exec (.imgKeyRevoke c) s = _ from if_neg hop)]
      exact if_neg hop
  | timeStatus | timeSet | timeAdjust | timeToutSet | timeToutStop | trainSetLead | trainStatus | trainReinaugurate
  | trainReset | trainSnapshot | streamMsgRecv | streamMsgSend | cycStatus | cycModeSwitch | cycModeAbort | cycModeInfo
  | pdStatus | pdInfo | pdWrite | pdRead | dioSet | dioStatus | streamDeclare | streamRemove | streamQuery
  | streamReplaceAll | plcStatus | pairStatus | pairHandover | pairResync | pairTrkReset | audStatus | paPlay | paLive
  | paChime | paStop | audParamSet | audLibWrite | audLibInfo | callStatus | callAnswer | callHold | callEnd | callCabSet
  | callRecProtect | callRecFind | canStatus | canSend | canCancel | canRecover | canFlush | canLoop | bridgeStatus
  | bridgeMap | bridgeUnmap | bridgeRead | bridgeWrite | bridgeLock | bridgeUnlock | testLoop | testPrbs | testStatus
  | testBist | testInject | imgStatus | imgSlotErase | imgSlotWrite | imgSlotVerify | imgSlotMarkBad | imgTintStage
  | imgTintCommit | imgTintDiscard | imgRestart | nodeStatus | nodeNop | ctxReset | ctxInfo | jrnStatus | jrnRead | jrnAck
  | jrnClear =>
    exact exec_runs_withPending (fun _ => rfl) s r
  | _ => exact exec_on_withPending (fun _ => rfl) s r

theorem carryOut_pending (s : State) (i : Instr) : (carryOut s i).pending = s.pending := by
  obtain ⟨t, h⟩ := exec_answers i s
  rw [carryOut_of_exec h.next, h.pending]

/-- Settles O4, by induction on the queue: the front command is carried out as if nothing waited behind it, and the rest of the
queue is served from there. -/
theorem queueIsServedFirstInFirstOut : Obligations.QueueIsServedFirstInFirstOut := by
  intro q r
  induction q with
  | nil => exact fun s _ => rfl
  | cons i q ih =>
    intro s hempty
    have hstep : step { s with pending := i :: q ++ r } = .next { carryOut s i with pending := q ++ r } :=
      exec_withPending i s (q ++ r)
    rw [List.length_cons, run_succ_of_step _ hstep]
    exact ih (carryOut s i) ((carryOut_pending s i).trans hempty)

/-- One step of the block lets the fuses only blow, and never ends the run. -/
theorem step_grows (s : State) : ∃ t, step s = .next t ∧ s.otp.grows t.otp := by
  unfold step
  cases s.pending with
  | nil => exact ⟨s.tick, rfl, Otp.grows_refl _⟩
  | cons i q =>
    obtain ⟨t, h⟩ := exec_answers i s.rest
    exact ⟨t, h.next, h.otp⟩

/-- Settles O5, by induction on the number of steps. -/
theorem fusesOnlyBlow : Obligations.FusesOnlyBlow := by
  intro k
  induction k with
  | zero =>
    intro s t hrun
    cases hrun
    exact Otp.grows_refl _
  | succ k ih =>
    intro s t hrun
    obtain ⟨u, hstep, hgrows⟩ := step_grows s
    exact Otp.grows_trans hgrows (ih u t ((run_succ_of_step k hstep).symm.trans hrun))

end Sys2Proof.Machine
end

section
/-! PROOF. The commands that fail a check that all share, and what a completion, a refusal and an event leave unchanged. -/

namespace Sys2Proof.Machine

/-! ### What the shared operations leave unchanged -/

/-- The node with other registers and with what the host interface has sent, holds and has to signal taken from `h`. -/
def Node.withPosted (n : Node) (regs : List (Nat × Word)) (h : HostState) : Node :=
  { n with
    regs := regs
    host := { n.host with
      dma := h.dma, msix := h.msix, msixPend := h.msixPend, phase0 := h.phase0, coalesce := h.coalesce, held := h.held } }

/-- `m` is `n` but for registers and for what the host interface has sent, holds and has to signal (R634, R635). -/
def Node.PostsTo (n m : Node) : Prop := m = n.withPosted m.regs m.host

theorem Node.PostsTo.refl (n : Node) : n.PostsTo n := rfl

theorem Node.PostsTo.trans {n m k : Node} (hm : n.PostsTo m) (hk : m.PostsTo k) : n.PostsTo k :=
  calc k = m.withPosted k.regs k.host := hk
    _ = (n.withPosted m.regs m.host).withPosted k.regs k.host := congrArg (fun x => x.withPosted k.regs k.host) hm

theorem Node.postsTo_setReg (n : Node) (a : Nat) (v : Word) : n.PostsTo (n.setReg a v) := rfl

theorem Node.postsTo_setRegs (vs : List Word) (n : Node) (a : Nat) : n.PostsTo (n.setRegs a vs) := by
  induction vs generalizing n a with
  | nil => exact .refl n
  | cons v vs ih => exact (n.postsTo_setReg a v).trans (ih _ _)

theorem Node.postsTo_foldl {α : Type} (f : Node → α → Node) (hf : ∀ n x, Node.PostsTo n (f n x)) (l : List α) (n : Node) :
    n.PostsTo (l.foldl f n) := by
  induction l generalizing n with
  | nil => exact .refl n
  | cons x l ih => exact (hf n x).trans (ih _)

theorem Node.postsTo_msixFire (n : Node) (fn vec : Nat) : n.PostsTo (n.msixFire fn vec) := by
  unfold Node.msixFire
  split
  · rfl
  · split <;> rfl

theorem Node.postsTo_irq (n : Node) (c bit vec : Nat) : n.PostsTo (n.irq c bit vec) := by
  unfold Node.irq
  dsimp only
  split
  · exact (n.postsTo_setReg _ _).trans (Node.postsTo_msixFire _ _ _)
  · exact n.postsTo_setReg _ _

theorem Node.postsTo_ringWrite (n : Node) (c base off idx : Nat) (bytes : List Byte) :
    n.PostsTo (n.ringWrite c base off idx bytes) := by
  unfold Node.ringWrite
  split
  · rfl
  · split
    · exact Node.postsTo_setRegs _ _ _
    · rfl

theorem Node.postsTo_cqPut (n : Node) (c r k : Nat) (bytes : List Byte) (flags : Nat) : n.PostsTo (n.cqPut c r k bytes flags) := by
  unfold Node.cqPut
  split
  · rfl
  · exact n.postsTo_ringWrite _ _ _ _ _

theorem Node.postsTo_cqAdvance (n : Node) (c r k : Nat) : n.PostsTo (n.cqAdvance c r k) := by
  unfold Node.cqAdvance
  dsimp only
  split
  · rfl
  · split <;> rfl

theorem Node.postsTo_cqSignal (n : Node) (c r k : Nat) : n.PostsTo (n.cqSignal c r k) := by
  unfold Node.cqSignal
  dsimp only
  split
  · exact Node.PostsTo.trans (m := { n with host := { n.host with coalesce := _ } }) rfl (Node.postsTo_irq _ _ _ _)
  · rfl

theorem Node.postsTo_post (n : Node) (c r seq opcode status prior flags : Nat) (res : List Word) :
    n.PostsTo (n.post c r seq opcode status prior flags res) := by
  unfold Node.post
  split
  · rfl
  extract_lets ext w main exts putExts putMain written advanced signalled counted
  have hexts (k : Node) : k.PostsTo (putExts k) := Node.postsTo_foldl _ (fun m x => m.postsTo_cqPut _ _ _ _ _) _ k
  have hmain (k : Node) : k.PostsTo (putMain k) := k.postsTo_cqPut _ _ _ _ _
  have hwritten : n.PostsTo written := by
    simp only [written]
    split
    · exact (hmain n).trans (hexts _)
    · exact (hexts n).trans (hmain _)
  have hadvanced : n.PostsTo advanced := hwritten.trans (Node.postsTo_cqAdvance _ _ _ _)
  have hsignalled : n.PostsTo signalled := by
    simp only [signalled]
    split
    · exact hadvanced.trans (Node.postsTo_cqSignal _ _ _ _)
    · exact hadvanced
  have hcounted : n.PostsTo counted := hsignalled.trans (Node.postsTo_setReg _ _ _)
  split
  · exact hcounted.trans (Node.postsTo_setReg _ _ _)
  · exact hcounted

/-- The node with other registers and with another list of the words that injections have spoilt. -/
def Node.withSealed (n : Node) (regs : List (Nat × Word)) (spoilt : List (Nat × Nat × Bool)) : Node :=
  { n with regs := regs, mem := { n.mem with spoilt := spoilt } }

theorem Node.injUse_eq_withSealed (n : Node) : ∃ regs spoilt, n.injUse = n.withSealed regs spoilt := by
  unfold Node.injUse
  dsimp only
  split <;> exact ⟨_, _, rfl⟩

/-- A memory written changes registers where an injection is used up, and what injections have spoilt (R694). -/
theorem Node.injWords_eq_withSealed (n : Node) (mem first words one two unit hi : Nat) :
    ∃ regs spoilt, n.injWords mem first words one two unit hi = n.withSealed regs spoilt := by
  have huse (sp sp' : List (Nat × Nat × Bool)) :
      let k := ({ n with mem := { n.mem with spoilt := sp } } : Node).injUse
      ∃ regs spoilt, { k with mem := { k.mem with spoilt := sp' } } = n.withSealed regs spoilt := by
    obtain ⟨regs, spoilt, hm⟩ := ({ n with mem := { n.mem with spoilt := sp } } : Node).injUse_eq_withSealed
    exact ⟨regs, sp', by rw [hm]; rfl⟩
  unfold Node.injWords
  dsimp only
  split
  · exact ⟨_, _, rfl⟩
  · split
    · exact huse _ _
    · split
      · exact huse _ _
      · exact ⟨_, _, rfl⟩

theorem Node.setRegs_eq_withRegs (vs : List Word) (n : Node) (a : Nat) : ∃ regs, n.setRegs a vs = { n with regs := regs } := by
  induction vs generalizing n a with
  | nil => exact ⟨_, rfl⟩
  | cons v vs ih => exact ih (n.setReg a v) (a + 4)

/-- A word written to a register and then to a protected memory. -/
theorem Node.injSram_setReg_eq_withSealed (n : Node) (a : Nat) (v : Word) (mem first words : Nat) :
    ∃ regs spoilt, (n.setReg a v).injSram mem first words = n.withSealed regs spoilt := by
  obtain ⟨regs, spoilt, h⟩ : ∃ regs spoilt, (n.setReg a v).injSram mem first words = (n.setReg a v).withSealed regs spoilt :=
    Node.injWords_eq_withSealed _ _ _ _ _ _ _ _
  exact ⟨regs, spoilt, h⟩

theorem Node.jrnSeal_eq_withSealed (n : Node) (i : Nat) : ∃ regs spoilt, n.jrnSeal i = n.withSealed regs spoilt :=
  Node.injSram_setReg_eq_withSealed _ _ _ _ _ _

theorem Node.setRegs_setBits_eq_withRegs (n : Node) (a lo w v b : Nat) (vs : List Word) :
    ∃ regs, (n.setBits a lo w v).setRegs b vs = { n with regs := regs } := Node.setRegs_eq_withRegs vs (n.setBits a lo w v) b

theorem Node.jrnClose_eq_withSealed (n : Node) (i status : Nat) (res : List Word) :
    ∃ regs spoilt, n.jrnClose i status res = n.withSealed regs spoilt := by
  unfold Node.jrnClose
  extract_lets ns m k
  obtain ⟨regs, hk⟩ : ∃ regs, k = { n with regs := regs } := Node.setRegs_setBits_eq_withRegs _ _ _ _ _ _ _
  obtain ⟨regs', spoilt, h⟩ := k.jrnSeal_eq_withSealed i
  exact ⟨regs', spoilt, by rw [h, hk]; rfl⟩

/-- A completion takes the command out of those in flight and those that wait, and changes beside registers, what injections
have spoilt and what the host interface has sent, holds and has to signal. -/
def Node.withCompleted (n m : Node) (ctx seq : Nat) : Node :=
  { (n.withPosted m.regs m.host) with
    mem := { n.mem with spoilt := m.mem.spoilt }
    host := { (n.withPosted m.regs m.host).host with
      flight := n.host.flight.filter (fun g => !(g.ctx == ctx && g.seq == seq))
      waits := n.host.waits.filter fun w => !(w.ctx == ctx && w.seq == seq) } }

theorem Node.eq_withCompleted {n landed closed fin : Node} {c seq : Nat}
    (hlanded : landed = { n with host := { n.host with
      flight := n.host.flight.filter (fun g => !(g.ctx == c && g.seq == seq))
      waits := n.host.waits.filter fun w => !(w.ctx == c && w.seq == seq) } })
    (hclosed : ∃ regs spoilt, closed = landed.withSealed regs spoilt) (hfin : ∃ regs h, fin = closed.withPosted regs h) :
    fin = n.withCompleted fin c seq := by
  obtain ⟨regs, spoilt, rfl⟩ := hclosed
  obtain ⟨regs', h, rfl⟩ := hfin
  rw [hlanded]
  rfl

theorem Node.finish_eq_withCompleted (n : Node) (c r seq opcode status : Nat) (res : List Word) :
    n.finish c r seq opcode status res = n.withCompleted (n.finish c r seq opcode status res) c seq := by
  unfold Node.finish
  extract_lets f host landed closed posted
  have hclosed : ∃ regs spoilt, closed = landed.withSealed regs spoilt := by
    simp only [closed]
    split
    · exact Node.jrnClose_eq_withSealed _ _ _ _
    · exact ⟨_, _, rfl⟩
  have hposted : closed.PostsTo posted := by
    simp only [posted]
    split
    · exact .refl _
    · exact Node.postsTo_post _ _ _ _ _ _ _ _ _
  refine Node.eq_withCompleted rfl hclosed ⟨_, _, hposted.trans (Node.postsTo_foldl _ (fun m x => ?_) f.dups posted)⟩
  exact m.postsTo_post _ _ _ _ _ _ _ _

theorem Node.completes_eq_withCompleted (n : Node) (c : Cmd) (status : Nat) (res : List Word) :
    n.completes c status res = n.withCompleted (n.completes c status res) c.ctx c.entry.seq := Node.finish_eq_withCompleted _ _ _ _ _ _ _

theorem Node.waits_completes (n : Node) (c : Cmd) (status : Nat) (res : List Word) :
    (n.completes c status res).host.waits = n.host.waits.filter fun w => !(w.ctx == c.ctx && w.seq == c.entry.seq) := by
  rw [Node.completes_eq_withCompleted]
  rfl

/-! ### Events and refusals (R650 to R652, R670, R785) -/

/-- The node with other registers and another state of the router. -/
def Node.withEvents (n : Node) (regs : List (Nat × Word)) (ev : EvState) : Node := { n with regs := regs, ev := ev }

theorem Node.raise_eq_withEvents (n : Node) (code d0 d1 : Nat) : ∃ regs ev, n.raise code d0 d1 = n.withEvents regs ev := by
  unfold Node.raise
  split <;> exact ⟨_, _, rfl⟩

theorem Node.occurIn_eq_withEvents (n : Node) (code key out : Nat) :
    ∃ limits, (n.occurIn code key out).1 = n.withEvents n.regs { n.ev with limits := limits } := by
  unfold Node.occurIn
  extract_lets run now fin others
  split
  · extract_lets live
    clear_value live
    split <;> exact ⟨_, rfl⟩
  · exact ⟨_, rfl⟩

theorem Node.raiseCounted_eq_withEvents (n : Node) (code key out d0 : Nat) :
    ∃ regs ev, n.raiseCounted code key out d0 = n.withEvents regs ev := by
  obtain ⟨limits, hoccur⟩ := n.occurIn_eq_withEvents code key (1024 * out)
  unfold Node.raiseCounted Node.occur
  split
  · next m k h =>
    obtain ⟨regs, ev, hraise⟩ := m.raise_eq_withEvents code d0 k
    rw [h] at hoccur
    exact ⟨regs, ev, by rw [hraise, show m = _ from hoccur]; rfl⟩
  · next m h =>
    rw [h] at hoccur
    exact ⟨_, _, hoccur⟩

theorem Node.reg_occurIn (n : Node) (code key out a : Nat) : (n.occurIn code key out).1.reg a = n.reg a := by
  obtain ⟨limits, h⟩ := n.occurIn_eq_withEvents code key out
  rw [h]
  rfl

theorem Node.reg_raiseCounted_ne (n : Node) (code key out d0 : Nat) {a : Nat} (h : a ≠ Reg.EVT_DROP) :
    (n.raiseCounted code key out d0).reg a = n.reg a := by
  have hoccur := n.reg_occurIn code key (1024 * out) a
  unfold Node.raiseCounted Node.occur
  split
  · next m k he =>
    rw [he] at hoccur
    exact (Node.reg_raise_ne _ _ _ _ h).trans hoccur
  · next m he =>
    rw [he] at hoccur
    exact hoccur

/-- The entry that a refusal adds to the violation log (R650). -/
def Node.violOf (n : Node) (req : Nat) (write : Bool) (kind cause addr what : Nat) : Viol :=
  ⟨word (req % 256 + b2n write * 256 + kind * 512 + cause * 4096 + b2n (n.host.violLost != 0) * 2 ^ 30 + 2 ^ 31), word addr,
    word (min n.host.violLost 65535 + what % 65536 * 65536), n.stamp⟩

/-- The node with one more refusal logged, or counted as lost behind 32 entries (R652). -/
def Node.logged (n : Node) (e : Viol) : Node :=
  if n.host.viol.length < 32 then { n with host := { n.host with viol := n.host.viol ++ [e], violLost := 0 } }
  else { n with host := { n.host with violLost := n.host.violLost + 1 } }

/-- A refusal logs its entry, and beside changes registers, the router and the messages of vectors alone. -/
theorem Node.refuse_eq (n : Node) (req : Nat) (write : Bool) (kind cause addr what : Nat) :
    ∃ regs ev regs' h, n.refuse req write kind cause addr what =
      ((n.logged (n.violOf req write kind cause addr what)).withEvents regs ev).withPosted regs' h := by
  unfold Node.refuse
  extract_lets lost w0 m e src m' k k1 code k2
  have hk : ∃ regs ev, k = (n.logged (n.violOf req write kind cause addr what)).withEvents regs ev := by
    unfold Node.logged
    by_cases hroom : n.host.viol.length < 32
    · have hk : k = if lost = 0 then m' else m'.raise 0x7902 0 lost := if_pos hroom
      obtain ⟨regs, ev, hraise⟩ := m'.raise_eq_withEvents 0x7902 0 lost
      rw [hk, if_pos hroom]
      split
      · exact ⟨_, _, rfl⟩
      · exact ⟨regs, ev, hraise⟩
    · have hk : k = { m with host := { m.host with violLost := m.host.violLost + 1 } } := if_neg hroom
      rw [hk, if_neg hroom]
      exact ⟨_, _, rfl⟩
  obtain ⟨regs, ev, hk⟩ := hk
  obtain ⟨regs1, hsync⟩ : ∃ regs, k1 = { k with regs := regs } := Node.setRegs_eq_withRegs _ _ _
  obtain ⟨regs2, ev2, hraise⟩ : ∃ regs ev, k2 = k1.withEvents regs ev := Node.raiseCounted_eq_withEvents _ _ _ _ _
  have hlast : ∀ j, k2.PostsTo j → ∃ regs ev regs' h,
      j = ((n.logged (n.violOf req write kind cause addr what)).withEvents regs ev).withPosted regs' h := fun j hj => by
    refine ⟨regs2, ev2, j.regs, j.host, ?_⟩
    rw [hj, hraise, hsync, hk]
    rfl
  split
  · exact hlast _ (Node.postsTo_irq _ _ _ _)
  · exact hlast _ (.refl _)

theorem Node.reg_irq_ne (n : Node) (c bit vec : Nat) {a : Nat} (h : a ≠ Reg.HST_IRQ_STAT c) : (n.irq c bit vec).reg a = n.reg a := by
  have hset : (n.setBit (Reg.HST_IRQ_STAT c) bit true).reg a = n.reg a := Node.reg_setReg_ne n _ h
  unfold Node.irq
  dsimp only
  split
  · rw [Node.reg_msixFire, hset]
  · exact hset

/-- The registers that a refusal may change beside `WLD_REFUSED`: those that show the log, `EVT_DROP` and `HST_IRQ_STAT`. -/
def refusalReg (a : Nat) : Prop :=
  a = Reg.EVT_DROP ∨ (Reg.WLD_VIOL_STAT ≤ a ∧ a < Reg.WLD_VIOL_STAT + 20) ∨ ∃ c, a = Reg.HST_IRQ_STAT c

theorem Node.reg_refuse (n : Node) (req : Nat) (write : Bool) (kind cause addr what : Nat) {a : Nat} (h : ¬ refusalReg a) :
    (n.refuse req write kind cause addr what).reg a = (n.inc Reg.WLD_REFUSED).reg a := by
  simp only [refusalReg, not_or, not_and, not_exists] at h
  obtain ⟨hdrop, hlog, hirq⟩ := h
  unfold Node.refuse
  extract_lets lost w0 m e src m' k k1 code k2
  have hk : k.reg a = m.reg a := by
    simp only [k]
    split
    · split
      · rfl
      · exact Node.reg_raise_ne m' _ _ _ hdrop
    · rfl
  have hsync : k1.reg a = k.reg a := Node.reg_setRegs_out _ _ _ _ (by
    simp only [List.length_cons, List.length_nil]
    omega)
  have hraise : k2.reg a = k1.reg a := Node.reg_raiseCounted_ne _ _ _ _ _ hdrop
  split
  · rw [Node.reg_irq_ne _ _ _ _ (hirq _), hraise, hsync, hk]
  · rw [hraise, hsync, hk]

/-- Settles O10. -/
theorem refusalsAreCountedAndLogged : Obligations.RefusalsAreCountedAndLogged := by
  intro n req write kind cause addr what
  have hcounted : ¬ refusalReg Reg.WLD_REFUSED := by
    simp only [refusalReg, Reg.WLD_REFUSED, Reg.EVT_DROP, Reg.WLD_VIOL_STAT, Reg.HST_IRQ_STAT, not_or, not_exists]
    exact ⟨by decide, by decide, fun c => by omega⟩
  obtain ⟨regs, ev, regs', h, hrefuse⟩ := n.refuse_eq req write kind cause addr what
  refine ⟨by rw [Node.reg_refuse _ _ _ _ _ _ _ hcounted, Node.reg_inc_self], fun hroom => ?_, fun hfull => ?_⟩
  · rw [hrefuse, Node.logged, if_pos hroom]
    exact ⟨_, rfl, rfl, rfl, rfl, rfl⟩
  · rw [hrefuse, Node.logged, if_neg (by omega)]
    exact ⟨rfl, rfl⟩

/-! ### The commands that fail a shared check (R14, R633, R787) -/

theorem Node.waits_refuse (n : Node) (req : Nat) (write : Bool) (kind cause addr what : Nat) :
    (n.refuse req write kind cause addr what).host.waits = n.host.waits := by
  obtain ⟨regs, ev, regs', h, hrefuse⟩ := n.refuse_eq req write kind cause addr what
  rw [hrefuse, Node.logged]
  split <;> rfl

theorem Node.waits_completes_length_le (n : Node) (c : Cmd) (status : Nat) (res : List Word) :
    (n.completes c status res).host.waits.length ≤ n.host.waits.length := by
  rw [Node.waits_completes]
  exact List.length_filter_le _ _

/-- A request of the master's own is served only where a command has just begun to wait. -/
theorem Node.serveOwn_of_le (n : Node) {before : Nat} (h : n.host.waits.length ≤ before) : n.serveOwn before = n := by
  unfold Node.serveOwn
  rw [List.getElem?_eq_none h]

/-- The row of a command: it acts on the entries of its opcode, through the shared checks, and what it does beside is done only
where a command has begun to wait. -/
def CommandRow (i : Instr) (s : State) (x : RowCommand) : Prop :=
  ∃ (f : Node → Node) (act : Node → Answer) (after : Node → Node), exec i s = .next (s.runs x.cmd x.op f) ∧
    f s.node = after (s.node.command x.cmd x.need x.nargs act) ∧
    ∀ m : Node, m.host.waits.length ≤ s.node.host.waits.length → after m = m

theorem CommandRow.plain {i : Instr} {s : State} {x : RowCommand} {f : Node → Node} {act : Node → Answer}
    (h : exec i s = .next (s.runs x.cmd x.op f)) (hf : f s.node = s.node.command x.cmd x.need x.nargs act) : CommandRow i s x :=
  ⟨f, act, id, h, hf, fun _ _ => rfl⟩

theorem CommandRow.served {i : Instr} {s : State} {x : RowCommand} {f : Node → Node} {act : Node → Answer}
    (h : exec i s = .next (s.runs x.cmd x.op f))
    (hf : f s.node = (s.node.command x.cmd x.need x.nargs act).serveOwn s.node.host.waits.length) : CommandRow i s x :=
  ⟨f, act, (·.serveOwn s.node.host.waits.length), h, hf, fun m hm => m.serveOwn_of_le hm⟩

/-- What a command that names a context does behind the shared checks (R659). -/
def ctxAct (c : Cmd) (act : Node → Nat → Answer) (m : Node) : Answer :=
  if 8 ≤ arg c 0 then .fail m sArgs
  else if arg c 0 ≠ c.ctx ∧ !m.ctxSecure c.ctx then .fail (m.refuse c.ctx false 2 2 c.entry.opcode (81 + arg c 0)) sWorld
  else act m (arg c 0)

theorem CommandRow.context {i : Instr} {s : State} {c : Cmd} {op nargs : Nat} (secure : Bool) {act : Node → Nat → Answer}
    (h : exec i s = .next (s.runs c op fun n => n.ctxCommand c secure nargs act)) :
    CommandRow i s ⟨c, op, nargs, if secure then .secure (81 + arg c 0 % 8) else .either⟩ :=
  ⟨_, ctxAct c act, id, h, rfl, fun _ _ => rfl⟩

theorem commandRow_of_commandOf {i : Instr} {s : State} {x : RowCommand} (h : s.node.commandOf i = some x) : CommandRow i s x := by
  cases i with
  | trainSetLead | trainReinaugurate | trainReset | trainSnapshot =>
    cases h
    exact .served rfl rfl
  | timeStatus | timeSet | timeAdjust | timeToutSet | timeToutStop | trainStatus 
  | streamMsgRecv | streamMsgSend | cycStatus | cycModeSwitch | cycModeAbort | cycModeInfo
  | pdStatus | pdInfo | pdWrite | pdRead | dioSet | dioStatus | streamDeclare | streamRemove | streamQuery
  | streamReplaceAll | plcStatus | pairStatus | pairHandover | pairResync | pairTrkReset | audStatus | paPlay | paLive
  | paChime | paStop | audParamSet | audLibWrite | audLibInfo | callStatus | callAnswer | callHold | callEnd | callCabSet
  | callRecProtect | callRecFind | canStatus | canSend | canCancel | canRecover | canFlush | canLoop | bridgeStatus
  | bridgeMap | bridgeUnmap | bridgeRead | bridgeWrite | bridgeLock | bridgeUnlock | testLoop | testPrbs | testStatus
  | testBist | testInject | imgStatus | imgSlotErase | imgSlotWrite | imgSlotVerify | imgSlotMarkBad | imgTintStage
  | imgTintCommit | imgTintDiscard | imgRestart | nodeStatus | nodeNop =>
    cases h
    exact .plain rfl rfl
  | ctxReset | jrnClear =>
    cases h
    exact .context true rfl
  | ctxInfo | jrnStatus | jrnRead | jrnAck =>
    cases h
    exact .context false rfl
  | _ => cases h

/-- Settles O18: each failed check answers before the command's own checks and effect are reached. -/
theorem commandsThatFailTheSharedChecksHaveNoEffect : Obligations.CommandsThatFailTheSharedChecksHaveNoEffect := by
  intro i s x hrow
  obtain ⟨f, act, after, hexec, hf, hafter⟩ := commandRow_of_commandOf hrow
  have hruns {m : Node} (hop : x.cmd.entry.opcode = x.op) (hm : s.node.command x.cmd x.need x.nargs act = m)
      (hwaits : m.host.waits.length ≤ s.node.host.waits.length) : exec i s = .next { s with node := m } := by
    rw [hexec, State.runs, if_pos hop, State.on, hf, hm, hafter m hwaits]
  refine ⟨fun hop => ?_, fun hop hheld => ?_, fun hop hfree hbad => ?_, fun k hneed hop hfree hflags hrsv hargs hworld => ?_⟩
  · rw [hexec, State.runs, if_neg hop]
  · exact hruns hop (Node.command_held _ _ _ _ _ hheld) le_rfl
  · refine hruns hop (Node.command_reserved _ _ _ _ _ hfree ?_) (Node.waits_completes_length_le _ _ _ _)
    simpa only [List.any_eq_true, bne_iff_ne] using hbad
  · refine hruns hop (Node.command_world _ _ k _ _ _ hneed hfree hflags hrsv ?_ hworld) ?_
    · simpa only [List.any_eq_false, bne_iff_ne, ne_eq, not_not] using hargs
    · refine (Node.waits_completes_length_le _ _ _ _).trans (le_of_eq ?_)
      rw [Node.waits_refuse]
      rfl

end Sys2Proof.Machine
end

section
/-! PROOF. The frames that fail a receive check of R158. -/

namespace Sys2Proof.Machine

/-- A row that changes the node alone leaves what its change makes of it. -/
theorem exec_on_eq {i : Instr} {s : State} {f g : Node → Node} (hexec : exec i s = .next (s.on f)) (h : f s.node = g s.node) :
    exec i s = .next (s.on g) := hexec.trans (State.next_on_congr h)

section
variable {n : Node} {r : Rx} {e : RxFail} (h : (n.meets r).rxFail r = some e)
include h

theorem Node.receive_fails (kind : Nat) (act : Node → SpineHdr → List Byte → Node) :
    n.receive r kind act = (n.meets r).rxCount r e := by
  unfold Node.receive
  extract_lets m
  rw [show m.rxFail r = some e from h]
  rfl

theorem Node.ctrl_fails (type : Nat) (act : Node → CtrlHdr → List Byte → Node) : n.ctrl r type act = (n.meets r).rxCount r e := by
  unfold Node.ctrl
  extract_lets m
  rw [show m.rxFail r = some e from h]
  rfl

/-- The front of the rows that make the checks themselves. -/
theorem Node.checks_fail (rest : Node) :
    (match (n.meets r).rxFail r with
    | some e => (n.meets r).rxCount r e
    | none => rest) = (n.meets r).rxCount r e := by
  rw [h]

theorem Node.openFrame_fails (hawake : n.boot.sleep = 0) (s : State) (hs : s.node = n) :
    exec (.openFrameReceived r) s = .next (s.on fun n => (n.meets r).rxCount r e) := by
  subst hs
  refine exec_on_eq rfl ?_
  dsimp only
  rw [if_neg (by omega), if_neg (by omega)]
  exact Node.checks_fail h _

end

/-- Whatever a row of a reception does, it does behind the checks of R158. -/
theorem exec_of_rxFail {i : Instr} {s : State} {r : Rx} {e : RxFail} (hrow : rxOf i = some r)
    (h : (s.node.meets r).rxFail r = some e) (hawake : i ≠ .openFrameReceived r ∨ s.node.boot.sleep = 0) :
    exec i s = .next (s.on fun n => (n.meets r).rxCount r e) := by
  cases i with
  | openFrameReceived r' =>
    cases hrow
    exact Node.openFrame_fails h (hawake.resolve_left (not_not.mpr rfl)) s rfl
  | macControlFrameReceived | carInputFrameReceived | aafPduReceived | hostFrameCommands =>
    cases hrow
    exact exec_on_eq rfl (Node.checks_fail h _)
  | refReceived | pollReceived | replyReceived | modeRequestReceived | modeAnswerReceived | claimReceived | topoProbeReceived
  | topoReplyReceived | topoNoticeReceived | topoResultReceived | operationRequestReceived | operationAnswerReceived
  | pdelayRequestReceived | pdelayResponseReceived | verdictReceived | msgReceived | paMessageReceived | callMessageReceived
  | tunReceived | rwinReceived | rwinRspReceived | echoEnterReceived | echoReplyReceived | echoExitReceived =>
    cases hrow
    exact exec_on_eq rfl (Node.receive_fails h _ _)
  | jalderRenewReceived | jalderAckReceived | jalderHandoverReceived | jalderHandoverAckReceived | jalderCopyReceived
  | jalderCopyEndReceived | jalderResyncReceived =>
    cases hrow
    exact exec_on_eq rfl (Node.ctrl_fails h _ _)
  | _ => cases hrow

/-- Settles O26: the checks come before anything that a row does, and the count of the first that fails is all that is left. -/
theorem framesThatFailACheckAreCountedUnderIt : Obligations.FramesThatFailACheckAreCountedUnderIt := by
  intro i s r e hrow hfail hawake
  have hexec := exec_of_rxFail hrow hfail hawake
  have hcount {a : Nat} (h : (s.node.meets r).rxCount r e = (s.node.meets r).inc a) :
      exec i s = .next (s.on fun n => (n.meets r).inc a) := exec_on_eq hexec h
  refine ⟨hexec, ?_, ?_, ?_, ?_, ?_⟩
  all_goals
    rintro rfl hport
    refine hcount ?_
  · exact if_neg (by omega)
  · exact if_neg (by omega)
  · exact if_neg (by omega)
  · exact if_neg (by omega)
  · exact if_pos hport

end Sys2Proof.Machine
end

section
/-! PROOF. Duplicate trackers (R393, R394). -/

namespace Sys2Proof.Machine

theorem seqDelta_self (q : Nat) : seqDelta q (q % 65536) = 0 ∧ seqDelta q q = 0 := by
  have hdiff : BitVec.ofNat 16 (q + 65536 - q % 65536) = 0#16 := by
    apply BitVec.eq_of_toNat_eq
    simp only [BitVec.toNat_ofNat]
    omega
  unfold seqDelta
  rw [Nat.mod_mod, hdiff]
  decide

namespace Tracker

variable (t : Tracker) (q age check : Nat)

theorem fate_of_empty (hempty : t.map % 2 = 0) : t.fate q = .accept := if_pos hempty

theorem fate_of_ahead (hheld : t.map % 2 = 1) (hahead : 0 < seqDelta q t.high) : t.fate q = .accept := by
  rw [fate, if_neg (by omega)]
  exact if_pos hahead

theorem fate_of_behind (hheld : t.map % 2 = 1) (hbehind : seqDelta q t.high ≤ 0) :
    t.fate q = if -64 < seqDelta q t.high ∧ t.map.testBit (-seqDelta q t.high).toNat then .duplicate else .stale := by
  rw [fate, if_neg (by omega)]
  exact if_neg (by omega)

/-- A tracker accepts a copy where it is empty or the copy is ahead of its highest sequence. -/
theorem ahead_of_accept (hheld : t.map % 2 = 1) (h : t.fate q = .accept) : 0 < seqDelta q t.high := by
  by_contra hbehind
  rw [fate_of_behind t q hheld (by omega)] at h
  split at h <;> cases h

theorem high_take : (t.take q age check).high = q := by
  unfold take
  split <;> rfl

theorem map_take_lt : (t.take q age check).map < 2 ^ 64 := by
  unfold take
  split
  · exact Nat.one_lt_two_pow (by decide)
  · exact Nat.mod_lt _ (Nat.two_pow_pos 64)

/-- The bit of the highest sequence is set by an accepted copy: the map moves up by at least one place. -/
theorem map_take_odd (h : t.fate q = .accept) : (t.take q age check).map % 2 = 1 := by
  unfold take
  split
  · rfl
  · next hheld =>
    have hahead := ahead_of_accept t q (by omega) h
    obtain ⟨k, hk⟩ : ∃ k, min (seqDelta q t.high).toNat 64 = k + 1 := ⟨min (seqDelta q t.high).toNat 64 - 1, by omega⟩
    have hshift : t.map * 2 ^ (k + 1) = 2 * (t.map * 2 ^ k) := by ring
    dsimp only
    rw [hk, hshift]
    omega

theorem fate_take_self (h : t.fate q = .accept) : (t.take q age check).fate q = .duplicate := by
  have hodd := map_take_odd t q age check h
  have hdelta : seqDelta q (t.take q age check).high = 0 := by rw [high_take]; exact (seqDelta_self q).2
  rw [fate_of_behind _ _ hodd (by omega), hdelta, if_pos]
  exact ⟨by decide, by simpa using hodd⟩

end Tracker

/-- Settles O42. -/
theorem aCopyIsAcceptedOnce : Obligations.ACopyIsAcceptedOnce := by
  intro t q age check _ _ _
  refine ⟨fun h => ⟨t.fate_take_self q age check h, t.high_take q age check, t.map_take_lt q age check⟩, t.fate_of_empty q,
    fun hheld hfar => ?_, fun hheld hnear hbehind => ?_⟩
  · rw [t.fate_of_behind q hheld (by omega), if_neg (by omega)]
  · rw [t.fate_of_behind q hheld hbehind]
    simp only [hnear, true_and]

end Sys2Proof.Machine
end

section
/-! PROOF. Train time: its rate, its steps, its wraps and its slews (R304, R305, R309, R317, R318). -/

namespace Sys2Proof.Machine

/-! ### Consecutive registers -/

/-- A register within consecutive ones that are given words. -/
theorem Node.reg_setRegs (vs : List Word) (n : Node) (a i : Nat) (h : i < vs.length) :
    (n.setRegs a vs).reg (a + 4 * i) = vs[i] := by
  induction vs generalizing n a i with
  | nil => exact absurd h (by simp)
  | cons v vs ih =>
    rw [Node.setRegs_cons]
    cases i with
    | zero => rw [Node.reg_setRegs_out _ _ _ _ (by omega), Nat.mul_zero, Nat.add_zero, Node.reg_setReg_self]; rfl
    | succ i =>
      have hi : i < vs.length := by simpa using h
      rw [show a + 4 * (i + 1) = a + 4 + 4 * i by ring, ih _ _ _ hi]
      rfl

/-! ### The clock -/

theorem clampRate_bounds (r : Int) : -858993 ≤ clampRate r ∧ clampRate r ≤ 858993 := by
  unfold clampRate maxRate
  omega

theorem clampRate_eq_self {r : Int} (hlo : -858993 ≤ r) (hhi : r ≤ 858993) : clampRate r = r := by
  unfold clampRate maxRate
  omega

theorem Node.rate_setRate (n : Node) (r : Int) : (n.setRate r).tm.rate = clampRate r := rfl

theorem Node.fine_setRate (n : Node) (r : Int) : (n.setRate r).fine = n.fine := by
  simp only [Node.setRate, Node.fine, fineTime]
  ring

/-- Two nodes whose clocks read the same, now and later. -/
def Node.SameClock (n m : Node) : Prop := m.tm.raw = n.tm.raw ∧ m.tm.offset = n.tm.offset ∧ m.tm.rate = n.tm.rate

theorem Node.SameClock.refl (n : Node) : n.SameClock n := ⟨rfl, rfl, rfl⟩

theorem Node.SameClock.trans {n m k : Node} (hm : n.SameClock m) (hk : m.SameClock k) : n.SameClock k :=
  ⟨hk.1.trans hm.1, hk.2.1.trans hm.2.1, hk.2.2.trans hm.2.2⟩

theorem Node.SameClock.of_tm {n m : Node} (h : m.tm = n.tm) : n.SameClock m := by
  rw [Node.SameClock, h]
  exact ⟨rfl, rfl, rfl⟩

theorem Node.SameClock.fine_eq {n m : Node} (h : n.SameClock m) : m.fine = n.fine := by
  obtain ⟨hraw, hoffset, hrate⟩ := h
  rw [Node.fine, Node.fine, hraw, hoffset, hrate]

theorem Node.reg_withTm (n : Node) (tm : TimeState) (a : Nat) : ({ n with tm := tm } : Node).reg a = n.reg a := rfl

/-! ### What follows a step (R331, R338) -/

theorem Node.sameClock_toutAfterStep (n : Node) (i : Nat) : n.SameClock (n.toutAfterStep i) := by
  unfold Node.toutAfterStep
  dsimp only
  split
  · refine .trans ?_ (.of_tm (Node.setBits_tm _ _ _ _ _))
    exact ⟨rfl, rfl, rfl⟩
  · exact .refl n

theorem Node.reg_toutAfterStep_ne (n : Node) {i a : Nat} (h : a ≠ Reg.TMB_TOUT_STAT i) : (n.toutAfterStep i).reg a = n.reg a := by
  unfold Node.toutAfterStep
  dsimp only
  split
  · exact Node.reg_setBits_ne _ _ _ _ h
  · rfl

theorem Node.sameClock_withMute (n : Node) (mute : Bool) : n.SameClock { n with tm := { n.tm with audioMute := mute } } :=
  ⟨rfl, rfl, rfl⟩

theorem Node.sameClock_audioAfterStep (n : Node) (ns : Int) : n.SameClock (n.audioAfterStep ns) := by
  unfold Node.audioAfterStep
  split
  · exact .refl n
  · refine .trans (.trans ?_ (Node.sameClock_withMute _ true)) (.of_tm (Node.raise_tm _ _ _ _))
    exact .of_tm ((Node.setBits_tm _ _ _ _ _).trans (Node.setBit_tm _ _ _ _))

theorem Node.reg_audioAfterStep_ne (n : Node) (ns : Int) {a : Nat} (haud : a ≠ Reg.TMB_AUD_STAT) (hdrop : a ≠ Reg.EVT_DROP) :
    (n.audioAfterStep ns).reg a = n.reg a := by
  have hset (m : Node) (e : Nat) : ((m.setBit Reg.TMB_AUD_STAT 0 false).setBits Reg.TMB_AUD_STAT 16 16 e).reg a = m.reg a :=
    (Node.reg_setBits_ne _ _ _ _ haud).trans (Node.reg_setReg_ne _ _ haud)
  unfold Node.audioAfterStep
  split
  · rfl
  · exact (Node.reg_raise_ne _ _ _ _ hdrop).trans ((Node.reg_withTm _ _ _).trans (hset _ _))

/-- What follows a step of train time leaves the clock as the step has set it. -/
theorem Node.sameClock_afterStep (n : Node) (ns : Int) :
    n.SameClock (((List.range 8).foldl Node.toutAfterStep n).audioAfterStep ns) :=
  .trans (List.foldlRecOn (motive := fun m : Node => n.SameClock m) _ _ (.refl n) fun m hm i _ => hm.trans (m.sameClock_toutAfterStep i))
    (Node.sameClock_audioAfterStep _ _)

/-- It writes the registers of the timed outputs and of the audio clock, and counts what the router has dropped. -/
theorem Node.reg_afterStep (n : Node) (ns : Int) {a : Nat} (htout : ∀ i, a ≠ Reg.TMB_TOUT_STAT i) (haud : a ≠ Reg.TMB_AUD_STAT)
    (hdrop : a ≠ Reg.EVT_DROP) : (((List.range 8).foldl Node.toutAfterStep n).audioAfterStep ns).reg a = n.reg a :=
  (Node.reg_audioAfterStep_ne _ _ haud hdrop).trans
    (List.foldlRecOn (motive := fun m : Node => m.reg a = n.reg a) _ _ rfl fun m hm i _ => (m.reg_toutAfterStep_ne (htout i)).trans hm)

/-! ### Steps and wraps -/

@[simp] theorem Node.syncEpoch_tm (n : Node) : n.syncEpoch.tm = n.tm := Node.setRegs_tm _ _ _

theorem Node.reg_syncEpoch_out (n : Node) {a : Nat} (h : a < Reg.TMB_EPOCH_NS ∨ Reg.TMB_EPOCH_NS + 12 ≤ a) :
    n.syncEpoch.reg a = n.reg a := Node.reg_setRegs_out _ _ _ _ h

/-- The node with its offset moved by a step, before the step is shown. -/
def Node.shifted (n : Node) (d : Int) : Node :=
  { n with tm := { n.tm with old := some ⟨n.tm.raw, n.tm.offset, n.tm.rate⟩, offset := n.tm.offset + d } }

theorem Node.fine_shifted (n : Node) (d : Int) : (n.shifted d).fine = n.fine + d := by
  simp only [Node.shifted, Node.fine, fineTime]
  ring

theorem Node.sameClock_stepTime (n : Node) (d : Int) (cause : Nat) : (n.shifted d).SameClock (n.stepTime d cause) := by
  refine .trans (.of_tm ?_) (Node.sameClock_afterStep _ _)
  rw [Node.raise_tm, Node.setReg_tm, Node.inc, Node.addSat, Node.setReg_tm, Node.syncEpoch_tm]
  rfl

theorem Node.reg_stepTime_cnt (n : Node) (d : Int) (cause : Nat) : (n.stepTime d cause).reg Reg.TMB_STEP_CNT =
    word (min ((n.reg Reg.TMB_STEP_CNT).toNat + 1) 0xFFFFFFFF) := by
  rw [Node.stepTime, Node.reg_afterStep _ _ (fun i => by simp only [Reg.TMB_STEP_CNT, Reg.TMB_TOUT_STAT]; omega) (by decide) (by decide),
    Node.reg_raise_ne _ _ _ _ (by decide), Node.reg_setReg_ne _ _ (by decide), Node.reg_inc_self,
    Node.reg_syncEpoch_out _ (.inr (by decide))]
  rfl

theorem Node.reg_stepTime_last (n : Node) (d : Int) (cause : Nat) : (n.stepTime d cause).reg Reg.TMB_LAST_STEP =
    sword (d / 65536) := by
  rw [Node.stepTime, Node.reg_afterStep _ _ (fun i => by simp only [Reg.TMB_LAST_STEP, Reg.TMB_TOUT_STAT]; omega) (by decide) (by decide),
    Node.reg_raise_ne _ _ _ _ (by decide), Node.reg_setReg_self]

theorem Node.reg_syncEpoch_ns (n : Node) : n.syncEpoch.reg Reg.TMB_EPOCH_NS = word (nsOf (n.trainNs / 2 ^ 32 * 2 ^ 32)) :=
  Node.reg_setRegs _ n Reg.TMB_EPOCH_NS 0 (by simp)

theorem Node.reg_syncEpoch_secLo (n : Node) : n.syncEpoch.reg Reg.TMB_EPOCH_SEC_LO = word (secOf (n.trainNs / 2 ^ 32 * 2 ^ 32)) :=
  Node.reg_setRegs _ n Reg.TMB_EPOCH_NS 1 (by simp)

/-! ### Slews (R320) -/

theorem Node.slewDone_of_slew {n : Node} {sl : Slew} (h : n.tm.slew = some sl) :
    n.slewDone = ({ n with tm := { n.tm with slew := none } }.setRate sl.base).setFld Reg.TMB_STATE Fld.TMB_STATE_SLEW 0 := by
  rw [Node.slewDone, h]

theorem exec_slewComplete_reached (s : State) (time : Nat) (h : (s.node.at time).slewReached = true) :
    exec (.slewComplete time) s = .next (s.on fun n => (n.at time).slewDone) := exec_on_eq rfl (if_pos h)

theorem exec_slewComplete_early (s : State) (time : Nat) (h : (s.node.at time).slewReached = false) :
    exec (.slewComplete time) s = .next (s.on fun n => n.at time) := exec_on_eq rfl (if_neg (by simp [h]))

/-- Settles O38. -/
theorem trainTimeIsContinuousButForSteps : Obligations.TrainTimeIsContinuousButForSteps := by
  refine ⟨fun n r => ?_, fun n d cause => ?_, fun s time => ?_, fun s time sl hslew hreached hlo hhi => ?_, fun s time h => ?_⟩
  · obtain ⟨hlo, hhi⟩ := clampRate_bounds r
    exact ⟨n.fine_setRate r, hlo, hhi, clampRate_eq_self⟩
  · have hclock := n.sameClock_stepTime d cause
    exact ⟨hclock.fine_eq.trans (n.fine_shifted d), hclock.2.2, n.reg_stepTime_cnt d cause, n.reg_stepTime_last d cause⟩
  · exact ⟨_, rfl, Node.syncEpoch_tm _, Node.reg_syncEpoch_ns _, Node.reg_syncEpoch_secLo _⟩
  · refine ⟨_, exec_slewComplete_reached s time hreached, ?_⟩
    have hdone := Node.slewDone_of_slew (show (s.node.at time).tm.slew = some sl from hslew)
    rw [State.on_node, hdone]
    exact ⟨rfl, clampRate_eq_self hlo hhi, Node.fine_setRate _ _, Node.fld_setFld_self _ _ _ _ (by decide)⟩
  · exact exec_slewComplete_early s time h

end Sys2Proof.Machine
end

section
/-! PROOF. What a node writes on the spine it reads back: stream table entries, requests and verdicts (R163, R346, R362, R364). -/

namespace Sys2Proof.Machine

/-! ### Numbers as bytes, most significant first (R8) -/

theorem length_encLE (len v : Nat) : (encLE len v).length = len := by
  induction len generalizing v with
  | zero => rfl
  | succ len ih => rw [encLE, List.length_cons, ih]

@[simp] theorem length_encBE (len v : Nat) : (encBE len v).length = len := by rw [encBE, List.length_reverse, length_encLE]

theorem beNat_append_singleton (bs : List Byte) (b : Byte) : beNat (bs ++ [b]) = beNat bs * 256 + b.toNat := by
  simp [beNat]

theorem beNat_encBE (len v : Nat) : beNat (encBE len v) = v % 256 ^ len := by
  induction len generalizing v with
  | zero => simp [encBE, encLE, beNat, Nat.mod_one]
  | succ len ih =>
    have hdigits : v % (256 * 256 ^ len) = v % 256 + 256 * (v / 256 % 256 ^ len) := Nat.mod_mul
    rw [encBE, encLE, List.reverse_cons, beNat_append_singleton, ← encBE, ih, Nat.pow_succ', hdigits, BitVec.toNat_ofNat]
    omega

theorem slice_append_right (p q : List Byte) (off len : Nat) : slice (p ++ q) (p.length + off) len = slice q off len := by
  refine List.map_congr_left fun i _ => ?_
  rw [List.getD_append_right _ _ _ _ (by omega)]
  congr 1
  omega

theorem slice_append_left (p q : List Byte) : slice (p ++ q) 0 p.length = p := by
  refine List.ext_getElem (by simp [slice]) fun i _ hi => ?_
  simp only [slice, List.getElem_map, List.getElem_range, Nat.zero_add, List.getD_append _ _ _ _ hi, List.getD_eq_getElem _ _ hi]

theorem beAt_append_right (p q : List Byte) {off len k : Nat} (h : k = p.length + off) : beAt (p ++ q) k len = beAt q off len := by
  rw [beAt, beAt, h, slice_append_right]

/-- A number written in `len` bytes reads as its low bits. -/
theorem beAt_encBE_append (len v : Nat) (q : List Byte) : beAt (encBE len v ++ q) 0 len = v % 256 ^ len := by
  have h := slice_append_left (encBE len v) q
  rw [length_encBE] at h
  rw [beAt, h, beNat_encBE]

theorem beAt_encBE (len v : Nat) : beAt (encBE len v) 0 len = v % 256 ^ len := by
  have h := beAt_encBE_append len v []
  rwa [List.append_nil] at h

/-- A field behind a number is read behind its bytes. -/
theorem beAt_encBE_skip (len v : Nat) (q : List Byte) {off k : Nat} (h : len ≤ off) :
    beAt (encBE len v ++ q) off k = beAt q (off - len) k :=
  beAt_append_right _ _ (by rw [length_encBE]; omega)

theorem byteAt_eq_beAt (bs : List Byte) (i : Nat) : byteAt bs i = beAt bs i 1 := by
  simp [byteAt, beAt, beNat, slice]

theorem beAt_zero_skip (q : List Byte) {off k : Nat} (h : 1 ≤ off) : beAt (zeros 1 ++ q) off k = beAt q (off - 1) k :=
  beAt_append_right _ _ (by rw [show (zeros 1).length = 1 from rfl]; omega)

/-- A word written in four bytes is what they spell. -/
theorem word_mod (w : Word) : word (w.toNat % 256 ^ 4) = w := by
  apply BitVec.eq_of_toNat_eq
  rw [word_toNat]
  have := w.isLt
  omega

theorem exists_eight {w : List Word} (h : w.length = 8) : ∃ a b c d e f g i, w = [a, b, c, d, e, f, g, i] := by
  match w, h with
  | [a, b, c, d, e, f, g, i], _ => exact ⟨a, b, c, d, e, f, g, i, rfl⟩

/-- Eight words in network order read back. -/
theorem words_read_back {w : List Word} (h : w.length = 8) (q : List Byte) :
    ((List.range 8).map fun i => word (beAt ((w.flatMap fun x => encBE 4 x.toNat) ++ q) (4 * i) 4)) = w := by
  obtain ⟨a, b, c, d, e, f, g, i, rfl⟩ := exists_eight h
  rw [show List.range 8 = [0, 1, 2, 3, 4, 5, 6, 7] from rfl]
  simp only [List.map_cons, List.map_nil, List.flatMap_cons, List.flatMap_nil, List.append_assoc, List.nil_append, Nat.reduceMul,
    beAt_encBE_append, beAt_encBE_skip, Nat.reduceLeDiff, Nat.reduceSub, word_mod, Nat.le_refl]

/-! ### Requests (R362) -/

/-- The sixteen bytes that a request has before its entry. -/
def requestHead (q : PlcReq) : List Byte :=
  encBE 1 q.type ++ zeros 1 ++ encBE 2 q.stream ++ encBE 2 q.tag ++ encBE 6 q.requester ++ encBE 4 q.first

theorem requestBytes_eq (q : PlcReq) (htype : q.type = 1) :
    requestBytes q = requestHead q ++ ((q.entry.flatMap fun w => encBE 4 w.toNat) ++ []) := by
  rw [requestBytes, if_pos htype, List.append_nil]
  rfl

theorem decode_requestBytes (q : PlcReq) (htype : q.type = 1) (hstream : q.stream < 65536) (htag : q.tag < 65536)
    (hrequester : q.requester < 2 ^ 48) (hfirst : q.first < 2 ^ 32) (hentry : q.entry.length = 8) :
    decodeRequest (requestBytes q) = { q with cycle := 0, attempts := 0 } := by
  have hwords (i : Nat) : beAt (requestBytes q) (16 + 4 * i) 4 = beAt ((q.entry.flatMap fun w => encBE 4 w.toNat) ++ []) (4 * i) 4 := by
    rw [requestBytes_eq q htype]
    exact beAt_append_right _ _ rfl
  simp only [decodeRequest, hwords, words_read_back hentry, byteAt_eq_beAt]
  rw [requestBytes_eq q htype]
  simp only [requestHead, List.append_assoc, beAt_encBE_append, beAt_encBE_skip, beAt_zero_skip, Nat.reduceLeDiff, Nat.reduceSub,
    Nat.le_refl]
  rw [Nat.mod_eq_of_lt (by omega), Nat.mod_eq_of_lt (by omega), Nat.mod_eq_of_lt (by omega), Nat.mod_eq_of_lt (by omega),
    Nat.mod_eq_of_lt (by omega)]

/-! ### Verdicts (R364) -/

theorem b2n_le_one (b : Bool) : b2n b ≤ 1 := by cases b <;> decide

/-- The sixteen bytes that a verdict has before its entry, and the eight bytes of one of its slots. -/
def verdictHead (v : Verdict) : List Byte :=
  encBE 2 v.stream ++ encBE 1 v.result ++ encBE 1 v.reason ++ encBE 4 v.admSeq ++ encBE 2 v.epoch ++ encBE 2 v.tag ++
  encBE 4 v.digest.toNat

def slotBytes (s : VSlot) : List Byte :=
  encBE 2 (s.num + s.copy % 4 * 4096 + b2n s.orig * 16384) ++ encBE 2 s.egress ++ encBE 4 s.start

theorem verdict_bytes_eq (v : Verdict) :
    v.bytes = verdictHead v ++ ((v.entry.flatMap fun w => encBE 4 w.toNat) ++ v.slots.flatMap slotBytes) := by
  rw [Verdict.bytes, verdictHead]
  simp only [List.append_assoc]
  rfl

/-- The fields of a slot from its bytes. -/
def slotAt (b : List Byte) (o : Nat) : VSlot :=
  ⟨beAt b o 2 % 4096, beAt b o 2 / 4096 % 4, (beAt b o 2).testBit 14, beAt b (o + 2) 2 % 32768, beAt b (o + 4) 4⟩

theorem slotAt_slotBytes (s : VSlot) (q : List Byte) (hnum : s.num < 4096) (hcopy : s.copy < 4) (hegress : s.egress < 32768)
    (hstart : s.start < 2 ^ 32) : slotAt (slotBytes s ++ q) 0 = s := by
  obtain ⟨num, copy, orig, egress, start⟩ := s
  dsimp only at hnum hcopy hegress hstart
  have horig : (num + copy % 4 * 4096 + b2n orig * 16384).testBit 14 = orig := by
    rw [Nat.testBit_eq_decide_div_mod_eq]
    cases orig <;> simp [b2n] <;> omega
  have hflag := b2n_le_one orig
  simp only [slotAt, slotBytes, List.append_assoc, beAt_encBE_append, beAt_encBE_skip, Nat.zero_add, Nat.reduceLeDiff, Nat.reduceSub,
    Nat.le_refl, VSlot.mk.injEq]
  have hsmall : (num + copy % 4 * 4096 + b2n orig * 16384) % 256 ^ 2 = num + copy % 4 * 4096 + b2n orig * 16384 :=
    Nat.mod_eq_of_lt (by omega)
  rw [hsmall]
  exact ⟨by omega, by omega, horig, by omega, by omega⟩

theorem length_slotBytes (s : VSlot) : (slotBytes s).length = 8 := by simp [slotBytes]

theorem slotAt_append_right (p q : List Byte) {o k : Nat} (h : k = p.length + o) : slotAt (p ++ q) k = slotAt q o := by
  simp only [slotAt]
  rw [beAt_append_right _ _ h, beAt_append_right (off := o + 2) _ _ (by omega), beAt_append_right (off := o + 4) _ _ (by omega)]

/-- Slots one after another read back. -/
theorem slots_read_back (l : List VSlot) (h : ∀ x ∈ l, x.num < 4096 ∧ x.copy < 4 ∧ x.egress < 32768 ∧ x.start < 2 ^ 32) :
    ((List.range l.length).map fun i => slotAt (l.flatMap slotBytes) (8 * i)) = l := by
  induction l with
  | nil => rfl
  | cons s l ih =>
    obtain ⟨hnum, hcopy, hegress, hstart⟩ := h s (List.mem_cons_self)
    have hrest (i : Nat) : slotAt ((s :: l).flatMap slotBytes) (8 * (i + 1)) = slotAt (l.flatMap slotBytes) (8 * i) := by
      rw [List.flatMap_cons]
      exact slotAt_append_right _ _ (by rw [length_slotBytes]; omega)
    rw [List.length_cons, List.range_succ_eq_map, List.map_cons, List.map_map]
    refine congrArg₂ _ ?_ ?_
    · rw [List.flatMap_cons]
      exact slotAt_slotBytes s _ hnum hcopy hegress hstart
    · simp only [Function.comp_def, Nat.succ_eq_add_one, hrest]
      exact ih fun x hx => h x (List.mem_cons_of_mem _ hx)

theorem decode_verdictBytes (v : Verdict) (hstream : v.stream < 65536) (hresult : v.result < 256) (hreason : v.reason < 256)
    (hseq : v.admSeq < 2 ^ 32) (hepoch : v.epoch < 65536) (htag : v.tag < 65536) (hentry : v.entry.length = 8)
    (hslots : ∀ x ∈ v.slots, x.num < 4096 ∧ x.copy < 4 ∧ x.egress < 32768 ∧ x.start < 2 ^ 32) : decodeVerdict v.bytes = v := by
  have hhead : (verdictHead v).length = 16 := by simp [verdictHead]
  have hfixed : (verdictHead v ++ v.entry.flatMap fun w => encBE 4 w.toNat).length = 48 := by
    simp [hhead, List.length_flatMap, hentry]
  have hlen : (v.bytes.length - 48) / 8 = v.slots.length := by
    rw [verdict_bytes_eq, ← List.append_assoc, List.length_append, hfixed, List.length_flatMap]
    simp [length_slotBytes]
  have hwords (i : Nat) : beAt v.bytes (16 + 4 * i) 4 =
      beAt ((v.entry.flatMap fun w => encBE 4 w.toNat) ++ v.slots.flatMap slotBytes) (4 * i) 4 := by
    rw [verdict_bytes_eq]
    exact beAt_append_right _ _ (by rw [hhead])
  have hslot (i : Nat) : slotAt v.bytes (48 + 8 * i) = slotAt (v.slots.flatMap slotBytes) (8 * i) := by
    rw [verdict_bytes_eq, ← List.append_assoc]
    exact slotAt_append_right _ _ (by rw [hfixed])
  have hread : decodeVerdict v.bytes = { v with
      stream := beAt v.bytes 0 2, result := byteAt v.bytes 2, reason := byteAt v.bytes 3, admSeq := beAt v.bytes 4 4
      epoch := beAt v.bytes 8 2, tag := beAt v.bytes 10 2, digest := word (beAt v.bytes 12 4) } := by
    refine Verdict.mk.injEq .. ▸ ⟨rfl, rfl, rfl, rfl, rfl, rfl, rfl, ?_, ?_⟩
    · simp only [hwords]
      exact words_read_back hentry _
    · rw [hlen]
      exact (List.map_congr_left fun i _ => hslot i).trans (slots_read_back _ hslots)
  rw [hread]
  simp only [byteAt_eq_beAt]
  rw [verdict_bytes_eq]
  simp only [verdictHead, List.append_assoc, beAt_encBE_append, beAt_encBE_skip, Nat.reduceLeDiff, Nat.reduceSub, Nat.le_refl, word_mod]
  rw [Nat.mod_eq_of_lt (by omega), Nat.mod_eq_of_lt (by omega), Nat.mod_eq_of_lt (by omega), Nat.mod_eq_of_lt (by omega),
    Nat.mod_eq_of_lt (by omega), Nat.mod_eq_of_lt (by omega)]

/-! ### Stream table entries (R346) -/

theorem b2n_beq_one (b : Bool) : (b2n b == 1) = b := by cases b <;> rfl

theorem strmOf_words (e : Strm) (hsrc : e.src < 2 ^ 48) (hcls : e.cls < 4) (hlines : e.lines < 4) (hprio : e.prio < 16)
    (hstate : e.state < 8) (hkind : e.dkind < 256) (harg0 : e.darg0 < 65536) (harg1 : e.darg1 < 2 ^ 32) (hk : e.k < 16)
    (hphase : e.phase < 1024) (hsize : e.size < 2048) (hdeadline : e.deadline < 2 ^ 34) (hseq : e.admSeq < 2 ^ 32)
    (hcount : e.dcount < 4096) (hreason : e.reason < 16) : strmOf e.words = e := by
  have hvalid := b2n_le_one e.valid
  have hpair := b2n_le_one e.pair
  have hfixed := b2n_le_one e.fixed
  have hsecure := b2n_le_one e.secure
  have hgrowth := b2n_le_one e.growth
  have hflag {b : Bool} {k : Nat} (h : k = b2n b) : (k == 1) = b := by rw [h, b2n_beq_one]
  simp only [strmOf, Strm.words, bitsOf, List.getD_cons_zero, List.getD_cons_succ, word_toNat]
  refine Strm.mk.injEq .. ▸ ⟨?_, hflag ?_, hflag ?_, ?_, ?_, ?_, hflag ?_, hflag ?_, hflag ?_, ?_, ?_, ?_, ?_, ?_, ?_, ?_, ?_, ?_,
    ?_, ?_⟩
  all_goals omega

/-- Settles O43. -/
theorem entriesReadBackAsWritten : Obligations.EntriesReadBackAsWritten :=
  ⟨strmOf_words, decode_requestBytes, decode_verdictBytes⟩

end Sys2Proof.Machine
end

section
/-! PROOF. Reset values, registers, events and plain writes (R4, R6, R10, R670 to R676). -/

namespace Sys2Proof.Machine

/-! ### The state after reset -/

theorem Node.reg_reset (a : Nat) (hlo : a ≠ Reg.TOP_NODE_ID_LO) (hhi : a ≠ Reg.TOP_NODE_ID_HI) : Node.reset.reg a = regReset a := by
  have hregs : Node.reset.regs = [(Reg.TOP_NODE_ID_LO, 0x915E07D2#32), (Reg.TOP_NODE_ID_HI, 0x3C0A#32)] := rfl
  rw [Node.reg, hregs, Sparse.get, if_neg hlo.symm, Sparse.get, if_neg hhi.symm, Sparse.get]

/-- Settles O6. -/
theorem resetLeavesTheResetValues : Obligations.ResetLeavesTheResetValues :=
  ⟨rfl, Memory.wf_reset, Node.reg_reset, by decide +kernel, by decide +kernel, by decide +kernel, rfl, rfl, rfl, rfl⟩

/-! ### Registers and events -/

theorem Node.setReg_withRegs (n : Node) (a : Nat) (v : Word) : { n.setReg a v with regs := n.regs } = n := rfl

theorem Node.raise_of_room (n : Node) (code d0 d1 : Nat) (h : n.ev.queue.length < 256) :
    n.raise code d0 d1 = { n with ev := { n.ev with queue := n.ev.queue ++ [n.eventNow code d0 d1] } } := if_pos h

theorem Node.raise_of_full (n : Node) (code d0 d1 : Nat) (h : 256 ≤ n.ev.queue.length) :
    n.raise code d0 d1 = n.inc Reg.EVT_DROP := if_neg (by omega)

/-- Settles O7. -/
theorem registersHoldAndEventsJoinTheQueue : Obligations.RegistersHoldAndEventsJoinTheQueue := by
  refine ⟨fun n a v => ⟨n.reg_setReg_self a v, fun b h => n.reg_setReg_ne v h, n.setReg_withRegs a v, Memory.wf_setReg n a v⟩,
    fun n code d0 d1 => ⟨fun hroom => ?_, fun hfull => ?_, fun hbound => ?_⟩⟩
  · rw [n.raise_of_room code d0 d1 hroom]
    exact ⟨rfl, rfl⟩
  · rw [n.raise_of_full code d0 d1 hfull]
    exact ⟨rfl, n.reg_inc_self _, n.setReg_withRegs _ _⟩
  · rcases n.raise_cases code d0 d1 with ⟨hroom, h⟩ | ⟨_, h⟩
    · rw [h]
      simpa using hroom
    · rw [h]
      exact hbound

/-! ### Plain writes -/

theorem Node.plainWrite_writable (n : Node) {addr : Nat} {row : RegRow} (v hw : Word) (hrow : regRow addr = some row)
    (h : row.access = .rw ∨ row.access = .rws ∨ row.access = .wo) :
    n.plainWrite addr v hw = n.setReg addr ((n.reg addr &&& ~~~row.wmask) ||| (v &&& row.wmask)) := by
  rcases h with h | h | h <;> simp [Node.plainWrite, hrow, h]

theorem Node.plainWrite_readOnly (n : Node) {addr : Nat} {row : RegRow} (v hw : Word) (hrow : regRow addr = some row)
    (h : row.access = .ro ∨ row.access = .ros ∨ row.access = .rc) : n.plainWrite addr v hw = n := by
  rcases h with h | h | h <;> simp [Node.plainWrite, hrow, h]

theorem Node.plainWrite_w1c (n : Node) {addr : Nat} {row : RegRow} (v hw : Word) (hrow : regRow addr = some row)
    (h : row.access = .w1c) : n.plainWrite addr v hw = n.setReg addr ((n.reg addr &&& ~~~(v &&& row.wmask)) ||| hw) := by
  simp [Node.plainWrite, hrow, h]

theorem plainAddr_iff (a : Nat) : plainAddr a = true ↔ a < 0x00180000 ∨ (0x00300000 ≤ a ∧ a < 0x00310000) ∨
    (0x00A00000 ≤ a ∧ a < 0x01C00000) ∨ (0x02000000 ≤ a ∧ a < 0x02800000) := by
  simp only [plainAddr, isIn, Bool.or_eq_true, Bool.and_eq_true, decide_eq_true_eq]
  omega

/-- At a plain address none of the blocks with writes of their own is meant. -/
theorem Node.writeReg_plain (n : Node) (ctx : Nat) {a : Nat} (v hw : Word) (h : plainAddr a = true) :
    n.writeReg ctx a v hw = n.plainWrite a v hw := by
  rw [plainAddr_iff] at h
  have hout {lo hi : Nat} (hrange : ¬ (lo ≤ a ∧ a < hi)) : ¬ isIn a lo hi = true := by
    simpa only [isIn, Bool.and_eq_true, decide_eq_true_eq] using hrange
  unfold Node.writeReg
  iterate 14 rw [if_neg (hout (by omega))]

theorem exec_registerWrite_admitted (s : State) (ctx addr : Nat) (v : Word) (h : s.node.admits ctx addr true = true) :
    exec (.registerWrite ctx addr v) s = .next (s.on fun n => (n.answer 0#32).writeReg ctx addr v 0#32) := by
  refine exec_on_eq rfl ?_
  rw [Node.isBar4_of_admits h, if_neg Bool.false_ne_true]
  exact Node.access_admitted _ _ _ _ _ h

theorem exec_w1cWrite_admitted (s : State) (ctx addr : Nat) (v hw : Word) (h : s.node.admits ctx addr true = true) :
    exec (.w1cWrite ctx addr v hw) s = .next (s.on fun n => (n.answer 0#32).writeReg ctx addr v hw) :=
  exec_on_eq rfl (Node.access_admitted _ _ _ _ _ h)

/-- Settles O8. -/
theorem writesChangeOnlyTheWritableBits : Obligations.WritesChangeOnlyTheWritableBits := by
  intro s ctx addr v hw row hadm hplain hrow
  refine ⟨fun h => ?_, fun h => ?_, fun h => ?_⟩
  · rw [exec_registerWrite_admitted s ctx addr v hadm]
    exact State.next_on_congr ((Node.writeReg_plain _ _ _ _ hplain).trans (Node.plainWrite_writable _ _ _ hrow h))
  · rw [exec_registerWrite_admitted s ctx addr v hadm]
    exact State.next_on_congr ((Node.writeReg_plain _ _ _ _ hplain).trans (Node.plainWrite_readOnly _ _ _ hrow h))
  · rw [exec_w1cWrite_admitted s ctx addr v hw hadm]
    exact State.next_on_congr ((Node.writeReg_plain _ _ _ _ hplain).trans (Node.plainWrite_w1c _ _ _ hrow h))

end Sys2Proof.Machine
end

section
/-! PROOF. The rings of a host context: doorbells, sizes, DMA errors, coalesced vectors and the MSI-X table (R626, R631, R632, R635,
R643, R669). -/

namespace Sys2Proof.Machine

/-! ### Writes of the registers of a context (R660) -/

/-- A ring register of a present context that is not resetting. -/
structure RingWritten (n : Node) (addr c off : Nat) : Prop where
  ctx : (addr - 0x03400000) / 0x400 = c
  off : (addr - 0x03400000) % 0x400 = off
  present : n.ctxPresent c = true
  running : n.ctxResetting c = false

namespace RingWritten

variable {n : Node} {addr c off : Nat} (v hw : Word)

/-- Beyond the control and interrupt registers a write reaches the registers of the event ring, the ring pairs and the frame
rings. -/
theorem hstWrite_eq (h : RingWritten n addr c off) (hoff : 0x14 ≤ off) :
    n.hstWrite addr v hw =
      if off = 0x20 then n.ringBase c (Reg.HST_EVQ_SIZE c) addr v
      else if off = 0x24 then n.ringBase c (Reg.HST_EVQ_SIZE c) addr v
      else if off = 0x28 then n.ringSize c 4 addr false 128 v
      else if off = 0x2C then n.doorbell c 4 (Reg.HST_EVQ_SIZE c) addr v
      else if 0x100 ≤ off ∧ off < 0x200 then n.pairWrite c ((off - 0x100) / 0x40) ((off - 0x100) % 0x40) v
      else if 0x300 ≤ off then n.frameRingWrite c (off - 0x300) v
      else n := by
  obtain ⟨rfl, rfl, hpresent, hrunning⟩ := h
  unfold Node.hstWrite
  extract_lets c off
  rw [if_neg (by simpa using hpresent), if_neg (by omega), if_neg (by omega), if_neg (by omega), if_neg (by simpa using hrunning)]

theorem hstWrite_evqHead (h : RingWritten n addr c 0x2C) : n.hstWrite addr v hw = n.doorbell c 4 (Reg.HST_EVQ_SIZE c) addr v :=
  h.hstWrite_eq v hw (by decide)

theorem hstWrite_pair {r o : Nat} (h : RingWritten n addr c off) (hoff : off = 0x100 + r * 0x40 + o) (hr : r < 4) (ho : o < 0x40) :
    n.hstWrite addr v hw = n.pairWrite c r o v := by
  rw [h.hstWrite_eq v hw (by omega), if_neg (by omega), if_neg (by omega), if_neg (by omega), if_neg (by omega), if_pos (by omega),
    show (off - 0x100) / 0x40 = r by omega, show (off - 0x100) % 0x40 = o by omega]

theorem hstWrite_frames {o : Nat} (h : RingWritten n addr c (0x300 + o)) : n.hstWrite addr v hw = n.frameRingWrite c o v := by
  rw [h.hstWrite_eq v hw (by omega), if_neg (by omega), if_neg (by omega), if_neg (by omega), if_neg (by omega), if_neg (by omega),
    if_pos (by omega), Nat.add_sub_cancel_left]

end RingWritten

theorem Node.ctxPresent_lt {n : Node} {c : Nat} (h : n.ctxPresent c = true) : c < 8 := by
  simp only [Node.ctxPresent, Bool.and_eq_true, decide_eq_true_eq] at h
  exact h.1

/-! ### Doorbells (R632, R643) -/

/-- An admitted access to a ring register is the write behind it, on the node that has answered zero so far. -/
theorem Node.hstAccess_admitted (n : Node) (ctx addr : Nat) (v : Word) (h : n.admits ctx addr true = true) :
    n.hstAccess ctx addr v = (n.answer 0#32).hstWrite addr v 0#32 := Node.access_admitted _ _ _ _ _ h

theorem Node.doorbell_answer (n : Node) (c ring size addr : Nat) (v : Word) : (n.answer 0#32).doorbell c ring size addr v =
    if n.engFailed 0 then n.answer 0#32
    else if v.toNat < (n.reg size).toNat then (n.answer 0#32).setReg addr v
    else (n.answer 0#32).raise 0x7103 (c + ring * 16) v.toNat := rfl

section
variable (s : State) (ctx ring : Nat) (v : Word) (hring : ring < 4) (hpresent : s.node.ctxPresent ctx = true)
  (hrunning : s.node.ctxResetting ctx = false)
include hpresent hrunning

theorem ringWritten_answer {addr off : Nat} (haddr : addr = 0x03400000 + ctx * 0x400 + off) (hoff : off < 0x400) :
    RingWritten (s.node.answer 0#32) addr ctx off :=
  ⟨by omega, by omega, hpresent, hrunning⟩

theorem exec_evqHeadDoorbell_admitted (hadm : s.node.admits ctx (Reg.HST_EVQ_HEAD ctx) true = true) :
    exec (.evqHeadDoorbell ctx v) s =
      .next (s.on fun n => (n.answer 0#32).doorbell ctx 4 (Reg.HST_EVQ_SIZE ctx) (Reg.HST_EVQ_HEAD ctx) v) := by
  refine exec_on_eq rfl ((Node.hstAccess_admitted _ _ _ _ hadm).trans ?_)
  exact (ringWritten_answer s ctx hpresent hrunning (off := 0x2C) (by simp only [Reg.HST_EVQ_HEAD]; omega) (by decide)).hstWrite_evqHead _ _

theorem exec_ftxTailDoorbell_admitted (hadm : s.node.admits ctx (Reg.HST_FTX_TAIL ctx) true = true) :
    exec (.ftxTailDoorbell ctx v) s =
      .next (s.on fun n => (n.answer 0#32).doorbell ctx 5 (Reg.HST_FTX_SIZE ctx) (Reg.HST_FTX_TAIL ctx) v) := by
  refine exec_on_eq rfl ((Node.hstAccess_admitted _ _ _ _ hadm).trans ?_)
  exact (ringWritten_answer s ctx hpresent hrunning (off := 0x300 + 0x0C) (by simp only [Reg.HST_FTX_TAIL]; omega) (by decide)).hstWrite_frames _ _

theorem exec_frxTailDoorbell_admitted (hadm : s.node.admits ctx (Reg.HST_FRX_TAIL ctx) true = true) :
    exec (.frxTailDoorbell ctx v) s =
      .next (s.on fun n => (n.answer 0#32).doorbell ctx 6 (Reg.HST_FRX_SIZE ctx) (Reg.HST_FRX_TAIL ctx) v) := by
  refine exec_on_eq rfl ((Node.hstAccess_admitted _ _ _ _ hadm).trans ?_)
  exact (ringWritten_answer s ctx hpresent hrunning (off := 0x300 + 0x20) (by simp only [Reg.HST_FRX_TAIL]; omega) (by decide)).hstWrite_frames _ _

include hring

/-- A write of a register of a ring pair that passes the access rules. -/
theorem Node.hstAccess_pair {addr o : Nat} (haddr : addr = 0x03400100 + ctx * 0x400 + ring * 0x40 + o) (ho : o < 0x40)
    (hadm : s.node.admits ctx addr true = true) : s.node.hstAccess ctx addr v = (s.node.answer 0#32).pairWrite ctx ring o v :=
  (Node.hstAccess_admitted _ _ _ _ hadm).trans
    ((ringWritten_answer s ctx hpresent hrunning (off := 0x100 + ring * 0x40 + o) (by omega) (by omega)).hstWrite_pair _ _ rfl hring ho)

theorem exec_sqTailDoorbell_admitted (hadm : s.node.admits ctx (Reg.HST_SQ_TAIL ctx ring) true = true) :
    exec (.sqTailDoorbell ctx ring v) s =
      .next (s.on fun n => (n.answer 0#32).doorbell ctx ring (Reg.HST_SQ_SIZE ctx ring) (Reg.HST_SQ_TAIL ctx ring) v) :=
  exec_on_eq rfl ((if_neg (by omega)).trans
    (Node.hstAccess_pair s ctx ring v hring hpresent hrunning (o := 0x0C) (by simp only [Reg.HST_SQ_TAIL]; omega) (by decide) hadm))

theorem exec_cqHeadDoorbell_admitted (hadm : s.node.admits ctx (Reg.HST_CQ_HEAD ctx ring) true = true) :
    exec (.cqHeadDoorbell ctx ring v) s =
      .next (s.on fun n => (n.answer 0#32).doorbell ctx ring (Reg.HST_CQ_SIZE ctx ring) (Reg.HST_CQ_HEAD ctx ring) v) :=
  exec_on_eq rfl ((if_neg (by omega)).trans
    (Node.hstAccess_pair s ctx ring v hring hpresent hrunning (o := 0x20) (by simp only [Reg.HST_CQ_HEAD]; omega) (by decide) hadm))

end

/-! ### Ring sizes (R631) -/

theorem ringSizeOk_small {c size : Nat} (h : size ∈ [16, 32, 64]) : ringSizeOk c false 64 size = true := by
  simp only [List.mem_cons, List.not_mem_nil, or_false] at h
  rcases h with rfl | rfl | rfl <;> simp [ringSizeOk]

theorem ringSizeOk_pcie {c size : Nat} (hc : c < 4) (h : size ∈ [128, 256, 512, 1024]) : ringSizeOk c false 64 size = true := by
  simp only [List.mem_cons, List.not_mem_nil, or_false] at h
  rcases h with rfl | rfl | rfl | rfl <;> simp [ringSizeOk, hc]

theorem ringSizeOk_other {c size : Nat} (h : size ∉ [16, 32, 64, 128, 256, 512, 1024]) : ringSizeOk c false 64 size = false := by
  unfold ringSizeOk
  simp only [Bool.false_eq_true, if_false]
  rw [List.contains_eq_mem, decide_eq_false h]
  simp

theorem exec_ringSizeWrite_sq (s : State) (ctx ring : Nat) (v : Word)
    (hhas : ring < s.node.fld (Reg.HST_CTX_CFG ctx) Fld.HST_CTX_CFG_RINGS) (hring : ring < 4)
    (hpresent : s.node.ctxPresent ctx = true) (hrunning : s.node.ctxResetting ctx = false)
    (hadm : s.node.admits ctx (Reg.HST_SQ_SIZE ctx ring) true = true) :
    exec (.ringSizeWrite ctx (Reg.HST_SQ_SIZE ctx ring) v) s =
      .next (s.on fun n => (n.answer 0#32).ringSize ctx ring (Reg.HST_SQ_SIZE ctx ring) false 64 v) := by
  have hctx := Node.ctxPresent_lt hpresent
  have hsize : isRingSize (Reg.HST_SQ_SIZE ctx ring) = true := by
    have hoff : (Reg.HST_SQ_SIZE ctx ring - 0x03400000) % 0x400 = 0x108 + ring * 0x40 := by simp only [Reg.HST_SQ_SIZE]; omega
    have hbound : 0x03400000 ≤ Reg.HST_SQ_SIZE ctx ring ∧ Reg.HST_SQ_SIZE ctx ring < 0x03402000 := by
      simp only [Reg.HST_SQ_SIZE]; omega
    have hlast : (0x108 + ring * 0x40) % 0x40 = 8 := by omega
    simp only [isRingSize, hoff, hbound, hlast]
    simp
    omega
  refine exec_on_eq rfl ((if_pos hsize).trans ?_)
  rw [Node.hstAccess_pair s ctx ring v hring hpresent hrunning (o := 0x08) (by simp only [Reg.HST_SQ_SIZE]; omega) (by decide) hadm]
  unfold Node.pairWrite
  extract_lets has
  have hrow : has = true := decide_eq_true hhas
  rw [if_neg (by decide), if_neg (by decide), if_neg (by simp [hrow]), if_neg (by decide), if_neg (by decide), if_pos rfl]

theorem Node.ringSize_kept {n : Node} {c ring addr spiMax : Nat} {frames : Bool} {v : Word}
    (h : n.reg addr ≠ 0#32 ∨ v.toNat % 2048 = 0) : n.ringSize c ring addr frames spiMax v = n := if_pos h

theorem Node.ringSize_taken {n : Node} {c ring addr spiMax : Nat} {frames : Bool} {v : Word} (hoff : n.reg addr = 0#32)
    (hsize : v.toNat % 2048 ≠ 0) (hok : ringSizeOk c frames spiMax (v.toNat % 2048) = true) :
    n.ringSize c ring addr frames spiMax v = n.setReg addr (word (v.toNat % 2048)) := by
  rw [Node.ringSize, if_neg (by simp [hoff, hsize]), if_pos hok]

theorem Node.ringSize_refused {n : Node} {c ring addr spiMax : Nat} {frames : Bool} {v : Word} (hoff : n.reg addr = 0#32)
    (hsize : v.toNat % 2048 ≠ 0) (hbad : ringSizeOk c frames spiMax (v.toNat % 2048) = false) :
    n.ringSize c ring addr frames spiMax v = n.raise 0x7103 (c + ring * 16) v.toNat := by
  rw [Node.ringSize, if_neg (by simp [hoff, hsize]), if_neg (by simp [hbad])]
  rfl

/-! ### DMA errors and coalesced vectors (R626, R635) -/

theorem exec_hostDmaError_stops (s : State) (ctx ring cause time : Nat) (hctx : ctx < 4) (hring : ring < 7)
    (hpresent : s.node.ctxPresent ctx = true) (hnew : s.node.host.stopped.contains (ctx, ring) = false) :
    exec (.hostDmaError ctx ring cause time) s = .next (s.on fun n =>
      let k := (n.at time).setBit (Reg.HST_CTX_STAT ctx) 3 true
      { k with host := { k.host with stopped := k.host.stopped ++ [(ctx, ring)] } }.raise 0x7105 (ctx + ring * 16) cause) := by
  have hgood : ¬ (4 ≤ ctx ∨ (!(s.node.at time).ctxPresent ctx) = true ∨ 7 ≤ ring) := by
    rw [show (s.node.at time).ctxPresent ctx = true from hpresent]
    simp
    omega
  refine exec_on_eq rfl ((if_neg hgood).trans ?_)
  simp only [Node.setBit_host, Node.at_host, hnew, Bool.false_eq_true, if_false]

/-- The node with a coalescing entry taken out. -/
def Node.uncoalesced (n : Node) (e : Coalesce) : Node := { n with host := { n.host with coalesce := n.host.coalesce.erase e } }

theorem exec_cqIrqTimerExpiry_fires (s : State) (ctx ring time : Nat) (e : Coalesce)
    (he : (s.node.host.coalesce.find? fun x => x.ctx == ctx && x.ring == ring) = some e)
    (hdue : e.since + s.node.bits (Reg.HST_CQ_IRQ ctx ring) 8 16 * 1000 ≤ (s.node.at time).tm.raw) :
    exec (.cqIrqTimerExpiry ctx ring time) s = .next (s.on fun n => ((n.at time).uncoalesced e).irq ctx ring ring) := by
  refine exec_on_eq rfl ?_
  simp only [Node.at_host, he]
  exact if_neg (Nat.not_lt.mpr hdue)

theorem Node.irq_pcie (n : Node) {c : Nat} (bit vec : Nat) (hc : c < 4) :
    n.irq c bit vec = (n.setBit (Reg.HST_IRQ_STAT c) bit true).msixFire c vec := if_pos hc

theorem Node.msixFire_open {n : Node} {fn vec : Nat} (h : n.msixMasked fn vec = false) : n.msixFire fn vec = n.msixSend fn vec :=
  if_pos (by rw [h]; rfl)

theorem Node.msixFire_masked {n : Node} {fn vec : Nat} (h : n.msixMasked fn vec = true) :
    ∃ pend, (fn, vec) ∈ pend ∧ n.msixFire fn vec = { n with host := { n.host with msixPend := pend } } := by
  unfold Node.msixFire
  rw [if_neg (by simp [h])]
  split
  · next hpend => exact ⟨n.host.msixPend, by simpa using hpend, rfl⟩
  · exact ⟨_, by simp, rfl⟩

theorem Node.irq_coalesce (n : Node) (c bit vec : Nat) : (n.irq c bit vec).host.coalesce = n.host.coalesce := by
  unfold Node.irq Node.msixFire
  dsimp only
  split
  · split
    · rfl
    · split <;> rfl
  · rfl

theorem Node.regs_irq (n : Node) (c bit vec : Nat) : (n.irq c bit vec).regs = (n.setBit (Reg.HST_IRQ_STAT c) bit true).regs := by
  unfold Node.irq Node.msixFire
  dsimp only
  split
  · split
    · rfl
    · split <;> rfl
  · rfl

/-! ### The MSI-X table (R669) -/

/-- A dword of the table reads as it was written. -/
theorem Node.msixDword_setMsix (n : Node) (fn off : Nat) (v : Word) : (n.setMsix fn off v).msixDword fn off = v := by
  have hgone : ∀ l : List (Nat × Nat × Word),
      (l.filter fun x => !(x.1 == fn && x.2.1 == off)).find? (fun x => x.1 == fn && x.2.1 == off) = none := by
    intro l
    refine List.find?_eq_none.mpr fun x hx hmatch => ?_
    have hother := (List.mem_filter.mp hx).2
    rw [hmatch] at hother
    exact Bool.false_ne_true hother
  unfold Node.setMsix Node.msixDword
  rw [List.find?_append, hgone]
  simp

theorem Node.msixUnmask_pending {n : Node} {fn vec : Nat} (hpend : n.host.msixPend = [(fn, vec)]) (hopen : n.msixMasked fn vec = false) :
    n.msixUnmask fn vec = { n with host := { n.host with msixPend := [] } }.msixSend fn vec := by
  rw [Node.msixUnmask, if_pos (by simp [hpend, hopen]), hpend, List.erase_cons_head]

theorem Node.msixUnmask_none {n : Node} {fn vec : Nat} (hpend : n.host.msixPend = []) : n.msixUnmask fn vec = n :=
  if_neg (by simp [hpend])

theorem Node.isBar4_of_offset {n : Node} {ctx off : Nat} (hctx : ctx < 4) (hoff : off < 0x4000)
    (hon : n.bit Reg.TOP_PD_STATE 9 = true) : n.isBar4 ctx (bar4Base + off) = true := by
  simp [Node.isBar4, hctx, hon, hoff]

theorem exec_registerWrite_bar4 {s : State} {ctx off : Nat} {v : Word} (hctx : ctx < 4) (hoff : off < 0x4000)
    (hon : s.node.bit Reg.TOP_PD_STATE 9 = true) :
    exec (.registerWrite ctx (bar4Base + off) v) s = .next (s.on fun n => n.bar4Write ctx off v) := by
  refine exec_on_eq rfl ((if_pos (Node.isBar4_of_offset hctx hoff hon)).trans ?_)
  rw [Nat.add_sub_cancel_left]

theorem exec_registerRead_bar4 {s : State} {ctx off : Nat} (hctx : ctx < 4) (hoff : off < 0x4000)
    (hon : s.node.bit Reg.TOP_PD_STATE 9 = true) :
    exec (.registerRead ctx (bar4Base + off) false) s = .next (s.on fun n => n.answer (n.bar4Read ctx off)) := by
  refine exec_on_eq rfl ((if_pos (Node.isBar4_of_offset hctx hoff hon)).trans ?_)
  rw [Nat.add_sub_cancel_left]

/-- The vector control of a vector written: bit 0 alone is kept, and the vector may be unmasked. -/
theorem Node.bar4Write_control (n : Node) (fn : Nat) {vec : Nat} (v : Word) (hvec : vec < 32) :
    n.bar4Write fn (16 * vec + 12) v = (n.setMsix fn (16 * vec + 12) (v &&& 1#32)).msixUnmask fn vec := by
  rw [Node.bar4Write, if_neg (by omega), if_pos (by omega), show (16 * vec + 12) / 16 = vec by omega]

/-- The address or data of a vector written while no message waits. -/
theorem Node.bar4Write_message {n : Node} (fn : Nat) {vec w : Nat} (v : Word) (hvec : vec < 32) (hw : w < 3)
    (hpend : n.host.msixPend = []) :
    n.bar4Write fn (16 * vec + 4 * w) v = n.setMsix fn (16 * vec + 4 * w) (if w = 0 then v &&& 0xFFFFFFFC#32 else v) := by
  rw [Node.bar4Write, if_neg (by omega), if_neg (by omega), Node.msixUnmask_none (by exact hpend)]
  congr 1
  exact if_congr (by omega) rfl rfl

theorem Node.bar4Read_table (n : Node) (fn : Nat) {off : Nat} (halign : off % 4 = 0) (hoff : off < 512) :
    n.bar4Read fn off = n.msixDword fn off := by
  rw [Node.bar4Read, if_neg (by omega), if_pos hoff]

/-! ### The statement -/

theorem firedVector_eq (s : State) {ctx ring time : Nat} {e : Coalesce} (hctx : ctx < 4)
    (he : (s.node.host.coalesce.find? fun x => x.ctx == ctx && x.ring == ring) = some e)
    (hdue : e.since + s.node.bits (Reg.HST_CQ_IRQ ctx ring) 8 16 * 1000 ≤ (s.node.at time).tm.raw) :
    ∃ t : State, exec (.cqIrqTimerExpiry ctx ring time) s = .next t ∧
      t.node.host.coalesce = s.node.host.coalesce.erase e ∧
      t.node.regs = (s.node.setBit (Reg.HST_IRQ_STAT ctx) ring true).regs ∧
      (s.node.msixMasked ctx ring = false → t.node.host.msix = s.node.host.msix ++ [(ctx, ring)] ∧
        t.node.host.dma = s.node.host.dma ++ [s.node.msixMessage ctx ring]) ∧
      (s.node.msixMasked ctx ring = true → t.node.host.msix = s.node.host.msix ∧ t.node.host.dma = s.node.host.dma ∧
        (ctx, ring) ∈ t.node.host.msixPend) := by
  refine ⟨_, exec_cqIrqTimerExpiry_fires s ctx ring time e he hdue, Node.irq_coalesce _ _ _ _, Node.regs_irq _ _ _ _,
    fun hopen => ?_, fun hmasked => ?_⟩
  · change (((s.node.at time).uncoalesced e).irq ctx ring ring).host.msix = _ ∧
      (((s.node.at time).uncoalesced e).irq ctx ring ring).host.dma = _
    rw [Node.irq_pcie _ _ _ hctx, Node.msixFire_open (by exact hopen)]
    exact ⟨rfl, rfl⟩
  · change (((s.node.at time).uncoalesced e).irq ctx ring ring).host.msix = _ ∧
      (((s.node.at time).uncoalesced e).irq ctx ring ring).host.dma = _ ∧
      _ ∈ (((s.node.at time).uncoalesced e).irq ctx ring ring).host.msixPend
    obtain ⟨pend, hpend, heq⟩ := Node.msixFire_masked
      (n := ((s.node.at time).uncoalesced e).setBit (Reg.HST_IRQ_STAT ctx) ring true) (fn := ctx) (vec := ring) hmasked
    rw [Node.irq_pcie _ _ _ hctx, heq]
    exact ⟨rfl, rfl, hpend⟩

theorem and_one_testBit {v : Word} (h : v.toNat % 2 = 0) : (v &&& 1#32).toNat.testBit 0 = false := by
  simp [Nat.testBit_zero, h]

/-- Settles O13: the clauses are the cases of `doorbell`, `ringSize`, `msixFire` and `bar4Write`, each reached by an admitted
access. -/
theorem ringsTakeDoorbellsAndSizes : Obligations.RingsTakeDoorbellsAndSizes := by
  refine ⟨fun s ctx ring v hring hp hr => ⟨fun h => ?_, fun h => ?_, fun h => ?_, fun h => ?_, fun h => ?_⟩,
    fun s ctx ring v hhas hring hp hr h => ?_, fun s ctx ring cause time hc hring hp hnew =>
      exec_hostDmaError_stops s ctx ring cause time hc hring hp hnew,
    fun s ctx ring time e hctx he hdue => firedVector_eq s hctx he hdue,
    fun s ctx vec v hctx hvec hon hv hpend => ?_, fun s ctx vec w v hctx hvec hw hon hpend => ?_,
    fun s ctx off hctx hoff hon => exec_registerRead_bar4 hctx hoff hon⟩
  · rw [exec_sqTailDoorbell_admitted s ctx ring v hring hp hr h]
    exact State.next_on_congr (Node.doorbell_answer _ _ _ _ _ _)
  · rw [exec_cqHeadDoorbell_admitted s ctx ring v hring hp hr h]
    exact State.next_on_congr (Node.doorbell_answer _ _ _ _ _ _)
  · rw [exec_evqHeadDoorbell_admitted s ctx v hp hr h]
    exact State.next_on_congr (Node.doorbell_answer _ _ _ _ _ _)
  · rw [exec_ftxTailDoorbell_admitted s ctx v hp hr h]
    exact State.next_on_congr (Node.doorbell_answer _ _ _ _ _ _)
  · rw [exec_frxTailDoorbell_admitted s ctx v hp hr h]
    exact State.next_on_congr (Node.doorbell_answer _ _ _ _ _ _)
  · rw [exec_ringSizeWrite_sq s ctx ring v hhas hring hp hr h]
    refine ⟨fun hkept => State.next_on_congr (Node.ringSize_kept hkept), fun hoff hok => ?_, fun hoff hsize hbad =>
      State.next_on_congr (Node.ringSize_refused hoff hsize (ringSizeOk_other hbad))⟩
    have hsize : v.toNat % 2048 ≠ 0 := by
      rcases hok with hok | ⟨-, hok⟩ <;> (simp only [List.mem_cons, List.not_mem_nil, or_false] at hok; omega)
    exact State.next_on_congr (Node.ringSize_taken hoff hsize (hok.elim ringSizeOk_small fun h => ringSizeOk_pcie h.1 h.2))
  · rw [Nat.add_assoc]
    refine ⟨_, exec_registerWrite_bar4 (off := 16 * vec + 12) hctx (by omega) hon, ?_⟩
    have hopen : (s.node.setMsix ctx (16 * vec + 12) (v &&& 1#32)).msixMasked ctx vec = false := by
      rw [Node.msixMasked, Node.msixDword_setMsix, and_one_testBit hv]
    have hwritten : s.node.bar4Write ctx (16 * vec + 12) v = _ :=
      (Node.bar4Write_control _ _ _ hvec).trans (Node.msixUnmask_pending (by exact hpend) hopen)
    rw [show (s.on fun n => n.bar4Write ctx (16 * vec + 12) v).node = s.node.bar4Write ctx (16 * vec + 12) v from rfl, hwritten]
    exact ⟨hopen, rfl, rfl, rfl⟩
  · rw [Nat.add_assoc]
    refine ⟨_, exec_registerWrite_bar4 (off := 16 * vec + 4 * w) hctx (by omega) hon, ?_⟩
    rw [show (s.on fun n => n.bar4Write ctx (16 * vec + 4 * w) v).node = s.node.bar4Write ctx (16 * vec + 4 * w) v from rfl,
      Node.bar4Write_message _ _ hvec hw hpend, Node.bar4Read_table _ _ (by omega) (by omega), Node.msixDword_setMsix]
    exact ⟨rfl, rfl, rfl⟩

end Sys2Proof.Machine
end

section
/-! PROOF. The end of a context reset (R645): the flush of the context's CAN queues completes the commands that wait for their
entries, and the completion of a host-frame context is held. -/

namespace Sys2Proof.Machine

/-- A queue of a context that is reset is flushed (R561). -/
def Node.canFlushOwned (ctx c : Nat) (m : Node) (q : Nat) : Node :=
  if m.queueOwner c q = some ctx ∧ !(m.txq c q).isEmpty then (m.free.1.canFlush c q (m.free.2.toNat % 2 == 1)).1 else m

/-- A controller lets go of what a context that is reset has locked. -/
def Node.canUnlocked (ctx : Nat) (m : Node) (c : Nat) : Node :=
  (((m.ctl c).locks.filter fun l => l.ctx == ctx).foldl (fun k l => k.unlockCan c l.kind l.idx) m).syncCan c

theorem Node.canFlushOwned_of_owner {ctx c q : Nat} {m : Node} (howner : m.queueOwner c q = some ctx)
    (hsome : (m.txq c q).isEmpty = false) :
    Node.canFlushOwned ctx c m q = (m.free.1.canFlush c q (m.free.2.toNat % 2 == 1)).1 := if_pos ⟨howner, by simp [hsome]⟩

theorem Node.canCtxReset_eq (n : Node) (ctx : Nat) : n.canCtxReset ctx =
    [0, 1, 2, 3].foldl (fun m c => [0, 1, 2, 3].foldl (Node.canFlushOwned ctx c) (m.canUnlocked ctx c)) n := rfl

/-- Context HC6 is being reset; a CAN send of it still waits and is not in flight, and queue Q0 of CAN0, which it owns, holds the
entry twice: whichever of the two is on the bus, the flush ends one. -/
def straySend : State :=
  let e : TxEntry := ⟨[], 0, 0, false, false, false, none⟩
  { State.reset with node := { Node.reset.setReg Reg.TOP_ENG_RUN 1#32 with
      host := { HostState.reset with resets := [(6, 1)], waits := [⟨6, 0, 1, 0x0901, 8, 0, [0#32, 0#32], 0, 0⟩] }
      can := { CanState.reset with owners := [0x86, 0, 0, 0], queues := [[e, e], [], [], []] } :: List.replicate 3 CanState.reset } }

/-- The node of a context reset when queue Q0 of CAN0 is looked at. -/
def Node.beforeFlush (n : Node) (ctx : Nat) : Node := ((n.clearRings ctx).clearTsq ctx).canUnlocked ctx 0

/-- What follows the flush of queue Q0 of CAN0 in a context reset. -/
def Node.afterFlush (n : Node) (ctx cause : Nat) : Node :=
  let m := [1, 2, 3].foldl (fun m c => [0, 1, 2, 3].foldl (Node.canFlushOwned ctx c) (m.canUnlocked ctx c))
    ([1, 2, 3].foldl (Node.canFlushOwned ctx 0) n)
  let m := (m.brgCtxReset ctx).setBit (Reg.HST_CTX_STAT ctx) 1 false
  let m := { m with host := { m.host with resets := m.host.resets.filter fun (x : Nat × Nat) => x.1 != ctx } }
  (m.raise 0x7002 ctx cause).finishWaits (fun w => w.kind == waitCtxReset && w.key == ctx) sOk []

theorem Node.ctxResetEnd_eq (n : Node) (ctx cause : Nat) :
    n.ctxResetEnd ctx cause = (Node.canFlushOwned ctx 0 (n.beforeFlush ctx) 0).afterFlush ctx cause := by
  unfold Node.ctxResetEnd Node.afterFlush Node.beforeFlush
  rw [Node.canCtxReset_eq]
  simp only [List.foldl_cons, List.foldl_nil]

/-- The node of `straySend` at the flush. -/
def strayNode : Node := (straySend.node.at 0).beforeFlush 6

theorem held_after_stray_flush : ∀ onBus : Bool,
    (((strayNode.free.1.canFlush 0 0 onBus).1.afterFlush 6 1).host.held.any fun e => e.ctx == 6) = true := by decide +kernel

theorem exec_contextReset_of_find {s : State} {ctx time cause : Nat}
    (hfind : (s.node.host.resets.find? fun x => x.1 == ctx) = some (ctx, cause)) :
    exec (.contextReset ctx time) s = .next (s.on fun n => (n.at time).ctxResetEnd ctx cause) := by
  refine exec_on_eq rfl ?_
  simp only [Node.at_host, hfind]

/-- Refutes O14: a CAN command of a host-frame context that waits without being in flight is completed by the flush that ends the
reset, and its completion is held for the context. -/
theorem not_contextResetsStartAndEnd : ¬ Obligations.ContextResetsStartAndEnd := by
  intro h
  obtain ⟨-, -, -, -, -, hend⟩ := h
  obtain ⟨t, hexec, -, -, -, -, hheld, -⟩ := hend straySend 6 0 1 (by decide) rfl (by decide) (by decide) rfl
  have hflush := Node.canFlushOwned_of_owner (ctx := 6) (c := 0) (q := 0) (m := strayNode) (by decide +kernel) (by decide +kernel)
  rw [exec_contextReset_of_find (cause := 1) rfl] at hexec
  cases hexec
  rw [State.on_node, Node.ctxResetEnd_eq, ← strayNode, hflush] at hheld
  obtain ⟨e, he, hctx⟩ := List.any_eq_true.mp (held_after_stray_flush (strayNode.free.2.toNat % 2 == 1))
  exact hheld e he (by simpa using hctx)

end Sys2Proof.Machine
end

section
/-! PROOF. The fetch of a submission and checks 1 to 4 of R787 (R633, R640, R655, R656). -/

namespace Sys2Proof.Machine

/-! ### Acceptance (R655, R787) -/

/-- What checks 1 to 4 of R787 say, one by one. -/
theorem Node.passesFirst_iff (n : Node) (c : Nat) (e : SqEntry) : n.passesFirst c e = true ↔
    e.seq ≠ 0 ∧ ¬ ((n.host.shares.getD c ⟨0, 0⟩).count ≠ 0 ∧ seqPrecedes e.seq (n.reg (Reg.JRN_CTX_OLDEST c)).toNat = true) ∧
    n.jrnFind c e.seq = none ∧
    ¬ (n.fld (Reg.HST_CTX_CFG c) Fld.HST_CTX_CFG_SHARED = 1 ∧ !n.holder ∧ !asksOnly e.opcode) ∧
    (unjournalled e.opcode = true ∨ n.jrnFull c = false) := by
  simp only [Node.passesFirst, Bool.and_eq_true, Bool.or_eq_true, Bool.not_eq_true', bne_iff_ne, ne_eq, Option.isNone_iff_eq_none,
    Bool.and_eq_false_iff, and_assoc, not_and, Bool.not_eq_true, bne_eq_false_iff_eq]
  constructor
  · rintro ⟨hseq, hold, hfind, hheld, hroom⟩
    refine ⟨hseq, fun h => ?_, hfind, fun h1 h2 h3 => ?_, hroom⟩
    · exact hold.resolve_left h
    · simp [h1, h2, h3] at hheld
  · rintro ⟨hseq, hold, hfind, hheld, hroom⟩
    refine ⟨hseq, ?_, hfind, ?_, hroom⟩
    · by_cases h : (n.host.shares.getD c ⟨0, 0⟩).count = 0
      · exact .inl h
      · exact .inr (hold h)
    · by_cases h1 : n.fld (Reg.HST_CTX_CFG c) Fld.HST_CTX_CFG_SHARED = 1
      · cases h2 : n.holder
        · exact .inr (by simpa using hheld h1 h2)
        · exact .inl (.inr rfl)
      · exact .inl (.inl h1)

/-- A submission that passes checks 1 to 4 is taken. -/
theorem Node.accept_of_passesFirst {n : Node} {c : Nat} {e : SqEntry} (r : Nat) (h : n.passesFirst c e = true) :
    n.accept c r e false = n.taken c r e := by
  obtain ⟨hseq, hold, hfind, hheld, hroom⟩ := (n.passesFirst_iff c e).mp h
  unfold Node.accept Node.taken
  simp only [if_neg hseq, if_neg hold, hfind, if_neg hheld, Bool.false_eq_true, if_false]
  by_cases hjrn : unjournalled e.opcode = true
  · simp only [hjrn, if_true]
  · rw [hroom.resolve_left hjrn]
    simp only [hjrn, Bool.false_eq_true, if_false]

section
variable {n m : Node} {c : Nat} {e : SqEntry}

/-- Checks 1 to 4 read the shares and the registers of the journal, the context's record and the token. -/
theorem Node.passesFirst_congr (hshares : m.host.shares = n.host.shares) (hjrn : ∀ a, Reg.JRN_CFG ≤ a → m.reg a = n.reg a)
    (hcfg : m.reg (Reg.HST_CTX_CFG c) = n.reg (Reg.HST_CTX_CFG c)) (htoken : m.reg Reg.PAR_TOKEN = n.reg Reg.PAR_TOKEN) :
    m.passesFirst c e = n.passesFirst c e := by
  have hctx : ∀ k, m.reg (Reg.JRN_CTX_BASE c + k) = n.reg (Reg.JRN_CTX_BASE c + k) := fun k =>
    hjrn _ (by simp only [Reg.JRN_CFG, Reg.JRN_CTX_BASE]; omega)
  have hword : ∀ i w, m.jrnWord i w = n.jrnWord i w := fun i w =>
    hjrn _ (by simp only [Reg.JRN_CFG, Reg.JRN_ENTRY]; omega)
  have hbase : m.reg (Reg.JRN_CTX_BASE c) = n.reg (Reg.JRN_CTX_BASE c) := hctx 0
  have hsize : m.reg (Reg.JRN_CTX_SIZE c) = n.reg (Reg.JRN_CTX_SIZE c) :=
    hjrn _ (by simp only [Reg.JRN_CFG, Reg.JRN_CTX_SIZE]; omega)
  have hold : m.reg (Reg.JRN_CTX_OLDEST c) = n.reg (Reg.JRN_CTX_OLDEST c) :=
    hjrn _ (by simp only [Reg.JRN_CFG, Reg.JRN_CTX_OLDEST]; omega)
  have hindex : m.jrnIndex c = n.jrnIndex c := by
    funext k
    unfold Node.jrnIndex
    rw [hshares, hbase, hsize]
  unfold Node.passesFirst Node.jrnFind Node.jrnFull Node.jrnValid Node.jrnCorrupt Node.jrnSeq Node.jrnOutcome Node.holder Node.fld
  simp only [hshares, hold, hindex, hword, hbase, hcfg, htoken]

end

/-! ### The fetch (R633) -/

theorem Node.passesFirst_setHead (n : Node) {ctx ring : Nat} (v : Word) (e : SqEntry) (time : Nat) (hctx : ctx < 6) (hring : ring < 4) :
    ((n.at time).setReg (Reg.HST_SQ_HEAD ctx ring) v).passesFirst ctx e = n.passesFirst ctx e := by
  refine Node.passesFirst_congr rfl (fun a ha => ?_) ?_ ?_ <;>
    exact Node.reg_setReg_ne _ _ (by
      simp only [Reg.JRN_CFG, Reg.HST_SQ_HEAD, Reg.HST_CTX_CFG, Reg.PAR_TOKEN] at *; omega)

/-- The fetch from a PCIe or SPI ring that has room and a submission. -/
theorem exec_commandFetch_ring {s : State} {ctx ring time : Nat} {entry : SqEntry} (hctx : ctx < 6) (hring : ring < 4)
    (hfetches : s.node.fetches ctx = true) (hmore : s.node.reg (Reg.HST_SQ_HEAD ctx ring) ≠ s.node.reg (Reg.HST_SQ_TAIL ctx ring))
    (hon : s.node.reg (Reg.HST_SQ_SIZE ctx ring) ≠ 0#32) (hcq : s.node.cqOn ctx ring = true)
    (hgoes : s.node.host.stopped.contains (ctx, ring) = false)
    (hroom : 4 + 4 * s.node.inFlight ctx ring ≤ s.node.cqFree ctx ring) :
    exec (.commandFetch ctx ring entry time) s = .next (s.on fun n =>
      ((n.at time).setReg (Reg.HST_SQ_HEAD ctx ring)
        (word (if (n.reg (Reg.HST_SQ_HEAD ctx ring)).toNat + 1 < (n.reg (Reg.HST_SQ_SIZE ctx ring)).toNat
          then (n.reg (Reg.HST_SQ_HEAD ctx ring)).toNat + 1 else 0))).accept ctx ring (n.fetched ctx ring entry) false) := by
  have hfetches' : (s.node.at time).fetches ctx = true := hfetches
  have hsize : (s.node.reg (Reg.HST_SQ_SIZE ctx ring)).toNat ≠ 0 := fun h => hon (BitVec.eq_of_toNat_eq h)
  have hmore' : (s.node.reg (Reg.HST_SQ_HEAD ctx ring)).toNat ≠ (s.node.reg (Reg.HST_SQ_TAIL ctx ring)).toNat :=
    fun h => hmore (BitVec.eq_of_toNat_eq h)
  have hcq' : (s.node.at time).cqOn ctx ring = true := hcq
  have hroom' : ¬ (s.node.at time).cqFree ctx ring < 4 + 4 * (s.node.at time).inFlight ctx ring := Nat.not_lt.mpr hroom
  refine exec_on_eq rfl ?_
  dsimp only
  rw [if_neg (by simp [hfetches', hring]), if_neg (by omega), Node.at_host, Node.reg_at, Node.reg_at, Node.reg_at,
    if_neg (by simp only [hsize, hcq', hmore', hgoes, hroom', Bool.not_true, Bool.false_eq_true, or_self, not_false_eq_true])]
  rfl

theorem exec_commandFetch_frames {s : State} {ctx ring time : Nat} {entry e : SqEntry} (hctx : 6 ≤ ctx) (hring : ring < 4)
    (hfetches : s.node.fetches ctx = true)
    (hfind : (s.node.host.frameCmds.find? fun x => x.1 == ctx && x.2.1 == ring) = some (ctx, ring, e)) :
    exec (.commandFetch ctx ring entry time) s = .next (s.on fun n =>
      { n.at time with host := { n.host with frameCmds := n.host.frameCmds.erase (ctx, ring, e) } }.accept ctx ring e false) := by
  have hfetches' : (s.node.at time).fetches ctx = true := hfetches
  refine exec_on_eq rfl ?_
  dsimp only
  rw [if_neg (by simp [hfetches', hring]), if_pos hctx, Node.at_host, hfind]

/-! ### The journal entry of a command (R653, R655) -/

/-- The registers below the test block are untouched by the use of an injection. -/
theorem Node.reg_injUse {b : Nat} (hb : b < Reg.TST_STAT) (n : Node) : n.injUse.reg b = n.reg b := by
  have hlt : ∀ a, Reg.TST_STAT ≤ a → ∀ (m : Node) (v : Word), (m.setReg a v).reg b = m.reg b := fun a ha m v =>
    Node.reg_setReg_ne m v (by omega)
  unfold Node.injUse
  dsimp only
  split
  · calc n.injOff.reg b = ((n.setFld Reg.TST_INJ_CTRL Fld.TST_INJ_CTRL_ARM 0).setReg Reg.TST_INJ_LEFT 0#32).reg b :=
          hlt _ (by decide) _ _
      _ = (n.setFld Reg.TST_INJ_CTRL Fld.TST_INJ_CTRL_ARM 0).reg b := hlt _ (by decide) _ _
      _ = n.reg b := hlt _ (by decide) _ _
  · exact hlt _ (by decide) _ _

theorem Node.reg_injWords {b : Nat} (hb : b < Reg.TST_STAT) (n : Node) (mem first words one two unit hi : Nat) :
    (n.injWords mem first words one two unit hi).reg b = n.reg b := by
  unfold Node.injWords
  dsimp only
  split
  · rfl
  · split
    · exact Node.reg_injUse hb { n with mem := _ }
    · split
      · exact Node.reg_injUse hb { n with mem := _ }
      · rfl

/-- The seal of a journal entry writes the entry's check alone. -/
theorem Node.reg_jrnSeal {b : Nat} (hb : b < Reg.TST_STAT) (n : Node) {i : Nat} (hcheck : b ≠ Reg.JRN_ENTRY i + 60) :
    (n.jrnSeal i).reg b = n.reg b :=
  (Node.reg_injWords hb _ _ _ _ _ _ _ _).trans (Node.reg_setReg_ne n _ hcheck)

theorem Node.jrnSeal_host (n : Node) (i : Nat) : (n.jrnSeal i).host = n.host := by
  obtain ⟨regs, spoilt, h⟩ := n.jrnSeal_eq_withSealed i
  rw [h]
  rfl

theorem Node.syncJrn_host (n : Node) (c : Nat) : (n.syncJrn c).host = n.host := by
  unfold Node.syncJrn
  dsimp only
  split <;> rfl

theorem Node.reg_syncJrn_ne (n : Node) {c b : Nat} (hold : b ≠ Reg.JRN_CTX_OLDEST c) (hnew : b ≠ Reg.JRN_CTX_NEWEST c) :
    (n.syncJrn c).reg b = n.reg b := by
  unfold Node.syncJrn
  dsimp only
  split <;> rw [Node.reg_setReg_ne _ _ hnew, Node.reg_setReg_ne _ _ hold]

/-- The node with the entry of a journal share taken on. -/
def Node.withShare (n : Node) (c size : Nat) : Node :=
  { n with host := { n.host with shares := modifyAt n.host.shares c fun s =>
    { next := (s.next + 1) % max size 1, count := min (s.count + 1) size } } }

/-- The node that has reported the loss of an entry that the host has not reconciled. -/
def Node.jrnWrapped (n : Node) (c i : Nat) : Node :=
  if n.jrnValid i && ((n.reg (Reg.JRN_CTX_ACK c)).toNat == 0 || seqPrecedes (n.reg (Reg.JRN_CTX_ACK c)).toNat (n.jrnSeq i)) then
    (n.inc (Reg.JRN_CTX_WRAP c)).raise 0x7101 c (n.jrnSeq i) else n

theorem Node.jrnWrapped_host (n : Node) (c i : Nat) : (n.jrnWrapped c i).host = n.host := by
  unfold Node.jrnWrapped
  split
  · rw [Node.raise_host]; rfl
  · rfl

/-- The header word of a journal entry: the opcode, the context, its world and ring, the fence and the pending outcome. -/
def Node.jrnHeader (n : Node) (c r : Nat) (e : SqEntry) : Nat :=
  e.opcode % 65536 + (c + b2n (n.ctxSecure c) * 8 + r * 16 + (e.flags % 2) * 128) * 65536 + 0xFE * 2 ^ 24

/-- The third word of a journal entry at its acceptance: the epoch, and that the entry is valid and not corrupt. -/
def Node.jrnState (n : Node) : Nat := n.epoch + 65536 + b2n n.waiting * 2 ^ 18

/-- The words that an acceptance writes. -/
def Node.jrnWords (n m : Node) (c r : Nat) (e : SqEntry) : List Word :=
  [word e.seq, word (n.jrnHeader c r e), word (argDigest e), word m.jrnState, word (secOf m.trainNs), word (secOf m.trainNs / 2 ^ 32),
    word (nsOf m.trainNs), 0#32, 0#32, 0#32, 0#32, 0#32, 0#32, 0#32, 0#32]

theorem Node.jrnAccept_eq (n : Node) {c i : Nat} (r : Nat) (e : SqEntry)
    (hi : i = (n.reg (Reg.JRN_CTX_BASE c)).toNat + (n.host.shares.getD c ⟨0, 0⟩).next) : n.jrnAccept c r e =
    (((((n.jrnWrapped c i).setRegs (Reg.JRN_ENTRY i) (n.jrnWords (n.jrnWrapped c i) c r e)).jrnSeal i).withShare c
      (n.reg (Reg.JRN_CTX_SIZE c)).toNat).syncJrn c, i) := by
  subst hi
  rfl

theorem Node.jrnAccept_host (n : Node) (c r : Nat) (e : SqEntry) :
    ∃ shares, (n.jrnAccept c r e).1.host = { n.host with shares := shares } := by
  rw [Node.jrnAccept_eq n r e rfl, Node.syncJrn_host, Node.withShare, Node.jrnSeal_host, Node.setRegs_host, Node.jrnWrapped_host]
  exact ⟨_, rfl⟩

/-- The words of the entry that an acceptance writes. -/
theorem Node.jrnWord_jrnAccept (n : Node) {c i w : Nat} (r : Nat) (e : SqEntry) (hc : c < 8) (hlt : i < 8192) (hw : w < 15)
    (hi : i = (n.reg (Reg.JRN_CTX_BASE c)).toNat + (n.host.shares.getD c ⟨0, 0⟩).next) :
    (n.jrnAccept c r e).1.jrnWord i w = (n.jrnWords (n.jrnWrapped c i) c r e)[w] := by
  rw [Node.jrnAccept_eq n r e hi, Node.jrnWord,
    Node.reg_syncJrn_ne _ (by simp only [Reg.JRN_ENTRY, Reg.JRN_CTX_OLDEST]; omega) (by simp only [Reg.JRN_ENTRY, Reg.JRN_CTX_NEWEST]; omega)]
  calc _ = (((n.jrnWrapped c i).setRegs (Reg.JRN_ENTRY i) (n.jrnWords (n.jrnWrapped c i) c r e)).jrnSeal i).reg (Reg.JRN_ENTRY i + 4 * w) := rfl
    _ = _ := Node.reg_jrnSeal (by simp only [Reg.JRN_ENTRY, Reg.TST_STAT]; omega) _ (by omega)
    _ = _ := Node.reg_setRegs _ _ _ _ _

/-- The fields of an entry at its acceptance (R653). -/
theorem Node.jrnFields_jrnAccept (n : Node) {c r i : Nat} (e : SqEntry) (hc : c < 8) (hr : r < 4) (hseq : e.seq < 2 ^ 32) (hlt : i < 8192)
    (hi : i = (n.reg (Reg.JRN_CTX_BASE c)).toNat + (n.host.shares.getD c ⟨0, 0⟩).next) :
    (n.jrnAccept c r e).1.jrnSeq i = e.seq ∧ (n.jrnAccept c r e).1.jrnOutcome i = 0xFE ∧ (n.jrnAccept c r e).1.jrnValid i = true := by
  have hword := fun w hw => n.jrnWord_jrnAccept (w := w) r e hc hlt hw hi
  have hbit : ∀ b, b2n b ≤ 1 := b2n_le_one
  refine ⟨?_, ?_, ?_⟩
  · rw [Node.jrnSeq, hword 0 (by decide)]
    exact (word_toNat _).trans (Nat.mod_eq_of_lt hseq)
  · rw [Node.jrnOutcome, hword 1 (by decide)]
    change (word (n.jrnHeader c r e)).toNat / 2 ^ 24 = 0xFE
    rw [word_toNat, Node.jrnHeader]
    have := hbit (n.ctxSecure c)
    omega
  · rw [Node.jrnValid, hword 3 (by decide)]
    change (word (n.jrnWrapped c i).jrnState).toNat.testBit 16 = true
    rw [word_toNat, Node.jrnState, Nat.testBit_eq_decide_div_mod_eq]
    have := hbit (n.jrnWrapped c i).waiting
    have : (n.jrnWrapped c i).epoch < 65536 := Nat.mod_lt _ (by decide)
    simp only [decide_eq_true_eq]
    omega

/-- Settles O15: a fetch that finds a submission ends in `accept`, and each check of `accept` decides by its own condition. -/
theorem fetchedCommandsAreCheckedAndAccepted : Obligations.FetchedCommandsAreCheckedAndAccepted := by
  refine ⟨fun s ctx ring time entry e hctx hring hf hmore hon hcq hgoes hroom he hpass => ?_,
    fun s ctx ring time entry e hctx hring hf hfind hpass => ?_,
    fun n c r i e hc hr hseq hi hlt => ?_, fun n c r e busy hseq => if_pos hseq, fun n c r e busy hseq hcount hold => ?_,
    fun n c r e busy hseq hold hfind hshared hholder hasks => ?_⟩
  · subst he
    exact (exec_commandFetch_ring hctx hring hf hmore hon hcq hgoes hroom).trans
      (State.next_on_congr (Node.accept_of_passesFirst _ ((Node.passesFirst_setHead _ _ _ _ hctx hring).trans hpass)))
  · exact (exec_commandFetch_frames hctx hring hf hfind).trans (State.next_on_congr (Node.accept_of_passesFirst _ hpass))
  · obtain ⟨shares, hhost⟩ := n.jrnAccept_host c r e
    obtain ⟨hs, ho, hv⟩ := n.jrnFields_jrnAccept e hc hr hseq hlt hi
    exact ⟨by rw [n.jrnAccept_eq r e hi], hs, ho, hv, by rw [hhost], by rw [hhost], by rw [hhost]⟩
  · rw [Node.accept, if_neg hseq, if_pos ⟨hcount, hold⟩]
  · unfold Node.accept
    rw [if_neg hseq, if_neg hold]
    simp only [hfind, hshared, hholder, hasks, Bool.not_false, and_self, if_true]

end Sys2Proof.Machine
end

section
/-! PROOF. The node and journal commands (R653 to R659). -/

namespace Sys2Proof.Machine

/-! ### Commands that reach their effect -/

/-- A command that takes its own checks and effect ends as they answer. -/
theorem exec_settles {i : Instr} {s : State} {c : Cmd} {op nargs : Nat} {need : Need} {f g : Node → Node} {act : Node → Answer}
    (hexec : exec i s = .next (s.runs c op f)) (hf : f s.node = s.node.command c need nargs act)
    (htakes : s.node.takes c op need nargs = true) (hact : Node.settle c (act (s.node.at c.time)) = g s.node) :
    exec i s = .next (s.on g) := by
  rw [hexec, State.runs_takes s c op need nargs f htakes]
  exact State.next_on_congr ((hf.trans (Node.command_runs _ _ _ _ _ _ htakes)).trans hact)

/-- The node and journal commands name a context that the command's own context may name, or are turned away. -/
def ctxChecked (c : Cmd) (act : Node → Nat → Answer) (m : Node) : Answer :=
  if 8 ≤ arg c 0 then .fail m sArgs
  else if arg c 0 ≠ c.ctx ∧ !m.ctxSecure c.ctx then .fail (m.refuse c.ctx false 2 2 c.entry.opcode (81 + arg c 0)) sWorld
  else act m (arg c 0)

theorem Node.ctxCommand_open (n : Node) (c : Cmd) (nargs : Nat) (act : Node → Nat → Answer) :
    n.ctxCommand c false nargs act = n.command c .either nargs (ctxChecked c act) := rfl

theorem Node.ctxCommand_secure (n : Node) (c : Cmd) (nargs : Nat) (act : Node → Nat → Answer) :
    n.ctxCommand c true nargs act = n.command c (.secure (81 + arg c 0 % 8)) nargs (ctxChecked c act) := rfl

theorem ctxChecked_named {c : Cmd} {m : Node} (act : Node → Nat → Answer) (h8 : arg c 0 < 8)
    (hmay : arg c 0 = c.ctx ∨ m.ctxSecure c.ctx = true) : ctxChecked c act m = act m (arg c 0) := by
  rw [ctxChecked, if_neg (by omega), if_neg]
  rintro ⟨hne, hopen⟩
  simp [hmay.resolve_left hne] at hopen

section
variable {i : Instr} {s : State} {c : Cmd} {op nargs : Nat} {act : Node → Nat → Answer} {g : Node → Node}

/-- A command that names a context which its own may name. -/
theorem exec_ctxCommand_open (hexec : exec i s = .next (s.runs c op fun n => n.ctxCommand c false nargs act))
    (htakes : s.node.takes c op .either nargs = true) (h8 : arg c 0 < 8) (hmay : arg c 0 = c.ctx ∨ s.node.ctxSecure c.ctx = true)
    (hact : Node.settle c (act (s.node.at c.time) (arg c 0)) = g s.node) : exec i s = .next (s.on g) :=
  exec_settles hexec (Node.ctxCommand_open _ _ _ _) htakes ((congrArg (Node.settle c) (ctxChecked_named (m := s.node.at c.time) act h8 hmay)).trans hact)

/-- A command of the secure world that names a context. -/
theorem exec_ctxCommand_secure (hexec : exec i s = .next (s.runs c op fun n => n.ctxCommand c true nargs act))
    (htakes : s.node.takes c op (.secure (81 + arg c 0 % 8)) nargs = true) (h8 : arg c 0 < 8)
    (hact : Node.settle c (act (s.node.at c.time) (arg c 0)) = g s.node) : exec i s = .next (s.on g) := by
  have hsecure : s.node.ctxSecure c.ctx = true := by
    simp only [Node.takes, Bool.and_eq_true] at htakes
    exact htakes.1.2
  exact exec_settles hexec (Node.ctxCommand_secure _ _ _ _) htakes
    ((congrArg (Node.settle c) (ctxChecked_named (m := s.node.at c.time) act h8 (.inr hsecure))).trans hact)

end

/-! ### The commands (R659) -/

theorem exec_nodeStatus_takes {s : State} {c : Cmd} (h : s.node.takes c 0x0101 .either 0 = true) :
    exec (.nodeStatus c) s = .next (s.on fun n => (n.at c.time).completes c sOk
      [n.reg Reg.TOP_PLACE, n.reg Reg.TOP_EPOCH, n.reg Reg.INA_STATE, n.reg Reg.PAR_TOKEN, n.reg Reg.TOP_ENG_FAULT]) :=
  exec_settles rfl rfl h rfl

theorem exec_nodeNop_takes {s : State} {c : Cmd} (h : s.node.takes c 0x0102 .either 4 = true) :
    exec (.nodeNop c) s = .next (s.on fun n => (n.at c.time).completes c sOk [argW c 0, argW c 1, argW c 2, argW c 3]) :=
  exec_settles rfl rfl h rfl

theorem exec_ctxInfo_present {s : State} {c : Cmd} (h : s.node.takes c 0x0104 .either 1 = true) (h8 : arg c 0 < 8)
    (hmay : arg c 0 = c.ctx ∨ s.node.ctxSecure c.ctx = true) (hpresent : s.node.ctxPresent (arg c 0) = true) :
    exec (.ctxInfo c) s = .next (s.on fun n => (n.at c.time).completes c sOk
      [n.reg (Reg.HST_CTX_CFG (arg c 0)), n.reg (Reg.HST_CTX_STAT (arg c 0)), n.reg (Reg.JRN_CTX_BASE (arg c 0)),
       n.reg (Reg.JRN_CTX_SIZE (arg c 0))]) := by
  have hpresent' : (s.node.at c.time).ctxPresent (arg c 0) = true := hpresent
  refine exec_ctxCommand_open rfl h h8 hmay ?_
  simp only [hpresent', if_true, Node.reg_at]
  rfl

theorem exec_ctxInfo_foreign {s : State} {c : Cmd} (h : s.node.takes c 0x0104 .either 1 = true) (h8 : arg c 0 < 8)
    (hother : arg c 0 ≠ c.ctx) (hopen : s.node.ctxSecure c.ctx = false) :
    exec (.ctxInfo c) s = .next (s.on fun n =>
      ((n.at c.time).refuse c.ctx false 2 2 c.entry.opcode (81 + arg c 0)).completes c sWorld []) := by
  have hopen' : (s.node.at c.time).ctxSecure c.ctx = false := hopen
  refine exec_settles rfl (Node.ctxCommand_open _ _ _ _) h ?_
  rw [ctxChecked, if_neg (by omega), if_pos ⟨hother, by rw [hopen']; rfl⟩]
  rfl

theorem exec_ctxReset_other {s : State} {c : Cmd} (h : s.node.takes c 0x0103 (.secure (81 + arg c 0 % 8)) 1 = true)
    (h8 : arg c 0 < 8) (hother : arg c 0 ≠ c.ctx) (hpresent : s.node.ctxPresent (arg c 0) = true) :
    exec (.ctxReset c) s = .next (s.on fun n =>
      ((n.at c.time).ctxResetStart (arg c 0) 2).waitsFor c waitCtxReset (arg c 0) []) := by
  have hpresent' : (s.node.at c.time).ctxPresent (arg c 0) = true := hpresent
  refine exec_ctxCommand_secure rfl h h8 ?_
  rw [if_neg (by simp [hother, hpresent'])]
  rfl

theorem exec_jrnStatus_takes {s : State} {c : Cmd} (h : s.node.takes c 0x0B01 .either 1 = true) (h8 : arg c 0 < 8)
    (hmay : arg c 0 = c.ctx ∨ s.node.ctxSecure c.ctx = true) :
    exec (.jrnStatus c) s = .next (s.on fun n => (n.at c.time).completes c sOk
      [n.reg (Reg.JRN_CTX_OLDEST (arg c 0)), n.reg (Reg.JRN_CTX_NEWEST (arg c 0)), n.reg (Reg.JRN_CTX_ACK (arg c 0)),
       n.reg (Reg.JRN_CTX_SIZE (arg c 0))]) :=
  exec_ctxCommand_open rfl h h8 hmay rfl

theorem Node.jrnInsert_at (n : Node) (time first i : Nat) (l : List Nat) : (n.at time).jrnInsert first i l = n.jrnInsert first i l := by
  induction l with
  | nil => rfl
  | cons j js ih => rw [Node.jrnInsert, ih]; rfl

theorem Node.jrnFrom_at (n : Node) (time t first : Nat) : (n.at time).jrnFrom t first = n.jrnFrom t first := by
  have hinsert : (n.at time).jrnInsert first = n.jrnInsert first := by
    funext i l
    exact n.jrnInsert_at time first i l
  unfold Node.jrnFrom
  rw [hinsert]
  rfl

/-- One journal entry is asked for in the result, and the share holds one. -/
theorem exec_jrnRead_one {s : State} {c : Cmd} {i : Nat} {is : List Nat} (h : s.node.takes c 0x0B02 .either 5 = true)
    (h8 : arg c 0 < 8) (hmay : arg c 0 = c.ctx ∨ s.node.ctxSecure c.ctx = true) (hone : arg c 2 = 1) (hlo : arg c 3 = 0)
    (hhi : arg c 4 = 0) (hfrom : s.node.jrnFrom (arg c 0) (arg c 1) = i :: is) :
    exec (.jrnRead c) s = .next (s.on fun n =>
      (n.at c.time).completes c sOk (word 1 :: (n.at c.time).getRegs (Reg.JRN_ENTRY i) 16)) := by
  have hfrom' : (s.node.at c.time).jrnFrom (arg c 0) (arg c 1) = i :: is :=
    (s.node.jrnFrom_at _ _ _).trans hfrom
  refine exec_ctxCommand_open rfl h h8 hmay ?_
  simp only [hone, hlo, hhi, hfrom', List.take_succ_cons, List.take_zero, List.length_singleton, List.flatMap_cons, List.flatMap_nil,
    List.append_nil]
  rfl

theorem exec_jrnAck_known {s : State} {c : Cmd} (h : s.node.takes c 0x0B03 .either 2 = true) (h8 : arg c 0 < 8)
    (hmay : arg c 0 = c.ctx ∨ s.node.ctxSecure c.ctx = true) (hsome : (s.node.host.shares.getD (arg c 0) ⟨0, 0⟩).count ≠ 0)
    (hseq : arg c 1 = (s.node.reg (Reg.JRN_CTX_NEWEST (arg c 0))).toNat ∨
      seqPrecedes (arg c 1) (s.node.reg (Reg.JRN_CTX_NEWEST (arg c 0))).toNat = true) :
    exec (.jrnAck c) s = .next (s.on fun n =>
      ((n.at c.time).setReg (Reg.JRN_CTX_ACK (arg c 0)) (argW c 1)).completes c sOk []) := by
  refine exec_ctxCommand_open rfl h h8 hmay ?_
  have hgood : (arg c 1 == (s.node.reg (Reg.JRN_CTX_NEWEST (arg c 0))).toNat ||
      seqPrecedes (arg c 1) (s.node.reg (Reg.JRN_CTX_NEWEST (arg c 0))).toNat) = true := by simpa using hseq
  dsimp only
  rw [Node.at_host, Node.reg_at, if_neg (by simp only [hsome, hgood, Bool.not_true, Bool.false_eq_true, or_self, not_false_eq_true])]
  rfl

/-- A share in which nothing is pending is cleared for a command that has no entry of its own. -/
theorem exec_jrnClear_idle {s : State} {c : Cmd} (h : s.node.takes c 0x0B04 (.secure (81 + arg c 0 % 8)) 1 = true)
    (h8 : arg c 0 < 8) (hpresent : s.node.ctxPresent (arg c 0) = true)
    (hidle : ∀ i, (s.node.reg (Reg.JRN_CTX_BASE (arg c 0))).toNat ≤ i →
      i < (s.node.reg (Reg.JRN_CTX_BASE (arg c 0))).toNat + (s.node.reg (Reg.JRN_CTX_SIZE (arg c 0))).toNat →
      s.node.jrnValid i = true → s.node.jrnOutcome i ≠ 0xFE)
    (hown : s.node.flightOf c.ctx c.entry.seq = none) :
    exec (.jrnClear c) s = .next (s.on fun n =>
      let k := (List.range' (n.reg (Reg.JRN_CTX_BASE (arg c 0))).toNat (n.reg (Reg.JRN_CTX_SIZE (arg c 0))).toNat).foldl
        (fun k i => k.clearRegs (Reg.JRN_ENTRY i) (Reg.JRN_ENTRY i + 64)) (n.at c.time)
      let k := { k with host := { k.host with shares := modifyAt k.host.shares (arg c 0) fun _ => ⟨0, 0⟩ } }
      ((k.syncJrn (arg c 0)).raise 0x7008 2 (arg c 0)).completes c sOk []) := by
  have hpresent' : (s.node.at c.time).ctxPresent (arg c 0) = true := hpresent
  have hown' : (s.node.at c.time).flightOf c.ctx c.entry.seq = none := hown
  have hall : ∀ l : List Nat, (l.filter fun i => (none : Option Nat) != some i) = l := fun l => List.filter_eq_self.mpr (by simp)
  have hnone : ((List.range' (s.node.reg (Reg.JRN_CTX_BASE (arg c 0))).toNat (s.node.reg (Reg.JRN_CTX_SIZE (arg c 0))).toNat).any
      fun i => (s.node.at c.time).jrnValid i && (s.node.at c.time).jrnOutcome i == 0xFE) = false := by
    refine List.any_eq_false.mpr fun i hi => ?_
    obtain ⟨hlo, hhi⟩ := List.mem_range'_1.mp hi
    have hdone : (s.node.at c.time).jrnValid i = true → (s.node.at c.time).jrnOutcome i ≠ 0xFE := hidle i hlo hhi
    simpa using hdone
  refine exec_ctxCommand_secure rfl h h8 ?_
  simp only [hown', Option.bind_none, hall, Node.reg_at]
  rw [if_neg (by simp [hpresent']), if_neg (Bool.eq_false_iff.mp hnone)]
  rfl

/-- Settles O19, command by command. -/
theorem nodeAndJournalCommandsAnswer : Obligations.NodeAndJournalCommandsAnswer :=
  ⟨fun _ _ => exec_nodeStatus_takes, fun _ _ => exec_nodeNop_takes, fun _ _ => exec_ctxInfo_present, fun _ _ => exec_ctxInfo_foreign,
    fun _ _ => exec_ctxReset_other, fun _ _ => exec_jrnStatus_takes, fun _ _ _ _ => exec_jrnRead_one, fun _ _ => exec_jrnAck_known,
    fun _ _ => exec_jrnClear_idle⟩

end Sys2Proof.Machine
end

section
/-! PROOF. Host frames and frame rings (R59, R629, R630, R643, R644). -/

namespace Sys2Proof.Machine

/-! ### Command frames (R629, R630) -/

/-- The commands of a frame join the queue of their ring while the limit of R630 leaves room for all of them. -/
theorem frameCommands_join (c ring : Nat) (es : List SqEntry) (g : Node)
    (hroom : (g.host.frameCmds.countP fun x => x.1 == c && x.2.1 == ring) + g.inFlight c ring + es.length ≤ 64) :
    es.foldl (fun k e =>
        let waiting := k.host.frameCmds.countP fun x => x.1 == c && x.2.1 == ring
        if 64 ≤ waiting + k.inFlight c ring then k.accept c ring e true
        else { k with host := { k.host with frameCmds := k.host.frameCmds ++ [(c, ring, e)] } }) g =
      { g with host := { g.host with frameCmds := g.host.frameCmds ++ es.map fun e => (c, ring, e) } } := by
  induction es generalizing g with
  | nil => simp
  | cons e es ih =>
    rw [List.length_cons] at hroom
    rw [List.foldl_cons]
    dsimp only
    rw [if_neg (by omega), ih]
    · simp
    · have hflight : Node.inFlight { g with host := { g.host with frameCmds := g.host.frameCmds ++ [(c, ring, e)] } } c ring =
          g.inFlight c ring := rfl
      rw [hflight]
      simp only [List.countP_append, List.countP_singleton, BEq.rfl, Bool.and_self, if_true]
      omega

theorem exec_hostFrameCommands_taken {s : State} {r : Rx} {c : Nat} (hgood : ((s.node.at r.stamp).echoBack r).rxFail r = none)
    (hctx : (((s.node.at r.stamp).echoBack r).rxGood r).frameCtx r.port r.frame = some c)
    (hpool : frameCells r.frame ≤ r.room) (hecho : (((s.node.at r.stamp).echoBack r).rxGood r).echoing r.port = false)
    (hfetches : (((s.node.at r.stamp).echoBack r).rxGood r).fetches c = true)
    (hring : (frameEntries r.frame.body).1 <
      (((s.node.at r.stamp).echoBack r).rxGood r).fld (Reg.HST_CTX_CFG c) Fld.HST_CTX_CFG_RINGS)
    (hroom : ((((s.node.at r.stamp).echoBack r).rxGood r).host.frameCmds.countP
        fun x => x.1 == c && x.2.1 == (frameEntries r.frame.body).1) +
      (((s.node.at r.stamp).echoBack r).rxGood r).inFlight c (frameEntries r.frame.body).1 +
      (frameEntries r.frame.body).2.length ≤ 64) :
    exec (.hostFrameCommands r) s = .next (s.on fun n =>
      let g := ((n.at r.stamp).echoBack r).rxGood r
      { g with host := { g.host with frameCmds := g.host.frameCmds ++
        (frameEntries r.frame.body).2.map fun e => (c, (frameEntries r.frame.body).1, e) } }) := by
  refine exec_on_eq rfl ?_
  simp only [hgood, hctx]
  rw [if_neg (by omega), if_neg (by rw [hecho, hfetches]; simp only [Bool.not_true, Bool.false_eq_true, false_or]; omega)]
  exact frameCommands_join _ _ _ _ hroom

/-! ### Completion frames (R630) -/

theorem leAt_one (bs : List Byte) (i : Nat) : leAt bs i 1 = byteAt bs i := by simp [leAt, slice, beNat, byteAt]

/-- A single completion without extensions leaves in a frame of its own. -/
theorem exec_completionFrameSend_one {s : State} {ctx : Nat} (time : Nat) {e : HeldEntry} (hheld : s.node.host.held = [e]) (hctx : e.ctx = ctx)
    (hcomp : e.event = false) (hext : byteAt e.bytes 28 = 0) :
    exec (.completionFrameSend ctx time) s = .next (s.on fun n =>
      { n.at time with host := { n.host with held := [] } }.hostFrame ctx 2 (leAt e.bytes 31 1 / 16 % 4) [e]) := by
  have hlen : leAt e.bytes 28 1 = 0 := (leAt_one _ _).trans hext
  have hwhole : wholeEntries 46 46 [e] = 1 := by
    simp only [wholeEntries, hlen]
    rfl
  have hmine : [e].filter (fun x => x.ctx == ctx) = [e] := by simp [hctx]
  have hcomps : [e].filter (fun x => !x.event) = [e] := by simp [hcomp]
  have hevents : [e].filter (fun x => x.event) = [] := by simp [hcomp]
  refine exec_on_eq rfl ?_
  simp only [Node.at_host, hheld, hmine, hcomps, hevents, List.head?_cons, Option.map_some, Option.getD_some, BEq.rfl,
    List.filter_cons_of_pos, List.filter_nil, hwhole, List.take_succ_cons, List.take_nil, List.append_nil,
    List.foldl_cons, List.foldl_nil, List.erase_cons_head, List.isEmpty_nil, List.isEmpty_cons, Bool.false_eq_true, if_false, if_true]

/-! ### Transmit rings (R643, R644) -/

/-- The node that has taken the descriptor at the head of a transmit ring. -/
def Node.ftxTaken (n : Node) (ctx time : Nat) : Node :=
  (n.at time).setReg (Reg.HST_FTX_HEAD ctx)
    (word (if (n.reg (Reg.HST_FTX_HEAD ctx)).toNat + 1 < (n.reg (Reg.HST_FTX_SIZE ctx)).toNat
      then (n.reg (Reg.HST_FTX_HEAD ctx)).toNat + 1 else 0))

section
variable {s : State} {ctx : Nat} (len tag flags time : Nat) (f : Frame) (hctx : ctx < 4) (hpresent : s.node.ctxPresent ctx = true)
  (hrunning : s.node.ctxResetting ctx = false) (hon : s.node.reg (Reg.HST_FTX_SIZE ctx) ≠ 0#32)
  (hmore : s.node.reg (Reg.HST_FTX_HEAD ctx) ≠ s.node.reg (Reg.HST_FTX_TAIL ctx))
  (hgoes : s.node.host.stopped.contains (ctx, 5) = false)
include hctx hpresent hrunning hon hmore hgoes

/-- The descriptor of a transmit ring that runs is taken. -/
theorem exec_hostFrameTransmit_taken : exec (.hostFrameTransmit ctx len tag flags f time) s = .next (s.on fun n =>
    ((n.ftxTaken ctx time).hostSends ctx len tag flags f).irq ctx 6 6) := by
  have hpresent' : (s.node.at time).ctxPresent ctx = true := hpresent
  have hrunning' : (s.node.at time).ctxResetting ctx = false := hrunning
  have hsize : (s.node.reg (Reg.HST_FTX_SIZE ctx)).toNat ≠ 0 := fun h => hon (BitVec.eq_of_toNat_eq h)
  have hmore' : (s.node.reg (Reg.HST_FTX_HEAD ctx)).toNat ≠ (s.node.reg (Reg.HST_FTX_TAIL ctx)).toNat :=
    fun h => hmore (BitVec.eq_of_toNat_eq h)
  refine exec_on_eq rfl ?_
  dsimp only
  rw [Node.at_host, Node.reg_at, Node.reg_at, Node.reg_at, hpresent', hrunning', hgoes,
    if_neg (by simp only [Nat.not_le.mpr hctx, hsize, hmore', Bool.not_true, Bool.false_eq_true, or_self, not_false_eq_true])]
  rfl

end

/-! ### A frame that a host sends (R326, R644) -/

theorem Node.isSpine_ftxTaken (n : Node) (ctx time : Nat) (f : Frame) : (n.ftxTaken ctx time).isSpine f = n.isSpine f := by
  unfold Node.isSpine Node.ftxTaken
  rw [Node.reg_setReg_ne _ _ (by simp only [Reg.SPN_ETYPE, Reg.HST_FTX_HEAD]; omega), Node.reg_at]

theorem exec_hostFrameTransmit_dropped {s : State} {ctx : Nat} (len tag flags time : Nat) (f : Frame) (hctx : ctx < 4)
    (hpresent : s.node.ctxPresent ctx = true) (hrunning : s.node.ctxResetting ctx = false)
    (hon : s.node.reg (Reg.HST_FTX_SIZE ctx) ≠ 0#32)
    (hmore : s.node.reg (Reg.HST_FTX_HEAD ctx) ≠ s.node.reg (Reg.HST_FTX_TAIL ctx))
    (hgoes : s.node.host.stopped.contains (ctx, 5) = false)
    (hbad : len < 60 ∨ 1518 < len ∨ s.node.isSpine f = true ∨ f.etype = 0x8808) :
    exec (.hostFrameTransmit ctx len tag flags f time) s = .next (s.on fun n =>
      ((n.ftxTaken ctx time).inc (Reg.HST_FTX_DROP ctx)).irq ctx 6 6) := by
  refine exec_on_eq (exec_hostFrameTransmit_taken len tag flags time f hctx hpresent hrunning hon hmore hgoes) ?_
  rw [Node.hostSends, if_pos (by rw [Node.isSpine_ftxTaken]; exact hbad)]

/-- The frame of a taken descriptor as it has entered the fabric through the host port. -/
def Node.ftxForwarded (n : Node) (ctx time : Nat) (f : Frame) : Node :=
  (n.ftxTaken ctx time).openForward 13 f (n.reg Reg.TOP_BUF_OPEN_FREE).toNat (n.at time).tm.raw

theorem Node.ftxForwarded_eq (n : Node) (ctx time : Nat) (f : Frame) : (n.ftxTaken ctx time).openForward 13 f
    ((n.ftxTaken ctx time).reg Reg.TOP_BUF_OPEN_FREE).toNat (n.ftxTaken ctx time).tm.raw = n.ftxForwarded ctx time f := by
  have hfree : (n.ftxTaken ctx time).reg Reg.TOP_BUF_OPEN_FREE = n.reg Reg.TOP_BUF_OPEN_FREE := by
    unfold Node.ftxTaken
    rw [Node.reg_setReg_ne _ _ (by simp only [Reg.TOP_BUF_OPEN_FREE, Reg.HST_FTX_HEAD]; omega), Node.reg_at]
  rw [hfree]
  rfl

section
variable {n : Node} (ctx time : Nat) {len : Nat} (tag : Nat) {flags : Nat} {f : Frame} (hmin : 60 ≤ len) (hmax : len ≤ 1518)
  (hopen : n.isSpine f = false) (hmac : f.etype ≠ 0x8808)
include hmin hmax hopen hmac

/-- The frame of an unstamped descriptor only enters the fabric. -/
theorem Node.hostSends_unstamped (hflag : flags.testBit 0 = false) :
    (n.ftxTaken ctx time).hostSends ctx len tag flags f = n.ftxForwarded ctx time f := by
  unfold Node.hostSends
  rw [if_neg (by rw [Node.isSpine_ftxTaken, hopen]; simp only [hmac, Bool.false_eq_true, or_false]; omega), Node.ftxForwarded_eq]
  simp only [hflag, Bool.not_false, if_true]
  split <;> rfl

/-- The frame of a stamped descriptor that starts at once yields the stamp of its lowest port. -/
theorem Node.hostSends_stamped {q p : Nat} (hflag : flags.testBit 0 = true) (htsq : (n.ftxForwarded ctx time f).tsqOf ctx = some q)
    (hqueue : (n.ftxForwarded ctx time f).net.queue = n.net.queue)
    (hport : (((n.ftxForwarded ctx time f).net.sent.drop n.net.sent.length).map (·.port)).min? = some p) :
    (n.ftxTaken ctx time).hostSends ctx len tag flags f =
      (n.ftxForwarded ctx time f).tsqPush q (tag % 65536) p ((n.ftxForwarded ctx time f).stampAt (n.ftxForwarded ctx time f).tm.raw) := by
  have hnet : (n.ftxTaken ctx time).net = n.net := rfl
  unfold Node.hostSends
  rw [if_neg (by rw [Node.isSpine_ftxTaken, hopen]; simp only [hmac, Bool.false_eq_true, or_false]; omega), Node.ftxForwarded_eq]
  simp only [htsq, hflag, hnet, hqueue, hport, List.drop_length, List.map_nil, List.min?_nil, Bool.not_true, Bool.false_eq_true, if_false]

end

/-- Settles O20: each row is the one branch of its definition that its conditions leave. -/
theorem hostFramesCarryCommandsAndCompletions : Obligations.HostFramesCarryCommandsAndCompletions := by
  refine ⟨fun _ _ _ => exec_hostFrameCommands_taken, fun _ _ time _ => exec_completionFrameSend_one time,
    fun s ctx len tag flags time f hctx hp hr hon hmore hgoes hbad =>
      exec_hostFrameTransmit_dropped len tag flags time f hctx hp hr hon hmore hgoes hbad,
    fun s ctx len tag flags time f hctx hp hr hon hmore hgoes hmin hmax hopen hmac hflag => ?_,
    fun s ctx len tag flags time q p f m hctx hp hr hon hmore hgoes hmin hmax hopen hmac hflag hm htsq hqueue hport => ?_⟩
  · refine exec_on_eq (exec_hostFrameTransmit_taken len tag flags time f hctx hp hr hon hmore hgoes) ?_
    rw [Node.hostSends_unstamped ctx time tag hmin hmax hopen hmac hflag]
    rfl
  · subst hm
    refine exec_on_eq (exec_hostFrameTransmit_taken len tag flags time f hctx hp hr hon hmore hgoes) ?_
    rw [Node.hostSends_stamped ctx time tag hmin hmax hopen hmac hflag htsq hqueue hport]
    rfl

end Sys2Proof.Machine
end

section
/-! PROOF. The event router, the fault log, engine faults and memory errors (R67 to R69, R72 to R74, R672 to R676, R727, R728, R734). -/

namespace Sys2Proof.Machine

/-! ### Cleared registers -/

theorem Sparse.get_filter_key {β : Type} {d : Nat → β} (m : List (Nat × β)) (p : Nat → Bool) (a : Nat) :
    Sparse.get d (m.filter fun x => p x.1) a = if p a then Sparse.get d m a else d a := by
  induction m with
  | nil => simp [Sparse.get]
  | cons x m ih =>
    by_cases hx : p x.1 = true
    · rw [List.filter_cons_of_pos (by exact hx), Sparse.get, Sparse.get, ih]
      by_cases ha : x.1 = a
      · rw [if_pos ha, if_pos ha, if_pos (ha ▸ hx)]
      · rw [if_neg ha, if_neg ha]
    · rw [List.filter_cons_of_neg (by exact hx), ih, Sparse.get]
      by_cases ha : x.1 = a
      · rw [if_neg (ha ▸ hx), if_neg (ha ▸ hx)]
      · rw [if_neg ha]

theorem Node.reg_clearRegs (n : Node) (lo hi a : Nat) : (n.clearRegs lo hi).reg a = if lo ≤ a ∧ a < hi then regReset a else n.reg a := by
  unfold Node.reg Node.clearRegs
  dsimp only
  rw [Sparse.get_filter_key n.regs (fun k => !(decide (lo ≤ k) && decide (k < hi))) a]
  by_cases h : lo ≤ a ∧ a < hi
  · rw [if_pos h, if_neg (by simp [h])]
  · rw [if_neg h, if_pos (by simp only [Bool.not_eq_true', Bool.and_eq_false_iff, decide_eq_false_iff_not]; omega)]

/-- The records of the fault log read as zero after reset. -/
theorem regReset_log {a : Nat} (hlo : 0x00190000 ≤ a) (hhi : a < 0x00194000) : regReset a = 0#32 := by
  have hnone : (resetRows.find? fun r => decide (r.1 ≤ a) && inArray r.2.1 1 (a - r.1)) = none := by
    refine List.find?_eq_none.mpr ?_
    simp only [resetRows, List.forall_mem_cons, List.not_mem_nil, false_imp_iff, implies_true, and_true, inArray, Bool.and_eq_true,
      decide_eq_true_eq]
    omega
  rw [regReset, hnone]

/-! ### 64-bit counters -/

theorem Node.reg64_add64 (n : Node) (lo k : Nat) : (n.add64 lo k).reg64 lo = (n.reg64 lo + k) % 2 ^ 64 := by
  unfold Node.add64 Node.setReg64
  generalize n.reg64 lo + k = v
  rw [Node.reg64, Node.reg_setReg_self, Node.reg_setReg_ne _ _ (by omega), Node.reg_setReg_self, word_toNat, word_toNat]
  omega

theorem Node.reg_add64_ne (n : Node) {lo b : Nat} (k : Nat) (hlo : b ≠ lo) (hhi : b ≠ lo + 4) : (n.add64 lo k).reg b = n.reg b := by
  rw [Node.add64, Node.setReg64, Node.reg_setReg_ne _ _ hhi, Node.reg_setReg_ne _ _ hlo]

/-- A write of a word of on-chip SRAM that an injection may alter: the registers below the test block stand. -/
theorem Node.reg_injSram {b : Nat} (hb : b < Reg.TST_STAT) (n : Node) (mem first words : Nat) : (n.injSram mem first words).reg b = n.reg b :=
  Node.reg_injWords hb _ _ _ _ _ _ _ _

/-! ### The router (R672 to R674) -/

theorem exec_eventRoute_quiet {s : State} (time : Nat) {e : Event} (he : nextEvent s.node.ev.queue = some e)
    (habsent : ∀ c, c < 8 → s.node.ctxPresent c = false) (hlog : evSev e.code < s.node.bits Reg.EVT_CFG 0 2) (hsev : evSev e.code < 3) :
    exec (.eventRoute time) s = .next (s.on fun n =>
      { n.at time with ev := { n.ev with queue := n.ev.queue.erase e } }.inc (Reg.EVT_CNT_SEV (evSev e.code))) := by
  refine exec_on_eq rfl ?_
  simp only [Node.routeNext, Node.at_ev, he]
  generalize hm : ({ s.node.at time with ev := { s.node.ev with queue := s.node.ev.queue.erase e } } : Node) = m
  have hreg : ∀ a, m.reg a = s.node.reg a := fun a => by rw [← hm]; rfl
  have hnone : (List.range 8).filter (fun c => (m.inc (Reg.EVT_CNT_SEV (evSev e.code))).subscribed c e.code) = [] := by
    refine List.filter_eq_nil_iff.mpr fun c hc => ?_
    have hstat : (m.inc (Reg.EVT_CNT_SEV (evSev e.code))).reg (Reg.HST_CTX_STAT c) = s.node.reg (Reg.HST_CTX_STAT c) :=
      (Node.reg_inc_ne m (by simp only [Reg.HST_CTX_STAT, Reg.EVT_CNT_SEV]; omega)).trans (hreg _)
    have hpresent : (m.inc (Reg.EVT_CNT_SEV (evSev e.code))).ctxPresent c = s.node.ctxPresent c := by
      unfold Node.ctxPresent Node.bit
      rw [hstat]
    simp [Node.subscribed, hpresent, habsent c (List.mem_range.mp hc)]
  have hquiet : ¬ m.bits Reg.EVT_CFG 0 2 ≤ evSev e.code := by
    rw [Node.bits, hreg]
    exact Nat.not_le.mpr hlog
  unfold Node.routeOne
  simp only [if_neg hquiet, Nat.ne_of_lt hsev, false_and, if_false, hnone, List.foldl_nil]

theorem exec_eventRoute_empty {s : State} (time : Nat) (h : s.node.ev.queue = []) :
    exec (.eventRoute time) s = .next (s.on fun n => n.at time) := by
  refine exec_on_eq rfl ?_
  simp only [Node.routeNext, Node.at_ev, h, nextEvent]

/-- The record as it has been written at `HEAD`, before the log's registers follow. -/
def Node.recordPut (n : Node) (e : Event) : Node :=
  (n.setRegs (Reg.EVT_LOG (n.bits Reg.EVT_STAT 0 10)) (recordWords e)).injSram 7 (n.bits Reg.EVT_STAT 0 10 * 2) 2

/-- What a record leaves beyond its words and the state and total of the log: the wrap count. -/
theorem Node.logRecord_eq (n : Node) (e : Event) : ∃ k : Node,
    (k = (n.recordPut e).setBits Reg.EVT_STAT 0 10 ((n.bits Reg.EVT_STAT 0 10 + 1) % 1024) ∨
      k = (((n.recordPut e).setBits Reg.EVT_STAT 0 10 ((n.bits Reg.EVT_STAT 0 10 + 1) % 1024)).inc Reg.EVT_LOG_WRAP).setBit
        Reg.EVT_STAT 10 true) ∧
    n.logRecord e = k.setReg Reg.EVT_LOG_TOTAL (k.reg Reg.EVT_LOG_TOTAL + 1#32) := by
  unfold Node.logRecord
  dsimp only
  split
  · exact ⟨_, .inr rfl, rfl⟩
  · exact ⟨_, .inl rfl, rfl⟩

theorem Node.reg_recordPut_ne (n : Node) (e : Event) {b : Nat} (hb : b < 0x00190000) : (n.recordPut e).reg b = n.reg b := by
  rw [Node.recordPut, Node.reg_injSram (by simp only [Reg.TST_STAT]; omega),
    Node.reg_setRegs_out _ _ _ _ (.inl (by simp only [Reg.EVT_LOG]; omega))]

theorem Node.getRegs_recordPut (n : Node) (e : Event) (hhead : n.bits Reg.EVT_STAT 0 10 < 1024) :
    (n.recordPut e).getRegs (Reg.EVT_LOG (n.bits Reg.EVT_STAT 0 10)) 4 = recordWords e := by
  generalize hh : n.bits Reg.EVT_STAT 0 10 = head at hhead
  have hword : ∀ i (hi : i < (recordWords e).length), (n.recordPut e).reg (Reg.EVT_LOG head + 4 * i) = (recordWords e)[i] := fun i hi => by
    have h4 : i < 4 := hi
    rw [Node.recordPut, hh, Node.reg_injSram (by simp only [Reg.EVT_LOG, Reg.TST_STAT]; omega), Node.reg_setRegs]
  refine List.ext_getElem (by simp [Node.getRegs, recordWords]) fun i hi hi' => ?_
  simp only [Node.getRegs, List.getElem_map, List.getElem_range, hword i hi']

/-- A record is written at `HEAD`, and `HEAD` and the total move on. -/
theorem logRecord_written (n : Node) (e : Event) (hhead : n.bits Reg.EVT_STAT 0 10 < 1024) :
    (n.logRecord e).getRegs (Reg.EVT_LOG (n.bits Reg.EVT_STAT 0 10)) 4 = recordWords e ∧
    (n.logRecord e).bits Reg.EVT_STAT 0 10 = (n.bits Reg.EVT_STAT 0 10 + 1) % 1024 ∧
    (n.logRecord e).reg Reg.EVT_LOG_TOTAL = n.reg Reg.EVT_LOG_TOTAL + 1#32 := by
  obtain ⟨k, hk, heq⟩ := n.logRecord_eq e
  have hlog : ∀ b, 0x00190000 ≤ b → k.reg b = (n.recordPut e).reg b := fun b hb => by
    rcases hk with rfl | rfl
    · exact Node.reg_setBits_ne _ _ _ _ (by simp only [Reg.EVT_STAT]; omega)
    · rw [Node.setBit, Node.reg_setBits_ne _ _ _ _ (by simp only [Reg.EVT_STAT]; omega),
        Node.reg_inc_ne _ (by simp only [Reg.EVT_LOG_WRAP]; omega), Node.reg_setBits_ne _ _ _ _ (by simp only [Reg.EVT_STAT]; omega)]
  have hstat : k.bits Reg.EVT_STAT 0 10 = (n.bits Reg.EVT_STAT 0 10 + 1) % 1024 := by
    have hput : ((n.recordPut e).setBits Reg.EVT_STAT 0 10 ((n.bits Reg.EVT_STAT 0 10 + 1) % 1024)).bits Reg.EVT_STAT 0 10 =
        (n.bits Reg.EVT_STAT 0 10 + 1) % 1024 := by
      rw [Node.bits_setBits_self _ _ _ _ _ (by decide)]
      omega
    rcases hk with rfl | rfl
    · exact hput
    · rw [Node.setBit, Node.bits_setBits_ne _ _ _ _ _ (by decide) (by decide), Node.bits, Node.reg_inc_ne _ (by decide), ← Node.bits, hput]
  have htotal : k.reg Reg.EVT_LOG_TOTAL = n.reg Reg.EVT_LOG_TOTAL := by
    rcases hk with rfl | rfl
    · rw [Node.reg_setBits_ne _ _ _ _ (by decide), Node.reg_recordPut_ne _ _ (by decide)]
    · rw [Node.setBit, Node.reg_setBits_ne _ _ _ _ (by decide), Node.reg_inc_ne _ (by decide), Node.reg_setBits_ne _ _ _ _ (by decide),
        Node.reg_recordPut_ne _ _ (by decide)]
  rw [heq]
  refine ⟨?_, ?_, ?_⟩
  · rw [← n.getRegs_recordPut e hhead]
    refine List.map_congr_left fun i hi => ?_
    rw [Node.reg_setReg_ne _ _ (by simp only [Reg.EVT_LOG, Reg.EVT_LOG_TOTAL]; omega), hlog _ (by simp only [Reg.EVT_LOG]; omega)]
  · rw [Node.bits, Node.reg_setReg_ne _ _ (by decide), ← Node.bits, hstat]
  · rw [Node.reg_setReg_self, htotal]

/-! ### The log and the latch cleared (R675, R677) -/

theorem Node.clearLog_eq (n : Node) : ∃ regs, n.clearLog = { n with regs := regs } := ⟨n.clearLog.regs, rfl⟩

theorem Node.reg_clearLog (n : Node) {a : Nat} (htotal : a ≠ Reg.EVT_LOG_TOTAL) (hstat : a ≠ Reg.EVT_STAT) :
    n.clearLog.reg a = if 0x00190000 ≤ a ∧ a < 0x00194000 then regReset a else n.reg a := by
  rw [Node.clearLog, Node.reg_setBits_ne _ _ _ _ hstat, Node.reg_setReg_ne _ _ htotal, Node.reg_clearRegs]

theorem evtClearLog_cleared {s : State} {ctx : Nat} (h : s.node.admits ctx Reg.EVT_CLEAR true = true) :
    ∃ t : State, exec (.evtClearLog ctx) s = .next t ∧ t.node.reg Reg.EVT_LOG_TOTAL = 0#32 ∧
      t.node.bits Reg.EVT_STAT 0 11 = 0 ∧ (∀ i, i < 1024 → t.node.getRegs (Reg.EVT_LOG i) 4 = [0#32, 0#32, 0#32, 0#32]) ∧
      t.node.bit Reg.EVT_STAT 11 = s.node.bit Reg.EVT_STAT 11 ∧
      t.node.getRegs Reg.EVT_FATAL_W0 4 = s.node.getRegs Reg.EVT_FATAL_W0 4 ∧
      t.node = { s.node.answer 0#32 with regs := t.node.regs } := by
  have hexec : exec (.evtClearLog ctx) s = .next (s.on fun n => (n.answer 0#32).clearLog) :=
    exec_on_eq rfl (Node.access_admitted _ _ _ _ _ h)
  generalize hn : s.node.answer 0#32 = n
  have hreg : ∀ a, n.reg a = s.node.reg a := fun a => by rw [← hn]; rfl
  refine ⟨_, hexec, ?_⟩
  rw [State.on_node, hn]
  refine ⟨?_, ?_, fun i hi => ?_, ?_, ?_, ?_⟩
  · rw [Node.clearLog, Node.reg_setBits_ne _ _ _ _ (by decide), Node.reg_setReg_self]
  · rw [Node.clearLog, Node.bits_setBits_self _ _ _ _ _ (by decide), Nat.zero_mod]
  · have hzero : ∀ k, k < 4 → n.clearLog.reg (Reg.EVT_LOG i + 4 * k) = 0#32 := fun k hk => by
      rw [Node.reg_clearLog _ (by simp only [Reg.EVT_LOG, Reg.EVT_LOG_TOTAL]; omega) (by simp only [Reg.EVT_LOG, Reg.EVT_STAT]; omega),
        if_pos (by simp only [Reg.EVT_LOG]; omega), regReset_log (by simp only [Reg.EVT_LOG]; omega) (by simp only [Reg.EVT_LOG]; omega)]
    exact (List.map_congr_left fun k hk => hzero k (List.mem_range.mp hk)).trans rfl
  · rw [Node.bit_eq_bits, Node.bit_eq_bits, Node.clearLog, Node.bits_setBits_ne _ _ _ _ _ (by decide) (by decide), Node.bits,
      Node.reg_setReg_ne _ _ (by decide), Node.reg_clearRegs, if_neg (by decide), hreg, ← Node.bits]
  · refine List.map_congr_left fun i hi => ?_
    have hi4 : i < 4 := List.mem_range.mp hi
    rw [Node.reg_clearLog _ (by simp only [Reg.EVT_FATAL_W0, Reg.EVT_LOG_TOTAL]; omega)
      (by simp only [Reg.EVT_FATAL_W0, Reg.EVT_STAT]; omega), if_neg (by simp only [Reg.EVT_FATAL_W0]; omega), hreg]
  · obtain ⟨regs, heq⟩ := n.clearLog_eq
    rw [heq]

theorem exec_evtClearFatal_admitted {s : State} {ctx : Nat} (h : s.node.admits ctx Reg.EVT_CLEAR true = true) :
    exec (.evtClearFatal ctx) s = .next (s.on fun n =>
      ((n.answer 0#32).setBit Reg.EVT_STAT 11 false).setRegs Reg.EVT_FATAL_W0 [0#32, 0#32, 0#32, 0#32]) :=
  exec_on_eq rfl (Node.access_admitted _ _ _ _ _ h)

/-! ### Engines (R67 to R69) -/

theorem regRow_engFault : (regRow Reg.TOP_ENG_FAULT).map (fun r => (r.access, r.wmask)) = some (.w1c, 0xFFFF#32) := by decide +kernel

theorem engineFaultClear_cleared {s : State} {ctx : Nat} (v : Word) (h : s.node.admits ctx Reg.TOP_ENG_FAULT true = true) :
    ∃ t : State, exec (.engineFaultClear ctx v) s = .next t ∧
      t.node.reg Reg.TOP_ENG_FAULT = s.node.reg Reg.TOP_ENG_FAULT &&& ~~~(v &&& 0xFFFF#32) ∧
      t.node.reg Reg.TOP_ENG_RUN = s.node.reg Reg.TOP_ENG_RUN := by
  obtain ⟨row, hrow, hfields⟩ := Option.map_eq_some_iff.mp regRow_engFault
  obtain ⟨haccess, hmask⟩ := Prod.mk.inj hfields
  have hexec : exec (.engineFaultClear ctx v) s = .next (s.on fun n => (n.answer 0#32).setReg Reg.TOP_ENG_FAULT
      ((n.reg Reg.TOP_ENG_FAULT &&& ~~~(v &&& 0xFFFF#32)) ||| 0#32)) := by
    refine exec_on_eq rfl ((Node.access_admitted _ _ _ _ _ h).trans ?_)
    rw [Node.plainWrite_w1c _ _ _ hrow haccess, hmask, Node.reg_answer]
  refine ⟨_, hexec, ?_, ?_⟩
  · rw [State.on_node, Node.reg_setReg_self, BitVec.or_zero]
  · rw [State.on_node, Node.reg_setReg_ne _ _ (by decide), Node.reg_answer]

/-- An engine that fails is held in reset with its record set and its event (R67, R416). -/
def Node.engineStopped (n : Node) (e cause : Nat) : Node :=
  let m := (n.setBit Reg.TOP_ENG_FAULT e true).setBit Reg.TOP_ENG_RUN e false
  ({ m with boot := { m.boot with engDown := m.boot.engDown ++ [e] } }.raise 0x0B04 e cause).pairFault

theorem Node.engineFault_eq (n : Node) {e cause : Nat} (he : e < 16) (hup : n.boot.engDown.contains e = false)
    (hruns : n.bit Reg.TOP_ENG_RUN e = true ∨ cause = 2) : n.engineFault e cause =
      if e = 1 then { n.engineStopped e cause with aud := { (n.engineStopped e cause).aud with reqs := [], issued := [], outbox := [] } }.arbitrateAll
        ((n.engineStopped e cause).aud.reqs.flatMap fun (q : PaReq) => q.plays.map fun (z : ZonePlay) => z.zone)
      else if e = 10 ∨ e = 11 ∨ e = 14 ∨ e = 15 then (n.engineStopped e cause).enterMute
      else n.engineStopped e cause := by
  have hgo : ¬ (16 ≤ e ∨ n.boot.engDown.contains e = true ∨ ((!n.bit Reg.TOP_ENG_RUN e) = true ∧ cause ≠ 2)) := by
    rw [hup]
    rcases hruns with h | h <;> simp [h, he]
  rw [Node.engineFault, if_neg hgo]
  rfl

/-! ### Memory errors (R72, R73, R727, R728) -/

/-- The record and the event of an uncorrectable error in on-chip SRAM. -/
def Node.sramSpoilt (n : Node) (place : Nat) : Node := ((n.setReg Reg.TOP_ECC_LAST (word place)).inc Reg.TOP_ECC_UNCORR).raise 0x0A02 place 0

theorem exec_sramScrub_uncorrectable {s : State} {place : Nat} (time : Nat) {g : Node → Node}
    (hnone : s.node.spoiltAt (place / 2 ^ 24) (place % 2 ^ 24) = none)
    (hg : (let m := (s.node.at time).sramSpoilt place
      let mem := place / 2 ^ 24 % 256
      let w := place % 2 ^ 24
      if 0x10 ≤ mem ∧ mem < 0x20 then m.engineFault (mem - 0x10) 2
      else if mem = 1 then m.bufferEcc
      else if 2 ≤ mem ∧ mem ≤ 5 then { m with mem := { m.mem with absent := (m.mem.absent ++ [(mem, tableEntry mem w)]).eraseDups } }
      else if mem = 6 then if w / 8 < 8192 then m.jrnMarkCorrupt (w / 8) else m
      else if mem = 7 then [0, 4, 8, 12].foldl (fun k o => (k.free.1).setReg (Reg.EVT_LOG (w / 2 % 1024) + o) k.free.2) m
      else m) = g s.node) : exec (.sramScrub ⟨false, place, true⟩ time) s = .next (s.on g) := by
  have hnone' : (s.node.at time).spoiltAt (place / 2 ^ 24) (place % 2 ^ 24) = none := hnone
  refine exec_on_eq rfl (Eq.trans ?_ hg)
  unfold Node.sramEcc
  simp only [hnone', Option.getD_none, Bool.not_true, Bool.false_eq_true, if_false]
  rfl

theorem exec_sramScrub_table {s : State} {place : Nat} (time : Nat) (hlo : 2 ≤ place / 2 ^ 24 % 256) (hhi : place / 2 ^ 24 % 256 ≤ 5)
    (hnone : s.node.spoiltAt (place / 2 ^ 24) (place % 2 ^ 24) = none) :
    exec (.sramScrub ⟨false, place, true⟩ time) s = .next (s.on fun n =>
      let m := (n.at time).sramSpoilt place
      { m with mem := { m.mem with
        absent := (m.mem.absent ++ [(place / 2 ^ 24 % 256, tableEntry (place / 2 ^ 24 % 256) (place % 2 ^ 24))]).eraseDups } }) := by
  refine exec_sramScrub_uncorrectable time hnone ?_
  dsimp only
  rw [if_neg (by omega), if_neg (by omega), if_pos ⟨hlo, hhi⟩]

theorem exec_sramScrub_journal {s : State} {place : Nat} (time : Nat) (hmem : place / 2 ^ 24 % 256 = 6)
    (hentry : place % 2 ^ 24 / 8 < 8192) (hnone : s.node.spoiltAt (place / 2 ^ 24) (place % 2 ^ 24) = none) :
    exec (.sramScrub ⟨false, place, true⟩ time) s = .next (s.on fun n =>
      ((n.at time).sramSpoilt place).jrnMarkCorrupt (place % 2 ^ 24 / 8)) := by
  refine exec_sramScrub_uncorrectable time hnone ?_
  dsimp only
  rw [if_neg (by omega), if_neg (by omega), if_neg (by omega), if_pos hmem, if_pos hentry]

theorem exec_sramScrub_engine {s : State} {place : Nat} (time : Nat) (hlo : 0x10 ≤ place / 2 ^ 24 % 256)
    (hhi : place / 2 ^ 24 % 256 < 0x20) (hnone : s.node.spoiltAt (place / 2 ^ 24) (place % 2 ^ 24) = none) :
    exec (.sramScrub ⟨false, place, true⟩ time) s = .next (s.on fun n =>
      ((n.at time).sramSpoilt place).engineFault (place / 2 ^ 24 % 256 - 0x10) 2) := by
  refine exec_sramScrub_uncorrectable time hnone ?_
  dsimp only
  rw [if_pos ⟨hlo, hhi⟩]

theorem exec_sramScrub_corrected {s : State} {place : Nat} (time : Nat)
    (hnone : s.node.spoiltAt (place / 2 ^ 24) (place % 2 ^ 24) = none) :
    exec (.sramScrub ⟨false, place, false⟩ time) s = .next (s.on fun n =>
      (((n.at time).injSram (place / 2 ^ 24) (place % 2 ^ 24) 1).add64 Reg.TOP_ECC_CORR_LO 1).raiseCounted 0x0801 0 n.tc place) := by
  have hnone' : (s.node.at time).spoiltAt (place / 2 ^ 24) (place % 2 ^ 24) = none := hnone
  refine exec_on_eq rfl ?_
  unfold Node.sramEcc
  simp only [hnone', Option.getD_none, Bool.not_false, if_true]
  rfl

theorem sramScrub_corrected {s : State} {place : Nat} (time : Nat) (hnone : s.node.spoiltAt (place / 2 ^ 24) (place % 2 ^ 24) = none) :
    ∃ t : State, exec (.sramScrub ⟨false, place, false⟩ time) s = .next t ∧
    t.node.reg64 Reg.TOP_ECC_CORR_LO = (s.node.reg64 Reg.TOP_ECC_CORR_LO + 1) % 2 ^ 64 ∧
    t.node.reg Reg.TOP_ECC_UNCORR = s.node.reg Reg.TOP_ECC_UNCORR ∧ t.node.reg Reg.TOP_ECC_LAST = s.node.reg Reg.TOP_ECC_LAST := by
  refine ⟨_, exec_sramScrub_corrected time hnone, ?_⟩
  rw [State.on_node]
  generalize hk : (s.node.at time).injSram (place / 2 ^ 24) (place % 2 ^ 24) 1 = k
  have hreg : ∀ b, b < Reg.TST_STAT → k.reg b = s.node.reg b := fun b hb => by rw [← hk, Node.reg_injSram hb, Node.reg_at]
  have hcount : k.reg64 Reg.TOP_ECC_CORR_LO = s.node.reg64 Reg.TOP_ECC_CORR_LO := by
    rw [Node.reg64, Node.reg64, hreg _ (by decide), hreg _ (by decide)]
  refine ⟨?_, ?_, ?_⟩
  · rw [Node.reg64, Node.reg_raiseCounted_ne _ _ _ _ _ (by decide), Node.reg_raiseCounted_ne _ _ _ _ _ (by decide), ← Node.reg64,
      Node.reg64_add64, hcount]
  · rw [Node.reg_raiseCounted_ne _ _ _ _ _ (by decide), Node.reg_add64_ne _ _ (by decide) (by decide), hreg _ (by decide)]
  · rw [Node.reg_raiseCounted_ne _ _ _ _ _ (by decide), Node.reg_add64_ne _ _ (by decide) (by decide), hreg _ (by decide)]

/-- The patrol of a DRAM that it scrubs, below its end. -/
theorem exec_dramScrub_within {s : State} {addr : Nat} (time : Nat) (found : Bool) (hon : s.node.bit Reg.MEM_SCRUB 0 = true)
    (hin : addr < s.node.bits Reg.MEM_SIZE 0 16 * 2 ^ 20) :
    exec (.dramScrub addr found time) s = .next (s.on fun n => (n.at time).dramEcc addr found) := by
  have hon' : (s.node.at time).bit Reg.MEM_SCRUB 0 = true := hon
  have hin' : ¬ (s.node.at time).bits Reg.MEM_SIZE 0 16 * 2 ^ 20 ≤ addr := Nat.not_le.mpr hin
  refine exec_on_eq rfl ?_
  simp only [hon', Bool.not_true, Bool.false_eq_true, if_false, if_neg hin']

theorem exec_dramScrub_end {s : State} {addr : Nat} (time : Nat) (found : Bool) (hon : s.node.bit Reg.MEM_SCRUB 0 = true)
    (hend : s.node.bits Reg.MEM_SIZE 0 16 * 2 ^ 20 ≤ addr) :
    exec (.dramScrub addr found time) s = .next (s.on fun n =>
      (n.at time).setBits Reg.MEM_SCRUB 16 16 (min (n.bits Reg.MEM_SCRUB 16 16 + 1) 65535)) := by
  have hon' : (s.node.at time).bit Reg.MEM_SCRUB 0 = true := hon
  have hend' : (s.node.at time).bits Reg.MEM_SIZE 0 16 * 2 ^ 20 ≤ addr := hend
  refine exec_on_eq rfl ?_
  simp only [hon', Bool.not_true, Bool.false_eq_true, if_false, if_pos hend']
  rfl

theorem dramScrub_uncorrectable {s : State} {addr : Nat} (time : Nat) (hon : s.node.bit Reg.MEM_SCRUB 0 = true)
    (hin : addr < s.node.bits Reg.MEM_SIZE 0 16 * 2 ^ 20) (hnone : s.node.spoiltAt 0 (addr / 64) = none) :
    ∃ t : State, exec (.dramScrub addr true time) s = .next t ∧
      t.node.reg Reg.MEM_ECC_UNCORR = word (min ((s.node.reg Reg.MEM_ECC_UNCORR).toNat + 1) 0xFFFFFFFF) ∧
      t.node.reg Reg.MEM_ECC_LAST = word (addr / 64 % 2 ^ 27) ∧ t.node.mem = s.node.mem := by
  have hnone' : (s.node.at time).spoiltAt 0 (addr / 64) = none := hnone
  obtain ⟨r, hr⟩ : ∃ r, (s.node.at time).dramEcc addr true =
      (((s.node.at time).inc Reg.MEM_ECC_UNCORR).setReg Reg.MEM_ECC_LAST (word (addr / 64 % 2 ^ 27))).raise 0x9202 (addr / 64 % 2 ^ 27) r := by
    unfold Node.dramEcc
    rw [hnone', Option.getD_none, if_pos rfl]
    exact ⟨_, rfl⟩
  refine ⟨_, exec_dramScrub_within time true hon hin, ?_⟩
  rw [State.on_node, hr]
  refine ⟨?_, ?_, ?_⟩
  · rw [Node.reg_raise_ne _ _ _ _ (by decide), Node.reg_setReg_ne _ _ (by decide), Node.reg_inc_self, Node.reg_at]
  · rw [Node.reg_raise_ne _ _ _ _ (by decide), Node.reg_setReg_self]
  · rw [Node.raise_mem]
    rfl

/-- Settles O21. -/
theorem eventsFaultsAndMemoryErrorsAreReported : Obligations.EventsFaultsAndMemoryErrorsAreReported := by
  refine ⟨fun _ time _ => exec_eventRoute_quiet time, fun _ time => exec_eventRoute_empty time, logRecord_written,
    fun _ _ => evtClearLog_cleared, fun _ _ => exec_evtClearFatal_admitted, fun _ _ v => engineFaultClear_cleared v,
    fun s e cause time he hne hup hruns => ?_, fun s cause time hup hruns => ?_, fun _ _ time => exec_sramScrub_table time,
    fun _ _ time => exec_sramScrub_journal time, fun _ _ time => exec_sramScrub_engine time, fun _ _ time => sramScrub_corrected time,
    fun _ _ time => dramScrub_uncorrectable time, fun _ _ time found => exec_dramScrub_end time found⟩
  · refine exec_on_eq rfl ((Node.engineFault_eq (s.node.at time) he hup hruns).trans ?_)
    rw [if_neg hne]
    rfl
  · exact exec_on_eq rfl ((Node.engineFault_eq (s.node.at time) (by decide) hup hruns).trans (if_pos rfl))

end Sys2Proof.Machine
end

section
/-! PROOF. The release of reset (R117, R711): a slot preference that AON holds is taken as it stands. -/

namespace Sys2Proof.Machine

/-- A node out of reset whose AON holds a preference for a slot that does not exist: the place of that slot's status register is
`MEM_FLASH_ID`. -/
def strayPreference : State := { State.reset with node := { Node.reset with boot := { BootState.reset with pref := 0x370008 } } }

/-- A flash that is identified by zeros. -/
def blankFlash : FlashFacts := { jedec := 0, sfdp := true, octal := true, size := 0, mhz := 0, busA := none, busB := none }

theorem strayPreference_status : Reg.IMG_SLOT_STAT (0x370008 - 1) = Reg.MEM_FLASH_ID := by decide

/-- Refutes O22: the attempt that is counted for the slot preferred falls into `MEM_FLASH_ID`. -/
theorem not_bootStartsAndSelfTestsDecide : ¬ Obligations.BootStartsAndSelfTestsDecide := by
  intro h
  obtain ⟨t, hexec, -, hid, -⟩ := h.1 strayPreference 0 0 blankFlash rfl rfl (by decide +kernel)
  have hcount : ∀ u, exec (.resetRelease 0 blankFlash 0) strayPreference = .next u → u.node.reg Reg.MEM_FLASH_ID = 4#32 := by
    rintro u hu
    cases hu
    decide +kernel
  exact absurd ((hcount t hexec).symm.trans hid) (by decide)

end Sys2Proof.Machine
end

section
/-! PROOF. Booting: the choice of a slot, its check points, the image that runs and the attempts that are cleared (R117, R118, R120,
R122, R788). -/

namespace Sys2Proof.Machine

/-! ### The choice of a slot (R117) -/

/-- The boot ROM runs from now on. -/
def Node.romStarts (n : Node) : Node := { n with boot := { n.boot with phase := 1, released := n.tm.raw } }

/-- A flash without an octal mode is reported (R730). -/
def Node.octalKnown (n : Node) (octal : Bool) : Node := if octal then n else n.flashError 2 0

/-- The node when the boot ROM starts (R709, R711, R730): the strap sampled, the PLLs locked and the flash identified. -/
def Node.bootReady (n : Node) (otp : Otp) (strap : Nat) (flash : FlashFacts) : Node :=
  ((((((((n.setReg Reg.PCR_STRAP (word (strap % 4))).setBits Reg.PCR_PLL_STAT 0 6 63).setReg Reg.PCR_SUPPLY_STAT 0#32).showOtp
    otp).romStarts.setReg Reg.MEM_FLASH_ID (word (flash.jedec % 2 ^ 24))).setReg Reg.MEM_FLASH_SIZE (word flash.size)).octalKnown
    flash.octal).setFld Reg.MEM_STAT Fld.MEM_STAT_STATE 1).setReg Reg.MEM_FLASH_STAT
      (word (b2n flash.octal + (if flash.octal then flash.mhz else 50) % 256 * 256))

theorem exec_resetRelease_sfdp {s : State} {strap : Nat} {flash : FlashFacts} (time : Nat) (hphase : s.node.boot.phase = 0)
    (hsleep : s.node.boot.sleep = 0) (hkind : s.node.fld Reg.PCR_RESET_CAUSE Fld.PCR_RESET_CAUSE_KIND ≤ 2)
    (hsfdp : flash.sfdp = true) : exec (.resetRelease strap flash time) s =
      .next (s.on fun n => ((n.at time).bootReady s.otp strap flash).bootStart flash) := by
  have hkind' : (s.node.at time).fld Reg.PCR_RESET_CAUSE Fld.PCR_RESET_CAUSE_KIND ≤ 2 := hkind
  refine exec_on_eq rfl ?_
  simp only [Node.at_boot, hphase, hsleep, ne_eq, not_true_eq_false, or_self, if_false, if_pos hkind', hsfdp, if_true, Bool.not_true,
    Bool.or_false, Bool.and_true]
  rfl

theorem Node.flashError_boot (n : Node) (cause addr : Nat) : (n.flashError cause addr).boot = n.boot := Node.raise_boot _ _ _ _

theorem Node.flashError_mem (n : Node) (cause addr : Nat) : (n.flashError cause addr).mem = n.mem := Node.raise_mem _ _ _ _

theorem Node.reg_flashError_ne (n : Node) (cause addr : Nat) {a : Nat} (hdrop : a ≠ Reg.EVT_DROP) (herr : a ≠ Reg.MEM_FLASH_ERR) :
    (n.flashError cause addr).reg a = n.reg a := (Node.reg_raise_ne _ _ _ _ hdrop).trans (Node.reg_inc_ne _ herr)

theorem Node.octalKnown_boot (n : Node) (octal : Bool) : (n.octalKnown octal).boot = n.boot := by
  cases octal
  · exact Node.flashError_boot _ _ _
  · rfl

theorem Node.octalKnown_mem (n : Node) (octal : Bool) : (n.octalKnown octal).mem = n.mem := by
  cases octal
  · exact Node.flashError_mem _ _ _
  · rfl

theorem Node.reg_octalKnown_ne (n : Node) (octal : Bool) {a : Nat} (hdrop : a ≠ Reg.EVT_DROP) (herr : a ≠ Reg.MEM_FLASH_ERR) :
    (n.octalKnown octal).reg a = n.reg a := by
  cases octal
  · exact Node.reg_flashError_ne _ _ _ hdrop herr
  · rfl

theorem Node.reg_romStarts (n : Node) (a : Nat) : n.romStarts.reg a = n.reg a := rfl

section
variable (n : Node) (otp : Otp) (strap : Nat) (flash : FlashFacts)

theorem Node.bootReady_boot : (n.bootReady otp strap flash).boot = { n.boot with phase := 1, released := n.tm.raw } := by
  rw [Node.bootReady, Node.setReg_boot, Node.setFld_boot, Node.octalKnown_boot]
  rfl

theorem Node.bootReady_mem : (n.bootReady otp strap flash).mem = n.mem := by
  rw [Node.bootReady, Node.setReg_mem, Node.setFld_mem, Node.octalKnown_mem]
  rfl

theorem Node.strap_bootReady : (n.bootReady otp strap flash).reg Reg.PCR_STRAP = word (strap % 4) := by
  rw [Node.bootReady, Node.reg_setReg_ne _ _ (by decide), Node.reg_setFld_ne _ _ _ (by decide), Node.reg_octalKnown_ne _ _ (by decide)
    (by decide), Node.reg_setReg_ne _ _ (by decide), Node.reg_setReg_ne _ _ (by decide), Node.reg_romStarts,
    Node.reg_showOtp_ne _ _ (by decide) (by decide), Node.reg_setReg_ne _ _ (by decide), Node.reg_setBits_ne _ _ _ _ (by decide),
    Node.reg_setReg_self]

end

/-- What the boot reads of a node to choose a slot: its flash, its boot state and its strap. -/
structure Node.BootsAs (n m : Node) : Prop where
  mem : m.mem = n.mem
  boot : m.boot = n.boot
  strap : m.reg Reg.PCR_STRAP = n.reg Reg.PCR_STRAP

theorem Node.BootsAs.trans {n m k : Node} (h : n.BootsAs m) (h' : m.BootsAs k) : n.BootsAs k :=
  ⟨h'.mem.trans h.mem, h'.boot.trans h.boot, h'.strap.trans h.strap⟩

theorem Node.BootsAs.slotReader {n m : Node} (h : n.BootsAs m) (slot : Nat) : m.slotReader slot = n.slotReader slot := by
  unfold Node.slotReader
  rw [h.mem]

theorem Node.BootsAs.slotBad {n m : Node} (h : n.BootsAs m) (slot : Nat) : m.slotBad slot = n.slotBad slot := by
  unfold Node.slotBad Node.statusWord
  rw [h.mem]

theorem Node.bootsAs_setReg (n : Node) {a : Nat} (v : Word) (ha : a ≠ Reg.PCR_STRAP) : n.BootsAs (n.setReg a v) :=
  ⟨rfl, rfl, Node.reg_setReg_ne _ _ ha.symm⟩

theorem Node.bootsAs_slotShow (n : Node) (slot : Nat) : n.BootsAs (n.slotShow slot) :=
  (Node.bootsAs_setReg _ _ (by simp only [Reg.IMG_SLOT_VER, Reg.PCR_STRAP]; omega)).trans
    (Node.bootsAs_setReg _ _ (by simp only [Reg.IMG_SLOT_LEN, Reg.PCR_STRAP]; omega))

theorem Node.bootsAs_showAttempts (n : Node) : n.BootsAs n.showAttempts :=
  (Node.bootsAs_setReg _ _ (by decide)).trans (Node.bootsAs_setReg _ _ (by decide))

/-- A sound slot that is not marked bad passes its examination. -/
theorem Node.examine_sound {n : Node} {slot : Nat} (hbad : n.slotBad slot = false) (hhead : headFault (n.slotReader slot) = 0) :
    n.examine slot none = n.slotShow slot := by
  unfold Node.examine
  simp only [(n.bootsAs_slotShow slot).slotBad, hbad, hhead, Option.isSome_none, Bool.false_eq_true, if_false, if_true]

theorem leAt_lt (bs : List Byte) (off : Nat) : leAt bs off 4 < 2 ^ 32 := by
  have hb : ∀ i, (bs.getD i 0#8).toNat < 256 := fun i => (bs.getD i 0#8).isLt
  have h0 := hb (off + 0)
  have h1 := hb (off + 1)
  have h2 := hb (off + 2)
  have h3 := hb (off + 3)
  simp only [leAt, slice, beNat, List.range_succ, List.range_zero, List.nil_append, List.map_cons, List.map_nil,
    List.cons_append, List.reverse_cons, List.reverse_nil, List.foldl_cons, List.foldl_nil]
  omega

/-- The version that a sound slot shows. -/
theorem Node.ver_slotShow {n : Node} {slot : Nat} (hhead : headFault (n.slotReader slot) = 0) :
    ((n.slotShow slot).reg (Reg.IMG_SLOT_VER slot)).toNat = (imgHead (n.slotReader slot)).ver := by
  have hver : (imgHead (n.slotReader slot)).ver < 2 ^ 32 := leAt_lt _ _
  unfold Node.slotShow
  extract_lets rd sound
  rw [Node.reg_setReg_ne _ _ (by simp only [Reg.IMG_SLOT_VER, Reg.IMG_SLOT_LEN]; omega), Node.reg_setReg_self,
    if_pos (by simp [sound, rd, hhead]), word_toNat]
  exact Nat.mod_eq_of_lt hver

theorem Node.reg_slotShow_ne (n : Node) (slot : Nat) {a : Nat} (hver : a ≠ Reg.IMG_SLOT_VER slot) (hlen : a ≠ Reg.IMG_SLOT_LEN slot) :
    (n.slotShow slot).reg a = n.reg a := by
  unfold Node.slotShow
  extract_lets rd sound
  rw [Node.reg_setReg_ne _ _ hlen, Node.reg_setReg_ne _ _ hver]

/-- The slot that is loaded first of two sound ones. -/
def firstSlot (ver0 ver1 : Nat) (strap : Word) : Nat := if ver0 < ver1 then 1 else if ver1 < ver0 then 0 else b2n (strap == 1#32)

theorem firstSlot_lt (ver0 ver1 : Nat) (strap : Word) : firstSlot ver0 ver1 strap < 2 := by
  have := b2n_le_one (strap == 1#32)
  unfold firstSlot
  split
  · decide
  · split <;> omega

theorem firstSlot_strap (ver0 ver1 strap : Nat) : firstSlot ver0 ver1 (word (strap % 4)) =
    if ver0 < ver1 then 1 else if ver1 < ver0 then 0 else if strap % 4 = 1 then 1 else 0 := by
  have hsays : b2n (word (strap % 4) == 1#32) = if strap % 4 = 1 then 1 else 0 := by
    have hlt : strap % 4 < 4 := Nat.mod_lt _ (by decide)
    interval_cases strap % 4 <;> decide
  rw [firstSlot, hsays]

/-- Of two slots that may be chosen the one with the higher version is, and of equal ones the one that the strap says (R117). -/
theorem Node.pickSlot_both {n : Node} (hpref : n.boot.pref = 0) (htried : n.boot.tried = []) (hreasons : n.boot.reasons = [0, 0]) :
    n.pickSlot = some (firstSlot (n.reg (Reg.IMG_SLOT_VER 0)).toNat (n.reg (Reg.IMG_SLOT_VER 1)).toNat (n.reg Reg.PCR_STRAP)) := by
  unfold Node.pickSlot Node.slotCandidate
  rw [hpref, htried, hreasons]
  rfl

theorem Node.chooseSlot_first {n : Node} {s : Nat} (k : Nat) (hpick : n.pickSlot = some s) (hs : s < 2) (hattempts : n.boot.attempts = [0, 0]) :
    (Node.chooseSlot (k + 1) n).boot.phase = 1 ∧ (Node.chooseSlot (k + 1) n).boot.point = 0 ∧ (Node.chooseSlot (k + 1) n).boot.slot = s ∧
      (Node.chooseSlot (k + 1) n).boot.attempts.getD s 0 = 1 ∧ (Node.chooseSlot (k + 1) n).mem = n.mem := by
  have hnone : [0, 0].getD s 0 = 0 := by
    interval_cases s <;> rfl
  have hone : (modifyAt [0, 0] s fun _ => 1).getD s 0 = 1 := by
    interval_cases s <;> rfl
  rw [Node.chooseSlot, hpick]
  dsimp only
  rw [hattempts, hnone, if_neg (by decide)]
  refine ⟨rfl, rfl, rfl, hone, rfl⟩

theorem resetRelease_chooses {s : State} {flash : FlashFacts} {strap : Nat} (time : Nat) (hphase : s.node.boot.phase = 0)
    (hsleep : s.node.boot.sleep = 0) (hkind : s.node.fld Reg.PCR_RESET_CAUSE Fld.PCR_RESET_CAUSE_KIND ≤ 2)
    (hbist : s.node.boot.bistBad = false) (hstrap : strap % 4 ≠ 2) (hsfdp : flash.sfdp = true) (hbusA : flash.busA = none)
    (hbusB : flash.busB = none) (hpref : s.node.boot.pref = 0) (htried : s.node.boot.tried = []) (hreasons : s.node.boot.reasons = [0, 0])
    (hattempts : s.node.boot.attempts = [0, 0]) (hhead0 : headFault (s.node.slotReader 0) = 0)
    (hhead1 : headFault (s.node.slotReader 1) = 0) (hbad0 : s.node.slotBad 0 = false) (hbad1 : s.node.slotBad 1 = false) :
    ∃ t : State, exec (.resetRelease strap flash time) s = .next t ∧ t.node.boot.phase = 1 ∧ t.node.boot.point = 0 ∧
      t.node.boot.slot =
        (if (imgHead (s.node.slotReader 0)).ver < (imgHead (s.node.slotReader 1)).ver then 1
         else if (imgHead (s.node.slotReader 1)).ver < (imgHead (s.node.slotReader 0)).ver then 0
         else if strap % 4 = 1 then 1 else 0) ∧
      t.node.boot.attempts.getD t.node.boot.slot 0 = 1 ∧ t.node.mem.flash = s.node.mem.flash := by
  refine ⟨_, exec_resetRelease_sfdp time hphase hsleep hkind hsfdp, ?_⟩
  rw [State.on_node]
  generalize hb : (s.node.at time).bootReady s.otp strap flash = b
  have hmem : b.mem = s.node.mem := by rw [← hb, Node.bootReady_mem, Node.at_mem]
  have hboot : b.boot = { s.node.boot with phase := 1, released := (s.node.at time).tm.raw } := by rw [← hb, Node.bootReady_boot, Node.at_boot]
  have hreg : b.reg Reg.PCR_STRAP = word (strap % 4) := by rw [← hb, Node.strap_bootReady]
  have hreader : ∀ slot, b.slotReader slot = s.node.slotReader slot := fun slot => by
    unfold Node.slotReader
    rw [hmem]
  have hbad : ∀ slot, b.slotBad slot = s.node.slotBad slot := fun slot => by
    unfold Node.slotBad Node.statusWord
    rw [hmem]
  have hshow := b.bootsAs_showAttempts
  have hshow0 := b.showAttempts.bootsAs_slotShow 0
  have has := (hshow.trans hshow0).trans ((b.showAttempts.slotShow 0).bootsAs_slotShow 1)
  have hword : word (strap % 4) ≠ 2#32 := by
    intro h
    have hnat : (word (strap % 4)).toNat = 2 := by rw [h]; rfl
    rw [word_toNat] at hnat
    omega
  have hexam0 : b.showAttempts.examine 0 none = b.showAttempts.slotShow 0 :=
    Node.examine_sound (by rw [hshow.slotBad, hbad, hbad0]) (by rw [hshow.slotReader, hreader, hhead0])
  have hexam1 : (b.showAttempts.slotShow 0).examine 1 none = (b.showAttempts.slotShow 0).slotShow 1 :=
    Node.examine_sound (by rw [(hshow.trans hshow0).slotBad, hbad, hbad1]) (by rw [(hshow.trans hshow0).slotReader, hreader, hhead1])
  have hstart : b.bootStart flash = Node.chooseSlot 3 ((b.showAttempts.slotShow 0).slotShow 1) := by
    unfold Node.bootStart
    rw [hreg, if_neg hword, hboot, if_neg (by simp [hbist]), if_neg (by simp [hsfdp]), hbusA, hbusB, hexam0, hexam1]
  have hboots := has.boot.trans hboot
  have hver0 : (((b.showAttempts.slotShow 0).slotShow 1).reg (Reg.IMG_SLOT_VER 0)).toNat = (imgHead (s.node.slotReader 0)).ver := by
    rw [Node.reg_slotShow_ne _ _ (by decide) (by decide), Node.ver_slotShow, hshow.slotReader, hreader]
    rw [hshow.slotReader, hreader, hhead0]
  have hver1 : (((b.showAttempts.slotShow 0).slotShow 1).reg (Reg.IMG_SLOT_VER 1)).toNat = (imgHead (s.node.slotReader 1)).ver := by
    rw [Node.ver_slotShow, (hshow.trans hshow0).slotReader, hreader]
    rw [(hshow.trans hshow0).slotReader, hreader, hhead1]
  have hpick := Node.pickSlot_both (n := (b.showAttempts.slotShow 0).slotShow 1) (by rw [hboots, ← hpref]) (by rw [hboots, ← htried])
    (by rw [hboots, ← hreasons])
  obtain ⟨hp, hpoint, hslot, hone, hflash⟩ := Node.chooseSlot_first 2 hpick (firstSlot_lt _ _ _) (by rw [hboots, ← hattempts])
  rw [hstart, hslot]
  refine ⟨hp, hpoint, ?_, hone, by rw [hflash, has.mem, hmem]⟩
  rw [hver0, hver1, has.strap, hreg]
  exact (firstSlot_strap _ _ _)

/-! ### The attempts cleared (R120) -/

theorem bootAttemptClear_zero {s : State} {time : Nat} (hphase : s.node.boot.phase = 3)
    (hlong : s.node.boot.released + 60000000000 ≤ time) (hlen : s.node.boot.attempts.length = 2) :
    ∃ t : State, exec (.bootAttemptClear time) s = .next t ∧ t.node.boot.attempts = [0, 0] ∧
      (∀ k, k < 2 → t.node.fld (Reg.IMG_SLOT_STAT k) Fld.IMG_SLOT_STAT_ATTEMPTS = 0) ∧
      t.node = { s.node.at time with regs := t.node.regs, boot := { s.node.boot with attempts := [0, 0] } } := by
  have hpast : s.node.boot.released + 60000000000 ≤ (s.node.at time).tm.raw := hlong.trans (Nat.le_max_right _ _)
  have hexec : exec (.bootAttemptClear time) s = .next (s.on fun n => ((n.at time).setAttempts 0 0).setAttempts 1 0) :=
    exec_on_eq rfl (if_pos ⟨hphase, hpast⟩)
  obtain ⟨a, b, hab⟩ := List.length_eq_two.mp hlen
  have hzero : modifyAt (modifyAt s.node.boot.attempts 0 fun _ => 0) 1 (fun _ => 0) = [0, 0] := by
    rw [hab]
    rfl
  refine ⟨_, hexec, hzero, fun k hk => ?_, ?_⟩
  · rw [State.on_node]
    interval_cases k
    · have hother : ∀ n : Node, (n.setAttempts 1 0).fld (Reg.IMG_SLOT_STAT 0) Fld.IMG_SLOT_STAT_ATTEMPTS =
          n.fld (Reg.IMG_SLOT_STAT 0) Fld.IMG_SLOT_STAT_ATTEMPTS := fun n => by
        rw [Node.setAttempts, Node.fld, Node.reg_setFld_ne _ _ _ (by decide)]
        rfl
      rw [hother, Node.setAttempts, Node.fld_setFld_self _ _ _ _ (by decide), Nat.zero_mod]
    · rw [Node.setAttempts, Node.fld_setFld_self _ _ _ _ (by decide), Nat.zero_mod]
  · rw [State.on_node, ← hzero]
    rfl

/-! ### The check points (R118, R788) -/

theorem Node.chkPass_eq_withChk (n : Node) (feed stream seq : Nat) (data : List Byte) :
    ∃ chk, n.chkPass feed stream seq data = { n with chk := chk } := by
  unfold Node.chkPass
  generalize n.snoopers feed = l
  suffices h : ∀ m : Node, (∃ chk, m = { n with chk := chk }) → ∃ chk, List.foldl _ m l = { n with chk := chk } from h n ⟨n.chk, rfl⟩
  induction l with
  | nil => exact fun m hm => hm
  | cons c l ih =>
    rintro m ⟨chk, rfl⟩
    refine ih _ ?_
    dsimp only
    split
    · exact ⟨_, rfl⟩
    · split
      · exact ⟨_, rfl⟩
      · exact ⟨_, rfl⟩

/-- What the check of a section leaves of a node: its flash, its boot and the events that wait, with one more at most. -/
structure Node.Checked (n m : Node) : Prop where
  mem : m.mem = n.mem
  boot : m.boot = n.boot
  queue : m.ev.queue.length ≤ n.ev.queue.length + 1

theorem Node.length_raise (n : Node) (code d0 d1 : Nat) : (n.raise code d0 d1).ev.queue.length ≤ n.ev.queue.length + 1 := by
  rcases n.raise_cases code d0 d1 with ⟨-, h⟩ | ⟨-, h⟩ <;> rw [h]
  · simp
  · exact Nat.le_succ _

theorem Node.occurIn_queue (n : Node) (code key out : Nat) : (n.occurIn code key out).1.ev.queue = n.ev.queue := by
  obtain ⟨limits, h⟩ := n.occurIn_eq_withEvents code key out
  rw [h]
  rfl

theorem Node.occurIn_rest (n : Node) (code key out : Nat) :
    (n.occurIn code key out).1.mem = n.mem ∧ (n.occurIn code key out).1.boot = n.boot := by
  obtain ⟨limits, h⟩ := n.occurIn_eq_withEvents code key out
  rw [h]
  exact ⟨rfl, rfl⟩

theorem Node.checked_checkMismatch (n : Node) (source stream port ctx : Nat) : n.Checked (n.checkMismatch source stream port ctx) := by
  unfold Node.checkMismatch
  extract_lets m0 m
  have hm : m.mem = n.mem ∧ m.boot = n.boot ∧ m.ev = n.ev := by
    simp only [m, m0]
    split <;> exact ⟨rfl, rfl, rfl⟩
  obtain ⟨hmem, hboot, hev⟩ := hm
  have hqueue := m.occurIn_queue 0x6901 (if source = 5 then port else 16 + ctx) 1000000
  obtain ⟨hmem', hboot'⟩ := m.occurIn_rest 0x6901 (if source = 5 then port else 16 + ctx) 1000000
  split
  · next k c h =>
    rw [h] at hqueue hmem' hboot'
    refine ⟨by rw [Node.raise_mem, hmem', hmem], by rw [Node.raise_boot, hboot', hboot], (k.length_raise _ _ _).trans ?_⟩
    rw [hqueue, hev]
  · next k h =>
    rw [h] at hqueue hmem' hboot'
    exact ⟨hmem'.trans hmem, hboot'.trans hboot, by rw [hqueue, hev]; exact Nat.le_succ _⟩

theorem Node.checked_chkImage (n : Node) (body : List Byte) (crc : Nat) : n.Checked (n.chkImage body crc) := by
  unfold Node.chkImage
  extract_lets run m
  obtain ⟨chk, hm⟩ : ∃ chk, m = { n.chkOwn 31 0x3020 run (some crc) with chk := chk } := Node.chkPass_eq_withChk _ _ _ _ _
  have hown : m.mem = n.mem ∧ m.boot = n.boot ∧ m.ev = n.ev := by
    rw [hm]
    exact ⟨rfl, rfl, rfl⟩
  obtain ⟨hmem, hboot, hev⟩ := hown
  split
  · exact ⟨hmem, hboot, by rw [hev]; exact Nat.le_succ _⟩
  · obtain ⟨hmem', hboot', hqueue⟩ := m.checked_checkMismatch 1 0 0 31
    exact ⟨hmem'.trans hmem, hboot'.trans hboot, by rw [← hev]; exact hqueue⟩

/-- A check point at a section of the load: the section is read, and then judged. -/
theorem exec_imageCheckPoint_section {s : State} (facts : ImageFacts) (time : Nat) {x : ImgSection} (hphase : s.node.boot.phase = 1)
    (hbist : s.node.boot.bist = 0) (hsc0 : s.node.boot.engDown.contains 0 = false)
    (hdram : s.node.fld Reg.MEM_STAT Fld.MEM_STAT_STATE = 2)
    (hx : (imgDir (s.node.slotReader s.node.boot.slot) (imgHead (s.node.slotReader s.node.boot.slot)).count)[s.node.boot.point]? = some x) :
    exec (.imageCheckPoint facts [] none time) s = .next (s.on fun n =>
      ((n.at time).chkImage (sectionBytes (n.slotReader n.boot.slot) x) x.crc).pointDone s.otp facts false
        ((imgDir (n.slotReader n.boot.slot) (imgHead (n.slotReader n.boot.slot)).count).length + 2)) := by
  have hgo : ¬ ((s.node.at time).boot.phase ≠ 1 ∨ (s.node.at time).boot.engDown.contains 0 = true ∨ (s.node.at time).boot.bist ≠ 0 ∨
      (s.node.at time).fld Reg.MEM_STAT Fld.MEM_STAT_STATE ≠ 2) := by
    have hdram' : (s.node.at time).fld Reg.MEM_STAT Fld.MEM_STAT_STATE = 2 := hdram
    rw [Node.at_boot, hphase, hbist, hsc0, hdram']
    decide
  have hx' : (imgDir ((s.node.at time).slotReader (s.node.at time).boot.slot)
      (imgHead ((s.node.at time).slotReader (s.node.at time).boot.slot)).count)[(s.node.at time).boot.point]? = some x := hx
  refine exec_on_eq rfl ((if_neg hgo).trans ?_)
  simp only [List.foldl_nil, hx', List.filter_nil, List.length_nil, Option.isSome_none, Bool.or_false]
  rfl

/-- The node whose load has passed a check point. -/
def Node.pointPassed (n : Node) : Node := { n with boot := { n.boot with point := n.boot.point + 1 } }

theorem Node.pointDone_section {n : Node} {o : Otp} {facts : ImageFacts} {x : ImgSection} {last : Nat} (hlast : n.boot.point < last)
    (hx : (imgDir (n.slotReader n.boot.slot) (imgHead (n.slotReader n.boot.slot)).count)[n.boot.point]? = some x) :
    n.pointDone o facts false last = if crcOk (n.slotReader n.boot.slot) x then n.pointPassed else n.slotFails 6 := by
  have hfault : n.pointFault o facts false = if crcOk (n.slotReader n.boot.slot) x then 0 else 6 := by
    unfold Node.pointFault
    simp only [hx, Bool.false_or]
    cases crcOk (n.slotReader n.boot.slot) x <;> rfl
  unfold Node.pointDone
  rw [hfault]
  cases crcOk (n.slotReader n.boot.slot) x
  · rfl
  · exact if_pos hlast

theorem exec_imageCheckPoint_judged {s : State} (facts : ImageFacts) (time : Nat) {x : ImgSection} (hphase : s.node.boot.phase = 1)
    (hbist : s.node.boot.bist = 0) (hsc0 : s.node.boot.engDown.contains 0 = false)
    (hdram : s.node.fld Reg.MEM_STAT Fld.MEM_STAT_STATE = 2)
    (hx : (imgDir (s.node.slotReader s.node.boot.slot) (imgHead (s.node.slotReader s.node.boot.slot)).count)[s.node.boot.point]? = some x) :
    exec (.imageCheckPoint facts [] none time) s = .next (s.on fun n =>
      if crcOk (n.slotReader n.boot.slot) x then ((n.at time).chkImage (sectionBytes (n.slotReader n.boot.slot) x) x.crc).pointPassed
      else ((n.at time).chkImage (sectionBytes (n.slotReader n.boot.slot) x) x.crc).slotFails 6) := by
  refine exec_on_eq (exec_imageCheckPoint_section facts time hphase hbist hsc0 hdram hx) ?_
  generalize hk : (s.node.at time).chkImage (sectionBytes (s.node.slotReader s.node.boot.slot) x) x.crc = k
  obtain ⟨hmem, hboot, -⟩ : (s.node.at time).Checked k := hk ▸ Node.checked_chkImage _ _ _
  rw [Node.at_mem] at hmem
  rw [Node.at_boot] at hboot
  have hreader : k.slotReader k.boot.slot = s.node.slotReader s.node.boot.slot := by
    unfold Node.slotReader
    rw [hmem, hboot]
  have hlt := (List.getElem?_eq_some_iff.mp hx).1
  rw [Node.pointDone_section (x := x), hreader]
  · rw [hboot]
    omega
  · rw [hreader, hboot, hx]

/-! ### A slot that fails (R116, R118) -/

/-- What the choice of another slot leaves of a slot that has failed: its status register, its mark, that it has been tried, and the
events that wait. -/
structure Node.Spares (slot : Nat) (n m : Node) : Prop where
  stat : m.reg (Reg.IMG_SLOT_STAT slot) = n.reg (Reg.IMG_SLOT_STAT slot)
  mark : m.statusWord slot 0 = n.statusWord slot 0
  tried : ∀ k ∈ n.boot.tried, k ∈ m.boot.tried
  queue : ∀ e ∈ n.ev.queue, e ∈ m.ev.queue

namespace Node.Spares

variable {slot : Nat} {n m k : Node}

theorem refl (slot : Nat) (n : Node) : Node.Spares slot n n := ⟨rfl, rfl, fun _ => id, fun _ => id⟩

theorem trans (h : Node.Spares slot n m) (h' : Node.Spares slot m k) : Node.Spares slot n k :=
  ⟨h'.stat.trans h.stat, h'.mark.trans h.mark, fun x hx => h'.tried x (h.tried x hx), fun e he => h'.queue e (h.queue e he)⟩

theorem slotBad (h : Node.Spares slot n m) : m.slotBad slot = n.slotBad slot := by
  unfold Node.slotBad
  rw [h.mark]

/-- A register of another place. -/
theorem setReg (n : Node) {a : Nat} (v : Word) (ha : a ≠ Reg.IMG_SLOT_STAT slot) : Node.Spares slot n (n.setReg a v) :=
  ⟨Node.reg_setReg_ne _ _ ha.symm, rfl, fun _ => id, fun _ => id⟩

theorem raise (n : Node) (code d0 d1 : Nat) (hslot : slot < 2) : Node.Spares slot n (n.raise code d0 d1) := by
  refine ⟨Node.reg_raise_ne _ _ _ _ (by simp only [Reg.IMG_SLOT_STAT, Reg.EVT_DROP]; omega), ?_, fun k hk => by rwa [Node.raise_boot], ?_⟩
  · unfold Node.statusWord
    rw [Node.raise_mem]
  · intro e he
    rcases n.raise_cases code d0 d1 with ⟨-, h⟩ | ⟨-, h⟩ <;> rw [h]
    · exact List.mem_append_left _ he
    · exact he

end Node.Spares

theorem Node.spares_withBoot {slot : Nat} (n : Node) (boot : BootState) (h : ∀ k ∈ n.boot.tried, k ∈ boot.tried) :
    Node.Spares slot n { n with boot := boot } := ⟨rfl, rfl, h, fun _ => id⟩

theorem Node.spares_withHost {slot : Nat} (n : Node) (host : HostState) : Node.Spares slot n { n with host := host } :=
  ⟨rfl, rfl, fun _ => id, fun _ => id⟩

theorem Node.statusWord_flashProgram (n : Node) {slot a : Nat} (bs : List Byte)
    (h : a + bs.length ≤ slot * slotSize + slotImage ∨ slot * slotSize + slotImage + 4 ≤ a) :
    (n.flashProgram a bs).statusWord slot 0 = n.statusWord slot 0 := by
  have hbyte : ∀ i, i < 4 → Sparse.get (fun _ => 0xFF#8) (n.flashProgram a bs).mem.flash (slot * slotSize + slotImage + 4 * 0 + i) =
      Sparse.get (fun _ => 0xFF#8) n.mem.flash (slot * slotSize + slotImage + 4 * 0 + i) := fun i hi =>
    Sparse.get_putAll_out _ _ _ _ (by rw [List.length_mapIdx]; omega)
  unfold Node.statusWord Sparse.range
  rw [List.map_congr_left fun i hi => hbyte i (List.mem_range.mp hi)]

/-- Marking a slot leaves the mark of the other. -/
theorem Node.statusWord_markBad_ne (n : Node) {slot s : Nat} (reason : Nat) (hne : s ≠ slot) :
    (n.markBad s reason).statusWord slot 0 = n.statusWord slot 0 := by
  change ((n.flashProgram (s * slotSize + slotImage + 4) (encLE 4 reason)).flashProgram (s * slotSize + slotImage)
    (encLE 4 0)).statusWord slot 0 = _
  have happart : s * slotSize + slotImage + 8 ≤ slot * slotSize + slotImage ∨ slot * slotSize + slotImage + 4 ≤ s * slotSize + slotImage := by
    unfold slotSize slotImage
    omega
  rw [Node.statusWord_flashProgram _ _ (by rw [length_encLE]; omega), Node.statusWord_flashProgram _ _ (by rw [length_encLE]; omega)]

theorem Sparse.get_putAll {β : Type} {d : Nat → β} [DecidableEq β] (vs : List β) (m : List (Nat × β)) (a i : Nat) (h : i < vs.length) :
    Sparse.get d (Sparse.putAll d m a vs) (a + i) = vs[i] := by
  induction vs generalizing m a i with
  | nil => exact absurd h (by simp)
  | cons v vs ih =>
    rw [Sparse.putAll]
    cases i with
    | zero => rw [Sparse.get_putAll_out _ _ _ _ (by omega), Nat.add_zero, Sparse.get_put_self]; rfl
    | succ i => rw [show a + (i + 1) = a + 1 + i by omega, ih _ _ _ (by simpa using h)]; rfl

/-- A slot that is marked is bad. -/
theorem Node.slotBad_markBad (n : Node) (slot reason : Nat) : (n.markBad slot reason).slotBad slot = true := by
  have hbyte : ∀ i, i < 4 → Sparse.get (fun _ => 0xFF#8) (n.markBad slot reason).mem.flash (slot * slotSize + slotImage + 4 * 0 + i) = 0#8 := by
    intro i hi
    change Sparse.get (fun _ => 0xFF#8) (Sparse.putAll (fun _ => 0xFF#8) _ _ _) _ = 0#8
    rw [show slot * slotSize + slotImage + 4 * 0 + i = slot * slotSize + slotImage + i by omega, Sparse.get_putAll _ _ _ _ (by rw [List.length_mapIdx, length_encLE]; exact hi), List.getElem_mapIdx]
    interval_cases i <;> exact BitVec.zero_and
  have hzero : (n.markBad slot reason).statusWord slot 0 = 0 := by
    unfold Node.statusWord Sparse.range
    rw [List.map_congr_left fun i hi => hbyte i (List.mem_range.mp hi)]
    rfl
  rw [Node.slotBad, hzero]
  rfl

theorem Node.spares_markBad (n : Node) {slot s : Nat} (reason : Nat) (hne : s ≠ slot) :
    Node.Spares slot n (n.markBad s reason) := by
  refine ⟨?_, n.statusWord_markBad_ne reason hne, fun _ => id, fun _ => id⟩
  have hother : Reg.IMG_SLOT_STAT slot ≠ Reg.IMG_SLOT_STAT s := by simp only [Reg.IMG_SLOT_STAT]; omega
  unfold Node.markBad
  rw [Node.reg_setFld_ne _ _ _ hother, Node.reg_setFld_ne _ _ _ hother]
  rfl

theorem Node.spares_slotReason (n : Node) {slot s : Nat} (reason : Nat) (hne : s ≠ slot) : Node.Spares slot n (n.slotReason s reason) :=
  ⟨Node.reg_setFld_ne _ _ _ (by simp only [Reg.IMG_SLOT_STAT]; omega), rfl, fun _ => id, fun _ => id⟩

theorem Node.spares_setAttempts (n : Node) {slot s : Nat} (k : Nat) (hne : s ≠ slot) : Node.Spares slot n (n.setAttempts s k) :=
  ⟨Node.reg_setFld_ne _ _ _ (by simp only [Reg.IMG_SLOT_STAT]; omega), rfl, fun _ => id, fun _ => id⟩

theorem Node.spares_syncJrn {slot : Nat} (n : Node) (c : Nat) : Node.Spares slot n (n.syncJrn c) := by
  have hold : ∀ v, Node.Spares slot n (n.setReg (Reg.JRN_CTX_OLDEST c) v) := fun v =>
    Node.Spares.setReg n v (by simp only [Reg.JRN_CTX_OLDEST, Reg.IMG_SLOT_STAT]; omega)
  unfold Node.syncJrn
  dsimp only
  split
  · exact (hold _).trans (Node.Spares.setReg _ _ (by simp only [Reg.JRN_CTX_NEWEST, Reg.IMG_SLOT_STAT]; omega))
  · exact (hold _).trans (Node.Spares.setReg _ _ (by simp only [Reg.JRN_CTX_NEWEST, Reg.IMG_SLOT_STAT]; omega))

theorem Node.spares_waitContext {slot : Nat} (n : Node) (c base : Nat) (hc : c < 8) (hslot : slot < 2) :
    Node.Spares slot n (n.waitContext c base) := by
  unfold Node.waitContext
  extract_lets up m1 m2
  have h1 : Node.Spares slot n m1 := (Node.Spares.setReg n _ (by simp only [Reg.HST_CTX_CFG, Reg.IMG_SLOT_STAT]; omega)).trans
    (Node.Spares.setReg _ _ (by simp only [Reg.HST_CTX_STAT, Reg.IMG_SLOT_STAT]; omega))
  have h2 : Node.Spares slot m1 m2 := Node.Spares.setReg _ _ (by simp only [Reg.WLD_INST, Reg.IMG_SLOT_STAT]; omega)
  have h3 : Node.Spares slot m2 ((m2.setReg (Reg.JRN_CTX_BASE c) (word base)).setReg (Reg.JRN_CTX_SIZE c) (word 256)) :=
    (Node.Spares.setReg _ _ (by simp only [Reg.JRN_CTX_BASE, Reg.IMG_SLOT_STAT]; omega)).trans
      (Node.Spares.setReg _ _ (by simp only [Reg.JRN_CTX_SIZE, Reg.IMG_SLOT_STAT]; omega))
  refine (h1.trans (h2.trans h3)).trans ?_
  unfold Node.waitShare
  dsimp only
  exact (Node.spares_withHost _ _).trans (Node.spares_syncJrn _ _)

theorem Node.spares_fixedSecure {slot : Nat} (n : Node) (hslot : slot < 2) :
    Node.Spares slot n (fixedSecure.foldl (fun m i => m.setBit (Reg.WLD_INST (i / 32)) (i % 32) true) n) := by
  have hall : ∀ i ∈ fixedSecure, i < 128 := by decide
  generalize fixedSecure = l at hall
  induction l generalizing n with
  | nil => exact Node.Spares.refl slot n
  | cons i l ih =>
    have hi := hall i List.mem_cons_self
    exact (Node.Spares.setReg n _ (by simp only [Reg.WLD_INST, Reg.IMG_SLOT_STAT]; omega)).trans
      (ih _ fun j hj => hall j (List.mem_cons_of_mem _ hj))

theorem Node.spares_enterWaiting {slot : Nat} (n : Node) (hslot : slot < 2) : Node.Spares slot n n.enterWaiting := by
  unfold Node.enterWaiting
  extract_lets m1 boot m2 m3 m4
  have h1 : Node.Spares slot n m1 := Node.Spares.setReg _ _ (by simp only [Reg.IMG_STATE, Reg.IMG_SLOT_STAT]; omega)
  have h2 : Node.Spares slot m1 m2 := Node.spares_withBoot m1 _ fun _ => id
  have h3 : Node.Spares slot m2 m3 := Node.spares_fixedSecure m2 hslot
  have h4 : Node.Spares slot m3 m4 := ((Node.spares_waitContext _ _ _ (by decide) hslot).trans
    (Node.spares_waitContext _ _ _ (by decide) hslot)).trans (Node.Spares.setReg _ _ (by simp only [Reg.JRN_CFG, Reg.IMG_SLOT_STAT]; omega))
  exact ((h1.trans h2).trans (h3.trans h4)).trans (Node.Spares.raise _ _ _ _ hslot)

theorem Node.spares_noImage {slot : Nat} (n : Node) (hslot : slot < 2) : Node.Spares slot n n.noImage :=
  (Node.Spares.raise n _ _ _ hslot).trans (Node.spares_enterWaiting _ hslot)

/-- Once a slot has been tried, a slot that may be chosen is the other one. -/
theorem Node.pickSlot_other {n : Node} {slot s : Nat} (htried : slot ∈ n.boot.tried) (hpick : n.pickSlot = some s) : s < 2 ∧ s ≠ slot := by
  have hsome : n.boot.tried.isEmpty = false := by
    cases h : n.boot.tried with
    | nil => rw [h] at htried; exact absurd htried List.not_mem_nil
    | cons => rfl
  have hnot : ∀ k, n.slotCandidate k = true → k ≠ slot := by
    rintro k hk rfl
    simp only [Node.slotCandidate, Bool.and_eq_true, Bool.not_eq_true', List.contains_eq_mem, decide_eq_false_iff_not] at hk
    exact hk.2 htried
  unfold Node.pickSlot at hpick
  simp only [hsome, Bool.false_and, Bool.false_eq_true, if_false] at hpick
  split at hpick
  · next hboth =>
    obtain ⟨h0, h1⟩ := (Bool.and_eq_true _ _).mp hboth
    have hlt := firstSlot_lt (n.reg (Reg.IMG_SLOT_VER 0)).toNat (n.reg (Reg.IMG_SLOT_VER 1)).toNat (n.reg Reg.PCR_STRAP)
    have heq := Option.some.inj hpick
    change firstSlot _ _ _ = s at heq
    rw [heq] at hlt
    interval_cases s
    · exact ⟨by decide, hnot 0 h0⟩
    · exact ⟨by decide, hnot 1 h1⟩
  · split at hpick
    · next h0 =>
      cases hpick
      exact ⟨by decide, hnot 0 h0⟩
    · split at hpick
      · next h1 =>
        cases hpick
        exact ⟨by decide, hnot 1 h1⟩
      · exact absurd hpick (by simp)

theorem Node.spares_chooseSlot {slot : Nat} (k : Nat) (n : Node) (hslot : slot < 2) (htried : slot ∈ n.boot.tried) :
    Node.Spares slot n (Node.chooseSlot k n) := by
  induction k generalizing n with
  | zero => exact Node.spares_noImage n hslot
  | succ k ih =>
    rw [Node.chooseSlot]
    split
    · exact Node.spares_noImage n hslot
    · next s hpick =>
      obtain ⟨hs, hne⟩ := Node.pickSlot_other htried hpick
      extract_lets byPref boot m tries m1
      have hm : Node.Spares slot n m := Node.spares_withBoot n _ fun x hx => List.mem_append_left _ hx
      split
      · have h1 := hm.trans ((Node.spares_markBad m 0x20 hne).trans (Node.spares_slotReason _ 0x20 hne))
        exact h1.trans (ih _ (h1.tried slot htried))
      · exact hm.trans ((Node.spares_setAttempts m _ hne).trans (Node.spares_withBoot _ _ fun _ => id))

theorem Node.slotBad_slotReason (n : Node) (slot reason k : Nat) : (n.slotReason slot reason).slotBad k = n.slotBad k := rfl

/-- The node that marks the slot being loaded, before another is chosen. -/
def Node.slotMarked (n : Node) (reason : Nat) : Node :=
  ((n.raise 0x1201 n.boot.slot reason).markBad n.boot.slot reason).slotReason n.boot.slot reason

theorem Node.slotMarked_bad (n : Node) (reason : Nat) :
    (n.slotMarked reason).fld (Reg.IMG_SLOT_STAT n.boot.slot) Fld.IMG_SLOT_STAT_BAD = 1 := by
  rw [Node.slotMarked, Node.slotReason, Node.fld_setFld_ne _ _ _ _ _ (by decide) (by decide)]
  change (Node.markBad _ _ _).fld _ _ = 1
  rw [Node.markBad, Node.fld_setFld_ne _ _ _ _ _ (by decide) (by decide), Node.fld_setFld_self _ _ _ _ (by decide)]
  rfl

theorem Node.slotMarked_reason (n : Node) (reason : Nat) :
    (n.slotMarked reason).fld (Reg.IMG_SLOT_STAT n.boot.slot) Fld.IMG_SLOT_STAT_REASON = reason % 256 := by
  rw [Node.slotMarked, Node.slotReason, Node.fld_setFld_self _ _ _ _ (by decide)]
  rfl

theorem Node.slotMarked_slotBad (n : Node) (reason : Nat) : (n.slotMarked reason).slotBad n.boot.slot = true := by
  rw [Node.slotMarked, Node.slotBad_slotReason, Node.slotBad_markBad]

theorem Node.slotMarked_tried (n : Node) (reason : Nat) : (n.slotMarked reason).boot.tried = n.boot.tried := by
  change (n.raise 0x1201 n.boot.slot reason).boot.tried = _
  rw [Node.raise_boot]

theorem Node.slotMarked_queue (n : Node) (reason : Nat) (hroom : n.ev.queue.length < 256) :
    (n.slotMarked reason).ev.queue = n.ev.queue ++ [n.eventNow 0x1201 n.boot.slot reason] := by
  change (n.raise 0x1201 n.boot.slot reason).ev.queue = _
  rw [Node.raise_of_room _ _ _ _ hroom]

/-- A slot that fails is marked with its reason and reported, whatever is chosen then (R118). -/
theorem Node.slotFails_marked {n : Node} {slot : Nat} (hslot : n.boot.slot = slot) (hlt : slot < 2) (htried : slot ∈ n.boot.tried)
    (hroom : n.ev.queue.length < 256) :
    (n.slotFails 6).fld (Reg.IMG_SLOT_STAT slot) Fld.IMG_SLOT_STAT_BAD = 1 ∧
    (n.slotFails 6).fld (Reg.IMG_SLOT_STAT slot) Fld.IMG_SLOT_STAT_REASON = 6 ∧ (n.slotFails 6).slotBad slot = true ∧
    ∃ e ∈ (n.slotFails 6).ev.queue, e.code = 0x1201 ∧ e.d0 = word slot ∧ e.d1 = 6#32 := by
  subst hslot
  obtain ⟨failed, hfails⟩ : ∃ failed, n.slotFails 6 =
      Node.chooseSlot 2 { n.slotMarked 6 with boot := { (n.slotMarked 6).boot with failed := failed } } := ⟨_, rfl⟩
  have hboot : Node.Spares n.boot.slot (n.slotMarked 6) { n.slotMarked 6 with boot := { (n.slotMarked 6).boot with failed := failed } } :=
    Node.spares_withBoot _ _ fun _ => id
  have hspares : Node.Spares n.boot.slot (n.slotMarked 6) (n.slotFails 6) := by
    rw [hfails]
    exact hboot.trans (Node.spares_chooseSlot 2 _ hlt (hboot.tried _ (by rwa [Node.slotMarked_tried])))
  refine ⟨?_, ?_, ?_, n.eventNow 0x1201 n.boot.slot 6, hspares.queue _ ?_, rfl, rfl, rfl⟩
  · rw [Node.fld, hspares.stat, ← Node.fld, Node.slotMarked_bad]
  · rw [Node.fld, hspares.stat, ← Node.fld, Node.slotMarked_reason]
  · rw [hspares.slotBad, Node.slotMarked_slotBad]
  · rw [Node.slotMarked_queue _ _ hroom]
    exact List.mem_append_right _ List.mem_cons_self

theorem imageCheckPoint_fails {s : State} (facts : ImageFacts) (time : Nat) {x : ImgSection} (hphase : s.node.boot.phase = 1)
    (hbist : s.node.boot.bist = 0) (hsc0 : s.node.boot.engDown.contains 0 = false)
    (hdram : s.node.fld Reg.MEM_STAT Fld.MEM_STAT_STATE = 2) (hslot : s.node.boot.slot < 2)
    (htried : s.node.boot.tried.contains s.node.boot.slot = true)
    (hx : (imgDir (s.node.slotReader s.node.boot.slot) (imgHead (s.node.slotReader s.node.boot.slot)).count)[s.node.boot.point]? = some x)
    (hcrc : crcOk (s.node.slotReader s.node.boot.slot) x = false) (hroom : s.node.ev.queue.length < 200) :
    ∃ t : State, exec (.imageCheckPoint facts [] none time) s = .next t ∧
        t.node.fld (Reg.IMG_SLOT_STAT s.node.boot.slot) Fld.IMG_SLOT_STAT_BAD = 1 ∧
        t.node.fld (Reg.IMG_SLOT_STAT s.node.boot.slot) Fld.IMG_SLOT_STAT_REASON = 6 ∧
        t.node.slotBad s.node.boot.slot = true ∧
        (∃ e ∈ t.node.ev.queue, e.code = 0x1201 ∧ e.d0 = word s.node.boot.slot ∧ e.d1 = 6#32) := by
  refine ⟨_, exec_imageCheckPoint_judged facts time hphase hbist hsc0 hdram hx, ?_⟩
  rw [State.on_node, hcrc, if_neg Bool.false_ne_true]
  obtain ⟨-, hboot, hqueue⟩ := (s.node.at time).checked_chkImage (sectionBytes (s.node.slotReader s.node.boot.slot) x) x.crc
  rw [Node.at_boot] at hboot
  rw [Node.at_ev] at hqueue
  exact Node.slotFails_marked (by rw [hboot]) hslot (by rw [hboot]; simpa using htried) (by omega)

end Sys2Proof.Machine
end

section
/-! PROOF. The cycle commands (R247, R248). -/

namespace Sys2Proof.Machine

/-- The mode request that a switch asked for at a node makes (R235). -/
def Node.switchAsked (n : Node) (target earliest tint : Nat) : ModeReq := ⟨target, earliest, tint, n.num, n.cyc.nextTag⟩

theorem Node.askSwitch_away {n : Node} (target earliest tint : Nat) (h : n.master = false) :
    n.askSwitch target earliest tint = .wait { n with cyc := { n.cyc with
      nextTag := (n.cyc.nextTag + 1) % 65536, toSend := n.cyc.toSend ++ [n.switchAsked target earliest tint] } } 2 n.cyc.nextTag [] :=
  if_neg (fun hmaster => Bool.noConfusion (h.symm.trans hmaster))

theorem Node.askSwitch_accepted {n : Node} {target earliest tint : Nat} (h : n.master = true)
    (hresult : n.modeResult (n.switchAsked target earliest tint) = none) :
    n.askSwitch target earliest tint = .wait { n with cyc := { n.cyc with
      nextTag := (n.cyc.nextTag + 1) % 65536, request := some (n.switchAsked target earliest tint) } } 2 n.cyc.nextTag [] := by
  refine (if_pos h).trans ?_
  change (match n.modeResult (n.switchAsked target earliest tint) with | some result => _ | none => _) = _
  rw [hresult]
  rfl

/-- A master with no switch in hand accepts a request for a mode that it holds, at any cycle (R236). -/
theorem Node.modeResult_free {n : Node} {q : ModeReq} (hrequest : n.cyc.request = none) (hswitch : n.cyc.switch = none)
    (hholds : n.holds q.target = true) (hany : q.earliest = 0) : n.modeResult q = none := by
  simp [Node.modeResult, hrequest, hswitch, hholds, hany]

section
variable {s : State} {c : Cmd}

theorem exec_cycModeInfo_held (h : s.node.takes c 0x0304 .either 1 = true) (hmode : arg c 0 ≤ 7) (hholds : s.node.holds (arg c 0) = true) :
    exec (.cycModeInfo c) s =
      .next (s.on fun n => (n.at c.time).completes c sOk (n.getRegs (Reg.CYC_MD_STAT (arg c 0)) 6)) := by
  have hholds' : (s.node.at c.time).holds (arg c 0) = true := hholds
  refine exec_settles rfl rfl h ?_
  rw [if_neg (by rw [hholds']; simp; omega)]
  rfl

theorem exec_cycModeInfo_absent (h : s.node.takes c 0x0304 .either 1 = true) (hholds : s.node.holds (arg c 0) = false) :
    exec (.cycModeInfo c) s = .next (s.on fun n => (n.at c.time).completes c sArgs []) := by
  have hholds' : (s.node.at c.time).holds (arg c 0) = false := hholds
  refine exec_settles rfl rfl h ?_
  rw [if_pos (.inr (by rw [hholds']; rfl))]
  rfl

theorem exec_cycModeSwitch_notRun (h : s.node.takes c 0x0302 .either 2 = true) (hmode : arg c 0 ≤ 7) (hst : s.node.st ≠ stRun) :
    exec (.cycModeSwitch c) s = .next (s.on fun n => (n.at c.time).completes c sState []) := by
  have hst' : (s.node.at c.time).st ≠ stRun := hst
  refine exec_settles rfl rfl h ?_
  rw [if_neg (by omega), if_pos hst']
  rfl

/-- In RUN the command asks for the switch. -/
theorem exec_cycModeSwitch_asks {g : Node → Node} (h : s.node.takes c 0x0302 .either 2 = true) (hmode : arg c 0 ≤ 7)
    (hst : s.node.st = stRun) (hg : Node.settle c ((s.node.at c.time).askSwitch (arg c 0) (arg c 1) 0) = g s.node) :
    exec (.cycModeSwitch c) s = .next (s.on g) := by
  have hst' : (s.node.at c.time).st = stRun := hst
  refine exec_settles rfl rfl h ?_
  rw [if_neg (by omega), if_neg (not_not_intro hst')]
  exact hg

theorem exec_cycModeAbort_pending {w : Switch} (h : s.node.takes c 0x0303 .either 1 = true) (hswitch : s.node.cyc.switch = some w)
    (hmay : s.node.master = true ∧ w.cyc % 2 ^ 32 = arg c 0 ∧ w.state ≠ 3 ∧ s.node.cyc.cur + 1 < w.cyc) :
    exec (.cycModeAbort c) s = .next (s.on fun n =>
      { n.at c.time with cyc := { n.cyc with abort := 6 } }.waitsFor c 5 w.cyc []) := by
  have hmay' : (s.node.at c.time).master = true ∧ w.cyc % 2 ^ 32 = arg c 0 ∧ w.state ≠ 3 ∧ (s.node.at c.time).cyc.cur + 1 < w.cyc := hmay
  refine exec_settles rfl rfl h ?_
  split
  next w' hw' =>
    obtain rfl : w' = w := Option.some.inj (hw'.symm.trans hswitch)
    rw [if_pos hmay']
    rfl
  next hnone => cases hnone.symm.trans hswitch

theorem exec_cycModeAbort_none (h : s.node.takes c 0x0303 .either 1 = true) (hswitch : s.node.cyc.switch = none) :
    exec (.cycModeAbort c) s = .next (s.on fun n => (n.at c.time).completes c sState []) := by
  have hswitch' : (s.node.at c.time).cyc.switch = none := hswitch
  refine exec_settles rfl rfl h ?_
  simp only [hswitch']
  rfl

end

/-- Settles O32. -/
theorem cycleCommandsAct : Obligations.CycleCommandsAct := by
  intro s c
  refine ⟨fun h => exec_settles rfl rfl h rfl, exec_cycModeInfo_held, exec_cycModeInfo_absent, exec_cycModeSwitch_notRun,
    fun h hmode hst haway => ?_, fun h hmode hst hmaster hrequest hswitch hholds hany => ?_,
    fun h w hswitch hmaster hcyc hstate hsoon => exec_cycModeAbort_pending h hswitch ⟨hmaster, hcyc, hstate, hsoon⟩,
    exec_cycModeAbort_none⟩
  · refine exec_cycModeSwitch_asks h hmode hst ?_
    rw [Node.askSwitch_away (n := s.node.at c.time) _ _ _ haway]
    rfl
  · refine exec_cycModeSwitch_asks h hmode hst ?_
    have hfree : (s.node.at c.time).modeResult ((s.node.at c.time).switchAsked (arg c 0) (arg c 1) 0) = none :=
      Node.modeResult_free hrequest hswitch hholds hany
    rw [Node.askSwitch_accepted (n := s.node.at c.time) hmaster hfree, hany]
    rfl

end Sys2Proof.Machine
end

section
/-! PROOF. The contexts of the check engine (R604 to R613). -/

namespace Sys2Proof.Machine

theorem exec_chkGoWrite_admitted {s : State} {ctx c : Nat} (v : Word) (h : s.node.admits ctx (Reg.CHK_CTX_CTRL c) true = true) :
    exec (.chkGoWrite ctx c v) s = .next (s.on fun n => if c < 28 then (n.answer 0#32).chkCtrl ctx c v else n.answer 0#32) :=
  exec_on_eq rfl (Node.access_admitted s.node ctx _ true _ h)

theorem exec_chkStopWrite_admitted {s : State} {ctx c : Nat} (v : Word) (h : s.node.admits ctx (Reg.CHK_CTX_CTRL c) true = true) :
    exec (.chkStopWrite ctx c v) s = .next (s.on fun n => if c < 28 then (n.answer 0#32).chkCtrl ctx c v else n.answer 0#32) :=
  exec_on_eq rfl (Node.access_admitted s.node ctx _ true _ h)

/-- A write that sets `GO` alone starts a job. -/
theorem Node.chkCtrl_go (n : Node) (ctx c : Nat) {v : Word} (hv : v.toNat % 4 = 1) : n.chkCtrl ctx c v = n.chkGo ctx c := by
  have hgo : v.toNat.testBit 0 = true := by rw [Nat.testBit_eq_decide_div_mod_eq]; simp; omega
  have hstop : v.toNat.testBit 1 = false := by rw [Nat.testBit_eq_decide_div_mod_eq]; simp; omega
  simp [Node.chkCtrl, hgo, hstop]

/-- A write that sets `STOP` alone stops one. -/
theorem Node.chkCtrl_stop (n : Node) (ctx c : Nat) {v : Word} (hv : v.toNat % 4 = 2) : n.chkCtrl ctx c v = n.chkStop c := by
  have hgo : v.toNat.testBit 0 = false := by rw [Nat.testBit_eq_decide_div_mod_eq]; simp; omega
  have hstop : v.toNat.testBit 1 = true := by rw [Nat.testBit_eq_decide_div_mod_eq]; simp; omega
  simp [Node.chkCtrl, hgo, hstop]

theorem Node.chkGo_busy {n : Node} (ctx : Nat) {c : Nat} (h : n.chkBusy c = true) :
    n.chkGo ctx c = n.setBit (Reg.CHK_CTX_STAT c) 8 true := if_pos h

/-- A `GO` on a configuration that is wrong ends at once. -/
theorem Node.chkGo_bad {n : Node} (ctx : Nat) {c e : Nat} (h : n.chkBusy c = false)
    (hbad : (n.setReg (Reg.CHK_CTX_STAT c) 0#32).chkBad c = some e) :
    n.chkGo ctx c = (n.setReg (Reg.CHK_CTX_STAT c) 0#32).chkEnd c 0 e := by
  rw [Node.chkGo, if_neg (by simp [h])]
  dsimp only
  rw [hbad]

/-- A snoop with no block in progress ends with the `STOP`. -/
theorem Node.chkStop_idle {n : Node} {c : Nat} (h : n.chkBusy c = true) (hfeed : n.chkCfg c Fld.CHK_CTX_CFG_FEED ≠ 0)
    (hblocks : (n.chkCtx c).blocks = []) : n.chkStop c = n.chkEnd c (n.chkStat c Fld.CHK_CTX_STAT_RESULT) 0 := by
  rw [Node.chkStop, if_neg (by simp [h, hfeed]), hblocks]

/-- The running value of a software context may be written, every bit of it. -/
theorem regRow_chkRun : ∀ c < 28, (regRow (Reg.CHK_CTX_RUN c)).map (fun r => (r.access, r.wmask)) = some (.rw, 0xFFFFFFFF#32) := by
  decide +kernel

theorem Node.chkWrite_run {n : Node} {c : Nat} (v : Word) (hc : c < 28) (h : n.chkBusy c = false) :
    n.chkWrite (Reg.CHK_CTX_RUN c) c v = n.setReg (Reg.CHK_CTX_RUN c) v := by
  obtain ⟨row, hrow, hvals⟩ := Option.map_eq_some_iff.mp (regRow_chkRun c hc)
  obtain ⟨haccess, hmask⟩ := Prod.mk.inj hvals
  rw [Node.chkWrite, if_neg (by omega), if_neg (by simp [h]), Node.plainWrite_writable n v _ hrow (.inl haccess), hmask,
    show ~~~0xFFFFFFFF#32 = 0#32 from rfl, BitVec.and_zero, BitVec.zero_or, show 0xFFFFFFFF#32 = BitVec.allOnes 32 from rfl,
    BitVec.and_allOnes]

section
variable {s : State} {ctx c : Nat} (v : Word)

theorem exec_chkRunWrite_busy (h : s.node.admits ctx (Reg.CHK_CTX_RUN c) true = true) (hc : c < 28) (hbusy : s.node.chkBusy c = true) :
    exec (.chkRunWrite ctx c v) s = .next (s.on fun n => (n.answer 0#32).setBit (Reg.CHK_CTX_STAT c) 8 true) := by
  have hbusy' : (s.node.answer 0#32).chkBusy c = true := hbusy
  refine exec_on_eq rfl ((Node.access_admitted s.node ctx _ true _ h).trans ?_)
  rw [Node.chkWrite, if_neg (by omega), if_pos hbusy']

theorem exec_chkRunWrite_idle (h : s.node.admits ctx (Reg.CHK_CTX_RUN c) true = true) (hc : c < 28) (hidle : s.node.chkBusy c = false) :
    exec (.chkRunWrite ctx c v) s = .next (s.on fun n => (n.answer 0#32).setReg (Reg.CHK_CTX_RUN c) v) :=
  exec_on_eq rfl ((Node.access_admitted s.node ctx _ true _ h).trans (Node.chkWrite_run (n := s.node.answer 0#32) v hc hidle))

end

theorem exec_checkJobDone_job {s : State} {c : Nat} {j : ChkJob} (time : Nat) (hc : c < 28) (hbusy : s.node.chkBusy c = true)
    (hjob : (s.node.chkCtx c).job = some j) :
    exec (.checkJobDone c none time) s = .next (s.on fun n => (n.at time).chkJobEnd c j none) := by
  have hbusy' : (s.node.at time).chkBusy c = true := hbusy
  have hjob' : ((s.node.at time).chkCtx c).job = some j := hjob
  refine exec_on_eq rfl ?_
  dsimp only
  rw [if_neg (by simp [hbusy']; omega), hjob']

/-- Without an injection, a block whose operation is to compute leaves its check value as the result. -/
theorem Node.chkApply_compute {n : Node} {c : Nat} (start stream : Nat) (data : List Byte) (hinj : n.injMatch 7 c = false)
    (hop : n.chkOp c = 0) : n.chkApply c start stream data =
      ((n.setReg (Reg.CHK_CTX_RUN c) (word (crcFeed (n.chkAlg c) start data))).setReg (Reg.CHK_CTX_RESULT c)
        (word (crcResult (n.chkAlg c) (crcFeed (n.chkAlg c) start data))), 0) := by
  simp [Node.chkApply, hinj, hop]

theorem chkApply_result {n : Node} {c : Nat} (start stream : Nat) (data : List Byte) (hinj : n.injMatch 7 c = false)
    (hop : n.chkOp c = 0) :
    (n.chkApply c start stream data).1.reg (Reg.CHK_CTX_RESULT c) = word (crcResult (n.chkAlg c) (crcFeed (n.chkAlg c) start data)) ∧
    (n.chkApply c start stream data).1.reg (Reg.CHK_CTX_RUN c) = word (crcFeed (n.chkAlg c) start data) ∧
    (n.chkApply c start stream data).2 = 0 := by
  have hne : Reg.CHK_CTX_RUN c ≠ Reg.CHK_CTX_RESULT c := by simp only [Reg.CHK_CTX_RUN, Reg.CHK_CTX_RESULT]; omega
  rw [Node.chkApply_compute start stream data hinj hop]
  exact ⟨Node.reg_setReg_self _ _ _, (Node.reg_setReg_ne _ _ hne).trans (Node.reg_setReg_self _ _ _), rfl⟩

/-- Settles O56. -/
theorem checkJobsRunAndEnd : Obligations.CheckJobsRunAndEnd := by
  refine ⟨fun s ctx c v hc h => ⟨?_, ?_⟩, fun s ctx c v hlo hhi h => ?_,
    fun n ctx c v hv => ⟨fun hbusy => (n.chkCtrl_go ctx c hv).trans (Node.chkGo_busy ctx hbusy),
      fun hidle e hbad => (n.chkCtrl_go ctx c hv).trans (Node.chkGo_bad ctx hidle hbad)⟩,
    fun n ctx c v hv hbusy hfeed hblocks => (n.chkCtrl_stop ctx c hv).trans (Node.chkStop_idle hbusy hfeed hblocks),
    fun s ctx c v hc h => ⟨exec_chkRunWrite_busy v h hc, exec_chkRunWrite_idle v h hc⟩,
    fun s c time j hc hbusy hjob => exec_checkJobDone_job time hc hbusy hjob,
    fun n c start stream data _ hinj hop => chkApply_result start stream data hinj hop⟩
  · exact (exec_chkGoWrite_admitted v h).trans (State.next_on_congr (if_pos hc))
  · exact (exec_chkStopWrite_admitted v h).trans (State.next_on_congr (if_pos hc))
  · exact (exec_chkGoWrite_admitted v h).trans (State.next_on_congr (if_neg (by omega)))

end Sys2Proof.Machine
end

section
/-! PROOF. Resets and what they keep (R704, R707, R712 to R716). -/

namespace Sys2Proof.Machine

/-- The node with the registers that a reset of a kind keeps, and nothing else of its own but flash, boot and host layout. -/
def Node.resetKept (n : Node) (kind cause : Nat) : Node :=
  { Node.reset with
    regs := n.regs.filter fun (x : Nat × Word) => keptReg kind cause x.1
    fresh := n.fresh
    mem := { MemState.reset with flash := n.mem.flash, dram := if 3 ≤ kind then n.keptBytes else [] }
    boot := n.keptBoot kind cause
    host := if kind = kPower then HostState.reset else { HostState.reset with layout := n.host.layout, shares := n.host.shares }
    pd := if 3 ≤ kind then { PdState.reset with lines := n.keptLines } else PdState.reset }

theorem Node.reg_resetKept (n : Node) (kind cause a : Nat) :
    (n.resetKept kind cause).reg a = if keptReg kind cause a then n.reg a else regReset a :=
  Sparse.get_filter_key n.regs (fun b => keptReg kind cause b) a

/-- The registers that a reset itself writes. -/
def resetWrites : List Nat := [Reg.PCR_WARM_CNT, Reg.TST_STAT, Reg.PCR_RESET_CAUSE, Reg.TOP_NODE_ID_LO, Reg.TOP_NODE_ID_HI]

/-- A reset leaves every register that it does not write itself as its kind keeps it. -/
theorem Node.reg_resetTo (n : Node) (o : Otp) (kind cause : Nat) {a : Nat} (ha : a ∉ resetWrites) :
    (n.resetTo o kind cause).reg a = (n.resetKept kind cause).reg a := by
  simp only [resetWrites, List.mem_cons, List.not_mem_nil, or_false, not_or] at ha
  obtain ⟨hwarm, htst, hcause, hlo, hhi⟩ := ha
  unfold Node.resetTo
  extract_lets keep nodeR hostR pdR memR kept named tested counted
  have hnamed : named.reg a = (n.resetKept kind cause).reg a :=
    (Node.reg_setReg_ne _ _ hhi).trans (Node.reg_setReg_ne _ _ hlo)
  have htested : tested.reg a = named.reg a := by
    simp only [tested]
    split
    · rfl
    · exact Node.reg_setBits_ne _ 30 1 _ htst
  have hcounted : counted.reg a = tested.reg a := by
    simp only [counted]
    split
    · exact Node.reg_inc_ne _ hwarm
    · rfl
  rw [Node.reg_setReg_ne _ _ hcause, hcounted, htested, hnamed]

theorem Node.cause_resetTo (n : Node) (o : Otp) (kind cause : Nat) :
    (n.resetTo o kind cause).reg Reg.PCR_RESET_CAUSE = word (kind + cause * 256) := Node.reg_setReg_self _ _ _

/-- The stores that a reset leaves, whichever registers it writes. -/
theorem Node.resetTo_stores (n : Node) (o : Otp) (kind cause : Nat) :
    ∃ regs, n.resetTo o kind cause = { n.resetKept kind cause with regs := regs } := by
  unfold Node.resetTo
  extract_lets keep nodeR hostR pdR memR kept named tested counted
  obtain ⟨regs, htested⟩ : ∃ regs, tested = { n.resetKept kind cause with regs := regs } := by
    simp only [tested]
    split <;> exact ⟨_, rfl⟩
  obtain ⟨regs', hcounted⟩ : ∃ regs, counted = { n.resetKept kind cause with regs := regs } := by
    simp only [counted]
    rw [htested]
    split <;> exact ⟨_, rfl⟩
  rw [hcounted]
  exact ⟨_, rfl⟩

theorem Node.waits_resetTo (n : Node) (o : Otp) (kind cause : Nat) : (n.resetTo o kind cause).host.waits = [] := by
  obtain ⟨regs, h⟩ := n.resetTo_stores o kind cause
  rw [h]
  change (if kind = kPower then HostState.reset else _).waits = _
  split <;> rfl

theorem Node.flash_resetTo (n : Node) (o : Otp) (kind cause : Nat) : (n.resetTo o kind cause).mem.flash = n.mem.flash := by
  obtain ⟨regs, h⟩ := n.resetTo_stores o kind cause
  rw [h]
  rfl

theorem Node.table_resetTo (n : Node) (o : Otp) (kind cause : Nat) : (n.resetTo o kind cause).ina.table = [] := by
  obtain ⟨regs, h⟩ := n.resetTo_stores o kind cause
  rw [h]
  rfl

/-- What a reset writes itself is not kept by any kind, but for the count of warm resets. -/
theorem keptReg_writes (kind cause : Nat) {a : Nat} (ha : a ∈ resetWrites) (hkept : keptReg kind cause a = true) :
    a = Reg.PCR_WARM_CNT ∨ a = Reg.TST_STAT := by
  simp only [resetWrites, List.mem_cons, List.not_mem_nil, or_false] at ha
  rcases ha with h | h | h | h | h
  · exact .inl h
  · exact .inr h
  all_goals
    subst h
    simp [keptReg, List.range, List.range.loop] at hkept
    obtain ⟨-, hkept⟩ | ⟨-, hkept⟩ := hkept
    · exact absurd hkept (by decide)
    · exact absurd hkept (by decide)

/-! ### The requests (R714) -/

theorem Node.requestReset_runs {n : Node} (o : Otp) (kind cause : Nat) (h : n.inReset = false) :
    n.requestReset o kind cause = (if kind = kWarm ∨ kind = kTrain then n.routeAll else n).resetTo o kind cause := by
  rw [Node.requestReset, h]
  rfl

/-- A weaker request, or one of a warm, train or wake reset, within a reset after power-on has no effect. -/
theorem Node.requestReset_weaker {n : Node} (o : Otp) {kind : Nat} (cause : Nat) (h : n.inReset = true)
    (hnow : n.fld Reg.PCR_RESET_CAUSE Fld.PCR_RESET_CAUSE_KIND = kPower) (hkind : kind ≠ kPower) :
    n.requestReset o kind cause = n := by
  have hrank : kindRank kind < kindRank kPower := by
    rw [kindRank, if_neg hkind]
    split <;> decide
  rw [Node.requestReset, hnow, h]
  exact if_pos (by simp [hrank])

section
variable {s : State}

theorem exec_supplyMonitorTrip_resets {monitor : Nat} (h : s.node.inReset = false) (hmonitor : monitor < 3) :
    exec (.supplyMonitorTrip monitor) s = .next (s.on fun n =>
      (n.resetTo s.otp (if monitor = 0 then kPower else kPin) 2).setBit Reg.PCR_SUPPLY_STAT monitor true) := by
  refine exec_on_eq rfl ?_
  rw [if_neg (by omega), Node.requestReset_runs _ _ _ h, if_neg]
  by_cases hzero : monitor = 0 <;> simp [hzero, kPower, kPin, kWarm, kTrain]

theorem exec_warmReset_due {time at_ cause : Nat} (hwarm : s.node.boot.warm = some (at_, cause)) (hdue : at_ ≤ max s.node.tm.raw time) :
    exec (.warmReset time) s = .next (s.on fun n => (n.at time).requestReset s.otp kWarm cause) := by
  refine exec_on_eq rfl ?_
  dsimp only
  rw [show (s.node.at time).boot.warm = some (at_, cause) from hwarm]
  exact if_pos hdue

theorem exec_trainResetInstant_due {time : Nat} {o : TrainOp} (h : s.node.inReset = false) (hop : s.node.ina.op = some o)
    (hkind : o.op = 3) (hdue : (s.node.at time).opDue o = true) :
    exec (.trainResetInstant time) s = .next (s.on fun n => ((n.at time).routeAll).resetTo s.otp kTrain 1) := by
  refine exec_on_eq rfl ?_
  dsimp only
  rw [show (s.node.at time).ina.op = some o from hop]
  dsimp only
  rw [if_pos ⟨hkind, hdue⟩, Node.requestReset_runs (n := s.node.at time) _ _ _ h]
  rfl

end

/-- Settles O58. -/
theorem resetsKeepWhatTheirKindKeeps : Obligations.ResetsKeepWhatTheirKindKeeps := by
  refine ⟨fun n o kind cause a hkept hwarm htst => ?_, fun n o kind cause a hkept ha => ?_,
    fun n o kind cause => ⟨n.cause_resetTo o kind cause, n.flash_resetTo o kind cause, n.waits_resetTo o kind cause,
      n.table_resetTo o kind cause⟩,
    fun s h => ⟨exec_on_eq rfl (Node.requestReset_runs _ _ _ h), exec_on_eq rfl (Node.requestReset_runs _ _ _ h), ?_,
      fun monitor => exec_supplyMonitorTrip_resets h, fun time at_ cause hwarm hdue => ?_,
      fun time o hop hkind hdue => exec_trainResetInstant_due h hop hkind hdue⟩,
    fun s h hnow => ⟨?_, fun time at_ cause hwarm hdue => ?_⟩⟩
  · have ha : a ∉ resetWrites := fun hin => (keptReg_writes kind cause hin hkept).elim hwarm htst
    rw [Node.reg_resetTo _ _ _ _ ha, Node.reg_resetKept, if_pos hkept]
  · rw [Node.reg_resetTo _ _ _ _ ha, Node.reg_resetKept, if_neg (by simp [hkept])]
  · exact exec_on_eq rfl (congrArg (fun n : Node => n.setBit Reg.PCR_SUPPLY_STAT 3 true) (Node.requestReset_runs _ _ _ h))
  · exact (exec_warmReset_due hwarm hdue).trans (State.next_on_congr (Node.requestReset_runs (n := s.node.at time) _ _ _ h))
  · exact (exec_on_eq (g := id) rfl (Node.requestReset_weaker _ _ h hnow (by decide))).trans rfl
  · exact (exec_warmReset_due hwarm hdue).trans (State.next_on_congr
      (Node.requestReset_weaker (n := s.node.at time) _ _ h hnow (by decide)))

end Sys2Proof.Machine
end

section
/-! PROOF. What the sending of a frame changes of a node (R53, R166 to R178, R189). -/

namespace Sys2Proof.Machine

/-- The registers that the sending of a frame may write: the counters and packet numbers of the ports, the drops of the pools, and
what an injection shows of itself. -/
abbrev egressReg (a : Nat) : Prop :=
  ((0x00800000 ≤ a ∧ a < 0x00840000 ∨ 0x00900000 ≤ a ∧ a < 0x00980000) ∧
    (0x10 ≤ a % 0x10000 ∧ a % 0x10000 < 0x18 ∨ 0x110 ≤ a % 0x10000 ∧ a % 0x10000 < 0x120 ∨ a % 0x10000 = 0x138 ∨
      a % 0x10000 = 0x150 ∨ 0x180 ≤ a % 0x10000 ∧ a % 0x10000 < 0x1C0)) ∨
  a = Reg.JLK_TX_FRM_LO ∨ a = Reg.JLK_TX_FRM_HI ∨ a = Reg.TOP_BUF_CTRL_DROP ∨ a = Reg.EVT_DROP ∨ a = Reg.TST_STAT ∨
    a = Reg.TST_INJ_CTRL ∨ a = Reg.TST_INJ_LEFT ∨ a = Reg.JLK_XFEED_DROP

theorem Node.reg_setBit_ne (n : Node) {a b : Nat} (i : Nat) (v : Bool) (h : b ≠ a) : (n.setBit a i v).reg b = n.reg b :=
  Node.reg_setBits_ne n i 1 _ h

theorem Node.port_onPort (n : Node) (p : Nat) (f : Port → Port) (i : Nat) :
    (n.onPort p f).port i = if i = p ∧ p < n.net.ports.length then f (n.port i) else n.port i := by
  have hget : (n.onPort p f).net.ports = n.net.ports.mapIdx fun j x => if j = p then f x else x := rfl
  rw [Node.port, Node.port, hget, List.getD_eq_getElem?_getD, List.getD_eq_getElem?_getD, List.getElem?_mapIdx]
  by_cases hi : i < n.net.ports.length
  · rw [List.getElem?_eq_getElem hi]
    by_cases hp : i = p
    · simp [hp, hp ▸ hi]
    · simp [hp]
  · rw [List.getElem?_eq_none (by omega), if_neg (by omega)]
    rfl

theorem Node.length_onPort (n : Node) (p : Nat) (f : Port → Port) : (n.onPort p f).net.ports.length = n.net.ports.length :=
  List.length_mapIdx

/-- What the sending of frames leaves of a node: everything but registers of the egress, what is sent and what waits, the ports'
wires, and the events. -/
structure Node.Sends (n m : Node) : Prop where
  stores : ∃ regs net ev, m = { n with regs := regs, net := net, ev := ev }
  reg : ∀ a, ¬ egressReg a → m.reg a = n.reg a
  port : ∀ p, ∃ busy preEnd, m.port p = { n.port p with busy := busy, preEnd := preEnd }
  length : m.net.ports.length = n.net.ports.length

namespace Node.Sends

theorem refl (n : Node) : n.Sends n := ⟨⟨_, _, _, rfl⟩, fun _ _ => rfl, fun _ => ⟨_, _, rfl⟩, rfl⟩

theorem trans {n m k : Node} (h : n.Sends m) (h' : m.Sends k) : n.Sends k := by
  refine ⟨?_, fun a ha => (h'.reg a ha).trans (h.reg a ha), fun p => ?_, h'.length.trans h.length⟩
  · obtain ⟨_, _, _, rfl⟩ := h.stores
    obtain ⟨_, _, _, rfl⟩ := h'.stores
    exact ⟨_, _, _, rfl⟩
  · obtain ⟨_, _, hm⟩ := h.port p
    obtain ⟨_, _, hk⟩ := h'.port p
    rw [hm] at hk
    exact ⟨_, _, hk⟩

theorem setReg (n : Node) {a : Nat} (v : Word) (ha : egressReg a) : n.Sends (n.setReg a v) :=
  ⟨⟨_, _, _, rfl⟩, fun b hb => Node.reg_setReg_ne n v (by rintro rfl; exact hb ha), fun _ => ⟨_, _, rfl⟩, rfl⟩

theorem inc (n : Node) {a : Nat} (ha : egressReg a) : n.Sends (n.inc a) := setReg n _ ha

theorem add64 (n : Node) {a : Nat} (k : Nat) (hlo : egressReg a) (hhi : egressReg (a + 4)) : n.Sends (n.add64 a k) := by
  unfold Node.add64 Node.setReg64
  exact (setReg n _ hlo).trans (setReg _ _ hhi)

theorem raise (n : Node) (code d0 d1 : Nat) : n.Sends (n.raise code d0 d1) := by
  refine ⟨?_, fun b hb => Node.reg_raise_ne n code d0 d1 ?_, fun p => ⟨(n.port p).busy, (n.port p).preEnd, ?_⟩, ?_⟩
  · obtain ⟨regs, ev, h⟩ := n.raise_eq_withEvents code d0 d1
    rw [h]
    exact ⟨_, n.net, _, rfl⟩
  · rintro rfl
    exact hb (by decide)
  · rw [Node.port, Node.raise_net]
    rfl
  · rw [Node.raise_net]

/-- A change of what is sent or waits. -/
theorem withNet (n : Node) (sent : List Sent) (queue : List Queued) :
    n.Sends { n with net := { n.net with sent := sent, queue := queue } } := ⟨⟨_, _, _, rfl⟩, fun _ _ => rfl, fun _ => ⟨_, _, rfl⟩, rfl⟩

theorem withArmed (n : Node) (armed : Bool) : n.Sends { n with ev := { n.ev with openArmed := armed } } :=
  ⟨⟨_, _, _, rfl⟩, fun _ _ => rfl, fun _ => ⟨_, _, rfl⟩, rfl⟩

/-- A change of the times until which a port's wire is taken. -/
theorem onPort (n : Node) (p : Nat) (busy preEnd : Port → Nat) :
    n.Sends (n.onPort p fun q => { q with busy := busy q, preEnd := preEnd q }) := by
  refine ⟨⟨_, _, _, rfl⟩, fun _ _ => rfl, fun i => ?_, n.length_onPort p _⟩
  rw [n.port_onPort]
  split
  · exact ⟨_, _, rfl⟩
  · exact ⟨_, _, rfl⟩

/-! ### One frame -/

theorem injUse (n : Node) : n.Sends n.injUse := by
  have hctrl : egressReg Reg.TST_INJ_CTRL := by decide
  have hleft : egressReg Reg.TST_INJ_LEFT := by decide
  have hstat : egressReg Reg.TST_STAT := by decide
  unfold Node.injUse
  dsimp only
  split
  · exact ((setReg n _ hctrl).trans (setReg _ _ hleft)).trans (setReg _ _ hstat)
  · exact setReg n _ hleft

/-- The registers of a port that carries frames, by their place in its block. -/
theorem egressReg_port {p o : Nat} (hp : p < 12) (ho : 0x10 ≤ o ∧ o < 0x18 ∨ 0x110 ≤ o ∧ o < 0x120 ∨ o = 0x138 ∨ o = 0x150 ∨
    0x180 ≤ o ∧ o < 0x1C0) : egressReg (portBase p + o) := by
  refine .inl ?_
  unfold portBase
  split <;> omega

theorem hand (n : Node) (p : Nat) (f : Frame) (t : Nat) (stomped : Bool) (mask : Nat) : n.Sends (n.hand p f t stomped mask) := by
  have hsent : n.Sends { n with net := { n.net with sent := n.net.sent ++ [Sent.mk p f t stomped mask (n.protect p f)] } } :=
    withNet n _ _
  unfold Node.hand
  dsimp only
  split
  · next hsec =>
    have hp : p < 12 := by
      simp only [Node.secOn, isSpinePort, Bool.and_eq_true, decide_eq_true_eq] at hsec
      omega
    exact hsent.trans (add64 _ _ (egressReg_port hp (by omega)) (egressReg_port (o := 0x14) hp (by omega)))
  · exact hsent

theorem putOutAt (n : Node) (p : Nat) (f : Frame) (t : Nat) : n.Sends (n.putOutAt p f t) := by
  unfold Node.putOutAt
  extract_lets hit mask m
  have hm : n.Sends m := by
    simp only [m]
    split
    · exact (injUse n).trans (hand _ _ _ _ _ _)
    · exact hand _ _ _ _ _ _
  split
  · next hp =>
    exact (hm.trans (add64 _ _ (egressReg_port hp (by omega)) (egressReg_port (o := 0x114) hp (by omega)))).trans
      (add64 _ _ (egressReg_port hp (by omega)) (egressReg_port (o := 0x11C) hp (by omega)))
  · split
    · exact hm.trans (add64 _ _ (by decide) (by decide))
    · exact hm

theorem fragments (n : Node) (p k : Nat) : n.Sends (n.fragments p k) := by
  unfold Node.fragments
  split
  · next h => exact setReg n _ (egressReg_port h.1 (by omega))
  · exact refl n

theorem starts (n : Node) (p cls : Nat) (f : Frame) (t : Nat) : n.Sends (n.starts p cls f t) := by
  unfold Node.starts
  extract_lets m w o at0 r
  have hm : n.Sends m := putOutAt n p f t
  split
  · exact (hm.trans (onPort m p (·.busy) _)).trans (fragments _ _ _)
  · split
    · exact (hm.trans (onPort m p _ _)).trans (fragments _ _ _)
    · exact hm.trans (onPort m p _ (·.preEnd))

theorem clsDrop (n : Node) (p : Nat) {cls : Nat} (hcls : cls < 16) : n.Sends (n.clsDrop p cls) := by
  unfold Node.clsDrop
  split
  · next hp =>
    refine inc n ?_
    change egressReg (portBase p + 0x180 + cls * 0x4)
    rw [Nat.add_assoc]
    exact egressReg_port hp (by omega)
  · exact refl n

theorem poolDrop (n : Node) (p : Nat) {cls : Nat} (hcls : cls < 16) : n.Sends (n.poolDrop p cls) := by
  unfold Node.poolDrop
  split
  · exact (inc n (a := Reg.TOP_BUF_CTRL_DROP) (by decide)).trans (raise _ _ _ _)
  · dsimp only
    split
    · refine (clsDrop n p hcls).trans ?_
      unfold Node.openFull
      split
      · exact (raise _ _ _ _).trans (withArmed _ _)
      · exact refl _
    · exact clsDrop n p hcls

theorem sendFrom (n : Node) (ingress p : Nat) {cls : Nat} (f : Frame) (hcls : cls < 16) : n.Sends (n.sendFrom ingress p cls f) := by
  unfold Node.sendFrom
  split
  · exact refl n
  · split
    · exact starts _ _ _ _ _
    · dsimp only
      split
      · exact clsDrop n p hcls
      · split
        · exact starts _ _ _ _ _
        · split
          · exact poolDrop n _ hcls
          · exact withNet n _ _

theorem classOf_lt (n : Node) (f : Frame) : n.classOf f < 16 := by
  unfold Node.classOf
  split
  · exact Nat.mod_lt _ (by decide)
  · decide

theorem send (n : Node) (p : Nat) (f : Frame) : n.Sends (n.send p f) := sendFrom n _ _ f (classOf_lt n f)

theorem pass (n : Node) (r : Rx) (p : Nat) (f : Frame) : n.Sends (n.pass r p f) := sendFrom n _ _ f (classOf_lt n f)

theorem sendOn (n : Node) (p : Nat) (h : SpineHdr) (payload : List Byte) : n.Sends (n.sendOn p h payload) := send _ _ _

theorem startOn (n : Node) (p : Nat) (h : SpineHdr) (payload : List Byte) : n.Sends (n.startOn p h payload) := sendOn _ _ _ _

/-- Frames sent one after another. -/
theorem foldl {α : Type} (n : Node) (l : List α) (step : Node → α → Node) (h : ∀ m x, Node.Sends m (step m x)) :
    n.Sends (l.foldl step n) :=
  List.foldlRecOn (motive := fun m => n.Sends m) l step (refl n) fun m hm x _ => hm.trans (h m x)

theorem sendAll (n : Node) (ps : List Nat) (f : Frame) : n.Sends (n.sendAll ps f) := foldl n ps _ fun m p => send m p f

theorem originateBy (n : Node) (h : SpineHdr) (payload : Bool → List Byte) (keep : Nat → Bool) :
    n.Sends (n.originateBy h payload keep) := by
  refine foldl n _ _ fun m lineB => ?_
  dsimp only
  split
  · exact sendAll _ _ _
  · split
    · exact send _ _ _
    · split
      · exact refl m
      · exact inc m (by decide)

theorem originate (n : Node) (h : SpineHdr) (payload : List Byte) (keep : Nat → Bool) : n.Sends (n.originate h payload keep) :=
  originateBy _ _ _ _

theorem broadcast (n : Node) (h : SpineHdr) (payload : List Byte) : n.Sends (n.broadcast h payload) := originate _ _ _ _

theorem forwardLine (n : Node) (r : Rx) (lineB : Bool) : n.Sends (n.forwardLine r lineB) := foldl n _ _ fun m p => pass m r p _

theorem sendStomped (n : Node) (p : Nat) (f : Frame) : n.Sends (n.sendStomped p f) := by
  unfold Node.sendStomped
  split
  · dsimp only
    split
    · next hp => exact (hand n _ _ _ _ _).trans (inc _ (egressReg_port hp (by omega)))
    · exact hand n _ _ _ _ _
  · exact refl n

end Node.Sends

theorem Node.Sends.fld {n m : Node} (h : n.Sends m) {a : Nat} (ha : ¬ egressReg a) (f : Field) : m.fld a f = n.fld a f := by
  rw [Node.fld, h.reg a ha]
  rfl

theorem Node.Sends.bit {n m : Node} (h : n.Sends m) {a : Nat} (ha : ¬ egressReg a) (i : Nat) : m.bit a i = n.bit a i := by
  rw [Node.bit, h.reg a ha]
  rfl

/-! ### The state of a node (R256) -/

/-- A peer delay exchange that starts leaves the registers but for those of the egress. -/
theorem Node.reg_pdStart (n : Node) (p : Nat) {a : Nat} (ha : ¬ egressReg a) : (n.pdStart p).reg a = n.reg a := by
  unfold Node.pdStart
  split
  · exact (Node.Sends.send _ _ _).reg a ha
  · rfl

theorem Node.pdStart_stores (n : Node) (p : Nat) : ∃ regs net ev, n.pdStart p = { n with regs := regs, net := net, ev := ev } := by
  unfold Node.pdStart
  split
  · obtain ⟨regs, net, ev, h⟩ := (Node.Sends.send (n.onPort p _) p _).stores
    exact ⟨regs, net, ev, h⟩
  · exact ⟨_, _, _, rfl⟩

theorem Node.st_setBits_ne (n : Node) {a : Nat} (lo w v : Nat) (ha : Reg.INA_STATE ≠ a) : (n.setBits a lo w v).st = n.st := by
  rw [Node.st, Node.fld, Node.reg_setBits_ne _ _ _ _ ha]
  rfl

theorem Node.st_setBit_ne (n : Node) {a : Nat} (i : Nat) (v : Bool) (ha : Reg.INA_STATE ≠ a) : (n.setBit a i v).st = n.st :=
  n.st_setBits_ne i 1 _ ha

theorem Node.st_withIna (n : Node) (ina : InaState) : { n with ina := ina }.st = n.st := rfl

theorem Node.st_withPd (n : Node) (pd : PdState) : { n with pd := pd }.st = n.st := rfl

theorem Node.st_showSt (n : Node) {st : Nat} (hst : st < 8) : (n.showSt st).st = st := by
  have hset : ∀ m : Node, (m.setFld Reg.INA_STATE Fld.INA_STATE_STATE st).st = st := fun m => by
    rw [Node.st, Node.fld_setFld_self _ _ _ _ (by decide)]
    exact Nat.mod_eq_of_lt hst
  unfold Node.showSt
  extract_lets limits safe shown active pd since ina
  have hactive : active.st = st := (shown.st_setBit_ne 31 _ (by decide)).trans (hset safe)
  have hsince : since.st = st := by
    simp only [since]
    split
    · exact hactive
    · exact (Node.st_withPd active _).trans hactive
  exact (Node.st_withIna since _).trans hsince

theorem Node.st_pdStart (n : Node) (p : Nat) : (n.pdStart p).st = n.st := by
  rw [Node.st, Node.fld, Node.reg_pdStart _ _ (by decide)]
  rfl

/-- The node is in the state to which it has passed. -/
theorem Node.st_setSt (n : Node) {st : Nat} (hst : st < 8) : (n.setSt st).st = st := by
  unfold Node.setSt
  dsimp only
  split
  · exact n.st_showSt hst
  · exact (Node.st_pdStart _ _).trans (n.st_showSt hst)

/-- What the presentation of outputs leaves of a node: everything but events, process data and the registers of process data,
of lines and of audio. -/
structure Node.Presents (n m : Node) : Prop where
  stores : ∃ regs ev pd, m = { n with regs := regs, ev := ev, pd := pd }
  reg : ∀ a, a < Reg.PDT_CFG → a ≠ Reg.EVT_DROP → m.reg a = n.reg a

namespace Node.Presents

theorem refl (n : Node) : n.Presents n := ⟨⟨_, _, _, rfl⟩, fun _ _ _ => rfl⟩

theorem trans {n m k : Node} (h : n.Presents m) (h' : m.Presents k) : n.Presents k := by
  refine ⟨?_, fun a ha hdrop => (h'.reg a ha hdrop).trans (h.reg a ha hdrop)⟩
  obtain ⟨_, _, _, rfl⟩ := h.stores
  obtain ⟨_, _, _, rfl⟩ := h'.stores
  exact ⟨_, _, _, rfl⟩

theorem setReg (n : Node) {a : Nat} (v : Word) (ha : Reg.PDT_CFG ≤ a) : n.Presents (n.setReg a v) :=
  ⟨⟨_, _, _, rfl⟩, fun b hb _ => Node.reg_setReg_ne n v (by omega)⟩

theorem setBit (n : Node) {a : Nat} (i : Nat) (v : Bool) (ha : Reg.PDT_CFG ≤ a) : n.Presents (n.setBit a i v) := setReg n _ ha

theorem withPd (n : Node) (pd : PdState) : n.Presents { n with pd := pd } := ⟨⟨_, _, _, rfl⟩, fun _ _ _ => rfl⟩

theorem endLimits (n : Node) : n.Presents n.endLimits := ⟨⟨_, _, _, rfl⟩, fun _ _ _ => rfl⟩

theorem raise (n : Node) (code d0 d1 : Nat) : n.Presents (n.raise code d0 d1) := by
  refine ⟨?_, fun a _ hdrop => n.reg_raise_ne _ _ _ hdrop⟩
  obtain ⟨regs, ev, h⟩ := n.raise_eq_withEvents code d0 d1
  rw [h]
  exact ⟨_, _, n.pd, rfl⟩

theorem foldl {α : Type} (n : Node) (l : List α) (step : Node → α → Node) (h : ∀ m x, Node.Presents m (step m x)) :
    n.Presents (l.foldl step n) :=
  List.foldlRecOn (motive := fun m => n.Presents m) l step (refl n) fun m hm x _ => hm.trans (h m x)

theorem syncDrivers (n : Node) : n.Presents n.syncDrivers := by
  unfold Node.syncDrivers
  extract_lets on pd m
  have hm : n.Presents m := withPd n _
  refine hm.trans (foldl _ _ _ fun k p => ?_)
  split
  · exact setBit k _ _ (by simp only [Reg.PDT_CFG, Reg.AUD_TDM_STAT]; omega)
  · exact refl k

theorem drive (n : Node) (l : Nat) (active : Bool) : n.Presents (n.drive l active) := by
  unfold Node.drive
  exact ((setBit n _ _ (by decide)).trans (setBit _ _ _ (by decide))).trans (withPd _ _)

theorem latchMaps (n : Node) (d : Dataset) : n.Presents (n.latchMaps d) := (foldl n _ _ fun m _ => drive m _ _).trans (syncDrivers _)

theorem safeAll (n : Node) : n.Presents n.safeAll := by
  refine foldl n _ _ fun m x => ?_
  obtain ⟨d, i⟩ := x
  dsimp only
  split
  · refine trans ?_ (raise _ _ _ _)
    refine trans ?_ (latchMaps _ _)
    exact (withPd m _).trans (setReg _ _ (by simp only [Reg.PDT_CFG, Reg.PDT_DS_STAT]; omega))
  · exact refl m

end Node.Presents

/-- What the showing of a state leaves of a node. -/
structure Node.Shows (n m : Node) : Prop where
  stores : ∃ regs ev pd, m = { n with regs := regs, ev := ev, pd := pd, ina := { n.ina with entered := n.tm.raw } }
  reg : ∀ a, a < Reg.PDT_CFG → a ≠ Reg.EVT_DROP → a ≠ Reg.INA_STATE → m.reg a = n.reg a

theorem Node.Presents.entered {n safe since : Node} {st : Nat} (hsafe : n.Presents safe)
    (hsince : (safe.setFld Reg.INA_STATE Fld.INA_STATE_STATE st).Presents since) :
    n.Shows { since with ina := { since.ina with entered := since.tm.raw } } := by
  refine ⟨?_, fun a ha hdrop hstate =>
    (hsince.reg a ha hdrop).trans ((Node.reg_setFld_ne _ _ _ hstate).trans (hsafe.reg a ha hdrop))⟩
  obtain ⟨_, _, _, rfl⟩ := hsafe.stores
  obtain ⟨_, _, _, rfl⟩ := hsince.stores
  exact ⟨_, _, _, rfl⟩

theorem Node.shows_showSt (n : Node) (st : Nat) : n.Shows (n.showSt st) := by
  unfold Node.showSt
  extract_lets limits safe shown active pd since ina
  have hlimits : n.Presents limits := by
    simp only [limits]
    split
    · exact Node.Presents.endLimits n
    · exact Node.Presents.refl n
  have hsafe : n.Presents safe := by
    simp only [safe]
    split
    · exact hlimits.trans (Node.Presents.safeAll _)
    · exact hlimits
  have hactive : shown.Presents active := Node.Presents.setBit shown _ _ (by decide)
  have hsince : shown.Presents since := by
    simp only [since]
    split
    · exact hactive
    · exact hactive.trans (Node.Presents.withPd active _)
  exact hsafe.entered hsince

/-- A node that passes to a state changes its registers, its events, its process data, the time at which it has entered the state and
what it sends. -/
theorem Node.setSt_stores (n : Node) (st : Nat) : ∃ regs ev pd net,
    n.setSt st = { n with regs := regs, ev := ev, pd := pd, net := net, ina := { n.ina with entered := n.tm.raw } } := by
  obtain ⟨regs, ev, pd, h⟩ := (n.shows_showSt st).stores
  unfold Node.setSt
  dsimp only
  split
  · rw [h]
    exact ⟨_, _, _, _, rfl⟩
  · obtain ⟨regs', net, ev', h'⟩ := (n.showSt st).pdStart_stores 12
    rw [h', h]
    exact ⟨_, _, _, _, rfl⟩

theorem Node.reg_setSt (n : Node) (st : Nat) {a : Nat} (ha : a < Reg.PDT_CFG) (hstate : a ≠ Reg.INA_STATE) (hegress : ¬ egressReg a) :
    (n.setSt st).reg a = n.reg a := by
  have hshown : (n.showSt st).reg a = n.reg a :=
    (n.shows_showSt st).reg a ha (by rintro rfl; exact hegress (by decide)) hstate
  unfold Node.setSt
  dsimp only
  split
  · exact hshown
  · exact (Node.reg_pdStart _ _ hegress).trans hshown

end Sys2Proof.Machine
end

section
/-! PROOF. Sleep, clocks and the DRAM loopback (R709, R715, R718 to R723, R729, R731). -/

namespace Sys2Proof.Machine

section
variable {s : State} {ctx time : Nat}

theorem exec_pcrWarmWrite_admitted (v : Word) (h : s.node.admits ctx Reg.PCR_RESET_CTRL true = true) :
    exec (.pcrWarmWrite ctx v time) s = .next (s.on fun n =>
      if v.toNat.testBit 0 then ((n.at time).answer 0#32).warmIn 0 3 else (n.at time).answer 0#32) :=
  exec_on_eq rfl (Node.access_admitted (s.node.at time) ctx _ true _ h)

/-! ### Sleep (R718 to R723) -/

theorem exec_pcrSleepWrite_admitted (v : Word) (h : s.node.admits ctx Reg.PCR_SLEEP_CTRL true = true) :
    exec (.pcrSleepWrite ctx v time) s = .next (s.on fun n => ((n.at time).answer 0#32).sleepWrite v) :=
  exec_on_eq rfl (Node.access_admitted (s.node.at time) ctx _ true _ h)

/-- A write that asks for sleep is refused while nothing may wake the node. -/
theorem Node.sleepWrite_refused {n : Node} {v : Word} (hv : v.toNat.testBit 0 = true) (hsleep : n.boot.sleep = 0)
    (hphase : n.boot.phase ≠ 0) (hwake : n.reg Reg.PCR_WAKE_EN = 0#32) :
    n.sleepWrite v = n.setFld Reg.PCR_SLEEP_CTRL Fld.PCR_SLEEP_CTRL_REFUSED 1 := by
  rw [Node.sleepWrite, if_neg (by simp [hv, hsleep, hphase]), if_pos hwake]

theorem Node.sleepWrite_starts {n : Node} {v : Word} (hv : v.toNat.testBit 0 = true) (hsleep : n.boot.sleep = 0)
    (hphase : n.boot.phase ≠ 0) (hwake : n.reg Reg.PCR_WAKE_EN ≠ 0#32) : n.sleepWrite v = n.startSleep := by
  rw [Node.sleepWrite, if_neg (by simp [hv, hsleep, hphase]), if_neg hwake]

theorem Node.st_startScript (n : Node) (ws : List MdioWrite) : (n.startScript ws).st = n.st := by
  refine List.foldlRecOn (motive := fun m : Node => m.st = n.st) _ _ rfl fun m hm w _ => ?_
  have hmaster : Reg.INA_STATE ≠ Reg.SPN_MDIO_STAT w.master := by
    simp only [Reg.INA_STATE, Reg.SPN_MDIO_STAT]
    omega
  exact ((Node.st_setBit_ne _ 2 true hmaster).trans (m.st_setBit_ne 0 true hmaster)).trans hm

theorem Node.st_syncDrivers (n : Node) : n.syncDrivers.st = n.st := by
  unfold Node.syncDrivers
  extract_lets on pd m
  refine List.foldlRecOn (motive := fun m : Node => m.st = n.st) _ _ rfl fun m hm p _ => ?_
  split
  · exact (m.st_setBit_ne 2 _ (by simp only [Reg.INA_STATE, Reg.AUD_TDM_STAT]; omega)).trans hm
  · exact hm

theorem Node.st_startSleep (n : Node) : n.startSleep.st = stOff := by
  unfold Node.startSleep
  extract_lets asked off dark scripted boot
  have hoff : off.st = stOff := Node.st_setSt _ (by decide)
  have hdark : dark.st = stOff :=
    (Node.st_syncDrivers _).trans ((off.st_setBits_ne _ _ _ (by decide)).trans hoff)
  exact (Node.st_startScript dark dark.net.scriptEnter).trans hdark

theorem sleepWrite_sleeps (v : Word) (h : s.node.admits ctx Reg.PCR_SLEEP_CTRL true = true) (hv : v.toNat.testBit 0 = true)
    (hsleep : s.node.boot.sleep = 0) (hphase : s.node.boot.phase ≠ 0) (hwake : s.node.reg Reg.PCR_WAKE_EN ≠ 0#32) :
    ∃ t : State, exec (.pcrSleepWrite ctx v time) s = .next t ∧ t.node.boot.sleep = 1 ∧ t.node.st = stOff := by
  have hexec : exec (.pcrSleepWrite ctx v time) s = .next (s.on fun n => ((n.at time).answer 0#32).startSleep) :=
    (exec_pcrSleepWrite_admitted v h).trans (State.next_on_congr
      (Node.sleepWrite_starts (n := (s.node.at time).answer 0#32) hv hsleep hphase hwake))
  exact ⟨_, hexec, rfl, Node.st_startSleep _⟩

theorem Node.reg_withBoot (n : Node) (boot : BootState) (a : Nat) : { n with boot := boot }.reg a = n.reg a := rfl

theorem Node.fallAsleep_shown (n : Node) (o : Otp) :
    (n.fallAsleep o).boot.sleep = 2 ∧ (n.fallAsleep o).reg Reg.TOP_PD_STATE = 1#32 := by
  refine ⟨rfl, ?_⟩
  unfold Node.fallAsleep
  extract_lets reset off kept dark boot
  have hoff : off.reg Reg.TOP_PD_STATE = 1#32 := Node.reg_setReg_self _ _ _
  have hkept : kept.reg Reg.TOP_PD_STATE = 1#32 := by
    simp only [kept, List.foldl_cons, List.foldl_nil]
    rw [Node.reg_setReg_ne _ _ (by decide), Node.reg_setReg_ne _ _ (by decide), Node.reg_setReg_ne _ _ (by decide), hoff]
  have hdark : dark.reg Reg.TOP_PD_STATE = 1#32 := by
    simp only [dark]
    rw [Node.reg_setReg_ne _ _ (by decide), Node.reg_setReg_ne _ _ (by decide), hkept]
  exact (dark.reg_withBoot _ _).trans hdark

theorem sleepEntry_completes (hsleep : s.node.boot.sleep = 1) (hwakes : s.node.boot.wakes = 0) :
    ∃ t : State, exec (.sleepEntryComplete time) s = .next t ∧ t.node.boot.sleep = 2 ∧ t.node.reg Reg.TOP_PD_STATE = 1#32 ∧
      t.node.sleepN = false := by
  have hexec : exec (.sleepEntryComplete time) s = .next (s.on fun n => (n.at time).fallAsleep s.otp) :=
    exec_on_eq rfl ((if_pos hsleep).trans (if_pos hwakes))
  obtain ⟨hslept, hpd⟩ := (s.node.at time).fallAsleep_shown s.otp
  refine ⟨_, hexec, hslept, hpd, ?_⟩
  rw [State.on_node, Node.sleepN, hslept]
  rfl

theorem exec_wakeEvent_held {sources : Nat} (seconds : Nat) (hwakes : s.node.wakeSources sources ≠ 0) (hsleep : s.node.boot.sleep = 1) :
    exec (.wakeEvent sources seconds) s = .next (s.on fun n =>
      { n with boot := { n.boot with wakes := Nat.lor n.boot.wakes (n.wakeSources sources) } }) :=
  exec_on_eq rfl ((if_neg hwakes).trans (if_pos hsleep))

theorem Node.sleep_resetTo (n : Node) (o : Otp) (kind cause : Nat) : (n.resetTo o kind cause).boot.sleep = 0 := by
  obtain ⟨regs, h⟩ := n.resetTo_stores o kind cause
  rw [h]
  change (n.keptBoot kind cause).sleep = 0
  unfold Node.keptBoot
  split <;> rfl

theorem wakeEvent_wakes {sources : Nat} (seconds : Nat) (hwakes : s.node.wakeSources sources ≠ 0) (hsleep : s.node.boot.sleep = 2) :
    ∃ t : State, exec (.wakeEvent sources seconds) s = .next t ∧ t.node.boot.sleep = 0 ∧ t.node.sleepN = true ∧
      t.node.reg Reg.PCR_WAKE_CAUSE = word (s.node.wakeSources sources) ∧ t.node.reg Reg.PCR_SLEEP_SEC = word seconds ∧
      t.node.reg Reg.PCR_RESET_CAUSE = word (kWake + firstSource (s.node.wakeSources sources) * 256) := by
  have hexec : exec (.wakeEvent sources seconds) s = .next (s.on fun n => n.wakeUp s.otp (n.wakeSources sources) seconds) :=
    exec_on_eq rfl ((if_neg hwakes).trans ((if_neg (by omega)).trans (if_pos hsleep)))
  have hawake : (s.node.wakeUp s.otp (s.node.wakeSources sources) seconds).boot.sleep = 0 := Node.sleep_resetTo _ _ _ _
  refine ⟨_, hexec, hawake, ?_, ?_, Node.reg_setReg_self _ _ _, ?_⟩
  · rw [State.on_node, Node.sleepN, hawake]
    rfl
  · exact (Node.reg_setReg_ne _ _ (by decide)).trans (Node.reg_setReg_self _ _ _)
  · exact (Node.reg_setReg_ne _ _ (by decide)).trans ((Node.reg_setReg_ne _ _ (by decide)).trans (Node.cause_resetTo _ _ _ _))

/-! ### Clocks (R709) -/

theorem exec_pllUnlock_locked {pll : Nat} (hpll : pll < 19) (hlocked : s.node.bit Reg.PCR_PLL_STAT pll = true) :
    exec (.pllUnlock pll time) s = .next (s.on fun n =>
      let m := (((n.at time).setBit Reg.PCR_PLL_STAT pll false).inc Reg.PCR_PLL_UNLOCKS).raise 0x8206 pll
        (if pll = 3 then 2 else if pll = 5 then 3 else if 6 ≤ pll then 4 else 1)
      if pll = 3 then m.pcieDown
      else if pll = 5 then [0, 1, 2, 3].foldl (fun k c => k.showCan c) m
      else if 6 ≤ pll then m.linkGoesDown (pll - 6) [] else m.warmIn 0 4) := by
  have hlocked' : (s.node.at time).bit Reg.PCR_PLL_STAT pll = true := hlocked
  have hgone : ¬ (19 ≤ pll ∨ (!(s.node.at time).bit Reg.PCR_PLL_STAT pll) = true) := by
    rw [hlocked']
    simp
    omega
  refine exec_on_eq rfl ((if_neg hgone).trans ?_)
  dsimp only
  by_cases h3 : pll = 3
  · simp only [if_pos h3]
    rfl
  · by_cases h5 : pll = 5
    · simp only [if_neg h3, if_pos h5]
      rfl
    · by_cases h6 : 6 ≤ pll
      · simp only [if_neg h3, if_neg h5, if_pos h6]
        rfl
      · simp only [if_neg h3, if_neg h5, if_neg h6]
        rfl

theorem exec_pllRelock_lost {pll : Nat} (hpll : pll = 3 ∨ pll = 5 ∨ (6 ≤ pll ∧ pll < 19)) (hlost : s.node.bit Reg.PCR_PLL_STAT pll = false) :
    exec (.pllRelock pll time) s = .next (s.on fun n =>
      if pll = 5 then
        [0, 1, 2, 3].foldl (fun q c => (if q.canOn c then q.onCtl c fun x => { x with integ := true } else q).showCan c)
          ((n.at time).setBit Reg.PCR_PLL_STAT pll true)
      else (n.at time).setBit Reg.PCR_PLL_STAT pll true) := by
  have hlost' : ¬ (s.node.at time).bit Reg.PCR_PLL_STAT pll = true := by
    rw [show (s.node.at time).bit Reg.PCR_PLL_STAT pll = false from hlost]
    decide
  refine exec_on_eq rfl (if_neg ?_)
  rintro (h | h | h | h)
  · omega
  · omega
  · omega
  · exact hlost' h

/-! ### The DRAM loopback (R729) -/

theorem exec_memLoopGoWrite_admitted (v : Word) (h : s.node.admits ctx Reg.MEM_LOOP true = true) :
    exec (.memLoopGoWrite ctx v) s = .next (s.on fun n =>
      if v.toNat.testBit 0 && n.waiting then (n.answer 0#32).setReg Reg.MEM_LOOP 1#32 else n.answer 0#32) :=
  exec_on_eq rfl (Node.access_admitted s.node ctx _ true _ h)

end

/-- Settles O59. -/
theorem sleepClocksAndLoopbackAct : Obligations.SleepClocksAndLoopbackAct := by
  refine ⟨fun s ctx time v h => exec_pcrWarmWrite_admitted v h,
    fun s ctx time v h hv hsleep hphase => ⟨fun hwake => ?_, fun hwake => sleepWrite_sleeps v h hv hsleep hphase hwake⟩,
    fun s time hsleep hwakes => sleepEntry_completes hsleep hwakes,
    fun s sources seconds hwakes => ⟨exec_wakeEvent_held seconds hwakes, wakeEvent_wakes seconds hwakes⟩,
    fun s pll time hpll hlocked => exec_pllUnlock_locked hpll hlocked, fun s pll time hpll hlost => ?_, fun s time hlost => ?_,
    fun s ctx v h => exec_memLoopGoWrite_admitted v h, fun s passed hloop => exec_on_eq rfl (if_pos hloop)⟩
  · exact (exec_pcrSleepWrite_admitted v h).trans (State.next_on_congr
      (Node.sleepWrite_refused (n := (s.node.at time).answer 0#32) hv hsleep hphase hwake))
  · exact (exec_pllRelock_lost (by omega) hlost).trans (State.next_on_congr (if_neg (by omega)))
  · exact exec_pllRelock_lost (pll := 5) (.inr (.inl rfl)) hlost

end Sys2Proof.Machine
end

section
/-! PROOF. Discrete lines (R462 to R471, R474). -/

namespace Sys2Proof.Machine

/-! ### What an edge leaves in place -/

/-- The level of the inputs and the settings and counts of the lines. -/
def lineReg (a : Nat) : Prop := a = Reg.DIO_IN ∨ Reg.DIO_LN_CFG 0 ≤ a

/-- What the reports of an edge leave of a node: the audio state and the registers of levels, settings and counts. -/
structure Node.Reports (n m : Node) : Prop where
  aud : m.aud = n.aud
  reg : ∀ a, lineReg a → m.reg a = n.reg a

namespace Node.Reports

theorem refl (n : Node) : n.Reports n := ⟨rfl, fun _ _ => rfl⟩

theorem trans {n m k : Node} (h : n.Reports m) (h' : m.Reports k) : n.Reports k :=
  ⟨h'.aud.trans h.aud, fun a ha => (h'.reg a ha).trans (h.reg a ha)⟩

theorem raise (n : Node) (code d0 d1 : Nat) : n.Reports (n.raise code d0 d1) := by
  refine ⟨n.raise_aud _ _ _, fun a ha => n.reg_raise_ne _ _ _ ?_⟩
  rintro rfl
  exact absurd ha (by unfold lineReg; decide)

theorem setBit (n : Node) {a : Nat} (i : Nat) (v : Bool) (ha : ¬ lineReg a) : n.Reports (n.setBit a i v) :=
  ⟨rfl, fun b hb => Node.reg_setBits_ne n i 1 _ (by rintro rfl; exact ha hb)⟩

theorem withPd (n : Node) (pd : PdState) : n.Reports { n with pd := pd } := ⟨rfl, fun _ _ => rfl⟩

theorem setStuck (n : Node) (l : Nat) (b : Bool) : n.Reports (n.setStuck l b) := by
  unfold Node.setStuck
  split
  · exact setBit n _ _ (by unfold lineReg; decide)
  · exact setBit n _ _ (by unfold lineReg; decide)

theorem setStorm (n : Node) (l : Nat) (b : Bool) : n.Reports (n.setStorm l b) := by
  unfold Node.setStorm
  split
  · exact setBit n _ _ (by unfold lineReg; decide)
  · exact setBit n _ _ (by unfold lineReg; decide)

theorem stuckRelease (n : Node) (l : Nat) : n.Reports (n.stuckRelease l) := by
  unfold Node.stuckRelease
  split
  · dsimp only
    split
    · exact (setStuck n l false).trans (raise _ _ _ _)
    · exact (setStuck n l false).trans (raise _ _ _ _)
  · exact refl n

theorem syncEdges (n : Node) : n.Reports n.syncEdges := by
  unfold Node.syncEdges
  extract_lets stat w
  have hlen : (word stat :: w).length = 3 := by
    simp only [w]
    split <;> rfl
  refine ⟨Node.setRegs_aud _ _ _, fun a ha => Node.reg_setRegs_out _ _ _ _ ?_⟩
  rw [hlen]
  simp only [lineReg, Reg.DIO_IN, Reg.DIO_LN_CFG, Reg.DIO_EDGE_STAT] at ha ⊢
  omega

theorem edgePush (n : Node) (l : Nat) (active : Bool) (stamp : Word) : n.Reports (n.edgePush l active stamp) := by
  refine trans ?_ (syncEdges _)
  split
  · exact withPd n _
  · split
    · exact (withPd n _).trans (raise _ _ _ _)
    · exact withPd n _

theorem edgeQueue (n : Node) (l : Nat) (stamp : Word) : n.Reports (n.edgeQueue l stamp) := by
  unfold Node.edgeQueue
  split
  · exact edgePush n _ _ _
  · exact refl n

theorem stormCount (n : Node) (l : Nat) : n.Reports (n.stormCount l) := by
  unfold Node.stormCount
  extract_lets x0 x
  split
  · exact withPd n _
  · split
    · exact ((withPd n _).trans (setStorm _ _ _)).trans (raise _ _ _ _)
    · exact withPd n _

end Node.Reports

/-! ### Edges (R463, R464) -/

/-- The node with the new level of an input line and its edge counted. -/
def Node.edgeSeen (n : Node) (l : Nat) (level : Bool) : Node :=
  ((n.setBit Reg.DIO_IN l level).setBit Reg.DIO_RAW l level).inc (Reg.DIO_LN_EDGES l)

theorem Node.lineEdge_input {n : Node} {l : Nat} {level : Bool} (hl : l < 32)
    (hdir : n.fld (Reg.DIO_LN_CFG l) Fld.DIO_LN_CFG_DIR = 0) (hnew : n.lineLevel l ≠ level) :
    (n.edgeSeen l level).Reports (n.lineEdge l level) := by
  unfold Node.lineEdge
  rw [if_neg (by rw [hdir]; simp [hnew]; omega)]
  extract_lets moved counted active
  have hcounted : counted = n.edgeSeen l level := congrArg (fun m : Node => m.inc (Reg.DIO_LN_EDGES l)) (if_pos hl)
  rw [← hcounted]
  have hactive : counted.Reports active := by
    simp only [active]
    split
    · exact Node.Reports.withPd _ _
    · exact Node.Reports.stuckRelease _ _
  exact (hactive.trans (Node.Reports.edgeQueue _ _ _)).trans (Node.Reports.stormCount _ _)

theorem Node.lineEdge_none {n : Node} {l : Nat} {level : Bool}
    (h : 36 ≤ l ∨ n.fld (Reg.DIO_LN_CFG l) Fld.DIO_LN_CFG_DIR = 1) : n.lineEdge l level = n :=
  if_pos (h.imp_right .inl)

theorem Node.in_edgeSeen (n : Node) {l : Nat} (level : Bool) (hl : l < 32) : (n.edgeSeen l level).bit Reg.DIO_IN l = level := by
  have hcount : Reg.DIO_IN ≠ Reg.DIO_LN_EDGES l := by simp only [Reg.DIO_IN, Reg.DIO_LN_EDGES]; omega
  rw [Node.bit, Node.edgeSeen, Node.reg_inc_ne _ hcount, Node.reg_setBit_ne _ _ _ (by decide)]
  exact Node.bit_setBit_self n _ level hl

theorem Node.edges_edgeSeen (n : Node) (l : Nat) (level : Bool) :
    (n.edgeSeen l level).reg (Reg.DIO_LN_EDGES l) = word (min ((n.reg (Reg.DIO_LN_EDGES l)).toNat + 1) 0xFFFFFFFF) := by
  have hin : Reg.DIO_LN_EDGES l ≠ Reg.DIO_IN := by simp only [Reg.DIO_IN, Reg.DIO_LN_EDGES]; omega
  have hraw : Reg.DIO_LN_EDGES l ≠ Reg.DIO_RAW := by simp only [Reg.DIO_RAW, Reg.DIO_LN_EDGES]; omega
  rw [Node.edgeSeen, Node.reg_inc_self, Node.reg_setBit_ne _ _ _ hraw, Node.reg_setBit_ne _ _ _ hin]

/-- A line at which no station listens requests and answers no call. -/
theorem Node.stationLine_none {n : Node} {l : Nat} (h : ∀ x ∈ n.aud.stations, x.line ≠ l ∧ x.answer ≠ l) : n.stationLine l = n := by
  have hline : (n.aud.stations.filter fun x => x.flags.testBit 1 && x.line == l) = [] :=
    List.filter_eq_nil_iff.mpr fun x hx => by simp [(h x hx).1]
  have hanswer : (n.aud.stations.filter fun x => x.cab && x.answer == l && l != 0xFF) = [] :=
    List.filter_eq_nil_iff.mpr fun x hx => by simp [(h x hx).2]
  unfold Node.stationLine
  rw [hline]
  dsimp only [List.foldl_nil]
  rw [hanswer]
  rfl

section
variable {s : State} {line : Nat}

theorem lineEdge_input_moves (time : Nat) (level : Bool) (hline : line < 32)
    (hdir : s.node.fld (Reg.DIO_LN_CFG line) Fld.DIO_LN_CFG_DIR = 0) (hnew : s.node.lineLevel line ≠ level)
    (hstations : ∀ x ∈ s.node.aud.stations, x.line ≠ line ∧ x.answer ≠ line) :
    ∃ t : State, exec (.lineEdge line level time) s = .next t ∧ t.node.lineLevel line = level ∧
      t.node.reg (Reg.DIO_LN_EDGES line) = word (min ((s.node.reg (Reg.DIO_LN_EDGES line)).toNat + 1) 0xFFFFFFFF) := by
  obtain ⟨haud, hreg⟩ := Node.lineEdge_input (n := s.node.at time) hline hdir hnew
  have hnone : ((s.node.at time).lineEdge line level).stationLine line = (s.node.at time).lineEdge line level :=
    Node.stationLine_none (by rw [haud]; exact hstations)
  have hexec : exec (.lineEdge line level time) s = .next (s.on fun n => (n.at time).lineEdge line level) := by
    refine exec_on_eq rfl ?_
    dsimp only
    rw [hnone]
    exact ite_self _
  refine ⟨_, hexec, ?_, ?_⟩
  · rw [State.on_node, Node.lineLevel, if_pos hline, Node.bit, hreg _ (.inl rfl)]
    exact Node.in_edgeSeen _ level hline
  · rw [State.on_node, hreg _ (.inr (by simp only [Reg.DIO_LN_CFG, Reg.DIO_LN_EDGES]; omega))]
    exact Node.edges_edgeSeen _ _ _

theorem exec_lineEdge_none (time : Nat) (level : Bool)
    (h : 36 ≤ line ∨ s.node.fld (Reg.DIO_LN_CFG line) Fld.DIO_LN_CFG_DIR = 1) :
    exec (.lineEdge line level time) s = .next (s.on fun n => n.at time) := by
  refine exec_on_eq rfl ?_
  dsimp only
  rw [Node.lineEdge_none (n := s.node.at time) h]
  exact if_neg (by simp)

end

theorem Node.syncEdges_pd (n : Node) : n.syncEdges.pd = n.pd := Node.setRegs_pd _ _ _

theorem Node.edgePush_room {n : Node} (l : Nat) (active : Bool) (stamp : Word) (hovf : n.pd.edgeOvf = false)
    (hroom : n.pd.edges.length < 256) :
    (n.edgePush l active stamp).pd = { n.pd with edges := n.pd.edges ++ [⟨l, active, false, 0, stamp⟩] } := by
  rw [Node.edgePush, if_neg (by omega), if_neg (by simp [hovf]), Node.syncEdges_pd]

theorem Node.edgePush_full {n : Node} (l : Nat) (active : Bool) (stamp : Word) (hfull : 256 ≤ n.pd.edges.length) :
    (n.edgePush l active stamp).pd = { n.pd with edgeOvf := true, edgeLost := n.pd.edgeLost + 1 } := by
  rw [Node.edgePush, if_pos hfull, Node.syncEdges_pd]

/-! ### Lines that stick, and storms (R465, R466, R471) -/

theorem Node.lineSticks_due {n : Node} {l : Nat} (hl : l < 36) (htime : 0 < n.bits (Reg.DIO_LN_STUCK_T l) 0 10)
    (hactive : n.lineActive l = true) (hfree : n.lineStuck l = false)
    (hdue : (n.line l).activeAt + n.bits (Reg.DIO_LN_STUCK_T l) 0 10 * 1000000000 ≤ n.tm.raw)
    (hdir : n.fld (Reg.DIO_LN_CFG l) Fld.DIO_LN_CFG_DIR = 0) :
    n.lineSticks l = if l < 32 then (n.setStuck l true).raise 0x4910 l (n.bits (Reg.DIO_LN_STUCK_T l) 0 10)
      else (n.setStuck l true).raise 0x8101 (l - 32) (n.bits (Reg.DIO_LN_STUCK_T l) 0 10) := by
  rw [Node.lineSticks]
  exact if_pos ⟨hl, htime, hactive, by rw [hfree]; rfl, hdue, hdir⟩

theorem Node.lineStorm_setStorm (n : Node) {l : Nat} (b : Bool) (hl : l < 36) : (n.setStorm l b).lineStorm l = b := by
  unfold Node.setStorm Node.lineStorm
  split
  · exact Node.bit_setBit_self n _ b (by omega)
  · exact Node.bit_setBit_self n _ b (by omega)

/-- The reports of an edge leave the marks of storms, but for the one that an edge itself begins. -/
theorem Node.lineStorm_raise (n : Node) (code d0 d1 l : Nat) : (n.raise code d0 d1).lineStorm l = n.lineStorm l := by
  unfold Node.lineStorm
  simp only [Node.bit, Node.reg_raise_ne n code d0 d1 (show Reg.DIO_STORM ≠ Reg.EVT_DROP by decide),
    Node.reg_raise_ne n code d0 d1 (show Reg.DIO_WAKE ≠ Reg.EVT_DROP by decide)]

theorem Node.lineStorm_syncEdges (n : Node) (l : Nat) : n.syncEdges.lineStorm l = n.lineStorm l := by
  unfold Node.syncEdges
  extract_lets stat w
  have hlow : ∀ a, a < Reg.DIO_EDGE_STAT → (n.setRegs Reg.DIO_EDGE_STAT (word stat :: w)).reg a = n.reg a := fun a ha =>
    Node.reg_setRegs_out _ _ _ _ (.inl ha)
  unfold Node.lineStorm
  simp only [Node.bit, hlow Reg.DIO_STORM (by decide), hlow Reg.DIO_WAKE (by decide)]

theorem Node.lineStorm_edgeQueue (n : Node) (l : Nat) (stamp : Word) (k : Nat) : (n.edgeQueue l stamp).lineStorm k = n.lineStorm k := by
  unfold Node.edgeQueue
  split
  · refine (Node.lineStorm_syncEdges _ k).trans ?_
    split
    · rfl
    · split
      · exact Node.lineStorm_raise _ _ _ _ k
      · rfl
  · rfl

/-- A storm whose edges have become few ends. -/
theorem stormEnded_ends {s : State} {line time : Nat} (hline : line < 36) (hstorm : s.node.lineStorm line = true)
    (hfew : (((s.node.at time).line line).upTo ((s.node.at time).subNow line - 1)).total ≤ s.node.stormN line / 2) :
    ∃ t : State, exec (.stormEnded line time) s = .next t ∧ t.node.lineStorm line = false := by
  refine ⟨_, rfl, ?_⟩
  rw [State.on_node, if_pos ⟨hline, hstorm, hfew⟩, Node.lineStorm_edgeQueue, Node.lineStorm_raise,
    Node.lineStorm_setStorm _ false hline]

/-! ### Outputs (R468, R470) -/

theorem exec_dlReadbackFail_reports {s : State} {line time : Nat} {level : Bool}
    (hdriven : (s.node.pd.driven.find? fun x => x.1 == line &&
      decide ((s.node.line line).drivenAt + 12000 ≤ max s.node.tm.raw time)) = some (line, level))
    (hfirst : (s.node.line line).readbackBad = false) :
    exec (.dlReadbackFail line time) s = .next (s.on fun n =>
      (((n.at time).setBit Reg.DIO_RB line !level).onLineState line fun y => { y with readbackBad := true }).raise 0x4A05 line
        (b2n level)) := by
  have hdriven' : ((s.node.at time).pd.driven.find? fun x => x.1 == line &&
      decide (((s.node.at time).line line).drivenAt + 12000 ≤ (s.node.at time).tm.raw)) = some (line, level) := hdriven
  have hfirst' : ¬ (((s.node.at time).setBit Reg.DIO_RB line !level).line line).readbackBad = true := by
    rw [show (((s.node.at time).setBit Reg.DIO_RB line !level).line line).readbackBad = false from hfirst]
    decide
  refine exec_on_eq rfl ?_
  dsimp only
  rw [hdriven']
  exact if_neg hfirst'

theorem exec_dioSet_drives {s : State} {c : Cmd} (h : s.node.takes c 0x0405 (.inst instDio) 2 = true) (hline : arg c 0 < 32)
    (hlevel : arg c 1 < 2) (hdir : s.node.fld (Reg.DIO_LN_CFG (arg c 0)) Fld.DIO_LN_CFG_DIR ≠ 0)
    (howner : s.node.fld (Reg.DIO_LN_CFG (arg c 0)) Fld.DIO_LN_CFG_OWNER ≠ 1) :
    exec (.dioSet c) s = .next (s.on fun n =>
      (((n.at c.time).drive (arg c 0) (arg c 1 == 1)).syncDrivers).completes c sOk []) := by
  have hmay : ¬ (32 ≤ arg c 0 ∨ 2 ≤ arg c 1 ∨ (s.node.at c.time).fld (Reg.DIO_LN_CFG (arg c 0)) Fld.DIO_LN_CFG_DIR = 0 ∨
      (s.node.at c.time).fld (Reg.DIO_LN_CFG (arg c 0)) Fld.DIO_LN_CFG_OWNER = 1) := by
    rintro (hbad | hbad | hbad | hbad)
    · omega
    · omega
    · exact hdir hbad
    · exact howner hbad
  refine exec_settles rfl rfl h ?_
  dsimp only
  rw [if_neg hmay]
  rfl

/-- Settles O48. -/
theorem discreteLinesAct : Obligations.DiscreteLinesAct := by
  refine ⟨fun s line time level hline hdir hnew hstations => lineEdge_input_moves time level hline hdir hnew hstations,
    fun s line time level h => exec_lineEdge_none time level h,
    fun n l active stamp hovf => ⟨fun hroom => by rw [Node.edgePush_room l active stamp hovf hroom],
      fun hfull => by rw [Node.edgePush_full l active stamp hfull]; exact ⟨rfl, rfl, rfl⟩⟩,
    fun s line time hline htime hactive hfree hdir hdue => ?_, fun s i time hi htime hactive hfree hdir hdue => ?_,
    fun s line time hline hstorm hfew => stormEnded_ends hline hstorm hfew,
    fun s ctx v h => exec_on_eq rfl (Node.access_admitted s.node ctx _ true _ h),
    fun s ctx v h => exec_on_eq rfl (Node.access_admitted s.node ctx _ true _ h),
    fun s line time level hdriven hfirst => exec_dlReadbackFail_reports hdriven hfirst,
    fun s c => exec_dioSet_drives, fun s c h => exec_settles rfl rfl h rfl⟩
  · refine exec_on_eq rfl ((if_pos hline).trans ?_)
    rw [Node.lineSticks_due (n := s.node.at time) (by omega) htime hactive hfree hdue hdir, if_pos hline]
    rfl
  · refine exec_on_eq rfl ((if_pos hi).trans ?_)
    rw [Node.lineSticks_due (n := s.node.at time) (by omega) htime hactive hfree hdue hdir, if_neg (by omega)]
    rfl

end Sys2Proof.Machine
end

section
/-! PROOF. Test and loopback (R98, R680 to R700). -/

namespace Sys2Proof.Machine

/-! ### Frames that a node hears -/

/-- A frame that a row hears reaches what the row does with it. -/
theorem Node.receive_hears {n : Node} {r : Rx} {kind : Nat} (act : Node → SpineHdr → List Byte → Node) (h : n.hears r kind = true) :
    n.receive r kind act = act (n.heard r) (decodeHdr r.frame.body) (payloadOf r.frame.body) := by
  simp only [Node.hears, Bool.and_eq_true, Option.isNone_iff_eq_none] at h
  obtain ⟨⟨⟨⟨⟨⟨hchecks, hspine⟩, hkind⟩, hcrossed⟩, hlooped⟩, hadmit⟩, hepoch⟩ := h
  have hchecks' : ((n.at r.stamp).echoBack r).rxFail r = none := hchecks
  have hrow : (((n.at r.stamp).echoBack r).rxGood r).isSpine r.frame && (decodeHdr r.frame.body).kind == kind &&
      !((((n.at r.stamp).echoBack r).rxGood r).crossed r.port && kind != 0xA) &&
      !((((n.at r.stamp).echoBack r).rxGood r).looped r.port && kind != 0xC) := by
    simp only [Bool.and_eq_true]
    exact ⟨⟨⟨hspine, hkind⟩, hcrossed⟩, hlooped⟩
  unfold Node.receive
  dsimp only
  rw [hchecks']
  dsimp only
  rw [if_pos hrow]
  by_cases htc : (decodeHdr r.frame.body).tc = 7
  · rw [if_pos htc, if_pos hadmit]
    rfl
  · have hjoined : ¬ (epochChecked kind && r.port != 12 && !(((n.at r.stamp).echoBack r).rxGood r).joined r.port) = true := by
      rw [beq_eq_false_iff_ne.mpr htc, Bool.false_or, Bool.not_eq_true'] at hepoch
      exact fun hbad => Bool.noConfusion (hbad.symm.trans hepoch)
    rw [if_neg htc, if_neg (by simp [hadmit]), if_neg hjoined]
    rfl

/-! ### Loops (R680 to R684) -/

section
variable {s : State} {c : Cmd}

/-- A loop of a depth up to 3 is started at a lane that is not in service, runs no PRBS and has no loop. -/
theorem exec_testLoop_starts (h : s.node.takes c 0x0C02 (.inst instTst) 4 = true) (htarget : arg c 0 < 13) (hdepth : arg c 1 ≤ 3)
    (hms : arg c 2 ≤ 3600000) (hforce : arg c 3 = 0) (hservice : s.node.inService (arg c 0) = false)
    (hprbs : s.node.prbsOn (arg c 0) = false) (hloop : s.node.loopAt (arg c 0) = none) :
    exec (.testLoop c) s = .next (s.on fun n =>
      ((n.at c.time).putLoop (arg c 0) (some ⟨arg c 0, arg c 1, false, max n.tm.raw c.time, arg c 2, 0, 1, false⟩)).waitsFor
        c 12 (arg c 0) []) := by
  have hservice' : (s.node.at c.time).inService (arg c 0) = false := hservice
  have hprbs' : (s.node.at c.time).prbsOn (arg c 0) = false := hprbs
  have hloop' : (s.node.at c.time).loopAt (arg c 0) = none := hloop
  have hdepthFor : depthFor (arg c 0) (arg c 1) = true := by
    simp [depthFor, htarget]
    omega
  refine exec_settles rfl rfl h ?_
  dsimp only
  rw [if_neg (by simp [hdepthFor]; omega), if_neg (by omega), if_neg (by omega), if_neg (by omega), if_neg (by simp [hservice']),
    if_neg (by simp [hprbs']), hloop', hforce]
  dsimp only [Option.any_none]
  rw [if_neg (by decide), if_neg (show ¬ arg c 1 = 5 by omega), if_neg (by omega), if_neg (by omega)]
  rfl

theorem exec_testLoop_inService (h : s.node.takes c 0x0C02 (.inst instTst) 4 = true) (htarget : arg c 0 < 13) (hdepth : arg c 1 ≤ 3)
    (hms : arg c 2 ≤ 3600000) (hforce : arg c 3 = 0) (hservice : s.node.inService (arg c 0) = true) :
    exec (.testLoop c) s = .next (s.on fun n => (n.at c.time).completes c sState []) := by
  have hservice' : (s.node.at c.time).inService (arg c 0) = true := hservice
  have hdepthFor : depthFor (arg c 0) (arg c 1) = true := by
    simp [depthFor, htarget]
    omega
  refine exec_settles rfl rfl h ?_
  dsimp only
  rw [if_neg (by simp [hdepthFor]; omega), if_neg (by omega), if_neg (by omega), if_neg (by omega),
    if_pos ⟨htarget, hservice', by simp [hforce]⟩]
  rfl

/-- A lane set to run the PRBS that a word asks for, or none. -/
def Node.prbsSet (n : Node) (p w : Nat) : Node :=
  let on := w % 4 ≠ 0 ∧ 8 ≤ w
  ((if on then (n.linkGoesDown p []).stopWake p else n).setBits (Reg.TST_PRBS_STAT p) 0 6 (if on then w else 0)).setBit
    Reg.TST_STAT (17 + p) (decide on)

/-- A lane at which nothing is in the way runs the PRBS that is asked for. -/
theorem testPrbs_runs (h : s.node.takes c 0x0C03 (.inst instTst) 2 = true) (hlane : arg c 0 ≤ 12) (hword : arg c 1 ≤ 31)
    (hservice : s.node.inService (arg c 0) = false) (hloop : s.node.loopAt (arg c 0) = none) :
    ∃ k : Node, exec (.testPrbs c) s = .next (s.on fun _ => k.completes c sOk []) ∧
      k.prbsOn (arg c 0) = decide (arg c 1 % 4 ≠ 0 ∧ 8 ≤ arg c 1) := by
  have hservice' : (s.node.at c.time).inService (arg c 0) = false := hservice
  have hloop' : (s.node.at c.time).loopAt (arg c 0) = none := hloop
  refine ⟨(s.node.at c.time).prbsSet (arg c 0) (arg c 1), exec_settles rfl rfl h ?_, Node.bit_setBit_self _ _ _ (by omega)⟩
  dsimp only
  rw [if_neg (by omega), if_neg (by simp [hservice']), hloop']
  dsimp only [Option.any_none]
  rw [if_neg (by decide)]
  rfl

theorem exec_testBist_refused (h : s.node.takes c 0x0C04 (.inst instTst) 1 = true) (hbad : (arg c 0).testBit 5 = true) :
    exec (.testBist c) s = .next (s.on fun n => (n.at c.time).completes c sArgs []) := by
  refine exec_settles rfl rfl h ?_
  rw [if_pos (.inl hbad)]
  rfl

theorem exec_testBist_asks (h : s.node.takes c 0x0C04 (.inst instTst) 1 = true) (hmask : arg c 0 < 2 ^ 24)
    (h5 : (arg c 0).testBit 5 = false) (h6 : (arg c 0).testBit 6 = false) :
    exec (.testBist c) s = .next (s.on fun n =>
      (((n.at c.time).setReg Reg.TST_BIST_REQ (argW c 0)).warmIn 1000000 2).completes c sOk []) := by
  refine exec_settles rfl rfl h ?_
  rw [if_neg (by rw [h5, h6]; simp; omega)]
  rfl

theorem exec_testInject_busy (h : s.node.takes c 0x0C05 (.secure instTst) 4 = true) (hcount : arg c 3 ≤ 255)
    (htarget : s.node.injTargetOk (arg c 0) (arg c 1) = true) (harmed : s.node.injArmed = true) :
    exec (.testInject c) s = .next (s.on fun n => (n.at c.time).completes c sBusy []) := by
  have htarget' : (s.node.at c.time).injTargetOk (arg c 0) (arg c 1) = true := htarget
  have harmed' : (s.node.at c.time).injArmed = true := harmed
  refine exec_settles rfl rfl h ?_
  rw [if_neg (by simp [htarget']; omega), if_pos harmed']
  rfl

theorem exec_testInject_arms (h : s.node.takes c 0x0C05 (.secure instTst) 4 = true) (hcount : arg c 3 ≤ 255)
    (htarget : s.node.injTargetOk (arg c 0) (arg c 1) = true) (hfree : s.node.injArmed = false) :
    exec (.testInject c) s = .next (s.on fun n =>
      (((((n.at c.time).setReg Reg.TST_INJ_CTRL (word (arg c 0 + arg c 3 * 256))).setReg Reg.TST_INJ_TARGET (argW c 1)).setReg
        Reg.TST_INJ_MASK (argW c 2)).injArm).completes c sOk []) := by
  have htarget' : (s.node.at c.time).injTargetOk (arg c 0) (arg c 1) = true := htarget
  have hfree' : (s.node.at c.time).injArmed = false := hfree
  refine exec_settles rfl rfl h ?_
  rw [if_neg (by simp [htarget']; omega), if_neg (by simp [hfree'])]
  rfl

end

/-- While an injection is armed, only `DISARM` acts. -/
theorem Node.injWrite_armed {n : Node} (v : Word) (h : n.injArmed = true) : n.injWrite v = if v.toNat.testBit 4 then n.injOff else n :=
  if_pos h

section
variable {s : State} {target time : Nat} {l : TstLoop}

theorem exec_loopbackActive_idle (hloop : s.node.loopAt target = some l) (hactive : l.active = false) (hdepth : l.depth ≤ 3)
    (hidle : ((s.node.at time).sending target).isSome = false) :
    exec (.loopbackActive target time) s = .next (s.on fun n =>
      (((n.at time).loopEnter l).loopActive l).loopAnswer target sOk []) := by
  have hloop' : (s.node.at time).loopAt target = some l := hloop
  refine exec_on_eq rfl ?_
  dsimp only
  rw [hloop']
  dsimp only
  rw [if_neg (by simp [hactive, hidle]; omega), if_neg (by omega)]

theorem exec_loopDurationExpiry_due (hloop : s.node.loopAt target = some l) (hactive : l.active = true) (hms : 0 < l.ms)
    (hdue : l.since + l.ms * 1000000 ≤ max s.node.tm.raw time) :
    exec (.loopDurationExpiry target time) s = .next (s.on fun n => (n.at time).loopEnd l) := by
  have hloop' : (s.node.at time).loopAt target = some l := hloop
  refine exec_on_eq rfl ?_
  dsimp only
  rw [hloop']
  exact if_pos ⟨hactive, hms, hdue⟩

/-- An enter frame of an ECHO loop is due: the next one, or the end of the loop after the third. -/
theorem exec_echoEnterRetry_due (hloop : s.node.loopAt target = some l) (hactive : l.active = false) (hdepth : l.depth = 5)
    (hdue : l.since + 10000000 * l.tries ≤ max s.node.tm.raw time) :
    exec (.echoEnterRetry target time) s = .next (s.on fun n =>
      if l.tries < 3 then
        ((n.at time).putLoop target (some { l with tries := l.tries + 1 })).echoSend target 1 0 l.ms l.session n.identity
      else ((n.at time).loopEnd l).loopAnswer target sTimeout []) := by
  have hloop' : (s.node.at time).loopAt target = some l := hloop
  have hdue' : l.since + 10000000 * l.tries ≤ (s.node.at time).tm.raw := hdue
  refine exec_on_eq rfl ?_
  dsimp only
  rw [hloop']
  dsimp only
  rw [if_neg (by simp [hactive, hdepth]; omega)]
  rfl

end

/-! ### ECHO at the far end (R686, R687) -/

section
variable {s : State} {r : Rx}

theorem exec_echoEnterReceived_accepts (h : s.node.hears r 0xC = true) (htype : echoType (payloadOf r.frame.body) = 1)
    (hport : r.port ≠ 12) (hloop : (s.node.heard r).loopAt r.port = none) (hprbs : (s.node.heard r).prbsOn r.port = false)
    (hallow : (s.node.heard r).bit Reg.TST_CFG 0 = true) :
    exec (.echoEnterReceived r) s = .next (s.on fun n =>
      let b := payloadOf r.frame.body
      let l : TstLoop := ⟨r.port, 6, true, (n.heard r).tm.raw, beAt b 2 2, echoSession b, 0, false⟩
      ((((n.heard r).echoSend r.port 2 0 (beAt b 2 2) (echoSession b) (beAt b 6 6)).loopEnter l).loopActive l)) := by
  refine exec_on_eq rfl ((Node.receive_hears _ h).trans ?_)
  rw [if_neg (not_not_intro htype)]
  dsimp only
  rw [if_neg hport, if_neg (by simp [hloop, hprbs]), if_neg (by simp [hallow])]

theorem exec_echoReplyReceived_accepted {l : TstLoop} (h : s.node.hears r 0xC = true) (hloop : (s.node.heard r).loopAt r.port = some l)
    (hsession : echoSession (payloadOf r.frame.body) = l.session) (hactive : l.active = false) (hdepth : l.depth = 5)
    (htype : echoType (payloadOf r.frame.body) = 2) :
    exec (.echoReplyReceived r) s = .next (s.on fun n => ((n.heard r).loopActive l).loopAnswer r.port sOk []) := by
  refine exec_on_eq rfl ((Node.receive_hears _ h).trans ?_)
  rw [hloop]
  dsimp only
  rw [if_neg (by simp [hactive, hdepth, hsession]), if_pos htype]

theorem exec_echoExitReceived_ends {l : TstLoop} (h : s.node.hears r 0xC = true) (hloop : (s.node.heard r).loopAt r.port = some l)
    (hsession : echoSession (payloadOf r.frame.body) = l.session) (hdepth : l.depth = 6)
    (htype : echoType (payloadOf r.frame.body) = 4) :
    exec (.echoExitReceived r) s = .next (s.on fun n => (n.heard r).loopEnd l) := by
  refine exec_on_eq rfl ((Node.receive_hears _ h).trans ?_)
  rw [hloop]
  exact if_pos ⟨hdepth, htype, hsession⟩

end

/-! ### PRBS checkers (R690) -/

/-- What a checker counts is not the status of its lane. -/
theorem Node.bit_prbsCount (n : Node) {lane : Nat} (bits errs i : Nat) (hlane : lane ≤ 12) :
    (n.prbsCount lane bits errs).bit (Reg.TST_PRBS_STAT lane) i = n.bit (Reg.TST_PRBS_STAT lane) i := by
  have hreg : (n.prbsCount lane bits errs).reg (Reg.TST_PRBS_STAT lane) = n.reg (Reg.TST_PRBS_STAT lane) := by
    unfold Node.prbsCount
    extract_lets m all keep
    have hm : m.reg (Reg.TST_PRBS_STAT lane) = n.reg (Reg.TST_PRBS_STAT lane) := by
      simp only [m]
      rw [Node.reg_add64_ne _ _ (lo := Reg.TST_PRBS_ERR_LO lane) (by simp only [Reg.TST_PRBS_STAT, Reg.TST_PRBS_ERR_LO]; omega)
          (by simp only [Reg.TST_PRBS_STAT, Reg.TST_PRBS_ERR_LO]; omega),
        Node.reg_add64_ne _ _ (lo := Reg.TST_PRBS_BITS_LO lane) (by simp only [Reg.TST_PRBS_STAT, Reg.TST_PRBS_BITS_LO]; omega)
          (by simp only [Reg.TST_PRBS_STAT, Reg.TST_PRBS_BITS_LO]; omega)]
    have hkeep : ∀ k v, (keep k v).reg (Reg.TST_PRBS_STAT lane) = k.reg (Reg.TST_PRBS_STAT lane) := fun _ _ => rfl
    have hoccur := m.reg_occurIn 0x8903 lane 1000000 (Reg.TST_PRBS_STAT lane)
    split
    · exact hm
    · split
      · next k x hk =>
        rw [hk] at hoccur
        rw [Node.reg_raise_ne _ _ _ _ (by simp only [Reg.TST_PRBS_STAT, Reg.EVT_DROP]; omega), hkeep, hoccur, hm]
      · next k hk =>
        rw [hk] at hoccur
        rw [hkeep, hoccur, hm]
  rw [Node.bit, hreg]
  rfl

section
variable {s : State} {lane bits errs time : Nat}

theorem exec_prbsCheckerLock_checks (hlane : lane ≤ 12) (h : s.node.prbsChecks lane = true) :
    exec (.prbsCheckerLock lane bits errs time) s = .next (s.on fun n =>
      ((n.at time).setBit (Reg.TST_PRBS_STAT lane) 5 true).prbsCount lane bits errs) := by
  have h' : (s.node.at time).prbsChecks lane = true := h
  exact exec_on_eq rfl (if_neg (by simp [h']; omega))

theorem prbsLockLoss_unlocks (hlane : lane ≤ 12) (h : s.node.prbsChecks lane = true)
    (hlocked : s.node.bit (Reg.TST_PRBS_STAT lane) 5 = true) :
    ∃ t : State, exec (.prbsLockLoss lane bits errs time) s = .next t ∧ t.node.bit (Reg.TST_PRBS_STAT lane) 5 = false := by
  have h' : (s.node.at time).prbsChecks lane = true := h
  have hlocked' : (s.node.at time).bit (Reg.TST_PRBS_STAT lane) 5 = true := hlocked
  have hexec : exec (.prbsLockLoss lane bits errs time) s = .next (s.on fun n =>
      (((n.at time).setBit (Reg.TST_PRBS_STAT lane) 5 false).setBits (Reg.TST_PRBS_STAT lane) 16 16
        (min ((n.at time).bits (Reg.TST_PRBS_STAT lane) 16 16 + 1) 65535)).prbsCount lane bits errs) :=
    exec_on_eq rfl (if_neg (by simp [h', hlocked']; omega))
  refine ⟨_, hexec, ?_⟩
  rw [State.on_node, Node.bit_prbsCount _ _ _ _ hlane, Node.bit_eq_bits, Node.bits_setBits_ne _ _ _ _ _ (by decide) (by decide),
    ← Node.bit_eq_bits, Node.bit_setBit_self _ _ _ (by decide)]

end

/-! ### Boundary scan (R98, R696, R697) -/

theorem exec_bypass_selects {s : State} {code : Nat} (hcode : code % 256 ∉ [0x00, 0x01, 0x02, 0x04, 0x08, 0x09, 0x0A])
    (h : code % 256 = 0xFF ∨ s.node.jtagEngines = []) :
    exec (.bypass code) s = .next (s.on fun n => { n with tst := { n.tst with jtag := ⟨code % 256, 0, false⟩ } }) := by
  refine exec_on_eq rfl ((if_neg hcode).trans (if_neg ?_))
  rintro ⟨hother, hengines, -⟩
  rcases h with h | h
  · exact hother h
  · simp [h] at hengines

theorem exec_bypass_debug {s : State} {code : Nat} (hcode : code % 256 ∉ [0x00, 0x01, 0x02, 0x04, 0x08, 0x09, 0x0A])
    (hother : code % 256 ≠ 0xFF) (hengines : s.node.jtagEngines ≠ []) :
    exec (.bypass code) s = .next (s.on fun n =>
      if Config.debugCode (code % 256) then n.jtagScan (code % 256) false else n.jtagSet (code % 256) 0 false) := by
  refine exec_on_eq rfl ((if_neg hcode).trans ?_)
  by_cases hdebug : Config.debugCode (code % 256) = true
  · rw [if_pos ⟨hother, by simp [hengines], hdebug⟩, if_pos hdebug]
  · rw [if_neg (fun hbad => hdebug hbad.2.2), if_neg hdebug]

/-- Settles O57. -/
theorem testsRunAndEnd : Obligations.TestsRunAndEnd := by
  refine ⟨fun s c h => exec_settles rfl rfl h rfl,
    fun s c h htarget hdepth hms hforce => ⟨exec_testLoop_inService h htarget hdepth hms hforce,
      exec_testLoop_starts h htarget hdepth hms hforce⟩,
    fun s c h hlane hword hservice hloop => testPrbs_runs h hlane hword hservice hloop,
    fun s c h hmask => ⟨exec_testBist_refused h, exec_testBist_asks h hmask⟩,
    fun s c h hcount htarget => ⟨exec_testInject_busy h hcount htarget, exec_testInject_arms h hcount htarget⟩,
    fun s ctx v h => ⟨exec_on_eq rfl (Node.access_admitted s.node ctx _ true _ h),
      exec_on_eq rfl (Node.access_admitted s.node ctx _ true _ h)⟩,
    fun n v h => Node.injWrite_armed v h,
    fun s target time l hloop => ⟨exec_loopbackActive_idle hloop, exec_loopDurationExpiry_due hloop,
      fun hactive hdepth hdue => ⟨fun htries => ?_, fun htries => ?_⟩⟩,
    fun s r h htype hport hloop hprbs hallow => exec_echoEnterReceived_accepts h htype hport hloop hprbs hallow,
    fun s r l h hloop hsession => ⟨exec_echoReplyReceived_accepted h hloop hsession,
      exec_echoExitReceived_ends h hloop hsession⟩,
    fun s lane bits errs time hlane h => ⟨exec_prbsCheckerLock_checks hlane h, prbsLockLoss_unlocks hlane h⟩,
    fun s => ⟨rfl, rfl, rfl⟩, fun s => ⟨s.node.free.2.toNat, rfl, rfl, rfl, rfl⟩,
    fun s code hcode => ⟨exec_bypass_selects hcode, exec_bypass_debug hcode⟩⟩
  · exact (exec_echoEnterRetry_due hloop hactive hdepth hdue).trans (State.next_on_congr (if_pos htries))
  · exact (exec_echoEnterRetry_due hloop hactive hdepth hdue).trans (State.next_on_congr (if_neg (by omega)))

end Sys2Proof.Machine
end

section
/-! PROOF. Open traffic, its filter rules and MAC control frames (R160, R162 to R165, R183). -/

namespace Sys2Proof.Machine

/-! ### What the reception of a frame changes of a node (R189, R687) -/

/-- The registers that the reception of a frame on a port may write: its counters, its state, and those of a frame returned. -/
abbrev receptReg (p a : Nat) : Prop :=
  p < 4 ∧ a = portBase p + 4 ∨ portBase p + 0x100 ≤ a ∧ a < portBase p + 0x110 ∨ a = portBase p + 0x14C ∨ a = Reg.JLK_RX_FRM_LO ∨
    a = Reg.JLK_RX_FRM_HI ∨ a = Reg.TST_ECHO_RET p ∨ egressReg a

/-- What the reception of a frame on a port leaves of a node: everything but the registers above, what is sent, the ports' wires and
packet numbers, and the events. -/
structure Node.Hears (p : Nat) (n m : Node) : Prop where
  stores : ∃ regs net ev, m = { n with regs := regs, net := net, ev := ev }
  reg : ∀ a, ¬ receptReg p a → m.reg a = n.reg a
  port : ∀ i, ∃ busy preEnd secPn, m.port i = { n.port i with busy := busy, preEnd := preEnd, secPn := secPn }
  length : m.net.ports.length = n.net.ports.length

namespace Node.Hears

variable {p : Nat}

theorem refl (n : Node) : Node.Hears p n n := ⟨⟨_, _, _, rfl⟩, fun _ _ => rfl, fun _ => ⟨_, _, _, rfl⟩, rfl⟩

theorem trans {n m k : Node} (h : Node.Hears p n m) (h' : Node.Hears p m k) : Node.Hears p n k := by
  refine ⟨?_, fun a ha => (h'.reg a ha).trans (h.reg a ha), fun i => ?_, h'.length.trans h.length⟩
  · obtain ⟨_, _, _, rfl⟩ := h.stores
    obtain ⟨_, _, _, rfl⟩ := h'.stores
    exact ⟨_, _, _, rfl⟩
  · obtain ⟨_, _, _, hm⟩ := h.port i
    obtain ⟨_, _, _, hk⟩ := h'.port i
    rw [hm] at hk
    exact ⟨_, _, _, hk⟩

theorem of_sends {n m : Node} (h : n.Sends m) : Node.Hears p n m := by
  refine ⟨h.stores, fun a ha => h.reg a fun hegress => ha ?_, fun i => ?_, h.length⟩
  · simp only [receptReg, hegress, or_true]
  · obtain ⟨_, _, hm⟩ := h.port i
    exact ⟨_, _, _, hm⟩

theorem setReg (n : Node) {a : Nat} (v : Word) (ha : receptReg p a) : Node.Hears p n (n.setReg a v) :=
  ⟨⟨_, _, _, rfl⟩, fun b hb => Node.reg_setReg_ne n v (by rintro rfl; exact hb ha), fun _ => ⟨_, _, _, rfl⟩, rfl⟩

theorem add64 (n : Node) {a : Nat} (k : Nat) (hlo : receptReg p a) (hhi : receptReg p (a + 4)) : Node.Hears p n (n.add64 a k) := by
  unfold Node.add64 Node.setReg64
  exact (setReg n _ hlo).trans (setReg _ _ hhi)

theorem setFld (n : Node) {a : Nat} (f : Field) (v : Nat) (ha : receptReg p a) : Node.Hears p n (n.setFld a f v) := setReg n _ ha

theorem secPn (n : Node) (pn : Nat) : Node.Hears p n (n.onPort p fun q => { q with secPn := some pn }) := by
  refine ⟨⟨_, _, _, rfl⟩, fun _ _ => rfl, fun i => ?_, n.length_onPort p _⟩
  rw [n.port_onPort]
  split
  · exact ⟨_, _, _, rfl⟩
  · exact ⟨_, _, _, rfl⟩

theorem echoBack (n : Node) (r : Rx) : Node.Hears r.port n (n.echoBack r) := by
  unfold Node.echoBack
  split
  · exact (of_sends (Node.Sends.putOutAt _ _ _ _)).trans (setReg _ _ (.inr (.inr (.inr (.inr (.inr (.inl rfl)))))))
  · exact refl n

/-- A frame that carries a SecTAG passes the checks on a protected port alone (R178). -/
theorem port_of_secTag {n : Node} {r : Rx} (hchecks : n.rxFail r = none) {k pn : Nat} {ok : Bool} (hsec : r.sec = .secTag k pn ok) :
    r.port < 4 := by
  have hfail : n.secFail r = none := by
    unfold Node.rxFail at hchecks
    dsimp only at hchecks
    split at hchecks
    · cases hchecks
    · cases hfcs : r.fcs with
      | stomped => simp [hfcs] at hchecks
      | bad => simp [hfcs] at hchecks
      | good =>
        rw [hfcs] at hchecks
        cases hs : n.secFail r with
        | none => rfl
        | some e => simp [hs] at hchecks
  have hon : n.secOn r.port = true := by
    by_contra hoff
    rw [Node.secFail, if_neg hoff, hsec] at hfail
    cases hfail
  simp only [Node.secOn, isSpinePort, Bool.and_eq_true, decide_eq_true_eq] at hon
  exact hon.1

theorem rxGood {n : Node} {r : Rx} (hchecks : n.rxFail r = none) : Node.Hears r.port n (n.rxGood r) := by
  have hcount : ∀ (m : Node) (o k : Nat), 0x100 ≤ o → o + 4 < 0x110 → Node.Hears r.port m (m.add64 (portBase r.port + o) k) :=
    fun m o k hlo hhi => add64 m k (.inr (.inl (by omega))) (.inr (.inl (by omega)))
  unfold Node.rxGood
  extract_lets p m
  have hm : Node.Hears r.port n m := by
    simp only [m]
    split
    · exact add64 n _ (.inr (.inr (.inr (.inl rfl)))) (.inr (.inr (.inr (.inr (.inl rfl)))))
    · refine ((hcount n 0x100 1 (by decide) (by decide)).trans (hcount _ 0x108 (frameLen r.frame) (by decide) (by decide))).trans ?_
      unfold Node.rxFrags
      split
      · exact setReg _ _ (.inr (.inr (.inl rfl)))
      · exact refl _
  split
  · exact hm
  · next k pn ok hsec => exact (hm.trans (secPn m _)).trans (setFld _ _ _ (.inl ⟨port_of_secTag hchecks hsec, rfl⟩))

end Node.Hears

/-- A frame that has passed the checks at a node, from the node as its time has come. -/
theorem Node.hears_heard {n : Node} {r : Rx} (hchecks : (n.meets r).rxFail r = none) : Node.Hears r.port (n.at r.stamp) (n.heard r) :=
  (Node.Hears.echoBack _ r).trans (Node.Hears.rxGood hchecks)

theorem Node.reg_heard {n : Node} {r : Rx} (hchecks : (n.meets r).rxFail r = none) {a : Nat} (ha : ¬ receptReg r.port a) :
    (n.heard r).reg a = n.reg a :=
  (Node.hears_heard hchecks).reg a ha

/-- The counters of a port lie above the first 256 bytes of a block of 64 KiB. -/
theorem not_receptReg {p a : Nat} (hlow : a % 0x10000 < 0x100) (hblock : a < 0x00800000 ∨ Reg.JLK_RX_FRM_HI < a ∧ a < Reg.TST_CFG)
    (hdrop : a ≠ Reg.TOP_BUF_CTRL_DROP) (hevt : a ≠ Reg.EVT_DROP) : ¬ receptReg p a := by
  simp only [Reg.TST_CFG, Reg.TOP_BUF_CTRL_DROP, Reg.EVT_DROP, Reg.JLK_RX_FRM_HI] at hblock hdrop hevt
  simp only [receptReg, egressReg, portBase, Reg.TST_ECHO_RET, Reg.JLK_RX_FRM_LO, Reg.JLK_RX_FRM_HI, Reg.JLK_TX_FRM_LO,
    Reg.JLK_TX_FRM_HI, Reg.TOP_BUF_CTRL_DROP, Reg.EVT_DROP, Reg.TST_STAT, Reg.TST_INJ_CTRL, Reg.TST_INJ_LEFT, Reg.JLK_XFEED_DROP]
  split <;> omega

theorem Node.st_heard {n : Node} {r : Rx} (hchecks : (n.meets r).rxFail r = none) : (n.heard r).st = n.st := by
  rw [Node.st, Node.fld, Node.reg_heard hchecks (not_receptReg (by decide) (by decide) (by decide) (by decide))]
  rfl

/-! ### Filter rules -/

/-- A write of word 0 of a rule keeps its defined bits, and the count of valid rules follows its valid bit. -/
theorem Node.ruleWrite_first (n : Node) {r : Nat} (v : Word) (hr : r < 8192) :
    n.ruleWrite r 0 v = ((n.setReg (Reg.SPN_FLT r) (v &&& 0x3F#32)).injSram 4 (r * 4) 1).setReg Reg.SPN_FLT_USED
      (word ((n.reg Reg.SPN_FLT_USED).toNat + v.toNat % 2 - (n.reg (Reg.SPN_FLT r)).toNat % 2)) := by
  have hlow : Reg.SPN_FLT r < Reg.TST_STAT := by simp only [Reg.SPN_FLT, Reg.TST_STAT]; omega
  have hused : ((n.setReg (Reg.SPN_FLT r) (v &&& 0x3F#32)).injSram 4 (r * 4) 1).reg Reg.SPN_FLT_USED = n.reg Reg.SPN_FLT_USED := by
    rw [Node.reg_injSram (by decide), Node.reg_setReg_ne _ _ (by simp only [Reg.SPN_FLT, Reg.SPN_FLT_USED]; omega)]
  have hrule : (((n.setReg (Reg.SPN_FLT r) (v &&& 0x3F#32)).injSram 4 (r * 4) 1).rule r 0) % 2 = v.toNat % 2 := by
    rw [Node.rule, Nat.mul_zero, Nat.add_zero, Node.reg_injSram hlow, Node.reg_setReg_self, BitVec.toNat_and,
      show (0x3F#32).toNat = 2 ^ 6 - 1 from rfl, Nat.and_two_pow_sub_one_eq_mod]
    omega
  rw [← hused, ← hrule]
  rfl

section
variable {s : State} {r : Rx}

/-- An open frame that passes the receive checks at a node that is awake goes to the filters. -/
theorem exec_openFrameReceived_filters (hchecks : (s.node.meets r).rxFail r = none)
    (hspine : (s.node.heard r).isSpine r.frame = false) (hcrossed : (s.node.heard r).crossed r.port = false)
    (hecho : (s.node.heard r).echoing r.port = false) (htype : r.frame.etype ≠ 0x8808) (hawake : s.node.boot.sleep = 0) :
    exec (.openFrameReceived r) s = .next (s.on fun n => (n.heard r).openForward r.port r.frame r.room r.stamp) := by
  have hchecks' : ((s.node.at r.stamp).echoBack r).rxFail r = none := hchecks
  have hin : ¬ ((s.node.heard r).isSpine r.frame || (s.node.heard r).crossed r.port || (s.node.heard r).echoing r.port) = true := by
    rw [hspine, hcrossed, hecho]
    decide
  refine exec_on_eq rfl ?_
  rw [if_neg (by omega)]
  dsimp only
  rw [if_neg (show ¬ s.node.boot.sleep = 1 by omega), hchecks']
  exact (if_neg hin).trans (if_neg htype)

end

/-- The rule that a frame meets counts its hit. -/
def Node.ruleHit (n : Node) (k : Nat) : Node := n.inc (Reg.SPN_FLT k + 28)

/-- The class in which a rule forwards a frame. -/
def Node.ruleClass (n : Node) (k : Nat) (f : Frame) : Nat :=
  let w0 := (n.reg (Reg.SPN_FLT k)).toNat
  if w0.testBit 3 then bitsOf w0 4 2 else pcpClass f

/-- The ports on which a rule forwards a frame of a port. -/
def Node.ruleOuts (n : Node) (k ingress : Nat) : List Nat :=
  (List.range 15).filter fun p => ((n.rule k 1).testBit (16 + p) || (p == localPort && ((n.reg (Reg.SPN_FLT k)).toNat).testBit 2)) &&
    p != ingress

section
variable {n : Node} {ingress room stamp k : Nat} {f : Frame}

theorem Node.openForward_none (h : ∀ k ∈ n.validRules, n.ruleMatches k ingress f = false) :
    n.openForward ingress f room stamp = n.clsDrop ingress (pcpClass f) := by
  have hnone : (n.validRules.find? fun k => n.ruleMatches k ingress f) = none :=
    List.find?_eq_none.mpr fun k hk => by rw [h k hk]; decide
  rw [Node.openForward, hnone]

theorem Node.openForward_discards (h : (n.validRules.find? fun k => n.ruleMatches k ingress f) = some k)
    (hdiscard : (n.reg (Reg.SPN_FLT k)).toNat.testBit 1 = true) : n.openForward ingress f room stamp = n.ruleHit k := by
  rw [Node.openForward, h]
  exact if_pos hdiscard

theorem Node.openForward_full (h : (n.validRules.find? fun k => n.ruleMatches k ingress f) = some k)
    (hkeep : (n.reg (Reg.SPN_FLT k)).toNat.testBit 1 = false) (hfull : room < frameCells f) :
    n.openForward ingress f room stamp = ((n.ruleHit k).openAdmit ingress (n.ruleClass k f) room (frameCells f)).1 := by
  have hno : ∀ m : Node, ∀ cls, m.openAdmit ingress cls room (frameCells f) = ((m.openAdmit ingress cls room (frameCells f)).1, false) :=
    fun m cls => Prod.ext rfl (by rw [Node.openAdmit]; dsimp only; rw [if_pos hfull])
  have hkeep' : ¬ (n.rule k 0).testBit 1 = true := fun hbad => Bool.noConfusion (hkeep.symm.trans hbad)
  rw [Node.openForward, h]
  dsimp only
  rw [if_neg hkeep', hno]
  rfl

theorem Node.openForward_forwards (h : (n.validRules.find? fun k => n.ruleMatches k ingress f) = some k)
    (hkeep : (n.reg (Reg.SPN_FLT k)).toNat.testBit 1 = false) (hst : stListen ≤ n.st) (hroom : frameCells f ≤ room) :
    n.openForward ingress f room stamp = (n.ruleOuts k ingress).foldl (fun g p =>
      if p = 13 then g.toHosts ingress f stamp
      else if p = localPort ∨ g.looped p then g.putOut p f
      else g.sendFrom ingress p (n.ruleClass k f) f) ((n.ruleHit k).openAdmit ingress (n.ruleClass k f) room (frameCells f)).1 := by
  have hyes : ∀ m : Node, ∀ cls, m.openAdmit ingress cls room (frameCells f) = ((m.openAdmit ingress cls room (frameCells f)).1, true) :=
    fun m cls => Prod.ext rfl (by rw [Node.openAdmit]; dsimp only; rw [if_neg (by omega)])
  have hkeep' : ¬ (n.rule k 0).testBit 1 = true := fun hbad => Bool.noConfusion (hkeep.symm.trans hbad)
  rw [Node.openForward, h]
  dsimp only
  rw [if_neg hkeep', hyes]
  dsimp only
  rw [if_neg (by decide), if_neg (by omega)]
  rfl

end

/-- Settles O28. -/
theorem openTrafficIsFiltered : Obligations.OpenTrafficIsFiltered := by
  refine ⟨fun s ctx r v hr h => ?_, fun s r hchecks hspine hcrossed hecho htype hawake => ?_, fun s r hchecks hport htype => ?_⟩
  · refine exec_on_eq rfl ((Node.access_admitted s.node ctx _ true _ h).trans ?_)
    exact Node.ruleWrite_first (s.node.answer 0#32) v hr
  · have hexec := exec_openFrameReceived_filters hchecks hspine hcrossed hecho htype hawake
    refine ⟨fun hnone => hexec.trans (State.next_on_congr (Node.openForward_none hnone)),
      fun k hk hdiscard => hexec.trans (State.next_on_congr (Node.openForward_discards hk hdiscard)),
      fun k hk hkeep hst hroom => hexec.trans (State.next_on_congr (Node.openForward_forwards hk hkeep ?_ hroom)),
      fun k hk hkeep hfull => hexec.trans (State.next_on_congr (Node.openForward_full hk hkeep hfull))⟩
    rw [Node.st_heard hchecks]
    exact hst
  · have hchecks' : ((s.node.at r.stamp).echoBack r).rxFail r = none := hchecks
    refine exec_on_eq rfl ?_
    dsimp only
    rw [hchecks']
    dsimp only
    rw [if_pos htype]
    exact if_neg (by omega)

end Sys2Proof.Machine
end

section
/-! PROOF. Claims and the election of the master (R257 to R265, R324). -/

namespace Sys2Proof.Machine

/-! ### The state and the mastership in `INA_STATE` -/

theorem Node.fld_withPd (n : Node) (pd : PdState) (a : Nat) (f : Field) : { n with pd := pd }.fld a f = n.fld a f := rfl

theorem Node.fld_withIna (n : Node) (ina : InaState) (a : Nat) (f : Field) : { n with ina := ina }.fld a f = n.fld a f := rfl

/-- A field of `INA_STATE` beside the state stays when the node passes to another. -/
theorem Node.fld_setSt_ne (n : Node) (st : Nat) {f : Field} (hf : 3 ≤ f.lo ∧ f.lo + f.width ≤ 32) :
    (n.setSt st).fld Reg.INA_STATE f = n.fld Reg.INA_STATE f := by
  have hshown : (n.showSt st).fld Reg.INA_STATE f = n.fld Reg.INA_STATE f := by
    unfold Node.showSt
    extract_lets limits safe shown active pd since ina
    have hsafe : safe.fld Reg.INA_STATE f = n.fld Reg.INA_STATE f := by
      have hlimits : limits.fld Reg.INA_STATE f = n.fld Reg.INA_STATE f := by
        simp only [limits]
        split
        · rfl
        · rfl
      simp only [safe]
      split
      · rw [Node.fld, (Node.Presents.safeAll limits).reg _ (by decide) (by decide)]
        exact hlimits
      · exact hlimits
    have hset : shown.fld Reg.INA_STATE f = n.fld Reg.INA_STATE f :=
      (Node.fld_setFld_ne _ _ Fld.INA_STATE_STATE _ _ (by omega) (.inr hf.1)).trans hsafe
    have hactive : active.fld Reg.INA_STATE f = n.fld Reg.INA_STATE f := by
      rw [Node.fld, (Node.Presents.setBit shown 31 _ (by decide)).reg _ (by decide) (by decide)]
      exact hset
    have hsince : since.fld Reg.INA_STATE f = n.fld Reg.INA_STATE f := by
      simp only [since]
      split
      · exact hactive
      · exact (active.fld_withPd _ _ _).trans hactive
    exact (since.fld_withIna _ _ _).trans hsince
  unfold Node.setSt
  dsimp only
  split
  · exact hshown
  · rw [Node.fld, Node.reg_pdStart _ _ (by decide)]
    exact hshown

theorem Node.st_setFld_ne (n : Node) {f : Field} (v : Nat) (hf : 3 ≤ f.lo) : (n.setFld Reg.INA_STATE f v).st = n.st :=
  Node.fld_setFld_ne n _ f Fld.INA_STATE_STATE v (by decide) (.inl hf)

theorem Node.st_setTs (n : Node) (ts : Nat) : (n.setTs ts).st = n.st := by
  unfold Node.setTs
  extract_lets held m shown synced
  have hm : m.st = n.st := by
    simp only [m]
    split <;> rfl
  have hshown : shown.st = n.st := by
    rw [Node.st, Node.fld, Node.reg_setFld_ne _ _ _ (by decide)]
    exact hm
  exact (Node.st_setFld_ne _ _ (by decide)).trans hshown

theorem Node.st_toListen (n : Node) : n.toListen.st = stListen := n.st_setSt (by decide)

/-- A node that goes to LISTEN starts its listening time, and its claim is gone. -/
theorem Node.ina_toListen (n : Node) : n.toListen.ina = { n.ina with
    entered := n.tm.raw, waitFrom := n.tm.raw, claims := 0, hold := false, result := none, parts := [] } := by
  obtain ⟨_, _, _, _, h⟩ := n.setSt_stores stListen
  unfold Node.toListen
  rw [h]

theorem Node.tm_toListen (n : Node) : n.toListen.tm = n.tm := by
  obtain ⟨_, _, _, _, h⟩ := n.setSt_stores stListen
  unfold Node.toListen
  rw [h]

theorem Node.reg_toListen (n : Node) {a : Nat} (ha : a < Reg.PDT_CFG) (hstate : a ≠ Reg.INA_STATE) (hegress : ¬ egressReg a) :
    n.toListen.reg a = n.reg a := n.reg_setSt stListen ha hstate hegress

/-! ### Waiting and claiming (R258, R261 to R263) -/

section
variable {s : State} {time : Nat}

theorem linkWaitExpiry_listens (hst : s.node.st = stLink) (hwait : s.node.bits Reg.INA_LINK_WAIT 0 16 ≠ 0)
    (hdue : s.node.ina.entered + 1000000 * s.node.bits Reg.INA_LINK_WAIT 0 16 ≤ max s.node.tm.raw time) :
    ∃ t : State, exec (.linkWaitExpiry time) s = .next t ∧ t.node.st = stListen ∧
      t.node.ina.waitFrom = max s.node.tm.raw time ∧ t.node.ina.claims = 0 ∧ t.node.ina.hold = false := by
  have hexec : exec (.linkWaitExpiry time) s = .next (s.on fun n => (n.at time).toListen) :=
    exec_on_eq rfl (if_pos ⟨hst, hwait, hdue⟩)
  refine ⟨_, hexec, Node.st_toListen _, ?_⟩
  rw [State.on_node, Node.ina_toListen]
  exact ⟨rfl, rfl, rfl⟩

theorem exec_linkWaitExpiry_early (h : s.node.bits Reg.INA_LINK_WAIT 0 16 = 0 ∨
      max s.node.tm.raw time < s.node.ina.entered + 1000000 * s.node.bits Reg.INA_LINK_WAIT 0 16) :
    exec (.linkWaitExpiry time) s = .next (s.on fun n => n.at time) := by
  refine exec_on_eq rfl (if_neg ?_)
  rintro ⟨-, hwait, hdue⟩
  exact h.elim hwait fun hearly => absurd hearly (Nat.not_lt.mpr hdue)

theorem listenWaitExpiry_claims (hst : s.node.st = stListen) (hlistened : (s.node.at time).listened = true)
    (hcandidate : s.node.candidate = true) (hbest : (s.node.at time).betterHeld = false) :
    ∃ t : State, exec (.listenWaitExpiry time) s = .next t ∧ t.node.st = stClaim ∧ t.node.ina.claims = 0 ∧
      t.node.ina.claimFrom = max s.node.tm.raw time := by
  have hexec : exec (.listenWaitExpiry time) s = .next (s.on fun n =>
      let k := (n.at time).setSt stClaim
      { k with ina := { k.ina with claims := 0, claimFrom := k.tm.raw, hold := false } }) :=
    exec_on_eq rfl ((if_pos ⟨hst, hlistened⟩).trans (if_pos ⟨hcandidate, by rw [hbest]; rfl⟩))
  refine ⟨_, hexec, (s.node.at time).st_setSt (by decide), rfl, ?_⟩
  obtain ⟨_, _, _, _, h⟩ := (s.node.at time).setSt_stores stClaim
  rw [State.on_node, h]
  rfl

theorem exec_listenWaitExpiry_afresh (hst : s.node.st = stListen) (hlistened : (s.node.at time).listened = true)
    (hcandidate : s.node.candidate = false) :
    exec (.listenWaitExpiry time) s = .next (s.on fun n => { n.at time with ina := { n.ina with waitFrom := max n.tm.raw time } }) := by
  have hno : ¬ ((s.node.at time).candidate = true ∧ (!(s.node.at time).betterHeld) = true) := by
    rw [show (s.node.at time).candidate = false from hcandidate]
    rintro ⟨h, -⟩
    cases h
  exact exec_on_eq rfl ((if_pos ⟨hst, hlistened⟩).trans (if_neg hno))

/-- A node with one claim more sent. -/
def Node.claimCounted (n : Node) : Node :=
  let k := n.inc Reg.INA_CLAIMS
  { k with ina := { k.ina with claims := k.ina.claims + 1 } }

theorem claimSend_sends (hst : s.node.st = stClaim) :
    ∃ t : State, exec (.claimSend time) s = .next t ∧ t.node.ina.claims = s.node.ina.claims + 1 ∧
      t.node.reg Reg.INA_CLAIMS = word (min ((s.node.reg Reg.INA_CLAIMS).toNat + 1) 0xFFFFFFFF) ∧ t.node.st = stClaim := by
  have hclaiming : (s.node.at time).claiming = true := by
    rw [Node.claiming, show (s.node.at time).st = stClaim from hst]
    rfl
  have hcounted : (s.node.at time).claimCounted.st = stClaim := by
    have hst' : ((s.node.at time).inc Reg.INA_CLAIMS).st = stClaim := by
      rw [Node.st, Node.fld, Node.reg_inc_ne _ (by decide)]
      exact hst
    exact hst'
  have hclaims : (s.node.at time).claimCounted.reg Reg.INA_CLAIMS = word (min ((s.node.reg Reg.INA_CLAIMS).toNat + 1) 0xFFFFFFFF) :=
    Node.reg_inc_self _ _
  refine ⟨_, exec_on_eq (g := fun n => (n.at time).claimCounted.originate _ _ _) rfl (if_pos hclaiming), ?_⟩
  have hsends := Node.Sends.originate (s.node.at time).claimCounted ((s.node.at time).claimCounted.hdr 0x4)
    (encBE 1 ((s.node.at time).claimCounted.fld Reg.INA_CFG Fld.INA_CFG_RANK) ++ encBE 1 (b2n (s.node.at time).claimCounted.ina.hold) ++
      encBE 6 (s.node.at time).claimCounted.identity ++ encBE 1 ((s.node.at time).claimCounted.fld Reg.CYC_CFG Fld.CYC_CFG_CODE) ++
      zeros 3 ++ encBE 4 (s.node.at time).claimCounted.ina.claims) (s.node.at time).claimCounted.member
  refine ⟨?_, (hsends.reg _ (by decide)).trans hclaims, ?_⟩
  · obtain ⟨_, _, _, h⟩ := hsends.stores
    exact congrArg (fun m : Node => m.ina.claims) h
  · exact (hsends.fld (by decide) _).trans hcounted

theorem exec_claimSend_silent (h : s.node.claiming = false) : exec (.claimSend time) s = .next (s.on fun n => n.at time) := by
  refine exec_on_eq rfl (if_neg ?_)
  rw [show (s.node.at time).claiming = false from h]
  decide

end

/-! ### Claims heard (R264, R265) -/

theorem Node.bestClaim_congr {n m : Node} (hheard : m.ina.claimsHeard = n.ina.claimsHeard) (hraw : m.tm.raw = n.tm.raw) :
    m.bestClaim = n.bestClaim := by
  rw [Node.bestClaim, Node.bestClaim, hheard, hraw]

/-- A claim above every other that is held is the best one, and is shown. -/
theorem Node.bestClaim_holdClaim {n : Node} {v : Nat} (hbest : ∀ w, n.bestClaim = some w → w ≤ v) :
    (n.holdClaim v).bestClaim = some v ∧ (n.holdClaim v).reg Reg.INA_BEST_CLAIM_LO = word v := by
  have hheld : ((n.ina.claimsHeard.filter (fun (x : Nat × Nat) => decide (n.tm.raw ≤ x.2 + 1000000)) ++ [(v, n.tm.raw)]).filter
      fun x => decide (n.tm.raw ≤ x.2 + 1000000)) =
      n.ina.claimsHeard.filter (fun x => decide (n.tm.raw ≤ x.2 + 1000000)) ++ [(v, n.tm.raw)] := by
    simp [List.filter_append]
  have hmax : ({ n with ina := { n.ina with
      claimsHeard := n.ina.claimsHeard.filter (fun (x : Nat × Nat) => decide (n.tm.raw ≤ x.2 + 1000000)) ++ [(v, n.tm.raw)] } }).bestClaim =
      some v := by
    rw [Node.bestClaim, hheld, List.map_append, List.max?_eq_some_iff]
    refine ⟨by simp, fun b hb => ?_⟩
    rcases List.mem_append.mp hb with hb | hb
    · cases hw : n.bestClaim with
      | none =>
        rw [Node.bestClaim, List.max?_eq_none_iff] at hw
        rw [hw] at hb
        cases hb
      | some w => exact ((List.max?_eq_some_iff.mp hw).2 b hb).trans (hbest w hw)
    · exact (List.mem_singleton.mp hb).le
  refine ⟨hmax, ?_⟩
  unfold Node.holdClaim
  dsimp only
  rw [hmax, Node.reg_setReg_ne _ _ (by decide), Node.reg_setReg_self]
  rfl

theorem Node.st_holdClaim (n : Node) (v : Nat) : (n.holdClaim v).st = n.st := by
  unfold Node.holdClaim
  dsimp only
  rw [Node.st, Node.fld, Node.reg_setReg_ne _ _ (by decide), Node.reg_setReg_ne _ _ (by decide)]
  rfl

/-- The claim that a frame carries. -/
def claimOf (r : Rx) : Nat := byteAt (payloadOf r.frame.body) 0 * 2 ^ 48 + beAt (payloadOf r.frame.body) 2 6

theorem checks_of_hears {n : Node} {r : Rx} {kind : Nat} (h : n.hears r kind = true) : (n.meets r).rxFail r = none := by
  simp only [Node.hears, Bool.and_eq_true, Option.isNone_iff_eq_none] at h
  exact h.1.1.1.1.1.1

/-- The claimant's own value does not change as it hears a frame. -/
theorem Node.claimValue_heard {n : Node} {r : Rx} (hchecks : (n.meets r).rxFail r = none) : (n.heard r).claimValue = n.claimValue := by
  have hreg : ∀ a, a % 0x10000 < 0x100 → a < 0x00800000 ∨ Reg.JLK_RX_FRM_HI < a ∧ a < Reg.TST_CFG → a ≠ Reg.TOP_BUF_CTRL_DROP →
      a ≠ Reg.EVT_DROP → (n.heard r).reg a = n.reg a := fun a hlow hblock hdrop hevt =>
    Node.reg_heard hchecks (not_receptReg hlow hblock hdrop hevt)
  rw [Node.claimValue, Node.claimValue, Node.identity, Node.identity, Node.fld, Node.fld,
    hreg Reg.INA_CFG (by decide) (by decide) (by decide) (by decide),
    hreg Reg.TOP_NODE_ID_HI (by decide) (by decide) (by decide) (by decide),
    hreg Reg.TOP_NODE_ID_LO (by decide) (by decide) (by decide) (by decide)]

theorem Node.identity_heard {n : Node} {r : Rx} (hchecks : (n.meets r).rxFail r = none) : (n.heard r).identity = n.identity := by
  rw [Node.identity, Node.identity,
    Node.reg_heard hchecks (not_receptReg (a := Reg.TOP_NODE_ID_HI) (by decide) (by decide) (by decide) (by decide)),
    Node.reg_heard hchecks (not_receptReg (a := Reg.TOP_NODE_ID_LO) (by decide) (by decide) (by decide) (by decide))]

/-- What a node does with its own claim when it has heard one: a claimant that has heard a better one stops. -/
def Node.claimStops (m : Node) (better : Prop) [Decidable better] : Node :=
  if better then if m.st = stClaim then m.toListen else m.dropClaim else m

theorem Node.claimStops_best (m : Node) (better : Prop) [Decidable better] :
    (m.claimStops better).bestClaim = m.bestClaim ∧ (m.claimStops better).reg Reg.INA_BEST_CLAIM_LO = m.reg Reg.INA_BEST_CLAIM_LO ∧
    (better → m.st = stClaim → (m.claimStops better).st = stListen) := by
  unfold Node.claimStops
  split
  · split
    · refine ⟨Node.bestClaim_congr ?_ ?_, Node.reg_toListen _ (by decide) (by decide) (by decide), fun _ _ => m.st_toListen⟩
      · rw [Node.ina_toListen]
      · rw [Node.tm_toListen]
    · next hno => exact ⟨rfl, rfl, fun _ hst => absurd hst hno⟩
  · next hno => exact ⟨rfl, rfl, fun hbetter => absurd hbetter hno⟩

/-- The best claim held and shown and the state stay as frames are sent. -/
theorem Node.Sends.bestClaim {n m : Node} (h : n.Sends m) :
    m.bestClaim = n.bestClaim ∧ m.reg Reg.INA_BEST_CLAIM_LO = n.reg Reg.INA_BEST_CLAIM_LO ∧ m.st = n.st := by
  refine ⟨?_, h.reg _ (by decide), h.fld (by decide) _⟩
  obtain ⟨_, _, _, rfl⟩ := h.stores
  rfl

theorem claimReceived_best {s : State} {r : Rx} (h : s.node.hears r 0x4 = true) (hst : stListen ≤ s.node.st)
    (hother : beAt (payloadOf r.frame.body) 2 6 ≠ s.node.identity) (hbest : ∀ w, (s.node.heard r).bestClaim = some w → w ≤ claimOf r) :
    ∃ t : State, exec (.claimReceived r) s = .next t ∧ t.node.bestClaim = some (claimOf r) ∧
      t.node.reg Reg.INA_BEST_CLAIM_LO = word (claimOf r) ∧
      (s.node.st = stClaim → s.node.claimValue < claimOf r → t.node.st = stListen) := by
  have hchecks := checks_of_hears h
  have hgst : (s.node.heard r).st = s.node.st := Node.st_heard hchecks
  have hgo : ¬ ((s.node.heard r).st < stListen ∨ beAt (payloadOf r.frame.body) 2 6 = (s.node.heard r).identity) := by
    rw [hgst, Node.identity_heard hchecks]
    rintro (hlow | hown)
    · omega
    · exact hother hown
  have hvalue : (s.node.heard r).claimValue = s.node.claimValue := Node.claimValue_heard hchecks
  refine ⟨_, exec_on_eq (g := fun _ => _) rfl ((Node.receive_hears _ h).trans (if_neg hgo)), ?_⟩
  rw [State.on_node, ← hgst, ← hvalue]
  generalize s.node.heard r = g at hbest
  extract_lets best ina heard held sent
  have hheard : heard.bestClaim = g.bestClaim ∧ heard.st = g.st := by
    simp only [heard]
    split <;> exact ⟨rfl, rfl⟩
  obtain ⟨hmax, hshown⟩ := Node.bestClaim_holdClaim (n := heard) (v := claimOf r) (by rw [hheard.1]; exact hbest)
  have hsent : sent.bestClaim = some (claimOf r) ∧ sent.reg Reg.INA_BEST_CLAIM_LO = word (claimOf r) ∧ sent.st = g.st := by
    have hheldSt : held.st = g.st := (heard.st_holdClaim _).trans hheard.2
    simp only [sent]
    split
    · obtain ⟨hb, hr, hs⟩ := (Node.Sends.forwardLine held r (g.rxLine r (decodeHdr r.frame.body))).bestClaim
      exact ⟨hb.trans hmax, hr.trans hshown, hs.trans hheldSt⟩
    · exact ⟨hmax, hshown, hheldSt⟩
  obtain ⟨hb, hr, hs⟩ := sent.claimStops_best (g.claiming = true ∧ g.claimValue < claimOf r)
  refine ⟨hb.trans hsent.1, hr.trans hsent.2.1, fun hclaim hlt => hs ⟨?_, hlt⟩ (hsent.2.2.trans hclaim)⟩
  rw [Node.claiming, hclaim]
  rfl

/-! ### The election (R257, R265, R324) -/

theorem Node.reg_setTs (n : Node) (ts : Nat) {a : Nat} (htime : a ≠ Reg.TMB_STATE) (hstate : a ≠ Reg.INA_STATE) :
    (n.setTs ts).reg a = n.reg a := by
  unfold Node.setTs
  extract_lets held m shown synced
  have hm : m.reg a = n.reg a := by
    simp only [m]
    split <;> rfl
  exact (Node.reg_setFld_ne _ _ _ hstate).trans ((Node.reg_setFld_ne _ _ _ htime).trans hm)

theorem Node.ts_setTs (n : Node) {ts : Nat} (hts : ts < 8) : (n.setTs ts).ts = ts := by
  unfold Node.setTs
  extract_lets held m shown synced
  have hshown : shown.ts = ts := (Node.fld_setFld_self _ _ _ _ (by decide)).trans (Nat.mod_eq_of_lt hts)
  rw [Node.ts, Node.fld, Node.reg_setFld_ne _ _ _ (by decide)]
  exact hshown

/-- The mastership stays as the time state changes. -/
theorem Node.master_setTs (n : Node) (ts : Nat) : (n.setTs ts).master = n.master := by
  unfold Node.setTs
  extract_lets held m shown synced
  have hm : m.master = n.master := by
    simp only [m]
    split <;> rfl
  have hshown : shown.master = n.master := by
    rw [Node.master, Node.fld, Node.reg_setFld_ne _ _ _ (by decide)]
    exact hm
  refine Eq.trans ?_ hshown
  rw [Node.master, Node.fld_setFld_ne _ _ Fld.INA_STATE_SYNCED Fld.INA_STATE_MASTER _ (by decide) (by decide)]
  rfl

theorem Node.master_setSt (n : Node) (st : Nat) : (n.setSt st).master = n.master := by
  rw [Node.master, Node.fld_setSt_ne n st (by decide)]
  rfl

/-- The identity of the master that is set is the one in its claim value. -/
theorem Node.masterId_setMaster (n : Node) (rank : Nat) {identity : Nat} (h : identity < 2 ^ 48) :
    (n.setMaster (rank * 2 ^ 48 + identity)).masterId = identity := by
  rw [Node.masterId, Node.bits, Node.setMaster, Node.reg_setReg_self, Node.reg_setReg_ne _ _ (by decide), Node.reg_setReg_self,
    word_toNat, word_toNat, bitsOf]
  omega

theorem Node.masterId_congr {n m : Node} (hlo : m.reg Reg.INA_MASTER_ID_LO = n.reg Reg.INA_MASTER_ID_LO)
    (hhi : m.reg Reg.INA_MASTER_ID_HI = n.reg Reg.INA_MASTER_ID_HI) : m.masterId = n.masterId := by
  rw [Node.masterId, Node.masterId, Node.bits, Node.bits, hlo, hhi]

/-- The node is master, in a state, and shows an identity as the master's. -/
structure Node.Leads (n : Node) (st identity : Nat) : Prop where
  st : n.st = st
  master : n.master = true
  masterId : n.masterId = identity

theorem Node.Leads.congr {n m : Node} {st identity : Nat} (h : n.Leads st identity) (hstate : m.reg Reg.INA_STATE = n.reg Reg.INA_STATE)
    (hlo : m.reg Reg.INA_MASTER_ID_LO = n.reg Reg.INA_MASTER_ID_LO) (hhi : m.reg Reg.INA_MASTER_ID_HI = n.reg Reg.INA_MASTER_ID_HI) :
    m.Leads st identity := by
  refine ⟨?_, ?_, (Node.masterId_congr hlo hhi).trans h.masterId⟩
  · rw [Node.st, Node.fld, hstate]
    exact h.st
  · rw [Node.master, Node.fld, hstate]
    exact h.master

theorem Node.Leads.setFld {n : Node} {st identity : Nat} (h : n.Leads st identity) {a : Nat} (f : Field) (v : Nat)
    (ha : a < Reg.INA_STATE ∨ Reg.INA_MASTER_ID_HI < a) : (n.setFld a f v).Leads st identity := by
  simp only [Reg.INA_STATE, Reg.INA_MASTER_ID_HI] at ha
  exact h.congr (Node.reg_setFld_ne _ _ _ (by simp only [Reg.INA_STATE]; omega))
    (Node.reg_setFld_ne _ _ _ (by simp only [Reg.INA_MASTER_ID_LO]; omega))
    (Node.reg_setFld_ne _ _ _ (by simp only [Reg.INA_MASTER_ID_HI]; omega))

theorem Node.Leads.setTs {n : Node} {st identity : Nat} (h : n.Leads st identity) (ts : Nat) : (n.setTs ts).Leads st identity :=
  ⟨(n.st_setTs ts).trans h.st, (n.master_setTs ts).trans h.master,
    (Node.masterId_congr (n.reg_setTs ts (by decide) (by decide)) (n.reg_setTs ts (by decide) (by decide))).trans h.masterId⟩

theorem Node.Leads.setSt {n : Node} {st identity : Nat} (h : n.Leads st identity) {st' : Nat} (hst : st' < 8) :
    (n.setSt st').Leads st' identity :=
  ⟨n.st_setSt hst, (n.master_setSt st').trans h.master,
    (Node.masterId_congr (n.reg_setSt st' (by decide) (by decide) (by decide))
      (n.reg_setSt st' (by decide) (by decide) (by decide))).trans h.masterId⟩

theorem Node.Leads.raise {n : Node} {st identity : Nat} (h : n.Leads st identity) (code d0 d1 : Nat) :
    (n.raise code d0 d1).Leads st identity :=
  h.congr (n.reg_raise_ne _ _ _ (by decide)) (n.reg_raise_ne _ _ _ (by decide)) (n.reg_raise_ne _ _ _ (by decide))

/-- The node with the mastership set, before it changes its time and its state. -/
theorem Node.leads_named {n : Node} (hst : n.st = stClaim) (hidentity : n.identity < 2 ^ 48) :
    ((n.dropCommit.setMaster n.claimValue).setFld Reg.INA_STATE Fld.INA_STATE_MASTER 1).Leads stClaim n.identity := by
  refine ⟨?_, ?_, ?_⟩
  · refine (Node.st_setFld_ne _ _ (by decide)).trans ?_
    rw [Node.st, Node.fld, Node.setMaster, Node.reg_setReg_ne _ _ (by decide), Node.reg_setReg_ne _ _ (by decide), Node.dropCommit,
      Node.reg_setReg_ne _ _ (by decide)]
    exact hst
  · rw [Node.master, Node.fld_setFld_self _ _ _ _ (by decide)]
    decide
  · refine (Node.masterId_congr (Node.reg_setFld_ne _ _ _ (by decide)) (Node.reg_setFld_ne _ _ _ (by decide))).trans ?_
    exact n.dropCommit.masterId_setMaster _ hidentity

/-- The node with its inauguration and cycle begun as a master. -/
theorem Node.leads_withElection {n : Node} {st identity : Nat} (h : n.Leads st identity) (cyc : CycState) (ina : InaState) :
    { n with cyc := cyc, ina := ina }.Leads st identity := h.congr rfl rfl rfl

theorem Node.ts_withElection (n : Node) (cyc : CycState) (ina : InaState) : { n with cyc := cyc, ina := ina }.ts = n.ts := rfl

theorem Node.leads_wantRound {n : Node} {st identity : Nat} (h : n.Leads st identity) : n.wantRound.Leads st identity :=
  h.congr rfl rfl rfl

theorem Node.wanted_wantRound (n : Node) : n.wantRound.ina.wanted = true := rfl

theorem Node.firstRef_wantRound (n : Node) : n.wantRound.ina.firstRef = n.ina.firstRef := rfl

theorem Node.ts_wantRound (n : Node) : n.wantRound.ts = n.ts := rfl

theorem Node.ts_setSt (n : Node) (st : Nat) : (n.setSt st).ts = n.ts := by
  rw [Node.ts, Node.fld, n.reg_setSt st (by decide) (by decide) (by decide)]
  rfl

theorem Node.ts_raise (n : Node) (code d0 d1 : Nat) : (n.raise code d0 d1).ts = n.ts := by
  rw [Node.ts, Node.fld, n.reg_raise_ne _ _ _ (by decide)]
  rfl

/-- What an election makes of a claimant. -/
theorem Node.becomeMaster_elected (n : Node) (cause : Nat) (hst : n.st = stClaim) (hidentity : n.identity < 2 ^ 48) :
    (n.becomeMaster cause).Leads stIntegrate n.identity ∧ (n.becomeMaster cause).ts = tsMaster ∧
    (n.becomeMaster cause).ina.wanted = true ∧ (n.becomeMaster cause).ina.firstRef = n.cycleNow + 1 := by
  unfold Node.becomeMaster
  extract_lets first named timed shown entered cyc ina elected
  have htimed : timed.Leads stClaim n.identity :=
    (((Node.leads_named hst hidentity).setFld _ _ (by decide)).setFld _ _ (by decide)).setTs tsMaster
  have hts : timed.ts = tsMaster := Node.ts_setTs _ (by decide)
  have hshown : shown.Leads stClaim n.identity := htimed.setFld _ _ (by decide)
  have hentered : entered = shown.setSt stIntegrate := if_pos hshown.st
  have helected : elected.Leads stIntegrate n.identity := by
    refine Node.leads_withElection ?_ _ _
    rw [hentered]
    exact hshown.setSt (by decide)
  have htsElected : elected.ts = tsMaster := by
    refine (entered.ts_withElection _ _).trans ?_
    rw [hentered, Node.ts_setSt, Node.ts, Node.fld, Node.reg_setFld_ne _ _ _ (by decide)]
    exact hts
  refine ⟨(Node.leads_wantRound helected).raise _ _ _, ?_, ?_, ?_⟩
  · rw [Node.ts_raise, Node.ts_wantRound]
    exact htsElected
  · rw [Node.raise_ina]
    exact elected.wanted_wantRound
  · rw [Node.raise_ina, Node.firstRef_wantRound]

/-- Settles O33. -/
theorem claimsAreHeardAndTheBestWins : Obligations.ClaimsAreHeardAndTheBestWins := by
  refine ⟨fun s time hst => ⟨linkWaitExpiry_listens hst, exec_linkWaitExpiry_early⟩,
    fun s time hst hlistened => ⟨listenWaitExpiry_claims hst hlistened, exec_listenWaitExpiry_afresh hst hlistened⟩,
    fun s time => claimSend_sends, fun s time => exec_claimSend_silent,
    fun s r h hst hother hbest => claimReceived_best h hst hother hbest,
    fun s time hst hclaims hbest hsettled hidentity => ?_⟩
  have hclaiming : (s.node.at time).claiming = true := by
    rw [Node.claiming, show (s.node.at time).st = stClaim from hst]
    rfl
  have hexec : exec (.masterElected time) s = .next (s.on fun n => (n.at time).becomeMaster (if n.ina.hold then 2 else 1)) :=
    exec_on_eq rfl (if_pos ⟨hclaiming, hclaims, by rw [hbest]; rfl, hsettled⟩)
  obtain ⟨hleads, hts, hwanted, hfirst⟩ := (s.node.at time).becomeMaster_elected (if s.node.ina.hold then 2 else 1) hst hidentity
  exact ⟨_, hexec, hleads.master, hleads.masterId, hts, hleads.st, hwanted, hfirst⟩

end Sys2Proof.Machine
end

section
/-! PROOF. The peer delay exchanges of the ports (R28, R310 to R313). -/

namespace Sys2Proof.Machine

/-- The registers that a node's passing between states, its time state and its mastership write, beside those of the egress. -/
abbrev steerReg (a : Nat) : Prop :=
  Reg.PDT_CFG ≤ a ∨ a = Reg.INA_STATE ∨ a = Reg.CYC_STATE ∨ a = Reg.PLC_STATE ∨ a = Reg.TMB_STATE ∨ egressReg a

/-- What a node's passing between states leaves of its ports and registers: everything but the registers above, the ports' wires and
the exchanges that its requests start. -/
structure Node.Steers (n m : Node) : Prop where
  reg : ∀ a, ¬ steerReg a → m.reg a = n.reg a
  port : ∀ p, ∃ busy preEnd exch exchNext,
    m.port p = { n.port p with busy := busy, preEnd := preEnd, exch := exch, exchNext := exchNext }
  length : m.net.ports.length = n.net.ports.length

namespace Node.Steers

theorem refl (n : Node) : n.Steers n := ⟨fun _ _ => rfl, fun _ => ⟨_, _, _, _, rfl⟩, rfl⟩

theorem trans {n m k : Node} (h : n.Steers m) (h' : m.Steers k) : n.Steers k := by
  refine ⟨fun a ha => (h'.reg a ha).trans (h.reg a ha), fun p => ?_, h'.length.trans h.length⟩
  obtain ⟨_, _, _, _, hm⟩ := h.port p
  obtain ⟨_, _, _, _, hk⟩ := h'.port p
  rw [hm] at hk
  exact ⟨_, _, _, _, hk⟩

theorem of_sends {n m : Node} (h : n.Sends m) : n.Steers m := by
  refine ⟨fun a ha => h.reg a fun hegress => ha ?_, fun i => ?_, h.length⟩
  · simp only [steerReg, hegress, or_true]
  · obtain ⟨_, _, hm⟩ := h.port i
    exact ⟨_, _, _, _, hm⟩

/-- A change of a node that leaves its ports. -/
theorem of_net {n m : Node} (hreg : ∀ a, ¬ steerReg a → m.reg a = n.reg a) (hnet : m.net = n.net) : n.Steers m := by
  refine ⟨hreg, fun p => ?_, by rw [hnet]⟩
  rw [Node.port, hnet]
  exact ⟨_, _, _, _, rfl⟩

theorem setFld (n : Node) {a : Nat} (f : Field) (v : Nat) (ha : steerReg a) : n.Steers (n.setFld a f v) :=
  of_net (fun b hb => Node.reg_setFld_ne n f v (by rintro rfl; exact hb ha)) rfl

theorem exchange (n : Node) (p : Nat) (exch : Port → List (Nat × Nat)) (next : Nat) :
    n.Steers (n.onPort p fun q => { q with exch := exch q, exchNext := next }) := by
  refine ⟨fun _ _ => rfl, fun i => ?_, n.length_onPort p _⟩
  rw [n.port_onPort]
  split
  · exact ⟨_, _, _, _, rfl⟩
  · exact ⟨_, _, _, _, rfl⟩

theorem pdStart (n : Node) (p : Nat) : n.Steers (n.pdStart p) := by
  unfold Node.pdStart
  split
  · exact (exchange n p _ _).trans (of_sends (Node.Sends.send _ _ _))
  · exact refl n

theorem showSt (n : Node) (st : Nat) : n.Steers (n.showSt st) := by
  have h := n.shows_showSt st
  refine of_net (fun a ha => h.reg a ?_ ?_ ?_) ?_
  · by_contra hlow
    exact ha (.inl (by omega))
  · rintro rfl
    exact ha (by decide)
  · rintro rfl
    exact ha (by decide)
  · obtain ⟨_, _, _, hm⟩ := h.stores
    rw [hm]

theorem setSt (n : Node) (st : Nat) : n.Steers (n.setSt st) := by
  unfold Node.setSt
  dsimp only
  split
  · exact showSt n st
  · exact (showSt n st).trans (pdStart _ _)

theorem withIna (n : Node) (ina : InaState) : n.Steers { n with ina := ina } := of_net (fun _ _ => rfl) rfl

theorem withTm (n : Node) (tm : TimeState) : n.Steers { n with tm := tm } := of_net (fun _ _ => rfl) rfl

theorem toListen (n : Node) : n.Steers n.toListen := (setSt n stListen).trans (withIna _ _)

theorem setTs (n : Node) (ts : Nat) : n.Steers (n.setTs ts) := by
  unfold Node.setTs
  extract_lets held m shown synced
  have hm : n.Steers m := by
    simp only [m]
    split
    · exact withTm n _
    · exact refl n
  exact (hm.trans (setFld _ _ _ (by decide))).trans (setFld _ _ _ (by decide))

theorem giveUp (n : Node) : n.Steers n.giveUp := by
  unfold Node.giveUp
  split
  · dsimp only
    exact ((((((setFld n _ _ (by decide)).trans (setFld _ _ _ (by decide))).trans (setFld _ _ _ (by decide))).trans
      (withTm _ _)).trans (setFld _ _ _ (by decide))).trans (setTs _ _)).trans (of_sends (Node.Sends.raise _ _ _ _))
  · exact refl n

theorem checkAllDown (n : Node) : n.Steers n.checkAllDown := by
  unfold Node.checkAllDown
  split
  · exact ((giveUp n).trans (setSt _ _)).trans ⟨fun _ _ => rfl, fun _ => ⟨_, _, _, _, rfl⟩, rfl⟩
  · exact refl n

theorem notice (n : Node) (cause port : Nat) : n.Steers (n.notice cause port) := by
  unfold Node.notice
  split
  · exact withIna n _
  · split
    · exact refl n
    · exact of_sends (Node.Sends.startOn _ _ _ _)

theorem memberFormed (n : Node) (p : Nat) : n.Steers (n.memberFormed p) := by
  unfold Node.memberFormed
  split
  · exact toListen n
  · exact notice n _ _

end Node.Steers

/-- The state of a port shows its lock and its line, and lies in no block that a change of state writes. -/
theorem not_steerReg_port {p o : Nat} (hp : p < 12) (ho : o < 0x10) : ¬ steerReg (portBase p + o) := by
  simp only [steerReg, egressReg, portBase, Reg.PDT_CFG, Reg.INA_STATE, Reg.CYC_STATE, Reg.PLC_STATE, Reg.TMB_STATE, Reg.JLK_TX_FRM_LO,
    Reg.JLK_TX_FRM_HI, Reg.TOP_BUF_CTRL_DROP, Reg.EVT_DROP, Reg.TST_STAT, Reg.TST_INJ_CTRL, Reg.TST_INJ_LEFT, Reg.JLK_XFEED_DROP]
  split <;> omega

theorem Node.Steers.crossed {n m : Node} (h : n.Steers m) (p : Nat) : m.crossed p = n.crossed p := by
  rw [Node.crossed, Node.crossed]
  by_cases hp : p < 12
  · rw [Node.fld, h.reg _ (not_steerReg_port hp (by decide))]
    rfl
  · rw [decide_eq_false hp, Bool.false_and, Bool.false_and]

theorem Node.crossed_onPort (n : Node) (q : Nat) (f : Port → Port) (p : Nat) : (n.onPort q f).crossed p = n.crossed p := rfl

theorem Node.crossed_at (n : Node) (time p : Nat) : (n.at time).crossed p = n.crossed p := rfl

theorem Node.port_onPort_self (n : Node) {p : Nat} (f : Port → Port) (hp : p < n.net.ports.length) :
    (n.onPort p f).port p = f (n.port p) := by
  rw [n.port_onPort, if_pos ⟨rfl, hp⟩]

/-! ### A line heard (R28) -/

section
variable {n : Node} {p : Nat} {lineB : Bool}

theorem Node.length_pdLine : (n.pdLine p lineB).net.ports.length = n.net.ports.length := by
  unfold Node.pdLine
  split
  · rfl
  · split
    · split
      · exact n.length_onPort p _
      · extract_lets was shown m
        have hshown : shown.net.ports.length = n.net.ports.length :=
          (Node.Sends.raise _ _ _ _).length.trans (Node.length_onPort _ _ _)
        refine (Node.Steers.checkAllDown m).length.trans (Eq.trans ?_ hshown)
        simp only [m]
        split
        · exact (Node.Steers.notice _ _ _).length
        · rfl
    · split
      · rfl
      · rfl

/-- A line that differs withdraws the link. -/
theorem Node.crossed_pdLine (hp : p < 12) (hline : lineB ≠ n.portB p) : (n.pdLine p lineB).crossed p = true := by
  unfold Node.pdLine
  rw [if_neg (by omega), if_pos (bne_iff_ne.mpr hline)]
  split
  · next hcrossed => exact hcrossed
  · extract_lets was shown m
    have hset : (n.setFld (Reg.SPN_STAT p) Fld.SPN_STAT_CROSSED 1).crossed p = true := by
      rw [Node.crossed, decide_eq_true hp, Node.fld_setFld_self _ _ _ _ (by decide)]
      decide
    have hshown : shown.crossed p = true :=
      ((Node.Steers.of_sends (Node.Sends.raise _ _ _ _)).crossed p).trans ((Node.crossed_onPort _ _ _ _).trans hset)
    refine ((Node.Steers.checkAllDown m).crossed p).trans ?_
    simp only [m]
    split
    · exact ((Node.Steers.notice _ _ _).crossed p).trans hshown
    · exact hshown

/-- The right line returns a withdrawn link that has come up anew. -/
theorem Node.crossed_pdLine_fresh (hp : p < 12) (hline : lineB = n.portB p) (hfresh : (n.port p).crossFresh = true) :
    (n.pdLine p lineB).crossed p = false := by
  unfold Node.pdLine
  rw [if_neg (by omega), if_neg (by simp [hline])]
  split
  · rw [Node.crossed, decide_eq_true hp, Node.fld_setFld_self _ _ _ _ (by decide)]
    decide
  · next hno => simpa [hfresh] using hno

/-- A line that is right leaves the ports, the time and every register but the state of its port. -/
theorem Node.pdLine_right (hline : p = 12 ∨ lineB = n.portB p) :
    ∃ regs, n.pdLine p lineB = { n with regs := regs } ∧ ∀ a, a ≠ Reg.SPN_STAT p → (n.pdLine p lineB).reg a = n.reg a := by
  unfold Node.pdLine
  split
  · exact ⟨_, rfl, fun _ _ => rfl⟩
  · rw [if_neg (by rcases hline with h | h <;> [omega; simp [h]])]
    split
    · exact ⟨_, rfl, fun a ha => Node.reg_setFld_ne _ _ _ ha⟩
    · exact ⟨_, rfl, fun _ _ => rfl⟩

end

/-- What a request says of its sender is kept. -/
theorem Node.pdFar_far (n : Node) {p : Nat} (id : Nat) (payload : List Byte) (hp : p < n.net.ports.length) :
    ((n.pdFar p id payload).port p).farId = id ∧ ((n.pdFar p id payload).port p).farPort = byteAt payload 1 % 16 := by
  unfold Node.pdFar
  extract_lets m
  have hm : (m.port p).farId = id ∧ (m.port p).farPort = byteAt payload 1 % 16 := by
    simp only [m, n.port_onPort_self _ hp, and_self]
  split
  · obtain ⟨_, _, _, _, h⟩ := (Node.Steers.toListen m).port p
    rw [h]
    exact hm
  · exact hm

theorem Node.crossed_pdFar (n : Node) (p id : Nat) (payload : List Byte) (i : Nat) : (n.pdFar p id payload).crossed i = n.crossed i := by
  unfold Node.pdFar
  dsimp only
  split
  · exact (Node.Steers.toListen _).crossed i
  · rfl

/-! ### Exchanges (R311, R312) -/

theorem le_getD_startWait (n : Node) (q : Queued) : q.ready ≤ (n.startWait q).getD q.ready := by
  unfold Node.startWait
  dsimp only
  cases n.fits q.port q.cls (n.wireNs q.port q.frame) (n.fineAt _ / 65536) with
  | none => exact Nat.le_refl _
  | some t => exact (Nat.le_max_left _ _).trans (Nat.le_max_left _ _)

/-- A frame handed over now does not start before now. -/
theorem Node.raw_le_leaveIn (n : Node) (p cls : Nat) (f : Frame) : n.tm.raw ≤ n.leaveIn p cls f := by
  unfold Node.leaveIn
  extract_lets waiting t
  have ht : n.tm.raw ≤ t := by
    refine List.foldlRecOn (motive := fun a => n.tm.raw ≤ a) waiting _ (Nat.le_refl _) fun a ha q _ => ?_
    have hstart := le_getD_startWait n { q with ready := max a q.ready }
    cases hw : n.startWait { q with ready := max a q.ready } with
    | none => exact ha.trans (Nat.le_add_right _ _)
    | some u =>
      rw [hw] at hstart
      have hu : max a q.ready ≤ u := hstart
      exact (ha.trans ((Nat.le_max_left _ _).trans hu)).trans (Nat.le_add_right _ _)
  exact ht.trans (le_getD_startWait n ⟨p, cls, localPort, t, f, none⟩)

/-- A port that may start an exchange remembers it with its number and the time at which its request leaves. -/
theorem Node.pdStart_exch (n : Node) {p : Nat} (hp : p < n.net.ports.length) (hup : n.linkUp p = true)
    (hport : n.isLinePort p = true ∨ p = 12) (hst : stLink ≤ n.st) :
    ∃ t1 busy preEnd, n.tm.raw ≤ t1 ∧ (n.pdStart p).port p = { n.port p with
      busy := busy, preEnd := preEnd, exch := (n.port p).exch ++ [((n.port p).exchNext, t1)],
      exchNext := ((n.port p).exchNext + 1) % 65536 } := by
  have hgo : (n.linkUp p && (n.isLinePort p || p == 12) && decide (stLink ≤ n.st)) = true := by
    rw [hup, decide_eq_true hst, Bool.true_and, Bool.and_true, Bool.or_eq_true, beq_iff_eq]
    exact hport
  unfold Node.pdStart
  rw [if_pos hgo]
  dsimp only
  generalize hf : n.pdFrame p (n.pdPayload 1 p (n.port p).exchNext n.identity 0 0) = f
  obtain ⟨busy, preEnd, h⟩ := (Node.Sends.send (n.onPort p fun q => { q with
    exch := q.exch ++ [((n.port p).exchNext, n.leaveAt p f)], exchNext := ((n.port p).exchNext + 1) % 65536 }) p f).port p
  rw [n.port_onPort_self _ hp] at h
  exact ⟨_, busy, preEnd, n.raw_le_leaveIn p 7 f, h⟩

section
variable {s : State} {p time : Nat}

theorem pdelayRequestSend_starts (hp : p < 13) (hlength : s.node.net.ports.length = 13) (hup : s.node.linkUp p = true)
    (hport : s.node.isLinePort p = true ∨ p = 12) (hst : stLink ≤ s.node.st) (hdue : (s.node.at time).pdDue p = true) :
    ∃ t : State, exec (.pdelayRequestSend p time) s = .next t ∧ (t.node.port p).pdAt = some (max s.node.tm.raw time) ∧
      (∃ t1, max s.node.tm.raw time ≤ t1 ∧ (t.node.port p).exch = (s.node.port p).exch ++ [((s.node.port p).exchNext, t1)]) ∧
      (t.node.port p).exchNext = ((s.node.port p).exchNext + 1) % 65536 := by
  have hexec : exec (.pdelayRequestSend p time) s =
      .next (s.on fun n => ((n.at time).onPort p fun q => { q with pdAt := some (n.at time).tm.raw }).pdStart p) :=
    exec_on_eq rfl (if_pos hdue)
  have hset : ((s.node.at time).onPort p fun q => { q with pdAt := some (s.node.at time).tm.raw }).port p =
      { s.node.port p with pdAt := some (max s.node.tm.raw time) } :=
    Node.port_onPort_self _ _ (show p < s.node.net.ports.length by omega)
  obtain ⟨t1, busy, preEnd, ht1, hstart⟩ := Node.pdStart_exch
    ((s.node.at time).onPort p fun q => { q with pdAt := some (s.node.at time).tm.raw }) (p := p)
    (by rw [Node.length_onPort]; show p < s.node.net.ports.length; omega) hup hport hst
  refine ⟨_, hexec, ?_⟩
  rw [State.on_node, hstart, hset]
  exact ⟨rfl, ⟨t1, ht1, rfl⟩, rfl⟩

theorem Node.pdStart_down {n : Node} (hdown : n.linkUp p = false) : n.pdStart p = n := by
  refine if_neg ?_
  rw [hdown, Bool.false_and, Bool.false_and]
  decide

theorem pdelayRequestSend_down (hdown : s.node.linkUp p = false) (hdue : (s.node.at time).pdDue p = true) :
    ∃ t : State, exec (.pdelayRequestSend p time) s = .next t ∧ t.node.net.sent = s.node.net.sent ∧
      t.node.net.queue = s.node.net.queue ∧ (t.node.port p).exch = (s.node.port p).exch := by
  have hstays : ((s.node.at time).onPort p fun q => { q with pdAt := some (s.node.at time).tm.raw }).pdStart p =
      (s.node.at time).onPort p fun q => { q with pdAt := some (s.node.at time).tm.raw } := Node.pdStart_down hdown
  refine ⟨_, exec_on_eq (g := fun _ => _) rfl ((if_pos hdue).trans hstays), rfl, rfl, ?_⟩
  rw [State.on_node, Node.port_onPort]
  split <;> rfl

/-- An exchange that is discarded leaves the port's list, and is counted. -/
theorem Node.pdMiss_port (n : Node) (hfabric : p < 13) (hp : p < n.net.ports.length) :
    ((n.pdMiss p).port p).exch = (n.port p).exch.drop 1 ∧ ((n.pdMiss p).port p).pdMisses = (n.port p).pdMisses + 1 ∧
    (n.pdMiss p).reg (Reg.TMB_PD_MISS p) = word (min ((n.reg (Reg.TMB_PD_MISS p)).toNat + 1) 0xFFFFFFFF) := by
  unfold Node.pdMiss
  extract_lets k m
  have hport : m.port p = { n.port p with exch := (n.port p).exch.drop 1, pdMisses := k } :=
    Node.port_onPort_self (n.inc (Reg.TMB_PD_MISS p)) _ hp
  have hm : (m.port p).exch = (n.port p).exch.drop 1 ∧ (m.port p).pdMisses = (n.port p).pdMisses + 1 ∧
      m.reg (Reg.TMB_PD_MISS p) = word (min ((n.reg (Reg.TMB_PD_MISS p)).toNat + 1) 0xFFFFFFFF) := by
    rw [hport]
    exact ⟨rfl, rfl, Node.reg_inc_self n _⟩
  split
  · rw [Node.port, Node.raise_net, Node.reg_raise_ne _ _ _ _ (by simp only [Reg.TMB_PD_MISS, Reg.EVT_DROP]; omega)]
    exact hm
  · exact hm

theorem pdelayResponseTimeout_misses (hp : p < 13) (hlength : s.node.net.ports.length = 13)
    (hlate : ((s.node.port p).exch.head?.any fun x => decide (x.2 + 100000 ≤ max s.node.tm.raw time)) = true) :
    ∃ t : State, exec (.pdelayResponseTimeout p time) s = .next t ∧ (t.node.port p).exch = (s.node.port p).exch.drop 1 ∧
      (t.node.port p).pdMisses = (s.node.port p).pdMisses + 1 ∧
      t.node.reg (Reg.TMB_PD_MISS p) = word (min ((s.node.reg (Reg.TMB_PD_MISS p)).toNat + 1) 0xFFFFFFFF) :=
  ⟨_, exec_on_eq (g := fun _ => _) rfl (if_pos hlate),
    (s.node.at time).pdMiss_port hp (show p < s.node.net.ports.length by omega)⟩

end

/-! ### Requests and responses heard (R310, R311, R313) -/

section
variable {s : State} {r : Rx}

/-- What a node that has heard a frame keeps of its ports. -/
theorem Node.port_heard {n : Node} (hchecks : (n.meets r).rxFail r = none) (p : Nat) :
    ∃ busy preEnd secPn, (n.heard r).port p = { n.port p with busy := busy, preEnd := preEnd, secPn := secPn } :=
  (Node.hears_heard hchecks).port p

theorem Node.length_heard {n : Node} (hchecks : (n.meets r).rxFail r = none) :
    (n.heard r).net.ports.length = n.net.ports.length := (Node.hears_heard hchecks).length

theorem Node.portB_heard {n : Node} (hchecks : (n.meets r).rxFail r = none) (hp : r.port < 12) :
    (n.heard r).portB r.port = n.portB r.port := by
  unfold Node.portB
  split
  · rfl
  · next hbranch =>
    rw [Node.fld, Node.reg_heard hchecks ?_]
    · rfl
    · simp only [receptReg, egressReg, portBase, Reg.TST_ECHO_RET, Reg.JLK_RX_FRM_LO, Reg.JLK_RX_FRM_HI, Reg.JLK_TX_FRM_LO,
        Reg.JLK_TX_FRM_HI, Reg.TOP_BUF_CTRL_DROP, Reg.EVT_DROP, Reg.TST_STAT, Reg.TST_INJ_CTRL, Reg.TST_INJ_LEFT, Reg.JLK_XFEED_DROP,
        Reg.SPN_IFTYPE]
      split <;> omega

/-- What the response of an exchange does at its port; `far` says whether the partner's link was a member before it. -/
def Node.pdComplete (m : Node) (r : Rx) (pl : List Byte) (x : Nat × Nat) (far : Bool) : Node :=
  let p := r.port
  let was := m.member p
  let turn : Int := (BitVec.ofNat 64 (beAt pl 16 8)).toInt
  let d := (m.scaled ((r.stamp : Int) - x.2) - turn) / 2
  let k := (m.onPort p fun q => { q with exch := q.exch.filter (· != x), pdDone := true, pdCount := q.pdCount + 1,
                                         pdMisses := 0 }).inc (Reg.TMB_PD_DONE p)
  let k := (if p = 12 then k.setBit Reg.JLK_STAT 1 true else k).pdMeasure p d
  let k := k.pdFar p (beAt pl 10 6) pl
  if k.member p && !was then k.memberFormed p
  else if p = 12 ∧ k.jalderMember ∧ !far then k.notice 4 12 else k

/-- What a response does at a port with an exchange in progress. -/
def Node.pdResponse (g : Node) (r : Rx) (h : SpineHdr) (pl : List Byte) : Node :=
  let p := r.port
  let m := g.pdLine p h.lineB
  match (m.port p).exch.find? fun x => x.1 == beAt pl 2 2 && beAt pl 4 6 == m.identity && decide (r.stamp ≤ x.2 + 100000) with
  | none => m.pdMiss p
  | some x => m.pdComplete r pl x g.jalderMember

theorem pdelayRequestReceived_shows (turn : Nat) (h : s.node.hears r 0xA = true) (hp : r.port < 13)
    (hlength : s.node.net.ports.length = 13) (htype : byteAt (payloadOf r.frame.body) 0 = 1) :
    ∃ t : State, exec (.pdelayRequestReceived r turn) s = .next t ∧
      (t.node.port r.port).farId = beAt (payloadOf r.frame.body) 4 6 ∧
      (t.node.port r.port).farPort = byteAt (payloadOf r.frame.body) 1 % 16 ∧
      (r.port < 12 → (decodeHdr r.frame.body).lineB ≠ s.node.portB r.port → t.node.crossed r.port = true) ∧
      (r.port < 12 → (decodeHdr r.frame.body).lineB = s.node.portB r.port → (s.node.port r.port).crossFresh = true →
        t.node.crossed r.port = false) := by
  have hchecks := checks_of_hears h
  refine ⟨_, exec_on_eq (g := fun _ => _) rfl ((Node.receive_hears _ h).trans (if_neg (fun hno => hno htype))), ?_⟩
  rw [State.on_node]
  extract_lets m answered
  have hfar : (m.port r.port).farId = beAt (payloadOf r.frame.body) 4 6 ∧
      (m.port r.port).farPort = byteAt (payloadOf r.frame.body) 1 % 16 :=
    Node.pdFar_far _ _ _ (by rw [Node.length_pdLine, Node.length_heard hchecks, hlength]; exact hp)
  have hcrossed : m.crossed r.port = ((s.node.heard r).pdLine r.port (decodeHdr r.frame.body).lineB).crossed r.port :=
    Node.crossed_pdFar _ _ _ _ _
  have hgoal : ∀ k : Node, m.Steers k → (k.port r.port).farId = beAt (payloadOf r.frame.body) 4 6 ∧
      (k.port r.port).farPort = byteAt (payloadOf r.frame.body) 1 % 16 ∧
      (r.port < 12 → (decodeHdr r.frame.body).lineB ≠ s.node.portB r.port → k.crossed r.port = true) ∧
      (r.port < 12 → (decodeHdr r.frame.body).lineB = s.node.portB r.port → (s.node.port r.port).crossFresh = true →
        k.crossed r.port = false) := fun k hk => by
    obtain ⟨_, _, _, _, hport⟩ := hk.port r.port
    obtain ⟨_, _, _, hheard⟩ := Node.port_heard hchecks r.port
    rw [hport, hk.crossed, hcrossed]
    refine ⟨hfar.1, hfar.2, fun hlow hline => ?_, fun hlow hline hfresh => ?_⟩
    · exact Node.crossed_pdLine hlow (by rw [Node.portB_heard hchecks hlow]; exact hline)
    · exact Node.crossed_pdLine_fresh hlow (by rw [Node.portB_heard hchecks hlow]; exact hline) (by rw [hheard]; exact hfresh)
  split
  · exact hgoal _ ((Node.Steers.withTm m _).trans (Node.Steers.of_sends (Node.Sends.send _ _ _)))
  · exact hgoal _ (Node.Steers.refl m)

/-- A response at a port with an exchange in progress, whose line is right, reaches the match with its exchange. -/
theorem exec_pdelayResponseReceived (h : s.node.hears r 0xA = true) (htype : byteAt (payloadOf r.frame.body) 0 = 2)
    (hexch : (s.node.port r.port).exch ≠ []) :
    exec (.pdelayResponseReceived r) s = .next (s.on fun n =>
      (n.heard r).pdResponse r (decodeHdr r.frame.body) (payloadOf r.frame.body)) := by
  have hgo : ¬ (byteAt (payloadOf r.frame.body) 0 ≠ 2 ∨ ((s.node.heard r).port r.port).exch.isEmpty = true) := by
    obtain ⟨_, _, _, hheard⟩ := Node.port_heard (checks_of_hears h) r.port
    rw [hheard]
    rintro (hno | hempty)
    · exact hno htype
    · exact hexch (List.isEmpty_iff.mp hempty)
  exact exec_on_eq rfl ((Node.receive_hears _ h).trans (if_neg hgo))

/-- The port whose line is right, with what the match of a response reads. -/
theorem Node.pdLine_heard (h : s.node.hears r 0xA = true) (hfabric : r.port < 13)
    (hline : r.port = 12 ∨ (decodeHdr r.frame.body).lineB = s.node.portB r.port) {m : Node}
    (hm : (s.node.heard r).pdLine r.port (decodeHdr r.frame.body).lineB = m) :
    (∃ busy preEnd secPn, m.port r.port = { s.node.port r.port with busy := busy, preEnd := preEnd, secPn := secPn }) ∧
    m.identity = s.node.identity ∧ m.tm.rate = s.node.tm.rate ∧ m.net.ports.length = s.node.net.ports.length := by
  have hchecks := checks_of_hears h
  have hright : r.port = 12 ∨ (decodeHdr r.frame.body).lineB = (s.node.heard r).portB r.port := by
    rcases hline with hjalder | hline
    · exact .inl hjalder
    · by_cases hp : r.port < 12
      · exact .inr (hline.trans (Node.portB_heard hchecks hp).symm)
      · exact .inl (by omega)
  obtain ⟨regs, hregs, hreg⟩ := Node.pdLine_right (n := s.node.heard r) hright
  have hid : m.identity = (s.node.heard r).identity := by
    have hother : ∀ a, a < 0x800000 → a ≠ Reg.SPN_STAT r.port := fun a ha => by
      simp only [Reg.SPN_STAT, portBase]
      split <;> omega
    rw [← hm, Node.identity, Node.identity, hreg _ (hother _ (by decide)), hreg _ (hother _ (by decide))]
  obtain ⟨_, _, _, hheard⟩ := (Node.hears_heard hchecks).stores
  refine ⟨?_, hid.trans (Node.identity_heard hchecks), ?_, ?_⟩
  · obtain ⟨busy, preEnd, secPn, hport⟩ := Node.port_heard hchecks r.port
    refine ⟨busy, preEnd, secPn, ?_⟩
    rw [← hport, ← hm, hregs]
    rfl
  · rw [← hm, hregs, hheard]
    rfl
  · rw [← hm, Node.length_pdLine, Node.length_heard hchecks]

theorem pdelayResponseReceived_misses (h : s.node.hears r 0xA = true) (hp : r.port < 13) (hlength : s.node.net.ports.length = 13)
    (htype : byteAt (payloadOf r.frame.body) 0 = 2)
    (hline : r.port = 12 ∨ (decodeHdr r.frame.body).lineB = s.node.portB r.port) (hexch : (s.node.port r.port).exch ≠ [])
    (hnone : ((s.node.port r.port).exch.find? fun x => x.1 == beAt (payloadOf r.frame.body) 2 2 &&
      beAt (payloadOf r.frame.body) 4 6 == s.node.identity && decide (r.stamp ≤ x.2 + 100000)) = none) :
    ∃ t : State, exec (.pdelayResponseReceived r) s = .next t ∧ (t.node.port r.port).exch = (s.node.port r.port).exch.drop 1 ∧
      (t.node.port r.port).pdMisses = (s.node.port r.port).pdMisses + 1 := by
  refine ⟨_, exec_pdelayResponseReceived h htype hexch, ?_⟩
  rw [State.on_node, Node.pdResponse]
  generalize hm : (s.node.heard r).pdLine r.port (decodeHdr r.frame.body).lineB = m
  obtain ⟨⟨busy, preEnd, secPn, hport⟩, hid, -, hlen⟩ := Node.pdLine_heard h hp hline hm
  obtain ⟨hdrop, hcount, -⟩ := m.pdMiss_port hp (by omega)
  rw [hport] at hdrop hcount
  have hfind : ((m.port r.port).exch.find? fun x => x.1 == beAt (payloadOf r.frame.body) 2 2 &&
      beAt (payloadOf r.frame.body) 4 6 == m.identity && decide (r.stamp ≤ x.2 + 100000)) = none := by
    rw [hport, hid]
    exact hnone
  rw [hfind]
  exact ⟨hdrop, hcount⟩

/-- The first measurement of a port is its link delay. -/
theorem Node.pdMeasure_first (n : Node) {p : Nat} (d : Int) (hp : p < n.net.ports.length) (hlast : (n.port p).pdLast = []) :
    (n.pdMeasure p d).port p = { n.port p with pdLast := [d], pdAside := [] } ∧
    (n.pdMeasure p d).reg (Reg.TMB_PD_DELAY p) = sword d ∧ (n.pdMeasure p d).net.ports.length = n.net.ports.length := by
  unfold Node.pdMeasure
  dsimp only
  have hmean : mean [d] = d := by
    rw [mean]
    simp
  rw [hlast, if_neg (by rw [List.isEmpty_nil]; simp)]
  refine ⟨n.port_onPort_self _ hp, ?_, n.length_onPort p _⟩
  rw [Node.reg_setReg_self]
  exact congrArg sword hmean

/-- A port with a completed exchange and the link delay that it shows. -/
structure Node.Measured (n : Node) (p : Nat) (delay : Word) : Prop where
  pdDone : (n.port p).pdDone = true
  pdMisses : (n.port p).pdMisses = 0
  delay : n.reg (Reg.TMB_PD_DELAY p) = delay

theorem Node.Measured.steers {n m : Node} {p : Nat} {delay : Word} (h : n.Measured p delay) (hp : p < 13) (hm : n.Steers m) :
    m.Measured p delay := by
  obtain ⟨_, _, _, _, hport⟩ := hm.port p
  refine ⟨?_, ?_, (hm.reg _ ?_).trans h.delay⟩
  · rw [hport]
    exact h.pdDone
  · rw [hport]
    exact h.pdMisses
  · simp only [steerReg, egressReg, Reg.TMB_PD_DELAY, Reg.PDT_CFG, Reg.INA_STATE, Reg.CYC_STATE, Reg.PLC_STATE, Reg.TMB_STATE,
      Reg.JLK_TX_FRM_LO, Reg.JLK_TX_FRM_HI, Reg.TOP_BUF_CTRL_DROP, Reg.EVT_DROP, Reg.TST_STAT, Reg.TST_INJ_CTRL, Reg.TST_INJ_LEFT,
      Reg.JLK_XFEED_DROP]
    omega

theorem Node.measured_pdMeasure {n : Node} {p : Nat} (d : Int) (hp : p < n.net.ports.length)
    (hport : (n.port p).pdLast = [] ∧ (n.port p).pdDone = true ∧ (n.port p).pdMisses = 0) :
    (n.pdMeasure p d).Measured p (sword d) := by
  obtain ⟨hlast, hdone, hmisses⟩ := hport
  obtain ⟨h, hdelay, -⟩ := n.pdMeasure_first d hp hlast
  exact ⟨by rw [h]; exact hdone, by rw [h]; exact hmisses, hdelay⟩

theorem Node.Measured.pdFar {n : Node} {p : Nat} {delay : Word} (h : n.Measured p delay) (hp : p < 13) (id : Nat) (payload : List Byte) :
    (n.pdFar p id payload).Measured p delay := by
  unfold Node.pdFar
  extract_lets m
  have hm : m.Measured p delay := by
    refine ⟨?_, ?_, h.delay⟩
    · simp only [m, n.port_onPort]
      split <;> exact h.pdDone
    · simp only [m, n.port_onPort]
      split <;> exact h.pdMisses
  split
  · exact hm.steers hp (Node.Steers.toListen m)
  · exact hm

theorem Node.pdComplete_measured (m : Node) (r : Rx) (pl : List Byte) (x : Nat × Nat) (far : Bool) (hp : r.port < 13)
    (hlength : r.port < m.net.ports.length) (hlast : (m.port r.port).pdLast = []) :
    (m.pdComplete r pl x far).Measured r.port
      (sword ((m.scaled ((r.stamp : Int) - x.2) - (BitVec.ofNat 64 (beAt pl 16 8)).toInt) / 2)) := by
  unfold Node.pdComplete
  extract_lets p was turn d started timed k
  have hstarted : started.port r.port = { m.port r.port with
      exch := (m.port r.port).exch.filter (· != x), pdDone := true, pdCount := (m.port r.port).pdCount + 1, pdMisses := 0 } :=
    m.port_onPort_self _ hlength
  have hlenStarted : started.net.ports.length = m.net.ports.length := m.length_onPort _ _
  have htimed : timed.Measured r.port (sword d) := by
    simp only [timed]
    split
    · exact Node.measured_pdMeasure d (by rw [Node.setBit_net]; omega) (by
        rw [Node.port, Node.setBit_net, ← Node.port, hstarted]
        exact ⟨hlast, rfl, rfl⟩)
    · exact Node.measured_pdMeasure d (by omega) (by rw [hstarted]; exact ⟨hlast, rfl, rfl⟩)
  have hk : k.Measured r.port (sword d) := htimed.pdFar hp _ _
  split
  · exact hk.steers hp (Node.Steers.memberFormed _ _)
  · split
    · exact hk.steers hp (Node.Steers.notice _ _ _)
    · exact hk

theorem pdelayResponseReceived_measures {k t1 : Nat} (h : s.node.hears r 0xA = true) (hp : r.port < 13)
    (hlength : s.node.net.ports.length = 13) (htype : byteAt (payloadOf r.frame.body) 0 = 2)
    (hline : r.port = 12 ∨ (decodeHdr r.frame.body).lineB = s.node.portB r.port)
    (hfound : ((s.node.port r.port).exch.find? fun x => x.1 == beAt (payloadOf r.frame.body) 2 2 &&
      beAt (payloadOf r.frame.body) 4 6 == s.node.identity && decide (r.stamp ≤ x.2 + 100000)) = some (k, t1))
    (hlast : (s.node.port r.port).pdLast = []) :
    ∃ t : State, exec (.pdelayResponseReceived r) s = .next t ∧ (t.node.port r.port).pdDone = true ∧
      (t.node.port r.port).pdMisses = 0 ∧
      t.node.reg (Reg.TMB_PD_DELAY r.port) = sword (((s.node.scaled ((r.stamp : Int) - t1)) -
        (BitVec.ofNat 64 (beAt (payloadOf r.frame.body) 16 8)).toInt) / 2) := by
  have hexch : (s.node.port r.port).exch ≠ [] := by
    intro hempty
    rw [hempty] at hfound
    cases hfound
  refine ⟨_, exec_pdelayResponseReceived h htype hexch, ?_⟩
  rw [State.on_node, Node.pdResponse]
  generalize hm : (s.node.heard r).pdLine r.port (decodeHdr r.frame.body).lineB = m
  obtain ⟨⟨busy, preEnd, secPn, hport⟩, hid, hrate, hlen⟩ := Node.pdLine_heard h hp hline hm
  have hfind : ((m.port r.port).exch.find? fun x => x.1 == beAt (payloadOf r.frame.body) 2 2 &&
      beAt (payloadOf r.frame.body) 4 6 == m.identity && decide (r.stamp ≤ x.2 + 100000)) = some (k, t1) := by
    rw [hport, hid]
    exact hfound
  rw [hfind]
  obtain ⟨hdone, hmisses, hdelay⟩ := m.pdComplete_measured r (payloadOf r.frame.body) (k, t1) (s.node.heard r).jalderMember hp
    (by omega) (by rw [hport]; exact hlast)
  refine ⟨hdone, hmisses, hdelay.trans ?_⟩
  rw [Node.scaled, Node.scaled, hrate]

end

/-- Settles O37. -/
theorem linkDelayIsMeasured : Obligations.LinkDelayIsMeasured := by
  refine ⟨fun s p time => pdelayRequestSend_starts, fun s p time => pdelayRequestSend_down, fun s p time hdue => ?_,
    fun s r turn => pdelayRequestReceived_shows turn, fun s r k t1 => pdelayResponseReceived_measures,
    fun s r => pdelayResponseReceived_misses, fun s p time hnot => ?_, fun s p time => pdelayResponseTimeout_misses⟩
  · exact exec_on_eq rfl (if_neg (by rw [hdue]; decide))
  · exact exec_on_eq rfl (if_neg (show ¬ _ = true by
      change ¬ ((s.node.port p).exch.head?.any fun x => decide (x.2 + 100000 ≤ max s.node.tm.raw time)) = true
      rw [hnot]; decide))

end Sys2Proof.Machine
end

section
/-! PROOF. Link state, port control, wake frames and MDIO (R141, R144 to R146, R175, R181, R186, R190, R195). -/

namespace Sys2Proof.Machine

/-! ### What the reports and contexts of a link change -/

theorem Node.Sends.withEvents (n : Node) (limits : List Limit) :
    n.Sends (n.withEvents n.regs { n.ev with limits := limits }) :=
  ⟨⟨_, n.net, _, rfl⟩, fun _ _ => rfl, fun _ => ⟨_, _, rfl⟩, rfl⟩

theorem Node.Sends.occur (n : Node) (code key out : Nat) : n.Sends (n.occur code key out).1 := by
  obtain ⟨limits, h⟩ := n.occurIn_eq_withEvents code key (1024 * out)
  rw [Node.occur, h]
  exact withEvents n limits

theorem Node.Sends.raiseLimited (n : Node) (code key out d0 d1 : Nat) : n.Sends (n.raiseLimited code key out d0 d1) := by
  have hoccur := occur n code key out
  unfold Node.raiseLimited
  split
  · next m k he =>
    rw [he] at hoccur
    exact hoccur.trans (raise _ _ _ _)
  · next m he =>
    rw [he] at hoccur
    exact hoccur

theorem Node.Sends.raiseCounted (n : Node) (code key out d0 : Nat) : n.Sends (n.raiseCounted code key out d0) := by
  have hoccur := occur n code key out
  unfold Node.raiseCounted
  split
  · next m k he =>
    rw [he] at hoccur
    exact hoccur.trans (raise _ _ _ _)
  · next m he =>
    rw [he] at hoccur
    exact hoccur

theorem Node.raiseLimited_eq_withEvents (n : Node) (code key out d0 d1 : Nat) :
    ∃ regs ev, n.raiseLimited code key out d0 d1 = n.withEvents regs ev := by
  obtain ⟨limits, hoccur⟩ := n.occurIn_eq_withEvents code key (1024 * out)
  unfold Node.raiseLimited Node.occur
  split
  · next m k h =>
    obtain ⟨regs, ev, hraise⟩ := m.raise_eq_withEvents code d0 d1
    rw [h] at hoccur
    exact ⟨regs, ev, by rw [hraise, show m = _ from hoccur]; rfl⟩
  · next m h =>
    rw [h] at hoccur
    exact ⟨_, _, hoccur⟩

theorem Node.net_raisePort2 (n : Node) (code p d0 d1 : Nat) : (n.raisePort2 code p d0 d1).net = n.net := by
  obtain ⟨_, _, h⟩ := n.raiseLimited_eq_withEvents code p 1000000 d0 d1
  rw [Node.raisePort2, h]
  rfl

theorem Node.net_raisePort (n : Node) (code p : Nat) : (n.raisePort code p).net = n.net := by
  obtain ⟨_, _, h⟩ := n.raiseCounted_eq_withEvents code p 1000000 p
  rw [Node.raisePort, h]
  rfl

theorem Node.reg_raisePort2 (n : Node) (code p d0 d1 : Nat) {a : Nat} (ha : ¬ egressReg a) :
    (n.raisePort2 code p d0 d1).reg a = n.reg a := (Node.Sends.raiseLimited n code p 1000000 d0 d1).reg a ha

/-- The context of a host-frame port shows its link in a register of its own alone. -/
theorem Node.hostLink_rest (n : Node) (p : Nat) (up : Bool) :
    (n.hostLink p up).net = n.net ∧ ∀ a, a < hostBlock → (n.hostLink p up).reg a = n.reg a := by
  refine List.foldlRecOn (motive := fun m : Node => m.net = n.net ∧ ∀ a, a < hostBlock → m.reg a = n.reg a) [6, 7] _
    ⟨rfl, fun _ _ => rfl⟩ fun m hm c _ => ?_
  split
  · refine ⟨hm.1, fun a ha => (Node.reg_setBit_ne _ _ _ ?_).trans (hm.2 a ha)⟩
    simp only [hostBlock, Reg.HST_CTX_CFG, Reg.HST_CTX_STAT] at ha ⊢
    omega
  · exact hm

/-- The registers of a port that its frames do not count in. -/
theorem not_egressReg_port {p o : Nat} (hp : p < 12) (ho : o < 0x10 ∨ o = 0x18) : ¬ egressReg (portBase p + o) := by
  simp only [egressReg, portBase, Reg.JLK_TX_FRM_LO, Reg.JLK_TX_FRM_HI, Reg.TOP_BUF_CTRL_DROP, Reg.EVT_DROP, Reg.TST_STAT,
    Reg.TST_INJ_CTRL, Reg.TST_INJ_LEFT, Reg.JLK_XFEED_DROP]
  split <;> omega

theorem portBase_bounds {p : Nat} (hp : p < 12) : 0x800000 ≤ portBase p ∧ portBase p ≤ 0x970000 := by
  unfold portBase
  split <;> omega

theorem portBase_apart {p q : Nat} (hp : p < 12) (hq : q < 12) (h : q ≠ p) :
    portBase q + 0x10000 ≤ portBase p ∨ portBase p + 0x10000 ≤ portBase q := by
  unfold portBase
  split <;> split <;> omega

theorem Node.linkUp_port (n : Node) {p : Nat} (hp : p < 12) : n.linkUp p = (n.fld (Reg.SPN_STAT p) Fld.SPN_STAT_LINK == 1) := if_pos hp

/-! ### A link comes up (R141, R145) -/

/-- The state of a link that has come up, in the state register of its port. -/
def Node.linkShown (n : Node) (p rate : Nat) : Node :=
  ((n.setFld (Reg.SPN_STAT p) Fld.SPN_STAT_LINK 1).setFld (Reg.SPN_STAT p) Fld.SPN_STAT_RATE rate).setFld
    (Reg.SPN_STAT p) Fld.SPN_STAT_MACSEC 0

theorem Node.linkShown_fields (n : Node) {p rate : Nat} (hrate : rate < 8) :
    (n.linkShown p rate).fld (Reg.SPN_STAT p) Fld.SPN_STAT_LINK = 1 ∧
    (n.linkShown p rate).fld (Reg.SPN_STAT p) Fld.SPN_STAT_RATE = rate ∧
    (n.linkShown p rate).fld (Reg.SPN_STAT p) Fld.SPN_STAT_MACSEC = 0 := by
  unfold Node.linkShown
  refine ⟨?_, ?_, ?_⟩
  · rw [Node.fld_setFld_ne _ _ _ _ _ (by decide) (by decide), Node.fld_setFld_ne _ _ _ _ _ (by decide) (by decide),
      Node.fld_setFld_self _ _ _ _ (by decide)]
    rfl
  · rw [Node.fld_setFld_ne _ _ _ _ _ (by decide) (by decide), Node.fld_setFld_self _ _ _ _ (by decide)]
    exact Nat.mod_eq_of_lt hrate
  · rw [Node.fld_setFld_self _ _ _ _ (by decide)]
    rfl

theorem Node.reg_linkShown (n : Node) {p a : Nat} (rate : Nat) (ha : a ≠ Reg.SPN_STAT p) : (n.linkShown p rate).reg a = n.reg a :=
  (Node.reg_setFld_ne _ _ _ ha).trans ((Node.reg_setFld_ne _ _ _ ha).trans (Node.reg_setFld_ne _ _ _ ha))

/-- Preemption starts to verify where the port's image has it and the rate allows it. -/
theorem Node.reg_preemptStart (n : Node) (p rate : Nat) :
    (n.preemptStart p rate).reg (Reg.SPN_PREEMPT_STAT p) =
      (if n.fld (Reg.SPN_IFTYPE p) Fld.SPN_IFTYPE_PREEMPT = 1 ∧ 1 ≤ rate ∧ rate ≤ 4 then 18#32 else 0#32) ∧
    (n.preemptStart p rate).net = n.net ∧
    ∀ a, a ≠ Reg.SPN_PREEMPT_STAT p → (n.preemptStart p rate).reg a = n.reg a := by
  unfold Node.preemptStart
  split
  · exact ⟨Node.reg_setReg_self _ _ _, rfl, fun a ha => Node.reg_setReg_ne _ _ ha⟩
  · exact ⟨Node.reg_setReg_self _ _ _, rfl, fun a ha => Node.reg_setReg_ne _ _ ha⟩

section
variable {s : State} {p rate time : Nat}

theorem exec_linkUp (husable : s.node.portUsable p = true) (hdown : s.node.linkUp p = false) (hloop : s.node.looped p = false)
    (hprbs : s.node.bit Reg.TST_STAT (17 + p) = false) (hwake : (s.node.port p).wakeLeft = 0) :
    (p = 12 → exec (.linkUp p rate time) s = .next (s.on fun n =>
      let m := (n.at time).onPort 12 fun q => { q.renew (n.at time).tm.raw with crossFresh := true }
      ((m.setBit Reg.JLK_STAT 0 true).setFld Reg.PAR_REPL_STAT Fld.PAR_REPL_STAT_STOPPED
        (m.fld Reg.PAR_TOKEN Fld.PAR_TOKEN_UNFIT)).raisePort2 0x1801 12 12 rate)) ∧
    (p ≠ 12 → rateOk (s.node.fld (Reg.SPN_IFTYPE p) Fld.SPN_IFTYPE_TYPE) rate = true →
      exec (.linkUp p rate time) s = .next (s.on fun n =>
        ((((((n.at time).onPort p fun q => { q.renew (n.at time).tm.raw with crossFresh := true }).linkShown p rate).preemptStart
          p rate).hostLink p true).raisePort2 0x1801 p p rate))) := by
  have hgo : ∀ ok : Bool, ok = true → ¬ (!s.node.portUsable p || s.node.linkUp p || s.node.looped p ||
      s.node.bit Reg.TST_STAT (17 + p) || (s.node.port p).wakeLeft != 0 || !ok) = true := fun ok hok => by
    rw [husable, hdown, hloop, hprbs, hwake, hok]
    decide
  refine ⟨fun hp => ?_, fun hp hrate => ?_⟩
  · subst hp
    exact exec_on_eq rfl ((if_neg (hgo _ (by rw [beq_self_eq_true, Bool.true_or]))).trans (if_pos rfl))
  · exact exec_on_eq rfl ((if_neg (hgo _ (by rw [Bool.or_eq_true]; exact .inr hrate))).trans (if_neg hp))

theorem linkUp_port (hp : p < 12) (hrate : rate < 8) (husable : s.node.portUsable p = true) (hdown : s.node.linkUp p = false)
    (hloop : s.node.looped p = false) (hprbs : s.node.bit Reg.TST_STAT (17 + p) = false) (hwake : (s.node.port p).wakeLeft = 0)
    (hok : rateOk (s.node.fld (Reg.SPN_IFTYPE p) Fld.SPN_IFTYPE_TYPE) rate = true) :
    ∃ t : State, exec (.linkUp p rate time) s = .next t ∧ t.node.linkUp p = true ∧
      t.node.fld (Reg.SPN_STAT p) Fld.SPN_STAT_RATE = rate ∧ t.node.fld (Reg.SPN_STAT p) Fld.SPN_STAT_MACSEC = 0 ∧
      t.node.reg (Reg.SPN_PREEMPT_STAT p) =
        (if s.node.fld (Reg.SPN_IFTYPE p) Fld.SPN_IFTYPE_PREEMPT = 1 ∧ 1 ≤ rate ∧ rate ≤ 4 then 18#32 else 0#32) ∧
      (∀ q, q < 12 → q ≠ p → t.node.reg (Reg.SPN_STAT q) = s.node.reg (Reg.SPN_STAT q)) ∧ t.node.st = s.node.st ∧
      t.node.net.sent = s.node.net.sent := by
  refine ⟨_, (exec_linkUp husable hdown hloop hprbs hwake).2 (by omega) hok, ?_⟩
  rw [State.on_node]
  generalize hm : (s.node.at time).onPort p (fun q => { q.renew (s.node.at time).tm.raw with crossFresh := true }) = m
  have hmreg : ∀ a, m.reg a = s.node.reg a := fun a => by rw [← hm]; rfl
  have hbounds := portBase_bounds hp
  obtain ⟨hlink, hshownRate, hmacsec⟩ := m.linkShown_fields (p := p) hrate
  obtain ⟨hverify, hnet, hother⟩ := (m.linkShown p rate).reg_preemptStart p rate
  obtain ⟨hnet', hother'⟩ := ((m.linkShown p rate).preemptStart p rate).hostLink_rest p true
  generalize ht : (((m.linkShown p rate).preemptStart p rate).hostLink p true).raisePort2 0x1801 p p rate = t
  have hreg : ∀ a, ¬ egressReg a → a < hostBlock → t.reg a = ((m.linkShown p rate).preemptStart p rate).reg a := fun a ha hlow => by
    rw [← ht, Node.reg_raisePort2 _ _ _ _ _ ha, hother' a hlow]
  have hblock : ∀ q, q < 12 → ∀ o, o < 0x100 → portBase q + o < hostBlock := fun q hq o ho => by
    have := portBase_bounds hq
    simp only [hostBlock, Reg.HST_CTX_CFG]
    omega
  have hstat : t.reg (Reg.SPN_STAT p) = (m.linkShown p rate).reg (Reg.SPN_STAT p) := by
    rw [hreg _ (not_egressReg_port hp (by decide)) (hblock p hp 4 (by decide)), hother _ (by simp only [Reg.SPN_PREEMPT_STAT]; omega)]
  refine ⟨?_, ?_, ?_, ?_, fun q hq hne => ?_, ?_, ?_⟩
  · rw [Node.linkUp_port _ hp, Node.fld, hstat, ← Node.fld, hlink]
    rfl
  · rw [Node.fld, hstat]
    exact hshownRate
  · rw [Node.fld, hstat]
    exact hmacsec
  · rw [hreg _ (not_egressReg_port hp (.inr rfl)) (hblock p hp 0x18 (by decide)), hverify, Node.fld,
      Node.reg_linkShown _ _ (by simp only [Reg.SPN_STAT, Reg.SPN_IFTYPE]; omega), hmreg]
    rfl
  · have happart := portBase_apart hp hq hne
    rw [hreg _ (not_egressReg_port hq (by decide)) (hblock q hq 4 (by decide)),
      hother _ (by simp only [Reg.SPN_PREEMPT_STAT]; omega),
      Node.reg_linkShown _ _ (by simp only [Reg.SPN_STAT]; omega), hmreg]
  · rw [Node.st, Node.fld, hreg _ (by decide) (by decide), hother _ (by simp only [Reg.INA_STATE, Reg.SPN_PREEMPT_STAT]; omega),
      Node.reg_linkShown _ _ (by simp only [Reg.SPN_STAT, Reg.INA_STATE]; omega), hmreg]
    rfl
  · rw [← ht, Node.net_raisePort2, hnet', hnet, ← hm]
    rfl

theorem linkUp_jalder (husable : s.node.portUsable 12 = true) (hdown : s.node.linkUp 12 = false)
    (hloop : s.node.looped 12 = false) (hprbs : s.node.bit Reg.TST_STAT 29 = false) (hwake : (s.node.port 12).wakeLeft = 0) :
    ∃ t : State, exec (.linkUp 12 rate time) s = .next t ∧ t.node.linkUp 12 = true ∧ t.node.st = s.node.st ∧
      t.node.net.sent = s.node.net.sent := by
  refine ⟨_, (exec_linkUp husable hdown hloop hprbs hwake).1 rfl, ?_⟩
  rw [State.on_node]
  extract_lets m
  refine ⟨?_, ?_, ?_⟩
  · rw [Node.linkUp, if_neg (by decide), Node.bit, Node.reg_raisePort2 _ _ _ _ _ (by decide), Node.reg_setFld_ne _ _ _ (by decide),
      ← Node.bit, Node.bit_setBit_self]
    · rfl
    · decide
  · rw [Node.st, Node.fld, Node.reg_raisePort2 _ _ _ _ _ (by decide), Node.reg_setFld_ne _ _ _ (by decide),
      Node.reg_setBit_ne _ _ _ (by decide)]
    rfl
  · rw [Node.net_raisePort2]
    rfl

end

/-! ### A link goes down (R145, R146) -/

/-- The state register of a port whose link is lost. -/
structure Node.Down (n : Node) (p : Nat) : Prop where
  link : n.fld (Reg.SPN_STAT p) Fld.SPN_STAT_LINK = 0
  rate : n.fld (Reg.SPN_STAT p) Fld.SPN_STAT_RATE = 0
  macsec : n.fld (Reg.SPN_STAT p) Fld.SPN_STAT_MACSEC = 0

theorem Node.Down.congr {n m : Node} {p : Nat} (h : n.Down p) (hreg : m.reg (Reg.SPN_STAT p) = n.reg (Reg.SPN_STAT p)) : m.Down p := by
  refine ⟨?_, ?_, ?_⟩
  · rw [Node.fld, hreg]
    exact h.link
  · rw [Node.fld, hreg]
    exact h.rate
  · rw [Node.fld, hreg]
    exact h.macsec

theorem Node.Down.linkUp {n : Node} {p : Nat} (h : n.Down p) (hp : p < 12) : n.linkUp p = false := by
  rw [n.linkUp_port hp, h.link]
  rfl

/-- The state register of a port as its link is lost. -/
def Node.linkCleared (n : Node) (p : Nat) : Node :=
  [Fld.SPN_STAT_LINK, Fld.SPN_STAT_RATE, Fld.SPN_STAT_MACSEC, Fld.SPN_STAT_PREEMPT].foldl
    (fun k f => k.setFld (Reg.SPN_STAT p) f 0) n

theorem Node.down_linkCleared (n : Node) (p : Nat) : (n.linkCleared p).Down p := by
  unfold Node.linkCleared
  simp only [List.foldl_cons, List.foldl_nil]
  refine ⟨?_, ?_, ?_⟩
  · rw [Node.fld_setFld_ne _ _ _ _ _ (by decide) (by decide), Node.fld_setFld_ne _ _ _ _ _ (by decide) (by decide),
      Node.fld_setFld_ne _ _ _ _ _ (by decide) (by decide), Node.fld_setFld_self _ _ _ _ (by decide)]
    rfl
  · rw [Node.fld_setFld_ne _ _ _ _ _ (by decide) (by decide), Node.fld_setFld_ne _ _ _ _ _ (by decide) (by decide),
      Node.fld_setFld_self _ _ _ _ (by decide)]
    rfl
  · rw [Node.fld_setFld_ne _ _ _ _ _ (by decide) (by decide), Node.fld_setFld_self _ _ _ _ (by decide)]
    rfl

theorem Node.reg_linkCleared (n : Node) {p a : Nat} (ha : a ≠ Reg.SPN_STAT p) : (n.linkCleared p).reg a = n.reg a := by
  unfold Node.linkCleared
  simp only [List.foldl_cons, List.foldl_nil]
  exact (Node.reg_setFld_ne _ _ _ ha).trans ((Node.reg_setFld_ne _ _ _ ha).trans
    ((Node.reg_setFld_ne _ _ _ ha).trans (Node.reg_setFld_ne _ _ _ ha)))

/-- What the serving of queues leaves of a node for the control of a port: its control register and the ports' number. -/
structure Node.Serves (n m : Node) : Prop where
  reg : ∀ p, p < 12 → m.reg (Reg.SPN_CTRL p) = n.reg (Reg.SPN_CTRL p)
  length : m.net.ports.length = n.net.ports.length

namespace Node.Serves

theorem refl (n : Node) : n.Serves n := ⟨fun _ _ => rfl, rfl⟩

theorem trans {n m k : Node} (h : n.Serves m) (h' : m.Serves k) : n.Serves k :=
  ⟨fun p hp => (h'.reg p hp).trans (h.reg p hp), h'.length.trans h.length⟩

theorem of_steers {n m : Node} (h : n.Steers m) : n.Serves m :=
  ⟨fun _ hp => h.reg _ (not_steerReg_port (o := 0) hp (by decide)), h.length⟩

theorem of_sends {n m : Node} (h : n.Sends m) : n.Serves m := of_steers (Node.Steers.of_sends h)

theorem onPort (n : Node) (p : Nat) (f : Port → Port) : n.Serves (n.onPort p f) := ⟨fun _ _ => rfl, n.length_onPort p f⟩

/-- The registers of a timestamp queue lie beside the control registers, whatever its number. -/
theorem syncTsq (n : Node) (q : Nat) : n.Serves (n.syncTsq q) := by
  unfold Node.syncTsq
  extract_lets t st stat w
  have hw : w.length = 3 := by
    simp only [w]
    split <;> rfl
  refine ⟨fun p hp => Node.reg_setRegs_out _ _ _ _ ?_, by rw [Node.setRegs_net]⟩
  rw [List.length_cons, hw]
  simp only [Reg.SPN_CTRL, Reg.TMB_TSQ_STAT, portBase]
  split <;> omega

theorem withNet (n : Node) (net : NetState) (h : net.ports = n.net.ports) : n.Serves { n with net := net } :=
  ⟨fun _ _ => rfl, by rw [h]⟩

theorem tsqPush (n : Node) (q tag port : Nat) (stamp : Word) : n.Serves (n.tsqPush q tag port stamp) := by
  have hput : ∀ tm : TimeState, n.Serves { n with tm := tm } := fun tm => ⟨fun _ _ => rfl, rfl⟩
  unfold Node.tsqPush
  extract_lets t put m
  refine trans ?_ (syncTsq m q)
  simp only [m]
  split
  · exact hput _
  · split
    · exact (hput _).trans (of_sends (Node.Sends.raise _ _ _ _))
    · exact hput _

theorem stamped (n : Node) (q : Queued) (t : Nat) : n.Serves (n.stamped q t) := by
  unfold Node.stamped
  split
  · exact tsqPush _ _ _ _ _
  · exact refl n

theorem serve (p k : Nat) (n : Node) : n.Serves (Node.serve p k n) := by
  induction k generalizing n with
  | zero => exact refl n
  | succ k ih =>
    unfold Node.serve
    have hunqueue : ∀ q, n.Serves (n.unqueue q) := fun q => withNet n _ rfl
    split
    · next q hq =>
      refine trans ?_ (ih _)
      have hcls : q.cls < 16 := by
        obtain ⟨c, hc, hfound⟩ := List.mem_filterMap.mp (List.mem_of_find?_eq_some hq)
        have := List.find?_some hfound
        simp only [Bool.and_eq_true, beq_iff_eq] at this
        simp only [List.mem_cons, List.not_mem_nil, or_false] at hc
        omega
      split
      · exact (hunqueue q).trans (of_sends (Node.Sends.clsDrop _ _ hcls))
      · exact hunqueue q
    · split
      · next t q turn ds hnext =>
        split
        · exact (((hunqueue q).trans (onPort _ _ _)).trans ((of_sends (Node.Sends.starts _ _ _ _ _)).trans (stamped _ _ _))).trans (ih _)
        · exact refl n
      · exact refl n

theorem setReg64 (n : Node) {a v : Nat} (hlo : egressReg a) (hhi : egressReg (a + 4)) : n.Serves (n.setReg64 a v) := by
  unfold Node.setReg64
  exact (of_sends (Node.Sends.setReg n _ hlo)).trans (of_sends (Node.Sends.setReg _ _ hhi))

theorem cutSending (n : Node) (p : Nat) : n.Serves (n.cutSending p) := by
  unfold Node.cutSending
  split
  · next x hx =>
    have hcut := withNet n { n.net with sent := (n.net.sent.reverse.erase x).reverse } rfl
    dsimp only
    split
    · next hp =>
      exact (hcut.trans (setReg64 _ (Node.Sends.egressReg_port hp (by omega)) (Node.Sends.egressReg_port (o := 0x114) hp (by omega)))).trans
        (setReg64 _ (Node.Sends.egressReg_port hp (by omega)) (Node.Sends.egressReg_port (o := 0x11C) hp (by omega)))
    · exact hcut.trans (setReg64 _ (by decide) (by decide))
  · exact refl n

theorem setReg_stat (n : Node) {p o : Nat} (v : Word) (hp : p < 12) (ho : o = 4 ∨ o = 0x18) : n.Serves (n.setReg (portBase p + o) v) := by
  refine ⟨fun q hq => Node.reg_setReg_ne _ _ ?_, rfl⟩
  simp only [Reg.SPN_CTRL, portBase]
  split <;> split <;> omega

theorem hostLink (n : Node) (p : Nat) (up : Bool) : n.Serves (n.hostLink p up) := by
  obtain ⟨hnet, hreg⟩ := n.hostLink_rest p up
  refine ⟨fun q hq => hreg _ ?_, by rw [hnet]⟩
  have := portBase_bounds hq
  simp only [Reg.SPN_CTRL, hostBlock, Reg.HST_CTX_CFG]
  omega

end Node.Serves

/-! The loss of a link of a port. -/

section
variable {n : Node} {p : Nat}

theorem Node.Steers.linkDown {m : Node} (h : n.Steers m) (hp : p < 12) (hdown : n.Down p) : m.Down p :=
  hdown.congr (h.reg _ (not_steerReg_port hp (by decide)))

theorem Node.linkLost_port (hp : p < 12) : (n.linkLost p).Down p ∧ n.Serves (n.linkLost p) := by
  unfold Node.linkLost
  extract_lets was renewed net emptied jalder jalder' cleared verify reported shown
  rw [if_neg (by omega)]
  have hemptied : n.Serves emptied := (Node.Serves.onPort n p _).trans (Node.Serves.withNet renewed _ rfl)
  have hcleared : emptied.Serves cleared := by
    refine ⟨fun q hq => emptied.reg_linkCleared ?_, rfl⟩
    simp only [Reg.SPN_CTRL, Reg.SPN_STAT, portBase]
    split <;> split <;> omega
  have hverify : verify.Down p :=
    (emptied.down_linkCleared p).congr (Node.reg_setReg_ne _ _ (by simp only [Reg.SPN_STAT, Reg.SPN_PREEMPT_STAT]; omega))
  have hlow : Reg.SPN_STAT p < hostBlock := by
    have := portBase_bounds hp
    simp only [hostBlock, Reg.HST_CTX_CFG, Reg.SPN_STAT]
    omega
  have hreported : reported.Down p := by
    have hlink : (verify.hostLink p false).Down p := hverify.congr ((verify.hostLink_rest p false).2 _ hlow)
    exact (Node.Steers.of_sends (Node.Sends.raiseCounted (verify.hostLink p false) _ _ _ _)).linkDown hp hlink
  have hserved : n.Serves reported := ((hemptied.trans hcleared).trans (Node.Serves.setReg_stat _ _ hp (.inr rfl))).trans
    ((Node.Serves.hostLink _ _ _).trans (Node.Serves.of_sends (Node.Sends.raiseCounted _ _ _ _ _)))
  have hshown : reported.Steers shown := by
    simp only [shown]
    split
    · exact Node.Steers.notice _ _ _
    · exact Node.Steers.refl _
  have hall := hshown.trans (Node.Steers.checkAllDown shown)
  exact ⟨hall.linkDown hp hreported, hserved.trans (Node.Serves.of_steers hall)⟩

theorem Node.linkLost_jalder : (n.linkLost 12).linkUp 12 = false := by
  unfold Node.linkLost
  extract_lets was renewed net emptied cleared reported cleared' verify reported' shown'
  rw [if_pos rfl]
  have hcleared : cleared.linkUp 12 = false := by
    rw [Node.linkUp, if_neg (by decide), Node.bit, Node.reg_setFld_ne _ _ _ (by decide), ← Node.bit,
      Node.bit_setBit_ne _ _ _ (by decide) (by decide), Node.bit_setBit_self]
    · rfl
    · decide
  have hkeeps : ∀ m k : Node, m.Steers k → m.linkUp 12 = false → k.linkUp 12 = false := fun m k h hm => by
    rw [Node.linkUp, if_neg (by decide), Node.bit, h.reg _ (by decide)]
    exact hm
  refine hkeeps _ _ (Node.Steers.checkAllDown _) ?_
  have hreported := hkeeps _ _ (Node.Steers.of_sends (Node.Sends.raiseCounted cleared 0x1902 12 1000000 12)) hcleared
  split
  · exact hkeeps _ _ (Node.Steers.notice _ _ _) hreported
  · exact hreported

/-- The copies that a link's loss cuts short are stomped. -/
theorem Node.Sends.stomps (n : Node) (cut : List (Nat × Frame)) : n.Sends (cut.foldl (fun k c => k.stompFirst c.1 c.2 5) n) :=
  Node.Sends.foldl n cut _ fun _ _ => (Node.Sends.sendStomped _ _ _).trans (Node.Sends.raiseLimited _ _ _ _ _ _)

theorem Node.linkGoesDown_up (hp : p < 12) (cut : List (Nat × Frame)) (hup : n.linkUp p = true) : (n.linkGoesDown p cut).Down p := by
  unfold Node.linkGoesDown
  extract_lets m
  have hm : m.linkUp p = true := by
    rw [Node.linkUp_port _ hp, (Node.Sends.stomps n cut).fld (not_egressReg_port hp (by decide)), ← Node.linkUp_port _ hp]
    exact hup
  rw [if_neg (by rw [hm]; decide)]
  exact (Node.linkLost_port hp).1

theorem Node.linkGoesDown_serves (hp : p < 12) : n.Serves (n.linkGoesDown p []) ∧ (n.linkGoesDown p []).linkUp p = false := by
  by_cases hdown : n.linkUp p = false
  · have hstays : n.linkGoesDown p [] = n := if_pos (show (!n.linkUp p) = true by rw [hdown]; rfl)
    rw [hstays]
    exact ⟨Node.Serves.refl n, hdown⟩
  · have hlost : n.linkGoesDown p [] = ((Node.serve p (n.net.queue.length + 1) n).cutSending p).linkLost p :=
      if_neg (show ¬ (!n.linkUp p) = true by simpa using hdown)
    rw [hlost]
    exact ⟨((Node.Serves.serve _ _ _).trans (Node.Serves.cutSending _ _)).trans (Node.linkLost_port hp).2,
      (Node.linkLost_port hp).1.linkUp hp⟩

end

section
variable {s : State} {p time : Nat}

theorem linkDown_port (cut : List (Nat × Frame)) (hp : p < 12) (hup : s.node.linkUp p = true) :
    ∃ t : State, exec (.linkDown p cut time) s = .next t ∧ t.node.linkUp p = false ∧
      t.node.fld (Reg.SPN_STAT p) Fld.SPN_STAT_RATE = 0 ∧ t.node.fld (Reg.SPN_STAT p) Fld.SPN_STAT_MACSEC = 0 := by
  have hdown : ((s.node.at time).linkGoesDown p cut).Down p := Node.linkGoesDown_up hp cut hup
  exact ⟨_, rfl, hdown.linkUp hp, hdown.rate, hdown.macsec⟩

theorem linkDown_jalder (hup : s.node.linkUp 12 = true) :
    ∃ t : State, exec (.linkDown 12 [] time) s = .next t ∧ t.node.linkUp 12 = false := by
  refine ⟨_, rfl, ?_⟩
  rw [State.on_node, Node.linkGoesDown, if_neg (by simp only [List.foldl_nil]; rw [show (s.node.at time).linkUp 12 = true from hup]; decide)]
  exact Node.linkLost_jalder

theorem exec_linkUp_withdrawn (rate : Nat) (h : s.node.looped p = true ∨ s.node.portUsable p = false) :
    exec (.linkUp p rate time) s = .next (s.on fun n => n.at time) := by
  refine exec_on_eq rfl (if_pos ?_)
  rcases h with h | h
  · rw [show (s.node.at time).looped p = true from h]
    simp only [Bool.or_true, Bool.true_or]
  · rw [show (s.node.at time).portUsable p = false from h]
    simp only [Bool.not_false, Bool.true_or]

/-! ### Protection, preemption and MDIO (R144, R175, R181, R195) -/

theorem exec_macsecMismatch_blocks {cause : Nat} (hsec : s.node.secOn p = true) (hup : s.node.linkUp p = true)
    (hopen : (s.node.port p).secBlocked = false)
    (hcause : cause ≠ 3 ∨ (s.node.fld (Reg.SPN_STAT p) Fld.SPN_STAT_MACSEC = 0 ∧ (s.node.port p).linkAt + 10000000 ≤ time)) :
    exec (.macsecMismatch p cause time) s = .next (s.on fun n =>
      let m := (((n.at time).setFld (Reg.SPN_STAT p) Fld.SPN_STAT_MACSEC 0).onPort p fun q => { q with secBlocked := true }).raise
        0x1A03 p cause
      if (n.at time).member p then (m.notice 2 p).checkAllDown else m) := by
  have hdue : (s.node.secOn p && s.node.linkUp p && (cause != 3 ||
      (s.node.fld (Reg.SPN_STAT p) Fld.SPN_STAT_MACSEC == 0 && decide ((s.node.port p).linkAt + 10000000 ≤ max s.node.tm.raw time)))) =
      true := by
    rw [hsec, hup, Bool.true_and, Bool.true_and, Bool.or_eq_true]
    rcases hcause with hcause | ⟨hmacsec, hlate⟩
    · exact .inl (bne_iff_ne.mpr hcause)
    · refine .inr ?_
      rw [hmacsec, decide_eq_true (hlate.trans (Nat.le_max_right _ _))]
      rfl
  exact exec_on_eq rfl ((if_pos hdue).trans (if_neg (show ¬ (s.node.port p).secBlocked = true by rw [hopen]; decide)))

theorem exec_macsecMismatch_blocked (cause : Nat) (hblocked : (s.node.port p).secBlocked = true) :
    exec (.macsecMismatch p cause time) s = .next (s.on fun n => n.at time) := by
  have hstays : (s.node.at time).secMismatch p cause = s.node.at time := if_pos hblocked
  refine exec_on_eq rfl ?_
  dsimp only
  split
  · exact hstays
  · rfl

theorem exec_preemptVerifyAttempt_again (hverify : s.node.bits (Reg.SPN_PREEMPT_STAT p) 0 3 = 2)
    (hmore : s.node.bits (Reg.SPN_PREEMPT_STAT p) 4 2 < 3) :
    exec (.preemptVerifyAttempt p time) s = .next (s.on fun n =>
      (n.at time).setBits (Reg.SPN_PREEMPT_STAT p) 4 2 (n.bits (Reg.SPN_PREEMPT_STAT p) 4 2 + 1)) :=
  exec_on_eq rfl ((if_neg (fun hno => hno hverify)).trans (if_pos hmore))

theorem exec_preemptVerifyAttempt_fails (hverify : s.node.bits (Reg.SPN_PREEMPT_STAT p) 0 3 = 2)
    (hlast : s.node.bits (Reg.SPN_PREEMPT_STAT p) 4 2 = 3) :
    exec (.preemptVerifyAttempt p time) s = .next (s.on fun n =>
      ((n.at time).setBits (Reg.SPN_PREEMPT_STAT p) 0 3 4).raisePort2 0x1909 p p 0) :=
  exec_on_eq rfl ((if_neg (fun hno => hno hverify)).trans
    (if_neg (show ¬ s.node.bits (Reg.SPN_PREEMPT_STAT p) 4 2 < 3 by omega)))

theorem exec_preemptVerifyFrameReceived (hverify : s.node.bits (Reg.SPN_PREEMPT_STAT p) 0 3 = 2) :
    exec (.preemptVerifyFrameReceived p true time) s = .next (s.on fun n =>
      ((n.at time).setBits (Reg.SPN_PREEMPT_STAT p) 0 3 3).setFld (Reg.SPN_STAT p) Fld.SPN_STAT_PREEMPT 1) := by
  refine exec_on_eq rfl (if_pos ?_)
  rw [show (s.node.at time).bits (Reg.SPN_PREEMPT_STAT p) 0 3 = 2 from hverify]
  decide

theorem exec_mdioGoWrite {ctx m : Nat} {v : Word} (h : s.node.admits ctx (Reg.SPN_MDIO_CMD m) true = true)
    (hgo : v.toNat.testBit 0 = true) :
    (s.node.bit (Reg.SPN_MDIO_STAT m) 0 = true → exec (.mdioGoWrite ctx m v) s = .next (s.on fun n => n.answer 0#32)) ∧
    (s.node.bit (Reg.SPN_MDIO_STAT m) 0 = false → exec (.mdioGoWrite ctx m v) s = .next (s.on fun n =>
      let k := (((n.answer 0#32).setReg (Reg.SPN_MDIO_CMD m) (v &&& 0x001F1F0E#32)).setBit (Reg.SPN_MDIO_STAT m) 0 true).setBit
        (Reg.SPN_MDIO_STAT m) 1 false
      { k with net := { k.net with mdioSoft := k.net.mdioSoft ++ [m] } })) := by
  have hodd : v.toNat % 2 = 1 := by simpa [Nat.testBit_zero] using hgo
  have haccess := Node.access_admitted s.node ctx _ true (fun k => k.mdioWrite m v) h
  refine ⟨fun hbusy => exec_on_eq rfl (haccess.trans (if_pos ⟨hodd, hbusy⟩)), fun hidle => exec_on_eq rfl (haccess.trans ?_)⟩
  exact (if_neg (fun hbusy => Bool.noConfusion (hidle.symm.trans hbusy.2))).trans (if_neg (by omega))

/-- The frame of software on a master without a script ends with its data word. -/
theorem Node.mdioDone_read {n : Node} {m : Nat} (data : Nat) (hsoft : n.net.mdioSoft = [m]) (hscript : n.net.script = [])
    (hop : n.fld (Reg.SPN_MDIO_CMD m) Fld.SPN_MDIO_CMD_OP = 1) :
    n.mdioDone m data =
      (let k := { n with net := { n.net with mdioSoft := [] } }.setReg (Reg.SPN_MDIO_DATA m) (word (data % 65536))
       ((k.setBit (Reg.SPN_MDIO_STAT m) 1 true).setBit (Reg.SPN_MDIO_STAT m) 0 false).setBit (Reg.SPN_MDIO_STAT m) 2 false) := by
  have hin : n.net.mdioSoft.contains m = true := by
    rw [hsoft, List.contains_cons, beq_self_eq_true, Bool.true_or]
  have hrest : n.net.mdioSoft.filter (· != m) = [] := by
    rw [hsoft]
    simp
  unfold Node.mdioDone
  extract_lets more net soft op read
  have hread : read = soft.setReg (Reg.SPN_MDIO_DATA m) (word (data % 65536)) := if_pos (.inl hop)
  have hmore : ∀ k : Node, k.net.script = [] →
      more k = (k.setBit (Reg.SPN_MDIO_STAT m) 0 false).setBit (Reg.SPN_MDIO_STAT m) 2 false := fun k hk => if_neg (by rw [hk, List.any_nil]; decide)
  have hempty : soft = { n with net := { n.net with mdioSoft := [] } } := by simp only [soft, net, hrest]
  rw [if_pos hin, hmore _ (by rw [Node.setBit_net, hread]; exact hscript), hread, hempty]

/-- The last write of a script on a master without a frame of software ends. -/
theorem Node.mdioDone_script {n : Node} {m : Nat} (data : Nat) {w : MdioWrite} (hsoft : n.net.mdioSoft = [])
    (hscript : n.net.script = [w]) (hw : w.master = m) :
    n.mdioDone m data = ({ n with net := { n.net with script := [] } }.setBit (Reg.SPN_MDIO_STAT m) 0 false).setBit
      (Reg.SPN_MDIO_STAT m) 2 false := by
  unfold Node.mdioDone
  extract_lets more net soft op read
  have hmore : ∀ k : Node, k.net.script = [] →
      more k = (k.setBit (Reg.SPN_MDIO_STAT m) 0 false).setBit (Reg.SPN_MDIO_STAT m) 2 false := fun k hk => if_neg (by rw [hk, List.any_nil]; decide)
  have hfind : n.net.script.find? (fun w => w.master == m) = some w := by
    rw [hscript, List.find?_cons_of_pos (by rw [hw, beq_self_eq_true])]
  rw [if_neg (by rw [hsoft, List.contains_nil]; decide), hfind]
  refine (hmore _ ?_).trans ?_
  · simp [hscript]
  · simp [hscript]

theorem exec_mdioFrameDone_read {m data : Nat} (hsoft : s.node.net.mdioSoft = [m]) (hscript : s.node.net.script = [])
    (hop : s.node.fld (Reg.SPN_MDIO_CMD m) Fld.SPN_MDIO_CMD_OP = 1) :
    exec (.mdioFrameDone m data time) s = .next (s.on fun n =>
      let k := { n.at time with net := { n.net with mdioSoft := [] } }.setReg (Reg.SPN_MDIO_DATA m) (word (data % 65536))
      ((k.setBit (Reg.SPN_MDIO_STAT m) 1 true).setBit (Reg.SPN_MDIO_STAT m) 0 false).setBit (Reg.SPN_MDIO_STAT m) 2 false) := by
  exact exec_on_eq rfl (Node.mdioDone_read data hsoft hscript hop)

theorem exec_mdioFrameDone_script {m : Nat} (data : Nat) {w : MdioWrite} (hsoft : s.node.net.mdioSoft = [])
    (hscript : s.node.net.script = [w]) (hw : w.master = m) :
    exec (.mdioFrameDone m data time) s = .next (s.on fun n =>
      ({ n.at time with net := { n.net with script := [] } }.setBit (Reg.SPN_MDIO_STAT m) 0 false).setBit
        (Reg.SPN_MDIO_STAT m) 2 false) :=
  exec_on_eq rfl (Node.mdioDone_script data hsoft hscript hw)

end

/-! ### Port control and wake frames (R184 to R186, R190) -/

section
variable {n : Node} {p : Nat}

/-- A lane that stops its wake frames keeps its link and its hold. -/
theorem Node.stopWake_keeps (hp : p < 12) :
    (n.stopWake p).fld (Reg.SPN_CTRL p) Fld.SPN_CTRL_ADMIN_DOWN = n.fld (Reg.SPN_CTRL p) Fld.SPN_CTRL_ADMIN_DOWN ∧
    (n.stopWake p).linkUp p = n.linkUp p := by
  unfold Node.stopWake
  split
  · exact ⟨rfl, rfl⟩
  · constructor
    · rw [Node.fld, Node.reg_setFld_ne _ _ _ (by simp only [Reg.SPN_CTRL, Reg.SPN_STAT]; omega), ← Node.fld,
        Node.fld_setFld_ne _ _ _ _ _ (by decide) (by decide)]
      rfl
    · rw [Node.linkUp_port _ hp, Node.fld_setFld_ne _ _ _ _ _ (by decide) (by decide), Node.fld,
        Node.reg_setFld_ne _ _ _ (by simp only [Reg.SPN_CTRL, Reg.SPN_STAT]; omega), Node.linkUp_port _ hp]
      rfl

/-- The last wake frame of a lane returns it to its type. -/
theorem Node.stopWake_ends (hp : p < n.net.ports.length) (hwake : (n.port p).wakeLeft ≠ 0) :
    ((n.stopWake p).port p).wakeLeft = 0 ∧ (n.stopWake p).fld (Reg.SPN_CTRL p) Fld.SPN_CTRL_WAKE_SEND = 0 ∧
    (n.stopWake p).fld (Reg.SPN_STAT p) Fld.SPN_STAT_LISTEN = 0 := by
  unfold Node.stopWake
  rw [if_neg hwake]
  refine ⟨?_, ?_, ?_⟩
  · change ((n.onPort p fun q => { q with wakeLeft := 0 }).port p).wakeLeft = 0
    rw [n.port_onPort_self _ hp]
  · rw [Node.fld, Node.reg_setFld_ne _ _ _ (by simp only [Reg.SPN_CTRL, Reg.SPN_STAT]; omega), ← Node.fld,
      Node.fld_setFld_self _ _ _ _ (by decide)]
    rfl
  · rw [Node.fld_setFld_self _ _ _ _ (by decide)]
    rfl

/-- A lane that may wake starts with 100 wake frames, its link down. -/
theorem Node.startWake_starts (hp : p = 0 ∨ p = 2) (husable : n.portUsable p = true) (hidle : (n.port p).wakeLeft = 0)
    (hloop : n.looped p = false) (hprbs : n.bit Reg.TST_STAT (17 + p) = false) (hlength : p < n.net.ports.length) :
    ((n.startWake p).port p).wakeLeft = 100 ∧ (n.startWake p).linkUp p = false ∧
    (n.startWake p).fld (Reg.SPN_CTRL p) Fld.SPN_CTRL_WAKE_SEND = 1 ∧
    (n.startWake p).fld (Reg.SPN_STAT p) Fld.SPN_STAT_LISTEN = 1 := by
  have hlow : p < 12 := by omega
  obtain ⟨hserves, hdown⟩ := n.linkGoesDown_serves hlow
  unfold Node.startWake
  rw [if_pos ⟨hp, husable, hidle, by rw [hloop]; rfl, by rw [hprbs]; rfl⟩]
  generalize n.linkGoesDown p [] = m at hserves hdown
  have hport : p < m.net.ports.length := by rw [hserves.length]; exact hlength
  refine ⟨?_, ?_, ?_, ?_⟩
  · change ((m.onPort p fun q => { q with wakeLeft := 100, wakeAt := m.tm.raw }).port p).wakeLeft = 100
    rw [m.port_onPort_self _ hport]
  · rw [Node.linkUp_port _ hlow, Node.fld_setFld_ne _ _ _ _ _ (by decide) (by decide), Node.fld,
      Node.reg_setFld_ne _ _ _ (by simp only [Reg.SPN_CTRL, Reg.SPN_STAT]; omega), ← hdown, Node.linkUp_port _ hlow]
    rfl
  · rw [Node.fld, Node.reg_setFld_ne _ _ _ (by simp only [Reg.SPN_CTRL, Reg.SPN_STAT]; omega), ← Node.fld,
      Node.fld_setFld_self _ _ _ _ (by decide)]
    rfl
  · rw [Node.fld_setFld_self _ _ _ _ (by decide)]
    rfl

end

section
variable {s : State} {p time : Nat}

theorem exec_portCtrl {ctx : Nat} {v : Word} (h : s.node.admits ctx (Reg.SPN_CTRL p) true = true) :
    exec (.adminDownWrite ctx p v) s = .next (s.on fun n => (n.answer 0#32).portCtrl p v) ∧
    exec (.wakeSendWrite ctx p v) s = .next (s.on fun n => (n.answer 0#32).portCtrl p v) :=
  ⟨exec_on_eq rfl (Node.access_admitted s.node ctx _ true _ h), exec_on_eq rfl (Node.access_admitted s.node ctx _ true _ h)⟩

/-- A port with its `ADMIN_DOWN` written, before its link and its hold follow. -/
def Node.portMarked (n : Node) (p down : Nat) : Node := n.setFld (Reg.SPN_CTRL p) Fld.SPN_CTRL_ADMIN_DOWN down

theorem Node.portMarked_keeps (n : Node) (p down : Nat) {a : Nat} (ha : a ≠ Reg.SPN_CTRL p) :
    (n.portMarked p down).reg a = n.reg a := Node.reg_setFld_ne _ _ _ ha

theorem Node.portCtrl_typed {n : Node} {v : Word} (htype : n.fld (Reg.SPN_IFTYPE p) Fld.SPN_IFTYPE_TYPE ≠ 0) :
    n.portCtrl p v =
      (let m := n.portMarked p (v.toNat % 2)
       let held := (if v.toNat % 2 = 1 then (m.linkGoesDown p []).stopWake p else m).setFld (Reg.SPN_STAT p) Fld.SPN_STAT_HELD
         (v.toNat % 2)
       if v.toNat.testBit 1 then held.startWake p else held) := by
  have hmarked : (n.portMarked p (v.toNat % 2)).fld (Reg.SPN_IFTYPE p) Fld.SPN_IFTYPE_TYPE ≠ 0 := by
    rw [Node.fld, n.portMarked_keeps p _ (by simp only [Reg.SPN_IFTYPE, Reg.SPN_CTRL]; omega)]
    exact htype
  have hheld : (if (n.portMarked p (v.toNat % 2)).fld (Reg.SPN_IFTYPE p) Fld.SPN_IFTYPE_TYPE = 0 then n.portMarked p (v.toNat % 2)
      else (if v.toNat % 2 = 1 then ((n.portMarked p (v.toNat % 2)).linkGoesDown p []).stopWake p
        else n.portMarked p (v.toNat % 2)).setFld (Reg.SPN_STAT p) Fld.SPN_STAT_HELD (v.toNat % 2)) = _ := if_neg hmarked
  dsimp only
  rw [← hheld]
  rfl

theorem adminDownWrite_holds {ctx : Nat} {v : Word} (hp : p < 12) (h : s.node.admits ctx (Reg.SPN_CTRL p) true = true)
    (htype : s.node.fld (Reg.SPN_IFTYPE p) Fld.SPN_IFTYPE_TYPE ≠ 0) (hv : v.toNat < 2) :
    ∃ t : State, exec (.adminDownWrite ctx p v) s = .next t ∧
      t.node.fld (Reg.SPN_CTRL p) Fld.SPN_CTRL_ADMIN_DOWN = v.toNat ∧
      t.node.fld (Reg.SPN_STAT p) Fld.SPN_STAT_HELD = v.toNat ∧ (v.toNat = 1 → t.node.linkUp p = false) ∧
      (v.toNat = 0 → t.node.linkUp p = s.node.linkUp p ∧ t.node.net = s.node.net) := by
  refine ⟨_, (exec_portCtrl h).1, ?_⟩
  have hno : ¬ v.toNat.testBit 1 = true := by
    rw [Nat.testBit_lt_two_pow (by omega)]
    decide
  rw [State.on_node, Node.portCtrl_typed (n := s.node.answer 0#32) htype, Nat.mod_eq_of_lt hv]
  extract_lets m held
  rw [if_neg hno]
  have hmarked : m.fld (Reg.SPN_CTRL p) Fld.SPN_CTRL_ADMIN_DOWN = v.toNat := by
    refine (Node.fld_setFld_self _ _ _ _ (by decide)).trans ?_
    exact Nat.mod_eq_of_lt hv
  have hctrl : ∀ k : Node, ∀ d, (k.setFld (Reg.SPN_STAT p) Fld.SPN_STAT_HELD d).fld (Reg.SPN_CTRL p) Fld.SPN_CTRL_ADMIN_DOWN =
      k.fld (Reg.SPN_CTRL p) Fld.SPN_CTRL_ADMIN_DOWN := fun k d => by
    rw [Node.fld, Node.reg_setFld_ne _ _ _ (by simp only [Reg.SPN_CTRL, Reg.SPN_STAT]; omega)]
    rfl
  have hlink : ∀ k : Node, ∀ d, (k.setFld (Reg.SPN_STAT p) Fld.SPN_STAT_HELD d).linkUp p = k.linkUp p := fun k d => by
    rw [Node.linkUp_port _ hp, Node.linkUp_port _ hp, Node.fld_setFld_ne _ _ _ _ _ (by decide) (by decide)]
  have hheld : held.fld (Reg.SPN_STAT p) Fld.SPN_STAT_HELD = v.toNat := by
    refine (Node.fld_setFld_self _ _ _ _ (by decide)).trans ?_
    exact Nat.mod_eq_of_lt hv
  refine ⟨?_, hheld, fun hone => ?_, fun hzero => ?_⟩
  · refine (hctrl _ _).trans ?_
    split
    · rw [(Node.stopWake_keeps hp).1, Node.fld, (m.linkGoesDown_serves hp).1.reg p hp]
      exact hmarked
    · exact hmarked
  · refine (hlink _ _).trans ?_
    rw [if_pos hone, (Node.stopWake_keeps hp).2]
    exact (m.linkGoesDown_serves hp).2
  · refine ⟨(hlink _ _).trans ?_, ?_⟩
    · rw [if_neg (by omega), Node.linkUp_port _ hp, Node.fld, Node.portMarked_keeps _ _ _ (by simp only [Reg.SPN_STAT, Reg.SPN_CTRL]; omega),
        Node.linkUp_port _ hp]
      rfl
    · simp only [held]
      rw [if_neg (by omega)]
      rfl

theorem wakeSendWrite_wakes {ctx : Nat} (hp : p = 0 ∨ p = 2) (h : s.node.admits ctx (Reg.SPN_CTRL p) true = true)
    (htype : s.node.fld (Reg.SPN_IFTYPE p) Fld.SPN_IFTYPE_TYPE ≠ 0) (hpll : s.node.bit Reg.PCR_PLL_STAT (6 + p) = true)
    (hloop : s.node.looped p = false) (hprbs : s.node.bit Reg.TST_STAT (17 + p) = false) (hwake : (s.node.port p).wakeLeft = 0)
    (hlength : s.node.net.ports.length = 13) :
    ∃ t : State, exec (.wakeSendWrite ctx p 2#32) s = .next t ∧ (t.node.port p).wakeLeft = 100 ∧ t.node.linkUp p = false ∧
      t.node.fld (Reg.SPN_CTRL p) Fld.SPN_CTRL_WAKE_SEND = 1 ∧ t.node.fld (Reg.SPN_STAT p) Fld.SPN_STAT_LISTEN = 1 := by
  refine ⟨_, (exec_portCtrl h).2, ?_⟩
  rw [State.on_node, Node.portCtrl_typed (n := s.node.answer 0#32) htype]
  generalize hm : (s.node.answer 0#32).portMarked p ((2#32).toNat % 2) = m
  dsimp only
  rw [if_pos (show (2#32).toNat.testBit 1 = true by decide), if_neg (show ¬ (2#32).toNat % 2 = 1 by decide)]
  have hmreg : ∀ a, a ≠ Reg.SPN_CTRL p → m.reg a = s.node.reg a := fun a ha => by
    rw [← hm]
    exact Node.portMarked_keeps _ _ _ ha
  have hreg : ∀ a, a ≠ Reg.SPN_CTRL p → a ≠ Reg.SPN_STAT p →
      (m.setFld (Reg.SPN_STAT p) Fld.SPN_STAT_HELD ((2#32).toNat % 2)).reg a = s.node.reg a := fun a ha ha' =>
    (Node.reg_setFld_ne _ _ _ ha').trans (hmreg a ha)
  have hlow : p < 12 := by omega
  have hbounds := portBase_bounds hlow
  have hnet : (m.setFld (Reg.SPN_STAT p) Fld.SPN_STAT_HELD ((2#32).toNat % 2)).net = s.node.net := by rw [← hm]; rfl
  have hbit : ∀ a i, a ≠ Reg.SPN_CTRL p → a ≠ Reg.SPN_STAT p →
      (m.setFld (Reg.SPN_STAT p) Fld.SPN_STAT_HELD ((2#32).toNat % 2)).bit a i = s.node.bit a i := fun a i ha ha' => by
    rw [Node.bit, hreg a ha ha']
    rfl
  refine Node.startWake_starts hp ?_ ?_ ?_ ?_ ?_
  · rw [Node.portUsable, hbit _ _ (by simp only [Reg.PCR_PLL_STAT, Reg.SPN_CTRL]; omega)
      (by simp only [Reg.PCR_PLL_STAT, Reg.SPN_STAT]; omega), hpll, if_pos hlow, Node.fld_setFld_self _ _ _ _ (by decide), Node.fld,
      hreg _ (by simp only [Reg.SPN_IFTYPE, Reg.SPN_CTRL]; omega) (by simp only [Reg.SPN_IFTYPE, Reg.SPN_STAT]; omega), ← Node.fld,
      bne_iff_ne.mpr htype]
    decide
  · rw [Node.port, hnet]
    exact hwake
  · rw [Node.looped, hbit _ _ (by simp only [Reg.TST_STAT, Reg.SPN_CTRL]; omega) (by simp only [Reg.TST_STAT, Reg.SPN_STAT]; omega)]
    exact hloop
  · rw [hbit _ _ (by simp only [Reg.TST_STAT, Reg.SPN_CTRL]; omega) (by simp only [Reg.TST_STAT, Reg.SPN_STAT]; omega)]
    exact hprbs
  · rw [hnet]
    omega

/-- A lane without a link that starts to wake. -/
def Node.waking (n : Node) (p : Nat) : Node :=
  ((n.onPort p fun q => { q with wakeLeft := 100, wakeAt := n.tm.raw }).setFld (Reg.SPN_CTRL p) Fld.SPN_CTRL_WAKE_SEND 1).setFld
    (Reg.SPN_STAT p) Fld.SPN_STAT_LISTEN 1

theorem Node.port_waking (n : Node) (hp : p < n.net.ports.length) :
    (n.waking p).port p = { n.port p with wakeLeft := 100, wakeAt := n.tm.raw } := n.port_onPort_self _ hp

theorem Node.port_wakesDone (n : Node) (q : Nat) : { n with net := { n.net with wakeAutoDone := true } }.port q = n.port q := rfl

theorem Node.port_waking_ne {n : Node} {q : Nat} (hq : q ≠ p) : (n.waking p).port q = n.port q :=
  (n.port_onPort p _ q).trans (if_neg (fun h => hq h.1))

theorem Node.length_waking (n : Node) : (n.waking p).net.ports.length = n.net.ports.length := n.length_onPort p _

/-- What lets a lane without a link wake by itself. -/
structure Node.Wakes (n : Node) (p : Nat) : Prop where
  down : n.linkUp p = false
  usable : n.portUsable p = true
  idle : (n.port p).wakeLeft = 0
  loop : n.looped p = false
  prbs : n.bit Reg.TST_STAT (17 + p) = false

theorem Node.Wakes.startWake {n : Node} (h : n.Wakes p) (hp : p = 0 ∨ p = 2) : n.startWake p = n.waking p := by
  have hstays : n.linkGoesDown p [] = n := if_pos (show (!n.linkUp p) = true by rw [h.down]; rfl)
  unfold Node.startWake
  rw [if_pos ⟨hp, h.usable, h.idle, by rw [h.loop]; rfl, by rw [h.prbs]; rfl⟩]
  dsimp only
  rw [hstays]
  rfl

/-- The second lane may wake as before when the first one has started. -/
theorem Node.Wakes.second {n : Node} (h : n.Wakes 2) : (n.waking 0).Wakes 2 := by
  have hreg : ∀ a, a ≠ Reg.SPN_CTRL 0 → a ≠ Reg.SPN_STAT 0 → (n.waking 0).reg a = n.reg a := fun a ha ha' =>
    (Node.reg_setFld_ne _ _ _ ha').trans (Node.reg_setFld_ne _ _ _ ha)
  have hport : (n.waking 0).port 2 = n.port 2 := Node.port_waking_ne (by decide)
  refine ⟨?_, ?_, by rw [hport]; exact h.idle, ?_, ?_⟩
  · rw [Node.linkUp_port _ (by decide), Node.fld, hreg _ (by decide) (by decide), ← Node.fld, ← Node.linkUp_port _ (by decide)]
    exact h.down
  · rw [Node.portUsable, Node.bit, Node.fld, Node.fld, hreg _ (by decide) (by decide), hreg _ (by decide) (by decide),
      hreg _ (by decide) (by decide)]
    exact h.usable
  · rw [Node.looped, Node.bit, hreg _ (by decide) (by decide)]
    exact h.loop
  · rw [Node.bit, hreg _ (by decide) (by decide)]
    exact h.prbs

theorem wakeSendAuto_wakes (hst : s.node.st = stLink) (hauto : s.node.net.wakeAutoDone = false)
    (hlength : s.node.net.ports.length = 13) (hdue : s.node.ina.entered + 100000000 ≤ time)
    (hlanes : ∀ p, p = 0 ∨ p = 2 → s.node.linkUp p = false ∧ s.node.portUsable p = true ∧ (s.node.port p).wakeLeft = 0 ∧
      s.node.looped p = false ∧ s.node.bit Reg.TST_STAT (17 + p) = false) :
    ∃ t : State, exec (.wakeSendAuto time) s = .next t ∧ t.node.net.wakeAutoDone = true ∧
      (t.node.port 0).wakeLeft = 100 ∧ (t.node.port 2).wakeLeft = 100 := by
  have hwakes : ∀ p, p = 0 ∨ p = 2 → (s.node.at time).Wakes p := fun p hp => by
    obtain ⟨hdown, husable, hidle, hloop, hprbs⟩ := hlanes p hp
    exact ⟨hdown, husable, hidle, hloop, hprbs⟩
  have hfirst := hwakes 0 (.inl rfl)
  have hsecond := (hwakes 2 (.inr rfl)).second
  have hboth : [0, 2].foldl (fun k p => if k.linkUp p then k else k.startWake p) (s.node.at time) =
      ((s.node.at time).waking 0).waking 2 := by
    have hdown : ¬ (s.node.at time).linkUp 0 = true := by rw [hfirst.down]; decide
    have hdown' : ¬ ((s.node.at time).waking 0).linkUp 2 = true := by rw [hsecond.down]; decide
    rw [List.foldl_cons, List.foldl_cons, List.foldl_nil, if_neg hdown, hfirst.startWake (.inl rfl), if_neg hdown',
      hsecond.startWake (.inr rfl)]
  have hexec : exec (.wakeSendAuto time) s = .next (s.on fun n =>
      let k := ((n.at time).waking 0).waking 2
      { k with net := { k.net with wakeAutoDone := true } }) := by
    refine exec_on_eq rfl ((if_pos ⟨hst, by rw [show (s.node.at time).net.wakeAutoDone = false from hauto]; rfl,
      hdue.trans (Nat.le_max_right _ _)⟩).trans ?_)
    dsimp only
    rw [hboth]
  have hlen : (s.node.at time).net.ports.length = 13 := hlength
  refine ⟨_, hexec, rfl, ?_, ?_⟩
  · rw [State.on_node, Node.port_wakesDone, Node.port_waking_ne (by decide), Node.port_waking _ (by omega)]
  · rw [State.on_node, Node.port_wakesDone, Node.port_waking _ (by rw [Node.length_waking]; omega)]

/-- The node with a wake frame on the wire, counted. -/
def Node.waked (n : Node) (p : Nat) : Node :=
  (({ n with net := { n.net with sent := n.net.sent ++ [Sent.mk p n.wakeFrame n.tm.raw false 0 []] } }.add64
    (Reg.SPN_TX_FRM_LO p) 1).add64 (Reg.SPN_TX_OCT_LO p) (frameLen n.wakeFrame))

theorem Node.net_waked (n : Node) : (n.waked p).net =
    { n.net with sent := n.net.sent ++ [Sent.mk p n.wakeFrame n.tm.raw false 0 []] } := by
  rw [Node.waked, Node.add64_net, Node.add64_net]

theorem Node.sent_onPort (n : Node) (p : Nat) (f : Port → Port) : (n.onPort p f).net.sent = n.net.sent := rfl

theorem Node.sent_stopWake (n : Node) : (n.stopWake p).net.sent = n.net.sent := by
  unfold Node.stopWake
  split
  · rfl
  · rw [Node.setFld_net, Node.setFld_net, Node.sent_onPort]

theorem wakeFrameSend_sends (hp : p = 0 ∨ p = 2) (hleft : 0 < (s.node.port p).wakeLeft) (hlength : s.node.net.ports.length = 13)
    (hdue : (s.node.port p).wakeAt ≤ time) :
    ∃ t : State, exec (.wakeFrameSend p time) s = .next t ∧
      t.node.net.sent = s.node.net.sent ++ [Sent.mk p
        ⟨addrWake, s.node.identity, none, (s.node.reg Reg.SPN_ETYPE).toNat, encBE 4 (s.node.reg Reg.SPN_WAKE_CODE).toNat ++
          zeros 42⟩
        (max s.node.tm.raw time) false 0 []] ∧
      (t.node.port p).wakeLeft = (s.node.port p).wakeLeft - 1 ∧
      ((s.node.port p).wakeLeft = 1 → t.node.fld (Reg.SPN_CTRL p) Fld.SPN_CTRL_WAKE_SEND = 0 ∧
        t.node.fld (Reg.SPN_STAT p) Fld.SPN_STAT_LISTEN = 0) := by
  have hgo : ¬ ((s.node.port p).wakeLeft = 0 ∨ max s.node.tm.raw time < (s.node.port p).wakeAt) := by
    have := Nat.le_max_right s.node.tm.raw time
    omega
  have hport : p < ((s.node.at time).waked p).net.ports.length := by
    rw [Node.net_waked]
    change p < s.node.net.ports.length
    omega
  have hkept : ((s.node.at time).waked p).port p = s.node.port p := by
    rw [Node.port, Node.net_waked]
    rfl
  by_cases hlast : (s.node.port p).wakeLeft = 1
  · obtain ⟨hnone, hctrl, hlisten⟩ := ((s.node.at time).waked p).stopWake_ends hport (by rw [hkept]; omega)
    have hsent := ((s.node.at time).waked p).sent_stopWake (p := p)
    rw [Node.net_waked] at hsent
    exact ⟨_, exec_on_eq (g := fun n => ((n.at time).waked p).stopWake p) rfl ((if_neg hgo).trans (if_pos hlast)), hsent,
      by rw [hlast]; exact hnone, fun _ => ⟨hctrl, hlisten⟩⟩
  · refine ⟨_, exec_on_eq (g := fun n => ((n.at time).waked p).onPort p fun q =>
      { q with wakeLeft := (n.port p).wakeLeft - 1, wakeAt := q.wakeAt + 1000000 }) rfl ((if_neg hgo).trans (if_neg hlast)), ?_, ?_,
      fun hone => absurd hone hlast⟩
    · rw [State.on_node, Node.sent_onPort, Node.net_waked]
      rfl
    · rw [State.on_node, Node.port_onPort_self _ _ hport]

end

/-- Settles O27. -/
theorem linksPortsAndMdioAct : Obligations.LinksPortsAndMdioAct :=
  ⟨fun _ _ _ _ => linkUp_port, fun _ _ _ => linkUp_jalder, fun _ _ _ cut => linkDown_port cut, fun _ _ => linkDown_jalder,
    fun _ _ rate _ => exec_linkUp_withdrawn rate, fun _ _ _ _ => exec_macsecMismatch_blocks,
    fun _ _ cause _ => exec_macsecMismatch_blocked cause, fun _ _ _ => exec_preemptVerifyAttempt_again,
    fun _ _ _ => exec_preemptVerifyAttempt_fails, fun _ _ _ => exec_preemptVerifyFrameReceived,
    fun _ _ _ _ => adminDownWrite_holds, fun _ _ _ => wakeSendWrite_wakes, fun _ _ => wakeSendAuto_wakes,
    fun _ _ _ => wakeFrameSend_sends, fun _ _ _ _ => exec_mdioGoWrite, fun _ _ _ _ => exec_mdioFrameDone_read,
    fun _ _ data _ _ => exec_mdioFrameDone_script data⟩

end Sys2Proof.Machine
end

section
/-! PROOF. The polled window and the requests for a mode switch (R225 to R229, R235 to R237, R363). -/

namespace Sys2Proof.Machine

/-! ### What sending keeps -/

theorem Node.Sends.relay (n : Node) (r : Rx) (lineB : Bool) (keep : Nat → Bool) : n.Sends (n.relay r lineB keep) :=
  foldl n _ _ fun m p => pass m r p _

theorem Node.Sends.forwardJoined (n : Node) (r : Rx) (lineB : Bool) : n.Sends (n.forwardJoined r lineB) := relay _ _ _ _

theorem Node.Sends.tell (n : Node) (h : SpineHdr) (payload : List Byte) (keep : Nat → Bool) : n.Sends (n.tell h payload keep) :=
  originate _ _ _ _

theorem Node.Sends.sendMsgOn (n : Node) (lines : Bool → Bool) (m : OutMsg) : n.Sends (Node.sendMsgOn lines n m) :=
  foldl n _ _ fun _ _ => tell _ _ _ _

section
variable {n m : Node}

theorem Node.Sends.host (h : n.Sends m) : m.host = n.host := by
  obtain ⟨_, _, _, rfl⟩ := h.stores
  rfl

theorem Node.Sends.cyc (h : n.Sends m) : m.cyc = n.cyc := by
  obtain ⟨_, _, _, rfl⟩ := h.stores
  rfl

theorem Node.Sends.plc (h : n.Sends m) : m.plc = n.plc := by
  obtain ⟨_, _, _, rfl⟩ := h.stores
  rfl

theorem Node.Sends.ina (h : n.Sends m) : m.ina = n.ina := by
  obtain ⟨_, _, _, rfl⟩ := h.stores
  rfl

theorem Node.Sends.master (h : n.Sends m) : m.master = n.master := by
  rw [Node.master, h.fld (by decide)]
  rfl

theorem Node.Sends.identity (h : n.Sends m) : m.identity = n.identity := by
  rw [Node.identity, h.reg _ (by decide), h.reg _ (by decide)]
  rfl

theorem Node.Sends.nodeIn (h : n.Sends m) (epoch num : Nat) : m.nodeIn epoch num = n.nodeIn epoch num := by
  rw [Node.nodeIn, Node.nodeIn, Node.epoch, Node.epoch, h.reg _ (by decide), h.ina]

theorem Node.Sends.pollBudget (h : n.Sends m) (id : Nat) : m.pollBudget id = n.pollBudget id := by
  rw [Node.pollBudget, Node.pollBudget, Node.curMode, Node.curMode, h.cyc, h.fld (by decide)]

theorem Node.Sends.portB (h : n.Sends m) (p : Nat) : m.portB p = n.portB p := by
  have hline : ¬ egressReg (Reg.SPN_IFTYPE p) := by
    simp only [Reg.SPN_IFTYPE, egressReg, portBase, Reg.JLK_TX_FRM_LO, Reg.JLK_TX_FRM_HI, Reg.TOP_BUF_CTRL_DROP, Reg.EVT_DROP,
      Reg.TST_STAT, Reg.TST_INJ_CTRL, Reg.TST_INJ_LEFT, Reg.JLK_XFEED_DROP]
    split <;> omega
  rw [Node.portB, Node.portB, h.fld hline]

theorem Node.Sends.rxLine (h : n.Sends m) (r : Rx) (hdr : SpineHdr) : m.rxLine r hdr = n.rxLine r hdr := by
  rw [Node.rxLine, Node.rxLine, h.portB]

end

theorem Node.host_heard {n : Node} {r : Rx} (hchecks : (n.meets r).rxFail r = none) : (n.heard r).host = n.host := by
  obtain ⟨_, _, _, h⟩ := (Node.hears_heard hchecks).stores
  rw [h]
  rfl

theorem Node.cyc_heard {n : Node} {r : Rx} (hchecks : (n.meets r).rxFail r = none) : (n.heard r).cyc = n.cyc := by
  obtain ⟨_, _, _, h⟩ := (Node.hears_heard hchecks).stores
  rw [h]
  rfl

theorem Node.master_heard {n : Node} {r : Rx} (hchecks : (n.meets r).rxFail r = none) : (n.heard r).master = n.master := by
  rw [Node.master, Node.fld, Node.reg_heard hchecks (not_receptReg (a := Reg.INA_STATE) (by decide) (by decide) (by decide) (by decide))]
  rfl

/-! ### Polls (R225 to R229) -/

section
variable {s : State} {time : Nat}

theorem Node.polls_withPolls (n : Node) (polls : List PollRec) : { n with cyc := { n.cyc with polls := polls } }.cyc.polls = polls := rfl

theorem pollSend_polls (hmaster : s.node.master = true) (hst : s.node.st = stRun) (hopen : (s.node.at time).inPolled = true) :
    ∃ t : State, exec (.pollSend time) s = .next t ∧
      t.node.cyc.polls = s.node.pollOrder.zipIdx.map fun x => PollRec.mk x.1.num x.2 (s.node.pollBudget x.1.identity) false := by
  refine ⟨_, exec_on_eq (g := fun _ => _) rfl (if_pos ⟨hmaster, hst, hopen⟩), ?_⟩
  rw [State.on_node]
  extract_lets order sent cyc
  have hsent : (s.node.at time).Sends sent := Node.Sends.foldl _ _ _ fun _ _ => Node.Sends.tell _ _ _ _
  exact List.map_congr_left fun x _ => congrArg (PollRec.mk x.1.num x.2 · false) (hsent.pollBudget x.1.identity)

/-- A poll that names this node and has not been acted on is answered once it has travelled on. -/
theorem exec_pollReceived_answers {r : Rx} (h : s.node.hears r 0x2 = true)
    (hnamed : (((s.node.heard r).nodeIn (decodeHdr r.frame.body).epoch (beAt (payloadOf r.frame.body) 0 2 % 4096)).any fun e =>
      e.identity == (s.node.heard r).identity) = true)
    (hnew : s.node.cyc.pollSeen ≠ some ((decodeHdr r.frame.body).cycle, beAt (payloadOf r.frame.body) 4 2)) :
    exec (.pollReceived r) s = .next (s.on fun n =>
      let lineB := (n.heard r).rxLine r (decodeHdr r.frame.body)
      let m := (n.heard r).forwardJoined r lineB
      { m with cyc := { m.cyc with
        pollSeen := some ((decodeHdr r.frame.body).cycle, beAt (payloadOf r.frame.body) 4 2) } }.answerPoll lineB
          (beAt (payloadOf r.frame.body) 2 2) (beAt (payloadOf r.frame.body) 4 2)) := by
  have hsends := Node.Sends.forwardJoined (s.node.heard r) r ((s.node.heard r).rxLine r (decodeHdr r.frame.body))
  have hline : ((s.node.heard r).forwardJoined r ((s.node.heard r).rxLine r (decodeHdr r.frame.body))).rxLine r (decodeHdr r.frame.body) =
      (s.node.heard r).rxLine r (decodeHdr r.frame.body) := hsends.rxLine r _
  refine exec_on_eq rfl ((Node.receive_hears _ h).trans ((if_pos ?_).trans ?_))
  · rw [hsends.nodeIn, hsends.identity, hnamed, hsends.cyc, Node.cyc_heard (checks_of_hears h), Bool.true_and, bne_iff_ne]
    exact hnew
  · dsimp only
    rw [hline]

theorem Node.Sends.sendMsgs_foldl (n : Node) (lines : Bool → Bool) (ms : List OutMsg) : n.Sends (ms.foldl (Node.sendMsgOn lines) n) :=
  foldl n _ _ fun _ _ => sendMsgOn _ _ _

/-- Messages sent leave the queue, and are all that leaves it. -/
theorem Node.sendMsgs_rest (n : Node) (lines : Bool → Bool) (ms : List OutMsg) :
    (∀ a, ¬ egressReg a → (n.sendMsgs lines ms).reg a = n.reg a) ∧
    (n.sendMsgs lines ms).plc.out = n.plc.out.filter fun m => !ms.contains m := by
  have hsends := Node.Sends.sendMsgs_foldl n lines ms
  refine ⟨hsends.reg, ?_⟩
  unfold Node.sendMsgs
  dsimp only
  rw [hsends.plc]

theorem Node.answerPoll_counts (n : Node) (first : Bool) (budget index : Nat) :
    (n.answerPoll first budget index).reg Reg.CYC_POLLED = word (min ((n.reg Reg.CYC_POLLED).toNat + 1) 0xFFFFFFFF) ∧
    (∀ m ∈ polledMsgs n.msgNs budget (n.polledLeft.getD 0) n.waitingMsgs, m ∉ (n.answerPoll first budget index).plc.out) := by
  unfold Node.answerPoll
  extract_lets ms sent ina kept
  obtain ⟨hreg, hout⟩ := n.sendMsgs_rest (n.pollLine first) ms
  have hkept : kept.reg Reg.CYC_POLLED = n.reg Reg.CYC_POLLED ∧ kept.plc = sent.plc := by
    simp only [kept]
    split
    · exact ⟨hreg _ (by decide), rfl⟩
    · exact ⟨hreg _ (by decide), rfl⟩
  have hsends := fun h p keep => Node.Sends.tell (kept.inc Reg.CYC_POLLED) h p keep
  refine ⟨?_, fun m hm => ?_⟩
  · rw [(hsends _ _ _).reg _ (by decide), Node.reg_inc_self, hkept.1]
  · rw [(hsends _ _ _).plc]
    change m ∉ kept.plc.out
    rw [hkept.2, hout, List.mem_filter]
    rintro ⟨-, hnot⟩
    simp only [Bool.not_eq_true', List.contains_eq_mem, decide_eq_false_iff_not] at hnot
    exact hnot hm

/-- The messages within a budget take no more than it. -/
theorem sum_withinBudget (cost : OutMsg → Nat) (budget time : Nat) (ms : List OutMsg) :
    ((withinBudget cost budget time ms).map (·.bytes.length)).sum ≤ budget := by
  induction ms generalizing budget time with
  | nil => exact Nat.zero_le _
  | cons m ms ih =>
    unfold withinBudget
    split
    · next hfits =>
      have := ih (budget - m.bytes.length) (time - cost m)
      rw [List.map_cons, List.sum_cons]
      omega
    · exact Nat.zero_le _

theorem polledMsgs_within (cost : OutMsg → Nat) (budget time : Nat) (ms : List OutMsg) :
    ((polledMsgs cost budget time ms).map (·.bytes.length)).sum ≤ budget ∨ (polledMsgs cost budget time ms).length = 1 := by
  cases ms with
  | nil => exact .inl (Nat.zero_le _)
  | cons m ms =>
    unfold polledMsgs
    dsimp only
    split
    · split
      · exact .inr rfl
      · exact .inl (Nat.zero_le _)
    · exact .inl (sum_withinBudget _ _ _ _)

theorem replyReceived_answers {r : Rx} {e : NumEntry} (h : s.node.hears r 0x3 = true) (hmaster : s.node.master = true)
    (hsrc : (s.node.heard r).nodeIn (decodeHdr r.frame.body).epoch (decodeHdr r.frame.body).src = some e) :
    ∃ t : State, exec (.replyReceived r) s = .next t ∧
      t.node.cyc.polls = s.node.cyc.polls.map fun p =>
        if p.index = beAt (payloadOf r.frame.body) 0 2 ∧ p.node = e.num then { p with replied := true } else p := by
  have hsends := Node.Sends.relay (s.node.heard r) r ((s.node.heard r).rxLine r (decodeHdr r.frame.body)) (s.node.heard r).toMaster
  have hchecks := checks_of_hears h
  refine ⟨_, exec_on_eq (g := fun _ => _) rfl ((Node.receive_hears _ h).trans (if_pos ?_)), ?_⟩
  · rw [hsends.master, Node.master_heard hchecks]
    exact hmaster
  · rw [State.on_node]
    dsimp only
    rw [hsends.cyc, Node.cyc_heard hchecks]
    refine List.map_congr_left fun p _ => ?_
    simp only [hsends.nodeIn, hsrc, Option.any_some, Bool.and_eq_true, beq_iff_eq, eq_comm (a := e.num)]

/-- The polls left without a reply are counted. -/
theorem Node.pollMiss_counts (ps : List PollRec) (n : Node) :
    (ps.foldl (fun k p => (k.inc Reg.CYC_POLL_MISS).raiseCounted 0x2109 p.node k.tc p.node) n).reg Reg.CYC_POLL_MISS =
      word (min ((n.reg Reg.CYC_POLL_MISS).toNat + ps.length) 0xFFFFFFFF) := by
  induction ps generalizing n with
  | nil =>
    rw [List.foldl_nil, List.length_nil]
    apply BitVec.eq_of_toNat_eq
    rw [word_toNat]
    omega
  | cons p ps ih =>
    rw [List.foldl_cons, ih, Node.reg_raiseCounted_ne _ _ _ _ _ (by decide), Node.reg_inc_self, word_toNat, List.length_cons]
    congr 1
    omega

theorem pollMissed_counts (hclosed : (s.node.at time).inPolled = false) :
    ∃ t : State, exec (.pollMissed time) s = .next t ∧ t.node.cyc.polls = [] ∧
    t.node.reg Reg.CYC_POLL_MISS = word (min ((s.node.reg Reg.CYC_POLL_MISS).toNat +
      (s.node.cyc.polls.countP fun p => !p.replied)) 0xFFFFFFFF) := by
  refine ⟨_, exec_on_eq (g := fun _ => _) rfl (if_neg (by rw [hclosed]; decide)), rfl, ?_⟩
  rw [List.countP_eq_length_filter]
  exact (s.node.at time).pollMiss_counts (s.node.cyc.polls.filter fun p => !p.replied)

/-! ### The master's own messages (R363, R364) -/

/-- Messages sent to every node leave the verdicts. -/
theorem Node.verdicts_restage (n : Node) : n.restage.plc.verdicts = n.plc.verdicts := by
  unfold Node.restage
  split
  · rfl
  · dsimp only
    rw [Node.setFld_plc, Node.setFld_plc, Node.putMode, Node.showMode, Node.setRegs_plc]

theorem Node.verdicts_stage (n : Node) (k : Nat) : (n.stage k).plc.verdicts = n.plc.verdicts := Node.verdicts_restage _

/-- A list of steps that leave a value leave it. -/
theorem foldl_keeps {α β γ : Type} (view : α → γ) (l : List β) (step : α → β → α) (a : α) (h : ∀ a b, view (step a b) = view a) :
    view (l.foldl step a) = view a :=
  List.foldlRecOn (motive := fun b => view b = view a) l step rfl fun b hb x _ => (h b x).trans hb

theorem Node.verdicts_postMsg (n : Node) (k : Nat) (dests : List Nat) (bytes : List Byte) :
    (n.postMsg k dests bytes).plc.verdicts = n.plc.verdicts := rfl

theorem Node.verdicts_sendMsgs (n : Node) (lines : Bool → Bool) (ms : List OutMsg) :
    (n.sendMsgs lines ms).plc.verdicts = n.plc.verdicts := by
  unfold Node.sendMsgs
  dsimp only
  rw [(Node.Sends.sendMsgs_foldl n lines ms).plc]

/-- Before the window of a commit no status verdict is issued. -/
theorem Node.issueStatus_none {n : Node} (hcommit : n.bit Reg.INA_COMMIT 16 = false) (hbleed : n.ina.bleedEnd ≠ n.cyc.cur + 4) :
    n.issueStatus = n := by
  unfold Node.issueStatus
  dsimp only
  rw [if_neg (by rw [hcommit]; decide), if_neg hbleed]

theorem mem_of_mem_withinBudget {cost : OutMsg → Nat} {budget time : Nat} {ms : List OutMsg} {x : OutMsg}
    (h : x ∈ withinBudget cost budget time ms) : x ∈ ms := by
  induction ms generalizing budget time with
  | nil => exact h
  | cons m ms ih =>
    unfold withinBudget at h
    split at h
    · rcases List.mem_cons.mp h with rfl | h
      · exact List.mem_cons_self
      · exact List.mem_cons_of_mem _ (ih h)
    · cases h

theorem Node.withVerdicts_none {n : Node} (h : n.plc.verdicts = []) : { n with plc := { n.plc with verdicts := [] } } = n := by
  rw [← h]

section
variable (hmaster : s.node.master = true) (hopen : (s.node.at time).inPolled = true)
    (hpolled : s.node.pollOrder.isEmpty = true ∨ s.node.cyc.polls.isEmpty = false)
include hmaster hopen hpolled

theorem masterMessageSend_may : s.node.master = true ∧ (s.node.at time).inPolled = true ∧
    ((s.node.at time).pollOrder.isEmpty = true ∨ (!(s.node.at time).cyc.polls.isEmpty) = true) :=
  ⟨hmaster, hopen, hpolled.imp id fun h => by rw [show (s.node.at time).cyc.polls.isEmpty = false from h]; rfl⟩

theorem masterMessageSend_verdicts : ∃ t : State, exec (.masterMessageSend time) s = .next t ∧ t.node.plc.verdicts = [] := by
  refine ⟨_, exec_on_eq (g := fun _ => _) rfl (if_pos (masterMessageSend_may hmaster hopen hpolled)), ?_⟩
  rw [State.on_node]
  extract_lets g vs plc posted staged ms plc' marked
  have hposted : posted.plc.verdicts = [] :=
    foldl_keeps (fun k : Node => k.plc.verdicts) vs _ _ fun k b => k.verdicts_postMsg _ _ _
  have hstaged : staged.plc.verdicts = [] :=
    (foldl_keeps (fun k : Node => k.plc.verdicts) _ _ _ fun k v => k.verdicts_stage _).trans hposted
  refine (Node.verdicts_sendMsgs _ _ _).trans ?_
  simp only [marked]
  split
  · exact hstaged
  · exact hstaged

theorem exec_masterMessageSend_plain (hnone : s.node.plc.verdicts = []) (hcommit : s.node.bit Reg.INA_COMMIT 16 = false)
    (hbleed : s.node.ina.bleedEnd ≠ s.node.cyc.cur + 4) (hverdict : ∀ x ∈ s.node.sendable, x.stream ≠ 16381) :
    exec (.masterMessageSend time) s = .next (s.on fun n =>
      let m := n.at time
      m.sendMsgs (fun _ => true) (withinBudget m.msgNs (2 ^ 32) (m.polledLeft.getD 0) m.sendable)) := by
  refine exec_on_eq rfl ((if_pos (masterMessageSend_may hmaster hopen hpolled)).trans ?_)
  have hnone' : (s.node.at time).plc.verdicts = [] := hnone
  have hsame : (s.node.at time).issueStatus = s.node.at time := Node.issueStatus_none hcommit hbleed
  have hany : ((withinBudget (s.node.at time).msgNs (2 ^ 32) ((s.node.at time).polledLeft.getD 0) (s.node.at time).sendable).any
      fun x => x.stream == 16381) = false := by
    rw [List.any_eq_false]
    intro x hx
    rw [beq_iff_eq]
    exact hverdict x (mem_of_mem_withinBudget hx)
  dsimp only
  rw [hsame, hnone', Node.withVerdicts_none hnone']
  simp only [List.foldl_nil, List.map_nil, List.filter_nil]
  rw [hany]
  rfl

end

/-! ### Requests for a mode switch (R235 to R237, R247, R297) -/

theorem exec_modeRequestSend_closed (hclosed : (s.node.at time).inPolled = false) :
    exec (.modeRequestSend time) s = .next (s.on fun n => n.at time) :=
  exec_on_eq rfl (if_neg (by rw [hclosed]; decide))

theorem modeRequestSend_sends (hopen : (s.node.at time).inPolled = true) :
    ∃ t : State, exec (.modeRequestSend time) s = .next t ∧ t.node.cyc.toSend = [] ∧
    (s.node.cyc.toSend = [] → t.node = { s.node.at time with cyc := t.node.cyc }) ∧
    (∀ q, s.node.cyc.toSend = [q] → t.node.net.sent = ((s.node.at time).startOn s.node.cyc.refPort (s.node.hdr 0xD)
      (modePayload 1 q 0 q.earliest)).net.sent) := by
  refine ⟨_, exec_on_eq (g := fun _ => _) rfl (if_pos hopen), rfl, fun hnone => ?_, fun q hq => ?_⟩
  · rw [State.on_node]
    dsimp only
    rw [show (s.node.at time).cyc.toSend = [] from hnone]
    rfl
  · rw [State.on_node]
    dsimp only
    rw [show (s.node.at time).cyc.toSend = [q] from hq]
    rfl

section
variable {r : Rx} {e : NumEntry}

theorem exec_modeRequestReceived_accepted (h : s.node.hears r 0xD = true) (htype : byteAt (payloadOf r.frame.body) 0 = 1)
    (hmaster : s.node.master = true) (hrequest : s.node.cyc.request = none) (hswitch : s.node.cyc.switch = none)
    (hwho : (s.node.heard r).nodeIn (decodeHdr r.frame.body).epoch (beAt (payloadOf r.frame.body) 12 2 % 4096) = some e)
    (hholds : s.node.holds (byteAt (payloadOf r.frame.body) 1 % 8) = true) (hany : beAt (payloadOf r.frame.body) 4 4 = 0) :
    exec (.modeRequestReceived r) s = .next (s.on fun n =>
      { n.heard r with cyc := { (n.heard r).cyc with request := some ⟨byteAt (payloadOf r.frame.body) 1 % 8, 0,
        beAt (payloadOf r.frame.body) 8 4, e.num, beAt (payloadOf r.frame.body) 14 2⟩ } }) := by
  have hchecks := checks_of_hears h
  have hcyc := Node.cyc_heard hchecks
  have hfree : (s.node.heard r).modeResult ⟨byteAt (payloadOf r.frame.body) 1 % 8, 0,
      beAt (payloadOf r.frame.body) 8 4, e.num, beAt (payloadOf r.frame.body) 14 2⟩ = none :=
    Node.modeResult_free (by rw [hcyc]; exact hrequest) (by rw [hcyc]; exact hswitch) (by rw [Node.holds, hcyc]; exact hholds) rfl
  refine exec_on_eq rfl ((Node.receive_hears _ h).trans ((if_neg (fun hno => hno htype)).trans
    ((if_pos ((Node.master_heard hchecks).trans hmaster)).trans ?_)))
  rw [hwho, hany, Option.map_some, Option.getD_some, Node.takeModeReq, hfree]

theorem exec_modeRequestReceived_away (h : s.node.hears r 0xD = true) (htype : byteAt (payloadOf r.frame.body) 0 = 1)
    (hmaster : s.node.master = false)
    (hwho : (s.node.heard r).nodeIn (decodeHdr r.frame.body).epoch (beAt (payloadOf r.frame.body) 12 2 % 4096) = some e) :
    exec (.modeRequestReceived r) s = .next (s.on fun n =>
      let g := n.heard r
      if g.masterId = g.identity ∨ g.cyc.refPort = r.port then
        g.tellAll (g.hdr 0xD) (modePayload 2 ⟨byteAt (payloadOf r.frame.body) 1 % 8, beAt (payloadOf r.frame.body) 4 4,
          beAt (payloadOf r.frame.body) 8 4, e.num, beAt (payloadOf r.frame.body) 14 2⟩ 2 0)
      else g.relayOn r g.cyc.refPort (decodeHdr r.frame.body) (payloadOf r.frame.body)) := by
  have haway : ¬ (s.node.heard r).master = true := by
    rw [Node.master_heard (checks_of_hears h), hmaster]
    decide
  refine exec_on_eq rfl ((Node.receive_hears _ h).trans ((if_neg (fun hno => hno htype)).trans ((if_neg haway).trans ?_)))
  rw [hwho, Option.map_some, Option.getD_some]

theorem exec_modeAnswerReceived_completes {w : Wait} (h : s.node.hears r 0xD = true)
    (htype : byteAt (payloadOf r.frame.body) 0 = 2)
    (hwho : (s.node.heard r).nodeIn (decodeHdr r.frame.body).epoch (beAt (payloadOf r.frame.body) 12 2 % 4096) = some e)
    (hmine : e.identity = (s.node.heard r).identity) (hwaits : s.node.host.waits = [w]) (hkind : w.kind = 2)
    (hkey : w.key = beAt (payloadOf r.frame.body) 14 2) :
    exec (.modeAnswerReceived r) s = .next (s.on fun n =>
      ((n.heard r).forwardJoined r ((n.heard r).rxLine r (decodeHdr r.frame.body))).finish w.ctx w.ring w.seq w.opcode
        (if byteAt (payloadOf r.frame.body) 2 = 0 then 0 else if byteAt (payloadOf r.frame.body) 2 = 1 then 0xB
          else if byteAt (payloadOf r.frame.body) 2 = 2 then 8 else 3)
        (if byteAt (payloadOf r.frame.body) 2 = 0 then [word (beAt (payloadOf r.frame.body) 4 4)] else [])) := by
  have hsends := Node.Sends.forwardJoined (s.node.heard r) r ((s.node.heard r).rxLine r (decodeHdr r.frame.body))
  refine exec_on_eq rfl ((Node.receive_hears _ h).trans ((if_neg (fun hno => hno htype)).trans ((if_pos ?_).trans ?_)))
  · rw [hsends.nodeIn, hwho, hsends.identity, Option.any_some, hmine, beq_self_eq_true]
  · have hlist : ((s.node.heard r).forwardJoined r ((s.node.heard r).rxLine r (decodeHdr r.frame.body))).host.waits.filter
        (fun x => x.kind == 2 && x.key == beAt (payloadOf r.frame.body) 14 2) = [w] := by
      rw [hsends.host, Node.host_heard (checks_of_hears h), hwaits, List.filter_cons_of_pos (by rw [hkind, hkey]; simp), List.filter_nil]
    rw [Node.modeAnswered, Node.finishWaits, hlist]
    rfl

end

theorem exec_masterAnswerTimeout {ctx ring seq : Nat} {w : Wait}
    (hwait : (s.node.host.waits.find? fun w => w.ctx == ctx && w.ring == ring && w.seq == seq) = some w) (hkind : w.kind = 1 ∨ w.kind = 2) :
    (w.cycle + 8 ≤ s.node.cyc.cur → exec (.masterAnswerTimeout ctx ring seq time) s = .next (s.on fun n =>
      (n.at time).finish w.ctx w.ring w.seq w.opcode 7 [])) ∧
    (s.node.cyc.cur < w.cycle + 8 → exec (.masterAnswerTimeout ctx ring seq time) s = .next (s.on fun n => n.at time)) := by
  have hwait' : ((s.node.at time).host.waits.find? fun w => w.ctx == ctx && w.ring == ring && w.seq == seq) = some w := hwait
  refine ⟨fun hdue => exec_on_eq rfl ?_, fun hearly => exec_on_eq rfl ?_⟩
  · dsimp only
    rw [hwait']
    exact if_pos ⟨hkind, hdue⟩
  · dsimp only
    rw [hwait']
    exact if_neg fun hdue => absurd hdue.2 (Nat.not_le.mpr hearly)

end

/-- Settles O31. -/
theorem pollsAndModeRequestsAreAnswered : Obligations.PollsAndModeRequestsAreAnswered :=
  ⟨fun _ _ => pollSend_polls, fun _ _ => exec_pollReceived_answers, Node.answerPoll_counts, polledMsgs_within,
    fun _ _ _ => replyReceived_answers, fun _ _ => pollMissed_counts,
    fun _ _ hmaster hopen hpolled => ⟨masterMessageSend_verdicts hmaster hopen hpolled,
      exec_masterMessageSend_plain hmaster hopen hpolled⟩,
    fun _ _ => exec_modeRequestSend_closed, fun _ _ => modeRequestSend_sends, fun _ _ _ => exec_modeRequestReceived_accepted,
    fun _ _ _ => exec_modeRequestReceived_away, fun _ _ _ _ => exec_modeAnswerReceived_completes,
    fun _ _ _ _ _ _ => exec_masterAnswerTimeout⟩

end Sys2Proof.Machine
end

section
/-! PROOF. Time commands, timed outputs, captures and the time service of car ports (R319, R320, R329 to R338, R340, R344, R461,
R710). -/

namespace Sys2Proof.Machine

theorem getD_modifyAt {α : Type} (l : List α) {i : Nat} (f : α → α) (d : α) (h : i < l.length) :
    (modifyAt l i f).getD i d = f (l.getD i d) := by
  rw [modifyAt, List.getD_eq_getElem?_getD, List.getElem?_mapIdx, List.getD_eq_getElem?_getD, List.getElem?_eq_getElem h]
  simp

/-- The clock and the outputs stay as a command completes. -/
theorem Node.tm_completes (n : Node) (c : Cmd) (status : Nat) (res : List Word) : (n.completes c status res).tm = n.tm := by
  rw [Node.completes, Node.finish_eq_withCompleted]
  rfl

theorem Node.fine_of_tm {n m : Node} (h : m.tm = n.tm) : m.fine = n.fine := by
  rw [Node.fine, Node.fine, h]

/-! ### Time commands (R319, R320, R340) -/

section
variable {s : State} {c : Cmd}

theorem exec_timeStatus (h : s.node.takes c 0x0901 .either 0 = true) : exec (.timeStatus c) s = .next (s.on fun n =>
    (n.at c.time).completes c sOk [n.reg Reg.TMB_STATE, n.reg Reg.TMB_EST, word (nsOf (n.at c.time).trainNs),
      word (secOf (n.at c.time).trainNs), word (secOf (n.at c.time).trainNs / 2 ^ 32),
        word ((n.at c.time).fine % 65536).toNat]) := exec_settles rfl rfl h rfl

/-- The train time that TIME_SET names. -/
def timeNamed (c : Cmd) : Int := ((arg c 1 * 2 ^ 32 + arg c 0) * 1000000000 + arg c 2 : Nat)

section
variable (h : s.node.takes c 0x0902 (.secure 15) 3 = true) (hns : arg c 2 ≤ 999999999) (hsec : arg c 1 < 65536)
include h hns hsec

theorem timeSet_sets (hlo : stLink ≤ s.node.st) (hhi : s.node.st ≤ stClaim) : ∃ t : State, exec (.timeSet c) s = .next t ∧
    t.node.trainNs = timeNamed c ∧ t.node.tm.rate = s.node.tm.rate := by
  have hst : ¬ ((s.node.at c.time).st < stLink ∨ stClaim < (s.node.at c.time).st) := by
    rw [show (s.node.at c.time).st = s.node.st from rfl]
    omega
  refine ⟨_, exec_settles (g := fun n => ((n.at c.time).stepTime (timeNamed c * 65536 - (n.at c.time).fine) 4).completes c sOk []) rfl rfl h
    (by rw [if_neg (by omega), if_neg hst]; rfl), ?_⟩
  have hclock := (s.node.at c.time).sameClock_stepTime (timeNamed c * 65536 - (s.node.at c.time).fine) 4
  have hfine : ((s.node.at c.time).stepTime (timeNamed c * 65536 - (s.node.at c.time).fine) 4).fine = timeNamed c * 65536 := by
    rw [hclock.fine_eq, Node.fine_shifted]
    ring
  constructor
  · rw [State.on_node, Node.trainNs, Node.fine_of_tm (Node.tm_completes _ _ _ _), hfine]
    exact Int.mul_ediv_cancel _ (by decide)
  · rw [State.on_node, Node.tm_completes]
    exact hclock.2.2

theorem exec_timeSet_late (hst : s.node.st < stLink ∨ stClaim < s.node.st) :
    exec (.timeSet c) s = .next (s.on fun n => (n.at c.time).completes c sState []) := by
  have hst' : (s.node.at c.time).st < stLink ∨ stClaim < (s.node.at c.time).st := hst
  exact exec_settles rfl rfl h (by rw [if_neg (by omega), if_pos hst']; rfl)

end

section
variable (h : s.node.takes c 0x0903 (.secure 15) 1 = true) (hsize : (argW c 0).toInt.natAbs ≤ 10000000)
include h hsize

theorem exec_timeAdjust_away (hmaster : s.node.master = false) :
    exec (.timeAdjust c) s = .next (s.on fun n => (n.at c.time).completes c sState []) := by
  have hmaster' : (!(s.node.at c.time).master) = true := by rw [show (s.node.at c.time).master = false from hmaster]; rfl
  refine exec_settles rfl rfl h ?_
  dsimp only
  rw [if_neg (by omega), if_pos hmaster']
  rfl

section
variable (hmaster : s.node.master = true) (hslew : s.node.tm.slew = none) (hup : 0 < (argW c 0).toInt)
include hmaster hslew hup

theorem exec_timeAdjust_up {g : Node → Node} (hg : Node.settle c
      (if maxRate - (s.node.at c.time).tm.rate < slewMin then .fail (s.node.at c.time) sState
       else
        let add := min slewRate (maxRate - (s.node.at c.time).tm.rate)
        let k := { s.node.at c.time with tm := { (s.node.at c.time).tm with
          slew := some ⟨(s.node.at c.time).tm.rate, add, (argW c 0).toInt * 65536, (s.node.at c.time).tm.raw⟩ } }
        .done ((k.setRate ((s.node.at c.time).tm.rate + add)).setFld Reg.TMB_STATE Fld.TMB_STATE_SLEW 1) sOk []) = g s.node) :
    exec (.timeAdjust c) s = .next (s.on g) := by
  have hmaster' : ¬ (!(s.node.at c.time).master) = true := by rw [show (s.node.at c.time).master = true from hmaster]; decide
  have hslew' : ¬ (s.node.at c.time).tm.slew.isSome = true := by rw [show (s.node.at c.time).tm.slew = none from hslew]; decide
  refine exec_settles rfl rfl h ?_
  rw [← hg]
  have hpos : decide (0 ≤ (argW c 0).toInt) = true := decide_eq_true hup.le
  dsimp only
  rw [if_neg (by omega), if_neg hmaster', if_neg hslew', hpos, if_neg (show ¬ (argW c 0).toInt = 0 by omega)]
  rfl

theorem timeAdjust_slews (hmargin : 4295 ≤ 858993 - s.node.tm.rate) :
    ∃ t : State, exec (.timeAdjust c) s = .next t ∧ t.node.fine = (s.node.at c.time).fine ∧
      t.node.tm.rate = max (-858993) (s.node.tm.rate + min 42949 (858993 - s.node.tm.rate)) ∧
      t.node.tm.slew = some ⟨s.node.tm.rate, min 42949 (858993 - s.node.tm.rate), (argW c 0).toInt * 65536,
        max s.node.tm.raw c.time⟩ := by
  have hrate : (s.node.at c.time).tm.rate = s.node.tm.rate := rfl
  refine ⟨_, exec_timeAdjust_up h hsize hmaster hslew hup (g := fun n =>
    (({ n.at c.time with tm := { (n.at c.time).tm with
        slew := some ⟨(n.at c.time).tm.rate, min slewRate (maxRate - (n.at c.time).tm.rate), (argW c 0).toInt * 65536,
          (n.at c.time).tm.raw⟩ } }.setRate ((n.at c.time).tm.rate + min slewRate (maxRate - (n.at c.time).tm.rate))).setFld
        Reg.TMB_STATE Fld.TMB_STATE_SLEW 1).completes c sOk []) (by
      rw [if_neg (by rw [hrate]; unfold maxRate slewMin; omega)]
      rfl), ?_⟩
  rw [State.on_node]
  refine ⟨?_, ?_, ?_⟩
  · rw [Node.fine_of_tm (Node.tm_completes _ _ _ _), Node.fine_of_tm (Node.setFld_tm _ _ _ _), Node.fine_setRate]
    rfl
  · rw [Node.tm_completes, Node.setFld_tm, Node.rate_setRate]
    change clampRate (s.node.tm.rate + min 42949 (858993 - s.node.tm.rate)) = _
    unfold clampRate maxRate
    omega
  · rw [Node.tm_completes, Node.setFld_tm]
    rfl

theorem exec_timeAdjust_noMargin (hmargin : 858993 - s.node.tm.rate < 4295) :
    exec (.timeAdjust c) s = .next (s.on fun n => (n.at c.time).completes c sState []) :=
  exec_timeAdjust_up h hsize hmaster hslew hup (by
    rw [if_pos (by rw [show (s.node.at c.time).tm.rate = s.node.tm.rate from rfl]; unfold maxRate slewMin; omega)]
    rfl)

end
end
end

/-! ### Timed outputs (R329, R330, R340, R344, R461) -/

section
variable {n : Node} {i : Nat}

theorem Node.touts_onTout (f : Tout → Tout) (hi : i < n.tm.touts.length) :
    (n.onTout i f).tm.touts.getD i Tout.reset = f (n.tm.touts.getD i Tout.reset) := getD_modifyAt _ f _ hi

/-- An output that is disarmed. -/
theorem Node.toutOff_off (hi : i < n.tm.touts.length) :
    ((n.toutOff i).tm.touts.getD i Tout.reset).armed = false ∧
    (n.toutOff i).fld (Reg.TMB_TOUT_CTRL i) Fld.TMB_TOUT_CTRL_ARM = 0 ∧
    (∀ f : Field, f.lo + f.width ≤ 32 → (Fld.TMB_TOUT_CTRL_ARM.lo + Fld.TMB_TOUT_CTRL_ARM.width ≤ f.lo ∨
      f.lo + f.width ≤ Fld.TMB_TOUT_CTRL_ARM.lo) → (n.toutOff i).fld (Reg.TMB_TOUT_CTRL i) f = n.fld (Reg.TMB_TOUT_CTRL i) f) := by
  unfold Node.toutOff
  have hctrl : ∀ (m : Node) (v : Bool), (m.setBit (Reg.TMB_TOUT_STAT i) 0 v).reg (Reg.TMB_TOUT_CTRL i) = m.reg (Reg.TMB_TOUT_CTRL i) :=
    fun m v => Node.reg_setBit_ne _ _ _ (by simp only [Reg.TMB_TOUT_CTRL, Reg.TMB_TOUT_STAT]; omega)
  refine ⟨?_, ?_, fun f hf hapart => ?_⟩
  · rw [Node.setBit_tm, Node.setFld_tm, Node.touts_onTout _ hi]
  · rw [Node.fld, hctrl, ← Node.fld, Node.fld_setFld_self _ _ _ _ (by decide)]
    rfl
  · rw [Node.fld, hctrl, ← Node.fld, Node.fld_setFld_ne _ _ _ _ _ hf hapart.symm]
    rfl

/-- An output whose start lies ahead far enough, or whose dataset starts it, is armed with what its registers hold. -/
theorem Node.toutArm_arms (hmode : n.fld (Reg.TMB_TOUT_CTRL i) Fld.TMB_TOUT_CTRL_MODE ≠ 0)
    (hahead : n.fld (Reg.TMB_TOUT_CTRL i) Fld.TMB_TOUT_CTRL_MODE = 3 ∨ n.trainNs + 2000 ≤ n.toutStart i)
    (hi : i < n.tm.touts.length) :
    (n.toutArm i).2 = true ∧
    (n.toutArm i).1.tm.touts.getD i Tout.reset = ⟨true, n.fld (Reg.TMB_TOUT_CTRL i) Fld.TMB_TOUT_CTRL_MODE, n.toutStart i,
      (n.reg (Reg.TMB_TOUT_PERIOD i)).toNat, (n.reg (Reg.TMB_TOUT_WIDTH i)).toNat, 0, false⟩ ∧
    (n.toutArm i).1.fld (Reg.TMB_TOUT_CTRL i) Fld.TMB_TOUT_CTRL_ARM = 1 ∧
    (n.toutArm i).1.fld (Reg.TMB_TOUT_CTRL i) Fld.TMB_TOUT_CTRL_POL = n.fld (Reg.TMB_TOUT_CTRL i) Fld.TMB_TOUT_CTRL_POL := by
  have hctrl : ∀ (m : Node) (k : Nat) (v : Bool),
      (m.setBit (Reg.TMB_TOUT_STAT i) k v).reg (Reg.TMB_TOUT_CTRL i) = m.reg (Reg.TMB_TOUT_CTRL i) :=
    fun m k v => Node.reg_setBit_ne _ _ _ (by simp only [Reg.TMB_TOUT_CTRL, Reg.TMB_TOUT_STAT]; omega)
  unfold Node.toutArm
  dsimp only
  rw [if_neg hmode, if_neg (by rintro ⟨hno, hlate⟩; omega)]
  refine ⟨rfl, ?_, ?_, ?_⟩
  · rw [Node.setBit_tm, Node.setBit_tm, Node.setFld_tm, Node.touts_onTout _ hi]
  · rw [Node.fld, hctrl, hctrl, ← Node.fld, Node.fld_setFld_self _ _ _ _ (by decide)]
    rfl
  · rw [Node.fld, hctrl, hctrl, ← Node.fld, Node.fld_setFld_ne _ _ _ _ _ (by decide) (by decide)]
    rfl

/-- An output whose start is past or too near is left disarmed and marked late. -/
theorem Node.toutArm_late (hmode : n.fld (Reg.TMB_TOUT_CTRL i) Fld.TMB_TOUT_CTRL_MODE ≠ 0)
    (hlate : n.fld (Reg.TMB_TOUT_CTRL i) Fld.TMB_TOUT_CTRL_MODE ≠ 3 ∧ n.toutStart i < n.trainNs + 2000)
    (hi : i < n.tm.touts.length) :
    (n.toutArm i).2 = false ∧ ((n.toutArm i).1.tm.touts.getD i Tout.reset).armed = false ∧
    (n.toutArm i).1.bit (Reg.TMB_TOUT_STAT i) 1 = true := by
  unfold Node.toutArm
  dsimp only
  rw [if_neg hmode, if_pos ⟨hlate.1, by omega⟩]
  refine ⟨rfl, ?_, ?_⟩
  · rw [Node.raise_tm, Node.setBit_tm]
    exact (Node.toutOff_off hi).1
  · rw [Node.bit, Node.reg_raise_ne _ _ _ _ (by simp only [Reg.TMB_TOUT_STAT, Reg.EVT_DROP]; omega), ← Node.bit, Node.bit_setBit_self]
    decide

end

section
variable {s : State} {c : Cmd}

/-- The output that TIME_TOUT_SET has written, before it is armed. -/
def Node.toutWritten (n : Node) (c : Cmd) : Node :=
  (n.setRegs (Reg.TMB_TOUT_START_NS (arg c 0)) [argW c 2, argW c 3, argW c 4, argW c 5, argW c 6]).setFld
    (Reg.TMB_TOUT_CTRL (arg c 0)) Fld.TMB_TOUT_CTRL_MODE (arg c 1)

theorem Node.toutWritten_holds (n : Node) (hmode : arg c 1 ≤ 3) (hsec : arg c 4 < 65536) :
    (n.toutWritten c).fld (Reg.TMB_TOUT_CTRL (arg c 0)) Fld.TMB_TOUT_CTRL_MODE = arg c 1 ∧
    (n.toutWritten c).toutStart (arg c 0) = ((arg c 4 * 2 ^ 32 + arg c 3) * 1000000000 + arg c 2 : Nat) ∧
    (n.toutWritten c).reg (Reg.TMB_TOUT_PERIOD (arg c 0)) = argW c 5 ∧ (n.toutWritten c).reg (Reg.TMB_TOUT_WIDTH (arg c 0)) = argW c 6 ∧
    (n.toutWritten c).tm = n.tm := by
  have hreg : ∀ k, (hk : k < 5) → (n.toutWritten c).reg (Reg.TMB_TOUT_START_NS (arg c 0) + 4 * k) =
      [argW c 2, argW c 3, argW c 4, argW c 5, argW c 6][k] := fun k hk => by
    rw [Node.toutWritten, Node.reg_setFld_ne _ _ _ (by simp only [Reg.TMB_TOUT_START_NS, Reg.TMB_TOUT_CTRL]; omega),
      Node.reg_setRegs _ _ _ _ hk]
  have hns : (n.toutWritten c).reg (Reg.TMB_TOUT_START_NS (arg c 0)) = argW c 2 := hreg 0 (by decide)
  have hlo : (n.toutWritten c).reg (Reg.TMB_TOUT_START_SEC_LO (arg c 0)) = argW c 3 := by
    rw [← show Reg.TMB_TOUT_START_NS (arg c 0) + 4 * 1 = Reg.TMB_TOUT_START_SEC_LO (arg c 0) by
      simp only [Reg.TMB_TOUT_START_NS, Reg.TMB_TOUT_START_SEC_LO]; omega]
    exact hreg 1 (by decide)
  have hhi : (n.toutWritten c).reg (Reg.TMB_TOUT_START_SEC_HI (arg c 0)) = argW c 4 := by
    rw [← show Reg.TMB_TOUT_START_NS (arg c 0) + 4 * 2 = Reg.TMB_TOUT_START_SEC_HI (arg c 0) by
      simp only [Reg.TMB_TOUT_START_NS, Reg.TMB_TOUT_START_SEC_HI]; omega]
    exact hreg 2 (by decide)
  refine ⟨(Node.fld_setFld_self _ _ _ _ (by decide)).trans (Nat.mod_eq_of_lt (show arg c 1 < 4 by omega)), ?_, ?_, ?_, ?_⟩
  · rw [Node.toutStart, hns, hlo, hhi, show (argW c 4).toNat = arg c 4 from rfl, Nat.mod_eq_of_lt hsec]
    rfl
  · rw [← show Reg.TMB_TOUT_START_NS (arg c 0) + 4 * 3 = Reg.TMB_TOUT_PERIOD (arg c 0) by
      simp only [Reg.TMB_TOUT_START_NS, Reg.TMB_TOUT_PERIOD]; omega]
    exact hreg 3 (by decide)
  · rw [← show Reg.TMB_TOUT_START_NS (arg c 0) + 4 * 4 = Reg.TMB_TOUT_WIDTH (arg c 0) by
      simp only [Reg.TMB_TOUT_START_NS, Reg.TMB_TOUT_WIDTH]; omega]
    exact hreg 4 (by decide)
  · rw [Node.toutWritten, Node.setFld_tm, Node.setRegs_tm]

theorem toutReg_low (a : Nat) (h : a < 0x00400600) : a < hostBlock := by
  simp only [hostBlock, Reg.HST_CTX_CFG]
  omega

section
variable (hi : arg c 0 < 8) (h : s.node.takes c 0x0904 (.inst (16 + arg c 0)) 7 = true) (hlength : s.node.tm.touts.length = 8)
    (hmode : 1 ≤ arg c 1 ∧ arg c 1 ≤ 3) (hns : arg c 2 ≤ 999999999) (hsec : arg c 4 < 65536)
    (hwidth : 4 ≤ arg c 6 ∧ (arg c 1 = 2 → 16 ≤ arg c 5 ∧ arg c 6 + 4 ≤ arg c 5))
include hi h hlength hmode hns hsec hwidth

omit hlength in
/-- A TIME_TOUT_SET whose fields are right writes its output and arms it. -/
theorem exec_timeToutSet {g : Node → Node} (hg : Node.settle c (match ((s.node.at c.time).toutWritten c).toutArm (arg c 0) with
      | (k, true) => .done k sOk []
      | (k, false) => .fail k sState) = g s.node) : exec (.timeToutSet c) s = .next (s.on g) := by
  have hgood : (decide (arg c 6 < 4) || (arg c 1 == 2 && (decide (arg c 5 < 16) || decide (arg c 5 < arg c 6 + 4)))) = false := by
    rw [Bool.or_eq_false_iff, decide_eq_false_iff_not, Bool.and_eq_false_iff]
    refine ⟨by omega, ?_⟩
    by_cases hperiodic : arg c 1 = 2
    · have := hwidth.2 hperiodic
      simp only [hperiodic, Bool.or_eq_false_iff, decide_eq_false_iff_not]
      omega
    · exact .inl (by simpa using hperiodic)
  have hneed : (if arg c 0 < 8 then Need.inst (16 + arg c 0) else .either) = .inst (16 + arg c 0) := if_pos hi
  refine exec_settles rfl (by dsimp only; rw [hneed]) h ?_
  rw [← hg, hgood, if_neg (by simp only [Bool.false_eq_true, or_false]; omega)]
  rfl

theorem timeToutSet_arms
    (hahead : arg c 1 = 3 ∨ (s.node.at c.time).trainNs + 2000 ≤ ((arg c 4 * 2 ^ 32 + arg c 3) * 1000000000 + arg c 2 : Nat)) :
    ∃ t : State, exec (.timeToutSet c) s = .next t ∧
      t.node.tm.touts.getD (arg c 0) Tout.reset = ⟨true, arg c 1,
        ((arg c 4 * 2 ^ 32 + arg c 3) * 1000000000 + arg c 2 : Nat), arg c 5, arg c 6, 0, false⟩ ∧
      t.node.fld (Reg.TMB_TOUT_CTRL (arg c 0)) Fld.TMB_TOUT_CTRL_ARM = 1 := by
  obtain ⟨hwrote, hstart, hperiod, hpulse, htm⟩ := (s.node.at c.time).toutWritten_holds hmode.2 hsec
  have htrain : ((s.node.at c.time).toutWritten c).trainNs = (s.node.at c.time).trainNs := by
    rw [Node.trainNs, Node.fine_of_tm htm]
    rfl
  obtain ⟨hdone, harmed, hshown, -⟩ := Node.toutArm_arms (n := (s.node.at c.time).toutWritten c) (i := arg c 0) (by omega)
    (by rw [hwrote, hstart, htrain]; exact hahead) (by rw [htm]; change arg c 0 < s.node.tm.touts.length; omega)
  rw [hwrote, hstart, hperiod, hpulse] at harmed
  refine ⟨_, exec_timeToutSet hi h hmode hns hsec hwidth
    (g := fun n => (((n.at c.time).toutWritten c).toutArm (arg c 0)).1.completes c sOk []) ?_, ?_⟩
  · generalize ((s.node.at c.time).toutWritten c).toutArm (arg c 0) = a at hdone
    obtain ⟨k, ok⟩ := a
    obtain rfl : ok = true := hdone
    rfl
  · rw [State.on_node, Node.tm_completes, Node.fld, Node.reg_completes_host (toutReg_low _ (by simp only [Reg.TMB_TOUT_CTRL]; omega))]
    exact ⟨harmed, hshown⟩

theorem timeToutSet_late (hmoded : arg c 1 ≠ 3)
    (hlate : ((arg c 4 * 2 ^ 32 + arg c 3) * 1000000000 + arg c 2 : Nat) < (s.node.at c.time).trainNs + 2000) :
    ∃ t : State, exec (.timeToutSet c) s = .next t ∧ (t.node.tm.touts.getD (arg c 0) Tout.reset).armed = false ∧
      t.node.bit (Reg.TMB_TOUT_STAT (arg c 0)) 1 = true := by
  obtain ⟨hwrote, hstart, -, -, htm⟩ := (s.node.at c.time).toutWritten_holds hmode.2 hsec
  have htrain : ((s.node.at c.time).toutWritten c).trainNs = (s.node.at c.time).trainNs := by
    rw [Node.trainNs, Node.fine_of_tm htm]
    rfl
  obtain ⟨hfailed, hoff, hmarked⟩ := Node.toutArm_late (n := (s.node.at c.time).toutWritten c) (i := arg c 0) (by omega)
    (by rw [hwrote, hstart, htrain]; exact ⟨hmoded, hlate⟩) (by rw [htm]; change arg c 0 < s.node.tm.touts.length; omega)
  refine ⟨_, exec_timeToutSet hi h hmode hns hsec hwidth
    (g := fun n => (((n.at c.time).toutWritten c).toutArm (arg c 0)).1.completes c sState []) ?_, ?_⟩
  · generalize ((s.node.at c.time).toutWritten c).toutArm (arg c 0) = a at hfailed
    obtain ⟨k, ok⟩ := a
    obtain rfl : ok = false := hfailed
    rfl
  · rw [State.on_node, Node.tm_completes, Node.bit_completes_host _ _ _ _ _ (toutReg_low _ (by simp only [Reg.TMB_TOUT_STAT]; omega))]
    exact ⟨hoff, hmarked⟩

end

theorem timeToutStop_stops (hi : arg c 0 < 8) (h : s.node.takes c 0x0905 (.inst (16 + arg c 0)) 1 = true)
    (hlength : s.node.tm.touts.length = 8) :
    ∃ t : State, exec (.timeToutStop c) s = .next t ∧ (t.node.tm.touts.getD (arg c 0) Tout.reset).armed = false ∧
      t.node.fld (Reg.TMB_TOUT_CTRL (arg c 0)) Fld.TMB_TOUT_CTRL_MODE = 0 := by
  have hneed : (if arg c 0 < 8 then Need.inst (16 + arg c 0) else .either) = .inst (16 + arg c 0) := if_pos hi
  refine ⟨_, exec_settles (g := fun n => (((n.at c.time).setFld (Reg.TMB_TOUT_CTRL (arg c 0)) Fld.TMB_TOUT_CTRL_MODE 0).toutOff
    (arg c 0)).completes c sOk []) rfl (by dsimp only; rw [hneed]) h (by rw [if_neg (by omega)]; rfl), ?_⟩
  obtain ⟨hoff, -, hkept⟩ := Node.toutOff_off (n := (s.node.at c.time).setFld (Reg.TMB_TOUT_CTRL (arg c 0)) Fld.TMB_TOUT_CTRL_MODE 0)
    (i := arg c 0) (by rw [Node.setFld_tm]; change arg c 0 < s.node.tm.touts.length; omega)
  rw [State.on_node, Node.tm_completes, Node.fld, Node.reg_completes_host (toutReg_low _ (by simp only [Reg.TMB_TOUT_CTRL]; omega)),
    ← Node.fld, hkept _ (by decide) (by decide), Node.fld_setFld_self _ _ _ _ (by decide)]
  exact ⟨hoff, rfl⟩

end

section
variable {s : State} {ctx i time : Nat} {v : Word}

/-- The output control register as it is written, before the output is armed or disarmed. -/
def Node.toutMode (n : Node) (i : Nat) (v : Word) : Node :=
  (n.setFld (Reg.TMB_TOUT_CTRL i) Fld.TMB_TOUT_CTRL_MODE (v.toNat % 4)).setFld (Reg.TMB_TOUT_CTRL i) Fld.TMB_TOUT_CTRL_POL
    (v.toNat / 4 % 2)

theorem Node.toutMode_holds (n : Node) :
    (n.toutMode i v).fld (Reg.TMB_TOUT_CTRL i) Fld.TMB_TOUT_CTRL_MODE = v.toNat % 4 ∧
    (n.toutMode i v).fld (Reg.TMB_TOUT_CTRL i) Fld.TMB_TOUT_CTRL_POL = v.toNat / 4 % 2 ∧
    (n.toutMode i v).toutStart i = n.toutStart i ∧ (n.toutMode i v).tm = n.tm := by
  have hreg : ∀ a, a ≠ Reg.TMB_TOUT_CTRL i → (n.toutMode i v).reg a = n.reg a := fun a ha =>
    (Node.reg_setFld_ne _ _ _ ha).trans (Node.reg_setFld_ne _ _ _ ha)
  refine ⟨?_, ?_, ?_, ?_⟩
  · rw [Node.toutMode, Node.fld_setFld_ne _ _ _ _ _ (by decide) (by decide), Node.fld_setFld_self _ _ _ _ (by decide)]
    exact Nat.mod_mod _ 4
  · rw [Node.toutMode, Node.fld_setFld_self _ _ _ _ (by decide)]
    exact Nat.mod_mod _ 2
  · rw [Node.toutStart, Node.toutStart, hreg _ (by simp only [Reg.TMB_TOUT_START_SEC_HI, Reg.TMB_TOUT_CTRL]; omega),
      hreg _ (by simp only [Reg.TMB_TOUT_START_SEC_LO, Reg.TMB_TOUT_CTRL]; omega),
      hreg _ (by simp only [Reg.TMB_TOUT_START_NS, Reg.TMB_TOUT_CTRL]; omega)]
  · rw [Node.toutMode, Node.setFld_tm, Node.setFld_tm]

section
variable (hi : i < 8) (h : s.node.admits ctx (Reg.TMB_TOUT_CTRL i) true = true) (hlength : s.node.tm.touts.length = 8)
include hi h hlength

theorem toutModeOffWrite_disarms (hv : v.toNat % 4 = 0) : ∃ t : State, exec (.toutModeOffWrite ctx i v) s = .next t ∧
    (t.node.tm.touts.getD i Tout.reset).armed = false ∧ t.node.fld (Reg.TMB_TOUT_CTRL i) Fld.TMB_TOUT_CTRL_ARM = 0 := by
  refine ⟨_, exec_on_eq (g := fun n => ((n.answer 0#32).toutMode i v).toutOff i) rfl
    ((Node.access_admitted s.node ctx _ true _ h).trans (if_pos hv)), ?_⟩
  obtain ⟨-, -, -, htm⟩ := (s.node.answer 0#32).toutMode_holds (i := i) (v := v)
  obtain ⟨hoff, hshown, -⟩ := Node.toutOff_off (n := (s.node.answer 0#32).toutMode i v) (i := i)
    (by rw [htm]; change i < s.node.tm.touts.length; omega)
  exact ⟨hoff, hshown⟩

theorem toutArmWrite_arms (hv : v.toNat % 4 ≠ 0) (harm : v.toNat.testBit 3 = true)
    (hahead : v.toNat % 4 = 3 ∨ s.node.trainNs + 2000 ≤ s.node.toutStart i) :
    ∃ t : State, exec (.toutArmWrite ctx i v) s = .next t ∧ (t.node.tm.touts.getD i Tout.reset).armed = true ∧
      (t.node.tm.touts.getD i Tout.reset).mode = v.toNat % 4 ∧ (t.node.tm.touts.getD i Tout.reset).start = s.node.toutStart i ∧
      t.node.fld (Reg.TMB_TOUT_CTRL i) Fld.TMB_TOUT_CTRL_POL = v.toNat / 4 % 2 := by
  refine ⟨_, exec_on_eq (g := fun n => (((n.answer 0#32).toutMode i v).toutArm i).1) rfl
    ((Node.access_admitted s.node ctx _ true _ h).trans ((if_neg hv).trans (if_pos harm))), ?_⟩
  obtain ⟨hmode, hpol, hstart, htm⟩ := (s.node.answer 0#32).toutMode_holds (i := i) (v := v)
  have htrain : ((s.node.answer 0#32).toutMode i v).trainNs = s.node.trainNs := by
    rw [Node.trainNs, Node.fine_of_tm htm]
    rfl
  obtain ⟨-, harmed, -, hkept⟩ := Node.toutArm_arms (n := (s.node.answer 0#32).toutMode i v) (i := i) (by omega)
    (by rw [hmode, hstart, htrain]; exact hahead) (by rw [htm]; change i < s.node.tm.touts.length; omega)
  rw [State.on_node, harmed, hmode, hstart, hkept, hpol]
  exact ⟨rfl, rfl, rfl, rfl⟩

end

theorem toutPulse_drives (hi : i < 8) (hlength : s.node.tm.touts.length = 8) (hdue : (s.node.at time).toutDue i = true) :
    ∃ t : State, exec (.toutPulse i time) s = .next t ∧
      t.node.tm.pulses = s.node.tm.pulses ++ [(i, (s.node.tm.touts.getD i Tout.reset).start +
        (s.node.tm.touts.getD i Tout.reset).next * (s.node.tm.touts.getD i Tout.reset).period,
        (s.node.tm.touts.getD i Tout.reset).width)] ∧
      (t.node.tm.touts.getD i Tout.reset).armed = decide ((s.node.tm.touts.getD i Tout.reset).mode ≠ 1) := by
  have hall : (s.node.tm.touts.getD i Tout.reset).armed = true ∧ (s.node.tm.touts.getD i Tout.reset).mode ≠ 3 := by
    simp only [Node.toutDue, Bool.and_eq_true, bne_iff_ne] at hdue
    exact hdue.1
  obtain ⟨harmed, hmode⟩ := hall
  refine ⟨_, exec_on_eq (g := fun n => (n.at time).toutPulse i) rfl (if_pos hdue), ?_⟩
  rw [State.on_node]
  unfold Node.toutPulse
  extract_lets t at' tm m
  rw [if_neg (by rw [show t.armed = true from harmed]; decide)]
  have hat : at' = t.start + t.next * t.period := if_neg hmode
  have hm : m.tm.pulses = s.node.tm.pulses ++ [(i, t.start + t.next * t.period, t.width)] := by
    rw [← hat]
    rfl
  by_cases hone : t.mode = 1
  · rw [if_pos hone]
    have hoff := (Node.toutOff_off (n := m) (i := i) (show i < s.node.tm.touts.length by omega)).1
    refine ⟨?_, hoff.trans (by rw [decide_eq_false_iff_not.mpr (not_not_intro (show (s.node.tm.touts.getD i Tout.reset).mode = 1 from hone))])⟩
    rw [Node.toutOff, Node.setBit_tm, Node.setFld_tm]
    exact hm
  · rw [if_neg hone]
    refine ⟨hm, ?_⟩
    rw [Node.touts_onTout (n := m) _ (show i < s.node.tm.touts.length by omega),
      decide_eq_true (show (s.node.tm.touts.getD i Tout.reset).mode ≠ 1 from hone)]
    exact harmed

theorem exec_toutPulse_early (hnot : (s.node.at time).toutDue i = false) :
    exec (.toutPulse i time) s = .next (s.on fun n => n.at time) := exec_on_eq rfl (if_neg (by rw [hnot]; decide))

theorem exec_toutBindWrite (h : s.node.admits ctx (Reg.PDT_TOUT_BIND i) true = true) :
    (s.node.ctxSecure ctx = s.node.instSecure (16 + i) → exec (.toutBindWrite ctx i v) s = .next (s.on fun n =>
      (n.answer 0#32).plainWrite (Reg.PDT_TOUT_BIND i) v 0#32)) ∧
    (s.node.ctxSecure ctx ≠ s.node.instSecure (16 + i) → exec (.toutBindWrite ctx i v) s = .next (s.on fun n =>
      ((n.answer 0#32).refuse ctx true 0 1 (Reg.PDT_TOUT_BIND i) (16 + i)).spiFlag ctx fun p => { p with refused := true })) := by
  have haccess := Node.access_admitted s.node ctx _ true (fun m => m.bindWrite ctx i v) h
  exact ⟨fun hsame => exec_on_eq rfl (haccess.trans (if_pos hsame)), fun hother => exec_on_eq rfl (haccess.trans (if_neg hother))⟩

/-! ### Captures (R332) -/

theorem Node.tcaps_onTcap {n : Node} (f : Tcap → Tcap) (hi : i < n.tm.tcaps.length) :
    (n.onTcap i f).tm.tcaps.getD i Tcap.reset = f (n.tm.tcaps.getD i Tcap.reset) := by
  rw [Node.onTcap, Node.syncTcap, Node.setRegs_tm, Node.setReg_tm]
  exact getD_modifyAt _ f _ hi

section
variable {rising : Bool} (hi : i < 4) (hlength : s.node.tm.tcaps.length = 4)
include hi hlength

section
variable (hedge : s.node.bits (Reg.TMB_TCAP_CTRL i) 0 2 = 3 ∨ s.node.bits (Reg.TMB_TCAP_CTRL i) 0 2 = (if rising then 1 else 2))
include hedge

theorem tcapEdge_captures (hroom : (s.node.tm.tcaps.getD i Tcap.reset).entries.length < 16) :
    ∃ t : State, exec (.tcapEdge i rising time) s = .next t ∧
      (t.node.tm.tcaps.getD i Tcap.reset).entries = (s.node.tm.tcaps.getD i Tcap.reset).entries ++
        [⟨secOf (s.node.at time).trainNs, nsOf (s.node.at time).trainNs, rising⟩] := by
  refine ⟨_, exec_on_eq (g := fun n => (n.at time).onTcap i fun t =>
      { t with entries := t.entries ++ [⟨secOf (n.at time).trainNs, nsOf (n.at time).trainNs, rising⟩], full := false }) rfl
    ((if_pos hedge).trans (if_pos hroom)), ?_⟩
  rw [State.on_node, Node.tcaps_onTcap (n := s.node.at time) _ (show i < s.node.tm.tcaps.length by omega)]
  rfl

theorem tcapEdge_loses (hfull : 16 ≤ (s.node.tm.tcaps.getD i Tcap.reset).entries.length) :
    ∃ t : State, exec (.tcapEdge i rising time) s = .next t ∧
      (t.node.tm.tcaps.getD i Tcap.reset).entries = (s.node.tm.tcaps.getD i Tcap.reset).entries ∧
      (t.node.tm.tcaps.getD i Tcap.reset).lost = (s.node.tm.tcaps.getD i Tcap.reset).lost + 1 := by
  refine ⟨_, exec_on_eq (g := fun n =>
      let m := (n.at time).onTcap i fun t => { t with lost := t.lost + 1, full := true }
      if ((n.at time).tm.tcaps.getD i Tcap.reset).full then m else m.raise 0x3107 i 0) rfl
    ((if_pos hedge).trans (if_neg (Nat.not_lt.mpr hfull))), ?_⟩
  rw [State.on_node]
  extract_lets m
  have hm : (m.tm.tcaps.getD i Tcap.reset).entries = (s.node.tm.tcaps.getD i Tcap.reset).entries ∧
      (m.tm.tcaps.getD i Tcap.reset).lost = (s.node.tm.tcaps.getD i Tcap.reset).lost + 1 := by
    simp only [m]
    rw [Node.tcaps_onTcap (n := s.node.at time) _ (show i < s.node.tm.tcaps.length by omega)]
    exact ⟨rfl, rfl⟩
  split
  · exact hm
  · rw [Node.raise_tm]
    exact hm

end

omit hi hlength in
theorem exec_tcapEdge_other (hnot : s.node.bits (Reg.TMB_TCAP_CTRL i) 0 2 ≠ 3)
    (hnot' : s.node.bits (Reg.TMB_TCAP_CTRL i) 0 2 ≠ (if rising then 1 else 2)) :
    exec (.tcapEdge i rising time) s = .next (s.on fun n => n.at time) :=
  exec_on_eq rfl (if_neg (fun h => h.elim hnot hnot'))

end
end

/-! ### The time service of car ports (R333 to R336) -/

/-- What a port sends or queues of the frames of its time service, behind what was sent and waits. -/
def Node.PtpSends (p : Nat) (n m : Node) : Prop :=
  (∃ sent, m.net.sent = n.net.sent ++ sent ∧ ∀ x ∈ sent, x.port = p ∧ x.frame.etype = 0x88F7) ∧
  ∃ queue, m.net.queue = n.net.queue ++ queue ∧ ∀ x ∈ queue, x.port = p ∧ x.cls = 3 ∧ x.frame.etype = 0x88F7

namespace Node.PtpSends

variable {p : Nat}

theorem of_same {n m : Node} (hsent : m.net.sent = n.net.sent) (hqueue : m.net.queue = n.net.queue) : Node.PtpSends p n m :=
  ⟨⟨[], by rw [hsent, List.append_nil], fun _ h => by cases h⟩, [], by rw [hqueue, List.append_nil], fun _ h => by cases h⟩

theorem trans {n m k : Node} (h : Node.PtpSends p n m) (h' : Node.PtpSends p m k) : Node.PtpSends p n k := by
  obtain ⟨⟨sent, hsent, hframes⟩, queue, hqueue, hwait⟩ := h
  obtain ⟨⟨sent', hsent', hframes'⟩, queue', hqueue', hwait'⟩ := h'
  refine ⟨⟨sent ++ sent', by rw [hsent', hsent, List.append_assoc], fun x hx => ?_⟩,
    queue ++ queue', by rw [hqueue', hqueue, List.append_assoc], fun x hx => ?_⟩
  · exact (List.mem_append.mp hx).elim (hframes x) (hframes' x)
  · exact (List.mem_append.mp hx).elim (hwait x) (hwait' x)

theorem of_net {n m k : Node} (h : Node.PtpSends p n m) (hk : k.net = m.net) : Node.PtpSends p n k := by
  rw [Node.PtpSends, hk]
  exact h

variable {n : Node} {f : Frame} (hf : f.etype = 0x88F7)
include hf

theorem hand (t : Nat) (stomped : Bool) (mask : Nat) : Node.PtpSends p n (n.hand p f t stomped mask) := by
  have hnet : (n.hand p f t stomped mask).net = { n.net with sent := n.net.sent ++ [Sent.mk p f t stomped mask (n.protect p f)] } := by
    unfold Node.hand
    dsimp only
    split
    · rw [Node.add64_net]
    · rfl
  rw [Node.PtpSends, hnet]
  exact ⟨⟨_, rfl, fun x hx => by rw [List.mem_singleton.mp hx]; exact ⟨rfl, hf⟩⟩, [], by rw [List.append_nil], fun _ h => by cases h⟩

theorem putOutAt (t : Nat) : Node.PtpSends p n (n.putOutAt p f t) := by
  unfold Node.putOutAt
  extract_lets hit mask m
  have hm : Node.PtpSends p n m := by
    simp only [m]
    split
    · obtain ⟨_, _, h⟩ := n.injUse_eq_withSealed
      exact (of_same (by rw [h]; rfl) (by rw [h]; rfl)).trans (hand hf _ _ _)
    · exact hand hf _ _ _
  split
  · exact hm.of_net (by rw [Node.add64_net, Node.add64_net])
  · split
    · exact hm.of_net (by rw [Node.add64_net])
    · exact hm

theorem starts (cls t : Nat) : Node.PtpSends p n (n.starts p cls f t) := by
  have hport : ∀ (m : Node) (g : Port → Port) (k : Nat), Node.PtpSends p n m → Node.PtpSends p n ((m.onPort p g).fragments p k) :=
    fun m g k hm => hm.trans (by
      unfold Node.fragments
      split
      · exact of_same rfl rfl
      · exact of_same rfl rfl)
  unfold Node.starts
  extract_lets m w o at0 r
  have hm : Node.PtpSends p n m := putOutAt hf t
  split
  · exact hport m _ _ hm
  · split
    · exact hport m _ _ hm
    · exact hm.trans (of_same rfl rfl)

theorem ptpSent : Node.PtpSends p n (n.sendGated p 3 f) := by
  have hdrop : ∀ q, (n.clsDrop q 3).net = n.net := fun q => by
    unfold Node.clsDrop
    split
    · exact Node.setReg_net _ _ _
    · rfl
  unfold Node.sendGated Node.sendFrom
  split
  · exact of_same rfl rfl
  · split
    · exact starts hf _ _
    · dsimp only
      split
      · exact of_same (by rw [hdrop]) (by rw [hdrop])
      · split
        · exact starts hf _ _
        · split
          · have hnet : (n.poolDrop localPort 3).net = n.net := by
              unfold Node.poolDrop
              rw [if_neg (by decide)]
              dsimp only
              rw [if_pos (by decide)]
              unfold Node.openFull
              split
              · dsimp only
                rw [Node.raise_net, hdrop]
              · exact hdrop _
            exact of_same (by rw [hnet]) (by rw [hnet])
          · exact ⟨⟨[], by rw [List.append_nil], fun _ h => by cases h⟩, _, rfl, fun x hx => by
              rw [List.mem_singleton.mp hx]; exact ⟨rfl, rfl, hf⟩⟩

end Node.PtpSends

theorem Node.ptpSends_ptpSend (n : Node) (p type flags seq interval : Nat) (body : List Byte) :
    Node.PtpSends p n (n.ptpSend p type flags seq interval body) := Node.PtpSends.ptpSent rfl

theorem Node.Sends.ptpSend (n : Node) (p type flags seq interval : Nat) (body : List Byte) :
    n.Sends (n.ptpSend p type flags seq interval body) := sendFrom n _ _ _ (by decide)

/-- What a periodic message leaves behind: its frames, the next sequence number, and the time of the message. -/
theorem Node.ptpDone_sent {n m : Node} {p type interval : Nat} (hinterval : 0 < interval) (hp : p < m.net.ports.length)
    (hsends : Node.PtpSends p n m) (htm : m.tm = n.tm) :
    (m.ptpDone p type).tm.ptpSeq = (n.tm.ptpSeq + 1) % 65536 ∧ (m.ptpDone p type).ptpDue p type interval = false ∧
    (∀ x ∈ (m.ptpDone p type).net.sent.drop n.net.sent.length, x.port = p ∧ x.frame.etype = 0x88F7) ∧
    (∀ x ∈ (m.ptpDone p type).net.queue.drop n.net.queue.length, x.port = p ∧ x.cls = 3 ∧ x.frame.etype = 0x88F7) := by
  obtain ⟨⟨sent, hsent, hframes⟩, queue, hqueue, hwait⟩ := hsends
  refine ⟨?_, ?_, ?_, ?_⟩
  · change (m.tm.ptpSeq + 1) % 65536 = _
    rw [htm]
  · have hport : (m.ptpDone p type).port p = { m.port p with
        ptpAt := (m.port p).ptpAt.filter (fun x => x.1 != type) ++ [(type, m.tm.raw)] } := m.ptpNext.port_onPort_self _ hp
    have hfind : (((m.port p).ptpAt.filter fun x => x.1 != type) ++ [(type, m.tm.raw)]).find? (fun x => x.1 == type) =
        some (type, m.tm.raw) := by
      rw [List.find?_append, List.find?_eq_none.mpr, Option.none_or, List.find?_cons_of_pos (by simp)]
      intro x hx
      simpa using (List.mem_filter.mp hx).2
    rw [Node.ptpDue, hport, hfind, Option.all_some, decide_eq_false_iff_not]
    change ¬ m.tm.raw + interval ≤ m.tm.raw
    omega
  · change ∀ x ∈ m.net.sent.drop n.net.sent.length, _
    rw [hsent, List.drop_left]
    exact hframes
  · change ∀ x ∈ m.net.queue.drop n.net.queue.length, _
    rw [hqueue, List.drop_left]
    exact hwait

section
variable {s : State} {p time : Nat}

theorem Node.Sends.tm {n m : Node} (h : n.Sends m) : m.tm = n.tm := by
  obtain ⟨_, _, _, rfl⟩ := h.stores
  rfl

theorem gptpSyncSend_sends (hp : p < 12) (hsends : (s.node.at time).timeSends p = true)
    (hdue : (s.node.at time).ptpDue p 0 125000000 = true) (hlength : s.node.net.ports.length = 13) :
    ∃ t : State, exec (.gptpSyncSend p time) s = .next t ∧
      t.node.tm.ptpSeq = (s.node.tm.ptpSeq + 1) % 65536 ∧ t.node.ptpDue p 0 125000000 = false ∧
      (∀ x ∈ t.node.net.sent.drop s.node.net.sent.length, x.port = p ∧ x.frame.etype = 0x88F7) ∧
      (∀ x ∈ t.node.net.queue.drop s.node.net.queue.length, x.port = p ∧ x.cls = 3 ∧ x.frame.etype = 0x88F7) := by
  refine ⟨_, exec_on_eq (g := fun _ => _) rfl (if_pos (by rw [hsends, hdue]; rfl)), ?_⟩
  rw [State.on_node]
  dsimp only
  generalize hk : (s.node.at time).ptpSend p 0 0x0208 (s.node.at time).tm.ptpSeq 0xFD (zeros 10) = k
  have hfirst : Node.PtpSends p (s.node.at time) k := by
    rw [← hk]
    exact Node.ptpSends_ptpSend _ _ _ _ _ _ _
  have hkept : (s.node.at time).Sends k := by
    rw [← hk]
    exact Node.Sends.ptpSend _ _ _ _ _ _ _
  have hfree : (k.freeBytes 22).1.tm = k.tm ∧ Node.PtpSends p k (k.freeBytes 22).1 ∧
      (k.freeBytes 22).1.net.ports.length = k.net.ports.length := ⟨rfl, .of_same rfl rfl, rfl⟩
  obtain ⟨hfreeTm, hfreeNet, hfreePorts⟩ := hfree
  have hsecond := fun body => Node.Sends.ptpSend (k.freeBytes 22).1 p 8 0x0008 (s.node.at time).tm.ptpSeq 0xFD body
  exact Node.ptpDone_sent (n := s.node.at time) (by decide)
    (by rw [(hsecond _).length, hfreePorts, hkept.length]; change p < s.node.net.ports.length; omega)
    ((hfirst.trans hfreeNet).trans (Node.ptpSends_ptpSend _ _ _ _ _ _ _))
    ((hsecond _).tm.trans (hfreeTm.trans hkept.tm))

theorem gptpAnnounceSend_sends (hp : p < 12) (hsends : (s.node.at time).timeSends p = true)
    (hdue : (s.node.at time).ptpDue p 11 1000000000 = true) (hlength : s.node.net.ports.length = 13) :
    ∃ t : State, exec (.gptpAnnounceSend p time) s = .next t ∧
      t.node.tm.ptpSeq = (s.node.tm.ptpSeq + 1) % 65536 ∧ t.node.ptpDue p 11 1000000000 = false ∧
      (∀ x ∈ t.node.net.sent.drop s.node.net.sent.length, x.port = p ∧ x.frame.etype = 0x88F7) ∧
      (∀ x ∈ t.node.net.queue.drop s.node.net.queue.length, x.port = p ∧ x.cls = 3 ∧ x.frame.etype = 0x88F7) := by
  refine ⟨_, exec_on_eq (g := fun _ => _) rfl (if_pos (by rw [hsends, hdue]; rfl)), ?_⟩
  rw [State.on_node]
  dsimp only
  have hfree : ((s.node.at time).freeBytes 3).1.tm = (s.node.at time).tm ∧
      Node.PtpSends p (s.node.at time) ((s.node.at time).freeBytes 3).1 ∧
      ((s.node.at time).freeBytes 3).1.net.ports.length = 13 := ⟨rfl, .of_same rfl rfl, hlength⟩
  obtain ⟨hfreeTm, hfreeNet, hfreePorts⟩ := hfree
  have hsent := fun flags body =>
    Node.Sends.ptpSend ((s.node.at time).freeBytes 3).1 p 11 flags (s.node.at time).tm.ptpSeq 0 body
  exact Node.ptpDone_sent (n := s.node.at time) (by decide) (by rw [(hsent _ _).length, hfreePorts]; omega)
    (hfreeNet.trans (Node.ptpSends_ptpSend _ _ _ _ _ _ _)) ((hsent _ _).tm.trans hfreeTm)

theorem exec_gptpSyncSend_not (h : (s.node.at time).timeSends p = false ∨ (s.node.at time).ptpDue p 0 125000000 = false) :
    exec (.gptpSyncSend p time) s = .next (s.on fun n => n.at time) :=
  exec_on_eq rfl (if_neg (by rw [Bool.and_eq_true]; rintro ⟨hs, hd⟩; simp [hs, hd] at h))

theorem exec_gptpAnnounceSend_not (h : (s.node.at time).timeSends p = false ∨ (s.node.at time).ptpDue p 11 1000000000 = false) :
    exec (.gptpAnnounceSend p time) s = .next (s.on fun n => n.at time) :=
  exec_on_eq rfl (if_neg (by rw [Bool.and_eq_true]; rintro ⟨hs, hd⟩; simp [hs, hd] at h))

section
variable (hservice : s.node.timeService p ≠ 0) (hup : s.node.linkUp p = true)
include hservice hup

theorem exec_gptpPdelaySend (hsends : (s.node.at time).carSends p = true) (hdue : (s.node.at time).ptpDue p 2 1000000000 = true) :
    exec (.gptpPdelaySend p time) s = .next (s.on fun n =>
      ((n.at time).ptpSend p 2 0 n.tm.ptpSeq 0 (zeros 20)).ptpDone p 2) := by
  refine exec_on_eq rfl (if_pos ?_)
  rw [show (s.node.at time).linkUp p = true from hup, hsends, hdue, bne_iff_ne.mpr (show (s.node.at time).timeService p ≠ 0 from hservice)]
  rfl

theorem carPeer_runs : ¬ ((s.node.at time).timeService p = 0 ∨ (!(s.node.at time).linkUp p) = true) := by
  rw [show (s.node.at time).linkUp p = true from hup]
  rintro (hno | hno)
  · exact hservice hno
  · cases hno

theorem exec_carPeerDelayReceived_request (hsends : (s.node.at time).carSends p = true) (seq clock num egress : Nat) :
    exec (.carPeerDelayReceived p 2 seq clock num egress time) s = .next (s.on fun n =>
      let m := n.at time
      (m.ptpSend p 3 0x0200 seq 0x7F (ptpStamp m.trainNs ++ (encBE 8 clock ++ encBE 2 num))).ptpSend p 10 0 seq 0x7F
        (ptpStamp (m.fineAt egress / 65536) ++ (encBE 8 clock ++ encBE 2 num))) :=
  exec_on_eq rfl ((if_neg (carPeer_runs hservice hup)).trans ((if_pos rfl).trans (if_pos hsends)))

theorem exec_carPeerDelayReceived_followUp (seq clock num egress : Nat) :
    exec (.carPeerDelayReceived p 10 seq clock num egress time) s = .next (s.on fun n =>
      (n.at time).setBit (Reg.TMB_CARTIME_STAT (p - 4)) 1 true) :=
  exec_on_eq rfl ((if_neg (carPeer_runs hservice hup)).trans ((if_neg (by decide)).trans (if_pos rfl)))

end

theorem exec_ptpMessageReceived (hlo : 4 ≤ p) (hhi : p < 12) {ty : Nat} (htype : ty = 0 ∨ ty = 8 ∨ ty = 11) :
    exec (.ptpMessageReceived p ty time) s = .next (s.on fun n =>
      let k := (n.at time).inc (Reg.TMB_CARTIME_FOREIGN (p - 4))
      if (n.port p).ptpSeen then k else (k.onPort p fun q => { q with ptpSeen := true }).raise 0x3008 p ty) :=
  exec_on_eq rfl (if_pos ⟨hlo, hhi, htype⟩)

/-! ### Clocks (R337, R338, R710) -/

theorem audioPllLock_locks {phase : Int} (h : s.node.ts = tsSynced ∨ s.node.ts = tsMaster ∨ s.node.tm.audioMute = true) :
    ∃ t : State, exec (.audioPllLock phase time) s = .next t ∧
    t.node.bit Reg.TMB_AUD_STAT 0 = true ∧ t.node.bits Reg.TMB_AUD_STAT 16 16 = (sword phase).toNat % 65536 ∧
    t.node.tm = { s.node.tm with raw := max s.node.tm.raw time, audioMute := false } := by
  refine ⟨_, exec_on_eq (g := fun _ => _) rfl (if_pos h), ?_, ?_, rfl⟩
  · rw [State.on_node, Node.bit, Node.reg_withTm, ← Node.bit, Node.bit_eq_bits, Node.bits_setBits_ne _ _ _ _ _ (by decide) (by decide),
      ← Node.bit_eq_bits, Node.bit_setBit_self]
    decide
  · rw [State.on_node, Node.bits, Node.reg_withTm, ← Node.bits, Node.bits_setBits_self _ _ _ _ _ (by decide)]
    rfl

theorem exec_audioPllLock_not {phase : Int} (hsynced : s.node.ts ≠ tsSynced) (hmaster : s.node.ts ≠ tsMaster)
    (hmute : s.node.tm.audioMute = false) : exec (.audioPllLock phase time) s = .next (s.on fun n => n.at time) := by
  refine exec_on_eq rfl (if_neg ?_)
  rintro (h | h | h)
  · exact hsynced h
  · exact hmaster h
  · exact Bool.noConfusion (hmute.symm.trans h)

theorem exec_aonRcCalibrate {hz : Nat} (hawake : s.node.boot.sleep ≠ 2) (hsupply : s.node.bit Reg.PCR_SUPPLY_STAT 3 = false) :
    (s.node.boot.calAt + 100000000 ≤ max s.node.tm.raw time → exec (.aonRcCalibrate hz time) s = .next (s.on fun n =>
      { n.at time with boot := { n.boot with calAt := max n.tm.raw time } }.setReg Reg.PCR_AON_CAL (word hz))) ∧
    (max s.node.tm.raw time < s.node.boot.calAt + 100000000 →
      exec (.aonRcCalibrate hz time) s = .next (s.on fun n => n.at time)) := by
  refine ⟨fun hdue => exec_on_eq rfl (if_neg ?_), fun hearly => exec_on_eq rfl (if_pos (.inr (.inr hearly)))⟩
  rintro (h | h | h)
  · exact hawake h
  · exact Bool.noConfusion (hsupply.symm.trans h)
  · exact absurd h (Nat.not_lt.mpr hdue)

end

/-- Settles O39. -/
theorem timeCommandsOutputsAndCapturesAct : Obligations.TimeCommandsOutputsAndCapturesAct := by
  refine ⟨fun s c => exec_timeStatus,
    fun s c h hns hsec => ⟨timeSet_sets h hns hsec, exec_timeSet_late h hns hsec⟩,
    fun s c h hsize => ⟨exec_timeAdjust_away h hsize, timeAdjust_slews h hsize, exec_timeAdjust_noMargin h hsize⟩,
    fun s c hi h hlength hmode hmode' hns hsec hwidth hperiod => ⟨timeToutSet_arms hi h hlength ⟨hmode, hmode'⟩ hns hsec ⟨hwidth, hperiod⟩,
      timeToutSet_late hi h hlength ⟨hmode, hmode'⟩ hns hsec ⟨hwidth, hperiod⟩⟩,
    fun s c => timeToutStop_stops, fun s ctx i v hi h hlength => ⟨toutModeOffWrite_disarms hi h hlength, toutArmWrite_arms hi h hlength⟩,
    fun s i time => toutPulse_drives, fun s i time => exec_toutPulse_early, fun s ctx i v _ => exec_toutBindWrite,
    fun s i rising time hi hlength => ⟨fun hedge => ⟨tcapEdge_captures hi hlength hedge, tcapEdge_loses hi hlength hedge⟩,
      exec_tcapEdge_other⟩,
    fun s p time hlo hhi => ⟨gptpSyncSend_sends hhi, exec_gptpSyncSend_not, gptpAnnounceSend_sends hhi, exec_gptpAnnounceSend_not,
      exec_gptpPdelaySend, exec_carPeerDelayReceived_request, exec_carPeerDelayReceived_followUp, fun _ => exec_ptpMessageReceived hlo hhi⟩,
    fun s phase time => audioPllLock_locks, fun s phase time => exec_audioPllLock_not, fun s hz time => exec_aonRcCalibrate⟩

end Sys2Proof.Machine
end

section
/-! PROOF. Requests for placement and the master's decisions (R357 to R359, R362, R367, R370, R372, R379, R384). -/

namespace Sys2Proof.Machine

/-! ### The commands (R384) -/

section
variable {s : State} {c : Cmd}

section
variable {w : List Word} (h : s.node.takes c 0x0201 .either 9 = true) (hw : w = (List.range 8).map (fun i => argW c (1 + i)))
include h hw

theorem exec_streamDeclare_bad (hbad : (s.node.at c.time).badDeclare (arg c 0) (strmOf w) w = true) :
    exec (.streamDeclare c) s = .next (s.on fun n => (n.at c.time).completes c sArgs []) := by
  subst hw
  exact exec_settles rfl rfl h ((congrArg (Node.settle c) (if_pos hbad)).trans rfl)

section
variable (hgood : (s.node.at c.time).badDeclare (arg c 0) (strmOf w) w = false)
include hgood

theorem exec_streamDeclare_world (hworld : (s.node.at c.time).badWorld c.ctx (strmOf w) = true) :
    exec (.streamDeclare c) s = .next (s.on fun n => ((((n.at c.time).inc Reg.PLC_REJ_CNT).setReg Reg.PLC_LAST_REJ
      (word (arg c 0 + 6 * 65536))).raise 0x3801 (arg c 0) 6).completes c sWorld [6#32]) := by
  subst hw
  exact exec_settles rfl rfl h ((congrArg (Node.settle c) ((if_neg (by rw [hgood]; decide)).trans (if_pos hworld))).trans rfl)

theorem exec_streamDeclare_own (hworld : (s.node.at c.time).badWorld c.ctx (strmOf w) = false) :
    (s.node.st ≠ stRun → exec (.streamDeclare c) s = .next (s.on fun n => (n.at c.time).completes c sState [])) ∧
    (s.node.st = stRun → exec (.streamDeclare c) s = .next (s.on fun n =>
      ((n.at c.time).request 1 (arg c 0) 0 w).1.waitsFor c 3 n.plc.nextTag [])) := by
  subst hw
  refine ⟨fun hst => exec_settles rfl rfl h ?_, fun hst => exec_settles rfl rfl h ?_⟩
  · exact (congrArg (Node.settle c) ((if_neg (by rw [hgood]; decide)).trans ((if_neg (by rw [hworld]; decide)).trans
      (if_pos (show (s.node.at c.time).st ≠ stRun from hst))))).trans rfl
  · exact (congrArg (Node.settle c) ((if_neg (by rw [hgood]; decide)).trans ((if_neg (by rw [hworld]; decide)).trans
      (if_neg (show ¬ (s.node.at c.time).st ≠ stRun from not_not_intro hst))))).trans rfl

end
end

theorem exec_streamRemove (h : s.node.takes c 0x0202 (s.node.strmNeed (arg c 0)) 1 = true) :
    ((s.node.strm (arg c 0)).valid = true → s.node.ownStream (s.node.strm (arg c 0)) = true → 0 < arg c 0 → arg c 0 < 16380 →
      exec (.streamRemove c) s = .next (s.on fun n =>
        ((n.at c.time).request 2 (arg c 0) 0 []).1.waitsFor c 3 n.plc.nextTag [])) ∧
    (s.node.ownStream (s.node.strm (arg c 0)) = false →
      exec (.streamRemove c) s = .next (s.on fun n => (n.at c.time).completes c sArgs [])) := by
  have hstrm : (s.node.at c.time).strm (arg c 0) = s.node.strm (arg c 0) := rfl
  have hown : ∀ e, (s.node.at c.time).ownStream e = s.node.ownStream e := fun _ => rfl
  refine ⟨fun hvalid howned hlo hhi => exec_settles rfl rfl h ?_, fun hother => exec_settles rfl rfl h ?_⟩
  · rw [hstrm, hown, hvalid, howned, if_neg (by simp only [Bool.not_true, Bool.false_eq_true, or_false]; omega)]
    rfl
  · rw [hstrm, hown, hother, if_pos (.inr (.inr (.inr rfl)))]
    rfl

theorem exec_streamQuery (h : s.node.takes c 0x0203 .either 1 = true) (hs : arg c 0 < 16384) :
    exec (.streamQuery c) s = .next (s.on fun n =>
    (n.at c.time).completes c sOk (if n.strmSecure (arg c 0) && !n.ctxSecure c.ctx then List.replicate 8 0#32
      else n.getRegs (Reg.STB_ENTRY (arg c 0)) 8)) := by
  have hsecure : (s.node.at c.time).strmSecure (arg c 0) = s.node.strmSecure (arg c 0) := rfl
  have hctx : (s.node.at c.time).ctxSecure c.ctx = s.node.ctxSecure c.ctx := rfl
  refine exec_settles rfl rfl h ?_
  rw [if_neg (by omega), hsecure, hctx]
  by_cases hhidden : s.node.strmSecure (arg c 0) = true ∧ (!s.node.ctxSecure c.ctx) = true
  · rw [if_pos hhidden, if_pos (by rw [hhidden.1, hhidden.2]; rfl)]
    rfl
  · rw [if_neg hhidden, if_neg (by rwa [Bool.and_eq_true])]
    rfl

theorem exec_streamReplaceAll (h : s.node.takes c 0x0204 (.secure 28) 0 = true) :
    (s.node.master = false → exec (.streamReplaceAll c) s = .next (s.on fun n => (n.at c.time).completes c sState [])) ∧
    (s.node.master = true → s.node.fld Reg.PLC_STATE Fld.PLC_STATE_BUSY ≠ 1 →
      s.node.fld Reg.PLC_STATE Fld.PLC_STATE_REPLACING ≠ 1 → exec (.streamReplaceAll c) s = .next (s.on fun n =>
        ((n.at c.time).setFld Reg.PLC_STATE Fld.PLC_STATE_BUSY 1).waitsFor c 6 0 [])) := by
  refine ⟨fun hmaster => exec_settles rfl rfl h ?_, fun hmaster hbusy hreplacing => exec_settles rfl rfl h ?_⟩
  · rw [show (s.node.at c.time).master = false from hmaster, if_pos (by decide)]
    rfl
  · rw [show (s.node.at c.time).master = true from hmaster, if_neg (by decide), if_neg (fun hno => hno.elim hbusy hreplacing)]
    rfl

theorem exec_plcStatus (h : s.node.takes c 0x0207 .either 0 = true) : exec (.plcStatus c) s = .next (s.on fun n =>
    (n.at c.time).completes c sOk [n.reg Reg.PLC_STATE, n.reg Reg.PLC_ADM_SEQ, n.reg Reg.PLC_DIGEST]) := exec_settles rfl rfl h rfl

end

/-! ### Requests (R362, R372) -/

/-- The node with a request of its own noted. -/
def Node.requested (n : Node) (q : PlcReq) : Node :=
  { n with plc := { n.plc with nextTag := (n.plc.nextTag + 1) % 65535, mine := n.plc.mine ++ [q] } }

/-- A request of a node that is not the master is noted and leaves as a message to it. -/
theorem Node.request_away (n : Node) (type stream first : Nat) (entry : List Word) (hmaster : n.master = false) :
    (n.request type stream first entry).2 = n.plc.nextTag ∧
    (n.request type stream first entry).1.plc.mine =
      n.plc.mine ++ [⟨type, stream, n.plc.nextTag, n.identity, entry, first, n.cyc.cur, 1⟩] ∧
    (n.request type stream first entry).1.plc.out = n.plc.out ++ [⟨16380, n.nextMsgSeq 16380, [n.masterId],
      requestBytes ⟨type, stream, n.plc.nextTag, n.identity, entry, first, n.cyc.cur, 1⟩,
        n.tm.raw + n.plc.expiry * 1000000000⟩] := by
  have haway : (n.request type stream first entry).1 =
      (n.requested ⟨type, stream, n.plc.nextTag, n.identity, entry, first, n.cyc.cur, 1⟩).postMsg 16380 [n.masterId]
        (requestBytes ⟨type, stream, n.plc.nextTag, n.identity, entry, first, n.cyc.cur, 1⟩) :=
    if_neg (show ¬ n.master = true by rw [hmaster]; decide)
  rw [haway]
  exact ⟨rfl, rfl, rfl⟩

section
variable {s : State} {time : Nat}

theorem exec_requestRetry {q : PlcReq} (hmine : s.node.plc.mine = [q]) (hdue : q.cycle + 8 ≤ s.node.cyc.cur) (htype : q.type ≠ 3) :
    (q.attempts < 2 → exec (.requestRetry time) s = .next (s.on fun n =>
      let q' := { q with attempts := q.attempts + 1, cycle := n.cyc.cur }
      { n.at time with plc := { n.plc with mine := [q'] } }.sendRequest q')) ∧
    (2 ≤ q.attempts → exec (.requestRetry time) s = .next (s.on fun n =>
      { n.at time with plc := { n.plc with mine := [] } }.finishWaits (fun w => w.kind == 3 && w.key == q.tag) sTimeout [])) := by
  have hdue' : decide (q.cycle + 8 ≤ (s.node.at time).cyc.cur) = true := decide_eq_true hdue
  have hduer : (s.node.at time).plc.mine.filter (fun q => decide (q.cycle + 8 ≤ (s.node.at time).cyc.cur)) = [q] := by
    rw [show (s.node.at time).plc.mine = [q] from hmine, List.filter_cons_of_pos (by exact hdue'), List.filter_nil]
  have hrest : (s.node.at time).plc.mine.filter (fun q => !decide (q.cycle + 8 ≤ (s.node.at time).cyc.cur)) = [] := by
    rw [show (s.node.at time).plc.mine = [q] from hmine,
      List.filter_cons_of_neg (by rw [hdue']; decide),
      List.filter_nil]
  refine ⟨fun hfew => exec_on_eq rfl ?_, fun hmany => exec_on_eq rfl ?_⟩
  · dsimp only
    rw [hduer, hrest, List.foldl_cons, List.foldl_nil, if_pos (.inr ⟨htype, hfew⟩)]
    rfl
  · dsimp only
    rw [hduer, hrest, List.foldl_cons, List.foldl_nil, if_neg (by rintro (h | h) <;> omega)]
    rfl

/-! ### The master's decisions (R357 to R359, R362, R367) -/

theorem exec_placementDecision {q : PlcReq} {k : Node} (hmaster : s.node.master = true)
    (hnext : (s.node.at time).nextRequest = some q)
    (hk : k = { s.node.at time with plc := { s.node.plc with queue := s.node.plc.queue.erase q } }) :
    exec (.placementDecision time) s = .next (s.on fun _ =>
      if q.type = 1 then k.decideReq q else if q.type = 2 then k.remove q else if q.type = 3 then k.resend q.first else k) := by
  have hmaster' : (s.node.at time).master = true := hmaster
  refine exec_on_eq rfl ?_
  dsimp only
  rw [hmaster', hnext, hk]
  rfl

/-- A declaration that the placer admits is placed with the next admission sequence; one that it does not is refused. -/
theorem Node.decideReq_answers (k : Node) (q : PlcReq) :
    (∀ reason, k.admitGrowth q.stream (strmOf q.entry) (k.plc.joiners.contains q.requester)
        ((k.strm q.stream).valid && (k.strm q.stream).src == (strmOf q.entry).src &&
          (k.strm q.stream).pair == (strmOf q.entry).pair && ((k.strm q.stream).state == 0 || (k.strm q.stream).state == 5)) =
        .error reason → k.decideReq q = k.reject q reason) ∧
    (∀ phase placed growth, k.admitGrowth q.stream (strmOf q.entry) (k.plc.joiners.contains q.requester)
        ((k.strm q.stream).valid && (k.strm q.stream).src == (strmOf q.entry).src &&
          (k.strm q.stream).pair == (strmOf q.entry).pair && ((k.strm q.stream).state == 0 || (k.strm q.stream).state == 5)) =
        .ok (phase, placed, growth) →
      k.decideReq q = ((k.setReg Reg.PLC_ADM_SEQ (word ((k.reg Reg.PLC_ADM_SEQ).toNat + 1))).inc Reg.PLC_ADM_CNT).admitTime.place
        q.stream 0 q.tag ((k.reg Reg.PLC_ADM_SEQ).toNat + 1) (strmOf q.entry) (phase, placed) growth) := by
  refine ⟨fun reason h => ?_, fun phase placed growth h => ?_⟩
  · unfold Node.decideReq
    dsimp only
    rw [h]
  · unfold Node.decideReq
    dsimp only
    rw [h]

theorem placerSwitchRequest_asks (hmaster : s.node.master = true) (hstaged : s.node.fld Reg.PLC_STATE Fld.PLC_STATE_STAGED = 1)
    (hverdicts : s.node.plc.verdicts = []) (hout : ∀ x ∈ s.node.plc.out, x.stream ≠ 16381)
    (hlater : s.node.plc.verdictCyc < s.node.cyc.cur) (hrequest : s.node.cyc.request = none)
    (hswitch : ∀ w, s.node.cyc.switch = some w → w.state = 3) :
    ∃ t : State, exec (.placerSwitchRequest time) s = .next t ∧ (∃ q, t.node.cyc.request = some q ∧
      q.target = t.node.fld Reg.PLC_STATE Fld.PLC_STATE_STAGED_MODE ∧ q.earliest = 0) := by
  have hempty : (s.node.at time).plc.verdicts.isEmpty = true := List.isEmpty_iff.mpr hverdicts
  have hnone : (!((s.node.at time).plc.out.any fun x => x.stream == 16381)) = true := by
    rw [Bool.not_eq_true', List.any_eq_false]
    intro x hx
    rw [beq_iff_eq]
    exact hout x hx
  have hfree : (s.node.at time).cyc.request.isNone = true := by rw [show (s.node.at time).cyc.request = none from hrequest]; rfl
  have hdone : (!((s.node.at time).cyc.switch.any fun w => w.state != 3)) = true := by
    cases hw : (s.node.at time).cyc.switch with
    | none => rfl
    | some w => rw [Option.any_some, show w.state = 3 from hswitch w hw]; rfl
  exact ⟨_, exec_on_eq (g := fun n =>
      let k := (n.at time).restage
      { k with cyc := { k.cyc with request := some ⟨k.fld Reg.PLC_STATE Fld.PLC_STATE_STAGED_MODE, 0, 0, 0, 0xFFFF⟩ } }) rfl
    (if_pos ⟨hmaster, hstaged, hempty, hnone, hlater, hfree, hdone⟩), _, rfl, rfl, rfl⟩

/-- The census does not depend on whether it is due. -/
theorem Node.censusBytes_withDue (n : Node) (due : Bool) :
    { n with plc := { n.plc with censusDue := due } }.censusBytes = n.censusBytes := rfl

theorem exec_censusSend (hdue : s.node.plc.censusDue = true) (hmaster : s.node.master = false) :
    exec (.censusSend time) s = .next (s.on fun n => { n.at time with plc := { n.plc with censusDue := false } }.postMsg 16382
      [n.masterId] (n.at time).censusBytes) := by
  refine exec_on_eq rfl ((if_neg (show ¬ (!s.node.plc.censusDue) = true by rw [hdue]; decide)).trans
    ((if_neg (show ¬ s.node.master = true by rw [hmaster]; decide)).trans ?_))
  rw [Node.censusBytes_withDue]
  rfl

/-! ### Full re-placement (R370) -/

/-- The registers that a filter does not pick are left out of what it picks. -/
theorem Sparse.filter_put {β : Type} [DecidableEq β] (d : Nat → β) (m : List (Nat × β)) {a : Nat} (v : β) (pick : Nat × β → Bool)
    (hpick : ∀ x : β, pick (a, x) = false) : (Sparse.put d m a v).filter pick = m.filter pick := by
  have hinsert : ∀ l : List (Nat × β), (Sparse.insert a v l).filter pick = l.filter pick := fun l => by
    induction l with
    | nil => rw [Sparse.insert, List.filter_cons_of_neg (by rw [hpick]; decide)]
    | cons x xs ih =>
      unfold Sparse.insert
      split
      · rw [List.filter_cons_of_neg (by rw [hpick]; decide)]
      · rw [List.filter_cons, List.filter_cons, ih]
  have hkept : (m.filter fun p => decide (p.1 ≠ a)).filter pick = m.filter pick := by
    rw [List.filter_filter]
    refine List.filter_congr fun x _ => ?_
    by_cases hx : x.1 = a
    · rw [show x = (a, x.2) by rw [← hx], hpick, Bool.false_and]
    · rw [decide_eq_true hx, Bool.and_true]
  unfold Sparse.put
  dsimp only
  split
  · exact hkept
  · rw [hinsert]
    exact hkept

theorem Node.validStreams_setReg (n : Node) {a : Nat} (v : Word) (ha : a < Reg.STB_ENTRY 0 ∨ Reg.STB_ENTRY 16384 ≤ a) :
    (n.setReg a v).validStreams = n.validStreams := by
  unfold Node.validStreams
  refine congrArg _ (Sparse.filter_put regReset n.regs v _ fun x => ?_)
  rw [decide_eq_false (by omega), Bool.false_and, Bool.false_and]

theorem Node.strm_setReg (n : Node) {a k : Nat} (v : Word) (ha : a < Reg.STB_ENTRY 0 ∨ Reg.STB_ENTRY 16384 ≤ a) (hk : k < 16384) :
    (n.setReg a v).strm k = n.strm k := by
  unfold Node.strm Node.getRegs
  refine congrArg strmOf (List.map_congr_left fun i hi => Node.reg_setReg_ne _ _ ?_)
  have := List.mem_range.mp hi
  simp only [Reg.STB_ENTRY] at ha ⊢
  omega

theorem sortBy_eq_nil {key : Nat → Nat} {l : List Nat} : sortBy key l = [] ↔ l = [] := by
  cases l with
  | nil => exact ⟨fun _ => rfl, fun _ => rfl⟩
  | cons x xs =>
    refine ⟨fun h => ?_, fun h => by cases h⟩
    rw [sortBy, List.foldr_cons] at h
    generalize List.foldr (insertBy key) [] xs = ys at h
    cases ys with
    | nil => cases h
    | cons y ys =>
      unfold insertBy at h
      split at h
      · cases h
      · cases h

/-- The valid streams have entries. -/
theorem Node.lt_of_validStreams {n : Node} {k : Nat} (h : k ∈ n.validStreams) : k < 16384 := by
  obtain ⟨p, hp, rfl⟩ := List.mem_map.mp h
  simp only [List.mem_filter, Bool.and_eq_true, decide_eq_true_eq] at hp
  obtain ⟨-, ⟨⟨hlo, hhi⟩, -⟩, -⟩ := hp
  simp only [Reg.STB_ENTRY] at hlo hhi ⊢
  omega

theorem Node.placedStreams_setReg (n : Node) {a : Nat} (v : Word) (ha : a < Reg.STB_ENTRY 0 ∨ Reg.STB_ENTRY 16384 ≤ a)
    (hnone : n.placedStreams = []) : (n.setReg a v).placedStreams = [] := by
  unfold Node.placedStreams at hnone ⊢
  rw [sortBy_eq_nil] at hnone ⊢
  rw [Node.validStreams_setReg _ _ ha, ← hnone]
  refine List.filter_congr fun k hk => ?_
  dsimp only
  rw [Node.strm_setReg _ _ ha (Node.lt_of_validStreams hk)]

/-- With no stream placed, a full re-placement plans nothing. -/
theorem Node.replacePlan_none {n : Node} (hnone : n.placedStreams = []) : n.replacePlan = ([], 0) := by
  have horder : n.replaceOrder = [] := by
    rw [Node.replaceOrder, hnone]
    rfl
  unfold Node.replacePlan
  dsimp only
  rw [horder]
  rfl

/-- The node with a full re-placement computed that has no steps. -/
def Node.replacedNone (n : Node) : Node :=
  let k := { n.setFld Reg.PLC_STATE Fld.PLC_STATE_BUSY 0 with plc := { n.plc with moves := [] } }
  (k.free.1.setReg Reg.PLC_REPLACE_MS k.free.2).setFld Reg.PLC_STATE Fld.PLC_STATE_REPLACING 0

theorem Node.replacedNone_idle (n : Node) : n.replacedNone.fld Reg.PLC_STATE Fld.PLC_STATE_BUSY = 0 ∧
    n.replacedNone.plc.moves = [] ∧ n.replacedNone.host = n.host := by
  have hfree : ∀ (m : Node) (plc : PlcState) (a : Nat), ({ m with plc := plc } : Node).free.1.reg a = m.reg a := fun _ _ _ => rfl
  unfold Node.replacedNone
  refine ⟨?_, rfl, rfl⟩
  dsimp only
  rw [Node.fld_setFld_ne _ _ _ _ _ (by decide) (by decide), Node.fld, Node.reg_setReg_ne _ _ (by decide), hfree, ← Node.fld,
    Node.fld_setFld_self _ _ _ _ (by decide)]
  rfl

theorem replacementComputed_empty (hmaster : s.node.master = true) (hbusy : s.node.fld Reg.PLC_STATE Fld.PLC_STATE_BUSY = 1)
    (hnone : s.node.placedStreams = []) (hwaits : s.node.host.waits = []) :
    ∃ t : State, exec (.replacementComputed time) s = .next t ∧ t.node.fld Reg.PLC_STATE Fld.PLC_STATE_BUSY = 0 ∧
      t.node.plc.moves = [] := by
  refine ⟨_, exec_on_eq (g := fun _ => _) rfl (if_pos ⟨hmaster, hbusy⟩), ?_⟩
  rw [State.on_node]
  generalize hm : (if (s.node.at time).mode < 4 then (s.node.at time).setFld Reg.PLC_STATE Fld.PLC_STATE_BASE (s.node.at time).mode
    else s.node.at time) = m
  have hplan : m.replacePlan = ([], 0) := by
    refine Node.replacePlan_none ?_
    rw [← hm]
    split
    · exact Node.placedStreams_setReg (s.node.at time) _ (.inr (by decide)) hnone
    · exact hnone
  have hwaits' : m.host.waits = [] := by
    rw [← hm]
    split
    · exact hwaits
    · exact hwaits
  dsimp only
  rw [hplan]
  dsimp only [List.filter_nil, List.length_nil, moveSteps, Nat.add_zero]
  simp only [↓reduceIte]
  change ((m.replacedNone.finishWaits (fun w => w.kind == 6) sOk [word 0]).stageMoves).fld _ _ = 0 ∧
    ((m.replacedNone.finishWaits (fun w => w.kind == 6) sOk [word 0]).stageMoves).plc.moves = []
  obtain ⟨hbusy, hmoves, hhost⟩ := m.replacedNone_idle
  rw [Node.finishWaits, hhost, hwaits', List.filter_nil, List.foldl_nil, Node.stageMoves, hmoves]
  exact ⟨hbusy, hmoves⟩

end

/-- Settles O40. -/
theorem placementIsAskedForAndDecided : Obligations.PlacementIsAskedForAndDecided := by
  refine ⟨fun s c w h hw => ⟨exec_streamDeclare_bad h hw, exec_streamDeclare_world h hw, exec_streamDeclare_own h hw⟩,
    fun s c => exec_streamRemove, Node.request_away, fun s c => exec_streamQuery, fun s c => exec_streamReplaceAll,
    fun s c => exec_plcStatus, fun s time q k hmaster hnext hk => ?_, fun s time q => exec_requestRetry,
    fun s time => placerSwitchRequest_asks, fun s time => exec_censusSend, fun s time => replacementComputed_empty⟩
  have hdecides := exec_placementDecision hmaster hnext hk
  refine ⟨fun reason htype hrefused => hdecides.trans ?_, fun phase placed growth htype hadmitted => hdecides.trans ?_,
    fun htype hinvalid => hdecides.trans ?_, fun htype => hdecides.trans ?_⟩
  · exact State.next_on_congr ((if_pos htype).trans ((k.decideReq_answers q).1 reason hrefused))
  · exact State.next_on_congr ((if_pos htype).trans ((k.decideReq_answers q).2 phase placed growth hadmitted))
  · exact State.next_on_congr ((if_neg (by omega)).trans ((if_pos htype).trans (if_pos (by rw [hinvalid]; rfl))))
  · exact State.next_on_congr ((if_neg (by omega)).trans ((if_neg (by omega)).trans (if_pos htype)))

end Sys2Proof.Machine
end

section
/-! PROOF. Messages: their reception, the hosts that receive them and the partition store (R364 to R366, R380 to R384). -/

namespace Sys2Proof.Machine

/-! ### Reception (R380, R393) -/

/-- A message that has not been delivered is one that its tracker accepts, so its copy is not refused. -/
theorem Node.msgRefused_of_unseen {n : Node} {src st q : Nat} (h : n.msgSeen src st q = false) (age check ci : Nat) :
    n.msgRefused st q age check ci = n := by
  unfold Node.msgSeen at h
  unfold Node.msgRefused
  by_cases hsys : 16380 ≤ st
  · exact if_pos hsys
  · rw [if_neg hsys] at h ⊢
    revert h
    cases (n.tracker st).fate q with
    | accept => exact fun _ => rfl
    | duplicate => nofun
    | stale => nofun

/-- A message of one fragment is whole when no fragment of its stream and source is held. -/
theorem Node.assemble_whole {n : Node} {src : Nat} {h : SpineHdr}
    (hnone : (n.plc.parts.find? fun p => p.src == src && p.stream == h.sid).isNone = true) (hage : h.age = 0) (hlast : h.lastFrag = true)
    (payload : List Byte) :
    n.assemble src h payload = ({ n with plc := { n.plc with
      parts := n.plc.parts.filter fun p => !(p.src == src && p.stream == h.sid) } }, some payload) := by
  unfold Node.assemble
  dsimp only
  rw [Option.isNone_iff_eq_none.mp hnone]
  dsimp only
  rw [if_pos hage, hlast, if_pos rfl, List.flatMap_cons, List.flatMap_nil, List.append_nil]
  rfl

section
variable {n : Node} {r : Rx} {src : NumEntry} {sel : Nat → Bool}

/-- A whole new message of a stream that the row picks reaches what the row does with it. -/
theorem Node.msgFrame_gets (h : n.getsMsg r src = true) (hsel : sel (decodeHdr r.frame.body).sid = true) (act : Node → InMsg → Node) :
    n.msgFrame r sel act =
      act (n.gotMsg r src) ⟨(decodeHdr r.frame.body).sid, src.identity, payloadOf r.frame.body⟩ := by
  simp only [Node.getsMsg, Bool.and_eq_true, decide_eq_true_eq, Bool.not_eq_true', beq_iff_eq, bne_iff_ne] at h
  obtain ⟨⟨⟨⟨⟨⟨⟨hhears, hsrc⟩, hother⟩, htakes⟩, hnew⟩, hlast⟩, hage⟩, hparts⟩ := h
  unfold Node.msgFrame
  rw [Node.receive_hears _ hhears]
  dsimp only
  rw [← Node.msgCarried, hsrc]
  dsimp only
  rw [hsel, htakes, beq_eq_false_iff_ne.mpr hother, if_neg (by decide), Node.msgRefused_of_unseen hnew, hnew, if_neg (by decide),
    Node.assemble_whole hparts hage hlast]
  rfl

/-- A MSG frame of a stream that is not delivered to this node is only sent on. -/
theorem Node.msgFrame_carries (h : n.hears r 0xB = true) (hnot : (n.msgCarried r).takesStream (decodeHdr r.frame.body).sid = false)
    (act : Node → InMsg → Node) : n.msgFrame r sel act = n.msgCarried r := by
  unfold Node.msgFrame
  rw [Node.receive_hears _ h]
  dsimp only
  rw [← Node.msgCarried]
  cases (n.msgCarried r).nodeIn (decodeHdr r.frame.body).epoch (decodeHdr r.frame.body).src with
  | none => rfl
  | some src =>
    dsimp only
    rw [hnot, Bool.not_false, Bool.or_true, if_pos rfl]

end

section
variable {s : State} {r : Rx}

/-- The row of messages takes every stream but the verdict stream and the service streams. -/
theorem exec_msgReceived_gets {src : NumEntry} (h : s.node.getsMsg r src = true) (hverdict : (decodeHdr r.frame.body).sid ≠ 16381)
    (hservice : s.node.svcRange (decodeHdr r.frame.body).sid = false) :
    exec (.msgReceived r) s = .next (s.on fun n =>
      (n.gotMsg r src).takeMsg ⟨(decodeHdr r.frame.body).sid, src.identity, payloadOf r.frame.body⟩) := by
  have hsel : ((decodeHdr r.frame.body).sid != 16381 && !s.node.svcRange (decodeHdr r.frame.body).sid) = true := by
    rw [bne_iff_ne.mpr hverdict, hservice]
    rfl
  exact exec_on_eq (f := fun n => n.msgFrame r (fun st => st != 16381 && !n.svcRange st) Node.takeMsg) rfl
    (Node.msgFrame_gets (sel := fun st => st != 16381 && !s.node.svcRange st) h hsel _)

theorem exec_msgReceived_carries (h : s.node.hears r 0xB = true)
    (hnot : (s.node.msgCarried r).takesStream (decodeHdr r.frame.body).sid = false) :
    exec (.msgReceived r) s = .next (s.on fun n => n.msgCarried r) :=
  exec_on_eq (f := fun n => n.msgFrame r (fun st => st != 16381 && !n.svcRange st) Node.takeMsg) rfl (Node.msgFrame_carries h hnot _)

theorem exec_verdictReceived_gets {src : NumEntry} (h : s.node.getsMsg r src = true) (hverdict : (decodeHdr r.frame.body).sid = 16381) :
    exec (.verdictReceived r) s = .next (s.on fun n =>
      if (n.gotMsg r src).master then n.gotMsg r src else (n.gotMsg r src).takeVerdict (decodeVerdict (payloadOf r.frame.body))) :=
  exec_on_eq (f := fun n => n.msgFrame r (fun st => st == 16381) fun k m =>
      if k.master then k else k.takeVerdict (decodeVerdict m.bytes)) rfl
    (Node.msgFrame_gets (sel := fun st => st == 16381) h (beq_iff_eq.mpr hverdict) _)

end

/-! ### Delivery to the hosts (R362, R381) -/

theorem Node.takeMsg_request {n : Node} {m : InMsg} (hst : m.stream = 16380) (hmaster : n.master = true) :
    (n.takeMsg m).plc.queue = n.plc.queue ++ [decodeRequest m.bytes] := by
  unfold Node.takeMsg
  rw [if_pos hst, if_pos hmaster]

theorem Node.deliverMsg_waits {n : Node} (m : InMsg) (hwaits : n.host.waits = []) :
    ((n.plc.inbox.filter fun x => x.stream == m.stream).length < 64 → (n.deliverMsg m).plc.inbox = n.plc.inbox ++ [m]) ∧
    (64 ≤ (n.plc.inbox.filter fun x => x.stream == m.stream).length → n.deliverMsg m = n.inc Reg.PLC_MSG_DROP) := by
  unfold Node.deliverMsg
  rw [hwaits]
  simp only [List.filter_nil, List.append_nil, List.foldl_nil, Bool.false_eq_true, if_false]
  refine ⟨fun hroom => ?_, fun hfull => if_neg (by omega)⟩
  rw [if_pos hroom]

/-! ### The commands (R381 to R384) -/

section
variable {s : State} {c : Cmd}

section
variable {e : Strm} {bytes : List Byte} (h : s.node.takes c 0x0205 (s.node.strmNeed (arg c 0)) 6 = true)
  (he : e = s.node.strm (arg c 0)) (hlo : 0 < arg c 0) (hhi : arg c 0 < 16380) (hvalid : e.valid = true) (hcls : e.cls = 2)
  (hown : s.node.ownStream e = true) (hlen : arg c 1 ≤ 16384)
  (hbytes : s.node.sourceBytes c (arg c 2) (arg c 3 + arg c 4 * 2 ^ 32) (arg c 1) = some bytes)

/-- What STREAM_MSG_SEND does with the bytes of a message that is right. -/
def sendAnswer (c : Cmd) (e : Strm) (bytes : List Byte) (m : Node) : Answer :=
  let life := if arg c 5 = 0 then m.plc.expiry else arg c 5
  match m.absentDest e with
  | some d =>
    match m.storeMsg (arg c 0) d bytes (m.tm.raw + life * 1000000000) with
    | (k, true) => .done k sOk []
    | (k, false) => .fail k sResource
  | none => .done (m.postUntil (arg c 0) ((m.destsOf m.ina.table e).map (·.identity)) bytes (m.tm.raw + life * 1000000000)) sOk []

include h he hlo hhi hvalid hcls hown hlen hbytes

theorem exec_streamMsgSend_answers {g : Node → Node} (hg : Node.settle c (sendAnswer c e bytes (s.node.at c.time)) = g s.node) :
    exec (.streamMsgSend c) s = .next (s.on g) := by
  subst he
  refine exec_settles rfl rfl h (Eq.trans (congrArg (Node.settle c) ?_) hg)
  refine (if_neg ?_).trans ?_
  · have hvalid' : ((s.node.at c.time).strm (arg c 0)).valid = true := hvalid
    have hown' : (s.node.at c.time).ownStream ((s.node.at c.time).strm (arg c 0)) = true := hown
    have hcls' : ((s.node.at c.time).strm (arg c 0)).cls = 2 := hcls
    rw [hvalid', hown', hcls']
    simp only [Bool.not_true, Bool.false_eq_true, ne_eq, not_true_eq_false, false_or]
    omega
  · have hbytes' : (s.node.at c.time).sourceBytes c (arg c 2) (arg c 3 + arg c 4 * 2 ^ 32) (arg c 1) = some bytes := hbytes
    rw [hbytes']
    rfl

theorem exec_streamMsgSend_present (hdest : s.node.absentDest e = none) :
    exec (.streamMsgSend c) s = .next (s.on fun n =>
      ((n.at c.time).postUntil (arg c 0) ((n.destsOf n.ina.table e).map (·.identity)) bytes (max n.tm.raw c.time +
        (if arg c 5 = 0 then n.plc.expiry else arg c 5) * 1000000000)).completes c sOk []) := by
  refine exec_streamMsgSend_answers h he hlo hhi hvalid hcls hown hlen hbytes ?_
  unfold sendAnswer
  rw [show (s.node.at c.time).absentDest e = none from hdest]
  rfl

theorem exec_streamMsgSend_stored {d : Bool × Nat} (hdest : s.node.absentDest e = some d) (hroom : s.node.storeRoom bytes.length = true) :
    exec (.streamMsgSend c) s = .next (s.on fun n =>
      { n.at c.time with plc := { n.plc with store := n.plc.store ++ [StoredMsg.mk (arg c 0) d.1 d.2 bytes (max n.tm.raw c.time +
        (if arg c 5 = 0 then n.plc.expiry else arg c 5) * 1000000000)] } }.syncStore.completes c sOk []) := by
  refine exec_streamMsgSend_answers h he hlo hhi hvalid hcls hown hlen hbytes ?_
  unfold sendAnswer Node.storeMsg
  rw [show (s.node.at c.time).absentDest e = some d from hdest, show (s.node.at c.time).storeRoom bytes.length = true from hroom]
  rfl

theorem exec_streamMsgSend_full {d : Bool × Nat} (hdest : s.node.absentDest e = some d) (hroom : s.node.storeRoom bytes.length = false) :
    exec (.streamMsgSend c) s = .next (s.on fun n =>
      ((n.at c.time).raise 0x3906 (arg c 0) (n.reg Reg.PLC_PART_USED).toNat).completes c sResource []) := by
  refine exec_streamMsgSend_answers h he hlo hhi hvalid hcls hown hlen hbytes ?_
  unfold sendAnswer Node.storeMsg
  rw [show (s.node.at c.time).absentDest e = some d from hdest, show (s.node.at c.time).storeRoom bytes.length = false from hroom]
  rfl

end

section
variable (h : s.node.takes c 0x0206 (s.node.strmNeed (arg c 0)) 4 = true) (hhi : arg c 0 < 16380)
include h hhi

theorem exec_streamMsgRecv_waits (hempty : s.node.plc.inbox = []) :
    exec (.streamMsgRecv c) s = .next (s.on fun n =>
      (n.at c.time).waitsFor c 4 (arg c 0) [argW c 1, argW c 2, argW c 3]) := by
  refine exec_settles rfl rfl h (Eq.trans (congrArg (Node.settle c) (if_neg (by omega))) ?_)
  rw [show (s.node.at c.time).plc.inbox = [] from hempty]
  rfl

theorem exec_streamMsgRecv_takes {m : InMsg} {ms : List InMsg} (hinbox : s.node.plc.inbox = m :: ms) (hstream : arg c 0 = m.stream)
    (hopen : s.node.strmSecure m.stream = false) (hfits : m.bytes.length ≤ arg c 3) :
    exec (.streamMsgRecv c) s = .next (s.on fun n =>
      { n.at c.time with
        host := { n.host with dma := n.host.dma ++ [HostWrite.mk c.ctx (arg c 1 + arg c 2 * 2 ^ 32) m.bytes] }
        plc := { n.plc with inbox := ms } }.completes c sOk [word m.bytes.length, word m.src, word (m.src / 2 ^ 32)]) := by
  have hopen' : (s.node.at c.time).strmSecure m.stream = false := hopen
  refine exec_settles rfl rfl h (Eq.trans (congrArg (Node.settle c) (if_neg (by omega))) ?_)
  rw [show (s.node.at c.time).plc.inbox = m :: ms from hinbox]
  dsimp only
  rw [List.find?_cons_of_pos (by rw [hopen', hstream]; simp)]
  dsimp only
  rw [if_neg (by omega), List.erase_cons_head]
  rfl

end
end

/-! ### The partition store (R383) -/

theorem storedMessageExpiry_drops (s : State) (time : Nat) :
    ∃ t : State, exec (.storedMessageExpiry time) s = .next t ∧
      t.node.plc.store = s.node.plc.store.filter fun x => !decide (x.expiry ≤ max s.node.tm.raw time) := by
  refine ⟨_, rfl, ?_⟩
  rw [State.on_node]
  refine (foldl_keeps (fun k : Node => k.plc.store) _ _ _ ?_).trans ?_
  · exact fun k st => congrArg PlcState.store (Node.raise_plc k 0x3807 st _)
  · rfl

/-- Settles O41. -/
theorem messagesReachTheirReceivers : Obligations.MessagesReachTheirReceivers :=
  ⟨fun _ _ _ => exec_msgReceived_gets, fun _ _ h hnot _ => exec_msgReceived_carries h hnot, fun _ _ _ => exec_verdictReceived_gets,
    fun _ _ => Node.takeMsg_request, fun _ m => Node.deliverMsg_waits m,
    fun _ _ _ h he hlo hhi hvalid hcls hown hlen _ hbytes =>
      ⟨exec_streamMsgSend_present h he hlo hhi hvalid hcls hown hlen hbytes, fun _ hdest =>
        ⟨exec_streamMsgSend_stored h he hlo hhi hvalid hcls hown hlen hbytes hdest,
          exec_streamMsgSend_full h he hlo hhi hvalid hcls hown hlen hbytes hdest⟩⟩,
    fun _ _ h hhi => ⟨exec_streamMsgRecv_waits h hhi, fun _ _ => exec_streamMsgRecv_takes h hhi⟩,
    storedMessageExpiry_drops⟩

end Sys2Proof.Machine
end

section
/-! PROOF. The lease and the token of a pair (R403 to R416). -/

namespace Sys2Proof.Machine

/-! ### What the operations of the pair leave of a node -/

theorem Node.fld_setFld_other (n : Node) {a b : Nat} (f g : Field) (v : Nat) (h : b ≠ a) : (n.setFld a f v).fld b g = n.fld b g :=
  congrArg g.get (n.reg_setFld_ne f v h)

theorem Node.fld_setReg_other (n : Node) {a b : Nat} (g : Field) (v : Word) (h : b ≠ a) : (n.setReg a v).fld b g = n.fld b g :=
  congrArg g.get (n.reg_setReg_ne v h)

theorem Node.fld_withPar (n : Node) (par : ParState) (a : Nat) (f : Field) : { n with par := par }.fld a f = n.fld a f := rfl

theorem Node.reg_withPar (n : Node) (par : ParState) (a : Nat) : { n with par := par }.reg a = n.reg a := rfl

theorem Node.reg_syncPair (n : Node) {a : Nat} (htoken : a ≠ Reg.PAR_TOKEN) (hjlk : a ≠ Reg.JLK_STAT) :
    n.syncPair.reg a = n.reg a := by
  unfold Node.syncPair
  extract_lets near miss m k
  rw [Node.reg_setFld_ne _ _ _ htoken, Node.reg_setBit_ne _ _ _ hjlk, Node.reg_setBit_ne _ _ _ hjlk, Node.reg_setFld_ne _ _ _ htoken,
    Node.reg_setFld_ne _ _ _ htoken]

theorem Node.fld_syncPair (n : Node) {a : Nat} (f : Field) (htoken : a ≠ Reg.PAR_TOKEN) (hjlk : a ≠ Reg.JLK_STAT) :
    n.syncPair.fld a f = n.fld a f :=
  congrArg f.get (n.reg_syncPair htoken hjlk)

/-- The state, the fence and the fitness of a token lie below the fields that follow the units. -/
theorem Node.fld_syncPair_token (n : Node) {f : Field} (hf : f.lo + f.width ≤ 4) :
    n.syncPair.fld Reg.PAR_TOKEN f = n.fld Reg.PAR_TOKEN f := by
  have hset : ∀ (k : Node) {g : Field} (v : Nat), 4 ≤ g.lo → (k.setFld Reg.PAR_TOKEN g v).fld Reg.PAR_TOKEN f = k.fld Reg.PAR_TOKEN f :=
    fun k g v hg => k.fld_setFld_ne _ _ _ v (by omega) (.inl (by omega))
  have hbit : ∀ (k : Node) (i : Nat) (v : Bool), (k.setBit Reg.JLK_STAT i v).fld Reg.PAR_TOKEN f = k.fld Reg.PAR_TOKEN f :=
    fun k i v => congrArg f.get (k.reg_setBit_ne i v (by decide))
  unfold Node.syncPair
  extract_lets near miss m k
  rw [hset _ _ (by decide), hbit, hbit, hset _ _ (by decide), hset _ _ (by decide)]

theorem Node.token_syncPair (n : Node) : n.syncPair.token = n.token := n.fld_syncPair_token (by decide)

theorem Node.fenced_syncPair (n : Node) : n.syncPair.fenced = n.fenced := congrArg (· == 1) (n.fld_syncPair_token (by decide))

theorem Node.unfit_syncPair (n : Node) : n.syncPair.unfit = n.unfit := congrArg (· == 1) (n.fld_syncPair_token (by decide))

theorem Node.par_syncPair (n : Node) : n.syncPair.par = n.par := rfl

theorem Node.tm_syncPair (n : Node) : n.syncPair.tm = n.tm := rfl

theorem Node.Presents.fld {n m : Node} (h : n.Presents m) {a : Nat} (ha : a < Reg.PDT_CFG) (hdrop : a ≠ Reg.EVT_DROP) (f : Field) :
    m.fld a f = n.fld a f :=
  congrArg f.get (h.reg a ha hdrop)

theorem Node.Presents.par {n m : Node} (h : n.Presents m) : m.par = n.par := by
  obtain ⟨_, _, _, rfl⟩ := h.stores
  rfl

theorem Node.Sends.par {n m : Node} (h : n.Sends m) : m.par = n.par := by
  obtain ⟨_, _, _, rfl⟩ := h.stores
  rfl

theorem Node.Sends.ctrlSend (n : Node) (type flags unit : Nat) (body : List Byte) : n.Sends (n.ctrlSend type flags unit body) :=
  send _ _ _

theorem Node.Sends.tc {n m : Node} (h : n.Sends m) : m.tc = n.tc := congrArg BitVec.toNat (h.reg _ (by decide))

theorem Node.Sends.st {n m : Node} (h : n.Sends m) : m.st = n.st := h.fld (by decide) _

theorem unit_congr {n m : Node} (htm : m.tm = n.tm) (htc : m.tc = n.tc) (hst : m.st = n.st) : m.unit = n.unit := by
  rw [Node.unit, Node.unit, Node.unitAt, Node.unitAt, Node.unitLen, Node.unitLen, Node.cycled, Node.cycled, Node.fineAt, Node.fineAt,
    htm, htc, hst]

theorem Node.Sends.unit {n m : Node} (h : n.Sends m) : m.unit = n.unit := unit_congr h.tm h.tc h.st

/-! ### Demotion and takeover (R408 to R416) -/

/-- A node that stops holding the token, before its drivers follow and the event is raised. -/
def Node.steppedDown (n : Node) (fence : Bool) : Node :=
  let m := (n.setFld Reg.PAR_TOKEN Fld.PAR_TOKEN_STATE tkStandby).setFld Reg.PAR_TOKEN Fld.PAR_TOKEN_FENCED (b2n fence)
  let m := { m with par := { m.par with
    lease := some m.tm.raw, handTake := none, alone := false, pass := none, sent := [], snap := [], buffer := [],
    applied := none, appliedBefore := none, handover := if m.par.handAcked then none else m.par.handover,
    handAcked := false } }
  (m.setFld Reg.PAR_REPL_STAT Fld.PAR_REPL_STAT_CURRENT 0).setFld Reg.PAR_REPL_STAT Fld.PAR_REPL_STAT_RESYNC 0

theorem Node.demote_eq (n : Node) (cause : Nat) (fence : Bool) :
    n.demote cause fence = (n.steppedDown fence).syncDrivers.raise 0x4104 cause (n.steppedDown fence).generation := rfl

theorem Node.presents_demote (n : Node) (cause : Nat) (fence : Bool) : (n.steppedDown fence).Presents (n.demote cause fence) :=
  (Node.Presents.syncDrivers _).trans (Node.Presents.raise _ _ _ _)

/-- What demotion leaves. -/
theorem Node.demote_leaves (n : Node) (cause : Nat) (fence : Bool) : (n.demote cause fence).token = tkStandby ∧
    (n.demote cause fence).fenced = fence ∧ (n.demote cause fence).par.pass = none ∧ (n.demote cause fence).current = false := by
  have h := n.presents_demote cause fence
  refine ⟨?_, ?_, by rw [h.par]; rfl, ?_⟩
  · rw [Node.token, h.fld (by decide) (by decide), Node.steppedDown, Node.fld_setFld_other _ _ _ _ (by decide),
      Node.fld_setFld_other _ _ _ _ (by decide), Node.fld_withPar, Node.fld_setFld_ne _ _ _ _ _ (by decide) (by decide),
      Node.fld_setFld_self _ _ _ _ (by decide)]
    rfl
  · rw [Node.fenced, h.fld (by decide) (by decide), Node.steppedDown, Node.fld_setFld_other _ _ _ _ (by decide),
      Node.fld_setFld_other _ _ _ _ (by decide), Node.fld_withPar, Node.fld_setFld_self _ _ _ _ (by decide)]
    cases fence <;> rfl
  · rw [Node.current, h.fld (by decide) (by decide), Node.steppedDown, Node.fld_setFld_ne _ _ _ _ _ (by decide) (by decide),
      Node.fld_setFld_self _ _ _ _ (by decide)]
    rfl

/-- A node that takes the token, before its drivers follow. -/
def Node.steppedUp (n : Node) (heard : Bool) : Node :=
  let g := max n.par.genSeen n.generation + 1
  let m := (n.setReg Reg.PAR_TOKEN_GEN (word g)).setFld Reg.PAR_TOKEN Fld.PAR_TOKEN_FENCED 0
  let m := { m with par := { m.par with
    genSeen := g, lease := if heard then some m.tm.raw else none, handover := none, handTake := none, muteRun := 0,
    alone := false, base := [], snap := [], sent := [], sentWhole := false, renewAt := none, pass := none, buffer := [],
    resync := 0 } }
  let m := { m with brg := { m.brg with seqs := [] } }
  let m := (m.setFld Reg.PAR_REPL_STAT Fld.PAR_REPL_STAT_RESYNC 0).setFld Reg.PAR_REPL_STAT Fld.PAR_REPL_STAT_CURRENT
    (m.fld Reg.PAR_PARTNER Fld.PAR_PARTNER_CURRENT)
  (m.setFld Reg.PAR_TOKEN Fld.PAR_TOKEN_STATE tkHolder).setFld Reg.PAR_TOKEN Fld.PAR_TOKEN_HANDOVER 0

theorem Node.takeToken_eq (n : Node) (heard : Bool) : n.takeToken heard = (n.steppedUp heard).syncDrivers := rfl

theorem Node.fld_withBrg (n : Node) (brg : BrgState) (a : Nat) (f : Field) : { n with brg := brg }.fld a f = n.fld a f := rfl

theorem Node.reg_withBrg (n : Node) (brg : BrgState) (a : Nat) : { n with brg := brg }.reg a = n.reg a := rfl

/-- What takeover leaves. -/
theorem Node.takeToken_leaves (n : Node) (heard : Bool) : (n.takeToken heard).token = tkHolder ∧ (n.takeToken heard).fenced = false ∧
    (n.takeToken heard).par.genSeen = max n.par.genSeen n.generation + 1 ∧
    (n.takeToken heard).generation = (max n.par.genSeen n.generation + 1) % 2 ^ 32 := by
  have h : (n.steppedUp heard).Presents (n.takeToken heard) := Node.Presents.syncDrivers _
  refine ⟨?_, ?_, by rw [h.par]; rfl, ?_⟩
  · rw [Node.token, h.fld (by decide) (by decide), Node.steppedUp, Node.fld_setFld_ne _ _ _ _ _ (by decide) (by decide),
      Node.fld_setFld_self _ _ _ _ (by decide)]
    rfl
  · rw [Node.fenced, h.fld (by decide) (by decide), Node.steppedUp, Node.fld_setFld_ne _ _ _ _ _ (by decide) (by decide),
      Node.fld_setFld_ne _ _ _ _ _ (by decide) (by decide), Node.fld_setFld_other _ _ _ _ (by decide),
      Node.fld_setFld_other _ _ _ _ (by decide), Node.fld_withBrg, Node.fld_withPar, Node.fld_setFld_self _ _ _ _ (by decide)]
    rfl
  · rw [Node.generation, h.reg _ (by decide) (by decide), Node.steppedUp, Node.reg_setFld_ne _ _ _ (by decide),
      Node.reg_setFld_ne _ _ _ (by decide), Node.reg_setFld_ne _ _ _ (by decide), Node.reg_setFld_ne _ _ _ (by decide),
      Node.reg_withBrg, Node.reg_withPar, Node.reg_setFld_ne _ _ _ (by decide), Node.reg_setReg_self, word_toNat]

theorem Node.acquire_unfit {n : Node} (cause : Nat) (h : n.unfit = true) : n.acquire cause = n := if_pos h

theorem Node.acquire_token {n : Node} (cause : Nat) (h : n.unfit = false) : (n.acquire cause).token = tkHolder := by
  have heq : n.acquire cause = (n.takeToken (cause != 2)).raise 0x4005 cause (n.takeToken (cause != 2)).generation :=
    if_neg (by rw [h]; decide)
  rw [heq, Node.token, (Node.Presents.raise _ _ _ _).fld (by decide) (by decide)]
  exact (n.takeToken_leaves _).1

/-! ### Control frames (R401, R412) -/

/-- A control frame that a row hears reaches what the row does with it once the contact has been noted. -/
theorem Node.ctrl_hears {n : Node} {r : Rx} {type : Nat} (act : Node → CtrlHdr → List Byte → Node) (h : n.hearsCtrl r type = true) :
    n.ctrl r type act = (act (n.heardCtrl r) (ctrlHdr r) (ctrlBody r)).syncPair := by
  simp only [Node.hearsCtrl, Bool.and_eq_true, Option.isNone_iff_eq_none, beq_iff_eq, bne_iff_ne] at h
  obtain ⟨⟨⟨⟨⟨⟨⟨⟨hchecks, hport⟩, hdst⟩, hadmit⟩, hfits⟩, hsrc⟩, hpartner⟩, hspine⟩, htype⟩ := h
  have hchecks' : ((n.at r.stamp).echoBack r).rxFail r = none := hchecks
  unfold Node.ctrl
  extract_lets m
  rw [hchecks']
  dsimp only
  rw [if_neg (by simp [hadmit]), if_pos ⟨hport, hdst⟩]
  change (if (!ctrlFits (ctrlHdr r).type (beAt r.frame.body 2 2) || r.frame.src != (n.heard r).partnerId ||
    (n.heard r).partnerId == 0 || !(n.heard r).isSpine r.frame) = true then _ else if (ctrlHdr r).type ≠ type then _ else _) = _
  rw [hfits, hspine, if_neg (by simp [hsrc, hpartner]), if_neg (by simp [htype])]
  rfl

theorem Node.tm_notice (n : Node) (cause port : Nat) : (n.notice cause port).tm = n.tm := by
  unfold Node.notice
  split
  · rfl
  · split
    · rfl
    · exact (Node.Sends.startOn _ _ _ _).tm

theorem Node.tm_acquire (n : Node) (cause : Nat) : (n.acquire cause).tm = n.tm := by
  unfold Node.acquire
  split
  · rfl
  · extract_lets m
    obtain ⟨regs, ev, pd, h⟩ := (Node.Presents.syncDrivers (n.steppedUp (cause != 2))).stores
    rw [Node.raise_tm, show m = (n.steppedUp (cause != 2)).syncDrivers from rfl, h]
    rfl

/-- A node that a contact has reached, before it acts on it: the partner is no longer lost, and a lone holder's lease begins. -/
def Node.touched (n : Node) : Node :=
  let m := { n with par := { n.par with lost := false } }
  if m.token = tkHolder ∧ m.par.lease.isNone then { m with par := { m.par with lease := some m.tm.raw } } else m

/-- A contact is reported, and the master hears of it. -/
def Node.reportContact (n m : Node) (shown : Nat) : Node := (n.raise 0x4007 m.par.genSeen shown).notice 4 12

theorem Node.contact_eq (n : Node) (shown : Nat) (renewal : Bool) : n.contact shown renewal =
    if n.touched.token = tkInit then
      if renewal then
        let k := (n.touched.setFld Reg.PAR_TOKEN Fld.PAR_TOKEN_STATE tkStandby).reportContact n.touched shown
        { k with par := { k.par with resync := 1 } }
      else if n.touched.roleB then n.touched else (n.touched.reportContact n.touched shown).acquire 1
    else if n.par.lost then n.touched.reportContact n.touched shown else n.touched := rfl

theorem Node.tm_touched (n : Node) : n.touched.tm = n.tm := by
  unfold Node.touched
  extract_lets src m src'
  split <;> rfl

theorem Node.tm_reportContact (n m : Node) (shown : Nat) : (n.reportContact m shown).tm = n.tm :=
  (Node.tm_notice _ _ _).trans (Node.raise_tm _ _ _ _)

/-- A contact leaves the node's time. -/
theorem Node.tm_contact (n : Node) (shown : Nat) (renewal : Bool) : (n.contact shown renewal).tm = n.tm := by
  rw [Node.contact_eq]
  split
  · split
    · exact (Node.tm_reportContact _ _ _).trans n.tm_touched
    · split
      · exact n.tm_touched
      · exact (Node.tm_acquire _ _).trans ((Node.tm_reportContact _ _ _).trans n.tm_touched)
  · split
    · exact (Node.tm_reportContact _ _ _).trans n.tm_touched
    · exact n.tm_touched

theorem Node.tm_heard {n : Node} {r : Rx} (hchecks : (n.meets r).rxFail r = none) : (n.heard r).tm = (n.at r.stamp).tm := by
  obtain ⟨_, _, _, h⟩ := (Node.hears_heard hchecks).stores
  rw [h]

theorem Node.tm_sawGen (n : Node) (g : Nat) : (n.sawGen g).tm = n.tm := by
  unfold Node.sawGen
  extract_lets m
  split <;> rfl

theorem Node.raw_heardCtrl {n : Node} {r : Rx} {type : Nat} (h : n.hearsCtrl r type = true) :
    (n.heardCtrl r).tm.raw = max n.tm.raw r.stamp := by
  simp only [Node.hearsCtrl, Bool.and_eq_true, Option.isNone_iff_eq_none] at h
  obtain ⟨⟨⟨⟨⟨⟨⟨⟨hchecks, _⟩, _⟩, _⟩, _⟩, _⟩, _⟩, _⟩, _⟩ := h
  rw [Node.heardCtrl, Node.tm_contact, Node.setFld_tm]
  exact congrArg TimeState.raw ((Node.tm_sawGen _ _).trans (Node.tm_heard hchecks))

theorem Node.touched_standby {n : Node} (h : n.token = tkStandby) : n.touched = { n with par := { n.par with lost := false } } :=
  if_neg fun hholder => absurd (h.symm.trans hholder.1) (by decide)

/-- A contact at a standby leaves every register that a notice leaves. -/
theorem Node.reg_contact_standby {n : Node} (h : n.token = tkStandby) (shown : Nat) (renewal : Bool) {a : Nat} (ha : ¬ steerReg a)
    (hdrop : a ≠ Reg.EVT_DROP) : (n.contact shown renewal).reg a = n.reg a := by
  have htoken : n.touched.token = tkStandby := (congrArg Node.token (Node.touched_standby h)).trans h
  have hreg : n.touched.reg a = n.reg a := congrArg (·.reg a) (Node.touched_standby h)
  rw [Node.contact_eq, if_neg (by rw [htoken]; decide)]
  split
  · exact ((Node.Steers.notice _ _ _).reg a ha).trans ((Node.reg_raise_ne _ _ _ _ hdrop).trans hreg)
  · exact hreg

/-! ### Renewals and acknowledgements (R403, R407) -/

section
variable (n : Node) (unit edge : Nat) (byPulse : Bool)

/-- A standby that has seen a renewal, before it answers. -/
def Node.renewed : Node :=
  let m := if n.unfit then n else n.setFld Reg.PAR_TOKEN Fld.PAR_TOKEN_FENCED 0
  let m := m.setReg Reg.PAR_LEASE (word unit)
  { m with par := { m.par with lease := some m.tm.raw, alone := false } }

/-- A renewal acknowledged over the Jalder link, once for each unit. -/
def Node.ackRenewal (n : Node) (first : Bool) : Node :=
  if first then { n.sendAck unit with par := { (n.sendAck unit).par with ackSent := some n.tm.raw } } else n

/-- The first renewal of the unit in progress. -/
def Node.firstRenewal (n : Node) : Bool :=
  match n.par.ackSent with
  | some t => decide (n.unitAt t ≠ n.unit)
  | none => true

/-- The answer to a renewal over the heartbeat line. -/
def Node.pulseRenewal (n : Node) (first : Bool) : Node :=
  if !n.hbFitted then n
  else if first then n.pulse (edge + 40000) 24000
  else if byPulse then
    { n with par := { n.par with
      pulses := n.par.pulses.filter (fun p => !(p.2 == 24000 && decide (edge < p.1))) ++ [(edge + 40000, 24000)] } }
  else n

theorem Node.seeRenewal_eq : n.seeRenewal unit edge byPulse =
    Node.pulseRenewal edge byPulse (Node.ackRenewal unit (n.renewed unit) (n.renewed unit).firstRenewal) (n.renewed unit).firstRenewal := rfl

/-- What an answer to a renewal leaves of a node. -/
structure Node.Answers (n m : Node) : Prop where
  reg : ∀ a, ¬ egressReg a → m.reg a = n.reg a
  lease : m.par.lease = n.par.lease
  pulseAt : m.par.pulseAt = n.par.pulseAt

theorem Node.answers_ackRenewal (first : Bool) : n.Answers (Node.ackRenewal unit n first) := by
  unfold Node.ackRenewal
  split
  · have hsends : n.Sends (n.sendAck unit) := Node.Sends.ctrlSend _ _ _ _ _
    refine ⟨fun a ha => hsends.reg a ha, ?_, ?_⟩
    · show (n.sendAck unit).par.lease = _
      rw [hsends.par]
    · show (n.sendAck unit).par.pulseAt = _
      rw [hsends.par]
  · exact ⟨fun _ _ => rfl, rfl, rfl⟩

theorem Node.answers_pulseRenewal (first : Bool) : n.Answers (Node.pulseRenewal edge byPulse n first) := by
  unfold Node.pulseRenewal
  split
  · exact ⟨fun _ _ => rfl, rfl, rfl⟩
  · split
    · exact ⟨fun _ _ => rfl, rfl, rfl⟩
    · split
      · exact ⟨fun _ _ => rfl, rfl, rfl⟩
      · exact ⟨fun _ _ => rfl, rfl, rfl⟩

/-- The answer to a renewal leaves what the renewal has set. -/
theorem Node.seeRenewal_answers : (n.renewed unit).Answers (n.seeRenewal unit edge byPulse) := by
  have hack := Node.answers_ackRenewal (n.renewed unit) unit (n.renewed unit).firstRenewal
  have hpulse := Node.answers_pulseRenewal (Node.ackRenewal unit (n.renewed unit) (n.renewed unit).firstRenewal) edge byPulse
    (n.renewed unit).firstRenewal
  rw [Node.seeRenewal_eq]
  exact ⟨fun a ha => (hpulse.reg a ha).trans (hack.reg a ha), hpulse.lease.trans hack.lease, hpulse.pulseAt.trans hack.pulseAt⟩

theorem Node.reg_renewed_lease : (n.renewed unit).reg Reg.PAR_LEASE = word unit := Node.reg_setReg_self _ _ _

theorem Node.renewed_lease : (n.renewed unit).par.lease = some n.tm.raw := by
  unfold Node.renewed
  split <;> rfl

theorem Node.renewed_pulseAt : (n.renewed unit).par.pulseAt = n.par.pulseAt := by
  unfold Node.renewed
  split <;> rfl

theorem Node.renewed_fenced {n : Node} (h : n.unfit = false) (unit : Nat) :
    (n.renewed unit).fld Reg.PAR_TOKEN Fld.PAR_TOKEN_FENCED = 0 := by
  unfold Node.renewed
  extract_lets m0 m1 src
  have hm : m0 = n.setFld Reg.PAR_TOKEN Fld.PAR_TOKEN_FENCED 0 := if_neg (by rw [h]; decide)
  rw [Node.fld_withPar, Node.fld_setReg_other _ _ _ (by decide), hm, Node.fld_setFld_self _ _ _ _ (by decide)]
  rfl

theorem Node.reg_renewed_ne {a : Nat} (htoken : a ≠ Reg.PAR_TOKEN) (hlease : a ≠ Reg.PAR_LEASE) : (n.renewed unit).reg a = n.reg a := by
  unfold Node.renewed
  extract_lets m0 m1 src
  rw [Node.reg_withPar, Node.reg_setReg_ne _ _ hlease]
  show (if _ then _ else _ : Node).reg a = _
  split
  · rfl
  · exact Node.reg_setFld_ne _ _ _ htoken

end

/-! ### The holder renews (R403, R407) -/

theorem Node.fld_atPair (n : Node) (time : Nat) {a : Nat} (f : Field) (htoken : a ≠ Reg.PAR_TOKEN) (hjlk : a ≠ Reg.JLK_STAT) :
    (n.atPair time).fld a f = n.fld a f :=
  (n.at time).fld_syncPair f htoken hjlk

theorem Node.paired_atPair (n : Node) (time : Nat) : (n.atPair time).paired = n.paired :=
  congrArg (· == 1) (n.fld_atPair time _ (by decide) (by decide))

theorem Node.hbFitted_atPair (n : Node) (time : Nat) : (n.atPair time).hbFitted = n.hbFitted :=
  congrArg (· == 1) (n.fld_atPair time _ (by decide) (by decide))

theorem Node.st_atPair (n : Node) (time : Nat) : (n.atPair time).st = n.st := n.fld_atPair time _ (by decide) (by decide)

theorem Node.cycled_atPair (n : Node) (time : Nat) : (n.atPair time).cycled = n.cycled := by
  rw [Node.cycled, Node.st_atPair]
  rfl

theorem Node.unfit_atPair (n : Node) (time : Nat) : (n.atPair time).unfit = n.unfit := (n.at time).unfit_syncPair

theorem Node.token_at (n : Node) (time : Nat) : (n.atPair time).token = n.token := (n.at time).token_syncPair

/-- What a holder sends to renew its lease. -/
def Node.renews (m : Node) : Node :=
  let flags := b2n (m.st == stRun) + b2n (m.st == stMute) * 2 + b2n m.par.handover.isSome * 4
  let k := (m.ctrlSend 1 flags m.unit (encBE 4 m.par.sentCyc ++ zeros 4)).setReg Reg.PAR_LEASE (word m.unit)
  let k := if m.hbFitted then
      { k.pulse (m.tm.raw + 10000) 8000 with par :=
        { (k.pulse (m.tm.raw + 10000) 8000).par with pulseAt := some (m.tm.raw + 10000) } }
    else k
  match m.par.handover with
  | some h => if m.par.handAcked then k else k.ctrlSend 5 0 m.unit (encBE 4 h ++ zeros 4)
  | none => k

theorem Node.renews_handover {m : Node} {h : Nat} (hsome : m.par.handover = some h) (hacked : m.par.handAcked = false)
    (hhb : m.hbFitted = false) :
    m.renews = ((m.ctrlSend 1 (b2n (m.st == stRun) + b2n (m.st == stMute) * 2 + 4) m.unit (encBE 4 m.par.sentCyc ++ zeros 4)).setReg
      Reg.PAR_LEASE (word m.unit)).ctrlSend 5 0 m.unit (encBE 4 h ++ zeros 4) := by
  unfold Node.renews
  rw [hsome, hacked, hhb]
  rfl

theorem Node.renews_plain {m : Node} (hnone : m.par.handover = none) (hhb : m.hbFitted = false) :
    m.renews = (m.ctrlSend 1 (b2n (m.st == stRun) + b2n (m.st == stMute) * 2) m.unit (encBE 4 m.par.sentCyc ++ zeros 4)).setReg
      Reg.PAR_LEASE (word m.unit) := by
  unfold Node.renews
  rw [hnone, hhb]
  rfl

theorem Node.hbFitted_withPar (n : Node) (par : ParState) : { n with par := par }.hbFitted = n.hbFitted := rfl

section
variable {s : State} {time : Nat}

section
variable (hpaired : s.node.paired = true) (htoken : (s.node.atPair time).token = tkHolder)
  (hdue : (s.node.atPair time).renewDue = true)
include hpaired htoken hdue

/-- A holder whose renewal is due sends it. -/
theorem exec_leaseRenewSend_due : exec (.leaseRenewSend time) s = .next (s.on fun n =>
    { n.atPair time with par := { (n.atPair time).par with renewAt := some (max n.tm.raw time) } }.renews) :=
  exec_on_eq rfl (if_pos ⟨(Node.paired_atPair _ _).trans hpaired, htoken, hdue⟩)

variable (hhb : s.node.hbFitted = false)
include hhb

theorem exec_leaseRenewSend_plain (hnone : s.node.par.handover = none) :
    exec (.leaseRenewSend time) s = .next (s.on fun n =>
      let m := { n.atPair time with par := { (n.atPair time).par with renewAt := some (max n.tm.raw time) } }
      (m.ctrlSend 1 (b2n (m.st == stRun) + b2n (m.st == stMute) * 2) m.unit (encBE 4 m.par.sentCyc ++ zeros 4)).setReg
        Reg.PAR_LEASE (word m.unit)) :=
  exec_on_eq (exec_leaseRenewSend_due hpaired htoken hdue) (Node.renews_plain hnone
    ((Node.hbFitted_withPar _ _).trans ((Node.hbFitted_atPair _ _).trans hhb)))

theorem exec_leaseRenewSend_handover {h : Nat} (hsome : s.node.par.handover = some h) (hacked : s.node.par.handAcked = false) :
    exec (.leaseRenewSend time) s = .next (s.on fun n =>
      let m := { n.atPair time with par := { (n.atPair time).par with renewAt := some (max n.tm.raw time) } }
      ((m.ctrlSend 1 (b2n (m.st == stRun) + b2n (m.st == stMute) * 2 + 4) m.unit (encBE 4 m.par.sentCyc ++ zeros 4)).setReg
        Reg.PAR_LEASE (word m.unit)).ctrlSend 5 0 m.unit (encBE 4 h ++ zeros 4)) :=
  exec_on_eq (exec_leaseRenewSend_due hpaired htoken hdue) (Node.renews_handover hsome hacked
    ((Node.hbFitted_withPar _ _).trans ((Node.hbFitted_atPair _ _).trans hhb)))

end

theorem exec_leaseRenewSend_not (h : (s.node.atPair time).token ≠ tkHolder ∨ (s.node.atPair time).renewDue = false) :
    exec (.leaseRenewSend time) s = .next (s.on fun n => n.atPair time) := by
  refine exec_on_eq rfl (if_neg ?_)
  rintro ⟨_, htoken, hdue⟩
  exact h.elim (· htoken) fun hnot => absurd (hnot.symm.trans hdue) (by decide)

end

/-! ### Frames and pulses of the partner (R407, R410, R411) -/

section
variable {s : State} {r : Rx}

/-- A renewal heard: what it shows of the partner, and the time of contact over the Jalder link. -/
def Node.renewHeard (m : Node) (h : CtrlHdr) : Node :=
  let p := (m.setFld Reg.PAR_PARTNER Fld.PAR_PARTNER_HOLDER 1).setFld Reg.PAR_PARTNER Fld.PAR_PARTNER_RUN (h.flags % 2)
  let p := p.setFld Reg.PAR_PARTNER Fld.PAR_PARTNER_MUTE (h.flags / 2)
  { p with par := { p.par with jlkAt := some p.tm.raw, lostJlk := false } }

theorem Node.reg_renewHeard (m : Node) (h : CtrlHdr) {a : Nat} (ha : a ≠ Reg.PAR_PARTNER) : (m.renewHeard h).reg a = m.reg a := by
  rw [Node.renewHeard, Node.reg_withPar, Node.reg_setFld_ne _ _ _ ha, Node.reg_setFld_ne _ _ _ ha, Node.reg_setFld_ne _ _ _ ha]

theorem Node.fld_renewHeard (m : Node) (h : CtrlHdr) {a : Nat} (f : Field) (ha : a ≠ Reg.PAR_PARTNER) :
    (m.renewHeard h).fld a f = m.fld a f :=
  congrArg f.get (m.reg_renewHeard h ha)

theorem Node.renewHeard_holder (m : Node) (h : CtrlHdr) : (m.renewHeard h).fld Reg.PAR_PARTNER Fld.PAR_PARTNER_HOLDER = 1 := by
  rw [Node.renewHeard, Node.fld_withPar, Node.fld_setFld_ne _ _ _ _ _ (by decide) (by decide),
    Node.fld_setFld_ne _ _ _ _ _ (by decide) (by decide), Node.fld_setFld_self _ _ _ _ (by decide)]
  rfl

/-- What a renewal heard does: a standby acknowledges it, and a holder gives way to a higher generation. -/
def Node.takeRenewal (p : Node) (h : CtrlHdr) : Node :=
  if p.token = tkStandby then p.seeRenewal h.unit p.tm.raw false
  else if p.token = tkHolder ∧ (p.generation < h.gen ∨ (p.generation = h.gen ∧ p.roleB = true)) then
    ((p.raise 0x420A p.generation h.gen).demote 5 false).setReg Reg.PAR_TOKEN_GEN (word h.gen)
  else p

theorem exec_jalderRenewReceived (h : s.node.hearsCtrl r 1 = true) : exec (.jalderRenewReceived r) s = .next (s.on fun n =>
    (((n.heardCtrl r).renewHeard (ctrlHdr r)).takeRenewal (ctrlHdr r)).syncPair) :=
  exec_on_eq rfl (Node.ctrl_hears _ h)

theorem jalderRenewReceived_renews (h : s.node.hearsCtrl r 1 = true) (htoken : (s.node.heardCtrl r).token = tkStandby) :
    ∃ t : State, exec (.jalderRenewReceived r) s = .next t ∧
      ((s.node.heardCtrl r).unfit = false → t.node.fld Reg.PAR_TOKEN Fld.PAR_TOKEN_FENCED = 0) ∧
      t.node.reg Reg.PAR_LEASE = word (ctrlHdr r).unit ∧ t.node.par.lease = some (max s.node.tm.raw r.stamp) ∧
      t.node.fld Reg.PAR_PARTNER Fld.PAR_PARTNER_HOLDER = 1 := by
  have htaken : ((s.node.heardCtrl r).renewHeard (ctrlHdr r)).takeRenewal (ctrlHdr r) =
      ((s.node.heardCtrl r).renewHeard (ctrlHdr r)).seeRenewal (ctrlHdr r).unit ((s.node.heardCtrl r).renewHeard (ctrlHdr r)).tm.raw false :=
    if_pos ((Node.fld_renewHeard _ _ _ (by decide)).trans htoken)
  have hanswers := ((s.node.heardCtrl r).renewHeard (ctrlHdr r)).seeRenewal_answers (ctrlHdr r).unit
    ((s.node.heardCtrl r).renewHeard (ctrlHdr r)).tm.raw false
  refine ⟨_, exec_jalderRenewReceived h, ?_⟩
  rw [State.on_node, htaken]
  refine ⟨fun hfit => ?_, ?_, ?_, ?_⟩
  · rw [Node.fld_syncPair_token _ (by decide), Node.fld, hanswers.reg _ (by decide)]
    refine Node.renewed_fenced ?_ _
    rw [Node.unfit, Node.fld_renewHeard _ _ _ (by decide)]
    exact hfit
  · rw [Node.reg_syncPair _ (by decide) (by decide), hanswers.reg _ (by decide), Node.reg_renewed_lease]
  · rw [Node.par_syncPair, hanswers.lease, Node.renewed_lease]
    exact congrArg some (Node.raw_heardCtrl h)
  · rw [Node.fld_syncPair _ _ (by decide) (by decide), Node.fld, hanswers.reg _ (by decide),
      Node.reg_renewed_ne _ _ (by decide) (by decide)]
    exact Node.renewHeard_holder _ _

theorem jalderRenewReceived_gives_way (h : s.node.hearsCtrl r 1 = true) (htoken : (s.node.heardCtrl r).token = tkHolder)
    (hless : (s.node.heardCtrl r).generation < (ctrlHdr r).gen ∨
      ((s.node.heardCtrl r).generation = (ctrlHdr r).gen ∧ (s.node.heardCtrl r).roleB = true)) :
    ∃ t : State, exec (.jalderRenewReceived r) s = .next t ∧ t.node.token = tkStandby ∧
      t.node.reg Reg.PAR_TOKEN_GEN = word (ctrlHdr r).gen := by
  let p := (s.node.heardCtrl r).renewHeard (ctrlHdr r)
  have hptoken : p.token = tkHolder := (Node.fld_renewHeard _ _ _ (by decide)).trans htoken
  have hgen : p.generation = (s.node.heardCtrl r).generation := congrArg BitVec.toNat (Node.reg_renewHeard _ _ (by decide))
  have hrole : p.roleB = (s.node.heardCtrl r).roleB := congrArg (· == 1) (Node.fld_renewHeard _ _ _ (by decide))
  have hpless : p.generation < (ctrlHdr r).gen ∨ (p.generation = (ctrlHdr r).gen ∧ p.roleB = true) := by
    rw [hgen, hrole]
    exact hless
  have htaken : p.takeRenewal (ctrlHdr r) =
      ((p.raise 0x420A p.generation (ctrlHdr r).gen).demote 5 false).setReg Reg.PAR_TOKEN_GEN (word (ctrlHdr r).gen) :=
    (if_neg fun hstandby => absurd (hptoken.symm.trans hstandby) (by decide)).trans (if_pos ⟨hptoken, hpless⟩)
  refine ⟨_, exec_jalderRenewReceived h, ?_⟩
  rw [State.on_node, htaken, Node.token_syncPair, Node.token, Node.fld_setReg_other _ _ _ (by decide),
    Node.reg_syncPair _ (by decide) (by decide), Node.reg_setReg_self]
  exact ⟨(Node.demote_leaves _ _ _).1, rfl⟩

/-- An acknowledgement heard: what it shows of the partner, and the time of contact over the Jalder link. -/
def Node.ackHeard (m : Node) (h : CtrlHdr) : Node :=
  let bit (i : Nat) : Nat := h.flags / 2 ^ i % 2
  let p := (m.setFld Reg.PAR_PARTNER Fld.PAR_PARTNER_HOLDER 0).setFld Reg.PAR_PARTNER Fld.PAR_PARTNER_CURRENT (bit 0)
  let p := (p.setFld Reg.PAR_PARTNER Fld.PAR_PARTNER_UNFIT (bit 1)).setFld Reg.PAR_PARTNER Fld.PAR_PARTNER_RUN (bit 2)
  let p := (p.setFld Reg.PAR_PARTNER Fld.PAR_PARTNER_MUTE (bit 3)).setFld Reg.PAR_PARTNER Fld.PAR_PARTNER_RESYNC (bit 4)
  { p with par := { p.par with jlkAt := some p.tm.raw, lostJlk := false } }

theorem Node.reg_ackHeard (m : Node) (h : CtrlHdr) {a : Nat} (ha : a ≠ Reg.PAR_PARTNER) : (m.ackHeard h).reg a = m.reg a := by
  rw [Node.ackHeard, Node.reg_withPar, Node.reg_setFld_ne _ _ _ ha, Node.reg_setFld_ne _ _ _ ha, Node.reg_setFld_ne _ _ _ ha,
    Node.reg_setFld_ne _ _ _ ha, Node.reg_setFld_ne _ _ _ ha, Node.reg_setFld_ne _ _ _ ha]

theorem Node.ackHeard_current (m : Node) (h : CtrlHdr) :
    (m.ackHeard h).fld Reg.PAR_PARTNER Fld.PAR_PARTNER_CURRENT = h.flags % 2 := by
  rw [Node.ackHeard, Node.fld_withPar, Node.fld_setFld_ne _ _ _ _ _ (by decide) (by decide),
    Node.fld_setFld_ne _ _ _ _ _ (by decide) (by decide), Node.fld_setFld_ne _ _ _ _ _ (by decide) (by decide),
    Node.fld_setFld_ne _ _ _ _ _ (by decide) (by decide), Node.fld_setFld_self _ _ _ _ (by decide)]
  simp

theorem Node.tm_ackHeard (m : Node) (h : CtrlHdr) : (m.ackHeard h).tm = m.tm := rfl

theorem Node.reg_countAck (n : Node) (a : Nat) : n.countAck.reg a = n.reg a := rfl

theorem Node.countAck_lease (n : Node) : n.countAck.par.lease = some n.tm.raw := rfl

/-- What a holder takes of an acknowledgement: what its standby shows of the copies. -/
def Node.takeAck (p : Node) (h : CtrlHdr) (b : List Byte) : Node :=
  let p := (p.setFld Reg.PAR_REPL_STAT Fld.PAR_REPL_STAT_CURRENT (h.flags / 2 ^ 0 % 2)).setReg Reg.PAR_REPL_CYC (word (beAt b 0 4))
  if p.par.sentWhole && beAt b 0 4 == p.par.sentCyc % 2 ^ 32 then
    let kept := p.par.base.filter fun x => !(p.par.sent.any fun y => y.1 == x.1)
    ({ p with par := { p.par with base := kept ++ p.par.sent, sent := [] } }).setFld Reg.PAR_REPL_STAT
      Fld.PAR_REPL_STAT_LAST_OK 1
  else p.setFld Reg.PAR_REPL_STAT Fld.PAR_REPL_STAT_LAST_OK 0

theorem Node.takeAck_leaves (p : Node) (h : CtrlHdr) (b : List Byte) : (p.takeAck h b).par.lease = p.par.lease ∧
    (p.takeAck h b).reg Reg.PAR_REPL_CYC = word (beAt b 0 4) ∧
    (∀ a, a ≠ Reg.PAR_REPL_STAT → a ≠ Reg.PAR_REPL_CYC → (p.takeAck h b).reg a = p.reg a) := by
  unfold Node.takeAck
  extract_lets q kept src
  have hq : ∀ a, a ≠ Reg.PAR_REPL_STAT → a ≠ Reg.PAR_REPL_CYC → q.reg a = p.reg a := fun a hstat hcyc => by
    rw [Node.reg_setReg_ne _ _ hcyc, Node.reg_setFld_ne _ _ _ hstat]
  have hcyc : q.reg Reg.PAR_REPL_CYC = word (beAt b 0 4) := Node.reg_setReg_self _ _ _
  split
  · refine ⟨rfl, ?_, fun a ha ha' => ?_⟩
    · rw [Node.reg_setFld_ne _ _ _ (by decide), Node.reg_withPar, hcyc]
    · rw [Node.reg_setFld_ne _ _ _ ha, Node.reg_withPar, hq a ha ha']
  · refine ⟨rfl, ?_, fun a ha ha' => ?_⟩
    · rw [Node.reg_setFld_ne _ _ _ (by decide), hcyc]
    · rw [Node.reg_setFld_ne _ _ _ ha, hq a ha ha']

/-- What an acknowledgement heard does at a holder, counting it when it is for the unit in progress. -/
def Node.hearAck (p : Node) (h : CtrlHdr) (b : List Byte) : Node :=
  if p.token = tkHolder then (if h.unit = p.unit % 2 ^ 32 then p.countAck else p).takeAck h b else p

theorem exec_jalderAckReceived (h : s.node.hearsCtrl r 2 = true) : exec (.jalderAckReceived r) s = .next (s.on fun n =>
    (((n.heardCtrl r).ackHeard (ctrlHdr r)).hearAck (ctrlHdr r) (ctrlBody r)).syncPair) :=
  exec_on_eq rfl (Node.ctrl_hears _ h)

theorem jalderAckReceived_counts (h : s.node.hearsCtrl r 2 = true) (htoken : (s.node.heardCtrl r).token = tkHolder)
    (hunit : (ctrlHdr r).unit = (s.node.heardCtrl r).unit % 2 ^ 32) :
    ∃ t : State, exec (.jalderAckReceived r) s = .next t ∧ t.node.par.lease = some (max s.node.tm.raw r.stamp) ∧
      t.node.reg Reg.PAR_REPL_CYC = word (beAt (ctrlBody r) 0 4) ∧
      t.node.fld Reg.PAR_PARTNER Fld.PAR_PARTNER_CURRENT = (ctrlHdr r).flags % 2 := by
  let p := (s.node.heardCtrl r).ackHeard (ctrlHdr r)
  have hreg : ∀ a, a ≠ Reg.PAR_PARTNER → p.reg a = (s.node.heardCtrl r).reg a := fun a => Node.reg_ackHeard _ _
  have hptoken : p.token = tkHolder := (congrArg Fld.PAR_TOKEN_STATE.get (hreg Reg.PAR_TOKEN (by decide))).trans htoken
  have hpunit : p.unit = (s.node.heardCtrl r).unit :=
    unit_congr rfl (congrArg BitVec.toNat (hreg Reg.CYC_TC_NS (by decide)))
      (congrArg Fld.INA_STATE_STATE.get (hreg Reg.INA_STATE (by decide)))
  obtain ⟨hlease, hcyc, hrest⟩ := p.countAck.takeAck_leaves (ctrlHdr r) (ctrlBody r)
  have htaken : p.hearAck (ctrlHdr r) (ctrlBody r) = p.countAck.takeAck (ctrlHdr r) (ctrlBody r) := by
    rw [Node.hearAck, if_pos hptoken, if_pos (hunit.trans (congrArg (· % 2 ^ 32) hpunit.symm))]
  refine ⟨_, exec_jalderAckReceived h, ?_⟩
  rw [State.on_node, htaken, Node.par_syncPair, Node.reg_syncPair _ (by decide) (by decide),
    Node.fld_syncPair _ _ (by decide) (by decide), hlease, hcyc, Node.fld, hrest _ (by decide) (by decide),
    Node.reg_countAck, Node.countAck_lease, Node.tm_ackHeard, Node.raw_heardCtrl h]
  exact ⟨rfl, rfl, Node.ackHeard_current _ _⟩

end

/-- A pulse within its limits is a contact over the heartbeat line. -/
def Node.pulseSeen (n : Node) : Node := { n with par := { n.par with hbAt := some n.tm.raw, lostHb := false } }

/-- The rise of a pulse is remembered. -/
def Node.pulseMarked (n : Node) (rise : Nat) : Node := { n with par := { n.par with pulseAt := some rise } }

/-- A renewal pulse at a node that does not hold the token. -/
def Node.renewedByPulse (n : Node) (rise : Nat) : Node :=
  let k := (n.pulseSeen.contact 1 true).pulseMarked rise
  (k.seeRenewal k.unit rise true).syncPair

theorem Node.renewedByPulse_leaves {n : Node} (htoken : n.token = tkStandby) (rise : Nat) :
    (n.renewedByPulse rise).par.lease = some n.tm.raw ∧ (n.renewedByPulse rise).par.pulseAt = some rise ∧
    (n.unfit = false → (n.renewedByPulse rise).fld Reg.PAR_TOKEN Fld.PAR_TOKEN_FENCED = 0) := by
  unfold Node.renewedByPulse
  extract_lets k
  have hraw : k.tm.raw = n.tm.raw := congrArg TimeState.raw (Node.tm_contact n.pulseSeen 1 true)
  have hanswers := k.seeRenewal_answers k.unit rise true
  rw [Node.par_syncPair, hanswers.lease, hanswers.pulseAt, Node.renewed_lease, Node.renewed_pulseAt, hraw]
  refine ⟨rfl, rfl, fun hfit => ?_⟩
  rw [Node.fld_syncPair_token _ (by decide), Node.fld, hanswers.reg _ (by decide)]
  refine Node.renewed_fenced (Eq.trans ?_ hfit) _
  have hreg : k.reg Reg.PAR_TOKEN = n.reg Reg.PAR_TOKEN :=
    Node.reg_contact_standby (n := n.pulseSeen) htoken 1 true (by decide) (by decide)
  rw [Node.unfit, Node.unfit, Node.fld, Node.fld, hreg]

section
variable {s : State} {rise high : Nat} (hpaired : s.node.paired = true) (hhb : s.node.hbFitted = true)
  (htoken : (s.node.atPair (rise + high)).token = tkStandby)
include hpaired hhb htoken

/-- A pulse of the partner at a standby is a renewal or a bad pulse. -/
theorem exec_heartbeatPulseReceived_standby : exec (.heartbeatPulseReceived rise high) s = .next (s.on fun n =>
    if 4000 ≤ high ∧ high ≤ 12000 then (n.atPair (rise + high)).renewedByPulse rise
    else (n.atPair (rise + high)).inc Reg.PAR_HB_BAD) := by
  refine exec_on_eq rfl ((if_neg ?_).trans (if_neg ?_))
  · rw [Node.paired_atPair, Node.hbFitted_atPair, hpaired, hhb]
    decide
  · rw [htoken]
    decide

theorem exec_heartbeatPulseReceived_bad (hbad : high < 4000 ∨ 12000 < high) :
    exec (.heartbeatPulseReceived rise high) s = .next (s.on fun n => (n.atPair (rise + high)).inc Reg.PAR_HB_BAD) :=
  exec_on_eq (exec_heartbeatPulseReceived_standby hpaired hhb htoken) (if_neg (by omega))

theorem heartbeatPulseReceived_renews (hlo : 4000 ≤ high) (hhi : high ≤ 12000) :
    ∃ t : State, exec (.heartbeatPulseReceived rise high) s = .next t ∧
      t.node.par.lease = some (max s.node.tm.raw (rise + high)) ∧ t.node.par.pulseAt = some rise ∧
      (s.node.unfit = false → t.node.fld Reg.PAR_TOKEN Fld.PAR_TOKEN_FENCED = 0) := by
  obtain ⟨hlease, hpulse, hfenced⟩ := Node.renewedByPulse_leaves htoken rise
  refine ⟨s.on fun n => (n.atPair (rise + high)).renewedByPulse rise,
    exec_on_eq (exec_heartbeatPulseReceived_standby hpaired hhb htoken) (if_pos ⟨hlo, hhi⟩), ?_⟩
  rw [State.on_node]
  exact ⟨hlease, hpulse, fun hfit => hfenced ((Node.unfit_atPair _ _).trans hfit)⟩

end

/-! ### The token is lost and taken (R404, R408 to R413) -/

section
variable {s : State} {time : Nat}

theorem exec_tokenDemoted (htoken : (s.node.atPair time).token = tkHolder) (hlease : s.node.par.lease.isSome = true)
    (hcycled : s.node.cycled = true) (hquiet : (s.node.atPair time).quiet s.node.par.lease 2 = true) :
    exec (.tokenDemoted time) s = .next (s.on fun n => (n.atPair time).demote 1 true) := by
  refine exec_on_eq rfl (if_pos ⟨htoken, hlease, ?_⟩)
  rw [Node.cycled_atPair, hcycled, if_pos rfl]
  exact hquiet

theorem leaseTakeover_takes (htoken : (s.node.atPair time).token = tkStandby) (hfenced : (s.node.atPair time).fenced = false)
    (hfit : (s.node.atPair time).unfit = false) (hover : (s.node.atPair time).leaseOver = true) :
    ∃ t : State, exec (.leaseTakeover time) s = .next t ∧ t.node.token = tkHolder ∧
      t.node.generation = (max s.node.par.genSeen (s.node.atPair time).generation + 1) % 2 ^ 32 := by
  obtain ⟨hholder, _, _, hgen⟩ := (s.node.atPair time).takeToken_leaves false
  refine ⟨_, exec_on_eq (g := fun _ => _) rfl (if_pos ⟨htoken, by rw [hfenced]; rfl, by rw [hfit]; rfl, hover⟩), ?_⟩
  rw [State.on_node]
  refine ⟨?_, ?_⟩
  · rw [Node.token, Node.fld, Node.reg_raise_ne _ _ _ _ (by decide), Node.reg_inc_ne _ (by decide)]
    exact hholder
  · rw [Node.generation, Node.reg_raise_ne _ _ _ _ (by decide), Node.reg_inc_ne _ (by decide)]
    exact hgen

theorem exec_fenceReleaseTakeover (htoken : (s.node.atPair time).token = tkStandby) (halone : s.node.par.alone = true)
    (hquiet : (s.node.atPair time).quiet s.node.par.lease 4 = true) :
    exec (.fenceReleaseTakeover time) s = .next (s.on fun n => (n.atPair time).acquire 2) :=
  exec_on_eq rfl (if_pos ⟨htoken, halone, hquiet⟩)

theorem exec_soloWaitExpiry (hpaired : s.node.paired = true) (htoken : (s.node.atPair time).token = tkInit)
    (hcontact : s.node.contactAt = none) (htable : s.node.ina.table = [])
    (hpast : s.node.par.initAt + s.node.fld Reg.PAR_CFG Fld.PAR_CFG_SOLO_WAIT * 1000000000 ≤ max s.node.tm.raw time) :
    exec (.soloWaitExpiry time) s = .next (s.on fun n => (n.atPair time).acquire 2) := by
  refine exec_on_eq rfl (if_pos ⟨(Node.paired_atPair _ _).trans hpaired, htoken, ?_, ?_, ?_⟩)
  · exact Option.isNone_iff_eq_none.mpr hcontact
  · exact List.isEmpty_iff.mpr htable
  · rw [Node.fld_atPair _ _ _ (by decide) (by decide)]
    exact hpast

theorem exec_partnerLost (hpaired : s.node.paired = true) (hlost : s.node.par.lost = false)
    (hgone : ((s.node.atPair time).token = tkHolder ∧ (s.node.atPair time).quiet s.node.contactAt 2 = true) ∨
      ((s.node.atPair time).token = tkStandby ∧ (s.node.atPair time).quiet s.node.par.lease 2 = true)) :
    exec (.partnerLost time) s = .next (s.on fun n =>
      ({ n.atPair time with par := { (n.atPair time).par with lost := true } }.raise 0x4106
        ((n.contactAt.map (n.atPair time).unitAt).getD 0) 0).notice 4 12) := by
  have hlost' : (s.node.atPair time).par.lost = false := hlost
  have hcontact : (s.node.atPair time).contactAt = s.node.contactAt := rfl
  have hsilent : (if (s.node.atPair time).token = tkHolder then (s.node.atPair time).quiet (s.node.atPair time).contactAt 2
      else (s.node.atPair time).token == tkStandby && (s.node.atPair time).quiet (s.node.atPair time).par.lease 2) = true := by
    rcases hgone with ⟨htoken, hquiet⟩ | ⟨htoken, hquiet⟩
    · rw [if_pos htoken]
      exact hquiet
    · rw [if_neg (by rw [htoken]; decide), htoken]
      exact hquiet
  refine exec_on_eq rfl ((if_pos ⟨(Node.paired_atPair _ _).trans hpaired, hsilent, by rw [hlost']; rfl⟩).trans ?_)
  dsimp only
  rw [hcontact]
  cases s.node.contactAt with
  | none => rfl
  | some t => rfl

theorem exec_pairPathLost {path : Nat} {a b : Option Nat} (hpaired : s.node.paired = true) (hhb : s.node.hbFitted = true)
    (hab : (a, b) = (if path = 1 then (s.node.par.jlkAt, s.node.par.hbAt) else (s.node.par.hbAt, s.node.par.jlkAt)))
    (ha : a.isSome = true) (haquiet : (s.node.atPair time).quiet a 2 = true) (hb : b.isSome = true)
    (hbquiet : (s.node.atPair time).quiet b 2 = false) :
    (path = 1 → s.node.par.lostJlk = false → exec (.pairPathLost path time) s = .next (s.on fun n =>
      { n.atPair time with par := { (n.atPair time).par with lostJlk := true } }.raise 0x4109 1 (n.atPair time).unit)) ∧
    (path ≠ 1 → s.node.par.lostHb = false → exec (.pairPathLost path time) s = .next (s.on fun n =>
      { n.atPair time with par := { (n.atPair time).par with lostHb := true } }.raise 0x4109 2 (n.atPair time).unit)) := by
  have hgone : ((s.node.atPair time).paired && (s.node.atPair time).hbFitted && a.isSome && (s.node.atPair time).quiet a 2 &&
      b.isSome && !(s.node.atPair time).quiet b 2) = true := by
    rw [Node.paired_atPair, Node.hbFitted_atPair, hpaired, hhb, ha, haquiet, hb, hbquiet]
    rfl
  refine ⟨fun hpath hlost => ?_, fun hpath hlost => ?_⟩
  · rw [if_pos hpath, Prod.mk.injEq] at hab
    obtain ⟨rfl, rfl⟩ := hab
    have hlost' : (s.node.atPair time).par.lostJlk = false := hlost
    exact exec_on_eq rfl ((if_pos hpath).trans (if_pos ⟨hgone, by rw [hlost']; rfl⟩))
  · rw [if_neg hpath, Prod.mk.injEq] at hab
    obtain ⟨rfl, rfl⟩ := hab
    have hlost' : (s.node.atPair time).par.lostHb = false := hlost
    exact exec_on_eq rfl ((if_neg hpath).trans (if_pos ⟨hgone, by rw [hlost']; rfl⟩))

end

/-- Settles O44. -/
theorem theLeaseMovesTheToken : Obligations.TheLeaseMovesTheToken :=
  ⟨fun _ _ hpaired htoken hhb hdue => ⟨exec_leaseRenewSend_plain hpaired htoken hdue hhb,
      fun _ => exec_leaseRenewSend_handover hpaired htoken hdue hhb⟩,
    fun _ _ => exec_leaseRenewSend_not, fun _ _ => jalderRenewReceived_renews, fun _ _ => jalderRenewReceived_gives_way,
    fun _ _ => jalderAckReceived_counts,
    fun _ _ _ hpaired hhb htoken => ⟨heartbeatPulseReceived_renews hpaired hhb htoken,
      exec_heartbeatPulseReceived_bad hpaired hhb htoken⟩,
    fun _ _ => exec_tokenDemoted, fun _ _ => leaseTakeover_takes, fun _ _ => exec_fenceReleaseTakeover,
    fun _ _ => exec_soloWaitExpiry, fun _ _ => exec_partnerLost, fun _ _ _ _ _ => exec_pairPathLost⟩

end Sys2Proof.Machine
end

section
/-! PROOF. Handover and the copy of the holder's state (R414, R415, R421 to R429, R433). -/

namespace Sys2Proof.Machine

/-! ### Handover (R414, R415) -/

section
variable {s : State}

theorem exec_pairHandover_starts {c : Cmd} (h : s.node.takes c 0x0A02 (.secure instPar) 1 = true) (hpaired : s.node.paired = true)
    (htoken : (s.node.atPair c.time).token = tkHolder) (hcontact : (s.node.atPair c.time).jlkContact = true)
    (hcurrent : s.node.fld Reg.PAR_PARTNER Fld.PAR_PARTNER_CURRENT = 1) (hfit : s.node.fld Reg.PAR_PARTNER Fld.PAR_PARTNER_UNFIT = 0)
    (hnone : s.node.par.handover = none) (harg : arg c 0 = 0) :
    exec (.pairHandover c) s = .next (s.on fun n =>
      ((n.atPair c.time).startHandover ((n.atPair c.time).unit + 2) 2).waitsFor c 7 0 []) := by
  have hcurrent' : (s.node.atPair c.time).fld Reg.PAR_PARTNER Fld.PAR_PARTNER_CURRENT = 1 :=
    (Node.fld_atPair _ _ _ (by decide) (by decide)).trans hcurrent
  have hfit' : (s.node.atPair c.time).fld Reg.PAR_PARTNER Fld.PAR_PARTNER_UNFIT = 0 :=
    (Node.fld_atPair _ _ _ (by decide) (by decide)).trans hfit
  have hpaired' : (s.node.atPair c.time).paired = true := (Node.paired_atPair _ _).trans hpaired
  have hnone' : (s.node.atPair c.time).par.handover.isSome = false := congrArg Option.isSome hnone
  refine exec_settles rfl rfl h ((congrArg (Node.settle c) ((if_neg ?_).trans (if_neg ?_))).trans ?_)
  · rintro (hbad | hbad | hbad | hbad | hbad)
    · exact absurd (hpaired'.symm.trans ((Bool.not_eq_true' _).mp hbad)) (by decide)
    · exact hbad htoken
    · exact absurd (hcontact.symm.trans ((Bool.not_eq_true' _).mp hbad)) (by decide)
    · exact absurd (hcurrent'.symm.trans hbad) (by decide)
    · exact absurd (hfit'.symm.trans hbad) (by decide)
  · intro hbad
    exact absurd (hnone'.symm.trans hbad) (by decide)
  · rw [harg]
    rfl

section
variable {r : Rx}

/-- A standby acknowledges the cycle of a handover. -/
def Node.takeHandover (m : Node) (b : List Byte) : Node :=
  if m.token = tkStandby ∧ !m.unfit then
    let k := m.ctrlSend 6 0 m.unit (slice b 0 4 ++ zeros 4)
    { k with par := { k.par with handTake := some (extend32 k.unit (beAt b 0 4)) } }
  else m

theorem jalderHandoverReceived_acknowledges (h : s.node.hearsCtrl r 5 = true) (htoken : (s.node.heardCtrl r).token = tkStandby)
    (hfit : (s.node.heardCtrl r).unfit = false) :
    ∃ t : State, exec (.jalderHandoverReceived r) s = .next t ∧
      t.node.par.handTake = some (extend32 (s.node.heardCtrl r).unit (beAt (ctrlBody r) 0 4)) := by
  refine ⟨s.on fun n => ((n.heardCtrl r).takeHandover (ctrlBody r)).syncPair, exec_on_eq rfl (Node.ctrl_hears _ h), ?_⟩
  rw [State.on_node, Node.par_syncPair, Node.takeHandover, if_pos ⟨htoken, by rw [hfit]; rfl⟩]
  dsimp only
  rw [(Node.Sends.ctrlSend _ _ _ _ _).unit]

theorem exec_jalderHandoverAckReceived {k : Nat} (h : s.node.hearsCtrl r 6 = true) (htoken : (s.node.heardCtrl r).token = tkHolder)
    (hsome : (s.node.heardCtrl r).par.handover = some k) (hcyc : beAt (ctrlBody r) 0 4 = k % 2 ^ 32)
    (hnew : (s.node.heardCtrl r).par.handAcked = false) :
    exec (.jalderHandoverAckReceived r) s = .next (s.on fun n =>
      ({ n.heardCtrl r with par := { (n.heardCtrl r).par with handAcked := true } }.finishWaits (fun w => w.kind == 7) sOk []).syncPair) := by
  refine exec_on_eq rfl ((Node.ctrl_hears _ h).trans (congrArg Node.syncPair ?_))
  dsimp only
  rw [hsome]
  exact if_pos ⟨htoken, hcyc, by rw [hnew]; rfl⟩

end

section
variable {time k : Nat}

theorem handoverExecute_stops (hsome : s.node.par.handover = some k) (hacked : s.node.par.handAcked = true)
    (htoken : (s.node.atPair time).token = tkHolder) (hunit : k ≤ (s.node.atPair time).unit) :
    ∃ t : State, exec (.handoverExecute time) s = .next t ∧ t.node.token = tkStandby ∧ t.node.par.handover = none := by
  have hsome' : (s.node.atPair time).par.handover = some k := hsome
  refine ⟨s.on fun n => ({ n.atPair time with par := { (n.atPair time).par with handover := none, handAcked := false } }.demote
    (n.atPair time).par.handCause false).syncPair, exec_on_eq rfl ?_, ?_⟩
  · dsimp only
    rw [hsome']
    exact if_pos ⟨htoken, hacked, hunit⟩
  · rw [State.on_node, Node.token_syncPair, Node.par_syncPair, (Node.presents_demote _ _ _).par]
    exact ⟨(Node.demote_leaves _ _ _).1, rfl⟩

theorem exec_handoverTake (hsome : s.node.par.handTake = some k) (htoken : (s.node.atPair time).token = tkStandby)
    (hunit : k + 1 ≤ (s.node.atPair time).unit) : exec (.handoverTake time) s = .next (s.on fun n => (n.atPair time).acquire 3) := by
  have hsome' : (s.node.atPair time).par.handTake = some k := hsome
  refine exec_on_eq rfl ?_
  dsimp only
  rw [hsome']
  exact if_pos ⟨htoken, hunit⟩

theorem exec_handoverTimeout (hsome : s.node.par.handover = some k) (hacked : s.node.par.handAcked = false)
    (hunit : k ≤ (s.node.atPair time).unit + 1) :
    exec (.handoverTimeout time) s = .next (s.on fun n =>
      ({ n.atPair time with par := { n.par with handover := none } }.finishWaits (fun w => w.kind == 7) sTimeout []).syncPair) := by
  have hsome' : (s.node.atPair time).par.handover = some k := hsome
  have hacked' : (s.node.atPair time).par.handAcked = false := hacked
  refine exec_on_eq rfl ?_
  dsimp only
  rw [hsome']
  exact if_pos ⟨by rw [hacked']; rfl, hunit⟩

theorem exec_muteHandover (hpaired : s.node.paired = true) (htoken : (s.node.atPair time).token = tkHolder)
    (hmute : 8 ≤ s.node.par.muteRun) (hnone : s.node.par.handover = none)
    (hcurrent : s.node.fld Reg.PAR_PARTNER Fld.PAR_PARTNER_CURRENT = 1) (hrun : s.node.fld Reg.PAR_PARTNER Fld.PAR_PARTNER_RUN = 1)
    (hfit : s.node.fld Reg.PAR_PARTNER Fld.PAR_PARTNER_UNFIT = 0) :
    exec (.muteHandover time) s = .next (s.on fun n => (n.atPair time).startHandover ((n.atPair time).unit + 2) 4) := by
  have hfld : ∀ f, (s.node.atPair time).fld Reg.PAR_PARTNER f = s.node.fld Reg.PAR_PARTNER f :=
    fun f => Node.fld_atPair _ _ f (by decide) (by decide)
  exact exec_on_eq rfl (if_pos ⟨(Node.paired_atPair _ _).trans hpaired, htoken, hmute, Option.isNone_iff_eq_none.mpr hnone,
    (hfld _).trans hcurrent, (hfld _).trans hrun, (hfld _).trans hfit⟩)

end
end

/-- Settles O45. -/
theorem theTokenIsHeldByGenerationAndHandedOver : Obligations.TheTokenIsHeldByGenerationAndHandedOver :=
  ⟨Node.demote_leaves, Node.takeToken_leaves, fun _ => Node.acquire_unfit, fun _ => Node.acquire_token,
    fun _ _ => exec_pairHandover_starts, fun _ _ => jalderHandoverReceived_acknowledges,
    fun _ _ _ h htoken hsome hcyc hnew => exec_jalderHandoverAckReceived h htoken hsome hcyc hnew,
    fun _ _ _ hsome hacked htoken hunit => handoverExecute_stops hsome hacked htoken hunit,
    fun _ _ _ hsome htoken hunit => exec_handoverTake hsome htoken hunit,
    fun _ _ _ hsome hacked hunit => exec_handoverTimeout hsome hacked hunit, fun _ _ => exec_muteHandover⟩

/-! ### The holder sends its copy (R421 to R424) -/

section
variable {s : State} {time : Nat}

section
variable (hpaired : s.node.paired = true) (htoken : (s.node.atPair time).token = tkHolder) (hcycled : s.node.cycled = true)
  (hfrom : (s.node.replPhase.1 : Int) ≤ (s.node.at time).trainNs % (s.node.tc : Int))
  (hto : (s.node.at time).trainNs % (s.node.tc : Int) < s.node.replPhase.2) (htc : 0 < s.node.tc)
include hpaired htoken hcycled hfrom hto htc

/-- The replication phase of the holder's cycle is open. -/
theorem Node.copy_open :
    (!((s.node.atPair time).paired && (s.node.atPair time).token == tkHolder && (s.node.atPair time).cycled &&
      decide ((s.node.atPair time).replPhase.1 ≤ ((s.node.atPair time).trainNs % ((s.node.atPair time).tc : Int)).toNat) &&
      decide (((s.node.atPair time).trainNs % ((s.node.atPair time).tc : Int)).toNat < (s.node.atPair time).replPhase.2))) = false := by
  have htcEq : (s.node.atPair time).tc = s.node.tc := congrArg BitVec.toNat ((s.node.at time).reg_syncPair (by decide) (by decide))
  have htrain : (s.node.atPair time).trainNs = (s.node.at time).trainNs := rfl
  have hmode : (s.node.atPair time).curMode = s.node.curMode := by
    rw [Node.curMode, Node.fld_atPair _ _ _ (by decide) (by decide)]
    rfl
  have hphase : (s.node.atPair time).replPhase = s.node.replPhase := by
    rw [Node.replPhase, Node.replPhase, hmode, htcEq]
  have hpos : 0 ≤ (s.node.at time).trainNs % (s.node.tc : Int) := Int.emod_nonneg _ (by omega)
  rw [Node.paired_atPair, Node.cycled_atPair, htoken, htcEq, hphase, htrain, hpaired, hcycled,
    decide_eq_true (show s.node.replPhase.1 ≤ ((s.node.at time).trainNs % (s.node.tc : Int)).toNat by omega),
    decide_eq_true (show ((s.node.at time).trainNs % (s.node.tc : Int)).toNat < s.node.replPhase.2 by omega)]
  rfl

theorem exec_stateCopySend_stopped (hstop : (s.node.atPair time).linkUp 12 = false ∨ (s.node.atPair time).unfit = true) :
    exec (.stateCopySend time) s = .next (s.on fun n => (n.atPair time).setFld Reg.PAR_REPL_STAT Fld.PAR_REPL_STAT_STOPPED 1) := by
  have hstopped : (!(s.node.atPair time).linkUp 12 || (s.node.atPair time).unfit) = true := by
    rcases hstop with hdown | hunfit
    · rw [hdown]
      rfl
    · rw [hunfit, Bool.or_true]
  refine exec_on_eq rfl ((if_neg (Bool.not_eq_true _ ▸ Node.copy_open hpaired htoken hcycled hfrom hto htc)).trans ?_)
  dsimp only
  rw [hstopped]
  rfl

theorem stateCopySend_sends (hup : (s.node.atPair time).linkUp 12 = true) (hfit : (s.node.atPair time).unfit = false)
    (hsnap : s.node.par.snapCyc = s.node.cyc.cur) (hnew : s.node.par.sentCyc ≠ s.node.par.snapCyc) :
    ∃ t : State, exec (.stateCopySend time) s = .next t ∧ t.node.par.sentCyc = s.node.par.snapCyc := by
  have hgoes : ((!(s.node.atPair time).linkUp 12 || (s.node.atPair time).unfit) || s.node.par.snapCyc != s.node.cyc.cur ||
      s.node.par.sentCyc == s.node.par.snapCyc) = false := by
    rw [hup, hfit, bne_eq_false_iff_eq.mpr hsnap, beq_eq_false_iff_ne.mpr hnew]
    rfl
  refine ⟨_, exec_on_eq (g := fun _ => _) rfl ((if_neg (Bool.not_eq_true _ ▸ Node.copy_open hpaired htoken hcycled hfrom hto htc)).trans
    (if_neg (Bool.not_eq_true _ ▸ hgoes))), ?_⟩
  rw [State.on_node]
  extract_lets
  split
  · rfl
  · rw [Node.raise_par]
    rfl

end
theorem exec_stateCopySend_not (h : s.node.paired = false ∨ (s.node.atPair time).token ≠ tkHolder ∨ s.node.cycled = false) :
    exec (.stateCopySend time) s = .next (s.on fun n => n.atPair time) := by
  refine exec_on_eq rfl (if_pos ?_)
  rw [Node.paired_atPair, Node.cycled_atPair]
  rcases h with hno | hno | hno
  · rw [hno]
    rfl
  · rw [beq_eq_false_iff_ne.mpr hno, Bool.and_false]
    rfl
  · rw [hno, Bool.and_false]
    rfl

end

/-! ### The standby takes the copy (R425, R426) -/

section
variable {s : State} {r : Rx}

/-- The records of a copy that a standby holds until its end. -/
def Node.holdCopy (m : Node) (b : List Byte) : Node :=
  if m.token = tkStandby ∧ !m.unfit then
    let recs := (List.range (b.length / 68)).map fun i => (beAt b (68 * i) 4 % 16384, slice b (68 * i + 4) 64)
    { m with par := { m.par with buffer := m.par.buffer ++ recs, resync := if m.par.resync = 1 then 2 else m.par.resync } }
  else m

theorem jalderCopyReceived_holds (h : s.node.hearsCtrl r 3 = true) (htoken : (s.node.heardCtrl r).token = tkStandby)
    (hfit : (s.node.heardCtrl r).unfit = false) :
    ∃ t : State, exec (.jalderCopyReceived r) s = .next t ∧ t.node.par.buffer = (s.node.heardCtrl r).par.buffer ++
      (List.range ((ctrlBody r).length / 68)).map fun i =>
        (beAt (ctrlBody r) (68 * i) 4 % 16384, slice (ctrlBody r) (68 * i + 4) 64) := by
  refine ⟨s.on fun n => ((n.heardCtrl r).holdCopy (ctrlBody r)).syncPair, exec_on_eq rfl (Node.ctrl_hears _ h), ?_⟩
  rw [State.on_node, Node.par_syncPair, Node.holdCopy, if_pos ⟨htoken, by rw [hfit]; rfl⟩]

/-- What a standby does with the end of a copy: a copy that the holder marks or that does not agree is discarded, another is
applied. -/
def Node.endCopy (n : Node) (h : CtrlHdr) (b : List Byte) : Node :=
  if h.flags % 2 = 1 then n.discardCopy
  else
    let body := n.par.buffer.flatMap recordBytes
    let m := n.chkCopyReceived body (beAt b 4 4)
    if beAt b 0 4 ≠ m.par.buffer.length ∨ beAt b 4 4 ≠ crc32c body then m.discardCopy.inc Reg.PAR_REPL_CHK
    else m.applyCopy (extend32 m.cyc.cur (beAt b 8 4)) h.flags

section
variable (h : s.node.hearsCtrl r 4 = true) (htoken : (s.node.heardCtrl r).token = tkStandby) (hfit : (s.node.heardCtrl r).unfit = false)
include h htoken hfit

theorem exec_jalderCopyEndReceived : exec (.jalderCopyEndReceived r) s = .next (s.on fun n =>
    ((n.heardCtrl r).endCopy (ctrlHdr r) (ctrlBody r)).syncPair) := by
  refine exec_on_eq rfl ((Node.ctrl_hears _ h).trans (congrArg Node.syncPair (if_neg ?_)))
  rw [htoken, hfit]
  decide

theorem exec_jalderCopyEndReceived_ends :
    let n := s.node.heardCtrl r
    let body := n.par.buffer.flatMap recordBytes
    let m := n.chkCopyReceived body (beAt (ctrlBody r) 4 4)
    ((ctrlHdr r).flags % 2 = 1 → exec (.jalderCopyEndReceived r) s = .next (s.on fun _ => n.discardCopy.syncPair)) ∧
    ((ctrlHdr r).flags % 2 = 0 →
      ((beAt (ctrlBody r) 0 4 ≠ m.par.buffer.length ∨ beAt (ctrlBody r) 4 4 ≠ crc32c body) →
        exec (.jalderCopyEndReceived r) s = .next (s.on fun _ => (m.discardCopy.inc Reg.PAR_REPL_CHK).syncPair)) ∧
      (beAt (ctrlBody r) 0 4 = m.par.buffer.length → beAt (ctrlBody r) 4 4 = crc32c body →
        exec (.jalderCopyEndReceived r) s = .next (s.on fun _ =>
          (m.applyCopy (extend32 m.cyc.cur (beAt (ctrlBody r) 8 4)) (ctrlHdr r).flags).syncPair))) := by
  intro n body m
  have hexec := exec_jalderCopyEndReceived h htoken hfit
  refine ⟨fun hmarked => ?_, fun hplain => ⟨fun hbad => ?_, fun hcount hcrc => ?_⟩⟩
  · exact exec_on_eq hexec (congrArg Node.syncPair (if_pos hmarked))
  · exact exec_on_eq hexec (congrArg Node.syncPair ((if_neg (by omega)).trans (if_pos hbad)))
  · refine exec_on_eq hexec (congrArg Node.syncPair ((if_neg (by omega)).trans (if_neg ?_)))
    exact fun hbad => hbad.elim (fun hno => hno hcount) fun hno => hno hcrc

end

theorem Node.discardCopy_leaves (n : Node) : n.discardCopy.par.buffer = [] ∧ n.discardCopy.current = false := by
  refine ⟨rfl, ?_⟩
  rw [Node.current, Node.discardCopy, Node.fld_setFld_ne _ _ _ _ _ (by decide) (by decide), Node.fld_setFld_self _ _ _ _ (by decide)]
  rfl

end

/-! ### A full pass, and the commands of the pair (R428, R433) -/

section
variable {s : State}

theorem exec_resyncRequestSend {time : Nat} (htoken : (s.node.atPair time).token = tkStandby) (hwant : s.node.par.resync = 1) :
    exec (.resyncRequestSend time) s = .next (s.on fun n => (n.atPair time).ctrlSend 7 0 (n.atPair time).unit (zeros 8)) :=
  exec_on_eq rfl (if_pos ⟨htoken, hwant⟩)

theorem exec_jalderResyncReceived {r : Rx} (h : s.node.hearsCtrl r 7 = true) (htoken : (s.node.heardCtrl r).token = tkHolder)
    (hnone : (s.node.heardCtrl r).par.pass = none) :
    exec (.jalderResyncReceived r) s = .next (s.on fun n => (n.heardCtrl r).startPass.syncPair) :=
  exec_on_eq rfl ((Node.ctrl_hears _ h).trans (congrArg Node.syncPair (if_pos ⟨htoken, Option.isNone_iff_eq_none.mpr hnone⟩)))

variable {c : Cmd}

theorem exec_pairStatus (h : s.node.takes c 0x0A01 .either 0 = true) (hpaired : s.node.paired = true) :
    exec (.pairStatus c) s = .next (s.on fun n =>
      let k := n.atPair c.time
      k.completes c sOk [k.reg Reg.PAR_TOKEN, k.reg Reg.PAR_PARTNER, k.reg Reg.PAR_REPL_STAT, k.reg Reg.PAR_REPL_CYC]) := by
  have hpaired' : (s.node.at c.time).paired = true := hpaired
  refine exec_settles rfl rfl h ?_
  dsimp only
  rw [hpaired', if_pos rfl]
  rfl

theorem exec_pairResync (h : s.node.takes c 0x0A03 (.secure instPar) 0 = true) (hpaired : s.node.paired = true)
    (htoken : (s.node.atPair c.time).token = tkHolder) (hcontact : (s.node.atPair c.time).jlkContact = true) :
    exec (.pairResync c) s = .next (s.on fun n => (n.atPair c.time).startPass.completes c sOk []) := by
  have hpaired' : (s.node.atPair c.time).paired = true := (Node.paired_atPair _ _).trans hpaired
  refine exec_settles rfl rfl h ((congrArg (Node.settle c) (if_neg ?_)).trans rfl)
  rintro (hbad | hbad | hbad)
  · exact absurd (hpaired'.symm.trans ((Bool.not_eq_true' _).mp hbad)) (by decide)
  · exact hbad htoken
  · exact absurd (hcontact.symm.trans ((Bool.not_eq_true' _).mp hbad)) (by decide)

theorem exec_pairTrkReset (h : s.node.takes c 0x0A04 (.secure instPar) 1 = true) (hlo : 1 ≤ arg c 0) (hhi : arg c 0 ≤ 16379) :
    exec (.pairTrkReset c) s = .next (s.on fun n => ((n.at c.time).emptyTracker (arg c 0)).completes c sOk []) :=
  exec_settles rfl rfl h ((congrArg (Node.settle c) ((if_neg (by omega)).trans (if_pos ⟨hlo, hhi⟩))).trans rfl)

end

/-- Settles O46. -/
theorem theStateIsCopied : Obligations.TheStateIsCopied :=
  ⟨fun _ _ => exec_stateCopySend_stopped, fun _ _ => stateCopySend_sends, fun _ _ => exec_stateCopySend_not,
    fun _ _ => jalderCopyReceived_holds, fun _ _ => exec_jalderCopyEndReceived_ends, Node.discardCopy_leaves,
    fun _ _ => exec_resyncRequestSend, fun _ _ => exec_jalderResyncReceived, fun _ _ => exec_pairStatus, fun _ _ => exec_pairResync,
    fun _ _ => exec_pairTrkReset⟩

end Sys2Proof.Machine
end

section
/-! PROOF. Datasets, produced and consumed (R443 to R461, R474). -/

namespace Sys2Proof.Machine

/-! ### The datasets of a node -/

theorem getElem?_modifyAt {α : Type} (l : List α) (i : Nat) (f : α → α) : (modifyAt l i f)[i]? = l[i]?.map f := by
  rw [modifyAt, List.getElem?_mapIdx]
  cases l[i]? with
  | none => rfl
  | some x => simp

theorem modifyAt_congr {α : Type} {l : List α} {i : Nat} {x : α} {f g : α → α} (hx : l[i]? = some x) (h : f x = g x) :
    modifyAt l i f = modifyAt l i g := by
  rw [modifyAt, modifyAt]
  refine List.ext_getElem? fun j => ?_
  rw [List.getElem?_mapIdx, List.getElem?_mapIdx]
  by_cases hj : j = i
  · subst hj
    rw [hx, Option.map_some, Option.map_some, if_pos rfl, if_pos rfl, h]
  · simp only [if_neg hj]

section
variable {n : Node} {i : Nat} {d : Dataset}

theorem Node.onDs_congr {f g : Dataset → Dataset} (hd : n.dsAt i = some d) (h : f d = g d) : n.onDs i f = n.onDs i g :=
  congrArg (fun sets => { n with pd := { n.pd with sets := sets } }) (modifyAt_congr hd h)

theorem Node.dsAt_onDs (hd : n.dsAt i = some d) (f : Dataset → Dataset) : (n.onDs i f).dsAt i = some (f d) := by
  rw [Node.dsAt] at hd ⊢
  exact (getElem?_modifyAt _ _ _).trans (by rw [hd]; rfl)

theorem Node.withDs_eq {stream : Nat} (hi : n.dsIndex stream = some i) (hd : n.dsAt i = some d) (act : Node → Nat → Dataset → Node) :
    n.withDs stream act = act n i d := by
  rw [Node.withDs, hi]
  dsimp only
  rw [hd]

end

/-! ### Producing (R443 to R450) -/

section
variable {s : State} {stream time i c : Nat} {d : Dataset} (hi : s.node.dsIndex stream = some i) (hd : s.node.dsAt i = some d)
  (hrun : s.node.instants = true)
include hi hd hrun

section
variable (hproduced : d.consumed = false)
include hproduced

section
variable (hdue : (s.node.at time).dueCyc (s.node.strm stream) (s.node.sampleOff (s.node.strm stream) d) = some c)
include hdue

theorem exec_sampleInstant_samples (hnew : d.sampledCyc ≠ some c) :
    exec (.sampleInstant stream time) s = .next (s.on fun n =>
      ((n.at time).onDs i fun d' => { d' with
        sampled := d.maps.map fun x => (x.1, n.lineActive x.1), sampledCyc := some c }).boundPulses i false) := by
  have hrun' : (s.node.at time).instants = true := hrun
  have hdue' : (s.node.at time).dueCyc ((s.node.at time).strm stream) ((s.node.at time).sampleOff ((s.node.at time).strm stream) d) =
    some c := hdue
  refine exec_on_eq rfl ((Node.withDs_eq (n := s.node.at time) hi hd _).trans ?_)
  dsimp only
  rw [hrun', hdue', if_neg (by decide), if_neg (fun hbad => hbad.elim nofun fun heq => hnew heq.symm)]
  refine congrArg (fun m => Node.boundPulses m i false) (Node.onDs_congr (n := s.node.at time) hd ?_)
  rw [hproduced]
  rfl

omit hproduced in
theorem exec_sampleInstant_again (hsame : d.sampledCyc = some c) :
    exec (.sampleInstant stream time) s = .next (s.on fun n => n.at time) := by
  have hrun' : (s.node.at time).instants = true := hrun
  have hdue' : (s.node.at time).dueCyc ((s.node.at time).strm stream) ((s.node.at time).sampleOff ((s.node.at time).strm stream) d) =
    some c := hdue
  refine exec_on_eq rfl ((Node.withDs_eq (n := s.node.at time) hi hd _).trans ?_)
  dsimp only
  rw [hrun', hdue', if_neg (by decide), if_pos (.inr hsame.symm)]

end

theorem exec_discreteBufferComplete
    (hdue : (s.node.at time).dueCyc (s.node.strm stream) (s.node.sampleOff (s.node.strm stream) d + 1000) = some c)
    (hsource : d.source = 2) (hnew : d.doneCyc ≠ some c) :
    exec (.discreteBufferComplete stream time) s = .next (s.on fun n =>
      ((n.at time).onDs i fun d' => { d' with doneCyc := some c }).complete stream (slice (n.txOf stream).write 0 d.len) 0#32) := by
  have hrun' : (s.node.at time).instants = true := hrun
  have hdue' : (s.node.at time).dueCyc ((s.node.at time).strm stream) ((s.node.at time).sampleOff ((s.node.at time).strm stream) d + 1000) =
    some c := hdue
  refine exec_on_eq rfl ((Node.withDs_eq (n := s.node.at time) hi hd _).trans ?_)
  dsimp only
  rw [hdue', if_pos ⟨hrun', by rw [hproduced]; rfl, hsource, rfl, fun heq => hnew heq.symm⟩]
  rfl

end
end

theorem Node.stream_txOf (n : Node) (stream : Nat) : (n.txOf stream).stream = stream := by
  unfold Node.txOf
  cases h : n.cyc.tx.find? fun t => t.stream == stream with
  | none => rfl
  | some t =>
    have hfound := List.find?_some h
    exact beq_iff_eq.mp hfound

theorem Node.txOf_putTx (n : Node) {t : TxStream} {stream : Nat} (h : t.stream = stream) : (n.putTx t).txOf stream = t := by
  unfold Node.txOf Node.putTx
  dsimp only
  rw [List.find?_append, List.find?_eq_none.mpr fun x hx => by simpa [h] using (List.mem_filter.mp hx).2]
  simp [h]

/-- What is completed is what the next take sends. -/
theorem Node.complete_leaves (n : Node) (stream : Nat) (data : List Byte) (check : Word) :
    ((n.complete stream data check).txOf stream).latest = data ∧ ((n.complete stream data check).txOf stream).write = data ∧
    ((n.complete stream data check).txOf stream).fresh = true ∧ ((n.complete stream data check).txOf stream).check = check := by
  unfold Node.complete
  extract_lets t before
  have hput : (n.putTx { t with write := data, latest := data, fresh := true, doneAt := n.tm.raw, prior := before, check := check }).txOf
      stream = { t with write := data, latest := data, fresh := true, doneAt := n.tm.raw, prior := before, check := check } :=
    Node.txOf_putTx n (n.stream_txOf stream)
  rw [hput]
  exact ⟨rfl, rfl, rfl, rfl⟩

theorem exec_pdtDsDoneWrite {s : State} {ctx i : Nat} {v : Word} {d : Dataset} (h : s.node.admits ctx (Reg.PDT_DS_DONE i) true = true)
    (hd : s.node.dsAt i = some d) (hproduced : d.consumed = false) (hsource : d.source = 0) :
    exec (.pdtDsDoneWrite ctx i v) s = .next (s.on fun n =>
      (n.answer 0#32).complete d.stream (slice (n.txOf d.stream).write 0 d.len) v) := by
  have hd' : (s.node.answer 0#32).dsAt i = some d := hd
  refine exec_on_eq rfl ((Node.access_admitted _ _ _ _ _ h).trans ?_)
  rw [Node.dsDone, hd']
  exact if_pos ⟨by rw [hproduced]; rfl, hsource⟩

theorem exec_pdWrite {s : State} {c : Cmd} {d : Dataset} (h : s.node.takes c 0x0403 (.inst instPdt) 5 = true)
    (hd : (s.node.pd.sets.find? fun d => d.stream == arg c 0) = some d) (hproduced : d.consumed = false) (hsource : d.source = 0)
    (hlen : arg c 1 = d.len) (hctx : c.ctx < 4) :
    exec (.pdWrite c) s = .next (s.on fun n =>
      ((n.at c.time).complete d.stream (slice c.data 0 d.len) (argW c 4)).completes c sOk []) := by
  have hd' : ((s.node.at c.time).pd.sets.find? fun d => d.stream == arg c 0) = some d := hd
  have hbytes : (s.node.at c.time).sourceBytes c 1 (arg c 2) d.len = some (slice c.data 0 d.len) :=
    (if_neg (by decide)).trans (if_pos ⟨rfl, hctx⟩)
  refine exec_settles rfl rfl h ?_
  rw [hd']
  dsimp only
  rw [hbytes]
  dsimp only
  rw [if_pos ⟨by rw [hproduced]; rfl, hsource, hlen⟩]
  rfl

section
variable {s : State} {r : Rx} {d : Dataset} (hchecks : ((s.node.meets r).rxFail r).isNone = true) (hlo : 4 ≤ r.port) (hhi : r.port < 12)
  (hkind : (s.node.heard r).carKind r.port = 0) (htype : r.frame.etype = (s.node.heard r).carType) (hmem : d ∈ (s.node.heard r).pd.sets)
  (hproduced : d.consumed = false) (hsource : d.source = 1) (hport : d.ports.testBit (carPort r.port) = true)
  (hfind : ((s.node.heard r).pd.sets.find? fun d => d.stream == beAt r.frame.body 4 2 && !d.consumed && d.source == 1) = some d)
  (hroom : frameCells r.frame ≤ r.room)
include hchecks hlo hhi hkind htype hmem hproduced hsource hport hfind hroom

/-- A car frame on a port that a car-sourced dataset names completes its buffer or is dropped. -/
theorem exec_carInputFrameReceived : exec (.carInputFrameReceived r) s = .next (s.on fun n =>
    if d.ports.testBit (carPort r.port) ∧ beAt r.frame.body 24 2 = d.len ∧ 40 + d.len ≤ r.frame.body.length then
      (n.heard r).complete d.stream (slice r.frame.body 40 d.len) (word (beAt r.frame.body 36 4))
    else (n.heard r).inc Reg.PDT_CAR_DROP) := by
  have hchecks' : ((s.node.at r.stamp).echoBack r).rxFail r = none := Option.isNone_iff_eq_none.mp hchecks
  have hnamed : ((s.node.heard r).pd.sets.any fun d => !d.consumed && d.source == 1 && d.ports.testBit (carPort r.port)) = true := by
    refine List.any_eq_true.mpr ⟨d, hmem, ?_⟩
    rw [hproduced, hsource, hport]
    rfl
  have hfind' : ((((s.node.at r.stamp).echoBack r).rxGood r).pd.sets.find? fun d =>
    d.stream == beAt r.frame.body 4 2 && !d.consumed && d.source == 1) = some d := hfind
  refine exec_on_eq rfl ?_
  dsimp only
  rw [hchecks']
  refine (if_pos ⟨hlo, hhi, hkind, htype, hnamed⟩).trans ((if_neg (by omega)).trans ?_)
  rw [hfind']
  rfl

theorem exec_carInputFrameReceived_completes (hlen : beAt r.frame.body 24 2 = d.len) (hwhole : 40 + d.len ≤ r.frame.body.length) :
    exec (.carInputFrameReceived r) s = .next (s.on fun n =>
      (n.heard r).complete d.stream (slice r.frame.body 40 d.len) (word (beAt r.frame.body 36 4))) :=
  exec_on_eq (exec_carInputFrameReceived hchecks hlo hhi hkind htype hmem hproduced hsource hport hfind hroom)
    (if_pos ⟨hport, hlen, hwhole⟩)

theorem exec_carInputFrameReceived_drops (hlen : beAt r.frame.body 24 2 ≠ d.len) :
    exec (.carInputFrameReceived r) s = .next (s.on fun n => (n.heard r).inc Reg.PDT_CAR_DROP) :=
  exec_on_eq (exec_carInputFrameReceived hchecks hlo hhi hkind htype hmem hproduced hsource hport hfind hroom)
    (if_neg fun hok => hlen hok.2.1)

end

/-! ### Consuming (R451 to R457) -/

theorem exec_decisionPoint_decides {s : State} {stream time i c : Nat} {d : Dataset} (hi : s.node.dsIndex stream = some i)
    (hd : s.node.dsAt i = some d) (hrun : s.node.instants = true) (hconsumed : d.consumed = true)
    (hdue : (s.node.at time).dueCyc (s.node.strm stream) (s.node.decideOff d) = some c) (hnew : d.decidedCyc ≠ some c) :
    exec (.decisionPoint stream time) s = .next (s.on fun n => ((n.at time).dsDecide i d c).stationBits stream) := by
  have hdue' : (s.node.at time).dueCyc ((s.node.at time).strm stream) ((s.node.at time).decideOff d) = some c := hdue
  have hdecides : (s.node.at time).decisionPoint stream = (s.node.at time).dsDecide i d c := by
    rw [Node.decisionPoint, Node.withDs_eq (n := s.node.at time) hi hd, hdue']
    exact if_pos ⟨hrun, hconsumed, hnew⟩
  exact exec_on_eq rfl (congrArg (fun m => Node.stationBits m stream) hdecides)

theorem Node.pd_raiseLimited (n : Node) (code key out d0 d1 : Nat) : (n.raiseLimited code key out d0 d1).pd = n.pd := by
  obtain ⟨_, _, h⟩ := n.raiseLimited_eq_withEvents code key out d0 d1
  rw [h]
  rfl

theorem Node.pd_dsMiss (n : Node) (i : Nat) (d : Dataset) (e : Strm) : (n.dsMiss i d e).pd = n.pd := by
  unfold Node.dsMiss
  extract_lets m d0
  split
  · rfl
  · split
    · exact Node.pd_raiseLimited _ _ _ _ _ _
    · exact Node.pd_raiseLimited _ _ _ _ _ _

section
variable (n : Node) (i cyc : Nat) (d : Dataset)

/-- The copy of the dataset to be decided. -/
def Dataset.freshAt : Option DsCopy := d.fresh.filter fun c => c.cyc == cyc

/-- The age that a decision shows. -/
def Dataset.ageAt : Nat :=
  match d.freshAt cyc with
  | some c => c.age
  | none => min (d.age + 1) 0xFFFF

/-- What the decision of a dataset fixes: the cause of the safe value, the header and the data. -/
def Node.dsValue : Nat × List Byte × List Byte := d.decideValue (d.freshAt cyc) (d.ageAt cyc) (n.freeBytes 36).2

/-- The status of a decision. -/
def Node.dsStatus : Nat :=
  d.ageAt cyc + b2n (d.freshAt cyc).isSome * 2 ^ 16 + b2n ((n.dsValue cyc d).1 != 0) * 2 ^ 17 +
    b2n ((n.dsValue cyc d).1 == 4) * 2 ^ 18 + b2n (n.dsInactive d) * 2 ^ 19 + b2n d.lineA * 2 ^ 20 + b2n d.lineB * 2 ^ 21

/-- A dataset that has been decided. -/
def Node.dsDecided (d' : Dataset) : Dataset :=
  { d' with
    fresh := none, lineA := false, lineB := false, age := d.ageAt cyc,
    last := match d.freshAt cyc with
      | some c => some c
      | none => d'.last,
    misses := if (d.freshAt cyc).isSome then 0 else d'.misses + 1, safeRun := (n.dsValue cyc d).1 != 0,
    decided := some ⟨n.dsStatus cyc d, (n.dsValue cyc d).2.1, (n.dsValue cyc d).2.2⟩, decidedCyc := some cyc }

/-- What a decision reports: a miss, the end of misses and the safe value. -/
def Node.dsReports (cause : Nat) : Node :=
  let m := if (d.freshAt cyc).isSome then n else n.dsMiss i d (n.strm d.stream)
  let m := if (d.freshAt cyc).isSome ∧ 0 < d.misses then m.raise 0x4803 d.stream d.misses else m
  if cause != 0 ∧ !d.safeRun then m.raise 0x4902 d.stream cause else m

theorem Node.pd_dsReports (cause : Nat) : (n.dsReports i cyc d cause).pd = n.pd := by
  unfold Node.dsReports
  extract_lets m k
  have hm : m.pd = n.pd := by
    show (if _ then _ else _ : Node).pd = _
    split
    · rfl
    · exact n.pd_dsMiss i d _
  have hk : k.pd = n.pd := by
    show (if (d.freshAt cyc).isSome = true ∧ 0 < d.misses then m.raise 0x4803 d.stream d.misses else m : Node).pd = _
    split
    · exact (m.raise_pd _ _ _).trans hm
    · exact hm
  split
  · exact (k.raise_pd _ _ _).trans hk
  · exact hk

theorem Node.dsDecide_eq : n.dsDecide i d cyc =
    ((n.freeBytes 36).1.dsReports i cyc d (n.dsValue cyc d).1).onDs i (n.dsDecided cyc d) := rfl

variable {n i d}

theorem Node.dsAt_dsDecide (hd : n.dsAt i = some d) : (n.dsDecide i d cyc).dsAt i = some (n.dsDecided cyc d d) := by
  rw [Node.dsDecide_eq]
  refine Node.dsAt_onDs ?_ _
  rw [Node.dsAt, Node.pd_dsReports]
  exact hd

end

/-- A fresh copy that is not too old is what the decision fixes. -/
theorem dsDecide_fresh {n : Node} {i : Nat} {d : Dataset} {c : DsCopy} (hd : n.dsAt i = some d) (hfresh : d.fresh = some c)
    (hlimit : d.limit = 0 ∨ c.age ≤ d.limit) (hage : c.age < 65536) :
    ∃ (d' : Dataset) (v : DsView), (n.dsDecide i d c.cyc).dsAt i = some d' ∧ d'.decided = some v ∧ v.data = c.data ∧
      v.header = c.header ∧
      v.status.testBit 16 = true ∧ v.status.testBit 17 = false ∧ d'.misses = 0 ∧ d'.decidedCyc = some c.cyc := by
  have hat : d.freshAt c.cyc = some c := by
    simp [Dataset.freshAt, hfresh]
  have hageAt : d.ageAt c.cyc = c.age := by rw [Dataset.ageAt, hat]
  have hyoung : (d.limit != 0 && decide (d.limit < c.age)) = false := by
    rcases hlimit with hno | hle
    · rw [hno]
      rfl
    · rw [decide_eq_false (by omega), Bool.and_false]
  have hvalue : n.dsValue c.cyc d = (0, c.header, c.data) := by
    rw [Node.dsValue, hat, hageAt, Dataset.decideValue, hyoung]
    rfl
  have hstatus : n.dsStatus c.cyc d = c.age + 65536 + b2n (n.dsInactive d) * 2 ^ 19 + b2n d.lineA * 2 ^ 20 + b2n d.lineB * 2 ^ 21 := by
    rw [Node.dsStatus, hageAt, hat, hvalue, show b2n (some c).isSome = 1 from rfl, show b2n ((0 : Nat) != 0) = 0 from rfl,
      show b2n ((0 : Nat) == 4) = 0 from rfl]
    omega
  refine ⟨n.dsDecided c.cyc d d, ⟨n.dsStatus c.cyc d, c.header, c.data⟩, Node.dsAt_dsDecide _ hd, ?_, rfl, rfl, ?_, ?_, ?_, rfl⟩
  · rw [Node.dsDecided, hvalue]
  · rw [Nat.testBit_eq_decide_div_mod_eq, decide_eq_true_eq]
    dsimp only
    omega
  · rw [Nat.testBit_eq_decide_div_mod_eq, decide_eq_false_iff_not]
    dsimp only
    omega
  · rw [Node.dsDecided, hat]
    rfl

/-- Without a fresh copy the dataset is missed. -/
theorem dsDecide_missed {n : Node} {i cyc : Nat} {d : Dataset} (hd : n.dsAt i = some d) (hfresh : d.fresh = none) :
    ∃ d' : Dataset, (n.dsDecide i d cyc).dsAt i = some d' ∧ d'.decidedCyc = some cyc ∧ d'.misses = d.misses + 1 ∧
      d'.age = min (d.age + 1) 0xFFFF ∧ (d.last = none → ∃ v, d'.decided = some v ∧ v.data = d.safeData) := by
  have hat : d.freshAt cyc = none := by rw [Dataset.freshAt, hfresh, Option.filter_none]
  refine ⟨n.dsDecided cyc d d, Node.dsAt_dsDecide _ hd, rfl, ?_, ?_, fun hlast => ⟨_, rfl, ?_⟩⟩
  · rw [Node.dsDecided, hat]
    rfl
  · rw [Node.dsDecided, Dataset.ageAt, hat]
  · rw [Node.dsValue, hat, Dataset.decideValue, hlast]

/-! ### Presentation (R445, R452, R457 to R461) -/

section
variable {s : State} {stream time i c : Nat} {d : Dataset} (hi : s.node.dsIndex stream = some i) (hd : s.node.dsAt i = some d)
  (hrun : s.node.instants = true) (hdue : (s.node.at time).dueCyc (s.node.strm stream) (d.omega : Int) = some c)
include hi hd hrun hdue

/-- What the output instant of a dataset does with what was decided. -/
def Node.present (m : Node) (i : Nat) (d : Dataset) (due : Option Nat) : Node :=
  match d.decided with
  | some v =>
    let v' : DsView := { v with status := v.status + b2n d.late * 2 ^ 22 }
    let pins := (d.pins.map fun p => (p.1, p.2.1, p.2.2 + 1)).filter fun p => decide (p.2.2 < 2)
    let d' : Dataset := { d with shown := v', decided := none, late := false, outCyc := due, pins := pins }
    let q := (m.onDs i fun _ => d').setReg (Reg.PDT_DS_STAT i) (word v'.status)
    let q := if v'.status.testBit 17 then q.inc Reg.PDT_SAFE_CNT else q
    q.latchMaps d'
  | none => m.onDs i fun d => { d with outCyc := due }

theorem exec_outputInstant : exec (.outputInstant stream time) s = .next (s.on fun n =>
    if some c == d.outCyc then n.at time else ((n.at time).present i d (some c)).boundPulses i true) := by
  have hrun' : (s.node.at time).instants = true := hrun
  have hdue' : (s.node.at time).dueCyc ((s.node.at time).strm stream) (d.omega : Int) = some c := hdue
  refine exec_on_eq rfl ((Node.withDs_eq (n := s.node.at time) hi hd _).trans ?_)
  dsimp only
  rw [hrun', hdue']
  rfl

theorem exec_outputInstant_again (hsame : d.outCyc = some c) :
    exec (.outputInstant stream time) s = .next (s.on fun n => n.at time) :=
  exec_on_eq (exec_outputInstant hi hd hrun hdue) (if_pos (beq_iff_eq.mpr hsame.symm))

section
variable (hnew : d.outCyc ≠ some c)
include hnew

theorem exec_outputInstant_presents : exec (.outputInstant stream time) s = .next (s.on fun n =>
    ((n.at time).present i d (some c)).boundPulses i true) :=
  exec_on_eq (exec_outputInstant hi hd hrun hdue) (if_neg fun hbad => hnew (beq_iff_eq.mp hbad).symm)

theorem exec_outputInstant_undecided (hnone : d.decided = none) :
    exec (.outputInstant stream time) s = .next (s.on fun n =>
      ((n.at time).onDs i fun d' => { d' with outCyc := some c }).boundPulses i true) := by
  refine exec_on_eq (exec_outputInstant_presents hi hd hrun hdue hnew) (congrArg (fun m => Node.boundPulses m i true) ?_)
  rw [Node.present, hnone]

theorem exec_outputInstant_decided {v : DsView} (hsome : d.decided = some v) (hsafe : v.status.testBit 17 = false)
    (hlate : d.late = false) (hpins : d.pins = []) :
    exec (.outputInstant stream time) s = .next (s.on fun n =>
      let d' := { d with shown := v, decided := none, outCyc := some c }
      ((((n.at time).onDs i fun _ => d').setReg (Reg.PDT_DS_STAT i) (word v.status)).latchMaps d').boundPulses i true) := by
  refine exec_on_eq (exec_outputInstant_presents hi hd hrun hdue hnew) (congrArg (fun m => Node.boundPulses m i true) ?_)
  have hview : { d with shown := { v with status := v.status + b2n d.late * 2 ^ 22 }, decided := none, late := false, outCyc := some c,
                        pins := (d.pins.map fun p => (p.1, p.2.1, p.2.2 + 1)).filter fun p => decide (p.2.2 < 2) } =
      { d with shown := v, decided := none, outCyc := some c } := by
    rw [hlate, hpins]
    rfl
  have hstatus : v.status + b2n d.late * 2 ^ 22 = v.status := by
    rw [hlate]
    rfl
  rw [Node.present, hsome]
  dsimp only
  rw [hview, hstatus, hsafe, if_neg (by decide)]

end
end

/-- A single node sends a consumed dataset on a car port that carries car time at the start of its car slot. -/
theorem exec_carDeliverySend {s : State} {stream port time i : Nat} {d : Dataset} {m : Node}
    (hm : m = (s.node.at time).decisionPoint stream) (hi : m.dsIndex stream = some i) (hd : m.dsAt i = some d)
    (hrun : m.instants = true) (hconsumed : d.consumed = true) (hlo : 4 ≤ port) (hhi : port < 12)
    (hport : d.ports.testBit (carPort port) = true) (hon : m.bits (Reg.TMB_CARTIME_CFG (carPort port)) 0 2 ≠ 0)
    (hsingle : m.paired = false) (hstart : ((m.carStart stream port).any fun t => m.atOffset t) = true) :
    exec (.carDeliverySend stream port time) s = .next (s.on fun _ =>
      let v := d.decided.getD d.shown
      let body := encBE 4 v.status ++ (slice v.header 0 16 ++
        encBE 4 (sword (m.outputAt d (m.instanceCyc (m.strm stream)))).toNat ++
        slice v.header 20 16) ++ v.data
      m.sendGated port 6 { dst := d.dst, src := m.identity, tag := some ⟨d.tci / 8192 % 8, 0, d.tci % 4096⟩, etype := m.carType,
                           body := body ++ zeros (42 - body.length) }) := by
  have hmode : m.carMode port = 0 := if_neg (by rw [hsingle]; decide)
  have hsends : m.carSends port = true := by
    rw [Node.carSends, hmode]
    rfl
  refine exec_on_eq rfl ?_
  dsimp only
  rw [← hm, Node.withDs_eq hi hd, hrun, hconsumed, decide_eq_true hlo, decide_eq_true hhi, hport, bne_iff_ne.mpr hon, hsends, hstart,
    if_neg (by decide), hmode, if_neg (by decide), List.append_nil]

theorem exec_pdtBufStatusRead {s : State} {ctx i : Nat} {d : Dataset} (h : s.node.admits ctx (Reg.PDT_BUF i) false = true)
    (hd : s.node.dsAt i = some d) (hconsumed : d.consumed = true) :
    exec (.pdtBufStatusRead ctx i) s = .next (s.on fun n =>
      ((n.answer 0#32).onDs i fun d => { d with pins := d.pins.filter (fun p => p.1 != ctx) ++ [(ctx, d.shown, 0)] }).answer
        (word d.shown.status)) := by
  have hd' : (s.node.answer 0#32).dsAt i = some d := hd
  refine exec_on_eq rfl ((Node.access_admitted _ _ _ _ _ h).trans ?_)
  rw [Node.bufStatus, hd']
  exact if_pos hconsumed

/-! ### The commands (R474) -/

section
variable {s : State} {c : Cmd}

theorem exec_pdRead {d : Dataset} (h : s.node.takes c 0x0404 (.inst instPdt) 4 = true)
    (hd : (s.node.pd.sets.find? fun d => d.stream == arg c 0) = some d) (hconsumed : d.consumed = true) (hctx : c.ctx < 4)
    (hlen : arg c 3 = d.len) :
    exec (.pdRead c) s = .next (s.on fun n =>
      { n.at c.time with host := { n.host with dma := n.host.dma ++
        [HostWrite.mk c.ctx (arg c 1 + arg c 2 * 2 ^ 32) (slice d.shown.data 0 d.len)] } }.completes c sOk
        [word d.shown.status, word (beAt d.shown.header 4 4)]) := by
  have hd' : ((s.node.at c.time).pd.sets.find? fun d => d.stream == arg c 0) = some d := hd
  refine exec_settles rfl rfl h ?_
  rw [hd']
  dsimp only
  rw [if_pos ⟨hconsumed, hctx, hlen⟩]
  rfl

theorem exec_pdStatus (h : s.node.takes c 0x0401 (.inst instPdt) 0 = true) : exec (.pdStatus c) s = .next (s.on fun n =>
    (n.at c.time).completes c sOk [n.reg Reg.PDT_STAT, n.reg Reg.PDT_MISS_CNT, n.reg Reg.PDT_SAFE_CNT]) :=
  exec_settles rfl rfl h rfl

theorem exec_pdInfo {i : Nat} (h : s.node.takes c 0x0402 (.inst instPdt) 1 = true) (hi : s.node.dsIndex (arg c 0) = some i) :
    exec (.pdInfo c) s = .next (s.on fun n => (n.at c.time).completes c sOk (n.getRegs (Reg.PDT_DS_CFG i) 8)) := by
  have hi' : (s.node.at c.time).dsIndex (arg c 0) = some i := hi
  refine exec_settles rfl rfl h ?_
  rw [hi']
  rfl

end

/-- Settles O47. -/
theorem datasetsAreCompletedDecidedAndPresented : Obligations.DatasetsAreCompletedDecidedAndPresented :=
  ⟨fun _ _ _ _ _ hi hd hrun hproduced => ⟨fun _ hdue => ⟨exec_sampleInstant_samples hi hd hrun hproduced hdue,
        exec_sampleInstant_again hi hd hrun hdue⟩, fun _ => exec_discreteBufferComplete hi hd hrun hproduced⟩,
    Node.complete_leaves, fun _ _ _ _ _ _ => exec_pdtDsDoneWrite, fun _ _ _ => exec_pdWrite,
    fun _ _ _ hchecks hlo hhi hkind htype hmem hproduced hsource hport hfind hroom =>
      ⟨exec_carInputFrameReceived_completes hchecks hlo hhi hkind htype hmem hproduced hsource hport hfind hroom,
        exec_carInputFrameReceived_drops hchecks hlo hhi hkind htype hmem hproduced hsource hport hfind hroom⟩,
    fun _ _ _ _ _ hi hd hrun hconsumed _ => exec_decisionPoint_decides hi hd hrun hconsumed,
    fun _ _ _ _ => dsDecide_fresh, fun _ _ _ _ => dsDecide_missed,
    fun _ _ _ _ _ _ hi hd hrun hdue => ⟨exec_outputInstant_again hi hd hrun hdue,
      exec_outputInstant_undecided hi hd hrun hdue, fun _ hnew => exec_outputInstant_decided hi hd hrun hdue hnew⟩,
    fun _ _ _ _ _ _ _ => exec_carDeliverySend, fun _ _ _ _ _ => exec_pdtBufStatusRead, fun _ _ _ => exec_pdRead,
    fun _ _ => exec_pdStatus, fun _ _ _ => exec_pdInfo⟩

end Sys2Proof.Machine
end

section
/-! PROOF. Announcements (R497 to R508, R521). -/

namespace Sys2Proof.Machine

/-! ### Service commands (R519, R521) -/

/-- A command of the services that reaches its own checks ends as they answer. -/
theorem exec_serves {i : Instr} {s : State} {c : Cmd} {op nargs : Nat} {f g : Node → Node} {act : Node → Answer}
    (hexec : exec i s = .next (s.runs c op f)) (hf : f s.node = s.node.service c nargs act) (htakes : s.node.takesService c op nargs = true)
    (hact : Node.settle c (act (s.node.at c.time)) = g s.node) : exec i s = .next (s.on g) := by
  rw [Node.takesService, Bool.and_eq_true] at htakes
  obtain ⟨htakes, hon⟩ := htakes
  have hon' : (s.node.at c.time).servicesOn = true := hon
  exact exec_settles hexec hf htakes ((congrArg (Node.settle c) (if_pos hon')).trans hact)

section
variable {s : State} {c : Cmd}

section
variable {start : Nat} (hok : paFieldsOk c = true) (hst : s.node.st = stRun)
  (hstart : (s.node.at c.time).startOf (arg c 3 % 256) (arg c 4) (arg c 5) = some start)
include hok hst hstart

/-- A request whose fields are right is made, and completes with its tag and its start sample. -/
theorem Node.paIssue_makes (type source check : Nat) :
    Node.settle c ((s.node.at c.time).paIssue c type source check) =
      ((s.node.at c.time).paMade (s.node.paMessage c type source check start)).completes c sOk
        [word s.node.aud.nextTag, word start, word (start / 2 ^ 32)] := by
  simp only [paFieldsOk, Bool.and_eq_true, decide_eq_true_eq] at hok
  obtain ⟨⟨⟨⟨⟨hw1, hcls⟩, hw2⟩, hw2'⟩, hrange⟩, hgain⟩ := hok
  have hst' : (s.node.at c.time).st = stRun := hst
  unfold Node.paIssue
  extract_lets w1 w2 w3 first last
  rw [if_neg (by simp only [w1, w2, first, last]; omega), hstart]
  dsimp only
  rw [if_neg (not_not_intro hst')]
  rfl

theorem exec_paPlay {e : LibEntry} (h : s.node.takesService c 0x0502 7 = true) (he : s.node.libEntry (arg c 0) = some e) :
    exec (.paPlay c) s = .next (s.on fun n =>
      ((n.at c.time).paMade (n.paMessage c 1 e.id e.crc start)).completes c sOk
        [word n.aud.nextTag, word start, word (start / 2 ^ 32)]) := by
  have he' : (s.node.at c.time).libEntry (arg c 0) = some e := he
  refine exec_serves rfl rfl h (Eq.trans ?_ (Node.paIssue_makes hok hst hstart 1 e.id e.crc))
  rw [he']

theorem exec_paLive {e : Strm} (h : s.node.takesService c 0x0503 7 = true) (he : e = s.node.strm (arg c 0)) (hlo : 0 < arg c 0)
    (hhi : arg c 0 < 16380) (hvalid : e.valid = true) (hcls : e.cls = 1) (hown : s.node.ownStream e = true)
    (hactive : e.state = 2 ∨ e.state = 3 ∨ e.state = 4) :
    exec (.paLive c) s = .next (s.on fun n =>
      ((n.at c.time).paMade (n.paMessage c 2 (arg c 0) 0 start)).completes c sOk
        [word n.aud.nextTag, word start, word (start / 2 ^ 32)]) := by
  subst he
  refine exec_serves rfl rfl h (Eq.trans (congrArg (Node.settle c) ((if_neg (by omega)).trans (if_neg ?_)))
    (Node.paIssue_makes hok hst hstart 2 (arg c 0) 0))
  rintro (hbad | hbad | hbad | hbad)
  · exact absurd (hvalid.symm.trans ((Bool.not_eq_true' _).mp hbad)) (by decide)
  · exact hbad hcls
  · exact absurd (hown.symm.trans ((Bool.not_eq_true' _).mp hbad)) (by decide)
  · exact absurd hactive (of_decide_eq_false ((Bool.not_eq_true' _).mp hbad))

theorem exec_paChime (h : s.node.takesService c 0x0504 7 = true) (hchime : (s.node.aud.chimes.any fun x => x.index == arg c 0) = true) :
    exec (.paChime c) s = .next (s.on fun n =>
      ((n.at c.time).paMade (n.paMessage c 3 (arg c 0) 0 start)).completes c sOk
        [word n.aud.nextTag, word start, word (start / 2 ^ 32)]) :=
  exec_serves rfl rfl h ((congrArg (Node.settle c) (if_pos hchime)).trans (Node.paIssue_makes hok hst hstart 3 (arg c 0) 0))

end

theorem exec_paStop {stop : Nat} (h : s.node.takesService c 0x0505 6 = true) (hlo : arg c 1 = 0) (hhi : arg c 2 = 0)
    (hstop : (s.node.at c.time).startOf (arg c 3) (arg c 4) (arg c 5) = some stop) (hissued : s.node.aud.issued.contains (arg c 0) = true) :
    exec (.paStop c) s = .next (s.on fun n =>
      let b := paBytes 4 0 0 false 0 n.identity (arg c 0) 0 0 0 n.epoch stop 0 0 0 0
      let k : Node := { n.at c.time with aud := { n.aud with issued := n.aud.issued.filter (· != arg c 0) } }
      ((k.svcSend b).paTake b).completes c sOk [word stop, word (stop / 2 ^ 32)]) := by
  have hissued' : (s.node.at c.time).aud.issued.contains (arg c 0) = true := hissued
  refine exec_serves rfl rfl h ?_
  dsimp only
  rw [hlo, hhi, hstop]
  simp only [Nat.zero_mul, Nat.add_zero, if_true, beq_self_eq_true, hissued', Bool.and_true, Bool.true_or, Bool.not_true, Bool.false_eq_true,
    if_false]
  rfl

end

/-! ### Messages, starts and ends (R499 to R506) -/

theorem exec_paMessageReceived {s : State} {r : Rx} {src : NumEntry} (h : s.node.getsMsg r src = true)
    (hservice : s.node.svcRange (decodeHdr r.frame.body).sid = true) :
    exec (.paMessageReceived r) s = .next (s.on fun n =>
      (n.gotMsg r src).serviceMsg ⟨(decodeHdr r.frame.body).sid, src.identity, payloadOf r.frame.body⟩) :=
  exec_on_eq (f := fun n => n.msgFrame r n.svcRange Node.serviceMsg) rfl (Node.msgFrame_gets h hservice _)

theorem paTake_holds {n : Node} {b : List Byte} {p : Nat} (hlo : 1 ≤ byteAt b 0) (hhi : byteAt b 0 ≤ 3)
    (hnew : (n.aud.reqs.any fun q => q.is (beAt b 4 6) (beAt b 10 2)) = false)
    (hzones : (n.zonesHeld.filter fun z => (beAt b 12 2).testBit z) ≠ []) (hpos : n.posIn (beAt b 18 2) = some p)
    (hfirst : beAt b 14 2 % 1024 ≤ p) (hlast : p ≤ beAt b 16 2 % 1024) (hstart : n.sampleNow + 8 ≤ beAt b 20 8) :
    ∃ q : PaReq, (n.paTake b).aud.reqs = n.aud.reqs ++ [q] ∧ q.requester = beAt b 4 6 ∧ q.tag = beAt b 10 2 ∧
      q.start = beAt b 20 8 ∧ q.started = false ∧ q.stop = none := by
  unfold Node.paTake
  extract_lets who tag held zones here q src m now
  have hhere : here = true := by
    simp only [here, hpos, decide_eq_true hfirst, decide_eq_true hlast]
    rfl
  have hheld : held = false := hnew
  have hzones' : zones.isEmpty = false := by
    rw [← Bool.not_eq_true, List.isEmpty_iff]
    exact hzones
  rw [if_neg (by omega), if_neg (by rw [hheld]; simp only [Bool.false_eq_true, or_false]; omega), hhere, hzones', if_neg (by decide),
    if_neg (show ¬ q.start < now + 8 from Nat.not_lt.mpr hstart)]
  exact ⟨q, rfl, rfl, rfl, rfl, rfl, rfl⟩

theorem filter_past {t now : Nat} (h : t ≤ now) : ((some t).filter fun e => decide (e ≤ now)) = some t := by
  simp [h]

section
variable {s : State} {who tag time : Nat} {q : PaReq} (hq : (s.node.aud.reqs.find? fun q => q.is who tag) = some q)
include hq

theorem exec_paStartSample (hwaiting : q.started = false) (hdue : q.start ≤ (s.node.at time).sampleNow) (heng : s.node.engFailed 1 = false) :
    exec (.paStartSample who tag time) s = .next (s.on fun n => (n.at time).reqStart q 0) := by
  have hq' : ((s.node.at time).aud.reqs.find? fun q => q.is who tag) = some q := hq
  have heng' : (s.node.at time).engFailed 1 = false := heng
  refine exec_on_eq rfl ?_
  dsimp only
  rw [hq']
  refine if_neg ?_
  rw [hwaiting, heng']
  simp only [Bool.false_eq_true, false_or, or_false]
  omega

/-- How a request ends: by its stop, by its last sample, or not yet. -/
theorem exec_announcementEnded : exec (.announcementEnded who tag time) s = .next (s.on fun n =>
    match q.stop.filter fun t => decide (t ≤ (n.at time).sampleNow),
      if q.started then ((n.at time).reqFin q).filter fun e => decide (e ≤ (n.at time).sampleNow) else none with
    | some t, some e => (n.at time).reqEnd q (if e < t then 1 else 2)
    | some _, none => (n.at time).reqEnd q 2
    | none, some _ => (n.at time).reqEnd q 1
    | none, none => n.at time) := by
  have hq' : ((s.node.at time).aud.reqs.find? fun q => q.is who tag) = some q := hq
  refine exec_on_eq rfl ?_
  dsimp only
  rw [hq'] <;> rfl

theorem exec_announcementEnded_stopped {stop : Nat} (hstop : q.stop = some stop) (hpast : stop ≤ (s.node.at time).sampleNow)
    (hgoes : q.started = true → ∀ e, (s.node.at time).reqFin q = some e → (s.node.at time).sampleNow < e) :
    exec (.announcementEnded who tag time) s = .next (s.on fun n => (n.at time).reqEnd q 2) := by
  have hfin : (if q.started then ((s.node.at time).reqFin q).filter fun e => decide (e ≤ (s.node.at time).sampleNow) else none) =
      none := by
    split
    · next hstarted =>
      refine Option.filter_eq_none_iff.mpr fun e he => ?_
      rw [decide_eq_true_eq]
      exact Nat.not_le.mpr (hgoes hstarted e he)
    · rfl
  refine exec_on_eq (exec_announcementEnded hq) ?_
  rw [hfin, hstop, filter_past hpast]

theorem exec_announcementEnded_over {e : Nat} (hstop : q.stop = none) (hstarted : q.started = true)
    (hfin : (s.node.at time).reqFin q = some e) (hpast : e ≤ (s.node.at time).sampleNow) :
    exec (.announcementEnded who tag time) s = .next (s.on fun n => (n.at time).reqEnd q 1) := by
  refine exec_on_eq (exec_announcementEnded hq) ?_
  rw [hfin, hstop, Option.filter_none, if_pos hstarted, filter_past hpast]

theorem exec_announcementEnded_not (hstop : q.stop = none) (hfin : (s.node.at time).reqFin q = none) :
    exec (.announcementEnded who tag time) s = .next (s.on fun n => n.at time) := by
  refine exec_on_eq (exec_announcementEnded hq) ?_
  rw [hfin, hstop, Option.filter_none, ite_self]

end

/-- Settles O49. -/
theorem announcementsAreMadeAndPlayed : Obligations.AnnouncementsAreMadeAndPlayed :=
  ⟨fun _ _ _ hok hst hstart => ⟨fun _ => exec_paPlay hok hst hstart, fun _ => exec_paLive hok hst hstart,
      exec_paChime hok hst hstart⟩,
    fun _ _ _ => exec_paStop, fun _ _ _ => exec_paMessageReceived, fun _ _ _ => paTake_holds,
    fun _ _ _ _ _ hq => ⟨exec_paStartSample hq, fun _ => exec_announcementEnded_stopped hq,
      fun _ => exec_announcementEnded_over hq, exec_announcementEnded_not hq⟩⟩

end Sys2Proof.Machine
end

section
/-! PROOF. Audio streams, the library and AAF (R483, R488 to R496, R509, R510, R521). -/

namespace Sys2Proof.Machine

/-! ### Audio streams (R488) -/

section
variable {s : State} {stream time cyc : Nat} {e : Strm} (he : e = s.node.strmLive stream) (hvalid : e.valid = true) (hcls : e.cls = 1)
  (hdest : s.node.isDest e = true) (hdue : (s.node.at time).audioDue e = some cyc) (hnew : (s.node.audioIn stream).decided ≠ some cyc)
include he hvalid hcls hdest hdue hnew

/-- The decision of a dataset that is due. -/
theorem exec_audioInstanceDecision : exec (.audioInstanceDecision stream time) s = .next (s.on fun n =>
    match (n.audioIn stream).got.filter fun g => g.1 == cyc && byteAt g.2 1 == b2n n.aud.global.rate16 with
    | some g => (n.at time).putAudioIn { n.audioIn stream with
        decided := some cyc, silent := false, playAt := some (beAt g.2 4 8 + (n.at time).playDelay e) }
    | none => (((n.at time).putAudioIn { n.audioIn stream with decided := some cyc, silent := true }).inc Reg.AUD_GAP_CNT).raiseCounted
        0x5105 stream n.tc stream) := by
  have he' : (s.node.at time).strmLive stream = e := he.symm
  have hdest' : (s.node.at time).isDest e = true := hdest
  refine exec_on_eq rfl ?_
  dsimp only
  rw [he', hdue, if_neg (by rw [hvalid, hdest', hcls]; decide)]
  exact if_neg hnew

theorem exec_audioInstanceDecision_gap (hgot : (s.node.audioIn stream).got = none) :
    exec (.audioInstanceDecision stream time) s = .next (s.on fun n =>
      ((((n.at time).putAudioIn { n.audioIn stream with decided := some cyc, silent := true }).inc Reg.AUD_GAP_CNT).raiseCounted
        0x5105 stream n.tc stream)) := by
  refine exec_on_eq (exec_audioInstanceDecision he hvalid hcls hdest hdue hnew) ?_
  dsimp only
  rw [hgot, Option.filter_none]

theorem exec_audioInstanceDecision_plays {p : List Byte} (hgot : (s.node.audioIn stream).got = some (cyc, p))
    (hrate : byteAt p 1 = b2n s.node.aud.global.rate16) :
    exec (.audioInstanceDecision stream time) s = .next (s.on fun n =>
      (n.at time).putAudioIn { n.audioIn stream with
        decided := some cyc, silent := false, playAt := some (beAt p 4 8 + (n.at time).playDelay e) }) := by
  have hkept : ((s.node.audioIn stream).got.filter fun g => g.1 == cyc && byteAt g.2 1 == b2n s.node.aud.global.rate16) =
      some (cyc, p) := by
    simp [hgot, hrate]
  refine exec_on_eq (exec_audioInstanceDecision he hvalid hcls hdest hdue hnew) ?_
  dsimp only
  rw [hkept]

end

section
variable {s : State} {time : Nat}

theorem exec_audioInstanceDecision_not {stream : Nat} (h : (s.node.at time).audioDue (s.node.strmLive stream) = none ∨
      (s.node.at time).audioDue (s.node.strmLive stream) = (s.node.audioIn stream).decided) :
    exec (.audioInstanceDecision stream time) s = .next (s.on fun n => n.at time) := by
  have he : (s.node.at time).strmLive stream = s.node.strmLive stream := rfl
  have hin : (s.node.at time).audioIn stream = s.node.audioIn stream := rfl
  refine exec_on_eq rfl ?_
  dsimp only
  rw [he, hin]
  split
  · rfl
  · rcases h with hnone | hsame
    · rw [hnone]
    · cases hdue : (s.node.at time).audioDue (s.node.strmLive stream) with
      | none => rfl
      | some cyc => exact if_pos (hsame.symm.trans hdue)

theorem exec_graphOverload {engine : Nat} (h : engine < 8) : exec (.graphOverload engine time) s = .next (s.on fun n =>
    let k := (n.at time).inc (Reg.AUD_SE_MISS engine)
    k.raise 0x520E engine (k.reg (Reg.AUD_SE_MISS engine)).toNat) :=
  exec_on_eq rfl (if_pos h)

theorem exec_tdmClockFault {port : Nat} (hport : port < 4) (hfitted : s.node.bit Reg.AUD_CFG (4 + port) = true)
    (hslave : s.node.fld (Reg.AUD_TDM_CFG port) Fld.AUD_TDM_CFG_MASTER = 0) :
    exec (.tdmClockFault port time) s = .next (s.on fun n =>
      ((n.at time).inc (Reg.AUD_TDM_SLIP port)).raiseCounted 0x510D port n.tc port) :=
  exec_on_eq rfl (if_pos ⟨hport, hfitted, hslave⟩)

/-! ### Element parameters (R496) -/

theorem exec_audParamSet {c : Cmd} {x : Element} {width : Nat} {lo hi : Int} {ps : List (Nat × Nat × Int × Int)}
    (h : s.node.takesService c 0x0506 6 = true)
    (hx : (s.node.aud.elements.find? fun x => x.graph == arg c 0 % 256 && x.elem == arg c 0 / 256 % 256) = some x)
    (hps : elementParams x.type = some ps) (hp : (ps.find? fun p => p.1 == arg c 1) = some (arg c 1, width, lo, hi)) (hlo : 0 ≤ lo)
    (harg : arg c 0 < 65536) (hkind : arg c 3 = 1) (hfits : arg c 2 = leAt (encLE 4 (arg c 2)) 0 width)
    (hok : paramOk x.type (arg c 1) width lo hi (encLE 4 (arg c 2)) = true) :
    exec (.audParamSet c) s = .next (s.on fun n =>
      { n.at c.time with aud := { n.aud with params := n.aud.params ++ [ParamSet.mk (arg c 0 % 256) (arg c 0 / 256 % 256) (arg c 1)
        width (arg c 2) (arg c 4 + arg c 5 * 2 ^ 32)] } }.completes c sOk []) := by
  have hx' : ((s.node.at c.time).aud.elements.find? fun x => x.graph == arg c 0 % 256 && x.elem == arg c 0 / 256 % 256) = some x := hx
  refine exec_serves rfl rfl h ?_
  dsimp only
  rw [hx', Option.bind_some, hps, Option.bind_some, hp]
  dsimp only [Option.map_some]
  rw [if_neg (show ¬ lo < 0 by omega), beq_iff_eq.mpr hfits, hok, hkind, if_neg (by simp; omega), if_neg (by decide)]
  rfl

theorem paramApply_applies {p : ParamSet} (hp : s.node.aud.params = [p])
    (hdue : (s.node.at time).blockFrom p.sample ≤ (s.node.at time).sampleNow) :
    ∃ t : State, exec (.paramApply time) s = .next t ∧ t.node.aud.params = [] ∧ t.node.aud.elements =
      s.node.aud.elements.map fun e => if e.graph == p.graph && e.elem == p.elem then e.put p.offset p.width p.value else e := by
  have hp' : (s.node.at time).aud.params = [p] := hp
  refine ⟨_, rfl, ?_⟩
  rw [State.on_node]
  dsimp only
  rw [hp']
  simp only [List.filter_cons, List.filter_nil, decide_eq_true hdue, if_true, Bool.not_true, Bool.false_eq_true, if_false,
    List.foldl_cons, List.foldl_nil]
  exact ⟨trivial, rfl⟩

/-! ### The library (R509, R510) -/

/-- Every byte of a library entry has been written. -/
def Node.libFull (n : Node) (id : Nat) : Bool :=
  match n.libEntry id with
  | some x => x.count == x.len
  | none => false

/-- A write to the library ends with whether its entry is full. -/
theorem settle_libWrite (c : Cmd) (m : Node) (a id : Nat) (bytes : List Byte) :
    Node.settle c (
      let k := (m.dramWrite a bytes).libTouched a bytes.length
      let full := match k.libEntry id with
        | some x => x.count == x.len
        | none => false
      .done k sOk [word (b2n full)]) =
    ((m.dramWrite a bytes).libTouched a bytes.length).completes c sOk
      [word (b2n (((m.dramWrite a bytes).libTouched a bytes.length).libFull id))] := rfl

theorem audLibWrite_writes {c : Cmd} {e : LibEntry} {bytes : List Byte} (h : s.node.takesService c 0x0507 6 = true)
    (he : s.node.libEntry (arg c 0) = some e) (hlen : arg c 1 + arg c 2 ≤ e.len)
    (hbytes : s.node.sourceBytes c (arg c 3) (arg c 4 + arg c 5 * 2 ^ 32) (arg c 2) = some bytes) :
    ∃ full : Nat, exec (.audLibWrite c) s = .next (s.on fun n =>
      let a := (n.region 1).1 + e.offset + arg c 1
      (((n.at c.time).dramWrite a bytes).libTouched a bytes.length).completes c sOk [word full]) := by
  have he' : (s.node.at c.time).libEntry (arg c 0) = some e := he
  have hbytes' : (s.node.at c.time).sourceBytes c (arg c 3) (arg c 4 + arg c 5 * 2 ^ 32) (arg c 2) = some bytes := hbytes
  refine ⟨b2n ((((s.node.at c.time).dramWrite ((s.node.region 1).1 + e.offset + arg c 1) bytes).libTouched
    ((s.node.region 1).1 + e.offset + arg c 1) bytes.length).libFull e.id), exec_serves rfl rfl h ?_⟩
  rw [he']
  dsimp only
  rw [if_neg (by omega), hbytes', show (s.node.at c.time).region 1 = s.node.region 1 from rfl]
  exact settle_libWrite c (s.node.at c.time) _ e.id bytes

theorem exec_audLibInfo {c : Cmd} {e : LibEntry} (h : s.node.takesService c 0x0508 1 = true) (he : s.node.libEntry (arg c 0) = some e) :
    exec (.audLibInfo c) s = .next (s.on fun n => (n.at c.time).completes c sOk
      [word (e.id + e.format * 65536 + e.rate * 2 ^ 24), word e.samples, word e.len, word e.crc, word e.gain,
       word (b2n e.valid + b2n e.unverified * 2)]) := by
  have he' : (s.node.at c.time).libEntry (arg c 0) = some e := he
  refine exec_serves rfl rfl h ?_
  rw [he']
  rfl

theorem exec_audStatus {c : Cmd} (h : s.node.takes c 0x0501 (.inst instAud) 0 = true) (hon : s.node.bit Reg.TOP_PD_STATE 4 = true) :
    exec (.audStatus c) s = .next (s.on fun n =>
      let k := (n.at c.time).audRefresh
      k.completes c sOk [k.reg Reg.AUD_STAT, k.reg Reg.AUD_PA_ACTIVE, k.reg Reg.AUD_CALLS, k.reg Reg.AUD_SAMPLE_LO,
        k.reg Reg.AUD_SAMPLE_HI]) := by
  have hon' : (s.node.at c.time).bit Reg.TOP_PD_STATE 4 = true := hon
  exact exec_settles rfl rfl h ((congrArg (Node.settle c) (if_neg (by rw [hon']; decide))).trans rfl)

/-- A list of which the elements that a test finds are changed and still found. -/
theorem find?_map_if {α : Type} (l : List α) (p : α → Bool) (f : α → α) {x : α} (hx : l.find? p = some x)
    (hf : ∀ y, p y = true → p (f y) = true) : (l.map fun y => if p y then f y else y).find? p = some (f x) := by
  have hp : (p ∘ fun y => if p y then f y else y) = p := by
    funext y
    by_cases hy : p y
    · simp [hy, hf y hy]
    · simp [hy]
  have hfound := List.find?_some hx
  rw [List.find?_map, hp, hx, Option.map_some, if_pos hfound]

theorem Node.aud_chkLibrary {n : Node} {addr len crc : Nat} {data : List Byte} (hcrc : crc32c data = crc) :
    (n.chkLibrary addr len data crc).aud = n.aud := by
  unfold Node.chkLibrary
  extract_lets run m k
  have hk : k.aud = n.aud := rfl
  rw [if_pos (show crcResult 0 run = crc from hcrc), hk]

theorem libraryVerify_holds {entry : Nat} {e : LibEntry} (he : s.node.libEntry entry = some e) (hnew : e.unverified = true)
    (hcrc : crc32c (s.node.dramRead ((s.node.region 1).1 + e.offset) e.len) = e.crc) :
    ∃ t : State, exec (.libraryVerify entry time) s = .next t ∧
      ∃ x, t.node.libEntry entry = some x ∧ x.valid = true ∧ x.unverified = false := by
  have he' : (s.node.at time).libEntry entry = some e := he
  have hcrc' : crc32c ((s.node.at time).dramRead (((s.node.at time).region 1).1 + e.offset) e.len) = e.crc := hcrc
  refine ⟨s.on fun n => (((n.at time).chkLibrary (((n.at time).region 1).1 + e.offset) e.len
    ((n.at time).dramRead (((n.at time).region 1).1 + e.offset) e.len) e.crc).onLib entry fun x =>
      { x with valid := true, unverified := false }).syncLib, exec_on_eq rfl ?_, { e with valid := true, unverified := false }, ?_, rfl, rfl⟩
  · dsimp only
    rw [he']
    dsimp only
    rw [hnew, beq_iff_eq.mpr hcrc']
    rfl
  · rw [State.on_node]
    refine (find?_map_if _ (fun x : LibEntry => x.id == entry) (fun x => { x with valid := true, unverified := false }) (x := e) ?_
      fun _ h => h)
    rw [Node.aud_chkLibrary hcrc']
    exact he

/-! ### AAF on car ports (R489 to R491) -/

section
variable {r : Rx} {f : AafStream} (hchecks : ((s.node.meets r).rxFail r).isNone = true)
  (hf : ((s.node.heard r).aud.aafs.find? fun f => !f.output && f.port + 4 == r.port && f.talker == beAt r.frame.body 4 8) = some f)
  (htype : r.frame.etype = aafType) (hroom : frameCells r.frame ≤ r.room)
include hchecks hf htype hroom

/-- A PDU taken on its port. -/
def Node.takeAaf (g : Node) (b : List Byte) (f : AafStream) : Node :=
  if g.aafBad b then g.inc Reg.AUD_AAF_DROP
  else
    let d := (BitVec.ofInt 32 ((beAt b 12 4 : Int) - g.trainNs)).toInt
    if d < -(2 * (g.tc : Int)) ∨ 16 * (g.tc : Int) < d then (g.inc Reg.AUD_AAF_DROP).raiseCounted 0x510F f.index g.tc f.index
    else
      let k := ((((g.trainNs + d) * g.fs + 500000000) / 1000000000) : Int).toNat
      let samples := (b.drop 24).take (beAt b 20 2)
      { g with aud := { g.aud with aafs := g.aud.aafs.map fun x =>
        if x.index == f.index then { x with placed := some (k, samples) } else x } }

theorem exec_aafPduReceived :
    exec (.aafPduReceived r) s = .next (s.on fun n => (n.heard r).takeAaf r.frame.body f) := by
  have hchecks' : ((s.node.at r.stamp).echoBack r).rxFail r = none := Option.isNone_iff_eq_none.mp hchecks
  have hf' : ((((s.node.at r.stamp).echoBack r).rxGood r).aud.aafs.find? fun f =>
    !f.output && f.port + 4 == r.port && f.talker == beAt r.frame.body 4 8) = some f := hf
  refine exec_on_eq rfl ?_
  dsimp only
  rw [hchecks']
  dsimp only
  rw [hf']
  exact (if_neg (not_not_intro htype)).trans (if_neg (by omega))

theorem exec_aafPduReceived_bad (hbad : (s.node.heard r).aafBad r.frame.body = true) :
    exec (.aafPduReceived r) s = .next (s.on fun n => (n.heard r).inc Reg.AUD_AAF_DROP) :=
  exec_on_eq (exec_aafPduReceived hchecks hf htype hroom) (if_pos hbad)

theorem aafPduReceived_places (hgood : (s.node.heard r).aafBad r.frame.body = false) {d : Int}
    (hd : d = (BitVec.ofInt 32 ((beAt r.frame.body 12 4 : Int) - (s.node.heard r).trainNs)).toInt)
    (hlo : -(2 * ((s.node.heard r).tc : Int)) ≤ d) (hhi : d ≤ 16 * ((s.node.heard r).tc : Int)) :
    ∃ t : State, exec (.aafPduReceived r) s = .next t ∧ ∃ x ∈ t.node.aud.aafs, x.index = f.index ∧
      x.placed.map (·.2) = some ((r.frame.body.drop 24).take (beAt r.frame.body 20 2)) := by
  refine ⟨_, exec_aafPduReceived hchecks hf htype hroom, ?_⟩
  rw [State.on_node, Node.takeAaf, if_neg (by rw [hgood]; decide)]
  dsimp only
  rw [← hd, if_neg (by omega)]
  refine ⟨_, List.mem_map_of_mem (List.mem_of_find?_eq_some hf), ?_⟩
  rw [beq_self_eq_true, if_pos rfl]
  exact ⟨rfl, rfl⟩

end

section
variable (f : AafStream) (p first : Nat)

/-- The sending of the PDUs of a cycle, one after another. -/
def aafSends (a : Node × Nat) (x : Nat × Nat) : Node × Nat :=
  let (k, fr) := a.1.aafPdu f a.2 (first + x.1) x.2
  (k.sendGated p 6 fr, (a.2 + 1) % 256)

theorem aafSends_leaves (l : List (Nat × Nat)) (a : Node × Nat) : (l.foldl (aafSends f p first) a).1.aud = a.1.aud ∧
    (a.2 < 256 → (l.foldl (aafSends f p first) a).2 = (a.2 + l.length) % 256) := by
  induction l generalizing a with
  | nil => exact ⟨rfl, fun h => (Nat.mod_eq_of_lt h).symm⟩
  | cons x xs ih =>
    obtain ⟨haud, hseq⟩ := ih (aafSends f p first a x)
    have hsends : (a.1.aafPdu f a.2 (first + x.1) x.2).1.Sends
        ((a.1.aafPdu f a.2 (first + x.1) x.2).1.sendGated p 6 (a.1.aafPdu f a.2 (first + x.1) x.2).2) :=
      Node.Sends.sendFrom _ _ _ _ (by decide)
    refine ⟨haud.trans ?_, fun h => ?_⟩
    · obtain ⟨_, _, _, hstores⟩ := hsends.stores
      exact (congrArg Node.aud hstores).trans rfl
    · rw [List.foldl_cons, hseq (Nat.mod_lt _ (by decide)), show (aafSends f p first a x).2 = (a.2 + 1) % 256 from rfl, List.length_cons]
      omega

end

/-- An output stream of which the PDUs of the cycle have been sent. -/
def Node.aafSent (m : Node) (index : Nat) (f : AafStream) : Node :=
  let a := (aafParts (m.tc * m.fs / 1000000000) (m.fs / 1000)).foldl
    (aafSends f (f.port + 4) (m.sampleFrom (((m.cycleNow + 2) * m.tc : Nat) : Int))) (m, f.seq)
  { a.1 with aud := { a.1.aud with aafs := a.1.aud.aafs.map fun x => if x.output && x.index == index then
    { x with seq := a.2, sentCyc := some m.cycleNow } else x } }

/-- The stream sent shows its next sequence and the cycle. -/
theorem Node.aafSent_shows {m : Node} {index : Nat} {f : AafStream}
    (hf : (m.aud.aafs.find? fun f => f.output && f.index == index) = some f) (hseq : f.seq < 256) :
    ((m.aafSent index f).aud.aafs.find? fun f => f.output && f.index == index).map (fun x => (x.seq, x.sentCyc)) =
      some ((f.seq + (aafParts (m.tc * m.fs / 1000000000) (m.fs / 1000)).length) % 256, some m.cycleNow) := by
  obtain ⟨haud, hcount⟩ := aafSends_leaves f (f.port + 4) (m.sampleFrom (((m.cycleNow + 2) * m.tc : Nat) : Int))
    (aafParts (m.tc * m.fs / 1000000000) (m.fs / 1000)) (m, f.seq)
  unfold Node.aafSent
  extract_lets a
  have hfound := find?_map_if a.1.aud.aafs (fun f : AafStream => f.output && f.index == index)
    (fun x => { x with seq := a.2, sentCyc := some m.cycleNow }) (x := f) ((congrArg (fun aud : AudState =>
      aud.aafs.find? fun f => f.output && f.index == index) haud).trans hf) fun _ h => h
  refine (congrArg (Option.map fun x : AafStream => (x.seq, x.sentCyc)) hfound).trans ?_
  rw [Option.map_some, ← hcount hseq]

section
variable {index : Nat} {f : AafStream} (hf : (s.node.aud.aafs.find? fun f => f.output && f.index == index) = some f)
include hf

theorem exec_aafPduSend_again (hsent : f.sentCyc = some (s.node.at time).cycleNow) :
    exec (.aafPduSend index time) s = .next (s.on fun n => n.at time) := by
  have hf' : ((s.node.at time).aud.aafs.find? fun f => f.output && f.index == index) = some f := hf
  refine exec_on_eq rfl ?_
  dsimp only
  rw [hf']
  exact if_pos (.inr (.inr (.inr hsent)))

theorem aafPduSend_sends (hrun : s.node.instants = true) (hsends : s.node.carSends (f.port + 4) = true)
    (hservice : (s.node.at time).timeService (f.port + 4) ≠ 0) (hnew : f.sentCyc ≠ some (s.node.at time).cycleNow) (hseq : f.seq < 256) :
    ∃ t : State, exec (.aafPduSend index time) s = .next t ∧
      (t.node.aud.aafs.find? fun f => f.output && f.index == index).map (fun x => (x.seq, x.sentCyc)) =
        some ((f.seq + (aafParts (s.node.tc * s.node.fs / 1000000000) (s.node.fs / 1000)).length) % 256,
          some (s.node.at time).cycleNow) := by
  have hf' : ((s.node.at time).aud.aafs.find? fun f => f.output && f.index == index) = some f := hf
  have hrun' : (s.node.at time).instants = true := hrun
  have hsends' : (s.node.at time).carSends (f.port + 4) = true := hsends
  refine ⟨s.on fun n => (n.at time).aafSent index f, exec_on_eq rfl ?_, ?_⟩
  · dsimp only
    rw [hf']
    refine (if_neg ?_).trans rfl
    rw [hrun', hsends']
    rintro (hbad | hbad | hbad | hbad)
    · exact absurd hbad (by decide)
    · exact absurd hbad (by decide)
    · exact hservice hbad
    · exact hnew hbad
  · rw [State.on_node]
    exact Node.aafSent_shows hf' hseq

end

end

/-- Settles O50. -/
theorem audioStreamsAndTheLibraryAct : Obligations.AudioStreamsAndTheLibraryAct :=
  ⟨fun _ _ _ _ _ he hvalid hcls hdest hdue hnew => ⟨exec_audioInstanceDecision_gap he hvalid hcls hdest hdue hnew,
      fun _ => exec_audioInstanceDecision_plays he hvalid hcls hdest hdue hnew⟩,
    fun _ _ _ => exec_audioInstanceDecision_not, fun _ _ _ => exec_graphOverload, fun _ _ _ => exec_tdmClockFault,
    fun _ _ _ _ _ _ _ h hx hps hp hlo harg hkind hfits hok => exec_audParamSet h hx hps hp hlo harg hkind hfits hok,
    fun _ _ _ => paramApply_applies, fun _ _ _ _ => audLibWrite_writes, fun _ _ _ _ => libraryVerify_holds,
    fun _ _ _ => exec_audLibInfo, fun _ _ => exec_audStatus,
    fun _ _ _ hchecks hf htype hroom => ⟨exec_aafPduReceived_bad hchecks hf htype hroom,
      fun hgood _ => aafPduReceived_places hchecks hf htype hroom hgood⟩,
    fun _ _ _ _ hf hrun hsends hservice => ⟨aafPduSend_sends hf hrun hsends hservice, exec_aafPduSend_again hf⟩⟩

end Sys2Proof.Machine
end

section
/-! PROOF. Intercom calls and their recordings (R511 to R518, R521). -/

namespace Sys2Proof.Machine

section
variable {s : State} {time : Nat}

theorem exec_callMessageReceived {r : Rx} {src : NumEntry} (h : s.node.getsMsg r src = true)
    (hservice : s.node.svcRange (decodeHdr r.frame.body).sid = true) :
    exec (.callMessageReceived r) s = .next (s.on fun n =>
      (n.gotMsg r src).serviceMsg ⟨(decodeHdr r.frame.body).sid, src.identity, payloadOf r.frame.body⟩) :=
  exec_on_eq (f := fun n => n.msgFrame r n.svcRange Node.serviceMsg) rfl (Node.msgFrame_gets h hservice _)

/-! ### The registers that show the calls -/

theorem Node.aud_syncCalls (n : Node) : n.syncCalls.aud = n.aud := by
  unfold Node.syncCalls
  extract_lets live queued m k
  refine (foldl_keeps (fun x : Node => x.aud) _ _ k fun x i => ?_).trans rfl
  dsimp only
  split
  · exact Node.setRegs_aud _ _ _
  · exact Node.setRegs_aud _ _ _

theorem Node.recFull_syncCalls (n : Node) :
    n.syncCalls.fld Reg.AUD_STAT Fld.AUD_STAT_REC_FULL = n.fld Reg.AUD_STAT Fld.AUD_STAT_REC_FULL := by
  unfold Node.syncCalls
  extract_lets live queued m k
  refine (foldl_keeps (fun x : Node => x.fld Reg.AUD_STAT Fld.AUD_STAT_REC_FULL) _ _ k fun x i => ?_).trans ?_
  · have hout : ∀ vs, (x.setRegs (Reg.AUD_CALL_STAT i) vs).fld Reg.AUD_STAT Fld.AUD_STAT_REC_FULL =
        x.fld Reg.AUD_STAT Fld.AUD_STAT_REC_FULL := fun vs =>
      congrArg Fld.AUD_STAT_REC_FULL.get (Node.reg_setRegs_out vs x _ _ (.inl (by simp only [Reg.AUD_STAT, Reg.AUD_CALL_STAT]; omega)))
    dsimp only
    split
    · exact hout _
    · exact hout _
  · show (Node.setFld _ _ _ _).fld _ _ = _
    rw [Node.fld_setFld_ne _ _ _ _ _ (by decide) (by decide), Node.fld_setReg_other _ _ _ (by decide), Node.fld_setReg_other _ _ _ (by decide)]

/-! ### Requests and escalation (R515) -/

section
variable (hholder : s.node.holder = true) (hon : s.node.servicesOn = true)
include hholder hon

theorem exec_callRequestRepeat {station : Nat} {c : Call} (hc : (s.node.aud.mine.find? fun c => c.station == station && c.state == 1 &&
      decide (c.since + 1000000000 ≤ max s.node.tm.raw time)) = some c) :
    exec (.callRequestRepeat station time) s = .next (s.on fun n =>
      ((n.at time).onMine c fun x => { x with since := max n.tm.raw time }).callSend c 8 0) := by
  have hc' : ((s.node.at time).aud.mine.find? fun c => c.station == station && c.state == 1 &&
      decide (c.since + 1000000000 ≤ (s.node.at time).tm.raw)) = some c := hc
  have hholder' : (s.node.at time).holder = true := hholder
  have hon' : (s.node.at time).servicesOn = true := hon
  refine exec_on_eq rfl ?_
  dsimp only
  rw [hc']
  refine (if_pos ?_).trans rfl
  rw [hholder', hon']
  rfl

theorem exec_callEscalated {pair station counter : Nat} {c : Call} (hc : (s.node.aud.calls.find? fun c => c.is pair station counter &&
      c.state == 2 && !c.esc && decide (c.since + s.node.aud.global.escalation * 1000000000 ≤ max s.node.tm.raw time)) = some c) :
    exec (.callEscalated pair station counter time) s = .next (s.on fun n =>
      ((((n.at time).onCall c fun x => { x with esc := true }).raise 0x510A c.pair c.detail).svcSend
        ({ c with esc := true }.bytes 8 0)).syncCalls) := by
  have hc' : ((s.node.at time).aud.calls.find? fun c => c.is pair station counter && c.state == 2 && !c.esc &&
      decide (c.since + (s.node.at time).aud.global.escalation * 1000000000 ≤ (s.node.at time).tm.raw)) = some c := hc
  have hholder' : (s.node.at time).holder = true := hholder
  have hon' : (s.node.at time).servicesOn = true := hon
  refine exec_on_eq rfl ?_
  dsimp only
  rw [hc']
  refine (if_neg ?_).trans rfl
  rw [hholder', hon']
  decide

end

/-! ### Recordings (R517, R518) -/

/-- A recording of which a block has ended goes on with the next one. -/
def Recording.stepped (r : Recording) (full : Nat) (x : Recording) : Recording :=
  if x.pair == r.pair && x.station == r.station && x.counter == r.counter then
    { x with next := x.next + full, block := x.block + 1 } else x

/-- The recordings after a block of one of them. -/
def Node.recorded (m : Node) (r : Recording) : Node :=
  { m with aud := { m.aud with recordings := m.aud.recordings.map (r.stepped (m.fs / 4)) } }

theorem Node.aud_dramWrite (n : Node) (a : Nat) (bs : List Byte) : (n.dramWrite a bs).aud = n.aud := by
  obtain ⟨regs, spoilt, h⟩ := n.injWords_eq_withSealed 0 (a / 64) ((a + bs.length + 63) / 64 - a / 64) 3 4
    ((n.reg Reg.TST_INJ_TARGET).toNat % 2 ^ 27) 9
  show (n.injWords 0 (a / 64) ((a + bs.length + 63) / 64 - a / 64) 3 4 ((n.reg Reg.TST_INJ_TARGET).toNat % 2 ^ 27) 9).aud = n.aud
  rw [h]
  rfl

/-- The slot that a written block takes. -/
theorem Node.slot_writeBlock (n : Node) (slot : Nat) (r : Recording) (frames : Nat) (last : Bool) :
    RecSlot.mk slot r.pair r.station r.counter r.block false ∈ (n.writeBlock slot r frames last).aud.slots := by
  unfold Node.writeBlock Node.syncRec
  dsimp only
  rw [Node.setReg_aud, Node.setReg_aud]
  exact List.mem_append_right _ (List.mem_singleton.mpr rfl)

section
variable {station : Nat} {r : Recording} (hr : (s.node.aud.recordings.find? fun r => r.station == station) = some r)
  (hgoes : r.fin = none) (hdue : r.next + s.node.fs / 4 ≤ (s.node.at time).sampleNow)
include hr hgoes hdue

theorem exec_recordingBlockWrite_standby (hstandby : s.node.holder = false) :
    exec (.recordingBlockWrite station time) s = .next (s.on fun n => (n.at time).recorded r) := by
  refine exec_on_eq rfl ?_
  extract_lets +onlyGivenNames m
  split
  · next hnone => exact nomatch hnone.symm.trans hr
  next r' hsome =>
  obtain rfl := Option.some.inj (hsome.symm.trans hr)
  refine (if_neg ?_).trans ((if_pos ?_).trans ?_)
  · rw [hgoes]
    exact Nat.not_lt.mpr hdue
  · exact (Bool.not_eq_true' _).mpr hstandby
  · rw [hgoes]
    rfl

theorem exec_recordingBlockWrite_holder {slot : Nat} (hholder : s.node.holder = true) (hslot : s.node.nextRec = some slot) :
    exec (.recordingBlockWrite station time) s = .next (s.on fun n => ((((n.at time).recorded r).writeBlock slot r
      (n.fs / 4) false).setFld Reg.AUD_STAT Fld.AUD_STAT_REC_FULL 0).syncCalls) := by
  refine exec_on_eq rfl ?_
  extract_lets +onlyGivenNames m
  split
  · next hnone => exact nomatch hnone.symm.trans hr
  next r' hsome =>
  obtain rfl := Option.some.inj (hsome.symm.trans hr)
  refine (if_neg ?_).trans ((if_neg ?_).trans ?_)
  · rw [hgoes]
    exact Nat.not_lt.mpr hdue
  · rw [show m.holder = true from hholder]
    exact Bool.false_ne_true
  rw [hgoes]
  split
  · next slot' hslot' =>
    obtain rfl := Option.some.inj (hslot'.symm.trans hslot)
    rfl
  · next hnone => exact nomatch hnone.symm.trans hslot

theorem recordingBlockWrite_counts (hstandby : s.node.holder = false) :
    ∃ t : State, exec (.recordingBlockWrite station time) s = .next t ∧
      t.node.aud.recordings = s.node.aud.recordings.map fun x =>
        if x.pair == r.pair && x.station == r.station && x.counter == r.counter then
          { x with next := x.next + s.node.fs / 4, block := x.block + 1 } else x := by
  refine ⟨_, exec_recordingBlockWrite_standby hr hgoes hdue hstandby, ?_⟩
  rw [State.on_node]
  rfl

theorem recordingBlockWrite_writes {slot : Nat} (hholder : s.node.holder = true) (hslot : s.node.nextRec = some slot) :
    ∃ t : State, exec (.recordingBlockWrite station time) s = .next t ∧
      (∃ x ∈ t.node.aud.slots, x.slot = slot ∧ x.pair = r.pair ∧ x.block = r.block ∧ x.prot = false) ∧
      t.node.fld Reg.AUD_STAT Fld.AUD_STAT_REC_FULL = 0 := by
  refine ⟨_, exec_recordingBlockWrite_holder hr hgoes hdue hholder hslot,
    ⟨RecSlot.mk slot r.pair r.station r.counter r.block false, ?_, rfl, rfl, rfl, rfl⟩, ?_⟩
  · rw [State.on_node, Node.aud_syncCalls, Node.setFld_aud]
    exact Node.slot_writeBlock _ _ _ _ _
  · rw [State.on_node, Node.recFull_syncCalls, Node.fld_setFld_self _ _ _ _ (by decide), Nat.zero_mod]

end

end

/-! ### Call commands (R515, R519, R521) -/

section
variable {s : State} {c : Cmd}

theorem exec_callStatus (h : s.node.takes c 0x0601 (.inst instAud) 1 = true) (hon : s.node.bit Reg.TOP_PD_STATE 4 = true)
    (hslot : arg c 0 < 16) :
    exec (.callStatus c) s = .next (s.on fun n => (n.at c.time).completes c sOk (n.getRegs (Reg.AUD_CALL_STAT (arg c 0)) 5)) := by
  refine exec_settles rfl rfl h (congrArg (Node.settle c) ((if_neg ?_).trans (if_neg (Nat.not_le.mpr hslot))))
  rw [show (s.node.at c.time).bit Reg.TOP_PD_STATE 4 = true from hon]
  exact Bool.false_ne_true

theorem exec_callAnswer {x : Call} (h : s.node.takesService c 0x0602 3 = true)
    (hstation : (s.node.aud.stations.any fun x => x.cab && x.index == arg c 2) = true) (hcab : s.node.isCab = true)
    (hholder : s.node.holder = true) (hany : arg c 0 = 0) (hx : s.node.oldestRinging = some x) :
    exec (.callAnswer c) s = .next (s.on fun n => ((n.at c.time).answer_ x (arg c 2)).completes c sOk []) := by
  have hx' : (s.node.at c.time).oldestRinging = some x := hx
  refine exec_serves rfl rfl h ((congrArg (Node.settle c) ((if_neg ?_).trans (if_neg ?_))).trans ?_)
  · rw [show ((s.node.at c.time).aud.stations.any fun x => x.cab && x.index == arg c 2) = true from hstation]
    exact Bool.false_ne_true
  · rw [show (s.node.at c.time).isCab = true from hcab, show (s.node.at c.time).holder = true from hholder]
    exact Bool.false_ne_true
  · rw [if_pos hany, hx']
    rfl

section
variable {x : Call} (hholder : s.node.holder = true)
include hholder

theorem exec_callHold (h : s.node.takesService c 0x0603 2 = true)
    (hx : (s.node.aud.calls.find? fun x => handleIs c x && x.state == 3) = some x) :
    exec (.callHold c) s = .next (s.on fun n => ((n.at c.time).callSend x 10 0).completes c sOk []) := by
  have hx' : ((s.node.at c.time).aud.calls.find? fun x => handleIs c x && x.state == 3) = some x := hx
  refine exec_serves rfl rfl h ?_
  rw [hx']
  dsimp only
  rw [if_pos (show (s.node.at c.time).holder = true from hholder)]
  rfl

theorem exec_callEnd_cab (h : s.node.takesService c 0x0604 2 = true) (hx : s.node.aud.calls.find? (handleIs c) = some x) :
    exec (.callEnd c) s = .next (s.on fun n => ((n.at c.time).callSend x 11 1).completes c sOk []) := by
  have hx' : (s.node.at c.time).aud.calls.find? (handleIs c) = some x := hx
  refine exec_serves rfl rfl h ?_
  rw [hx']
  dsimp only
  rw [if_pos (show (s.node.at c.time).holder = true from hholder)]
  rfl

theorem exec_callEnd_station (h : s.node.takesService c 0x0604 2 = true) (hnone : s.node.aud.calls.find? (handleIs c) = none)
    (hx : s.node.aud.mine.find? (handleIs c) = some x) :
    exec (.callEnd c) s = .next (s.on fun n => ((n.at c.time).callSend x 11 2).completes c sOk []) := by
  have hnone' : (s.node.at c.time).aud.calls.find? (handleIs c) = none := hnone
  have hx' : (s.node.at c.time).aud.mine.find? (handleIs c) = some x := hx
  refine exec_serves rfl rfl h ?_
  rw [hnone', hx']
  dsimp only
  rw [if_pos (show (s.node.at c.time).holder = true from hholder)]
  rfl

end

theorem exec_callCabSet (h : s.node.takesService c 0x0605 1 = true) (hzero : arg c 0 = 0) :
    exec (.callCabSet c) s = .next (s.on fun n =>
      ({ n.at c.time with aud := { n.aud with cabSet := 0 } }.cabChanged).completes c sOk []) := by
  refine exec_serves rfl rfl h ((congrArg (Node.settle c) (if_neg (not_and_of_not_left _ (not_not_intro hzero)))).trans ?_)
  rw [hzero]
  rfl

/-- A slot of a recording is protected or not. -/
def RecSlot.marked (mine : List RecSlot) (on : Bool) (x : RecSlot) : RecSlot := if mine.contains x then { x with prot := on } else x

/-- The flag of a recording's slot is written to its header. -/
def Node.flagSlot (on : Bool) (k : Node) (x : RecSlot) : Node :=
  k.dramWrite ((k.region 2).1 + x.slot * 49152 + 0x1D)
    [BitVec.ofNat 8 (withBits (byteAt (k.dramRead ((k.region 2).1 + x.slot * 49152 + 0x1D) 1) 0) 1 1 (b2n on))]

/-- The node after the slots of a recording have been marked in their headers. -/
def Node.flagged (m : Node) (mine : List RecSlot) (on : Bool) : Node :=
  mine.foldl (Node.flagSlot on) { m with aud := { m.aud with slots := m.aud.slots.map (RecSlot.marked mine on) } }

theorem Node.aud_flagged (m : Node) (mine : List RecSlot) (on : Bool) :
    (m.flagged mine on).aud.slots = m.aud.slots.map (RecSlot.marked mine on) :=
  congrArg (·.slots) (foldl_keeps (fun k : Node => k.aud) mine (Node.flagSlot on) _ fun k _ => Node.aud_dramWrite k _ _)

theorem callRecProtect_marks (h : s.node.takesService c 0x0606 3 = true) (hsome : s.node.recOfCall c ≠ []) (hon : arg c 2 = 1) :
    ∃ k : Node, exec (.callRecProtect c) s = .next (s.on fun _ => k.completes c sOk [word (s.node.recOfCall c).length]) ∧
      k.aud.slots = s.node.aud.slots.map fun x => if (s.node.recOfCall c).contains x then { x with prot := true } else x := by
  have hon' : (arg c 2 == 1) = true := beq_iff_eq.mpr hon
  refine ⟨((s.node.at c.time).flagged (s.node.recOfCall c) true).syncRec,
    exec_serves rfl rfl h ((congrArg (Node.settle c) (if_neg ?_)).trans ?_), ?_⟩
  · rintro (hempty | hbig)
    · exact hsome (List.isEmpty_iff.mp hempty)
    · omega
  · exact congrArg (fun k : Node => k.syncRec.completes c sOk [word (s.node.recOfCall c).length])
      ((if_pos hon').trans (congrArg (Node.flagged (s.node.at c.time) (s.node.recOfCall c)) hon'))
  · rw [Node.syncRec, Node.setReg_aud, Node.aud_flagged]
    rfl

theorem exec_callRecFind {x : RecSlot} (h : s.node.takesService c 0x0607 2 = true) (hx : s.node.recOfCall c = [x]) :
    exec (.callRecFind c) s = .next (s.on fun n => (n.at c.time).completes c sOk [word x.slot, word 1]) := by
  have hx' : (s.node.at c.time).recOfCall c = [x] := hx
  refine exec_serves rfl rfl h ?_
  rw [hx']
  rfl

end

/-- Settles O51. -/
theorem callsAreHandled : Obligations.CallsAreHandled :=
  ⟨fun _ _ _ h hservice => exec_callMessageReceived h hservice,
   fun _ _ _ _ hc hholder hon => exec_callRequestRepeat hholder hon hc,
   fun _ _ _ _ _ _ hc hholder hon => exec_callEscalated hholder hon hc,
   fun _ _ _ _ hr hgoes hdue hstandby => recordingBlockWrite_counts hr hgoes hdue hstandby,
   fun _ _ _ _ _ hr hgoes hdue hholder hslot => recordingBlockWrite_writes hr hgoes hdue hholder hslot,
   fun _ _ h hon hslot => exec_callStatus h hon hslot,
   fun _ _ _ h hstation hcab hholder hany hx => exec_callAnswer h hstation hcab hholder hany hx,
   fun _ _ _ hholder => ⟨fun h hx => exec_callHold hholder h hx, fun h hx => exec_callEnd_cab hholder h hx,
     fun h hnone hx => exec_callEnd_station hholder h hnone hx⟩,
   fun _ _ h hzero => exec_callCabSet h hzero,
   fun _ _ h hsome hon => callRecProtect_marks h hsome hon,
   fun _ _ _ h hx => exec_callRecFind h hx⟩

end Sys2Proof.Machine
end

section
/-! PROOF. Frames on the CAN bus, its errors and timers (R531, R536 to R541, R547 to R557, R564). -/

namespace Sys2Proof.Machine

/-! ### A controller's state -/

theorem Node.getElem?_onCtl (n : Node) (c : Nat) (f : CanState → CanState) : (n.onCtl c f).can[c]? = n.can[c]?.map f :=
  getElem?_modifyAt _ _ _

theorem Node.ctl_onCtl (n : Node) {c : Nat} (f : CanState → CanState) (h : c < n.can.length) : (n.onCtl c f).ctl c = f (n.ctl c) :=
  getD_modifyAt _ _ _ h

/-- What a change of a controller's state leaves alone stands, whether there is such a controller or not. -/
theorem Node.ctl_onCtl_view {α : Type} (n : Node) (c : Nat) (f : CanState → CanState) (view : CanState → α) (h : ∀ x, view (f x) = view x) :
    view ((n.onCtl c f).ctl c) = view (n.ctl c) := by
  unfold Node.ctl
  rw [List.getD_eq_getElem?_getD, List.getD_eq_getElem?_getD, Node.getElem?_onCtl]
  cases n.can[c]? with
  | none => rfl
  | some x => exact h x

theorem Node.loop_busFree (n : Node) (c : Nat) : ((n.busFree c).ctl c).loop = (n.ctl c).loop :=
  n.ctl_onCtl_view c (fun x => { x with lastOne := false }) CanState.loop fun _ => rfl

/-! ### Reception (R531, R537, R554) -/

section
variable {n : Node} {c sof : Nat} {f : CanFrame} {bridge : Node → Nat → CanFrame → Word → Node} (hlive : n.canLive c = true)
  (hloop : (n.ctl c).loop ≠ 1)
include hlive hloop

theorem Node.canReceive_takes (hfd : f.fdf = false ∨ n.canFd c = true) : n.canReceive c f sof bridge =
    ((((n.canRxGood c).add64 (Reg.CAN_RX_FRM_LO c) 1).canStore c f sof bridge).syncCan c).loopIdle c := by
  unfold Node.canReceive
  rw [hlive]
  refine (if_neg (by rintro (h | h); exacts [absurd h (by decide), hloop h])).trans (if_neg ?_)
  obtain h | h := hfd
  · rw [h]
    exact Bool.false_ne_true
  · rw [h, Bool.not_true, Bool.and_false]
    exact Bool.false_ne_true

theorem Node.canReceive_rejects (hfdf : f.fdf = true) (hfd : n.canFd c = false) : n.canReceive c f sof bridge = n.canRxError c 1 := by
  unfold Node.canReceive
  rw [hlive, hfdf, hfd]
  exact (if_neg (by rintro (h | h); exacts [absurd h (by decide), hloop h])).trans (if_pos rfl)

end

theorem Node.fifoStore_joins {n : Node} {c f : Nat} (e : List Word) (hc : c < n.can.length) (hf : f < (n.ctl c).fifos.length)
    (hroom : ((n.ctl c).fifos.getD f []).length < 64) :
    ((n.fifoStore c f e).ctl c).fifos.getD f [] = (n.ctl c).fifos.getD f [] ++ [e] := by
  have hstore : n.fifoStore c f e = n.onCtl c fun x => { x with fifos := modifyAt x.fifos f fun l => l ++ [e] } := if_pos hroom
  rw [hstore, Node.ctl_onCtl n _ hc]
  exact getD_modifyAt _ _ _ hf

/-! ### Outcomes of attempts (R536, R547 to R554) -/

theorem Node.canSent_leaves {n : Node} {c i sof : Nat} {obj : Bool} {e : TxEntry} {bridge : Node → Nat → CanFrame → Word → Node}
    (hfirst : n.outranked c obj i sof = false) (htried : n.attempted c obj i = some e) (hloop : (n.ctl c).loop = 0) :
    n.canSent c i obj sof bridge =
      let m := n.busFree c
      ((((m.setErr c (m.tec c - 1) (m.rec_ c)).canCheck c).add64 (Reg.CAN_TX_FRM_LO c) 1).leave c obj i
        { e with attempts := e.attempts + 1 } (if e.cancel then 3 else 1) (m.stampAt sof)).loopIdle c := by
  unfold Node.canSent
  rw [hfirst, if_neg Bool.false_ne_true, htried]
  dsimp only
  rw [if_pos ((Node.loop_busFree n c).trans hloop)]

section
variable {s : State} {c i time : Nat}

theorem exec_canFrameSent {sof : Nat} {obj : Bool} {e : TxEntry} (hfirst : (s.node.at time).outranked c obj i sof = false)
    (htried : (s.node.at time).attempted c obj i = some e) (hloop : (s.node.ctl c).loop = 0) :
    exec (.canFrameSent c i obj sof time) s = .next (s.on fun n =>
      let m := (n.at time).busFree c
      ((((m.setErr c (m.tec c - 1) (m.rec_ c)).canCheck c).add64 (Reg.CAN_TX_FRM_LO c) 1).leave c obj i
        { e with attempts := e.attempts + 1 } (if e.cancel then 3 else 1) (m.stampAt sof)).loopIdle c) :=
  exec_on_eq rfl (Node.canSent_leaves (n := s.node.at time) hfirst htried hloop)

section
variable {obj : Bool} {e : TxEntry} (htried : (s.node.at time).attempted c obj i = some e)
include htried

theorem exec_canArbitrationLost : exec (.canArbitrationLost c i obj time) s = .next (s.on fun n =>
    if e.cancel then (((n.at time).inc (Reg.CAN_ARB_LOST c)).busFree c).leave c obj i { e with attempts := e.attempts + 1 } 2 0#32
    else (((n.at time).inc (Reg.CAN_ARB_LOST c)).busFree c).retry c obj i { e with attempts := e.attempts + 1 }) := by
  refine exec_on_eq rfl ?_
  dsimp only
  rw [htried]

theorem exec_canTxError (hstays : e.cancel = false) : exec (.canTxError c i obj false true time) s = .next (s.on fun n =>
    ((((((n.at time).inc (Reg.CAN_ERR_FRM c)).setErr c (n.tec c + 8) (n.rec_ c)).canCheck c).busFree c).canClash c i obj
      { e with attempts := e.attempts + 1, clash := 0 }).loopIdle c) := by
  refine exec_on_eq rfl ?_
  dsimp only
  rw [htried]
  dsimp only
  rw [hstays]
  rfl

end

theorem exec_canRxError {rise : Nat} (hlive : s.node.canLive c = true) :
    exec (.canRxError c rise time) s = .next (s.on fun n => (n.at time).canRxError c rise) :=
  exec_on_eq rfl (if_pos (show (s.node.at time).canLive c = true from hlive))

/-! ### Error states and timers (R545, R554 to R557, R564) -/

section
variable (hon : s.node.canOn c = true)
include hon

theorem exec_busIntegrationComplete (hpll : s.node.bit Reg.PCR_PLL_STAT 5 = true) (hinteg : (s.node.ctl c).integ = true) :
    exec (.busIntegrationComplete c time) s = .next (s.on fun n =>
      Node.objOffer 129 (((n.at time).onCtl c fun x => { x with integ := false }).canCheck c) c) :=
  exec_on_eq rfl (if_pos (⟨hon, hpll, hinteg⟩ : (s.node.at time).canOn c = true ∧ (s.node.at time).bit Reg.PCR_PLL_STAT 5 = true ∧
    ((s.node.at time).ctl c).integ = true))

theorem exec_busRecovered (hoff : (s.node.ctl c).off = true) (hrec : (s.node.ctl c).recovering = true) (hdom : (s.node.ctl c).dom = false) :
    exec (.busRecovered c time) s = .next (s.on fun n =>
      let k := ((n.at time).onCtl c fun x => { x with off := false, recovering := false, passive := false }).setErr c 0 0
      Node.objOffer 129 (((k.setFld (Reg.CAN_CTRL c) Fld.CAN_CTRL_RECOVER 0).canNote 0x5806 c c).showCan c) c) :=
  exec_on_eq rfl (if_pos (⟨hon, hoff, hrec, (Bool.not_eq_true' _).mpr hdom⟩ : (s.node.at time).canOn c = true ∧
    ((s.node.at time).ctl c).off = true ∧ ((s.node.at time).ctl c).recovering = true ∧ (!((s.node.at time).ctl c).dom) = true))

theorem exec_dominantTimeout (hdom : (s.node.ctl c).dom = false) (hloop : (s.node.ctl c).loop ≠ 1) :
    exec (.dominantTimeout c time) s = .next (s.on fun n =>
      (((n.at time).onCtl c fun x => { x with dom := true, integ := false }).raise 0x5A03 c (n.reg (Reg.CAN_ERR c)).toNat).showCan c) :=
  exec_on_eq rfl (if_pos (⟨hon, (Bool.not_eq_true' _).mpr hdom, hloop⟩ : (s.node.at time).canOn c = true ∧
    (!((s.node.at time).ctl c).dom) = true ∧ ((s.node.at time).ctl c).loop ≠ 1))

theorem exec_dominantReleased (hdom : (s.node.ctl c).dom = true) : exec (.dominantReleased c time) s = .next (s.on fun n =>
    Node.objOffer 129 ((((n.at time).onCtl c fun x => { x with dom := false }).canNote 0x580B c c).canCheck c) c) :=
  exec_on_eq rfl (if_pos (⟨hon, hdom⟩ : (s.node.at time).canOn c = true ∧ ((s.node.at time).ctl c).dom = true))

theorem exec_timedEntryRelease {q : Nat} (hq : q < 4) :
    exec (.timedEntryRelease c q time) s = .next (s.on fun n => (n.at time).canNext c q) := by
  have hc : c < 4 := by
    simp only [Node.canOn, Bool.and_eq_true, decide_eq_true_eq] at hon
    exact hon.1.1
  exact exec_on_eq rfl (if_pos (⟨hc, hq, hon⟩ : c < 4 ∧ q < 4 ∧ (s.node.at time).canOn c = true))

end

theorem exec_lockTimeout {kind : Nat} {l : CanLock} (hl : s.node.canLock c kind i = some l)
    (hpast : l.since + 1000000 ≤ max s.node.tm.raw time) :
    exec (.lockTimeout c kind i time) s = .next (s.on fun n =>
      ((((n.at time).unlockCan c kind i).inc (Reg.CAN_LOCK_TO_CNT c)).canNote2 0x5904 c (c + kind * 256 + i * 65536) l.ctx).syncCan c) := by
  have hl' : (s.node.at time).canLock c kind i = some l := hl
  refine exec_on_eq rfl ?_
  dsimp only
  rw [hl']
  exact if_neg (Nat.not_lt.mpr hpast)

end

/-- Settles O52. -/
theorem framesCrossTheCanBus : Obligations.FramesCrossTheCanBus :=
  ⟨fun s _ _ time _ hlive hloop =>
     ⟨fun hfd => exec_on_eq rfl (Node.canReceive_takes (n := s.node.at time) hlive hloop hfd),
      fun hfdf hfd => exec_on_eq rfl (Node.canReceive_rejects (n := s.node.at time) hlive hloop hfdf hfd)⟩,
   fun _ _ _ e hc hf hroom => Node.fifoStore_joins e hc hf hroom,
   fun _ _ _ _ _ _ _ hfirst htried hloop => exec_canFrameSent hfirst htried hloop,
   fun _ _ _ _ _ _ htried => ⟨exec_canArbitrationLost htried, fun hstays => exec_canTxError htried hstays⟩,
   fun _ _ _ _ hlive => exec_canRxError hlive,
   fun _ _ _ hon =>
     ⟨fun hpll hinteg => exec_busIntegrationComplete hon hpll hinteg,
      fun hoff hrec hdom => exec_busRecovered hon hoff hrec hdom,
      fun hdom hloop => exec_dominantTimeout hon hdom hloop,
      fun hdom => exec_dominantReleased hon hdom,
      fun _ hq => exec_timedEntryRelease hon hq⟩,
   fun _ _ _ _ _ _ hl hpast => exec_lockTimeout hl hpast⟩

end Sys2Proof.Machine
end

section
/-! PROOF. The CAN registers, locks and commands (R535, R538 to R549, R555, R559, R561, R563). -/

namespace Sys2Proof.Machine

section
variable {s : State} {ctx c : Nat}

/-! ### Register writes (R535, R539, R540, R549, R555, R559, R563) -/

section
variable (hc : c < 4)
include hc

theorem exec_canTxqPush {q : Nat} (v : Word) (hq : q < 4) (h : s.node.admits ctx (Reg.CAN_TXQ_WIN c q + 80) true = true)
    (hcompat : s.node.canCompat c = false) (howner : s.node.queueOwner c q = some ctx) (hroom : (s.node.txq c q).length < 64) :
    exec (.canTxqPush ctx c q v) s = .next (s.on fun n =>
      ((n.answer 0#32).onCtl c fun x => { x with window := modifyAt x.window q fun _ => List.replicate 20 0#32 }).canPush c q
        ((n.ctl c).window.getD q [])) := by
  have hcompat' : ¬ (s.node.answer 0#32).canCompat c = true := Bool.not_eq_true _ ▸ hcompat
  refine exec_on_eq rfl ((if_neg (by omega)).trans ((Node.access_admitted s.node ctx _ true _ h).trans ?_))
  exact (if_neg hcompat').trans ((if_neg (not_not_intro howner)).trans ((if_neg (by decide)).trans (if_neg (Nat.not_le.mpr hroom))))

theorem exec_canTxCancelWrite (v : Word) (onBus : Bool) (h : s.node.admits ctx (Reg.CAN_TX_CANCEL c) true = true) :
    exec (.canTxCancelWrite ctx c v onBus) s = .next (s.on fun n =>
      ((n.answer 0#32).cancelQueued c (v.toNat / 65536 % 4) (v.toNat % 65536) onBus).1) :=
  exec_on_eq rfl ((if_neg (Nat.not_le.mpr hc)).trans (Node.access_admitted s.node ctx _ true _ h))

theorem exec_canObjCancelWrite {w : Nat} (v : Word) (onBus : Option Nat) (hw : w < 4)
    (h : s.node.admits ctx (Reg.CAN_OBJ_CANCEL c w) true = true) :
    exec (.canObjCancelWrite ctx c w v onBus) s = .next (s.on fun n => (n.answer 0#32).cancelObjects c w v onBus) :=
  exec_on_eq rfl ((if_neg (by omega)).trans (Node.access_admitted s.node ctx _ true _ h))

theorem exec_canObjTxreqWrite {w : Nat} (v : Word) (hw : w < 4) (h : s.node.admits ctx (Reg.CAN_OBJ_TXREQ c w) true = true) :
    exec (.canObjTxreqWrite ctx c w v) s = .next (s.on fun n => (n.answer 0#32).txreq c w v) :=
  exec_on_eq rfl ((if_neg (by omega)).trans (Node.access_admitted s.node ctx _ true _ h))

theorem exec_canObjectWrite {o i : Nat} (v : Word) (ho : o < 128) (hi : i < 20)
    (h : s.node.admits ctx (Reg.CAN_OBJ c o + 4 * i) true = true) (hcompat : s.node.canCompat c = true)
    (hidle : s.node.objFlag c o 4 = false) (hfree : s.node.canLock c 1 o = none) :
    exec (.canObjectWrite ctx c o i v) s = .next (s.on fun n => (n.answer 0#32).setReg (Reg.CAN_OBJ c o + 4 * i)
      (if i = 0 then v &&& 0x7FFFFFFF#32 else if i = 1 then v &&& 0xFFFF03FF#32 else v)) := by
  refine exec_on_eq rfl ((if_neg (by omega)).trans ((Node.access_admitted s.node ctx _ true _ h).trans ?_))
  refine (if_neg ?_).trans ((if_neg ?_).trans (if_neg ?_))
  · rw [show (s.node.answer 0#32).canCompat c = true from hcompat]
    exact Bool.false_ne_true
  · rw [show (s.node.answer 0#32).objFlag c o 4 = false from hidle]
    exact Bool.false_ne_true
  · rw [show (s.node.answer 0#32).canLock c 1 o = none from hfree]
    rintro (hlocked | hlast)
    · exact absurd hlocked (by decide)
    · omega

section
variable (v : Word) (busy : Bool) (h : s.node.admits ctx (Reg.CAN_CTRL c) true = true)
include h

theorem exec_canCtrlLoopWrite :
    exec (.canCtrlLoopWrite ctx c v busy) s = .next (s.on fun n => (n.answer 0#32).canCtrlWrite c v busy) :=
  exec_on_eq rfl ((if_neg (Nat.not_le.mpr hc)).trans (Node.access_admitted s.node ctx _ true _ h))

theorem exec_canCtrlHaltWrite :
    exec (.canCtrlHaltWrite ctx c v busy) s = .next (s.on fun n => (n.answer 0#32).canCtrlWrite c v busy) :=
  exec_on_eq rfl ((if_neg (Nat.not_le.mpr hc)).trans (Node.access_admitted s.node ctx _ true _ h))

theorem exec_canCtrlRecoverWrite :
    exec (.canCtrlRecoverWrite ctx c v busy) s = .next (s.on fun n => (n.answer 0#32).canCtrlWrite c v busy) :=
  exec_on_eq rfl ((if_neg (Nat.not_le.mpr hc)).trans (Node.access_admitted s.node ctx _ true _ h))

end
end

/-! ### Locks (R543 to R545) -/

theorem Node.can_syncCan (n : Node) (c : Nat) : (n.syncCan c).can = n.can := by
  unfold Node.syncCan
  extract_lets x queues fifos comps
  have hqueues : queues.can = n.can := foldl_keeps (fun m : Node => m.can) _ _ n fun m q => Node.setReg_can _ _ _
  have hfifos : fifos.can = queues.can :=
    foldl_keeps (fun m : Node => m.can) _ _ queues fun m f => (Node.setRegs_can _ _ _).trans (Node.setReg_can _ _ _)
  have hcomps : comps.can = n.can := (Node.setReg_can _ _ _).trans (hfifos.trans hqueues)
  split
  · exact (Node.setRegs_can _ _ _).trans hcomps
  · exact (Node.setRegs_can _ _ _).trans hcomps

theorem Node.can_setObjFlag (n : Node) (c o i : Nat) (b : Bool) : (n.setObjFlag c o i b).can = n.can := by
  unfold Node.setObjFlag
  dsimp only
  split
  · exact (Node.setBit_can _ _ _ _).trans (Node.setBit_can _ _ _ _)
  · split
    · exact (Node.setBit_can _ _ _ _).trans (Node.setBit_can _ _ _ _)
    · exact Node.setBit_can _ _ _ _

theorem Node.canLock_congr {n m : Node} (h : n.can = m.can) (c kind i : Nat) : n.canLock c kind i = m.canLock c kind i := by
  unfold Node.canLock Node.ctl
  rw [h]

/-- A controller's entry locked for a context. -/
def Node.locks (n : Node) (ctx c kind i : Nat) : Node :=
  n.onCtl c fun x => { x with locks := x.locks ++ [CanLock.mk kind i ctx n.tm.raw] }

theorem Node.canLock_locks {n : Node} {kind i : Nat} (hc : c < n.can.length) (hfree : n.canLock c kind i = none) :
    (n.locks ctx c kind i).canLock c kind i = some ⟨kind, i, ctx, n.tm.raw⟩ := by
  unfold Node.canLock at hfree ⊢
  rw [Node.locks, Node.ctl_onCtl n _ hc, List.find?_append, hfree]
  simp

theorem Node.lockRead_locks {n : Node} {kind i : Nat} (hentry : n.canEntry c kind i = true) (hfree : n.canLock c kind i = none) :
    n.lockRead ctx c kind i = ((if kind = 1 then (n.locks ctx c kind i).setObjFlag c i 2 true else n.locks ctx c kind i).syncCan c).answer
      (n.reg (canEntryAddr c kind i)) := by
  unfold Node.lockRead
  rw [hentry, hfree]
  rfl

theorem canEntryLockRead_locks {kind i time : Nat} (hnamed : canNamed c kind i = true)
    (h : s.node.admits ctx (canEntryAddr c kind i) false = true) (hentry : s.node.canEntry c kind i = true)
    (hfree : s.node.canLock c kind i = none) (hc : c < s.node.can.length) :
    ∃ t : State, exec (.canEntryLockRead ctx c kind i time) s = .next t ∧
      t.node.canLock c kind i = some ⟨kind, i, ctx, max s.node.tm.raw time⟩ ∧
      t.node.host.readData = s.node.reg (canEntryAddr c kind i) := by
  refine ⟨s.on fun n => ((n.at time).answer 0#32).lockRead ctx c kind i,
    exec_on_eq rfl ((if_pos hnamed).trans (Node.access_admitted (s.node.at time) ctx _ false _ h)), ?_⟩
  have hentry' : ((s.node.at time).answer 0#32).canEntry c kind i = true := hentry
  have hfree' : ((s.node.at time).answer 0#32).canLock c kind i = none := hfree
  rw [State.on_node, Node.lockRead_locks hentry' hfree']
  refine ⟨(Node.canLock_congr (m := ((s.node.at time).answer 0#32).locks ctx c kind i) ?_ _ _ _).trans
    (Node.canLock_locks (n := (s.node.at time).answer 0#32) hc hfree'), rfl⟩
  refine (Node.can_syncCan _ _).trans ?_
  split
  · exact Node.can_setObjFlag _ _ _ _ _
  · rfl

theorem Node.releaseRead_releases {n : Node} {kind i : Nat} (hentry : n.canEntry c kind i = true)
    (hmine : ∀ l, n.canLock c kind i = some l → l.ctx = ctx) :
    n.releaseRead ctx c kind i = (((n.takeEntry c kind i).unlockCan c kind i).syncCan c).answer
      (n.reg (canEntryAddr c kind i + canLastOff kind)) := by
  unfold Node.releaseRead
  rw [hentry]
  cases hl : n.canLock c kind i with
  | none => rfl
  | some l =>
    dsimp only
    rw [hmine l hl, beq_self_eq_true]
    rfl

theorem exec_canEntryReleaseRead {kind i : Nat} (hnamed : canNamed c kind i = true)
    (h : s.node.admits ctx (canEntryAddr c kind i + canLastOff kind) false = true) (hentry : s.node.canEntry c kind i = true)
    (hmine : ∀ l, s.node.canLock c kind i = some l → l.ctx = ctx) :
    exec (.canEntryReleaseRead ctx c kind i) s = .next (s.on fun n =>
      ((((n.answer 0#32).takeEntry c kind i).unlockCan c kind i).syncCan c).answer
        (n.reg (canEntryAddr c kind i + canLastOff kind))) :=
  exec_on_eq rfl ((if_pos hnamed).trans ((Node.access_admitted s.node ctx _ false _ h).trans
    (Node.releaseRead_releases (n := s.node.answer 0#32) hentry hmine)))

end

/-! ### Commands (R549, R555, R559, R561) -/

/-- A CAN command that reaches its own checks and names a controller alone acts on queue 0 of it. -/
theorem exec_canActs {i : Instr} {s : State} {c : Cmd} {op nargs : Nat} {queue : Bool} {f g : Node → Node}
    {act : Node → Nat → Nat → Answer} (hctl : arg c 0 < 4) (hexec : exec i s = .next (s.runs c op f))
    (hf : f s.node = s.node.canCommand c nargs queue act) (h : s.node.takes c op (.inst (instCan (arg c 0 % 4))) nargs = true)
    (hact : Node.settle c (act (s.node.at c.time) (arg c 0) 0) = g s.node) : exec i s = .next (s.on g) := by
  have hword : canWord0 c queue = true := by
    rw [canWord0, decide_eq_true hctl]
    rfl
  refine exec_settles hexec hf h (Eq.trans (congrArg (Node.settle c) (if_pos hword)) ?_)
  rw [Nat.mod_eq_of_lt hctl, show arg c 0 / 16 % 4 = 0 by omega]
  exact hact

section
variable {s : State} {c : Cmd} (hctl : arg c 0 < 4)
include hctl

theorem exec_canStatus (h : s.node.takes c 0x0701 (.inst (instCan (arg c 0 % 4))) 1 = true) :
    exec (.canStatus c) s = .next (s.on fun n =>
      let k := (n.at c.time).canStat (arg c 0)
      k.1.completes c sOk [k.2, k.1.reg (Reg.CAN_ERR (arg c 0)), k.1.reg (Reg.CAN_LAST_CLASH (arg c 0))]) :=
  exec_canActs hctl rfl rfl h rfl

theorem exec_canRecover (h : s.node.takes c 0x0704 (.inst (instCan (arg c 0 % 4))) 1 = true) (hoff : (s.node.ctl (arg c 0)).off = true) :
    exec (.canRecover c) s = .next (s.on fun n => ((n.at c.time).canRecover (arg c 0)).completes c sOk []) :=
  exec_canActs hctl rfl rfl h
    (congrArg (Node.settle c) (if_pos (show ((s.node.at c.time).ctl (arg c 0)).off = true from hoff)))

theorem exec_canFlush (onBus : Bool) (h : s.node.takes c 0x0705 (.inst (instCan (arg c 0 % 4))) 1 = true) :
    exec (.canFlush c onBus) s = .next (s.on fun n =>
      ((n.at c.time).canFlush (arg c 0) 0 onBus).1.completes c sOk [word ((n.at c.time).canFlush (arg c 0) 0 onBus).2]) :=
  exec_canActs hctl rfl rfl h rfl

section
variable (h : s.node.takes c 0x0702 (.inst (instCan (arg c 0 % 4))) 8 = true) (hctx : c.ctx < 4)
  (hcompat : s.node.canCompat (arg c 0) = false) (howner : s.node.queueOwner (arg c 0) 0 = some c.ctx)
  (hlen : arg c 7 = dlcLen (arg c 2 % 16) ((arg c 2).testBit 4))
include h hctx hcompat howner hlen

theorem exec_canSend (hroom : (s.node.txq (arg c 0) 0).length < 64) :
    exec (.canSend c) s = .next (s.on fun n =>
      ((n.at c.time).canPush (arg c 0) 0 ([argW c 1, argW c 2, argW c 3, argW c 4] ++
        wordsLE (slice (slice c.data 0 (arg c 7)) 0 64) 16)).completes c sOk [word (arg c 2 / 65536)]) := by
  refine exec_canActs hctl rfl rfl h (congrArg (Node.settle c) ((if_neg ?_).trans (if_neg (Nat.not_le.mpr hroom))))
  rintro (hbad | hbad | hbad | hbad)
  · omega
  · exact absurd (hbad.symm.trans hcompat) (by decide)
  · exact hbad howner
  · exact hbad hlen

theorem exec_canSend_full (hfull : 64 ≤ (s.node.txq (arg c 0) 0).length) :
    exec (.canSend c) s = .next (s.on fun n => (n.at c.time).completes c sResource []) := by
  refine exec_canActs hctl rfl rfl h (congrArg (Node.settle c) ((if_neg ?_).trans (if_pos hfull)))
  rintro (hbad | hbad | hbad | hbad)
  · omega
  · exact absurd (hbad.symm.trans hcompat) (by decide)
  · exact hbad howner
  · exact hbad hlen

end

section
variable {k : Node} {onBus : Bool} (h : s.node.takes c 0x0703 (.inst (instCan (arg c 0 % 4))) 2 = true) (htag : arg c 1 < 65536)
include h htag

theorem exec_canCancel_known (hk : (s.node.at c.time).cancelQueued (arg c 0) 0 (arg c 1) onBus = (k, some true)) :
    exec (.canCancel c onBus) s = .next (s.on fun _ => k.completes c sOk [2#32]) := by
  refine exec_canActs hctl rfl rfl h (Eq.trans (congrArg (Node.settle c) (if_neg (by omega))) ?_)
  rw [hk]
  rfl

theorem exec_canCancel_waits (hk : (s.node.at c.time).cancelQueued (arg c 0) 0 (arg c 1) onBus = (k, some false)) :
    exec (.canCancel c onBus) s = .next (s.on fun _ => k.waitsFor c 8 (arg c 0) [word 0, argW c 1]) := by
  refine exec_canActs hctl rfl rfl h (Eq.trans (congrArg (Node.settle c) (if_neg (by omega))) ?_)
  rw [hk]
  rfl

end

theorem exec_canLoop (busy : Bool) (h : s.node.takes c 0x0706 (.inst (instCan (arg c 0 % 4))) 2 = true) (hmode : arg c 1 ≤ 3) :
    exec (.canLoop c busy) s = .next (s.on fun n =>
      ((n.at c.time).canCtrlWrite (arg c 0) (word (withBits (n.bits (Reg.CAN_CTRL (arg c 0)) 0 3) 0 2 (arg c 1))) busy).completes
        c sOk []) :=
  exec_canActs hctl rfl rfl h (congrArg (Node.settle c) (if_neg (Nat.not_lt.mpr hmode)))

end

/-- Settles O53. -/
theorem canRegistersAndCommandsAct : Obligations.CanRegistersAndCommandsAct :=
  ⟨fun _ _ _ _ v hc hq h hcompat howner hroom => exec_canTxqPush hc v hq h hcompat howner hroom,
   fun _ _ _ v onBus hc h => exec_canTxCancelWrite hc v onBus h,
   fun _ _ _ _ v onBus hc hw => ⟨exec_canObjCancelWrite hc v onBus hw, exec_canObjTxreqWrite hc v hw⟩,
   fun _ _ _ _ _ v hc ho hi h hcompat hidle hfree => exec_canObjectWrite hc v ho hi h hcompat hidle hfree,
   fun _ _ _ _ _ _ hnamed => ⟨canEntryLockRead_locks hnamed, exec_canEntryReleaseRead hnamed⟩,
   fun _ _ _ v busy hc h =>
     ⟨exec_canCtrlLoopWrite hc v busy h, exec_canCtrlHaltWrite hc v busy h, exec_canCtrlRecoverWrite hc v busy h⟩,
   fun _ _ hctl => ⟨exec_canStatus hctl, exec_canRecover hctl, fun onBus => exec_canFlush hctl onBus⟩,
   fun _ _ h hctl hctx hcompat howner hlen =>
     ⟨exec_canSend hctl h hctx hcompat howner hlen, exec_canSend_full hctl h hctx hcompat howner hlen⟩,
   fun _ _ _ h hctl htag => ⟨fun _ hk => exec_canCancel_known hctl h htag hk, fun _ hk => exec_canCancel_waits hctl h htag hk⟩,
   fun _ _ busy h hctl hmode => exec_canLoop hctl busy h hmode⟩

end Sys2Proof.Machine
end

section
/-! PROOF. Remote accesses at the requesting node (R578 to R593, R597). -/

namespace Sys2Proof.Machine

/-! ### Accesses through BAR2 (R578, R581, R585, R587) -/

theorem pos_of_sizeCode {len : Nat} (h : (sizeCode len).isSome = true) : 0 < len := by
  cases len with
  | zero => exact absurd h (by decide)
  | succ k => exact Nat.succ_pos k

/-- An aligned access of a size that the bridge supports. -/
theorem not_misaligned {off len : Nat} (hsize : (sizeCode len).isSome = true) (halign : off % len = 0) :
    ¬ ((sizeCode len).isNone = true ∨ off % max len 1 ≠ 0) := by
  rw [max_eq_left (pos_of_sizeCode hsize), ← Option.not_isSome, hsize, halign]
  decide

section
variable {s : State} {fn off len time : Nat} (hfn : fn < 4)
include hfn

theorem exec_bar2ReadTlp_refused (hslot : s.node.slotOk fn off = false) :
    exec (.bar2ReadTlp fn off len time) s = .next (s.on fun n =>
      ((n.at time).refuse fn false 3 2 off instBrg).cpl fn off false (zeros len)) := by
  have hslot' : ¬ (s.node.at time).slotOk fn off = true := Bool.not_eq_true _ ▸ hslot
  exact exec_on_eq rfl ((if_neg (Nat.not_le.mpr hfn)).trans ((if_neg (not_and_of_not_left _ hslot')).trans (if_neg hslot')))

section
variable (hslot : s.node.slotOk fn off = true)
include hslot

theorem exec_bar2ReadTlp_size (hsize : sizeCode len = none) : exec (.bar2ReadTlp fn off len time) s = .next (s.on fun n =>
    ((n.at time).cpl fn off true []).sizeErr off len) :=
  exec_on_eq rfl ((if_neg (Nat.not_le.mpr hfn)).trans (if_pos ⟨hslot, .inl (Option.isNone_iff_eq_none.mpr hsize)⟩))

theorem exec_bar2ReadTlp_reads (hsize : (sizeCode len).isSome = true) (halign : off % len = 0) :
    exec (.bar2ReadTlp fn off len time) s = .next (s.on fun n => (n.at time).barRead fn off len) :=
  exec_on_eq rfl ((if_neg (Nat.not_le.mpr hfn)).trans
    ((if_neg (not_and_of_not_right _ (not_misaligned hsize halign))).trans
      (if_pos (show (s.node.at time).slotOk fn off = true from hslot))))

theorem exec_bar2WriteTlp {bytes : List Byte} (hsize : (sizeCode bytes.length).isSome = true) (halign : off % bytes.length = 0) :
    exec (.bar2WriteTlp fn off bytes time) s = .next (s.on fun n =>
      let i := off / 2 ^ 22
      ((((n.at time).invalidate (n.slotTgt i) (n.slotWindow i) (n.slotBase i + off % 2 ^ 22) bytes.length).remoteWrite fn i
        (n.slotWindow i) (n.slotBase i + off % 2 ^ 22) (n.slotTgt i) bytes).1)) := by
  refine exec_on_eq rfl ((if_neg (Nat.not_le.mpr hfn)).trans ((if_neg ?_).trans (if_neg (not_misaligned hsize halign))))
  rw [show (s.node.at time).slotOk fn off = true from hslot]
  exact Bool.false_ne_true

end
end

/-! ### Responses and timeouts (R587 to R589) -/

theorem exec_rwinRspReceived_read {s : State} {r : Rx} {src : NumEntry} {t : BrgTgt} {x : BrgRead} (h : s.node.hears r 0x9 = true)
    (hsrc : (s.node.heard r).nodeIn (decodeHdr r.frame.body).epoch (decodeHdr r.frame.body).src = some src)
    (ht : (s.node.heard r).respTgt src (beAt (payloadOf r.frame.body) 6 2) = some t) (hop : byteAt (payloadOf r.frame.body) 0 = 1)
    (hx : (((s.node.heard r).showAttrs t (byteAt (payloadOf r.frame.body) 5 % 16) (byteAt (payloadOf r.frame.body) 4)).brg.reads.find?
      fun x => x.kind != 2 && x.tag == beAt (payloadOf r.frame.body) 2 2 && x.tgt == t) = some x) :
    exec (.rwinRspReceived r true) s = .next (s.on fun _ =>
      ((s.node.heard r).showAttrs t (byteAt (payloadOf r.frame.body) 5 % 16) (byteAt (payloadOf r.frame.body) 4)).readResponse x
        (byteAt (payloadOf r.frame.body) 1) (byteAt (payloadOf r.frame.body) 4)
        (slice (payloadOf r.frame.body) 16 (beAt (payloadOf r.frame.body) 10 2))) := by
  refine exec_on_eq rfl ((Node.receive_hears _ h).trans ((if_neg (by decide)).trans ?_))
  rw [hsrc]
  dsimp only
  rw [ht]
  dsimp only
  rw [hop, if_pos (show 1 ∈ [1, 2, 3] by decide), hx]
  rfl

theorem exec_readTimeout {s : State} {tag time : Nat} {x : BrgRead} (hx : (s.node.brg.reads.find? fun r => r.tag == tag) = some x)
    (hkind : x.kind = 1)
    (hpast : x.since + max 100 (min 100000 (s.node.reg Reg.BRG_RD_TIMEOUT).toNat) * 1000 ≤ max s.node.tm.raw time) :
    exec (.readTimeout tag time) s = .next (s.on fun n =>
      (((((n.at time).endRead tag true).inc Reg.BRG_RD_TO).raiseCounted 0x6106 (if x.bar < 2 ^ 28 then x.slot else 64) n.tc
        x.bar).finishWaits (fun w => w.kind == 10 && w.key == tag) sTimeout []).readDone x.slot) := by
  have hx' : ((s.node.at time).brg.reads.find? fun r => r.tag == tag) = some x := hx
  refine exec_on_eq rfl ?_
  dsimp only
  rw [hx']
  refine (if_neg (Nat.not_lt.mpr hpast)).trans ((if_neg ?_).trans ?_)
  · rw [hkind]
    decide
  · exact congrArg (fun k : Node => k.readDone x.slot) (if_neg (by rw [hkind]; decide))

/-! ### Slots and semaphores keep the outstanding reads -/

theorem Node.Sends.brg {n m : Node} (h : n.Sends m) : m.brg = n.brg := by
  obtain ⟨_, _, _, rfl⟩ := h.stores
  rfl

theorem Node.reads_session (n : Node) (t : BrgTgt) : (n.session t).1.brg.reads = n.brg.reads := by
  unfold Node.session
  split <;> rfl

theorem Node.reads_rwinSend (n : Node) (t : BrgTgt) (op size tag window ctx : Nat) (prefetch secure : Bool) (off : Nat) (data : List Byte) :
    (n.rwinSend t op size tag window ctx prefetch secure off data).1.brg.reads = n.brg.reads := by
  unfold Node.rwinSend
  have hsession := n.reads_session t
  generalize n.session t = p at hsession ⊢
  obtain ⟨m, x⟩ := p
  dsimp only
  rw [(Node.Sends.tell m _ _ _).brg]
  exact hsession

theorem Node.reads_semUnlock (n : Node) (m : Nat) : (n.semUnlock m).brg.reads = n.brg.reads := by
  unfold Node.semUnlock
  extract_lets s t k src k'
  split
  · rfl
  · exact Node.reads_rwinSend _ _ _ _ _ _ _ _ _ _ _

theorem Node.reads_dropBlock (n : Node) (b : PfBlock) : (n.dropBlock b).brg.reads = n.brg.reads := by
  unfold Node.dropBlock
  extract_lets src m
  split
  · rw [(Node.Sends.raiseLimited _ _ _ _ _ _).brg, Node.inc_brg]
    rfl
  · rfl

theorem Node.reads_unmapSlot (n : Node) (s : Nat) : (n.unmapSlot s).brg.reads = n.brg.reads := by
  unfold Node.unmapSlot
  extract_lets sems k k'
  rw [Node.setRegs_brg]
  exact (foldl_keeps (fun m : Node => m.brg.reads) _ _ k fun m b => m.reads_dropBlock b).trans
    (foldl_keeps (fun m : Node => m.brg.reads) sems _ n fun m i => m.reads_semUnlock i)

/-! ### Commands (R597) -/

section
variable {s : State} {c : Cmd}

theorem exec_bridgeStatus (h : s.node.takes c 0x0801 (.inst instBrg) 0 = true) : exec (.bridgeStatus c) s = .next (s.on fun n =>
    ((n.at c.time).syncBrg).completes c sOk [(n.at c.time).syncBrg.reg Reg.BRG_STAT, (n.at c.time).syncBrg.reg Reg.BRG_PWE_STAT]) :=
  exec_settles rfl rfl h rfl

section
variable (h : s.node.takes c 0x0802 (.inst instBrg) 5 = true) (hctx : c.ctx < 4) (hslot : arg c 0 < 64) (hhi : arg c 2 < 2 ^ 17)
  (hwindow : arg c 3 ≤ 15) (hoffset : arg c 4 ≤ 1023)
include h hctx hslot hhi hwindow hoffset

theorem exec_bridgeMap_busy (hvalid : s.node.slotValid (arg c 0) = true) (hother : s.node.slotCtx (arg c 0) ≠ c.ctx) :
    exec (.bridgeMap c) s = .next (s.on fun n => (n.at c.time).completes c sBusy []) := by
  refine exec_settles rfl rfl h (congrArg (Node.settle c) ((if_neg (by omega)).trans (if_pos ?_)))
  rw [Nat.mod_eq_of_lt hslot, show (s.node.at c.time).slotValid (arg c 0) = true from hvalid]
  exact bne_iff_ne.mpr hother

theorem exec_bridgeMap (hfree : s.node.slotValid (arg c 0) = false) : exec (.bridgeMap c) s = .next (s.on fun n =>
    (((n.at c.time).unmapSlot (arg c 0)).setRegs (Reg.BRG_AP_CTRL (arg c 0))
      [word (1 + b2n (tgtOf (arg c 1) (arg c 2)).pair * 2 + c.ctx * 16 + arg c 3 * 256 + arg c 4 * 65536), argW c 1,
       word (if (tgtOf (arg c 1) (arg c 2)).pair then 0 else arg c 2 % 65536), 0#32, 0#32]).completes c sOk []) := by
  refine exec_settles rfl rfl h ((congrArg (Node.settle c) ((if_neg (by omega)).trans (if_neg ?_))).trans ?_)
  · rw [Nat.mod_eq_of_lt hslot, show (s.node.at c.time).slotValid (arg c 0) = false from hfree]
    exact Bool.false_ne_true
  · rw [Nat.mod_eq_of_lt hslot, Nat.div_eq_of_lt (by omega : arg c 0 < 256), Nat.zero_mod, Nat.zero_mul]
    simp only [Nat.add_zero]
    rfl

end

section
variable (hnum : arg c 0 < 64)
include hnum

theorem exec_bridgeUnmap (h : s.node.takes c 0x0803 (.inst instBrg) 1 = true) (hvalid : s.node.slotValid (arg c 0) = true)
    (hmine : s.node.slotCtx (arg c 0) = c.ctx) (hreads : s.node.brg.reads = []) :
    exec (.bridgeUnmap c) s = .next (s.on fun n => ((n.at c.time).unmapSlot (arg c 0)).completes c sOk []) := by
  refine exec_settles rfl rfl h ((congrArg (Node.settle c) ((if_neg ?_).trans (if_neg ?_))))
  · rintro (hbad | hbad | hbad)
    · omega
    · exact absurd (hvalid.symm.trans ((Bool.not_eq_true' _).mp hbad)) (by decide)
    · exact hbad hmine
  · rw [Node.reads_unmapSlot, show (s.node.at c.time).brg.reads = [] from hreads]
    exact Bool.false_ne_true

theorem exec_bridgeUnlock (h : s.node.takes c 0x0807 (.inst instBrg) 1 = true) (hheld : s.node.semState (arg c 0) = 2)
    (hmine : s.node.semCtx (arg c 0) = c.ctx) :
    exec (.bridgeUnlock c) s = .next (s.on fun n => ((n.at c.time).semUnlock (arg c 0)).completes c sOk []) := by
  refine exec_settles rfl rfl h ((congrArg (Node.settle c) (if_neg ?_)))
  rintro (hbad | hbad | hbad)
  · omega
  · exact hbad hheld
  · exact hbad hmine

end

section
variable (hargs : Node.farArgsBad c = false) (hps2 : s.node.ps2 = true)
include hargs hps2

section
variable (h : s.node.takes c 0x0804 (.inst instBrg) 6 = true)
include h

theorem exec_bridgeRead_absent (hnone : s.node.tgtNodes (tgtOf (arg c 0) (arg c 1)) = []) :
    exec (.bridgeRead c) s = .next (s.on fun n => ((n.at c.time).readFail 0xFFFFFFFF 4).completes c sFar [4#32]) := by
  refine exec_settles rfl rfl h (congrArg (Node.settle c) ((if_neg ?_).trans ((if_neg ?_).trans (if_pos ?_))))
  · rw [hargs]
    exact Bool.false_ne_true
  · rw [show (s.node.at c.time).ps2 = true from hps2]
    exact Bool.false_ne_true
  · exact List.isEmpty_iff.mpr hnone

theorem exec_bridgeRead (hsome : s.node.tgtNodes (tgtOf (arg c 0) (arg c 1)) ≠ []) (hroom : s.node.readCount < 32) :
    exec (.bridgeRead c) s = .next (s.on fun n =>
      (((n.at c.time).nextReadTag.1).issueRead ⟨n.brg.nextTag, 1, c.ctx, 64, 0xFFFFFFFF, 2 ^ arg c 5, false, tgtOf (arg c 0) (arg c 1),
        arg c 2, arg c 3 + arg c 4 * 2 ^ 32, 0⟩ 1 (arg c 5) n.brg.nextTag).waitsFor c 10 n.brg.nextTag []) := by
  refine exec_settles rfl rfl h (congrArg (Node.settle c) ((if_neg ?_).trans ((if_neg ?_).trans ((if_neg ?_).trans
    (if_neg (Nat.not_le.mpr hroom))))))
  · rw [hargs]
    exact Bool.false_ne_true
  · rw [show (s.node.at c.time).ps2 = true from hps2]
    exact Bool.false_ne_true
  · exact fun hempty => hsome (List.isEmpty_iff.mp hempty)

end

theorem exec_bridgeWrite (h : s.node.takes c 0x0805 (.inst instBrg) 8 = true) : exec (.bridgeWrite c) s = .next (s.on fun n =>
    let data := (encLE 4 (arg c 6) ++ encLE 4 (arg c 7)).take (2 ^ arg c 5)
    let k := ((n.at c.time).invalidate (tgtOf (arg c 0) (arg c 1)) (arg c 2) (arg c 3 + arg c 4 * 2 ^ 32) data.length).remoteWrite
      c.ctx 63 (arg c 2) (arg c 3 + arg c 4 * 2 ^ 32) (tgtOf (arg c 0) (arg c 1)) data
    k.1.completes c sOk [word k.2]) := by
  refine exec_settles rfl rfl h (congrArg (Node.settle c) ((if_neg ?_).trans (if_neg ?_)))
  · rw [hargs]
    exact Bool.false_ne_true
  · rw [show (s.node.at c.time).ps2 = true from hps2]
    exact Bool.false_ne_true

end

theorem exec_bridgeLock (h : s.node.takes c 0x0806 (.inst instBrg) 2 = true) (hsem : arg c 0 < 64) (hslot : arg c 1 < 64)
    (hvalid : s.node.slotValid (arg c 1) = true) (hmine : s.node.slotCtx (arg c 1) = c.ctx) (hps2 : s.node.ps2 = true)
    (hfree : s.node.semState (arg c 0) = 0) (hsome : s.node.tgtNodes (s.node.slotTgt (arg c 1)) ≠ []) :
    exec (.bridgeLock c) s = .next (s.on fun n =>
      (((n.at c.time).setReg (Reg.BRG_SEM_CFG (arg c 0)) (word (arg c 1 + 1 * 256 + c.ctx * 4096))).issueRead
        ⟨arg c 0, 2, c.ctx, arg c 1, 0xFFFFFFFF, 0, false, n.slotTgt (arg c 1), n.slotWindow (arg c 1),
          n.slotBase (arg c 1), 0⟩ 3 0 (arg c 0)).waitsFor c 11 (arg c 0) []) := by
  have hfree' : (s.node.at c.time).semState (arg c 0) = 0 := hfree
  refine exec_settles rfl rfl h ((congrArg (Node.settle c) ((if_neg ?_).trans ((if_neg ?_).trans ((if_neg ?_).trans (if_neg ?_))))).trans ?_)
  · rintro (hbad | hbad | hbad | hbad)
    · omega
    · omega
    · exact absurd (hvalid.symm.trans ((Bool.not_eq_true' _).mp hbad)) (by decide)
    · exact hbad hmine
  · rw [show (s.node.at c.time).ps2 = true from hps2]
    exact Bool.false_ne_true
  · rw [hfree']
    omega
  · exact fun hempty => hsome (List.isEmpty_iff.mp hempty)
  · rw [hfree', if_neg (by decide : ¬ 0 = 2)]
    rfl

end

/-- Settles O55. -/
theorem remoteAccessesAreRequested : Obligations.RemoteAccessesAreRequested :=
  ⟨fun _ _ _ _ _ hfn => ⟨exec_bar2ReadTlp_refused hfn, exec_bar2ReadTlp_size hfn, exec_bar2ReadTlp_reads hfn⟩,
   fun _ _ _ _ _ hfn hslot hsize halign => exec_bar2WriteTlp hfn hslot hsize halign,
   fun _ _ _ _ _ h hsrc ht hop hx => exec_rwinRspReceived_read h hsrc ht hop hx,
   fun _ _ _ _ hx hkind hpast => exec_readTimeout hx hkind hpast,
   fun _ _ h => exec_bridgeStatus h,
   fun _ _ h hctx hslot hhi hwindow hoffset =>
     ⟨exec_bridgeMap_busy h hctx hslot hhi hwindow hoffset, exec_bridgeMap h hctx hslot hhi hwindow hoffset⟩,
   fun _ _ hnum => ⟨exec_bridgeUnmap hnum, exec_bridgeUnlock hnum⟩,
   fun _ _ _ h ht hargs hps2 => by
     subst ht
     exact ⟨exec_bridgeRead_absent hargs hps2 h, exec_bridgeRead hargs hps2 h⟩,
   fun _ _ h hargs hps2 => exec_bridgeWrite hargs hps2 h,
   fun _ _ h hsem hslot hvalid hmine hps2 hfree hsome => exec_bridgeLock h hsem hslot hvalid hmine hps2 hfree hsome⟩

end Sys2Proof.Machine
end

section
/-! PROOF. Sections of an image neither read nor write the time (R104, R130, R788). -/

namespace Sys2Proof.Machine

/-- A node with another time, other events waiting and another slot chosen. -/
def Node.hide (n : Node) (t : TimeState) (e : EvState) (k : Nat) : Node :=
  { n with tm := t, ev := e, boot := { n.boot with slot := k } }

section
variable (n : Node) (t : TimeState) (e : EvState) (k : Nat)

@[simp] theorem Node.hide_setReg (a : Nat) (v : Word) : (n.hide t e k).setReg a v = (n.setReg a v).hide t e k := (rfl)

@[simp] theorem Node.hide_reg (a : Nat) : (n.hide t e k).reg a = n.reg a := (rfl)

@[simp] theorem Node.hide_fld (a : Nat) (f : Field) : (n.hide t e k).fld a f = n.fld a f := (rfl)

@[simp] theorem Node.hide_setFld (a : Nat) (f : Field) (v : Nat) : (n.hide t e k).setFld a f v = (n.setFld a f v).hide t e k := (rfl)

@[simp] theorem Node.hide_setBit (a i : Nat) (b : Bool) : (n.hide t e k).setBit a i b = (n.setBit a i b).hide t e k := (rfl)

@[simp] theorem Node.hide_setBits (a lo w v : Nat) : (n.hide t e k).setBits a lo w v = (n.setBits a lo w v).hide t e k := (rfl)

@[simp] theorem Node.hide_setRegs (a : Nat) (vs : List Word) : (n.hide t e k).setRegs a vs = (n.setRegs a vs).hide t e k := by
  induction vs generalizing n a with
  | nil => rfl
  | cons v vs ih => exact ih (n.setReg a v) (a + 4)

@[simp] theorem Node.hide_bit (a i : Nat) : (n.hide t e k).bit a i = n.bit a i := (rfl)

@[simp] theorem Node.hide_bits (a lo w : Nat) : (n.hide t e k).bits a lo w = n.bits a lo w := (rfl)

/-- A fold of steps that neither read nor write what is hidden does neither. -/
theorem Node.hide_foldl {β : Type} (l : List β) (step : Node → β → Node) (h : ∀ m x, step (m.hide t e k) x = (step m x).hide t e k) :
    l.foldl step (n.hide t e k) = (l.foldl step n).hide t e k := by
  induction l generalizing n with
  | nil => rfl
  | cons x l ih => rw [List.foldl_cons, List.foldl_cons, h, ih]

theorem Node.hide_ite (c : Prop) [Decidable c] (a b : Node) :
    (if c then a else b).hide t e k = if c then a.hide t e k else b.hide t e k :=
  apply_ite (Node.hide · t e k) c a b

/-! ### Protected memories -/

theorem Node.hide_injOff : (n.hide t e k).injOff = n.injOff.hide t e k := by
  unfold Node.injOff
  simp only [Node.hide_setFld, Node.hide_setReg, Node.hide_setBit]

theorem Node.hide_injUse : (n.hide t e k).injUse = n.injUse.hide t e k := by
  unfold Node.injUse
  dsimp only
  rw [Node.hide_reg, Node.hide_ite, Node.hide_setReg, Node.hide_injOff]

/-- What injections have spoilt replaced. -/
def Node.spoils (n : Node) (sp : List (Nat × Nat × Bool)) : Node := { n with mem := { n.mem with spoilt := sp } }

theorem Node.hide_spoils (sp : List (Nat × Nat × Bool)) : (n.hide t e k).spoils sp = (n.spoils sp).hide t e k := (rfl)

theorem Node.injWords_spoils (mem first words one two unit hi : Nat) : n.injWords mem first words one two unit hi =
    let m := n.spoils (n.mem.spoilt.filter fun x => !(x.1 == mem && decide (first ≤ x.2.1) && decide (x.2.1 < first + words)))
    if !(decide (first ≤ unit) && decide (unit < first + words)) then m
    else if n.injMatch one (n.reg Reg.TST_INJ_TARGET).toNat then m.injUse.spoils (m.mem.spoilt ++ [(mem, unit, false)])
    else if n.injMatch two (n.reg Reg.TST_INJ_TARGET).toNat then
      m.injUse.spoils (if bitsOf (n.reg Reg.TST_INJ_MASK).toNat 0 hi ==
          bitsOf (n.reg Reg.TST_INJ_MASK).toNat (if hi = 6 then 8 else 16) hi then m.mem.spoilt
        else m.mem.spoilt ++ [(mem, unit, true)])
    else m := (rfl)

theorem Node.hide_injMatch (kind u : Nat) : (n.hide t e k).injMatch kind u = n.injMatch kind u := (rfl)

theorem Node.hide_mem : (n.hide t e k).mem = n.mem := (rfl)

theorem Node.hide_injWords (mem first words one two unit hi : Nat) :
    (n.hide t e k).injWords mem first words one two unit hi = (n.injWords mem first words one two unit hi).hide t e k := by
  rw [Node.injWords_spoils, Node.injWords_spoils]
  simp only [Node.hide_mem, Node.hide_spoils, Node.hide_injUse, Node.hide_injMatch, Node.hide_reg, Node.hide_ite]

theorem Node.hide_injSram (mem first words : Nat) : (n.hide t e k).injSram mem first words = (n.injSram mem first words).hide t e k :=
  n.hide_injWords t e k _ _ _ _ _ _ _

theorem Node.hide_syncStb : (n.hide t e k).syncStb = n.syncStb.hide t e k := by
  unfold Node.syncStb
  dsimp only
  rw [Node.hide_setReg, Node.hide_setReg]
  rfl

theorem Node.hide_rule (r w : Nat) : (n.hide t e k).rule r w = n.rule r w := (rfl)

theorem Node.hide_ruleWrite (r w : Nat) (v : Word) : (n.hide t e k).ruleWrite r w v = (n.ruleWrite r w v).hide t e k := by
  unfold Node.ruleWrite
  dsimp only
  rw [Node.hide_setReg, Node.hide_injSram, Node.hide_setReg, Node.hide_rule, Node.hide_rule, Node.hide_reg]

theorem Node.hide_putStrm (s : Nat) (x : Strm) : (n.hide t e k).putStrm s x = (n.putStrm s x).hide t e k := by
  unfold Node.putStrm
  rw [Node.hide_setRegs, Node.hide_injSram, Node.hide_syncStb]

/-! ### The loads of the sections -/

theorem Node.hide_plc : (n.hide t e k).plc = n.plc := (rfl)

theorem Node.hide_egressTo (tbl : List NumEntry) (u v : Nat) (lineB : Bool) :
    (n.hide t e k).egressTo tbl u v lineB = n.egressTo tbl u v lineB := (rfl)

theorem Node.hide_segsFrom (tbl : List NumEntry) (lineB : Bool) (u : Nat) :
    (n.hide t e k).segsFrom tbl lineB u = n.segsFrom tbl lineB u := by
  unfold Node.segsFrom
  simp only [Node.hide_plc, Node.hide_egressTo]

theorem Node.hide_nextLevel (tbl : List NumEntry) (lineB : Bool) (seen : List Nat) (first : Bool)
    (frontier : List (Nat × Nat × Option Nat)) :
    (n.hide t e k).nextLevel tbl lineB seen first frontier = n.nextLevel tbl lineB seen first frontier := by
  unfold Node.nextLevel
  simp only [Node.hide_segsFrom]

theorem Node.hide_pathsFrom (tbl : List NumEntry) (lineB : Bool) (fuel : Nat) (seen : List Nat) (first : Bool)
    (frontier : List (Nat × Nat × Option Nat)) (acc : List Seg) :
    (n.hide t e k).pathsFrom tbl lineB fuel seen first frontier acc = n.pathsFrom tbl lineB fuel seen first frontier acc := by
  induction fuel generalizing seen first frontier acc with
  | zero => rfl
  | succ fuel ih =>
    unfold Node.pathsFrom
    dsimp only
    rw [Node.hide_nextLevel, ih]

theorem Node.hide_jalderSeg (u v : Nat) : (n.hide t e k).jalderSeg u v = n.jalderSeg u v := (rfl)

theorem Node.hide_copyOf (tbl : List NumEntry) (src : NumEntry) (lineB : Bool) (dests : List Nat) :
    (n.hide t e k).copyOf tbl src lineB dests = n.copyOf tbl src lineB dests := by
  unfold Node.copyOf
  simp only [Node.hide_pathsFrom, Node.hide_jalderSeg]

theorem Node.hide_plcTable : (n.hide t e k).plcTable = n.plcTable := (rfl)

theorem Node.hide_masterId : (n.hide t e k).masterId = n.masterId := (rfl)

theorem Node.hide_crossings : (n.hide t e k).crossings = n.crossings := by
  unfold Node.crossings Node.crossingsOf
  simp only [Node.hide_plcTable, Node.hide_masterId, Node.hide_plc, Node.hide_copyOf]

theorem Node.hide_identity : (n.hide t e k).identity = n.identity := (rfl)

theorem Node.hide_wireTenths (p len : Nat) : (n.hide t e k).wireTenths p len = n.wireTenths p len := (rfl)

theorem Node.hide_strm (s : Nat) : (n.hide t e k).strm s = n.strm s := (rfl)

/-- Whether a mode is usable does not depend on what is hidden. -/
theorem Node.hide_usable (m : Mode) : (n.hide t e k).usable m = n.usable m := by
  unfold Node.usable
  simp only [Node.hide_fld, Node.hide_identity, Node.hide_wireTenths, Node.hide_strm, Node.hide_plc, Node.hide_crossings]

theorem Node.hide_master : (n.hide t e k).master = n.master := (rfl)

theorem Node.hide_showMode (m : Mode) : (n.hide t e k).showMode m = (n.showMode m).hide t e k := by
  unfold Node.showMode
  rw [Node.hide_setRegs, Node.hide_master, Node.hide_usable]

theorem Node.hide_putMode (m : Mode) : (n.hide t e k).putMode m = (n.putMode m).hide t e k :=
  Node.hide_showMode { n with cyc := { n.cyc with modes := n.cyc.modes.filter (fun x => x.num != m.num) ++ [m] } } t e k m

theorem Node.hide_canFilterLoad (v : List Byte) : (n.hide t e k).canFilterLoad v = (n.canFilterLoad v).hide t e k := by
  unfold Node.canFilterLoad
  simp only [Node.hide_setReg]

theorem Node.hide_canObjectLoad (v : List Byte) : (n.hide t e k).canObjectLoad v = (n.canObjectLoad v).hide t e k := by
  unfold Node.canObjectLoad Node.canCompat
  simp only [Node.hide_bit, Node.hide_setRegs, Node.hide_ite]

theorem Node.hide_onCtl (c : Nat) (f : CanState → CanState) : (n.hide t e k).onCtl c f = (n.onCtl c f).hide t e k := (rfl)

theorem Node.hide_ctl (c : Nat) : (n.hide t e k).ctl c = n.ctl c := (rfl)

theorem Node.hide_canLock (c kind i : Nat) : (n.hide t e k).canLock c kind i = n.canLock c kind i := (rfl)

theorem Node.hide_showCan (c : Nat) : (n.hide t e k).showCan c = (n.showCan c).hide t e k := by
  unfold Node.showCan
  simp only [Node.hide_ctl, Node.hide_bit, Node.hide_fld, Node.hide_setFld]

theorem Node.hide_syncCan (c : Nat) : (n.hide t e k).syncCan c = (n.syncCan c).hide t e k := by
  unfold Node.syncCan
  dsimp only
  rw [Node.hide_ctl]
  simp only [Node.hide_canLock]
  rw [Node.hide_foldl _ _ _ _ _ _ fun _ _ => Node.hide_setReg _ _ _ _ _ _, Node.hide_foldl _ _ _ _ _ _ fun _ _ => ?_, Node.hide_setReg]
  · split
    · exact Node.hide_setRegs _ _ _ _ _ _
    · exact Node.hide_setRegs _ _ _ _ _ _
  · rw [Node.hide_setReg, Node.hide_setRegs]

theorem Node.hide_canCtrlLoad (v : List Byte) : (n.hide t e k).canCtrlLoad v = (n.canCtrlLoad v).hide t e k := by
  unfold Node.canCtrlLoad
  simp only [Node.hide_setReg, Node.hide_setFld, Node.hide_onCtl, Node.hide_showCan, Node.hide_syncCan]

theorem Node.hide_dsShow (i : Nat) (d : Dataset) : (n.hide t e k).dsShow i d = (n.dsShow i d).hide t e k :=
  n.hide_setRegs t e k _ _

theorem Node.hide_lineShow (rs : Records) (l : Nat) : (n.hide t e k).lineShow rs l = (n.lineShow rs l).hide t e k := by
  unfold Node.lineShow
  split
  · exact n.hide_setRegs t e k _ _
  · rfl

theorem Node.hide_windowLoad (v : List Byte) : (n.hide t e k).windowLoad v = (n.windowLoad v).hide t e k :=
  n.hide_setRegs t e k _ _

theorem Node.hide_brgGlobalLoad (v : List Byte) : (n.hide t e k).brgGlobalLoad v = (n.brgGlobalLoad v).hide t e k := by
  unfold Node.brgGlobalLoad
  simp only [Node.hide_setReg]

theorem Node.hide_routes : (n.hide t e k).routes = n.routes := (rfl)

theorem Node.hide_syncBrgCfg : (n.hide t e k).syncBrgCfg = n.syncBrgCfg.hide t e k := by
  unfold Node.syncBrgCfg
  simp only [Node.hide_bit, Node.hide_routes, Node.hide_setReg]

theorem Node.hide_aud : (n.hide t e k).aud = n.aud := (rfl)

theorem Node.hide_syncLib : (n.hide t e k).syncLib = n.syncLib.hide t e k := by
  unfold Node.syncLib
  simp only [Node.hide_aud, Node.hide_setReg]

theorem Node.hide_holder : (n.hide t e k).holder = n.holder := (rfl)

theorem Node.hide_paired : (n.hide t e k).paired = n.paired := (rfl)

theorem Node.hide_zonesHeld : (n.hide t e k).zonesHeld = n.zonesHeld := (rfl)

/-- The lines that are driven from now on. -/
def Node.drives (n : Node) : Node :=
  { n with pd := { n.pd with driven := (n.pd.touched.filter fun l => n.fld (Reg.DIO_LN_CFG l) Fld.DIO_LN_CFG_DIR == 1 &&
    (n.fld (Reg.DIO_LN_CFG l) Fld.DIO_LN_CFG_TOKEN == 0 || n.holder)).map fun l => (l, n.bit Reg.DIO_OUT l) } }

theorem Node.syncDrivers_drives : n.syncDrivers = [0, 1, 2, 3].foldl (fun m p =>
    if m.fld (Reg.AUD_TDM_CFG p) Fld.AUD_TDM_CFG_TOKEN == 1 then m.setBit (Reg.AUD_TDM_STAT p) 2 m.holder else m) n.drives := (rfl)

theorem Node.hide_drives : (n.hide t e k).drives = n.drives.hide t e k := (rfl)

theorem Node.hide_syncDrivers : (n.hide t e k).syncDrivers = n.syncDrivers.hide t e k := by
  rw [Node.syncDrivers_drives, Node.syncDrivers_drives, Node.hide_drives, Node.hide_foldl _ _ _ _ _ _ fun _ _ => ?_]
  rw [Node.hide_ite, Node.hide_setBit, Node.hide_holder, Node.hide_fld]

theorem Node.hide_audShow (rs : Records) : (n.hide t e k).audShow rs = (n.audShow rs).hide t e k := by
  unfold Node.audShow
  dsimp only
  rw [Node.hide_setReg, Node.hide_foldl _ _ _ _ _ _ fun _ _ => ?_, Node.hide_foldl _ _ _ _ _ _ fun _ _ => Node.hide_setReg _ _ _ _ _ _,
    Node.hide_zonesHeld, Node.hide_foldl _ _ _ _ _ _ fun _ _ => Node.hide_setFld _ _ _ _ _ _ _, Node.hide_setFld, Node.hide_setBit]
  · rfl
  · rw [Node.hide_setReg, Node.hide_setReg]
    rfl

theorem Node.hide_hostLoad (v : List Byte) : (n.hide t e k).hostLoad v = (n.hostLoad v).hide t e k := by
  unfold Node.hostLoad
  dsimp only
  rw [Node.hide_setReg, Node.hide_setReg, Node.hide_foldl _ _ _ _ _ _ fun _ _ => ?_, Node.hide_setBit]
  · rfl
  · rw [Node.hide_ite, Node.hide_setReg]

/-- The share of a context is entered where the last one ended. -/
def Node.shareLoad (rs : Records) (a : Node × Nat) (c : Nat) : Node × Nat :=
  match (rs.of 1).find? fun v => byteAt v 0 == c with
  | some v => ((a.1.setReg (Reg.JRN_CTX_BASE c) (word a.2)).setReg (Reg.JRN_CTX_SIZE c) (word (leAt v 4 2)), a.2 + leAt v 4 2)
  | none => ((a.1.setReg (Reg.JRN_CTX_BASE c) 0#32).setReg (Reg.JRN_CTX_SIZE c) 0#32, a.2)

theorem Node.sharesLoad_eq (rs : Records) : n.sharesLoad rs = ((List.range 8).foldl (Node.shareLoad rs) (n, 0)).1 := (rfl)

theorem Node.hide_shareLoad (rs : Records) (a : Node × Nat) (c : Nat) :
    Node.shareLoad rs (a.1.hide t e k, a.2) c = ((Node.shareLoad rs a c).1.hide t e k, (Node.shareLoad rs a c).2) := by
  unfold Node.shareLoad
  split
  · rw [Node.hide_setReg, Node.hide_setReg]
  · rw [Node.hide_setReg, Node.hide_setReg]

theorem Node.hide_sharesLoad (rs : Records) : (n.hide t e k).sharesLoad rs = (n.sharesLoad rs).hide t e k := by
  rw [Node.sharesLoad_eq, Node.sharesLoad_eq]
  exact congrArg Prod.fst (List.foldl_hom (init := (n, 0)) (fun a : Node × Nat => (a.1.hide t e k, a.2))
    fun a c => Node.hide_shareLoad t e k rs a c)

theorem Node.hide_pairRecLoad (v : List Byte) : (n.hide t e k).pairRecLoad v = (n.pairRecLoad v).hide t e k := by
  unfold Node.pairRecLoad
  simp only [Node.hide_setRegs, Node.hide_setReg]

theorem Node.hide_inaRecLoad (v : List Byte) : (n.hide t e k).inaRecLoad v = (n.inaRecLoad v).hide t e k := by
  unfold Node.inaRecLoad
  simp only [Node.hide_setReg]

/-! ### The sections -/

theorem Node.hide_worldLoad (rs : Records) : (n.hide t e k).worldLoad rs = (n.worldLoad rs).hide t e k := by
  unfold Node.worldLoad
  dsimp only
  rw [Node.hide_foldl _ _ _ _ _ _ fun _ _ => ?_, Node.hide_foldl _ _ _ _ _ _ fun _ _ => Node.hide_setRegs _ _ _ _ _ _, Node.hide_setReg]
  rw [Node.hide_ite, Node.hide_setBit]

/-- The registers of a PORTS section. -/
def Node.portRegs (n : Node) (f : ImageFacts) : Node :=
  let m := (f.iftypes.take 12).zipIdx.foldl (fun m x =>
    let v := if bitsOf x.1 0 4 = 0 then 0#32 else word x.1
    (m.setReg (Reg.SPN_IFTYPE x.2) v).setReg (Reg.SPN_PREEMPT_STAT x.2) (word (bitsOf v.toNat 8 1))) n
  let m := (f.keyNums.take 4).zipIdx.foldl (fun m x => m.setReg (Reg.SPN_MACSEC_KEYNUM x.2) (word x.1)) m
  let m := ((m.setReg Reg.SPN_ETYPE (word f.etype)).setReg Reg.SPN_SPINE_VID (word f.vid)).setReg Reg.SPN_WAKE_CODE (word f.wake)
  let m := (f.mdioDivs.take 2).zipIdx.foldl (fun m x => m.setReg (Reg.SPN_MDIO_CFG x.2) (word (x.1 % 256))) m
  f.rules.foldl (fun m x => x.2.zipIdx.foldl (fun k w => if x.1 < 8192 ∧ w.2 < 8 then k.ruleWrite x.1 w.2 w.1 else k) m) m

/-- The scripts of a PORTS section. -/
def Node.portScripts (n : Node) (f : ImageFacts) : Node :=
  { n with net := { n.net with
    scriptEnter := f.scriptEnter.map fun x => (mdioOf x).2
    scriptExit := f.scriptExit.map fun x => (mdioOf x).2
    phyLoop := f.loopSet.map mdioOf
    phyUnloop := f.loopClear.map mdioOf } }

/-- The controllers of a PORTS section. -/
def Node.portCan (n : Node) (rs : Records) : Node :=
  (rs.of 0x62).foldl (fun m v => m.canObjectLoad v) ((rs.of 0x61).foldl (fun m v => m.canFilterLoad v)
    ((rs.of 0x60).foldl (fun m v => m.canCtrlLoad v) n))

/-- The lanes of a PORTS section. -/
def Node.portLanes (n : Node) (rs : Records) : Node := { n with boot := { n.boot with lanes := rs.of 0x70 } }

theorem Node.portsLoad_eq (f : ImageFacts) (rs : Records) :
    n.portsLoad f rs = (((n.portRegs f).portScripts f).portCan rs).portLanes rs := (rfl)

theorem Node.hide_portRegs (f : ImageFacts) : (n.hide t e k).portRegs f = (n.portRegs f).hide t e k := by
  unfold Node.portRegs
  dsimp only
  rw [Node.hide_foldl _ _ _ _ _ _ fun _ _ => ?_, Node.hide_foldl _ _ _ _ _ _ fun _ _ => Node.hide_setReg _ _ _ _ _ _, Node.hide_setReg,
    Node.hide_setReg, Node.hide_setReg, Node.hide_foldl _ _ _ _ _ _ fun _ _ => Node.hide_setReg _ _ _ _ _ _,
    Node.hide_foldl _ _ _ _ _ _ fun _ _ => ?_]
  · rw [Node.hide_foldl _ _ _ _ _ _ fun _ _ => ?_]
    rw [Node.hide_ite, Node.hide_ruleWrite]
  · rw [Node.hide_setReg, Node.hide_setReg]

theorem Node.hide_portScripts (f : ImageFacts) : (n.hide t e k).portScripts f = (n.portScripts f).hide t e k := (rfl)

theorem Node.hide_portCan (rs : Records) : (n.hide t e k).portCan rs = (n.portCan rs).hide t e k := by
  unfold Node.portCan
  rw [Node.hide_foldl _ _ _ _ _ _ fun _ _ => Node.hide_canCtrlLoad _ _ _ _ _,
    Node.hide_foldl _ _ _ _ _ _ fun _ _ => Node.hide_canFilterLoad _ _ _ _ _,
    Node.hide_foldl _ _ _ _ _ _ fun _ _ => Node.hide_canObjectLoad _ _ _ _ _]

theorem Node.hide_portLanes (rs : Records) : (n.hide t e k).portLanes rs = (n.portLanes rs).hide t e k := (rfl)

theorem Node.hide_portsLoad (f : ImageFacts) (rs : Records) : (n.hide t e k).portsLoad f rs = (n.portsLoad f rs).hide t e k := by
  rw [Node.portsLoad_eq, Node.portsLoad_eq, Node.hide_portRegs, Node.hide_portScripts, Node.hide_portCan, Node.hide_portLanes]

theorem Node.hide_hosts (rs : Records) : (((rs.of 1).foldl (fun m v => m.hostLoad v) (n.hide t e k)).sharesLoad rs) =
    (((rs.of 1).foldl (fun m v => m.hostLoad v) n).sharesLoad rs).hide t e k := by
  rw [Node.hide_foldl _ _ _ _ _ _ fun _ _ => Node.hide_hostLoad _ _ _ _ _, Node.hide_sharesLoad]

theorem Node.hide_modesLoad (rs : Records) : (n.hide t e k).modesLoad rs = (n.modesLoad rs).hide t e k :=
  Node.hide_foldl _ _ _ _ _ _ fun _ _ => Node.hide_putMode _ _ _ _ _

theorem Node.hide_streamsLoad (rs : Records) : (n.hide t e k).streamsLoad rs = (n.streamsLoad rs).hide t e k := by
  unfold Node.streamsLoad
  dsimp only
  rw [Node.hide_foldl _ _ _ _ _ _ fun _ _ => Node.hide_putStrm _ _ _ _ _ _]
  rfl

/-- The datasets that the node has from now on. -/
def Node.withSets (n : Node) (ds : List Dataset) (edge : Option Nat) : Node :=
  { n with pd := { n.pd with sets := ds, edgeCtx := edge } }

theorem Node.hide_withSets (ds : List Dataset) (edge : Option Nat) :
    (n.hide t e k).withSets ds edge = (n.withSets ds edge).hide t e k := (rfl)

theorem Node.datasetsLoad_eq (rs : Records) : n.datasetsLoad rs =
    let ds := datasetsOf rs
    let v5 := (rs.of 5).headD (encLE 2 0x88B6 ++ zeros 6)
    let m := ds.zipIdx.foldl (fun m x => m.dsShow x.2 x.1) n
    let m := (List.range 36).foldl (fun m l => m.lineShow rs l) m
    let made := (ds.filter fun d => !d.consumed).length
    let m := m.setReg Reg.PDT_CFG (word (ds.length + leAt v5 0 2 * 65536))
    let m := m.setBits Reg.PDT_STAT 0 31 (made + (ds.length - made) * 65536)
    (m.withSets ds (if (byteAt v5 4).testBit 7 then some (byteAt v5 4 % 8) else none)).syncDrivers := (rfl)

theorem Node.hide_datasetsLoad (rs : Records) : (n.hide t e k).datasetsLoad rs = (n.datasetsLoad rs).hide t e k := by
  rw [Node.datasetsLoad_eq, Node.datasetsLoad_eq]
  dsimp only
  rw [Node.hide_foldl _ _ _ _ _ _ fun _ _ => Node.hide_dsShow _ _ _ _ _ _, Node.hide_foldl _ _ _ _ _ _ fun _ _ => Node.hide_lineShow _ _ _ _ _ _,
    Node.hide_setReg, Node.hide_setBits, Node.hide_withSets, Node.hide_syncDrivers]

theorem Node.hide_canRouteLoad (rs : Records) : (n.hide t e k).canRouteLoad rs = (n.canRouteLoad rs).hide t e k := by
  unfold Node.canRouteLoad Node.tunTxLoad Node.tunRxLoad
  dsimp only
  rw [Node.hide_foldl _ _ _ _ _ _ fun _ _ => Node.hide_setReg _ _ _ _ _ _, Node.hide_foldl _ _ _ _ _ _ fun _ _ => Node.hide_setReg _ _ _ _ _ _,
    Node.hide_foldl _ _ _ _ _ _ fun _ _ => ?_, Node.hide_syncBrgCfg]
  rw [Node.hide_setReg, Node.hide_setReg]

theorem Node.hide_bridgeLoad (rs : Records) : (n.hide t e k).bridgeLoad rs = (n.bridgeLoad rs).hide t e k := by
  unfold Node.bridgeLoad
  rw [Node.hide_foldl _ _ _ _ _ _ fun _ _ => Node.hide_windowLoad _ _ _ _ _,
    Node.hide_foldl _ _ _ _ _ _ fun _ _ => Node.hide_brgGlobalLoad _ _ _ _ _, Node.hide_syncBrgCfg]

/-- The services that the node has from now on. -/
def Node.withAud (n : Node) (a : AudState) (mix : List Nat) : Node := { n with aud := a, plc := { n.plc with mixCap := mix } }

theorem Node.hide_withAud (a : AudState) (mix : List Nat) : (n.hide t e k).withAud a mix = (n.withAud a mix).hide t e k := (rfl)

theorem Node.audioLoad_eq (rs : Records) : n.audioLoad rs =
    let a := audOf n.aud rs
    let mix := ((engineLoad a.elements a.global.rate16).getD []).map fun x => if x.2 = 0 then 0 else 32
    ((n.withAud a ((mix ++ List.replicate 8 0).take 8)).audShow rs).syncLib := (rfl)

theorem Node.hide_audioLoad (rs : Records) : (n.hide t e k).audioLoad rs = (n.audioLoad rs).hide t e k := by
  rw [Node.audioLoad_eq, Node.audioLoad_eq]
  dsimp only
  rw [Node.hide_aud, Node.hide_withAud, Node.hide_audShow, Node.hide_syncLib]

end

end Sys2Proof.Machine
end

section
/-! PROOF. Whether the sections of an image are accepted does not depend on the time of the check (R107, R111, R130). -/

namespace Sys2Proof.Machine

section
variable (n : Node) (t : TimeState) (e : EvState) (k : Nat)

/-! ### The checks of the sections -/

theorem Node.hide_worldOk (rs : Records) : (n.hide t e k).worldOk rs = n.worldOk rs := (rfl)

theorem Node.hide_hostsOk (rs : Records) : (n.hide t e k).hostsOk rs = n.hostsOk rs := (rfl)

theorem Node.hide_modesOk (rs : Records) : (n.hide t e k).modesOk rs = n.modesOk rs := (rfl)

theorem Node.hide_streamsOk (rs : Records) : (n.hide t e k).streamsOk rs = n.streamsOk rs := (rfl)

theorem Node.hide_audOk (rs : Records) : (n.hide t e k).audOk rs = n.audOk rs := (rfl)

theorem Node.hide_datasetsOk (rs : Records) : (n.hide t e k).datasetsOk rs = n.datasetsOk rs := (rfl)

theorem Node.hide_canRouteOk (rs : Records) : (n.hide t e k).canRouteOk rs = n.canRouteOk rs := (rfl)

theorem Node.hide_bridgeOk (rs : Records) : (n.hide t e k).bridgeOk rs = n.bridgeOk rs := (rfl)

theorem Node.hide_sectionOk (f : ImageFacts) (type : Nat) (rs : Records) : (n.hide t e k).sectionOk f type rs = n.sectionOk f type rs := by
  unfold Node.sectionOk
  rw [Node.hide_worldOk, Node.hide_hostsOk, Node.hide_modesOk, Node.hide_streamsOk, Node.hide_audOk, Node.hide_datasetsOk,
    Node.hide_canRouteOk, Node.hide_bridgeOk]

theorem Node.hide_ownersOk : (n.hide t e k).ownersOk = n.ownersOk := (rfl)

end

/-! ### Nodes that differ in their time alone -/

/-- Two nodes that agree but for their time, the stamps of the events that wait, and the slot chosen. -/
def Node.Alike (n m : Node) : Prop := ∃ t e k, m = n.hide t e k ∧ e.queue.length = n.ev.queue.length

theorem Node.alike_refl (n : Node) : n.Alike n := ⟨n.tm, n.ev, n.boot.slot, rfl, rfl⟩

theorem Node.alike_at (n : Node) (time : Nat) : n.Alike (n.at time) :=
  ⟨{ n.tm with raw := max n.tm.raw time }, n.ev, n.boot.slot, rfl, rfl⟩

/-- A load that respects the agreement, and leaves the slot chosen. -/
structure Node.Steady (f : Node → Node) : Prop where
  alike : ∀ {n m : Node}, n.Alike m → (f n).Alike (f m)
  slot : ∀ n : Node, (f n).boot.slot = n.boot.slot

namespace Node.Steady

theorem of_hides {f : Node → Node} (h : ∀ n t e k, f (Node.hide n t e k) = (f n).hide t e k) : Steady f := by
  have hself : ∀ n : Node, f n = (f n).hide n.tm n.ev n.boot.slot := fun n => h n n.tm n.ev n.boot.slot
  refine ⟨?_, fun n => (congrArg (fun m : Node => m.boot.slot) (hself n)).trans rfl⟩
  rintro n _ ⟨t, e, k, rfl, hlen⟩
  exact ⟨t, e, k, h n t e k, hlen.trans (congrArg (fun m : Node => m.ev.queue.length) (hself n)).symm⟩

theorem comp {f g : Node → Node} (hg : Steady g) (hf : Steady f) : Steady fun n => g (f n) :=
  ⟨fun h => hg.alike (hf.alike h), fun n => (hg.slot (f n)).trans (hf.slot n)⟩

theorem foldl {β : Type} (l : List β) {step : Node → β → Node} (h : ∀ x, Steady fun n => step n x) : Steady fun n => l.foldl step n := by
  induction l with
  | nil => exact ⟨fun h => h, fun _ => rfl⟩
  | cons x l ih => exact comp ih (h x)

theorem ite (c : Prop) [Decidable c] {f g : Node → Node} (hf : Steady f) (hg : Steady g) : Steady fun n => if c then f n else g n := by
  by_cases h : c
  · simp only [if_pos h]
    exact hf
  · simp only [if_neg h]
    exact hg

/-- An event that is raised waits in both nodes or is dropped in both. -/
theorem raise (code d0 d1 : Nat) : Steady fun n => n.raise code d0 d1 := by
  refine ⟨?_, fun n => congrArg (·.slot) (Node.raise_boot n code d0 d1)⟩
  rintro n _ ⟨t, e, k, rfl, hlen⟩
  have hq : (n.hide t e k).ev.queue.length = n.ev.queue.length := hlen
  obtain ⟨hroom, hn⟩ | ⟨hfull, hn⟩ := n.raise_cases code d0 d1
  · obtain ⟨-, hm⟩ | ⟨hm, -⟩ := (n.hide t e k).raise_cases code d0 d1
    · rw [hn, hm]
      refine ⟨t, { e with queue := e.queue ++ [(n.hide t e k).eventNow code d0 d1] }, k, rfl, ?_⟩
      rw [List.length_append, List.length_append, hlen]
      rfl
    · omega
  · obtain ⟨hm, -⟩ | ⟨-, hm⟩ := (n.hide t e k).raise_cases code d0 d1
    · omega
    · rw [hn, hm]
      exact ⟨t, e, k, rfl, hlen⟩

end Node.Steady

/-! ### The loads that raise events or set the time -/

/-- The bases and the sizes of the DRAM regions in MiB. -/
def Node.regionsAt (n : Node) (sizes : List Nat) : Node :=
  ((List.range 5).foldl (fun (a : Node × Nat) r =>
    (a.1.setRegs (Reg.PLC_DRAM_BASE_LO r)
      [word (a.2 * 2 ^ 20), word (a.2 * 2 ^ 20 / 2 ^ 32), word (sizes.getD r 0)], a.2 + sizes.getD r 0)) (n, 0)).1

/-- The shortfalls of the regions that do not fit. -/
def Node.cutsRaise (n : Node) (cuts : List (Nat × Nat)) : Node :=
  cuts.foldl (fun m c => if c.2 = 0 then m else m.raise 0x390A c.1 c.2) n

theorem Node.regionsLoad_eq (n : Node) (lib recs store : Nat) : n.regionsLoad lib recs store =
    let room := n.bits Reg.MEM_SIZE 16 16 - 64
    let over0 := lib + recs + store - room
    let cutStore := min over0 store
    let cutRec := min (over0 - cutStore) recs
    let cutLib := min (over0 - cutStore - cutRec) lib
    (n.regionsAt [64, lib - cutLib, recs - cutRec, store - cutStore,
      room - (lib - cutLib) - (recs - cutRec) - (store - cutStore)]).cutsRaise [(3, cutStore), (2, cutRec), (1, cutLib)] := (rfl)

theorem Node.hide_regionsAt (n : Node) (t : TimeState) (e : EvState) (k : Nat) (sizes : List Nat) :
    (n.hide t e k).regionsAt sizes = (n.regionsAt sizes).hide t e k := by
  unfold Node.regionsAt
  refine congrArg Prod.fst (List.foldl_hom (init := (n, 0)) (fun a : Node × Nat => (a.1.hide t e k, a.2)) fun a r => ?_)
  rw [Node.hide_setRegs]

theorem Node.Steady.cutsRaise (cuts : List (Nat × Nat)) : Steady fun n => n.cutsRaise cuts :=
  foldl cuts fun _ => ite _ ⟨fun h => h, fun _ => rfl⟩ (raise _ _ _)

theorem Node.Steady.regionsLoad (lib recs store : Nat) : Steady fun n => n.regionsLoad lib recs store := by
  have hcut : ∀ sizes cuts, Steady fun n => (n.regionsAt sizes).cutsRaise cuts := fun sizes cuts =>
    comp (cutsRaise cuts) (of_hides fun n t e k => n.hide_regionsAt t e k sizes)
  refine ⟨?_, fun n => ?_⟩
  · rintro n m h
    have hroom : m.bits Reg.MEM_SIZE 16 16 = n.bits Reg.MEM_SIZE 16 16 := by
      obtain ⟨t, e, k, rfl, -⟩ := h
      exact n.hide_bits t e k _ _ _
    rw [Node.regionsLoad_eq, Node.regionsLoad_eq, hroom]
    exact (hcut _ _).alike h
  · rw [Node.regionsLoad_eq]
    exact (hcut _ _).slot n

/-- The registers that an ENGINES section sets. -/
def Node.poolRegs (n : Node) (cells expiry : Nat) : Node :=
  let open_ := 49152 - 512 - cells
  let m := (n.setReg Reg.TOP_BUF_CFG (word (cells + open_ * 65536))).setReg Reg.TOP_BUF_OPEN_FREE (word open_)
  let m := (m.setReg Reg.TOP_BUF_OPEN_MIN (word open_)).setReg Reg.PLC_POOL_FREE (word cells)
  { m with plc := { m.plc with poolCells := cells, expiry := expiry } }

theorem Node.enginesLoad_eq (n : Node) (rs : Records) : n.enginesLoad rs =
    let v := (rs.of 0x40).headD (encLE 4 16384 ++ zeros 20)
    (n.poolRegs (leAt v 0 4) (leAt v 16 4)).regionsLoad (leAt v 4 4) (leAt v 8 4) (leAt v 12 4) := (rfl)

theorem Node.hide_poolRegs (n : Node) (t : TimeState) (e : EvState) (k cells expiry : Nat) :
    (n.hide t e k).poolRegs cells expiry = (n.poolRegs cells expiry).hide t e k := (rfl)

theorem Node.Steady.enginesLoad (rs : Records) : Steady fun n => n.enginesLoad rs := by
  simp only [Node.enginesLoad_eq]
  exact comp (regionsLoad _ _ _) (of_hides fun n t e k => n.hide_poolRegs t e k _ _)

/-- The registers of a time record. -/
def Node.timeRegs (n : Node) (v : List Byte) : Node :=
  let j := byteAt v 0 % 8
  let m := (n.setReg Reg.CYC_CFG (word (j + byteAt v 1 * 16))).setReg Reg.CYC_TC_NS (word (125000 * 2 ^ j))
  let m := (List.range 13).foldl (fun m p => m.setReg (Reg.TMB_PD_ASYM p) (word (leAt v (4 + 4 * p) 4))) m
  (List.range 8).foldl (fun m c => m.setReg (Reg.TMB_CARTIME_CFG c) (word (byteAt v (0x38 + c) % 4 + byteAt v (0x40 + c) * 256))) m

/-- The offset of UTC set. -/
def Node.withUtc (n : Node) (utc : Nat) : Node := { n with tm := { n.tm with utc := utc } }

theorem Node.timeRecLoad_eq (n : Node) (v : List Byte) : n.timeRecLoad v = (n.timeRegs v).withUtc (leAt v 0x48 2) := (rfl)

theorem Node.hide_timeRegs (n : Node) (t : TimeState) (e : EvState) (k : Nat) (v : List Byte) :
    (n.hide t e k).timeRegs v = (n.timeRegs v).hide t e k := by
  unfold Node.timeRegs
  dsimp only
  rw [Node.hide_setReg, Node.hide_setReg, Node.hide_foldl _ _ _ _ _ _ fun _ _ => Node.hide_setReg _ _ _ _ _ _,
    Node.hide_foldl _ _ _ _ _ _ fun _ _ => Node.hide_setReg _ _ _ _ _ _]

theorem Node.Steady.withUtc (utc : Nat) : Steady fun n => n.withUtc utc := by
  refine ⟨?_, fun _ => rfl⟩
  rintro n _ ⟨t, e, k, rfl, hlen⟩
  exact ⟨{ t with utc := utc }, e, k, rfl, hlen⟩

theorem Node.Steady.timeRecLoad (v : List Byte) : Steady fun n => n.timeRecLoad v := by
  simp only [Node.timeRecLoad_eq]
  exact comp (withUtc _) (of_hides fun n t e k => n.hide_timeRegs t e k v)

/-! ### The sections of an image -/

theorem Node.boot_regionsLoad (n : Node) (lib recs store : Nat) : (n.regionsLoad lib recs store).boot = n.boot := by
  rw [Node.regionsLoad_eq]
  refine (foldl_keeps (fun m : Node => m.boot) _ _ _ fun m c => ?_).trans
    (foldl_keeps (fun a : Node × Nat => a.1.boot) (List.range 5) _ (n, 0) fun a r => Node.setRegs_boot _ _ _)
  split
  · rfl
  · exact Node.raise_boot _ _ _ _

theorem Node.boot_enginesLoad (n : Node) (rs : Records) : (n.enginesLoad rs).boot = n.boot := by
  rw [Node.enginesLoad_eq]
  exact (Node.boot_regionsLoad _ _ _ _).trans rfl

/-! ### The sections of an image -/

/-- The code of the engines as the image gives it. -/
def Node.withCode (n : Node) (code : List (Nat × List Byte)) : Node := { n with boot := { n.boot with code := code } }

theorem Node.sectionLoad_engines (n : Node) (f : ImageFacts) (rs : Records) :
    n.sectionLoad f 3 rs = (n.enginesLoad rs).withCode f.code := by
  rw [Node.withCode, Node.boot_enginesLoad]
  rfl

theorem Node.hide_withCode (n : Node) (t : TimeState) (e : EvState) (k : Nat) (code : List (Nat × List Byte)) :
    (n.hide t e k).withCode code = (n.withCode code).hide t e k := (rfl)

/-- The load of a section respects the agreement of two nodes and leaves the slot chosen. -/
theorem Node.steady_sectionLoad (f : ImageFacts) (type : Nat) (rs : Records) : Node.Steady fun n => n.sectionLoad f type rs := by
  by_cases h : type = 3
  · subst h
    simp only [Node.sectionLoad_engines]
    exact .comp (g := fun n => n.withCode f.code) (f := fun n => n.enginesLoad rs) (.of_hides fun n t e k => n.hide_withCode t e k _)
      (.enginesLoad rs)
  unfold Node.sectionLoad
  split
  · exact .of_hides fun n t e k => n.hide_worldLoad t e k rs
  · exact .of_hides fun n t e k => n.hide_portsLoad t e k f rs
  · exact absurd rfl h
  · exact .of_hides fun n t e k => n.hide_hosts t e k rs
  · exact .comp (.foldl _ fun v => .timeRecLoad v) (.comp (.foldl _ fun v => .of_hides fun n t e k => n.hide_inaRecLoad t e k v)
      (.foldl _ fun v => .of_hides fun n t e k => n.hide_pairRecLoad t e k v))
  · exact .of_hides fun n t e k => rfl
  · exact .of_hides fun n t e k => n.hide_modesLoad t e k rs
  · exact .of_hides fun n t e k => n.hide_streamsLoad t e k rs
  · exact .of_hides fun n t e k => n.hide_audioLoad t e k rs
  · exact .of_hides fun n t e k => n.hide_datasetsLoad t e k rs
  · exact .of_hides fun n t e k => n.hide_canRouteLoad t e k rs
  · exact .of_hides fun n t e k => n.hide_bridgeLoad t e k rs
  · exact ⟨fun h => h, fun _ => rfl⟩

theorem Node.Alike.sectionOk {n m : Node} (h : n.Alike m) (f : ImageFacts) (type : Nat) (rs : Records) :
    m.sectionOk f type rs = n.sectionOk f type rs := by
  obtain ⟨t, e, k, rfl, -⟩ := h
  exact n.hide_sectionOk t e k f type rs

/-- The loads of an image, none where one of its sections is not accepted. -/
def loadStep (f : ImageFacts) (acc : Option Node) (x : Nat × Records) : Option Node :=
  acc.bind fun m => if m.sectionOk f x.1 x.2 then some (m.sectionLoad f x.1 x.2) else none

theorem Node.loadSections_eq (n : Node) (f : ImageFacts) (l : List (Nat × Records)) : n.loadSections f l = l.foldl (loadStep f) (some n) := (rfl)

theorem loadStep_none (f : ImageFacts) (l : List (Nat × Records)) : l.foldl (loadStep f) none = none := by
  induction l with
  | nil => rfl
  | cons x l ih => exact ih

theorem Node.loadSections_cons (n : Node) (f : ImageFacts) (x : Nat × Records) (l : List (Nat × Records)) : n.loadSections f (x :: l) =
    if n.sectionOk f x.1 x.2 then (n.sectionLoad f x.1 x.2).loadSections f l else none := by
  rw [Node.loadSections_eq, List.foldl_cons, loadStep, Option.bind_some]
  split
  · rfl
  · exact loadStep_none f l

/-- Nodes that differ in their time alone load the same sections, and differ in their time alone after it. -/
theorem Node.Alike.loadSections {n m : Node} (h : n.Alike m) (f : ImageFacts) (l : List (Nat × Records)) :
    Option.Rel Node.Alike (n.loadSections f l) (m.loadSections f l) := by
  induction l generalizing n m with
  | nil => exact .some h
  | cons x l ih =>
    rw [Node.loadSections_cons, Node.loadSections_cons, h.sectionOk]
    split
    · exact ih ((Node.steady_sectionLoad f x.1 x.2).alike h)
    · exact .none

/-- The slot chosen stands through the loads of an image. -/
theorem Node.slot_loadSections {n m : Node} {f : ImageFacts} {l : List (Nat × Records)} (h : n.loadSections f l = some m) :
    m.boot.slot = n.boot.slot := by
  induction l generalizing n with
  | nil => exact congrArg (fun k : Node => k.boot.slot) (Option.some.inj h).symm
  | cons x l ih =>
    rw [Node.loadSections_cons] at h
    split at h
    · exact (ih h).trans ((Node.steady_sectionLoad f x.1 x.2).slot n)
    · cases h

theorem isNone_of_rel {α : Type} {r : α → α → Prop} {a b : Option α} (h : Option.Rel r a b) : b.isNone = a.isNone := by
  cases h <;> rfl

/-! ### The checks of a slot and of a tint -/

/-- A node with another node's time, memories and free values. -/
def Node.sees (r : Node) (t : TimeState) (mem : MemState) (fresh : Nat) : Node := { r with tm := t, mem := mem, fresh := fresh }

theorem Node.sees_hides (r : Node) (t t' : TimeState) (mem : MemState) (fresh : Nat) :
    r.sees t' mem fresh = (r.sees t mem fresh).hide t' r.ev r.boot.slot := (rfl)

theorem Node.blank_sees (n : Node) : n.blank = [Reg.MEM_SIZE, Reg.MEM_STAT, Reg.TOP_NODE_ID_LO, Reg.TOP_NODE_ID_HI].foldl
    (fun m a => m.setReg a (n.reg a)) (Node.reset.sees n.tm n.mem n.fresh) := (rfl)

theorem Node.alike_blank (n : Node) (time : Nat) : n.blank.Alike (n.at time).blank := by
  have hstart : (Node.reset.sees n.tm n.mem n.fresh).Alike (Node.reset.sees (n.at time).tm n.mem n.fresh) :=
    ⟨_, _, _, Node.sees_hides _ _ _ _ _, rfl⟩
  rw [Node.blank_sees, Node.blank_sees]
  exact (Node.Steady.foldl _ fun a => .of_hides fun m t e k => m.hide_setReg t e k a (n.reg a)).alike hstart

theorem Node.isNone_loadFull {n m : Node} (h : n.Alike m) (f : ImageFacts) (rd : Reader) :
    (m.loadFull f rd).isNone = (n.loadFull f rd).isNone := by
  unfold Node.loadFull
  cases imgRecords rd with
  | none => rfl
  | some l =>
    dsimp only [Option.bind_some]
    have hrel := h.loadSections f l
    generalize n.loadSections f l = a at hrel ⊢
    generalize m.loadSections f l = b at hrel ⊢
    cases hrel with
    | none => rfl
    | some hx =>
      obtain ⟨t, e, k, rfl, -⟩ := hx
      dsimp only [Option.bind_some]
      rw [Node.hide_ownersOk]
      split <;> rfl

theorem Node.slotContentFault_at (n : Node) (time : Nat) (f : ImageFacts) (rd : Reader) :
    (n.at time).slotContentFault f rd = n.slotContentFault f rd := by
  unfold Node.slotContentFault
  rw [Node.isNone_loadFull (n.alike_blank time)]
  split
  · rfl
  · split
    · rw [isNone_of_rel ((n.alike_blank time).loadSections f _)]
    · rfl

/-- The checks of a slot do not depend on when they end (R111, R133). -/
theorem Node.verifyFault_at (n : Node) (time : Nat) (o : Otp) (facts : ImageFacts) (rd : Reader) :
    (n.at time).verifyFault o facts rd = n.verifyFault o facts rd := by
  unfold Node.verifyFault
  rw [Node.slotContentFault_at]

theorem Node.hide_sectionClear (n : Node) (t : TimeState) (e : EvState) (k : Nat) (type : Nat) :
    (n.hide t e k).sectionClear type = (n.sectionClear type).hide t e k := by
  unfold Node.sectionClear
  split
  · dsimp only
    rw [Node.hide_foldl _ _ _ _ _ _ fun _ _ => Node.hide_setRegs _ _ _ _ _ _]
    rfl
  · dsimp only
    rw [Node.hide_foldl _ _ _ _ _ _ fun _ _ => Node.hide_putStrm _ _ _ _ _ _]
    rfl
  · dsimp only
    rw [Node.hide_foldl _ _ _ _ _ _ fun _ _ => Node.hide_setRegs _ _ _ _ _ _, Node.hide_foldl _ _ _ _ _ _ fun _ _ => Node.hide_setReg _ _ _ _ _ _,
      Node.hide_foldl _ _ _ _ _ _ fun _ _ => Node.hide_setFld _ _ _ _ _ _ _]
  · dsimp only
    rw [Node.hide_foldl _ _ _ _ _ _ fun _ _ => Node.hide_setRegs _ _ _ _ _ _, Node.hide_foldl _ _ _ _ _ _ fun _ _ => Node.hide_setRegs _ _ _ _ _ _]
  · dsimp only
    rw [Node.hide_foldl _ _ _ _ _ _ fun _ _ => Node.hide_setReg _ _ _ _ _ _, Node.hide_routes, Node.hide_foldl _ _ _ _ _ _ fun _ _ => ?_]
    rw [Node.hide_setReg, Node.hide_setReg]
  · dsimp only
    rw [Node.hide_foldl _ _ _ _ _ _ fun _ _ => Node.hide_setRegs _ _ _ _ _ _, Node.hide_foldl _ _ _ _ _ _ fun _ _ => Node.hide_setReg _ _ _ _ _ _]
  · rfl

theorem Node.Alike.tintLoad {n m : Node} (h : n.Alike m) (l : List (Nat × Records)) : (m.tintLoad l).isNone = (n.tintLoad l).isNone :=
  isNone_of_rel (((Node.Steady.foldl (l.map (·.1)) fun type => .of_hides fun n t e k => n.hide_sectionClear t e k type).alike h).loadSections
    noFacts l)

/-- The checks of a tint do not depend on when they end (R111, R125). -/
theorem Node.tintFault_at (n : Node) (time : Nat) (o : Otp) (facts : ImageFacts) (rd : Reader) :
    (n.at time).tintFault o facts rd = n.tintFault o facts rd := by
  unfold Node.tintFault
  dsimp only
  rw [Node.isNone_loadFull (n.alike_blank time)]
  cases imgRecords rd with
  | none => rfl
  | some l =>
    dsimp only
    rw [(n.alike_at time).tintLoad l]
    rfl

end Sys2Proof.Machine
end

section
/-! PROOF. The image commands and the jobs of the flash (R116, R123 to R139). -/

namespace Sys2Proof.Machine

/-! ### Commands that wait, and their completion -/

/-- What the completion of waiting commands leaves of a node, in the registers below the host blocks and outside the host
interface. -/
structure Node.Released (n m : Node) : Prop where
  reg : ∀ a, a < hostBlock → m.reg a = n.reg a
  boot : m.boot = n.boot
  flash : m.mem.flash = n.mem.flash

theorem Node.released_finish (n : Node) (c r seq opcode status : Nat) (res : List Word) :
    n.Released (n.finish c r seq opcode status res) := by
  refine ⟨fun a ha => Node.reg_finish_host ha n c r seq opcode status res, ?_, ?_⟩ <;>
    rw [Node.finish_eq_withCompleted] <;> rfl

theorem Node.released_finishWaits (n : Node) (sel : Wait → Bool) (status : Nat) (res : List Word) :
    n.Released (n.finishWaits sel status res) :=
  List.foldlRecOn (motive := fun m => n.Released m) _ _ ⟨fun _ _ => rfl, rfl, rfl⟩ fun m hm w _ => by
    obtain ⟨hreg, hboot, hflash⟩ := m.released_finish w.ctx w.ring w.seq w.opcode status res
    exact ⟨fun a ha => (hreg a ha).trans (hm.reg a ha), hboot.trans hm.boot, hflash.trans hm.flash⟩

/-- The end of a job leaves the flash, the jobs behind it and every register that is not the flash's own. -/
theorem Node.boot_endJob (n : Node) (j : FlashJob) (status : Nat) (res : List Word) :
    (n.endJob j status res).boot = { n.boot with jobs := n.boot.jobs.drop 1 } := by
  unfold Node.endJob
  rw [(Node.released_finishWaits _ _ _ _).boot]
  rfl

theorem Node.flash_endJob (n : Node) (j : FlashJob) (status : Nat) (res : List Word) :
    (n.endJob j status res).mem.flash = n.mem.flash := by
  unfold Node.endJob
  rw [(Node.released_finishWaits _ _ _ _).flash]
  rfl

theorem Node.reg_endJob (n : Node) (j : FlashJob) (status : Nat) (res : List Word) {a : Nat} (ha : a < hostBlock)
    (hstat : a ≠ Reg.MEM_FLASH_STAT) : (n.endJob j status res).reg a = n.reg a := by
  unfold Node.endJob
  rw [(Node.released_finishWaits _ _ _ _).reg a ha]
  exact Node.reg_setBits_ne _ 16 1 _ hstat

/-! ### The commands -/

section
variable {s : State} {c : Cmd} {i : Instr} {op nargs : Nat} {g : Node → Node} {act : Node → Answer}

/-- With the DRAM sound, a command of the image block ends as its own checks and effect answer (R726). -/
theorem exec_imageSettles (hexec : exec i s = .next (s.runs c op fun n => n.imageCommand c nargs act))
    (h : s.node.takes c op (.secure instImg) nargs = true) (hdram : s.node.dramFailed = false)
    (hact : Node.settle c (act (s.node.at c.time)) = g s.node) : exec i s = .next (s.on g) := by
  rw [hexec, State.runs_takes s c op _ nargs _ h]
  exact State.next_on_congr ((Node.imageCommand_runs _ _ _ _ _ h hdram).trans hact)

/-- One whose arguments are wrong is turned away, with whatever DRAM. -/
theorem exec_imageRejects (hexec : exec i s = .next (s.runs c op fun n => n.imageCommand c nargs act))
    (h : s.node.takes c op (.secure instImg) nargs = true) (hact : act (s.node.at c.time) = .fail (s.node.at c.time) sArgs) :
    exec i s = .next (s.on fun n => (n.at c.time).completes c sArgs []) := by
  rw [hexec, State.runs_takes s c op _ nargs _ h]
  refine State.next_on_congr ?_
  unfold Node.imageCommand
  rw [Node.command_runs _ _ _ _ _ _ h, hact]
  exact congrArg (Node.settle c) (if_neg fun hno => hno.2 rfl)

theorem exec_imgSlotErase_starts (h : s.node.takes c 0x0D02 (.secure instImg) 1 = true) (hdram : s.node.dramFailed = false)
    (hslot : arg c 0 ≤ 1) (hfree : s.node.slotLocked s.otp (arg c 0) = false) :
    exec (.imgSlotErase c) s = .next (s.on fun n =>
      ((jobOf (n.at c.time) c 0 (arg c 0) 0 []).setBit Reg.MEM_FLASH_STAT 16 true).waitsFor c waitFlash c.entry.seq []) := by
  have hfree' : (s.node.at c.time).slotLocked s.otp (arg c 0) = false := hfree
  refine exec_imageSettles rfl h hdram ?_
  rw [if_neg (Nat.not_lt.mpr hslot), if_neg (by simp [hfree'])]
  rfl

theorem exec_imgSlotWrite_starts {bs : List Byte} (h : s.node.takes c 0x0D03 (.secure instImg) 6 = true)
    (hdram : s.node.dramFailed = false) (hslot : arg c 0 ≤ 1) (hfits : arg c 1 + arg c 2 ≤ slotImage)
    (hsource : s.node.imageSource c (arg c 3) (arg c 4) (arg c 5) (arg c 2) = some bs)
    (hfree : s.node.slotLocked s.otp (arg c 0) = false) :
    exec (.imgSlotWrite c) s = .next (s.on fun n =>
      ((jobOf (n.at c.time) c 1 (arg c 0) (arg c 1) bs).setBit Reg.MEM_FLASH_STAT 16 true).waitsFor c waitFlash c.entry.seq []) := by
  have hfree' : (s.node.at c.time).slotLocked s.otp (arg c 0) = false := hfree
  have hsource' : (s.node.at c.time).imageSource c (arg c 3) (arg c 4) (arg c 5) (arg c 2) = some bs := hsource
  refine exec_imageSettles rfl h hdram ?_
  rw [if_neg (by omega), hsource']
  dsimp only
  rw [if_neg (by simp [hfree'])]
  rfl

theorem exec_imgSlotVerify_starts (h : s.node.takes c 0x0D04 (.secure instImg) 1 = true) (hdram : s.node.dramFailed = false)
    (hslot : arg c 0 ≤ 1) :
    exec (.imgSlotVerify c) s = .next (s.on fun n =>
      ((jobOf (n.at c.time) c 2 (arg c 0) 0 []).setBit Reg.MEM_FLASH_STAT 16 true).waitsFor c waitFlash c.entry.seq []) := by
  refine exec_imageSettles rfl h hdram ?_
  rw [if_neg (Nat.not_lt.mpr hslot)]
  rfl

theorem exec_imgSlotMarkBad_marks (h : s.node.takes c 0x0D05 (.secure instImg) 1 = true) (hdram : s.node.dramFailed = false)
    (hslot : arg c 0 ≤ 1)
    (hidle : ¬ (s.node.fld Reg.IMG_STATE Fld.IMG_STATE_STATE = 2 ∧ s.node.fld Reg.IMG_STATE Fld.IMG_STATE_SLOT = arg c 0)) :
    exec (.imgSlotMarkBad c) s = .next (s.on fun n =>
      (((n.at c.time).markBad (arg c 0) 0x21).raise 0x1109 (arg c 0) 0x21).completes c sOk []) := by
  refine exec_imageSettles rfl h hdram ?_
  rw [if_neg (Nat.not_lt.mpr hslot), if_neg (by exact hidle)]
  rfl

theorem exec_imgTintStage_starts {bs : List Byte} (h : s.node.takes c 0x0D06 (.secure instImg) 4 = true)
    (hdram : s.node.dramFailed = false) (hsource : s.node.imageSource c (arg c 0) (arg c 2) (arg c 3) (arg c 1) = some bs)
    (hfree : s.node.fld Reg.IMG_TINT_STAT Fld.IMG_TINT_STAT_STATE ≠ 2) :
    exec (.imgTintStage c) s = .next (s.on fun n => (jobOf (n.at c.time) c 3 0 0 bs).waitsFor c waitFlash c.entry.seq []) := by
  have hsource' : (s.node.at c.time).imageSource c (arg c 0) (arg c 2) (arg c 3) (arg c 1) = some bs := hsource
  refine exec_imageSettles rfl h hdram ?_
  rw [hsource']
  dsimp only
  rw [if_neg (by exact hfree)]
  rfl

theorem exec_imgTintDiscard_discards (h : s.node.takes c 0x0D08 (.secure instImg) 0 = true) (hdram : s.node.dramFailed = false)
    (hfree : s.node.fld Reg.IMG_TINT_STAT Fld.IMG_TINT_STAT_STATE ≠ 2) :
    exec (.imgTintDiscard c) s = .next (s.on fun n =>
      ({ n.at c.time with boot := { n.boot with tint := none } }.tintIdle).completes c sOk []) := by
  refine exec_imageSettles rfl h hdram ?_
  rw [if_neg (by exact hfree)]
  rfl

/-- A commit of the tint that is staged asks for the switch. -/
theorem exec_imgTintCommit_asks (h : s.node.takes c 0x0D07 (.secure instImg) 2 = true) (hdram : s.node.dramFailed = false)
    (hmode : arg c 1 ≤ 7) (hplan : s.node.tintModes = true → arg c 1 ≤ 3) (hstaged : s.node.tintStaged = true)
    (htag : s.node.reg Reg.IMG_TINT_TAG = argW c 0) (hfree : s.node.fld Reg.IMG_TINT_STAT Fld.IMG_TINT_STAT_STATE ≠ 2)
    (hst : s.node.st = stRun) :
    exec (.imgTintCommit c) s = .next (s.on fun n => Node.settle c ((n.at c.time).askSwitch (arg c 1) 0 (arg c 0))) := by
  have hheld : ((s.node.at c.time).tintStaged && (s.node.at c.time).reg Reg.IMG_TINT_TAG == argW c 0) = true := by
    rw [show (s.node.at c.time).tintStaged = true from hstaged, show (s.node.at c.time).reg Reg.IMG_TINT_TAG = _ from htag]
    simp
  have hst' : (s.node.at c.time).st = stRun := hst
  have hargs : ¬ (7 < arg c 1 ∨ ((s.node.at c.time).tintModes = true ∧ 3 < arg c 1)) := by
    rintro (hbad | ⟨hmodes, hbad⟩)
    · omega
    · exact absurd (hplan hmodes) (by omega)
  refine exec_imageSettles rfl h hdram ?_
  simp only [hheld, true_and]
  rw [if_neg hargs, if_neg (by exact hfree), if_neg (by simp [hst'])]

/-- A commit of a tint that is not staged is turned away. -/
theorem exec_imgTintCommit_notStaged (h : s.node.takes c 0x0D07 (.secure instImg) 2 = true) (hdram : s.node.dramFailed = false)
    (hmode : arg c 1 ≤ 7) (hfree : s.node.fld Reg.IMG_TINT_STAT Fld.IMG_TINT_STAT_STATE ≠ 2)
    (hother : s.node.tintStaged = false ∨ s.node.reg Reg.IMG_TINT_TAG ≠ argW c 0) :
    exec (.imgTintCommit c) s = .next (s.on fun n => (n.at c.time).completes c sState []) := by
  have hheld : ((s.node.at c.time).tintStaged && (s.node.at c.time).reg Reg.IMG_TINT_TAG == argW c 0) = false := by
    rcases hother with hstaged | htag
    · rw [show (s.node.at c.time).tintStaged = false from hstaged, Bool.false_and]
    · rw [beq_eq_false_iff_ne.mpr (show (s.node.at c.time).reg Reg.IMG_TINT_TAG ≠ _ from htag), Bool.and_false]
  refine exec_imageSettles rfl h hdram ?_
  simp only [hheld, Bool.false_eq_true, false_and, or_false, Bool.not_false, true_or]
  rw [if_neg (Nat.not_lt.mpr hmode), if_neg (by exact hfree), if_pos trivial]
  rfl

theorem exec_imgRestart_restarts (h : s.node.takes c 0x0D0A (.secure instImg) 1 = true) (hdram : s.node.dramFailed = false)
    (hpref : arg c 0 ≤ 2) :
    exec (.imgRestart c) s = .next (s.on fun n =>
      ({ n.at c.time with boot := { n.boot with pref := arg c 0 } }.warmIn 1000000 1).completes c sOk []) := by
  refine exec_imageSettles rfl h hdram ?_
  rw [if_neg (Nat.not_lt.mpr hpref)]
  rfl

end

/-! ### The ends of the jobs -/

theorem Node.flashByte_erase (n : Node) (slot a : Nat) : (n.flashErase slot).flashByte a =
    if slot * slotSize ≤ a ∧ a < (slot + 1) * slotSize then 0xFF#8 else n.flashByte a := by
  refine (Sparse.get_filter_key n.mem.flash (fun a => !(decide (slot * slotSize ≤ a) && decide (a < (slot + 1) * slotSize))) a).trans ?_
  by_cases h : slot * slotSize ≤ a ∧ a < (slot + 1) * slotSize
  · rw [if_pos h, if_neg (by simp [h])]
  · rw [if_neg h, if_pos (by rw [not_and_or, not_le, not_lt] at h; simpa using h)]
    rfl

theorem Node.flashByte_program (n : Node) (base : Nat) (bs : List Byte) (a : Nat) : (n.flashProgram base bs).flashByte a =
    if base ≤ a ∧ a < base + bs.length then bs.getD (a - base) 0xFF#8 &&& n.flashByte a else n.flashByte a := by
  change Sparse.get _ (Sparse.putAll _ n.mem.flash base (bs.mapIdx fun i b => b &&& n.flashByte (base + i))) a = _
  by_cases h : base ≤ a ∧ a < base + bs.length
  · obtain ⟨i, rfl⟩ := Nat.exists_eq_add_of_le h.1
    have hi : i < bs.length := by omega
    rw [if_pos h, Sparse.get_putAll _ _ _ _ (by rw [List.length_mapIdx]; exact hi), List.getElem_mapIdx, Nat.add_sub_cancel_left,
      List.getD_eq_getElem _ _ hi]
  · rw [if_neg h, Sparse.get_putAll_out _ _ _ _ (by rw [List.length_mapIdx]; omega)]
    rfl

theorem Node.slotChanged_boot (n : Node) (slot : Nat) : (n.slotChanged slot).boot = n.boot := rfl

theorem Node.slotChanged_flash (n : Node) (slot : Nat) : (n.slotChanged slot).mem.flash = n.mem.flash := rfl

section
variable {s : State} {j : FlashJob} {js : List FlashJob}

theorem flashErase_done (time : Nat) (hjobs : s.node.boot.jobs = j :: js) (hkind : j.kind = 0) :
    ∃ t : State, exec (.flashOperationDone false time) s = .next t ∧ t.node.boot.jobs = js ∧
      (∀ a, t.node.flashByte a =
        if j.slot * slotSize ≤ a ∧ a < (j.slot + 1) * slotSize then 0xFF#8 else s.node.flashByte a) := by
  have hexec : exec (.flashOperationDone false time) s = .next (s.on fun n =>
      (((n.at time).flashErase j.slot).slotChanged j.slot).endJob j sOk []) := by
    refine exec_on_eq rfl ?_
    dsimp only
    rw [show (s.node.at time).boot.jobs.head? = some j from congrArg List.head? hjobs]
    dsimp only
    rw [if_pos hkind]
    rfl
  refine ⟨_, hexec, ?_, fun a => ?_⟩
  · rw [State.on_node, Node.boot_endJob, Node.slotChanged_boot]
    exact congrArg (List.drop 1) hjobs
  · rw [State.on_node, Node.flashByte, Node.flash_endJob, Node.slotChanged_flash]
    exact (s.node.at time).flashByte_erase j.slot a

theorem flashProgram_done (time : Nat) (hjobs : s.node.boot.jobs = j :: js) (hkind : j.kind = 1) :
    ∃ t : State, exec (.flashOperationDone false time) s = .next t ∧ t.node.boot.jobs = js ∧
      (∀ a, t.node.flashByte a =
        if j.slot * slotSize + j.off ≤ a ∧ a < j.slot * slotSize + j.off + j.data.length
        then j.data.getD (a - (j.slot * slotSize + j.off)) 0xFF#8 &&& s.node.flashByte a else s.node.flashByte a) := by
  have hexec : exec (.flashOperationDone false time) s = .next (s.on fun n =>
      (((n.at time).flashProgram (j.slot * slotSize + j.off) j.data).slotChanged j.slot).endJob j sOk []) := by
    refine exec_on_eq rfl ?_
    dsimp only
    rw [show (s.node.at time).boot.jobs.head? = some j from congrArg List.head? hjobs]
    dsimp only
    rw [if_neg (by omega), if_pos hkind]
    rfl
  refine ⟨_, hexec, ?_, fun a => ?_⟩
  · rw [State.on_node, Node.boot_endJob, Node.slotChanged_boot]
    exact congrArg (List.drop 1) hjobs
  · rw [State.on_node, Node.flashByte, Node.flash_endJob, Node.slotChanged_flash]
    exact (s.node.at time).flashByte_program _ _ a

end

/-- What a check of sections leaves of a node: its flash, its boot and the image registers. -/
structure Node.Verifies (n m : Node) : Prop where
  flash : m.mem.flash = n.mem.flash
  boot : m.boot = n.boot
  reg : ∀ a, Reg.IMG_STATE ≤ a → a < Reg.CHK_BUSY → m.reg a = n.reg a

theorem Node.reg_checkMismatch (n : Node) (source stream port ctx : Nat) {a : Nat} (hlo : Reg.IMG_STATE ≤ a) (hhi : a < Reg.CHK_BUSY) :
    (n.checkMismatch source stream port ctx).reg a = n.reg a := by
  simp only [Reg.IMG_STATE, Reg.CHK_BUSY] at hlo hhi
  have hdrop : a ≠ Reg.EVT_DROP := by simp only [Reg.EVT_DROP]; omega
  unfold Node.checkMismatch
  extract_lets m0 m
  have hm : m.reg a = n.reg a := by
    have hcount : m0.reg a = n.reg a := Node.reg_inc_ne _ (by simp only [Reg.CHK_MISMATCH_CNT]; omega)
    simp only [m]
    split
    · exact (Node.reg_setReg_ne _ _ (by simp only [Reg.CHK_SPINE_LAST]; omega)).trans hcount
    · exact (Node.reg_inc_ne _ (by simp only [Reg.CHK_CTX_MISS]; omega)).trans hcount
  split
  · next k c h =>
    have hk : k.reg a = m.reg a := by rw [← Node.reg_occurIn m 0x6901 (if source = 5 then port else 16 + ctx) 1000000, h]
    rw [Node.reg_raise_ne _ _ _ _ hdrop, hk, hm]
  · next k h =>
    rw [← hm, ← Node.reg_occurIn m 0x6901 (if source = 5 then port else 16 + ctx) 1000000, h]

theorem Node.reg_chkOwn_ne (n : Node) (c cfg run : Nat) (found : Option Nat) {a : Nat} (hhi : a < Reg.CHK_BUSY) :
    (n.chkOwn c cfg run found).reg a = n.reg a := by
  have hctx : ∀ k, a ≠ 0x03001000 + c * 0x40 + k := fun k => by simp only [Reg.CHK_BUSY] at hhi; omega
  unfold Node.chkOwn
  extract_lets alg result st m0 m
  have hm0 : m0.reg a = n.reg a := by
    simp only [m0]
    rw [Node.reg_setReg_ne _ _ (by simp only [Reg.CHK_CTX_RESULT]; simp only [Reg.CHK_BUSY] at hhi; omega),
      Node.reg_setReg_ne _ _ (by simp only [Reg.CHK_CTX_RUN]; simp only [Reg.CHK_BUSY] at hhi; omega),
      Node.reg_setReg_ne _ _ (by simp only [Reg.CHK_CTX_CFG]; simp only [Reg.CHK_BUSY] at hhi; omega)]
  rw [Node.reg_setReg_ne _ _ (by simp only [Reg.CHK_CTX_STAT]; simp only [Reg.CHK_BUSY] at hhi; omega), ← hm0]
  simp only [m]
  split
  · exact Node.reg_setReg_ne _ _ (by simp only [Reg.CHK_CTX_EXPECT]; simp only [Reg.CHK_BUSY] at hhi; omega)
  · rfl

theorem Node.verifies_chkImage (n : Node) (body : List Byte) (crc : Nat) : n.Verifies (n.chkImage body crc) := by
  obtain ⟨hmem, hboot, -⟩ := n.checked_chkImage body crc
  refine ⟨congrArg (·.flash) hmem, hboot, fun a hlo hhi => ?_⟩
  unfold Node.chkImage
  extract_lets run m
  obtain ⟨chk, hm⟩ : ∃ chk, m = { n.chkOwn 31 0x3020 run (some crc) with chk := chk } := Node.chkPass_eq_withChk _ _ _ _ _
  have hown : m.reg a = n.reg a := by
    rw [hm]
    exact n.reg_chkOwn_ne 31 0x3020 run (some crc) hhi
  split
  · exact hown
  · rw [Node.reg_checkMismatch _ _ _ _ _ hlo hhi, hown]

theorem Node.verifies_verifyChecks (n : Node) (rd : Reader) : n.Verifies (n.verifyChecks rd) := by
  unfold Node.verifyChecks
  split
  · exact ⟨rfl, rfl, fun _ _ _ => rfl⟩
  · refine List.foldlRecOn (motive := fun m => n.Verifies m) _ _ ⟨rfl, rfl, fun _ _ _ => rfl⟩ fun m hm x _ => ?_
    obtain ⟨hflash, hboot, hreg⟩ := m.verifies_chkImage (sectionBytes rd x) x.crc
    exact ⟨hflash.trans hm.flash, hboot.trans hm.boot, fun a hlo hhi => (hreg a hlo hhi).trans (hm.reg a hlo hhi)⟩

/-- What a verification of a slot shows of it before its command completes. -/
def Node.slotJudged (n : Node) (slot reason : Nat) : Node :=
  (n.slotShow slot).setFld (Reg.IMG_SLOT_STAT slot) Fld.IMG_SLOT_STAT_VALID (b2n (reason == 0))

theorem Node.valid_slotJudged (n : Node) (slot reason : Nat) :
    (n.slotJudged slot reason).fld (Reg.IMG_SLOT_STAT slot) Fld.IMG_SLOT_STAT_VALID = 1 ↔ reason = 0 := by
  rw [Node.slotJudged, Node.fld_setFld_self _ _ _ _ (by decide)]
  by_cases h : reason = 0
  · simp [h, b2n]
  · simp [h, b2n]

/-- The end of a verification, as its result has it. -/
def Node.verifyEnds (n : Node) (j : FlashJob) (reason : Nat) : Node :=
  if reason = 0 then (n.slotJudged j.slot reason).endJob j sOk []
  else ((n.slotJudged j.slot reason).setFld (Reg.IMG_SLOT_STAT j.slot) Fld.IMG_SLOT_STAT_REASON reason).endJob j sArgs [word reason]

theorem Node.verifyEnds_boot (n : Node) (j : FlashJob) (reason : Nat) :
    (n.verifyEnds j reason).boot = { n.boot with jobs := n.boot.jobs.drop 1 } := by
  unfold Node.verifyEnds
  split
  · rw [Node.boot_endJob]
    rfl
  · rw [Node.boot_endJob]
    rfl

theorem Node.verifyEnds_flash (n : Node) (j : FlashJob) (reason : Nat) : (n.verifyEnds j reason).mem.flash = n.mem.flash := by
  unfold Node.verifyEnds
  split
  · rw [Node.flash_endJob]
    rfl
  · rw [Node.flash_endJob]
    rfl

theorem Node.valid_verifyEnds (n : Node) (j : FlashJob) (reason : Nat) (hslot : j.slot < 2) :
    (n.verifyEnds j reason).fld (Reg.IMG_SLOT_STAT j.slot) Fld.IMG_SLOT_STAT_VALID = 1 ↔ reason = 0 := by
  have hbelow : Reg.IMG_SLOT_STAT j.slot < hostBlock := by simp only [Reg.IMG_SLOT_STAT, hostBlock, Reg.HST_CTX_CFG]; omega
  have hother : Reg.IMG_SLOT_STAT j.slot ≠ Reg.MEM_FLASH_STAT := by
    simp only [Reg.IMG_SLOT_STAT, Reg.MEM_FLASH_STAT]
    omega
  rw [← n.valid_slotJudged j.slot reason]
  unfold Node.verifyEnds
  split
  · rw [Node.fld, Node.reg_endJob _ _ _ _ hbelow hother]
    rfl
  · rw [Node.fld, Node.reg_endJob _ _ _ _ hbelow hother, ← Node.fld, Node.fld_setFld_ne _ _ _ _ _ (by decide) (by decide)]

section
variable {s : State} {j : FlashJob} {js : List FlashJob}

theorem imageVerify_done (facts : ImageFacts) (time : Nat) (hjobs : s.node.boot.jobs = j :: js) (hkind : j.kind = 2)
    (hslot : j.slot < 2) :
    ∃ t : State, exec (.imageVerifyDone facts none time) s = .next t ∧ t.node.boot.jobs = js ∧
      (t.node.fld (Reg.IMG_SLOT_STAT j.slot) Fld.IMG_SLOT_STAT_VALID = 1 ↔
        s.node.verifyFault s.otp facts (s.node.slotReader j.slot) = 0) ∧ t.node.mem.flash = s.node.mem.flash := by
  have hexec : exec (.imageVerifyDone facts none time) s = .next (s.on fun n =>
      ((n.at time).verifyChecks (n.slotReader j.slot)).verifyEnds j (n.verifyFault s.otp facts (n.slotReader j.slot))) := by
    refine exec_on_eq rfl ?_
    dsimp only
    rw [show (s.node.at time).boot.jobs.head? = some j from congrArg List.head? hjobs]
    dsimp only
    rw [if_pos hkind, ← Node.verifyFault_at s.node time]
    rfl
  obtain ⟨hflash, hboot, -⟩ := (s.node.at time).verifies_verifyChecks (s.node.slotReader j.slot)
  refine ⟨_, hexec, ?_, ?_, ?_⟩
  · rw [State.on_node, Node.verifyEnds_boot, hboot]
    exact congrArg (List.drop 1) hjobs
  · exact Node.valid_verifyEnds _ _ _ hslot
  · exact (Node.verifyEnds_flash _ _ _).trans hflash

theorem tintStage_done (facts : ImageFacts) (time : Nat) (hjobs : s.node.boot.jobs = j :: js) (hkind : j.kind = 3)
    (hsound : s.node.tintFault s.otp facts (bytesReader j.data) = 0) (hfree : s.node.fld Reg.IMG_TINT_STAT Fld.IMG_TINT_STAT_STATE ≠ 2) :
    ∃ t : State, exec (.imageVerifyDone facts none time) s = .next t ∧ t.node.boot.jobs = js ∧
      t.node.boot.tint = some (tintOf (bytesReader j.data)) ∧
      t.node.fld Reg.IMG_TINT_STAT Fld.IMG_TINT_STAT_STATE = 1 ∧
      t.node.reg Reg.IMG_TINT_TAG = word (imgHead (bytesReader j.data)).tag := by
  obtain ⟨-, hboot, hreg⟩ := (s.node.at time).verifies_verifyChecks (bytesReader j.data)
  have hexec : exec (.imageVerifyDone facts none time) s = .next (s.on fun n =>
      (((n.at time).verifyChecks (bytesReader j.data)).stageTint (tintOf (bytesReader j.data))).endJob j sOk []) := by
    refine exec_on_eq rfl ?_
    have hfree' : ¬ ((s.node.at time).verifyChecks (bytesReader j.data)).fld Reg.IMG_TINT_STAT Fld.IMG_TINT_STAT_STATE = 2 := by
      rw [Node.fld, hreg _ (by decide) (by decide)]
      exact hfree
    dsimp only
    rw [show (s.node.at time).boot.jobs.head? = some j from congrArg List.head? hjobs]
    dsimp only
    rw [if_neg (by omega), if_pos hkind, if_pos ((Node.tintFault_at _ _ _ _ _).trans hsound), if_neg hfree']
  refine ⟨_, hexec, ?_, ?_, ?_, ?_⟩
  · rw [State.on_node, Node.boot_endJob]
    exact congrArg (fun b : BootState => b.jobs.drop 1) hboot |>.trans (congrArg (List.drop 1) hjobs)
  · rw [State.on_node, Node.boot_endJob]
    rfl
  · rw [State.on_node, Node.fld, Node.reg_endJob _ _ _ _ (by decide) (by decide), Node.stageTint, Node.reg_setReg_ne _ _ (by decide),
      Node.reg_setReg_self, Field.get, bitsOf, word_toNat]
    simp only
    omega
  · rw [State.on_node, Node.reg_endJob _ _ _ _ (by decide) (by decide), Node.stageTint, Node.reg_setReg_self]
    rfl

end

/-- Settles O24. -/
theorem imageCommandsAndJobsAct : Obligations.ImageCommandsAndJobsAct := by
  refine ⟨fun s c => ⟨fun h => exec_settles rfl rfl h rfl, exec_imgSlotErase_starts,
    fun h hdram bs hslot hfits hsource hfree => exec_imgSlotWrite_starts h hdram hslot hfits hsource hfree,
    exec_imgSlotVerify_starts, exec_imgSlotMarkBad_marks, fun hbad => ⟨fun h => ?_, fun h => ?_, fun h => ?_⟩,
    fun h hdram bs hsource hfree => exec_imgTintStage_starts h hdram hsource hfree, exec_imgTintDiscard_discards,
    exec_imgTintCommit_asks, exec_imgRestart_restarts,
    fun h hdram hmode _ hfree hother => exec_imgTintCommit_notStaged h hdram hmode hfree hother⟩,
    fun s time j js hjobs => ⟨flashErase_done time hjobs, flashProgram_done time hjobs,
      fun facts hkind hslot => imageVerify_done facts time hjobs hkind hslot,
      fun facts hkind hsound hfree => tintStage_done facts time hjobs hkind hsound hfree⟩⟩
  · exact exec_imageRejects rfl h (if_pos hbad)
  · exact exec_imageRejects rfl h (if_pos hbad)
  · exact exec_imageRejects rfl h (if_pos hbad)

end Sys2Proof.Machine
end

section
/-! PROOF. The image that has passed every check is applied (R122). -/

namespace Sys2Proof.Machine

/-! ### What stands while an image is applied -/

section
variable (n : Node)

theorem Node.boot_holdPorts : n.holdPorts.boot = n.boot := by
  refine foldl_keeps (fun m : Node => m.boot) _ _ n fun m p => ?_
  dsimp only
  split
  · split <;> rfl
  · split <;> rfl

theorem Node.boot_imageDomains : n.imageDomains.boot = n.boot :=
  foldl_keeps (fun m : Node => m.boot) _ _ n fun _ _ => Node.setBit_boot _ _ _ _

theorem Node.boot_startEngines (mask : Nat) : (n.startEngines mask).boot = n.boot := rfl

theorem Node.boot_jrnSeal (i : Nat) : (n.jrnSeal i).boot = n.boot := by
  obtain ⟨_, _, h⟩ := n.jrnSeal_eq_withSealed i
  rw [h]
  rfl

theorem Node.boot_jrnMarkCorrupt (i : Nat) : (n.jrnMarkCorrupt i).boot = n.boot := by
  unfold Node.jrnMarkCorrupt
  rw [Node.raise_boot, Node.boot_jrnSeal, Node.inc_boot, Node.setBit_boot]

theorem Node.boot_syncJrn (c : Nat) : (n.syncJrn c).boot = n.boot := by
  unfold Node.syncJrn
  dsimp only
  split
  · rw [Node.setReg_boot, Node.setReg_boot]
  · rw [Node.setReg_boot, Node.setReg_boot]

/-- An entry of the journal at the boot of an image (R654, R657). -/
def Node.bootEntry (k : Node) (i : Nat) : Node :=
  if !k.jrnValid i then k
  else if k.bit (Reg.JRN_ENTRY i + 12) 18 then (k.setBit (Reg.JRN_ENTRY i + 12) 16 false).jrnSeal i
  else
    let k := if k.jrnWord i 15 = k.jrnCheck i then k else k.jrnMarkCorrupt i
    if k.jrnOutcome i = 0xFE then (k.setBits (Reg.JRN_ENTRY i + 4) 24 8 0xFF).jrnSeal i else k

theorem Node.boot_bootEntry (i : Nat) : (n.bootEntry i).boot = n.boot := by
  unfold Node.bootEntry
  split
  · rfl
  split
  · rw [Node.boot_jrnSeal, Node.setBit_boot]
  have hmark : (if n.jrnWord i 15 = n.jrnCheck i then n else n.jrnMarkCorrupt i).boot = n.boot := by
    split
    · rfl
    · exact Node.boot_jrnMarkCorrupt _ _
  generalize (if n.jrnWord i 15 = n.jrnCheck i then n else n.jrnMarkCorrupt i) = k at hmark ⊢
  dsimp only
  split
  · rw [Node.boot_jrnSeal, Node.setBits_boot, hmark]
  · exact hmark

/-- The shares that the waiting state has put away come back. -/
def Node.sharesBack (n : Node) : Node :=
  if n.boot.away.isEmpty then n
  else { n with host := { n.host with shares := n.boot.away }, boot := { n.boot with away := [] } }

theorem Node.slot_sharesBack : n.sharesBack.boot.slot = n.boot.slot := by
  unfold Node.sharesBack
  split <;> rfl

/-- The journal cleared for another layout of shares. -/
def Node.journalCleared (k : Node) : Node :=
  let k := (List.range 8).foldl (fun k c => k.setReg (Reg.JRN_CTX_ACK c) 0#32) (k.clearRegs (Reg.JRN_ENTRY 0) (Reg.JRN_ENTRY 8192))
  { k with host := { k.host with shares := List.replicate 8 ⟨0, 0⟩ } }

theorem Node.boot_journalCleared : n.journalCleared.boot = n.boot :=
  (foldl_keeps (fun k : Node => k.boot) _ _ (n.clearRegs _ _) fun _ _ => Node.setReg_boot _ _ _).trans rfl

/-- The journal of a node whose shares are laid out as before, or otherwise. -/
def Node.journalBoots (k : Node) (same : Bool) : Node :=
  if same then (List.range 8192).foldl Node.bootEntry k
  else if k.host.layout.isEmpty then k.journalCleared else k.journalCleared.raise 0x7008 0 0

theorem Node.boot_journalBoots (same : Bool) : (n.journalBoots same).boot = n.boot := by
  unfold Node.journalBoots
  split
  · exact foldl_keeps (fun k : Node => k.boot) _ Node.bootEntry n fun k i => k.boot_bootEntry i
  · split
    · exact n.boot_journalCleared
    · rw [Node.raise_boot, Node.boot_journalCleared]

/-- The layout of the shares that the node has from now on. -/
def Node.withLayout (n : Node) (layout : List Nat) : Node := { n with host := { n.host with layout := layout } }

theorem Node.bootJournal_eq : n.bootJournal =
    let m := n.sharesBack
    let layout := (List.range 8).map fun c => (m.reg (Reg.JRN_CTX_SIZE c)).toNat
    let same := m.host.layout == layout
    (List.range 8).foldl (fun k c => k.syncJrn c)
      (((m.setReg Reg.JRN_CFG (word (layout.foldl (· + ·) 0 + b2n same * 65536))).journalBoots same).withLayout layout) := (rfl)

theorem Node.slot_bootJournal : n.bootJournal.boot.slot = n.boot.slot := by
  rw [Node.bootJournal_eq]
  dsimp only
  rw [foldl_keeps (fun k : Node => k.boot) (List.range 8) (fun k c => k.syncJrn c) _ fun k c => k.boot_syncJrn c]
  rw [Node.withLayout, Node.boot_journalBoots, Node.setReg_boot, Node.slot_sharesBack]

theorem Node.boot_syncLib : n.syncLib.boot = n.boot := by
  unfold Node.syncLib
  rw [Node.setReg_boot, Node.setReg_boot]

theorem Node.boot_keepRegions : n.keepRegions.boot = n.boot := by
  unfold Node.keepRegions
  split
  · split
    · rw [Node.boot_syncLib, Node.setFld_boot]
    · rfl
  · rfl

theorem Node.boot_bootToken : n.bootToken.boot = n.boot := by
  unfold Node.bootToken
  dsimp only
  split <;> rfl

/-- The loads of the image that is chosen. -/
def Node.imageLoaded (n : Node) (f : ImageFacts) : Node :=
  ((imgRecords (n.slotReader n.boot.slot)).bind fun l => n.loadSections f l).getD n

/-- The SerDes PLLs of the ports that the image uses. -/
def Node.pllsOn (n : Node) : Node :=
  (List.range 13).foldl (fun k p => k.setBit Reg.PCR_PLL_STAT (6 + p)
    (if p < 12 then k.fld (Reg.SPN_IFTYPE p) Fld.SPN_IFTYPE_TYPE != 0 else k.paired)) n

/-- The image that is loaded runs: ports, domains, engines, journal, memory and clocks. -/
def Node.imageStarts (n : Node) (f : ImageFacts) : Node :=
  (((n.holdPorts.imageDomains.startEngines f.engines).bootJournal).keepRegions).pllsOn

/-- A boot that is over. -/
def Node.bootDone (n : Node) : Node := { n with boot := { n.boot with phase := 3 } }

theorem Node.reg_bootDone (a : Nat) : n.bootDone.reg a = n.reg a := rfl

theorem Node.phase_bootDone : n.bootDone.boot.phase = 3 := rfl

theorem Node.boot_setSt (v : Nat) : (n.setSt v).boot = n.boot := by
  obtain ⟨_, _, _, _, h⟩ := n.setSt_stores v
  rw [h]

theorem Node.applyImage_eq (f : ImageFacts) : n.applyImage f =
    let m := (n.imageLoaded f).imageStarts f
    ((((m.bootToken.showImage.reserve.syncRec).setFld Reg.INA_STATE Fld.INA_STATE_INTEROP
      (m.fld Reg.INA_CFG Fld.INA_CFG_INTEROP)).bootDone).setSt stLink).bootEvents := (rfl)

theorem Node.slot_imageLoaded (f : ImageFacts) : (n.imageLoaded f).boot.slot = n.boot.slot := by
  unfold Node.imageLoaded
  cases hl : (imgRecords (n.slotReader n.boot.slot)).bind fun l => n.loadSections f l with
  | none => rfl
  | some m =>
    obtain ⟨l, -, hm⟩ := Option.bind_eq_some_iff.mp hl
    exact Node.slot_loadSections hm

theorem Node.boot_pllsOn : n.pllsOn.boot = n.boot := foldl_keeps (fun m : Node => m.boot) _ _ n fun _ _ => Node.setBit_boot _ _ _ _

theorem Node.slot_imageStarts (f : ImageFacts) : (n.imageStarts f).boot.slot = n.boot.slot := by
  unfold Node.imageStarts
  rw [Node.boot_pllsOn, Node.boot_keepRegions, Node.slot_bootJournal, Node.boot_startEngines, Node.boot_imageDomains, Node.boot_holdPorts]

/-! ### What shows afterwards -/

theorem Node.reg_showImage : ∃ b, n.showImage.reg Reg.IMG_STATE = word (2 + n.boot.slot * 16 + b * 32) := by
  unfold Node.showImage
  dsimp only
  rw [Node.reg_setReg_ne _ _ (by decide), Node.reg_setBit_ne _ _ _ (by decide), Node.reg_setReg_ne _ _ (by decide),
    Node.reg_setReg_ne _ _ (by decide), Node.reg_setReg_self]
  refine ⟨b2n n.boot.failed.isSome + b2n n.boot.usedPref * 2 + (imgHead (n.slotReader n.boot.slot)).flags % 2 * 4,
    congrArg word ?_⟩
  omega

theorem Node.reg_reserve_syncRec : n.reserve.syncRec.reg Reg.IMG_STATE = n.reg Reg.IMG_STATE := by
  unfold Node.reserve Node.syncRec
  dsimp only
  rw [Node.reg_setReg_ne _ _ (by decide), Node.reg_setReg_ne _ _ (by decide), Node.reg_setReg_ne _ _ (by decide),
    Node.reg_setReg_ne _ _ (by decide), Node.reg_setReg_ne _ _ (by decide), Node.reg_setReg_ne _ _ (by decide)]

end

/-- What the reports of a boot leave: the boot, and the registers but the count of dropped events and what the PHY scripts show. -/
structure Node.BootReports (n m : Node) : Prop where
  boot : m.boot = n.boot
  reg : ∀ a, a ≠ Reg.EVT_DROP → (∀ k, a ≠ Reg.SPN_MDIO_STAT k) → m.reg a = n.reg a

namespace Node.BootReports

theorem refl (n : Node) : n.BootReports n := ⟨rfl, fun _ _ _ => rfl⟩

theorem trans {n m k : Node} (h : n.BootReports m) (h' : m.BootReports k) : n.BootReports k :=
  ⟨h'.boot.trans h.boot, fun a hdrop ha => (h'.reg a hdrop ha).trans (h.reg a hdrop ha)⟩

theorem raise (n : Node) (code d0 d1 : Nat) : n.BootReports (n.raise code d0 d1) :=
  ⟨Node.raise_boot _ _ _ _, fun _ hdrop _ => Node.reg_raise_ne _ _ _ _ hdrop⟩

theorem raiseIf (n : Node) (c : Prop) [Decidable c] (code d0 d1 : Nat) : n.BootReports (if c then n.raise code d0 d1 else n) := by
  split
  · exact raise _ _ _ _
  · exact refl n

theorem startScript (n : Node) (ws : List MdioWrite) : n.BootReports (n.startScript ws) := by
  unfold Node.startScript
  refine ⟨?_, fun a _ ha => ?_⟩
  · refine (foldl_keeps (fun m : Node => m.boot) ws _ _ fun m w => ?_).trans rfl
    rw [Node.setBit_boot, Node.setBit_boot]
  · refine (foldl_keeps (fun m : Node => m.reg a) ws _ _ fun m w => ?_).trans rfl
    rw [Node.reg_setBit_ne _ _ _ (ha _), Node.reg_setBit_ne _ _ _ (ha _)]

theorem bootEvents (n : Node) : n.BootReports n.bootEvents := by
  unfold Node.bootEvents Node.resetRecorded
  extract_lets failed reported woken front rear
  have hfailed : n.BootReports failed := by
    dsimp only [failed]
    split
    · exact raise _ _ _ _
    · exact refl n
  have hreported : n.BootReports reported := (hfailed.trans (raise _ _ _ _)).trans (raise _ _ _ _)
  split
  · exact hreported
  · exact (((hreported.trans (raise _ _ _ _)).trans (raiseIf woken _ _ _ _)).trans (raiseIf front _ _ _ _)).trans (startScript _ _)

end Node.BootReports

/-- An image that has passed every check runs after it is applied. -/
theorem Node.applyImage_runs (n : Node) (f : ImageFacts) (hslot : n.boot.slot < 2) :
    (n.applyImage f).st = stLink ∧ (n.applyImage f).boot.phase = 3 ∧
      (n.applyImage f).fld Reg.IMG_STATE Fld.IMG_STATE_STATE = 2 ∧ (n.applyImage f).fld Reg.IMG_STATE Fld.IMG_STATE_SLOT = n.boot.slot := by
  rw [Node.applyImage_eq]
  dsimp only
  generalize hm : (n.imageLoaded f).imageStarts f = m
  have hmslot : m.bootToken.boot.slot = n.boot.slot := by
    rw [Node.boot_bootToken, ← hm, Node.slot_imageStarts, Node.slot_imageLoaded]
  obtain ⟨b, hshow⟩ := m.bootToken.reg_showImage
  generalize hk : (m.bootToken.showImage.reserve.syncRec).setFld Reg.INA_STATE Fld.INA_STATE_INTEROP
    (m.fld Reg.INA_CFG Fld.INA_CFG_INTEROP) = k
  have hreg : k.reg Reg.IMG_STATE = word (2 + n.boot.slot * 16 + b * 32) := by
    rw [← hk, Node.reg_setFld_ne _ _ _ (by decide), Node.reg_reserve_syncRec, hshow, hmslot]
  have hreports := Node.BootReports.bootEvents (k.bootDone.setSt stLink)
  have hstate : ((k.bootDone.setSt stLink).bootEvents).reg Reg.IMG_STATE = word (2 + n.boot.slot * 16 + b * 32) := by
    rw [hreports.reg _ (by decide) (fun i => by simp only [Reg.IMG_STATE, Reg.SPN_MDIO_STAT]; omega),
      Node.reg_setSt _ _ (by decide) (by decide) (by decide),
      Node.reg_bootDone, hreg]
  refine ⟨?_, ?_, ?_, ?_⟩
  · rw [Node.st, Node.fld, hreports.reg _ (by decide) (fun i => by simp only [Reg.INA_STATE, Reg.SPN_MDIO_STAT]; omega)]
    rw [← Node.fld, ← Node.st, Node.st_setSt _ (by decide)]
  · rw [hreports.boot, Node.boot_setSt, Node.phase_bootDone]
  · rw [Node.fld, hstate, Field.get, word_toNat]
    show (2 + n.boot.slot * 16 + b * 32) % 2 ^ 32 / 2 ^ 0 % 2 ^ 2 = 2
    omega
  · rw [Node.fld, hstate, Field.get, word_toNat]
    show (2 + n.boot.slot * 16 + b * 32) % 2 ^ 32 / 2 ^ 4 % 2 ^ 1 = n.boot.slot
    omega

theorem imageBooted_runs {s : State} {time : Nat} {f : ImageFacts} (hphase : s.node.boot.phase = 2) (hfacts : s.node.boot.facts = some f)
    (hslot : s.node.boot.slot < 2) (hsc0 : s.node.boot.engDown.contains 0 = false) :
    ∃ t : State, exec (.imageBooted time) s = .next t ∧ t.node.st = stLink ∧ t.node.boot.phase = 3 ∧
      t.node.fld Reg.IMG_STATE Fld.IMG_STATE_STATE = 2 ∧ t.node.fld Reg.IMG_STATE Fld.IMG_STATE_SLOT = s.node.boot.slot := by
  have hfacts' : (s.node.at time).boot.facts = some f := hfacts
  refine ⟨s.on fun n => (n.at time).applyImage f, exec_on_eq rfl ((if_pos ⟨hphase, (Bool.not_eq_true' _).mpr hsc0⟩).trans ?_),
    (s.node.at time).applyImage_runs f hslot⟩
  rw [hfacts']

theorem imageCheckPoint_passes {s : State} (facts : ImageFacts) (time : Nat) {x : ImgSection} (hphase : s.node.boot.phase = 1)
    (hbist : s.node.boot.bist = 0) (hsc0 : s.node.boot.engDown.contains 0 = false)
    (hdram : s.node.fld Reg.MEM_STAT Fld.MEM_STAT_STATE = 2)
    (hx : (imgDir (s.node.slotReader s.node.boot.slot) (imgHead (s.node.slotReader s.node.boot.slot)).count)[s.node.boot.point]? = some x)
    (hcrc : crcOk (s.node.slotReader s.node.boot.slot) x = true) :
    exec (.imageCheckPoint facts [] none time) s = .next (s.on fun n =>
      let k := (n.at time).chkImage (sectionBytes (n.slotReader n.boot.slot) x) x.crc
      { k with boot := { k.boot with point := n.boot.point + 1 } }) := by
  refine exec_on_eq (exec_imageCheckPoint_judged facts time hphase hbist hsc0 hdram hx) ?_
  obtain ⟨-, hboot, -⟩ := (s.node.at time).checked_chkImage (sectionBytes (s.node.slotReader s.node.boot.slot) x) x.crc
  rw [if_pos hcrc, Node.pointPassed]
  dsimp only
  rw [hboot, Node.at_boot]

/-- Settles O23. -/
theorem imagesAreChosenCheckedAndRun : Obligations.ImagesAreChosenCheckedAndRun := by
  unfold Obligations.ImagesAreChosenCheckedAndRun
  refine ⟨?_, ?_, ?_, ?_⟩
  · intro s flash strap time hphase hsleep hkind hbist hstrap hsfdp hbusA hbusB hpref htried hreasons hattempts hhead0 hhead1 hbad0 hbad1
    exact resetRelease_chooses time hphase hsleep hkind hbist hstrap hsfdp hbusA hbusB hpref htried hreasons hattempts hhead0 hhead1
      hbad0 hbad1
  · intro s facts time x hphase hbist hsc0 hdram hslot htried hx
    exact ⟨fun hcrc => imageCheckPoint_passes facts time hphase hbist hsc0 hdram hx hcrc,
      fun hcrc hroom _ => imageCheckPoint_fails facts time hphase hbist hsc0 hdram hslot htried hx hcrc hroom⟩
  · exact fun s time f hphase hfacts hslot hsc0 => imageBooted_runs hphase hfacts hslot hsc0
  · exact fun s time hphase hlong hlen => bootAttemptClear_zero hphase hlong hlen

end Sys2Proof.Machine
end
